-- ==== Sys2Proof/Word.lean ====
section
/-! DEFINITION. The word and vector types (R2 to R5, R68). -/
namespace Sys2Proof

/-- A 32-bit word: an instruction word, or a scalar register. -/
abbrev Word := BitVec 32

/-- A 256-bit vector register (R68). -/
abbrev Vec := BitVec 256

/-- A byte of memory. -/
abbrev Byte := BitVec 8

/-- A 57-bit generic address (R113). -/
abbrev Addr := BitVec 57

end Sys2Proof
end

