-- ==== Sys2Proof/Syntax.lean ====
section
/-! DEFINITION. The instructions and events of the Clatar K9 (spec/opcode_table.json): one constructor per row.
A strand instruction carries the fields of its word as the table names them (d, a, b registers; l the lookahead field la;
i an immediate; k a small index; s the sense or SIZE, p a predicate, q ORDER, c SCOPE, h HINT of R158), preceded by what its
prefix words supply: `mk` the MSK prefix (R163) and `x` the 25 bits of the IMM prefix (R162), each `none` when absent.
An event has no encoding; its operands name the acting unit and carry what comes from outside the device. -/
namespace Sys2Proof

/-- The MSK prefix (R158, R163): sense in bit 3, predicate in bits [2:0]. -/
structure Msk where
  sense : BitVec 1
  pred : BitVec 3
  deriving DecidableEq, Repr

/-- The rows of the opcode table. -/
inductive Instr where
  /-- POWER_ON_RESET (R8). -/
  | powerOnReset
  /-- WARM_RESET (R8). -/
  | warmReset
  /-- POWER_SAMPLE (R20). -/
  | powerSample (mw : Nat)
  /-- DRAM_REFRESH (R21). -/
  | dramRefresh (die chan : Nat)
  /-- DH_TRAIN (R23). -/
  | dhTrain (m n : Nat) (v : BitVec 64)
  /-- DH_TRAIN_DONE (R23). -/
  | dhTrainDone (n : Nat) (ok : Bool)
  /-- DH_ENABLE (R23). -/
  | dhEnable (m n : Nat) (v : BitVec 64)
  /-- DH_FRAME_START (R23). -/
  | dhFrameStart (n : Nat)
  /-- HG_HTAIL (R59). -/
  | hgHtail (m : Nat) (v : BitVec 64)
  /-- TASK_ACCEPTANCE (R52). -/
  | taskAcceptance
  /-- AGING_STEP (R54). -/
  | agingStep
  /-- EVMIN_RESERVATION (R54). -/
  | evminReservation
  /-- TASK_DISPATCH (R54). -/
  | taskDispatch
  /-- BUNDLE_PLACEMENT (R56). -/
  | bundlePlacement (die : Nat)
  /-- FAST_PATH_PLACEMENT (R63). -/
  | fastPathPlacement (die : Nat)
  /-- STEAL_REQUEST (R57). -/
  | stealRequest (die : Nat)
  /-- BUNDLE_EVICTION (R43). -/
  | bundleEviction (h : Nat)
  /-- BUNDLE_RESTORE (R45). -/
  | bundleRestore (h die core : Nat)
  /-- WORK_QUEUE_TAIL_OBSERVE (R59). -/
  | workQueueTailObserve (q : Nat)
  /-- WORK_QUEUE_LAUNCH (R62). -/
  | workQueueLaunch (q : Nat)
  /-- TASK_COMPLETION (R38). -/
  | taskCompletion (key : Nat)
  /-- FRAME_TOKEN (R65). -/
  | frameToken (key : Nat)
  /-- TRACE_START (R316). -/
  | traceStart (key : Nat)
  /-- TRACE_STOP (R317). -/
  | traceStop (key : Nat)
  /-- HG_POLICY (R60). -/
  | hgPolicy (m : Nat) (v : BitVec 64)
  /-- HG_QTCOUNT (R308). -/
  | hgQtcount (m : Nat) (v : BitVec 64)
  /-- HG_FKILL (R351). -/
  | hgFkill (m : Nat) (v : BitVec 64)
  /-- BACKWATER_FULL_REPORT (R353). -/
  | backwaterFullReport
  /-- HOST_IRQ (R303). -/
  | hostIrq (m : Nat) (v : BitVec 64)
  /-- MST_OWN (R305). -/
  | mstOwn (m : Nat) (v : BitVec 64)
  /-- REGISTER_WRITE (R7). -/
  | registerWrite (m : Nat) (addr : BitVec 48) (v : BitVec 64)
  /-- HOST_MEMORY_WRITE (R151). -/
  | hostMemoryWrite (addr : BitVec 48) (bytes : List (BitVec 8))
  /-- HOST_MEMORY_READ (R302). -/
  | hostMemoryRead (addr : BitVec 48) (n : Nat)
  /-- HOST_ATOMIC (R146). -/
  | hostAtomic (op : Nat) (addr : BitVec 48) (width : Nat) (x y : BitVec 128)
  /-- LINE_LEASE_EXPIRY (R124). -/
  | lineLeaseExpiry (cache line : Nat)
  /-- CROSS_DIE_WRITE_APPLY (R149). -/
  | crossDieWriteApply (id : Nat)
  /-- WRITE_ACKNOWLEDGE (R148). -/
  | writeAcknowledge (id : Nat)
  /-- READ_REQUEST_SERVE (R149). -/
  | readRequestServe (id : Nat) (data : BitVec 256)
  /-- LOAD_DATA_RETURN (R89). -/
  | loadDataReturn (die core slot n : Nat)
  /-- WALK_COMPLETE (R133). -/
  | walkComplete (die pdom page : Nat)
  /-- UNCORRECTABLE_MEMORY_ERROR (R372). -/
  | uncorrectableMemoryError (atom : BitVec 48) (dirtyL2 : Bool)
  /-- SCRATCHPAD_SOFT_ERROR (R373). -/
  | scratchpadSoftError (die core what off : Nat)
  /-- ACK_OVERDUE (R378). -/
  | ackOverdue (id : Nat)
  /-- WATCH_TIMEOUT (R223). -/
  | watchTimeout (die core slot : Nat)
  /-- STRAND_WAKE (R41). -/
  | strandWake (die core slot : Nat)
  /-- RWR_DEPOSIT (R77). -/
  | rwrDeposit (id : Nat)
  /-- MAILBOX_ACCEPT (R118). -/
  | mailboxAccept (id bit : Nat)
  /-- MX_MMA (R241). -/
  | mxMma (die core : Nat)
  /-- MX_MMAC (R241). -/
  | mxMmac (die core : Nat)
  /-- SSB_SCAN (R245). -/
  | ssbScan (die core : Nat)
  /-- CE_COPY (R252). -/
  | ceCopy (die core : Nat)
  /-- QE_QUANT (R254). -/
  | qeQuant (die cluster : Nat)
  /-- ENGINE_COMMAND_COMPLETE (R239). -/
  | engineCommandComplete (die unit eng : Nat)
  /-- ENGCTL_RESUME (R381). -/
  | engctlResume (die core : Nat) (v : BitVec 32)
  /-- ENGCTL_ABANDON (R381). -/
  | engctlAbandon (die core : Nat) (v : BitVec 32)
  /-- MXRING_TAIL_OBSERVE (R243). -/
  | mxringTailObserve (die core : Nat)
  /-- WEIR_ADMIT (R258). -/
  | weirAdmit (id : Nat)
  /-- FLUME_RASTER (R262). -/
  | flumeRaster (id : Nat)
  /-- FLUME_DEPTH (R262). -/
  | flumeDepth (id : Nat)
  /-- FLUME_BLEND (R262). -/
  | flumeBlend (id : Nat)
  /-- FLUME_TESSELLATOR (R264). -/
  | flumeTessellator (id : Nat)
  /-- FLUME_TEXTURE_FILTER (R263). -/
  | flumeTextureFilter (id : Nat)
  /-- FLUME_TRAVERSAL (R267). -/
  | flumeTraversal (id : Nat)
  /-- FLUME_REPROJECTION (R270). -/
  | flumeReprojection (id : Nat)
  /-- FLUME_SIEVE (R269). -/
  | flumeSieve (id : Nat)
  /-- SIEVE_AGE_FLUSH (R269). -/
  | sieveAgeFlush (bucket : Nat)
  /-- QUEUE_ROOM_RESUME (R271). -/
  | queueRoomResume (id : Nat)
  /-- ORDER_DOMAIN_ADVANCE (R260). -/
  | orderDomainAdvance (n : Nat)
  /-- TRAVERSAL_TASK (R267). -/
  | traversalTask (key : Nat)
  /-- FL_DOM (R385). -/
  | flDom (m n : Nat) (v : BitVec 64)
  /-- PAIR (R306). -/
  | pair (w : List (BitVec 32))
  /-- PAIR_ACK (R311). -/
  | pairAck (w : List (BitVec 32))
  /-- MIGRATE (R311). -/
  | migrate (w : List (BitVec 32))
  /-- MIGRATE_DONE (R311). -/
  | migrateDone (w : List (BitVec 32))
  /-- MOVE (R135). -/
  | move (w : List (BitVec 32))
  /-- MOVE_DATA (R135). -/
  | moveData (w : List (BitVec 32)) (bytes : List (BitVec 8)) (marks : List Nat)
  /-- STEP_ACK (R389). -/
  | stepAck (w : List (BitVec 32))
  /-- RELEASE (R306). -/
  | release (w : List (BitVec 32))
  /-- CISTERN_STEP (R312). -/
  | cisternStep
  /-- COMPANION_SURPRISE_DOWN (R387). -/
  | companionSurpriseDown
  /-- COMPANION_UNRESPONSIVE (R386). -/
  | companionUnresponsive
  /-- AZ_RETRAIN (R386). -/
  | azRetrain (m : Nat) (v : BitVec 64)
  /-- AZ_CLRPART (R375). -/
  | azClrpart (m : Nat) (v : BitVec 64)
  /-- PART_CLEAR_DONE (R375). -/
  | partClearDone
  /-- HOST_LINK_DOWN (R392). -/
  | hostLinkDown
  /-- I3C_TARGET_RESET (R392). -/
  | i3cTargetReset
  /-- MG_DBG (R319). -/
  | mgDbg (m : Nat) (v : BitVec 64)
  /-- MG_PWR_REQ (R326). -/
  | mgPwrReq (m : Nat) (v : BitVec 64)
  /-- RETENTION_ENTRY (R326). -/
  | retentionEntry
  /-- IDLE_ENTRY (R326). -/
  | idleEntry
  /-- MG_HALT (R323). -/
  | mgHalt (m : Nat) (v : BitVec 64)
  /-- MG_HALT_RESUME (R323). -/
  | mgHaltResume (m : Nat) (v : BitVec 64)
  /-- BLOB_TRANSITION (R325). -/
  | blobTransition (bytes : List (BitVec 8)) (sigOk : Bool)
  /-- BLOB_CONFIGURATION (R394). -/
  | blobConfiguration (bytes : List (BitVec 8)) (sigOk : Bool)
  /-- CONTEXT_CAPTURE (R47). -/
  | contextCapture (kind : Nat) (id : Nat)
  /-- TASK_END (R397). -/
  | taskEnd (key : Nat)
  /-- DUMP_WRITE (R399). -/
  | dumpWrite (key : Nat)
  /-- SALU_ADD (R175). -/
  | saluAdd (d : BitVec 7) (a : BitVec 7) (b : BitVec 7)
  /-- SALU_SUB (R175). -/
  | saluSub (d : BitVec 7) (a : BitVec 7) (b : BitVec 7)
  /-- SALU_MUL (R175). -/
  | saluMul (d : BitVec 7) (a : BitVec 7) (b : BitVec 7)
  /-- SALU_MULHS (R175). -/
  | saluMulhs (d : BitVec 7) (a : BitVec 7) (b : BitVec 7)
  /-- SALU_MULHU (R175). -/
  | saluMulhu (d : BitVec 7) (a : BitVec 7) (b : BitVec 7)
  /-- SALU_AND (R175). -/
  | saluAnd (d : BitVec 7) (a : BitVec 7) (b : BitVec 7)
  /-- SALU_OR (R175). -/
  | saluOr (d : BitVec 7) (a : BitVec 7) (b : BitVec 7)
  /-- SALU_XOR (R175). -/
  | saluXor (d : BitVec 7) (a : BitVec 7) (b : BitVec 7)
  /-- SALU_SHL (R175). -/
  | saluShl (d : BitVec 7) (a : BitVec 7) (b : BitVec 7)
  /-- SALU_SHR (R175). -/
  | saluShr (d : BitVec 7) (a : BitVec 7) (b : BitVec 7)
  /-- SALU_SAR (R175). -/
  | saluSar (d : BitVec 7) (a : BitVec 7) (b : BitVec 7)
  /-- SALU_MIN (R175). -/
  | saluMin (d : BitVec 7) (a : BitVec 7) (b : BitVec 7)
  /-- SALU_MAX (R175). -/
  | saluMax (d : BitVec 7) (a : BitVec 7) (b : BitVec 7)
  /-- SALU_MINU (R175). -/
  | saluMinu (d : BitVec 7) (a : BitVec 7) (b : BitVec 7)
  /-- SALU_MAXU (R175). -/
  | saluMaxu (d : BitVec 7) (a : BitVec 7) (b : BitVec 7)
  /-- SALU_SLT (R175). -/
  | saluSlt (d : BitVec 7) (a : BitVec 7) (b : BitVec 7)
  /-- SALUI_ADD (R176). -/
  | saluiAdd (x : Option (BitVec 25)) (d : BitVec 7) (a : BitVec 7) (i : BitVec 7)
  /-- SALUI_SUB (R176). -/
  | saluiSub (x : Option (BitVec 25)) (d : BitVec 7) (a : BitVec 7) (i : BitVec 7)
  /-- SALUI_MUL (R176). -/
  | saluiMul (x : Option (BitVec 25)) (d : BitVec 7) (a : BitVec 7) (i : BitVec 7)
  /-- SALUI_MULHS (R176). -/
  | saluiMulhs (x : Option (BitVec 25)) (d : BitVec 7) (a : BitVec 7) (i : BitVec 7)
  /-- SALUI_MULHU (R176). -/
  | saluiMulhu (x : Option (BitVec 25)) (d : BitVec 7) (a : BitVec 7) (i : BitVec 7)
  /-- SALUI_AND (R176). -/
  | saluiAnd (x : Option (BitVec 25)) (d : BitVec 7) (a : BitVec 7) (i : BitVec 7)
  /-- SALUI_OR (R176). -/
  | saluiOr (x : Option (BitVec 25)) (d : BitVec 7) (a : BitVec 7) (i : BitVec 7)
  /-- SALUI_XOR (R176). -/
  | saluiXor (x : Option (BitVec 25)) (d : BitVec 7) (a : BitVec 7) (i : BitVec 7)
  /-- SALUI_SHL (R176). -/
  | saluiShl (x : Option (BitVec 25)) (d : BitVec 7) (a : BitVec 7) (i : BitVec 7)
  /-- SALUI_SHR (R176). -/
  | saluiShr (x : Option (BitVec 25)) (d : BitVec 7) (a : BitVec 7) (i : BitVec 7)
  /-- SALUI_SAR (R176). -/
  | saluiSar (x : Option (BitVec 25)) (d : BitVec 7) (a : BitVec 7) (i : BitVec 7)
  /-- SALUI_MIN (R176). -/
  | saluiMin (x : Option (BitVec 25)) (d : BitVec 7) (a : BitVec 7) (i : BitVec 7)
  /-- SALUI_MAX (R176). -/
  | saluiMax (x : Option (BitVec 25)) (d : BitVec 7) (a : BitVec 7) (i : BitVec 7)
  /-- SALUI_MINU (R176). -/
  | saluiMinu (x : Option (BitVec 25)) (d : BitVec 7) (a : BitVec 7) (i : BitVec 7)
  /-- SALUI_MAXU (R176). -/
  | saluiMaxu (x : Option (BitVec 25)) (d : BitVec 7) (a : BitVec 7) (i : BitVec 7)
  /-- SALUI_SLT (R176). -/
  | saluiSlt (x : Option (BitVec 25)) (d : BitVec 7) (a : BitVec 7) (i : BitVec 7)
  /-- LI (R177). -/
  | li (x : Option (BitVec 25)) (d : BitVec 7) (i : BitVec 14)
  /-- LIH (R177). -/
  | lih (d : BitVec 7) (i : BitVec 14)
  /-- SBIT_POPC (R178). -/
  | sbitPopc (d : BitVec 7) (a : BitVec 7)
  /-- SBIT_CLZ (R178). -/
  | sbitClz (d : BitVec 7) (a : BitVec 7)
  /-- SBIT_CTZ (R178). -/
  | sbitCtz (d : BitVec 7) (a : BitVec 7)
  /-- SBIT_BREV (R178). -/
  | sbitBrev (d : BitVec 7) (a : BitVec 7)
  /-- BFX (R179). -/
  | bfx (d : BitVec 7) (a : BitVec 7) (b : BitVec 7)
  /-- BFI (R179). -/
  | bfi (d : BitVec 7) (a : BitVec 7) (b : BitVec 7)
  /-- SEXTB (R178). -/
  | sextb (d : BitVec 7) (a : BitVec 7)
  /-- SEXTH (R178). -/
  | sexth (d : BitVec 7) (a : BitVec 7)
  /-- ZEXTB (R178). -/
  | zextb (d : BitVec 7) (a : BitVec 7)
  /-- ZEXTH (R178). -/
  | zexth (d : BitVec 7) (a : BitVec 7)
  /-- DIV (R180). -/
  | div (l : BitVec 4) (d : BitVec 7) (a : BitVec 7) (b : BitVec 7)
  /-- DIVU (R180). -/
  | divu (l : BitVec 4) (d : BitVec 7) (a : BitVec 7) (b : BitVec 7)
  /-- REM (R180). -/
  | rem (l : BitVec 4) (d : BitVec 7) (a : BitVec 7) (b : BitVec 7)
  /-- REMU (R180). -/
  | remu (l : BitVec 4) (d : BitVec 7) (a : BitVec 7) (b : BitVec 7)
  /-- SCMP_EQ (R181). -/
  | scmpEq (d : BitVec 3) (a : BitVec 7) (b : BitVec 7)
  /-- SCMP_NE (R181). -/
  | scmpNe (d : BitVec 3) (a : BitVec 7) (b : BitVec 7)
  /-- SCMP_LT (R181). -/
  | scmpLt (d : BitVec 3) (a : BitVec 7) (b : BitVec 7)
  /-- SCMP_LE (R181). -/
  | scmpLe (d : BitVec 3) (a : BitVec 7) (b : BitVec 7)
  /-- SCMP_GT (R181). -/
  | scmpGt (d : BitVec 3) (a : BitVec 7) (b : BitVec 7)
  /-- SCMP_GE (R181). -/
  | scmpGe (d : BitVec 3) (a : BitVec 7) (b : BitVec 7)
  /-- SCMP_LTU (R181). -/
  | scmpLtu (d : BitVec 3) (a : BitVec 7) (b : BitVec 7)
  /-- SCMP_LEU (R181). -/
  | scmpLeu (d : BitVec 3) (a : BitVec 7) (b : BitVec 7)
  /-- SCMP_GTU (R181). -/
  | scmpGtu (d : BitVec 3) (a : BitVec 7) (b : BitVec 7)
  /-- SCMP_GEU (R181). -/
  | scmpGeu (d : BitVec 3) (a : BitVec 7) (b : BitVec 7)
  /-- SCMPI_EQ (R181). -/
  | scmpiEq (x : Option (BitVec 25)) (d : BitVec 3) (a : BitVec 7) (i : BitVec 7)
  /-- SCMPI_NE (R181). -/
  | scmpiNe (x : Option (BitVec 25)) (d : BitVec 3) (a : BitVec 7) (i : BitVec 7)
  /-- SCMPI_LT (R181). -/
  | scmpiLt (x : Option (BitVec 25)) (d : BitVec 3) (a : BitVec 7) (i : BitVec 7)
  /-- SCMPI_LE (R181). -/
  | scmpiLe (x : Option (BitVec 25)) (d : BitVec 3) (a : BitVec 7) (i : BitVec 7)
  /-- SCMPI_GT (R181). -/
  | scmpiGt (x : Option (BitVec 25)) (d : BitVec 3) (a : BitVec 7) (i : BitVec 7)
  /-- SCMPI_GE (R181). -/
  | scmpiGe (x : Option (BitVec 25)) (d : BitVec 3) (a : BitVec 7) (i : BitVec 7)
  /-- SCMPI_LTU (R181). -/
  | scmpiLtu (x : Option (BitVec 25)) (d : BitVec 3) (a : BitVec 7) (i : BitVec 7)
  /-- SCMPI_LEU (R181). -/
  | scmpiLeu (x : Option (BitVec 25)) (d : BitVec 3) (a : BitVec 7) (i : BitVec 7)
  /-- SCMPI_GTU (R181). -/
  | scmpiGtu (x : Option (BitVec 25)) (d : BitVec 3) (a : BitVec 7) (i : BitVec 7)
  /-- SCMPI_GEU (R181). -/
  | scmpiGeu (x : Option (BitVec 25)) (d : BitVec 3) (a : BitVec 7) (i : BitVec 7)
  /-- PAND (R182). -/
  | pand (d : BitVec 3) (a : BitVec 3) (b : BitVec 3)
  /-- POR (R182). -/
  | por (d : BitVec 3) (a : BitVec 3) (b : BitVec 3)
  /-- PXOR (R182). -/
  | pxor (d : BitVec 3) (a : BitVec 3) (b : BitVec 3)
  /-- PANDN (R182). -/
  | pandn (d : BitVec 3) (a : BitVec 3) (b : BitVec 3)
  /-- PORN (R182). -/
  | porn (d : BitVec 3) (a : BitVec 3) (b : BitVec 3)
  /-- PNOT (R182). -/
  | pnot (d : BitVec 3) (a : BitVec 3)
  /-- PMOV (R182). -/
  | pmov (d : BitVec 3) (a : BitVec 3)
  /-- PCLR (R182). -/
  | pclr (d : BitVec 3)
  /-- PSET (R182). -/
  | pset (d : BitVec 3)
  /-- SEL (R183). -/
  | sel (s : BitVec 1) (p : BitVec 3) (d : BitVec 7) (a : BitVec 7) (b : BitVec 7)
  /-- BCASTS (R184). -/
  | bcasts (d : BitVec 7) (a : BitVec 7)
  /-- EXTR (R184). -/
  | extr (d : BitVec 7) (a : BitVec 7) (k : BitVec 3)
  /-- INSR (R184). -/
  | insr (d : BitVec 7) (a : BitVec 7) (k : BitVec 3)
  /-- CRD (R185). -/
  | crd (d : BitVec 7) (a : BitVec 5)
  /-- CWR (R185). -/
  | cwr (d : BitVec 5) (a : BitVec 7)
  /-- SRD (R168). -/
  | srd (d : BitVec 7) (a : BitVec 7)
  /-- MOVS (R184). -/
  | movs (d : BitVec 7) (a : BitVec 7)
  /-- MOVV (R184). -/
  | movv (d : BitVec 7) (a : BitVec 7)
  /-- PRD (R184). -/
  | prd (d : BitVec 7) (a : BitVec 3)
  /-- PWR (R184). -/
  | pwr (d : BitVec 3) (a : BitVec 7)
  /-- VALU_ADD (R186). -/
  | valuAdd (mk : Option Msk) (d : BitVec 7) (a : BitVec 7) (b : BitVec 7)
  /-- VALU_SUB (R186). -/
  | valuSub (mk : Option Msk) (d : BitVec 7) (a : BitVec 7) (b : BitVec 7)
  /-- VALU_MUL (R186). -/
  | valuMul (mk : Option Msk) (d : BitVec 7) (a : BitVec 7) (b : BitVec 7)
  /-- VALU_MULHS (R186). -/
  | valuMulhs (mk : Option Msk) (d : BitVec 7) (a : BitVec 7) (b : BitVec 7)
  /-- VALU_MULHU (R186). -/
  | valuMulhu (mk : Option Msk) (d : BitVec 7) (a : BitVec 7) (b : BitVec 7)
  /-- VALU_ADDS (R186). -/
  | valuAdds (mk : Option Msk) (d : BitVec 7) (a : BitVec 7) (b : BitVec 7)
  /-- VALU_SUBS (R186). -/
  | valuSubs (mk : Option Msk) (d : BitVec 7) (a : BitVec 7) (b : BitVec 7)
  /-- VALU_ADDUS (R186). -/
  | valuAddus (mk : Option Msk) (d : BitVec 7) (a : BitVec 7) (b : BitVec 7)
  /-- VALU_SUBUS (R186). -/
  | valuSubus (mk : Option Msk) (d : BitVec 7) (a : BitVec 7) (b : BitVec 7)
  /-- VALU_MIN (R186). -/
  | valuMin (mk : Option Msk) (d : BitVec 7) (a : BitVec 7) (b : BitVec 7)
  /-- VALU_MAX (R186). -/
  | valuMax (mk : Option Msk) (d : BitVec 7) (a : BitVec 7) (b : BitVec 7)
  /-- VALU_MINU (R186). -/
  | valuMinu (mk : Option Msk) (d : BitVec 7) (a : BitVec 7) (b : BitVec 7)
  /-- VALU_MAXU (R186). -/
  | valuMaxu (mk : Option Msk) (d : BitVec 7) (a : BitVec 7) (b : BitVec 7)
  /-- VALU_ABS (R186). -/
  | valuAbs (mk : Option Msk) (d : BitVec 7) (a : BitVec 7)
  /-- VALU_NEG (R186). -/
  | valuNeg (mk : Option Msk) (d : BitVec 7) (a : BitVec 7)
  /-- VALU_ABSD (R186). -/
  | valuAbsd (mk : Option Msk) (d : BitVec 7) (a : BitVec 7) (b : BitVec 7)
  /-- VALUI_ADD (R186). -/
  | valuiAdd (mk : Option Msk) (x : Option (BitVec 25)) (d : BitVec 7) (a : BitVec 7) (i : BitVec 7)
  /-- VALUI_SUB (R186). -/
  | valuiSub (mk : Option Msk) (x : Option (BitVec 25)) (d : BitVec 7) (a : BitVec 7) (i : BitVec 7)
  /-- VALUI_MUL (R186). -/
  | valuiMul (mk : Option Msk) (x : Option (BitVec 25)) (d : BitVec 7) (a : BitVec 7) (i : BitVec 7)
  /-- VALUI_MULHS (R186). -/
  | valuiMulhs (mk : Option Msk) (x : Option (BitVec 25)) (d : BitVec 7) (a : BitVec 7) (i : BitVec 7)
  /-- VALUI_MULHU (R186). -/
  | valuiMulhu (mk : Option Msk) (x : Option (BitVec 25)) (d : BitVec 7) (a : BitVec 7) (i : BitVec 7)
  /-- VALUI_ADDS (R186). -/
  | valuiAdds (mk : Option Msk) (x : Option (BitVec 25)) (d : BitVec 7) (a : BitVec 7) (i : BitVec 7)
  /-- VALUI_SUBS (R186). -/
  | valuiSubs (mk : Option Msk) (x : Option (BitVec 25)) (d : BitVec 7) (a : BitVec 7) (i : BitVec 7)
  /-- VALUI_ADDUS (R186). -/
  | valuiAddus (mk : Option Msk) (x : Option (BitVec 25)) (d : BitVec 7) (a : BitVec 7) (i : BitVec 7)
  /-- VALUI_SUBUS (R186). -/
  | valuiSubus (mk : Option Msk) (x : Option (BitVec 25)) (d : BitVec 7) (a : BitVec 7) (i : BitVec 7)
  /-- VALUI_MIN (R186). -/
  | valuiMin (mk : Option Msk) (x : Option (BitVec 25)) (d : BitVec 7) (a : BitVec 7) (i : BitVec 7)
  /-- VALUI_MAX (R186). -/
  | valuiMax (mk : Option Msk) (x : Option (BitVec 25)) (d : BitVec 7) (a : BitVec 7) (i : BitVec 7)
  /-- VALUI_MINU (R186). -/
  | valuiMinu (mk : Option Msk) (x : Option (BitVec 25)) (d : BitVec 7) (a : BitVec 7) (i : BitVec 7)
  /-- VALUI_MAXU (R186). -/
  | valuiMaxu (mk : Option Msk) (x : Option (BitVec 25)) (d : BitVec 7) (a : BitVec 7) (i : BitVec 7)
  /-- VALUI_ABSD (R186). -/
  | valuiAbsd (mk : Option Msk) (x : Option (BitVec 25)) (d : BitVec 7) (a : BitVec 7) (i : BitVec 7)
  /-- VMAD_MAD (R187). -/
  | vmadMad (mk : Option Msk) (d : BitVec 7) (a : BitVec 7) (b : BitVec 7)
  /-- VMAD_MSB (R187). -/
  | vmadMsb (mk : Option Msk) (d : BitVec 7) (a : BitVec 7) (b : BitVec 7)
  /-- VMAD_MADS (R187). -/
  | vmadMads (mk : Option Msk) (d : BitVec 7) (a : BitVec 7) (b : BitVec 7)
  /-- VMAD_MAD_I16 (R187). -/
  | vmadMadI16 (mk : Option Msk) (d : BitVec 7) (a : BitVec 7) (b : BitVec 7)
  /-- VMAD_MAD_I8 (R187). -/
  | vmadMadI8 (mk : Option Msk) (d : BitVec 7) (a : BitVec 7) (b : BitVec 7)
  /-- VDOT2 (R187). -/
  | vdot2 (mk : Option Msk) (d : BitVec 7) (a : BitVec 7) (b : BitVec 7)
  /-- VDOT4 (R187). -/
  | vdot4 (mk : Option Msk) (d : BitVec 7) (a : BitVec 7) (b : BitVec 7)
  /-- VDOT4U (R187). -/
  | vdot4u (mk : Option Msk) (d : BitVec 7) (a : BitVec 7) (b : BitVec 7)
  /-- VCMP_EQ (R188). -/
  | vcmpEq (mk : Option Msk) (d : BitVec 3) (a : BitVec 7) (b : BitVec 7)
  /-- VCMP_NE (R188). -/
  | vcmpNe (mk : Option Msk) (d : BitVec 3) (a : BitVec 7) (b : BitVec 7)
  /-- VCMP_LT (R188). -/
  | vcmpLt (mk : Option Msk) (d : BitVec 3) (a : BitVec 7) (b : BitVec 7)
  /-- VCMP_LE (R188). -/
  | vcmpLe (mk : Option Msk) (d : BitVec 3) (a : BitVec 7) (b : BitVec 7)
  /-- VCMP_GT (R188). -/
  | vcmpGt (mk : Option Msk) (d : BitVec 3) (a : BitVec 7) (b : BitVec 7)
  /-- VCMP_GE (R188). -/
  | vcmpGe (mk : Option Msk) (d : BitVec 3) (a : BitVec 7) (b : BitVec 7)
  /-- VCMP_LTU (R188). -/
  | vcmpLtu (mk : Option Msk) (d : BitVec 3) (a : BitVec 7) (b : BitVec 7)
  /-- VCMP_LEU (R188). -/
  | vcmpLeu (mk : Option Msk) (d : BitVec 3) (a : BitVec 7) (b : BitVec 7)
  /-- VCMP_GTU (R188). -/
  | vcmpGtu (mk : Option Msk) (d : BitVec 3) (a : BitVec 7) (b : BitVec 7)
  /-- VCMP_GEU (R188). -/
  | vcmpGeu (mk : Option Msk) (d : BitVec 3) (a : BitVec 7) (b : BitVec 7)
  /-- VCMP_EQ_I16 (R188). -/
  | vcmpEqI16 (mk : Option Msk) (d : BitVec 3) (a : BitVec 7) (b : BitVec 7)
  /-- VCMP_LT_I16 (R188). -/
  | vcmpLtI16 (mk : Option Msk) (d : BitVec 3) (a : BitVec 7) (b : BitVec 7)
  /-- VCMP_LTU_I16 (R188). -/
  | vcmpLtuI16 (mk : Option Msk) (d : BitVec 3) (a : BitVec 7) (b : BitVec 7)
  /-- VCMP_EQ_I8 (R188). -/
  | vcmpEqI8 (mk : Option Msk) (d : BitVec 3) (a : BitVec 7) (b : BitVec 7)
  /-- VCMP_LT_I8 (R188). -/
  | vcmpLtI8 (mk : Option Msk) (d : BitVec 3) (a : BitVec 7) (b : BitVec 7)
  /-- VCMP_LTU_I8 (R188). -/
  | vcmpLtuI8 (mk : Option Msk) (d : BitVec 3) (a : BitVec 7) (b : BitVec 7)
  /-- PERM (R189). -/
  | perm (mk : Option Msk) (d : BitVec 7) (a : BitVec 7) (b : BitVec 7)
  /-- SHUF (R189). -/
  | shuf (mk : Option Msk) (d : BitVec 7) (a : BitVec 7) (b : BitVec 7)
  /-- ROT (R189). -/
  | rot (mk : Option Msk) (d : BitVec 7) (a : BitVec 7) (k : BitVec 3)
  /-- EXT (R189). -/
  | ext (mk : Option Msk) (d : BitVec 7) (a : BitVec 7) (k : BitVec 3)
  /-- INS (R189). -/
  | ins (mk : Option Msk) (d : BitVec 7) (a : BitVec 7) (k : BitVec 3)
  /-- ZIP (R189). -/
  | zip (mk : Option Msk) (d : BitVec 7) (a : BitVec 7) (b : BitVec 7)
  /-- UNZIP (R189). -/
  | unzip (mk : Option Msk) (d : BitVec 7) (a : BitVec 7) (b : BitVec 7)
  /-- VPACK_ADD (R190). -/
  | vpackAdd (mk : Option Msk) (w : BitVec 1) (d : BitVec 7) (a : BitVec 7) (b : BitVec 7)
  /-- VPACK_SUB (R190). -/
  | vpackSub (mk : Option Msk) (w : BitVec 1) (d : BitVec 7) (a : BitVec 7) (b : BitVec 7)
  /-- VPACK_ADDS (R190). -/
  | vpackAdds (mk : Option Msk) (w : BitVec 1) (d : BitVec 7) (a : BitVec 7) (b : BitVec 7)
  /-- VPACK_SUBS (R190). -/
  | vpackSubs (mk : Option Msk) (w : BitVec 1) (d : BitVec 7) (a : BitVec 7) (b : BitVec 7)
  /-- VPACK_ADDUS (R190). -/
  | vpackAddus (mk : Option Msk) (w : BitVec 1) (d : BitVec 7) (a : BitVec 7) (b : BitVec 7)
  /-- VPACK_SUBUS (R190). -/
  | vpackSubus (mk : Option Msk) (w : BitVec 1) (d : BitVec 7) (a : BitVec 7) (b : BitVec 7)
  /-- VPACK_MIN (R190). -/
  | vpackMin (mk : Option Msk) (w : BitVec 1) (d : BitVec 7) (a : BitVec 7) (b : BitVec 7)
  /-- VPACK_MAX (R190). -/
  | vpackMax (mk : Option Msk) (w : BitVec 1) (d : BitVec 7) (a : BitVec 7) (b : BitVec 7)
  /-- REDADD (R191). -/
  | redadd (mk : Option Msk) (d : BitVec 7) (a : BitVec 7)
  /-- REDMIN (R191). -/
  | redmin (mk : Option Msk) (d : BitVec 7) (a : BitVec 7)
  /-- REDMAX (R191). -/
  | redmax (mk : Option Msk) (d : BitVec 7) (a : BitVec 7)
  /-- REDMINU (R191). -/
  | redminu (mk : Option Msk) (d : BitVec 7) (a : BitVec 7)
  /-- REDMAXU (R191). -/
  | redmaxu (mk : Option Msk) (d : BitVec 7) (a : BitVec 7)
  /-- REDAND (R191). -/
  | redand (mk : Option Msk) (d : BitVec 7) (a : BitVec 7)
  /-- REDOR (R191). -/
  | redor (mk : Option Msk) (d : BitVec 7) (a : BitVec 7)
  /-- REDXOR (R191). -/
  | redxor (mk : Option Msk) (d : BitVec 7) (a : BitVec 7)
  /-- REDADD_F32 (R191). -/
  | redaddF32 (mk : Option Msk) (d : BitVec 7) (a : BitVec 7)
  /-- REDMIN_F32 (R191). -/
  | redminF32 (mk : Option Msk) (d : BitVec 7) (a : BitVec 7)
  /-- REDMAX_F32 (R191). -/
  | redmaxF32 (mk : Option Msk) (d : BitVec 7) (a : BitVec 7)
  /-- VBIT_AND (R192). -/
  | vbitAnd (mk : Option Msk) (d : BitVec 7) (a : BitVec 7) (b : BitVec 7)
  /-- VBIT_OR (R192). -/
  | vbitOr (mk : Option Msk) (d : BitVec 7) (a : BitVec 7) (b : BitVec 7)
  /-- VBIT_XOR (R192). -/
  | vbitXor (mk : Option Msk) (d : BitVec 7) (a : BitVec 7) (b : BitVec 7)
  /-- VBIT_ANDN (R192). -/
  | vbitAndn (mk : Option Msk) (d : BitVec 7) (a : BitVec 7) (b : BitVec 7)
  /-- VBIT_NOT (R192). -/
  | vbitNot (mk : Option Msk) (d : BitVec 7) (a : BitVec 7)
  /-- VBIT_SHL (R192). -/
  | vbitShl (mk : Option Msk) (d : BitVec 7) (a : BitVec 7) (b : BitVec 7)
  /-- VBIT_SHR (R192). -/
  | vbitShr (mk : Option Msk) (d : BitVec 7) (a : BitVec 7) (b : BitVec 7)
  /-- VBIT_SAR (R192). -/
  | vbitSar (mk : Option Msk) (d : BitVec 7) (a : BitVec 7) (b : BitVec 7)
  /-- VBIT_SHL_I16 (R192). -/
  | vbitShlI16 (mk : Option Msk) (d : BitVec 7) (a : BitVec 7) (b : BitVec 7)
  /-- VBIT_SHR_I16 (R192). -/
  | vbitShrI16 (mk : Option Msk) (d : BitVec 7) (a : BitVec 7) (b : BitVec 7)
  /-- VBIT_SAR_I16 (R192). -/
  | vbitSarI16 (mk : Option Msk) (d : BitVec 7) (a : BitVec 7) (b : BitVec 7)
  /-- VBIT_POPC (R192). -/
  | vbitPopc (mk : Option Msk) (d : BitVec 7) (a : BitVec 7)
  /-- VBIT_CLZ (R192). -/
  | vbitClz (mk : Option Msk) (d : BitVec 7) (a : BitVec 7)
  /-- VBIT_BREV (R192). -/
  | vbitBrev (mk : Option Msk) (d : BitVec 7) (a : BitVec 7)
  /-- VSEL (R183). -/
  | vsel (mk : Option Msk) (s : BitVec 1) (p : BitVec 3) (d : BitVec 7) (a : BitVec 7) (b : BitVec 7)
  /-- FADD (R201). -/
  | fadd (mk : Option Msk) (d : BitVec 7) (a : BitVec 7) (b : BitVec 7)
  /-- FSUB (R201). -/
  | fsub (mk : Option Msk) (d : BitVec 7) (a : BitVec 7) (b : BitVec 7)
  /-- FMUL (R201). -/
  | fmul (mk : Option Msk) (d : BitVec 7) (a : BitVec 7) (b : BitVec 7)
  /-- FMIN (R202). -/
  | fmin (mk : Option Msk) (d : BitVec 7) (a : BitVec 7) (b : BitVec 7)
  /-- FMAX (R202). -/
  | fmax (mk : Option Msk) (d : BitVec 7) (a : BitVec 7) (b : BitVec 7)
  /-- FABS (R203). -/
  | fabs (mk : Option Msk) (d : BitVec 7) (a : BitVec 7)
  /-- FNEG (R203). -/
  | fneg (mk : Option Msk) (d : BitVec 7) (a : BitVec 7)
  /-- FSGN (R203). -/
  | fsgn (mk : Option Msk) (d : BitVec 7) (a : BitVec 7) (b : BitVec 7)
  /-- FMA (R204). -/
  | fma (mk : Option Msk) (d : BitVec 7) (a : BitVec 7) (b : BitVec 7)
  /-- FMS (R204). -/
  | fms (mk : Option Msk) (d : BitVec 7) (a : BitVec 7) (b : BitVec 7)
  /-- FNMA (R204). -/
  | fnma (mk : Option Msk) (d : BitVec 7) (a : BitVec 7) (b : BitVec 7)
  /-- FNMS (R204). -/
  | fnms (mk : Option Msk) (d : BitVec 7) (a : BitVec 7) (b : BitVec 7)
  /-- FCMP_F32_EQ (R205). -/
  | fcmpF32Eq (mk : Option Msk) (d : BitVec 3) (a : BitVec 7) (b : BitVec 7)
  /-- FCMP_F32_NE (R205). -/
  | fcmpF32Ne (mk : Option Msk) (d : BitVec 3) (a : BitVec 7) (b : BitVec 7)
  /-- FCMP_F32_LT (R205). -/
  | fcmpF32Lt (mk : Option Msk) (d : BitVec 3) (a : BitVec 7) (b : BitVec 7)
  /-- FCMP_F32_LE (R205). -/
  | fcmpF32Le (mk : Option Msk) (d : BitVec 3) (a : BitVec 7) (b : BitVec 7)
  /-- FCMP_F32_GT (R205). -/
  | fcmpF32Gt (mk : Option Msk) (d : BitVec 3) (a : BitVec 7) (b : BitVec 7)
  /-- FCMP_F32_GE (R205). -/
  | fcmpF32Ge (mk : Option Msk) (d : BitVec 3) (a : BitVec 7) (b : BitVec 7)
  /-- FCMP_F32_UNORD (R205). -/
  | fcmpF32Unord (mk : Option Msk) (d : BitVec 3) (a : BitVec 7) (b : BitVec 7)
  /-- FCMP_F32_ORD (R205). -/
  | fcmpF32Ord (mk : Option Msk) (d : BitVec 3) (a : BitVec 7) (b : BitVec 7)
  /-- FCMP_F16_EQ (R205). -/
  | fcmpF16Eq (mk : Option Msk) (d : BitVec 3) (a : BitVec 7) (b : BitVec 7)
  /-- FCMP_F16_LT (R205). -/
  | fcmpF16Lt (mk : Option Msk) (d : BitVec 3) (a : BitVec 7) (b : BitVec 7)
  /-- FCMP_F16_LE (R205). -/
  | fcmpF16Le (mk : Option Msk) (d : BitVec 3) (a : BitVec 7) (b : BitVec 7)
  /-- FCMP_F16_UNORD (R205). -/
  | fcmpF16Unord (mk : Option Msk) (d : BitVec 3) (a : BitVec 7) (b : BitVec 7)
  /-- FCMP_BF16_EQ (R205). -/
  | fcmpBf16Eq (mk : Option Msk) (d : BitVec 3) (a : BitVec 7) (b : BitVec 7)
  /-- FCMP_BF16_LT (R205). -/
  | fcmpBf16Lt (mk : Option Msk) (d : BitVec 3) (a : BitVec 7) (b : BitVec 7)
  /-- FCMP_BF16_LE (R205). -/
  | fcmpBf16Le (mk : Option Msk) (d : BitVec 3) (a : BitVec 7) (b : BitVec 7)
  /-- FCMP_BF16_UNORD (R205). -/
  | fcmpBf16Unord (mk : Option Msk) (d : BitVec 3) (a : BitVec 7) (b : BitVec 7)
  /-- RCP (R206). -/
  | rcp (mk : Option Msk) (l : BitVec 4) (d : BitVec 7) (a : BitVec 7)
  /-- RSQ (R206). -/
  | rsq (mk : Option Msk) (l : BitVec 4) (d : BitVec 7) (a : BitVec 7)
  /-- SQRT (R206). -/
  | sqrt (mk : Option Msk) (l : BitVec 4) (d : BitVec 7) (a : BitVec 7)
  /-- EXP2 (R206). -/
  | exp2 (mk : Option Msk) (l : BitVec 4) (d : BitVec 7) (a : BitVec 7)
  /-- LOG2 (R206). -/
  | log2 (mk : Option Msk) (l : BitVec 4) (d : BitVec 7) (a : BitVec 7)
  /-- SINPI (R206). -/
  | sinpi (mk : Option Msk) (l : BitVec 4) (d : BitVec 7) (a : BitVec 7)
  /-- COSPI (R206). -/
  | cospi (mk : Option Msk) (l : BitVec 4) (d : BitVec 7) (a : BitVec 7)
  /-- TANH (R206). -/
  | tanh (mk : Option Msk) (l : BitVec 4) (d : BitVec 7) (a : BitVec 7)
  /-- FDIV (R208). -/
  | fdiv (mk : Option Msk) (l : BitVec 4) (d : BitVec 7) (a : BitVec 7) (b : BitVec 7)
  /-- FCVT (R209). -/
  | fcvt (mk : Option Msk) (t : BitVec 4) (d : BitVec 7) (a : BitVec 7) (s : BitVec 4) (r : BitVec 3)
  /-- FRND (R211). -/
  | frnd (mk : Option Msk) (r : BitVec 4) (d : BitVec 7) (a : BitVec 7) (t : BitVec 7)
  /-- FCLASS (R212). -/
  | fclass (mk : Option Msk) (d : BitVec 7) (a : BitVec 7) (t : BitVec 7)
  /-- DOT2_F16 (R213). -/
  | dot2F16 (mk : Option Msk) (d : BitVec 7) (a : BitVec 7) (b : BitVec 7)
  /-- DOT2_BF16 (R213). -/
  | dot2Bf16 (mk : Option Msk) (d : BitVec 7) (a : BitVec 7) (b : BitVec 7)
  /-- DOT4_E5M2 (R213). -/
  | dot4E5m2 (mk : Option Msk) (d : BitVec 7) (a : BitVec 7) (b : BitVec 7)
  /-- DOT4_E4M3 (R213). -/
  | dot4E4m3 (mk : Option Msk) (d : BitVec 7) (a : BitVec 7) (b : BitVec 7)
  /-- DOT4_I8 (R213). -/
  | dot4I8 (mk : Option Msk) (d : BitVec 7) (a : BitVec 7) (b : BitVec 7)
  /-- DOT8_I4 (R213). -/
  | dot8I4 (mk : Option Msk) (d : BitVec 7) (a : BitVec 7) (b : BitVec 7)
  /-- FALU16_FADD (R214). -/
  | falu16Fadd (mk : Option Msk) (t : BitVec 1) (d : BitVec 7) (a : BitVec 7) (b : BitVec 7)
  /-- FALU16_FSUB (R214). -/
  | falu16Fsub (mk : Option Msk) (t : BitVec 1) (d : BitVec 7) (a : BitVec 7) (b : BitVec 7)
  /-- FALU16_FMUL (R214). -/
  | falu16Fmul (mk : Option Msk) (t : BitVec 1) (d : BitVec 7) (a : BitVec 7) (b : BitVec 7)
  /-- FALU16_FMIN (R214). -/
  | falu16Fmin (mk : Option Msk) (t : BitVec 1) (d : BitVec 7) (a : BitVec 7) (b : BitVec 7)
  /-- FALU16_FMAX (R214). -/
  | falu16Fmax (mk : Option Msk) (t : BitVec 1) (d : BitVec 7) (a : BitVec 7) (b : BitVec 7)
  /-- FALU16_FMA (R214). -/
  | falu16Fma (mk : Option Msk) (t : BitVec 1) (d : BitVec 7) (a : BitVec 7) (b : BitVec 7)
  /-- FALU16_FABS (R214). -/
  | falu16Fabs (mk : Option Msk) (t : BitVec 1) (d : BitVec 7) (a : BitVec 7)
  /-- FALU16_FNEG (R214). -/
  | falu16Fneg (mk : Option Msk) (t : BitVec 1) (d : BitVec 7) (a : BitVec 7)
  /-- BR (R193). -/
  | br (x : Option (BitVec 25)) (o : BitVec 21)
  /-- BRP (R193). -/
  | brp (x : Option (BitVec 25)) (s : BitVec 1) (p : BitVec 3) (o : BitVec 21)
  /-- CALL (R193). -/
  | call (x : Option (BitVec 25)) (o : BitVec 21)
  /-- JR (R194). -/
  | jr (a : BitVec 7)
  /-- JALR (R194). -/
  | jalr (a : BitVec 7)
  /-- RET (R194). -/
  | ret
  /-- RET_PAIR (R194). -/
  | retPair (a : BitVec 7)
  /-- RCV (R196). -/
  | rcv
  /-- EXIT (R197). -/
  | exit
  /-- YIELD (R197). -/
  | yield
  /-- SLEEP (R197). -/
  | sleep (a : BitVec 7)
  /-- LDS (R216). -/
  | lds (x : Option (BitVec 25)) (l : BitVec 4) (d : BitVec 7) (a : BitVec 7) (s : BitVec 2) (q : BitVec 1) (c : BitVec 2) (h : BitVec 2)
  /-- LDV (R217). -/
  | ldv (mk : Option Msk) (x : Option (BitVec 25)) (l : BitVec 4) (d : BitVec 7) (a : BitVec 7) (s : BitVec 2) (q : BitVec 1) (c : BitVec 2) (h : BitVec 2)
  /-- LDG (R218). -/
  | ldg (mk : Option Msk) (x : Option (BitVec 25)) (l : BitVec 4) (d : BitVec 7) (a : BitVec 7) (b : BitVec 7)
  /-- STS (R216). -/
  | sts (x : Option (BitVec 25)) (d : BitVec 7) (a : BitVec 7) (s : BitVec 2) (q : BitVec 1) (c : BitVec 2) (h : BitVec 2)
  /-- STV (R217). -/
  | stv (mk : Option Msk) (x : Option (BitVec 25)) (d : BitVec 7) (a : BitVec 7) (s : BitVec 2) (q : BitVec 1) (c : BitVec 2) (h : BitVec 2)
  /-- STG (R218). -/
  | stg (mk : Option Msk) (x : Option (BitVec 25)) (d : BitVec 7) (a : BitVec 7) (b : BitVec 7)
  /-- PREF (R219). -/
  | pref (x : Option (BitVec 25)) (a : BitVec 7) (h : BitVec 2)
  /-- ATOM_ADD (R220). -/
  | atomAdd (x : Option (BitVec 25)) (l : BitVec 4) (d : BitVec 7) (a : BitVec 7) (q : BitVec 1) (c : BitVec 2)
  /-- ATOM_MIN (R220). -/
  | atomMin (x : Option (BitVec 25)) (l : BitVec 4) (d : BitVec 7) (a : BitVec 7) (q : BitVec 1) (c : BitVec 2)
  /-- ATOM_MAX (R220). -/
  | atomMax (x : Option (BitVec 25)) (l : BitVec 4) (d : BitVec 7) (a : BitVec 7) (q : BitVec 1) (c : BitVec 2)
  /-- ATOM_MINU (R220). -/
  | atomMinu (x : Option (BitVec 25)) (l : BitVec 4) (d : BitVec 7) (a : BitVec 7) (q : BitVec 1) (c : BitVec 2)
  /-- ATOM_MAXU (R220). -/
  | atomMaxu (x : Option (BitVec 25)) (l : BitVec 4) (d : BitVec 7) (a : BitVec 7) (q : BitVec 1) (c : BitVec 2)
  /-- ATOM_AND (R220). -/
  | atomAnd (x : Option (BitVec 25)) (l : BitVec 4) (d : BitVec 7) (a : BitVec 7) (q : BitVec 1) (c : BitVec 2)
  /-- ATOM_OR (R220). -/
  | atomOr (x : Option (BitVec 25)) (l : BitVec 4) (d : BitVec 7) (a : BitVec 7) (q : BitVec 1) (c : BitVec 2)
  /-- ATOM_XOR (R220). -/
  | atomXor (x : Option (BitVec 25)) (l : BitVec 4) (d : BitVec 7) (a : BitVec 7) (q : BitVec 1) (c : BitVec 2)
  /-- ATOM_XCHG (R220). -/
  | atomXchg (x : Option (BitVec 25)) (l : BitVec 4) (d : BitVec 7) (a : BitVec 7) (q : BitVec 1) (c : BitVec 2)
  /-- ATOM_CAS (R220). -/
  | atomCas (x : Option (BitVec 25)) (l : BitVec 4) (d : BitVec 7) (a : BitVec 7) (q : BitVec 1) (c : BitVec 2)
  /-- ATOMV_ADD (R221). -/
  | atomvAdd (x : Option (BitVec 25)) (l : BitVec 4) (d : BitVec 7) (a : BitVec 7) (q : BitVec 1) (c : BitVec 2)
  /-- ATOMV_MIN (R221). -/
  | atomvMin (x : Option (BitVec 25)) (l : BitVec 4) (d : BitVec 7) (a : BitVec 7) (q : BitVec 1) (c : BitVec 2)
  /-- ATOMV_MAX (R221). -/
  | atomvMax (x : Option (BitVec 25)) (l : BitVec 4) (d : BitVec 7) (a : BitVec 7) (q : BitVec 1) (c : BitVec 2)
  /-- ATOMV_MINU (R221). -/
  | atomvMinu (x : Option (BitVec 25)) (l : BitVec 4) (d : BitVec 7) (a : BitVec 7) (q : BitVec 1) (c : BitVec 2)
  /-- ATOMV_MAXU (R221). -/
  | atomvMaxu (x : Option (BitVec 25)) (l : BitVec 4) (d : BitVec 7) (a : BitVec 7) (q : BitVec 1) (c : BitVec 2)
  /-- ATOMV_AND (R221). -/
  | atomvAnd (x : Option (BitVec 25)) (l : BitVec 4) (d : BitVec 7) (a : BitVec 7) (q : BitVec 1) (c : BitVec 2)
  /-- ATOMV_OR (R221). -/
  | atomvOr (x : Option (BitVec 25)) (l : BitVec 4) (d : BitVec 7) (a : BitVec 7) (q : BitVec 1) (c : BitVec 2)
  /-- ATOMV_XOR (R221). -/
  | atomvXor (x : Option (BitVec 25)) (l : BitVec 4) (d : BitVec 7) (a : BitVec 7) (q : BitVec 1) (c : BitVec 2)
  /-- ATOMV_XCHG (R221). -/
  | atomvXchg (x : Option (BitVec 25)) (l : BitVec 4) (d : BitVec 7) (a : BitVec 7) (q : BitVec 1) (c : BitVec 2)
  /-- ATOMV_CAS (R221). -/
  | atomvCas (x : Option (BitVec 25)) (l : BitVec 4) (d : BitVec 7) (a : BitVec 7) (q : BitVec 1) (c : BitVec 2)
  /-- ATOMV_XCHG_W128 (R221). -/
  | atomvXchgW128 (x : Option (BitVec 25)) (l : BitVec 4) (d : BitVec 7) (a : BitVec 7) (q : BitVec 1) (c : BitVec 2)
  /-- ATOMV_CAS_W128 (R221). -/
  | atomvCasW128 (x : Option (BitVec 25)) (l : BitVec 4) (d : BitVec 7) (a : BitVec 7) (q : BitVec 1) (c : BitVec 2)
  /-- MWATCH (R223). -/
  | mwatch (x : Option (BitVec 25)) (a : BitVec 7)
  /-- FENCE_ACQ (R222). -/
  | fenceAcq (c : BitVec 2)
  /-- FENCE_REL (R222). -/
  | fenceRel (c : BitVec 2)
  /-- FENCE_FULL (R222). -/
  | fenceFull (c : BitVec 2)
  /-- MWAIT (R223). -/
  | mwait
  /-- BNEW (R224). -/
  | bnew (d : BitVec 7) (a : BitVec 7)
  /-- BJOIN (R224). -/
  | bjoin (d : BitVec 7) (a : BitVec 7)
  /-- BLEAVE (R224). -/
  | bleave
  /-- BINFO (R224). -/
  | binfo (d : BitVec 7) (k : BitVec 7)
  /-- BAR_INIT (R226). -/
  | barInit (a : BitVec 7) (k : BitVec 4)
  /-- BAR_SYNC (R226). -/
  | barSync (a : BitVec 7) (c : BitVec 1) (k : BitVec 4)
  /-- BAR_ARRIVE (R226). -/
  | barArrive (a : BitVec 7) (c : BitVec 1) (k : BitVec 4)
  /-- BAR_EXPECT (R226). -/
  | barExpect (a : BitVec 7) (k : BitVec 4)
  /-- BAR_QUERY (R226). -/
  | barQuery (d : BitVec 7) (c : BitVec 1) (k : BitVec 4)
  /-- BALLOT (R228). -/
  | ballot (d : BitVec 7) (a : BitVec 3) (w : BitVec 7)
  /-- ANY (R228). -/
  | any (d : BitVec 3) (a : BitVec 3)
  /-- ALL (R228). -/
  | all (d : BitVec 3) (a : BitVec 3)
  /-- BCAST (R229). -/
  | bcast (l : BitVec 4) (d : BitVec 7) (a : BitVec 7)
  /-- RADD (R229). -/
  | radd (l : BitVec 4) (d : BitVec 7) (a : BitVec 7) (t : BitVec 4)
  /-- RMIN (R229). -/
  | rmin (l : BitVec 4) (d : BitVec 7) (a : BitVec 7) (t : BitVec 4)
  /-- RMAX (R229). -/
  | rmax (l : BitVec 4) (d : BitVec 7) (a : BitVec 7) (t : BitVec 4)
  /-- SCANADD (R229). -/
  | scanadd (l : BitVec 4) (d : BitVec 7) (a : BitVec 7) (t : BitVec 4)
  /-- RWR_SCALAR (R230). -/
  | rwrScalar (d : BitVec 7) (a : BitVec 7) (b : BitVec 7)
  /-- RWR_VECTOR (R230). -/
  | rwrVector (d : BitVec 7) (a : BitVec 7) (b : BitVec 7)
  /-- RWAIT (R230). -/
  | rwait (a : BitVec 7)
  /-- QSEND (R231). -/
  | qsend (k : BitVec 3) (m : BitVec 7) (a : BitVec 7)
  /-- QRECV (R231). -/
  | qrecv (k : BitVec 3) (d : BitVec 7)
  /-- FLAG_SET (R232). -/
  | flagSet (k : BitVec 5)
  /-- FLAG_CLR (R232). -/
  | flagClr (k : BitVec 5)
  /-- FLAG_WAIT (R232). -/
  | flagWait (k : BitVec 5)
  /-- FLAG_TEST (R232). -/
  | flagTest (d : BitVec 3) (k : BitVec 5)
  /-- WBASES (R233). -/
  | wbases (k : BitVec 7)
  /-- WBASEV (R233). -/
  | wbasev (k : BitVec 7)
  /-- XACQS (R233). -/
  | xacqs (k : BitVec 7)
  /-- XACQV (R233). -/
  | xacqv (k : BitVec 7)
  /-- XRELS (R233). -/
  | xrels (k : BitVec 7)
  /-- XRELV (R233). -/
  | xrelv (k : BitVec 7)
  /-- TRESV (R276). -/
  | tresv (d : BitVec 7) (a : BitVec 7)
  /-- TREL (R277). -/
  | trel (a : BitVec 7)
  /-- TSTAT (R278). -/
  | tstat (d : BitVec 7) (a : BitVec 7)
  /-- TWAIT (R278). -/
  | twait (a : BitVec 7) (k : BitVec 7)
  /-- ENGQ_MX (R279). -/
  | engqMx (a : BitVec 7)
  /-- ENGQ_CE (R279). -/
  | engqCe (a : BitVec 7)
  /-- ENGQ_SSB (R279). -/
  | engqSsb (a : BitVec 7)
  /-- ENGQ_QE (R279). -/
  | engqQe (a : BitVec 7)
  /-- FORK (R280). -/
  | fork (e : BitVec 4) (a : BitVec 7) (b : BitVec 7)
  /-- RDV (R281). -/
  | rdv (d : BitVec 7) (a : BitVec 7)
  /-- SPEC_EPOCH (R282). -/
  | specEpoch (d : BitVec 7) (a : BitVec 7)
  /-- SPEC_COMMIT (R282). -/
  | specCommit (d : BitVec 7) (a : BitVec 7)
  /-- SPEC_CANCEL (R282). -/
  | specCancel (d : BitVec 7) (a : BitVec 7)
  /-- FLCALL (R285). -/
  | flcall (t : BitVec 3) (a : BitVec 7) (r : BitVec 1)
  /-- FLWAIT (R286). -/
  | flwait (a : BitVec 7)
  /-- TAKE (R287). -/
  | take (d : BitVec 7) (a : BitVec 7) (b : BitVec 7)
  /-- SKIP (R287). -/
  | skip (a : BitVec 7) (b : BitVec 7)
  /-- TSPAWN (R289). -/
  | tspawn (d : BitVec 7) (a : BitVec 7)
  /-- TSIGNAL (R290). -/
  | tsignal (a : BitVec 7)
  /-- TQRD (R291). -/
  | tqrd (d : BitVec 7) (a : BitVec 7) (k : BitVec 7)
  /-- CSRR (R292). -/
  | csrr (d : BitVec 7) (c : BitVec 14)
  /-- CSRW (R292). -/
  | csrw (d : BitVec 7) (c : BitVec 14)
  /-- TRAP (R295). -/
  | trap (i : BitVec 14)
  /-- ERET (R296). -/
  | eret
  /-- CCLR (R296). -/
  | cclr (a : BitVec 7)
  /-- BKPT (R297). -/
  | bkpt (k : BitVec 7)
  /-- TMARK (R297). -/
  | tmark (a : BitVec 7) (k : BitVec 7)
  /-- ISYNC (R298). -/
  | isync
  /-- L1INV (R299). -/
  | l1inv (a : BitVec 7) (b : BitVec 7)
  /-- TLBINV (R299). -/
  | tlbinv (d : BitVec 7) (a : BitVec 7) (b : BitVec 7)
  /-- SHOOT (R300). -/
  | shoot (d : BitVec 7) (a : BitVec 7) (b : BitVec 7)
  /-- RDCINV (R299). -/
  | rdcinv (a : BitVec 7) (b : BitVec 7)
  /-- POWER_LOSS (R394). -/
  | powerLoss
  /-- COMPANION_LINK_UP (R386). -/
  | companionLinkUp
  /-- COMPANION_ATOMICOP (R301). -/
  | companionAtomicop (op : Nat) (addr : BitVec 48) (width : Nat) (x y : BitVec 128)
  deriving DecidableEq, Repr

end Sys2Proof
end

