-- ==== Sys2Proof/WellFormed.lean ====
section
/-! DEFINITION. Which operand values of an instruction are instructions at all (R159, R355, R361 to R365): the limits on
field-encoded operands that the fixed bits of the opcode table do not already impose. -/
namespace Sys2Proof

/-- A field that names a scalar pair holds 0 to 126 (R159). -/
def pairOk (r : BitVec 7) : Bool := r != 127#7

/-- ORDER 0 needs SCOPE 0 (R158). -/
def orderOk (q : BitVec 1) (c : BitVec 2) : Bool := q == 1#1 || c == 0#2

/-- The special-register codes of SRD (R168): 0 to 14; codes 6 and 7 fill a pair. -/
def srdOk (a d : BitVec 7) : Bool := a.toNat ≤ 14 && ((a != 6#7 && a != 7#7) || pairOk d)

/-- The format codes of BCOLL (R229): 0, 6 and 7. -/
def collFmtOk (t : BitVec 4) : Bool := t == 0#4 || t == 6#4 || t == 7#4

/-- The format and rounding codes of FCVT (R167, R210): t destination, s source, r rounding. -/
def fcvtOk (t s : BitVec 4) (r : BitVec 3) : Bool :=
  t.toNat ≤ 11 && s.toNat ≤ 11 && t != s && !(6 ≤ t.toNat && 6 ≤ s.toNat) &&
  (r != 4#3 || (1 ≤ t.toNat && t.toNat ≤ 5)) && (!(6 ≤ r.toNat) || t.toNat ≤ 5)

/-- The rounding codes of FRND (R211): 0 to 3 and 5. -/
def frndOk (r : BitVec 4) : Bool := r.toNat ≤ 3 || r == 5#4

/-- The CSR numbers that are not reserved (R293, R322). -/
def csrListed (n : Nat) : Bool :=
  n == 0x000 || n == 0x001 || (0x010 ≤ n && n ≤ 0x013) || n == 0x020 || n == 0x021 ||
  (0x100 ≤ n && n ≤ 0x104) || n == 0x110 || n == 0x111 || (0x200 ≤ n && n ≤ 0x203) ||
  (0x210 ≤ n && n ≤ 0x22F) || (0x300 ≤ n && n ≤ 0x34F) || n == 0x380

/-- The 64-bit CSRs (R293, R322): they use a register pair. -/
def csrWide (n : Nat) : Bool :=
  n == 0x011 || n == 0x012 || n == 0x013 || n == 0x020 || n == 0x021 || n == 0x100 || n == 0x104 || n == 0x110 ||
  n == 0x202 || n == 0x203 || (0x308 ≤ n && n ≤ 0x30F) || (0x330 ≤ n && n ≤ 0x34F)

/-- A CSR operand (R292, R365). -/
def csrOk (c : BitVec 14) (d : BitVec 7) : Bool := csrListed c.toNat && (!csrWide c.toNat || pairOk d)

/-- The line forms of CMAINT (R299): b is 0 with a zero, or 1 with a pair. -/
def lineSelOk (a b : BitVec 7) : Bool := (b == 0#7 && a == 0#7) || (b == 1#7 && pairOk a)

/-- The page forms of CMAINT (R299): b is 0 with a pair, 1 with a zero, or 2 with d and a zero. -/
def pageSelOk (d a b : BitVec 7) : Bool :=
  (b == 0#7 && pairOk a) || (b == 1#7 && a == 0#7) || (b == 2#7 && a == 0#7 && d == 0#7)

/-- The field m of a gather or scatter (R158, R218): SIZE 3 is reserved, and a weak access carries SCOPE 0. -/
def gatherModeOk (m : BitVec 7) : Bool :=
  m.extractLsb' 5 2 != 3#2 && orderOk (m.extractLsb' 4 1) (m.extractLsb' 2 2)

/-- The bits an IMM prefix must hold zero before LI, LDG and STG (R162, R355), judged from the word that follows. -/
def immBitsOk (op : BitVec 7) (fn : BitVec 4) (x : BitVec 25) : Bool :=
  if op == 0x03#7 && fn == 0#4 then x.extractLsb' 18 7 == 0#7
  else if op == 0x42#7 || op == 0x45#7 then x.extractLsb' 7 18 == 0#18 && gatherModeOk (x.extractLsb' 0 7)
  else true

/-- The IMM prefix of LI holds zero above bit 17 (R162). -/
def liImmOk : Option (BitVec 25) → Bool
  | none => true
  | some x => x.extractLsb' 18 7 == 0#7

/-- The IMM prefix of LDG and STG carries an m of R158 and nothing else (R162). -/
def gatherImmOk : Option (BitVec 25) → Bool
  | none => true
  | some x => x.extractLsb' 7 18 == 0#18 && gatherModeOk (x.extractLsb' 0 7)

/-- The operand limits of the instruction's own word. -/
def Instr.fieldsOk : Instr → Bool
  | .powerOnReset => true
  | .warmReset => true
  | .powerSample _ => true
  | .dramRefresh _ _ => true
  | .dhTrain _ _ _ => true
  | .dhTrainDone _ _ => true
  | .dhEnable _ _ _ => true
  | .dhFrameStart _ => true
  | .hgHtail _ _ => true
  | .taskAcceptance => true
  | .agingStep => true
  | .evminReservation => true
  | .taskDispatch => true
  | .bundlePlacement _ => true
  | .fastPathPlacement _ => true
  | .stealRequest _ => true
  | .bundleEviction _ => true
  | .bundleRestore _ _ _ => true
  | .workQueueTailObserve _ => true
  | .workQueueLaunch _ => true
  | .taskCompletion _ => true
  | .frameToken _ => true
  | .traceStart _ => true
  | .traceStop _ => true
  | .hgPolicy _ _ => true
  | .hgQtcount _ _ => true
  | .hgFkill _ _ => true
  | .backwaterFullReport => true
  | .hostIrq _ _ => true
  | .mstOwn _ _ => true
  | .registerWrite _ _ _ => true
  | .hostMemoryWrite _ _ => true
  | .hostMemoryRead _ _ => true
  | .hostAtomic _ _ _ _ _ => true
  | .lineLeaseExpiry _ _ => true
  | .crossDieWriteApply _ => true
  | .writeAcknowledge _ => true
  | .readRequestServe _ _ => true
  | .loadDataReturn _ _ _ _ => true
  | .walkComplete _ _ _ => true
  | .uncorrectableMemoryError _ _ => true
  | .scratchpadSoftError _ _ _ _ => true
  | .ackOverdue _ => true
  | .watchTimeout _ _ _ => true
  | .strandWake _ _ _ => true
  | .rwrDeposit _ => true
  | .mailboxAccept _ _ => true
  | .mxMma _ _ => true
  | .mxMmac _ _ => true
  | .ssbScan _ _ => true
  | .ceCopy _ _ => true
  | .qeQuant _ _ => true
  | .engineCommandComplete _ _ _ => true
  | .engctlResume _ _ _ => true
  | .engctlAbandon _ _ _ => true
  | .mxringTailObserve _ _ => true
  | .weirAdmit _ => true
  | .flumeRaster _ => true
  | .flumeDepth _ => true
  | .flumeBlend _ => true
  | .flumeTessellator _ => true
  | .flumeTextureFilter _ => true
  | .flumeTraversal _ => true
  | .flumeReprojection _ => true
  | .flumeSieve _ => true
  | .sieveAgeFlush _ => true
  | .queueRoomResume _ => true
  | .orderDomainAdvance _ => true
  | .traversalTask _ => true
  | .flDom _ _ _ => true
  | .pair _ => true
  | .pairAck _ => true
  | .migrate _ => true
  | .migrateDone _ => true
  | .move _ => true
  | .moveData _ _ _ => true
  | .stepAck _ => true
  | .release _ => true
  | .cisternStep => true
  | .companionSurpriseDown => true
  | .companionUnresponsive => true
  | .azRetrain _ _ => true
  | .azClrpart _ _ => true
  | .partClearDone => true
  | .hostLinkDown => true
  | .i3cTargetReset => true
  | .mgDbg _ _ => true
  | .mgPwrReq _ _ => true
  | .retentionEntry => true
  | .idleEntry => true
  | .mgHalt _ _ => true
  | .mgHaltResume _ _ => true
  | .blobTransition _ _ => true
  | .blobConfiguration _ _ => true
  | .contextCapture _ _ => true
  | .taskEnd _ => true
  | .dumpWrite _ => true
  | .saluAdd _ _ _ => true
  | .saluSub _ _ _ => true
  | .saluMul _ _ _ => true
  | .saluMulhs _ _ _ => true
  | .saluMulhu _ _ _ => true
  | .saluAnd _ _ _ => true
  | .saluOr _ _ _ => true
  | .saluXor _ _ _ => true
  | .saluShl _ _ _ => true
  | .saluShr _ _ _ => true
  | .saluSar _ _ _ => true
  | .saluMin _ _ _ => true
  | .saluMax _ _ _ => true
  | .saluMinu _ _ _ => true
  | .saluMaxu _ _ _ => true
  | .saluSlt _ _ _ => true
  | .saluiAdd _ _ _ _ => true
  | .saluiSub _ _ _ _ => true
  | .saluiMul _ _ _ _ => true
  | .saluiMulhs _ _ _ _ => true
  | .saluiMulhu _ _ _ _ => true
  | .saluiAnd _ _ _ _ => true
  | .saluiOr _ _ _ _ => true
  | .saluiXor _ _ _ _ => true
  | .saluiShl _ _ _ _ => true
  | .saluiShr _ _ _ _ => true
  | .saluiSar _ _ _ _ => true
  | .saluiMin _ _ _ _ => true
  | .saluiMax _ _ _ _ => true
  | .saluiMinu _ _ _ _ => true
  | .saluiMaxu _ _ _ _ => true
  | .saluiSlt _ _ _ _ => true
  | .li _ _ _ => true
  | .lih _ _ => true
  | .sbitPopc _ _ => true
  | .sbitClz _ _ => true
  | .sbitCtz _ _ => true
  | .sbitBrev _ _ => true
  | .bfx _ _ _ => true
  | .bfi _ _ _ => true
  | .sextb _ _ => true
  | .sexth _ _ => true
  | .zextb _ _ => true
  | .zexth _ _ => true
  | .div _ _ _ _ => true
  | .divu _ _ _ _ => true
  | .rem _ _ _ _ => true
  | .remu _ _ _ _ => true
  | .scmpEq _ _ _ => true
  | .scmpNe _ _ _ => true
  | .scmpLt _ _ _ => true
  | .scmpLe _ _ _ => true
  | .scmpGt _ _ _ => true
  | .scmpGe _ _ _ => true
  | .scmpLtu _ _ _ => true
  | .scmpLeu _ _ _ => true
  | .scmpGtu _ _ _ => true
  | .scmpGeu _ _ _ => true
  | .scmpiEq _ _ _ _ => true
  | .scmpiNe _ _ _ _ => true
  | .scmpiLt _ _ _ _ => true
  | .scmpiLe _ _ _ _ => true
  | .scmpiGt _ _ _ _ => true
  | .scmpiGe _ _ _ _ => true
  | .scmpiLtu _ _ _ _ => true
  | .scmpiLeu _ _ _ _ => true
  | .scmpiGtu _ _ _ _ => true
  | .scmpiGeu _ _ _ _ => true
  | .pand _ _ _ => true
  | .por _ _ _ => true
  | .pxor _ _ _ => true
  | .pandn _ _ _ => true
  | .porn _ _ _ => true
  | .pnot _ _ => true
  | .pmov _ _ => true
  | .pclr _ => true
  | .pset _ => true
  | .sel _ _ _ _ _ => true
  | .bcasts _ _ => true
  | .extr _ _ _ => true
  | .insr _ _ _ => true
  | .crd _ _ => true
  | .cwr _ _ => true
  | .srd d a => srdOk a d
  | .movs _ _ => true
  | .movv _ _ => true
  | .prd _ _ => true
  | .pwr _ _ => true
  | .valuAdd _ _ _ _ => true
  | .valuSub _ _ _ _ => true
  | .valuMul _ _ _ _ => true
  | .valuMulhs _ _ _ _ => true
  | .valuMulhu _ _ _ _ => true
  | .valuAdds _ _ _ _ => true
  | .valuSubs _ _ _ _ => true
  | .valuAddus _ _ _ _ => true
  | .valuSubus _ _ _ _ => true
  | .valuMin _ _ _ _ => true
  | .valuMax _ _ _ _ => true
  | .valuMinu _ _ _ _ => true
  | .valuMaxu _ _ _ _ => true
  | .valuAbs _ _ _ => true
  | .valuNeg _ _ _ => true
  | .valuAbsd _ _ _ _ => true
  | .valuiAdd _ _ _ _ _ => true
  | .valuiSub _ _ _ _ _ => true
  | .valuiMul _ _ _ _ _ => true
  | .valuiMulhs _ _ _ _ _ => true
  | .valuiMulhu _ _ _ _ _ => true
  | .valuiAdds _ _ _ _ _ => true
  | .valuiSubs _ _ _ _ _ => true
  | .valuiAddus _ _ _ _ _ => true
  | .valuiSubus _ _ _ _ _ => true
  | .valuiMin _ _ _ _ _ => true
  | .valuiMax _ _ _ _ _ => true
  | .valuiMinu _ _ _ _ _ => true
  | .valuiMaxu _ _ _ _ _ => true
  | .valuiAbsd _ _ _ _ _ => true
  | .vmadMad _ _ _ _ => true
  | .vmadMsb _ _ _ _ => true
  | .vmadMads _ _ _ _ => true
  | .vmadMadI16 _ _ _ _ => true
  | .vmadMadI8 _ _ _ _ => true
  | .vdot2 _ _ _ _ => true
  | .vdot4 _ _ _ _ => true
  | .vdot4u _ _ _ _ => true
  | .vcmpEq _ _ _ _ => true
  | .vcmpNe _ _ _ _ => true
  | .vcmpLt _ _ _ _ => true
  | .vcmpLe _ _ _ _ => true
  | .vcmpGt _ _ _ _ => true
  | .vcmpGe _ _ _ _ => true
  | .vcmpLtu _ _ _ _ => true
  | .vcmpLeu _ _ _ _ => true
  | .vcmpGtu _ _ _ _ => true
  | .vcmpGeu _ _ _ _ => true
  | .vcmpEqI16 _ _ _ _ => true
  | .vcmpLtI16 _ _ _ _ => true
  | .vcmpLtuI16 _ _ _ _ => true
  | .vcmpEqI8 _ _ _ _ => true
  | .vcmpLtI8 _ _ _ _ => true
  | .vcmpLtuI8 _ _ _ _ => true
  | .perm _ _ _ _ => true
  | .shuf _ _ _ _ => true
  | .rot _ _ _ _ => true
  | .ext _ _ _ _ => true
  | .ins _ _ _ _ => true
  | .zip _ _ _ _ => true
  | .unzip _ _ _ _ => true
  | .vpackAdd _ _ _ _ _ => true
  | .vpackSub _ _ _ _ _ => true
  | .vpackAdds _ _ _ _ _ => true
  | .vpackSubs _ _ _ _ _ => true
  | .vpackAddus _ _ _ _ _ => true
  | .vpackSubus _ _ _ _ _ => true
  | .vpackMin _ _ _ _ _ => true
  | .vpackMax _ _ _ _ _ => true
  | .redadd _ _ _ => true
  | .redmin _ _ _ => true
  | .redmax _ _ _ => true
  | .redminu _ _ _ => true
  | .redmaxu _ _ _ => true
  | .redand _ _ _ => true
  | .redor _ _ _ => true
  | .redxor _ _ _ => true
  | .redaddF32 _ _ _ => true
  | .redminF32 _ _ _ => true
  | .redmaxF32 _ _ _ => true
  | .vbitAnd _ _ _ _ => true
  | .vbitOr _ _ _ _ => true
  | .vbitXor _ _ _ _ => true
  | .vbitAndn _ _ _ _ => true
  | .vbitNot _ _ _ => true
  | .vbitShl _ _ _ _ => true
  | .vbitShr _ _ _ _ => true
  | .vbitSar _ _ _ _ => true
  | .vbitShlI16 _ _ _ _ => true
  | .vbitShrI16 _ _ _ _ => true
  | .vbitSarI16 _ _ _ _ => true
  | .vbitPopc _ _ _ => true
  | .vbitClz _ _ _ => true
  | .vbitBrev _ _ _ => true
  | .vsel _ _ _ _ _ _ => true
  | .fadd _ _ _ _ => true
  | .fsub _ _ _ _ => true
  | .fmul _ _ _ _ => true
  | .fmin _ _ _ _ => true
  | .fmax _ _ _ _ => true
  | .fabs _ _ _ => true
  | .fneg _ _ _ => true
  | .fsgn _ _ _ _ => true
  | .fma _ _ _ _ => true
  | .fms _ _ _ _ => true
  | .fnma _ _ _ _ => true
  | .fnms _ _ _ _ => true
  | .fcmpF32Eq _ _ _ _ => true
  | .fcmpF32Ne _ _ _ _ => true
  | .fcmpF32Lt _ _ _ _ => true
  | .fcmpF32Le _ _ _ _ => true
  | .fcmpF32Gt _ _ _ _ => true
  | .fcmpF32Ge _ _ _ _ => true
  | .fcmpF32Unord _ _ _ _ => true
  | .fcmpF32Ord _ _ _ _ => true
  | .fcmpF16Eq _ _ _ _ => true
  | .fcmpF16Lt _ _ _ _ => true
  | .fcmpF16Le _ _ _ _ => true
  | .fcmpF16Unord _ _ _ _ => true
  | .fcmpBf16Eq _ _ _ _ => true
  | .fcmpBf16Lt _ _ _ _ => true
  | .fcmpBf16Le _ _ _ _ => true
  | .fcmpBf16Unord _ _ _ _ => true
  | .rcp _ _ _ _ => true
  | .rsq _ _ _ _ => true
  | .sqrt _ _ _ _ => true
  | .exp2 _ _ _ _ => true
  | .log2 _ _ _ _ => true
  | .sinpi _ _ _ _ => true
  | .cospi _ _ _ _ => true
  | .tanh _ _ _ _ => true
  | .fdiv _ _ _ _ _ => true
  | .fcvt _ t _ _ s r => fcvtOk t s r
  | .frnd _ r _ _ t => frndOk r && t.toNat ≤ 2
  | .fclass _ _ _ t => t.toNat ≤ 2
  | .dot2F16 _ _ _ _ => true
  | .dot2Bf16 _ _ _ _ => true
  | .dot4E5m2 _ _ _ _ => true
  | .dot4E4m3 _ _ _ _ => true
  | .dot4I8 _ _ _ _ => true
  | .dot8I4 _ _ _ _ => true
  | .falu16Fadd _ _ _ _ _ => true
  | .falu16Fsub _ _ _ _ _ => true
  | .falu16Fmul _ _ _ _ _ => true
  | .falu16Fmin _ _ _ _ _ => true
  | .falu16Fmax _ _ _ _ _ => true
  | .falu16Fma _ _ _ _ _ => true
  | .falu16Fabs _ _ _ _ => true
  | .falu16Fneg _ _ _ _ => true
  | .br _ _ => true
  | .brp _ _ _ _ => true
  | .call _ _ => true
  | .jr _ => true
  | .jalr _ => true
  | .ret => true
  | .retPair a => pairOk a
  | .rcv => true
  | .exit => true
  | .yield => true
  | .sleep _ => true
  | .lds _ _ d a s q c _ => pairOk a && orderOk q c && (s != 3#2 || pairOk d)
  | .ldv _ _ _ _ a _ q c _ => pairOk a && orderOk q c
  | .ldg _ _ _ _ a _ => pairOk a
  | .sts _ d a s q c _ => pairOk a && orderOk q c && (s != 3#2 || pairOk d)
  | .stv _ _ _ a _ q c _ => pairOk a && orderOk q c
  | .stg _ _ _ a _ => pairOk a
  | .pref _ a _ => pairOk a
  | .atomAdd _ _ _ a _ _ => pairOk a
  | .atomMin _ _ _ a _ _ => pairOk a
  | .atomMax _ _ _ a _ _ => pairOk a
  | .atomMinu _ _ _ a _ _ => pairOk a
  | .atomMaxu _ _ _ a _ _ => pairOk a
  | .atomAnd _ _ _ a _ _ => pairOk a
  | .atomOr _ _ _ a _ _ => pairOk a
  | .atomXor _ _ _ a _ _ => pairOk a
  | .atomXchg _ _ _ a _ _ => pairOk a
  | .atomCas _ _ d a _ _ => pairOk a && pairOk d
  | .atomvAdd _ _ _ a _ _ => pairOk a
  | .atomvMin _ _ _ a _ _ => pairOk a
  | .atomvMax _ _ _ a _ _ => pairOk a
  | .atomvMinu _ _ _ a _ _ => pairOk a
  | .atomvMaxu _ _ _ a _ _ => pairOk a
  | .atomvAnd _ _ _ a _ _ => pairOk a
  | .atomvOr _ _ _ a _ _ => pairOk a
  | .atomvXor _ _ _ a _ _ => pairOk a
  | .atomvXchg _ _ _ a _ _ => pairOk a
  | .atomvCas _ _ _ a _ _ => pairOk a
  | .atomvXchgW128 _ _ _ a _ _ => pairOk a
  | .atomvCasW128 _ _ _ a _ _ => pairOk a
  | .mwatch _ a => pairOk a
  | .fenceAcq _ => true
  | .fenceRel _ => true
  | .fenceFull _ => true
  | .mwait => true
  | .bnew _ _ => true
  | .bjoin _ _ => true
  | .bleave => true
  | .binfo _ k => k.toNat ≤ 2
  | .barInit _ _ => true
  | .barSync a c _ => c == 1#1 || a == 0#7
  | .barArrive a c _ => c == 1#1 || a == 0#7
  | .barExpect _ _ => true
  | .barQuery d c _ => c == 0#1 || pairOk d
  | .ballot d _ w => pairOk d && w.toNat ≤ 7
  | .any _ _ => true
  | .all _ _ => true
  | .bcast _ _ _ => true
  | .radd _ _ _ t => collFmtOk t
  | .rmin _ _ _ t => collFmtOk t
  | .rmax _ _ _ t => collFmtOk t
  | .scanadd _ _ _ t => collFmtOk t
  | .rwrScalar _ _ b => pairOk b
  | .rwrVector _ _ b => pairOk b
  | .rwait _ => true
  | .qsend _ m _ => m != 0#7
  | .qrecv _ _ => true
  | .flagSet _ => true
  | .flagClr _ => true
  | .flagWait _ => true
  | .flagTest _ _ => true
  | .wbases k => k.toNat ≤ 7
  | .wbasev k => k.toNat ≤ 15
  | .xacqs k => k.toNat ≤ 7
  | .xacqv k => k.toNat ≤ 15
  | .xrels k => k.toNat ≤ 7
  | .xrelv k => k.toNat ≤ 15
  | .tresv _ a => pairOk a
  | .trel _ => true
  | .tstat _ _ => true
  | .twait _ k => k.toNat ≤ 3
  | .engqMx a => pairOk a
  | .engqCe a => pairOk a
  | .engqSsb a => pairOk a
  | .engqQe a => pairOk a
  | .fork e a b => e != 0#4 && pairOk a && pairOk b
  | .rdv _ a => pairOk a
  | .specEpoch _ _ => true
  | .specCommit _ _ => true
  | .specCancel _ _ => true
  | .flcall _ _ _ => true
  | .flwait _ => true
  | .take _ _ _ => true
  | .skip _ _ => true
  | .tspawn _ a => pairOk a
  | .tsignal _ => true
  | .tqrd _ _ k => k.toNat ≤ 2
  | .csrr d c => csrOk c d
  | .csrw d c => csrOk c d
  | .trap _ => true
  | .eret => true
  | .cclr a => pairOk a
  | .bkpt _ => true
  | .tmark _ _ => true
  | .isync => true
  | .l1inv a b => lineSelOk a b
  | .tlbinv d a b => pageSelOk d a b
  | .shoot d a b => pageSelOk d a b
  | .rdcinv a b => lineSelOk a b
  | .powerLoss => true
  | .companionLinkUp => true
  | .companionAtomicop _ _ _ _ _ => true

/-- The limits of what the instruction's IMM prefix carries. -/
def Instr.immOk : Instr → Bool
  | .powerOnReset => true
  | .warmReset => true
  | .powerSample _ => true
  | .dramRefresh _ _ => true
  | .dhTrain _ _ _ => true
  | .dhTrainDone _ _ => true
  | .dhEnable _ _ _ => true
  | .dhFrameStart _ => true
  | .hgHtail _ _ => true
  | .taskAcceptance => true
  | .agingStep => true
  | .evminReservation => true
  | .taskDispatch => true
  | .bundlePlacement _ => true
  | .fastPathPlacement _ => true
  | .stealRequest _ => true
  | .bundleEviction _ => true
  | .bundleRestore _ _ _ => true
  | .workQueueTailObserve _ => true
  | .workQueueLaunch _ => true
  | .taskCompletion _ => true
  | .frameToken _ => true
  | .traceStart _ => true
  | .traceStop _ => true
  | .hgPolicy _ _ => true
  | .hgQtcount _ _ => true
  | .hgFkill _ _ => true
  | .backwaterFullReport => true
  | .hostIrq _ _ => true
  | .mstOwn _ _ => true
  | .registerWrite _ _ _ => true
  | .hostMemoryWrite _ _ => true
  | .hostMemoryRead _ _ => true
  | .hostAtomic _ _ _ _ _ => true
  | .lineLeaseExpiry _ _ => true
  | .crossDieWriteApply _ => true
  | .writeAcknowledge _ => true
  | .readRequestServe _ _ => true
  | .loadDataReturn _ _ _ _ => true
  | .walkComplete _ _ _ => true
  | .uncorrectableMemoryError _ _ => true
  | .scratchpadSoftError _ _ _ _ => true
  | .ackOverdue _ => true
  | .watchTimeout _ _ _ => true
  | .strandWake _ _ _ => true
  | .rwrDeposit _ => true
  | .mailboxAccept _ _ => true
  | .mxMma _ _ => true
  | .mxMmac _ _ => true
  | .ssbScan _ _ => true
  | .ceCopy _ _ => true
  | .qeQuant _ _ => true
  | .engineCommandComplete _ _ _ => true
  | .engctlResume _ _ _ => true
  | .engctlAbandon _ _ _ => true
  | .mxringTailObserve _ _ => true
  | .weirAdmit _ => true
  | .flumeRaster _ => true
  | .flumeDepth _ => true
  | .flumeBlend _ => true
  | .flumeTessellator _ => true
  | .flumeTextureFilter _ => true
  | .flumeTraversal _ => true
  | .flumeReprojection _ => true
  | .flumeSieve _ => true
  | .sieveAgeFlush _ => true
  | .queueRoomResume _ => true
  | .orderDomainAdvance _ => true
  | .traversalTask _ => true
  | .flDom _ _ _ => true
  | .pair _ => true
  | .pairAck _ => true
  | .migrate _ => true
  | .migrateDone _ => true
  | .move _ => true
  | .moveData _ _ _ => true
  | .stepAck _ => true
  | .release _ => true
  | .cisternStep => true
  | .companionSurpriseDown => true
  | .companionUnresponsive => true
  | .azRetrain _ _ => true
  | .azClrpart _ _ => true
  | .partClearDone => true
  | .hostLinkDown => true
  | .i3cTargetReset => true
  | .mgDbg _ _ => true
  | .mgPwrReq _ _ => true
  | .retentionEntry => true
  | .idleEntry => true
  | .mgHalt _ _ => true
  | .mgHaltResume _ _ => true
  | .blobTransition _ _ => true
  | .blobConfiguration _ _ => true
  | .contextCapture _ _ => true
  | .taskEnd _ => true
  | .dumpWrite _ => true
  | .saluAdd _ _ _ => true
  | .saluSub _ _ _ => true
  | .saluMul _ _ _ => true
  | .saluMulhs _ _ _ => true
  | .saluMulhu _ _ _ => true
  | .saluAnd _ _ _ => true
  | .saluOr _ _ _ => true
  | .saluXor _ _ _ => true
  | .saluShl _ _ _ => true
  | .saluShr _ _ _ => true
  | .saluSar _ _ _ => true
  | .saluMin _ _ _ => true
  | .saluMax _ _ _ => true
  | .saluMinu _ _ _ => true
  | .saluMaxu _ _ _ => true
  | .saluSlt _ _ _ => true
  | .saluiAdd _ _ _ _ => true
  | .saluiSub _ _ _ _ => true
  | .saluiMul _ _ _ _ => true
  | .saluiMulhs _ _ _ _ => true
  | .saluiMulhu _ _ _ _ => true
  | .saluiAnd _ _ _ _ => true
  | .saluiOr _ _ _ _ => true
  | .saluiXor _ _ _ _ => true
  | .saluiShl _ _ _ _ => true
  | .saluiShr _ _ _ _ => true
  | .saluiSar _ _ _ _ => true
  | .saluiMin _ _ _ _ => true
  | .saluiMax _ _ _ _ => true
  | .saluiMinu _ _ _ _ => true
  | .saluiMaxu _ _ _ _ => true
  | .saluiSlt _ _ _ _ => true
  | .li x _ _ => liImmOk x
  | .lih _ _ => true
  | .sbitPopc _ _ => true
  | .sbitClz _ _ => true
  | .sbitCtz _ _ => true
  | .sbitBrev _ _ => true
  | .bfx _ _ _ => true
  | .bfi _ _ _ => true
  | .sextb _ _ => true
  | .sexth _ _ => true
  | .zextb _ _ => true
  | .zexth _ _ => true
  | .div _ _ _ _ => true
  | .divu _ _ _ _ => true
  | .rem _ _ _ _ => true
  | .remu _ _ _ _ => true
  | .scmpEq _ _ _ => true
  | .scmpNe _ _ _ => true
  | .scmpLt _ _ _ => true
  | .scmpLe _ _ _ => true
  | .scmpGt _ _ _ => true
  | .scmpGe _ _ _ => true
  | .scmpLtu _ _ _ => true
  | .scmpLeu _ _ _ => true
  | .scmpGtu _ _ _ => true
  | .scmpGeu _ _ _ => true
  | .scmpiEq _ _ _ _ => true
  | .scmpiNe _ _ _ _ => true
  | .scmpiLt _ _ _ _ => true
  | .scmpiLe _ _ _ _ => true
  | .scmpiGt _ _ _ _ => true
  | .scmpiGe _ _ _ _ => true
  | .scmpiLtu _ _ _ _ => true
  | .scmpiLeu _ _ _ _ => true
  | .scmpiGtu _ _ _ _ => true
  | .scmpiGeu _ _ _ _ => true
  | .pand _ _ _ => true
  | .por _ _ _ => true
  | .pxor _ _ _ => true
  | .pandn _ _ _ => true
  | .porn _ _ _ => true
  | .pnot _ _ => true
  | .pmov _ _ => true
  | .pclr _ => true
  | .pset _ => true
  | .sel _ _ _ _ _ => true
  | .bcasts _ _ => true
  | .extr _ _ _ => true
  | .insr _ _ _ => true
  | .crd _ _ => true
  | .cwr _ _ => true
  | .srd _ _ => true
  | .movs _ _ => true
  | .movv _ _ => true
  | .prd _ _ => true
  | .pwr _ _ => true
  | .valuAdd _ _ _ _ => true
  | .valuSub _ _ _ _ => true
  | .valuMul _ _ _ _ => true
  | .valuMulhs _ _ _ _ => true
  | .valuMulhu _ _ _ _ => true
  | .valuAdds _ _ _ _ => true
  | .valuSubs _ _ _ _ => true
  | .valuAddus _ _ _ _ => true
  | .valuSubus _ _ _ _ => true
  | .valuMin _ _ _ _ => true
  | .valuMax _ _ _ _ => true
  | .valuMinu _ _ _ _ => true
  | .valuMaxu _ _ _ _ => true
  | .valuAbs _ _ _ => true
  | .valuNeg _ _ _ => true
  | .valuAbsd _ _ _ _ => true
  | .valuiAdd _ _ _ _ _ => true
  | .valuiSub _ _ _ _ _ => true
  | .valuiMul _ _ _ _ _ => true
  | .valuiMulhs _ _ _ _ _ => true
  | .valuiMulhu _ _ _ _ _ => true
  | .valuiAdds _ _ _ _ _ => true
  | .valuiSubs _ _ _ _ _ => true
  | .valuiAddus _ _ _ _ _ => true
  | .valuiSubus _ _ _ _ _ => true
  | .valuiMin _ _ _ _ _ => true
  | .valuiMax _ _ _ _ _ => true
  | .valuiMinu _ _ _ _ _ => true
  | .valuiMaxu _ _ _ _ _ => true
  | .valuiAbsd _ _ _ _ _ => true
  | .vmadMad _ _ _ _ => true
  | .vmadMsb _ _ _ _ => true
  | .vmadMads _ _ _ _ => true
  | .vmadMadI16 _ _ _ _ => true
  | .vmadMadI8 _ _ _ _ => true
  | .vdot2 _ _ _ _ => true
  | .vdot4 _ _ _ _ => true
  | .vdot4u _ _ _ _ => true
  | .vcmpEq _ _ _ _ => true
  | .vcmpNe _ _ _ _ => true
  | .vcmpLt _ _ _ _ => true
  | .vcmpLe _ _ _ _ => true
  | .vcmpGt _ _ _ _ => true
  | .vcmpGe _ _ _ _ => true
  | .vcmpLtu _ _ _ _ => true
  | .vcmpLeu _ _ _ _ => true
  | .vcmpGtu _ _ _ _ => true
  | .vcmpGeu _ _ _ _ => true
  | .vcmpEqI16 _ _ _ _ => true
  | .vcmpLtI16 _ _ _ _ => true
  | .vcmpLtuI16 _ _ _ _ => true
  | .vcmpEqI8 _ _ _ _ => true
  | .vcmpLtI8 _ _ _ _ => true
  | .vcmpLtuI8 _ _ _ _ => true
  | .perm _ _ _ _ => true
  | .shuf _ _ _ _ => true
  | .rot _ _ _ _ => true
  | .ext _ _ _ _ => true
  | .ins _ _ _ _ => true
  | .zip _ _ _ _ => true
  | .unzip _ _ _ _ => true
  | .vpackAdd _ _ _ _ _ => true
  | .vpackSub _ _ _ _ _ => true
  | .vpackAdds _ _ _ _ _ => true
  | .vpackSubs _ _ _ _ _ => true
  | .vpackAddus _ _ _ _ _ => true
  | .vpackSubus _ _ _ _ _ => true
  | .vpackMin _ _ _ _ _ => true
  | .vpackMax _ _ _ _ _ => true
  | .redadd _ _ _ => true
  | .redmin _ _ _ => true
  | .redmax _ _ _ => true
  | .redminu _ _ _ => true
  | .redmaxu _ _ _ => true
  | .redand _ _ _ => true
  | .redor _ _ _ => true
  | .redxor _ _ _ => true
  | .redaddF32 _ _ _ => true
  | .redminF32 _ _ _ => true
  | .redmaxF32 _ _ _ => true
  | .vbitAnd _ _ _ _ => true
  | .vbitOr _ _ _ _ => true
  | .vbitXor _ _ _ _ => true
  | .vbitAndn _ _ _ _ => true
  | .vbitNot _ _ _ => true
  | .vbitShl _ _ _ _ => true
  | .vbitShr _ _ _ _ => true
  | .vbitSar _ _ _ _ => true
  | .vbitShlI16 _ _ _ _ => true
  | .vbitShrI16 _ _ _ _ => true
  | .vbitSarI16 _ _ _ _ => true
  | .vbitPopc _ _ _ => true
  | .vbitClz _ _ _ => true
  | .vbitBrev _ _ _ => true
  | .vsel _ _ _ _ _ _ => true
  | .fadd _ _ _ _ => true
  | .fsub _ _ _ _ => true
  | .fmul _ _ _ _ => true
  | .fmin _ _ _ _ => true
  | .fmax _ _ _ _ => true
  | .fabs _ _ _ => true
  | .fneg _ _ _ => true
  | .fsgn _ _ _ _ => true
  | .fma _ _ _ _ => true
  | .fms _ _ _ _ => true
  | .fnma _ _ _ _ => true
  | .fnms _ _ _ _ => true
  | .fcmpF32Eq _ _ _ _ => true
  | .fcmpF32Ne _ _ _ _ => true
  | .fcmpF32Lt _ _ _ _ => true
  | .fcmpF32Le _ _ _ _ => true
  | .fcmpF32Gt _ _ _ _ => true
  | .fcmpF32Ge _ _ _ _ => true
  | .fcmpF32Unord _ _ _ _ => true
  | .fcmpF32Ord _ _ _ _ => true
  | .fcmpF16Eq _ _ _ _ => true
  | .fcmpF16Lt _ _ _ _ => true
  | .fcmpF16Le _ _ _ _ => true
  | .fcmpF16Unord _ _ _ _ => true
  | .fcmpBf16Eq _ _ _ _ => true
  | .fcmpBf16Lt _ _ _ _ => true
  | .fcmpBf16Le _ _ _ _ => true
  | .fcmpBf16Unord _ _ _ _ => true
  | .rcp _ _ _ _ => true
  | .rsq _ _ _ _ => true
  | .sqrt _ _ _ _ => true
  | .exp2 _ _ _ _ => true
  | .log2 _ _ _ _ => true
  | .sinpi _ _ _ _ => true
  | .cospi _ _ _ _ => true
  | .tanh _ _ _ _ => true
  | .fdiv _ _ _ _ _ => true
  | .fcvt _ _ _ _ _ _ => true
  | .frnd _ _ _ _ _ => true
  | .fclass _ _ _ _ => true
  | .dot2F16 _ _ _ _ => true
  | .dot2Bf16 _ _ _ _ => true
  | .dot4E5m2 _ _ _ _ => true
  | .dot4E4m3 _ _ _ _ => true
  | .dot4I8 _ _ _ _ => true
  | .dot8I4 _ _ _ _ => true
  | .falu16Fadd _ _ _ _ _ => true
  | .falu16Fsub _ _ _ _ _ => true
  | .falu16Fmul _ _ _ _ _ => true
  | .falu16Fmin _ _ _ _ _ => true
  | .falu16Fmax _ _ _ _ _ => true
  | .falu16Fma _ _ _ _ _ => true
  | .falu16Fabs _ _ _ _ => true
  | .falu16Fneg _ _ _ _ => true
  | .br _ _ => true
  | .brp _ _ _ _ => true
  | .call _ _ => true
  | .jr _ => true
  | .jalr _ => true
  | .ret => true
  | .retPair _ => true
  | .rcv => true
  | .exit => true
  | .yield => true
  | .sleep _ => true
  | .lds _ _ _ _ _ _ _ _ => true
  | .ldv _ _ _ _ _ _ _ _ _ => true
  | .ldg _ x _ _ _ _ => gatherImmOk x
  | .sts _ _ _ _ _ _ _ => true
  | .stv _ _ _ _ _ _ _ _ => true
  | .stg _ x _ _ _ => gatherImmOk x
  | .pref _ _ _ => true
  | .atomAdd _ _ _ _ _ _ => true
  | .atomMin _ _ _ _ _ _ => true
  | .atomMax _ _ _ _ _ _ => true
  | .atomMinu _ _ _ _ _ _ => true
  | .atomMaxu _ _ _ _ _ _ => true
  | .atomAnd _ _ _ _ _ _ => true
  | .atomOr _ _ _ _ _ _ => true
  | .atomXor _ _ _ _ _ _ => true
  | .atomXchg _ _ _ _ _ _ => true
  | .atomCas _ _ _ _ _ _ => true
  | .atomvAdd _ _ _ _ _ _ => true
  | .atomvMin _ _ _ _ _ _ => true
  | .atomvMax _ _ _ _ _ _ => true
  | .atomvMinu _ _ _ _ _ _ => true
  | .atomvMaxu _ _ _ _ _ _ => true
  | .atomvAnd _ _ _ _ _ _ => true
  | .atomvOr _ _ _ _ _ _ => true
  | .atomvXor _ _ _ _ _ _ => true
  | .atomvXchg _ _ _ _ _ _ => true
  | .atomvCas _ _ _ _ _ _ => true
  | .atomvXchgW128 _ _ _ _ _ _ => true
  | .atomvCasW128 _ _ _ _ _ _ => true
  | .mwatch _ _ => true
  | .fenceAcq _ => true
  | .fenceRel _ => true
  | .fenceFull _ => true
  | .mwait => true
  | .bnew _ _ => true
  | .bjoin _ _ => true
  | .bleave => true
  | .binfo _ _ => true
  | .barInit _ _ => true
  | .barSync _ _ _ => true
  | .barArrive _ _ _ => true
  | .barExpect _ _ => true
  | .barQuery _ _ _ => true
  | .ballot _ _ _ => true
  | .any _ _ => true
  | .all _ _ => true
  | .bcast _ _ _ => true
  | .radd _ _ _ _ => true
  | .rmin _ _ _ _ => true
  | .rmax _ _ _ _ => true
  | .scanadd _ _ _ _ => true
  | .rwrScalar _ _ _ => true
  | .rwrVector _ _ _ => true
  | .rwait _ => true
  | .qsend _ _ _ => true
  | .qrecv _ _ => true
  | .flagSet _ => true
  | .flagClr _ => true
  | .flagWait _ => true
  | .flagTest _ _ => true
  | .wbases _ => true
  | .wbasev _ => true
  | .xacqs _ => true
  | .xacqv _ => true
  | .xrels _ => true
  | .xrelv _ => true
  | .tresv _ _ => true
  | .trel _ => true
  | .tstat _ _ => true
  | .twait _ _ => true
  | .engqMx _ => true
  | .engqCe _ => true
  | .engqSsb _ => true
  | .engqQe _ => true
  | .fork _ _ _ => true
  | .rdv _ _ => true
  | .specEpoch _ _ => true
  | .specCommit _ _ => true
  | .specCancel _ _ => true
  | .flcall _ _ _ => true
  | .flwait _ => true
  | .take _ _ _ => true
  | .skip _ _ => true
  | .tspawn _ _ => true
  | .tsignal _ => true
  | .tqrd _ _ _ => true
  | .csrr _ _ => true
  | .csrw _ _ => true
  | .trap _ => true
  | .eret => true
  | .cclr _ => true
  | .bkpt _ => true
  | .tmark _ _ => true
  | .isync => true
  | .l1inv _ _ => true
  | .tlbinv _ _ _ => true
  | .shoot _ _ _ => true
  | .rdcinv _ _ => true
  | .powerLoss => true
  | .companionLinkUp => true
  | .companionAtomicop _ _ _ _ _ => true

/-- Whether the row is an instruction of a strand (it has an encoding) and not an event of the device. -/
def Instr.encoded : Instr → Bool
  | .powerOnReset => false
  | .warmReset => false
  | .powerSample _ => false
  | .dramRefresh _ _ => false
  | .dhTrain _ _ _ => false
  | .dhTrainDone _ _ => false
  | .dhEnable _ _ _ => false
  | .dhFrameStart _ => false
  | .hgHtail _ _ => false
  | .taskAcceptance => false
  | .agingStep => false
  | .evminReservation => false
  | .taskDispatch => false
  | .bundlePlacement _ => false
  | .fastPathPlacement _ => false
  | .stealRequest _ => false
  | .bundleEviction _ => false
  | .bundleRestore _ _ _ => false
  | .workQueueTailObserve _ => false
  | .workQueueLaunch _ => false
  | .taskCompletion _ => false
  | .frameToken _ => false
  | .traceStart _ => false
  | .traceStop _ => false
  | .hgPolicy _ _ => false
  | .hgQtcount _ _ => false
  | .hgFkill _ _ => false
  | .backwaterFullReport => false
  | .hostIrq _ _ => false
  | .mstOwn _ _ => false
  | .registerWrite _ _ _ => false
  | .hostMemoryWrite _ _ => false
  | .hostMemoryRead _ _ => false
  | .hostAtomic _ _ _ _ _ => false
  | .lineLeaseExpiry _ _ => false
  | .crossDieWriteApply _ => false
  | .writeAcknowledge _ => false
  | .readRequestServe _ _ => false
  | .loadDataReturn _ _ _ _ => false
  | .walkComplete _ _ _ => false
  | .uncorrectableMemoryError _ _ => false
  | .scratchpadSoftError _ _ _ _ => false
  | .ackOverdue _ => false
  | .watchTimeout _ _ _ => false
  | .strandWake _ _ _ => false
  | .rwrDeposit _ => false
  | .mailboxAccept _ _ => false
  | .mxMma _ _ => false
  | .mxMmac _ _ => false
  | .ssbScan _ _ => false
  | .ceCopy _ _ => false
  | .qeQuant _ _ => false
  | .engineCommandComplete _ _ _ => false
  | .engctlResume _ _ _ => false
  | .engctlAbandon _ _ _ => false
  | .mxringTailObserve _ _ => false
  | .weirAdmit _ => false
  | .flumeRaster _ => false
  | .flumeDepth _ => false
  | .flumeBlend _ => false
  | .flumeTessellator _ => false
  | .flumeTextureFilter _ => false
  | .flumeTraversal _ => false
  | .flumeReprojection _ => false
  | .flumeSieve _ => false
  | .sieveAgeFlush _ => false
  | .queueRoomResume _ => false
  | .orderDomainAdvance _ => false
  | .traversalTask _ => false
  | .flDom _ _ _ => false
  | .pair _ => false
  | .pairAck _ => false
  | .migrate _ => false
  | .migrateDone _ => false
  | .move _ => false
  | .moveData _ _ _ => false
  | .stepAck _ => false
  | .release _ => false
  | .cisternStep => false
  | .companionSurpriseDown => false
  | .companionUnresponsive => false
  | .azRetrain _ _ => false
  | .azClrpart _ _ => false
  | .partClearDone => false
  | .hostLinkDown => false
  | .i3cTargetReset => false
  | .mgDbg _ _ => false
  | .mgPwrReq _ _ => false
  | .retentionEntry => false
  | .idleEntry => false
  | .mgHalt _ _ => false
  | .mgHaltResume _ _ => false
  | .blobTransition _ _ => false
  | .blobConfiguration _ _ => false
  | .contextCapture _ _ => false
  | .taskEnd _ => false
  | .dumpWrite _ => false
  | .saluAdd _ _ _ => true
  | .saluSub _ _ _ => true
  | .saluMul _ _ _ => true
  | .saluMulhs _ _ _ => true
  | .saluMulhu _ _ _ => true
  | .saluAnd _ _ _ => true
  | .saluOr _ _ _ => true
  | .saluXor _ _ _ => true
  | .saluShl _ _ _ => true
  | .saluShr _ _ _ => true
  | .saluSar _ _ _ => true
  | .saluMin _ _ _ => true
  | .saluMax _ _ _ => true
  | .saluMinu _ _ _ => true
  | .saluMaxu _ _ _ => true
  | .saluSlt _ _ _ => true
  | .saluiAdd _ _ _ _ => true
  | .saluiSub _ _ _ _ => true
  | .saluiMul _ _ _ _ => true
  | .saluiMulhs _ _ _ _ => true
  | .saluiMulhu _ _ _ _ => true
  | .saluiAnd _ _ _ _ => true
  | .saluiOr _ _ _ _ => true
  | .saluiXor _ _ _ _ => true
  | .saluiShl _ _ _ _ => true
  | .saluiShr _ _ _ _ => true
  | .saluiSar _ _ _ _ => true
  | .saluiMin _ _ _ _ => true
  | .saluiMax _ _ _ _ => true
  | .saluiMinu _ _ _ _ => true
  | .saluiMaxu _ _ _ _ => true
  | .saluiSlt _ _ _ _ => true
  | .li _ _ _ => true
  | .lih _ _ => true
  | .sbitPopc _ _ => true
  | .sbitClz _ _ => true
  | .sbitCtz _ _ => true
  | .sbitBrev _ _ => true
  | .bfx _ _ _ => true
  | .bfi _ _ _ => true
  | .sextb _ _ => true
  | .sexth _ _ => true
  | .zextb _ _ => true
  | .zexth _ _ => true
  | .div _ _ _ _ => true
  | .divu _ _ _ _ => true
  | .rem _ _ _ _ => true
  | .remu _ _ _ _ => true
  | .scmpEq _ _ _ => true
  | .scmpNe _ _ _ => true
  | .scmpLt _ _ _ => true
  | .scmpLe _ _ _ => true
  | .scmpGt _ _ _ => true
  | .scmpGe _ _ _ => true
  | .scmpLtu _ _ _ => true
  | .scmpLeu _ _ _ => true
  | .scmpGtu _ _ _ => true
  | .scmpGeu _ _ _ => true
  | .scmpiEq _ _ _ _ => true
  | .scmpiNe _ _ _ _ => true
  | .scmpiLt _ _ _ _ => true
  | .scmpiLe _ _ _ _ => true
  | .scmpiGt _ _ _ _ => true
  | .scmpiGe _ _ _ _ => true
  | .scmpiLtu _ _ _ _ => true
  | .scmpiLeu _ _ _ _ => true
  | .scmpiGtu _ _ _ _ => true
  | .scmpiGeu _ _ _ _ => true
  | .pand _ _ _ => true
  | .por _ _ _ => true
  | .pxor _ _ _ => true
  | .pandn _ _ _ => true
  | .porn _ _ _ => true
  | .pnot _ _ => true
  | .pmov _ _ => true
  | .pclr _ => true
  | .pset _ => true
  | .sel _ _ _ _ _ => true
  | .bcasts _ _ => true
  | .extr _ _ _ => true
  | .insr _ _ _ => true
  | .crd _ _ => true
  | .cwr _ _ => true
  | .srd _ _ => true
  | .movs _ _ => true
  | .movv _ _ => true
  | .prd _ _ => true
  | .pwr _ _ => true
  | .valuAdd _ _ _ _ => true
  | .valuSub _ _ _ _ => true
  | .valuMul _ _ _ _ => true
  | .valuMulhs _ _ _ _ => true
  | .valuMulhu _ _ _ _ => true
  | .valuAdds _ _ _ _ => true
  | .valuSubs _ _ _ _ => true
  | .valuAddus _ _ _ _ => true
  | .valuSubus _ _ _ _ => true
  | .valuMin _ _ _ _ => true
  | .valuMax _ _ _ _ => true
  | .valuMinu _ _ _ _ => true
  | .valuMaxu _ _ _ _ => true
  | .valuAbs _ _ _ => true
  | .valuNeg _ _ _ => true
  | .valuAbsd _ _ _ _ => true
  | .valuiAdd _ _ _ _ _ => true
  | .valuiSub _ _ _ _ _ => true
  | .valuiMul _ _ _ _ _ => true
  | .valuiMulhs _ _ _ _ _ => true
  | .valuiMulhu _ _ _ _ _ => true
  | .valuiAdds _ _ _ _ _ => true
  | .valuiSubs _ _ _ _ _ => true
  | .valuiAddus _ _ _ _ _ => true
  | .valuiSubus _ _ _ _ _ => true
  | .valuiMin _ _ _ _ _ => true
  | .valuiMax _ _ _ _ _ => true
  | .valuiMinu _ _ _ _ _ => true
  | .valuiMaxu _ _ _ _ _ => true
  | .valuiAbsd _ _ _ _ _ => true
  | .vmadMad _ _ _ _ => true
  | .vmadMsb _ _ _ _ => true
  | .vmadMads _ _ _ _ => true
  | .vmadMadI16 _ _ _ _ => true
  | .vmadMadI8 _ _ _ _ => true
  | .vdot2 _ _ _ _ => true
  | .vdot4 _ _ _ _ => true
  | .vdot4u _ _ _ _ => true
  | .vcmpEq _ _ _ _ => true
  | .vcmpNe _ _ _ _ => true
  | .vcmpLt _ _ _ _ => true
  | .vcmpLe _ _ _ _ => true
  | .vcmpGt _ _ _ _ => true
  | .vcmpGe _ _ _ _ => true
  | .vcmpLtu _ _ _ _ => true
  | .vcmpLeu _ _ _ _ => true
  | .vcmpGtu _ _ _ _ => true
  | .vcmpGeu _ _ _ _ => true
  | .vcmpEqI16 _ _ _ _ => true
  | .vcmpLtI16 _ _ _ _ => true
  | .vcmpLtuI16 _ _ _ _ => true
  | .vcmpEqI8 _ _ _ _ => true
  | .vcmpLtI8 _ _ _ _ => true
  | .vcmpLtuI8 _ _ _ _ => true
  | .perm _ _ _ _ => true
  | .shuf _ _ _ _ => true
  | .rot _ _ _ _ => true
  | .ext _ _ _ _ => true
  | .ins _ _ _ _ => true
  | .zip _ _ _ _ => true
  | .unzip _ _ _ _ => true
  | .vpackAdd _ _ _ _ _ => true
  | .vpackSub _ _ _ _ _ => true
  | .vpackAdds _ _ _ _ _ => true
  | .vpackSubs _ _ _ _ _ => true
  | .vpackAddus _ _ _ _ _ => true
  | .vpackSubus _ _ _ _ _ => true
  | .vpackMin _ _ _ _ _ => true
  | .vpackMax _ _ _ _ _ => true
  | .redadd _ _ _ => true
  | .redmin _ _ _ => true
  | .redmax _ _ _ => true
  | .redminu _ _ _ => true
  | .redmaxu _ _ _ => true
  | .redand _ _ _ => true
  | .redor _ _ _ => true
  | .redxor _ _ _ => true
  | .redaddF32 _ _ _ => true
  | .redminF32 _ _ _ => true
  | .redmaxF32 _ _ _ => true
  | .vbitAnd _ _ _ _ => true
  | .vbitOr _ _ _ _ => true
  | .vbitXor _ _ _ _ => true
  | .vbitAndn _ _ _ _ => true
  | .vbitNot _ _ _ => true
  | .vbitShl _ _ _ _ => true
  | .vbitShr _ _ _ _ => true
  | .vbitSar _ _ _ _ => true
  | .vbitShlI16 _ _ _ _ => true
  | .vbitShrI16 _ _ _ _ => true
  | .vbitSarI16 _ _ _ _ => true
  | .vbitPopc _ _ _ => true
  | .vbitClz _ _ _ => true
  | .vbitBrev _ _ _ => true
  | .vsel _ _ _ _ _ _ => true
  | .fadd _ _ _ _ => true
  | .fsub _ _ _ _ => true
  | .fmul _ _ _ _ => true
  | .fmin _ _ _ _ => true
  | .fmax _ _ _ _ => true
  | .fabs _ _ _ => true
  | .fneg _ _ _ => true
  | .fsgn _ _ _ _ => true
  | .fma _ _ _ _ => true
  | .fms _ _ _ _ => true
  | .fnma _ _ _ _ => true
  | .fnms _ _ _ _ => true
  | .fcmpF32Eq _ _ _ _ => true
  | .fcmpF32Ne _ _ _ _ => true
  | .fcmpF32Lt _ _ _ _ => true
  | .fcmpF32Le _ _ _ _ => true
  | .fcmpF32Gt _ _ _ _ => true
  | .fcmpF32Ge _ _ _ _ => true
  | .fcmpF32Unord _ _ _ _ => true
  | .fcmpF32Ord _ _ _ _ => true
  | .fcmpF16Eq _ _ _ _ => true
  | .fcmpF16Lt _ _ _ _ => true
  | .fcmpF16Le _ _ _ _ => true
  | .fcmpF16Unord _ _ _ _ => true
  | .fcmpBf16Eq _ _ _ _ => true
  | .fcmpBf16Lt _ _ _ _ => true
  | .fcmpBf16Le _ _ _ _ => true
  | .fcmpBf16Unord _ _ _ _ => true
  | .rcp _ _ _ _ => true
  | .rsq _ _ _ _ => true
  | .sqrt _ _ _ _ => true
  | .exp2 _ _ _ _ => true
  | .log2 _ _ _ _ => true
  | .sinpi _ _ _ _ => true
  | .cospi _ _ _ _ => true
  | .tanh _ _ _ _ => true
  | .fdiv _ _ _ _ _ => true
  | .fcvt _ _ _ _ _ _ => true
  | .frnd _ _ _ _ _ => true
  | .fclass _ _ _ _ => true
  | .dot2F16 _ _ _ _ => true
  | .dot2Bf16 _ _ _ _ => true
  | .dot4E5m2 _ _ _ _ => true
  | .dot4E4m3 _ _ _ _ => true
  | .dot4I8 _ _ _ _ => true
  | .dot8I4 _ _ _ _ => true
  | .falu16Fadd _ _ _ _ _ => true
  | .falu16Fsub _ _ _ _ _ => true
  | .falu16Fmul _ _ _ _ _ => true
  | .falu16Fmin _ _ _ _ _ => true
  | .falu16Fmax _ _ _ _ _ => true
  | .falu16Fma _ _ _ _ _ => true
  | .falu16Fabs _ _ _ _ => true
  | .falu16Fneg _ _ _ _ => true
  | .br _ _ => true
  | .brp _ _ _ _ => true
  | .call _ _ => true
  | .jr _ => true
  | .jalr _ => true
  | .ret => true
  | .retPair _ => true
  | .rcv => true
  | .exit => true
  | .yield => true
  | .sleep _ => true
  | .lds _ _ _ _ _ _ _ _ => true
  | .ldv _ _ _ _ _ _ _ _ _ => true
  | .ldg _ _ _ _ _ _ => true
  | .sts _ _ _ _ _ _ _ => true
  | .stv _ _ _ _ _ _ _ _ => true
  | .stg _ _ _ _ _ => true
  | .pref _ _ _ => true
  | .atomAdd _ _ _ _ _ _ => true
  | .atomMin _ _ _ _ _ _ => true
  | .atomMax _ _ _ _ _ _ => true
  | .atomMinu _ _ _ _ _ _ => true
  | .atomMaxu _ _ _ _ _ _ => true
  | .atomAnd _ _ _ _ _ _ => true
  | .atomOr _ _ _ _ _ _ => true
  | .atomXor _ _ _ _ _ _ => true
  | .atomXchg _ _ _ _ _ _ => true
  | .atomCas _ _ _ _ _ _ => true
  | .atomvAdd _ _ _ _ _ _ => true
  | .atomvMin _ _ _ _ _ _ => true
  | .atomvMax _ _ _ _ _ _ => true
  | .atomvMinu _ _ _ _ _ _ => true
  | .atomvMaxu _ _ _ _ _ _ => true
  | .atomvAnd _ _ _ _ _ _ => true
  | .atomvOr _ _ _ _ _ _ => true
  | .atomvXor _ _ _ _ _ _ => true
  | .atomvXchg _ _ _ _ _ _ => true
  | .atomvCas _ _ _ _ _ _ => true
  | .atomvXchgW128 _ _ _ _ _ _ => true
  | .atomvCasW128 _ _ _ _ _ _ => true
  | .mwatch _ _ => true
  | .fenceAcq _ => true
  | .fenceRel _ => true
  | .fenceFull _ => true
  | .mwait => true
  | .bnew _ _ => true
  | .bjoin _ _ => true
  | .bleave => true
  | .binfo _ _ => true
  | .barInit _ _ => true
  | .barSync _ _ _ => true
  | .barArrive _ _ _ => true
  | .barExpect _ _ => true
  | .barQuery _ _ _ => true
  | .ballot _ _ _ => true
  | .any _ _ => true
  | .all _ _ => true
  | .bcast _ _ _ => true
  | .radd _ _ _ _ => true
  | .rmin _ _ _ _ => true
  | .rmax _ _ _ _ => true
  | .scanadd _ _ _ _ => true
  | .rwrScalar _ _ _ => true
  | .rwrVector _ _ _ => true
  | .rwait _ => true
  | .qsend _ _ _ => true
  | .qrecv _ _ => true
  | .flagSet _ => true
  | .flagClr _ => true
  | .flagWait _ => true
  | .flagTest _ _ => true
  | .wbases _ => true
  | .wbasev _ => true
  | .xacqs _ => true
  | .xacqv _ => true
  | .xrels _ => true
  | .xrelv _ => true
  | .tresv _ _ => true
  | .trel _ => true
  | .tstat _ _ => true
  | .twait _ _ => true
  | .engqMx _ => true
  | .engqCe _ => true
  | .engqSsb _ => true
  | .engqQe _ => true
  | .fork _ _ _ => true
  | .rdv _ _ => true
  | .specEpoch _ _ => true
  | .specCommit _ _ => true
  | .specCancel _ _ => true
  | .flcall _ _ _ => true
  | .flwait _ => true
  | .take _ _ _ => true
  | .skip _ _ => true
  | .tspawn _ _ => true
  | .tsignal _ => true
  | .tqrd _ _ _ => true
  | .csrr _ _ => true
  | .csrw _ _ => true
  | .trap _ => true
  | .eret => true
  | .cclr _ => true
  | .bkpt _ => true
  | .tmark _ _ => true
  | .isync => true
  | .l1inv _ _ => true
  | .tlbinv _ _ _ => true
  | .shoot _ _ _ => true
  | .rdcinv _ _ => true
  | .powerLoss => false
  | .companionLinkUp => false
  | .companionAtomicop _ _ _ _ _ => false

/-- An instruction of a strand all of whose operands stand within the limits of the spec. -/
def Instr.wf (i : Instr) : Bool := i.encoded && i.fieldsOk && i.immOk

end Sys2Proof
end

