-- ==== Sys2Proof/Decode.lean ====
section
/-! DEFINITION. Decoding instruction words (R158 to R168, R355), and the encoder written from the same tables.
A sequence of words that is not an instruction is rejected by name, with the word R355 reports in TVAL. -/
namespace Sys2Proof

/-- Format A, B, L, M and Q words (R158): op, fn or la, d, a, b. -/
def wordA (op : BitVec 7) (fn : BitVec 4) (d a b : BitVec 7) : Word := op ++ fn ++ d ++ a ++ b

/-- Format C words (R158): op, fn, d, imm14. -/
def wordC (op : BitVec 7) (fn : BitVec 4) (d : BitVec 7) (imm : BitVec 14) : Word := op ++ fn ++ d ++ imm

/-- Format J words (R158): op, cond, off21. -/
def wordJ (op : BitVec 7) (fn : BitVec 4) (off : BitVec 21) : Word := op ++ fn ++ off

/-- Bits [31:25], the major opcode. -/
def fOp (w : Word) : BitVec 7 := w.extractLsb' 25 7
/-- Bits [24:21]. -/
def fFn (w : Word) : BitVec 4 := w.extractLsb' 21 4
/-- Bits [20:14]. -/
def fD (w : Word) : BitVec 7 := w.extractLsb' 14 7
/-- Bits [13:7]. -/
def fA (w : Word) : BitVec 7 := w.extractLsb' 7 7
/-- Bits [6:0]. -/
def fB (w : Word) : BitVec 7 := w.extractLsb' 0 7
/-- Bits [13:0]. -/
def fImm (w : Word) : BitVec 14 := w.extractLsb' 0 14
/-- Bits [20:0]. -/
def fOff (w : Word) : BitVec 21 := w.extractLsb' 0 21

/-- The MSK prefix word (R158). -/
def mskWord (m : Msk) : Word := 0x7E#7 ++ 0#21 ++ m.sense ++ m.pred

/-- The IMM prefix word (R158). -/
def immWord (x : BitVec 25) : Word := 0x7F#7 ++ x

/-- Major 0x01 (R166). -/
noncomputable def decode01 (fn : BitVec 4) (d a b : BitVec 7) : Option Instr :=
  match fn.toNat with
  | 0 => some (.saluAdd d a b)
  | 1 => some (.saluSub d a b)
  | 2 => some (.saluMul d a b)
  | 3 => some (.saluMulhs d a b)
  | 4 => some (.saluMulhu d a b)
  | 5 => some (.saluAnd d a b)
  | 6 => some (.saluOr d a b)
  | 7 => some (.saluXor d a b)
  | 8 => some (.saluShl d a b)
  | 9 => some (.saluShr d a b)
  | 10 => some (.saluSar d a b)
  | 11 => some (.saluMin d a b)
  | 12 => some (.saluMax d a b)
  | 13 => some (.saluMinu d a b)
  | 14 => some (.saluMaxu d a b)
  | 15 => some (.saluSlt d a b)
  | _ => none

/-- Major 0x02 (R166). -/
noncomputable def decode02 (x : Option (BitVec 25)) (fn : BitVec 4) (d a b : BitVec 7) : Option Instr :=
  match fn.toNat with
  | 0 => some (.saluiAdd x d a b)
  | 1 => some (.saluiSub x d a b)
  | 2 => some (.saluiMul x d a b)
  | 3 => some (.saluiMulhs x d a b)
  | 4 => some (.saluiMulhu x d a b)
  | 5 => some (.saluiAnd x d a b)
  | 6 => some (.saluiOr x d a b)
  | 7 => some (.saluiXor x d a b)
  | 8 => some (.saluiShl x d a b)
  | 9 => some (.saluiShr x d a b)
  | 10 => some (.saluiSar x d a b)
  | 11 => some (.saluiMin x d a b)
  | 12 => some (.saluiMax x d a b)
  | 13 => some (.saluiMinu x d a b)
  | 14 => some (.saluiMaxu x d a b)
  | 15 => some (.saluiSlt x d a b)
  | _ => none

/-- Major 0x03 (R166). -/
noncomputable def decode03 (x : Option (BitVec 25)) (fn : BitVec 4) (d : BitVec 7) (imm : BitVec 14) : Option Instr :=
  match fn.toNat with
  | 0 => some (.li x d imm)
  | 1 => if x.isNone then some (.lih d imm) else none
  | _ => none

/-- Major 0x04 (R166). -/
noncomputable def decode04 (fn : BitVec 4) (d a b : BitVec 7) : Option Instr :=
  match fn.toNat with
  | 0 => if b == 0#7 then some (.sbitPopc d a) else none
  | 1 => if b == 0#7 then some (.sbitClz d a) else none
  | 2 => if b == 0#7 then some (.sbitCtz d a) else none
  | 3 => if b == 0#7 then some (.sbitBrev d a) else none
  | 4 => some (.bfx d a b)
  | 5 => some (.bfi d a b)
  | 6 => if b == 0#7 then some (.sextb d a) else none
  | 7 => if b == 0#7 then some (.sexth d a) else none
  | 8 => if b == 0#7 then some (.zextb d a) else none
  | 9 => if b == 0#7 then some (.zexth d a) else none
  | _ => none

/-- Major 0x05 (R166). -/
noncomputable def decode05 (fn : BitVec 4) (d a b : BitVec 7) : Option Instr := some (.div fn d a b)

/-- Major 0x06 (R166). -/
noncomputable def decode06 (fn : BitVec 4) (d a b : BitVec 7) : Option Instr := some (.divu fn d a b)

/-- Major 0x07 (R166). -/
noncomputable def decode07 (fn : BitVec 4) (d a b : BitVec 7) : Option Instr := some (.rem fn d a b)

/-- Major 0x08 (R166). -/
noncomputable def decode08 (fn : BitVec 4) (d a b : BitVec 7) : Option Instr := some (.remu fn d a b)

/-- Major 0x09 (R166). -/
noncomputable def decode09 (fn : BitVec 4) (d a b : BitVec 7) : Option Instr :=
  match fn.toNat with
  | 0 => if (d.extractLsb' 3 4) == 0#4 then some (.scmpEq (d.extractLsb' 0 3) a b) else none
  | 1 => if (d.extractLsb' 3 4) == 0#4 then some (.scmpNe (d.extractLsb' 0 3) a b) else none
  | 2 => if (d.extractLsb' 3 4) == 0#4 then some (.scmpLt (d.extractLsb' 0 3) a b) else none
  | 3 => if (d.extractLsb' 3 4) == 0#4 then some (.scmpLe (d.extractLsb' 0 3) a b) else none
  | 4 => if (d.extractLsb' 3 4) == 0#4 then some (.scmpGt (d.extractLsb' 0 3) a b) else none
  | 5 => if (d.extractLsb' 3 4) == 0#4 then some (.scmpGe (d.extractLsb' 0 3) a b) else none
  | 6 => if (d.extractLsb' 3 4) == 0#4 then some (.scmpLtu (d.extractLsb' 0 3) a b) else none
  | 7 => if (d.extractLsb' 3 4) == 0#4 then some (.scmpLeu (d.extractLsb' 0 3) a b) else none
  | 8 => if (d.extractLsb' 3 4) == 0#4 then some (.scmpGtu (d.extractLsb' 0 3) a b) else none
  | 9 => if (d.extractLsb' 3 4) == 0#4 then some (.scmpGeu (d.extractLsb' 0 3) a b) else none
  | _ => none

/-- Major 0x0A (R166). -/
noncomputable def decode0A (x : Option (BitVec 25)) (fn : BitVec 4) (d a b : BitVec 7) : Option Instr :=
  match fn.toNat with
  | 0 => if (d.extractLsb' 3 4) == 0#4 then some (.scmpiEq x (d.extractLsb' 0 3) a b) else none
  | 1 => if (d.extractLsb' 3 4) == 0#4 then some (.scmpiNe x (d.extractLsb' 0 3) a b) else none
  | 2 => if (d.extractLsb' 3 4) == 0#4 then some (.scmpiLt x (d.extractLsb' 0 3) a b) else none
  | 3 => if (d.extractLsb' 3 4) == 0#4 then some (.scmpiLe x (d.extractLsb' 0 3) a b) else none
  | 4 => if (d.extractLsb' 3 4) == 0#4 then some (.scmpiGt x (d.extractLsb' 0 3) a b) else none
  | 5 => if (d.extractLsb' 3 4) == 0#4 then some (.scmpiGe x (d.extractLsb' 0 3) a b) else none
  | 6 => if (d.extractLsb' 3 4) == 0#4 then some (.scmpiLtu x (d.extractLsb' 0 3) a b) else none
  | 7 => if (d.extractLsb' 3 4) == 0#4 then some (.scmpiLeu x (d.extractLsb' 0 3) a b) else none
  | 8 => if (d.extractLsb' 3 4) == 0#4 then some (.scmpiGtu x (d.extractLsb' 0 3) a b) else none
  | 9 => if (d.extractLsb' 3 4) == 0#4 then some (.scmpiGeu x (d.extractLsb' 0 3) a b) else none
  | _ => none

/-- Major 0x0B (R166). -/
noncomputable def decode0B (fn : BitVec 4) (d a b : BitVec 7) : Option Instr :=
  match fn.toNat with
  | 0 => if (d.extractLsb' 3 4) == 0#4 && (a.extractLsb' 3 4) == 0#4 && (b.extractLsb' 3 4) == 0#4 then some (.pand (d.extractLsb' 0 3) (a.extractLsb' 0 3) (b.extractLsb' 0 3)) else none
  | 1 => if (d.extractLsb' 3 4) == 0#4 && (a.extractLsb' 3 4) == 0#4 && (b.extractLsb' 3 4) == 0#4 then some (.por (d.extractLsb' 0 3) (a.extractLsb' 0 3) (b.extractLsb' 0 3)) else none
  | 2 => if (d.extractLsb' 3 4) == 0#4 && (a.extractLsb' 3 4) == 0#4 && (b.extractLsb' 3 4) == 0#4 then some (.pxor (d.extractLsb' 0 3) (a.extractLsb' 0 3) (b.extractLsb' 0 3)) else none
  | 3 => if (d.extractLsb' 3 4) == 0#4 && (a.extractLsb' 3 4) == 0#4 && (b.extractLsb' 3 4) == 0#4 then some (.pandn (d.extractLsb' 0 3) (a.extractLsb' 0 3) (b.extractLsb' 0 3)) else none
  | 4 => if (d.extractLsb' 3 4) == 0#4 && (a.extractLsb' 3 4) == 0#4 && (b.extractLsb' 3 4) == 0#4 then some (.porn (d.extractLsb' 0 3) (a.extractLsb' 0 3) (b.extractLsb' 0 3)) else none
  | 5 => if (d.extractLsb' 3 4) == 0#4 && (a.extractLsb' 3 4) == 0#4 && b == 0#7 then some (.pnot (d.extractLsb' 0 3) (a.extractLsb' 0 3)) else none
  | 6 => if (d.extractLsb' 3 4) == 0#4 && (a.extractLsb' 3 4) == 0#4 && b == 0#7 then some (.pmov (d.extractLsb' 0 3) (a.extractLsb' 0 3)) else none
  | 7 => if (d.extractLsb' 3 4) == 0#4 && a == 0#7 && b == 0#7 then some (.pclr (d.extractLsb' 0 3)) else none
  | 8 => if (d.extractLsb' 3 4) == 0#4 && a == 0#7 && b == 0#7 then some (.pset (d.extractLsb' 0 3)) else none
  | _ => none

/-- Major 0x0C (R166). -/
noncomputable def decode0C (fn : BitVec 4) (d a b : BitVec 7) : Option Instr := some (.sel (fn.extractLsb' 3 1) (fn.extractLsb' 0 3) d a b)

/-- Major 0x0D (R166). -/
noncomputable def decode0D (fn : BitVec 4) (d a b : BitVec 7) : Option Instr :=
  match fn.toNat with
  | 0 => if b == 0#7 then some (.bcasts d a) else none
  | 1 => if (b.extractLsb' 3 4) == 0#4 then some (.extr d a (b.extractLsb' 0 3)) else none
  | 2 => if (b.extractLsb' 3 4) == 0#4 then some (.insr d a (b.extractLsb' 0 3)) else none
  | 3 => if (a.extractLsb' 5 2) == 0#2 && b == 0#7 then some (.crd d (a.extractLsb' 0 5)) else none
  | 4 => if (d.extractLsb' 5 2) == 0#2 && b == 0#7 then some (.cwr (d.extractLsb' 0 5) a) else none
  | 5 => if b == 0#7 then some (.srd d a) else none
  | 6 => if b == 0#7 then some (.movs d a) else none
  | 7 => if b == 0#7 then some (.movv d a) else none
  | 8 => if (a.extractLsb' 3 4) == 0#4 && b == 0#7 then some (.prd d (a.extractLsb' 0 3)) else none
  | 9 => if (d.extractLsb' 3 4) == 0#4 && b == 0#7 then some (.pwr (d.extractLsb' 0 3) a) else none
  | _ => none

/-- Major 0x10 (R166). -/
noncomputable def decode10 (mk : Option Msk) (fn : BitVec 4) (d a b : BitVec 7) : Option Instr :=
  match fn.toNat with
  | 0 => some (.valuAdd mk d a b)
  | 1 => some (.valuSub mk d a b)
  | 2 => some (.valuMul mk d a b)
  | 3 => some (.valuMulhs mk d a b)
  | 4 => some (.valuMulhu mk d a b)
  | 5 => some (.valuAdds mk d a b)
  | 6 => some (.valuSubs mk d a b)
  | 7 => some (.valuAddus mk d a b)
  | 8 => some (.valuSubus mk d a b)
  | 9 => some (.valuMin mk d a b)
  | 10 => some (.valuMax mk d a b)
  | 11 => some (.valuMinu mk d a b)
  | 12 => some (.valuMaxu mk d a b)
  | 13 => if b == 0#7 then some (.valuAbs mk d a) else none
  | 14 => if b == 0#7 then some (.valuNeg mk d a) else none
  | 15 => some (.valuAbsd mk d a b)
  | _ => none

/-- Major 0x11 (R166). -/
noncomputable def decode11 (mk : Option Msk) (x : Option (BitVec 25)) (fn : BitVec 4) (d a b : BitVec 7) : Option Instr :=
  match fn.toNat with
  | 0 => some (.valuiAdd mk x d a b)
  | 1 => some (.valuiSub mk x d a b)
  | 2 => some (.valuiMul mk x d a b)
  | 3 => some (.valuiMulhs mk x d a b)
  | 4 => some (.valuiMulhu mk x d a b)
  | 5 => some (.valuiAdds mk x d a b)
  | 6 => some (.valuiSubs mk x d a b)
  | 7 => some (.valuiAddus mk x d a b)
  | 8 => some (.valuiSubus mk x d a b)
  | 9 => some (.valuiMin mk x d a b)
  | 10 => some (.valuiMax mk x d a b)
  | 11 => some (.valuiMinu mk x d a b)
  | 12 => some (.valuiMaxu mk x d a b)
  | 15 => some (.valuiAbsd mk x d a b)
  | _ => none

/-- Major 0x12 (R166). -/
noncomputable def decode12 (mk : Option Msk) (fn : BitVec 4) (d a b : BitVec 7) : Option Instr :=
  match fn.toNat with
  | 0 => some (.vmadMad mk d a b)
  | 1 => some (.vmadMsb mk d a b)
  | 2 => some (.vmadMads mk d a b)
  | 3 => some (.vmadMadI16 mk d a b)
  | 4 => some (.vmadMadI8 mk d a b)
  | 5 => some (.vdot2 mk d a b)
  | 6 => some (.vdot4 mk d a b)
  | 7 => some (.vdot4u mk d a b)
  | _ => none

/-- Major 0x13 (R166). -/
noncomputable def decode13 (mk : Option Msk) (fn : BitVec 4) (d a b : BitVec 7) : Option Instr :=
  match fn.toNat with
  | 0 => if (d.extractLsb' 3 4) == 0#4 then some (.vcmpEq mk (d.extractLsb' 0 3) a b) else none
  | 1 => if (d.extractLsb' 3 4) == 0#4 then some (.vcmpNe mk (d.extractLsb' 0 3) a b) else none
  | 2 => if (d.extractLsb' 3 4) == 0#4 then some (.vcmpLt mk (d.extractLsb' 0 3) a b) else none
  | 3 => if (d.extractLsb' 3 4) == 0#4 then some (.vcmpLe mk (d.extractLsb' 0 3) a b) else none
  | 4 => if (d.extractLsb' 3 4) == 0#4 then some (.vcmpGt mk (d.extractLsb' 0 3) a b) else none
  | 5 => if (d.extractLsb' 3 4) == 0#4 then some (.vcmpGe mk (d.extractLsb' 0 3) a b) else none
  | 6 => if (d.extractLsb' 3 4) == 0#4 then some (.vcmpLtu mk (d.extractLsb' 0 3) a b) else none
  | 7 => if (d.extractLsb' 3 4) == 0#4 then some (.vcmpLeu mk (d.extractLsb' 0 3) a b) else none
  | 8 => if (d.extractLsb' 3 4) == 0#4 then some (.vcmpGtu mk (d.extractLsb' 0 3) a b) else none
  | 9 => if (d.extractLsb' 3 4) == 0#4 then some (.vcmpGeu mk (d.extractLsb' 0 3) a b) else none
  | 10 => if (d.extractLsb' 3 4) == 0#4 then some (.vcmpEqI16 mk (d.extractLsb' 0 3) a b) else none
  | 11 => if (d.extractLsb' 3 4) == 0#4 then some (.vcmpLtI16 mk (d.extractLsb' 0 3) a b) else none
  | 12 => if (d.extractLsb' 3 4) == 0#4 then some (.vcmpLtuI16 mk (d.extractLsb' 0 3) a b) else none
  | 13 => if (d.extractLsb' 3 4) == 0#4 then some (.vcmpEqI8 mk (d.extractLsb' 0 3) a b) else none
  | 14 => if (d.extractLsb' 3 4) == 0#4 then some (.vcmpLtI8 mk (d.extractLsb' 0 3) a b) else none
  | 15 => if (d.extractLsb' 3 4) == 0#4 then some (.vcmpLtuI8 mk (d.extractLsb' 0 3) a b) else none
  | _ => none

/-- Major 0x14 (R166). -/
noncomputable def decode14 (mk : Option Msk) (fn : BitVec 4) (d a b : BitVec 7) : Option Instr :=
  match fn.toNat with
  | 0 => some (.perm mk d a b)
  | 1 => some (.shuf mk d a b)
  | 2 => if (b.extractLsb' 3 4) == 0#4 then some (.rot mk d a (b.extractLsb' 0 3)) else none
  | 3 => if (b.extractLsb' 3 4) == 0#4 then some (.ext mk d a (b.extractLsb' 0 3)) else none
  | 4 => if (b.extractLsb' 3 4) == 0#4 then some (.ins mk d a (b.extractLsb' 0 3)) else none
  | 5 => some (.zip mk d a b)
  | 6 => some (.unzip mk d a b)
  | _ => none

/-- Major 0x15 (R166). -/
noncomputable def decode15 (mk : Option Msk) (fn : BitVec 4) (d a b : BitVec 7) : Option Instr :=
  match (fn.extractLsb' 0 3).toNat with
  | 0 => some (.vpackAdd mk (fn.extractLsb' 3 1) d a b)
  | 1 => some (.vpackSub mk (fn.extractLsb' 3 1) d a b)
  | 2 => some (.vpackAdds mk (fn.extractLsb' 3 1) d a b)
  | 3 => some (.vpackSubs mk (fn.extractLsb' 3 1) d a b)
  | 4 => some (.vpackAddus mk (fn.extractLsb' 3 1) d a b)
  | 5 => some (.vpackSubus mk (fn.extractLsb' 3 1) d a b)
  | 6 => some (.vpackMin mk (fn.extractLsb' 3 1) d a b)
  | 7 => some (.vpackMax mk (fn.extractLsb' 3 1) d a b)
  | _ => none

/-- Major 0x16 (R166). -/
noncomputable def decode16 (mk : Option Msk) (fn : BitVec 4) (d a b : BitVec 7) : Option Instr :=
  match fn.toNat with
  | 0 => if b == 0#7 then some (.redadd mk d a) else none
  | 1 => if b == 0#7 then some (.redmin mk d a) else none
  | 2 => if b == 0#7 then some (.redmax mk d a) else none
  | 3 => if b == 0#7 then some (.redminu mk d a) else none
  | 4 => if b == 0#7 then some (.redmaxu mk d a) else none
  | 5 => if b == 0#7 then some (.redand mk d a) else none
  | 6 => if b == 0#7 then some (.redor mk d a) else none
  | 7 => if b == 0#7 then some (.redxor mk d a) else none
  | 8 => if b == 0#7 then some (.redaddF32 mk d a) else none
  | 9 => if b == 0#7 then some (.redminF32 mk d a) else none
  | 10 => if b == 0#7 then some (.redmaxF32 mk d a) else none
  | _ => none

/-- Major 0x17 (R166). -/
noncomputable def decode17 (mk : Option Msk) (fn : BitVec 4) (d a b : BitVec 7) : Option Instr :=
  match fn.toNat with
  | 0 => some (.vbitAnd mk d a b)
  | 1 => some (.vbitOr mk d a b)
  | 2 => some (.vbitXor mk d a b)
  | 3 => some (.vbitAndn mk d a b)
  | 4 => if b == 0#7 then some (.vbitNot mk d a) else none
  | 5 => some (.vbitShl mk d a b)
  | 6 => some (.vbitShr mk d a b)
  | 7 => some (.vbitSar mk d a b)
  | 8 => some (.vbitShlI16 mk d a b)
  | 9 => some (.vbitShrI16 mk d a b)
  | 10 => some (.vbitSarI16 mk d a b)
  | 11 => if b == 0#7 then some (.vbitPopc mk d a) else none
  | 12 => if b == 0#7 then some (.vbitClz mk d a) else none
  | 13 => if b == 0#7 then some (.vbitBrev mk d a) else none
  | _ => none

/-- Major 0x18 (R166). -/
noncomputable def decode18 (mk : Option Msk) (fn : BitVec 4) (d a b : BitVec 7) : Option Instr := some (.vsel mk (fn.extractLsb' 3 1) (fn.extractLsb' 0 3) d a b)

/-- Major 0x20 (R166). -/
noncomputable def decode20 (mk : Option Msk) (fn : BitVec 4) (d a b : BitVec 7) : Option Instr :=
  match fn.toNat with
  | 0 => some (.fadd mk d a b)
  | 1 => some (.fsub mk d a b)
  | 2 => some (.fmul mk d a b)
  | 3 => some (.fmin mk d a b)
  | 4 => some (.fmax mk d a b)
  | 5 => if b == 0#7 then some (.fabs mk d a) else none
  | 6 => if b == 0#7 then some (.fneg mk d a) else none
  | 7 => some (.fsgn mk d a b)
  | _ => none

/-- Major 0x21 (R166). -/
noncomputable def decode21 (mk : Option Msk) (fn : BitVec 4) (d a b : BitVec 7) : Option Instr :=
  match fn.toNat with
  | 0 => some (.fma mk d a b)
  | 1 => some (.fms mk d a b)
  | 2 => some (.fnma mk d a b)
  | 3 => some (.fnms mk d a b)
  | _ => none

/-- Major 0x22 (R166). -/
noncomputable def decode22 (mk : Option Msk) (fn : BitVec 4) (d a b : BitVec 7) : Option Instr :=
  match fn.toNat with
  | 0 => if (d.extractLsb' 3 4) == 0#4 then some (.fcmpF32Eq mk (d.extractLsb' 0 3) a b) else none
  | 1 => if (d.extractLsb' 3 4) == 0#4 then some (.fcmpF32Ne mk (d.extractLsb' 0 3) a b) else none
  | 2 => if (d.extractLsb' 3 4) == 0#4 then some (.fcmpF32Lt mk (d.extractLsb' 0 3) a b) else none
  | 3 => if (d.extractLsb' 3 4) == 0#4 then some (.fcmpF32Le mk (d.extractLsb' 0 3) a b) else none
  | 4 => if (d.extractLsb' 3 4) == 0#4 then some (.fcmpF32Gt mk (d.extractLsb' 0 3) a b) else none
  | 5 => if (d.extractLsb' 3 4) == 0#4 then some (.fcmpF32Ge mk (d.extractLsb' 0 3) a b) else none
  | 6 => if (d.extractLsb' 3 4) == 0#4 then some (.fcmpF32Unord mk (d.extractLsb' 0 3) a b) else none
  | 7 => if (d.extractLsb' 3 4) == 0#4 then some (.fcmpF32Ord mk (d.extractLsb' 0 3) a b) else none
  | 8 => if (d.extractLsb' 3 4) == 0#4 then some (.fcmpF16Eq mk (d.extractLsb' 0 3) a b) else none
  | 9 => if (d.extractLsb' 3 4) == 0#4 then some (.fcmpF16Lt mk (d.extractLsb' 0 3) a b) else none
  | 10 => if (d.extractLsb' 3 4) == 0#4 then some (.fcmpF16Le mk (d.extractLsb' 0 3) a b) else none
  | 11 => if (d.extractLsb' 3 4) == 0#4 then some (.fcmpF16Unord mk (d.extractLsb' 0 3) a b) else none
  | 12 => if (d.extractLsb' 3 4) == 0#4 then some (.fcmpBf16Eq mk (d.extractLsb' 0 3) a b) else none
  | 13 => if (d.extractLsb' 3 4) == 0#4 then some (.fcmpBf16Lt mk (d.extractLsb' 0 3) a b) else none
  | 14 => if (d.extractLsb' 3 4) == 0#4 then some (.fcmpBf16Le mk (d.extractLsb' 0 3) a b) else none
  | 15 => if (d.extractLsb' 3 4) == 0#4 then some (.fcmpBf16Unord mk (d.extractLsb' 0 3) a b) else none
  | _ => none

/-- Major 0x23 (R166). -/
noncomputable def decode23 (mk : Option Msk) (fn : BitVec 4) (d a b : BitVec 7) : Option Instr :=
  match b.toNat with
  | 0 => some (.rcp mk fn d a)
  | 1 => some (.rsq mk fn d a)
  | 2 => some (.sqrt mk fn d a)
  | 3 => some (.exp2 mk fn d a)
  | 4 => some (.log2 mk fn d a)
  | 5 => some (.sinpi mk fn d a)
  | 6 => some (.cospi mk fn d a)
  | 7 => some (.tanh mk fn d a)
  | _ => none

/-- Major 0x24 (R166). -/
noncomputable def decode24 (mk : Option Msk) (fn : BitVec 4) (d a b : BitVec 7) : Option Instr := some (.fdiv mk fn d a b)

/-- Major 0x25 (R166). -/
noncomputable def decode25 (mk : Option Msk) (fn : BitVec 4) (d a b : BitVec 7) : Option Instr := some (.fcvt mk fn d a (b.extractLsb' 3 4) (b.extractLsb' 0 3))

/-- Major 0x26 (R166). -/
noncomputable def decode26 (mk : Option Msk) (fn : BitVec 4) (d a b : BitVec 7) : Option Instr := some (.frnd mk fn d a b)

/-- Major 0x27 (R166). -/
noncomputable def decode27 (mk : Option Msk) (fn : BitVec 4) (d a b : BitVec 7) : Option Instr := if fn == 0#4 then some (.fclass mk d a b) else none

/-- Major 0x28 (R166). -/
noncomputable def decode28 (mk : Option Msk) (fn : BitVec 4) (d a b : BitVec 7) : Option Instr :=
  match fn.toNat with
  | 0 => some (.dot2F16 mk d a b)
  | 1 => some (.dot2Bf16 mk d a b)
  | 2 => some (.dot4E5m2 mk d a b)
  | 3 => some (.dot4E4m3 mk d a b)
  | 4 => some (.dot4I8 mk d a b)
  | 5 => some (.dot8I4 mk d a b)
  | _ => none

/-- Major 0x29 (R166). -/
noncomputable def decode29 (mk : Option Msk) (fn : BitVec 4) (d a b : BitVec 7) : Option Instr :=
  match (fn.extractLsb' 0 3).toNat with
  | 0 => some (.falu16Fadd mk (fn.extractLsb' 3 1) d a b)
  | 1 => some (.falu16Fsub mk (fn.extractLsb' 3 1) d a b)
  | 2 => some (.falu16Fmul mk (fn.extractLsb' 3 1) d a b)
  | 3 => some (.falu16Fmin mk (fn.extractLsb' 3 1) d a b)
  | 4 => some (.falu16Fmax mk (fn.extractLsb' 3 1) d a b)
  | 5 => some (.falu16Fma mk (fn.extractLsb' 3 1) d a b)
  | 6 => if b == 0#7 then some (.falu16Fabs mk (fn.extractLsb' 3 1) d a) else none
  | 7 => if b == 0#7 then some (.falu16Fneg mk (fn.extractLsb' 3 1) d a) else none
  | _ => none

/-- Major 0x30 (R166). -/
noncomputable def decode30 (x : Option (BitVec 25)) (fn : BitVec 4) (off : BitVec 21) : Option Instr := if fn == 0#4 then some (.br x off) else none

/-- Major 0x31 (R166). -/
noncomputable def decode31 (x : Option (BitVec 25)) (fn : BitVec 4) (off : BitVec 21) : Option Instr := some (.brp x (fn.extractLsb' 3 1) (fn.extractLsb' 0 3) off)

/-- Major 0x32 (R166). -/
noncomputable def decode32 (x : Option (BitVec 25)) (fn : BitVec 4) (off : BitVec 21) : Option Instr := if fn == 0#4 then some (.call x off) else none

/-- Major 0x33 (R166). -/
noncomputable def decode33 (fn : BitVec 4) (d a b : BitVec 7) : Option Instr :=
  match fn.toNat with
  | 0 => if d == 0#7 && b == 0#7 then some (.jr a) else none
  | 1 => if d == 0#7 && b == 0#7 then some (.jalr a) else none
  | 2 => (
    match b.toNat with
    | 0 => if d == 0#7 && a == 0#7 then some (.ret) else none
    | 1 => if d == 0#7 then some (.retPair a) else none
    | _ => none)
  | _ => none

/-- Major 0x34 (R166). -/
noncomputable def decode34 (fn : BitVec 4) (d a b : BitVec 7) : Option Instr := if fn == 0#4 && d == 0#7 && a == 0#7 && b == 0#7 then some (.rcv) else none

/-- Major 0x35 (R166). -/
noncomputable def decode35 (fn : BitVec 4) (d a b : BitVec 7) : Option Instr :=
  match fn.toNat with
  | 0 => if d == 0#7 && a == 0#7 && b == 0#7 then some (.exit) else none
  | 1 => if d == 0#7 && a == 0#7 && b == 0#7 then some (.yield) else none
  | 2 => if d == 0#7 && b == 0#7 then some (.sleep a) else none
  | _ => none

/-- Major 0x40 (R166). -/
noncomputable def decode40 (x : Option (BitVec 25)) (fn : BitVec 4) (d a b : BitVec 7) : Option Instr := some (.lds x fn d a (b.extractLsb' 5 2) (b.extractLsb' 4 1) (b.extractLsb' 2 2) (b.extractLsb' 0 2))

/-- Major 0x41 (R166). -/
noncomputable def decode41 (mk : Option Msk) (x : Option (BitVec 25)) (fn : BitVec 4) (d a b : BitVec 7) : Option Instr := some (.ldv mk x fn d a (b.extractLsb' 5 2) (b.extractLsb' 4 1) (b.extractLsb' 2 2) (b.extractLsb' 0 2))

/-- Major 0x42 (R166). -/
noncomputable def decode42 (mk : Option Msk) (x : Option (BitVec 25)) (fn : BitVec 4) (d a b : BitVec 7) : Option Instr := some (.ldg mk x fn d a b)

/-- Major 0x43 (R166). -/
noncomputable def decode43 (x : Option (BitVec 25)) (fn : BitVec 4) (d a b : BitVec 7) : Option Instr := if fn == 0#4 then some (.sts x d a (b.extractLsb' 5 2) (b.extractLsb' 4 1) (b.extractLsb' 2 2) (b.extractLsb' 0 2)) else none

/-- Major 0x44 (R166). -/
noncomputable def decode44 (mk : Option Msk) (x : Option (BitVec 25)) (fn : BitVec 4) (d a b : BitVec 7) : Option Instr := if fn == 0#4 then some (.stv mk x d a (b.extractLsb' 5 2) (b.extractLsb' 4 1) (b.extractLsb' 2 2) (b.extractLsb' 0 2)) else none

/-- Major 0x45 (R166). -/
noncomputable def decode45 (mk : Option Msk) (x : Option (BitVec 25)) (fn : BitVec 4) (d a b : BitVec 7) : Option Instr := if fn == 0#4 then some (.stg mk x d a b) else none

/-- Major 0x46 (R166). -/
noncomputable def decode46 (x : Option (BitVec 25)) (fn : BitVec 4) (d a b : BitVec 7) : Option Instr := if fn == 0#4 && d == 0#7 && (b.extractLsb' 2 5) == 0#5 then some (.pref x a (b.extractLsb' 0 2)) else none

/-- Major 0x47 (R166). -/
noncomputable def decode47 (x : Option (BitVec 25)) (fn : BitVec 4) (d a b : BitVec 7) : Option Instr :=
  match (b.extractLsb' 3 4).toNat with
  | 0 => some (.atomAdd x fn d a (b.extractLsb' 2 1) (b.extractLsb' 0 2))
  | 1 => some (.atomMin x fn d a (b.extractLsb' 2 1) (b.extractLsb' 0 2))
  | 2 => some (.atomMax x fn d a (b.extractLsb' 2 1) (b.extractLsb' 0 2))
  | 3 => some (.atomMinu x fn d a (b.extractLsb' 2 1) (b.extractLsb' 0 2))
  | 4 => some (.atomMaxu x fn d a (b.extractLsb' 2 1) (b.extractLsb' 0 2))
  | 5 => some (.atomAnd x fn d a (b.extractLsb' 2 1) (b.extractLsb' 0 2))
  | 6 => some (.atomOr x fn d a (b.extractLsb' 2 1) (b.extractLsb' 0 2))
  | 7 => some (.atomXor x fn d a (b.extractLsb' 2 1) (b.extractLsb' 0 2))
  | 8 => some (.atomXchg x fn d a (b.extractLsb' 2 1) (b.extractLsb' 0 2))
  | 9 => some (.atomCas x fn d a (b.extractLsb' 2 1) (b.extractLsb' 0 2))
  | _ => none

/-- Major 0x48 (R166). -/
noncomputable def decode48 (x : Option (BitVec 25)) (fn : BitVec 4) (d a b : BitVec 7) : Option Instr :=
  match (b.extractLsb' 3 4).toNat with
  | 0 => some (.atomvAdd x fn d a (b.extractLsb' 2 1) (b.extractLsb' 0 2))
  | 1 => some (.atomvMin x fn d a (b.extractLsb' 2 1) (b.extractLsb' 0 2))
  | 2 => some (.atomvMax x fn d a (b.extractLsb' 2 1) (b.extractLsb' 0 2))
  | 3 => some (.atomvMinu x fn d a (b.extractLsb' 2 1) (b.extractLsb' 0 2))
  | 4 => some (.atomvMaxu x fn d a (b.extractLsb' 2 1) (b.extractLsb' 0 2))
  | 5 => some (.atomvAnd x fn d a (b.extractLsb' 2 1) (b.extractLsb' 0 2))
  | 6 => some (.atomvOr x fn d a (b.extractLsb' 2 1) (b.extractLsb' 0 2))
  | 7 => some (.atomvXor x fn d a (b.extractLsb' 2 1) (b.extractLsb' 0 2))
  | 8 => some (.atomvXchg x fn d a (b.extractLsb' 2 1) (b.extractLsb' 0 2))
  | 9 => some (.atomvCas x fn d a (b.extractLsb' 2 1) (b.extractLsb' 0 2))
  | 10 => some (.atomvXchgW128 x fn d a (b.extractLsb' 2 1) (b.extractLsb' 0 2))
  | 11 => some (.atomvCasW128 x fn d a (b.extractLsb' 2 1) (b.extractLsb' 0 2))
  | _ => none

/-- Major 0x49 (R166). -/
noncomputable def decode49 (x : Option (BitVec 25)) (fn : BitVec 4) (d a b : BitVec 7) : Option Instr := if fn == 0#4 && d == 0#7 && b == 0#7 then some (.mwatch x a) else none

/-- Major 0x4A (R166). -/
noncomputable def decode4A (fn : BitVec 4) (d a b : BitVec 7) : Option Instr :=
  match (fn.extractLsb' 0 2).toNat with
  | 0 => if d == 0#7 && a == 0#7 && b == 0#7 then some (.fenceAcq (fn.extractLsb' 2 2)) else none
  | 1 => if d == 0#7 && a == 0#7 && b == 0#7 then some (.fenceRel (fn.extractLsb' 2 2)) else none
  | 2 => if d == 0#7 && a == 0#7 && b == 0#7 then some (.fenceFull (fn.extractLsb' 2 2)) else none
  | _ => none

/-- Major 0x4B (R166). -/
noncomputable def decode4B (fn : BitVec 4) (d a b : BitVec 7) : Option Instr := if fn == 0#4 && d == 0#7 && a == 0#7 && b == 0#7 then some (.mwait) else none

/-- Major 0x50 (R166). -/
noncomputable def decode50 (fn : BitVec 4) (d a b : BitVec 7) : Option Instr :=
  match fn.toNat with
  | 0 => if b == 0#7 then some (.bnew d a) else none
  | 1 => if b == 0#7 then some (.bjoin d a) else none
  | 2 => if d == 0#7 && a == 0#7 && b == 0#7 then some (.bleave) else none
  | 3 => if a == 0#7 then some (.binfo d b) else none
  | _ => none

/-- Major 0x51 (R166). -/
noncomputable def decode51 (fn : BitVec 4) (d a b : BitVec 7) : Option Instr :=
  match fn.toNat with
  | 0 => if d == 0#7 && (b.extractLsb' 4 3) == 0#3 then some (.barInit a (b.extractLsb' 0 4)) else none
  | 1 => if d == 0#7 && (b.extractLsb' 5 2) == 0#2 then some (.barSync a (b.extractLsb' 4 1) (b.extractLsb' 0 4)) else none
  | 2 => if d == 0#7 && (b.extractLsb' 5 2) == 0#2 then some (.barArrive a (b.extractLsb' 4 1) (b.extractLsb' 0 4)) else none
  | 3 => if d == 0#7 && (b.extractLsb' 4 3) == 0#3 then some (.barExpect a (b.extractLsb' 0 4)) else none
  | 4 => if a == 0#7 && (b.extractLsb' 5 2) == 0#2 then some (.barQuery d (b.extractLsb' 4 1) (b.extractLsb' 0 4)) else none
  | _ => none

/-- Major 0x52 (R166). -/
noncomputable def decode52 (fn : BitVec 4) (d a b : BitVec 7) : Option Instr :=
  match fn.toNat with
  | 0 => if (a.extractLsb' 3 4) == 0#4 then some (.ballot d (a.extractLsb' 0 3) b) else none
  | 1 => if (d.extractLsb' 3 4) == 0#4 && (a.extractLsb' 3 4) == 0#4 && b == 0#7 then some (.any (d.extractLsb' 0 3) (a.extractLsb' 0 3)) else none
  | 2 => if (d.extractLsb' 3 4) == 0#4 && (a.extractLsb' 3 4) == 0#4 && b == 0#7 then some (.all (d.extractLsb' 0 3) (a.extractLsb' 0 3)) else none
  | _ => none

/-- Major 0x53 (R166). -/
noncomputable def decode53 (fn : BitVec 4) (d a b : BitVec 7) : Option Instr :=
  match (b.extractLsb' 0 3).toNat with
  | 0 => if b == 0#7 then some (.bcast fn d a) else none
  | 1 => some (.radd fn d a (b.extractLsb' 3 4))
  | 2 => some (.rmin fn d a (b.extractLsb' 3 4))
  | 3 => some (.rmax fn d a (b.extractLsb' 3 4))
  | 4 => some (.scanadd fn d a (b.extractLsb' 3 4))
  | _ => none

/-- Major 0x54 (R166). -/
noncomputable def decode54 (fn : BitVec 4) (d a b : BitVec 7) : Option Instr :=
  match fn.toNat with
  | 0 => some (.rwrScalar d a b)
  | 1 => some (.rwrVector d a b)
  | _ => none

/-- Major 0x55 (R166). -/
noncomputable def decode55 (fn : BitVec 4) (d a b : BitVec 7) : Option Instr := if fn == 0#4 && d == 0#7 && b == 0#7 then some (.rwait a) else none

/-- Major 0x56 (R166). -/
noncomputable def decode56 (fn : BitVec 4) (d a b : BitVec 7) : Option Instr := if (fn.extractLsb' 3 1) == 0#1 && b == 0#7 then some (.qsend (fn.extractLsb' 0 3) d a) else none

/-- Major 0x57 (R166). -/
noncomputable def decode57 (fn : BitVec 4) (d a b : BitVec 7) : Option Instr := if (fn.extractLsb' 3 1) == 0#1 && a == 0#7 && b == 0#7 then some (.qrecv (fn.extractLsb' 0 3) d) else none

/-- Major 0x58 (R166). -/
noncomputable def decode58 (fn : BitVec 4) (d a b : BitVec 7) : Option Instr :=
  match fn.toNat with
  | 0 => if d == 0#7 && a == 0#7 && (b.extractLsb' 5 2) == 0#2 then some (.flagSet (b.extractLsb' 0 5)) else none
  | 1 => if d == 0#7 && a == 0#7 && (b.extractLsb' 5 2) == 0#2 then some (.flagClr (b.extractLsb' 0 5)) else none
  | 2 => if d == 0#7 && a == 0#7 && (b.extractLsb' 5 2) == 0#2 then some (.flagWait (b.extractLsb' 0 5)) else none
  | 3 => if (d.extractLsb' 3 4) == 0#4 && a == 0#7 && (b.extractLsb' 5 2) == 0#2 then some (.flagTest (d.extractLsb' 0 3) (b.extractLsb' 0 5)) else none
  | _ => none

/-- Major 0x5A (R166). -/
noncomputable def decode5A (fn : BitVec 4) (d a b : BitVec 7) : Option Instr :=
  match fn.toNat with
  | 0 => if d == 0#7 && a == 0#7 then some (.wbases b) else none
  | 1 => if d == 0#7 && a == 0#7 then some (.wbasev b) else none
  | 2 => if d == 0#7 && a == 0#7 then some (.xacqs b) else none
  | 3 => if d == 0#7 && a == 0#7 then some (.xacqv b) else none
  | 4 => if d == 0#7 && a == 0#7 then some (.xrels b) else none
  | 5 => if d == 0#7 && a == 0#7 then some (.xrelv b) else none
  | _ => none

/-- Major 0x60 (R166). -/
noncomputable def decode60 (fn : BitVec 4) (d a b : BitVec 7) : Option Instr :=
  match fn.toNat with
  | 0 => if b == 0#7 then some (.tresv d a) else none
  | 1 => if d == 0#7 && b == 0#7 then some (.trel a) else none
  | 2 => if b == 0#7 then some (.tstat d a) else none
  | 3 => if d == 0#7 then some (.twait a b) else none
  | _ => none

/-- Major 0x61 (R166). -/
noncomputable def decode61 (fn : BitVec 4) (d a b : BitVec 7) : Option Instr :=
  match fn.toNat with
  | 0 => if d == 0#7 && b == 0#7 then some (.engqMx a) else none
  | 1 => if d == 0#7 && b == 0#7 then some (.engqCe a) else none
  | 2 => if d == 0#7 && b == 0#7 then some (.engqSsb a) else none
  | 3 => if d == 0#7 && b == 0#7 then some (.engqQe a) else none
  | _ => none

/-- Major 0x62 (R166). -/
noncomputable def decode62 (fn : BitVec 4) (d a b : BitVec 7) : Option Instr := if d == 0#7 then some (.fork fn a b) else none

/-- Major 0x63 (R166). -/
noncomputable def decode63 (fn : BitVec 4) (d a b : BitVec 7) : Option Instr := if fn == 0#4 && b == 0#7 then some (.rdv d a) else none

/-- Major 0x64 (R166). -/
noncomputable def decode64 (fn : BitVec 4) (d a b : BitVec 7) : Option Instr :=
  match fn.toNat with
  | 0 => if b == 0#7 then some (.specEpoch d a) else none
  | 1 => if b == 0#7 then some (.specCommit d a) else none
  | 2 => if b == 0#7 then some (.specCancel d a) else none
  | _ => none

/-- Major 0x65 (R166). -/
noncomputable def decode65 (fn : BitVec 4) (d a b : BitVec 7) : Option Instr := if (fn.extractLsb' 3 1) == 0#1 && d == 0#7 && (b.extractLsb' 1 6) == 0#6 then some (.flcall (fn.extractLsb' 0 3) a (b.extractLsb' 0 1)) else none

/-- Major 0x66 (R166). -/
noncomputable def decode66 (fn : BitVec 4) (d a b : BitVec 7) : Option Instr := if fn == 0#4 && d == 0#7 && b == 0#7 then some (.flwait a) else none

/-- Major 0x67 (R166). -/
noncomputable def decode67 (fn : BitVec 4) (d a b : BitVec 7) : Option Instr :=
  match fn.toNat with
  | 0 => some (.take d a b)
  | 1 => if d == 0#7 then some (.skip a b) else none
  | _ => none

/-- Major 0x68 (R166). -/
noncomputable def decode68 (fn : BitVec 4) (d a b : BitVec 7) : Option Instr :=
  match fn.toNat with
  | 0 => if b == 0#7 then some (.tspawn d a) else none
  | 1 => if d == 0#7 && b == 0#7 then some (.tsignal a) else none
  | 2 => some (.tqrd d a b)
  | _ => none

/-- Major 0x70 (R166). -/
noncomputable def decode70 (fn : BitVec 4) (d : BitVec 7) (imm : BitVec 14) : Option Instr :=
  match fn.toNat with
  | 0 => some (.csrr d imm)
  | 1 => some (.csrw d imm)
  | _ => none

/-- Major 0x71 (R166). -/
noncomputable def decode71 (fn : BitVec 4) (d : BitVec 7) (imm : BitVec 14) : Option Instr := if fn == 0#4 && d == 0#7 then some (.trap imm) else none

/-- Major 0x72 (R166). -/
noncomputable def decode72 (fn : BitVec 4) (d a b : BitVec 7) : Option Instr :=
  match fn.toNat with
  | 0 => if d == 0#7 && a == 0#7 && b == 0#7 then some (.eret) else none
  | 1 => if d == 0#7 && b == 0#7 then some (.cclr a) else none
  | 2 => if d == 0#7 && a == 0#7 then some (.bkpt b) else none
  | 3 => if d == 0#7 then some (.tmark a b) else none
  | 4 => if d == 0#7 && a == 0#7 && b == 0#7 then some (.isync) else none
  | _ => none

/-- Major 0x73 (R166). -/
noncomputable def decode73 (fn : BitVec 4) (d a b : BitVec 7) : Option Instr :=
  match fn.toNat with
  | 0 => if d == 0#7 then some (.l1inv a b) else none
  | 1 => some (.tlbinv d a b)
  | 2 => some (.shoot d a b)
  | 3 => if d == 0#7 then some (.rdcinv a b) else none
  | _ => none

/-- One instruction word after its prefixes (R166, R163, R162): `none` when the word is not an instruction there. -/
noncomputable def decodeMain (mk : Option Msk) (x : Option (BitVec 25)) (w : Word) : Option Instr :=
  match (fOp w).toNat with
  | 0x01 => if mk.isNone && x.isNone then decode01 (fFn w) (fD w) (fA w) (fB w) else none
  | 0x02 => if mk.isNone then decode02 x (fFn w) (fD w) (fA w) (fB w) else none
  | 0x03 => if mk.isNone then decode03 x (fFn w) (fD w) (fImm w) else none
  | 0x04 => if mk.isNone && x.isNone then decode04 (fFn w) (fD w) (fA w) (fB w) else none
  | 0x05 => if mk.isNone && x.isNone then decode05 (fFn w) (fD w) (fA w) (fB w) else none
  | 0x06 => if mk.isNone && x.isNone then decode06 (fFn w) (fD w) (fA w) (fB w) else none
  | 0x07 => if mk.isNone && x.isNone then decode07 (fFn w) (fD w) (fA w) (fB w) else none
  | 0x08 => if mk.isNone && x.isNone then decode08 (fFn w) (fD w) (fA w) (fB w) else none
  | 0x09 => if mk.isNone && x.isNone then decode09 (fFn w) (fD w) (fA w) (fB w) else none
  | 0x0A => if mk.isNone then decode0A x (fFn w) (fD w) (fA w) (fB w) else none
  | 0x0B => if mk.isNone && x.isNone then decode0B (fFn w) (fD w) (fA w) (fB w) else none
  | 0x0C => if mk.isNone && x.isNone then decode0C (fFn w) (fD w) (fA w) (fB w) else none
  | 0x0D => if mk.isNone && x.isNone then decode0D (fFn w) (fD w) (fA w) (fB w) else none
  | 0x10 => if x.isNone then decode10 mk (fFn w) (fD w) (fA w) (fB w) else none
  | 0x11 => decode11 mk x (fFn w) (fD w) (fA w) (fB w)
  | 0x12 => if x.isNone then decode12 mk (fFn w) (fD w) (fA w) (fB w) else none
  | 0x13 => if x.isNone then decode13 mk (fFn w) (fD w) (fA w) (fB w) else none
  | 0x14 => if x.isNone then decode14 mk (fFn w) (fD w) (fA w) (fB w) else none
  | 0x15 => if x.isNone then decode15 mk (fFn w) (fD w) (fA w) (fB w) else none
  | 0x16 => if x.isNone then decode16 mk (fFn w) (fD w) (fA w) (fB w) else none
  | 0x17 => if x.isNone then decode17 mk (fFn w) (fD w) (fA w) (fB w) else none
  | 0x18 => if x.isNone then decode18 mk (fFn w) (fD w) (fA w) (fB w) else none
  | 0x20 => if x.isNone then decode20 mk (fFn w) (fD w) (fA w) (fB w) else none
  | 0x21 => if x.isNone then decode21 mk (fFn w) (fD w) (fA w) (fB w) else none
  | 0x22 => if x.isNone then decode22 mk (fFn w) (fD w) (fA w) (fB w) else none
  | 0x23 => if x.isNone then decode23 mk (fFn w) (fD w) (fA w) (fB w) else none
  | 0x24 => if x.isNone then decode24 mk (fFn w) (fD w) (fA w) (fB w) else none
  | 0x25 => if x.isNone then decode25 mk (fFn w) (fD w) (fA w) (fB w) else none
  | 0x26 => if x.isNone then decode26 mk (fFn w) (fD w) (fA w) (fB w) else none
  | 0x27 => if x.isNone then decode27 mk (fFn w) (fD w) (fA w) (fB w) else none
  | 0x28 => if x.isNone then decode28 mk (fFn w) (fD w) (fA w) (fB w) else none
  | 0x29 => if x.isNone then decode29 mk (fFn w) (fD w) (fA w) (fB w) else none
  | 0x30 => if mk.isNone then decode30 x (fFn w) (fOff w) else none
  | 0x31 => if mk.isNone then decode31 x (fFn w) (fOff w) else none
  | 0x32 => if mk.isNone then decode32 x (fFn w) (fOff w) else none
  | 0x33 => if mk.isNone && x.isNone then decode33 (fFn w) (fD w) (fA w) (fB w) else none
  | 0x34 => if mk.isNone && x.isNone then decode34 (fFn w) (fD w) (fA w) (fB w) else none
  | 0x35 => if mk.isNone && x.isNone then decode35 (fFn w) (fD w) (fA w) (fB w) else none
  | 0x40 => if mk.isNone then decode40 x (fFn w) (fD w) (fA w) (fB w) else none
  | 0x41 => decode41 mk x (fFn w) (fD w) (fA w) (fB w)
  | 0x42 => decode42 mk x (fFn w) (fD w) (fA w) (fB w)
  | 0x43 => if mk.isNone then decode43 x (fFn w) (fD w) (fA w) (fB w) else none
  | 0x44 => decode44 mk x (fFn w) (fD w) (fA w) (fB w)
  | 0x45 => decode45 mk x (fFn w) (fD w) (fA w) (fB w)
  | 0x46 => if mk.isNone then decode46 x (fFn w) (fD w) (fA w) (fB w) else none
  | 0x47 => if mk.isNone then decode47 x (fFn w) (fD w) (fA w) (fB w) else none
  | 0x48 => if mk.isNone then decode48 x (fFn w) (fD w) (fA w) (fB w) else none
  | 0x49 => if mk.isNone then decode49 x (fFn w) (fD w) (fA w) (fB w) else none
  | 0x4A => if mk.isNone && x.isNone then decode4A (fFn w) (fD w) (fA w) (fB w) else none
  | 0x4B => if mk.isNone && x.isNone then decode4B (fFn w) (fD w) (fA w) (fB w) else none
  | 0x50 => if mk.isNone && x.isNone then decode50 (fFn w) (fD w) (fA w) (fB w) else none
  | 0x51 => if mk.isNone && x.isNone then decode51 (fFn w) (fD w) (fA w) (fB w) else none
  | 0x52 => if mk.isNone && x.isNone then decode52 (fFn w) (fD w) (fA w) (fB w) else none
  | 0x53 => if mk.isNone && x.isNone then decode53 (fFn w) (fD w) (fA w) (fB w) else none
  | 0x54 => if mk.isNone && x.isNone then decode54 (fFn w) (fD w) (fA w) (fB w) else none
  | 0x55 => if mk.isNone && x.isNone then decode55 (fFn w) (fD w) (fA w) (fB w) else none
  | 0x56 => if mk.isNone && x.isNone then decode56 (fFn w) (fD w) (fA w) (fB w) else none
  | 0x57 => if mk.isNone && x.isNone then decode57 (fFn w) (fD w) (fA w) (fB w) else none
  | 0x58 => if mk.isNone && x.isNone then decode58 (fFn w) (fD w) (fA w) (fB w) else none
  | 0x5A => if mk.isNone && x.isNone then decode5A (fFn w) (fD w) (fA w) (fB w) else none
  | 0x60 => if mk.isNone && x.isNone then decode60 (fFn w) (fD w) (fA w) (fB w) else none
  | 0x61 => if mk.isNone && x.isNone then decode61 (fFn w) (fD w) (fA w) (fB w) else none
  | 0x62 => if mk.isNone && x.isNone then decode62 (fFn w) (fD w) (fA w) (fB w) else none
  | 0x63 => if mk.isNone && x.isNone then decode63 (fFn w) (fD w) (fA w) (fB w) else none
  | 0x64 => if mk.isNone && x.isNone then decode64 (fFn w) (fD w) (fA w) (fB w) else none
  | 0x65 => if mk.isNone && x.isNone then decode65 (fFn w) (fD w) (fA w) (fB w) else none
  | 0x66 => if mk.isNone && x.isNone then decode66 (fFn w) (fD w) (fA w) (fB w) else none
  | 0x67 => if mk.isNone && x.isNone then decode67 (fFn w) (fD w) (fA w) (fB w) else none
  | 0x68 => if mk.isNone && x.isNone then decode68 (fFn w) (fD w) (fA w) (fB w) else none
  | 0x70 => if mk.isNone && x.isNone then decode70 (fFn w) (fD w) (fImm w) else none
  | 0x71 => if mk.isNone && x.isNone then decode71 (fFn w) (fD w) (fImm w) else none
  | 0x72 => if mk.isNone && x.isNone then decode72 (fFn w) (fD w) (fA w) (fB w) else none
  | 0x73 => if mk.isNone && x.isNone then decode73 (fFn w) (fD w) (fA w) (fB w) else none
  | _ => none

/-- What a sequence of words is. -/
inductive Decoded where
  /-- An instruction. -/
  | instr (i : Instr)
  /-- Not an instruction; the word R355 reports. -/
  | illegal (tval : Word)
  /-- The words end before the sequence does. -/
  | truncated
  deriving DecidableEq, Repr

/-- The instruction word under its prefixes, with the operand limits of R355. -/
noncomputable def decodeLast (mk : Option Msk) (x : Option (BitVec 25)) (w : Word) : Decoded :=
  match decodeMain mk x w with
  | some i => if i.fieldsOk then .instr i else .illegal w
  | none => .illegal w

/-- After an IMM prefix word p: its own bits are judged for the word that follows (R355). -/
noncomputable def decodeAfterImm (mk : Option Msk) (p : Word) : List Word → Decoded
  | [] => .truncated
  | w :: _ =>
    if immBitsOk (fOp w) (fFn w) (p.extractLsb' 0 25) then decodeLast mk (some (p.extractLsb' 0 25)) w else .illegal p

/-- After an MSK prefix (R164). -/
noncomputable def decodeAfterMsk (m : Msk) : List Word → Decoded
  | [] => .truncated
  | w :: ws => if fOp w == 0x7F#7 then decodeAfterImm (some m) w ws else decodeLast (some m) none w

/-- The instruction at the head of a sequence of words: one of the four shapes of R164, or the word R355 reports. -/
noncomputable def decodeWords : List Word → Decoded
  | [] => .truncated
  | w :: ws =>
    if fOp w == 0x7E#7 then
      if w.extractLsb' 4 21 == 0#21 then
        decodeAfterMsk { sense := w.extractLsb' 3 1, pred := w.extractLsb' 0 3 } ws
      else .illegal w
    else if fOp w == 0x7F#7 then decodeAfterImm none w ws
    else decodeLast none none w

/-- Four bytes as a word, the lowest address first (R4). -/
def wordOfBytes (b0 b1 b2 b3 : Byte) : Word := b3 ++ b2 ++ b1 ++ b0

/-- The words of a sequence of bytes, least significant byte first (R4); a last partial word is dropped. -/
def wordsOfBytes : List Byte → List Word
  | b0 :: b1 :: b2 :: b3 :: r => wordOfBytes b0 b1 b2 b3 :: wordsOfBytes r
  | _ => []

/-- The bytes of a word, least significant first (R4). -/
def bytesOfWord (w : Word) : List Byte :=
  [w.extractLsb' 0 8, w.extractLsb' 8 8, w.extractLsb' 16 8, w.extractLsb' 24 8]

/-- Decoding any bytes. -/
noncomputable def decodeBytes (bs : List Byte) : Decoded := decodeWords (wordsOfBytes bs)

/-- The MSK prefix an instruction carries. -/
def Instr.mskOf : Instr → Option Msk
  | .powerOnReset => none
  | .warmReset => none
  | .powerSample _ => none
  | .dramRefresh _ _ => none
  | .dhTrain _ _ _ => none
  | .dhTrainDone _ _ => none
  | .dhEnable _ _ _ => none
  | .dhFrameStart _ => none
  | .hgHtail _ _ => none
  | .taskAcceptance => none
  | .agingStep => none
  | .evminReservation => none
  | .taskDispatch => none
  | .bundlePlacement _ => none
  | .fastPathPlacement _ => none
  | .stealRequest _ => none
  | .bundleEviction _ => none
  | .bundleRestore _ _ _ => none
  | .workQueueTailObserve _ => none
  | .workQueueLaunch _ => none
  | .taskCompletion _ => none
  | .frameToken _ => none
  | .traceStart _ => none
  | .traceStop _ => none
  | .hgPolicy _ _ => none
  | .hgQtcount _ _ => none
  | .hgFkill _ _ => none
  | .backwaterFullReport => none
  | .hostIrq _ _ => none
  | .mstOwn _ _ => none
  | .registerWrite _ _ _ => none
  | .hostMemoryWrite _ _ => none
  | .hostMemoryRead _ _ => none
  | .hostAtomic _ _ _ _ _ => none
  | .lineLeaseExpiry _ _ => none
  | .crossDieWriteApply _ => none
  | .writeAcknowledge _ => none
  | .readRequestServe _ _ => none
  | .loadDataReturn _ _ _ _ => none
  | .walkComplete _ _ _ => none
  | .uncorrectableMemoryError _ _ => none
  | .scratchpadSoftError _ _ _ _ => none
  | .ackOverdue _ => none
  | .watchTimeout _ _ _ => none
  | .strandWake _ _ _ => none
  | .rwrDeposit _ => none
  | .mailboxAccept _ _ => none
  | .mxMma _ _ => none
  | .mxMmac _ _ => none
  | .ssbScan _ _ => none
  | .ceCopy _ _ => none
  | .qeQuant _ _ => none
  | .engineCommandComplete _ _ _ => none
  | .engctlResume _ _ _ => none
  | .engctlAbandon _ _ _ => none
  | .mxringTailObserve _ _ => none
  | .weirAdmit _ => none
  | .flumeRaster _ => none
  | .flumeDepth _ => none
  | .flumeBlend _ => none
  | .flumeTessellator _ => none
  | .flumeTextureFilter _ => none
  | .flumeTraversal _ => none
  | .flumeReprojection _ => none
  | .flumeSieve _ => none
  | .sieveAgeFlush _ => none
  | .queueRoomResume _ => none
  | .orderDomainAdvance _ => none
  | .traversalTask _ => none
  | .flDom _ _ _ => none
  | .pair _ => none
  | .pairAck _ => none
  | .migrate _ => none
  | .migrateDone _ => none
  | .move _ => none
  | .moveData _ _ _ => none
  | .stepAck _ => none
  | .release _ => none
  | .cisternStep => none
  | .companionSurpriseDown => none
  | .companionUnresponsive => none
  | .azRetrain _ _ => none
  | .azClrpart _ _ => none
  | .partClearDone => none
  | .hostLinkDown => none
  | .i3cTargetReset => none
  | .mgDbg _ _ => none
  | .mgPwrReq _ _ => none
  | .retentionEntry => none
  | .idleEntry => none
  | .mgHalt _ _ => none
  | .mgHaltResume _ _ => none
  | .blobTransition _ _ => none
  | .blobConfiguration _ _ => none
  | .contextCapture _ _ => none
  | .taskEnd _ => none
  | .dumpWrite _ => none
  | .saluAdd _ _ _ => none
  | .saluSub _ _ _ => none
  | .saluMul _ _ _ => none
  | .saluMulhs _ _ _ => none
  | .saluMulhu _ _ _ => none
  | .saluAnd _ _ _ => none
  | .saluOr _ _ _ => none
  | .saluXor _ _ _ => none
  | .saluShl _ _ _ => none
  | .saluShr _ _ _ => none
  | .saluSar _ _ _ => none
  | .saluMin _ _ _ => none
  | .saluMax _ _ _ => none
  | .saluMinu _ _ _ => none
  | .saluMaxu _ _ _ => none
  | .saluSlt _ _ _ => none
  | .saluiAdd _ _ _ _ => none
  | .saluiSub _ _ _ _ => none
  | .saluiMul _ _ _ _ => none
  | .saluiMulhs _ _ _ _ => none
  | .saluiMulhu _ _ _ _ => none
  | .saluiAnd _ _ _ _ => none
  | .saluiOr _ _ _ _ => none
  | .saluiXor _ _ _ _ => none
  | .saluiShl _ _ _ _ => none
  | .saluiShr _ _ _ _ => none
  | .saluiSar _ _ _ _ => none
  | .saluiMin _ _ _ _ => none
  | .saluiMax _ _ _ _ => none
  | .saluiMinu _ _ _ _ => none
  | .saluiMaxu _ _ _ _ => none
  | .saluiSlt _ _ _ _ => none
  | .li _ _ _ => none
  | .lih _ _ => none
  | .sbitPopc _ _ => none
  | .sbitClz _ _ => none
  | .sbitCtz _ _ => none
  | .sbitBrev _ _ => none
  | .bfx _ _ _ => none
  | .bfi _ _ _ => none
  | .sextb _ _ => none
  | .sexth _ _ => none
  | .zextb _ _ => none
  | .zexth _ _ => none
  | .div _ _ _ _ => none
  | .divu _ _ _ _ => none
  | .rem _ _ _ _ => none
  | .remu _ _ _ _ => none
  | .scmpEq _ _ _ => none
  | .scmpNe _ _ _ => none
  | .scmpLt _ _ _ => none
  | .scmpLe _ _ _ => none
  | .scmpGt _ _ _ => none
  | .scmpGe _ _ _ => none
  | .scmpLtu _ _ _ => none
  | .scmpLeu _ _ _ => none
  | .scmpGtu _ _ _ => none
  | .scmpGeu _ _ _ => none
  | .scmpiEq _ _ _ _ => none
  | .scmpiNe _ _ _ _ => none
  | .scmpiLt _ _ _ _ => none
  | .scmpiLe _ _ _ _ => none
  | .scmpiGt _ _ _ _ => none
  | .scmpiGe _ _ _ _ => none
  | .scmpiLtu _ _ _ _ => none
  | .scmpiLeu _ _ _ _ => none
  | .scmpiGtu _ _ _ _ => none
  | .scmpiGeu _ _ _ _ => none
  | .pand _ _ _ => none
  | .por _ _ _ => none
  | .pxor _ _ _ => none
  | .pandn _ _ _ => none
  | .porn _ _ _ => none
  | .pnot _ _ => none
  | .pmov _ _ => none
  | .pclr _ => none
  | .pset _ => none
  | .sel _ _ _ _ _ => none
  | .bcasts _ _ => none
  | .extr _ _ _ => none
  | .insr _ _ _ => none
  | .crd _ _ => none
  | .cwr _ _ => none
  | .srd _ _ => none
  | .movs _ _ => none
  | .movv _ _ => none
  | .prd _ _ => none
  | .pwr _ _ => none
  | .valuAdd mk _ _ _ => mk
  | .valuSub mk _ _ _ => mk
  | .valuMul mk _ _ _ => mk
  | .valuMulhs mk _ _ _ => mk
  | .valuMulhu mk _ _ _ => mk
  | .valuAdds mk _ _ _ => mk
  | .valuSubs mk _ _ _ => mk
  | .valuAddus mk _ _ _ => mk
  | .valuSubus mk _ _ _ => mk
  | .valuMin mk _ _ _ => mk
  | .valuMax mk _ _ _ => mk
  | .valuMinu mk _ _ _ => mk
  | .valuMaxu mk _ _ _ => mk
  | .valuAbs mk _ _ => mk
  | .valuNeg mk _ _ => mk
  | .valuAbsd mk _ _ _ => mk
  | .valuiAdd mk _ _ _ _ => mk
  | .valuiSub mk _ _ _ _ => mk
  | .valuiMul mk _ _ _ _ => mk
  | .valuiMulhs mk _ _ _ _ => mk
  | .valuiMulhu mk _ _ _ _ => mk
  | .valuiAdds mk _ _ _ _ => mk
  | .valuiSubs mk _ _ _ _ => mk
  | .valuiAddus mk _ _ _ _ => mk
  | .valuiSubus mk _ _ _ _ => mk
  | .valuiMin mk _ _ _ _ => mk
  | .valuiMax mk _ _ _ _ => mk
  | .valuiMinu mk _ _ _ _ => mk
  | .valuiMaxu mk _ _ _ _ => mk
  | .valuiAbsd mk _ _ _ _ => mk
  | .vmadMad mk _ _ _ => mk
  | .vmadMsb mk _ _ _ => mk
  | .vmadMads mk _ _ _ => mk
  | .vmadMadI16 mk _ _ _ => mk
  | .vmadMadI8 mk _ _ _ => mk
  | .vdot2 mk _ _ _ => mk
  | .vdot4 mk _ _ _ => mk
  | .vdot4u mk _ _ _ => mk
  | .vcmpEq mk _ _ _ => mk
  | .vcmpNe mk _ _ _ => mk
  | .vcmpLt mk _ _ _ => mk
  | .vcmpLe mk _ _ _ => mk
  | .vcmpGt mk _ _ _ => mk
  | .vcmpGe mk _ _ _ => mk
  | .vcmpLtu mk _ _ _ => mk
  | .vcmpLeu mk _ _ _ => mk
  | .vcmpGtu mk _ _ _ => mk
  | .vcmpGeu mk _ _ _ => mk
  | .vcmpEqI16 mk _ _ _ => mk
  | .vcmpLtI16 mk _ _ _ => mk
  | .vcmpLtuI16 mk _ _ _ => mk
  | .vcmpEqI8 mk _ _ _ => mk
  | .vcmpLtI8 mk _ _ _ => mk
  | .vcmpLtuI8 mk _ _ _ => mk
  | .perm mk _ _ _ => mk
  | .shuf mk _ _ _ => mk
  | .rot mk _ _ _ => mk
  | .ext mk _ _ _ => mk
  | .ins mk _ _ _ => mk
  | .zip mk _ _ _ => mk
  | .unzip mk _ _ _ => mk
  | .vpackAdd mk _ _ _ _ => mk
  | .vpackSub mk _ _ _ _ => mk
  | .vpackAdds mk _ _ _ _ => mk
  | .vpackSubs mk _ _ _ _ => mk
  | .vpackAddus mk _ _ _ _ => mk
  | .vpackSubus mk _ _ _ _ => mk
  | .vpackMin mk _ _ _ _ => mk
  | .vpackMax mk _ _ _ _ => mk
  | .redadd mk _ _ => mk
  | .redmin mk _ _ => mk
  | .redmax mk _ _ => mk
  | .redminu mk _ _ => mk
  | .redmaxu mk _ _ => mk
  | .redand mk _ _ => mk
  | .redor mk _ _ => mk
  | .redxor mk _ _ => mk
  | .redaddF32 mk _ _ => mk
  | .redminF32 mk _ _ => mk
  | .redmaxF32 mk _ _ => mk
  | .vbitAnd mk _ _ _ => mk
  | .vbitOr mk _ _ _ => mk
  | .vbitXor mk _ _ _ => mk
  | .vbitAndn mk _ _ _ => mk
  | .vbitNot mk _ _ => mk
  | .vbitShl mk _ _ _ => mk
  | .vbitShr mk _ _ _ => mk
  | .vbitSar mk _ _ _ => mk
  | .vbitShlI16 mk _ _ _ => mk
  | .vbitShrI16 mk _ _ _ => mk
  | .vbitSarI16 mk _ _ _ => mk
  | .vbitPopc mk _ _ => mk
  | .vbitClz mk _ _ => mk
  | .vbitBrev mk _ _ => mk
  | .vsel mk _ _ _ _ _ => mk
  | .fadd mk _ _ _ => mk
  | .fsub mk _ _ _ => mk
  | .fmul mk _ _ _ => mk
  | .fmin mk _ _ _ => mk
  | .fmax mk _ _ _ => mk
  | .fabs mk _ _ => mk
  | .fneg mk _ _ => mk
  | .fsgn mk _ _ _ => mk
  | .fma mk _ _ _ => mk
  | .fms mk _ _ _ => mk
  | .fnma mk _ _ _ => mk
  | .fnms mk _ _ _ => mk
  | .fcmpF32Eq mk _ _ _ => mk
  | .fcmpF32Ne mk _ _ _ => mk
  | .fcmpF32Lt mk _ _ _ => mk
  | .fcmpF32Le mk _ _ _ => mk
  | .fcmpF32Gt mk _ _ _ => mk
  | .fcmpF32Ge mk _ _ _ => mk
  | .fcmpF32Unord mk _ _ _ => mk
  | .fcmpF32Ord mk _ _ _ => mk
  | .fcmpF16Eq mk _ _ _ => mk
  | .fcmpF16Lt mk _ _ _ => mk
  | .fcmpF16Le mk _ _ _ => mk
  | .fcmpF16Unord mk _ _ _ => mk
  | .fcmpBf16Eq mk _ _ _ => mk
  | .fcmpBf16Lt mk _ _ _ => mk
  | .fcmpBf16Le mk _ _ _ => mk
  | .fcmpBf16Unord mk _ _ _ => mk
  | .rcp mk _ _ _ => mk
  | .rsq mk _ _ _ => mk
  | .sqrt mk _ _ _ => mk
  | .exp2 mk _ _ _ => mk
  | .log2 mk _ _ _ => mk
  | .sinpi mk _ _ _ => mk
  | .cospi mk _ _ _ => mk
  | .tanh mk _ _ _ => mk
  | .fdiv mk _ _ _ _ => mk
  | .fcvt mk _ _ _ _ _ => mk
  | .frnd mk _ _ _ _ => mk
  | .fclass mk _ _ _ => mk
  | .dot2F16 mk _ _ _ => mk
  | .dot2Bf16 mk _ _ _ => mk
  | .dot4E5m2 mk _ _ _ => mk
  | .dot4E4m3 mk _ _ _ => mk
  | .dot4I8 mk _ _ _ => mk
  | .dot8I4 mk _ _ _ => mk
  | .falu16Fadd mk _ _ _ _ => mk
  | .falu16Fsub mk _ _ _ _ => mk
  | .falu16Fmul mk _ _ _ _ => mk
  | .falu16Fmin mk _ _ _ _ => mk
  | .falu16Fmax mk _ _ _ _ => mk
  | .falu16Fma mk _ _ _ _ => mk
  | .falu16Fabs mk _ _ _ => mk
  | .falu16Fneg mk _ _ _ => mk
  | .br _ _ => none
  | .brp _ _ _ _ => none
  | .call _ _ => none
  | .jr _ => none
  | .jalr _ => none
  | .ret => none
  | .retPair _ => none
  | .rcv => none
  | .exit => none
  | .yield => none
  | .sleep _ => none
  | .lds _ _ _ _ _ _ _ _ => none
  | .ldv mk _ _ _ _ _ _ _ _ => mk
  | .ldg mk _ _ _ _ _ => mk
  | .sts _ _ _ _ _ _ _ => none
  | .stv mk _ _ _ _ _ _ _ => mk
  | .stg mk _ _ _ _ => mk
  | .pref _ _ _ => none
  | .atomAdd _ _ _ _ _ _ => none
  | .atomMin _ _ _ _ _ _ => none
  | .atomMax _ _ _ _ _ _ => none
  | .atomMinu _ _ _ _ _ _ => none
  | .atomMaxu _ _ _ _ _ _ => none
  | .atomAnd _ _ _ _ _ _ => none
  | .atomOr _ _ _ _ _ _ => none
  | .atomXor _ _ _ _ _ _ => none
  | .atomXchg _ _ _ _ _ _ => none
  | .atomCas _ _ _ _ _ _ => none
  | .atomvAdd _ _ _ _ _ _ => none
  | .atomvMin _ _ _ _ _ _ => none
  | .atomvMax _ _ _ _ _ _ => none
  | .atomvMinu _ _ _ _ _ _ => none
  | .atomvMaxu _ _ _ _ _ _ => none
  | .atomvAnd _ _ _ _ _ _ => none
  | .atomvOr _ _ _ _ _ _ => none
  | .atomvXor _ _ _ _ _ _ => none
  | .atomvXchg _ _ _ _ _ _ => none
  | .atomvCas _ _ _ _ _ _ => none
  | .atomvXchgW128 _ _ _ _ _ _ => none
  | .atomvCasW128 _ _ _ _ _ _ => none
  | .mwatch _ _ => none
  | .fenceAcq _ => none
  | .fenceRel _ => none
  | .fenceFull _ => none
  | .mwait => none
  | .bnew _ _ => none
  | .bjoin _ _ => none
  | .bleave => none
  | .binfo _ _ => none
  | .barInit _ _ => none
  | .barSync _ _ _ => none
  | .barArrive _ _ _ => none
  | .barExpect _ _ => none
  | .barQuery _ _ _ => none
  | .ballot _ _ _ => none
  | .any _ _ => none
  | .all _ _ => none
  | .bcast _ _ _ => none
  | .radd _ _ _ _ => none
  | .rmin _ _ _ _ => none
  | .rmax _ _ _ _ => none
  | .scanadd _ _ _ _ => none
  | .rwrScalar _ _ _ => none
  | .rwrVector _ _ _ => none
  | .rwait _ => none
  | .qsend _ _ _ => none
  | .qrecv _ _ => none
  | .flagSet _ => none
  | .flagClr _ => none
  | .flagWait _ => none
  | .flagTest _ _ => none
  | .wbases _ => none
  | .wbasev _ => none
  | .xacqs _ => none
  | .xacqv _ => none
  | .xrels _ => none
  | .xrelv _ => none
  | .tresv _ _ => none
  | .trel _ => none
  | .tstat _ _ => none
  | .twait _ _ => none
  | .engqMx _ => none
  | .engqCe _ => none
  | .engqSsb _ => none
  | .engqQe _ => none
  | .fork _ _ _ => none
  | .rdv _ _ => none
  | .specEpoch _ _ => none
  | .specCommit _ _ => none
  | .specCancel _ _ => none
  | .flcall _ _ _ => none
  | .flwait _ => none
  | .take _ _ _ => none
  | .skip _ _ => none
  | .tspawn _ _ => none
  | .tsignal _ => none
  | .tqrd _ _ _ => none
  | .csrr _ _ => none
  | .csrw _ _ => none
  | .trap _ => none
  | .eret => none
  | .cclr _ => none
  | .bkpt _ => none
  | .tmark _ _ => none
  | .isync => none
  | .l1inv _ _ => none
  | .tlbinv _ _ _ => none
  | .shoot _ _ _ => none
  | .rdcinv _ _ => none
  | .powerLoss => none
  | .companionLinkUp => none
  | .companionAtomicop _ _ _ _ _ => none

/-- The IMM prefix an instruction carries. -/
def Instr.immOf : Instr → Option (BitVec 25)
  | .powerOnReset => none
  | .warmReset => none
  | .powerSample _ => none
  | .dramRefresh _ _ => none
  | .dhTrain _ _ _ => none
  | .dhTrainDone _ _ => none
  | .dhEnable _ _ _ => none
  | .dhFrameStart _ => none
  | .hgHtail _ _ => none
  | .taskAcceptance => none
  | .agingStep => none
  | .evminReservation => none
  | .taskDispatch => none
  | .bundlePlacement _ => none
  | .fastPathPlacement _ => none
  | .stealRequest _ => none
  | .bundleEviction _ => none
  | .bundleRestore _ _ _ => none
  | .workQueueTailObserve _ => none
  | .workQueueLaunch _ => none
  | .taskCompletion _ => none
  | .frameToken _ => none
  | .traceStart _ => none
  | .traceStop _ => none
  | .hgPolicy _ _ => none
  | .hgQtcount _ _ => none
  | .hgFkill _ _ => none
  | .backwaterFullReport => none
  | .hostIrq _ _ => none
  | .mstOwn _ _ => none
  | .registerWrite _ _ _ => none
  | .hostMemoryWrite _ _ => none
  | .hostMemoryRead _ _ => none
  | .hostAtomic _ _ _ _ _ => none
  | .lineLeaseExpiry _ _ => none
  | .crossDieWriteApply _ => none
  | .writeAcknowledge _ => none
  | .readRequestServe _ _ => none
  | .loadDataReturn _ _ _ _ => none
  | .walkComplete _ _ _ => none
  | .uncorrectableMemoryError _ _ => none
  | .scratchpadSoftError _ _ _ _ => none
  | .ackOverdue _ => none
  | .watchTimeout _ _ _ => none
  | .strandWake _ _ _ => none
  | .rwrDeposit _ => none
  | .mailboxAccept _ _ => none
  | .mxMma _ _ => none
  | .mxMmac _ _ => none
  | .ssbScan _ _ => none
  | .ceCopy _ _ => none
  | .qeQuant _ _ => none
  | .engineCommandComplete _ _ _ => none
  | .engctlResume _ _ _ => none
  | .engctlAbandon _ _ _ => none
  | .mxringTailObserve _ _ => none
  | .weirAdmit _ => none
  | .flumeRaster _ => none
  | .flumeDepth _ => none
  | .flumeBlend _ => none
  | .flumeTessellator _ => none
  | .flumeTextureFilter _ => none
  | .flumeTraversal _ => none
  | .flumeReprojection _ => none
  | .flumeSieve _ => none
  | .sieveAgeFlush _ => none
  | .queueRoomResume _ => none
  | .orderDomainAdvance _ => none
  | .traversalTask _ => none
  | .flDom _ _ _ => none
  | .pair _ => none
  | .pairAck _ => none
  | .migrate _ => none
  | .migrateDone _ => none
  | .move _ => none
  | .moveData _ _ _ => none
  | .stepAck _ => none
  | .release _ => none
  | .cisternStep => none
  | .companionSurpriseDown => none
  | .companionUnresponsive => none
  | .azRetrain _ _ => none
  | .azClrpart _ _ => none
  | .partClearDone => none
  | .hostLinkDown => none
  | .i3cTargetReset => none
  | .mgDbg _ _ => none
  | .mgPwrReq _ _ => none
  | .retentionEntry => none
  | .idleEntry => none
  | .mgHalt _ _ => none
  | .mgHaltResume _ _ => none
  | .blobTransition _ _ => none
  | .blobConfiguration _ _ => none
  | .contextCapture _ _ => none
  | .taskEnd _ => none
  | .dumpWrite _ => none
  | .saluAdd _ _ _ => none
  | .saluSub _ _ _ => none
  | .saluMul _ _ _ => none
  | .saluMulhs _ _ _ => none
  | .saluMulhu _ _ _ => none
  | .saluAnd _ _ _ => none
  | .saluOr _ _ _ => none
  | .saluXor _ _ _ => none
  | .saluShl _ _ _ => none
  | .saluShr _ _ _ => none
  | .saluSar _ _ _ => none
  | .saluMin _ _ _ => none
  | .saluMax _ _ _ => none
  | .saluMinu _ _ _ => none
  | .saluMaxu _ _ _ => none
  | .saluSlt _ _ _ => none
  | .saluiAdd x _ _ _ => x
  | .saluiSub x _ _ _ => x
  | .saluiMul x _ _ _ => x
  | .saluiMulhs x _ _ _ => x
  | .saluiMulhu x _ _ _ => x
  | .saluiAnd x _ _ _ => x
  | .saluiOr x _ _ _ => x
  | .saluiXor x _ _ _ => x
  | .saluiShl x _ _ _ => x
  | .saluiShr x _ _ _ => x
  | .saluiSar x _ _ _ => x
  | .saluiMin x _ _ _ => x
  | .saluiMax x _ _ _ => x
  | .saluiMinu x _ _ _ => x
  | .saluiMaxu x _ _ _ => x
  | .saluiSlt x _ _ _ => x
  | .li x _ _ => x
  | .lih _ _ => none
  | .sbitPopc _ _ => none
  | .sbitClz _ _ => none
  | .sbitCtz _ _ => none
  | .sbitBrev _ _ => none
  | .bfx _ _ _ => none
  | .bfi _ _ _ => none
  | .sextb _ _ => none
  | .sexth _ _ => none
  | .zextb _ _ => none
  | .zexth _ _ => none
  | .div _ _ _ _ => none
  | .divu _ _ _ _ => none
  | .rem _ _ _ _ => none
  | .remu _ _ _ _ => none
  | .scmpEq _ _ _ => none
  | .scmpNe _ _ _ => none
  | .scmpLt _ _ _ => none
  | .scmpLe _ _ _ => none
  | .scmpGt _ _ _ => none
  | .scmpGe _ _ _ => none
  | .scmpLtu _ _ _ => none
  | .scmpLeu _ _ _ => none
  | .scmpGtu _ _ _ => none
  | .scmpGeu _ _ _ => none
  | .scmpiEq x _ _ _ => x
  | .scmpiNe x _ _ _ => x
  | .scmpiLt x _ _ _ => x
  | .scmpiLe x _ _ _ => x
  | .scmpiGt x _ _ _ => x
  | .scmpiGe x _ _ _ => x
  | .scmpiLtu x _ _ _ => x
  | .scmpiLeu x _ _ _ => x
  | .scmpiGtu x _ _ _ => x
  | .scmpiGeu x _ _ _ => x
  | .pand _ _ _ => none
  | .por _ _ _ => none
  | .pxor _ _ _ => none
  | .pandn _ _ _ => none
  | .porn _ _ _ => none
  | .pnot _ _ => none
  | .pmov _ _ => none
  | .pclr _ => none
  | .pset _ => none
  | .sel _ _ _ _ _ => none
  | .bcasts _ _ => none
  | .extr _ _ _ => none
  | .insr _ _ _ => none
  | .crd _ _ => none
  | .cwr _ _ => none
  | .srd _ _ => none
  | .movs _ _ => none
  | .movv _ _ => none
  | .prd _ _ => none
  | .pwr _ _ => none
  | .valuAdd _ _ _ _ => none
  | .valuSub _ _ _ _ => none
  | .valuMul _ _ _ _ => none
  | .valuMulhs _ _ _ _ => none
  | .valuMulhu _ _ _ _ => none
  | .valuAdds _ _ _ _ => none
  | .valuSubs _ _ _ _ => none
  | .valuAddus _ _ _ _ => none
  | .valuSubus _ _ _ _ => none
  | .valuMin _ _ _ _ => none
  | .valuMax _ _ _ _ => none
  | .valuMinu _ _ _ _ => none
  | .valuMaxu _ _ _ _ => none
  | .valuAbs _ _ _ => none
  | .valuNeg _ _ _ => none
  | .valuAbsd _ _ _ _ => none
  | .valuiAdd _ x _ _ _ => x
  | .valuiSub _ x _ _ _ => x
  | .valuiMul _ x _ _ _ => x
  | .valuiMulhs _ x _ _ _ => x
  | .valuiMulhu _ x _ _ _ => x
  | .valuiAdds _ x _ _ _ => x
  | .valuiSubs _ x _ _ _ => x
  | .valuiAddus _ x _ _ _ => x
  | .valuiSubus _ x _ _ _ => x
  | .valuiMin _ x _ _ _ => x
  | .valuiMax _ x _ _ _ => x
  | .valuiMinu _ x _ _ _ => x
  | .valuiMaxu _ x _ _ _ => x
  | .valuiAbsd _ x _ _ _ => x
  | .vmadMad _ _ _ _ => none
  | .vmadMsb _ _ _ _ => none
  | .vmadMads _ _ _ _ => none
  | .vmadMadI16 _ _ _ _ => none
  | .vmadMadI8 _ _ _ _ => none
  | .vdot2 _ _ _ _ => none
  | .vdot4 _ _ _ _ => none
  | .vdot4u _ _ _ _ => none
  | .vcmpEq _ _ _ _ => none
  | .vcmpNe _ _ _ _ => none
  | .vcmpLt _ _ _ _ => none
  | .vcmpLe _ _ _ _ => none
  | .vcmpGt _ _ _ _ => none
  | .vcmpGe _ _ _ _ => none
  | .vcmpLtu _ _ _ _ => none
  | .vcmpLeu _ _ _ _ => none
  | .vcmpGtu _ _ _ _ => none
  | .vcmpGeu _ _ _ _ => none
  | .vcmpEqI16 _ _ _ _ => none
  | .vcmpLtI16 _ _ _ _ => none
  | .vcmpLtuI16 _ _ _ _ => none
  | .vcmpEqI8 _ _ _ _ => none
  | .vcmpLtI8 _ _ _ _ => none
  | .vcmpLtuI8 _ _ _ _ => none
  | .perm _ _ _ _ => none
  | .shuf _ _ _ _ => none
  | .rot _ _ _ _ => none
  | .ext _ _ _ _ => none
  | .ins _ _ _ _ => none
  | .zip _ _ _ _ => none
  | .unzip _ _ _ _ => none
  | .vpackAdd _ _ _ _ _ => none
  | .vpackSub _ _ _ _ _ => none
  | .vpackAdds _ _ _ _ _ => none
  | .vpackSubs _ _ _ _ _ => none
  | .vpackAddus _ _ _ _ _ => none
  | .vpackSubus _ _ _ _ _ => none
  | .vpackMin _ _ _ _ _ => none
  | .vpackMax _ _ _ _ _ => none
  | .redadd _ _ _ => none
  | .redmin _ _ _ => none
  | .redmax _ _ _ => none
  | .redminu _ _ _ => none
  | .redmaxu _ _ _ => none
  | .redand _ _ _ => none
  | .redor _ _ _ => none
  | .redxor _ _ _ => none
  | .redaddF32 _ _ _ => none
  | .redminF32 _ _ _ => none
  | .redmaxF32 _ _ _ => none
  | .vbitAnd _ _ _ _ => none
  | .vbitOr _ _ _ _ => none
  | .vbitXor _ _ _ _ => none
  | .vbitAndn _ _ _ _ => none
  | .vbitNot _ _ _ => none
  | .vbitShl _ _ _ _ => none
  | .vbitShr _ _ _ _ => none
  | .vbitSar _ _ _ _ => none
  | .vbitShlI16 _ _ _ _ => none
  | .vbitShrI16 _ _ _ _ => none
  | .vbitSarI16 _ _ _ _ => none
  | .vbitPopc _ _ _ => none
  | .vbitClz _ _ _ => none
  | .vbitBrev _ _ _ => none
  | .vsel _ _ _ _ _ _ => none
  | .fadd _ _ _ _ => none
  | .fsub _ _ _ _ => none
  | .fmul _ _ _ _ => none
  | .fmin _ _ _ _ => none
  | .fmax _ _ _ _ => none
  | .fabs _ _ _ => none
  | .fneg _ _ _ => none
  | .fsgn _ _ _ _ => none
  | .fma _ _ _ _ => none
  | .fms _ _ _ _ => none
  | .fnma _ _ _ _ => none
  | .fnms _ _ _ _ => none
  | .fcmpF32Eq _ _ _ _ => none
  | .fcmpF32Ne _ _ _ _ => none
  | .fcmpF32Lt _ _ _ _ => none
  | .fcmpF32Le _ _ _ _ => none
  | .fcmpF32Gt _ _ _ _ => none
  | .fcmpF32Ge _ _ _ _ => none
  | .fcmpF32Unord _ _ _ _ => none
  | .fcmpF32Ord _ _ _ _ => none
  | .fcmpF16Eq _ _ _ _ => none
  | .fcmpF16Lt _ _ _ _ => none
  | .fcmpF16Le _ _ _ _ => none
  | .fcmpF16Unord _ _ _ _ => none
  | .fcmpBf16Eq _ _ _ _ => none
  | .fcmpBf16Lt _ _ _ _ => none
  | .fcmpBf16Le _ _ _ _ => none
  | .fcmpBf16Unord _ _ _ _ => none
  | .rcp _ _ _ _ => none
  | .rsq _ _ _ _ => none
  | .sqrt _ _ _ _ => none
  | .exp2 _ _ _ _ => none
  | .log2 _ _ _ _ => none
  | .sinpi _ _ _ _ => none
  | .cospi _ _ _ _ => none
  | .tanh _ _ _ _ => none
  | .fdiv _ _ _ _ _ => none
  | .fcvt _ _ _ _ _ _ => none
  | .frnd _ _ _ _ _ => none
  | .fclass _ _ _ _ => none
  | .dot2F16 _ _ _ _ => none
  | .dot2Bf16 _ _ _ _ => none
  | .dot4E5m2 _ _ _ _ => none
  | .dot4E4m3 _ _ _ _ => none
  | .dot4I8 _ _ _ _ => none
  | .dot8I4 _ _ _ _ => none
  | .falu16Fadd _ _ _ _ _ => none
  | .falu16Fsub _ _ _ _ _ => none
  | .falu16Fmul _ _ _ _ _ => none
  | .falu16Fmin _ _ _ _ _ => none
  | .falu16Fmax _ _ _ _ _ => none
  | .falu16Fma _ _ _ _ _ => none
  | .falu16Fabs _ _ _ _ => none
  | .falu16Fneg _ _ _ _ => none
  | .br x _ => x
  | .brp x _ _ _ => x
  | .call x _ => x
  | .jr _ => none
  | .jalr _ => none
  | .ret => none
  | .retPair _ => none
  | .rcv => none
  | .exit => none
  | .yield => none
  | .sleep _ => none
  | .lds x _ _ _ _ _ _ _ => x
  | .ldv _ x _ _ _ _ _ _ _ => x
  | .ldg _ x _ _ _ _ => x
  | .sts x _ _ _ _ _ _ => x
  | .stv _ x _ _ _ _ _ _ => x
  | .stg _ x _ _ _ => x
  | .pref x _ _ => x
  | .atomAdd x _ _ _ _ _ => x
  | .atomMin x _ _ _ _ _ => x
  | .atomMax x _ _ _ _ _ => x
  | .atomMinu x _ _ _ _ _ => x
  | .atomMaxu x _ _ _ _ _ => x
  | .atomAnd x _ _ _ _ _ => x
  | .atomOr x _ _ _ _ _ => x
  | .atomXor x _ _ _ _ _ => x
  | .atomXchg x _ _ _ _ _ => x
  | .atomCas x _ _ _ _ _ => x
  | .atomvAdd x _ _ _ _ _ => x
  | .atomvMin x _ _ _ _ _ => x
  | .atomvMax x _ _ _ _ _ => x
  | .atomvMinu x _ _ _ _ _ => x
  | .atomvMaxu x _ _ _ _ _ => x
  | .atomvAnd x _ _ _ _ _ => x
  | .atomvOr x _ _ _ _ _ => x
  | .atomvXor x _ _ _ _ _ => x
  | .atomvXchg x _ _ _ _ _ => x
  | .atomvCas x _ _ _ _ _ => x
  | .atomvXchgW128 x _ _ _ _ _ => x
  | .atomvCasW128 x _ _ _ _ _ => x
  | .mwatch x _ => x
  | .fenceAcq _ => none
  | .fenceRel _ => none
  | .fenceFull _ => none
  | .mwait => none
  | .bnew _ _ => none
  | .bjoin _ _ => none
  | .bleave => none
  | .binfo _ _ => none
  | .barInit _ _ => none
  | .barSync _ _ _ => none
  | .barArrive _ _ _ => none
  | .barExpect _ _ => none
  | .barQuery _ _ _ => none
  | .ballot _ _ _ => none
  | .any _ _ => none
  | .all _ _ => none
  | .bcast _ _ _ => none
  | .radd _ _ _ _ => none
  | .rmin _ _ _ _ => none
  | .rmax _ _ _ _ => none
  | .scanadd _ _ _ _ => none
  | .rwrScalar _ _ _ => none
  | .rwrVector _ _ _ => none
  | .rwait _ => none
  | .qsend _ _ _ => none
  | .qrecv _ _ => none
  | .flagSet _ => none
  | .flagClr _ => none
  | .flagWait _ => none
  | .flagTest _ _ => none
  | .wbases _ => none
  | .wbasev _ => none
  | .xacqs _ => none
  | .xacqv _ => none
  | .xrels _ => none
  | .xrelv _ => none
  | .tresv _ _ => none
  | .trel _ => none
  | .tstat _ _ => none
  | .twait _ _ => none
  | .engqMx _ => none
  | .engqCe _ => none
  | .engqSsb _ => none
  | .engqQe _ => none
  | .fork _ _ _ => none
  | .rdv _ _ => none
  | .specEpoch _ _ => none
  | .specCommit _ _ => none
  | .specCancel _ _ => none
  | .flcall _ _ _ => none
  | .flwait _ => none
  | .take _ _ _ => none
  | .skip _ _ => none
  | .tspawn _ _ => none
  | .tsignal _ => none
  | .tqrd _ _ _ => none
  | .csrr _ _ => none
  | .csrw _ _ => none
  | .trap _ => none
  | .eret => none
  | .cclr _ => none
  | .bkpt _ => none
  | .tmark _ _ => none
  | .isync => none
  | .l1inv _ _ => none
  | .tlbinv _ _ _ => none
  | .shoot _ _ _ => none
  | .rdcinv _ _ => none
  | .powerLoss => none
  | .companionLinkUp => none
  | .companionAtomicop _ _ _ _ _ => none

/-- The instruction's own word, from the encoding tables R158 to R168 (0 for an event, which has no encoding). -/
def Instr.word : Instr → Word
  | .powerOnReset => 0#32
  | .warmReset => 0#32
  | .powerSample _ => 0#32
  | .dramRefresh _ _ => 0#32
  | .dhTrain _ _ _ => 0#32
  | .dhTrainDone _ _ => 0#32
  | .dhEnable _ _ _ => 0#32
  | .dhFrameStart _ => 0#32
  | .hgHtail _ _ => 0#32
  | .taskAcceptance => 0#32
  | .agingStep => 0#32
  | .evminReservation => 0#32
  | .taskDispatch => 0#32
  | .bundlePlacement _ => 0#32
  | .fastPathPlacement _ => 0#32
  | .stealRequest _ => 0#32
  | .bundleEviction _ => 0#32
  | .bundleRestore _ _ _ => 0#32
  | .workQueueTailObserve _ => 0#32
  | .workQueueLaunch _ => 0#32
  | .taskCompletion _ => 0#32
  | .frameToken _ => 0#32
  | .traceStart _ => 0#32
  | .traceStop _ => 0#32
  | .hgPolicy _ _ => 0#32
  | .hgQtcount _ _ => 0#32
  | .hgFkill _ _ => 0#32
  | .backwaterFullReport => 0#32
  | .hostIrq _ _ => 0#32
  | .mstOwn _ _ => 0#32
  | .registerWrite _ _ _ => 0#32
  | .hostMemoryWrite _ _ => 0#32
  | .hostMemoryRead _ _ => 0#32
  | .hostAtomic _ _ _ _ _ => 0#32
  | .lineLeaseExpiry _ _ => 0#32
  | .crossDieWriteApply _ => 0#32
  | .writeAcknowledge _ => 0#32
  | .readRequestServe _ _ => 0#32
  | .loadDataReturn _ _ _ _ => 0#32
  | .walkComplete _ _ _ => 0#32
  | .uncorrectableMemoryError _ _ => 0#32
  | .scratchpadSoftError _ _ _ _ => 0#32
  | .ackOverdue _ => 0#32
  | .watchTimeout _ _ _ => 0#32
  | .strandWake _ _ _ => 0#32
  | .rwrDeposit _ => 0#32
  | .mailboxAccept _ _ => 0#32
  | .mxMma _ _ => 0#32
  | .mxMmac _ _ => 0#32
  | .ssbScan _ _ => 0#32
  | .ceCopy _ _ => 0#32
  | .qeQuant _ _ => 0#32
  | .engineCommandComplete _ _ _ => 0#32
  | .engctlResume _ _ _ => 0#32
  | .engctlAbandon _ _ _ => 0#32
  | .mxringTailObserve _ _ => 0#32
  | .weirAdmit _ => 0#32
  | .flumeRaster _ => 0#32
  | .flumeDepth _ => 0#32
  | .flumeBlend _ => 0#32
  | .flumeTessellator _ => 0#32
  | .flumeTextureFilter _ => 0#32
  | .flumeTraversal _ => 0#32
  | .flumeReprojection _ => 0#32
  | .flumeSieve _ => 0#32
  | .sieveAgeFlush _ => 0#32
  | .queueRoomResume _ => 0#32
  | .orderDomainAdvance _ => 0#32
  | .traversalTask _ => 0#32
  | .flDom _ _ _ => 0#32
  | .pair _ => 0#32
  | .pairAck _ => 0#32
  | .migrate _ => 0#32
  | .migrateDone _ => 0#32
  | .move _ => 0#32
  | .moveData _ _ _ => 0#32
  | .stepAck _ => 0#32
  | .release _ => 0#32
  | .cisternStep => 0#32
  | .companionSurpriseDown => 0#32
  | .companionUnresponsive => 0#32
  | .azRetrain _ _ => 0#32
  | .azClrpart _ _ => 0#32
  | .partClearDone => 0#32
  | .hostLinkDown => 0#32
  | .i3cTargetReset => 0#32
  | .mgDbg _ _ => 0#32
  | .mgPwrReq _ _ => 0#32
  | .retentionEntry => 0#32
  | .idleEntry => 0#32
  | .mgHalt _ _ => 0#32
  | .mgHaltResume _ _ => 0#32
  | .blobTransition _ _ => 0#32
  | .blobConfiguration _ _ => 0#32
  | .contextCapture _ _ => 0#32
  | .taskEnd _ => 0#32
  | .dumpWrite _ => 0#32
  | .saluAdd d a b => wordA 0x01#7 0#4 d a b
  | .saluSub d a b => wordA 0x01#7 1#4 d a b
  | .saluMul d a b => wordA 0x01#7 2#4 d a b
  | .saluMulhs d a b => wordA 0x01#7 3#4 d a b
  | .saluMulhu d a b => wordA 0x01#7 4#4 d a b
  | .saluAnd d a b => wordA 0x01#7 5#4 d a b
  | .saluOr d a b => wordA 0x01#7 6#4 d a b
  | .saluXor d a b => wordA 0x01#7 7#4 d a b
  | .saluShl d a b => wordA 0x01#7 8#4 d a b
  | .saluShr d a b => wordA 0x01#7 9#4 d a b
  | .saluSar d a b => wordA 0x01#7 10#4 d a b
  | .saluMin d a b => wordA 0x01#7 11#4 d a b
  | .saluMax d a b => wordA 0x01#7 12#4 d a b
  | .saluMinu d a b => wordA 0x01#7 13#4 d a b
  | .saluMaxu d a b => wordA 0x01#7 14#4 d a b
  | .saluSlt d a b => wordA 0x01#7 15#4 d a b
  | .saluiAdd _ d a i => wordA 0x02#7 0#4 d a i
  | .saluiSub _ d a i => wordA 0x02#7 1#4 d a i
  | .saluiMul _ d a i => wordA 0x02#7 2#4 d a i
  | .saluiMulhs _ d a i => wordA 0x02#7 3#4 d a i
  | .saluiMulhu _ d a i => wordA 0x02#7 4#4 d a i
  | .saluiAnd _ d a i => wordA 0x02#7 5#4 d a i
  | .saluiOr _ d a i => wordA 0x02#7 6#4 d a i
  | .saluiXor _ d a i => wordA 0x02#7 7#4 d a i
  | .saluiShl _ d a i => wordA 0x02#7 8#4 d a i
  | .saluiShr _ d a i => wordA 0x02#7 9#4 d a i
  | .saluiSar _ d a i => wordA 0x02#7 10#4 d a i
  | .saluiMin _ d a i => wordA 0x02#7 11#4 d a i
  | .saluiMax _ d a i => wordA 0x02#7 12#4 d a i
  | .saluiMinu _ d a i => wordA 0x02#7 13#4 d a i
  | .saluiMaxu _ d a i => wordA 0x02#7 14#4 d a i
  | .saluiSlt _ d a i => wordA 0x02#7 15#4 d a i
  | .li _ d i => wordC 0x03#7 0#4 d i
  | .lih d i => wordC 0x03#7 1#4 d i
  | .sbitPopc d a => wordA 0x04#7 0#4 d a 0#7
  | .sbitClz d a => wordA 0x04#7 1#4 d a 0#7
  | .sbitCtz d a => wordA 0x04#7 2#4 d a 0#7
  | .sbitBrev d a => wordA 0x04#7 3#4 d a 0#7
  | .bfx d a b => wordA 0x04#7 4#4 d a b
  | .bfi d a b => wordA 0x04#7 5#4 d a b
  | .sextb d a => wordA 0x04#7 6#4 d a 0#7
  | .sexth d a => wordA 0x04#7 7#4 d a 0#7
  | .zextb d a => wordA 0x04#7 8#4 d a 0#7
  | .zexth d a => wordA 0x04#7 9#4 d a 0#7
  | .div l d a b => wordA 0x05#7 l d a b
  | .divu l d a b => wordA 0x06#7 l d a b
  | .rem l d a b => wordA 0x07#7 l d a b
  | .remu l d a b => wordA 0x08#7 l d a b
  | .scmpEq d a b => wordA 0x09#7 0#4 (0#4 ++ d) a b
  | .scmpNe d a b => wordA 0x09#7 1#4 (0#4 ++ d) a b
  | .scmpLt d a b => wordA 0x09#7 2#4 (0#4 ++ d) a b
  | .scmpLe d a b => wordA 0x09#7 3#4 (0#4 ++ d) a b
  | .scmpGt d a b => wordA 0x09#7 4#4 (0#4 ++ d) a b
  | .scmpGe d a b => wordA 0x09#7 5#4 (0#4 ++ d) a b
  | .scmpLtu d a b => wordA 0x09#7 6#4 (0#4 ++ d) a b
  | .scmpLeu d a b => wordA 0x09#7 7#4 (0#4 ++ d) a b
  | .scmpGtu d a b => wordA 0x09#7 8#4 (0#4 ++ d) a b
  | .scmpGeu d a b => wordA 0x09#7 9#4 (0#4 ++ d) a b
  | .scmpiEq _ d a i => wordA 0x0A#7 0#4 (0#4 ++ d) a i
  | .scmpiNe _ d a i => wordA 0x0A#7 1#4 (0#4 ++ d) a i
  | .scmpiLt _ d a i => wordA 0x0A#7 2#4 (0#4 ++ d) a i
  | .scmpiLe _ d a i => wordA 0x0A#7 3#4 (0#4 ++ d) a i
  | .scmpiGt _ d a i => wordA 0x0A#7 4#4 (0#4 ++ d) a i
  | .scmpiGe _ d a i => wordA 0x0A#7 5#4 (0#4 ++ d) a i
  | .scmpiLtu _ d a i => wordA 0x0A#7 6#4 (0#4 ++ d) a i
  | .scmpiLeu _ d a i => wordA 0x0A#7 7#4 (0#4 ++ d) a i
  | .scmpiGtu _ d a i => wordA 0x0A#7 8#4 (0#4 ++ d) a i
  | .scmpiGeu _ d a i => wordA 0x0A#7 9#4 (0#4 ++ d) a i
  | .pand d a b => wordA 0x0B#7 0#4 (0#4 ++ d) (0#4 ++ a) (0#4 ++ b)
  | .por d a b => wordA 0x0B#7 1#4 (0#4 ++ d) (0#4 ++ a) (0#4 ++ b)
  | .pxor d a b => wordA 0x0B#7 2#4 (0#4 ++ d) (0#4 ++ a) (0#4 ++ b)
  | .pandn d a b => wordA 0x0B#7 3#4 (0#4 ++ d) (0#4 ++ a) (0#4 ++ b)
  | .porn d a b => wordA 0x0B#7 4#4 (0#4 ++ d) (0#4 ++ a) (0#4 ++ b)
  | .pnot d a => wordA 0x0B#7 5#4 (0#4 ++ d) (0#4 ++ a) 0#7
  | .pmov d a => wordA 0x0B#7 6#4 (0#4 ++ d) (0#4 ++ a) 0#7
  | .pclr d => wordA 0x0B#7 7#4 (0#4 ++ d) 0#7 0#7
  | .pset d => wordA 0x0B#7 8#4 (0#4 ++ d) 0#7 0#7
  | .sel s p d a b => wordA 0x0C#7 (s ++ p) d a b
  | .bcasts d a => wordA 0x0D#7 0#4 d a 0#7
  | .extr d a k => wordA 0x0D#7 1#4 d a (0#4 ++ k)
  | .insr d a k => wordA 0x0D#7 2#4 d a (0#4 ++ k)
  | .crd d a => wordA 0x0D#7 3#4 d (0#2 ++ a) 0#7
  | .cwr d a => wordA 0x0D#7 4#4 (0#2 ++ d) a 0#7
  | .srd d a => wordA 0x0D#7 5#4 d a 0#7
  | .movs d a => wordA 0x0D#7 6#4 d a 0#7
  | .movv d a => wordA 0x0D#7 7#4 d a 0#7
  | .prd d a => wordA 0x0D#7 8#4 d (0#4 ++ a) 0#7
  | .pwr d a => wordA 0x0D#7 9#4 (0#4 ++ d) a 0#7
  | .valuAdd _ d a b => wordA 0x10#7 0#4 d a b
  | .valuSub _ d a b => wordA 0x10#7 1#4 d a b
  | .valuMul _ d a b => wordA 0x10#7 2#4 d a b
  | .valuMulhs _ d a b => wordA 0x10#7 3#4 d a b
  | .valuMulhu _ d a b => wordA 0x10#7 4#4 d a b
  | .valuAdds _ d a b => wordA 0x10#7 5#4 d a b
  | .valuSubs _ d a b => wordA 0x10#7 6#4 d a b
  | .valuAddus _ d a b => wordA 0x10#7 7#4 d a b
  | .valuSubus _ d a b => wordA 0x10#7 8#4 d a b
  | .valuMin _ d a b => wordA 0x10#7 9#4 d a b
  | .valuMax _ d a b => wordA 0x10#7 10#4 d a b
  | .valuMinu _ d a b => wordA 0x10#7 11#4 d a b
  | .valuMaxu _ d a b => wordA 0x10#7 12#4 d a b
  | .valuAbs _ d a => wordA 0x10#7 13#4 d a 0#7
  | .valuNeg _ d a => wordA 0x10#7 14#4 d a 0#7
  | .valuAbsd _ d a b => wordA 0x10#7 15#4 d a b
  | .valuiAdd _ _ d a i => wordA 0x11#7 0#4 d a i
  | .valuiSub _ _ d a i => wordA 0x11#7 1#4 d a i
  | .valuiMul _ _ d a i => wordA 0x11#7 2#4 d a i
  | .valuiMulhs _ _ d a i => wordA 0x11#7 3#4 d a i
  | .valuiMulhu _ _ d a i => wordA 0x11#7 4#4 d a i
  | .valuiAdds _ _ d a i => wordA 0x11#7 5#4 d a i
  | .valuiSubs _ _ d a i => wordA 0x11#7 6#4 d a i
  | .valuiAddus _ _ d a i => wordA 0x11#7 7#4 d a i
  | .valuiSubus _ _ d a i => wordA 0x11#7 8#4 d a i
  | .valuiMin _ _ d a i => wordA 0x11#7 9#4 d a i
  | .valuiMax _ _ d a i => wordA 0x11#7 10#4 d a i
  | .valuiMinu _ _ d a i => wordA 0x11#7 11#4 d a i
  | .valuiMaxu _ _ d a i => wordA 0x11#7 12#4 d a i
  | .valuiAbsd _ _ d a i => wordA 0x11#7 15#4 d a i
  | .vmadMad _ d a b => wordA 0x12#7 0#4 d a b
  | .vmadMsb _ d a b => wordA 0x12#7 1#4 d a b
  | .vmadMads _ d a b => wordA 0x12#7 2#4 d a b
  | .vmadMadI16 _ d a b => wordA 0x12#7 3#4 d a b
  | .vmadMadI8 _ d a b => wordA 0x12#7 4#4 d a b
  | .vdot2 _ d a b => wordA 0x12#7 5#4 d a b
  | .vdot4 _ d a b => wordA 0x12#7 6#4 d a b
  | .vdot4u _ d a b => wordA 0x12#7 7#4 d a b
  | .vcmpEq _ d a b => wordA 0x13#7 0#4 (0#4 ++ d) a b
  | .vcmpNe _ d a b => wordA 0x13#7 1#4 (0#4 ++ d) a b
  | .vcmpLt _ d a b => wordA 0x13#7 2#4 (0#4 ++ d) a b
  | .vcmpLe _ d a b => wordA 0x13#7 3#4 (0#4 ++ d) a b
  | .vcmpGt _ d a b => wordA 0x13#7 4#4 (0#4 ++ d) a b
  | .vcmpGe _ d a b => wordA 0x13#7 5#4 (0#4 ++ d) a b
  | .vcmpLtu _ d a b => wordA 0x13#7 6#4 (0#4 ++ d) a b
  | .vcmpLeu _ d a b => wordA 0x13#7 7#4 (0#4 ++ d) a b
  | .vcmpGtu _ d a b => wordA 0x13#7 8#4 (0#4 ++ d) a b
  | .vcmpGeu _ d a b => wordA 0x13#7 9#4 (0#4 ++ d) a b
  | .vcmpEqI16 _ d a b => wordA 0x13#7 10#4 (0#4 ++ d) a b
  | .vcmpLtI16 _ d a b => wordA 0x13#7 11#4 (0#4 ++ d) a b
  | .vcmpLtuI16 _ d a b => wordA 0x13#7 12#4 (0#4 ++ d) a b
  | .vcmpEqI8 _ d a b => wordA 0x13#7 13#4 (0#4 ++ d) a b
  | .vcmpLtI8 _ d a b => wordA 0x13#7 14#4 (0#4 ++ d) a b
  | .vcmpLtuI8 _ d a b => wordA 0x13#7 15#4 (0#4 ++ d) a b
  | .perm _ d a b => wordA 0x14#7 0#4 d a b
  | .shuf _ d a b => wordA 0x14#7 1#4 d a b
  | .rot _ d a k => wordA 0x14#7 2#4 d a (0#4 ++ k)
  | .ext _ d a k => wordA 0x14#7 3#4 d a (0#4 ++ k)
  | .ins _ d a k => wordA 0x14#7 4#4 d a (0#4 ++ k)
  | .zip _ d a b => wordA 0x14#7 5#4 d a b
  | .unzip _ d a b => wordA 0x14#7 6#4 d a b
  | .vpackAdd _ w d a b => wordA 0x15#7 (w ++ 0#3) d a b
  | .vpackSub _ w d a b => wordA 0x15#7 (w ++ 1#3) d a b
  | .vpackAdds _ w d a b => wordA 0x15#7 (w ++ 2#3) d a b
  | .vpackSubs _ w d a b => wordA 0x15#7 (w ++ 3#3) d a b
  | .vpackAddus _ w d a b => wordA 0x15#7 (w ++ 4#3) d a b
  | .vpackSubus _ w d a b => wordA 0x15#7 (w ++ 5#3) d a b
  | .vpackMin _ w d a b => wordA 0x15#7 (w ++ 6#3) d a b
  | .vpackMax _ w d a b => wordA 0x15#7 (w ++ 7#3) d a b
  | .redadd _ d a => wordA 0x16#7 0#4 d a 0#7
  | .redmin _ d a => wordA 0x16#7 1#4 d a 0#7
  | .redmax _ d a => wordA 0x16#7 2#4 d a 0#7
  | .redminu _ d a => wordA 0x16#7 3#4 d a 0#7
  | .redmaxu _ d a => wordA 0x16#7 4#4 d a 0#7
  | .redand _ d a => wordA 0x16#7 5#4 d a 0#7
  | .redor _ d a => wordA 0x16#7 6#4 d a 0#7
  | .redxor _ d a => wordA 0x16#7 7#4 d a 0#7
  | .redaddF32 _ d a => wordA 0x16#7 8#4 d a 0#7
  | .redminF32 _ d a => wordA 0x16#7 9#4 d a 0#7
  | .redmaxF32 _ d a => wordA 0x16#7 10#4 d a 0#7
  | .vbitAnd _ d a b => wordA 0x17#7 0#4 d a b
  | .vbitOr _ d a b => wordA 0x17#7 1#4 d a b
  | .vbitXor _ d a b => wordA 0x17#7 2#4 d a b
  | .vbitAndn _ d a b => wordA 0x17#7 3#4 d a b
  | .vbitNot _ d a => wordA 0x17#7 4#4 d a 0#7
  | .vbitShl _ d a b => wordA 0x17#7 5#4 d a b
  | .vbitShr _ d a b => wordA 0x17#7 6#4 d a b
  | .vbitSar _ d a b => wordA 0x17#7 7#4 d a b
  | .vbitShlI16 _ d a b => wordA 0x17#7 8#4 d a b
  | .vbitShrI16 _ d a b => wordA 0x17#7 9#4 d a b
  | .vbitSarI16 _ d a b => wordA 0x17#7 10#4 d a b
  | .vbitPopc _ d a => wordA 0x17#7 11#4 d a 0#7
  | .vbitClz _ d a => wordA 0x17#7 12#4 d a 0#7
  | .vbitBrev _ d a => wordA 0x17#7 13#4 d a 0#7
  | .vsel _ s p d a b => wordA 0x18#7 (s ++ p) d a b
  | .fadd _ d a b => wordA 0x20#7 0#4 d a b
  | .fsub _ d a b => wordA 0x20#7 1#4 d a b
  | .fmul _ d a b => wordA 0x20#7 2#4 d a b
  | .fmin _ d a b => wordA 0x20#7 3#4 d a b
  | .fmax _ d a b => wordA 0x20#7 4#4 d a b
  | .fabs _ d a => wordA 0x20#7 5#4 d a 0#7
  | .fneg _ d a => wordA 0x20#7 6#4 d a 0#7
  | .fsgn _ d a b => wordA 0x20#7 7#4 d a b
  | .fma _ d a b => wordA 0x21#7 0#4 d a b
  | .fms _ d a b => wordA 0x21#7 1#4 d a b
  | .fnma _ d a b => wordA 0x21#7 2#4 d a b
  | .fnms _ d a b => wordA 0x21#7 3#4 d a b
  | .fcmpF32Eq _ d a b => wordA 0x22#7 0#4 (0#4 ++ d) a b
  | .fcmpF32Ne _ d a b => wordA 0x22#7 1#4 (0#4 ++ d) a b
  | .fcmpF32Lt _ d a b => wordA 0x22#7 2#4 (0#4 ++ d) a b
  | .fcmpF32Le _ d a b => wordA 0x22#7 3#4 (0#4 ++ d) a b
  | .fcmpF32Gt _ d a b => wordA 0x22#7 4#4 (0#4 ++ d) a b
  | .fcmpF32Ge _ d a b => wordA 0x22#7 5#4 (0#4 ++ d) a b
  | .fcmpF32Unord _ d a b => wordA 0x22#7 6#4 (0#4 ++ d) a b
  | .fcmpF32Ord _ d a b => wordA 0x22#7 7#4 (0#4 ++ d) a b
  | .fcmpF16Eq _ d a b => wordA 0x22#7 8#4 (0#4 ++ d) a b
  | .fcmpF16Lt _ d a b => wordA 0x22#7 9#4 (0#4 ++ d) a b
  | .fcmpF16Le _ d a b => wordA 0x22#7 10#4 (0#4 ++ d) a b
  | .fcmpF16Unord _ d a b => wordA 0x22#7 11#4 (0#4 ++ d) a b
  | .fcmpBf16Eq _ d a b => wordA 0x22#7 12#4 (0#4 ++ d) a b
  | .fcmpBf16Lt _ d a b => wordA 0x22#7 13#4 (0#4 ++ d) a b
  | .fcmpBf16Le _ d a b => wordA 0x22#7 14#4 (0#4 ++ d) a b
  | .fcmpBf16Unord _ d a b => wordA 0x22#7 15#4 (0#4 ++ d) a b
  | .rcp _ l d a => wordA 0x23#7 l d a 0#7
  | .rsq _ l d a => wordA 0x23#7 l d a 1#7
  | .sqrt _ l d a => wordA 0x23#7 l d a 2#7
  | .exp2 _ l d a => wordA 0x23#7 l d a 3#7
  | .log2 _ l d a => wordA 0x23#7 l d a 4#7
  | .sinpi _ l d a => wordA 0x23#7 l d a 5#7
  | .cospi _ l d a => wordA 0x23#7 l d a 6#7
  | .tanh _ l d a => wordA 0x23#7 l d a 7#7
  | .fdiv _ l d a b => wordA 0x24#7 l d a b
  | .fcvt _ t d a s r => wordA 0x25#7 t d a (s ++ r)
  | .frnd _ r d a t => wordA 0x26#7 r d a t
  | .fclass _ d a t => wordA 0x27#7 0#4 d a t
  | .dot2F16 _ d a b => wordA 0x28#7 0#4 d a b
  | .dot2Bf16 _ d a b => wordA 0x28#7 1#4 d a b
  | .dot4E5m2 _ d a b => wordA 0x28#7 2#4 d a b
  | .dot4E4m3 _ d a b => wordA 0x28#7 3#4 d a b
  | .dot4I8 _ d a b => wordA 0x28#7 4#4 d a b
  | .dot8I4 _ d a b => wordA 0x28#7 5#4 d a b
  | .falu16Fadd _ t d a b => wordA 0x29#7 (t ++ 0#3) d a b
  | .falu16Fsub _ t d a b => wordA 0x29#7 (t ++ 1#3) d a b
  | .falu16Fmul _ t d a b => wordA 0x29#7 (t ++ 2#3) d a b
  | .falu16Fmin _ t d a b => wordA 0x29#7 (t ++ 3#3) d a b
  | .falu16Fmax _ t d a b => wordA 0x29#7 (t ++ 4#3) d a b
  | .falu16Fma _ t d a b => wordA 0x29#7 (t ++ 5#3) d a b
  | .falu16Fabs _ t d a => wordA 0x29#7 (t ++ 6#3) d a 0#7
  | .falu16Fneg _ t d a => wordA 0x29#7 (t ++ 7#3) d a 0#7
  | .br _ o => wordJ 0x30#7 0#4 o
  | .brp _ s p o => wordJ 0x31#7 (s ++ p) o
  | .call _ o => wordJ 0x32#7 0#4 o
  | .jr a => wordA 0x33#7 0#4 0#7 a 0#7
  | .jalr a => wordA 0x33#7 1#4 0#7 a 0#7
  | .ret => wordA 0x33#7 2#4 0#7 0#7 0#7
  | .retPair a => wordA 0x33#7 2#4 0#7 a 1#7
  | .rcv => wordA 0x34#7 0#4 0#7 0#7 0#7
  | .exit => wordA 0x35#7 0#4 0#7 0#7 0#7
  | .yield => wordA 0x35#7 1#4 0#7 0#7 0#7
  | .sleep a => wordA 0x35#7 2#4 0#7 a 0#7
  | .lds _ l d a s q c h => wordA 0x40#7 l d a (s ++ q ++ c ++ h)
  | .ldv _ _ l d a s q c h => wordA 0x41#7 l d a (s ++ q ++ c ++ h)
  | .ldg _ _ l d a b => wordA 0x42#7 l d a b
  | .sts _ d a s q c h => wordA 0x43#7 0#4 d a (s ++ q ++ c ++ h)
  | .stv _ _ d a s q c h => wordA 0x44#7 0#4 d a (s ++ q ++ c ++ h)
  | .stg _ _ d a b => wordA 0x45#7 0#4 d a b
  | .pref _ a h => wordA 0x46#7 0#4 0#7 a (0#5 ++ h)
  | .atomAdd _ l d a q c => wordA 0x47#7 l d a (0#4 ++ q ++ c)
  | .atomMin _ l d a q c => wordA 0x47#7 l d a (1#4 ++ q ++ c)
  | .atomMax _ l d a q c => wordA 0x47#7 l d a (2#4 ++ q ++ c)
  | .atomMinu _ l d a q c => wordA 0x47#7 l d a (3#4 ++ q ++ c)
  | .atomMaxu _ l d a q c => wordA 0x47#7 l d a (4#4 ++ q ++ c)
  | .atomAnd _ l d a q c => wordA 0x47#7 l d a (5#4 ++ q ++ c)
  | .atomOr _ l d a q c => wordA 0x47#7 l d a (6#4 ++ q ++ c)
  | .atomXor _ l d a q c => wordA 0x47#7 l d a (7#4 ++ q ++ c)
  | .atomXchg _ l d a q c => wordA 0x47#7 l d a (8#4 ++ q ++ c)
  | .atomCas _ l d a q c => wordA 0x47#7 l d a (9#4 ++ q ++ c)
  | .atomvAdd _ l d a q c => wordA 0x48#7 l d a (0#4 ++ q ++ c)
  | .atomvMin _ l d a q c => wordA 0x48#7 l d a (1#4 ++ q ++ c)
  | .atomvMax _ l d a q c => wordA 0x48#7 l d a (2#4 ++ q ++ c)
  | .atomvMinu _ l d a q c => wordA 0x48#7 l d a (3#4 ++ q ++ c)
  | .atomvMaxu _ l d a q c => wordA 0x48#7 l d a (4#4 ++ q ++ c)
  | .atomvAnd _ l d a q c => wordA 0x48#7 l d a (5#4 ++ q ++ c)
  | .atomvOr _ l d a q c => wordA 0x48#7 l d a (6#4 ++ q ++ c)
  | .atomvXor _ l d a q c => wordA 0x48#7 l d a (7#4 ++ q ++ c)
  | .atomvXchg _ l d a q c => wordA 0x48#7 l d a (8#4 ++ q ++ c)
  | .atomvCas _ l d a q c => wordA 0x48#7 l d a (9#4 ++ q ++ c)
  | .atomvXchgW128 _ l d a q c => wordA 0x48#7 l d a (10#4 ++ q ++ c)
  | .atomvCasW128 _ l d a q c => wordA 0x48#7 l d a (11#4 ++ q ++ c)
  | .mwatch _ a => wordA 0x49#7 0#4 0#7 a 0#7
  | .fenceAcq c => wordA 0x4A#7 (c ++ 0#2) 0#7 0#7 0#7
  | .fenceRel c => wordA 0x4A#7 (c ++ 1#2) 0#7 0#7 0#7
  | .fenceFull c => wordA 0x4A#7 (c ++ 2#2) 0#7 0#7 0#7
  | .mwait => wordA 0x4B#7 0#4 0#7 0#7 0#7
  | .bnew d a => wordA 0x50#7 0#4 d a 0#7
  | .bjoin d a => wordA 0x50#7 1#4 d a 0#7
  | .bleave => wordA 0x50#7 2#4 0#7 0#7 0#7
  | .binfo d k => wordA 0x50#7 3#4 d 0#7 k
  | .barInit a k => wordA 0x51#7 0#4 0#7 a (0#3 ++ k)
  | .barSync a c k => wordA 0x51#7 1#4 0#7 a (0#2 ++ c ++ k)
  | .barArrive a c k => wordA 0x51#7 2#4 0#7 a (0#2 ++ c ++ k)
  | .barExpect a k => wordA 0x51#7 3#4 0#7 a (0#3 ++ k)
  | .barQuery d c k => wordA 0x51#7 4#4 d 0#7 (0#2 ++ c ++ k)
  | .ballot d a w => wordA 0x52#7 0#4 d (0#4 ++ a) w
  | .any d a => wordA 0x52#7 1#4 (0#4 ++ d) (0#4 ++ a) 0#7
  | .all d a => wordA 0x52#7 2#4 (0#4 ++ d) (0#4 ++ a) 0#7
  | .bcast l d a => wordA 0x53#7 l d a 0#7
  | .radd l d a t => wordA 0x53#7 l d a (t ++ 1#3)
  | .rmin l d a t => wordA 0x53#7 l d a (t ++ 2#3)
  | .rmax l d a t => wordA 0x53#7 l d a (t ++ 3#3)
  | .scanadd l d a t => wordA 0x53#7 l d a (t ++ 4#3)
  | .rwrScalar d a b => wordA 0x54#7 0#4 d a b
  | .rwrVector d a b => wordA 0x54#7 1#4 d a b
  | .rwait a => wordA 0x55#7 0#4 0#7 a 0#7
  | .qsend k m a => wordA 0x56#7 (0#1 ++ k) m a 0#7
  | .qrecv k d => wordA 0x57#7 (0#1 ++ k) d 0#7 0#7
  | .flagSet k => wordA 0x58#7 0#4 0#7 0#7 (0#2 ++ k)
  | .flagClr k => wordA 0x58#7 1#4 0#7 0#7 (0#2 ++ k)
  | .flagWait k => wordA 0x58#7 2#4 0#7 0#7 (0#2 ++ k)
  | .flagTest d k => wordA 0x58#7 3#4 (0#4 ++ d) 0#7 (0#2 ++ k)
  | .wbases k => wordA 0x5A#7 0#4 0#7 0#7 k
  | .wbasev k => wordA 0x5A#7 1#4 0#7 0#7 k
  | .xacqs k => wordA 0x5A#7 2#4 0#7 0#7 k
  | .xacqv k => wordA 0x5A#7 3#4 0#7 0#7 k
  | .xrels k => wordA 0x5A#7 4#4 0#7 0#7 k
  | .xrelv k => wordA 0x5A#7 5#4 0#7 0#7 k
  | .tresv d a => wordA 0x60#7 0#4 d a 0#7
  | .trel a => wordA 0x60#7 1#4 0#7 a 0#7
  | .tstat d a => wordA 0x60#7 2#4 d a 0#7
  | .twait a k => wordA 0x60#7 3#4 0#7 a k
  | .engqMx a => wordA 0x61#7 0#4 0#7 a 0#7
  | .engqCe a => wordA 0x61#7 1#4 0#7 a 0#7
  | .engqSsb a => wordA 0x61#7 2#4 0#7 a 0#7
  | .engqQe a => wordA 0x61#7 3#4 0#7 a 0#7
  | .fork e a b => wordA 0x62#7 e 0#7 a b
  | .rdv d a => wordA 0x63#7 0#4 d a 0#7
  | .specEpoch d a => wordA 0x64#7 0#4 d a 0#7
  | .specCommit d a => wordA 0x64#7 1#4 d a 0#7
  | .specCancel d a => wordA 0x64#7 2#4 d a 0#7
  | .flcall t a r => wordA 0x65#7 (0#1 ++ t) 0#7 a (0#6 ++ r)
  | .flwait a => wordA 0x66#7 0#4 0#7 a 0#7
  | .take d a b => wordA 0x67#7 0#4 d a b
  | .skip a b => wordA 0x67#7 1#4 0#7 a b
  | .tspawn d a => wordA 0x68#7 0#4 d a 0#7
  | .tsignal a => wordA 0x68#7 1#4 0#7 a 0#7
  | .tqrd d a k => wordA 0x68#7 2#4 d a k
  | .csrr d c => wordC 0x70#7 0#4 d c
  | .csrw d c => wordC 0x70#7 1#4 d c
  | .trap i => wordC 0x71#7 0#4 0#7 i
  | .eret => wordA 0x72#7 0#4 0#7 0#7 0#7
  | .cclr a => wordA 0x72#7 1#4 0#7 a 0#7
  | .bkpt k => wordA 0x72#7 2#4 0#7 0#7 k
  | .tmark a k => wordA 0x72#7 3#4 0#7 a k
  | .isync => wordA 0x72#7 4#4 0#7 0#7 0#7
  | .l1inv a b => wordA 0x73#7 0#4 0#7 a b
  | .tlbinv d a b => wordA 0x73#7 1#4 d a b
  | .shoot d a b => wordA 0x73#7 2#4 d a b
  | .rdcinv a b => wordA 0x73#7 3#4 0#7 a b
  | .powerLoss => 0#32
  | .companionLinkUp => 0#32
  | .companionAtomicop _ _ _ _ _ => 0#32

/-- The words of an instruction: MSK, then IMM, then the instruction word (R164). -/
def encode (i : Instr) : List Word :=
  if i.encoded then
    (i.mskOf.map mskWord).toList ++ (i.immOf.map immWord).toList ++ [i.word]
  else []

/-- The number of words an instruction takes (R164). -/
def Instr.len (i : Instr) : Nat :=
  (if i.mskOf.isSome then 1 else 0) + (if i.immOf.isSome then 1 else 0) + 1

/-- The little-endian bytes of a number. -/
def natBytes : Nat → Nat → List Byte
  | 0, _ => []
  | n + 1, w => BitVec.ofNat 8 w :: natBytes n (w / 256)

/-- The instruction the decoder reads from `nbits` bits laid out as the hardware stores them, zeros above (at most the
three words of R164); an event row has no bits and decodes to nothing. -/
noncomputable def decodeTableWord (nbits w : Nat) : Option Instr :=
  if nbits = 0 then none
  else
    match decodeBytes (natBytes 12 (w % 2 ^ nbits)) with
    | .instr i => some i
    | _ => none

end Sys2Proof
end

