-- ==== Sys2Proof/Machine/Bits.lean ====
section
/-! DEFINITION. Bit fields, packed elements and integer arithmetic on them (00 R4, R10; 04 R68; 05 R101; 09 R174 to R192). -/
namespace Sys2Proof.Machine

/-- The value of a bit vector read as signed (sext of R174). -/
abbrev sext {w : Nat} (x : BitVec w) : Int := x.toInt

/-- trunc of R174: an integer reduced modulo 2^w. -/
abbrev trunc (w : Nat) (x : Int) : BitVec w := BitVec.ofInt w x

/-- Element j of width w of a vector: bits [w·j + w − 1 : w·j] (R68). -/
def elem (w : Nat) (v : Vec) (j : Nat) : BitVec w := v.extractLsb' (w * j) w

/-- Lane i of a vector (R68). -/
def lane (v : Vec) (i : Nat) : Word := elem 32 v i

/-- n elements of width w, element j at bit w·j. -/
def packNat (w : Nat) : Nat → (Nat → BitVec w) → Nat
  | 0, _ => 0
  | n + 1, f => (f 0).toNat + 2 ^ w * packNat w n fun j => f (j + 1)

/-- The vector whose first n elements of width w are given, zero above. -/
def ofElems (w n : Nat) (f : Nat → BitVec w) : Vec := BitVec.ofNat 256 (packNat w n f)

/-- The vector of eight lanes. -/
def ofLanes (f : Nat → Word) : Vec := ofElems 32 8 f

/-- Lane by lane. -/
def mapLanes (g : Word → Word) (a : Vec) : Vec := ofLanes fun i => g (lane a i)

/-- Lane by lane over two sources. -/
def zipLanes (g : Word → Word → Word) (a b : Vec) : Vec := ofLanes fun i => g (lane a i) (lane b i)

/-- Packed elements of width w over two sources. -/
def zipElems (w n : Nat) (g : BitVec w → BitVec w → BitVec w) (a b : Vec) : Vec :=
  ofElems w n fun j => g (elem w a j) (elem w b j)

/-- Every lane the same word. -/
def splat (x : Word) : Vec := ofLanes fun _ => x

/-- A predicate from one bit a lane (R75). -/
def predOf (f : Nat → Bool) : BitVec 8 := BitVec.ofNat 8 (packNat 1 8 fun i => if f i then 1#1 else 0#1)

/-- The lanes of `new` where the mask bit is 1, of `old` elsewhere (R163). -/
def mergeLanes (mask : BitVec 8) (old new : Vec) : Vec :=
  ofLanes fun i => if mask.getLsbD i then lane new i else lane old i

/-- The bits of `new` where the mask bit is 1, of `old` elsewhere (R163). -/
def mergePred (mask old new : BitVec 8) : BitVec 8 := (new &&& mask) ||| (old &&& ~~~mask)

/-- 2^n as an integer. -/
def pow2 (n : Nat) : Int := ((2 ^ n : Nat) : Int)

/-- sat of R101, signed w-bit. -/
def satS (w : Nat) (x : Int) : BitVec w :=
  if x < -pow2 (w - 1) then BitVec.ofInt w (-pow2 (w - 1))
  else if x > pow2 (w - 1) - 1 then BitVec.ofInt w (pow2 (w - 1) - 1)
  else BitVec.ofInt w x

/-- sat of R101, unsigned w-bit. -/
def satU (w : Nat) (x : Int) : BitVec w :=
  if x < 0 then 0 else if x > pow2 w - 1 then BitVec.ofInt w (pow2 w - 1) else BitVec.ofInt w x

/-- Number of 1 bits among the low n. -/
def popcNat {w : Nat} (x : BitVec w) : Nat → Nat
  | 0 => 0
  | n + 1 => (if x.getLsbD n then 1 else 0) + popcNat x n

/-- Zero bits from bit n − 1 down to the first 1. -/
def clzNat {w : Nat} (x : BitVec w) : Nat → Nat
  | 0 => 0
  | n + 1 => if x.getLsbD n then 0 else 1 + clzNat x n

/-- Zero bits from bit k up to the first 1, over n bits. -/
def ctzNat {w : Nat} (x : BitVec w) (k : Nat) : Nat → Nat
  | 0 => 0
  | n + 1 => if x.getLsbD k then 0 else 1 + ctzNat x (k + 1) n

/-- Bit k of the result is bit 31 − k of the source (R178). -/
def brev32 (x : Word) : Word := BitVec.ofNat 32 (packNat 1 32 fun k => if x.getLsbD (31 - k) then 1#1 else 0#1)

/-- Little-endian value of bytes (R4). -/
def bytesNat : List Byte → Nat
  | [] => 0
  | b :: bs => b.toNat + 256 * bytesNat bs

/-- The n low bytes of a number, least significant first (R4). -/
def natBytesLE : Nat → Nat → List Byte
  | 0, _ => []
  | n + 1, x => BitVec.ofNat 8 x :: natBytesLE n (x / 256)

/-- Bits [hi:lo] of a number. -/
def bitsNat (x hi lo : Nat) : Nat := x / 2 ^ lo % 2 ^ (hi + 1 - lo)

/-- Bits of a number read as signed. -/
def bitsInt (x hi lo : Nat) : Int := (BitVec.ofNat (hi + 1 - lo) (x / 2 ^ lo)).toInt

/-- Whether bit k of a number is 1. -/
def bitNat (x k : Nat) : Bool := x / 2 ^ k % 2 == 1

/-- A number with bits [hi:lo] replaced. -/
def setBits (x hi lo v : Nat) : Nat :=
  x - bitsNat x hi lo * 2 ^ lo + v % 2 ^ (hi + 1 - lo) * 2 ^ lo

/-- Positions of the 1 bits among the low n, rising. -/
def onesOf (x n : Nat) : List Nat := (List.range n).filter fun k => bitNat x k

end Sys2Proof.Machine
end

