-- ==== Sys2Proof/Machine/Memory.lean ====
section
/-! DEFINITION. Byte storage as a canonical list: addresses rising, no byte listed that an unlisted address reads as
(assumption 4: an unlisted byte reads 0). It serves device memory, scratchpad grants and the operand buffer. -/
namespace Sys2Proof.Machine

/-- What a byte that nothing has written reads as (assumption 4). -/
def blankByte : Byte := 0#8

/-- One byte. -/
def readByte : List Host.Cell → Nat → Byte
  | [], _ => blankByte
  | (b, x) :: r, a => if a = b then x else if a < b then blankByte else readByte r a

/-- One byte written; writing what an unlisted address reads as removes the entry. -/
def writeByte : List Host.Cell → Nat → Byte → List Host.Cell
  | [], a, v => if v = blankByte then [] else [(a, v)]
  | (b, x) :: r, a, v =>
    if a = b then (if v = blankByte then r else (a, v) :: r)
    else if a < b then (if v = blankByte then (b, x) :: r else (a, v) :: (b, x) :: r)
    else (b, x) :: writeByte r a v

/-- Every entry lies above `lo` and the entries rise; none is blank. -/
def cellsAbove : Option Nat → List Host.Cell → Bool
  | _, [] => true
  | lo, (b, x) :: r => (match lo with | none => true | some l => l < b) && x != blankByte && cellsAbove (some b) r

/-- The canonical form. -/
def Memory.wf (m : List Host.Cell) : Bool := cellsAbove none m

/-- n bytes from an address. -/
def readBytes (m : List Host.Cell) (a : Nat) : Nat → List Byte
  | 0 => []
  | n + 1 => readByte m a :: readBytes m (a + 1) n

/-- Bytes at an address. -/
def writeBytes (m : List Host.Cell) : Nat → List Byte → List Host.Cell
  | _, [] => m
  | a, b :: bs => writeBytes (writeByte m a b) (a + 1) bs

/-- mem(a, n) of R10: n bytes as a little-endian number. -/
def readNat (m : List Host.Cell) (a n : Nat) : Nat := bytesNat (readBytes m a n)

/-- The n low bytes of a number stored little-endian. -/
def writeNat (m : List Host.Cell) (a n x : Nat) : List Host.Cell := writeBytes m a (natBytesLE n x)

/-- A rising list of numbers with one added. -/
def insertNat (a : Nat) : List Nat → List Nat
  | [] => [a]
  | b :: r => if a = b then b :: r else if a < b then a :: b :: r else b :: insertNat a r

/-- The numbers of a list outside [lo, hi). -/
def dropRange (lo hi : Nat) (l : List Nat) : List Nat := l.filter fun a => a < lo || hi ≤ a

end Sys2Proof.Machine
end

