-- ==== Sys2Proof/Config.lean ====
section
/-! DEFINITION. What the spec leaves to the implementation (R12): free values, without a body, so that no proof can see one.
The counter they are applied to is the field `free` of the state (assumption 20). -/
namespace Sys2Proof.Config

/-- What a flume makes of a factor or a level that is NaN: a number that the spec does not state, the same for the same payload and the same
field of it (R262; assumption 20). -/
opaque nanInput : List Byte → Nat → Nat

/-- A free choice or number where the spec leaves one open (assumption 20). -/
opaque freeNat : Nat → Nat

/-- A free 64-bit value. -/
opaque freeWord64 : Nat → BitVec 64

/-- The slice hash h of R128, left to the implementation (R12). -/
opaque sliceHash : Nat → Nat

/-- The hash of a vector value that gives its home bucket (R80), and that of a key's parts that gives its set of the reuse table (R84):
both are the implementation's (R12). -/
opaque vecHash : BitVec 256 → Nat
opaque reuseHash : List Nat → Nat

/-- The result of an FTRANS function on an input where R206 and R207 fix no bit pattern: function code and input
(assumption 8). -/
opaque ftrans : Nat → Word → Word

/-- Identity of the device (R324): the digest the unclonable circuit gives. -/
opaque deviceId : BitVec 64

/-- Whether a display link of a rate carries a timing: LRATE, DH_HTIM, DH_VTIM, DH_PCLK, DH_FMT (R23 states no formula;
assumption 31). -/
opaque linkCarries : Nat → Nat → Nat → Nat → Nat → Bool

/-- What a configuration record gives (R324), whose layout the spec does not state (assumption 32): clock in MHz, stepping tag,
and disabled clusters as (die, cluster). -/
opaque cfgClock : List Byte → Nat
opaque cfgTag : List Byte → BitVec 16
opaque cfgDisabled : List Byte → List (Nat × Nat)

/-- Disabled GX units as (flume type, number), memory size in GiB, and security state. -/
opaque cfgGxOff : List Byte → List (Nat × Nat)
opaque cfgMemory : List Byte → Nat
opaque cfgSecurity : List Byte → BitVec 2

/-- What a transition record carries (R325, R394), in places the spec does not state (assumption 32): its sequence number, the target
state and the identity. -/
opaque blobSeq : List Byte → BitVec 32
opaque blobTarget : List Byte → BitVec 2
opaque blobId : List Byte → BitVec 64

/-- The physical address at which the device writes the capture area of an undocking (R311; assumption 33). -/
opaque undockArea : Nat

end Sys2Proof.Config
end

