-- ==== Sys2Proof/Machine/StrandState.lean ====
section
/-! DEFINITION. The state of strands, bundles and scratchpad storage (02 R26, R31; 04 R69; 08 R160; 11 R225). -/
namespace Sys2Proof.Machine

/-- A strand slot: die 1 or 2, core 0 to 95, slot 0 to 511 (R26, R27). -/
structure SRef where
  die : Nat
  core : Nat
  slot : Nat
  deriving DecidableEq, Repr

/-- One register write, at the allocation index its name resolved to (R70). -/
inductive RegWrite where
  | s (idx : Nat) (x : Word)
  | v (idx : Nat) (x : Vec)
  deriving DecidableEq, Repr

/-- A long-latency write whose lookahead window is open (R160, R89): its registers and values, the instructions left in
the window, and what its data bring (flags R200, data-phase causes R359). -/
structure Pend where
  writes : List RegWrite
  left : Nat
  arrived : Bool
  flags : BitVec 5
  causes : BitVec 64
  tval : BitVec 64
  deriving DecidableEq, Repr

/-- Where a checked access goes (R113, R115, R132). -/
inductive Target where
  /-- Physical memory (device memory, host memory or the register range), with the slice group, first slice and PARTID of
  its page (R128, R129). -/
  | phys (pa group base partid : Nat)
  /-- A part that is remote without DRA, or moving (R135): its physical address here, and its domain and virtual address. -/
  | remote (pa group base partid pdom va : Nat)
  /-- The grant of a bundle, by handle. -/
  | grant (h off : Nat)
  /-- The grant of a bundle that does not stand in the loader's cluster: the Headgate forwards the load, or serves it from the
  backwater copy (R114). -/
  | forward (h off : Nat)
  /-- The core's operand buffer. -/
  | opbuf (off : Nat)
  deriving DecidableEq, Repr

/-- One lane or element of an access. `mark` is 0 for good data; bit 0 is poison, bit 1 LOST (R359). -/
structure Lane where
  n : Nat
  va : Nat
  size : Nat
  tgt : Target
  wdata : Nat
  done : Bool
  rdata : Nat
  mark : Nat
  deriving DecidableEq, Repr

/-- What a memory access does. -/
inductive AccKind where
  | load
  | store
  /-- An atomic: operation code of R220, and for CAS the new value. -/
  | atomic (op : Nat) (new : Nat)
  deriving DecidableEq, Repr

/-- The registers a memory access writes, resolved at issue (R70); `none` is a name beyond the allocation. -/
inductive MemDest where
  | none
  | scalar (i : Option Nat)
  | pair (lo hi : Option Nat)
  /-- The prior contents `base` with each active lane replaced. -/
  | lanes (i : Option Nat) (base : Vec)
  /-- The old value of a vector atomic, zero above. -/
  | low (i : Option Nat)
  deriving DecidableEq, Repr

/-- The key of a reuse-table entry (R84). `word` is the instruction word with its register, predicate and lookahead fields
zero, so that it holds the major, fn and every modifier; `imm` its IMM prefix; `rm` the effective rounding mode; `addr` the
effective address of a load; `vsrc` the physical names of the vector sources, none for a name beyond the allocation; `psrc`
the values of the predicate sources (no eligible instruction has a scalar source but its immediate and a load's address); `mask`
under an MSK prefix the mask and the physical name of the destination's prior contents. -/
structure ReuseKey where
  word : Word
  imm : Option (BitVec 25)
  rm : BitVec 2
  addr : Nat
  vsrc : List (Option Nat)
  psrc : List (BitVec 8)
  mask : Option (BitVec 8 × Option Nat)
  pdom : Nat
  deriving DecidableEq, Repr

/-- A memory access of a strand after its address phase (R358): what is left of it once it is issued. -/
structure MemOp where
  kind : AccKind
  lanes : List Lane
  strong : Bool
  scope : Nat
  hint : Nat
  la : Nat
  dest : MemDest
  /-- The key under which a weak LDV enters the reuse table when it has its data (R84); none once an invalidation has met a fill of it. -/
  key : Option ReuseKey
  deriving DecidableEq, Repr

/-- Why a strand is not ready. -/
inductive Wait where
  /-- BAR SYNC: the barrier and the phase recorded (R226). -/
  | barSync (k phase : Nat)
  | rcv
  | qrecv (k : Nat) (dst : Option Nat)
  /-- QSEND: the standing offer of the core (R119). -/
  | qsend (offer : Nat)
  /-- FLCALL: the call presented at its weir (R258). -/
  | flcall (call : Nat)
  | flwait (off : Nat)
  /-- An access waiting for another die or for a part move (R40). -/
  | access (op : MemOp)
  | mwait
  /-- RDV: the physical address of the object, and the destination (R281). -/
  | rdv (pa va : Nat) (dst : Option Nat)
  /-- RDV once a read at its home has returned PEND 0 or a marked atom (R281, R41): mark, EXC, and the record that the object is marked
  with. -/
  | rdvMet (pa va : Nat) (dst : Option Nat) (mark exc : Nat) (record : Option Nat)
  | rwait (target : Word)
  /-- FLAG WAIT: the core on which it issued, and the flag (R232). -/
  | flagWait (die core k : Nat)
  | twait (h k : Nat)
  /-- TWAIT once the tile has been in its state, or freed, at the end of a cycle, and whether it acquires (R278). -/
  | twaitMet (h k : Nat) (acq : Bool)
  /-- XACQS or XACQV: whether vector, and the block count (R72). -/
  | xacq (vec : Bool) (k : Nat)
  /-- YIELD and SLEEP: whether it is a YIELD, and the cycle at which the count ends (R197). -/
  | sleep (yield : Bool) (limit : Nat)
  /-- A walk of the merge table is in progress for the page (R133). -/
  | walk (die pdom page : Nat)
  /-- Parked after a translation fault at a virtual address (R347). -/
  | parked (die pdom va : Nat)
  /-- A fetch waiting for a part move (R405). -/
  | fetchMove (pdom page part : Nat)
  /-- A collective (R227): major, fn or select, and what the member gave. -/
  | collective (major sel : Nat) (dst : Option Nat) (dst2 : Option Nat) (win : Nat) (vote : Bool) (val : Vec) (la : Nat) (word : Word)
  /-- COMMIT or CANCEL until its slot copies are complete (R283): the epoch and the destination. -/
  | spec (e : Nat) (dst : Option Nat)
  /-- SHOOT until the accesses issued before it are performed (R300): writes numbered below `id`, accesses begun by `since`. -/
  | shoot (id since : Nat)
  /-- An instruction that issues again once it can go on (full engine queue, tile not ready, epoch in progress);
  it is not a blocking point. -/
  | retry
  deriving DecidableEq, Repr

/-- A strand that is not ready: the wait, the words of its instruction, whether the wake condition has held, and the cycle
the wait began. -/
structure Blocked where
  wait : Wait
  len : Nat
  woken : Bool
  since : Nat
  deriving DecidableEq, Repr

/-- The region an MWATCH covers (R223). -/
inductive WatchRegion where
  | line (pa pdom page : Nat)
  | grant (h off : Nat)
  | opbuf (off tile : Nat)
  deriving DecidableEq, Repr

/-- The armed watch of a strand (R223): its region, whether it has fired, and the cycle at which it fires by time. -/
structure Watch where
  region : WatchRegion
  fired : Bool
  limit : Nat
  deriving DecidableEq, Repr

/-- A strand (R26). -/
structure Strand where
  /-- Its slot. -/
  at_ : SRef
  pc : Addr
  /-- Native mode (R161); otherwise interlocked. -/
  native : Bool
  /-- The stepping tag of its kernel (R161, R309). -/
  step : BitVec 16
  /-- The kernel header's address: strands of one kernel share it (R29). -/
  kernel : Addr
  wbs : BitVec 3
  wbv : BitVec 4
  /-- Scalar and vector blocks held (R69). -/
  nsb : Nat
  nvb : Nat
  /-- The allocation registers, by allocation index (R69). -/
  sregs : List Word
  vregs : List Vec
  preds : Vector (BitVec 8) 8
  link : Addr
  /-- FPMODE.RM and FPFLAGS (R94). -/
  rm : BitVec 2
  fpflags : BitVec 5
  cause : BitVec 64
  /-- STATUS.LEVEL and STATUS.PLEV (R293): true is handler level. -/
  level : Bool
  plev : Bool
  epc : Addr
  tval : BitVec 64
  /-- Bundle handle and member index (R31). -/
  bundle : Option (Nat × Nat)
  /-- The task the strand belongs to (model key), and the identity registers of R75. -/
  task : Nat
  taskId : Word
  sid : Word
  pdom : BitVec 8
  prio : BitVec 7
  partid : BitVec 4
  epoch : BitVec 8
  args : Addr
  /-- Open lookahead windows, oldest first, and the instructions left in the open period (R160). -/
  pend : List Pend
  period : Nat
  /-- Data-phase causes that have arrived and are not yet delivered, with their address (R359). -/
  due : BitVec 64
  dueTval : BitVec 64
  /-- Causes already set in CAUSE at a blocking instruction, to be delivered when it retires (R359), or a re-entry of
  R344: 0 none, 1 re-entry after ERET, 2 entry that takes EPC at the boundary. -/
  reenter : Nat
  blocked : Option Blocked
  watch : Option Watch
  /-- The 32-byte atom of instruction words last fetched and not discarded (R298). -/
  fbuf : Option (Nat × Vec)
  /-- The cycle at which the strand last became ready (R29). -/
  readyAt : Nat
  /-- Resumed from a halt, its next instruction matches no comparator (R319). -/
  resumed : Bool
  /-- Its next instruction has issued before and issues again, after a wait that is no blocking point (R133, R347, R405). -/
  again : Bool
  /-- Stopped by a context capture, a halt or the end of its task: it issues nothing and leaves no wait (R47, R345). -/
  stopped : Bool
  deriving DecidableEq, Repr

/-- A named barrier (R225). -/
structure Bar where
  exp : Nat
  arr : Nat
  pend : BitVec 56
  phase : Nat
  deriving DecidableEq, Repr

/-- A bundle (R31). While it is evicted (R43) `saved` holds its members' records. -/
structure Bundle where
  handle : Nat
  die : Nat
  core : Nat
  pdom : BitVec 8
  /-- The task that created it (R34, BNEW). -/
  task : Nat
  /-- Scratchpad grant in KiB, its bytes by offset, and its poisoned 8-byte words (R373). -/
  grant : Nat
  scratch : List Host.Cell
  poison : List Nat
  bars : List Bar
  commons : List Word
  arrive : Word
  evicted : Bool
  /-- Chosen for eviction: its members issue nothing while accesses of theirs are still to be performed (R43). -/
  evicting : Bool
  saved : List Strand
  /-- The backwater area the eviction wrote, as physical address and bytes (R43). -/
  bw : Nat × Nat
  deriving DecidableEq, Repr

end Sys2Proof.Machine
end

