-- ==== Sys2Proof/Machine/UnitState.lean ====
section
/-! DEFINITION. The state of cores, engines and compute dies (06 R117 to R133; 07 R148, R149; 12 R234 to R254; 14 R293;
16 R322; 22 R380). -/
namespace Sys2Proof.Machine

/-- A 32-byte sector held by an L1 or an RDC (R124): the atom's physical address divided by 32, its bytes with the lowest
address least significant, the mark it was filled with (bit 0 poison, bit 1 LOST), the cycle of its fill, the expiry of its
128-byte line, and how many writes of the holder the home has not yet acknowledged (R153). The sectors of a line have one
expiry, and a cache lists the sectors of a line together, the line most recently used first (R126). -/
structure Sector where
  atom : Nat
  data : Vec
  mark : Nat
  filled : Nat
  expiry : Nat
  unacked : Nat
  deriving DecidableEq, Repr

/-- A TLB entry: a whole leaf (R133). -/
structure TlbEntry where
  pdom : Nat
  page : Nat
  leaf : BitVec 128
  deriving DecidableEq, Repr

/-- An access of a unit that is not a strand, as HG_FKILL meets it (R351): its die, its core if it has one, domain, task and
virtual address. -/
structure UnitWait where
  die : Nat
  core : Option Nat
  pdom : Nat
  task : Nat
  va : Nat
  deriving DecidableEq, Repr

/-- A merge-table entry (R133, R369): the page, the table root as the walk found it (R304), the strands listed, whether its walk is still running, whether its
kind-16 record has been written, and the accesses of units that wait on it. -/
structure MergeEntry where
  pdom : Nat
  page : Nat
  root : BitVec 64
  strands : List SRef
  acc : Nat
  va : Nat
  task : Nat
  core : Nat
  walking : Bool
  faulted : Bool
  units : List UnitWait
  deriving DecidableEq, Repr

/-- Where a load entry's data lie and who made it (R84, R86): the atoms read, the virtual pages, the cycle in which the lease
of the first of their lines ends (R144), the bundle of its maker, and the maker. -/
structure ReuseLoad where
  atoms : List Nat
  pages : List Nat
  expiry : Nat
  bundle : Option Nat
  maker : SRef
  deriving DecidableEq, Repr

/-- An entry of the reuse table (R84): its set, its key, its result's value and physical name, the FPFLAGS bits the
instruction raised, and for a load entry where its data lie. -/
structure ReuseEntry where
  set : Nat
  key : ReuseKey
  result : Vec
  name : Option Nat
  flags : BitVec 5
  load : Option ReuseLoad
  deriving DecidableEq, Repr

/-- A live entry of a core's physical vector file (R80): its 14-bit name, bucket in [13:3] and way in [2:0], and its value. Its
reference count is `Core.refs`. -/
structure VEntry where
  name : Nat
  val : Vec
  deriving DecidableEq, Repr

/-- An allocated vector register and the entry that it maps to (R80, R81): slot and allocation index. `late` marks the result of
a long-latency write whose window is open: it has its entry, and its register maps to it when the window ends. -/
structure VHold where
  slot : Nat
  reg : Nat
  late : Bool
  name : Option Nat
  deriving DecidableEq, Repr

/-- How an access is placed in the L2 of its home: the slice group and first slice of its page, its PARTID, and its hint
(R126, R128, R129). -/
structure L2Place where
  group : Nat
  base : Nat
  partid : Nat
  hint : Nat
  deriving DecidableEq, Repr

/-- A line valid in an L2 slice (R124, R128 to R130): its line address, set and way, the PARTID that filled it, and whether it
has been written since its fill. Its bytes are those at the home. -/
structure L2Line where
  line : Nat
  group : Nat
  base : Nat
  way : Nat
  partid : Nat
  dirty : Bool
  deriving DecidableEq, Repr

/-- A mailbox (R117). -/
structure Mailbox where
  head : Nat
  items : List Vec
  claim : Nat
  deriving DecidableEq, Repr

/-- A standing QSEND offer (R119), held by the sender's core. -/
structure Offer where
  id : Nat
  die : Nat
  core : Nat
  slot : Nat
  task : Nat
  sid : Word
  mbox : Nat
  pending : BitVec 7
  entry : Vec
  pdom : Nat
  bundle : Option Nat
  level : Bool
  deriving DecidableEq, Repr

/-- A tile-table entry (R121, R122). State 0 empty, 1 filling, 2 ready, 3 draining. -/
structure Tile where
  idx : Nat
  record : BitVec 128
  state : Nat
  seq : Nat
  pdom : Nat
  holder : Option Nat
  marked : Bool
  deriving DecidableEq, Repr

/-- An entry of an engine queue (R234, R235): the record address, the task that owns it, the domain and partition it runs
under, the enqueuing strand's bundle, and for a forked command its group and the rendezvous location (R236). -/
structure EngEntry where
  record : Nat
  task : Nat
  pdom : Nat
  partid : Nat
  bundle : Option Nat
  group : Nat
  engines : BitVec 4
  rdv : Option (Nat × Nat)
  engTask : Bool
  /-- A command of the tile-task ring, with the record as it was taken (R243). -/
  ring : Option (BitVec 512)
  deriving DecidableEq, Repr

/-- A running or held command (R238, R239, R381). `stage`: 0 its record is still to be read, 1 its start, 2 steps 1 and 2 of
R239, 3 iterating, 4 steps 4 to 6, 5 its event flag has been set. `vec` is i0 to i4, `sub` the SSB sub-iteration's first step,
`rng` the QE generator, `zeroed` the C blocks an overwrite command has cleared, `held` the code and address of a held fault. -/
structure EngRun where
  entry : EngEntry
  words : BitVec 512
  epoch : Nat
  stage : Nat
  vec : List Nat
  sub : Nat
  flags : BitVec 5
  rng : Word
  zeroed : List (Nat × Nat)
  held : Option (Nat × Nat)
  /-- The bundle whose barrier is used (R237). -/
  bhnd : Option Nat
  /-- SSB: the form chosen for the SSCB in progress (R246), and whether that SSCB has been entered in the list (R250). -/
  form : Bool
  entered : Bool
  /-- The command has been abandoned (R381). -/
  abandoned : Bool
  /-- The destination tile is filling under this command (R122), or the cycle since which it waits for the tile. -/
  filling : Bool
  waiting : Option Nat
  /-- Tiles whose bytes the command has read or written through the aperture (R122). -/
  tiles : List Nat
  /-- CE: the last run's writes, from and below which number, while its bytes are still to be counted (R252). -/
  count : Option (Nat × Nat)
  /-- SSB: the running state of the SSCB in progress, in the order of its slots (R246). -/
  state : List Nat
  deriving DecidableEq, Repr

/-- An engine's queue and sequencer. -/
structure Engine where
  queue : List EngEntry
  run : Option EngRun
  deriving DecidableEq, Repr

/-- An entry of the SSB's list of descriptors written under open epochs (R250). -/
structure SsbEntry where
  sscb : Nat
  epoch : Nat
  pdom : Nat
  partid : Nat
  bundle : Option Nat
  /-- Elements of the slot copy made so far; and once the copy is made, the number below which its writes lie (R250). -/
  pos : Nat
  done : Option Nat
  deriving DecidableEq, Repr

/-- A released block or unit and what its last holder left in it (R73, R74). -/
structure Left (α : Type) where
  pdom : Nat
  data : List α
  deriving DecidableEq, Repr

/-- A core. -/
structure Core where
  flags : BitVec 32
  mboxes : List Mailbox
  /-- Operand-buffer bytes by offset, and poisoned 8-byte words (R121, R373). -/
  opbuf : List Host.Cell
  opPoison : List Nat
  /-- Granules: the domain of the last holder, by granule number (R74). -/
  granule : List (Nat × Nat)
  tiles : List Tile
  tileSeq : Nat
  mx : Engine
  ce : Engine
  ssb : Engine
  ssbList : List SsbEntry
  tvec : Addr
  srseed : Word
  leaseL1 : BitVec 24
  ssbThresh : BitVec 16
  mxring : Addr
  /-- Tail observed in the tile-task ring (R243), and whether a failed read has stopped it (R404). -/
  ringTail : Nat
  ringStopped : Bool
  engfa : BitVec 64
  /-- ENGCTL.ENG and ENGCTL.HOLD (R380). -/
  engSel : BitVec 2
  engHold : Bool
  evsel : List Word
  evcnt : List (BitVec 64)
  l1 : List Sector
  tlb : List TlbEntry
  /-- The reuse table, most recently used first (R84). -/
  reuse : List ReuseEntry
  /-- The physical vector file, and the entries that vector registers map to (R80, R81). -/
  vfile : List VEntry
  vmap : List VHold
  /-- The free-entry count last returned by each mailbox of each sibling core (R118). -/
  mboxFree : List (List Nat)
  /-- Strands waiting for scalar and for vector blocks, in issue order (R72). -/
  waitS : List SRef
  waitV : List SRef
  leftS : List (Left Word)
  leftV : List (Left Vec)
  leftScr : List (Left Host.Cell)
  /-- Cross-die writes of the core not yet acknowledged (R148). -/
  outstanding : Nat
  /-- Memory weaves counted since the capture window opened (R321). -/
  sampleCount : Nat
  deriving DecidableEq, Repr

/-- A compute die (1, 2), or GX (0) for its RDC, TLBs and clock rows. -/
structure Die where
  leaseRdc : BitVec 32
  occsel : BitVec 9
  waymask : List (BitVec 16)
  memerrPar : BitVec 64
  memerrCor : BitVec 64
  devsel : List Word
  devcnt : List (BitVec 64)
  rdc : List Sector
  tlb : List TlbEntry
  merge : List MergeEntry
  l2 : List L2Line
  /-- Clock row for each home die k, four slots each (R149). -/
  rows : List (List Nat)
  /-- APPLIED[j] of this die as a home (R149). -/
  applied : List Nat
  deriving DecidableEq, Repr

/-- A cross-die write in flight (R148, R149); `applied` once its home has applied it and its acknowledgement is on the
way. `core` is the core whose counter it stands in (none for GX and the Headgate); `whole` marks a strong store that covers
the whole atom (R375). -/
structure XWrite where
  id : Nat
  src : Nat
  dst : Nat
  core : Option Nat
  pa : Nat
  bytes : List Byte
  whole : Bool
  row : List Nat
  since : Nat
  overdue : Nat
  applied : Bool
  /-- The bytes come from a marked atom, so that the atom written is marked poisoned (R372). -/
  poison : Bool
  /-- The identifier of the writing task, and its domain (R368). -/
  task : Nat
  pdom : Nat
  /-- How the write is placed in the L2 of its home (R126, R129). -/
  place : Option L2Place
  deriving DecidableEq, Repr

/-- A cross-die read request in flight (R149). -/
structure XRead where
  id : Nat
  src : Nat
  dst : Nat
  pa : Nat
  row : List Nat
  strand : SRef
  lane : Nat
  /-- The request is an atomic's operation packet (R146), which stands in the counter of its core: the operation, and its
  width and operand. -/
  atomic : Bool
  kind : AccKind
  size : Nat
  wdata : Nat
  /-- An invalidation has met the fill in the L1, in the RDC: it is not installed there (R154). -/
  noL1 : Bool
  noRdc : Bool
  deriving DecidableEq, Repr

/-- A remote register write in flight (R77): the bundle it belongs to and the deposit. -/
structure Deposit where
  id : Nat
  bundle : Nat
  mid : Nat
  vec : Bool
  name : Nat
  sval : Word
  vval : Vec
  /-- The sender: its task and its strand identifier, which it keeps wherever it is restored (R78). -/
  src : Nat × Word
  deriving DecidableEq, Repr

/-- A part move in progress (R135). `out` true while this side gives the part up. -/
structure PartMove where
  pdom : Nat
  page : Nat
  part : Nat
  out : Bool
  requested : Bool
  waiters : List SRef
  /-- Strands that will issue again once the part is here, and accesses of units: each is performed before the part moves
  back (R135). -/
  claims : List SRef
  units : List UnitWait
  since : Nat
  written : Bool
  deriving DecidableEq, Repr

end Sys2Proof.Machine
end

