-- ==== Sys2Proof/Machine/GxState.lean ====
section
/-! DEFINITION. The state of the Headgate, the coprocessors, the ports and the management file (03 R50 to R67; 13 R255 to
R272; 15 R303 to R312; 16 R315 to R326; 19 R351; 21 R373, R375; 22 R383; 23; 24 R396). -/
namespace Sys2Proof.Machine

/-- Where a task stands. -/
inductive TaskState where
  /-- Accepted, its tile handles still to be read (R352). -/
  | accepted
  /-- A graph node waiting for its predecessors (R53), with its counter. -/
  | node (count : Nat)
  /-- In the ready pool or the spill ring (R50, R54). -/
  | ready
  /-- Dispatched: bundles still to place, on die 1 and on die 2, by number (R56). -/
  | dispatched (left1 left2 : List Nat)
  /-- Being ended under R345, R349 or R373. -/
  | ending
  /-- All that is left is its completion (R64). -/
  | finishing
  deriving DecidableEq, Repr

/-- How a task is being ended (R397, R400): its first fault, and the nested faults met before the dump is valid. -/
structure EndRec where
  fcause : BitVec 64
  ftval : BitVec 64
  fpc : Addr
  fsid : Word
  fbhnd : Nat
  time : Nat
  ncount : Nat
  ncause : BitVec 64
  ntval : BitVec 64
  npc : Addr
  nsid : Word
  deriving DecidableEq, Repr

/-- A task (R34, R51, R52). `key` is unique in a run; `id` is the identifier of R52, which wraps. -/
structure Task where
  key : Nat
  id : Word
  record : BitVec 512
  state : TaskState
  epoch : Nat
  pdom : Nat
  partid : Nat
  prio : Nat
  credit : Nat
  creditAt : Nat
  poolSeq : Nat
  firstAt : Nat
  accepted : Nat
  frame : Nat
  tstart : Nat
  started : Bool
  strandsLeft : Nat
  engLeft : Nat
  callsLeft : Nat
  exc : BitVec 5
  status : Nat
  traced : Bool
  relaunches : Nat
  migrated : Bool
  fast : Bool
  /-- Kernel header read at the first placement: stepping tag and entry word offset (R161). -/
  header : Option (BitVec 16 × Nat)
  /-- Index of the next ray of a traversal task (R267). -/
  ray : Nat
  /-- The delivery that ended the task (R397). -/
  endRec : Option EndRec
  dumped : Bool
  /-- Ended without a dump (R373, R395); halted by the debug logic (R323). -/
  noDump : Bool
  halted : Bool
  /-- The bytes that its halt wrote to the halt area, against which a resume tells what a debugger has changed (R48, R323). -/
  haltArea : List Byte
  /-- The record's address, for the kind-1 records of R351, and the REASON of R352. -/
  addr : Nat
  reason : Nat
  /-- Nodes that the cancel of the task's epoch removed (R66). -/
  gone : List Nat
  /-- The declared tile handles (R51). -/
  tiles : List Nat
  /-- Submitted by a strand (TSPAWN); in the spill ring (R50). -/
  spawned : Bool
  spilled : Bool
  /-- The writes its completion waits for are those numbered below this (R38); its completion record has been dealt with, and its
  successors' counters have fallen (R66). -/
  relId : Nat
  recDone : Bool
  succDone : Bool
  deriving DecidableEq, Repr

/-- A registered work queue (R62, R308). -/
structure WorkQueue where
  n : Nat
  header : Nat
  /-- The template's address and its copy, as read at registration (R62, R308). -/
  tmplAt : Nat
  tmpl : BitVec 512
  base : Nat
  size : Nat
  esize : Nat
  b : Nat
  prio : Nat
  fof : Bool
  head : Nat
  tail : Nat
  oldestAt : Nat
  flush : Nat
  disabled : Bool
  deriving DecidableEq, Repr

/-- The Headgate (R50, R60, R351, R373, R396). -/
structure Headgate where
  hqbase : BitVec 64
  hqsize : BitVec 64
  htail : BitVec 64
  hhead : BitVec 64
  policy : BitVec 64
  frame : BitVec 64
  bwbase : BitVec 64
  bwsize : BitVec 64
  qtbase : BitVec 64
  qtcount : BitVec 64
  pquota : List (BitVec 64)
  fqbase : BitVec 64
  fqsize : BitVec 64
  fqhead : BitVec 64
  fqtail : BitVec 64
  /-- Records made and not yet written to the ring, oldest first (R61, R351). -/
  fqPend : List Nat
  serr : BitVec 64
  dmpbase : BitVec 64
  dmpsize : BitVec 64
  dmpnext : BitVec 64
  tasks : List Task
  nextKey : Nat
  nextId : Word
  nextHandle : Nat
  poolSeq : Nat
  queues : List WorkQueue
  /-- Epoch e: 0 free, 1 open, 2 cancelled, and the domain that opened it (R50, R282), by entry (e, state, domain). -/
  epochs : List (Nat × Nat × Nat)
  /-- Backwater bytes in use by evicted bundles, as (offset, length) (R43). -/
  bwUsed : List (Nat × Nat)
  bwFull : Bool
  bwReportAt : Nat
  reserved : Option Nat
  /-- Queues that a write of HG_QTCOUNT has still to register (R308). -/
  qtPend : List Nat
  /-- Accesses of units whose wait HG_FKILL has ended, until the unit has seen it (R61, R404). -/
  refused : List UnitWait
  deriving DecidableEq, Repr

/-- A flume call (R256 to R260). `stage`: 0 waiting at its weir, 1 in the weir, 2 in reorder storage, 3 started. `port` marks a
call made through the cluster flume port. -/
structure Call where
  id : Nat
  typ : Nat
  die : Nat
  core : Nat
  slot : Nat
  bundle : Nat
  task : Nat
  pdom : Nat
  partid : Nat
  header : BitVec 128
  payload : List Byte
  stage : Nat
  port : Option Nat
  /-- Progress of a unit that waits for room in a queue (R271): records appended so far, and what is left. -/
  pos : Nat
  count : Nat
  /-- The domain has been written since the call started: it advances nothing (R385). -/
  detached : Bool
  /-- Records found so far for work queues, and the return payload the call will have (R270, R271). -/
  recs : List (Nat × List Byte)
  ret : List Byte
  /-- The FLCALL was made with .rel: the start of the call is an acquire on the GX (R125). -/
  rel : Bool
  deriving DecidableEq, Repr

/-- An order domain that has been used (R259). -/
structure Domain where
  n : Nat
  next : Nat
  apply : Nat
  marks : List Nat
  deriving DecidableEq, Repr

/-- A sieve bucket (R268, R269): its key, its 64-byte records, and the cycle its oldest record came. -/
structure Bucket where
  n : Nat
  mkey : Word
  recs : List (BitVec 512)
  oldest : Nat
  waiting : Bool
  /-- It is being flushed to be freed for a key that no bucket is bound to. -/
  forced : Bool
  deriving DecidableEq, Repr

/-- A hit record of a traversal task that has arrived at the sieve and is still to be taken (R267, R269): its place in the order of
arrival, its task, and the record. -/
structure SieveHit where
  id : Nat
  task : Nat
  record : BitVec 512
  deriving DecidableEq, Repr

/-- Records a GX unit still has to append to a queue that has no room (R271): the queue, the entries, and the call or the
bucket they belong to. -/
structure AppendWait where
  id : Nat
  queue : Nat
  recs : List (List Byte)
  call : Option Nat
  bucket : Nat
  deriving DecidableEq, Repr

/-- A display head (R23): its registers, what it has latched of them, the rate at which it trains and that of its trained link, the next row of the frame under
way, and the colours of the row it sent last. -/
structure Head where
  regs : List (BitVec 64)
  latched : List (BitVec 64)
  scanning : Bool
  training : Bool
  want : Nat
  rate : Nat
  row : Nat
  sent : List (Nat × Nat × Nat)
  deriving DecidableEq, Repr

/-- The GX coprocessors and display heads (R272, R383, R125, R23). -/
structure Gx where
  rptol : BitVec 64
  svage : BitVec 64
  drop : BitVec 64
  pdrop : BitVec 64
  leaseRdc : BitVec 64
  calls : List Call
  domains : List Domain
  buckets : List Bucket
  hits : List SieveHit
  appends : List AppendWait
  heads : List Head
  /-- Cross-die writes of GX units and the Headgate not yet acknowledged (R148). -/
  outstanding : Nat
  deriving DecidableEq, Repr

/-- An Azair message sent on the companion port (R306): code, sequence number, 16-byte payload. -/
structure Msg where
  code : Nat
  seq : Nat
  payload : BitVec 128
  /-- The 64 KiB of a MOVE_DATA, with the atoms of it that are marked (R372). -/
  data : List Byte
  marks : List Nat
  deriving DecidableEq, Repr

/-- A read request of the companion that its home has still to serve (R149, R301). -/
structure CompanionRead where
  id : Nat
  dst : Nat
  pa : Nat
  n : Nat
  row : List Nat
  deriving DecidableEq, Repr

/-- The companion link (R303, R306, R310 to R312, R375, R386 to R390). -/
structure Link where
  /-- AZ_STAT: PAIRED, MIGRATED and the last event. -/
  paired : Bool
  migrated : Bool
  event : Nat
  partid : BitVec 64
  back : BitVec 64
  backn : BitVec 64
  cisBase : BitVec 64
  cisSlot : BitVec 64
  cisPeriod : BitVec 64
  clrpart : BitVec 64
  /-- AZ_RETRAIN.TRAINING, and whether R386 has stopped the training of the port. -/
  training : Bool
  stopped : Bool
  /-- CIS_STAT: SEQ, SKIP, REASON and SLOT; INSTEP is `inStep`. -/
  ackSeq : Nat
  skip : Nat
  reason : Nat
  ackSlot : Nat
  inStep : Bool
  /-- Sequence number of the next message of this side, and the messages sent. -/
  seq : Nat
  sent : List Msg
  moves : List PartMove
  /-- The companion's memory as this side has written it through the link (R136, R312). -/
  kmem : List Host.Cell
  /-- Pages of the backing pool handed out (R310, R311). -/
  poolNext : Nat
  /-- A docking whose bundles are still to be restored, by their handles (R311); an undocking whose MIGRATE has been sent. -/
  docking : Option (List Nat)
  undocking : Bool
  /-- The tasks whose strands stand in the capture area of an undocking (R311). -/
  away : List Nat
  /-- The last cistern step: its sequence and slot, whether its STEP_ACK is still to come and since when, and when it fell due. -/
  stepSeq : Nat
  stepSlot : Nat
  stepPending : Bool
  stepSince : Nat
  stepAt : Nat
  /-- 64 KiB physical blocks of companion-homed parts written by this side since the last committed step (R312), and those
  of the step in progress. -/
  dirty : List Nat
  /-- The companion's stepping tag and memory size (R306). -/
  tagSeen : Nat
  memGiB : Nat
  /-- The completion of the companion's last AtomicOp or read (R301), and the reads that are still to be served. -/
  reply : List Byte × Bool
  reads : List CompanionRead
  deriving DecidableEq, Repr

/-- The host port, the masters and the table roots (R303 to R305). -/
structure Port where
  own : Nat
  hand : Nat
  /-- MSI-X vectors raised and not yet served (R303). -/
  msix : List Nat
  /-- In-band interrupts of the management port (R315). -/
  ibi : Nat
  ptroot : List (Nat × BitVec 64)
  /-- The completion of the last host read or AtomicOp (R302): the bytes, and whether the completion is poisoned. -/
  reply : List Byte × Bool
  /-- The register that a master has read last (R305, R315). -/
  regReply : BitVec 64
  hostDown : Bool
  deriving DecidableEq, Repr

/-- A memory sample whose weave has still to be served (R321): the common part of its record, the instruction's address and word, how
many strands the weave has, the sectors it touches, the level that serves each strand where it is one of R321's codes, and the strands
still to be served, by slot and %sid. `made` is a record already made that stands behind an earlier one of its strand (R318). -/
structure Sample where
  sid : Word
  made : Option (BitVec 512)
  common : Nat
  pc : Addr
  insn : Word
  active : Nat
  sectors : Nat
  levels : List (SRef × Nat)
  left : List (SRef × Word)
  deriving DecidableEq, Repr

/-- The trace window (R316 to R318, R321). -/
structure Trace where
  opened : Bool
  stopping : Bool
  /-- The close record has been made, and the window is gone once every record has been written (R317). -/
  closing : Bool
  ctrl : Nat
  base : Nat
  size : Nat
  sper : Nat
  head : Nat
  lost : Nat
  lostRun : Nat
  /-- The count of LOST has still to be written to the control record. -/
  lostDue : Bool
  task : Word
  /-- Whether tasks of the START's queue are still admitted, and whether that queue is the strands' submissions (R317). -/
  queueAdmits : Bool
  fromSpawn : Bool
  /-- Records made and not yet written to the ring (R318). -/
  queue : List (BitVec 512)
  samples : List Sample
  deriving DecidableEq, Repr

/-- The management file, the configuration and the power controller (R18, R20, R315, R324 to R326, R393, R394). -/
structure Mgmt where
  id : BitVec 64
  sec : BitVec 2
  dbg : BitVec 2
  arm : Bool
  pwrReq : BitVec 2
  pwrCur : BitVec 2
  halta : BitVec 64
  bps : List (BitVec 64)
  /-- Results of the two flash banks and of the identity certificate (R393): 0 verified, 1 to 5 as MG_BOOT codes them. -/
  banks : Nat × Nat
  certBad : Bool
  /-- MG_BOOT and MG_BLOBST (R393, R394). -/
  boot : BitVec 64
  blobst : BitVec 64
  /-- Flash: the security state stored there, the pending configuration record and the transition sequence. -/
  flashSec : BitVec 2
  flashSeq : BitVec 64
  flashCfg : Option (List Byte)
  /-- The configuration in force: stepping tag, configured clock in MHz, disabled cores as (die, core). -/
  tag : BitVec 16
  cfgClock : Nat
  disabled : List (Nat × Nat)
  /-- Disabled GX units, by flume type and number (R18); the memory size in GiB and the security state that the record gives (R324). -/
  gxOff : List (Nat × Nat)
  memGiB : Nat
  cfgSec : BitVec 2
  clock : Nat
  /-- Power samples of the last 10 ms, each its time in picoseconds and its milliwatts (R20), and when work was last seen (R326). -/
  samples : List (Nat × Nat)
  busyAt : Nat
  /-- Tasks whose resume waits for the device to be active again (R326, R395). -/
  resumes : List Nat
  deriving DecidableEq, Repr

end Sys2Proof.Machine
end

