-- ==== Sys2Proof/Machine/State.lean ====
section
/-! DEFINITION. The state of the machine, its stops, and the state after power-on reset (01 R8; 02 R26; 03 R60; 14 R293). -/
namespace Sys2Proof.Machine

/-- Why a step stops with a fault. -/
inductive Fault where
  /-- Raised by every instruction of a strand when no strand is issuing (safe): no instruction issues without a strand
  (R26). `step` never meets it. -/
  | noStrand
  deriving DecidableEq, Repr

/-- Why a step is refused. -/
inductive Refusal where
  /-- Raised by the dispatch alone, for an instruction that has no meaning yet (safe). -/
  | notModelled (mnemonic : String)
  deriving DecidableEq, Repr

/-- A choice the environment makes for the run (assumption 1): an event, which port of which core issues next (port false is
vector/ALU, true is memory/control, R28), or what a master, a head or the companion does that no event of the table is. -/
inductive Agenda where
  | event (i : Instr)
  | issue (die core : Nat) (port : Bool)
  /-- A master reads a register of the map, or of the management file below 256 (R302, R305, R315). -/
  | read (m : Nat) (addr : BitVec 48)
  /-- Register writes of several masters in one GX cycle, each a master, an address and a value (R305). -/
  | writes (l : List (Nat × BitVec 48 × BitVec 64))
  /-- A display head reads the next row of its surface and sends it (R23). -/
  | row (head : Nat)
  /-- A memory write, or a memory read, of the companion to a home of this device, with its clock row (R149, R301). -/
  | companionWrite (pa : BitVec 48) (bytes : List (BitVec 8)) (row : List Nat)
  | companionRead (pa : BitVec 48) (n : Nat) (row : List Nat)
  deriving DecidableEq, Repr

/-- A commons write of the running cycle (R76): bundle, register, member index, value. -/
structure CommonsWrite where
  bundle : Nat
  reg : Nat
  mid : Nat
  val : Word
  deriving DecidableEq, Repr

/-- A context capture asked for and not yet made (R47). `what` 0 a task by key, 1 a PARTID, 2 the whole device; `why` 0 a
debug halt, 1 a cistern step, 2 undocking, 3 a capture of the whole device. -/
structure Capture where
  what : Nat
  id : Nat
  why : Nat
  deriving DecidableEq, Repr

/-- An event counted in the running cycle (R322): its die, its core for a core source, the source, how many, and to whom it is
attributed, each as a PARTID and whether the task is traced. -/
structure EvNote where
  die : Nat
  core : Option Nat
  src : Nat
  n : Nat
  who : List (Nat × Bool)
  deriving DecidableEq, Repr

/-- The state of the machine. -/
structure State where
  /-- The resident strands. -/
  strands : List Strand
  /-- The bundles, resident and evicted (R31, R43). -/
  bundles : List Bundle
  /-- Cores by (die, core); a core not listed is as at reset. -/
  cores : List ((Nat × Nat) × Core)
  /-- Dies 0 (GX), 1 and 2; a die not listed is as at reset. -/
  dies : List (Nat × Die)
  /-- QE of a cluster by (die, cluster); not listed is idle and empty (R234). -/
  qes : List ((Nat × Nat) × Engine)
  /-- Device memory and host memory, canonical: addresses rising, no byte 0 listed (assumption 4). -/
  mem : List Host.Cell
  /-- Marked atoms, rising, by physical address divided by 32 (R372, R375). -/
  poison : List Nat
  lost : List Nat
  offers : List Offer
  deposits : List Deposit
  xwrites : List XWrite
  xreads : List XRead
  hg : Headgate
  gx : Gx
  link : Link
  port : Port
  trace : Trace
  mg : Mgmt
  captures : List Capture
  /-- Rendezvous objects that an abandoned command has marked, with the command's record address (R381). -/
  rdvMarks : List (Nat × Nat)
  /-- Numbers the offers, deposits, in-flight writes, reads, calls and fork groups in order of issue. -/
  nextId : Nat
  /-- Core cycles since power-on reset, and the timebase in picoseconds (R293; assumption 7). -/
  cycle : Nat
  timePs : Nat
  /-- The strand that is issuing. -/
  cur : Option SRef
  /-- Strands of the weave being issued that have still to issue (R29). -/
  weave : List SRef
  /-- Commons writes, flag sets and clears of the running cycle (R76, R232). -/
  commonsBuf : List CommonsWrite
  flagBuf : List ((Nat × Nat) × Nat × Bool)
  evBuf : List EvNote
  agenda : List Agenda
  /-- Counter of the free values used so far (assumption 20). -/
  free : Nat
  deriving DecidableEq, Repr

/-- An empty mailbox. -/
def Mailbox.reset : Mailbox := { head := 0, items := [], claim := 0 }

/-- An idle engine. -/
def Engine.reset : Engine := { queue := [], run := none }

/-- A core after power-on reset (R293, R98, R124, R244, R322, R380). -/
def Core.reset : Core :=
  { flags := 0, mboxes := List.replicate 8 Mailbox.reset, opbuf := [], opPoison := [], granule := [], tiles := [],
    tileSeq := 0, mx := Engine.reset, ce := Engine.reset, ssb := Engine.reset, ssbList := [], tvec := 0,
    srseed := 0x2545F491#32, leaseL1 := 4096, ssbThresh := 64, mxring := 0, ringTail := 0, ringStopped := false,
    engfa := 0, engSel := 0, engHold := false, evsel := List.replicate 8 0, evcnt := List.replicate 8 0, l1 := [],
    tlb := [], reuse := [], vfile := [], vmap := [], mboxFree := List.replicate 3 (List.replicate 8 16), waitS := [], waitV := [], leftS := [], leftV := [], leftScr := [], outstanding := 0,
    sampleCount := 0 }

/-- A die after power-on reset (R124, R129, R130, R322, R371). -/
def Die.reset : Die :=
  { leaseRdc := 65536, occsel := 0, waymask := List.replicate 16 0xFFFF, memerrPar := 0, memerrCor := 0,
    devsel := List.replicate 32 0, devcnt := List.replicate 32 0, rdc := [], tlb := [], merge := [], l2 := [],
    rows := List.replicate 4 (List.replicate 4 0), applied := List.replicate 4 0 }

/-- The Headgate after power-on reset (R60, R351, R373, R396). -/
def Headgate.reset : Headgate :=
  { hqbase := 0, hqsize := 64, htail := 0, hhead := 0, policy := 0x4001004600, frame := 0, bwbase := 0, bwsize := 0,
    qtbase := 0, qtcount := 0, pquota := List.replicate 16 0, fqbase := 0, fqsize := 64, fqhead := 0, fqtail := 0, fqPend := [],
    serr := 0x300, dmpbase := 0, dmpsize := 0, dmpnext := 0, tasks := [], nextKey := 1, nextId := 1, nextHandle := 1,
    poolSeq := 0, queues := [], epochs := [], bwUsed := [], bwFull := false, bwReportAt := 0, reserved := none,
    qtPend := [], refused := [] }

/-- A display head after power-on reset (R23). -/
def Head.reset : Head :=
  { regs := List.replicate 7 0, latched := List.replicate 7 0, scanning := false, training := false, want := 0, rate := 0, row := 0,
    sent := [] }

/-- GX after power-on reset (R272, R125, R383). -/
def Gx.reset : Gx :=
  { rptol := 0x3C23D70A, svage := 0x4000, drop := 0, pdrop := 0, leaseRdc := 65536, calls := [], domains := [],
    buckets := [], hits := [], appends := [], heads := [Head.reset, Head.reset], outstanding := 0 }

/-- The companion link after power-on reset (R310, R375, R386, R390). -/
def Link.reset : Link :=
  { paired := false, migrated := false, event := 0, partid := 0, back := 0, backn := 0, cisBase := 0, cisSlot := 0,
    cisPeriod := 100, clrpart := 0, training := false, stopped := false, ackSeq := 0, skip := 0, reason := 0, ackSlot := 0,
    inStep := false, seq := 0, sent := [], moves := [], kmem := [], poolNext := 0, docking := none, undocking := false, away := [],
    stepSeq := 0, stepSlot := 1, stepPending := false, stepSince := 0, stepAt := 0, dirty := [], tagSeen := 0, memGiB := 0, reply := ([], false),
    reads := [] }

/-- The host port after power-on reset (R303 to R305; PT_ROOT_n: assumption 19). -/
def Port.reset : Port :=
  { own := 0, hand := 0, msix := [], ibi := 0, ptroot := [], reply := ([], false), regReply := 0,
    hostDown := false }

/-- No capture window (R316). -/
def Trace.reset : Trace :=
  { opened := false, stopping := false, closing := false, ctrl := 0, base := 0, size := 0, sper := 0, head := 0, lost := 0, lostRun := 0,
    lostDue := false, task := 0, queueAdmits := false, fromSpawn := false, queue := [], samples := [] }

/-- The management file after power-on reset, with the configuration record of assumption 13 (R8, R315, R324). -/
def Mgmt.reset : Mgmt :=
  { id := Config.deviceId, sec := 0, dbg := 0, arm := false, pwrReq := 0, pwrCur := 0, halta := 0,
    bps := List.replicate 4 0, banks := (0, 0), certBad := false, boot := 0x6001, blobst := 0, flashSec := 0, flashSeq := 0, flashCfg := none, tag := 0x0901,
    cfgClock := 1700, disabled := [], gxOff := [], memGiB := 128, cfgSec := 0, clock := 1700, samples := [], busyAt := 0, resumes := [] }

/-- The machine right after power-on reset (R8): no task, no strand; memory with nothing listed. -/
def State.reset : State :=
  { strands := [], bundles := [], cores := [], dies := [], qes := [], mem := [], poison := [], lost := [], offers := [],
    deposits := [], xwrites := [], xreads := [], hg := Headgate.reset, gx := Gx.reset, link := Link.reset,
    port := Port.reset, trace := Trace.reset, mg := Mgmt.reset, captures := [], rdvMarks := [], nextId := 1, cycle := 0, timePs := 0,
    cur := none, weave := [], commonsBuf := [], flagBuf := [], evBuf := [], agenda := [], free := 0 }

end Sys2Proof.Machine
end

