-- ==== Sys2Proof/Machine/Ops.lean ====
section
/-! DEFINITION. The named operations on strands, cores, dies and tasks that every meaning is written in: register reads and
writes through the window (R69, R70), lookahead windows (R160, R79, R89), retiring an instruction, taking an exception and
returning from one (R342 to R345, R359, R296), waits (R40). -/
namespace Sys2Proof.Machine

/-! ### Keyed lists -/

/-- The value listed under a key, or the default. -/
def alGet {α β : Type} [DecidableEq α] (d : β) (k : α) : List (α × β) → β
  | [] => d
  | (a, b) :: r => if a = k then b else alGet d k r

/-- The list with one key's value replaced, or added at the end. -/
def alSet {α β : Type} [DecidableEq α] (k : α) (v : β) : List (α × β) → List (α × β)
  | [] => [(k, v)]
  | (a, b) :: r => if a = k then (k, v) :: r else (a, b) :: alSet k v r

/-- Insertion by a key, and the list in the key's ascending order. -/
def insertBy {α : Type} (f : α → Nat) (x : α) : List α → List α
  | [] => [x]
  | y :: r => if f x < f y then x :: y :: r else y :: insertBy f x r
def sortBy {α : Type} (f : α → Nat) (l : List α) : List α := l.foldl (fun r x => insertBy f x r) []

/-! ### Cores, dies, engines -/

def State.core (s : State) (d c : Nat) : Core := alGet Core.reset (d, c) s.cores
def State.setCore (s : State) (d c : Nat) (k : Core) : State := { s with cores := alSet (d, c) k s.cores }
def State.die (s : State) (d : Nat) : Die := alGet Die.reset d s.dies
def State.setDie (s : State) (d : Nat) (k : Die) : State := { s with dies := alSet d k s.dies }
def State.qe (s : State) (d cl : Nat) : Engine := alGet Engine.reset (d, cl) s.qes
def State.setQe (s : State) (d cl : Nat) (k : Engine) : State := { s with qes := alSet (d, cl) k s.qes }

/-- The timebase in nanoseconds (R293 TIME, R64). -/
def State.timeNs (s : State) : Nat := s.timePs / 1000

/-- The next free value's index, and the state with it used (assumption 20). -/
def State.useFree (s : State) : Nat × State := (s.free, { s with free := s.free + 1 })

/-- To whom an event of a task is attributed (R322). -/
def State.who (s : State) (key : Nat) : List (Nat × Bool) :=
  match s.hg.tasks.find? fun t => t.key = key with | some t => [(t.partid, t.traced)] | none => []

/-- The model's number of the task of an identifier, 0 for none. -/
def State.keyOf (s : State) (id : Nat) : Nat := match s.hg.tasks.find? fun t => t.id.toNat = id with | some t => t.key | none => 0

/-- An event of a task, counted at the end of the cycle (R322). -/
def State.note (s : State) (d : Nat) (c : Option Nat) (src n key : Nat) : State :=
  { s with evBuf := s.evBuf ++ [{ die := d, core := c, src := src, n := n, who := s.who key }] }

/-! ### Strands -/

def State.strandAt (s : State) (r : SRef) : Option Strand := s.strands.find? fun st => st.at_ = r

/-- The strand that is issuing. -/
def State.curStrand (s : State) : Option Strand := s.cur.bind s.strandAt

/-- The state with a strand replaced by its new version (found by its slot). -/
def State.putStrand (s : State) (st : Strand) : State :=
  { s with strands := s.strands.map fun x => if x.at_ = st.at_ then st else x }

/-- A strand with its watch as the state now has it: a write by the strand itself fires its watch too (R223). -/
def State.seen (s : State) (st : Strand) : Strand :=
  match s.strandAt st.at_ with
  | some x => { st with watch := x.watch }
  | none => st

/-- What an instruction does to the machine through the strand that issues it. -/
def State.onStrand (s : State) (f : Strand → State) : Host.Outcome State Fault Refusal :=
  match s.curStrand with
  | some st => .next (f st)
  | none => .fault .noStrand

/-- Scalar name n through the window (R69). -/
def Strand.sIdx (st : Strand) (n : Nat) : Option Nat :=
  if 32 * st.wbs.toNat + n < 32 * st.nsb then some (32 * st.wbs.toNat + n) else none

/-- Vector name n through the window (R69). -/
def Strand.vIdx (st : Strand) (n : Nat) : Option Nat :=
  if 16 * st.wbv.toNat + n < 16 * st.nvb then some (16 * st.wbv.toNat + n) else none

/-- The allocation index a register field names (R159, R69). -/
def Strand.sName (st : Strand) (r : BitVec 7) : Option Nat := st.sIdx r.toNat
def Strand.vName (st : Strand) (r : BitVec 7) : Option Nat := st.vIdx r.toNat

/-- s[r]; a name beyond the allocation reads zero (R69). -/
def Strand.s (st : Strand) (r : BitVec 7) : Word :=
  match st.sName r with
  | some j => st.sregs.getD j 0
  | none => 0

/-- v[r]; a name beyond the allocation reads zero (R69). -/
def Strand.v (st : Strand) (r : BitVec 7) : Vec :=
  match st.vName r with
  | some j => st.vregs.getD j 0
  | none => 0

/-- The register after r, the high half of a pair (R159). -/
def Strand.sNext (st : Strand) (r : BitVec 7) : Word :=
  match st.sIdx (r.toNat + 1) with
  | some j => st.sregs.getD j 0
  | none => 0

/-- The pair s[r + 1]:s[r] (R159). -/
def Strand.pair (st : Strand) (r : BitVec 7) : BitVec 64 := st.sNext r ++ st.s r

/-- p[r] (R75). -/
def Strand.p (st : Strand) (r : BitVec 3) : BitVec 8 := st.preds[r.toNat]

/-- Whether a write in flight targets the register. -/
def RegWrite.hits (w : RegWrite) (vec : Bool) (j : Nat) : Bool :=
  match w with
  | .s i _ => !vec && i == j
  | .v i _ => vec && i == j

/-- The window entry without its write of the register: a later write of the register supplies its value (R79). -/
def Pend.drop (vec : Bool) (j : Nat) (p : Pend) : Pend := { p with writes := p.writes.filter fun w => !w.hits vec j }

/-- An allocation register written by an instruction that is not a long-latency write (R79). -/
def Strand.setSAt (st : Strand) (j : Option Nat) (x : Word) : Strand :=
  match j with
  | some j => { st with sregs := st.sregs.set j x, pend := st.pend.map (Pend.drop false j) }
  | none => st

def Strand.setVAt (st : Strand) (j : Option Nat) (x : Vec) : Strand :=
  match j with
  | some j => { st with vregs := st.vregs.set j x, pend := st.pend.map (Pend.drop true j) }
  | none => st

/-- s[r] := x; a write beyond the allocation is discarded (R69). -/
def Strand.setS (st : Strand) (r : BitVec 7) (x : Word) : Strand := st.setSAt (st.sName r) x

/-- v[r] := x; a write beyond the allocation is discarded (R69). -/
def Strand.setV (st : Strand) (r : BitVec 7) (x : Vec) : Strand := st.setVAt (st.vName r) x

/-- The pair s[r], s[r + 1] := x (R159). -/
def Strand.setPair (st : Strand) (r : BitVec 7) (x : BitVec 64) : Strand :=
  (st.setSAt (st.sName r) (x.extractLsb' 0 32)).setSAt (st.sIdx (r.toNat + 1)) (x.extractLsb' 32 32)

/-- p[r] := x. -/
def Strand.setP (st : Strand) (r : BitVec 3) (x : BitVec 8) : Strand := { st with preds := st.preds.set r.toNat x }

/-- p[r] := 1 or 0, bits [7:1] cleared (R75). -/
def Strand.setPBit (st : Strand) (r : BitVec 3) (c : Bool) : Strand := st.setP r (if c then 1 else 0)

/-- FPFLAGS := FPFLAGS or f (R94). -/
def Strand.raiseFlags (st : Strand) (f : BitVec 5) : Strand := { st with fpflags := st.fpflags ||| f }

/-! ### Watches -/

/-- The watch of a strand fires when its region is hit (R223). -/
def Strand.fire (hit : Strand → WatchRegion → Bool) (st : Strand) : Strand :=
  match st.watch with
  | some w => if hit st w.region then { st with watch := some { w with fired := true } } else st
  | none => st

/-- The watches of resident and of evicted strands fire when their regions are hit (R223, R44). -/
def State.fire (s : State) (hit : Strand → WatchRegion → Bool) : State :=
  { s with strands := s.strands.map (Strand.fire hit),
           bundles := s.bundles.map fun b => if b.saved.isEmpty then b else { b with saved := b.saved.map (Strand.fire hit) } }

/-! ### Lookahead windows -/

/-- A register write that becomes visible. -/
def Strand.landOne (st : Strand) (w : RegWrite) : Strand :=
  match w with
  | .s j x => { st with sregs := st.sregs.set j x }
  | .v j x => { st with vregs := st.vregs.set j x }

/-- A long-latency write whose window has ended: its registers, flags, or the causes its data brought, in which case the
destination keeps its value (R359). -/
def Strand.land (st : Strand) (p : Pend) : Strand :=
  if p.causes ≠ 0 then
    { st with due := st.due ||| p.causes, dueTval := if st.due = 0 then p.tval else st.dueTval }
  else
    let st := p.writes.foldl Strand.landOne st
    if p.arrived then st else st.raiseFlags p.flags

/-- Drops the registers of a landed write from the older windows still open (R79). -/
def Pend.dropAll (ws : List RegWrite) (p : Pend) : Pend :=
  ws.foldl (fun p w => match w with | .s j _ => p.drop false j | .v j _ => p.drop true j) p

/-- Lands every window with no instruction left, oldest first; `kept` are the older ones still open. -/
def landExpired (st : Strand) (kept : List Pend) : List Pend → Strand
  | [] => { st with pend := kept }
  | p :: ps =>
    if p.left = 0 then landExpired (st.land p) (if p.causes ≠ 0 then kept else kept.map (Pend.dropAll p.writes)) ps
    else landExpired st (kept ++ [p]) ps

/-- One instruction of the strand has issued: every open window and the open period lose one (R160). -/
def Strand.tick (st : Strand) : Strand :=
  landExpired { st with period := st.period - 1 } [] (st.pend.map fun p => { p with left := p.left - 1 })

/-- A blocking point closes every window (R42). -/
def Strand.closeWindows (st : Strand) : Strand :=
  landExpired st [] (st.pend.map fun p => { p with left := 0 })

/-- Whether a window is open. -/
def Strand.windowOpen (st : Strand) : Bool := !st.pend.isEmpty

/-- The lookahead in effect for a long-latency write with field la: none in interlocked mode (R161), at most what is left of
the open period (R160). `was` is whether a window was open when the instruction issued; `st` has already ticked. -/
def Strand.lookahead (st : Strand) (was : Bool) (la : Nat) : Nat :=
  if !st.native then 0 else if was then min la st.period else la

/-- How many instructions a write's window holds: in interlocked mode data that bring causes are on their way until the first reader of
the destination, at most for the open period (R359, assumption 9). -/
def Strand.held (st : Strand) (was : Bool) (la : Nat) (p : Pend) : Nat :=
  if !st.native && p.causes != 0 then (if was then st.period else 15) else st.lookahead was la

/-- A long-latency write enters its window, or is visible at once when the window is empty (R160). -/
def Strand.openWindow (st : Strand) (was : Bool) (la : Nat) (p : Pend) : Strand :=
  let n := st.held was la p
  let st := if was then st else { st with period := 15 }
  landExpired st [] (st.pend ++ [{ p with left := n }])

/-! ### Retiring -/

/-- The strand after it has issued an instruction and goes on at `pc`: ready from the next cycle (R29). -/
def Strand.goTo (st : Strand) (cycle : Nat) (pc : Addr) : Strand :=
  { st.tick with pc := pc, blocked := none, readyAt := cycle + 1 }

/-- The address after an instruction of `len` words (R164). -/
def Strand.after (st : Strand) (len : Nat) : Addr := st.pc + BitVec.ofNat 57 (4 * len)

/-- The strand after an instruction of `len` words has retired. -/
def Strand.retire (st : Strand) (cycle len : Nat) : Strand := st.goTo cycle (st.after len)

/-- The strand after a long-latency write has retired: its destination stands in a window (R160). -/
def Strand.retireLong (st : Strand) (cycle len la : Nat) (p : Pend) : Strand :=
  (st.retire cycle len).openWindow st.windowOpen la p

/-- An instruction of `len` words that only changes its strand. -/
def State.simple (s : State) (len : Nat) (f : Strand → Strand) : Host.Outcome State Fault Refusal :=
  s.onStrand fun st => s.putStrand ((f st).retire s.cycle len)

/-- The window entry of one scalar destination. -/
def pendS (j : Option Nat) (x : Word) (flags : BitVec 5) : Pend :=
  { writes := (j.map fun j => RegWrite.s j x).toList, left := 0, arrived := false, flags := flags, causes := 0, tval := 0 }

/-- The window entry of one vector destination. -/
def pendV (j : Option Nat) (x : Vec) (flags : BitVec 5) : Pend :=
  { writes := (j.map fun j => RegWrite.v j x).toList, left := 0, arrived := false, flags := flags, causes := 0, tval := 0 }

/-- A long-latency instruction of `len` words whose one result is a register write (R160). -/
def State.simpleLong (s : State) (len la : Nat) (f : Strand → Pend) : Host.Outcome State Fault Refusal :=
  s.onStrand fun st => s.putStrand (st.retireLong s.cycle len la (f st))

/-! ### Waits -/

/-- The strand stands at a wait; a blocking point closes its windows (R42). -/
def Strand.block (st : Strand) (cycle len : Nat) (blocking : Bool) (w : Wait) : Strand :=
  let st := if blocking then st.closeWindows else st
  { st with blocked := some { wait := w, len := len, woken := false, since := cycle } }

/-- Whether a wait is one of the blocking points of R40. -/
def Wait.blocking : Wait → Bool
  | .barSync _ _ | .rcv | .qrecv _ _ | .qsend _ | .flcall _ | .flwait _ | .access _ | .mwait | .rdv _ _ _ | .rdvMet _ _ _ _ _ _
  | .rwait _ | .flagWait _ _ _ | .twait _ _ | .twaitMet _ _ _ | .xacq _ _ | .sleep _ _ => true
  | .walk _ _ _ | .parked _ _ _ | .fetchMove _ _ _ | .collective _ _ _ _ _ _ _ _ _ | .spec _ _ | .shoot _ _ | .retry => false

/-- A register's allocation index, unless it is the one named. -/
def dropIdx (j : Nat) (i : Option Nat) : Option Nat := if i = some j then none else i

/-- What an access writes, less a register that a later write has supplied (R79). -/
def MemDest.dropReg (vec : Bool) (j : Nat) : MemDest → MemDest
  | .none => .none
  | .scalar i => if vec then .scalar i else .scalar (dropIdx j i)
  | .pair lo hi => if vec then .pair lo hi else .pair (dropIdx j lo) (dropIdx j hi)
  | .lanes i b => if vec then .lanes (dropIdx j i) b else .lanes i b
  | .low i => if vec then .low (dropIdx j i) else .low i

/-- The wait of an instruction that has issued, when a deposit that is later in program order has written the register (R77, R79; assumption 72). -/
def Wait.dropReg (vec : Bool) (j : Nat) : Wait → Wait
  | .access op => .access { op with dest := op.dest.dropReg vec j }
  | .qrecv k i => if vec then .qrecv k (dropIdx j i) else .qrecv k i
  | .rdv pa va i => if vec then .rdv pa va i else .rdv pa va (dropIdx j i)
  | .rdvMet pa va i m e r => if vec then .rdvMet pa va i m e r else .rdvMet pa va (dropIdx j i) m e r
  | .collective major sel i i2 win v x la w =>
    if vec then .collective major sel (if major = 0x53 then dropIdx j i else i) i2 win v x la w
    else if major = 0x52 && sel = 0 then .collective major sel (dropIdx j i) (dropIdx j i2) win v x la w
    else .collective major sel i i2 win v x la w
  | .spec e i => if vec then .spec e i else .spec e (dropIdx j i)
  | w => w

/-- The strand leaves its blocking point: its instruction retires, and causes that came meanwhile are delivered at the
fall-through address (R359). -/
def Strand.unblock (st : Strand) (cycle : Nat) : Strand :=
  match st.blocked with
  | some b => st.retire cycle b.len
  | none => st

/-- The strand is ready to issue its instruction again. -/
def Strand.reissue (st : Strand) (cycle : Nat) : Strand := { st with blocked := none, readyAt := cycle + 1 }

/-! ### Tasks -/

def State.task? (s : State) (key : Nat) : Option Task := s.hg.tasks.find? fun t => t.key = key

def State.mapTask (s : State) (key : Nat) (f : Task → Task) : State :=
  { s with hg := { s.hg with tasks := s.hg.tasks.map fun t => if t.key = key then f t else t } }

/-- Whether a capture covers a task (R47). -/
def Capture.covers (c : Capture) (t : Task) : Bool := match c.what with | 0 => t.key = c.id | 1 => t.partid = c.id | _ => true

/-- Whether a task is halted, or a capture of it is under way: nothing of it is launched, placed or restored. -/
def State.taskHeld (s : State) (t : Task) : Bool := t.halted || s.captures.any fun c => c.covers t

def State.bundle? (s : State) (h : Nat) : Option Bundle := s.bundles.find? fun b => b.handle = h

def State.mapBundle (s : State) (h : Nat) (f : Bundle → Bundle) : State :=
  { s with bundles := s.bundles.map fun b => if b.handle = h then f b else b }

/-- The bundle a strand belongs to (R31). -/
def State.bundleOf (s : State) (st : Strand) : Option Bundle := st.bundle.bind fun (h, _) => s.bundle? h

/-- The resident members of a bundle, with their indices. -/
def State.members (s : State) (h : Nat) : List (Nat × Strand) :=
  s.strands.filterMap fun st => match st.bundle with | some (b, m) => if b = h then some (m, st) else none | none => none

/-! ### Taking an exception -/

/-- Cause bits (R341). -/
def causeBit (k : Nat) : BitVec 64 := BitVec.ofNat 64 (2 ^ k)
def cIllegal : BitVec 64 := causeBit 0
def cPriv : BitVec 64 := causeBit 1
def cOplim : BitVec 64 := causeBit 2
def cTrap : BitVec 64 := causeBit 3
def cMisalign : BitVec 64 := causeBit 8
def cPermR : BitVec 64 := causeBit 9
def cPermW : BitVec 64 := causeBit 10
def cPermX : BitVec 64 := causeBit 11
def cPage : BitVec 64 := causeBit 12
def cAddr : BitVec 64 := causeBit 13
def cPoison : BitVec 64 := causeBit 14
def cLost : BitVec 64 := causeBit 15
def cFlume : BitVec 64 := causeBit 24
def cEngine : BitVec 64 := causeBit 25
def cBarrier : BitVec 64 := causeBit 33
def cColl : BitVec 64 := causeBit 34
def cMailbox : BitVec 64 := causeBit 35
def cNested : BitVec 64 := causeBit 40

/-- The causes of data with a mark: bit 0 poison, bit 1 LOST (R359). -/
def markCause (m : Nat) : BitVec 64 := (if bitNat m 0 then cPoison else 0) ||| (if bitNat m 1 then cLost else 0)

/-- A strand that issues nothing more because its task is being ended. -/
def Strand.halt (st : Strand) : Strand := { st with blocked := none, stopped := true, reenter := 0, due := 0 }

/-- The task of a strand is ended by a delivery: the first is the first fault of its dump, later ones are nested faults
(R397, R400). -/
def State.endTaskBy (s : State) (st : Strand) (causes : BitVec 64) : State :=
  s.mapTask st.task fun t =>
    match t.endRec with
    | none =>
      { t with state := .ending, status := if t.state = .ending then t.status else 3,
               endRec := some { fcause := causes, ftval := st.tval, fpc := st.pc, fsid := st.sid,
                                fbhnd := (match st.bundle with | some (h, _) => h | none => 0), time := s.timeNs, ncount := 0, ncause := 0,
                                ntval := 0, npc := 0, nsid := 0 } }
    | some e =>
      { t with endRec := some (if e.ncount = 0 then
          { e with ncount := 1, ncause := causes, ntval := st.tval, npc := st.pc, nsid := st.sid }
          else { e with ncount := e.ncount + 1 }) }

/-- The entry of R342: the causes are set, TVAL, EPC and STATUS are written and the strand goes to its handler. A cause at
handler level sets NESTED, leaves EPC and TVAL, and ends the task (R345); so does a core whose TVEC is 0, after the
registers are written, with the PC left at EPC (R345, R397). -/
def State.deliver (s : State) (st : Strand) (causes tval : BitVec 64) (epc : Addr) : State :=
  let st := { st with blocked := none, readyAt := s.cycle + 1 }
  if st.level then
    let st := { st with cause := st.cause ||| causes ||| cNested }
    (s.endTaskBy { st with tval := tval, pc := epc } (causes ||| cNested)).putStrand st.halt
  else
    let tvec := (s.core st.at_.die st.at_.core).tvec
    let st := { st with cause := st.cause ||| causes, tval := tval, epc := epc, plev := st.level, level := true }
    if tvec = 0 then
      let st := { st with pc := epc }
      (s.endTaskBy st causes).putStrand st.halt
    else s.putStrand { st with pc := tvec }

/-- The causes of the running instruction are delivered in place of retiring it: EPC is its first word (R342). -/
def State.raise (s : State) (st : Strand) (causes tval : BitVec 64) : State := s.deliver st causes tval st.pc

/-- The causes of an instruction that has retired, delivered with EPC at its fall-through address (R295, R360). -/
def State.raiseAfter (s : State) (st : Strand) (len : Nat) (causes tval : BitVec 64) : State :=
  s.deliver (st.tick) causes tval (st.after len)

/-- The entry that sets no new bit and writes neither TVAL nor, after ERET, EPC (R344); at a blocking instruction that has
retired EPC takes the boundary (R359). -/
def State.reenterHandler (s : State) (st : Strand) (kind : Nat) : State :=
  let tvec := (s.core st.at_.die st.at_.core).tvec
  let nested := kind = 2 && st.level
  let st := { st with reenter := 0, epc := if kind = 2 && !st.level then st.pc else st.epc,
                      plev := if nested then st.plev else st.level, level := true, readyAt := s.cycle + 1 }
  if nested then
    (s.endTaskBy st (st.cause ||| cNested)).putStrand ({ st with cause := st.cause ||| cNested }.halt)
  else if tvec = 0 then (s.endTaskBy st st.cause).putStrand st.halt
  else s.putStrand { st with pc := tvec }

/-- Data-phase causes that have arrived (R359): entered in place of the strand's next instruction, or, while it stands at a
blocking instruction, set in CAUSE and TVAL and entered when that instruction has retired. -/
def State.settleDue (s : State) (st : Strand) : State :=
  if st.due = 0 then s
  else
    match st.blocked with
    | some b =>
      if b.wait.blocking then
        s.putStrand { st with cause := st.cause ||| st.due, tval := if st.level then st.tval else st.dueTval, due := 0,
                              reenter := 2 }
      else s.deliver { st with due := 0 } st.due st.dueTval st.pc
    | none => s.deliver { st with due := 0 } st.due st.dueTval st.pc

/-- ERET (R296, R344): return to EPC at the previous level; a non-zero CAUSE enters again before any instruction. -/
def Strand.eret (st : Strand) (cycle : Nat) : Strand :=
  let st := { st with level := st.plev, plev := false }
  { st.goTo cycle st.epc with reenter := if st.cause ≠ 0 then 1 else 0 }

end Sys2Proof.Machine
end

