-- ==== Sys2Proof/Machine/Operands.lean ====
section
/-! DEFINITION. Operand forms: immediates (R162, R176), effective addresses (R162, R215, R218), branch targets (R193), lane
masks (R163), the gather mode word (R162). -/
namespace Sys2Proof.Machine

/-- The 32-bit immediate of SALUI, VALUI and SCMPI: sext(imm7) bare, imm25 × 2^7 + imm7 under an IMM prefix (R162, R176). -/
def immWord7 (x : Option (BitVec 25)) (i : BitVec 7) : Word :=
  match x with
  | none => i.signExtend 32
  | some x => x ++ i

/-- The immediate of LI: sext(imm14) bare, imm25[17:0] × 2^14 + imm14 under an IMM prefix (R162, R177). -/
def immWord14 (x : Option (BitVec 25)) (i : BitVec 14) : Word :=
  match x with
  | none => i.signExtend 32
  | some x => x.extractLsb' 0 18 ++ i

/-- The byte offset of a memory operand: 0 bare, sext(imm25) under an IMM prefix (R162). -/
def byteOffset (x : Option (BitVec 25)) : Addr :=
  match x with
  | none => 0
  | some x => x.signExtend 57

/-- ea(a, off): bits [56:0] of the pair plus the offset, modulo 2^57 (R162, R215). -/
def Strand.ea (st : Strand) (a : BitVec 7) (x : Option (BitVec 25)) : Addr :=
  (st.pair a).extractLsb' 0 57 + byteOffset x

/-- The address in a pair, with no offset (R274). -/
def Strand.pairAddr (st : Strand) (a : BitVec 7) : Addr := (st.pair a).extractLsb' 0 57

/-- The address of lane i of a gather or scatter: base plus sext of the index lane (R218). -/
def Strand.laneAddr (st : Strand) (a b : BitVec 7) (i : Nat) : Addr :=
  st.pairAddr a + (lane (st.v b) i).signExtend 57

/-- The word offset of a branch or call: sext(off21) bare, sext(imm25 × 2^21 + off21) under an IMM prefix (R162). -/
def branchOffset (x : Option (BitVec 25)) (o : BitVec 21) : Addr :=
  match x with
  | none => o.signExtend 57
  | some x => (x ++ o : BitVec 46).signExtend 57

/-- trunc(pc + 4 × offset, 57) (R193). -/
def Strand.branchTarget (st : Strand) (x : Option (BitVec 25)) (o : BitVec 21) : Addr :=
  st.pc + (branchOffset x o) <<< 2

/-- The active lanes under an MSK prefix, read when the instruction issues (R163). -/
def Strand.mask (st : Strand) (mk : Option Msk) : BitVec 8 :=
  match mk with
  | none => 0xFF
  | some m => if m.sense = 0 then st.p m.pred else ~~~(st.p m.pred)

/-- Words of an instruction that may carry an MSK prefix, an IMM prefix, or both (R164). -/
def lenOf {α β : Type} (mk : Option α) (x : Option β) : Nat :=
  (if mk.isSome then 1 else 0) + (if x.isSome then 1 else 0) + 1

/-- Words of an instruction that may carry one prefix. -/
def len1 {α : Type} (x : Option α) : Nat := (if x.isSome then 1 else 0) + 1

/-- The field m of a gather or scatter: 0x40 without a prefix (R162). -/
def gatherM (x : Option (BitVec 25)) : BitVec 7 :=
  match x with
  | none => 0x40
  | some x => x.extractLsb' 0 7

/-- v[d] := new in the active lanes; inactive lanes keep their contents (R163). -/
def Strand.setVMasked (st : Strand) (mk : Option Msk) (d : BitVec 7) (new : Vec) : Strand :=
  match mk with
  | none => st.setV d new
  | some _ => st.setV d (mergeLanes (st.mask mk) (st.v d) new)

/-- p[d] := new in the active lanes' bits; the others keep theirs (R163). -/
def Strand.setPMasked (st : Strand) (mk : Option Msk) (d : BitVec 3) (new : BitVec 8) : Strand :=
  match mk with
  | none => st.setP d new
  | some _ => st.setP d (mergePred (st.mask mk) (st.p d) new)

end Sys2Proof.Machine
end

