-- ==== Sys2Proof/Machine/Walk.lean ====
section
/-! DEFINITION. Kinds of virtual address, leaves, and the walk of the tables as they stand (06 R113, R115, R131, R132; 15 R304;
20 R369). -/
namespace Sys2Proof.Machine

/-- The marks of an atom: bit 0 poison, bit 1 LOST (R372, R375). -/
def State.atomMark (s : State) (a : Nat) : Nat := (if s.poison.contains a then 1 else 0) + if s.lost.contains a then 2 else 0

/-- The kinds of generic address (R113). -/
inductive AddrKind where
  | virt
  | cluster (handle off : Nat)
  | scratch (off : Nat)
  | opbuf (off : Nat)
  | bad
  deriving DecidableEq, Repr

def addrKind (va : Nat) : AddrKind :=
  if va < 0x1F8000000000000 then .virt
  else if va < 0x1FC000000000000 then .cluster (va / 2 ^ 18 % 2 ^ 32) (va % 2 ^ 18)
  else if va < 0x1FC000000040000 then .scratch (va % 2 ^ 18)
  else if 0x1FD000000000000 ≤ va && va < 0x1FD000000080000 then .opbuf (va % 2 ^ 19)
  else .bad

/-- The 2 MiB page of an address, and its part (R131, R132). -/
def pageOf (va : Nat) : Nat := va / 2 ^ 21
def partOf (va : Nat) : Nat := va / 2 ^ 16 % 32

/-- A leaf entry (R131). -/
abbrev Leaf := BitVec 128

def Leaf.v (l : Leaf) : Bool := l.getLsbD 0
def Leaf.r (l : Leaf) : Bool := l.getLsbD 3
def Leaf.w (l : Leaf) : Bool := l.getLsbD 4
def Leaf.x (l : Leaf) : Bool := l.getLsbD 5
def Leaf.home (l : Leaf) : Nat := bitsNat l.toNat 7 6
def Leaf.dra (l : Leaf) : Bool := l.getLsbD 8
def Leaf.ppn (l : Leaf) : Nat := bitsNat l.toNat 42 16
def Leaf.sbase (l : Leaf) : Nat := bitsNat l.toNat 51 43
def Leaf.sg (l : Leaf) : Nat := bitsNat l.toNat 53 52
def Leaf.poid (l : Leaf) : Nat := bitsNat l.toNat 57 54
def Leaf.poe (l : Leaf) : Bool := l.getLsbD 58
def Leaf.remt (l : Leaf) (k : Nat) : Bool := l.getLsbD (64 + k)
def Leaf.pres (l : Leaf) (k : Nat) : Bool := l.getLsbD (96 + k)

/-- A non-zero reserved bit, or HOME 2 or 3 (R369 reason 5). -/
def Leaf.bad (l : Leaf) : Bool :=
  bitsNat l.toNat 63 59 != 0 || bitsNat l.toNat 15 9 != 0 || bitsNat l.toNat 2 1 != 0 || 2 ≤ l.home

/-- The physical address of a virtual address under its leaf (R131). -/
def Leaf.pa (l : Leaf) (va : Nat) : Nat := l.ppn * 2 ^ 21 + va % 2 ^ 21

/-- How the L2 of the home places an access through the leaf: the slice group of the page, and the accessing PARTID or the page's
override (R128, R129, R131). -/
def Leaf.place (l : Leaf) (partid hint : Nat) : L2Place :=
  { group := l.sg, base := l.sbase, partid := if l.poe then l.poid else partid, hint := hint }

/-- States of a part (R132). -/
inductive PartState where
  | present | remote | absent | moving
  deriving DecidableEq, Repr

def Leaf.part (l : Leaf) (k : Nat) : PartState :=
  match l.pres k, l.remt k with
  | true, false => .present
  | false, true => .remote
  | false, false => .absent
  | true, true => .moving

/-- A part's state bits set. -/
def Leaf.setPart (l : Leaf) (k : Nat) (p : PartState) : Leaf :=
  let l : BitVec 128 := l &&& ~~~(1#128 <<< (96 + k)) &&& ~~~(1#128 <<< (64 + k))
  match p with
  | .present => l ||| (1#128 <<< (96 + k))
  | .remote => l ||| (1#128 <<< (64 + k))
  | .absent => l
  | .moving => l ||| (1#128 <<< (96 + k)) ||| (1#128 <<< (64 + k))

/-! ### The walk -/

/-- The table root of a protection domain (R304). -/
def State.ptroot (s : State) (pdom : Nat) : BitVec 64 := alGet 0 pdom s.port.ptroot

/-- A 16-byte table entry, or that its atom is marked (R369 reason 6). -/
def State.tableEntry (s : State) (pa : Nat) : Option (BitVec 128) :=
  if s.atomMark (pa / 32) ≠ 0 then none else some (BitVec.ofNat 128 (readNat s.mem pa 16))

/-- The index of a level 0 to 3 in a page number (R131). -/
def levelIndex (page level : Nat) : Nat := page / 2 ^ (9 * level) % 2 ^ 9

/-- Pointer entries from a level down to 1 (R131): the level-0 table, or the reason of R369. -/
def State.walkPointers (s : State) (page table : Nat) : Nat → Except Nat Nat
  | 0 => .ok table
  | n + 1 =>
    match s.tableEntry (table + 16 * levelIndex page (n + 1)) with
    | none => .error 6
    | some e =>
      if !e.getLsbD 0 then .error 1
      else if bitsNat e.toNat 127 48 != 0 || bitsNat e.toNat 12 1 != 0 then .error 5
      else s.walkPointers page (bitsNat e.toNat 47 13 * 2 ^ 13) n

/-- The physical address of the leaf entry of a page under a table root, or the reason of R369. -/
def State.leafAddrFrom (s : State) (root : BitVec 64) (page : Nat) : Except Nat Nat :=
  if !root.getLsbD 0 then .error 1
  else
    match s.walkPointers page (bitsNat root.toNat 47 13 * 2 ^ 13) 3 with
    | .ok t => .ok (t + 16 * levelIndex page 0)
    | .error r => .error r

def State.leafAddr (s : State) (pdom page : Nat) : Except Nat Nat := s.leafAddrFrom (s.ptroot pdom) page

/-- A walk for an access to part k of a page from a table root (R131, R369): the leaf, or the reason it emits. -/
def State.walkFrom (s : State) (root : BitVec 64) (page k : Nat) : Except Nat Leaf :=
  match s.leafAddrFrom root page with
  | .error r => .error r
  | .ok a =>
    match s.tableEntry a with
    | none => .error 6
    | some l =>
      if !Leaf.v l then .error 2
      else if Leaf.bad l then .error 5
      else
        match Leaf.part l k with
        | .absent => .error 3
        | .remote => if s.link.paired then .ok l else .error 4
        | _ => .ok l

/-- A walk that begins and ends now. -/
def State.walk (s : State) (pdom page k : Nat) : Except Nat Leaf := s.walkFrom (s.ptroot pdom) page k

end Sys2Proof.Machine
end

