-- ==== Sys2Proof/Machine/Bundles.lean ====
section
/-! DEFINITION. Creating, leaving and dissolving bundles, granting blocks and scratchpad units, and the end of a strand
(02 R31 to R37; 04 R69 to R74). -/
namespace Sys2Proof.Machine

/-- Members of a bundle, resident or saved (R31, R39). -/
def State.memberList (s : State) (h : Nat) : List (Nat × Strand) :=
  s.members h ++ match s.bundle? h with
    | some b => b.saved.filterMap fun st => st.bundle.map fun p => (p.2, st)
    | none => []

/-- The engines of a core, by unit number 0 MX, 1 CE, 2 SSB, and the QE of its cluster as unit 3 (R35). -/
def Core.engine (k : Core) (u : Nat) : Engine := match u with | 0 => k.mx | 1 => k.ce | _ => k.ssb
def Core.setEngine (k : Core) (u : Nat) (e : Engine) : Core :=
  match u with | 0 => { k with mx := e } | 1 => { k with ce := e } | _ => { k with ssb := e }
def State.engine (s : State) (d c u : Nat) : Engine := if u = 3 then s.qe d (c / 4) else (s.core d c).engine u
def State.setEngine (s : State) (d c u : Nat) (e : Engine) : State :=
  if u = 3 then s.setQe d (c / 4) e else s.setCore d c ((s.core d c).setEngine u e)

/-- Every engine, with its place. -/
def State.engines (s : State) : List ((Nat × Nat × Nat) × Engine) :=
  (s.cores.flatMap fun ((d, c), k) => [((d, c, 0), k.mx), ((d, c, 1), k.ce), ((d, c, 2), k.ssb)]) ++
    s.qes.map fun ((d, c), e) => ((d, 4 * c, 3), e)

/-- n bytes at a virtual address as the tables and the memory stand, within one page; none where its part is not here. -/
def State.peekBytes (s : State) (pdom va n : Nat) : Option (List Byte) :=
  match addrKind va, s.walk pdom (pageOf va) (partOf va) with
  | .virt, .ok l => if l.part (partOf va) = .present then some (readBytes s.mem (l.pa va) n) else none
  | _, _ => none

/-- The record of a command in flight: as it was read, or as it stands before that (R234). -/
def State.recordOf (s : State) (q : EngEntry) : Option (BitVec 512) :=
  match q.ring with
  | some w => some w
  | none => if q.record % 64 != 0 then none else (s.peekBytes q.pdom q.record 64).map fun b => BitVec.ofNat 512 (bytesNat b)

/-- How far below and above its base the strides of a nest reach, in units of the strides (R241, R252, R254). -/
def nestReach (w : Nat) (bits lo step : Nat) : Int × Int :=
  let nb : List Nat := [bitsNat w 83 64, bitsNat w 103 84, bitsNat w 123 104, bitsNat w 147 128, bitsNat w 167 148]
  nb.zipIdx.foldl (fun (a : Int × Int) (n, l) =>
    let x : Int := ((n - 1 : Nat) : Int) * bitsInt w (lo + step * l + bits - 1) (lo + step * l)
    (a.1 + min x 0, a.2 + max x 0)) (0, 0)

/-- The ranges of addresses that a CE or QE record names, first and last byte (R251 to R254). The level 0 of a CE nest has no
stride. -/
def recordRanges (u w : Nat) : List (Int × Int) :=
  match u with
  | 1 =>
    let n : Int := bitsNat w 83 64
    let reach (lo : Nat) : Int × Int := nestReach (w - bitsNat w 83 64 * 2 ^ 64 + 2 ^ 64) 20 lo 40
    let one (hi lo at_ : Nat) : Int × Int :=
      ((bitsNat w hi lo : Int) + 16 * (reach at_).1, (bitsNat w hi lo : Int) + 16 * (reach at_).2 + n - 1)
    one 248 192 312 :: if bitsNat w 351 320 = 0 then [one 312 256 332] else []
  | 3 =>
    let es : Int := if bitsNat w 250 249 = 0 then 4 else 2
    let base : Int := bitsNat w 248 192
    let (r0, r1) := nestReach w 8 384 16
    let (b0, b1) := nestReach w 8 392 16
    let p : Int := bitsNat w 287 256
    let at_ (r b : Int) : Int := base + ((bitsNat w 367 352 : Int) + r) * p + 24 * es * ((bitsNat w 383 368 : Int) + b)
    [(at_ r0 b0, at_ r1 b1 + 24 * es - 1)]
  | _ => []

/-- Whether a command in flight names a bundle's scratchpad or one of its barriers (R37, R237, R403): by BHND with BLNK or PBD, by an
address of the scratchpad aperture when its strand was a member, or by a cluster address. What the descriptors of an SSB command
point to, and the record of a command that cannot be seen, may be the scratchpad of its strand's bundle. -/
def commandNames (u : Nat) (q : EngEntry) (w? : Option (BitVec 512)) (h : Nat) : Bool :=
  match w? with
  | none => q.bundle = some h
  | some w =>
    let w := w.toNat
    let meets (lo len : Nat) : Bool := (recordRanges u w).any fun r => r.1 < ((lo + len : Nat) : Int) && (lo : Int) ≤ r.2
    ((bitsNat w 15 15 = 1 || (u = 1 && bitsNat w 14 14 = 1)) &&
        (if bitsNat w 63 32 = 0 then q.bundle = some h else bitsNat w 63 32 = h)) ||
      (q.bundle = some h && (u = 2 || meets 0x1FC000000000000 (2 ^ 18))) ||
      meets (0x1F8000000000000 + h % 2 ^ 32 * 2 ^ 18) (2 ^ 18)

/-- Whether an engine command in flight names the bundle's scratchpad or barriers (R37). -/
def State.bundleNamed (s : State) (h : Nat) : Bool :=
  s.engines.any fun ((_, _, u), e) =>
    e.queue.any (fun q => commandNames u q (s.recordOf q) h) ||
      match e.run with
      | some r => r.bhnd == some h || commandNames u r.entry (if r.stage = 0 then s.recordOf r.entry else some r.words) h
      | none => false

/-- The cells of unit i of `size` bytes, with offsets from its start (R74). -/
def unitCells (m : List Host.Cell) (size i : Nat) : List Host.Cell :=
  m.filterMap fun (a, b) => if size * i ≤ a && a < size * (i + 1) then some (a - size * i, b) else none

/-- The scratchpad units of a dissolved bundle. -/
def leftUnits (b : Bundle) : List (Left Host.Cell) :=
  (List.range b.grant).map fun i => { pdom := b.pdom.toNat, data := unitCells b.scratch 1024 i }

/-- The sibling cores of a core in its cluster, its own left out (R118). -/
def siblings (core : Nat) : List Nat := ((List.range 4).map fun i => core / 4 * 4 + i).filter (· != core)

/-- The n-th of them. -/
def sibling (core n : Nat) : Nat := (siblings core).getD n core

/-- A mailbox returns its free-entry count, which every sibling core keeps (R118): after a receive, and when it is emptied
(assumption 69). -/
def State.returnCount (s : State) (d c n : Nat) : State :=
  let free := 16 - ((s.core d c).mboxes.getD n Mailbox.reset).items.length
  (siblings c).foldl (fun s o =>
    let k := s.core d o
    let i := (siblings o).findIdx (· = c)
    s.setCore d o { k with mboxFree := k.mboxFree.set i ((k.mboxFree.getD i []).set n free) }) s

/-- A bundle dissolves: its grant is freed, its mailboxes are emptied and unclaimed, remote writes on their way to it are discarded, and
watches on it fire (R37, R77, R117, R223). -/
def State.dissolve (s : State) (b : Bundle) : State :=
  let k := s.core b.die b.core
  let s := s.setCore b.die b.core
    { k with leftScr := (if b.evicted then [] else leftUnits b) ++ k.leftScr,
             mboxes := k.mboxes.map fun m => if m.claim = b.handle then Mailbox.reset else m }
  let s := ((List.range 8).filter fun n => (k.mboxes.getD n Mailbox.reset).claim = b.handle).foldl
    (fun s n => s.returnCount b.die b.core n) s
  ({ s with bundles := s.bundles.filter fun x => x.handle != b.handle,
            deposits := s.deposits.filter fun x => x.bundle != b.handle } : State).fire fun _ w =>
    match w with | .grant h _ => h = b.handle | _ => false

/-- A bundle without members and without commands in flight dissolves (R37). -/
def State.dissolveIfDone (s : State) (h : Nat) : State :=
  match s.bundle? h with
  | some b => if (s.memberList h).isEmpty && !s.bundleNamed h then s.dissolve b else s
  | none => s

/-- The strand leaves the bundle it is in (R32). -/
def State.leave (s : State) (st : Strand) : State :=
  match st.bundle with
  | some (h, _) => (s.putStrand { st with bundle := none }).dissolveIfDone h
  | none => s.putStrand st

/-- One free block or unit handed out: the choice among what was left and what nobody has held belongs to the
implementation (R73, R74); contents of another domain are not seen. -/
def takeLeft {α : Type} (pdom : Nat) (l : List (Left α)) (free : Nat) : List α × List (Left α) × Nat :=
  if l.isEmpty then ([], l, free)
  else
    let i := Config.freeNat free % (l.length + 1)
    match l[i]? with
    | some x => (if x.pdom = pdom then x.data else [], l.eraseIdx i, free + 1)
    | none => ([], l, free + 1)

/-- n blocks of `w` registers for a strand of a domain (R73); a block nobody has held reads zero (assumption 5). -/
def grantBlocks {α : Type} (zero : α) (w pdom : Nat) (l : List (Left α)) (free : Nat) : Nat → List α × List (Left α) × Nat
  | 0 => ([], l, free)
  | n + 1 =>
    let (x, l, free) := takeLeft pdom l free
    let (xs, l, free) := grantBlocks zero w pdom l free n
    ((if x.length = w then x else List.replicate w zero) ++ xs, l, free)

/-- n scratchpad units from unit i on, as cells by offset in the grant (R74). -/
def grantUnits (pdom : Nat) (l : List (Left Host.Cell)) (free i : Nat) : Nat → List Host.Cell × List (Left Host.Cell) × Nat
  | 0 => ([], l, free)
  | n + 1 =>
    let (x, l, free) := takeLeft pdom l free
    let (xs, l, free) := grantUnits pdom l free (i + 1) n
    ((x.map fun (a, b) => (1024 * i + a, b)) ++ xs, l, free)

/-- A list cut into blocks of w. -/
def chunks {α : Type} (w : Nat) (l : List α) : Nat → List (List α)
  | 0 => []
  | n + 1 => l.take w :: chunks w (l.drop w) n

/-- Blocks from `from_` on return to the allocator with what they hold (R36, R72, R73). -/
def State.releaseBlocks (s : State) (st : Strand) (fromS fromV : Nat) : State :=
  let k := s.core st.at_.die st.at_.core
  let mk {α : Type} (l : List (List α)) : List (Left α) := l.map fun x => { pdom := st.pdom.toNat, data := x }
  s.setCore st.at_.die st.at_.core
    { k with leftS := mk ((chunks 32 st.sregs st.nsb).drop fromS) ++ k.leftS,
             leftV := mk ((chunks 16 st.vregs st.nvb).drop fromV) ++ k.leftV }

/-- Strands resident on a core. -/
def State.onCore (s : State) (d c : Nat) : List Strand := s.strands.filter fun st => st.at_.die = d && st.at_.core = c

/-- Register blocks granted on a core (R71). -/
def State.usedS (s : State) (d c : Nat) : Nat := (s.onCore d c).foldl (fun n st => n + st.nsb) 0
def State.usedV (s : State) (d c : Nat) : Nat := (s.onCore d c).foldl (fun n st => n + st.nvb) 0

/-- Scratchpad KiB granted on a core, and bundles resident there (R31, R116). -/
def State.resident (s : State) (d c : Nat) : List Bundle :=
  s.bundles.filter fun b => b.die = d && b.core = c && !b.evicted
def State.usedKiB (s : State) (d c : Nat) : Nat := (s.resident d c).foldl (fun n b => n + b.grant) 0

/-- A bundle handle not in use, at or after `h` (R31; assumption 18). -/
def freeHandle (used : List Nat) (h : Nat) : Nat → Nat
  | 0 => h
  | n + 1 => if h % 2 ^ 32 = 0 || used.contains (h % 2 ^ 32) then freeHandle used (h % 2 ^ 32 + 1) n else h % 2 ^ 32

/-- A barrier at creation with an expected count (R225). -/
def Bar.fresh (exp : Nat) : Bar := { exp := exp, arr := 0, pend := 0, phase := 0 }

/-- A new bundle on a core: its handle, and the state that holds it (R31, R74, R225). -/
def State.newBundle (s : State) (d c : Nat) (pdom : BitVec 8) (task grant exp : Nat) : Nat × State :=
  let h := freeHandle (s.bundles.map Bundle.handle) s.hg.nextHandle (s.bundles.length + 2)
  let k := s.core d c
  let (cells, left, free) := grantUnits pdom.toNat k.leftScr s.free 0 grant
  let b : Bundle :=
    { handle := h, die := d, core := c, pdom := pdom, task := task, grant := grant, scratch := cells, poison := [],
      bars := List.replicate 16 (Bar.fresh exp), commons := List.replicate 32 0, arrive := 0, evicted := false, evicting := false,
      saved := [], bw := (0, 0) }
  let s := s.setCore d c { k with leftScr := left }
  (h, { s with bundles := s.bundles ++ [b], hg := { s.hg with nextHandle := h + 1 }, free := free })

/-- The lowest member index not in use (R32). -/
def lowestFree (used : List Nat) (i : Nat) : Nat → Nat
  | 0 => i
  | n + 1 => if used.contains i then lowestFree used (i + 1) n else i

/-- The strand's slot is freed: its blocks return, its membership ends, its flags enter its task's EXC (R36, R64). -/
def State.endStrand (s : State) (st : Strand) : State :=
  let s := s.releaseBlocks st 0 0
  let s := s.mapTask st.task fun t => { t with exc := t.exc ||| st.fpflags, strandsLeft := t.strandsLeft - 1 }
  let k := s.core st.at_.die st.at_.core
  let s := s.setCore st.at_.die st.at_.core
    { k with waitS := k.waitS.filter (· != st.at_), waitV := k.waitV.filter (· != st.at_) }
  let s := { s with strands := s.strands.filter fun x => x.at_ != st.at_ }
  match st.bundle with
  | some (h, _) => s.dissolveIfDone h
  | none => s

end Sys2Proof.Machine
end

