-- ==== Sys2Proof/Machine/Cache.lean ====
section
/-! DEFINITION. Homes, caches with leases, L2 occupancy, and cross-die writes (06 R115, R124 to R130; 07 R148 to R150;
21 R372, R375). -/
namespace Sys2Proof.Machine

/-- Where a physical address is homed (R115). An address at or above 2^48 stands for the atom of a part that the companion
owns and that is accessed there, under DRA (R136): die 3. -/
inductive Home where
  | dram (die : Nat)
  | regs
  | host
  deriving DecidableEq, Repr

def homeOf (pa : Nat) : Home :=
  if pa < 2 ^ 36 then .dram 1 else if pa < 2 ^ 37 then .dram 2 else if pa < 2 ^ 47 then .regs
  else if pa < 2 ^ 48 then .host else .dram 3

/-- The 32 bytes of an atom at its home. -/
def State.atomData (s : State) (a : Nat) : Vec := BitVec.ofNat 256 (readNat s.mem (32 * a) 32)

/-- 32 bytes of the companion's memory, which its own agents may write at any time: a free value (assumption 20). -/
def State.freeVec (s : State) : Vec × State :=
  (ofElems 64 4 fun j => Config.freeWord64 (s.free + j), { s with free := s.free + 4 })

/-- The bytes of an atom at home k. -/
def State.homeAtom (s : State) (k atom : Nat) : Vec × State := if k = 3 then s.freeVec else (s.atomData atom, s)

/-- Bytes of an atom replaced from byte `off` on. -/
def setBytes (v : Vec) (off : Nat) : List Byte → Vec
  | [] => v
  | b :: bs =>
    setBytes ((v &&& ~~~(0xFF#256 <<< (8 * off))) ||| (b.zeroExtend 256 <<< (8 * off))) (off + 1) bs

/-- Bytes of an atom. -/
def getBytes (v : Vec) (off n : Nat) : Nat := v.toNat / 2 ^ (8 * off) % 2 ^ (8 * n)

/-- Bytes at an address cut at atom boundaries. -/
def splitAtoms (pa : Nat) (bs : List Byte) : Nat → List (Nat × List Byte)
  | 0 => []
  | n + 1 =>
    if bs.isEmpty then []
    else (pa, bs.take (32 - pa % 32)) :: splitAtoms (pa + (32 - pa % 32)) (bs.drop (32 - pa % 32)) n

def atomPieces (pa : Nat) (bs : List Byte) : List (Nat × List Byte) := splitAtoms pa bs (bs.length / 32 + 2)

/-- Watches on the line of an address fire (R223). -/
def State.fireLine (s : State) (pa : Nat) : State :=
  s.fire fun _ w => match w with | .line q _ _ => q / 128 = pa / 128 | _ => false

/-- A write to a part of the pool that backs companion-homed pages is noted for the next cistern step (R310, R312). -/
def State.noteDirty (s : State) (pa : Nat) : State :=
  let lo := s.link.back.toNat
  if s.link.paired && lo ≤ pa && pa < lo + s.link.backn.toNat * 2 ^ 21 then
    { s with link := { s.link with dirty := insertNat (pa / 2 ^ 16) s.link.dirty } }
  else s

/-- A write within one atom applied at its home: merged under its byte enables (R127); a write of the whole atom clears
poison, and LOST too when `strong` (R372, R375). -/
def State.homeWriteAtom (s : State) (pa : Nat) (bs : List Byte) (strong : Bool) : State :=
  let whole := pa % 32 = 0 && bs.length = 32
  let s := { s with mem := writeBytes s.mem pa bs,
                    poison := if whole then s.poison.filter (· != pa / 32) else s.poison,
                    lost := if whole && strong then s.lost.filter (· != pa / 32) else s.lost }
  (s.noteDirty pa).fireLine pa

/-- A write applied at its home, atom by atom. -/
def State.homeWrite (s : State) (pa : Nat) (bs : List Byte) (strong : Bool) : State :=
  (atomPieces pa bs).foldl (fun s p => s.homeWriteAtom p.1 p.2 strong) s

/-! ### Events of the caches (R322) -/

/-- To whom an event of the access in hand is attributed: the task of the issuing strand, none when no strand issues. -/
def State.curWho (s : State) : List (Nat × Bool) := match s.curStrand with | some st => s.who st.task | none => []

/-- An event of a cache, counted at the end of the cycle; none when its count is zero. -/
def State.noteCache (s : State) (d : Nat) (c : Option Nat) (src n : Nat) (who : List (Nat × Bool)) : State :=
  if n = 0 then s else { s with evBuf := s.evBuf ++ [{ die := d, core := c, src := src, n := n, who := who }] }

/-- Events of the caches noted since place `from_` that belong to no task yet are given to a task; a fill of the L2 keeps its own
PARTID, and a lease expiry belongs to no task. -/
def State.tagNotes (s : State) (from_ : Nat) (who : List (Nat × Bool)) : State :=
  let tag (e : EvNote) : EvNote :=
    if e.src = 66 then { e with who := e.who.map fun p => (p.1, p.2 || who.any fun q => q.2) }
    else if e.who.isEmpty && e.src != 9 then { e with who := who }
    else e
  { s with evBuf := s.evBuf.take from_ ++ (s.evBuf.drop from_).map tag }

/-- The load entries of a core's reuse table that a test names are killed (R86); entries of computations stay. -/
def Core.killLoads (k : Core) (dead : ReuseLoad → Bool) : Core :=
  { k with reuse := k.reuse.filter fun e => match e.load with | some l => !dead l | none => true }

/-- Load entries of the reuse tables that a removal has killed, counted core by core. -/
def State.noteKills (t s : State) : State :=
  t.cores.foldl (fun (u : State) (q : (Nat × Nat) × Core) =>
    u.noteCache q.1.1 (some q.1.2) 10 ((s.core q.1.1 q.1.2).reuse.length - q.2.reuse.length) s.curWho) t

/-! ### L1 and RDC -/

/-- The live sector of an atom: a sector invalidates itself in its expiry cycle (R124). -/
def findSector (l : List Sector) (atom now : Nat) : Option Sector := l.find? fun x => x.atom = atom && now < x.expiry

/-- 128-byte lines of an L1, and of the RDC of a die (R17, R124). Which lines may stand together is not stated: a cache takes any
(assumption 11). -/
def l1Lines : Nat := 1024
def rdcLines (d : Nat) : Nat := if d = 0 then 2 ^ 20 else 2 ^ 18

/-- A live sector of the line of an atom: the line's expiry is its own (R124). -/
def findLine (l : List Sector) (atom now : Nat) : Option Sector := l.find? fun x => x.atom / 4 = atom / 4 && now < x.expiry

/-- The line of an atom becomes the most recently used. -/
def useLine (l : List Sector) (atom : Nat) : List Sector :=
  (l.filter fun x => x.atom / 4 = atom / 4) ++ l.filter fun x => x.atom / 4 != atom / 4

/-- With `cap` lines held, the least recently used one gives up its place (R126). -/
def makeRoom (l : List Sector) (cap : Nat) : List Sector :=
  if (l.map fun x => x.atom / 4).eraseDups.length < cap then l
  else match l.getLast? with | some x => l.filter fun y => y.atom / 4 != x.atom / 4 | none => l

/-- A sector filled in a cache of `cap` lines. A line that is held keeps its expiry, which its first fill has set (R124, R144); another is
allocated, as the most recently used, or as the least recently used under the streaming hint (R126). A sector that holds writes
not yet acknowledged keeps their count (R153). -/
def fillSector (l : List Sector) (cap atom : Nat) (data : Vec) (mark now lease hint : Nat) : List Sector :=
  let old := match findSector l atom now with | some x => x.unacked | none => 0
  let new (e : Nat) : Sector := { atom := atom, data := data, mark := mark, filled := now, expiry := e, unacked := old }
  match findLine l atom now with
  | some y => new y.expiry :: useLine (l.filter fun x => x.atom != atom) atom
  | none =>
    let rest := makeRoom (l.filter fun x => x.atom / 4 != atom / 4) cap
    if hint = 2 then rest ++ [new (now + lease)] else new (now + lease) :: rest

/-- The marks of an atom after a write: one of the whole atom clears poison, and LOST too when strong (R372, R375). -/
def markAfter (mark pa : Nat) (bs : List Byte) (strong : Bool) : Nat :=
  if pa % 32 = 0 && bs.length = 32 then (if strong then 0 else mark / 2 * 2) else mark

/-- A write of the holder updates a sector present (R124), and stands in it until acknowledged when `sent`. -/
def writeSector (l : List Sector) (pa : Nat) (bs : List Byte) (sent strong : Bool) : List Sector :=
  l.map fun x =>
    if x.atom = pa / 32 then
      { x with data := setBytes x.data (pa % 32) bs, mark := markAfter x.mark pa bs strong,
               unacked := x.unacked + if sent then 1 else 0 }
    else x

/-- An acknowledgement reaches the sectors that hold the write. -/
def ackSector (l : List Sector) (atom : Nat) : List Sector :=
  l.map fun x => if x.atom = atom then { x with unacked := x.unacked - 1 } else x

def Core.lease (k : Core) : Nat := max k.leaseL1.toNat 64
def Die.lease (d : Die) : Nat := max d.leaseRdc.toNat 1024

/-- The lease of the RDC of a die; GX takes GX_LEASE_RDC (R124, R125). -/
def State.rdcLease (s : State) (d : Nat) : Nat :=
  if d = 0 then max (s.gx.leaseRdc.toNat % 2 ^ 32) 1024 else (s.die d).lease

/-- Load entries whose physical 2 KiB region is written are killed (R86). -/
def Core.killRegion (k : Core) (pa : Nat) : Core := k.killLoads fun l => l.atoms.any fun a => a * 32 / 2048 = pa / 2048

/-- A sector installed in a core's L1 (R124). A line that it finds expired has expired before, with its load entries (R86). -/
def State.fillL1 (s : State) (d c atom : Nat) (data : Vec) (mark hint : Nat) : State :=
  let k := s.core d c
  let gone := if k.l1.any fun x => x.atom / 4 = atom / 4 && x.expiry ≤ s.cycle then 1 else 0
  let k' := if gone = 0 then k else k.killLoads fun l => l.atoms.any fun a => a / 4 = atom / 4
  let s := (s.noteCache d (some c) 9 gone []).noteCache d (some c) 10 (k.reuse.length - k'.reuse.length) s.curWho
  s.setCore d c { k' with l1 := fillSector k.l1 l1Lines atom data mark s.cycle k.lease hint }

/-- A sector installed in a die's RDC. -/
def State.fillRdc (s : State) (d atom : Nat) (data : Vec) (mark hint : Nat) : State :=
  let x := s.die d
  s.setDie d { x with rdc := fillSector x.rdc (rdcLines d) atom data mark s.cycle (s.rdcLease d) hint }

/-- A hit in the L1 of a core, or in the RDC of a die, makes the line the most recently used (R126). -/
def State.useL1 (s : State) (d c atom : Nat) : State :=
  let k := s.core d c
  s.setCore d c { k with l1 := useLine k.l1 atom }
def State.useRdc (s : State) (d atom : Nat) : State :=
  let x := s.die d
  s.setDie d { x with rdc := useLine x.rdc atom }

/-! ### L2 occupancy -/

/-- The slice of a line (R128). -/
def sliceOf (group base line : Nat) : Nat :=
  match group with
  | 0 => Config.sliceHash line % 512
  | 1 => base + Config.sliceHash line % 16
  | 2 => base + Config.sliceHash line % 4
  | _ => base

def L2Line.slice (l : L2Line) : Nat := sliceOf l.group l.base l.line

/-- Ways permitted to a PARTID (R129). -/
def Die.ways (d : Die) (partid : Nat) : BitVec 16 :=
  let m := d.waymask.getD partid 0xFFFF
  if m = 0 then 0xFFFF else m

/-- The lines of an L2 slice that stand in the set of a line, most recently used first. -/
def Die.l2Set (d : Die) (line group base : Nat) : List L2Line :=
  d.l2.filter fun x => x.line % 64 = line % 64 && x.slice = sliceOf group base line

/-- The way a fill takes: the lowest invalid permitted way, else that of the least recently used permitted line (R129). -/
def Die.l2Way (d : Die) (line : Nat) (p : L2Place) : Nat :=
  let same := d.l2Set line p.group p.base
  let ways := onesOf (d.ways p.partid).toNat 16
  match ways.find? fun w => !same.any fun x => x.way = w with
  | some w => w
  | none => match (same.reverse.find? fun x => ways.contains x.way) with | some x => x.way | none => 0

/-- The line that a fill replaces, if its way is taken. -/
def Die.l2Victim (d : Die) (line : Nat) (p : L2Place) : Option L2Line :=
  (d.l2Set line p.group p.base).find? fun x => x.way = d.l2Way line p

/-- A line filled at its L2 slice: most recently used, or least recently under the streaming hint (R126, R129). -/
def Die.l2Fill (d : Die) (line : Nat) (p : L2Place) (dirty : Bool) : Die :=
  let keep := match d.l2Victim line p with | some v => d.l2.filter (· != v) | none => d.l2
  let x : L2Line := { line := line, group := p.group, base := p.base, way := d.l2Way line p, partid := p.partid, dirty := dirty }
  { d with l2 := if p.hint = 2 then keep ++ [x] else x :: keep }

/-- A hit of a line at its L2 slice: it is the most recently used, and dirty once it has been written (R124). -/
def Die.l2Use (d : Die) (line : Nat) (dirty : Bool) : Die :=
  match d.l2.find? fun x => x.line = line with
  | some x => { d with l2 := { x with dirty := x.dirty || dirty } :: d.l2.filter fun y => y.line != line }
  | none => d

/-- Valid lines of a slice that a PARTID filled (R130). -/
def Die.occ (d : Die) (partid : Nat) : Nat :=
  (d.l2.filter fun x => x.partid = partid && x.slice = d.occsel.toNat).length

/-- An access that reaches the L2 of its home (R124, R126, R129): a hit, or a miss and, unless the hint forbids or the access has no
PARTID, a fill, which belongs to the PARTID of R129 and may write a dirty line back. A line is filled and written back whole; a miss
that fills nothing reads or writes its one atom (assumption 11). -/
def State.l2Touch (s : State) (pa : Nat) (pl : Option L2Place) (write : Bool) : State :=
  match homeOf pa with
  | .dram d =>
    let who := s.curWho
    let line := pa / 128
    if (s.die d).l2.any fun x => x.line = line then
      let s := s.noteCache d none 64 1 who
      s.setDie d ((s.die d).l2Use line write)
    else
      let s := s.noteCache d none 65 1 who
      match pl with
      | some p =>
        if p.hint = 3 then s.noteCache d none (if write then 78 else 77) 1 who
        else
          let s := (s.noteCache d none 66 1 [(p.partid, who.any fun q => q.2)]).noteCache d none 77 4 who
          let s := match (s.die d).l2Victim line p with
            | some v => s.noteCache d none 78 (if v.dirty then 4 else 0) [(v.partid, false)]
            | none => s
          s.setDie d ((s.die d).l2Fill line p write)
      | none => s.noteCache d none (if write then 78 else 77) 1 who
  | _ => s

/-! ### Clock rows and cross-die writes -/

/-- a is at least c on 16-bit counters (R150). -/
def atLeast (a c : Nat) : Bool := (a + 2 ^ 16 - c % 2 ^ 16) % 2 ^ 16 < 2 ^ 15

def State.row (s : State) (d k : Nat) : List Nat := (s.die d).rows.getD k [0, 0, 0, 0]
def State.setRow (s : State) (d k : Nat) (r : List Nat) : State :=
  let x := s.die d
  s.setDie d { x with rows := x.rows.set k r }

/-- A reply from home k raises the row of die d for k to APPLIED (R149). -/
def State.raiseRow (s : State) (d k : Nat) : State :=
  s.setRow d k (List.zipWith (fun a c => if atLeast c a then c else a) (s.row d k) (s.die k).applied)

/-- Whether home k has applied every write a request's row names (R149). -/
def State.served (s : State) (k : Nat) (row : List Nat) : Bool :=
  (List.zipWith (fun a r => atLeast a r) (s.die k).applied row).all id

/-- The acknowledgement counter of a core, or of die 0 (R148); the companion keeps its own. -/
def State.addOutstanding (s : State) (d : Nat) (core : Option Nat) (f : Nat → Nat) : State :=
  match core with
  | some c => let k := s.core d c; s.setCore d c { k with outstanding := f k.outstanding }
  | none => if d = 3 then s else { s with gx := { s.gx with outstanding := f s.gx.outstanding } }

/-- A write of die d to home k leaves (R149). -/
def State.sendWrite (s : State) (d k : Nat) (core : Option Nat) (pa : Nat) (bs : List Byte) (strong : Bool) (pl : Option L2Place) :
    State :=
  let r := s.row d k
  let r := r.set d ((r.getD d 0 + 1) % 2 ^ 16)
  let s := (s.setRow d k r).addOutstanding d core (· + 1)
  let who := s.curStrand
  { s with
    nextId := s.nextId + 1
    xwrites := s.xwrites ++
      [{ id := s.nextId, src := d, dst := k, core := core, pa := pa, bytes := bs, whole := strong, row := r,
         since := s.cycle, overdue := 0, applied := false, poison := false,
         task := match who with | some st => st.taskId.toNat | none => 0,
         pdom := match who with | some st => st.pdom.toNat | none => 0, place := pl }] }

/-- Whether a die may send another write toward a home: fewer than 2^15 − 1 of its own are unacknowledged (R150). -/
def State.linkFull (s : State) (d pa : Nat) : Bool :=
  match homeOf pa with
  | .dram k => k != d && (s.xwrites.filter fun w => w.src = d && w.dst = k).length ≥ 2 ^ 15 - 1
  | _ => false

/-- Writes sent since the number `from_` are those of a task (R368). -/
def State.tagWrites (s : State) (from_ task pdom : Nat) : State :=
  { s with xwrites := s.xwrites.map fun w => if from_ ≤ w.id then { w with task := task, pdom := pdom } else w }

/-- Fills in flight that an invalidation meets are not installed where it acts (R154). -/
def State.spoilFills (s : State) (l1 rdc : XRead → Bool) : State :=
  { s with xreads := s.xreads.map fun r => { r with noL1 := r.noL1 || l1 r, noRdc := r.noRdc || rdc r } }

/-- A write of one atom by an agent of die d: its own L1 and RDC sectors are updated, its home applies it or it is sent
there (R124, R127, R148). `core` is the core whose agent writes, none for a GX unit. A fill of the atom that the die has asked for before
would not hold the bytes: it is installed nowhere (R143). -/
def State.writeAtom (s : State) (d : Nat) (core : Option Nat) (pa : Nat) (bs : List Byte) (strong : Bool) (pl : Option L2Place) :
    State :=
  let away := match homeOf pa with | .dram k => k != d | _ => false
  let s := match core with
    | some c =>
      let k := s.core d c
      let k' := k.killRegion pa
      (s.noteCache d (some c) 10 (k.reuse.length - k'.reuse.length) s.curWho).setCore d c
        { k' with l1 := writeSector k.l1 pa bs away strong }
    | none => s
  match homeOf pa with
  | .dram k =>
    if k = d then (s.l2Touch pa pl true).homeWriteAtom pa bs strong
    else
      let x := s.die d
      let s := s.spoilFills (fun r => r.src = d && r.pa / 32 = pa / 32) (fun r => r.src = d && r.pa / 32 = pa / 32)
      (s.setDie d { x with rdc := writeSector x.rdc pa bs true strong }).sendWrite d k core pa bs strong pl
  | .host => s.homeWriteAtom pa bs strong
  | .regs => s

/-- A write of bytes that come from a marked atom (R372): the atom written is marked poisoned at its home. -/
def State.writeAtomPoisoned (s : State) (d : Nat) (core : Option Nat) (pa : Nat) (bs : List Byte) (pl : Option L2Place) : State :=
  let bad (l : List Sector) : List Sector := l.map fun x => if x.atom = pa / 32 then { x with mark := 1 } else x
  let id := s.nextId
  let s := s.writeAtom d core pa bs false pl
  let s := match core with | some c => let k := s.core d c; s.setCore d c { k with l1 := bad k.l1 } | none => s
  let x := s.die d
  let s := s.setDie d { x with rdc := bad x.rdc }
  match homeOf pa with
  | .dram k =>
    if k = d then { s with poison := insertNat (pa / 32) s.poison }
    else { s with xwrites := s.xwrites.map fun w => if w.id = id then { w with poison := true } else w }
  | .host => { s with poison := insertNat (pa / 32) s.poison }
  | .regs => s

/-- A write of any length, atom by atom. -/
def State.writeMem (s : State) (d : Nat) (core : Option Nat) (pa : Nat) (bs : List Byte) (strong : Bool) (pl : Option L2Place) : State :=
  (atomPieces pa bs).foldl (fun s p => s.writeAtom d core p.1 p.2 strong pl) s

/-- An atom as an agent of die d reads it: from L1, from the RDC when it is homed elsewhere, from its home when the home
lies on the die or is host memory; none when it must be asked of another die. -/
def State.lookAtom (s : State) (d : Nat) (core : Option Nat) (atom : Nat) : Option (Vec × Nat) :=
  let hit := match core with | some c => findSector (s.core d c).l1 atom s.cycle | none => none
  match hit with
  | some x => some (x.data, x.mark)
  | none =>
    match homeOf (32 * atom) with
    | .dram k =>
      if k = d then some (s.atomData atom, s.atomMark atom)
      else (findSector (s.die d).rdc atom s.cycle).map fun x => (x.data, x.mark)
    | _ => some (s.atomData atom, s.atomMark atom)

/-- What a read leaves in the caches (R124, R126): L1 unless the hint forbids, then the RDC of the die and the L2 of the home, each
where the one before does not hold the bytes; a hit makes its line the most recently used. -/
def State.noteRead (s : State) (d : Nat) (core : Option Nat) (pa : Nat) (pl : L2Place) (data : Vec) (mark : Nat) : State :=
  let atom := pa / 32
  let inL1 := match core with | some c => (findSector (s.core d c).l1 atom s.cycle).isSome | none => false
  let who := s.curWho
  let s := match core with
    | some c =>
      let s := s.noteCache d (some c) (if inL1 then 7 else 8) 1 who
      if inL1 then s.useL1 d c atom else if pl.hint = 3 then s else s.fillL1 d c atom data mark pl.hint
    | none => s
  if inL1 then s
  else
    match homeOf pa with
    | .dram k =>
      if k = d then s.l2Touch pa (some pl) false
      else
        let inRdc := (findSector (s.die d).rdc atom s.cycle).isSome
        let s := s.noteCache d none (if inRdc then 67 else 68) 1 who
        if inRdc then s.useRdc d atom
        else (if pl.hint = 3 then s else s.fillRdc d atom data mark pl.hint).l2Touch pa (some pl) false
    | _ => s

/-- A read by an engine or a GX unit: at once when the bytes are cached or homed on the die, or when the home has applied
every write of the die's row (R149); none while it has not. -/
def State.unitAtom (s : State) (d : Nat) (core : Option Nat) (pa : Nat) (pl : L2Place) : Option (Vec × Nat × State) :=
  match s.lookAtom d core (pa / 32) with
  | some (v, m) => some (v, m, s.noteRead d core pa pl v m)
  | none =>
    match homeOf pa with
    | .dram k =>
      if s.served k (s.row d k) then
        let (v, s) := s.homeAtom k (pa / 32)
        let m := s.atomMark (pa / 32)
        some (v, m, (s.raiseRow d k).noteRead d core pa pl v m)
      else none
    | _ => none

/-! ### Invalidation -/

/-- The invalidation of an acquire (R153): scope 0 .b, 1 .d, 2 .v, 3 .s; sectors with writes not yet acknowledged are
spared, and fills in flight are not installed where it acts (R154). At bundle scope it kills the load entries made by members of the
bundle, those made before they joined among them (R86). -/
def State.acquire (s : State) (d c scope : Nat) (bundle : Option Nat) (who : SRef) : State :=
  let k := s.core d c
  let member (r : SRef) (h : Nat) : Bool := s.strands.any fun st => st.at_ = r && st.bundle.map Prod.fst = some h
  let k' := k.killLoads fun l =>
    scope != 0 || match bundle with
      | some h => l.bundle = some h || member l.maker h
      | none => l.maker = who
  let l1 := if scope = 0 then k.l1 else k.l1.filter fun x => x.unacked > 0
  let s := (s.noteCache d (some c) 10 (k.reuse.length - k'.reuse.length) s.curWho).setCore d c { k' with l1 := l1 }
  let s := s.spoilFills (fun r => scope != 0 && r.src = d && r.strand.core = c) (fun r => 2 ≤ scope && r.src = d)
  if scope < 2 then s
  else let x := s.die d; s.setDie d { x with rdc := x.rdc.filter fun y => y.unacked > 0 }

/-- The invalidation that device-scope acquires make on the GX RDC (R125). -/
def State.gxAcquire (s : State) : State :=
  let x := s.die 0
  s.setDie 0 { x with rdc := x.rdc.filter fun y => y.unacked > 0 }

/-- An acquire at system scope by the device as a whole, as the new owner of a part makes it (R152): every L1, every load entry and every
RDC, with the fills in flight; sectors that hold writes not yet acknowledged are spared. -/
def State.acquireAll (s : State) : State :=
  (({ s with
    cores := s.cores.map fun (p, k) => (p, { k.killLoads (fun _ => true) with l1 := k.l1.filter fun x => x.unacked > 0 })
    dies := s.dies.map fun (p, d) => (p, { d with rdc := d.rdc.filter fun x => x.unacked > 0 }) } : State).spoilFills
      (fun _ => true) (fun _ => true)).noteKills s

/-- Every cached copy of a physical range is removed, on every die, with its load entries (R135). -/
def State.dropCopies (s : State) (lo hi : Nat) : State :=
  let out (a : Nat) : Bool := a * 32 < lo || hi ≤ a * 32
  let keep (x : Sector) : Bool := out x.atom
  (({ s with
    cores := s.cores.map fun (p, k) => (p, { k.killLoads (fun l => !l.atoms.all out) with l1 := k.l1.filter keep })
    dies := s.dies.map fun (p, d) => (p, { d with rdc := d.rdc.filter keep }) } : State).spoilFills
      (fun r => !out (r.pa / 32)) (fun r => !out (r.pa / 32))).noteKills s

end Sys2Proof.Machine
end

