-- ==== Sys2Proof/Machine/CrossDie.lean ====
section
/-! DEFINITION. Cross-die writes: how a home applies one, how its acknowledgement comes back, and the releases of the GX die
(07 R148, R149, R153; 21 R378). -/
namespace Sys2Proof.Machine

/-- Whether a home may apply a write: it is the next of its sender, and every write its row names has been applied (R149). -/
def State.writeReady (s : State) (w : XWrite) : Bool :=
  let ap := (s.die w.dst).applied
  !w.applied && (List.range 4).all fun j =>
    if j = w.src then (ap.getD j 0 + 1) % 2 ^ 16 = w.row.getD j 0 else atLeast (ap.getD j 0) (w.row.getD j 0)

/-- A home applies a write (R149): the bytes, APPLIED, and the acknowledgement on its way. A write toward the companion goes
to its memory (R136), and fires the watches on its line (R223). -/
def State.applyWrite (s : State) (w : XWrite) : State :=
  let s :=
    if w.dst = 3 then
      ({ s with link := { s.link with kmem := writeBytes s.link.kmem (w.pa - 2 ^ 48) w.bytes } } : State).fireLine w.pa
    else
      let s := ((s.l2Touch w.pa w.place true).tagNotes s.evBuf.length (s.who (s.keyOf w.task))).homeWrite w.pa w.bytes w.whole
      if w.poison then { s with poison := insertNat (w.pa / 32) s.poison } else s
  let x := s.die w.dst
  let s := s.setDie w.dst { x with applied := x.applied.set w.src ((x.applied.getD w.src 0 + 1) % 2 ^ 16) }
  { s with xwrites := s.xwrites.map fun v => if v.id = w.id then { v with applied := true } else v }

/-- An acknowledgement arrives (R148, R149): the row rises to APPLIED and the counter falls. -/
def State.ackWrite (s : State) (w : XWrite) : State :=
  let s := (s.raiseRow w.src w.dst).addOutstanding w.src w.core (· - 1)
  let s := match w.core with
    | some c => let k := s.core w.src c; s.setCore w.src c { k with l1 := ackSector k.l1 (w.pa / 32) }
    | none => s
  let x := s.die w.src
  let s := s.setDie w.src { x with rdc := ackSector x.rdc (w.pa / 32) }
  { s with xwrites := s.xwrites.filter fun v => v.id != w.id }

/-- CROSS_DIE_WRITE_APPLY (R149). -/
def execCrossDieWriteApply (id : Nat) (s : State) : Host.Outcome State Fault Refusal :=
  match s.xwrites.find? fun w => w.id = id with
  | some w => .next (if s.writeReady w then s.applyWrite w else s)
  | none => .next s

/-- WRITE_ACKNOWLEDGE (R148). -/
def execWriteAcknowledge (id : Nat) (s : State) : Host.Outcome State Fault Refusal :=
  match s.xwrites.find? fun w => w.id = id with
  | some w => .next (if w.applied then s.ackWrite w else s)
  | none => .next s

/-- Writes of the GX die that are still to be acknowledged are applied, with those of other dies that must come first, and
acknowledged: the waits of a release by the Headgate or a GX unit (R148, R153; assumption 7). -/
def State.drainGx (s : State) : Nat → State
  | 0 => s
  | n + 1 =>
    match s.xwrites.find? fun w => w.src = 0 with
    | none => s
    | some w =>
      if w.applied then (s.ackWrite w).drainGx n
      else if s.writeReady w then (s.applyWrite w).drainGx n
      else
        match s.xwrites.find? fun v => v.dst = w.dst && s.writeReady v with
        | some v => (s.applyWrite v).drainGx n
        | none => s

/-- Room for one more write of a die toward a home (R150): where the limit stands in the way, the oldest writes are applied and
acknowledged first. -/
def State.linkRoom (s : State) (d pa : Nat) : Nat → State
  | 0 => s
  | n + 1 =>
    if !s.linkFull d pa then s
    else
      match s.xwrites.find? fun w => w.src = d && homeOf pa = .dram w.dst with
      | none => s
      | some w =>
        if w.applied then (s.ackWrite w).linkRoom d pa n
        else if s.writeReady w then (s.applyWrite w).linkRoom d pa n
        else
          match s.xwrites.find? fun v => v.dst = w.dst && s.writeReady v with
          | some v => (s.applyWrite v).linkRoom d pa n
          | none => s

/-- A release at device or system scope by the Headgate or a GX unit. -/
def State.gxRelease (s : State) : State := s.drainGx (2 * s.xwrites.length)

end Sys2Proof.Machine
end

