-- ==== Sys2Proof/Machine/Translate.lean ====
section
/-! DEFINITION. The generic address space, leaf entries, table walks, TLBs, the merge table and the supervisor fault queue
(06 R113, R131 to R134; 19 R347, R348, R351; 21 R368, R369; 03 R61). -/
namespace Sys2Proof.Machine

/-! ### TLBs -/

def findTlb (l : List TlbEntry) (pdom page : Nat) : Option Leaf :=
  (l.find? fun e => e.page = page && e.pdom = pdom).map TlbEntry.leaf

def putTlb (l : List TlbEntry) (n pdom page : Nat) (leaf : Leaf) : List TlbEntry :=
  ({ pdom := pdom, page := page, leaf := leaf } :: l.filter fun e => !(e.page = page && e.pdom = pdom)).take n

/-- A leaf enters an L2 TLB of 4,096 entries in 8 ways (R133): the page number picks the set, and the oldest entry of a full set goes
(assumption 10). -/
def putTlb2 (l : List TlbEntry) (pdom page : Nat) (leaf : Leaf) : List TlbEntry :=
  let rest := l.filter fun e => !(e.page = page && e.pdom = pdom)
  let same (e : TlbEntry) : Bool := e.page % 512 = page % 512
  { pdom := pdom, page := page, leaf := leaf } ::
    if rest.countP same < 8 then rest
    else match rest.reverse.find? same with | some o => rest.filter (· != o) | none => rest

/-- The leaf the TLBs of a core hold for a page: its L1 TLB, then the L2 TLB of its die (R133). -/
def State.tlbLeaf (s : State) (d : Nat) (core : Option Nat) (pdom page : Nat) : Option Leaf :=
  match core.bind fun c => findTlb (s.core d c).tlb pdom page with
  | some l => some l
  | none => findTlb (s.die d).tlb pdom page

/-- A leaf found in the L2 TLB enters the core's L1 TLB (R133; capacities: assumption 10). -/
def State.tlbUse (s : State) (d c pdom page : Nat) : State :=
  match findTlb (s.core d c).tlb pdom page with
  | some _ => s
  | none =>
    match findTlb (s.die d).tlb pdom page with
    | some l => let k := s.core d c; s.setCore d c { k with tlb := putTlb k.tlb 64 pdom page l }
    | none => s

/-- A walk's leaf enters the L2 TLB of the die. -/
def State.tlbFill (s : State) (d pdom page : Nat) (l : Leaf) : State :=
  let x := s.die d
  s.setDie d { x with tlb := putTlb2 x.tlb pdom page l }

/-- Every TLB entry of a page changed (R134) or removed. -/
def State.tlbMap (s : State) (pdom page : Nat) (f : Leaf → Option Leaf) : State :=
  let g (l : List TlbEntry) : List TlbEntry := l.filterMap fun e =>
    if e.page = page && e.pdom = pdom then (f e.leaf).map fun x => { e with leaf := x } else some e
  { s with
    cores := s.cores.map fun (p, k) => (p, { k with tlb := g k.tlb })
    dies := s.dies.map fun (p, d) => (p, { d with tlb := g d.tlb }) }

/-- Whether a leaf serves an access to part k without a new walk: the part is present, moving, or remote with a companion
paired (R132, R369). -/
def State.usable (s : State) (l : Leaf) (k : Nat) : Bool :=
  match l.part k with
  | .absent => false
  | .remote => s.link.paired
  | _ => true

/-! ### Fault queue -/

/-- Whether a flash bank was accepted at boot; a device without one boots held (R393). -/
def State.booted (s : State) : Bool := s.mg.boot.getLsbD 0

/-- An MSI-X vector raised (R303); a device that boots held raises none (R393). -/
def State.raiseMsix (s : State) (v : Nat) : State :=
  if s.booted then { s with port := { s.port with msix := insertNat v s.port.msix } } else s

/-- MSI-X vector 2 and an in-band interrupt of the management port (R315, R392). -/
def State.raiseSecurity (s : State) : State :=
  let s := s.raiseMsix 2
  { s with port := { s.port with ibi := s.port.ibi + 1 } }

/-- The current power state (R326): a change raises both interrupts (R315). -/
def State.setPower (s : State) (p : BitVec 2) : State :=
  if s.mg.pwrCur = p then s else ({ s with mg := { s.mg with pwrCur := p } } : State).raiseSecurity

/-- Idle is left at a doorbell, queue tail, Azair message or I3C transfer (R326). -/
def State.leaveIdle (s : State) : State := if s.mg.pwrCur = 1 then s.setPower 0 else s

/-- A transfer of the management port that takes no effect leaves idle all the same (R326). -/
def State.i3cSeen (s : State) (m : Nat) : State := if m = 3 then s.leaveIdle else s

/-- Launches are held from a request for retention until the device is active again (R326). -/
def State.launchHeld (s : State) : Bool := s.mg.pwrReq = 2 || s.mg.pwrCur = 2

/-- A fault record lost: HG_FQTAIL [63:32] counts it, saturating (R351). -/
def Headgate.countLost (h : Headgate) : Headgate :=
  let n := h.fqtail.toNat / 2 ^ 32
  { h with fqtail := BitVec.ofNat 64 (h.fqtail.toNat % 2 ^ 32 + min (n + 1) (2 ^ 32 - 1) * 2 ^ 32) }

/-- The address of the next record of the fault queue (R351). -/
def Headgate.faultAddr (h : Headgate) : Nat :=
  h.fqbase.toNat % 2 ^ 57 / 32 * 32 + 32 * (h.fqtail.toNat % 2 ^ 32 % max h.fqsize.toNat 1)

/-- A record written at its place, and the TAIL advance, which is a release at device scope and raises MSI-X vector 1 (R351). -/
def State.putFault (s : State) (pa : Nat) (pl : L2Place) (record : Nat) : State :=
  let s := (s.writeMem 0 none pa (natBytesLE 32 record) false (some pl)).gxRelease
  let tail := s.hg.fqtail.toNat / 2 ^ 32 * 2 ^ 32 + (s.hg.fqtail.toNat % 2 ^ 32 + 1) % 2 ^ 32
  ({ s with hg := { s.hg with fqtail := BitVec.ofNat 64 tail } } : State).raiseMsix 1

/-- A 32-byte record for the supervisor fault queue (R351): discarded when the queue is disabled, discarded and counted when the ring
is full. It is written at once when the GX TLB holds its page and no earlier record waits; else it stands with the Headgate, which
writes the records in order as their pages translate (R61, `State.flushFaults`). -/
def State.appendFault (s : State) (record : Nat) : State :=
  let h := s.hg
  if h.fqbase = 0 then s
  else
    let used := (h.fqtail.toNat % 2 ^ 32 + 2 ^ 32 - h.fqhead.toNat % 2 ^ 32) % 2 ^ 32
    if used + h.fqPend.length ≥ max h.fqsize.toNat 1 then { s with hg := h.countLost }
    else
      let wait : State := { s with hg := { h with fqPend := h.fqPend ++ [record] } }
      let va := h.faultAddr
      if addrKind va ≠ .virt || !h.fqPend.isEmpty then wait
      else
        match findTlb (s.die 0).tlb 0 (pageOf va) with
        | some l => if l.w && l.part (partOf va) = .present then s.putFault (l.pa va) (l.place 0 0) record else wait
        | none => wait

/-- A record of kinds 1 to 4 (R351). -/
def State.faultRecord (s : State) (kind reason task arg : Nat) : State :=
  s.appendFault (kind + reason * 2 ^ 64 + task * 2 ^ 96 + arg % 2 ^ 64 * 2 ^ 128 + s.timeNs % 2 ^ 64 * 2 ^ 192)

/-- A record of kinds 16 to 21 (R368). -/
def State.memRecord (s : State) (kind reason count part acc die core pdom task addr : Nat) : State :=
  s.appendFault (kind + part % 32 * 2 ^ 8 + count % 2 ^ 32 * 2 ^ 32 + reason * 2 ^ 64 + acc * 2 ^ 76 + die * 2 ^ 79 +
    core * 2 ^ 81 + pdom * 2 ^ 88 + task * 2 ^ 96 + addr % 2 ^ 64 * 2 ^ 128 + s.timeNs % 2 ^ 64 * 2 ^ 192)

/-! ### The merge table -/

/-- The strand waits at a page (R133, R347); it has issued nothing. -/
def State.holdStrand (s : State) (r : SRef) (w : Wait) : State :=
  match s.strandAt r with
  | some st => s.putStrand (st.block s.cycle 0 false w)
  | none => s

/-- A miss of a strand in the L2 TLB of its die (R133, R369): it joins the page's entry, or a new entry starts the walk, or,
with all 256 entries in use, it waits. -/
def State.mergeMiss (s : State) (st : Strand) (acc va : Nat) : State :=
  let d := s.die st.at_.die
  let pdom := st.pdom.toNat
  let page := pageOf va
  match d.merge.find? fun e => e.page = page && e.pdom = pdom with
  | some e =>
    let e' := { e with strands := if e.strands.contains st.at_ then e.strands else e.strands ++ [st.at_] }
    let s := s.setDie st.at_.die { d with merge := d.merge.map fun x => if x = e then e' else x }
    let s := if e.strands.contains st.at_ then s else s.note st.at_.die none 72 1 st.task
    s.holdStrand st.at_ (if e.faulted then .parked st.at_.die pdom va else .walk st.at_.die pdom page)
  | none =>
    if d.merge.length ≥ 256 then s.holdStrand st.at_ .retry
    else
      let e : MergeEntry :=
        { pdom := pdom, page := page, root := s.ptroot pdom, strands := [st.at_], acc := acc, va := va,
          task := st.taskId.toNat, core := st.at_.core, walking := true, faulted := false,
          units := [] }
      ((s.setDie st.at_.die { d with merge := d.merge ++ [e] }).note st.at_.die none 71 1 st.task).holdStrand st.at_
        (.walk st.at_.die pdom page)

/-- Whether the merge table of a die holds a page whose walk has faulted (R369). -/
def State.pageFaulted (s : State) (d pdom page : Nat) : Bool :=
  (s.die d).merge.any fun e => e.page = page && e.pdom = pdom && e.faulted

/-- Strands that wait for a walk of a page, or are parked on it, issue their instructions again (R133, R348). -/
def State.reissuePage (s : State) (d : Nat) (hit : Nat → Nat → Bool) : State :=
  { s with strands := s.strands.map fun st =>
      match st.blocked with
      | some b =>
        (match b.wait with
         | .walk e pdom page => if e = d && hit pdom page then st.reissue s.cycle else st
         | .parked e pdom va => if e = d && hit pdom (pageOf va) then st.reissue s.cycle else st
         | _ => st)
      | none => st }

/-- The walk of a merge entry ends, from the root it began with (R133, R304, R369): every listed strand is served and the entry is freed, or one kind-16 record
is emitted. A listed strand then looks at its address again: it is parked on the faulted page unless another lane raises a
cause (R354). -/
def State.finishWalk (s : State) (d : Nat) (e : MergeEntry) : State :=
  let x := s.die d
  let hit (p q : Nat) : Bool := p = e.pdom && q = e.page
  match s.walkFrom e.root e.page (partOf e.va) with
  | .ok l => ((s.setDie d { x with merge := x.merge.filter (· != e) }).tlbFill d e.pdom e.page l).reissuePage d hit
  | .error reason =>
    let s := s.setDie d { x with merge := x.merge.map fun y => if y = e then { y with walking := false, faulted := true } else y }
    (s.reissuePage d hit).memRecord 16 reason e.strands.length (partOf e.va) e.acc d e.core e.pdom e.task e.va

/-- Waits on pages end on a die: their merge entries are freed and their strands issue again (R348). -/
def State.releasePage (s : State) (d : Nat) (hit : Nat → Nat → Bool) : State :=
  let x := s.die d
  (s.setDie d { x with merge := x.merge.filter fun e => !hit e.pdom e.page }).reissuePage d hit

/-! ### Units -/

/-- What an access of a unit comes to: it waits, is refused or not permitted, or stands at a physical address with the
place of its page. -/
inductive UnitTr where
  | wait (s : State)
  | fail (s : State)
  | ok (s : State) (pa : Nat) (pl : L2Place)

/-- A unit's access that waited for a part has been made (R135). -/
def State.dropUnitClaim (s : State) (u : UnitWait) (page part : Nat) : State :=
  if s.link.moves.isEmpty then s
  else
    { s with link := { s.link with moves := s.link.moves.map fun m =>
      if m.pdom = u.pdom && m.page = page && m.part = part && !m.out then { m with units := m.units.filter (· != u) } else m } }

/-- A unit's access waits for a part to come (R135): it joins the request of the part, or makes the first. -/
def State.unitAwaitPart (s : State) (u : UnitWait) (page part : Nat) : State :=
  let same (m : PartMove) : Bool := m.pdom = u.pdom && m.page = page && m.part = part && !m.out && !m.written
  let moves :=
    if s.link.moves.any same then
      s.link.moves.map fun m => if same m && !m.units.contains u then { m with units := m.units ++ [u] } else m
    else s.link.moves ++
      [{ pdom := u.pdom, page := page, part := part, out := false, requested := false, waiters := [], claims := [], units := [u],
         since := s.timePs, written := false }]
  { s with link := { s.link with moves := moves } }

/-- The translation of an engine's, the Headgate's, a distributor's or a GX unit's access (R61, R404). A page that the TLBs do not hold is
walked through the merge table, where the access joins the page's entry or makes one, and waits while all 256 are in use (R133, R369); a
fault leaves it waiting until the page is released, or until HG_FKILL refuses it. An access to a remote part without DRA waits for its
move (R135). `acc` 4 engine or coprocessor. -/
def State.unitTranslate (s : State) (d : Nat) (core : Option Nat) (pdom partid task va : Nat) (write : Bool) : UnitTr :=
  if addrKind va ≠ .virt then .fail s
  else
    let page := pageOf va
    let k := partOf va
    let me : UnitWait := { die := d, core := core, pdom := pdom, task := task, va := va }
    if s.hg.refused.contains me then
      .fail (({ s with hg := { s.hg with refused := s.hg.refused.filter (· != me) } } : State).dropUnitClaim me page k)
    else
      match s.tlbLeaf d core pdom page with
      | some l =>
        if !s.usable l k then .wait (s.tlbMap pdom page fun _ => none)
        else if !(if write then l.w else l.r) then .fail (s.dropUnitClaim me page k)
        else
          match l.part k with
          | .present => .ok (s.dropUnitClaim me page k) (l.pa va) (l.place partid 0)
          | st => if st = .remote && l.dra then .ok s (2 ^ 48 + l.pa va) (l.place partid 0) else .wait (s.unitAwaitPart me page k)
      | none =>
        let x := s.die d
        match x.merge.find? fun e => e.page = page && e.pdom = pdom with
        | some e =>
          if e.units.contains me then .wait s
          else
            .wait (s.setDie d { x with merge := x.merge.map fun y => if y = e then { e with units := e.units ++ [me] } else y })
        | none =>
          if x.merge.length ≥ 256 then .wait s
          else
            let e : MergeEntry :=
              { pdom := pdom, page := page, root := s.ptroot pdom, strands := [], acc := 4, va := va, task := task, core := core.getD 0,
                walking := true, faulted := false, units := [me] }
            .wait ((s.setDie d { x with merge := x.merge ++ [e] }).note d none 71 1 (s.keyOf task))

/-- What a unit reads or writes comes to. -/
inductive UnitRes (α : Type) where
  | wait (s : State)
  | fail (s : State)
  | ok (s : State) (x : α)

/-- A read by a unit: the bytes and the marks they carry. It waits while a home has not applied what it must (R149). -/
def State.unitReadPieces (s : State) (d : Nat) (core : Option Nat) (pdom partid task : Nat) (va n : Nat) (acc : List Byte)
    (mark : Nat) : Nat → UnitRes (List Byte × Nat)
  | 0 => .ok s (acc, mark)
  | f + 1 =>
    if n = 0 then .ok s (acc, mark)
    else
      match s.unitTranslate d core pdom partid task va false with
      | .wait s => .wait s
      | .fail s => .fail s
      | .ok s pa pl =>
        match s.unitAtom d core pa pl with
        | none => .wait s
        | some (v, m, s) =>
          let k := min n (32 - va % 32)
          s.unitReadPieces d core pdom partid task (va + k) (n - k) (acc ++ natBytesLE k (getBytes v (va % 32) k))
            (mark ||| m) f

def State.unitRead (s : State) (d : Nat) (core : Option Nat) (pdom partid task va n : Nat) : UnitRes (List Byte × Nat) :=
  s.unitReadPieces d core pdom partid task va n [] 0 (n / 32 + 2)

/-- A read by the Headgate, at the home (R149); it fails on data that carry a mark (R404). -/
def State.hgReadPieces (s : State) (pdom partid task : Nat) (va n : Nat) (acc : List Byte) : Nat → UnitRes (List Byte)
  | 0 => .ok s acc
  | f + 1 =>
    if n = 0 then .ok s acc
    else
      match s.unitTranslate 0 none pdom partid task va false with
      | .wait s => .wait s
      | .fail s => .fail s
      | .ok s pa _ =>
        let read (s : State) (v : Vec) (m : Nat) : UnitRes (List Byte) :=
          if m ≠ 0 then .fail s
          else
            let k := min n (32 - va % 32)
            s.hgReadPieces pdom partid task (va + k) (n - k) (acc ++ natBytesLE k (getBytes v (va % 32) k)) f
        match homeOf pa with
        | .dram k =>
          let s := s.gxRelease
          if s.served k (s.row 0 k) then
            let (v, s) := s.homeAtom k (pa / 32)
            read (s.raiseRow 0 k) v (s.atomMark (pa / 32))
          else .wait s
        | _ => read s (s.atomData (pa / 32)) (s.atomMark (pa / 32))

def State.hgRead (s : State) (pdom partid task va n : Nat) : UnitRes (List Byte) :=
  s.hgReadPieces pdom partid task va n [] (n / 32 + 2)

/-- Whether a write of n bytes by a unit may be made: every page it touches translates and permits it. -/
def State.unitCanWrite (s : State) (d : Nat) (core : Option Nat) (pdom partid task va n : Nat) : UnitTr :=
  match s.unitTranslate d core pdom partid task va true with
  | .ok s pa pl =>
    if n = 0 || pageOf va = pageOf (va + n - 1) then .ok s pa pl
    else
      match s.unitTranslate d core pdom partid task (va + n - 1) true with
      | .ok s _ _ => .ok s pa pl
      | r => r
  | r => r

/-- A write by a unit, atom by atom (R404). It waits while the link toward its home is full (R150). -/
def State.unitWrite (s : State) (d : Nat) (core : Option Nat) (pdom partid task va : Nat) (bs : List Byte) : UnitRes Unit :=
  match s.unitCanWrite d core pdom partid task va bs.length with
  | .wait s => .wait s
  | .fail s => .fail s
  | .ok s pa _ =>
    if s.linkFull d pa then .wait s
    else
      (atomPieces va bs).foldl (fun r p =>
        match r with
        | .ok s _ =>
          (match s.unitTranslate d core pdom partid task p.1 true with
           | .ok s pa pl => .ok (s.writeAtom d core pa p.2 false (some pl)) ()
           | .wait s => .wait s
           | .fail s => .fail s)
        | r => r) (.ok s ())

/-- Fault records that wait for their page are written in order (R61, R351); one whose access is refused or not permitted is lost and
counted (assumption 21). -/
def State.flushFaults (s : State) : Nat → State
  | 0 => s
  | n + 1 =>
    match s.hg.fqPend with
    | [] => s
    | r :: rest =>
      let drop (s : State) : State := { s with hg := { s.hg with fqPend := rest } }
      match s.unitTranslate 0 none 0 0 0 s.hg.faultAddr true with
      | .wait s => s
      | .fail s => ((fun (s : State) => { s with hg := s.hg.countLost }) (drop s)).flushFaults n
      | .ok s pa pl => if s.linkFull 0 pa then s else ((drop s).putFault pa pl r).flushFaults n

end Sys2Proof.Machine
end

