-- ==== Sys2Proof/Machine/Storage.lean ====
section
/-! DEFINITION. Scratchpad grants, operand buffers and tiles: reads, writes, watches, and the life of a tile (06 R116, R121,
R122; 14 R276 to R278; 21 R373; 22 R382). -/
namespace Sys2Proof.Machine

/-! ### Tiles and grants -/

def Tile.base (t : Tile) : Nat := bitsNat t.record.toNat 22 16
def Tile.len (t : Tile) : Nat := bitsNat t.record.toNat 39 32

/-- The tile of a domain whose granules hold a byte of the operand buffer (R363). -/
def Core.tileAt (k : Core) (pdom off : Nat) : Option Tile :=
  k.tiles.find? fun t => t.pdom = pdom && t.base ≤ off / 4096 && off / 4096 < t.base + t.len

/-- Watches on 128 bytes of a grant fire (R223). -/
def State.fireGrant (s : State) (h off n : Nat) : State :=
  s.fire fun _ w =>
    match w with | .grant g o => g = h && o / 128 * 128 < off + n && off < o / 128 * 128 + 128 | _ => false

/-- Watches on 128 bytes of a core's operand buffer fire (R223). -/
def State.fireOpbuf (s : State) (d c off n : Nat) : State :=
  s.fire fun st w =>
    match w with
    | .opbuf o _ => st.at_.die = d && st.at_.core = c && o / 128 * 128 < off + n && off < o / 128 * 128 + 128
    | _ => false

/-- 8-byte words that n bytes from `off` touch, and those they cover whole (R373). -/
def wordsTouched (off n : Nat) : List Nat := (List.range ((off + n + 7) / 8 - off / 8)).map (off / 8 + ·)
def wordsWhole (off n : Nat) : List Nat := (wordsTouched off n).filter fun w => off ≤ 8 * w && 8 * w + 8 ≤ off + n

/-- The address, in domain 0, of a byte of the backwater copy of an evicted bundle (R43). -/
def State.bwVa (s : State) (b : Bundle) (off : Nat) : Nat := bitsNat s.hg.bwbase.toNat 56 21 * 2 ^ 21 + b.bw.1 + off

/-- What acts on an evicted bundle is written to its backwater copy (R44); `off` counts from the start of the bundle's record. A bundle
that docking has brought has no such copy. -/
def State.bwPut (s : State) (h off : Nat) (bs : List Byte) : State :=
  match s.bundle? h with
  | some b =>
    if b.evicted && b.bw.2 ≠ 0 then
      (atomPieces (s.bwVa b off) bs).foldl (fun s p =>
        match s.walk 0 (pageOf p.1) (partOf p.1) with
        | .ok l => if l.w && l.part (partOf p.1) = .present then s.writeAtom 0 none (l.pa p.1) p.2 false (some (l.place 0 0)) else s
        | .error _ => s) s
    else s
  | none => s

/-- n free bytes: what the spec does not state. -/
def State.freeBytes (s : State) (n : Nat) : List Byte × State :=
  ((List.range n).map fun i => BitVec.ofNat 8 (Config.freeNat (s.free + i)), { s with free := s.free + n })

/-- Bytes of a bundle's grant as the Headgate gives them: where the bundle is resident, else from its backwater copy (R114). A copy that
cannot be read, whose outcome the spec does not state, gives free values (assumption 59). -/
def State.grantBytesAt (s : State) (b : Bundle) (off n : Nat) : UnitRes (List Byte) :=
  if b.evicted && b.bw.2 ≠ 0 then
    match s.hgRead 0 0 0 (s.bwVa b (448 + off)) n with
    | .ok s bs => .ok s bs
    | .wait s => .wait s
    | .fail s => let (bs, s) := s.freeBytes n; .ok s bs
  else .ok s (readBytes b.scratch off n)

/-- Bytes written to a bundle's grant; whole words lose their poison (R373). -/
def State.writeGrant (s : State) (h off : Nat) (bs : List Byte) : State :=
  (s.mapBundle h fun b =>
    { b with scratch := writeBytes b.scratch off bs,
             poison := b.poison.filter fun w => !(wordsWhole off bs.length).contains w }).fireGrant h off bs.length

/-- Bytes that a unit writes to a grant: those of an evicted bundle go to its backwater copy (R258, R44). -/
def State.putGrant (s : State) (h off : Nat) (bs : List Byte) : State := (s.writeGrant h off bs).bwPut h (448 + off) bs

/-- Bytes written to a core's operand buffer. -/
def State.writeOpbuf (s : State) (d c off : Nat) (bs : List Byte) : State :=
  let k := s.core d c
  (s.setCore d c
    { k with opbuf := writeBytes k.opbuf off bs,
             opPoison := k.opPoison.filter fun w => !(wordsWhole off bs.length).contains w }).fireOpbuf d c off bs.length

/-- Bytes of a grant and their mark; a bundle that has dissolved reads zero (R377). -/
def State.readGrant (s : State) (h off n : Nat) : Nat × Nat :=
  match s.bundle? h with
  | some b => (readNat b.scratch off n, if (wordsTouched off n).any b.poison.contains then 1 else 0)
  | none => (0, 0)

def Core.readOpbuf (k : Core) (off n : Nat) : Nat × Nat :=
  (readNat k.opbuf off n, if (wordsTouched off n).any k.opPoison.contains then 1 else 0)

/-! ### Barriers -/

/-- A barrier's 16 bytes in a bundle record (R309). -/
def Bar.record (b : Bar) : Nat := b.pend.toNat + b.arr % 2 ^ 10 * 2 ^ 56 + b.exp % 512 * 2 ^ 66 + b.phase % 2 ^ 12 * 2 ^ 76

/-- Barrier k of a bundle; of a bundle that has dissolved, one that nothing uses. -/
def State.bar (s : State) (h k : Nat) : Bar :=
  match s.bundle? h with | some b => b.bars.getD k (Bar.fresh 1) | none => Bar.fresh 1

/-- A barrier changes. -/
def State.mapBar (s : State) (h k : Nat) (f : Bar → Bar) : State :=
  s.mapBundle h fun b => { b with bars := b.bars.set k (f (b.bars.getD k (Bar.fresh 1))) }

/-- A barrier of a bundle that may be evicted changes: then it changes in the backwater copy (R44). -/
def State.putBar (s : State) (h k : Nat) (f : Bar → Bar) : State :=
  (s.mapBar h k f).bwPut h (192 + 16 * k) (natBytesLE 16 (f (s.bar h k)).record)

/-! ### The life of a tile -/

/-- Fields of a tile handle (R122). -/
def handleDie (h : Nat) : Nat := h / 2 ^ 30 % 4 + 1
def handleCore (h : Nat) : Nat := bitsNat h 29 23
def handleSeq (h : Nat) : Nat := bitsNat h 22 6
def handleIdx (h : Nat) : Nat := bitsNat h 5 0

/-- The live entry of a core that a handle names. -/
def Core.tile (k : Core) (h : Nat) : Option Tile := k.tiles.find? fun t => t.idx = handleIdx h && t.seq = handleSeq h

/-- The live entry a handle names on its own core. -/
def State.tile (s : State) (h : Nat) : Option Tile := (s.core (handleDie h) (handleCore h)).tile h

/-- A tile changed, by handle. -/
def State.mapTile (s : State) (h : Nat) (f : Tile → Tile) : State :=
  let d := handleDie h
  let c := handleCore h
  let k := s.core d c
  s.setCore d c { k with tiles := k.tiles.map fun t => if t.idx = handleIdx h && t.seq = handleSeq h then f t else t }

/-- The handle of an entry (R122). -/
def tileHandle (d c : Nat) (t : Tile) : Nat := (d - 1) * 2 ^ 30 + c * 2 ^ 23 + t.seq * 2 ^ 6 + t.idx

/-- Record fields of a tile (R121). -/
def Tile.fld (t : Tile) (hi lo : Nat) : Nat := bitsNat t.record.toNat hi lo
def Tile.cols (t : Tile) : Nat := t.fld 127 112
def Tile.rows (t : Tile) : Nat := t.fld 111 96
def Tile.pitch (t : Tile) : Nat := t.fld 95 80
def Tile.scoff (t : Tile) : Nat := t.fld 79 64
def Tile.fmt (t : Tile) : Nat := t.fld 55 52
def Tile.scl (t : Tile) : Bool := t.fld 51 51 = 1
def Tile.cmp (t : Tile) : Bool := t.fld 50 50 = 1

/-- K of R105: elements of a segment, by format code. -/
def segLen (fmt : Nat) : Nat := match fmt with | 0 | 1 | 2 => 192 | 6 | 7 => 768 | _ => 384

/-- Bits of an element of a format code (R104, R121). -/
def fmtBits (fmt : Nat) : Nat :=
  match fmt with | 0 => 32 | 1 | 2 => 16 | 3 | 4 | 5 => 8 | 6 | 7 => 4 | n => n - 6

/-- The stored size of a row (R121). -/
def rowSize (fmt : Nat) (cmp : Bool) (cols : Nat) : Nat :=
  let segs := (cols + segLen fmt - 1) / segLen fmt
  if 8 ≤ fmt then (if cmp then 2 + 48 * (fmt - 6) else 48 * (fmt - 6)) * segs else fmtBits fmt * cols / 8

/-- Whether a reservation record breaks R121 (R382). -/
def badReservation (r : BitVec 128) : Bool :=
  let f (hi lo : Nat) : Nat := bitsNat r.toNat hi lo
  let fmt := f 55 52
  let cols := f 127 112
  let rows := f 111 96
  let scl := f 51 51
  let cmp := f 50 50
  let bytes := f 39 32 * 4096
  f 15 0 != 0 || f 31 23 != 0 || f 47 40 != 0 || f 63 56 != 24 || fmt = 15 || 2 ≤ f 49 48 ||
    (8 ≤ fmt && scl = 0) || ((fmt = 0 || fmt = 1 || fmt = 2 || fmt = 5) && scl = 1) || (cmp = 1 && fmt < 8) ||
    cols = 0 || cols % 24 != 0 || rows = 0 || f 95 80 % 16 != 0 || f 79 64 % 16 != 0 || f 39 32 = 0 || 128 < f 39 32 ||
    128 < f 22 16 + f 39 32 || bytes < (rows - 1) * f 95 80 + rowSize fmt (cmp = 1) cols ||
    (scl = 1 && bytes < f 79 64 + rows * (cols / 24))

/-- Whether two runs of granules meet. -/
def Tile.overlaps (t : Tile) (base len : Nat) : Bool := t.base < base + len && base < t.base + t.len

/-- Granules handed to a domain: those of another last holder read as zero (R74). -/
def Core.takeGranules (k : Core) (pdom base : Nat) : Nat → Core
  | 0 => k
  | n + 1 =>
    let g := base + n
    let k :=
      if alGet pdom g k.granule = pdom then k
      else
        { k with opbuf := k.opbuf.filter fun x => x.1 / 4096 != g, opPoison := k.opPoison.filter fun w => w / 512 != g }
    { k with granule := alSet g pdom k.granule }.takeGranules pdom base n

/-- The tile handles a running command of a unit names: MX A, B and C; the destination tile of CE and QE (R240, R251,
R253). -/
def EngRun.handles (r : EngRun) (unit : Nat) : List Nat :=
  let f (hi lo : Nat) : Nat := bitsNat r.words.toNat hi lo
  let l := match unit with
    | 0 => [f 223 192, f 255 224, f 287 256]
    | 1 => [f 351 320]
    | 3 => [f 319 288]
    | _ => []
  l.filter (· != 0)

/-- Whether a running command has begun to read or write its tiles. -/
def EngRun.begun (r : EngRun) : Bool := r.stage = 3 && r.vec.any (· != 0)

/-- Whether an instruction that has begun its access reads or writes a tile through the aperture (R122). -/
def Strand.usesTile (st : Strand) (d c : Nat) (t : Tile) : Bool :=
  st.at_.die = d && st.at_.core = c && st.pdom.toNat = t.pdom &&
    match st.blocked with
    | some b =>
      (match b.wait with
       | .access op => op.lanes.any fun l =>
           match l.tgt with | .opbuf off => t.base ≤ off / 4096 && off / 4096 < t.base + t.len | _ => false
       | _ => false)
    | none => false

/-- Whether a command or an instruction already reads or writes a tile (R122). -/
def State.tileInUse (s : State) (d c : Nat) (t : Tile) : Bool :=
  let h := tileHandle d c t
  (s.engines.any fun ((_, _, u), e) =>
    match e.run with | some r => ((r.begun || r.filling) && (r.handles u).contains h) || r.tiles.contains h | none => false) ||
    s.strands.any fun st => st.usesTile d c t

/-- Whether a command names a tile: one whose record has been read (R277; assumption 40). -/
def State.tileNamed (s : State) (h : Nat) : Bool :=
  s.engines.any fun ((_, _, u), e) => match e.run with | some r => (r.handles u).contains h | none => false

/-- A tile is released (R277): one that is filling is marked; an empty one that a command names stays while one does, which its mark in
the draining state records. -/
def State.releaseTile (s : State) (h : Nat) : State :=
  s.mapTile h fun t =>
    match t.state with
    | 0 => { t with state := 3, marked := s.tileNamed h }
    | 2 => { t with state := 3 }
    | 1 => { t with marked := true }
    | _ => t

/-- Draining tiles that nothing uses any longer are freed, and watches on their granules fire (R122, R277, R223). -/
def State.freeTiles (s : State) : State :=
  let gone : List Nat := s.cores.flatMap fun ((d, c), k) =>
    (k.tiles.filter fun t => t.state = 3 && !s.tileInUse d c t && !(t.marked && s.tileNamed (tileHandle d c t))).map (tileHandle d c)
  if gone.isEmpty then s
  else
    let s : State := { s with cores := s.cores.map fun ((d, c), k) =>
      ((d, c), { k with tiles := k.tiles.filter fun t => !gone.contains (tileHandle d c t) }) }
    s.fire fun _ w => match w with | .opbuf _ t => gone.contains t | _ => false

/-- A fill ends without its last write: the tile is empty again, or draining when TREL has marked it (R122, R277). -/
def State.stopFill (s : State) (u : Nat) (r : EngRun) : State :=
  if r.filling then
    (r.handles u).foldl (fun s h => s.mapTile h fun t =>
      if t.state = 1 then { t with state := if t.marked then 3 else 0, marked := false } else t) s
  else s

/-- A fill completes: ready, or draining when TREL has marked the tile (R277). -/
def State.endFill (s : State) (u : Nat) (r : EngRun) : State :=
  if r.filling then
    (r.handles u).foldl (fun s h => s.mapTile h fun t =>
      if t.state = 1 then { t with state := if t.marked then 3 else 2, marked := false } else t) s
  else s

end Sys2Proof.Machine
end

