-- ==== Sys2Proof/Machine/Headgate.lean ====
section
/-! DEFINITION. The Headgate: task records and their acceptance, graph nodes, the ready pool, dispatch, placement, stealing
and completion (03 R50 to R65; 02 R34, R38; 19 R349, R352, R353, R404). -/
namespace Sys2Proof.Machine

/-! ### Task records (R51) -/

abbrev TaskRec := BitVec 512

/-- A field of a task record. -/
def TaskRec.f (r : TaskRec) (hi lo : Nat) : Nat := bitsNat r.toNat hi lo
def TaskRec.crec (r : TaskRec) : Nat := r.f 504 448
def TaskRec.args (r : TaskRec) : Nat := r.f 440 384
def TaskRec.ntile (r : TaskRec) : Nat := r.f 383 380
def TaskRec.tilesAt (r : TaskRec) : Nat := r.f 376 320
def TaskRec.entry (r : TaskRec) : Nat := r.f 312 256
def TaskRec.nsucc (r : TaskRec) : Nat := r.f 255 249
def TaskRec.succ (r : TaskRec) : Nat := r.f 248 192
def TaskRec.node (r : TaskRec) : Nat := r.f 127 110
def TaskRec.npred (r : TaskRec) : Nat := r.f 109 94
def TaskRec.nstr (r : TaskRec) : Nat := r.f 93 77
def TaskRec.bsize (r : TaskRec) : Nat := r.f 76 67
def TaskRec.graph (r : TaskRec) : Bool := r.f 66 66 = 1
def TaskRec.epoch (r : TaskRec) : Nat := r.f 63 56
def TaskRec.prio (r : TaskRec) : Nat := r.f 55 49
def TaskRec.partid (r : TaskRec) : Nat := r.f 48 45
def TaskRec.pdom (r : TaskRec) : Nat := r.f 44 37
def TaskRec.kind (r : TaskRec) : Nat := r.f 36 35
def TaskRec.dies (r : TaskRec) : Nat := r.f 34 33
def TaskRec.idem (r : TaskRec) : Bool := r.f 32 32 = 1
def TaskRec.eng (r : TaskRec) : Nat := r.f 31 30
def TaskRec.mark (r : TaskRec) : Nat := r.f 29 27
def TaskRec.grant (r : TaskRec) : Nat := r.f 26 18
def TaskRec.ecore (r : TaskRec) : Nat := r.f 17 11

/-- A task record with some bits [hi:lo] replaced. -/
def TaskRec.set (r : TaskRec) (hi lo v : Nat) : TaskRec := BitVec.ofNat 512 (setBits r.toNat hi lo v)

/-- The die an engine task names (R51). -/
def TaskRec.edie (r : TaskRec) : Nat := if r.dies = 2 then 2 else 1

/-- The unit number of ENG (R51): MX, SSB, CE, QE. -/
def TaskRec.unit (r : TaskRec) : Nat := match r.eng with | 0 => 0 | 1 => 2 | 2 => 1 | _ => 3

/-- Whether the record goes to the ready pool rather than to a node or to a marker's processing. -/
def TaskRec.pooled (r : TaskRec) : Bool := r.kind != 3 && !(r.graph && r.npred != 0)

/-! ### Epochs -/

/-- State of an epoch (R50): 0 free, 1 open, 2 cancelled, 3 its commit and 4 its cancel in progress (R283). -/
def State.epochState (s : State) (e : Nat) : Nat :=
  match s.hg.epochs.find? fun x => x.1 = e with | some (_, st, _) => st | none => 0

/-- The domain that opened an epoch (R282). -/
def State.epochDom (s : State) (e : Nat) : Nat :=
  match s.hg.epochs.find? fun x => x.1 = e with | some (_, _, d) => d | none => 0

def State.setEpoch (s : State) (e st dom : Nat) : State :=
  let rest := s.hg.epochs.filter fun x => x.1 != e
  { s with hg := { s.hg with epochs := if st = 0 then rest else rest ++ [(e, st, dom)] } }

/-! ### The pool -/

/-- Whether a task stands in the ready pool or the spill ring (markers are processed elsewhere, R65). -/
def Task.waiting (t : Task) : Bool := t.state = .ready && TaskRec.kind t.record != 3

/-- Entries of the ready pool and of the spill ring (R50, HG_POOLOCC). -/
def State.poolCount (s : State) : Nat := (s.hg.tasks.filter fun t => t.waiting && !t.spilled).length
def State.spillCount (s : State) : Nat := (s.hg.tasks.filter fun t => t.waiting && t.spilled).length

/-- Whether the spill ring has room for one more record in the backwater area (R352 reason 8). The spec gives a spilled task no layout:
that it takes the 64 bytes of its record is the model's choice, and the ring's bytes are not written (assumption 60). -/
def State.spillRoom (s : State) : Bool :=
  64 * (s.spillCount + 1) + s.hg.bwUsed.foldl (fun n x => n + x.2) 0 ≤ s.hg.bwsize.toNat % 2 ^ 32 * 2 ^ 21

/-- HG_POLICY fields (R60). -/
def State.evmin (s : State) : Nat := 256 * bitsNat s.hg.policy.toNat 39 32
def State.qage (s : State) : Nat := 64 * bitsNat s.hg.policy.toNat 31 16
def State.stealMax (s : State) : Nat := 2 ^ bitsNat s.hg.policy.toNat 11 8

/-- The aging step in cycles, 0 when aging is disabled. -/
def State.ageStep (s : State) : Nat :=
  let a := bitsNat s.hg.policy.toNat 15 12
  if a = 0 then 0 else 2 ^ (a + 8)

/-- Effective priority (R54). -/
def Task.eff (t : Task) : Nat := min 127 (t.prio + t.credit)

/-- Whether a task stands before another in the order of R54. -/
def Task.before (a b : Task) : Bool := b.eff < a.eff || (a.eff = b.eff && a.poolSeq < b.poolSeq)

/-- Inserts a task in the order of R54. -/
def insertTask (t : Task) : List Task → List Task
  | [] => [t]
  | x :: r => if t.before x then t :: x :: r else x :: insertTask t r

/-- The pool in the order of R54. -/
def State.poolOrder (s : State) : List Task := (s.hg.tasks.filter fun t => t.waiting && !t.spilled).foldr insertTask []

/-- A task becomes ready (R52, R53): it enters the pool, or the spill ring when the pool is full or older tasks stand there; its credit
starts at zero. -/
def State.readyTask (s : State) (key : Nat) : State :=
  let full := s.poolCount ≥ 65536 || s.spillCount != 0
  let s := s.mapTask key fun t =>
    { t with state := .ready, credit := 0, creditAt := s.cycle, poolSeq := s.hg.poolSeq, firstAt := 0,
             spilled := full && TaskRec.kind t.record != 3 }
  { s with hg := { s.hg with poolSeq := s.hg.poolSeq + 1 } }

/-- The oldest task of the spill ring. -/
def State.oldestSpilled (s : State) : Option Task :=
  s.hg.tasks.foldl (fun (b : Option Task) t =>
    if t.waiting && t.spilled then
      (match b with | some x => if t.poolSeq < x.poolSeq then some t else b | none => some t)
    else b) none

/-- Tasks of the spill ring return to the pool in arrival order while entries are free (R52), at the end of a cycle. -/
def State.unspill (s : State) : Nat → State
  | 0 => s
  | n + 1 =>
    if s.poolCount ≥ 65536 then s
    else match s.oldestSpilled with
      | some t => (s.mapTask t.key fun t => { t with spilled := false, creditAt := s.cycle }).unspill n
      | none => s

/-! ### Nodes -/

def Task.nodeCount (t : Task) : Option Nat := match t.state with | .node n => some n | _ => none

/-- The task installed at a node (R52). -/
def State.nodeTask (s : State) (node : Nat) : Option Task :=
  s.hg.tasks.find? fun t => t.nodeCount.isSome && TaskRec.node t.record = node

/-- One decrement of an installed node's counter (R53): at zero the node becomes ready once and leaves the table. -/
def State.decNode (s : State) (t : Task) : State :=
  match t.nodeCount with
  | some n => if n ≤ 1 then s.readyTask t.key else s.mapTask t.key fun t => { t with state := .node (n - 1) }
  | none => s

/-- TSIGNAL's decrement (R53, R290, R353): a node that is not installed, or of another domain, is ignored with a kind-2
record. -/
def State.signalNode (s : State) (node pdom : Nat) : State :=
  match s.nodeTask node with
  | some t => if t.pdom = pdom then s.decNode t else s.faultRecord 2 0 0 node
  | none => s.faultRecord 2 0 0 node

/-! ### Acceptance -/

/-- The first of reasons 1 to 8 of R352 that a record meets, 0 when it meets none. -/
def State.recordReason (s : State) (r : TaskRec) : Nat :=
  let k := r.kind
  if r.f 511 505 != 0 || r.f 447 441 != 0 || r.f 379 377 != 0 || r.f 319 313 != 0 || r.f 191 128 != 0 || r.f 65 64 != 0 ||
      r.f 10 0 != 0 then 1
  else if (k = 0 && (r.nstr = 0 || 98304 < r.nstr)) || (k != 0 && r.nstr != 0) then 2
  else if (k = 0 && (r.bsize = 0 || 512 < r.bsize)) || 256 < r.grant || 8 < r.ntile then 3
  else if ((k = 0 || k = 2) && r.dies = 0) ||
      (k = 2 && (r.dies = 3 || 95 < r.ecore || s.mg.disabled.contains (r.edie, r.ecore))) then 4
  else if k = 3 && (r.mark = 0 || 3 < r.mark) then 5
  else if r.graph && (s.nodeTask r.node).isSome then 6
  else if r.crec % 32 != 0 then 7
  else if r.pooled && s.poolCount ≥ 65536 && !s.spillRoom then 8
  else 0

/-- Whether tile handles name live tiles of a domain on one enabled core of a permitted die (R352 reason 9). -/
def State.tilesGood (s : State) (r : TaskRec) (pdom : Nat) (hs : List Nat) : Bool :=
  match hs with
  | [] => true
  | h :: _ =>
    let d := handleDie h
    let c := handleCore h
    (d = 1 || d = 2) && c < 96 && !s.mg.disabled.contains (d, c) &&
      ((r.kind != 0 && r.kind != 2) || bitNat r.dies (d - 1)) &&
      hs.all fun x => handleDie x = d && handleCore x = c &&
        match s.tile x with | some t => t.pdom = pdom | none => false

/-- Bundles of a kernel task (R34). -/
def TaskRec.bundles (r : TaskRec) : Nat := (r.nstr + r.bsize - 1) / max r.bsize 1

/-- Members of bundle k (R34). -/
def TaskRec.members (r : TaskRec) (k : Nat) : Nat := min r.bsize (r.nstr - k * r.bsize)

/-- Bundles of a kernel task by die (R56): those of a task with tile operands go to the core that holds the tiles. -/
def Task.split (t : Task) : List Nat × List Nat :=
  let r : TaskRec := t.record
  let ks := List.range r.bundles
  match t.tiles with
  | h :: _ => if handleDie h = 2 then ([], ks) else (ks, [])
  | [] =>
    if r.dies = 3 then (ks.filter fun k => k % 2 = 0, ks.filter fun k => k % 2 = 1)
    else if r.dies = 2 then ([], ks) else (ks, [])

/-! ### Room on cores -/

def State.freeSlots (s : State) (d c : Nat) : Nat := 512 - (s.onCore d c).length

/-- Whether a bundle of n strands with base blocks only fits on a core (R31, R56, R71). -/
def State.coreFits (s : State) (d c n grant : Nat) : Bool :=
  !s.mg.disabled.contains (d, c) && n ≤ s.freeSlots d c && s.usedS d c + n ≤ 1024 && s.usedV d c + n ≤ 896 &&
    s.usedKiB d c + grant ≤ 256 && (s.resident d c).length < 64

/-- The core of a die with the most free slots that can take the bundle, the lower number on ties (R56). -/
def State.bestCore (s : State) (d n grant : Nat) : Option Nat :=
  (List.range 96).foldl (fun b c =>
    if s.coreFits d c n grant then
      (match b with | some x => if s.freeSlots d x < s.freeSlots d c then some c else b | none => some c)
    else b) none

/-- Resident strands of a PARTID on a die (R60). -/
def State.residentOf (s : State) (d partid : Nat) : Nat :=
  (s.strands.filter fun st => st.at_.die = d && st.partid.toNat = partid).length

/-- The quota of HG_PQUOTA_n (R56, R60). -/
def State.underQuota (s : State) (d partid n : Nat) : Bool :=
  let q := (s.hg.pquota.getD partid 0).toNat % 2 ^ 17
  q = 0 || s.residentOf d partid + n ≤ q

/-- Whether a task needs a die (R54): its tiles stand there, bundles of it belong there (R56), or its engine does. -/
def Task.needs (t : Task) (d : Nat) : Bool :=
  match TaskRec.kind t.record with
  | 0 => !(if d = 1 then t.split.1 else t.split.2).isEmpty
  | 2 => d = TaskRec.edie t.record
  | _ => false

/-- Whether a die is reserved for a task of higher effective priority (R54). -/
def State.blockedBy (s : State) (t : Task) (d : Nat) : Bool :=
  match s.hg.reserved.bind s.task? with
  | some r =>
    r.key != t.key && t.eff < r.eff && r.needs d
  | none => false

/-- Whether an engine queue has a free place: the command that runs keeps its own until it completes (R234, R281). -/
def State.queueFree (s : State) (d c u : Nat) : Bool :=
  let e := s.engine d c u
  e.queue.length + (if e.run.isSome then 1 else 0) < 16

/-- Whether a declared tile of a task has been freed (R56). -/
def State.tileFreed (s : State) (t : Task) : Bool :=
  t.tiles.any fun h => match s.tile h with | some x => x.pdom != t.pdom | none => true

/-- Whether every declared tile of a task is ready (R56). -/
def State.tilesReady (s : State) (t : Task) : Bool :=
  t.tiles.all fun h => match s.tile h with | some y => y.state = 2 | none => false

/-- The core on which a distributor can place n strands of a task now (R56). -/
def State.placeOn (s : State) (t : Task) (d n : Nat) : Option Nat :=
  let r : TaskRec := t.record
  if !s.underQuota d t.partid n || s.blockedBy t d then none
  else
    match t.tiles with
    | [] => s.bestCore d n r.grant
    | h :: _ =>
      if handleDie h = d && s.tilesReady t && s.coreFits d (handleCore h) n r.grant then some (handleCore h)
      else none

/-! ### Acceptance, continued -/

/-- A task of status `status` has nothing left but its completion (R64). Only the writes made so far are waited for (R38). -/
def State.finish (s : State) (key status : Nat) : State :=
  s.mapTask key fun t => { t with state := .finishing, status := status, relId := s.nextId, poolSeq := s.hg.poolSeq }

/-- A rejected task (R352). -/
def State.reject (s : State) (key reason : Nat) : State :=
  (s.mapTask key fun t => { t with reason := reason }).finish key 2

/-- The task is dispatched with its bundles still to place (R56); its aging credit is gone (R60). -/
def State.startKernel (s : State) (key : Nat) (fast : Bool) : State :=
  let s := s.mapTask key fun t =>
    { t with state := .dispatched t.split.1 t.split.2, poolSeq := s.hg.poolSeq, fast := fast, spilled := false, credit := 0 }
  { s with hg := { s.hg with poolSeq := s.hg.poolSeq + 1 } }

/-- An accepted task whose record and tiles have passed: cancelled with its epoch, a node, a marker, placed on the fast path,
or ready (R52, R63, R65). -/
def State.enroll (s : State) (t : Task) : State :=
  let r : TaskRec := t.record
  if t.epoch ≠ 0 && (s.epochState t.epoch = 2 || s.epochState t.epoch = 4) then s.finish t.key 1
  else if r.graph && r.npred != 0 then s.mapTask t.key fun t => { t with state := .node r.npred }
  else
    let die := if t.split.1.isEmpty then 2 else 1
    if t.spawned && !r.graph && r.kind = 0 && !s.launchHeld && (s.placeOn t die (r.members 0)).isSome && !s.tileFreed t then
      s.startKernel t.key true
    else s.readyTask t.key

/-- The tile handles of an accepted task are read and checked (R352 reasons 9 and 10); then it is admitted. -/
def State.tryAdmit (s : State) (key : Nat) : State :=
  match s.task? key with
  | none => s
  | some t =>
    if t.state ≠ .accepted then s
    else
      let r : TaskRec := t.record
      if r.ntile = 0 then s.enroll t
      else
        match s.hgRead t.pdom t.partid t.id.toNat r.tilesAt (4 * r.ntile) with
        | .wait s => s
        | .fail s => s.reject key 10
        | .ok s bs =>
          let hs := (List.range r.ntile).map fun i => bytesNat ((bs.drop (4 * i)).take 4)
          if !s.tilesGood r t.pdom hs then s.reject key 9
          else if r.graph && (s.nodeTask r.node).isSome then s.reject key 6
          else
            let s := s.mapTask key fun t => { t with tiles := hs }
            s.enroll { t with tiles := hs }

/-- The identifier after one (R52): it skips zero. -/
def nextIdOf (id : Word) : Word := if id = 0xFFFFFFFF then 1 else id + 1

/-- A task as it is accepted. -/
def Task.fresh (key : Nat) (id : Word) (r : TaskRec) (addr cycle frame : Nat) (spawned traced : Bool) : Task :=
  { key := key, id := id, record := r, state := .accepted, epoch := r.epoch, pdom := r.pdom, partid := r.partid,
    prio := r.prio, credit := 0, creditAt := cycle, poolSeq := 0, firstAt := 0, accepted := cycle, frame := frame, tstart := 0,
    started := false, strandsLeft := 0, engLeft := 0, callsLeft := 0, exc := 0, status := 0, traced := traced,
    relaunches := 0, migrated := false, fast := false, header := none, ray := 0, endRec := none, dumped := false, noDump := false, halted := false, haltArea := [],
    addr := addr, reason := 0, gone := [], tiles := [], spawned := spawned, spilled := false, relId := 0, recDone := false,
    succDone := false }

/-- Whether a task accepted now is traced (R317): from the START's queue, the host task queue or the strands' submissions,
or submitted by a strand of a traced task; a launch of a work queue comes from neither queue. -/
def State.tracedNow (s : State) (spawner : Option Strand) (launch : Bool) : Bool :=
  (s.trace.opened && s.trace.queueAdmits && !launch && s.trace.fromSpawn = spawner.isSome) ||
    match spawner.bind fun st => s.task? st.task with | some t => t.traced | none => false

/-- The Headgate accepts a copy of a record (R51, R52, R352): the identifier it assigns, and the task. -/
def State.accept (s : State) (r : TaskRec) (addr : Nat) (spawner : Option Strand) (unread launch : Bool) :
    Word × State :=
  let key := s.hg.nextKey
  let id := s.hg.nextId
  let t := Task.fresh key id r addr s.cycle (s.hg.frame.toNat % 2 ^ 16) spawner.isSome (s.tracedNow spawner launch)
  let reason := if unread then 10 else s.recordReason r
  let s := { s with hg := { s.hg with nextKey := key + 1, nextId := nextIdOf id, tasks := s.hg.tasks ++ [t] } }
  (id, if reason = 0 then s.tryAdmit key else s.reject key reason)

/-- The host task queue (R59): one record is taken at HG_HHEAD, up to the tail. -/
def State.acceptHost (s : State) : State :=
  let size := max (s.hg.hqsize.toNat % 2 ^ 17) 1
  let head := s.hg.hhead.toNat
  if head = s.hg.htail.toNat % 2 ^ 32 % size then s
  else
    let va := (s.hg.hqbase.toNat % 2 ^ 57 / 4096 * 4096 + 64 * head) % 2 ^ 57
    let next (s : State) : State := { s with hg := { s.hg with hhead := BitVec.ofNat 64 ((head + 1) % size) } }
    match s.hgRead 0 0 0 va 64 with
    | .wait s => s
    | .fail s => ((next s).accept 0 va none true false).2
    | .ok s bs => ((next s).accept (BitVec.ofNat 512 (bytesNat bs)) va none false false).2

/-- Whether a task has still to be admitted or the host task queue holds a record. -/
def State.acceptPending (s : State) : Bool :=
  (s.hg.tasks.any fun t => t.state = .accepted) ||
    s.hg.hhead.toNat != s.hg.htail.toNat % 2 ^ 32 % max (s.hg.hqsize.toNat % 2 ^ 17) 1

/-- Whether a marker of a queue, the host task queue or the strands' submissions, is still to be processed: no record after it is
accepted before (R65). -/
def State.markerStands (s : State) (spawned : Bool) : Bool :=
  s.hg.tasks.any fun t => t.state = .ready && TaskRec.kind t.record = 3 && !TaskRec.graph t.record && t.spawned = spawned

/-- TASK_ACCEPTANCE (R52, R59, R65): tasks whose tile handles had to be waited for first, then the next record of the host task
queue. -/
def execTaskAcceptance (s : State) : Host.Outcome State Fault Refusal :=
  let s := (s.hg.tasks.filter fun t => t.state = .accepted).foldl (fun s t => s.tryAdmit t.key) s
  .next (if s.markerStands false then s else s.acceptHost)

/-- Whether a register write of a master is taken (R305): identity 0 stands for supervisor software at handler level. -/
def State.mayWrite (s : State) (m : Nat) : Bool := m = 0 || (m ≤ 3 && s.port.own = m)

/-- HG_HTAIL (R59): the doorbell. -/
def State.writeHtail (s : State) (v : BitVec 64) : State :=
  { s.leaveIdle with hg := { s.hg with htail := BitVec.ofNat 64 (v.toNat % 2 ^ 32) } }

/-! ### Aging and reservation -/

/-- AGING_STEP (R54): every task of the pool whose step has elapsed gains one credit. -/
def execAgingStep (s : State) : Host.Outcome State Fault Refusal :=
  let n := s.ageStep
  .next { s with hg := { s.hg with tasks := s.hg.tasks.map fun t =>
    if t.waiting && !t.spilled && n != 0 && t.creditAt + n ≤ s.cycle then
      { t with credit := if t.eff < 127 then t.credit + 1 else t.credit, creditAt := t.creditAt + n }
    else t } }

/-- Whether no bundle of a dispatched task has been placed yet. -/
def Task.unplaced (t : Task) : Bool :=
  match t.state with | .dispatched a b => !(a.isEmpty && b.isEmpty) && a.length + b.length = TaskRec.bundles t.record | _ => false

/-- The task that stands first in the order of R54, and since when, at the end of a cycle. A reservation lasts until the task's first
bundle has been placed, or its engine queue has taken it (assumption 61). -/
def State.noteFirst (s : State) : State :=
  if s.hg.tasks.isEmpty then s
  else
    let first := match s.poolOrder with | t :: _ => t.key | [] => 0
    let reserved := match s.hg.reserved.bind s.task? with
      | some t => if t.waiting || t.unplaced then s.hg.reserved else none
      | none => none
    { s with hg := { s.hg with
        reserved := reserved
        tasks := s.hg.tasks.map fun t =>
          if t.key = first then { t with firstAt := if t.firstAt = 0 then s.cycle + 1 else t.firstAt }
          else { t with firstAt := 0 } } }

/-- EVMIN_RESERVATION (R54). -/
def execEvminReservation (s : State) : Host.Outcome State Fault Refusal :=
  .next (
    match s.poolOrder with
    | t :: _ =>
      if s.hg.reserved.isNone && t.firstAt != 0 && t.firstAt - 1 + s.evmin ≤ s.cycle then
        { s with hg := { s.hg with reserved := some t.key } }
      else s
    | [] => s)

/-- HG_POLICY (R60): a change of AGESTEP discards the step in progress. -/
def State.writePolicy (s : State) (v : BitVec 64) : State :=
  let new := v &&& 0xFFFFFFFF03#64
  let changed := bitsNat s.hg.policy.toNat 15 12 != bitsNat new.toNat 15 12
  { s with hg := { s.hg with
      policy := new
      tasks := s.hg.tasks.map fun t => if changed && t.state = .ready then { t with creditAt := s.cycle } else t } }

/-! ### Dispatch -/

/-- A task that ends after acceptance without a delivery (R56, R404): what follows is R397. -/
def State.endPlain (s : State) (key : Nat) : State :=
  s.mapTask key fun t =>
    { t with state := .ending, status := if t.state = .ending then t.status else 3,
             endRec := match t.endRec with
               | some e => some e
               | none => some { fcause := 0, ftval := 0, fpc := 0, fsid := 0, fbhnd := 0, time := s.timeNs, ncount := 0, ncause := 0, ntval := 0, npc := 0,
                                nsid := 0 } }

/-- Whether a ready task can be placed now, as far as a die is concerned (R54, R56, R57): a kernel task's first bundle of the die, or the
engine's command; a task with tiles only where they are, and only while each is ready. -/
def State.placeableOn (s : State) (t : Task) (d : Nat) : Bool :=
  let r : TaskRec := t.record
  match r.kind with
  | 0 =>
    (match (if d = 1 then t.split.1 else t.split.2) with
     | k :: _ => (s.placeOn t d (r.members k)).isSome
     | [] => false)
  | 1 => s.tilesReady t
  | _ =>
    r.edie = d && !s.blockedBy t d && s.tilesReady t && s.queueFree d r.ecore r.unit &&
      t.tiles.all fun h => handleDie h = d && handleCore h = r.ecore

/-- Whether a ready task can be placed now; one whose tile has been freed is ended at once (R56). -/
def State.placeable (s : State) (t : Task) : Bool :=
  !s.taskHeld t && (s.tileFreed t || [1, 2].any (s.placeableOn t))

/-- An entry of an engine task (R57). -/
def engTaskEntry (t : Task) : EngEntry :=
  { record := TaskRec.entry t.record, task := t.key, pdom := t.pdom, partid := t.partid, bundle := none, group := 0,
    engines := 0, rdv := none, engTask := true, ring := none }

/-- A chosen task is dispatched (R54, R57, R125); one whose tile has been freed is ended (R56). -/
def State.dispatch (s : State) (t : Task) : State :=
  let r : TaskRec := t.record
  let go (s : State) : State :=
    s.mapTask t.key fun t => { t with state := .dispatched [] [], engLeft := 1, tstart := s.timeNs, started := true, credit := 0 }
  if s.tileFreed t then s.endPlain t.key
  else
    match r.kind with
    | 0 => s.startKernel t.key false
    | 1 => (go s).gxAcquire
    | _ =>
      let s := go s
      let e := s.engine r.edie r.ecore r.unit
      (s.setEngine r.edie r.ecore r.unit { e with queue := e.queue ++ [engTaskEntry t] }).gxAcquire

/-- TASK_DISPATCH (R54): the placeable task that stands first. -/
def execTaskDispatch (s : State) : Host.Outcome State Fault Refusal :=
  .next (if s.launchHeld then s else match s.poolOrder.find? s.placeable with | some t => s.dispatch t | none => s)

/-! ### Placement -/

/-- The lowest free slots of a core. -/
def State.slotsFree (s : State) (d c : Nat) : List Nat :=
  let used := (s.onCore d c).map fun st => st.at_.slot
  (List.range 512).filter fun i => !used.contains i

/-- A strand at launch (R26, R161). -/
def Strand.launch (t : Task) (tag : BitVec 16) (a : SRef) (h mid sid cycle : Nat) (hd : BitVec 16 × Nat) (sregs : List Word)
    (vregs : List Vec) : Strand :=
  let r : TaskRec := t.record
  { at_ := a, pc := BitVec.ofNat 57 (r.entry + 32 + 4 * hd.2), native := hd.1 = tag, step := hd.1,
    kernel := BitVec.ofNat 57 r.entry, wbs := 0, wbv := 0, nsb := 1, nvb := 1, sregs := sregs, vregs := vregs,
    preds := Vector.replicate 8 0, link := 0, rm := 0, fpflags := 0, cause := 0, level := false, plev := false, epc := 0,
    tval := 0, bundle := some (h, mid), task := t.key, taskId := t.id, sid := BitVec.ofNat 32 sid,
    pdom := BitVec.ofNat 8 t.pdom, prio := BitVec.ofNat 7 t.prio, partid := BitVec.ofNat 4 t.partid,
    epoch := BitVec.ofNat 8 t.epoch, args := BitVec.ofNat 57 r.args, pend := [], period := 0, due := 0, dueTval := 0,
    reenter := 0, blocked := none, watch := none, fbuf := none, readyAt := cycle + 1, resumed := false, again := false, stopped := false }

/-- Strands sid and up of a bundle take the given slots (R26, R73). -/
def State.placeStrands (s : State) (t : Task) (d c h : Nat) (hd : BitVec 16 × Nat) (sid mid : Nat) : List Nat → State
  | [] => s
  | slot :: r =>
    let k := s.core d c
    let (xs, ls, f) := grantBlocks (0#32) 32 t.pdom k.leftS s.free 1
    let (xv, lv, f) := grantBlocks (0#256) 16 t.pdom k.leftV f 1
    let st := Strand.launch t s.mg.tag { die := d, core := c, slot := slot } h mid sid s.cycle hd xs xv
    let s := s.setCore d c { k with leftS := ls, leftV := lv }
    { s with free := f, strands := s.strands ++ [st] }.placeStrands t d c h hd (sid + 1) (mid + 1) r

/-- Bundle k of a task is placed whole on a core (R34, R56); its strands' first instruction acquires at device scope
(R156). -/
def State.placeBundle (s : State) (t : Task) (d c k : Nat) (hd : BitVec 16 × Nat) : State :=
  let r : TaskRec := t.record
  let n := r.members k
  let (h, s) := s.newBundle d c (BitVec.ofNat 8 t.pdom) t.key r.grant n
  let s := s.acquire d c 2 none { die := d, core := c, slot := 0 }
  let s := s.placeStrands t d c h hd (k * r.bsize) 0 ((s.slotsFree d c).take n)
  s.mapTask t.key fun t => { t with strandsLeft := t.strandsLeft + n }

/-- Bundles of a dispatched task still to be placed on a die. -/
def Task.left (t : Task) (d : Nat) : List Nat :=
  match t.state with | .dispatched a b => if d = 1 then a else b | _ => []

def Task.setLeft (t : Task) (d : Nat) (l : List Nat) : Task :=
  match t.state with
  | .dispatched a b => { t with state := if d = 1 then .dispatched l b else .dispatched a l }
  | _ => t

/-- The dispatched task a distributor serves next: the first dispatched whose next bundle has room, or whose tile is gone. -/
def State.nextPlacement (s : State) (d : Nat) (sel : Task → Bool) : Option Task :=
  s.hg.tasks.foldl (fun (b : Option Task) t =>
    match t.left d with
    | [] => b
    | k :: _ =>
      if sel t && !s.taskHeld t && (s.tileFreed t || (s.placeOn t d (TaskRec.members t.record k)).isSome) then
        (match b with | some x => if t.poolSeq < x.poolSeq then some t else b | none => some t)
      else b) none

/-- One placement by a distributor: the kernel header is read when the first bundle is placed (R161, R404). Two points the spec leaves open
are the model's choice (assumption 62): a task one of whose tiles is freed after some of its bundles have been placed ends like one that
none has been placed of (R56 names only the latter), and an ENTRY that is not 32-byte aligned is taken as it stands (R161 requires the
alignment and R352 does not check it), so that PC may then start at an address that is no multiple of 4.
-/
def State.placeNext (s : State) (d : Nat) (sel : Task → Bool) : State :=
  match s.nextPlacement d sel with
  | none => s
  | some t =>
    let r : TaskRec := t.record
    if s.tileFreed t then s.endPlain t.key
    else
      let go (s : State) (hd : BitVec 16 × Nat) : State :=
        match t.left d with
        | k :: rest =>
          (match s.placeOn t d (r.members k) with
           | some c => (s.mapTask t.key fun t => t.setLeft d rest).placeBundle { t with header := some hd } d c k hd
           | none => s)
        | [] => s
      match t.header with
      | some hd => go s hd
      | none =>
        match s.unitRead d none t.pdom t.partid t.id.toNat r.entry 32 with
        | .wait s => s
        | .fail s => s.endPlain t.key
        | .ok s (bs, m) =>
          if m ≠ 0 then s.endPlain t.key
          else
            let x := bytesNat bs
            let hd : BitVec 16 × Nat := (BitVec.ofNat 16 x, bitsNat x 47 16)
            go (s.mapTask t.key fun t => { t with header := some hd }) hd

/-- BUNDLE_PLACEMENT (R56). -/
def execBundlePlacement (die : Nat) (s : State) : Host.Outcome State Fault Refusal := .next (s.placeNext die fun _ => true)

/-- FAST_PATH_PLACEMENT (R63). -/
def execFastPathPlacement (die : Nat) (s : State) : Host.Outcome State Fault Refusal := .next (s.placeNext die fun t => t.fast)

/-- The oldest dispatched task with bundles unplaced on a die that may run on either (R57). -/
def State.stealFrom (s : State) (d : Nat) : Option Task :=
  s.hg.tasks.foldl (fun (b : Option Task) t =>
    if !(t.left d).isEmpty && TaskRec.dies t.record = 3 && t.tiles.isEmpty then
      (match b with | some x => if t.poolSeq < x.poolSeq then some t else b | none => some t)
    else b) none

/-- Whether a distributor asks (R57): it has no unplaced bundle. -/
def State.stealAsks (s : State) (d : Nat) : Bool := (d = 1 || d = 2) && !s.hg.tasks.any fun t => !(t.left d).isEmpty

/-- The later half, rounded up, of a task's unplaced bundles goes to the other distributor where it has room (R57). -/
def State.handOver (s : State) (t : Task) (die : Nat) : State :=
  let l := t.left (3 - die)
  let n := min (max ((l.length + 1) / 2) 1) s.stealMax
  let m := l.drop (l.length - n)
  match m with
  | k :: _ =>
    if (s.placeOn t die (TaskRec.members t.record k)).isSome then
      (s.mapTask t.key fun t => (t.setLeft (3 - die) (l.take (l.length - n))).setLeft die m).note die none 76 n t.key
    else s
  | [] => s

/-- The pool's next choice for a distributor: the first in the order of R54 that can be placed on its die (R57). -/
def State.choiceFor (s : State) (die : Nat) : Option Task :=
  if s.launchHeld then none else s.poolOrder.find? fun t => t.needs die && !s.taskHeld t && !s.tileFreed t && s.placeableOn t die

/-- STEAL_REQUEST (R57): a distributor with free room and no unplaced bundle takes the later half of the unplaced bundles of the other's
oldest task, or the pool's next choice. `die` 3 stands for two requests that cross in one cycle: neither distributor has a bundle to hand
over, and the pool answers both from the state before the cycle. -/
def execStealRequest (die : Nat) (s : State) : Host.Outcome State Fault Refusal :=
  .next (
    if die = 3 then
      if s.stealAsks 1 && s.stealAsks 2 then
        match s.choiceFor 1, s.choiceFor 2 with
        | some t, some u => if t.key = u.key then s.dispatch t else (s.dispatch t).dispatch u
        | some t, none | none, some t => s.dispatch t
        | none, none => s
      else s
    else if !s.stealAsks die then s
    else
      match s.stealFrom (3 - die) with
      | some t => s.handOver t die
      | none => match s.choiceFor die with | some t => s.dispatch t | none => s)

/-! ### Completion -/

/-- Whether everything a dispatched task has begun is done (R38). -/
def Task.isDone (t : Task) : Bool :=
  t.state = .dispatched [] [] && t.strandsLeft = 0 && t.engLeft = 0 && t.callsLeft = 0

/-- The 32-byte completion record (R64). The TSTART of a task that has neither issued nor been dispatched, which the spec does not state,
is 0 (assumption 63). -/
def State.completionRecord (s : State) (t : Task) : Nat :=
  let r : TaskRec := t.record
  (if r.graph then r.node + 2 ^ 18 else 0) + t.frame % 2 ^ 16 * 2 ^ 32 + t.status * 2 ^ 48 + t.epoch * 2 ^ 56 +
    t.exc.toNat * 2 ^ 64 + t.id.toNat * 2 ^ 96 + t.tstart % 2 ^ 64 * 2 ^ 128 + s.timeNs % 2 ^ 64 * 2 ^ 192

/-- The successors' counters fall (R53, R66, R353): those of a cancelled task only where the successor is of another epoch. -/
def State.decSuccessors (s : State) (t : Task) (nodes : List Nat) : State :=
  nodes.foldl (fun s n =>
    match s.nodeTask n with
    | some x => if t.status = 1 && x.epoch = t.epoch then s else s.decNode x
    | none => if t.gone.contains n then s else s.faultRecord 2 0 t.id.toNat n) s

/-- The successor entries of a task are read and their counters fall, once (R38, R66). -/
def State.tellSuccessors (s : State) (t : Task) : UnitRes Unit :=
  let r : TaskRec := t.record
  if t.succDone || t.migrated || r.nsucc = 0 then .ok s ()
  else
    let done (s : State) : State := s.mapTask t.key fun t => { t with succDone := true }
    match s.hgRead t.pdom t.partid t.id.toNat r.succ (4 * r.nsucc) with
    | .wait s => .wait s
    | .fail s => .ok (done s) ()
    | .ok s bs =>
      .ok (done (s.decSuccessors t ((List.range r.nsucc).map fun i => bytesNat ((bs.drop (4 * i)).take 4) % 2 ^ 18))) ()

/-- The task's last step: the kind-1 record of an unsuccessful task, or its successors (R38, R349); then it is gone. -/
def State.closeTask (s : State) (t : Task) : State :=
  let drop (s : State) : State := { s with hg := { s.hg with tasks := s.hg.tasks.filter fun x => x.key != t.key } }
  if 2 ≤ t.status then drop (s.faultRecord 1 t.reason t.id.toNat t.addr)
  else match s.tellSuccessors t with
    | .ok s _ | .fail s => drop s
    | .wait s => s

/-- The completion of a task (R38, R64, R404): the release at system scope, which the writes of GX units for the task are part of, the
completion record, then the successors. -/
def State.completeTask (s : State) (t : Task) : State :=
  let r : TaskRec := t.record
  if s.xwrites.any fun w => w.src != 0 && w.id < t.relId then s
  else if t.recDone then s.closeTask t
  else
    let did (s : State) : State :=
      (s.gxRelease.mapTask t.key fun t => { t with recDone := true }).closeTask { t with recDone := true }
    if r.crec = 0 || (t.status = 2 && t.reason = 7) then did s
    else
      match s.gxRelease.unitWrite 0 none t.pdom t.partid t.id.toNat r.crec (natBytesLE 32 (s.completionRecord t)) with
      | .wait s => s
      | .fail s => did (s.faultRecord 1 11 t.id.toNat t.addr)
      | .ok s _ => did s

/-- A task has nothing left but its completion, which is made at once unless a part of it has to wait (R64, R65). -/
def State.finishNow (s : State) (key status : Nat) : State :=
  let s := s.finish key status
  match s.task? key with | some t => s.completeTask t | none => s

/-- TASK_COMPLETION (R38). -/
def execTaskCompletion (key : Nat) (s : State) : Host.Outcome State Fault Refusal :=
  .next (
    match s.task? key with
    | some t =>
      if t.isDone then s.finish key 0
      else if t.state = .finishing then s.completeTask t
      else s
    | none => s)

end Sys2Proof.Machine
end

