-- ==== Sys2Proof/Machine/WorkQueue.lean ====
section
/-! DEFINITION. Work queues: registration, observation of a tail, launches, and the appends of the GX units (03 R59, R62; 15
R308; 13 R271; 19 R353, R404). -/
namespace Sys2Proof.Machine

/-- Fields of a work-queue header (R308). -/
def qhTmpl (h : Nat) : Nat := bitsNat h 504 448
def qhBase (h : Nat) : Nat := bitsNat h 440 384
def qhHead (h : Nat) : Nat := bitsNat h 383 352
def qhTail (h : Nat) : Nat := bitsNat h 351 320
def qhSize (h : Nat) : Nat := bitsNat h 319 288
def qhEsize (h : Nat) : Nat := bitsNat h 287 272
def qhBatch (h : Nat) : Nat := bitsNat h 271 256
def qhPrio (h : Nat) : Nat := bitsNat h 255 249
def qhFof (h : Nat) : Bool := bitNat h 248

def isPow2 (n : Nat) : Bool := n != 0 && 2 ^ n.log2 = n

/-- Records the Headgate knows a queue to hold (R62). -/
def WorkQueue.r (q : WorkQueue) : Nat := (q.tail + 2 ^ 32 - q.head % 2 ^ 32) % 2 ^ 32

def State.queue? (s : State) (n : Nat) : Option WorkQueue := s.hg.queues.find? fun q => q.n = n

def State.mapQueue (s : State) (n : Nat) (f : WorkQueue → WorkQueue) : State :=
  { s with hg := { s.hg with queues := s.hg.queues.map fun q => if q.n = n then f q else q } }

/-- A queue is disabled until HG_QTCOUNT is written again, with a kind-4 record (R353, R404). -/
def State.disableQueue (s : State) (q : WorkQueue) : State :=
  (s.mapQueue q.n fun q => { q with disabled := true }).faultRecord 4 0 0 q.header

/-! ### Registration -/

/-- The queue leaves the list of those still to be registered. -/
def State.qtDone (s : State) (n : Nat) : State := { s with hg := { s.hg with qtPend := s.hg.qtPend.filter (· != n) } }

/-- A queue that is not registered, with its kind-4 record (R353). -/
def State.qtRefuse (s : State) (n addr : Nat) : State := (s.qtDone n).faultRecord 4 0 0 addr

/-- Whether a header's own fields keep it from being registered (R353). -/
def badHeader (h : Nat) : Bool := !isPow2 (qhSize h) || qhEsize h = 0 || qhEsize h % 16 != 0 || qhBatch h = 0

/-- Queue n of the table is read, checked and registered (R308, R353). -/
def State.registerQueue (s : State) (n : Nat) : State :=
  let entry := (s.hg.qtbase.toNat % 2 ^ 57 / 4096 * 4096 + 8 * n) % 2 ^ 57
  match s.hgRead 0 0 0 entry 8 with
  | .wait s => s
  | .fail s => s.qtRefuse n entry
  | .ok s bs =>
    let addr := bytesNat bs % 2 ^ 57
    if addr = 0 then s.qtDone n
    else
      match s.hgRead 0 0 0 addr 64 with
      | .wait s => s
      | .fail s => s.qtRefuse n addr
      | .ok s bs =>
        let h := bytesNat bs
        if badHeader h then s.qtRefuse n addr
        else
          match s.hgRead 0 0 0 (qhTmpl h) 64 with
          | .wait s => s
          | .fail s => s.qtRefuse n addr
          | .ok s bs =>
            let r : TaskRec := BitVec.ofNat 512 (bytesNat bs)
            let put (s : State) : State :=
              let q : WorkQueue :=
                { n := n, header := addr, tmplAt := qhTmpl h, tmpl := r, base := qhBase h, size := qhSize h, esize := qhEsize h, b := qhBatch h,
                  prio := qhPrio h, fof := qhFof h, head := qhHead h, tail := qhHead h, oldestAt := s.cycle, flush := 0,
                  disabled := false }
              let s := s.qtDone n
              { s with hg := { s.hg with queues := s.hg.queues ++ [q] } }
            if s.recordReason r != 0 then s.qtRefuse n addr
            else if r.ntile = 0 then put s
            else
              match s.hgRead r.pdom r.partid 0 r.tilesAt (4 * r.ntile) with
              | .wait s => s
              | .fail s => s.qtRefuse n addr
              | .ok s bs =>
                if s.tilesGood r r.pdom ((List.range r.ntile).map fun i => bytesNat ((bs.drop (4 * i)).take 4)) then put s
                else s.qtRefuse n addr

/-- Queues still to be registered. -/
def State.registerPending (s : State) : State := s.hg.qtPend.foldl State.registerQueue s

/-- HG_QTCOUNT (R308): every queue below the count is registered afresh. -/
def State.writeQtcount (s : State) (v : BitVec 64) : State :=
  let n := min (v.toNat % 2 ^ 13) 4096
  { s with hg := { s.hg with qtcount := BitVec.ofNat 64 n, queues := [], qtPend := List.range n } }.registerPending

/-! ### Observation and launch -/

/-- A new tail of a queue (R59, R353): r records, and the age of the oldest counts from its first observation at the head. -/
def State.setTail (s : State) (q : WorkQueue) (tail : Nat) : State :=
  let q' := { q with tail := tail, oldestAt := if q.r = 0 then s.cycle else q.oldestAt }
  let s := s.mapQueue q.n fun _ => q'
  if q'.r > q'.size then s.disableQueue q' else s

/-- WORK_QUEUE_TAIL_OBSERVE (R59, R125, R156). -/
def execWorkQueueTailObserve (q : Nat) (s : State) : Host.Outcome State Fault Refusal :=
  .next (
    match s.queue? q with
    | some w =>
      if w.disabled then s
      else
        match s.hgRead 0 0 0 (w.header + 40) 4 with
        | .wait s => s
        | .fail s => s.disableQueue w
        | .ok s bs => if bytesNat bs = w.tail then s else s.leaveIdle.gxAcquire.setTail w (bytesNat bs)
    | none => s)

/-- Whether a queue is eligible (R62, R65). -/
def State.eligible (s : State) (q : WorkQueue) : Bool :=
  !q.disabled && q.r != 0 && (q.b ≤ q.r || q.oldestAt + s.qage ≤ s.cycle || q.flush != 0)

/-- Whether queue a is chosen before queue b (R62). -/
def State.queueBefore (s : State) (a b : WorkQueue) : Bool :=
  let age (q : WorkQueue) : Nat := s.cycle - q.oldestAt
  let fa := a.r * b.b
  let fb := b.r * a.b
  let byAge := if age a = age b then none else some (decide (age b < age a))
  let byFull := if fa = fb then none else some (decide (fb < fa))
  let keys := if bitsNat s.hg.policy.toNat 1 0 = 1 then [byAge, byFull] else [byFull, byAge]
  match keys with
  | [some x, _] => x
  | [none, some x] => x
  | _ => a.n < b.n

/-- The queue the next launch takes (R62). -/
def State.nextLaunch (s : State) : Option WorkQueue :=
  s.hg.queues.foldl (fun b q =>
    if s.eligible q then (match b with | some x => if s.queueBefore q x then some q else b | none => some q) else b) none

/-- A launch (R62): the first m records, one task from the template. -/
def State.launch (s : State) (q : WorkQueue) : State :=
  match s.hgRead 0 0 0 q.header 64 with
  | .wait s => s
  | .fail s => s.disableQueue q
  | .ok s bs =>
    let head := qhHead (bytesNat bs)
    let tail := qhTail (bytesNat bs)
    let r := (tail + 2 ^ 32 - head) % 2 ^ 32
    let q := { q with head := head, tail := tail }
    let s := s.mapQueue q.n fun _ => q
    if r > q.size then s.disableQueue q
    else if r = 0 then s.mapQueue q.n fun q => { q with flush := 0 }
    else
      let t : TaskRec := q.tmpl
      let n := if t.kind = 0 then max t.nstr 1 else 1
      let m := min (min r q.b) (min (98304 / n) (q.size - head % q.size))
      match s.unitWrite 0 none 0 0 0 (q.header + 44) (natBytesLE 4 (head + m)) with
      | .wait s => s
      | .fail s => s.disableQueue q
      | .ok s _ =>
        let s := s.gxRelease
        let s := s.mapQueue q.n fun q =>
          { q with head := (head + m) % 2 ^ 32, oldestAt := s.cycle, flush := q.flush - m }
        let rec_ : TaskRec := (((t.set 440 384 (q.base + q.esize * (head % q.size))).set 55 49 q.prio).set 93 77
          (if t.kind = 0 then m * n else 0))
        (s.accept rec_ q.tmplAt none false true).2

/-- WORK_QUEUE_LAUNCH (R62): the queue that is to be launched next. -/
def execWorkQueueLaunch (q : Nat) (s : State) : Host.Outcome State Fault Refusal :=
  .next (if s.launchHeld then s else match s.nextLaunch with | some w => if w.n = q then s.launch w else s | none => s)

/-- A FRAME token at the queues (R65): queues with flush-on-frame become eligible for the records they hold. -/
def State.frameQueues (s : State) : State :=
  { s with hg := { s.hg with queues := s.hg.queues.map fun q => if q.fof then { q with flush := q.r } else q } }

/-! ### Appends by GX units (R271) -/

/-- What an append comes to: it waits, the queue is gone or its memory failed, or so many records were appended. -/
inductive AppendRes where
  | wait (s : State)
  | fail (s : State)
  | ok (s : State) (n : Nat)

/-- Entries written one after another; what does not fill an entry is zero (R271). -/
def State.writeEntries (s : State) (q : WorkQueue) (idx : Nat) : List (List Byte) → UnitRes Unit
  | [] => .ok s ()
  | r :: rs =>
    let bs := (r ++ List.replicate (q.esize - r.length) 0).take q.esize
    match s.unitWrite 0 none 0 0 0 ((q.base + q.esize * (idx % q.size)) % 2 ^ 57) bs with
    | .ok s _ => s.writeEntries q (idx + 1) rs
    | r => r

/-- Records appended to a registered queue as far as there is room; TAIL is advanced once, as a release at device scope. -/
def State.appendQueue (s : State) (n : Nat) (recs : List (List Byte)) : AppendRes :=
  match s.queue? n with
  | none => .fail s
  | some q =>
    if q.disabled then .fail s
    else
      match s.hgRead 0 0 0 q.header 64 with
      | .wait s => .wait s
      | .fail s => .fail (s.disableQueue q)
      | .ok s bs =>
        let tail := qhTail (bytesNat bs)
        let room := q.size - (tail + 2 ^ 32 - qhHead (bytesNat bs)) % 2 ^ 32
        let k := min room recs.length
        if k = 0 then .ok s 0
        else
          match s.writeEntries q tail (recs.take k) with
          | .wait s => .wait s
          | .fail s => .fail (s.disableQueue q)
          | .ok s _ =>
            match s.gxRelease.unitWrite 0 none 0 0 0 (q.header + 40) (natBytesLE 4 (tail + k)) with
            | .wait s => .wait s
            | .fail s => .fail (s.disableQueue q)
            | .ok s _ => .ok s.gxRelease k

end Sys2Proof.Machine
end

