-- ==== Sys2Proof/Machine/EngineCore.lean ====
section
/-! DEFINITION. What every engine shares: its memory accesses (12 R403), the start and the frame of a command (12 R234 to R239),
faults, holding and abandoning (22 R379 to R381), and the tile-task ring (12 R243). -/
namespace Sys2Proof.Machine

/-- What an access or an iteration of an engine comes to: a wait, a fault with its code and address (R379), or a result. -/
inductive EngRes (α : Type) where
  | wait (s : State)
  | fault (s : State) (code addr : Nat)
  | ok (s : State) (x : α)

def EngRes.bind {α β : Type} (r : EngRes α) (f : State → α → EngRes β) : EngRes β :=
  match r with
  | .wait s => .wait s
  | .fault s c a => .fault s c a
  | .ok s x => f s x

/-- Where an engine stands: its die, the core whose caches and counter it uses (a QE: the cluster's first, but no L1), its unit number
(0 MX, 1 CE, 2 SSB, 3 QE), and the running command. -/
structure EngCtx where
  d : Nat
  c : Nat
  u : Nat
  r : EngRun

/-- To whom the events of a command are attributed (R322): its owning task, or the ring's PARTID. -/
def State.engWho (s : State) (e : EngEntry) : List (Nat × Bool) :=
  if e.task = 0 then [(e.partid, false)] else s.who e.task

/-- An event of a running command (R322): it belongs to the owning task, or to the ring's PARTID. -/
def State.noteRun (s : State) (x : EngCtx) (src n : Nat) : State :=
  { s with evBuf := s.evBuf ++ [{ die := x.d, core := some x.c, src := src, n := n, who := s.engWho x.r.entry }] }

/-- The fields of the common header (R237). -/
def EngRun.f (r : EngRun) (hi lo : Nat) : Nat := bitsNat r.words.toNat hi lo
def EngRun.nb (r : EngRun) : List Nat := [r.f 83 64, r.f 103 84, r.f 123 104, r.f 147 128, r.f 167 148]
def EngRun.barNo (r : EngRun) : Nat := r.f 19 16
def EngRun.wph (r : EngRun) : Nat := r.f 31 20
def EngRun.blnk (r : EngRun) : Bool := r.f 15 15 = 1
def EngRun.pbd (r : EngRun) : Bool := r.f 14 14 = 1
def EngRun.eve (r : EngRun) : Bool := r.f 13 13 = 1
def EngRun.evf (r : EngRun) : Nat := r.f 12 8
def EngRun.scope (r : EngRun) : Nat := r.f 7 6
def EngRun.rel (r : EngRun) : Bool := r.f 5 5 = 1
def EngRun.acq (r : EngRun) : Bool := r.f 4 4 = 1
def EngRun.opc (r : EngRun) : Nat := r.f 3 0

/-- Σ i_l × stride_l, for strides of w bits, signed, at bit lo + step × l, over the levels given (R241, R245, R252, R254). -/
def EngRun.strideSum (r : EngRun) (w lo step : Nat) (levels : List Nat) : Int :=
  levels.foldl (fun a l => a + (r.vec.getD l 0 : Nat) * bitsInt r.words.toNat (lo + step * l + w - 1) (lo + step * l)) 0

/-! ### Accesses (R403) -/

/-- The identifier of the owning task, 0 for a command of the ring. -/
def State.engTaskId (s : State) (r : EngRun) : Nat := match s.task? r.entry.task with | some t => t.id.toNat | none => 0

/-- A byte address that an Int gives, modulo 2^64. -/
def addrOf (x : Int) : Nat := (x % 2 ^ 64).toNat

/-- The physical place of a virtual address for an engine: it waits on a translation fault; code 5 or 6 when it is refused or
not permitted (R379). -/
def State.engPa (s : State) (x : EngCtx) (va : Nat) (write : Bool) : EngRes (Nat × L2Place) :=
  let refused := s.hg.refused.contains
    { die := x.d, core := some x.c, pdom := x.r.entry.pdom, task := s.engTaskId x.r, va := va }
  match s.unitTranslate x.d (some x.c) x.r.entry.pdom x.r.entry.partid (s.engTaskId x.r) va write with
  | .wait s => .wait s
  | .fail s => .fault s (if refused then 5 else 6) va
  | .ok s pa pl => .ok s (pa, pl)

/-- Bytes read, and the ranges of them (offset, length) that carry a mark. -/
structure Got where
  bytes : List Byte
  bad : List (Nat × Nat)

/-- Ranges of 8-byte words of storage that are poisoned, as ranges of an access. -/
def wordRanges (off n : Nat) (poison : List Nat) : List (Nat × Nat) :=
  ((wordsTouched off n).filter poison.contains).map fun w =>
    let lo := max off (8 * w)
    (lo - off, min (off + n) (8 * w + 8) - lo)

/-- The grant an aperture address of a command names (R403). -/
def State.engGrant (s : State) (x : EngCtx) (off n : Nat) : Option Bundle :=
  match x.r.entry.bundle.bind s.bundle? with
  | some b => if off + n ≤ 1024 * b.grant then some b else none
  | none => none

/-- The running command of an engine changed. -/
def State.mapRun (s : State) (d c u : Nat) (f : EngRun → EngRun) : State :=
  let e := s.engine d c u
  s.setEngine d c u { e with run := e.run.map f }

/-- The tiles of the command's domain that reserve the granules of a run of the operand buffer; none when one is not reserved, or for a
QE (R403). -/
def State.engTiles (s : State) (x : EngCtx) (off n : Nat) : Option (List Tile) :=
  let k := s.core x.d x.c
  let ts := (List.range ((off + n + 4095) / 4096 - off / 4096)).map fun i => k.tileAt x.r.entry.pdom (4096 * (off / 4096 + i))
  if x.u = 3 || off + n > 2 ^ 19 || ts.any Option.isNone then none else some (ts.filterMap id)

/-- An aperture access of an engine to the operand buffer (R403, R122): it waits while a tile is not ready, but for the tile that the
command fills and those that it uses already; from then on it uses them. -/
def State.engOpbuf (s : State) (x : EngCtx) (va off n : Nat) : EngRes Unit :=
  match s.engTiles x off n with
  | none => .fault s 7 va
  | some ts =>
    let ok (t : Tile) : Bool :=
      let h := tileHandle x.d x.c t
      t.state = 2 || (x.r.filling && (x.r.handles x.u).contains h) || (t.state = 3 && x.r.tiles.contains h)
    if ts.all ok then
      let hs := (ts.map (tileHandle x.d x.c)).eraseDups
      .ok (s.mapRun x.d x.c x.u fun r => { r with tiles := r.tiles ++ hs.filter fun h => !r.tiles.contains h }) ()
    else .wait s

/-- A bundle's grant read for an engine, with what is poisoned of it (R403, R114). -/
def State.engGrantRead (s : State) (b : Bundle) (off n at_ : Nat) (acc : Got) : EngRes Got :=
  match s.grantBytesAt b off n with
  | .ok s bs => .ok s { bytes := acc.bytes ++ bs, bad := acc.bad ++ (wordRanges off n b.poison).map fun (o, l) => (at_ + o, l) }
  | .wait s | .fail s => .wait s

/-- A read by an engine of n bytes (R403), piece by piece. -/
def State.engReadFrom (s : State) (x : EngCtx) (va n at_ : Nat) (acc : Got) : Nat → EngRes Got
  | 0 => .ok s acc
  | f + 1 =>
    if n = 0 then .ok s acc
    else
      match addrKind va with
      | .virt =>
        (s.engPa x va false).bind fun s (pa, pl) =>
          match s.unitAtom x.d (if x.u = 3 then none else some x.c) pa pl with
          | none => .wait s
          | some (v, m, s) =>
            let k := min n (32 - va % 32)
            s.engReadFrom x (va + k) (n - k) (at_ + k)
              { bytes := acc.bytes ++ natBytesLE k (getBytes v (va % 32) k),
                bad := if m = 0 then acc.bad else acc.bad ++ [(at_, k)] } f
      | .scratch off =>
        (match s.engGrant x off n with
         | some b => s.engGrantRead b off n at_ acc
         | none => .fault s 7 va)
      | .cluster h off =>
        (match s.bundle? h with
         | some b =>
           if b.pdom.toNat = x.r.entry.pdom && off + n ≤ 1024 * b.grant then s.engGrantRead b off n at_ acc
           else .fault s 7 va
         | none => .fault s 7 va)
      | .opbuf off =>
        (s.engOpbuf x va off n).bind fun s _ =>
          let k := s.core x.d x.c
          .ok s { bytes := acc.bytes ++ readBytes k.opbuf off n,
                  bad := acc.bad ++ (wordRanges off n k.opPoison).map fun (o, l) => (at_ + o, l) }
      | .bad => .fault s 7 va

def State.engRead (s : State) (x : EngCtx) (va n : Nat) : EngRes Got :=
  s.engReadFrom x va n 0 { bytes := [], bad := [] } (n / 32 + 2)

/-- A read whose marked data are a fault of the command (R379 code 8). -/
def State.engReadGood (s : State) (x : EngCtx) (va n : Nat) : EngRes (List Byte) :=
  (s.engRead x va n).bind fun s g =>
    match g.bad with
    | (o, _) :: _ => .fault s 8 (va + o)
    | [] => .ok s g.bytes

/-- A piece of a write that has passed its checks. -/
inductive EngPiece where
  | mem (pa len : Nat) (pl : L2Place)
  | grant (h off len : Nat)
  | opbuf (off len : Nat)
  deriving DecidableEq, Repr

def EngPiece.len : EngPiece → Nat
  | .mem _ n _ | .grant _ _ n | .opbuf _ n => n

/-- Whether an engine may write n bytes: every piece is checked before any is written (R238, R403). -/
def State.engMayWriteFrom (s : State) (x : EngCtx) (va n : Nat) (acc : List EngPiece) : Nat → EngRes (List EngPiece)
  | 0 => .ok s acc
  | f + 1 =>
    if n = 0 then .ok s acc
    else
      match addrKind va with
      | .virt =>
        (s.engPa x va true).bind fun s (pa, pl) =>
          let k := min n (32 - va % 32)
          if s.linkFull x.d pa then .wait s else s.engMayWriteFrom x (va + k) (n - k) (acc ++ [.mem pa k pl]) f
      | .scratch off =>
        (match s.engGrant x off n with
         | some b => .ok s (acc ++ [.grant b.handle off n])
         | none => .fault s 7 va)
      | .opbuf off => (s.engOpbuf x va off n).bind fun s _ => .ok s (acc ++ [.opbuf off n])
      | _ => .fault s 7 va

def State.engMayWrite (s : State) (x : EngCtx) (va n : Nat) : EngRes (List EngPiece) :=
  s.engMayWriteFrom x va n [] (n / 32 + 2)

/-- Whether a range of an access meets a marked one. -/
def hitsBad (bad : List (Nat × Nat)) (o n : Nat) : Bool := bad.any fun (a, l) => a < o + n && o < a + l

/-- 8-byte words of a piece of storage that are written from marked bytes. -/
def badWords (bad : List (Nat × Nat)) (o off n : Nat) : List Nat :=
  (wordsTouched off n).filter fun w => hitsBad bad (o + (max off (8 * w) - off)) (min (off + n) (8 * w + 8) - max off (8 * w))

/-- The pieces written; what comes from marked bytes is marked (R372, R373). A run with more atoms than R150 lets stand unacknowledged
waits for the oldest as it goes. -/
def State.engPut (s : State) (x : EngCtx) (bs : List Byte) (bad : List (Nat × Nat)) (o : Nat) : List EngPiece → State
  | [] => s
  | p :: ps =>
    let part := (bs.drop o).take p.len
    let s := match p with
      | .mem pa n pl =>
        let s := s.linkRoom x.d pa (4 * s.xwrites.length)
        if hitsBad bad o n then s.writeAtomPoisoned x.d (some x.c) pa part (some pl)
        else s.writeAtom x.d (some x.c) pa part false (some pl)
      | .grant h off n =>
        let s := s.putGrant h off part
        if bad.isEmpty then s else s.mapBundle h fun b => { b with poison := (badWords bad o off n).foldl (fun l w => insertNat w l) b.poison }
      | .opbuf off n =>
        let s := s.writeOpbuf x.d x.c off part
        if bad.isEmpty then s
        else
          let k := s.core x.d x.c
          s.setCore x.d x.c { k with opPoison := (badWords bad o off n).foldl (fun l w => insertNat w l) k.opPoison }
    s.engPut x bs bad (o + p.len) ps

/-- A checked write. -/
def State.engWrite (s : State) (x : EngCtx) (va : Nat) (bs : List Byte) : EngRes Unit :=
  (s.engMayWrite x va bs.length).bind fun s ps => .ok (s.engPut x bs [] 0 ps) ()

/-! ### Fault slots (R380) -/

/-- The physical address of a core's fault slot for an engine; none where it cannot be written, which does not wait (R380,
R404). -/
def State.faultSlot (s : State) (d c u task : Nat) : Option (Nat × L2Place) × State :=
  let base := bitsNat (s.core d c).engfa.toNat 56 8
  if base = 0 then (none, s)
  else
    match s.unitTranslate d (some c) 0 0 task ((256 * base + 64 * u) % 2 ^ 57) true with
    | .ok s pa pl => (some (pa, pl), s)
    | .wait s | .fail s => (none, s)

/-- A record written to a fault slot, or its COUNT raised when VALID is still 1. -/
def State.reportFault (s : State) (d c u : Nat) (r : EngRun) (record rdva code addr task : Nat) (held : Bool) : State :=
  match s.faultSlot d c u task with
  | (none, s) => s
  | (some (pa, pl), s) =>
    let old := readNat s.mem pa 64
    if bitNat old 0 then
      let n := min (bitsNat old 63 32 + 1) (2 ^ 32 - 1)
      s.writeMem d (some c) (pa + 4) (natBytesLE 4 n) false (some pl)
    else
      let vec := if u = 1 then 0 :: r.vec.drop 1 else r.vec
      let i (k : Nat) : Nat := vec.getD k 0 % 2 ^ 20 * 2 ^ (252 + 20 * k)
      let x := 1 + (if held then 2 else 0) + code * 2 ^ 8 + 2 ^ 32 + addr % 2 ^ 64 * 2 ^ 128 +
        (if u = 2 then r.sub % 2 ^ 21 * 2 ^ 224 else 0) + i 0 + i 1 + i 2 + i 3 + i 4 + task * 2 ^ 352 +
        record % 2 ^ 64 * 2 ^ 384 + rdva % 2 ^ 64 * 2 ^ 448
      s.writeMem d (some c) pa (natBytesLE 64 x) false (some pl)

/-- HELD of an engine's slot is cleared when its command is no longer held (R381). -/
def State.clearHeld (s : State) (d c u task : Nat) : State :=
  match s.faultSlot d c u task with
  | (none, s) => s
  | (some (pa, pl), s) =>
    let b := readByte s.mem pa
    if b.getLsbD 0 && b.getLsbD 1 then s.writeMem d (some c) pa [b &&& 0xFD] false (some pl) else s

/-! ### Abandoning and completing -/

/-- The core whose CSRs, flags and counter serve an engine (R239, R380). -/
def engCore (c u : Nat) : Nat := if u = 3 then c / 4 * 4 else c

/-- The bundle whose barrier a record uses: BHND, or the enqueuing strand's (R237). -/
def State.engBundle (s : State) (r : EngRun) : Option Nat :=
  match (if r.f 63 32 = 0 then r.entry.bundle else some (r.f 63 32)).bind s.bundle? with
  | some b => if b.pdom.toNat = r.entry.pdom then some b.handle else none
  | none => none

/-- A command is abandoned (R381): its fill ends without its last write, its rendezvous is marked, and steps 4 to 6 of R239
follow. -/
def State.abandon (s : State) (d c u : Nat) (r : EngRun) : State :=
  let s := s.stopFill u r
  let s := match r.entry.rdv with
    | some (pa, _) =>
      let low := s.rdvMarks.foldl (fun (n : Nat) (x : Nat × Nat) => if x.1 = pa then min n x.2 else n) r.entry.record
      { s with rdvMarks := (pa, low) :: s.rdvMarks.filter fun x => x.1 != pa }
    | none => s
  let bhnd := if r.bhnd.isNone && (r.blnk || r.pbd) then s.engBundle r else r.bhnd
  s.mapRun d c u fun r => { r with stage := 4, abandoned := true, filling := false, held := none, bhnd := bhnd }

/-- A command faults (R379 to R381): its slot, and then it is held or abandoned. -/
def State.engFault (s : State) (d c u : Nat) (r : EngRun) (code addr : Nat) : State :=
  let k := engCore c u
  let hold := (s.core d k).engHold
  let rdva := match r.entry.rdv with | some (_, va) => va | none => 0
  let s := s.reportFault d k u r r.entry.record rdva code addr (s.engTaskId r) hold
  if hold then s.mapRun d c u fun r => { r with held := some (code, addr) } else s.abandon d c u r

/-- Whether the store that initialises a rendezvous object is still on its way to its home; `src` none for that of any die (R280). -/
def State.rdvComing (s : State) (pa : Nat) (src : Option Nat) : Bool :=
  s.xwrites.any fun w => w.pa = pa && !w.applied && (match src with | some d => w.src = d | none => true)

/-- One atomic update of a rendezvous object at its home (R236); an access of the L2 there. -/
def State.updateRdv (s : State) (pa : Nat) (flags : BitVec 5) : State :=
  let x := readNat s.mem pa 16
  let x := setBits x 15 0 (bitsNat x 15 0 + 2 ^ 16 - 1)
  (s.l2Touch pa none true).homeWriteAtom pa (natBytesLE 16 (setBits x 68 64 (bitsNat x 68 64 ||| flags.toNat))) false

/-- The pending bytes of a run are counted (R252). -/
def State.countRun (s : State) (r : EngRun) : State :=
  match r.bhnd with
  | some h => if r.pbd then s.putBar h r.barNo fun b => { b with pend := b.pend - BitVec.ofNat 56 (r.f 83 64) } else s
  | none => s

/-- Whether every byte of a run that is still to be counted has reached its home (R252). -/
def State.runLanded (s : State) (r : EngRun) : Bool :=
  match r.count with
  | some (a, b) => !s.xwrites.any fun w => a ≤ w.id && w.id < b && !w.applied
  | none => true

/-- The pending bytes of the last run are counted once every byte of it is visible (R252); false while they are not. -/
def State.settleRun (s : State) (d c u : Nat) (r : EngRun) : State × Bool :=
  if r.count.isNone then (s, true)
  else if s.runLanded r then ((s.countRun r).mapRun d c u fun r => { r with count := none }, true)
  else (s, false)

/-- Step 6 of R239: the rendezvous or the engine task, and the owner's count (R38, R109, R381). -/
def State.retireCommand (s : State) (d c u : Nat) (r : EngRun) : State :=
  let s := match r.entry.rdv with | some (pa, _) => s.updateRdv pa r.flags | none => s
  let s := s.setEngine d c u { s.engine d c u with run := none }
  let s :=
    if r.entry.engTask && r.abandoned then (s.mapTask r.entry.task fun t => { t with exc := t.exc ||| r.flags, engLeft := 0 }).endPlain r.entry.task
    else s.mapTask r.entry.task fun t => { t with engLeft := t.engLeft - 1, exc := t.exc ||| r.flags }
  let s := match r.entry.bundle with | some h => s.dissolveIfDone h | none => s
  match r.bhnd with | some h => s.dissolveIfDone h | none => s

/-- Whether a capture covers a command: by its task, or by its PARTID for one of the ring (R47). -/
def State.coversEntry (s : State) (c : Capture) (e : EngEntry) : Bool :=
  match s.task? e.task with
  | some t => c.covers t
  | none => c.what = 2 || (c.what = 1 && c.id = e.partid)

/-- Whether a command has been stopped by a capture, a halt or its end (R47, R323, R397). -/
def State.entryStopped (s : State) (e : EngEntry) : Bool :=
  (match s.task? e.task with | some t => t.state = .ending || t.halted | none => false) || s.captures.any fun c => s.coversEntry c e

/-- Steps 4 to 6 of R239. The flag is set at the end of the cycle (R232), and what follows it comes after that. A command that a capture
or a halt has stopped, or whose task is being ended, goes no further (R47). -/
def State.completeCommand (s : State) (d c u : Nat) : State :=
  match (s.engine d c u).run with
  | none => s
  | some r =>
    let k := engCore c u
    if s.entryStopped r.entry || (match r.entry.rdv with | some (pa, _) => s.rdvComing pa none | none => false) then s
    else if r.stage = 4 then
      match s.settleRun d c u r with
      | (s, false) => s
      | (s, true) =>
        if r.rel && 2 ≤ r.scope && (s.core d k).outstanding != 0 then s
        else
          let s := match r.bhnd with
            | some h =>
              if r.blnk then s.putBar h r.barNo fun x => { x with arr := if x.arr ≥ 1023 then x.arr else x.arr + 1 } else s
            | none => s
          if r.eve then
            ({ s with flagBuf := s.flagBuf ++ [((d, k), r.evf, true)] } : State).mapRun d c u fun r => { r with stage := 5 }
          else s.retireCommand d c u r
    else if r.stage = 5 && !s.flagBuf.contains ((d, k), r.evf, true) then s.retireCommand d c u r
    else s

/-- ENGINE_COMMAND_COMPLETE (R239): `unit` is the core, or for a QE its cluster; `eng` 0 MX, 1 CE, 2 SSB, 3 QE. -/
def execEngineCommandComplete (die unit eng : Nat) (s : State) : Host.Outcome State Fault Refusal :=
  .next (s.completeCommand die (if eng = 3 then 4 * unit else unit) eng)

/-- The fields of ENGCTL (R380): ACT acts on the held command of ENG. -/
def State.writeEngctl (s : State) (d c : Nat) (v : Word) : State :=
  let k := s.core d c
  let s := s.setCore d c { k with engSel := v.extractLsb' 4 2, engHold := v.getLsbD 0 }
  let u := (v.extractLsb' 4 2).toNat
  if !v.getLsbD 9 || (u = 3 && c % 4 != 0) then s
  else
    match (s.engine d c u).run with
    | some r =>
      if r.held.isNone then s
      else
        let s := s.clearHeld d c u (s.engTaskId r)
        if v.getLsbD 8 then s.mapRun d c u fun r => { r with held := none } else s.abandon d c u r
    | none => s

/-- ENGCTL_RESUME (R381). -/
def execEngctlResume (die core : Nat) (v : BitVec 32) (s : State) : Host.Outcome State Fault Refusal :=
  .next (if v.getLsbD 9 && v.getLsbD 8 then s.writeEngctl die core v else s)

/-- ENGCTL_ABANDON (R381). -/
def execEngctlAbandon (die core : Nat) (v : BitVec 32) (s : State) : Host.Outcome State Fault Refusal :=
  .next (if v.getLsbD 9 && !v.getLsbD 8 then s.writeEngctl die core v else s)

/-! ### Starting -/

/-- A command as it leaves its queue (R234, R238): its epoch is its task's now. -/
def State.freshRun (s : State) (e : EngEntry) : EngRun :=
  { entry := e, words := 0, epoch := match s.task? e.task with | some t => t.epoch | none => 0, stage := 0,
    vec := [0, 0, 0, 0, 0], sub := 0, flags := 0, rng := 0, zeroed := [], held := none, bhnd := none, form := false,
    entered := false, abandoned := false, filling := false, waiting := none, tiles := [], count := none, state := [] }

/-- The head of an idle engine's queue starts: a forked group when all its entries stand at their heads (R234, R235). -/
def State.startHead (s : State) (d c u : Nat) : State :=
  let e := s.engine d c u
  match e.run, e.queue with
  | none, q :: rest =>
    if s.entryStopped q then s
    else if q.group = 0 then s.setEngine d c u { queue := rest, run := some (s.freshRun q) }
    else
      let us := onesOf q.engines.toNat 4
      if us.all fun v =>
          let x := s.engine d c v
          x.run.isNone && (match x.queue with | y :: _ => y.group = q.group | [] => false) then
        us.foldl (fun s v =>
          let x := s.engine d c v
          match x.queue with
          | y :: r => s.setEngine d c v { queue := r, run := some (s.freshRun y) }
          | [] => s) s
      else s
  | _, _ => s

/-- Whether reserved fields of a record are non-zero, by engine (R237, R240, R245, R251, R253). -/
def EngRun.reservedBad (r : EngRun) (u : Nat) : Bool :=
  r.f 191 168 != 0 || r.f 127 124 != 0 || (u != 1 && r.pbd) ||
    match u with
    | 0 => r.f 511 456 != 0
    | 1 => r.f 319 313 != 0 || r.f 255 249 != 0
    | 2 => r.f 511 336 != 0 || r.f 255 249 != 0
    | _ => r.f 511 464 != 0 || r.f 255 252 != 0 || r.f 250 249 = 3

/-- The destination tile of a CE or QE command (R251, R253). -/
def EngRun.dtl (r : EngRun) (u : Nat) : Nat := if u = 1 then r.f 351 320 else if u = 3 then r.f 319 288 else 0

/-- Whether a handle names a live tile of a domain on the engine's core, or for a QE on a core of its cluster (R379 code 9). -/
def State.engTile (s : State) (x : EngCtx) (h : Nat) : Option Tile :=
  if handleDie h = x.d && (if x.u = 3 then handleCore h / 4 = x.c / 4 else handleCore h = x.c) then
    match s.tile h with
    | some t => if t.pdom = x.r.entry.pdom then some t else none
    | none => none
  else none

/-- Whether another command has waited longer for the same tile (R122). -/
def State.waitsBefore (s : State) (x : EngCtx) (h since : Nat) : Bool :=
  s.engines.any fun ((d, c, u), e) =>
    match e.run with
    | some r =>
      !(d = x.d && c = x.c && u = x.u) && r.dtl u = h &&
        (match r.waiting with | some n => n < since || (n = since && u < x.u) | none => false)
    | none => false

/-- A command's checks at its start, and the entry of its destination tile into filling (R122, R237, R252, R254, R379). -/
def State.startChecks (s : State) (x : EngCtx) : EngRes EngRun :=
  let r := x.r
  let maxOp := if x.u = 0 then 1 else 0
  if (r.blnk || r.pbd) && (s.engBundle r).isNone then .fault s 7 0
  else if maxOp < r.opc then .fault s 1 0
  else if r.nb.any (· = 0) then .fault s 2 0
  else if r.reservedBad x.u then .fault s 3 0
  else
    let r := { r with bhnd := if r.blnk || r.pbd then s.engBundle r else none,
                      rng := if r.f 351 320 = 0 then 0x2545F491 else BitVec.ofNat 32 (r.f 351 320) }
    let h := r.dtl x.u
    if h = 0 && x.u != 3 then .ok s { r with stage := 2 }
    else
      match s.engTile x h with
      | none => .fault s 9 0
      | some t =>
        let since := r.waiting.getD s.cycle
        let fmt := t.fmt
        if x.u = 3 && (t.cmp || !(8 ≤ fmt || fmt = 3 || fmt = 4 || fmt = 6 || fmt = 7)) then .fault s 11 0
        else if t.state = 3 then .fault s 9 0
        else if t.state = 1 || s.waitsBefore x h since then
          .wait (s.mapRun x.d x.c x.u fun r => { r with waiting := some since })
        else
          .ok (s.mapTile h fun t => { t with state := 1, marked := false })
            { r with stage := 2, filling := true, waiting := none }

/-- Whether the barrier link of a command is satisfied (R239 step 1). -/
def State.linkReady (s : State) (r : EngRun) : Bool :=
  if !r.blnk then true
  else
    match r.bhnd.bind s.bundle? with
    | some b => ((b.bars.getD r.barNo (Bar.fresh 1)).phase + 4096 - r.wph) % 4096 < 2048
    | none => true

/-- The vector after an iteration, level 0 innermost; none when the nest is done (R238). -/
def nextVec : List Nat → List Nat → Option (List Nat)
  | i :: is, b :: bs => if i + 1 < b then some ((i + 1) :: is) else (nextVec is bs).map fun v => 0 :: v
  | _, _ => none

/-- The bounds of a command's nest: CE has no level 0 (R238). -/
def EngRun.bounds (r : EngRun) (u : Nat) : List Nat := if u = 1 then 1 :: r.nb.drop 1 else r.nb

/-- One step of an engine up to its iterations: the start, the record, the checks, the barrier link and the acquire; then one
iteration by `iter`, which answers the command after it (R234 to R239). -/
def State.engineStep (s : State) (d c u : Nat) (iter : State → EngCtx → EngRes EngRun) : State :=
  let k := engCore c u
  let s := s.startHead d c u
  match (s.engine d c u).run with
  | none => s
  | some r =>
    if r.held.isSome || s.entryStopped r.entry then s
    else
      let x : EngCtx := { d := d, c := k, u := u, r := r }
      let tag (t : State) : State :=
        (t.tagWrites s.nextId (s.engTaskId r) r.entry.pdom).tagNotes s.evBuf.length (s.engWho r.entry)
      let finish (q : EngRes EngRun) : State :=
        match q with
        | .wait s => tag s
        | .fault s code addr => (tag s).engFault d c u r code addr
        | .ok s r' => (tag s).mapRun d c u fun old => { r' with tiles := old.tiles }
      match r.stage with
      | 0 =>
        finish (
          match r.entry.ring with
          | some w => .ok s { r with words := w, stage := 1 }
          | none =>
            if r.entry.record % 64 != 0 then .fault s 7 r.entry.record
            else
              (s.engReadGood x r.entry.record 64).bind fun s bs =>
                .ok s { r with words := BitVec.ofNat 512 (bytesNat bs), stage := 1 })
      | 1 => finish (s.startChecks x)
      | 2 =>
        if s.linkReady r then
          let s := if r.acq then tag (s.acquire d k r.scope r.entry.bundle { die := d, core := k, slot := 0 }) else s
          s.mapRun d c u fun r => { r with stage := 3 }
        else s
      | 3 =>
        let (s, landed) := s.settleRun d c u r
        if !landed then s
        else
        finish ((iter s { x with r := { r with count := none } }).bind fun s r' =>
          if u = 2 && r'.sub != 0 then .ok s r'
          else
            match nextVec r'.vec (r'.bounds u) with
            | some v => .ok s { r' with vec := v, entered := false }
            | none => .ok (s.endFill u r') { r' with stage := 4, filling := false })
      | _ => s

/-! ### The tile-task ring (R243) -/

/-- The ring's reading stops until MXRING is written (R404). -/
def State.stopRing (s : State) (d c : Nat) : State :=
  let k := s.core d c
  (s.setCore d c { k with ringStopped := true }).faultRecord 4 0 0 (bitsNat k.mxring.toNat 56 5 * 32)

/-- MXRING_TAIL_OBSERVE (R243): the record at HEAD enters the queue when an entry is free and its tiles are ready; a handle
that names no live tile holds nothing back. -/
def execMxringTailObserve (die core : Nat) (s : State) : Host.Outcome State Fault Refusal :=
  .next (
    let k := s.core die core
    let hdr := bitsNat k.mxring.toNat 56 5 * 32
    if hdr = 0 || k.ringStopped || !s.queueFree die core 0 then s
    else
      match s.hgRead 0 0 0 hdr 32 with
      | .wait s => s
      | .fail s => s.stopRing die core
      | .ok s bs =>
        let h := bytesNat bs
        let head := bitsNat h 151 128
        let tail := bitsNat h 119 96
        let size := max (bitsNat h 80 64) 1
        if head = tail then s
        else
          match s.hgRead 0 0 0 ((bitsNat h 56 0 + 64 * (head % size)) % 2 ^ 57) 64 with
          | .wait s => s
          | .fail s => s.stopRing die core
          | .ok s bs =>
            let w := BitVec.ofNat 512 (bytesNat bs)
            let pdom := bitsNat h 95 88
            let ready (x : Nat) : Bool :=
              match s.tile x with
              | some t => t.state = 2 || t.pdom != pdom || handleDie x != die || handleCore x != core
              | none => true
            if !([bitsNat w.toNat 223 192, bitsNat w.toNat 255 224, bitsNat w.toNat 287 256].all ready) then s
            else
              match s.unitWrite 0 none 0 0 0 (hdr + 16) (natBytesLE 3 (head + 1)) with
              | .wait s => s
              | .fail s => s.stopRing die core
              | .ok s _ =>
                let s := s.gxRelease
                let k := s.core die core
                let e : EngEntry :=
                  { record := (bitsNat h 56 0 + 64 * (head % size)) % 2 ^ 57, task := 0, pdom := pdom,
                    partid := bitsNat h 87 84, bundle := none, group := 0, engines := 0, rdv := none, engTask := false,
                    ring := some w }
                s.setCore die core { k with mx := { k.mx with queue := k.mx.queue ++ [e] }, ringTail := tail })

end Sys2Proof.Machine
end

