-- ==== Sys2Proof/Machine/Debug.lean ====
section
/-! DEFINITION. Trace records and their ring, breakpoints and the halt of a task (16 R316 to R323; 14 R297; 19 R404; 23 R395). -/
namespace Sys2Proof.Machine

/-! ### Making a record -/

/-- The part common to all trace records (R320). -/
def traceCommon (typ arg die core bhnd sid task pc ns : Nat) : Nat :=
  typ + arg % 2 ^ 8 * 2 ^ 8 + die * 2 ^ 16 + core * 2 ^ 18 + bhnd * 2 ^ 32 + sid * 2 ^ 64 + task * 2 ^ 96 +
    pc * 2 ^ 128 + ns % 2 ^ 64 * 2 ^ 192

/-- A record made: it is written in its turn (R318). -/
def State.traceAdd (s : State) (r : Nat) : State :=
  if s.trace.opened && !s.trace.closing then
    { s with trace := { s.trace with queue := s.trace.queue ++ [BitVec.ofNat 512 r] } }
  else s

/-- A record made that stands behind a sample of its strand. -/
def heldRecord (sid : Word) (r : Nat) : Sample :=
  { sid := sid, made := some (BitVec.ofNat 512 r), common := 0, pc := 0, insn := 0, active := 0, sectors := 0, levels := [], left := [] }

/-- A record of a strand (R320), with what its type holds at bit 256: records of one strand are written in its issue order (R318). -/
def State.traceStrand (s : State) (st : Strand) (typ arg x : Nat) : State :=
  let r := traceCommon typ arg st.at_.die st.at_.core (match st.bundle with | some (h, _) => h | none => 0) st.sid.toNat
    st.taskId.toNat st.pc.toNat s.timeNs + x * 2 ^ 256
  if s.trace.samples.any fun y => y.sid = st.sid then
    { s with trace := { s.trace with samples := s.trace.samples ++ [heldRecord st.sid r] } }
  else s.traceAdd r

/-- A record of the Headgate: window open, window close, lost and halt (R320). -/
def State.traceDevice (s : State) (typ task x : Nat) : State :=
  s.traceAdd (traceCommon typ 0 0 0 0 0 task 0 s.timeNs + x * 2 ^ 256)

/-! ### Writing records -/

/-- A record that is lost is counted (R318, R404). -/
def State.traceLost (s : State) : State :=
  let t := s.trace
  { s with trace := { t with lost := min (t.lost + 1) (2 ^ 32 - 1), lostRun := t.lostRun + 1, lostDue := true } }

/-- LOST goes to the control record. -/
def State.putLost (s : State) : State × Bool :=
  if !s.trace.lostDue then (s, true)
  else
    match s.unitWrite 0 none 0 0 0 (s.trace.ctrl + 48) (natBytesLE 4 s.trace.lost) with
    | .wait s => (s, false)
    | .fail s | .ok s _ => ({ s with trace := { s.trace with lostDue := false } }, true)

/-- A record is written at HEAD, and HEAD advances as a release (R318). -/
def State.tracePut (s : State) (r : BitVec 512) : UnitRes Unit :=
  let t := s.trace
  match s.unitWrite 0 none 0 0 0 (t.base + 64 * (t.head % t.size)) (natBytesLE 64 r.toNat) with
  | .wait s => .wait s
  | .fail s => .fail s
  | .ok s _ =>
    let head := (t.head + 1) % 2 ^ 32
    match s.gxRelease.unitWrite 0 none 0 0 0 (t.ctrl + 40) (natBytesLE 4 head) with
    | .wait s => .wait s
    | .fail s => .fail s
    | .ok s _ =>
      let s := s.gxRelease
      .ok { s with trace := { s.trace with head := head } } ()

/-- Whether the ring is full, by TAIL as the consumer has left it (R318). -/
def State.traceFull (s : State) : UnitRes Bool :=
  match s.hgRead 0 0 0 (s.trace.ctrl + 44) 4 with
  | .wait s => .wait s
  | .fail s => .ok s false
  | .ok s bs => .ok s (s.trace.size ≤ (s.trace.head + 2 ^ 32 - bytesNat bs) % 2 ^ 32)

/-- The next record is lost: it leaves the queue and is counted. -/
def State.traceDiscard (s : State) : State :=
  { s.traceLost with trace := { s.traceLost.trace with queue := s.trace.queue.drop 1 } }

/-- The records made are written in order, a lost record before the first that finds room again (R318). Where a record cannot be written
it is counted in LOST, and where that is a lost record, so is the record that was to follow it (R404). -/
def State.traceDrain (s : State) : Nat → State
  | 0 => s.putLost.1
  | n + 1 =>
    match s.putLost with
    | (s, false) => s
    | (s, true) =>
      match s.trace.queue with
      | [] => s
      | r :: rest =>
        match s.traceFull with
        | .wait s | .fail s => s
        | .ok s true => s.traceDiscard.traceDrain n
        | .ok s false =>
          if s.trace.lostRun != 0 then
            let lost := BitVec.ofNat 512 (traceCommon 6 0 0 0 0 0 0 0 s.timeNs + s.trace.lostRun % 2 ^ 32 * 2 ^ 256)
            match s.tracePut lost with
            | .wait s => s
            | .fail s => s.traceLost.traceDiscard.traceDrain n
            | .ok s _ => { s with trace := { s.trace with lostRun := 0 } }.traceDrain n
          else
            match s.tracePut r with
            | .wait s => s
            | .fail s => s.traceDiscard.traceDrain n
            | .ok s _ => { s with trace := { s.trace with queue := rest } }.traceDrain n

/-! ### The capture window -/

/-- Whether a traced task is still to complete (R317): markers apart, which run nothing. -/
def State.tracedLeft (s : State) : Bool := s.hg.tasks.any fun t => t.traced && TaskRec.kind t.record != 3

/-- The window is closed and gone. -/
def State.traceEnd (s : State) : State :=
  { s with trace := { Trace.reset with base := s.trace.base, size := s.trace.size },
           hg := { s.hg with tasks := s.hg.tasks.map fun t => { t with traced := false } } }

/-- At the end of a cycle the records made are written. A window whose admission has stopped closes once its last traced task has
completed (R317): the close record is made, no record is made after it, and the window is gone once all have been written. -/
def State.endTrace (s : State) : State :=
  if !s.trace.opened then s
  else
    let s :=
      if s.trace.stopping && !s.trace.closing && !s.tracedLeft && s.trace.samples.isEmpty then
        let s := s.traceDevice 5 s.trace.task.toNat 0
        { s with trace := { s.trace with closing := true } }
      else s
    let s := s.traceDrain (2 * s.trace.queue.length)
    if s.trace.closing && s.trace.queue.isEmpty && !s.trace.lostDue then s.traceEnd else s

/-- A marker has been processed: its completion is made in the same step (R65, R316, R317). -/
def State.markerDone (s : State) (key : Nat) : State := s.finishNow key 0

/-- Whether a marker is to be processed now (R65): it is ready, and where it is no graph node, every such marker of its queue accepted
before it has been. -/
def State.markerReady (s : State) (t : Task) (mark : Nat) : Bool :=
  t.state = .ready && TaskRec.kind t.record = 3 && TaskRec.mark t.record = mark &&
    (TaskRec.graph t.record ||
      !s.hg.tasks.any fun x => x.state = .ready && TaskRec.kind x.record = 3 && !TaskRec.graph x.record && x.spawned = t.spawned && x.key < t.key)

/-- The control record is read, HEAD and LOST are written, and the window opens with its record (R316). A control record that cannot be
read or written opens no window (R404). -/
def State.traceOpen (s : State) (t : Task) : State :=
  let ctrl := TaskRec.entry t.record
  if ctrl % 64 != 0 then s.markerDone t.key
  else
    match s.hgRead 0 0 0 ctrl 64 with
    | .wait s => s
    | .fail s => s.markerDone t.key
    | .ok s bs =>
      let r := bytesNat bs
      match s.unitWrite 0 none 0 0 0 (ctrl + 40) (natBytesLE 4 0) with
      | .wait s => s
      | .fail s => s.markerDone t.key
      | .ok s _ =>
        match s.unitWrite 0 none 0 0 0 (ctrl + 48) (natBytesLE 4 0) with
        | .wait s => s
        | .fail s => s.markerDone t.key
        | .ok s _ =>
          let s := s.gxRelease
          let s : State := { s with
            trace := { Trace.reset with opened := true, ctrl := ctrl, base := bitsNat r 56 0, size := max (bitsNat r 159 128) 1,
                                        sper := bitsNat r 287 256, task := t.id, queueAdmits := true, fromSpawn := t.spawned }
            cores := s.cores.map fun (q : (Nat × Nat) × Core) => (q.1, { q.2 with sampleCount := 0 }) }
          (s.traceDevice 4 t.id.toNat 0).markerDone t.key

/-- Tasks are admitted to the window no more (R317); `id` is the marker that its close record names. -/
def State.traceStopping (s : State) (id : Word) : State :=
  if s.trace.stopping then s else { s with trace := { s.trace with stopping := true, queueAdmits := false, task := id } }

/-- A START is processed (R316, R395): with the debug state off no window opens; an open one closes first as a STOP closes it, and the
START waits until it has (assumption 58). -/
def State.processStart (s : State) (key : Nat) : State :=
  match s.task? key with
  | none => s
  | some t =>
    if !s.markerReady t 2 then s
    else if s.mg.dbg.toNat % 4 = 0 then s.markerDone key
    else if s.trace.opened then s.traceStopping t.id
    else s.traceOpen t

/-- TRACE_START (R316). -/
def execTraceStart (key : Nat) (s : State) : Host.Outcome State Fault Refusal := .next (s.processStart key)

/-- A STOP is processed (R317): no further task of the START's queue is admitted. -/
def State.processStop (s : State) (key : Nat) : State :=
  match s.task? key with
  | none => s
  | some t =>
    if !s.markerReady t 3 then s
    else (if s.trace.opened && s.trace.fromSpawn = t.spawned then s.traceStopping t.id else s).markerDone key

/-- TRACE_STOP (R317). -/
def execTraceStop (key : Nat) (s : State) : Host.Outcome State Fault Refusal := .next (s.processStop key)

/-! ### Breakpoints and halts -/

/-- A context capture is asked for, once (R47). -/
def State.askCapture (s : State) (what id why : Nat) : State :=
  let c : Capture := { what := what, id := id, why := why }
  if s.captures.contains c then s else { s with captures := s.captures ++ [c] }

/-- BKPT and a comparator match with k, before the instruction issues (R297, R319): the state that holds its record, and whether the
strand goes no further. A halt is a context capture, which ends no window: a strand with a window open asks for it and goes on, to stop at
its first boundary with none (R47, R160; assumption 45). Data that bring causes to an interlocked strand come first (R359). -/
def State.breakpoint (s : State) (st : Strand) (k : Nat) : State × Bool :=
  let db := s.mg.dbg.toNat
  if db = 2 && s.mg.arm then
    if !st.windowOpen then ((s.putStrand { st with stopped := true }).askCapture 0 st.task 0, true)
    else if st.native then (s.askCapture 0 st.task 0, false)
    else (s.settleDue st.closeWindows, true)
  else if db = 0 then (s, false)
  else (s.traceStrand st 1 k 0, false)

/-- The comparator a PC matches (R319): none for the first instruction after a resume, nor for one that issues again. -/
def State.comparator (s : State) (st : Strand) : Option Nat :=
  if st.resumed || st.again then none
  else s.mg.bps.findIdx? fun b => b.getLsbD 63 && bitsNat b.toNat 56 2 = st.pc.toNat / 4

/-- BKPT (R297). -/
def execBkpt (k : BitVec 7) (s : State) : Host.Outcome State Fault Refusal :=
  s.onStrand fun st =>
    match s.breakpoint st k.toNat with
    | (s, true) => s
    | (s, false) => s.putStrand (st.retire s.cycle 1)

/-- TMARK (R297). -/
def execTmark (a : BitVec 7) (k : BitVec 7) (s : State) : Host.Outcome State Fault Refusal :=
  s.onStrand fun st =>
    (if s.mg.dbg = 0 then s else s.traceStrand st 2 k.toNat (st.s a).toNat).putStrand (st.retire s.cycle 1)

end Sys2Proof.Machine
end

