-- ==== Sys2Proof/Machine/Flags.lean ====
section
/-! DEFINITION. Floating-point formats, exact values, rounding, and the flag every operation raises (05 R91 to R101, R106,
R107, R111). A finite value is held exactly as m × 2^e; an operation computes exactly and rounds once. -/
namespace Sys2Proof.Machine

/-- FPFLAGS bits (R94). -/
def fNX : BitVec 5 := 1
def fUF : BitVec 5 := 2
def fOF : BitVec 5 := 4
def fDZ : BitVec 5 := 8
def fNV : BitVec 5 := 16

/-- The flag when the condition holds. -/
def flagIf (c : Bool) (f : BitVec 5) : BitVec 5 := if c then f else 0

/-- The floating-point formats (R91). -/
inductive FFmt where
  | f32 | f16 | bf16 | e5m2 | e4m3 | e2m1
  deriving DecidableEq, Repr

/-- Exponent bits, fraction bits and bias (R91). -/
def FFmt.eBits : FFmt → Nat
  | .f32 => 8 | .f16 => 5 | .bf16 => 8 | .e5m2 => 5 | .e4m3 => 4 | .e2m1 => 2
def FFmt.fBits : FFmt → Nat
  | .f32 => 23 | .f16 => 10 | .bf16 => 7 | .e5m2 => 2 | .e4m3 => 3 | .e2m1 => 1
def FFmt.bias : FFmt → Nat
  | .f32 => 127 | .f16 => 15 | .bf16 => 127 | .e5m2 => 15 | .e4m3 => 7 | .e2m1 => 1
def FFmt.width (f : FFmt) : Nat := 1 + f.eBits + f.fBits

/-- Whether the format has infinities (R91). -/
def FFmt.hasInf : FFmt → Bool
  | .e4m3 | .e2m1 => false
  | _ => true

/-- Pattern of the largest finite magnitude (R91). -/
def FFmt.maxBits : FFmt → Nat
  | .e4m3 => 0x7E | .e2m1 => 7
  | f => (2 ^ f.eBits - 1) * 2 ^ f.fBits - 1

/-- Pattern of +∞, in the formats that have it (R91). -/
def FFmt.infBits (f : FFmt) : Nat := (2 ^ f.eBits - 1) * 2 ^ f.fBits

/-- The canonical NaN (R91); E2M1 has none and takes +0 (R99). -/
def FFmt.nanBits : FFmt → Nat
  | .e4m3 => 0x7F | .e2m1 => 0
  | f => f.infBits + 2 ^ (f.fBits - 1)

/-- The sign bit (R91). -/
def FFmt.signBits (f : FFmt) (neg : Bool) : Nat := if neg then 2 ^ (f.width - 1) else 0

/-- A value: NaN (signalling or quiet), an infinity, or (−1)^neg × m × 2^e. -/
inductive FVal where
  | nan (sig : Bool)
  | inf (neg : Bool)
  | fin (neg : Bool) (m : Nat) (e : Int)
  deriving DecidableEq, Repr

/-- The value of an encoding (R91 to R93). -/
def FFmt.value (f : FFmt) (b : Nat) : FVal :=
  let neg := bitNat b (f.width - 1)
  let x := bitsNat b (f.width - 2) f.fBits
  let m := b % 2 ^ f.fBits
  if f.hasInf && x == 2 ^ f.eBits - 1 then
    if m = 0 then .inf neg else .nan (!bitNat m (f.fBits - 1))
  else if f = .e4m3 ∧ b % 2 ^ (f.width - 1) = 0x7F then .nan false
  else if x = 0 then .fin neg m (1 - (f.bias : Int) - f.fBits)
  else .fin neg (2 ^ f.fBits + m) ((x : Int) - f.bias - f.fBits)

/-- Rounding modes (R95); `sr` carries its draw (R98). -/
inductive RMode where
  | rne | rtz | rdn | rup
  | sr (draw : Nat)
  deriving DecidableEq, Repr

/-- FPMODE.RM and the rounding codes 0 to 3 (R94, R167). -/
def RMode.ofCode (n : Nat) : RMode :=
  match n with
  | 0 => .rne | 1 => .rtz | 2 => .rdn | _ => .rup

/-- n × 2^e in units of 2^q: the integer part, the remainder, and what the remainder is out of. -/
def shiftPart (n : Nat) (e q : Int) : Nat × Nat × Nat :=
  if q ≤ e then (n * 2 ^ (e - q).toNat, 0, 1)
  else (n / 2 ^ (q - e).toNat, n % 2 ^ (q - e).toNat, 2 ^ (q - e).toNat)

/-- Whether a magnitude k + (r / den), its true value a little above when `sticky`, rounds to k + 1 (R95, R98). -/
def roundsUp (md : RMode) (neg : Bool) (k r den : Nat) (sticky : Bool) : Bool :=
  if r = 0 && !sticky then false
  else
    match md with
    | .rne => 2 * r > den || (2 * r == den && (sticky || k % 2 == 1))
    | .rtz => false
    | .rdn => neg
    | .rup => !neg
    | .sr d => if neg then !(d < (den - r) * 2 ^ 16 / den) else d < r * 2 ^ 16 / den

/-- The outcome of an overflow (R96, R99). -/
def FFmt.overflow (f : FFmt) (md : RMode) (sat neg : Bool) : Nat :=
  let toInf := match md with | .rne | .sr _ => true | .rtz => false | .rdn => neg | .rup => !neg
  if f = .e2m1 || sat || !toInf then f.maxBits + f.signBits neg
  else if f.hasInf then f.infBits + f.signBits neg
  else f.nanBits

/-- Where a magnitude n × 2^e stands in a format: the quantum of its binade, its integer part in it, the remainder, and the
truncated pattern. -/
structure Place where
  q : Int
  k : Nat
  r : Nat
  den : Nat
  bits : Nat
  deriving DecidableEq, Repr

def FFmt.place (f : FFmt) (n : Nat) (e : Int) : Place :=
  let qmin : Int := 1 - (f.bias : Int) - f.fBits
  let q := max (e + Nat.log2 n - f.fBits) qmin
  let (k, r, den) := shiftPart n e q
  { q := q, k := k, r := r, den := den, bits := k + (q - qmin).toNat * 2 ^ f.fBits }

/-- Whether the exact magnitude lies above the largest finite one (R96, R98). -/
def Place.beyond (p : Place) (f : FFmt) (sticky : Bool) : Bool :=
  p.bits > f.maxBits || (p.bits == f.maxBits && (p.r != 0 || sticky))

/-- Whether a rounded magnitude is tiny: under SR by its exact value, otherwise after rounding to an unbounded exponent
range (R96). -/
def FFmt.tiny (f : FFmt) (md : RMode) (neg : Bool) (n : Nat) (e : Int) (sticky : Bool) : Bool :=
  let eu := e + Nat.log2 n
  let emin : Int := 1 - (f.bias : Int)
  eu < emin &&
    (match md with
     | .sr _ => true
     | _ =>
       let (k, r, den) := shiftPart n e (eu - f.fBits)
       !(eu + 1 == emin && (k + (if roundsUp md neg k r den sticky then 1 else 0)) == 2 ^ (f.fBits + 1)))

/-- The rounding function of R95 with the flags of R95 and R96: an exact magnitude n × 2^e, or a little above it when
`sticky` (n then has more bits than the format), of the given sign. -/
def FFmt.round (f : FFmt) (md : RMode) (sat neg : Bool) (n : Nat) (e : Int) (sticky : Bool) : Nat × BitVec 5 :=
  if n = 0 then (f.signBits neg, 0)
  else
    let p := f.place n e
    let md := match md with | .sr d => if p.beyond f sticky then .rne else .sr d | m => m
    let inexact := p.r != 0 || sticky
    let bits := p.bits + if roundsUp md neg p.k p.r p.den sticky then 1 else 0
    if bits > f.maxBits then (f.overflow md sat neg, fOF ||| fNX)
    else (bits + f.signBits neg, flagIf inexact fNX ||| flagIf (inexact && f.tiny md neg n e sticky) fUF)

/-- An exact result: NaN (with whether NV is raised), an infinity, or x × 2^e, whose sign is `zneg` when x is 0, and whose
magnitude lies a little above when `sticky`. -/
inductive Exact where
  | nan (nv : Bool)
  | inf (neg : Bool)
  | real (x e : Int) (zneg sticky : Bool)
  deriving DecidableEq, Repr

/-- A value read as an exact result. -/
def FVal.exact : FVal → Exact
  | .nan sig => .nan sig
  | .inf neg => .inf neg
  | .fin neg m e => .real (if neg then -(m : Int) else m) e neg false

/-- An exact result delivered in a format: one rounding, the canonical NaN (R93, R95, R96, R99). -/
def FFmt.deliver (f : FFmt) (md : RMode) (sat : Bool) : Exact → Nat × BitVec 5
  | .nan nv => (f.nanBits, flagIf (nv || f == .e2m1) fNV)
  | .inf neg =>
    if f = .e2m1 then (f.maxBits + f.signBits neg, fNV)
    else if sat then (f.maxBits + f.signBits neg, 0)
    else if f.hasInf then (f.infBits + f.signBits neg, 0)
    else (f.nanBits, 0)
  | .real x e zneg sticky => f.round md sat (if x = 0 then zneg else x < 0) x.natAbs e sticky

/-- Whether a conversion to the format under SR takes a draw (R98). -/
def FFmt.draws (f : FFmt) : Exact → Bool
  | .real x e _ _ => x != 0 && (f.place x.natAbs e).r != 0 && !(f.place x.natAbs e).beyond f false
  | _ => false

/-- One draw of a generator: its next state (R98); the draw is bits [31:16]. -/
def nextDraw (st : Word) : Word :=
  let st := st ^^^ (st <<< 13)
  let st := st ^^^ (st >>> 17)
  st ^^^ (st <<< 5)

/-! ### Exact operations -/

/-- x × 2^e brought to exponent f ≤ e. -/
def scaleTo (x e f : Int) : Int := x * pow2 (e - f).toNat

/-- The exact sum of two exact results that are not NaN by NV alone; `md` gives the sign of an exact zero (R92). -/
def Exact.add (md : RMode) : Exact → Exact → Exact
  | .nan p, .nan q => .nan (p || q)
  | .nan p, _ => .nan p
  | _, .nan q => .nan q
  | .inf p, .inf q => if p = q then .inf p else .nan true
  | .inf p, _ => .inf p
  | _, .inf q => .inf q
  | .real x e p _, .real y f q _ =>
    let g := min e f
    .real (scaleTo x e g + scaleTo y f g) g (if x = 0 ∧ y = 0 ∧ p = q then p else md == .rdn) false

/-- The exact negation. -/
def Exact.neg : Exact → Exact
  | .nan p => .nan p
  | .inf p => .inf !p
  | .real x e z t => .real (-x) e (!z) t

/-- Sign of an exact result. -/
def Exact.isNeg : Exact → Bool
  | .nan _ => false
  | .inf p => p
  | .real x _ z _ => if x = 0 then z else x < 0

/-- The exact product: 0 × ∞ is a NaN with NV; the sign is the XOR of the signs (R201). -/
def Exact.mul (a b : Exact) : Exact :=
  match a, b with
  | .nan p, .nan q => .nan (p || q)
  | .nan p, _ => .nan p
  | _, .nan q => .nan q
  | .inf p, .inf q => .inf (p != q)
  | .inf p, .real x _ _ _ => if x = 0 then .nan true else .inf (p != b.isNeg)
  | .real x _ _ _, .inf q => if x = 0 then .nan true else .inf (a.isNeg != q)
  | .real x e _ _, .real y f _ _ => .real (x * y) (e + f) (a.isNeg != b.isNeg) false

/-- x × y + c with the specials of R204. -/
def Exact.fma (md : RMode) (neg : Bool) (x y c : Exact) : Exact :=
  (if neg then (x.mul y).neg else x.mul y).add md c

/-- The sum of a list of terms in exact arithmetic with the specials of R106 and R213; an exact zero is −0 when every term
is −0, and otherwise +0, or −0 under RDN. -/
def exactSum (md : RMode) (ts : List Exact) : Exact :=
  let nans := ts.filterMap fun t => match t with | .nan nv => some nv | _ => none
  let infs := ts.filterMap fun t => match t with | .inf p => some p | _ => none
  if !nans.isEmpty then .nan (nans.any id)
  else
    match infs with
    | p :: r => if r.any fun q => q != p then .nan true else .inf p
    | [] =>
      let es := ts.filterMap fun t => match t with | .real x e _ _ => some (x, e) | _ => none
      let g := es.foldl (fun g xe => min g xe.2) 0
      .real (es.foldl (fun a xe => a + scaleTo xe.1 xe.2 g) 0) g
        (if !ts.isEmpty && ts.all fun t => match t with | .real 0 _ true _ => true | _ => false then true
         else md == .rdn) false

/-- A quotient of magnitudes to 64 or more bits, truncated, with whether anything is left. -/
def quotient (m n : Nat) : Nat × Int × Bool :=
  let k := 64 + Nat.log2 n
  (m * 2 ^ k / n, -(k : Int), m * 2 ^ k % n != 0)

/-- The exact quotient with the specials of R208, and DZ. -/
def Exact.div (a b : Exact) : Exact × BitVec 5 :=
  let sg := a.isNeg != b.isNeg
  match a, b with
  | .nan p, .nan q => (.nan (p || q), 0)
  | .nan p, _ => (.nan p, 0)
  | _, .nan q => (.nan q, 0)
  | .inf _, .inf _ => (.nan true, 0)
  | .inf _, _ => (.inf sg, 0)
  | _, .inf _ => (.real 0 0 sg false, 0)
  | .real x e _ _, .real y f _ _ =>
    if y = 0 then (if x = 0 then (.nan true, 0) else (.inf sg, fDZ))
    else
      let (q, k, t) := quotient x.natAbs y.natAbs
      (.real (if sg then -(q : Int) else q) (e - f + k) sg t, 0)

/-- Integer square root by bits: the greatest r with r × r ≤ n and r − acc < 2^(k+1)…; k bits remain. -/
def isqrtFrom (n acc : Nat) : Nat → Nat
  | 0 => acc
  | k + 1 => if (acc + 2 ^ k) * (acc + 2 ^ k) ≤ n then isqrtFrom n (acc + 2 ^ k) k else isqrtFrom n acc k

def isqrt (n : Nat) : Nat := isqrtFrom n 0 (Nat.log2 n / 2 + 1)

/-- The square root of m × 2^e, m not 0, to 40 or more bits, truncated, with whether anything is left. -/
def sqrtParts (m : Nat) (e : Int) : Nat × Int × Bool :=
  let m := m * 2 ^ (80 + (e % 2).toNat)
  let e := e - 80 - e % 2
  (isqrt m, e / 2, isqrt m * isqrt m != m)

/-! ### Operations on patterns -/

/-- A pattern and the flags it comes with. -/
abbrev Res := Nat × BitVec 5

def FFmt.ex (f : FFmt) (b : Nat) : Exact := (f.value b).exact

/-- Sums, differences and products rounded once (R201, R214). -/
def FFmt.add (f : FFmt) (md : RMode) (a b : Nat) : Res := f.deliver md false ((f.ex a).add md (f.ex b))
def FFmt.sub (f : FFmt) (md : RMode) (a b : Nat) : Res := f.deliver md false ((f.ex a).add md (f.ex b).neg)
def FFmt.mul (f : FFmt) (md : RMode) (a b : Nat) : Res := f.deliver md false ((f.ex a).mul (f.ex b))

/-- ±(a × b) ± c rounded once (R204). -/
def FFmt.fma (f : FFmt) (negP negC : Bool) (md : RMode) (a b c : Nat) : Res :=
  f.deliver md false (Exact.fma md negP (f.ex a) (f.ex b) (if negC then (f.ex c).neg else f.ex c))

/-- Division (R208). -/
def FFmt.div (f : FFmt) (md : RMode) (a b : Nat) : Res :=
  let (q, dz) := (f.ex a).div (f.ex b)
  let (r, fl) := f.deliver md false q
  (r, fl ||| dz)

def FVal.isNan : FVal → Bool
  | .nan _ => true
  | _ => false

/-- A signalling NaN (R93). -/
def FVal.isSig : FVal → Bool
  | .nan s => s
  | _ => false

def FVal.isNeg : FVal → Bool
  | .nan _ => false
  | .inf p => p
  | .fin p _ _ => p

/-- The order of values other than NaN, −0 and +0 equal (R92). -/
def FVal.le : FVal → FVal → Bool
  | .nan _, _ | _, .nan _ => false
  | .inf p, b => p || (match b with | .inf q => !q | _ => false)
  | .fin _ _ _, .inf q => !q
  | .fin p m e, .fin q n f =>
    let g := min e f
    scaleTo (if p then -(m : Int) else m) e g ≤ scaleTo (if q then -(n : Int) else n) f g

/-- The order in which −0 lies below +0 (R202). -/
def FVal.leZ (a b : FVal) : Bool := a.le b && (!(b.le a) || a.isNeg || !b.isNeg)

/-- FMIN and FMAX (R202). -/
def FFmt.minMax (f : FFmt) (isMax : Bool) (a b : Nat) : Res :=
  let x := f.value a
  let y := f.value b
  let nv := flagIf (x.isSig || y.isSig) fNV
  if x.isNan then (if y.isNan then f.nanBits else b, nv)
  else if y.isNan then (a, nv)
  else (if x.leZ y != isMax then a else b, nv)

/-- A pattern with its sign bit set as given; a NaN gives the canonical NaN (R203). -/
def FFmt.withSign (f : FFmt) (a : Nat) (neg : Bool) (nv : Bool) : Res :=
  if (f.value a).isNan then (f.nanBits, flagIf nv fNV) else (a % 2 ^ (f.width - 1) + f.signBits neg, flagIf nv fNV)

def FFmt.abs (f : FFmt) (a : Nat) : Res := f.withSign a false (f.value a).isSig
def FFmt.negate (f : FFmt) (a : Nat) : Res := f.withSign a (!bitNat a (f.width - 1)) (f.value a).isSig
def FFmt.copySign (f : FFmt) (a b : Nat) : Res :=
  f.withSign a (bitNat b (f.width - 1)) ((f.value a).isSig || (f.value b).isSig)

/-- The conditions of FCMP (R205). -/
inductive FCond where
  | eq | ne | lt | le | gt | ge | unord | ord
  deriving DecidableEq, Repr

def FCond.holds (c : FCond) (x y : FVal) : Bool :=
  let ord := !x.isNan && !y.isNan
  match c with
  | .eq => ord && x.le y && y.le x
  | .ne => !(ord && x.le y && y.le x)
  | .lt => ord && x.le y && !(y.le x)
  | .le => ord && x.le y
  | .gt => ord && y.le x && !(x.le y)
  | .ge => ord && y.le x
  | .unord => !ord
  | .ord => ord

/-- Rounding a real to an integer in a mode, with whether it was inexact (R100, R211). -/
def roundInt (md : RMode) (neg : Bool) (m : Nat) (e : Int) : Nat × Bool :=
  let (k, r, den) := shiftPart m e 0
  (k + (if roundsUp md neg k r den false then 1 else 0), r != 0)

/-- A conversion to an integer format of width w (R100). -/
def toInteger (md : RMode) (w : Nat) (signed : Bool) (x : FVal) : Res :=
  let lo : Int := if signed then -pow2 (w - 1) else 0
  let hi : Int := if signed then pow2 (w - 1) - 1 else pow2 w - 1
  let enc (i : Int) : Nat := (i % pow2 w).toNat
  match x with
  | .nan _ => (0, fNV)
  | .inf neg => (enc (if neg then lo else hi), fNV)
  | .fin neg m e =>
    let (k, nx) := roundInt md neg m e
    let i : Int := if neg then -(k : Int) else k
    if i > hi then (enc hi, fNV) else if i < lo then (enc lo, fNV) else (enc i, flagIf nx fNX)

/-- FRND (R211). -/
def FFmt.integral (f : FFmt) (md : RMode) (a : Nat) : Res :=
  match f.value a with
  | .nan s => (f.nanBits, flagIf s fNV)
  | .inf _ => (a, 0)
  | .fin neg m e =>
    let (k, nx) := roundInt md neg m e
    ((f.round .rtz false neg k 0 false).1, flagIf nx fNX)

/-- FCLASS (R212). -/
def FFmt.classBit (f : FFmt) (a : Nat) : Nat :=
  match f.value a with
  | .nan s => if s then 2 ^ 8 else 2 ^ 9
  | .inf neg => if neg then 1 else 2 ^ 7
  | .fin neg m _ =>
    if m = 0 then (if neg then 2 ^ 3 else 2 ^ 4)
    else if m < 2 ^ f.fBits then (if neg then 2 ^ 2 else 2 ^ 5)
    else if neg then 2 ^ 1 else 2 ^ 6

/-! ### The tree -/

/-- One level of the tree of R107: neighbours combined, a last odd one kept. -/
def treeLevel (op : Nat → Nat → Res) : List Nat → List Nat × BitVec 5
  | a :: b :: r =>
    let (x, f) := op a b
    let (l, g) := treeLevel op r
    (x :: l, f ||| g)
  | l => (l, 0)

/-- The tree over a list; `n` bounds its levels. -/
def treeFrom (op : Nat → Nat → Res) : Nat → List Nat → BitVec 5 → Res
  | 0, l, f => (l.headD 0, f)
  | n + 1, l, f =>
    match l with
    | [] => (0, f)
    | [x] => (x, f)
    | l => let (l', g) := treeLevel op l; treeFrom op n l' (f ||| g)

/-- A value delivered as it is; a NaN becomes the canonical one (R93). -/
def FFmt.canon (f : FFmt) (a : Nat) : Res :=
  let x := f.value a
  (if x.isNan then f.nanBits else a, flagIf x.isSig fNV)

/-- A tree over a list, of one value the value itself. -/
def treeOf (op : Nat → Nat → Res) (l : List Nat) : Res :=
  match l with
  | [x] => FFmt.f32.canon x
  | l => treeFrom op l.length l 0

/-- tree_sum (R107), and the tree of minima and maxima (R111), over F32 patterns. -/
def treeSum (l : List Nat) : Res := treeOf (FFmt.f32.add .rne) l
def treeMinMax (isMax : Bool) (l : List Nat) : Res := treeOf (FFmt.f32.minMax isMax) l

end Sys2Proof.Machine
end

