-- ==== Sys2Proof/Machine/EngineMx.lean ====
section
/-! DEFINITION. The matrix engine (12 R240 to R242; 05 R102 to R109; 06 R121, R123; 22 R379). -/
namespace Sys2Proof.Machine

/-- Classes of R102: 1 the 16-bit, 2 the 8-bit, 3 the 4-bit class, 0 none (F32). -/
def fmtClass (fmt : Nat) : Nat := match fmt with | 0 => 0 | 1 | 2 => 1 | 6 | 7 => 3 | _ => 2

/-- A real number x × 2^e, +0 when x is 0. -/
def exReal (x e : Int) : Exact := .real x e false false

/-- A value scaled by 2^k (R103). -/
def Exact.scale (k : Int) : Exact → Exact
  | .real x e z t => .real x (e + k) z t
  | v => v

/-- The value of an element's bits in an operand format (R102), without its block scale. -/
def elemValue (fmt bits : Nat) : Exact :=
  match fmt with
  | 1 => FFmt.f16.ex bits
  | 2 => FFmt.bf16.ex bits
  | 3 => FFmt.e5m2.ex bits
  | 4 => FFmt.e4m3.ex bits
  | 5 => exReal (bitsInt bits 7 0) 0
  | 6 => FFmt.e2m1.ex bits
  | 7 => exReal (bitsInt bits 3 0) 0
  | n => exReal (bitsInt bits (n - 7) 0) (-((n - 7 : Nat) : Int))

/-- A tile of a core's operand buffer as the array reads it. -/
structure TileView where
  t : Tile
  mem : List Host.Cell
  poison : List Nat

/-- A segment of a row (R104, R123): where its bytes start, and for a compressed one its presence mask. -/
structure Segment where
  start : Nat
  mask : Option Nat

/-- Byte at which a row starts (R121). -/
def TileView.rowAt (v : TileView) (row : Nat) : Nat := 4096 * v.t.base + row * v.t.pitch

/-- Segment k of a compressed row from byte `at_` on (R123). -/
def TileView.compressed (v : TileView) (at_ : Nat) : Nat → Segment
  | 0 => { start := at_, mask := some (readNat v.mem at_ 2) }
  | k + 1 => v.compressed (at_ + 2 + 3 * (v.t.fmt - 6) * popcNat (BitVec.ofNat 16 (readNat v.mem at_ 2)) 16) k

/-- Segment k of a row. -/
def TileView.segment (v : TileView) (row k : Nat) : Segment :=
  if v.t.cmp then v.compressed (v.rowAt row) k
  else { start := v.rowAt row + k * (segLen v.t.fmt * fmtBits v.t.fmt / 8), mask := none }

/-- Bits of element e of a segment; none when its block is absent (R104, R123). -/
def TileView.elemBits (v : TileView) (g : Segment) (e : Nat) : Option Nat :=
  let w := fmtBits v.t.fmt
  if 8 ≤ v.t.fmt then
    match g.mask with
    | none =>
      some ((List.range w).foldl (fun x j => x + (if (readByte v.mem (g.start + 48 * j + e / 8)).getLsbD (e % 8) then 2 ^ j else 0)) 0)
    | some m =>
      let b := e / 24
      if bitNat m b then
        let n := popcNat (BitVec.ofNat 16 m) 16
        let i := popcNat (BitVec.ofNat 16 (m % 2 ^ b)) 16
        let e' := e - 24 * b
        some ((List.range w).foldl
          (fun x j => x + (if (readByte v.mem (g.start + 2 + 3 * (n * j + i) + e' / 8)).getLsbD (e' % 8) then 2 ^ j else 0)) 0)
      else none
  else if w = 4 then some (bitsNat (readByte v.mem (g.start + e / 2)).toNat (4 * (e % 2) + 3) (4 * (e % 2)))
  else some (readNat v.mem (g.start + w / 8 * e) (w / 8))

/-- Byte of the scale of a block of a row (R121). -/
def TileView.scaleAt (v : TileView) (row block : Nat) : Nat := 4096 * v.t.base + v.t.scoff + row * (v.t.cols / 24) + block

/-- Blocks of segment k of a row whose scale a step reads: those within COLS, and present when compressed (R121, R123). -/
def TileView.scaleBlocks (v : TileView) (row k : Nat) : List Nat :=
  if !v.t.scl then []
  else
    let g := v.segment row k
    let first := k * segLen v.t.fmt / 24
    (List.range (segLen v.t.fmt / 24)).filterMap fun b =>
      if first + b < v.t.cols / 24 && (match g.mask with | some m => bitNat m b | none => true) then some (first + b) else none

/-- Whether a row's segment or its scales hold a scale byte 0xFF (R379 code 12). -/
def TileView.badScale (v : TileView) (row k : Nat) : Bool :=
  (v.scaleBlocks row k).any fun b => readByte v.mem (v.scaleAt row b) = 0xFF

/-- Columns of segment k that lie within COLS (R121). -/
def TileView.colsOf (v : TileView) (k : Nat) : Nat := min (segLen v.t.fmt) (v.t.cols - k * segLen v.t.fmt)

/-- The 8-byte words of the operand buffer that a step reads of segment k of a row: the bytes of its elements within COLS, and of a
compressed row the masks that lead to them (R104, R121, R123). -/
def TileView.wordsRead (v : TileView) (row k : Nat) : List Nat :=
  let g := v.segment row k
  let n := fmtBits v.t.fmt
  match g.mask with
  | some m =>
    let all := popcNat (BitVec.ofNat 16 m) 16
    ((List.range (k + 1)).flatMap fun i => wordsTouched (v.segment row i).start 2) ++
      (List.range n).flatMap fun j => ((List.range (v.colsOf k / 24)).filter (bitNat m)).flatMap fun b =>
        wordsTouched (g.start + 2 + 3 * (all * j + popcNat (BitVec.ofNat 16 (m % 2 ^ b)) 16)) 3
  | none =>
    if 8 ≤ v.t.fmt then (List.range n).flatMap fun j => wordsTouched (g.start + 48 * j) (v.colsOf k / 8)
    else wordsTouched g.start (v.colsOf k * n / 8)

/-- Whether any byte that a step reads of a row's segment is poisoned (R373, R379 code 8). -/
def TileView.poisoned (v : TileView) (row k : Nat) : Bool :=
  (!v.poison.isEmpty) &&
    ((v.wordsRead row k).any v.poison.contains || (v.scaleBlocks row k).any fun b => v.poison.contains (v.scaleAt row b / 8))

/-- The K element values of segment k of a row (R102, R103, R121). -/
def TileView.values (v : TileView) (row k : Nat) : List Exact :=
  let g := v.segment row k
  (List.range (segLen v.t.fmt)).map fun e =>
    let col := k * segLen v.t.fmt + e
    if col ≥ v.t.cols then exReal 0 0
    else
      match v.elemBits g e with
      | none => exReal 0 0
      | some x =>
        if v.t.scl then
          let sc := (readByte v.mem (v.scaleAt row (col / 24))).toNat
          if sc = 0 then exReal 0 0 else (elemValue v.t.fmt x).scale ((sc : Int) - 127)
        else elemValue v.t.fmt x

/-- A group sum (R106): exact, an exact zero +0, rounded once. -/
def groupSum (a b : List Exact) : Res :=
  FFmt.f32.deliver .rne false (exactSum .rne (exReal 0 0 :: List.zipWith Exact.mul a b))

/-- The group sums of a step, S elements at a time. -/
def groupSums (s : Nat) (a b : List Exact) : Nat → List Nat × BitVec 5
  | 0 => ([], 0)
  | n + 1 =>
    let (x, f) := groupSum (a.take s) (b.take s)
    let (l, g) := groupSums s (a.drop s) (b.drop s) n
    (x :: l, f ||| g)

/-- c after one step over K elements in groups of S (R108). -/
def mmaElement (s : Nat) (a b : List Exact) (c : Nat) : Res :=
  let (q, f) := groupSums s a b (a.length / s)
  let (t, g) := treeSum q
  let (r, h) := FFmt.f32.add .rne c t
  (r, f ||| g ||| h)

/-- S of R105. -/
def groupSize (a b : Tile) : Nat :=
  let int (t : Tile) : Bool := t.fmt = 5 || t.fmt = 7
  if a.scl || b.scl || (int a && int b) then 24 else 8

/-- One row of the C block after a step: 32 elements, and the flags. -/
def mmaRow (s : Nat) (a : List Exact) : List (List Exact) → List Nat → List Nat × BitVec 5
  | b :: bs, c :: cs =>
    let (x, f) := mmaElement s a b c
    let (l, g) := mmaRow s a bs cs
    (x :: l, f ||| g)
  | _, _ => ([], 0)

/-- One step of an MX command (R241): the faults of R379, the wait for ready tiles, and the update of the C block. -/
def State.mxIter (s : State) (x : EngCtx) : EngRes EngRun :=
  let r := x.r
  match s.engTile x (r.f 223 192), s.engTile x (r.f 255 224), s.engTile x (r.f 287 256) with
  | some ta, some tb, some tc =>
    let usable (t : Tile) : Bool := t.state = 2 || (t.state = 3 && r.begun)
    if !(usable ta && usable tb && usable tc) then .wait s
    else
      let m := (r.f 303 288 : Nat) + r.strideSum 8 336 24 [0, 1, 2, 3, 4]
      let n := (r.f 319 304 : Nat) + r.strideSum 8 344 24 [0, 1, 2, 3, 4]
      let k := (r.f 335 320 : Nat) + r.strideSum 8 352 24 [0, 1, 2, 3, 4]
      let segs (t : Tile) : Nat := (t.cols + segLen t.fmt - 1) / segLen t.fmt
      if fmtClass ta.fmt = 0 || fmtClass ta.fmt != fmtClass tb.fmt || tc.fmt != 0 then .fault s 11 0
      else if m < 0 || n < 0 || k < 0 || (ta.rows : Int) < 16 * m + 16 || (tb.rows : Int) < 32 * n + 32 ||
          (tc.rows : Int) < 16 * m + 16 || (tc.cols : Int) < 32 * n + 32 || (segs ta : Int) ≤ k || (segs tb : Int) ≤ k then
        .fault s 10 0
      else
        let m := m.toNat
        let n := n.toNat
        let k := k.toNat
        let core := s.core x.d x.c
        let va : TileView := { t := ta, mem := core.opbuf, poison := core.opPoison }
        let vb : TileView := { t := tb, mem := core.opbuf, poison := core.opPoison }
        let vc : TileView := { t := tc, mem := core.opbuf, poison := core.opPoison }
        let rowsA := (List.range 16).map (16 * m + ·)
        let rowsB := (List.range 32).map (32 * n + ·)
        let cAt (row : Nat) : Nat := vc.rowAt row + 4 * (32 * n)
        let zero := r.opc = 0 && !r.zeroed.contains (m, n)
        let cBad := !zero && rowsA.any fun row => (wordsTouched (cAt row) 128).any core.opPoison.contains
        if rowsA.any (va.poisoned · k) || rowsB.any (vb.poisoned · k) || cBad then .fault s 8 0
        else if rowsA.any (va.badScale · k) || rowsB.any (vb.badScale · k) then .fault s 12 0
        else
          let size := groupSize ta tb
          let bs := rowsB.map (vb.values · k)
          let (s, fl) := rowsA.foldl (fun (sf : State × BitVec 5) row =>
            let cs := (List.range 32).map fun j => if zero then 0 else readNat core.opbuf (cAt row + 4 * j) 4
            let (ys, f) := mmaRow size (va.values row k) bs cs
            (sf.1.writeOpbuf x.d x.c (cAt row) (ys.flatMap fun y => natBytesLE 4 y), sf.2 ||| f)) (s, 0)
          let zeroed := if r.zeroed.contains (m, n) then r.zeroed else (m, n) :: r.zeroed
          .ok (s.noteRun x 11 1) { r with flags := r.flags ||| fl, zeroed := zeroed }
  | _, _, _ => .fault s 9 0

/-- Whether the running command of a core's MX is past its start and of another form. -/
def State.mxOther (s : State) (d c op : Nat) : Bool :=
  match (s.core d c).mx.run with | some r => 2 ≤ r.stage && r.opc != op | none => false

/-- MX_MMA (R241): the overwrite form. -/
def execMxMma (die core : Nat) (s : State) : Host.Outcome State Fault Refusal :=
  .next (if s.mxOther die core 0 then s else s.engineStep die core 0 State.mxIter)

/-- MX_MMAC (R241): the accumulate form. -/
def execMxMmac (die core : Nat) (s : State) : Host.Outcome State Fault Refusal :=
  .next (if s.mxOther die core 1 then s else s.engineStep die core 0 State.mxIter)

end Sys2Proof.Machine
end

