-- ==== Sys2Proof/Machine/EngineCopy.lean ====
section
/-! DEFINITION. The copy engine and the quantisation engine (12 R251 to R254; 05 R98, R99, R104, R110; 22 R379). -/
namespace Sys2Proof.Machine

/-! ### The copy engine -/

/-- The pieces a CE run writes: of its destination tile, by offset in the reservation, or by address (R251, R403). -/
def State.ceTarget (s : State) (x : EngCtx) (dst : Int) (n : Nat) : EngRes (List EngPiece) :=
  let h := x.r.dtl 1
  if h = 0 then s.engMayWrite x (addrOf dst) n
  else
    match s.engTile x h with
    | none => .fault s 9 0
    | some t =>
      if dst < 0 || (4096 * t.len : Int) < dst + n then .fault s 10 (addrOf (0x1FD000000000000 + 4096 * t.base + dst))
      else .ok s [.opbuf (4096 * t.base + dst.toNat) n]

/-- One run of a CE command (R252): its bytes, marked where they come from marked data (R372). Its pending bytes are counted once every
one of them has reached its home, before the next run begins. -/
def State.ceIter (s : State) (x : EngCtx) : EngRes EngRun :=
  let r := x.r
  let n := r.f 83 64
  let src := (r.f 248 192 : Nat) + 16 * r.strideSum 20 312 40 [1, 2, 3, 4]
  let dst := (r.f 312 256 : Nat) + 16 * r.strideSum 20 332 40 [1, 2, 3, 4]
  (s.engRead x (addrOf src) n).bind fun s g =>
    (s.ceTarget x dst n).bind fun s ps =>
      let from_ := s.nextId
      let s := (s.engPut x g.bytes g.bad 0 ps).noteRun x 14 n
      let r := { r with count := if r.pbd && r.bhnd.isSome then some (from_, s.nextId) else none }
      if r.count.isSome && s.runLanded r then .ok (s.countRun r) { r with count := none } else .ok s r

/-- CE_COPY (R252). -/
def execCeCopy (die core : Nat) (s : State) : Host.Outcome State Fault Refusal :=
  .next (s.engineStep die core 1 State.ceIter)

/-! ### The quantisation engine -/

/-- The format of the source (R253). -/
def qeSource (sfmt : Nat) : FFmt := match sfmt with | 0 => .f32 | 1 => .bf16 | _ => .f16

/-- A source element as R254 reads it: a sign, a finite magnitude and an exponent, none for a NaN; and its flags. -/
def qeElem (f : FFmt) (b : Nat) : Option (Bool × Nat × Int) × BitVec 5 :=
  match f.value b with
  | .nan _ => (none, fNV)
  | .inf neg => (some (neg, 2 ^ 24 - 1, 104), fOF)
  | .fin neg m e => (some (neg, m, e), 0)

/-- emax of R110. -/
def qeEmax (fmt : Nat) : Int := match fmt with | 3 => 15 | 4 => 8 | 6 | 7 => 2 | _ => -1

/-- E of R110 from the block's finite inputs: 0 when M is 0. -/
def qeScale (fmt : Nat) (xs : List (Option (Bool × Nat × Int))) : Nat :=
  let logs := xs.filterMap fun x => match x with
    | some (_, m, e) => if m = 0 then none else some (e + (Nat.log2 m : Int))
    | none => none
  match logs with
  | [] => 0
  | l :: r =>
    let top := r.foldl max l
    (min (max (top + 127 - qeEmax fmt) 1) 254).toNat

/-- Whether k × 2^e, k a natural number, is at most n. -/
def atMost (m : Nat) (e : Int) (n : Nat) : Bool := if 0 ≤ e then m * 2 ^ e.toNat ≤ n else m ≤ n * 2 ^ (-e).toNat

/-- Whether an element of magnitude m × 2^e takes a draw: inexact in the target and not beyond its largest magnitude (R98, R254), which
for S4 is 7 or 8 and for BXn 2^(n−1) − 1 or 2^(n−1) units, by the sign. -/
def qeInexact (fmt : Nat) (neg : Bool) (m : Nat) (e : Int) : Bool :=
  match fmt with
  | 3 => FFmt.e5m2.draws (.real m e false false)
  | 4 => FFmt.e4m3.draws (.real m e false false)
  | 6 => FFmt.e2m1.draws (.real m e false false)
  | 7 => m != 0 && (shiftPart m e 0).2.1 != 0 && atMost m e (if neg then 8 else 7)
  | n =>
    let e := e + ((n - 7 : Nat) : Int)
    m != 0 && (shiftPart m e 0).2.1 != 0 && atMost m e (if neg then 2 ^ (n - 7) else 2 ^ (n - 7) - 1)

/-- The bits of an element already scaled, in a mode, with saturation (R110). The spec names no flags for an S4 or BXn element that
saturates; the model raises NX alone, as its own choice (assumption 66). -/
def qeEncode (fmt : Nat) (md : RMode) (neg : Bool) (m : Nat) (e : Int) : Res :=
  let x : Exact := .real (if neg then -(m : Int) else m) e neg false
  let int (w : Nat) (e : Int) : Res :=
    let (k, nx) := if m = 0 then (0, false) else roundInt md neg m e
    let i : Int := if neg then -(k : Int) else k
    let v := satS w i
    (v.toNat, flagIf (nx || v.toInt != i) fNX)
  match fmt with
  | 3 => FFmt.e5m2.deliver md true x
  | 4 => FFmt.e4m3.deliver md true x
  | 6 => FFmt.e2m1.deliver md true x
  | 7 => int 4 e
  | n => int (n - 6) (e + ((n - 7 : Nat) : Int))

/-- The elements of a block in order, each with its draw under SR: bits, generator, flags. -/
def qeBlock (fmt : Nat) (sr : Bool) (scale : Nat) : List (Option (Bool × Nat × Int)) → Word → List Nat × Word × BitVec 5
  | [], g => ([], g, 0)
  | none :: xs, g =>
    let (l, g, f) := qeBlock fmt sr scale xs g
    ((match fmt with | 3 => FFmt.e5m2.nanBits | 4 => FFmt.e4m3.nanBits | _ => 0) :: l, g, f)
  | some (neg, m, e) :: xs, g =>
    if scale = 0 then
      let (l, g, f) := qeBlock fmt sr scale xs g
      (0 :: l, g, f)
    else
      let e := e - ((scale : Int) - 127)
      let draw := sr && qeInexact fmt neg m e
      let g' := if draw then nextDraw g else g
      let (b, f) := qeEncode fmt (if draw then .sr (g'.extractLsb' 16 16).toNat else .rne) neg m e
      let (l, g'', f') := qeBlock fmt sr scale xs g'
      (b :: l, g'', f ||| f')

/-- The bytes of 24 elements of a block, with their offsets in the row (R104). -/
def qeBytes (fmt block : Nat) (els : List Nat) : List (Nat × List Byte) :=
  if 8 ≤ fmt then
    let n := fmt - 6
    let seg := block / 16
    (List.range n).map fun j =>
      let x := els.zipIdx.foldl (fun x (b, i) => x + (if bitNat b j then 2 ^ i else 0)) 0
      (48 * n * seg + 48 * j + 3 * (block % 16), natBytesLE 3 x)
  else if fmtBits fmt = 4 then
    [(12 * block, natBytesLE 12 (els.zipIdx.foldl (fun x (b, i) => x + b % 16 * 2 ^ (4 * i)) 0))]
  else [(24 * block, els.map fun b => BitVec.ofNat 8 b)]

/-- One block of a QE command (R254). -/
def State.qeIter (s : State) (x : EngCtx) : EngRes EngRun :=
  let r := x.r
  let h := r.dtl 3
  match s.engTile x h with
  | none => .fault s 9 0
  | some t =>
    let row := (r.f 367 352 : Nat) + r.strideSum 8 384 16 [0, 1, 2, 3, 4]
    let blk := (r.f 383 368 : Nat) + r.strideSum 8 392 16 [0, 1, 2, 3, 4]
    let f := qeSource (r.f 250 249)
    let es := f.width / 8
    if row < 0 || blk < 0 || (t.rows : Int) ≤ row || ((t.cols / 24 : Nat) : Int) ≤ blk then .fault s 10 0
    else
      let row := row.toNat
      let blk := blk.toNat
      (s.engReadGood x ((r.f 248 192 + row * r.f 287 256 + 24 * blk * es) % 2 ^ 64) (24 * es)).bind fun s bs =>
        let xs := (List.range 24).map fun i => qeElem f (bytesNat ((bs.drop (es * i)).take es))
        let vals := xs.map Prod.fst
        let scale := qeScale t.fmt vals
        let (els, g, fl) := qeBlock t.fmt (r.f 251 251 = 1) scale vals r.rng
        let d := handleDie h
        let c := handleCore h
        let at_ := 4096 * t.base + row * t.pitch
        let s := (qeBytes t.fmt blk els).foldl (fun s (o, b) => s.writeOpbuf d c (at_ + o) b) s
        let s := if t.scl then s.writeOpbuf d c (4096 * t.base + t.scoff + row * (t.cols / 24) + blk) [BitVec.ofNat 8 scale] else s
        .ok s { r with rng := g, flags := xs.foldl (fun a y => a ||| y.2) (r.flags ||| fl) }

/-- QE_QUANT (R254). -/
def execQeQuant (die cluster : Nat) (s : State) : Host.Outcome State Fault Refusal :=
  .next (s.engineStep die (4 * cluster) 3 State.qeIter)

end Sys2Proof.Machine
end

