-- ==== Sys2Proof/Machine/Ftrans.lean ====
section
/-! DEFINITION. The FTRANS functions (10 R206, R207; 05 R97). The spec fixes special inputs, exact cases and a bound on the
error and leaves the other bit patterns to the device: the result is a free function of the input (Config.ftrans,
assumption 8), kept where it meets the bound, and the rounded value where it does not. Approximations are fixed-point
numbers with 128 fraction bits. -/
namespace Sys2Proof.Machine

/-- One in the fixed-point numbers of this file. -/
def fixOne : Int := pow2 128

/-- Product of two fixed-point numbers. -/
def fixMul (a b : Int) : Int := a * b / fixOne

/-- ln 2 and π in fixed point. -/
def fixLn2 : Int := 235865763225513294137944142764154484399
def fixPi : Int := 1069028584064966747859680373161870783300

/-- x × 2^e in fixed point. -/
def toFix (x e : Int) : Int := if 0 ≤ e + 128 then x * pow2 (e + 128).toNat else x / pow2 (-(e + 128)).toNat

/-- Σ y^k / k! from term k on, `n` terms. -/
def expSeries (y term acc : Int) (k : Nat) : Nat → Int
  | 0 => acc
  | n + 1 => expSeries y (fixMul term y / (k + 1 : Nat)) (acc + term) (k + 1) n

/-- 2^t for a fixed-point t, in fixed point times 2^floor(t): the mantissa and the exponent. -/
def fixExp2 (t : Int) : Int × Int :=
  (expSeries (fixMul (t % fixOne) fixLn2) fixOne 0 0 40, t / fixOne)

/-- log2 of a fixed-point number in [1, 2), bit by bit. -/
def log2Bits (x acc bit : Int) : Nat → Int
  | 0 => acc
  | n + 1 =>
    let y := fixMul x x
    if y ≥ 2 * fixOne then log2Bits (y / 2) (acc + bit) (bit / 2) n else log2Bits y acc (bit / 2) n

/-- Σ (−1)^k y^(2k+o) / (2k+o)! : sine for o = 1 and cosine for o = 0. -/
def trigSeries (y2 term acc : Int) (m : Nat) : Nat → Int
  | 0 => acc
  | n + 1 => trigSeries y2 (-(fixMul term y2) / ((m + 1) * (m + 2) : Nat)) (acc + term) (m + 2) n

/-- sin(πx), x in fixed point: reduced to half a turn and to a quarter (x mod 2 in [0, 2)). -/
def fixSinPi (x : Int) : Int :=
  let r := x % (2 * fixOne)
  let (neg, r) := if r ≥ fixOne then (true, r - fixOne) else (false, r)
  let r := if 2 * r > fixOne then fixOne - r else r
  let y := fixMul r fixPi
  let v := trigSeries (fixMul y y) y 0 1 24
  if neg then -v else v

/-- An approximation as x × 2^e of a function on a positive or negative finite non-zero number m × 2^e. -/
def ftransApprox (fn : Nat) (neg : Bool) (m : Nat) (e : Int) : Int × Int :=
  let x : Int := if neg then -(m : Int) else m
  match fn with
  | 0 => let (q, k, _) := quotient 1 m; (if neg then -(q : Int) else q, k - e)
  | 1 =>
    -- the root of 2^256 / (m × 2^(e mod 2)), a fixed-point number
    (isqrt (2 ^ 256 / (m * 2 ^ (e % 2).toNat)), -128 - (e - e % 2) / 2)
  | 3 => let (y, k) := fixExp2 (toFix x e); (y, k - 128)
  | 4 =>
    let l := Nat.log2 m
    ((e + l) * fixOne + log2Bits (toFix m (-(l : Int))) 0 (fixOne / 2) 80, -128)
  | 5 => (fixSinPi (toFix x e), -128)
  | 6 => (fixSinPi (toFix x e + fixOne / 2), -128)
  | _ =>
    -- tanh: x − x³/3 below 2^−20, else (E − 1) / (E + 1) with E = e^(2|x|)
    if e + Nat.log2 m < -20 then
      let t := x * x * x
      if e ≥ 0 then (x, e) else ((3 * x * pow2 (-(2 * e)).toNat - t) / 3, 3 * e)
    else
      let (y, k) := fixExp2 (toFix m e * 2 * fixOne / fixLn2)
      let E := y * pow2 k.toNat
      let v := (E - fixOne) * fixOne / (E + fixOne)
      (if neg then -v else v, -128)

/-- The greatest error allowed for a result near a × 2^e, in units of 2^u: n ulps, or 2^−22 (R206). -/
def ftransBound (fn : Nat) (a e : Int) (inside : Bool) : Nat × Int :=
  let ulp : Int := max (e + Nat.log2 a.natAbs) (-126) - 23
  match fn with
  | 0 | 1 => (1, ulp)
  | 4 => if inside then (1, -22) else (2, ulp)
  | 5 | 6 => (1, -22)
  | _ => (2, ulp)

/-- Whether a pattern is a finite value that is not subnormal and not further from the approximation than the bound. RCP and RSQ are so told
exactly, since a pattern on the edge of their bound or beside it lies further from the other side than the approximation errs; for the
others the approximation errs by less than 2^−50 ulp (assumption 8). -/
def ftransMeets (fn : Nat) (inside : Bool) (a e : Int) (w : Word) : Bool :=
  match FFmt.f32.value w.toNat with
  | .fin neg m k =>
    let (n, u) := ftransBound fn a e inside
    let g := min (min e k) u
    let diff := (scaleTo (if neg then -(m : Int) else m) k g - scaleTo a e g).natAbs
    (m = 0 || m ≥ 2 ^ 23) && (diff : Int) ≤ n * pow2 (u - g).toNat
  | _ => false

/-- An inexact result of fn on the word w (R206, assumption 8). -/
def ftransFree (fn : Nat) (w : Word) (neg : Bool) (m : Nat) (e : Int) : Res :=
  let (a, k) := ftransApprox fn neg m e
  -- the closed range [1/2, 2] of LOG2
  let l := e + Nat.log2 m
  let inside := -1 ≤ l && (l ≤ 0 || (l == 1 && m == 2 ^ Nat.log2 m))
  let r := Config.ftrans fn w
  let r := if ftransMeets fn inside a k r then r.toNat else (FFmt.f32.round .rne false (a < 0) a.natAbs k false).1
  (r, fNX)

/-- Whether m × 2^e is a power of two, and its exponent. -/
def pow2Exp (m : Nat) (e : Int) : Option Int := if m = 2 ^ Nat.log2 m then some (e + Nat.log2 m) else none

/-- An integer, or twice a number as an integer, when it is one. -/
def asInt (x e : Int) : Option Int := if e ≥ 0 then some (x * pow2 e.toNat) else if x % pow2 (-e).toNat = 0 then some (x / pow2 (-e).toNat) else none

/-- An exact float: no flag. -/
def exactly (x e : Int) : Res := (FFmt.f32.round .rne false (x < 0) x.natAbs e false).1 |> fun b => (b, 0)

/-- ±1, ±0, ±∞ in F32. -/
def one32 (neg : Bool) : Nat := 0x3F800000 + FFmt.f32.signBits neg
def zero32 (neg : Bool) : Nat := FFmt.f32.signBits neg
def inf32 (neg : Bool) : Nat := 0x7F800000 + FFmt.f32.signBits neg
def nan32 : Nat := 0x7FC00000

/-- The row of zeros and subnormals in R207. -/
def ftransZero (fn : Nat) (neg : Bool) : Res :=
  match fn with
  | 0 | 1 => (inf32 neg, fDZ)
  | 2 | 5 | 7 => (zero32 neg, 0)
  | 3 | 6 => (one32 false, 0)
  | _ => (inf32 true, fDZ)

/-- The rows of infinities in R207. -/
def ftransInf (fn : Nat) (neg : Bool) : Res :=
  match fn with
  | 0 => (zero32 neg, 0)
  | 1 => if neg then (nan32, fNV) else (zero32 false, 0)
  | 2 | 4 => if neg then (nan32, fNV) else (inf32 false, 0)
  | 3 => (if neg then zero32 false else inf32 false, 0)
  | 5 | 6 => (nan32, fNV)
  | _ => (one32 neg, 0)

/-- An FTRANS function on a finite normal input (R206, R207, R97): fixed cases first. -/
def ftransNormal (fn : Nat) (md : RMode) (w : Word) (neg : Bool) (m : Nat) (e : Int) : Res :=
  let x : Int := if neg then -(m : Int) else m
  match fn with
  | 0 =>
    match pow2Exp m e with
    | some k => if k > 126 then (zero32 neg, fUF ||| fNX) else exactly (if neg then -1 else 1) (-k)
    | none => if e + Nat.log2 m ≥ 126 then (zero32 neg, fUF ||| fNX) else ftransFree fn w neg m e
  | 1 =>
    if neg then (nan32, fNV)
    else
      match pow2Exp m e with
      | some k => if k % 2 = 0 then exactly 1 (-(k / 2)) else ftransFree fn w neg m e
      | none => ftransFree fn w neg m e
  | 2 =>
    if neg then (nan32, fNV)
    else
      let (r, k, t) := sqrtParts m e
      FFmt.f32.round md false false r k t
  | 3 =>
    if !neg && e + Nat.log2 m ≥ 7 then (inf32 false, fOF ||| fNX)
    else if toFix x e < -126 * fixOne then (zero32 false, fUF ||| fNX)
    else
      match asInt x e with
      | some i => exactly 1 i
      | none => ftransFree fn w neg m e
  | 4 =>
    if neg then (nan32, fNV)
    else
      match pow2Exp m e with
      | some k => exactly k 0
      | none => ftransFree fn w neg m e
  | 5 =>
    match asInt x (e + 1) with
    | some i => if i % 2 = 0 then (zero32 neg, 0) else (one32 (i % 4 = 3), 0)
    | none => ftransFree fn w neg m e
  | 6 =>
    match asInt x (e + 1) with
    | some i => if i % 2 = 0 then (one32 (i % 4 = 2), 0) else (zero32 false, 0)
    | none => ftransFree fn w neg m e
  | _ =>
    if (10 * toFix m e) ≥ 91 * fixOne then (one32 neg, fNX)
    else if pow2Exp m e = some (-126) then (zero32 neg, fUF ||| fNX)
    else ftransFree fn w neg m e

/-- FTRANS function fn on an F32 pattern (R206, R207). -/
def ftransF32 (fn : Nat) (md : RMode) (w : Word) : Res :=
  match FFmt.f32.value w.toNat with
  | .nan s => (nan32, flagIf s fNV)
  | .inf neg => ftransInf fn neg
  | .fin neg m e => if m < 2 ^ 23 then ftransZero fn neg else ftransNormal fn md w neg m e

end Sys2Proof.Machine
end

