-- ==== Sys2Proof/Machine/EngineSsb.lean ====
section
/-! DEFINITION. The state-space block (12 R244 to R250; 22 R379 codes 13, 14). -/
namespace Sys2Proof.Machine

/-- An SSCB (R244). -/
structure Sscb where
  w : Nat

def Sscb.f (b : Sscb) (hi lo : Nat) : Nat := bitsNat b.w hi lo
def Sscb.hh (b : Sscb) : Nat := b.f 10 0
def Sscb.pp (b : Sscb) : Nat := b.f 19 11
def Sscb.nn (b : Sscb) : Nat := b.f 28 20
def Sscb.ll (b : Sscb) : Nat := b.f 49 29
def Sscb.qlog (b : Sscb) : Nat := b.f 52 50
def Sscb.ifmt (b : Sscb) : FFmt := if b.f 53 53 = 1 then .bf16 else .f32
def Sscb.ofmt (b : Sscb) : FFmt := if b.f 54 54 = 1 then .bf16 else .f32
def Sscb.thr (b : Sscb) : Nat := b.f 63 56
def Sscb.sep (b : Sscb) : Nat := b.f 71 64
def Sscb.rst (b : Sscb) : Bool := b.f 72 72 = 1
def Sscb.xa (b : Sscb) : Nat := b.f 184 128
def Sscb.dta (b : Sscb) : Nat := b.f 248 192
def Sscb.aa (b : Sscb) : Nat := b.f 312 256
def Sscb.ba (b : Sscb) : Nat := b.f 376 320
def Sscb.ca (b : Sscb) : Nat := b.f 440 384
def Sscb.da (b : Sscb) : Nat := b.f 504 448
def Sscb.ya (b : Sscb) : Nat := b.f 568 512
def Sscb.sca (b : Sscb) : Nat := b.f 632 576
def Sscb.ssa (b : Sscb) : Nat := b.f 696 640

/-- Whether a field lies outside R244, or QLOG is 1 (R379 code 13). -/
def Sscb.bad (b : Sscb) : Bool :=
  b.f 1023 697 != 0 || b.f 127 73 != 0 || b.f 55 55 != 0 || b.qlog = 1 || b.hh = 0 || 1024 < b.hh || b.pp = 0 ||
    256 < b.pp || b.nn = 0 || 256 < b.nn || b.ll = 0 || 1048576 < b.ll ||
    [185, 249, 313, 377, 441, 505, 569, 633].any fun lo => b.f (lo + 6) lo != 0

/-- Chunk length (R244). -/
def Sscb.q (b : Sscb) : Nat := if b.qlog = 0 then 64 else 2 ^ b.qlog

/-- A value with the flags met on the way. -/
structure Fl (α : Type) where
  x : α
  fl : BitVec 5

def Fl.pure {α : Type} (x : α) : Fl α := { x := x, fl := 0 }
def Fl.bind {α β : Type} (a : Fl α) (f : α → Fl β) : Fl β :=
  let b := f a.x
  { x := b.x, fl := a.fl ||| b.fl }
def Fl.ofRes (r : Res) : Fl Nat := { x := r.1, fl := r.2 }

/-- Every element of a list, in order. -/
def Fl.mapList {α β : Type} (f : α → Fl β) : List α → Fl (List β)
  | [] => .pure []
  | a :: r => (f a).bind fun b => (Fl.mapList f r).bind fun bs => .pure (b :: bs)

/-- round_rne_f32 of a product, a sum, a difference and a fused product and sum (R247, R248). -/
def fMul (a b : Nat) : Fl Nat := .ofRes (FFmt.f32.mul .rne a b)
def fAdd (a b : Nat) : Fl Nat := .ofRes (FFmt.f32.add .rne a b)
def fSub (a b : Nat) : Fl Nat := .ofRes (FFmt.f32.sub .rne a b)
def fFma (a b c : Nat) : Fl Nat := .ofRes (FFmt.f32.fma false false .rne a b c)

/-- exp2_f32: FTRANS EXP2 of the device (R246, R206). -/
def fExp2 (a : Nat) : Fl Nat := .ofRes (ftransF32 3 .rne (BitVec.ofNat 32 a))

/-- bf: round_rne_bf16 (R248), as a BF16 pattern. -/
def fBf (a : Nat) : Fl Nat := .ofRes (FFmt.bf16.deliver .rne false (FFmt.f32.ex a))

/-- tree_sum over products of two lists, each product rounded (R247). -/
def fTree (a b : List Nat) : Fl Nat :=
  (Fl.mapList (fun p => fMul p.1 p.2) (a.zip b)).bind fun l => .ofRes (treeSum l)

/-- mx_dot of two lists of BF16 patterns: steps of 192 elements, groups of 8, from +0 (R248, R106 to R108). -/
def mxDot (a b : List Nat) : Fl Nat :=
  let pad (l : List Nat) : List Exact := l.map FFmt.bf16.ex
  go (pad a) (pad b) 0 ((a.length + 191) / 192)
where
  /-- One step of 192 elements after another. -/
  go (a b : List Exact) (c : Nat) : Nat → Fl Nat
    | 0 => .pure c
    | n + 1 =>
      let fill (l : List Exact) : List Exact := l ++ List.replicate (192 - l.length) (exReal 0 0)
      let r := mmaElement 8 (fill (a.take 192)) (fill (b.take 192)) c
      (Fl.ofRes r).bind fun c => go (a.drop 192) (b.drop 192) c n

/-- n elements of a format from bytes, as F32 patterns. -/
def patterns (f : FFmt) (bs : List Byte) (n : Nat) : List Nat :=
  let e := f.width / 8
  (List.range n).map fun i =>
    let x := bytesNat ((bs.drop (e * i)).take e)
    if e = 2 then x * 2 ^ 16 else x

/-- What one sub-iteration works on, for one head: q steps of Δ, x, B and C, A and D, and the state [P][N]. -/
structure HeadIn where
  dt : List Nat
  a : Nat
  d : Nat
  x : List (List Nat)
  b : List (List Nat)
  c : List (List Nat)
  st : List (List Nat)

/-- The result for one head: y by step and p, and the state. -/
structure HeadOut where
  y : List (List Nat)
  st : List (List Nat)

/-- One step of the recurrent form for one head (R247). -/
def recurrent (h : HeadIn) : Fl HeadOut :=
  let b := h.b.headD []
  let c := h.c.headD []
  (fMul (h.dt.headD 0) h.a).bind fun u => (fExp2 u).bind fun g =>
    (Fl.mapList (fun (px : List Nat × Nat) =>
      (Fl.mapList (fun (sb : Nat × Nat) => (fMul sb.2 px.2).bind fun bx => fFma g sb.1 bx) (px.1.zip b)).bind fun row =>
        (fTree c row).bind fun t => (fMul h.d px.2).bind fun dx => (fAdd t dx).bind fun y => .pure (row, y))
      (h.st.zip (h.x.headD []))).bind fun l =>
        .pure { y := [l.map Prod.snd], st := l.map Prod.fst }

/-- Running sums of u (R248). -/
def cumulate (acc : Nat) : List Nat → Fl (List Nat)
  | [] => .pure []
  | u :: us => (fAdd acc u).bind fun s => (cumulate s us).bind fun r => .pure (s :: r)

/-- One chunk of the chunked form for one head (R248). -/
def chunked (h : HeadIn) : Fl HeadOut :=
  (Fl.mapList (fun d => fMul d h.a) h.dt).bind fun u =>
  (match u with | [] => (Fl.pure [] : Fl (List Nat)) | x :: r => (cumulate x r).bind fun l => .pure (x :: l)).bind fun s =>
  (Fl.mapList (Fl.mapList fBf) h.b).bind fun fb =>
  (Fl.mapList (Fl.mapList fBf) h.c).bind fun fc =>
  (Fl.mapList (Fl.mapList fBf) h.x).bind fun fx =>
  let idx := List.range s.length
  let sAt (j : Nat) : Nat := s.getD j 0
  (Fl.mapList (fun j => Fl.mapList (fun i =>
      if i ≤ j then
        (mxDot (fc.getD j []) (fb.getD i [])).bind fun gm => (fSub (sAt j) (sAt i)).bind fun e => (fExp2 e).bind fun g =>
          (fMul gm g).bind fBf
      else .pure 0) idx) idx).bind fun ms =>
  let cols := List.range h.st.length
  let xCol (m : List (List Nat)) (p : Nat) : List Nat := m.map fun (r : List Nat) => r.getD p 0
  (Fl.mapList (fun j => Fl.mapList (fun p =>
      (mxDot (ms.getD j []) (xCol fx p)).bind fun yi => (fTree (h.c.getD j []) (h.st.getD p [])).bind fun t =>
        (fExp2 (sAt j)).bind fun e => (fMul e t).bind fun ye => (fAdd yi ye).bind fun yy =>
          (fMul h.d ((h.x.getD j []).getD p 0)).bind fun dx => fAdd yy dx) cols) idx).bind fun y =>
  let last := sAt (s.length - 1)
  (Fl.mapList (fun p =>
      (Fl.mapList (fun i => (fSub last (sAt i)).bind fun e => (fExp2 e).bind fun g =>
          (fMul g ((h.x.getD i []).getD p 0)).bind fBf) idx).bind fun w =>
        (fExp2 last).bind fun g =>
          Fl.mapList (fun n =>
            (mxDot w (xCol fb n)).bind fun z => (fMul g ((h.st.getD p []).getD n 0)).bind fun k => fAdd k z)
            (List.range (h.st.getD p []).length)) cols).bind fun st =>
  .pure { y := y, st := st }

/-- Part of a list cut out. -/
def slice {α : Type} (l : List α) (lo n : Nat) : List α := (l.drop lo).take n

/-- Bytes of a list of F32 patterns in a format (R246). -/
def outBytes (f : FFmt) (xs : List Nat) : Fl (List Byte) :=
  if f = .bf16 then (Fl.mapList fBf xs).bind fun l => .pure (l.flatMap fun x => natBytesLE 2 x)
  else .pure (xs.flatMap fun x => natBytesLE 4 x)

/-- The SSCB of the iteration (R245). -/
def EngRun.sscbAt (r : EngRun) : Nat := addrOf ((r.f 248 192 : Nat) + 128 * r.strideSum 16 256 16 [0, 1, 2, 3, 4])

/-- Whether the core's list lets a command of an epoch enter an SSCB (R250), and the list after it. -/
def Core.enterSscb (k : Core) (e : SsbEntry) : Option Core :=
  let live := k.ssbList.filter fun x => x.done.isNone
  if live.any fun x => x.sscb = e.sscb && x.epoch = e.epoch && x.pdom = e.pdom then some k
  else if live.length ≥ 64 then none
  else some { k with ssbList := k.ssbList ++ [e] }

/-- Whether the slot copy of an SSCB is still to be made by a commit or cancel in progress: a command that starts meanwhile waits for
it (R250). -/
def State.copyComing (s : State) (x : EngCtx) (sv : Nat) : Bool :=
  s.cores.any fun (_, k) => k.ssbList.any fun e =>
    e.sscb = sv && e.pdom = x.r.entry.pdom && e.epoch != x.r.epoch && e.done.isNone && (s.epochState e.epoch = 3 || s.epochState e.epoch = 4)

/-- The slots that a command writes the state of an SSCB to, in order (R246), as checked pieces. -/
def State.slotPieces (s : State) (x : EngCtx) (b : Sscb) : EngRes (List EngPiece × List EngPiece) :=
  let n := 4 * (b.hh * b.pp * b.nn)
  (if x.r.epoch = 0 then s.engMayWrite x b.sca n else .ok s []).bind fun s pc =>
    (s.engMayWrite x b.ssa n).bind fun s ps => .ok s (pc, ps)

/-- A state written to its slots (R246). -/
def State.putSlots (s : State) (x : EngCtx) (p : List EngPiece × List EngPiece) (st : List Nat) : State :=
  let bs := st.flatMap fun v => natBytesLE 4 v
  (s.engPut x bs [] 0 p.1).engPut x bs [] 0 p.2

/-- One sub-iteration of an SSCB (R244 to R249): every read and check comes first, then the writes. The running state stays in the
engine from one to the next; the last writes it to its slots, and SEP (R246). A command resumed after a capture reads it back from the
slot (R245). -/
def State.ssbIter (s : State) (x : EngCtx) : EngRes EngRun :=
  let r := x.r
  let sv := r.sscbAt
  if sv % 128 != 0 then .fault s 13 sv
  else if s.copyComing x sv then .wait s
  else
    (s.engReadGood x sv 128).bind fun s bs =>
      let b : Sscb := { w := bytesNat bs }
      if b.bad then .fault s 13 sv
      else if b.sep != 0 && b.sep != r.epoch then .fault s 14 sv
      else
        let k := s.core x.d x.c
        let entry : SsbEntry :=
          { sscb := sv, epoch := r.epoch, pdom := r.entry.pdom, partid := r.entry.partid, bundle := r.entry.bundle, pos := 0, done := none }
        match if r.epoch = 0 || r.entered then some k else k.enterSscb entry with
        | none => .wait s
        | some k =>
          let s := s.setCore x.d x.c k
          let thr := if b.thr = 0 then max k.ssbThresh.toNat 1 else b.thr
          let form := if r.sub = 0 then decide (thr ≤ b.ll) else r.form
          let t := r.sub
          let q := if form then min b.q (b.ll - t) else 1
          let e := b.ifmt.width / 8
          let o := b.ofmt.width / 8
          let hh := b.hh
          let pp := b.pp
          let nn := b.nn
          let size := hh * pp * nn
          let slot := if r.epoch = 0 then b.sca else b.ssa
          (s.engReadGood x (b.xa + t * hh * pp * e) (q * hh * pp * e)).bind fun s xb =>
          (s.engReadGood x (b.dta + t * hh * e) (q * hh * e)).bind fun s db =>
          (s.engReadGood x (b.ba + t * hh * nn * e) (q * hh * nn * e)).bind fun s bb =>
          (s.engReadGood x (b.ca + t * hh * nn * e) (q * hh * nn * e)).bind fun s cb =>
          (s.engReadGood x b.aa (4 * hh)).bind fun s ab =>
          (s.engReadGood x b.da (4 * hh)).bind fun s dd =>
          (if t != 0 && !r.state.isEmpty then EngRes.ok s r.state
           else if t = 0 && b.rst then .ok s (List.replicate size 0)
           else (s.engReadGood x slot (4 * size)).bind fun s sb => .ok s (patterns .f32 sb size)).bind fun s st =>
          let xs := patterns b.ifmt xb (q * hh * pp)
          let ds := patterns b.ifmt db (q * hh)
          let bs := patterns b.ifmt bb (q * hh * nn)
          let cs := patterns b.ifmt cb (q * hh * nn)
          let as := patterns .f32 ab hh
          let ks := patterns .f32 dd hh
          let steps := List.range q
          let one (h : Nat) : Fl HeadOut :=
            let i : HeadIn :=
              { dt := steps.map fun j => ds.getD (j * hh + h) 0, a := as.getD h 0, d := ks.getD h 0,
                x := steps.map fun j => slice xs ((j * hh + h) * pp) pp,
                b := steps.map fun j => slice bs ((j * hh + h) * nn) nn,
                c := steps.map fun j => slice cs ((j * hh + h) * nn) nn,
                st := (List.range pp).map fun p => slice st ((h * pp + p) * nn) nn }
            if form then chunked i else recurrent i
          let outs := Fl.mapList one (List.range hh)
          let ys := steps.flatMap fun j => outs.x.flatMap fun h => h.y.getD j []
          let yb := outBytes b.ofmt ys
          let st' := outs.x.flatMap fun h => h.st.flatMap fun l => l
          (s.engMayWrite x (b.ya + t * hh * pp * o) yb.x.length).bind fun s py =>
          (s.slotPieces x b).bind fun s ps =>
          (if r.epoch = 0 then .ok s [] else s.engMayWrite x (sv + 8) 1).bind fun s pe =>
          let last := !(t + q < b.ll)
          let s := s.engPut x yb.x [] 0 py
          let s := if last then (s.putSlots x ps st').engPut x [BitVec.ofNat 8 r.epoch] [] 0 pe else s
          let s := if t = 0 then s.noteRun x (if form then 12 else 13) 1 else s
          .ok s { r with sub := if last then 0 else t + q, form := form, entered := true, state := if last then [] else st',
                         flags := r.flags ||| outs.fl ||| yb.fl }

/-- Whether a command stopped by a capture or a halt has still to write its running state to its slots (R245). -/
def EngRun.unsaved (r : EngRun) : Bool := r.stage = 3 && r.sub != 0 && !r.state.isEmpty && r.held.isNone

/-- The running state of a stopped SSB command goes to the slots that R246 names, where a resume reads it back (R245). -/
def State.saveRun (s : State) (d c : Nat) (r : EngRun) : State :=
  let x : EngCtx := { d := d, c := c, u := 2, r := r }
  let tag (t : State) : State := t.tagWrites s.nextId (s.engTaskId r) r.entry.pdom
  let res := (s.engReadGood x r.sscbAt 128).bind fun s bs =>
    let b : Sscb := { w := bytesNat bs }
    (s.slotPieces x b).bind fun s ps => .ok (s.putSlots x ps r.state) ()
  match res with
  | .wait s => tag s
  | .fault s code addr => (tag s).engFault d c 2 r code addr
  | .ok s _ => (tag s).mapRun d c 2 fun r => { r with state := [] }

/-- SSB commands that a capture or a halt has stopped save their running state. -/
def State.saveRuns (s : State) : State :=
  s.cores.foldl (fun s ((d, c), k) =>
    match k.ssb.run with
    | some r =>
      if r.unsaved && s.entryStopped r.entry && (match s.task? r.entry.task with | some t => t.state != .ending | none => true) then
        s.saveRun d c r
      else s
    | none => s) s

/-- SSB_SCAN (R245). -/
def execSsbScan (die core : Nat) (s : State) : Host.Outcome State Fault Refusal :=
  .next (s.engineStep die core 2 State.ssbIter)

end Sys2Proof.Machine
end

