-- ==== Sys2Proof/Machine/Flume.lean ====
section
/-! DEFINITION. Flumes: call records, weirs, returns, order domains and tokens (13 R255 to R260, R272; 14 R285 to R287; 20 R360,
R365; 22 R383, R385). -/
namespace Sys2Proof.Machine

/-! ### Types and records -/

/-- Weir depth, payload and return payload sizes, and units, by type (R255). -/
def flDepth (t : Nat) : Nat := [256, 1024, 1024, 64, 64, 4096, 16, 1024].getD t 0
def flPayload (t : Nat) : Nat := [48, 80, 112, 48, 80, 64, 48, 64].getD t 0
def flReturn (t : Nat) : Nat := [16, 16, 0, 16, 128, 32, 16, 0].getD t 0
def flUnits (t : Nat) : Nat := [8, 1, 1, 1, 1, 64, 1, 1].getD t 0

/-- Units of a type that the configuration record enables (R18). -/
def State.unitCount (s : State) (t : Nat) : Nat :=
  flUnits t - ((s.mg.gxOff.eraseDups).filter fun x => x.1 = t && x.2 < flUnits t).length

/-- Fields of a call record's header (R256). -/
def chToken (h : Nat) : Nat := bitsNat h 127 112
def chDom (h : Nat) : Nat := bitsNat h 111 104
def chOrd (h : Nat) : Bool := bitNat h 103
def chPartid (h : Nat) : Nat := bitsNat h 102 99
def chType (h : Nat) : Nat := bitsNat h 98 96
def chPlen (h : Nat) : Nat := bitsNat h 95 88
def chRslot (h : Nat) : Nat := bitsNat h 81 64
def chRlen (h : Nat) : Nat := bitsNat h 63 56
def chRel (h : Nat) : Bool := bitNat h 32
def chTag (h : Nat) : Nat := bitsNat h 31 0

def Call.hd (c : Call) : Nat := c.header.toNat
def Call.token (c : Call) : Nat := chToken c.hd
def Call.dom (c : Call) : Nat := chDom c.hd
def Call.ord (c : Call) : Bool := chOrd c.hd

/-- n bytes of the payload from an offset. -/
def Call.pay (c : Call) (off n : Nat) : Nat := bytesNat ((c.payload.drop off).take n)

/-- Reserved values of a payload (R262, R267, R270). -/
def badPayload (typ : Nat) (p : List Byte) : Bool :=
  let f (off n : Nat) : Nat := bytesNat ((p.drop off).take n)
  match typ with
  | 0 => f 46 2 != 0
  | 1 => bitsNat (f 12 4) 7 3 != 0 || bitsNat (f 12 4) 31 16 != 0
  | 2 => f 12 4 % 4 = 3 || bitsNat (f 12 4) 7 2 != 0 || bitsNat (f 12 4) 31 16 != 0
  | 3 => 2 ≤ f 0 4 || f 44 4 != 0
  | 4 => f 12 4 != 0
  | 5 => 4 ≤ f 60 4
  | 6 => f 32 16 != 0
  | _ => false

/-- Whether a record breaks R256 or R262 (R383 STATUS 6). -/
def badCall (typ hd : Nat) (p : List Byte) : Bool :=
  chType hd != typ || 16 * chPlen hd != flPayload typ || (chOrd hd && typ != 1 && typ != 2) || bitsNat hd 87 82 != 0 ||
    bitsNat hd 55 33 != 0 || chRslot hd % 16 != 0 || badPayload typ p

/-- Whether the return slot of a record lies in the grant and holds the return of its type (R383). -/
def slotFits (typ hd grant : Nat) : Bool :=
  chRslot hd + 16 * chRlen hd ≤ 1024 * grant && 1 + flReturn typ / 16 ≤ chRlen hd

/-! ### Domains -/

def State.domain (s : State) (n : Nat) : Domain :=
  match s.gx.domains.find? fun d => d.n = n with
  | some d => d
  | none => { n := n, next := 0, apply := 0, marks := [] }

def State.setDomain (s : State) (d : Domain) : State :=
  { s with gx := { s.gx with domains := d :: s.gx.domains.filter fun x => x.n != d.n } }

def State.call? (s : State) (id : Nat) : Option Call := s.gx.calls.find? fun c => c.id = id

def State.mapCall (s : State) (id : Nat) (f : Call → Call) : State :=
  { s with gx := { s.gx with calls := s.gx.calls.map fun c => if c.id = id then f c else c } }

/-- Distance of a token from APPLY (R260). -/
def Domain.ahead (d : Domain) (t : Nat) : Nat := (t + 2 ^ 16 - d.apply) % 2 ^ 16

/-- Whether a token is outstanding, and no presented call other than `self` carries it (R385). -/
def State.outstandingToken (s : State) (dom t self : Nat) : Bool :=
  let d := s.domain dom
  d.ahead t < d.ahead d.next && !d.marks.contains t &&
    !s.gx.calls.any fun c => c.ord && c.dom = dom && c.token = t && c.id != self && !c.detached

/-- A token's done-mark set, when it is outstanding (R259, R385). -/
def State.markToken (s : State) (dom t self : Nat) : State :=
  if s.outstandingToken dom t self then
    let d := s.domain dom
    s.setDomain { d with marks := insertNat t d.marks }
  else s

/-! ### Returns -/

/-- An FLCALL or an entry of a cluster flume port is done with: the waiting strand's FLCALL retires, or the offer loses its
bit (R40, R118). -/
def State.callTaken (s : State) (c : Call) : State :=
  match c.port with
  | some o => { s with offers := s.offers.map fun x => if x.id = o then { x with pending := x.pending &&& 0x3F } else x }
  | none =>
    { s with strands := s.strands.map fun st =>
        match st.blocked with
        | some b => if b.wait = .flcall c.id then { st with blocked := some { b with woken := true } } else st
        | none => st }

/-- The return of a call (R257, R383): the payload, and then the header in one write, as a release at device scope with REL;
the call is gone and its domain advances. -/
def State.writeReturn (s : State) (c : Call) (status : Nat) (payload : List Byte) : State :=
  let slot := chRslot c.hd
  let s := if payload.isEmpty then s else s.putGrant c.bundle (slot + 16) payload
  let s := if chRel c.hd then s.gxRelease else s
  let hd := chTag c.hd * 2 ^ 96 + status * 2 ^ 88 + payload.length / 16 * 2 ^ 80 + 1
  let s := s.putGrant c.bundle slot (natBytesLE 16 hd)
  let s := { s with gx := { s.gx with calls := s.gx.calls.filter fun x => x.id != c.id,
                                      appends := s.gx.appends.filter fun a => a.call != some c.id } }
  let s := s.mapTask c.task fun t => { t with callsLeft := t.callsLeft - 1 }
  if c.ord && c.stage = 3 && !c.detached then
    let d := s.domain c.dom
    s.setDomain { d with apply := (c.token + 1) % 2 ^ 16, marks := d.marks.filter (· != c.token) }
  else s

/-- The return payload of a traversal that found nothing (R267): t is +∞ and PRIM all ones; MKEY is given by a task; what the
spec does not state of it is free (assumption 20). -/
def missPayload (free visits : Nat) (misskey : Option Nat) : List Byte :=
  let w (k : Nat) : Nat := (Config.freeWord64 (free + k)).toNat
  natBytesLE 4 0x7F800000 ++ natBytesLE 8 (w 0) ++ natBytesLE 4 0xFFFFFFFF ++
    natBytesLE 4 (match misskey with | some m => m | none => w 1) ++ natBytesLE 4 (w 2 % 2 ^ 17) ++ natBytesLE 4 visits ++
    natBytesLE 4 0

/-- A call that fails (R383): no payload, but a traversal returns a miss. -/
def State.failCall (s : State) (c : Call) (status visits : Nat) : State :=
  if c.typ = 5 then
    { s with free := s.free + 3 }.writeReturn c status (missPayload s.free visits none)
  else s.writeReturn c status []

/-! ### Weirs -/

/-- Whether two calls share a weir: the type, and the cluster for texture filters (R255). -/
def Call.sameWeir (a b : Call) : Bool := a.typ = b.typ && (a.typ != 4 || (a.die = b.die && a.core / 4 = b.core / 4))

/-- Whether a presented call can be admitted now (R258, R260). -/
def State.admissible (s : State) (c : Call) : Bool :=
  (s.gx.calls.filter fun x => x.stage = 1 && x.sameWeir c).length < flDepth c.typ &&
    (!c.ord || (s.domain c.dom).ahead c.token < 1024)

/-- Whether no call presented earlier could be admitted in its place (R258). -/
def State.firstAtWeir (s : State) (c : Call) : Bool :=
  !s.gx.calls.any fun x => x.stage = 0 && x.sameWeir c && x.id < c.id && s.admissible x

/-- An ordered call with a token that is not outstanding returns STATUS 7 (R385). -/
def State.judgeToken (s : State) (c : Call) : Option State :=
  if c.ord && !s.outstandingToken c.dom c.token c.id then some ((s.failCall c 7 0).callTaken c) else none

/-- A call is admitted: an ordered call leaves its weir at once for its domain's storage (R258). -/
def State.admitCall (s : State) (c : Call) : State :=
  ((s.mapCall c.id fun x => { x with stage := if x.ord then 2 else 1 }).callTaken c).note c.die (some c.core) 15 1 c.task

/-- WEIR_ADMIT (R258, R260, R385). -/
def execWeirAdmit (id : Nat) (s : State) : Host.Outcome State Fault Refusal :=
  .next (
    match s.call? id with
    | some c =>
      if c.stage ≠ 0 then s
      else
        match s.judgeToken c with
        | some s => s
        | none => if s.admissible c && s.firstAtWeir c then s.admitCall c else s
    | none => s)

/-- What issuing a call comes to: the strand has taken a cause, the call is settled, or it waits at its weir under a number. -/
inductive Present where
  | raised (s : State)
  | done (s : State)
  | held (s : State) (id : Nat)

/-- A call is presented (R256, R258, R383, R385). -/
def State.present (s : State) (c : Call) : Present :=
  let s := { s with nextId := s.nextId + 1, gx := { s.gx with calls := s.gx.calls ++ [c] } }
  let s := s.mapTask c.task fun t => { t with callsLeft := t.callsLeft + 1 }
  if badCall c.typ c.hd c.payload then
    let s := if c.ord then s.markToken c.dom c.token c.id else s
    .done ((s.failCall c 6 0).callTaken c)
  else
    match s.judgeToken c with
    | some s => .done s
    | none => if s.admissible c && s.firstAtWeir c then .done (s.admitCall c) else .held s c.id

/-- The call of a record (R256): its PARTID is the task's unless the caller is at handler level. -/
def mkCall (id typ hd : Nat) (payload : List Byte) (at_ : SRef) (bundle task pdom partid : Nat) (level : Bool)
    (port : Option Nat) (rel : Bool) : Call :=
  { id := id, typ := typ, die := at_.die, core := at_.core, slot := at_.slot, bundle := bundle, task := task, pdom := pdom,
    partid := if level then chPartid hd else partid, header := BitVec.ofNat 128 hd, payload := payload, stage := 0,
    port := port, pos := 0, count := 0, detached := false, recs := [], ret := [], rel := rel }

/-! ### FLCALL and FLWAIT -/

/-- The offset in a grant as a scratchpad aperture address (R113). -/
def scratchVa (off : Nat) : Nat := 0x1FC000000000000 + off

/-- The address of the lowest poisoned atom among n bytes of a grant. -/
def Bundle.firstBad (b : Bundle) (off n : Nat) : Option Nat :=
  ((wordsTouched off n).find? fun w => b.poison.contains w).map fun w => 8 * w / 32 * 32

/-- FLCALL as its strand issues it, before the question whether it waits (R285, R365, R383). -/
def State.tryCall (s : State) (st : Strand) (typ a : Nat) (rel : Bool) : Present :=
  let off := a % 2 ^ 18
  let raise (c : BitVec 64) (n : Nat) : Present := .raised (s.raise st c (BitVec.ofNat 64 n))
  let mis := if off % 16 != 0 then cMisalign else 0
  match s.bundleOf st with
  | none => raise (cAddr ||| mis) (scratchVa off)
  | some b =>
    let lim := 1024 * b.grant
    let hd := readNat b.scratch off 16
    let len := 16 * chPlen hd
    -- a misaligned record is not read, so that only its header's place is judged
    if off % 16 != 0 then raise (mis ||| if off + 16 > lim then cAddr else 0) (scratchVa off)
    else if off + 16 > lim || off + 16 + len > lim then raise cAddr (scratchVa off)
    else
      match b.firstBad off (16 + len) with
      | some bad => raise cPoison (scratchVa bad)
      | none =>
        if !slotFits typ hd b.grant then raise cAddr (chRslot hd)
        else
          let s := s.writeGrant b.handle (chRslot hd) (List.replicate 16 0)
          let pay := readBytes b.scratch (off + 16) (min len (flPayload typ))
          s.present (mkCall s.nextId typ hd pay st.at_ b.handle st.task st.pdom.toNat st.partid.toNat st.level none rel)

/-- FLCALL (R285): with .rel first a release at device scope; a blocking point while its call is held at the weir, which then
reads its registers as the closed windows leave them (R42). -/
def execFlcall (t : BitVec 3) (a : BitVec 7) (r : BitVec 1) (s : State) : Host.Outcome State Fault Refusal :=
  s.onStrand fun st =>
    if r = 1 && (s.core st.at_.die st.at_.core).outstanding != 0 then s.putStrand (st.block s.cycle 0 false .retry)
    else
      match s.tryCall st t.toNat (st.s a).toNat (r = 1) with
      | .raised s => s
      | .done s => s.putStrand ((s.seen st).retire s.cycle 1)
      | .held _ _ =>
        let st := st.closeWindows
        match (s.putStrand st).tryCall st t.toNat (st.s a).toNat (r = 1) with
        | .raised s => s
        | .done s => s.putStrand ((s.seen st).retire s.cycle 1)
        | .held s id => s.putStrand ((s.seen st).block s.cycle 1 true (.flcall id))

/-- The header of a return slot, when it is written (R257). -/
def State.slotDone (s : State) (b : Nat) (off : Nat) : Option Nat :=
  match s.bundle? b with
  | some b => let h := readNat b.scratch off 16; if bitNat h 0 then some h else none
  | none => none

/-- FLWAIT retires; a STATUS that is not 0 raises FLUME at the fall-through address (R286, R360). -/
def State.passFlwait (s : State) (st : Strand) (off hd : Nat) : State :=
  if bitsNat hd 95 88 = 0 then s.putStrand (st.retire s.cycle 1)
  else s.raiseAfter { st with blocked := none } 1 cFlume (BitVec.ofNat 64 off)

/-- One look of FLWAIT at its slot; none when it has to wait. -/
def State.tryFlwait (s : State) (st : Strand) (a : Nat) : Option State :=
  let off := a % 2 ^ 18
  let tv (n : Nat) : BitVec 64 := BitVec.ofNat 64 n
  match s.bundleOf st with
  | none => some (s.raise st (cAddr ||| if off % 16 != 0 then cMisalign else 0) (tv (scratchVa off)))
  | some b =>
    let far := off + 16 > 1024 * b.grant
    if off % 16 != 0 || far then
      some (s.raise st ((if off % 16 != 0 then cMisalign else 0) ||| if far then cAddr else 0) (tv (scratchVa off)))
    else
      match b.firstBad off 16 with
      | some bad => some (s.raise st cPoison (tv (scratchVa bad)))
      | none => (s.slotDone b.handle off).map fun h => s.passFlwait st off h

/-- FLWAIT (R286): a blocking point until DONE is 1. -/
def execFlwait (a : BitVec 7) (s : State) : Host.Outcome State Fault Refusal :=
  s.onStrand fun st =>
    match s.tryFlwait st (st.s a).toNat with
    | some s => s
    | none =>
      let st := st.closeWindows
      let s := s.putStrand st
      match s.tryFlwait st (st.s a).toNat with
      | some s => s
      | none => s.putStrand (st.block s.cycle 1 true (.flwait ((st.s a).toNat % 2 ^ 18)))

/-! ### The cluster flume port -/

/-- Entries that a port discards are counted in FL_PDROP (R256). -/
def State.countPdrop (s : State) : State :=
  { s with gx := { s.gx with pdrop := BitVec.ofNat 64 (min (s.gx.pdrop.toNat + 1) (2 ^ 32 - 1)) } }

/-- An offer to the cluster flume port (R256): the record is read from the sender's grant; a bad entry is accepted at once. -/
def State.portOffer (s : State) (o : Offer) (partid : Nat) : State :=
  let off := o.entry.toNat % 2 ^ 18
  let accept (s : State) : State :=
    { s with offers := s.offers.map fun x => if x.id = o.id then { x with pending := x.pending &&& 0x3F } else x }
  match o.bundle.bind s.bundle? with
  | none => accept s.countPdrop
  | some b =>
    let hd := readNat b.scratch off 16
    let len := 16 * chPlen hd
    let typ := chType hd
    if off % 16 != 0 || off + 16 + len > 1024 * b.grant || !slotFits typ hd b.grant || (b.firstBad off (16 + len)).isSome then
      accept s.countPdrop
    else
      let at_ : SRef := { die := o.die, core := o.core, slot := o.slot }
      let c := mkCall s.nextId typ hd (readBytes b.scratch (off + 16) (min len (flPayload typ))) at_ b.handle o.task o.pdom
        partid o.level (some o.id) false
      match s.present c with
      | .raised s | .done s | .held s _ => s

/-! ### Tokens and domains -/

/-- FLTOK TAKE (R259, R287, R365, R385). -/
def execTake (d a b : BitVec 7) (s : State) : Host.Outcome State Fault Refusal :=
  s.onStrand fun st =>
    let n := (st.s b).toNat % 2 ^ 11
    if n = 0 || 1024 < n then s.raise st cOplim ((wordA 0x67 0 d a b).zeroExtend 64)
    else
      let m := s.domain ((st.s a).toNat % 256)
      if m.ahead m.next + n > 65535 then s.putStrand ((st.setS d 0xFFFFFFFF).retire s.cycle 1)
      else
        (s.setDomain { m with next := (m.next + n) % 2 ^ 16 }).putStrand
          ((st.setS d (BitVec.ofNat 32 m.next)).retire s.cycle 1)

/-- FLTOK SKIP (R259, R287, R385). -/
def execSkip (a b : BitVec 7) (s : State) : Host.Outcome State Fault Refusal :=
  s.onStrand fun st =>
    (s.markToken ((st.s a).toNat % 256) ((st.s b).toNat % 2 ^ 16) 0).putStrand (st.retire s.cycle 1)

/-- Whether a unit of the type is free to start a call: its calls in progress are those started and not finished (R255). -/
def State.unitFree (s : State) (c : Call) : Bool :=
  (s.gx.calls.filter fun x => x.stage = 3 && x.sameWeir c).length < s.unitCount c.typ

/-- A unit starts a call: one made with .rel first acquires on the GX (R125). -/
def State.startCall (s : State) (c : Call) : State :=
  (if c.rel then s.gxAcquire else s).mapCall c.id fun c => { c with stage := 3 }

/-- One of the up to four steps a domain makes in a cycle (R260): none when it can make none. -/
def State.advanceDomain (s : State) (n : Nat) : Option State :=
  let d := s.domain n
  if d.marks.contains d.apply then
    some (s.setDomain { d with apply := (d.apply + 1) % 2 ^ 16, marks := d.marks.filter (· != d.apply) })
  else if s.gx.calls.any fun c => c.ord && c.dom = n && c.stage = 3 && !c.detached then none
  else
    match s.gx.calls.find? fun c => c.ord && c.dom = n && c.stage = 2 && c.token = d.apply with
    | some c => if s.unitFree c then some (s.startCall c) else none
    | none => none

def State.advanceSteps (s : State) (n : Nat) : Nat → State
  | 0 => s
  | k + 1 => match s.advanceDomain n with | some s => s.advanceSteps n k | none => s

/-- ORDER_DOMAIN_ADVANCE (R260): the steps of one cycle. -/
def execOrderDomainAdvance (n : Nat) (s : State) : Host.Outcome State Fault Refusal := .next (s.advanceSteps n 4)

/-- A write to FL_DOM_n (R272, R385): held calls are judged again, stored calls whose tokens are not outstanding return STATUS
7, and a started call advances nothing. -/
def State.writeDom (s : State) (n : Nat) (v : BitVec 64) : State :=
  let s := s.setDomain { n := n, next := bitsNat v.toNat 15 0, apply := bitsNat v.toNat 31 16, marks := [] }
  let s := { s with gx := { s.gx with calls := s.gx.calls.map fun (c : Call) =>
    if c.ord && c.dom = n && c.stage = 3 then { c with detached := true } else c } }
  (s.gx.calls.filter fun c => c.ord && c.dom = n && c.stage != 3).foldl (fun s c =>
    match s.judgeToken c with
    | some s => s
    | none => s) s

/-! ### What every unit shares -/

/-- What a unit's access or its whole work comes to: a wait for a part move or a home, a failure with its STATUS (R383), or
a result. -/
inductive FlRes (α : Type) where
  | wait (s : State)
  | fail (s : State) (status : Nat)
  | ok (s : State) (x : α)

def FlRes.bind {α β : Type} (r : FlRes α) (f : State → α → FlRes β) : FlRes β :=
  match r with
  | .wait s => .wait s
  | .fail s n => .fail s n
  | .ok s x => f s x

/-- The die whose RDC and TLB a unit uses: the caller's for a texture filter, else GX (R255). -/
def Call.at0 (c : Call) : Nat := if c.typ = 4 then c.die else 0

/-- The translation of a unit's access (R383): a translation fault writes its kind-16 record and the call does not wait; a
remote part moves and the access waits. -/
def State.flPa (s : State) (c : Call) (va al : Nat) (write : Bool) : FlRes (Nat × L2Place) :=
  if addrKind va ≠ .virt || va % al ≠ 0 then .fail s 4
  else
    let d := c.at0
    let page := pageOf va
    let k := partOf va
    let task := match s.task? c.task with | some t => t.id.toNat | none => 0
    let give (s : State) (l : Leaf) : FlRes (Nat × L2Place) :=
      if !(if write then l.w else l.r) then .fail s 3
      else
        match l.part k with
        | .present => .ok s (l.pa va, l.place c.partid 0)
        | st =>
          if st = .remote && l.dra then .ok s (2 ^ 48 + l.pa va, l.place c.partid 0)
          else
            match s.unitTranslate d none c.pdom c.partid task va write with
            | .ok s pa pl => .ok s (pa, pl)
            | .wait s => .wait s
            | .fail s => .fail s 2
    let usable := match s.tlbLeaf d none c.pdom page with | some l => if s.usable l k then some l else none | none => none
    match usable with
    | some l => give s l
    | none =>
      match s.walk c.pdom page k with
      | .ok l => give (s.tlbFill d c.pdom page l) l
      | .error reason => .fail (s.memRecord 16 reason 0 k 4 d 0 c.pdom task va) 2

/-- A read by a unit of n bytes at an address aligned to `al` (R383). -/
def State.flReadFrom (s : State) (c : Call) (va n : Nat) (acc : List Byte) : Nat → FlRes (List Byte)
  | 0 => .ok s acc
  | f + 1 =>
    if n = 0 then .ok s acc
    else
      (s.flPa c va 1 false).bind fun s (pa, pl) =>
        match s.unitAtom c.at0 none pa pl with
        | none => .wait s
        | some (v, m, s) =>
          if m ≠ 0 then .fail s 5
          else
            let k := min n (32 - va % 32)
            s.flReadFrom c (va + k) (n - k) (acc ++ natBytesLE k (getBytes v (va % 32) k)) f

def State.flRead (s : State) (c : Call) (va n al : Nat) : FlRes (List Byte) :=
  if addrKind va ≠ .virt || va % al ≠ 0 then .fail s 4 else s.flReadFrom c va n [] (n / 32 + 2)

/-- A write by a unit: weak (R257). -/
def State.flWriteFrom (s : State) (c : Call) : List (Nat × List Byte) → FlRes Unit
  | [] => .ok s ()
  | (va, bs) :: r =>
    (s.flPa c va 1 true).bind fun s (pa, pl) =>
      ((s.linkRoom c.at0 pa (4 * s.xwrites.length)).writeAtom c.at0 none pa bs false (some pl)).flWriteFrom c r

def State.flWrite (s : State) (c : Call) (va : Nat) (bs : List Byte) (al : Nat) : FlRes Unit :=
  if addrKind va ≠ .virt || va % al ≠ 0 then .fail s 4 else s.flWriteFrom c (atomPieces va bs)

/-- A unit performs a call of its type: one in the weir when a unit is free, or one it has started (R258, R260). The work
answers its return payload; while it waits the call stands as the work left it. -/
def State.runCall (s : State) (typ id : Nat) (work : State → Call → FlRes (List Byte)) : State :=
  match s.call? id with
  | none => s
  | some c =>
    if c.typ ≠ typ || (s.gx.appends.any fun a => a.call = some id) then s
    else if !(c.stage = 3 || (c.stage = 1 && s.unitFree c)) then s
    else
      let s := if c.stage = 1 then s.startCall c else s
      let c := { c with stage := 3 }
      let from_ := s.nextId
      let tag (x : State) : State :=
        (x.tagWrites from_ (match x.task? c.task with | some t => t.id.toNat | none => 0) c.pdom).tagNotes s.evBuf.length (x.who c.task)
      match work s c with
      | .wait s => tag s
      | .fail s status => let s := tag s; let c := (s.call? id).getD c; s.failCall c status c.count
      | .ok s p =>
        let s := tag s
        -- a call whose records still wait for room in a queue returns when they are appended (R271)
        if s.gx.appends.any fun a => a.call = some id then s else s.writeReturn ((s.call? id).getD c) 0 p

end Sys2Proof.Machine
end

