-- ==== Sys2Proof/Machine/Epoch.lean ====
section
/-! DEFINITION. Epochs: SPEC, the commit and the cancel of an epoch, and the slot copies of the SSB (03 R66, R67; 12 R250; 14 R282
to R284; 02 R48). -/
namespace Sys2Proof.Machine

/-! ### Ending strands and commands from outside -/

/-- The standing offer and the held call of a strand are withdrawn (R119, R66). -/
def State.withdraw (s : State) (st : Strand) : State :=
  match st.blocked with
  | some b =>
    (match b.wait with
     | .qsend id => { s with offers := s.offers.filter fun o => o.id != id }
     | .flcall id =>
       (match s.call? id with
        | some c =>
          if c.stage = 0 then
            let s := { s with gx := { s.gx with calls := s.gx.calls.filter fun x => x.id != c.id } }
            s.mapTask st.task fun t => { t with callsLeft := t.callsLeft - 1 }
          else s
        | none => s)
     | _ => s)
  | none => s

/-- A strand retires where it stands as under EXIT (R66, R36): its standing offer and its held call go with it. -/
def State.killStrand (s : State) (st : Strand) : State :=
  (s.withdraw st).endStrand st

/-- The backwater bytes of an evicted bundle are free again (R43). -/
def State.freeBackwater (s : State) (b : Bundle) : State :=
  { s with hg := { s.hg with bwUsed := s.hg.bwUsed.filter (· != b.bw) } }

/-- An evicted bundle is dropped from the backwater (R66): its members are gone, and it dissolves once no command in flight names it
(R37). -/
def State.dropEvicted (s : State) (b : Bundle) : State :=
  let s := b.saved.foldl State.withdraw s
  let s := s.mapTask b.task fun t =>
    { t with strandsLeft := t.strandsLeft - b.saved.length, exc := b.saved.foldl (fun e st => e ||| st.fpflags) t.exc }
  ((s.freeBackwater b).mapBundle b.handle fun b => { b with saved := [], bw := (0, 0) }).dissolveIfDone b.handle

/-- A running command stops where it stands, and its engine is idle (R66, R397): its flags enter its task's EXC (R64, R109), and the
bytes of its last run are counted. -/
def State.stopRun (s : State) (d c u : Nat) (r : EngRun) : State :=
  let s := (s.stopFill u r).mapTask r.entry.task fun t => { t with exc := t.exc ||| r.flags }
  let s := if r.count.isSome then s.countRun r else s
  let s := if r.held.isSome then s.clearHeld d (engCore c u) u (s.engTaskId r) else s
  s.setEngine d c u { s.engine d c u with run := none }

/-- Every queued and running command of some tasks is removed, and hit records of theirs that stand before the sieve. -/
def State.removeCommands (s : State) (of : Nat → Bool) : State :=
  let s : State := { s with gx := { s.gx with hits := s.gx.hits.filter fun h => !of h.task } }
  s.engines.foldl (fun s ((d, c, u), e) =>
    let s := match e.run with
      | some r => if of r.entry.task && r.entry.task != 0 then s.stopRun d c u r else s
      | none => s
    let e := s.engine d c u
    s.setEngine d c u { e with queue := e.queue.filter fun q => !(of q.task && q.task != 0) }) s

/-- Every bundle that has nothing left dissolves (R37). -/
def State.dissolveAll (s : State) : State :=
  s.bundles.foldl (fun s b => s.dissolveIfDone b.handle) s

/-! ### Slot copies (R250) -/

/-- The SSB of a core acting for a listed SSCB: its accesses are made in the domain of the command that entered it. -/
def ssbCtx (d c : Nat) (e : SsbEntry) : EngCtx :=
  { d := d, c := c, u := 2, r :=
    { entry := { record := 0, task := 0, pdom := e.pdom, partid := e.partid, bundle := e.bundle, group := 0, engines := 0,
                 rdv := none, engTask := false, ring := none },
      words := 0, epoch := e.epoch, stage := 3, vec := [0, 0, 0, 0, 0], sub := 0, flags := 0, rng := 0, zeroed := [],
      held := none, bhnd := none, form := false, entered := false, abandoned := false, filling := false, waiting := none, tiles := [],
      count := none, state := [] } }

/-- The list entry changed or freed. -/
def State.mapSsb (s : State) (d c : Nat) (e : SsbEntry) (f : SsbEntry → Option SsbEntry) : State :=
  let k := s.core d c
  s.setCore d c { k with ssbList := k.ssbList.filterMap fun x =>
    if x.sscb = e.sscb && x.epoch = e.epoch && x.pdom = e.pdom && x.done.isNone then f x else some x }

/-- Elements pos and on of a slot copied, one at a time: how many are done at the end (R250). -/
def State.copyElems (s : State) (x : EngCtx) (src dst pos : Nat) : Nat → EngRes Unit × Nat
  | 0 => (.ok s (), pos)
  | n + 1 =>
    match (s.engRead x (src + 4 * pos) 4).bind fun s g =>
        (s.engMayWrite x (dst + 4 * pos) 4).bind fun s ps => .ok (s.engPut x g.bytes g.bad 0 ps) () with
    | .ok s _ => s.copyElems x src dst (pos + 1) n
    | r => (r, pos)

/-- The copy of one listed SSCB: SCA := SSA at a commit, SSA := SCA at a cancel, then SEP := 0; an SSCB whose SEP no longer
holds the epoch is left (R250). What it has written is released before the commit or cancel completes. -/
def State.copySlot (s : State) (d c : Nat) (e : SsbEntry) (commit : Bool) : State :=
  let x := ssbCtx d c e
  let free (s : State) : State := s.mapSsb d c e fun y => some { y with done := some s.nextId }
  let fault (s : State) (code addr : Nat) : State := free (s.reportFault d c 2 x.r 0 0 code addr 0 false)
  match s.engRead x e.sscb 128 with
  | .wait s => s
  | .fault s code addr => fault s code addr
  | .ok s g =>
    let b : Sscb := { w := bytesNat g.bytes }
    if b.sep ≠ e.epoch then free s
    else
      let src := if commit then b.ssa else b.sca
      let dst := if commit then b.sca else b.ssa
      match s.copyElems x src dst e.pos (b.hh * b.pp * b.nn - e.pos) with
      | (.wait s, pos) => s.mapSsb d c e fun y => some { y with pos := pos }
      | (.fault s code addr, _) => fault s code addr
      | (.ok s _, pos) =>
        match s.engWrite x (e.sscb + 8) [0#8] with
        | .wait s => s.mapSsb d c e fun y => some { y with pos := pos }
        | .fault s code addr => fault s code addr
        | .ok s _ => free s

/-- Listed SSCBs of an epoch, with their cores. -/
def State.listed (s : State) (e : Nat) : List ((Nat × Nat) × SsbEntry) :=
  s.cores.flatMap fun (p, k) => (k.ssbList.filter fun x => x.epoch = e).map fun x => (p, x)

/-- Whether the copies of an epoch are made and released at device scope (R250): no write of theirs is still to be acknowledged. -/
def State.copiesDone (s : State) (e : Nat) : Bool :=
  (s.listed e).all fun (p, x) =>
    match x.done with
    | some n => !s.xwrites.any fun w => w.src = p.1 && w.core = some p.2 && w.id < n
    | none => false

/-- Whether a task that the cancel of an epoch has ended has still its completion record to be written (R66). -/
def State.recordsDue (s : State) (e : Nat) : Bool :=
  s.hg.tasks.any fun t => t.epoch = e && t.state = .finishing && t.status = 1 && !t.recDone

/-- Whether an SSB command of the epoch is still running (R250). -/
def State.ssbRunning (s : State) (e : Nat) : Bool :=
  s.cores.any fun (_, k) => match k.ssb.run with | some r => r.epoch = e | none => false

/-- A commit or cancel in progress goes on: its copies, their release at device scope, and the records of a cancel, before it completes
(R66, R250, R283). Strands that wait for it then retire with 1. -/
def State.specStep (s : State) (e : Nat) : State :=
  let st := s.epochState e
  if st ≠ 3 && st ≠ 4 then s
  else if s.ssbRunning e then s
  else
    let s := ((s.listed e).filter fun x => x.2.done.isNone).foldl (fun s (p, x) => s.copySlot p.1 p.2 x (st = 3)) s
    if !s.copiesDone e || (st = 4 && s.recordsDue e) then s
    else
      let s : State := { s with cores := s.cores.map fun (p, k) => (p, { k with ssbList := k.ssbList.filter fun x => x.epoch != e }) }
      let s := s.setEpoch e (if st = 3 then 0 else 2) (s.epochDom e)
      { s with strands := s.strands.map fun (x : Strand) =>
          match x.blocked with
          | some b =>
            (match b.wait with
             | .spec f dst => if f = e then (x.setSAt dst 1).unblock s.cycle else x
             | _ => x)
          | none => x }

/-- Commits and cancels in progress, at the end of a cycle. -/
def State.endSpecs (s : State) : State :=
  (s.hg.epochs.filter fun x => x.2.1 = 3 || x.2.1 = 4).foldl (fun s x => s.specStep x.1) s

/-! ### Commit and cancel -/

/-- A commit (R66): every task of the epoch, and its strands, are of epoch 0. -/
def State.commitEpoch (s : State) (e : Nat) : State :=
  let z (st : Strand) : Strand := if st.epoch.toNat = e then { st with epoch := 0 } else st
  let s := s.setEpoch e 3 (s.epochDom e)
  { s with
    strands := s.strands.map z
    bundles := s.bundles.map fun b => { b with saved := b.saved.map z }
    hg := { s.hg with tasks := s.hg.tasks.map fun t => if t.epoch = e then { t with epoch := 0 } else t } }

/-- Whether a cancel removes or ends a task: all but those that have completed or are being ended already (R66, R67). -/
def Task.cancellable (t : Task) (e : Nat) : Bool :=
  t.epoch = e && !t.isDone && match t.state with | .finishing | .ending => false | _ => true

/-- Tasks of an epoch that have completed before its cancel keep STATUS 0, and their successors have been decremented (R67). -/
def State.settleDone (s : State) (e : Nat) : State :=
  let done := s.hg.tasks.filter fun t => t.epoch = e && (t.isDone || (t.state = .finishing && t.status = 0))
  done.foldl (fun s t =>
    let s := if t.isDone then s.finish t.key 0 else s
    match s.task? t.key with
    | some t => (match s.tellSuccessors t with | .ok s _ | .wait s | .fail s => s)
    | none => s) s

/-- Step 1 of a cancel (R66): a task that waits leaves the pool, the spill ring or the node table, and its successors of another epoch are
decremented. -/
def State.dropWaiting (s : State) (key : Nat) : State :=
  let s := s.finish key 1
  match s.task? key with
  | some t => (match s.tellSuccessors t with | .ok s _ | .wait s | .fail s => s)
  | none => s

/-- A cancel (R66), step by step: waiting tasks leave the pool and the node table; strands retire and evicted bundles are dropped; engine
commands stop; the completion records are written with STATUS 1, and the tasks that ran decrement their successors. -/
def State.cancelEpoch (s : State) (e : Nat) : State :=
  let s := (s.settleDone e).setEpoch e 4 (s.epochDom e)
  let ts := s.hg.tasks.filter fun t => t.cancellable e
  let keys := ts.map Task.key
  let gone := ts.filterMap fun t => if t.nodeCount.isSome then some (TaskRec.node t.record) else none
  let s : State := { s with hg := { s.hg with tasks := s.hg.tasks.map fun t => if t.epoch = e then { t with gone := gone } else t } }
  let s := (ts.filter fun t => t.waiting || t.nodeCount.isSome || t.state = .accepted).foldl (fun s t => s.dropWaiting t.key) s
  let s := (s.strands.filter fun st => keys.contains st.task).foldl State.killStrand s
  let s := (s.bundles.filter fun b => b.evicted && keys.contains b.task).foldl State.dropEvicted s
  let s := s.removeCommands keys.contains
  (keys.foldl (fun s k => s.finishNow k 1) s).dissolveAll

/-! ### SPEC -/

/-- The epoch that EPOCH with 0 opens: the lowest free one, else the lowest cancelled one (R282). -/
def State.lowestEpoch (s : State) : Nat :=
  let all := (List.range 255).map (· + 1)
  match all.find? fun e => s.epochState e = 0 with
  | some e => e
  | none => (all.find? fun e => s.epochState e = 2).getD 0

/-- SPEC EPOCH (R282, R283). -/
def execSpecEpoch (d a : BitVec 7) (s : State) : Host.Outcome State Fault Refusal :=
  s.onStrand fun st =>
    let e := (st.s a).toNat % 256
    let dom := st.pdom.toNat
    let ret (s : State) (x : Nat) : State := s.putStrand ((st.setS d (BitVec.ofNat 32 x)).retire s.cycle 1)
    if e = 0 then
      let n := s.lowestEpoch
      ret (if n = 0 then s else s.setEpoch n 1 dom) n
    else
      match s.epochState e with
      | 0 => ret (s.setEpoch e 1 dom) e
      | 1 => ret s 0
      | 2 => if s.epochDom e = dom then ret (s.setEpoch e 1 dom) e else ret s 0
      | _ => s.putStrand (st.block s.cycle 0 false .retry)

/-- COMMIT and CANCEL of an epoch (R282, R283): refused with 0 unless the strand's domain has it open; otherwise the strand
waits until the whole effect is complete. A strand that cancels its own epoch is gone. -/
def spec (d a : BitVec 7) (act : State → Nat → State) (s : State) : Host.Outcome State Fault Refusal :=
  s.onStrand fun st =>
    let e := (st.s a).toNat % 256
    if e = 0 || s.epochState e ≠ 1 || s.epochDom e ≠ st.pdom.toNat then s.putStrand ((st.setS d 0).retire s.cycle 1)
    else
      let s := act s e
      match s.strandAt st.at_ with
      | some st => (s.putStrand (st.block s.cycle 1 false (.spec e (st.sName d)))).specStep e
      | none => s.specStep e

/-- SPEC COMMIT (R282). -/
def execSpecCommit (d a : BitVec 7) (s : State) : Host.Outcome State Fault Refusal := spec d a State.commitEpoch s

/-- SPEC CANCEL (R282). -/
def execSpecCancel (d a : BitVec 7) (s : State) : Host.Outcome State Fault Refusal := spec d a State.cancelEpoch s

end Sys2Proof.Machine
end

