-- ==== Sys2Proof/Machine/Csr.lean ====
section
/-! DEFINITION. The CSRs of cores and dies (14 R293; 07 R154; 16 R322; 22 R380; 16 R326). -/
namespace Sys2Proof.Machine

/-- CLKSTAT (R326). -/
def Mgmt.clkstat (m : Mgmt) : BitVec 64 :=
  let n := m.samples.length
  let w := if n = 0 then 0 else m.samples.foldl (fun a x => a + x.2) 0 / n / 1000
  BitVec.ofNat 64 (m.clock % 2 ^ 16 + m.cfgClock % 2 ^ 16 * 2 ^ 16 + w % 2 ^ 16 * 2 ^ 32)

/-- Whether a CSR is one of those of R293 and R322; their widths: true for 64 bits. -/
def csrWide (n : Nat) : Option Bool :=
  if n = 0x000 || n = 0x001 || n = 0x010 then some false
  else if 0x011 ≤ n && n ≤ 0x013 then some true
  else if n = 0x020 || n = 0x021 || n = 0x100 then some true
  else if 0x101 ≤ n && n ≤ 0x103 then some false
  else if n = 0x104 || n = 0x110 then some true
  else if n = 0x111 || n = 0x200 || n = 0x201 then some false
  else if n = 0x202 || n = 0x203 then some true
  else if 0x210 ≤ n && n ≤ 0x22F then some false
  else if 0x300 ≤ n && n ≤ 0x307 then some false
  else if 0x308 ≤ n && n ≤ 0x30F then some true
  else if 0x310 ≤ n && n ≤ 0x32F then some false
  else if 0x330 ≤ n && n ≤ 0x34F then some true
  else if n = 0x380 then some true
  else none

/-- The value of a core or die CSR (R293, R322). -/
def State.csrUnit (s : State) (d c n : Nat) : BitVec 64 :=
  let k := s.core d c
  let x := s.die d
  match n with
  | 0x020 => BitVec.ofNat 64 s.cycle
  | 0x100 => k.tvec.zeroExtend 64
  | 0x101 => k.srseed.zeroExtend 64
  | 0x102 => k.leaseL1.zeroExtend 64
  | 0x103 => k.ssbThresh.zeroExtend 64
  | 0x104 => k.mxring.zeroExtend 64
  | 0x110 => k.engfa
  | 0x111 => BitVec.ofNat 64 ((if k.engHold then 1 else 0) + k.engSel.toNat * 16)
  | 0x200 => x.leaseRdc.zeroExtend 64
  | 0x201 => x.occsel.zeroExtend 64
  | 0x202 => x.memerrPar
  | 0x203 => x.memerrCor
  | 0x380 => s.mg.clkstat
  | _ =>
    if 0x210 ≤ n && n ≤ 0x21F then (x.waymask.getD (n - 0x210) 0).zeroExtend 64
    else if 0x220 ≤ n && n ≤ 0x22F then BitVec.ofNat 64 (x.occ (n - 0x220))
    else if 0x300 ≤ n && n ≤ 0x307 then (k.evsel.getD (n - 0x300) 0).zeroExtend 64
    else if 0x308 ≤ n && n ≤ 0x30F then k.evcnt.getD (n - 0x308) 0
    else if 0x310 ≤ n && n ≤ 0x32F then (x.devsel.getD (n - 0x310) 0).zeroExtend 64
    else if 0x330 ≤ n && n ≤ 0x34F then x.devcnt.getD (n - 0x330) 0
    else 0

/-- Bits an event selector holds (R322). -/
def selMask : Word := 0xE1F000FF

/-- A write to a core or die CSR at handler level (R293, R98, R322, R380); read-only ones keep their values. -/
def State.csrPutUnit (s : State) (d c n : Nat) (v : BitVec 64) : State :=
  let k := s.core d c
  let x := s.die d
  let w : Word := v.extractLsb' 0 32
  match n with
  | 0x100 => s.setCore d c { k with tvec := v.extractLsb' 0 57 &&& 0x1FFFFFFFFFFFFFC }
  | 0x101 => s.setCore d c { k with srseed := if w = 0 then 0x2545F491 else w }
  | 0x102 => s.setCore d c { k with leaseL1 := v.extractLsb' 0 24 }
  | 0x103 => s.setCore d c { k with ssbThresh := v.extractLsb' 0 16 }
  | 0x104 => s.setCore d c { k with mxring := v.extractLsb' 0 57 &&& 0x1FFFFFFFFFFFFE0, ringStopped := false, ringTail := 0 }
  | 0x110 => s.setCore d c { k with engfa := v &&& 0x01FFFFFFFFFFFF00 }
  | 0x111 => s.writeEngctl d c w
  | 0x200 => s.setDie d { x with leaseRdc := w }
  | 0x201 => s.setDie d { x with occsel := v.extractLsb' 0 9 }
  | 0x202 => s.setDie d { x with memerrPar := v }
  | 0x203 => s.setDie d { x with memerrCor := v }
  | _ =>
    if 0x210 ≤ n && n ≤ 0x21F then s.setDie d { x with waymask := x.waymask.set (n - 0x210) (v.extractLsb' 0 16) }
    else if 0x300 ≤ n && n ≤ 0x307 then s.setCore d c { k with evsel := k.evsel.set (n - 0x300) (w &&& selMask) }
    else if 0x308 ≤ n && n ≤ 0x30F then s.setCore d c { k with evcnt := k.evcnt.set (n - 0x308) v }
    else if 0x310 ≤ n && n ≤ 0x32F then s.setDie d { x with devsel := x.devsel.set (n - 0x310) (w &&& selMask) }
    else if 0x330 ≤ n && n ≤ 0x34F then s.setDie d { x with devcnt := x.devcnt.set (n - 0x330) v }
    else s

end Sys2Proof.Machine
end

