-- ==== Sys2Proof/Machine/Scalar.lean ====
section
/-! DEFINITION. Scalar arithmetic and logic, division, scalar compares, predicate logic, selection and moves
(09 R174 to R185). -/
namespace Sys2Proof.Machine

/-- High 32 bits of the signed product (R175). -/
def mulHighS (a b : Word) : Word := trunc 32 ((sext a * sext b) / 2 ^ 32)

/-- High 32 bits of the unsigned product (R175). -/
def mulHighU (a b : Word) : Word := BitVec.ofNat 32 (a.toNat * b.toNat / 2 ^ 32)

/-- Shifts take the low five bits of the count (R175). -/
def shiftLeft (a b : Word) : Word := a <<< (b.extractLsb' 0 5).toNat
def shiftRight (a b : Word) : Word := a >>> (b.extractLsb' 0 5).toNat
def shiftRightS (a b : Word) : Word := a.sshiftRight (b.extractLsb' 0 5).toNat

/-- Signed and unsigned minimum and maximum, at any width. -/
def minS {w : Nat} (a b : BitVec w) : BitVec w := if sext a ≤ sext b then a else b
def maxS {w : Nat} (a b : BitVec w) : BitVec w := if sext a ≤ sext b then b else a
def minU {w : Nat} (a b : BitVec w) : BitVec w := if a.toNat ≤ b.toNat then a else b
def maxU {w : Nat} (a b : BitVec w) : BitVec w := if a.toNat ≤ b.toNat then b else a

/-- 1 when a is below b as signed numbers, else 0 (R175). -/
def setLess (a b : Word) : Word := if sext a < sext b then 1 else 0

/-- A scalar operation of two registers (R175). -/
def salu (f : Word → Word → Word) (d a b : BitVec 7) (s : State) : Host.Outcome State Fault Refusal :=
  s.simple 1 fun st => st.setS d (f (st.s a) (st.s b))

/-- A scalar operation of a register and an immediate (R176). -/
def salui (f : Word → Word → Word) (x : Option (BitVec 25)) (d a i : BitVec 7) (s : State) :
    Host.Outcome State Fault Refusal :=
  s.simple (len1 x) fun st => st.setS d (f (st.s a) (immWord7 x i))

/-- SALU fn 0 (R175): trunc(a + b, 32). -/
def execSaluAdd (d a b : BitVec 7) (s : State) : Host.Outcome State Fault Refusal := salu (· + ·) d a b s

/-- SALU fn 1 (R175): trunc(a − b, 32). -/
def execSaluSub (d a b : BitVec 7) (s : State) : Host.Outcome State Fault Refusal := salu (· - ·) d a b s

/-- SALU fn 2 (R175): trunc(a × b, 32). -/
def execSaluMul (d a b : BitVec 7) (s : State) : Host.Outcome State Fault Refusal := salu (· * ·) d a b s

/-- SALU fn 3 (R175): bits [63:32] of the signed product. -/
def execSaluMulhs (d a b : BitVec 7) (s : State) : Host.Outcome State Fault Refusal := salu mulHighS d a b s

/-- SALU fn 4 (R175): bits [63:32] of the unsigned product. -/
def execSaluMulhu (d a b : BitVec 7) (s : State) : Host.Outcome State Fault Refusal := salu mulHighU d a b s

/-- SALU fn 5 (R175): bitwise and. -/
def execSaluAnd (d a b : BitVec 7) (s : State) : Host.Outcome State Fault Refusal := salu (· &&& ·) d a b s

/-- SALU fn 6 (R175): bitwise or. -/
def execSaluOr (d a b : BitVec 7) (s : State) : Host.Outcome State Fault Refusal := salu (· ||| ·) d a b s

/-- SALU fn 7 (R175): bitwise exclusive or. -/
def execSaluXor (d a b : BitVec 7) (s : State) : Host.Outcome State Fault Refusal := salu (· ^^^ ·) d a b s

/-- SALU fn 8 (R175): shift left by b[4:0]. -/
def execSaluShl (d a b : BitVec 7) (s : State) : Host.Outcome State Fault Refusal := salu shiftLeft d a b s

/-- SALU fn 9 (R175): logical shift right by b[4:0]. -/
def execSaluShr (d a b : BitVec 7) (s : State) : Host.Outcome State Fault Refusal := salu shiftRight d a b s

/-- SALU fn 10 (R175): arithmetic shift right by b[4:0]. -/
def execSaluSar (d a b : BitVec 7) (s : State) : Host.Outcome State Fault Refusal := salu shiftRightS d a b s

/-- SALU fn 11 (R175): signed minimum. -/
def execSaluMin (d a b : BitVec 7) (s : State) : Host.Outcome State Fault Refusal := salu minS d a b s

/-- SALU fn 12 (R175): signed maximum. -/
def execSaluMax (d a b : BitVec 7) (s : State) : Host.Outcome State Fault Refusal := salu maxS d a b s

/-- SALU fn 13 (R175): unsigned minimum. -/
def execSaluMinu (d a b : BitVec 7) (s : State) : Host.Outcome State Fault Refusal := salu minU d a b s

/-- SALU fn 14 (R175): unsigned maximum. -/
def execSaluMaxu (d a b : BitVec 7) (s : State) : Host.Outcome State Fault Refusal := salu maxU d a b s

/-- SALU fn 15 (R175): 1 if a < b as signed, else 0. -/
def execSaluSlt (d a b : BitVec 7) (s : State) : Host.Outcome State Fault Refusal := salu setLess d a b s

/-- SALUI fn 0 (R176): trunc(a + b, 32), b the immediate. -/
def execSaluiAdd (x : Option (BitVec 25)) (d a i : BitVec 7) (s : State) : Host.Outcome State Fault Refusal :=
  salui (· + ·) x d a i s

/-- SALUI fn 1 (R176): trunc(a − b, 32), b the immediate. -/
def execSaluiSub (x : Option (BitVec 25)) (d a i : BitVec 7) (s : State) : Host.Outcome State Fault Refusal :=
  salui (· - ·) x d a i s

/-- SALUI fn 2 (R176): trunc(a × b, 32), b the immediate. -/
def execSaluiMul (x : Option (BitVec 25)) (d a i : BitVec 7) (s : State) : Host.Outcome State Fault Refusal :=
  salui (· * ·) x d a i s

/-- SALUI fn 3 (R176): bits [63:32] of the signed product, b the immediate. -/
def execSaluiMulhs (x : Option (BitVec 25)) (d a i : BitVec 7) (s : State) : Host.Outcome State Fault Refusal :=
  salui mulHighS x d a i s

/-- SALUI fn 4 (R176): bits [63:32] of the unsigned product, b the immediate. -/
def execSaluiMulhu (x : Option (BitVec 25)) (d a i : BitVec 7) (s : State) : Host.Outcome State Fault Refusal :=
  salui mulHighU x d a i s

/-- SALUI fn 5 (R176): bitwise and, b the immediate. -/
def execSaluiAnd (x : Option (BitVec 25)) (d a i : BitVec 7) (s : State) : Host.Outcome State Fault Refusal :=
  salui (· &&& ·) x d a i s

/-- SALUI fn 6 (R176): bitwise or, b the immediate. -/
def execSaluiOr (x : Option (BitVec 25)) (d a i : BitVec 7) (s : State) : Host.Outcome State Fault Refusal :=
  salui (· ||| ·) x d a i s

/-- SALUI fn 7 (R176): bitwise exclusive or, b the immediate. -/
def execSaluiXor (x : Option (BitVec 25)) (d a i : BitVec 7) (s : State) : Host.Outcome State Fault Refusal :=
  salui (· ^^^ ·) x d a i s

/-- SALUI fn 8 (R176): shift left by b[4:0], b the immediate. -/
def execSaluiShl (x : Option (BitVec 25)) (d a i : BitVec 7) (s : State) : Host.Outcome State Fault Refusal :=
  salui shiftLeft x d a i s

/-- SALUI fn 9 (R176): logical shift right by b[4:0], b the immediate. -/
def execSaluiShr (x : Option (BitVec 25)) (d a i : BitVec 7) (s : State) : Host.Outcome State Fault Refusal :=
  salui shiftRight x d a i s

/-- SALUI fn 10 (R176): arithmetic shift right by b[4:0], b the immediate. -/
def execSaluiSar (x : Option (BitVec 25)) (d a i : BitVec 7) (s : State) : Host.Outcome State Fault Refusal :=
  salui shiftRightS x d a i s

/-- SALUI fn 11 (R176): signed minimum, b the immediate. -/
def execSaluiMin (x : Option (BitVec 25)) (d a i : BitVec 7) (s : State) : Host.Outcome State Fault Refusal :=
  salui minS x d a i s

/-- SALUI fn 12 (R176): signed maximum, b the immediate. -/
def execSaluiMax (x : Option (BitVec 25)) (d a i : BitVec 7) (s : State) : Host.Outcome State Fault Refusal :=
  salui maxS x d a i s

/-- SALUI fn 13 (R176): unsigned minimum, b the immediate. -/
def execSaluiMinu (x : Option (BitVec 25)) (d a i : BitVec 7) (s : State) : Host.Outcome State Fault Refusal :=
  salui minU x d a i s

/-- SALUI fn 14 (R176): unsigned maximum, b the immediate. -/
def execSaluiMaxu (x : Option (BitVec 25)) (d a i : BitVec 7) (s : State) : Host.Outcome State Fault Refusal :=
  salui maxU x d a i s

/-- SALUI fn 15 (R176): 1 if a < b as signed, else 0, b the immediate. -/
def execSaluiSlt (x : Option (BitVec 25)) (d a i : BitVec 7) (s : State) : Host.Outcome State Fault Refusal :=
  salui setLess x d a i s

/-- LI (R177): s[d] := the immediate of R162. -/
def execLi (x : Option (BitVec 25)) (d : BitVec 7) (i : BitVec 14) (s : State) : Host.Outcome State Fault Refusal :=
  s.simple (len1 x) fun st => st.setS d (immWord14 x i)

/-- LIH (R177): s[d] := imm14 × 2^18 + old[17:0]. -/
def execLih (d : BitVec 7) (i : BitVec 14) (s : State) : Host.Outcome State Fault Refusal :=
  s.simple 1 fun st => st.setS d (i ++ (st.s d).extractLsb' 0 18)

/-- A unary scalar operation (R178). -/
def sbit (f : Word → Word) (d a : BitVec 7) (s : State) : Host.Outcome State Fault Refusal := s.simple 1 fun st => st.setS d (f (st.s a))

/-- POPC (R178). -/
def execSbitPopc (d a : BitVec 7) (s : State) : Host.Outcome State Fault Refusal := sbit (fun x => BitVec.ofNat 32 (popcNat x 32)) d a s

/-- CLZ (R178): 32 for zero. -/
def execSbitClz (d a : BitVec 7) (s : State) : Host.Outcome State Fault Refusal := sbit (fun x => BitVec.ofNat 32 (clzNat x 32)) d a s

/-- CTZ (R178): 32 for zero. -/
def execSbitCtz (d a : BitVec 7) (s : State) : Host.Outcome State Fault Refusal := sbit (fun x => BitVec.ofNat 32 (ctzNat x 0 32)) d a s

/-- BREV (R178). -/
def execSbitBrev (d a : BitVec 7) (s : State) : Host.Outcome State Fault Refusal := sbit brev32 d a s

/-- The field of BFX and BFI (R179): lsb is s[b][4:0], the width min(s[b][13:8], 32). -/
def fieldLsb (b : Word) : Nat := (b.extractLsb' 0 5).toNat
def fieldWidth (b : Word) : Nat := min (b.extractLsb' 8 6).toNat 32

/-- The low w bits set. -/
def lowMask (w : Nat) : Word := BitVec.ofNat 32 (2 ^ w - 1)

/-- BFX (R179): the w bits of s[a] from lsb up; w = 0 gives 0. -/
def execBfx (d a b : BitVec 7) (s : State) : Host.Outcome State Fault Refusal :=
  s.simple 1 fun st => st.setS d ((st.s a >>> fieldLsb (st.s b)) &&& lowMask (fieldWidth (st.s b)))

/-- BFI (R179): the low w bits of s[a] into s[d] from lsb up; bits above 31 are dropped. -/
def execBfi (d a b : BitVec 7) (s : State) : Host.Outcome State Fault Refusal :=
  s.simple 1 fun st =>
    let m := lowMask (fieldWidth (st.s b)) <<< fieldLsb (st.s b)
    st.setS d (((st.s a <<< fieldLsb (st.s b)) &&& m) ||| (st.s d &&& ~~~m))

/-- SEXTB (R178). -/
def execSextb (d a : BitVec 7) (s : State) : Host.Outcome State Fault Refusal := sbit (fun x => (x.extractLsb' 0 8).signExtend 32) d a s

/-- SEXTH (R178). -/
def execSexth (d a : BitVec 7) (s : State) : Host.Outcome State Fault Refusal := sbit (fun x => (x.extractLsb' 0 16).signExtend 32) d a s

/-- ZEXTB (R178). -/
def execZextb (d a : BitVec 7) (s : State) : Host.Outcome State Fault Refusal := sbit (fun x => (x.extractLsb' 0 8).zeroExtend 32) d a s

/-- ZEXTH (R178). -/
def execZexth (d a : BitVec 7) (s : State) : Host.Outcome State Fault Refusal := sbit (fun x => (x.extractLsb' 0 16).zeroExtend 32) d a s

/-- Signed quotient and remainder of R180: a zero divisor gives all ones and the dividend; −2^31 / −1 gives −2^31 and 0. -/
def divS (a b : Word) : Word := if b = 0 then BitVec.allOnes 32 else trunc 32 (Int.tdiv (sext a) (sext b))
def remS (a b : Word) : Word := if b = 0 then a else trunc 32 (Int.tmod (sext a) (sext b))
def divU (a b : Word) : Word := if b = 0 then BitVec.allOnes 32 else a / b
def remU (a b : Word) : Word := if b = 0 then a else a % b

/-- A division (R180): a long-latency write with lookahead l. -/
def divide (f : Word → Word → Word) (l : BitVec 4) (d a b : BitVec 7) (s : State) : Host.Outcome State Fault Refusal :=
  s.simpleLong 1 l.toNat fun st => pendS (st.sName d) (f (st.s a) (st.s b)) 0

/-- DIV (R180). -/
def execDiv (l : BitVec 4) (d a b : BitVec 7) (s : State) : Host.Outcome State Fault Refusal := divide divS l d a b s

/-- DIVU (R180). -/
def execDivu (l : BitVec 4) (d a b : BitVec 7) (s : State) : Host.Outcome State Fault Refusal := divide divU l d a b s

/-- REM (R180). -/
def execRem (l : BitVec 4) (d a b : BitVec 7) (s : State) : Host.Outcome State Fault Refusal := divide remS l d a b s

/-- REMU (R180). -/
def execRemu (l : BitVec 4) (d a b : BitVec 7) (s : State) : Host.Outcome State Fault Refusal := divide remU l d a b s

/-- The conditions of R181, at any width. -/
def condEq {w : Nat} (a b : BitVec w) : Bool := a == b
def condNe {w : Nat} (a b : BitVec w) : Bool := a != b
def condLt {w : Nat} (a b : BitVec w) : Bool := decide (sext a < sext b)
def condLe {w : Nat} (a b : BitVec w) : Bool := decide (sext a ≤ sext b)
def condGt {w : Nat} (a b : BitVec w) : Bool := decide (sext b < sext a)
def condGe {w : Nat} (a b : BitVec w) : Bool := decide (sext b ≤ sext a)
def condLtu {w : Nat} (a b : BitVec w) : Bool := decide (a.toNat < b.toNat)
def condLeu {w : Nat} (a b : BitVec w) : Bool := decide (a.toNat ≤ b.toNat)
def condGtu {w : Nat} (a b : BitVec w) : Bool := decide (b.toNat < a.toNat)
def condGeu {w : Nat} (a b : BitVec w) : Bool := decide (b.toNat ≤ a.toNat)

/-- A scalar compare (R181): p[d] := the condition, bits [7:1] cleared. -/
def scmp (f : Word → Word → Bool) (d : BitVec 3) (a b : BitVec 7) (s : State) : Host.Outcome State Fault Refusal :=
  s.simple 1 fun st => st.setPBit d (f (st.s a) (st.s b))

/-- A scalar compare with the immediate of R176 (R181). -/
def scmpi (f : Word → Word → Bool) (x : Option (BitVec 25)) (d : BitVec 3) (a i : BitVec 7) (s : State) : Host.Outcome State Fault Refusal :=
  s.simple (len1 x) fun st => st.setPBit d (f (st.s a) (immWord7 x i))

/-- SCMP fn 0 (R181): eq. -/
def execScmpEq (d : BitVec 3) (a b : BitVec 7) (s : State) : Host.Outcome State Fault Refusal := scmp condEq d a b s

/-- SCMP fn 1 (R181): ne. -/
def execScmpNe (d : BitVec 3) (a b : BitVec 7) (s : State) : Host.Outcome State Fault Refusal := scmp condNe d a b s

/-- SCMP fn 2 (R181): lt. -/
def execScmpLt (d : BitVec 3) (a b : BitVec 7) (s : State) : Host.Outcome State Fault Refusal := scmp condLt d a b s

/-- SCMP fn 3 (R181): le. -/
def execScmpLe (d : BitVec 3) (a b : BitVec 7) (s : State) : Host.Outcome State Fault Refusal := scmp condLe d a b s

/-- SCMP fn 4 (R181): gt. -/
def execScmpGt (d : BitVec 3) (a b : BitVec 7) (s : State) : Host.Outcome State Fault Refusal := scmp condGt d a b s

/-- SCMP fn 5 (R181): ge. -/
def execScmpGe (d : BitVec 3) (a b : BitVec 7) (s : State) : Host.Outcome State Fault Refusal := scmp condGe d a b s

/-- SCMP fn 6 (R181): ltu. -/
def execScmpLtu (d : BitVec 3) (a b : BitVec 7) (s : State) : Host.Outcome State Fault Refusal := scmp condLtu d a b s

/-- SCMP fn 7 (R181): leu. -/
def execScmpLeu (d : BitVec 3) (a b : BitVec 7) (s : State) : Host.Outcome State Fault Refusal := scmp condLeu d a b s

/-- SCMP fn 8 (R181): gtu. -/
def execScmpGtu (d : BitVec 3) (a b : BitVec 7) (s : State) : Host.Outcome State Fault Refusal := scmp condGtu d a b s

/-- SCMP fn 9 (R181): geu. -/
def execScmpGeu (d : BitVec 3) (a b : BitVec 7) (s : State) : Host.Outcome State Fault Refusal := scmp condGeu d a b s

/-- SCMPI fn 0 (R181): eq. -/
def execScmpiEq (x : Option (BitVec 25)) (d : BitVec 3) (a i : BitVec 7) (s : State) : Host.Outcome State Fault Refusal :=
  scmpi condEq x d a i s

/-- SCMPI fn 1 (R181): ne. -/
def execScmpiNe (x : Option (BitVec 25)) (d : BitVec 3) (a i : BitVec 7) (s : State) : Host.Outcome State Fault Refusal :=
  scmpi condNe x d a i s

/-- SCMPI fn 2 (R181): lt. -/
def execScmpiLt (x : Option (BitVec 25)) (d : BitVec 3) (a i : BitVec 7) (s : State) : Host.Outcome State Fault Refusal :=
  scmpi condLt x d a i s

/-- SCMPI fn 3 (R181): le. -/
def execScmpiLe (x : Option (BitVec 25)) (d : BitVec 3) (a i : BitVec 7) (s : State) : Host.Outcome State Fault Refusal :=
  scmpi condLe x d a i s

/-- SCMPI fn 4 (R181): gt. -/
def execScmpiGt (x : Option (BitVec 25)) (d : BitVec 3) (a i : BitVec 7) (s : State) : Host.Outcome State Fault Refusal :=
  scmpi condGt x d a i s

/-- SCMPI fn 5 (R181): ge. -/
def execScmpiGe (x : Option (BitVec 25)) (d : BitVec 3) (a i : BitVec 7) (s : State) : Host.Outcome State Fault Refusal :=
  scmpi condGe x d a i s

/-- SCMPI fn 6 (R181): ltu. -/
def execScmpiLtu (x : Option (BitVec 25)) (d : BitVec 3) (a i : BitVec 7) (s : State) : Host.Outcome State Fault Refusal :=
  scmpi condLtu x d a i s

/-- SCMPI fn 7 (R181): leu. -/
def execScmpiLeu (x : Option (BitVec 25)) (d : BitVec 3) (a i : BitVec 7) (s : State) : Host.Outcome State Fault Refusal :=
  scmpi condLeu x d a i s

/-- SCMPI fn 8 (R181): gtu. -/
def execScmpiGtu (x : Option (BitVec 25)) (d : BitVec 3) (a i : BitVec 7) (s : State) : Host.Outcome State Fault Refusal :=
  scmpi condGtu x d a i s

/-- SCMPI fn 9 (R181): geu. -/
def execScmpiGeu (x : Option (BitVec 25)) (d : BitVec 3) (a i : BitVec 7) (s : State) : Host.Outcome State Fault Refusal :=
  scmpi condGeu x d a i s

/-- A predicate operation on whole 8-bit predicates (R182). -/
def plog (f : BitVec 8 → BitVec 8 → BitVec 8) (d a b : BitVec 3) (s : State) : Host.Outcome State Fault Refusal :=
  s.simple 1 fun st => st.setP d (f (st.p a) (st.p b))

/-- PAND (R182). -/
def execPand (d a b : BitVec 3) (s : State) : Host.Outcome State Fault Refusal := plog (· &&& ·) d a b s

/-- POR (R182). -/
def execPor (d a b : BitVec 3) (s : State) : Host.Outcome State Fault Refusal := plog (· ||| ·) d a b s

/-- PXOR (R182). -/
def execPxor (d a b : BitVec 3) (s : State) : Host.Outcome State Fault Refusal := plog (· ^^^ ·) d a b s

/-- PANDN (R182): p[a] and not p[b]. -/
def execPandn (d a b : BitVec 3) (s : State) : Host.Outcome State Fault Refusal := plog (fun x y => x &&& ~~~y) d a b s

/-- PORN (R182): p[a] or not p[b]. -/
def execPorn (d a b : BitVec 3) (s : State) : Host.Outcome State Fault Refusal := plog (fun x y => x ||| ~~~y) d a b s

/-- PNOT (R182). -/
def execPnot (d a : BitVec 3) (s : State) : Host.Outcome State Fault Refusal := s.simple 1 fun st => st.setP d (~~~(st.p a))

/-- PMOV (R182). -/
def execPmov (d a : BitVec 3) (s : State) : Host.Outcome State Fault Refusal := s.simple 1 fun st => st.setP d (st.p a)

/-- PCLR (R182). -/
def execPclr (d : BitVec 3) (s : State) : Host.Outcome State Fault Refusal := s.simple 1 fun st => st.setP d 0

/-- PSET (R182). -/
def execPset (d : BitVec 3) (s : State) : Host.Outcome State Fault Refusal := s.simple 1 fun st => st.setP d 0xFF

/-- SEL (R183): s[a] when p[k][0] xor sense is 1, else s[b]. -/
def execSel (sense : BitVec 1) (p : BitVec 3) (d a b : BitVec 7) (s : State) : Host.Outcome State Fault Refusal :=
  s.simple 1 fun st => st.setS d (if (st.p p).getLsbD 0 != sense.getLsbD 0 then st.s a else st.s b)

/-- BCASTS (R184): every lane of v[d] := s[a]. -/
def execBcasts (d a : BitVec 7) (s : State) : Host.Outcome State Fault Refusal := s.simple 1 fun st => st.setV d (splat (st.s a))

/-- EXTR (R184): s[d] := lane k of v[a]. -/
def execExtr (d a : BitVec 7) (k : BitVec 3) (s : State) : Host.Outcome State Fault Refusal :=
  s.simple 1 fun st => st.setS d (lane (st.v a) k.toNat)

/-- INSR (R184): lane k of v[d] := s[a], the other lanes kept. -/
def execInsr (d a : BitVec 7) (k : BitVec 3) (s : State) : Host.Outcome State Fault Refusal :=
  s.simple 1 fun st => st.setV d (ofLanes fun i => if i = k.toNat then st.s a else lane (st.v d) i)

/-- CRD (R184, R76): the commons register as it stood before the cycle; zero without a bundle. -/
def execCrd (d : BitVec 7) (a : BitVec 5) (s : State) : Host.Outcome State Fault Refusal :=
  s.simple 1 fun st =>
    st.setS d (match s.bundleOf st with | some b => b.commons.getD a.toNat 0 | none => 0)

/-- CWR (R184, R76, R185): the write takes effect at the end of the cycle; discarded without a bundle. -/
def execCwr (d : BitVec 5) (a : BitVec 7) (s : State) : Host.Outcome State Fault Refusal :=
  s.onStrand fun st =>
    let s' := s.putStrand (st.retire s.cycle 1)
    match st.bundle with
    | some (h, m) =>
      { s' with commonsBuf := s'.commonsBuf ++ [{ bundle := h, reg := d.toNat, mid := m, val := st.s a }] }
    | none => s'

/-- The 32-bit special registers (R75, R168). -/
def State.special (s : State) (st : Strand) (a : Nat) : Word :=
  match a with
  | 0 => st.sid
  | 1 => st.taskId
  | 2 => match st.bundle with | some (h, _) => BitVec.ofNat 32 h | none => 0
  | 3 => match st.bundle with | some (_, m) => BitVec.ofNat 32 m | none => 0
  | 4 => BitVec.ofNat 32 st.at_.core
  | 5 => BitVec.ofNat 32 st.at_.die
  | 8 => BitVec.ofNat 32 (st.wbv.toNat * 16 + st.wbs.toNat)
  | 9 => BitVec.ofNat 32 (st.nvb * 256 + st.nsb)
  | 10 => match s.bundleOf st with | some b => b.arrive | none => 0
  | 11 => st.pdom.zeroExtend 32
  | 12 => st.prio.zeroExtend 32
  | 13 => st.partid.zeroExtend 32
  | 14 => st.epoch.zeroExtend 32
  | _ => 0

/-- SRD (R184, R168): s[d], or the pair for %args and %link. -/
def execSrd (d a : BitVec 7) (s : State) : Host.Outcome State Fault Refusal :=
  s.simple 1 fun st =>
    if a = 6 then st.setPair d (st.args.zeroExtend 64)
    else if a = 7 then st.setPair d (st.link.zeroExtend 64)
    else st.setS d (s.special st a.toNat)

/-- MOVS (R184). -/
def execMovs (d a : BitVec 7) (s : State) : Host.Outcome State Fault Refusal := s.simple 1 fun st => st.setS d (st.s a)

/-- MOVV (R184). -/
def execMovv (d a : BitVec 7) (s : State) : Host.Outcome State Fault Refusal := s.simple 1 fun st => st.setV d (st.v a)

/-- PRD (R184): s[d] := zext(p[a], 8). -/
def execPrd (d : BitVec 7) (a : BitVec 3) (s : State) : Host.Outcome State Fault Refusal :=
  s.simple 1 fun st => st.setS d ((st.p a).zeroExtend 32)

/-- PWR (R184): p[d] := s[a][7:0]. -/
def execPwr (d : BitVec 3) (a : BitVec 7) (s : State) : Host.Outcome State Fault Refusal :=
  s.simple 1 fun st => st.setP d ((st.s a).extractLsb' 0 8)

end Sys2Proof.Machine
end

