-- ==== Sys2Proof/Machine/VectorInt.lean ====
section
/-! DEFINITION. Vector integer arithmetic, compares, permutes, packed elements, reductions, bit operations and lane selection
(09 R183, R186 to R192). -/
namespace Sys2Proof.Machine

/-- A vector instruction under its mask: v[d] := f of the strand, in the active lanes (R163). -/
def vecOp (mk : Option Msk) (len : Nat) (d : BitVec 7) (f : Strand → Vec) (s : State) : Host.Outcome State Fault Refusal :=
  s.simple len fun st => st.setVMasked mk d (f st)

/-- A lane-by-lane operation of two vectors (R186). -/
def valu (f : Word → Word → Word) (mk : Option Msk) (d a b : BitVec 7) (s : State) : Host.Outcome State Fault Refusal :=
  vecOp mk (len1 mk) d (fun st => zipLanes f (st.v a) (st.v b)) s

/-- A lane-by-lane operation with the immediate in every lane (R186). -/
def valui (f : Word → Word → Word) (mk : Option Msk) (x : Option (BitVec 25)) (d a i : BitVec 7) (s : State) : Host.Outcome State Fault Refusal :=
  vecOp mk (lenOf mk x) d (fun st => mapLanes (fun y => f y (immWord7 x i)) (st.v a)) s

/-- Saturating lane sums and differences (R186, R101). -/
def addS {w : Nat} (a b : BitVec w) : BitVec w := satS w (sext a + sext b)
def subS {w : Nat} (a b : BitVec w) : BitVec w := satS w (sext a - sext b)
def addU {w : Nat} (a b : BitVec w) : BitVec w := satU w ((a.toNat : Int) + b.toNat)
def subU {w : Nat} (a b : BitVec w) : BitVec w := satU w ((a.toNat : Int) - b.toNat)

/-- trunc(abs(sext a), 32) and trunc(−sext a, 32) (R186). -/
def absLane (a : Word) : Word := trunc 32 (sext a).natAbs
def negLane (a : Word) : Word := trunc 32 (-sext a)

/-- trunc(abs(sext a − sext b), 32) (R186). -/
def absDiff (a b : Word) : Word := trunc 32 (sext a - sext b).natAbs

/-- VALU fn 0 (R186). -/
def execValuAdd (mk : Option Msk) (d a b : BitVec 7) (s : State) : Host.Outcome State Fault Refusal := valu (· + ·) mk d a b s

/-- VALU fn 1 (R186). -/
def execValuSub (mk : Option Msk) (d a b : BitVec 7) (s : State) : Host.Outcome State Fault Refusal := valu (· - ·) mk d a b s

/-- VALU fn 2 (R186). -/
def execValuMul (mk : Option Msk) (d a b : BitVec 7) (s : State) : Host.Outcome State Fault Refusal := valu (· * ·) mk d a b s

/-- VALU fn 3 (R186). -/
def execValuMulhs (mk : Option Msk) (d a b : BitVec 7) (s : State) : Host.Outcome State Fault Refusal := valu mulHighS mk d a b s

/-- VALU fn 4 (R186). -/
def execValuMulhu (mk : Option Msk) (d a b : BitVec 7) (s : State) : Host.Outcome State Fault Refusal := valu mulHighU mk d a b s

/-- VALU fn 5 (R186). -/
def execValuAdds (mk : Option Msk) (d a b : BitVec 7) (s : State) : Host.Outcome State Fault Refusal := valu addS mk d a b s

/-- VALU fn 6 (R186). -/
def execValuSubs (mk : Option Msk) (d a b : BitVec 7) (s : State) : Host.Outcome State Fault Refusal := valu subS mk d a b s

/-- VALU fn 7 (R186). -/
def execValuAddus (mk : Option Msk) (d a b : BitVec 7) (s : State) : Host.Outcome State Fault Refusal := valu addU mk d a b s

/-- VALU fn 8 (R186). -/
def execValuSubus (mk : Option Msk) (d a b : BitVec 7) (s : State) : Host.Outcome State Fault Refusal := valu subU mk d a b s

/-- VALU fn 9 (R186). -/
def execValuMin (mk : Option Msk) (d a b : BitVec 7) (s : State) : Host.Outcome State Fault Refusal := valu minS mk d a b s

/-- VALU fn 10 (R186). -/
def execValuMax (mk : Option Msk) (d a b : BitVec 7) (s : State) : Host.Outcome State Fault Refusal := valu maxS mk d a b s

/-- VALU fn 11 (R186). -/
def execValuMinu (mk : Option Msk) (d a b : BitVec 7) (s : State) : Host.Outcome State Fault Refusal := valu minU mk d a b s

/-- VALU fn 12 (R186). -/
def execValuMaxu (mk : Option Msk) (d a b : BitVec 7) (s : State) : Host.Outcome State Fault Refusal := valu maxU mk d a b s

/-- VALU fn 13 (R186). -/
def execValuAbs (mk : Option Msk) (d a : BitVec 7) (s : State) : Host.Outcome State Fault Refusal :=
  vecOp mk (len1 mk) d (fun st => mapLanes absLane (st.v a)) s

/-- VALU fn 14 (R186). -/
def execValuNeg (mk : Option Msk) (d a : BitVec 7) (s : State) : Host.Outcome State Fault Refusal :=
  vecOp mk (len1 mk) d (fun st => mapLanes negLane (st.v a)) s

/-- VALU fn 15 (R186). -/
def execValuAbsd (mk : Option Msk) (d a b : BitVec 7) (s : State) : Host.Outcome State Fault Refusal := valu absDiff mk d a b s

/-- VALUI fn 0 (R186). -/
def execValuiAdd (mk : Option Msk) (x : Option (BitVec 25)) (d a i : BitVec 7) (s : State) : Host.Outcome State Fault Refusal :=
  valui (· + ·) mk x d a i s

/-- VALUI fn 1 (R186). -/
def execValuiSub (mk : Option Msk) (x : Option (BitVec 25)) (d a i : BitVec 7) (s : State) : Host.Outcome State Fault Refusal :=
  valui (· - ·) mk x d a i s

/-- VALUI fn 2 (R186). -/
def execValuiMul (mk : Option Msk) (x : Option (BitVec 25)) (d a i : BitVec 7) (s : State) : Host.Outcome State Fault Refusal :=
  valui (· * ·) mk x d a i s

/-- VALUI fn 3 (R186). -/
def execValuiMulhs (mk : Option Msk) (x : Option (BitVec 25)) (d a i : BitVec 7) (s : State) : Host.Outcome State Fault Refusal :=
  valui mulHighS mk x d a i s

/-- VALUI fn 4 (R186). -/
def execValuiMulhu (mk : Option Msk) (x : Option (BitVec 25)) (d a i : BitVec 7) (s : State) : Host.Outcome State Fault Refusal :=
  valui mulHighU mk x d a i s

/-- VALUI fn 5 (R186). -/
def execValuiAdds (mk : Option Msk) (x : Option (BitVec 25)) (d a i : BitVec 7) (s : State) : Host.Outcome State Fault Refusal :=
  valui addS mk x d a i s

/-- VALUI fn 6 (R186). -/
def execValuiSubs (mk : Option Msk) (x : Option (BitVec 25)) (d a i : BitVec 7) (s : State) : Host.Outcome State Fault Refusal :=
  valui subS mk x d a i s

/-- VALUI fn 7 (R186). -/
def execValuiAddus (mk : Option Msk) (x : Option (BitVec 25)) (d a i : BitVec 7) (s : State) : Host.Outcome State Fault Refusal :=
  valui addU mk x d a i s

/-- VALUI fn 8 (R186). -/
def execValuiSubus (mk : Option Msk) (x : Option (BitVec 25)) (d a i : BitVec 7) (s : State) : Host.Outcome State Fault Refusal :=
  valui subU mk x d a i s

/-- VALUI fn 9 (R186). -/
def execValuiMin (mk : Option Msk) (x : Option (BitVec 25)) (d a i : BitVec 7) (s : State) : Host.Outcome State Fault Refusal :=
  valui minS mk x d a i s

/-- VALUI fn 10 (R186). -/
def execValuiMax (mk : Option Msk) (x : Option (BitVec 25)) (d a i : BitVec 7) (s : State) : Host.Outcome State Fault Refusal :=
  valui maxS mk x d a i s

/-- VALUI fn 11 (R186). -/
def execValuiMinu (mk : Option Msk) (x : Option (BitVec 25)) (d a i : BitVec 7) (s : State) : Host.Outcome State Fault Refusal :=
  valui minU mk x d a i s

/-- VALUI fn 12 (R186). -/
def execValuiMaxu (mk : Option Msk) (x : Option (BitVec 25)) (d a i : BitVec 7) (s : State) : Host.Outcome State Fault Refusal :=
  valui maxU mk x d a i s

/-- VALUI fn 15 (R186). -/
def execValuiAbsd (mk : Option Msk) (x : Option (BitVec 25)) (d a i : BitVec 7) (s : State) : Host.Outcome State Fault Refusal :=
  valui absDiff mk x d a i s

/-- Sum of f over j = 0 to n − 1. -/
def sumTo (f : Nat → Int) : Nat → Int
  | 0 => 0
  | n + 1 => sumTo f n + f n

/-- A multiply-accumulate by 32-bit lanes (R187): old lane, a lane, b lane. -/
def vmad (f : Word → Word → Word → Word) (mk : Option Msk) (d a b : BitVec 7) (s : State) : Host.Outcome State Fault Refusal :=
  vecOp mk (len1 mk) d (fun st => ofLanes fun i => f (lane (st.v d) i) (lane (st.v a) i) (lane (st.v b) i)) s

/-- A packed dot product into each lane (R187): n elements of width w a lane. -/
def vdot (w n : Nat) (g : BitVec w → Int) (mk : Option Msk) (d a b : BitVec 7) (s : State) : Host.Outcome State Fault Refusal :=
  vecOp mk (len1 mk) d (fun st => ofLanes fun i =>
    trunc 32 (sext (lane (st.v d) i) +
      sumTo (fun j => g (elem w (st.v a) (n * i + j)) * g (elem w (st.v b) (n * i + j))) n)) s

/-- VMAD fn 0 MAD (R187). -/
def execVmadMad (mk : Option Msk) (d a b : BitVec 7) (s : State) : Host.Outcome State Fault Refusal :=
  vmad (fun c x y => trunc 32 (sext c + sext x * sext y)) mk d a b s

/-- VMAD fn 1 MSB (R187). -/
def execVmadMsb (mk : Option Msk) (d a b : BitVec 7) (s : State) : Host.Outcome State Fault Refusal :=
  vmad (fun c x y => trunc 32 (sext c - sext x * sext y)) mk d a b s

/-- VMAD fn 2 MADS, signed saturation (R187, R101). -/
def execVmadMads (mk : Option Msk) (d a b : BitVec 7) (s : State) : Host.Outcome State Fault Refusal :=
  vmad (fun c x y => satS 32 (sext c + sext x * sext y)) mk d a b s

/-- A multiply-accumulate by packed elements (R187). -/
def vmadPacked (w n : Nat) (mk : Option Msk) (d a b : BitVec 7) (s : State) : Host.Outcome State Fault Refusal :=
  vecOp mk (len1 mk) d (fun st => ofElems w n fun j => elem w (st.v d) j + elem w (st.v a) j * elem w (st.v b) j) s

/-- VMAD fn 3 MAD.i16 (R187). -/
def execVmadMadI16 (mk : Option Msk) (d a b : BitVec 7) (s : State) : Host.Outcome State Fault Refusal := vmadPacked 16 16 mk d a b s

/-- VMAD fn 4 MAD.i8 (R187). -/
def execVmadMadI8 (mk : Option Msk) (d a b : BitVec 7) (s : State) : Host.Outcome State Fault Refusal := vmadPacked 8 32 mk d a b s

/-- VMAD fn 5 VDOT2 (R187). -/
def execVdot2 (mk : Option Msk) (d a b : BitVec 7) (s : State) : Host.Outcome State Fault Refusal := vdot 16 2 (fun x => sext x) mk d a b s

/-- VMAD fn 6 VDOT4 (R187). -/
def execVdot4 (mk : Option Msk) (d a b : BitVec 7) (s : State) : Host.Outcome State Fault Refusal := vdot 8 4 (fun x => sext x) mk d a b s

/-- VMAD fn 7 VDOT4U (R187). -/
def execVdot4u (mk : Option Msk) (d a b : BitVec 7) (s : State) : Host.Outcome State Fault Refusal := vdot 8 4 (fun x => (x.toNat : Int)) mk d a b s

/-- Whether f holds for every j below n. -/
def allBelow (f : Nat → Bool) : Nat → Bool
  | 0 => true
  | n + 1 => allBelow f n && f n

/-- A vector compare (R188): bit i is 1 when the condition holds for every element of lane i. -/
def vcmp (w n : Nat) (f : BitVec w → BitVec w → Bool) (mk : Option Msk) (d : BitVec 3) (a b : BitVec 7) (s : State) :
    Host.Outcome State Fault Refusal :=
  s.simple (len1 mk) fun st => st.setPMasked mk d
    (predOf fun i => allBelow (fun j => f (elem w (st.v a) (n * i + j)) (elem w (st.v b) (n * i + j))) n)

/-- VCMP fn 0 (R188). -/
def execVcmpEq (mk : Option Msk) (d : BitVec 3) (a b : BitVec 7) (s : State) : Host.Outcome State Fault Refusal :=
  vcmp 32 1 condEq mk d a b s

/-- VCMP fn 1 (R188). -/
def execVcmpNe (mk : Option Msk) (d : BitVec 3) (a b : BitVec 7) (s : State) : Host.Outcome State Fault Refusal :=
  vcmp 32 1 condNe mk d a b s

/-- VCMP fn 2 (R188). -/
def execVcmpLt (mk : Option Msk) (d : BitVec 3) (a b : BitVec 7) (s : State) : Host.Outcome State Fault Refusal :=
  vcmp 32 1 condLt mk d a b s

/-- VCMP fn 3 (R188). -/
def execVcmpLe (mk : Option Msk) (d : BitVec 3) (a b : BitVec 7) (s : State) : Host.Outcome State Fault Refusal :=
  vcmp 32 1 condLe mk d a b s

/-- VCMP fn 4 (R188). -/
def execVcmpGt (mk : Option Msk) (d : BitVec 3) (a b : BitVec 7) (s : State) : Host.Outcome State Fault Refusal :=
  vcmp 32 1 condGt mk d a b s

/-- VCMP fn 5 (R188). -/
def execVcmpGe (mk : Option Msk) (d : BitVec 3) (a b : BitVec 7) (s : State) : Host.Outcome State Fault Refusal :=
  vcmp 32 1 condGe mk d a b s

/-- VCMP fn 6 (R188). -/
def execVcmpLtu (mk : Option Msk) (d : BitVec 3) (a b : BitVec 7) (s : State) : Host.Outcome State Fault Refusal :=
  vcmp 32 1 condLtu mk d a b s

/-- VCMP fn 7 (R188). -/
def execVcmpLeu (mk : Option Msk) (d : BitVec 3) (a b : BitVec 7) (s : State) : Host.Outcome State Fault Refusal :=
  vcmp 32 1 condLeu mk d a b s

/-- VCMP fn 8 (R188). -/
def execVcmpGtu (mk : Option Msk) (d : BitVec 3) (a b : BitVec 7) (s : State) : Host.Outcome State Fault Refusal :=
  vcmp 32 1 condGtu mk d a b s

/-- VCMP fn 9 (R188). -/
def execVcmpGeu (mk : Option Msk) (d : BitVec 3) (a b : BitVec 7) (s : State) : Host.Outcome State Fault Refusal :=
  vcmp 32 1 condGeu mk d a b s

/-- VCMP fn 10 (R188). -/
def execVcmpEqI16 (mk : Option Msk) (d : BitVec 3) (a b : BitVec 7) (s : State) : Host.Outcome State Fault Refusal :=
  vcmp 16 2 condEq mk d a b s

/-- VCMP fn 11 (R188). -/
def execVcmpLtI16 (mk : Option Msk) (d : BitVec 3) (a b : BitVec 7) (s : State) : Host.Outcome State Fault Refusal :=
  vcmp 16 2 condLt mk d a b s

/-- VCMP fn 12 (R188). -/
def execVcmpLtuI16 (mk : Option Msk) (d : BitVec 3) (a b : BitVec 7) (s : State) : Host.Outcome State Fault Refusal :=
  vcmp 16 2 condLtu mk d a b s

/-- VCMP fn 13 (R188). -/
def execVcmpEqI8 (mk : Option Msk) (d : BitVec 3) (a b : BitVec 7) (s : State) : Host.Outcome State Fault Refusal :=
  vcmp 8 4 condEq mk d a b s

/-- VCMP fn 14 (R188). -/
def execVcmpLtI8 (mk : Option Msk) (d : BitVec 3) (a b : BitVec 7) (s : State) : Host.Outcome State Fault Refusal :=
  vcmp 8 4 condLt mk d a b s

/-- VCMP fn 15 (R188). -/
def execVcmpLtuI8 (mk : Option Msk) (d : BitVec 3) (a b : BitVec 7) (s : State) : Host.Outcome State Fault Refusal :=
  vcmp 8 4 condLtu mk d a b s

/-- PERM (R189): lane i := lane v[b]_i[2:0] of v[a]. -/
def execPerm (mk : Option Msk) (d a b : BitVec 7) (s : State) : Host.Outcome State Fault Refusal :=
  vecOp mk (len1 mk) d (fun st => ofLanes fun i => lane (st.v a) ((lane (st.v b) i).toNat % 8)) s

/-- SHUF (R189): byte j := 0 when bit 7 of the index is 1, else byte idx[4:0] of v[a]. -/
def execShuf (mk : Option Msk) (d a b : BitVec 7) (s : State) : Host.Outcome State Fault Refusal :=
  vecOp mk (len1 mk) d (fun st => ofElems 8 32 fun j =>
    let idx := elem 8 (st.v b) j
    if idx.getLsbD 7 then 0 else elem 8 (st.v a) (idx.toNat % 32)) s

/-- ROT (R189). -/
def execRot (mk : Option Msk) (d a : BitVec 7) (k : BitVec 3) (s : State) : Host.Outcome State Fault Refusal :=
  vecOp mk (len1 mk) d (fun st => ofLanes fun i => lane (st.v a) ((i + k.toNat) % 8)) s

/-- EXT (R189): lanes k to 7 of v[a], then lanes 0 on of the old v[d]. -/
def execExt (mk : Option Msk) (d a : BitVec 7) (k : BitVec 3) (s : State) : Host.Outcome State Fault Refusal :=
  vecOp mk (len1 mk) d (fun st => ofLanes fun i =>
    if i + k.toNat ≤ 7 then lane (st.v a) (i + k.toNat) else lane (st.v d) (i + k.toNat - 8)) s

/-- INS (R189): lane k := lane 0 of v[a], the others old. -/
def execIns (mk : Option Msk) (d a : BitVec 7) (k : BitVec 3) (s : State) : Host.Outcome State Fault Refusal :=
  vecOp mk (len1 mk) d (fun st => ofLanes fun i => if i = k.toNat then lane (st.v a) 0 else lane (st.v d) i) s

/-- ZIP (R189). -/
def execZip (mk : Option Msk) (d a b : BitVec 7) (s : State) : Host.Outcome State Fault Refusal :=
  vecOp mk (len1 mk) d (fun st => ofLanes fun i => if i % 2 = 0 then lane (st.v a) (i / 2) else lane (st.v b) (i / 2)) s

/-- UNZIP (R189): even lanes of v[a], then even lanes of v[b]. -/
def execUnzip (mk : Option Msk) (d a b : BitVec 7) (s : State) : Host.Outcome State Fault Refusal :=
  vecOp mk (len1 mk) d (fun st => ofLanes fun i =>
    if i < 4 then lane (st.v a) (2 * i) else lane (st.v b) (2 * (i - 4))) s

/-- A packed operation (R190): 16-bit elements when w is 0, 8-bit elements when it is 1. -/
def vpack (f16 : BitVec 16 → BitVec 16 → BitVec 16) (f8 : BitVec 8 → BitVec 8 → BitVec 8)
    (mk : Option Msk) (w : BitVec 1) (d a b : BitVec 7) (s : State) : Host.Outcome State Fault Refusal :=
  vecOp mk (len1 mk) d (fun st =>
    if w = 0 then zipElems 16 16 f16 (st.v a) (st.v b) else zipElems 8 32 f8 (st.v a) (st.v b)) s

/-- VPACK add (R190). -/
def execVpackAdd (mk : Option Msk) (w : BitVec 1) (d a b : BitVec 7) (s : State) : Host.Outcome State Fault Refusal :=
  vpack (· + ·) (· + ·) mk w d a b s

/-- VPACK sub (R190). -/
def execVpackSub (mk : Option Msk) (w : BitVec 1) (d a b : BitVec 7) (s : State) : Host.Outcome State Fault Refusal :=
  vpack (· - ·) (· - ·) mk w d a b s

/-- VPACK adds (R190). -/
def execVpackAdds (mk : Option Msk) (w : BitVec 1) (d a b : BitVec 7) (s : State) : Host.Outcome State Fault Refusal :=
  vpack addS addS mk w d a b s

/-- VPACK subs (R190). -/
def execVpackSubs (mk : Option Msk) (w : BitVec 1) (d a b : BitVec 7) (s : State) : Host.Outcome State Fault Refusal :=
  vpack subS subS mk w d a b s

/-- VPACK addus (R190). -/
def execVpackAddus (mk : Option Msk) (w : BitVec 1) (d a b : BitVec 7) (s : State) : Host.Outcome State Fault Refusal :=
  vpack addU addU mk w d a b s

/-- VPACK subus (R190). -/
def execVpackSubus (mk : Option Msk) (w : BitVec 1) (d a b : BitVec 7) (s : State) : Host.Outcome State Fault Refusal :=
  vpack subU subU mk w d a b s

/-- VPACK min (R190). -/
def execVpackMin (mk : Option Msk) (w : BitVec 1) (d a b : BitVec 7) (s : State) : Host.Outcome State Fault Refusal :=
  vpack minS minS mk w d a b s

/-- VPACK max (R190). -/
def execVpackMax (mk : Option Msk) (w : BitVec 1) (d a b : BitVec 7) (s : State) : Host.Outcome State Fault Refusal :=
  vpack maxS maxS mk w d a b s

/-- f over the lanes 0 to n, from lane 0 up. -/
def foldLanes (f : Word → Word → Word) (v : Vec) : Nat → Word
  | 0 => lane v 0
  | n + 1 => f (foldLanes f v n) (lane v (n + 1))

/-- An integer reduction (R191): lane 0 the result over the 8 lanes, the others zero; under a mask, inactive destination
lanes keep their contents. -/
def vred (f : Word → Word → Word) (mk : Option Msk) (d a : BitVec 7) (s : State) : Host.Outcome State Fault Refusal :=
  vecOp mk (len1 mk) d (fun st => ofLanes fun i => if i = 0 then foldLanes f (st.v a) 7 else 0) s

/-- VRED fn 0 (R191). -/
def execRedadd (mk : Option Msk) (d a : BitVec 7) (s : State) : Host.Outcome State Fault Refusal := vred (· + ·) mk d a s

/-- VRED fn 1 (R191). -/
def execRedmin (mk : Option Msk) (d a : BitVec 7) (s : State) : Host.Outcome State Fault Refusal := vred minS mk d a s

/-- VRED fn 2 (R191). -/
def execRedmax (mk : Option Msk) (d a : BitVec 7) (s : State) : Host.Outcome State Fault Refusal := vred maxS mk d a s

/-- VRED fn 3 (R191). -/
def execRedminu (mk : Option Msk) (d a : BitVec 7) (s : State) : Host.Outcome State Fault Refusal := vred minU mk d a s

/-- VRED fn 4 (R191). -/
def execRedmaxu (mk : Option Msk) (d a : BitVec 7) (s : State) : Host.Outcome State Fault Refusal := vred maxU mk d a s

/-- VRED fn 5 (R191). -/
def execRedand (mk : Option Msk) (d a : BitVec 7) (s : State) : Host.Outcome State Fault Refusal := vred (· &&& ·) mk d a s

/-- VRED fn 6 (R191). -/
def execRedor (mk : Option Msk) (d a : BitVec 7) (s : State) : Host.Outcome State Fault Refusal := vred (· ||| ·) mk d a s

/-- VRED fn 7 (R191). -/
def execRedxor (mk : Option Msk) (d a : BitVec 7) (s : State) : Host.Outcome State Fault Refusal := vred (· ^^^ ·) mk d a s

/-- VBIT fn 0 (R192). -/
def execVbitAnd (mk : Option Msk) (d a b : BitVec 7) (s : State) : Host.Outcome State Fault Refusal := valu (· &&& ·) mk d a b s

/-- VBIT fn 1 (R192). -/
def execVbitOr (mk : Option Msk) (d a b : BitVec 7) (s : State) : Host.Outcome State Fault Refusal := valu (· ||| ·) mk d a b s

/-- VBIT fn 2 (R192). -/
def execVbitXor (mk : Option Msk) (d a b : BitVec 7) (s : State) : Host.Outcome State Fault Refusal := valu (· ^^^ ·) mk d a b s

/-- VBIT fn 3 (R192). -/
def execVbitAndn (mk : Option Msk) (d a b : BitVec 7) (s : State) : Host.Outcome State Fault Refusal := valu (fun x y => x &&& ~~~y) mk d a b s

/-- A unary lane operation (R192). -/
def vbitUnary (f : Word → Word) (mk : Option Msk) (d a : BitVec 7) (s : State) : Host.Outcome State Fault Refusal :=
  vecOp mk (len1 mk) d (fun st => mapLanes f (st.v a)) s

/-- VBIT fn 4 NOT (R192). -/
def execVbitNot (mk : Option Msk) (d a : BitVec 7) (s : State) : Host.Outcome State Fault Refusal := vbitUnary (fun x => ~~~x) mk d a s

/-- VBIT fn 5 SHL (R192). -/
def execVbitShl (mk : Option Msk) (d a b : BitVec 7) (s : State) : Host.Outcome State Fault Refusal := valu shiftLeft mk d a b s

/-- VBIT fn 6 SHR (R192). -/
def execVbitShr (mk : Option Msk) (d a b : BitVec 7) (s : State) : Host.Outcome State Fault Refusal := valu shiftRight mk d a b s

/-- VBIT fn 7 SAR (R192). -/
def execVbitSar (mk : Option Msk) (d a b : BitVec 7) (s : State) : Host.Outcome State Fault Refusal := valu shiftRightS mk d a b s

/-- A shift of 16-bit elements by the count's low four bits (R192). -/
def vshift16 (f : BitVec 16 → Nat → BitVec 16) (mk : Option Msk) (d a b : BitVec 7) (s : State) : Host.Outcome State Fault Refusal :=
  vecOp mk (len1 mk) d (fun st => zipElems 16 16 (fun x y => f x (y.extractLsb' 0 4).toNat) (st.v a) (st.v b)) s

/-- VBIT fn 8 SHL.i16 (R192). -/
def execVbitShlI16 (mk : Option Msk) (d a b : BitVec 7) (s : State) : Host.Outcome State Fault Refusal := vshift16 (fun x k => x <<< k) mk d a b s

/-- VBIT fn 9 SHR.i16 (R192). -/
def execVbitShrI16 (mk : Option Msk) (d a b : BitVec 7) (s : State) : Host.Outcome State Fault Refusal := vshift16 (fun x k => x >>> k) mk d a b s

/-- VBIT fn 10 SAR.i16 (R192). -/
def execVbitSarI16 (mk : Option Msk) (d a b : BitVec 7) (s : State) : Host.Outcome State Fault Refusal :=
  vshift16 (fun x k => x.sshiftRight k) mk d a b s

/-- VBIT fn 11 POPC (R192). -/
def execVbitPopc (mk : Option Msk) (d a : BitVec 7) (s : State) : Host.Outcome State Fault Refusal :=
  vbitUnary (fun x => BitVec.ofNat 32 (popcNat x 32)) mk d a s

/-- VBIT fn 12 CLZ (R192). -/
def execVbitClz (mk : Option Msk) (d a : BitVec 7) (s : State) : Host.Outcome State Fault Refusal :=
  vbitUnary (fun x => BitVec.ofNat 32 (clzNat x 32)) mk d a s

/-- VBIT fn 13 BREV (R192). -/
def execVbitBrev (mk : Option Msk) (d a : BitVec 7) (s : State) : Host.Outcome State Fault Refusal := vbitUnary brev32 mk d a s

/-- VSEL (R183): lane by lane, v[a] where p[k][i] xor sense is 1, else v[b]. -/
def execVsel (mk : Option Msk) (sense : BitVec 1) (p : BitVec 3) (d a b : BitVec 7) (s : State) : Host.Outcome State Fault Refusal :=
  vecOp mk (len1 mk) d (fun st => ofLanes fun i =>
    if (st.p p).getLsbD i != sense.getLsbD 0 then lane (st.v a) i else lane (st.v b) i) s

end Sys2Proof.Machine
end

