-- ==== Sys2Proof/Machine/Float.lean ====
section
/-! DEFINITION. Floating-point and conversion instructions (10 R199 to R214; 09 R191). -/
namespace Sys2Proof.Machine

/-- The strand's dynamic rounding mode (R94, R199). -/
def Strand.mode (st : Strand) : RMode := RMode.ofCode st.rm.toNat

/-- Element j of width w of a vector as a number (R68). -/
def elemN (w : Nat) (v : Vec) (j : Nat) : Nat := (elem w v j).toNat

/-- Whether element j of width w lies in an active lane (R75, R163). -/
def Strand.active (st : Strand) (mk : Option Msk) (w j : Nat) : Bool := (st.mask mk).getLsbD (w * j / 32)

/-- The flags of the n elements of width w that lie in active lanes (R199). -/
def Strand.flagsOf (st : Strand) (mk : Option Msk) (w : Nat) (f : Nat → Res) : Nat → BitVec 5
  | 0 => 0
  | n + 1 => st.flagsOf mk w f n ||| if st.active mk w n then (f n).2 else 0

/-- The vector of n results of width w, zero above. -/
def ofResults (w n : Nat) (f : Nat → Res) : Vec := ofElems w n fun j => BitVec.ofNat w (f j).1

/-- A float instruction that writes v[d] element by element and ORs the flags of its active elements (R199). -/
def fvec (w n : Nat) (mk : Option Msk) (d : BitVec 7) (f : Strand → Nat → Res) (s : State) : Host.Outcome State Fault Refusal :=
  s.simple (len1 mk) fun st => (st.setVMasked mk d (ofResults w n (f st))).raiseFlags (st.flagsOf mk w (f st) n)

/-- A unary float instruction on elements of a format. -/
def funary (f : FFmt) (g : Nat → Res) (mk : Option Msk) (d a : BitVec 7) (s : State) : Host.Outcome State Fault Refusal :=
  fvec f.width (256 / f.width) mk d (fun st j => g (elemN f.width (st.v a) j)) s

/-- A binary float instruction on elements of a format. -/
def fbinary (f : FFmt) (g : RMode → Nat → Nat → Res) (mk : Option Msk) (d a b : BitVec 7) (s : State) :
    Host.Outcome State Fault Refusal :=
  fvec f.width (256 / f.width) mk d
    (fun st j => g st.mode (elemN f.width (st.v a) j) (elemN f.width (st.v b) j)) s

/-- A float instruction that reads v[d] as its accumulator (R204, R214). -/
def fternary (f : FFmt) (g : RMode → Nat → Nat → Nat → Res) (mk : Option Msk) (d a b : BitVec 7) (s : State) :
    Host.Outcome State Fault Refusal :=
  fvec f.width (256 / f.width) mk d
    (fun st j => g st.mode (elemN f.width (st.v a) j) (elemN f.width (st.v b) j) (elemN f.width (st.v d) j)) s

/-- The format of FALU16 (R214), and of FRND and FCLASS (R211, R212). -/
def fmt16 (t : BitVec 1) : FFmt := if t = 0 then .f16 else .bf16
def fmtOf {w : Nat} (t : BitVec w) : FFmt :=
  match t.toNat with
  | 0 => .f32 | 1 => .f16 | 2 => .bf16 | 3 => .e5m2 | 4 => .e4m3 | _ => .e2m1

/-- FALU fn 0 (R201). -/
def execFadd (mk : Option Msk) (d a b : BitVec 7) (s : State) : Host.Outcome State Fault Refusal := fbinary .f32 FFmt.f32.add mk d a b s

/-- FALU fn 1 (R201). -/
def execFsub (mk : Option Msk) (d a b : BitVec 7) (s : State) : Host.Outcome State Fault Refusal := fbinary .f32 FFmt.f32.sub mk d a b s

/-- FALU fn 2 (R201). -/
def execFmul (mk : Option Msk) (d a b : BitVec 7) (s : State) : Host.Outcome State Fault Refusal := fbinary .f32 FFmt.f32.mul mk d a b s

/-- FALU fn 3 (R202). -/
def execFmin (mk : Option Msk) (d a b : BitVec 7) (s : State) : Host.Outcome State Fault Refusal := fbinary .f32 (fun _ => FFmt.f32.minMax false) mk d a b s

/-- FALU fn 4 (R202). -/
def execFmax (mk : Option Msk) (d a b : BitVec 7) (s : State) : Host.Outcome State Fault Refusal := fbinary .f32 (fun _ => FFmt.f32.minMax true) mk d a b s

/-- FALU fn 5 (R203). -/
def execFabs (mk : Option Msk) (d a : BitVec 7) (s : State) : Host.Outcome State Fault Refusal := funary .f32 FFmt.f32.abs mk d a s

/-- FALU fn 6 (R203). -/
def execFneg (mk : Option Msk) (d a : BitVec 7) (s : State) : Host.Outcome State Fault Refusal := funary .f32 FFmt.f32.negate mk d a s

/-- FALU fn 7 (R203). -/
def execFsgn (mk : Option Msk) (d a b : BitVec 7) (s : State) : Host.Outcome State Fault Refusal := fbinary .f32 (fun _ => FFmt.f32.copySign) mk d a b s

/-- FMAD fn 0 (R204). -/
def execFma (mk : Option Msk) (d a b : BitVec 7) (s : State) : Host.Outcome State Fault Refusal := fternary .f32 (FFmt.f32.fma false false) mk d a b s

/-- FMAD fn 1 (R204). -/
def execFms (mk : Option Msk) (d a b : BitVec 7) (s : State) : Host.Outcome State Fault Refusal := fternary .f32 (FFmt.f32.fma false true) mk d a b s

/-- FMAD fn 2 (R204). -/
def execFnma (mk : Option Msk) (d a b : BitVec 7) (s : State) : Host.Outcome State Fault Refusal := fternary .f32 (FFmt.f32.fma true false) mk d a b s

/-- FMAD fn 3 (R204). -/
def execFnms (mk : Option Msk) (d a b : BitVec 7) (s : State) : Host.Outcome State Fault Refusal := fternary .f32 (FFmt.f32.fma true true) mk d a b s

/-- FCMP on elements of a format: the bit of a lane is the condition on all its elements (R205, R188). -/
def fcmp (f : FFmt) (c : FCond) (mk : Option Msk) (d : BitVec 3) (a b : BitVec 7) (s : State) : Host.Outcome State Fault Refusal :=
  s.simple (len1 mk) fun st =>
    let x := fun j => f.value (elemN f.width (st.v a) j)
    let y := fun j => f.value (elemN f.width (st.v b) j)
    let k := 32 / f.width
    (st.setPMasked mk d (predOf fun i => (List.range k).all fun j => c.holds (x (k * i + j)) (y (k * i + j)))).raiseFlags
      (st.flagsOf mk f.width (fun j => (0, flagIf ((x j).isSig || (y j).isSig) fNV)) (8 * k))

/-- FCMP fn 0 (R205). -/
def execFcmpF32Eq (mk : Option Msk) (d : BitVec 3) (a b : BitVec 7) (s : State) : Host.Outcome State Fault Refusal := fcmp .f32 .eq mk d a b s

/-- FCMP fn 1 (R205). -/
def execFcmpF32Ne (mk : Option Msk) (d : BitVec 3) (a b : BitVec 7) (s : State) : Host.Outcome State Fault Refusal := fcmp .f32 .ne mk d a b s

/-- FCMP fn 2 (R205). -/
def execFcmpF32Lt (mk : Option Msk) (d : BitVec 3) (a b : BitVec 7) (s : State) : Host.Outcome State Fault Refusal := fcmp .f32 .lt mk d a b s

/-- FCMP fn 3 (R205). -/
def execFcmpF32Le (mk : Option Msk) (d : BitVec 3) (a b : BitVec 7) (s : State) : Host.Outcome State Fault Refusal := fcmp .f32 .le mk d a b s

/-- FCMP fn 4 (R205). -/
def execFcmpF32Gt (mk : Option Msk) (d : BitVec 3) (a b : BitVec 7) (s : State) : Host.Outcome State Fault Refusal := fcmp .f32 .gt mk d a b s

/-- FCMP fn 5 (R205). -/
def execFcmpF32Ge (mk : Option Msk) (d : BitVec 3) (a b : BitVec 7) (s : State) : Host.Outcome State Fault Refusal := fcmp .f32 .ge mk d a b s

/-- FCMP fn 6 (R205). -/
def execFcmpF32Unord (mk : Option Msk) (d : BitVec 3) (a b : BitVec 7) (s : State) : Host.Outcome State Fault Refusal := fcmp .f32 .unord mk d a b s

/-- FCMP fn 7 (R205). -/
def execFcmpF32Ord (mk : Option Msk) (d : BitVec 3) (a b : BitVec 7) (s : State) : Host.Outcome State Fault Refusal := fcmp .f32 .ord mk d a b s

/-- FCMP fn 8 (R205). -/
def execFcmpF16Eq (mk : Option Msk) (d : BitVec 3) (a b : BitVec 7) (s : State) : Host.Outcome State Fault Refusal := fcmp .f16 .eq mk d a b s

/-- FCMP fn 9 (R205). -/
def execFcmpF16Lt (mk : Option Msk) (d : BitVec 3) (a b : BitVec 7) (s : State) : Host.Outcome State Fault Refusal := fcmp .f16 .lt mk d a b s

/-- FCMP fn 10 (R205). -/
def execFcmpF16Le (mk : Option Msk) (d : BitVec 3) (a b : BitVec 7) (s : State) : Host.Outcome State Fault Refusal := fcmp .f16 .le mk d a b s

/-- FCMP fn 11 (R205). -/
def execFcmpF16Unord (mk : Option Msk) (d : BitVec 3) (a b : BitVec 7) (s : State) : Host.Outcome State Fault Refusal := fcmp .f16 .unord mk d a b s

/-- FCMP fn 12 (R205). -/
def execFcmpBf16Eq (mk : Option Msk) (d : BitVec 3) (a b : BitVec 7) (s : State) : Host.Outcome State Fault Refusal := fcmp .bf16 .eq mk d a b s

/-- FCMP fn 13 (R205). -/
def execFcmpBf16Lt (mk : Option Msk) (d : BitVec 3) (a b : BitVec 7) (s : State) : Host.Outcome State Fault Refusal := fcmp .bf16 .lt mk d a b s

/-- FCMP fn 14 (R205). -/
def execFcmpBf16Le (mk : Option Msk) (d : BitVec 3) (a b : BitVec 7) (s : State) : Host.Outcome State Fault Refusal := fcmp .bf16 .le mk d a b s

/-- FCMP fn 15 (R205). -/
def execFcmpBf16Unord (mk : Option Msk) (d : BitVec 3) (a b : BitVec 7) (s : State) : Host.Outcome State Fault Refusal := fcmp .bf16 .unord mk d a b s

/-- A long-latency float instruction on F32 lanes: the result and its flags arrive with the window (R160, R200). -/
def flong (mk : Option Msk) (l : BitVec 4) (d : BitVec 7) (f : Strand → Nat → Res) (s : State) : Host.Outcome State Fault Refusal :=
  s.simpleLong (len1 mk) l.toNat fun st =>
    pendV (st.vName d) (mergeLanes (st.mask mk) (st.v d) (ofResults 32 8 (f st))) (st.flagsOf mk 32 (f st) 8)

/-- An FTRANS function (R206). -/
def ftrans (fn : Nat) (mk : Option Msk) (l : BitVec 4) (d a : BitVec 7) (s : State) : Host.Outcome State Fault Refusal :=
  flong mk l d (fun st j => ftransF32 fn st.mode (lane (st.v a) j)) s

/-- FTRANS b 0 (R206, R207). -/
def execRcp (mk : Option Msk) (l : BitVec 4) (d a : BitVec 7) (s : State) : Host.Outcome State Fault Refusal := ftrans 0 mk l d a s

/-- FTRANS b 1 (R206, R207). -/
def execRsq (mk : Option Msk) (l : BitVec 4) (d a : BitVec 7) (s : State) : Host.Outcome State Fault Refusal := ftrans 1 mk l d a s

/-- FTRANS b 2 (R206, R207). -/
def execSqrt (mk : Option Msk) (l : BitVec 4) (d a : BitVec 7) (s : State) : Host.Outcome State Fault Refusal := ftrans 2 mk l d a s

/-- FTRANS b 3 (R206, R207). -/
def execExp2 (mk : Option Msk) (l : BitVec 4) (d a : BitVec 7) (s : State) : Host.Outcome State Fault Refusal := ftrans 3 mk l d a s

/-- FTRANS b 4 (R206, R207). -/
def execLog2 (mk : Option Msk) (l : BitVec 4) (d a : BitVec 7) (s : State) : Host.Outcome State Fault Refusal := ftrans 4 mk l d a s

/-- FTRANS b 5 (R206, R207). -/
def execSinpi (mk : Option Msk) (l : BitVec 4) (d a : BitVec 7) (s : State) : Host.Outcome State Fault Refusal := ftrans 5 mk l d a s

/-- FTRANS b 6 (R206, R207). -/
def execCospi (mk : Option Msk) (l : BitVec 4) (d a : BitVec 7) (s : State) : Host.Outcome State Fault Refusal := ftrans 6 mk l d a s

/-- FTRANS b 7 (R206, R207). -/
def execTanh (mk : Option Msk) (l : BitVec 4) (d a : BitVec 7) (s : State) : Host.Outcome State Fault Refusal := ftrans 7 mk l d a s

/-- FDIV (R208). -/
def execFdiv (mk : Option Msk) (l : BitVec 4) (d a b : BitVec 7) (s : State) : Host.Outcome State Fault Refusal := 
  flong mk l d (fun st j => FFmt.f32.div st.mode (elemN 32 (st.v a) j) (elemN 32 (st.v b) j)) s

/-- Width and signedness of an integer format code 6 to 11, and the width of any format code (R167, R209). -/
def intFmt (c : Nat) : Nat × Bool := (if c ≤ 7 then 32 else if c ≤ 9 then 16 else 8, c % 2 = 0)
def cvtWidth {w : Nat} (c : BitVec w) : Nat := if c.toNat < 6 then (fmtOf c).width else (intFmt c.toNat).1

/-- The exact value of a source element, and the value of a float one (R209). -/
def cvtSource (c : BitVec 4) (x : Nat) : FVal :=
  if c.toNat < 6 then (fmtOf c).value x
  else
    let (w, sg) := intFmt c.toNat
    let i : Int := if sg then (BitVec.ofNat w x).toInt else x
    .fin (i < 0) i.natAbs 0

/-- One element converted (R99, R100). -/
def cvtElem (t : BitVec 4) (md : RMode) (sat : Bool) (x : FVal) : Res :=
  if t.toNat < 6 then (fmtOf t).deliver md sat x.exact
  else let (w, sg) := intFmt t.toNat; toInteger md w sg x

/-- The elements of a conversion under SR in ascending order, each that needs one taking a draw (R98, R209). -/
def cvtDraws (t : BitVec 4) (x : Nat → FVal) (act : Nat → Bool) (j : Nat) (seed : Word) : Nat → List Res × Word
  | 0 => ([], seed)
  | n + 1 =>
    let seed := if act j && (fmtOf t).draws (x j).exact then nextDraw seed else seed
    let (l, last) := cvtDraws t x act (j + 1) seed n
    (cvtElem t (.sr (seed.toNat / 2 ^ 16)) false (x j) :: l, last)

/-- FCVT (R209): n = 256 / max(ws, wd) elements, packed at the bottom of v[d]; under SR it draws from the core's
generator (R98). -/
def execFcvt (mk : Option Msk) (t : BitVec 4) (d a : BitVec 7) (c : BitVec 4) (r : BitVec 3) (s : State) :
    Host.Outcome State Fault Refusal :=
  s.onStrand fun st =>
    let ws := cvtWidth c
    let wd := cvtWidth t
    let n := 256 / max ws wd
    let x := fun j => cvtSource c (elemN ws (st.v a) j)
    let k := s.core st.at_.die st.at_.core
    let md := if r.toNat < 4 then RMode.ofCode r.toNat else if r = 6 then .rne else st.mode
    let (res, seed) :=
      if r = 4 then cvtDraws t x (st.active mk wd) 0 k.srseed n
      else ((List.range n).map fun j => cvtElem t md (6 ≤ r.toNat) (x j), k.srseed)
    let f := fun j => res.getD j (0, 0)
    let st' := (st.setVMasked mk d (ofResults wd n f)).raiseFlags (st.flagsOf mk wd f n)
    let draws := ((List.range n).filter fun j => r = 4 && st.active mk wd j && (fmtOf t).draws (x j).exact).length
    (if draws = 0 then s
     else (s.setCore st.at_.die st.at_.core { k with srseed := seed }).note st.at_.die (some st.at_.core) 18 draws st.task).putStrand
      (st'.retire s.cycle (len1 mk))

/-- FRND (R211): the rounding code is 0 to 3, or 5 for FPMODE.RM (R167). -/
def execFrnd (mk : Option Msk) (r : BitVec 4) (d a : BitVec 7) (t : BitVec 7) (s : State) : Host.Outcome State Fault Refusal :=
  let f := fmtOf t
  fvec f.width (256 / f.width) mk d
    (fun st j => f.integral (if r.toNat < 4 then RMode.ofCode r.toNat else st.mode) (elemN f.width (st.v a) j)) s

/-- FCLASS (R212). -/
def execFclass (mk : Option Msk) (d a : BitVec 7) (t : BitVec 7) (s : State) : Host.Outcome State Fault Refusal :=
  funary (fmtOf t) (fun x => ((fmtOf t).classBit x, 0)) mk d a s

/-- A float dot product of k elements a lane with the accumulator as one more term (R213). -/
def fdot (f : FFmt) (mk : Option Msk) (d a b : BitVec 7) (s : State) : Host.Outcome State Fault Refusal :=
  let k := 32 / f.width
  fvec 32 8 mk d (fun st i =>
    FFmt.f32.deliver st.mode false (exactSum st.mode (FFmt.f32.ex (elemN 32 (st.v d) i) ::
      (List.range k).map fun j => (f.ex (elemN f.width (st.v a) (k * i + j))).mul (f.ex (elemN f.width (st.v b) (k * i + j)))))) s

/-- An integer dot product of 32 / w elements a lane, saturating (R213). -/
def idot (w : Nat) (mk : Option Msk) (d a b : BitVec 7) (s : State) : Host.Outcome State Fault Refusal :=
  let k := 32 / w
  vecOp mk (len1 mk) d (fun st => ofLanes fun i =>
    satS 32 ((List.range k).foldl (fun t j => t + sext (elem w (st.v a) (k * i + j)) * sext (elem w (st.v b) (k * i + j)))
      (sext (lane (st.v d) i)))) s

/-- FDOT fn 0 (R213). -/
def execDot2F16 (mk : Option Msk) (d a b : BitVec 7) (s : State) : Host.Outcome State Fault Refusal := fdot .f16 mk d a b s

/-- FDOT fn 1 (R213). -/
def execDot2Bf16 (mk : Option Msk) (d a b : BitVec 7) (s : State) : Host.Outcome State Fault Refusal := fdot .bf16 mk d a b s

/-- FDOT fn 2 (R213). -/
def execDot4E5m2 (mk : Option Msk) (d a b : BitVec 7) (s : State) : Host.Outcome State Fault Refusal := fdot .e5m2 mk d a b s

/-- FDOT fn 3 (R213). -/
def execDot4E4m3 (mk : Option Msk) (d a b : BitVec 7) (s : State) : Host.Outcome State Fault Refusal := fdot .e4m3 mk d a b s

/-- FDOT fn 4 (R213). -/
def execDot4I8 (mk : Option Msk) (d a b : BitVec 7) (s : State) : Host.Outcome State Fault Refusal := idot 8 mk d a b s

/-- FDOT fn 5 (R213). -/
def execDot8I4 (mk : Option Msk) (d a b : BitVec 7) (s : State) : Host.Outcome State Fault Refusal := idot 4 mk d a b s

/-- FALU16 operation 0 (R214). -/
def execFalu16Fadd (mk : Option Msk) (t : BitVec 1) (d a b : BitVec 7) (s : State) : Host.Outcome State Fault Refusal := fbinary (fmt16 t) (fmt16 t).add mk d a b s

/-- FALU16 operation 1 (R214). -/
def execFalu16Fsub (mk : Option Msk) (t : BitVec 1) (d a b : BitVec 7) (s : State) : Host.Outcome State Fault Refusal := fbinary (fmt16 t) (fmt16 t).sub mk d a b s

/-- FALU16 operation 2 (R214). -/
def execFalu16Fmul (mk : Option Msk) (t : BitVec 1) (d a b : BitVec 7) (s : State) : Host.Outcome State Fault Refusal := fbinary (fmt16 t) (fmt16 t).mul mk d a b s

/-- FALU16 operation 3 (R214, R202). -/
def execFalu16Fmin (mk : Option Msk) (t : BitVec 1) (d a b : BitVec 7) (s : State) : Host.Outcome State Fault Refusal := 
  fbinary (fmt16 t) (fun _ => (fmt16 t).minMax false) mk d a b s

/-- FALU16 operation 4 (R214, R202). -/
def execFalu16Fmax (mk : Option Msk) (t : BitVec 1) (d a b : BitVec 7) (s : State) : Host.Outcome State Fault Refusal := 
  fbinary (fmt16 t) (fun _ => (fmt16 t).minMax true) mk d a b s

/-- FALU16 operation 5 (R214, R204). -/
def execFalu16Fma (mk : Option Msk) (t : BitVec 1) (d a b : BitVec 7) (s : State) : Host.Outcome State Fault Refusal := 
  fternary (fmt16 t) ((fmt16 t).fma false false) mk d a b s

/-- FALU16 operation 6 (R214, R203). -/
def execFalu16Fabs (mk : Option Msk) (t : BitVec 1) (d a : BitVec 7) (s : State) : Host.Outcome State Fault Refusal := funary (fmt16 t) (fmt16 t).abs mk d a s

/-- FALU16 operation 7 (R214, R203). -/
def execFalu16Fneg (mk : Option Msk) (t : BitVec 1) (d a : BitVec 7) (s : State) : Host.Outcome State Fault Refusal := funary (fmt16 t) (fmt16 t).negate mk d a s

/-- A float reduction: the tree over lanes 0 to 7 in RNE, to lane 0 (R191, R107). -/
def vredF (f : List Nat → Res) (mk : Option Msk) (d a : BitVec 7) (s : State) : Host.Outcome State Fault Refusal :=
  fvec 32 8 mk d (fun st i => if i = 0 then f ((List.range 8).map (elemN 32 (st.v a))) else (0, 0)) s

/-- VRED fn 8 (R191). -/
def execRedaddF32 (mk : Option Msk) (d a : BitVec 7) (s : State) : Host.Outcome State Fault Refusal := vredF treeSum mk d a s

/-- VRED fn 9 (R191). -/
def execRedminF32 (mk : Option Msk) (d a : BitVec 7) (s : State) : Host.Outcome State Fault Refusal := vredF (treeMinMax false) mk d a s

/-- VRED fn 10 (R191). -/
def execRedmaxF32 (mk : Option Msk) (d a : BitVec 7) (s : State) : Host.Outcome State Fault Refusal := vredF (treeMinMax true) mk d a s

end Sys2Proof.Machine
end

