-- ==== Sys2Proof/Machine/RegMap.lean ====
section
/-! DEFINITION. The register map and the masters (15 R302 to R305, R310; 03 R60; 13 R272; 06 R125; 01 R18, R23; 19 R348, R351; 21 R373,
R375; 23 R386, R390, R392; 24 R396). -/
namespace Sys2Proof.Machine

/-! ### Reads -/

/-- HG_POOLOCC (R60). -/
def State.poolOcc (s : State) : BitVec 64 := BitVec.ofNat 64 (s.poolCount % 2 ^ 17 + s.spillCount % 2 ^ 31 * 2 ^ 17)

/-- Headgate registers by offset (R60, R351, R373, R396); HG_FKILL reads zero. -/
def State.readHg (s : State) (off : Nat) : BitVec 64 :=
  let h := s.hg
  match off with
  | 0x000 => h.hqbase
  | 0x008 => h.hqsize
  | 0x010 => h.htail
  | 0x018 => h.hhead
  | 0x020 => h.policy
  | 0x028 => h.frame
  | 0x030 => h.bwbase
  | 0x038 => h.bwsize
  | 0x040 => h.qtbase
  | 0x048 => h.qtcount
  | 0x050 => s.poolOcc
  | 0x058 => h.fqbase
  | 0x060 => h.fqsize
  | 0x068 => h.fqhead
  | 0x070 => h.fqtail
  | 0x100 => h.serr
  | 0x108 => h.dmpbase
  | 0x110 => h.dmpsize
  | 0x118 => h.dmpnext
  | _ => if 0x080 ≤ off && off < 0x100 then h.pquota.getD ((off - 0x080) / 8) 0 else 0

/-- Flume registers by offset (R272, R383). -/
def State.readFl (s : State) (off : Nat) : BitVec 64 :=
  match off with
  | 0x000 => s.gx.rptol
  | 0x008 => s.gx.svage
  | 0x010 => s.gx.drop
  | 0x018 => s.gx.pdrop
  | _ =>
    if 0x400 ≤ off && off < 0xC00 then
      let d := s.domain ((off - 0x400) / 8)
      BitVec.ofNat 64 (d.next % 2 ^ 16 + d.apply % 2 ^ 16 * 2 ^ 16)
    else 0

/-- AZ_STAT (R310). -/
def Link.stat (l : Link) : BitVec 64 :=
  BitVec.ofNat 64 ((if l.paired then 1 else 0) + (if l.migrated then 2 else 0) + l.event % 2 ^ 8 * 2 ^ 8)

/-- CIS_STAT (R390). -/
def Link.cisStat (l : Link) : BitVec 64 :=
  BitVec.ofNat 64 (l.ackSlot % 2 + (if l.inStep then 2 else 0) + l.reason % 2 ^ 8 * 2 ^ 8 + l.skip % 2 ^ 16 * 2 ^ 16 +
    l.ackSeq % 2 ^ 32 * 2 ^ 32)

/-- Azair and cistern registers by offset (R310, R375, R386, R390). -/
def State.readAz (s : State) (off : Nat) : BitVec 64 :=
  let l := s.link
  match off with
  | 0x00 => l.stat
  | 0x08 => l.partid
  | 0x10 => l.back
  | 0x18 => l.backn
  | 0x20 => l.cisBase
  | 0x28 => l.cisSlot
  | 0x30 => l.cisPeriod
  | 0x38 => l.clrpart
  | 0x40 => l.cisStat
  | 0x48 => if l.training then 2 else 0
  | _ => 0

/-- DH_STAT and the other registers of a head (R23). FRAMES and LINK stand in the last register kept. R23 says of BLANK only 'blanked
while paired': that it reads 1 on every head that is not scanning while a companion is paired, one never enabled among them, is the
model's choice (assumption 65). -/
def State.readDh (s : State) (n off : Nat) : BitVec 64 :=
  match s.gx.heads[n]? with
  | none => 0
  | some h =>
    let r := h.regs.getD (off / 8) 0
    match off / 8 with
    | 0 => if h.training then r ||| 2 else r
    | 6 => r ||| (if h.scanning then 2 else 0) ||| (if s.link.paired && !h.scanning then 4 else 0)
    | _ => r

/-- CSRs of a core, and of a die (R293, R322). -/
def coreCsr (n : Nat) : Bool := n = 0x020 || (0x100 ≤ n && n ≤ 0x111) || (0x300 ≤ n && n ≤ 0x30F)
def dieCsr (n : Nat) : Bool := (0x200 ≤ n && n ≤ 0x22F) || (0x310 ≤ n && n ≤ 0x34F) || n = 0x380

/-- Where a register of the map stands (R304). -/
inductive RegPlace where
  | hg (off : Nat)
  | fl (off : Nat)
  | mst (off : Nat)
  | az (off : Nat)
  | lease
  | dh (n off : Nat)
  | ptroot (n : Nat)
  | core (d c n : Nat)
  | die (d n : Nat)
  | none
  deriving DecidableEq, Repr

/-- The register at an 8-byte aligned physical address; a disabled core's window holds none (R304, R18). -/
def State.regPlace (s : State) (pa : Nat) : RegPlace :=
  if pa < 0x2000000000 then .none
  else
    let o := pa - 0x2000000000
    if o < 0x1000 then .hg o
    else if o < 0x2000 then .fl (o - 0x1000)
    else if o < 0x3000 then .mst (o - 0x2000)
    else if o < 0x4000 then .az (o - 0x3000)
    else if o < 0x4008 then .lease
    else if 0x5000 ≤ o && o < 0x5200 then .dh ((o - 0x5000) / 0x100) (o % 0x100)
    else if 0x10000 ≤ o && o < 0x10800 then .ptroot ((o - 0x10000) / 8)
    else if 0x1000000 ≤ o && o < 0x1400000 then
      let d := (o - 0x1000000) / 0x200000 + 1
      let c := (o - 0x1000000) % 0x200000 / 0x4000
      let n := o % 0x4000 / 8
      if c < 96 && coreCsr n && !s.mg.disabled.contains (d, c) then .core d c n else .none
    else if 0x2000000 ≤ o && o < 0x2020000 then
      let n := o % 0x10000 / 8
      if dieCsr n then .die ((o - 0x2000000) / 0x10000 + 1) n else .none
    else .none

/-- A register read at an 8-byte aligned physical address (R304). -/
def State.regRead64 (s : State) (pa : Nat) : BitVec 64 :=
  match s.regPlace pa with
  | .hg o => s.readHg o
  | .fl o => s.readFl o
  | .mst o => if o = 0 then BitVec.ofNat 64 s.port.own else if o = 8 then BitVec.ofNat 64 s.port.hand else 0
  | .az o => s.readAz o
  | .lease => s.gx.leaseRdc
  | .dh n o => s.readDh n o
  | .ptroot n => s.ptroot n
  | .core d c n => s.csrUnit d c n
  | .die d n => s.csrUnit d 0 n
  | .none => 0

/-- Whether the supervisor alone reaches the register at an address: the Headgate's and the flumes' (R60, R272). -/
def State.regOwn (s : State) (pa : Nat) : Bool := match s.regPlace pa with | .hg _ | .fl _ => true | _ => false

/-- A register as a strand reads it: what a program-level load of a supervisor's register returns is not stated, and free (assumption
15). -/
def State.regSeen (s : State) (level : Bool) (pa : Nat) : BitVec 64 :=
  if !level && s.regOwn pa then Config.freeWord64 (s.free + pa / 8 % 8) else s.regRead64 pa

/-! ### Writes -/

/-- HG_FKILL (R351): strands parked on the page enter their handlers with PAGE (R348), and every access of a unit that waits on it
is refused. -/
def State.writeFkill (s : State) (v : BitVec 64) : State :=
  let page := bitsNat v.toNat 56 21
  let pdom := bitsNat v.toNat 7 0
  let hit (e : MergeEntry) : Bool := e.faulted && e.page = page && e.pdom = pdom
  let units := s.dies.flatMap fun (_, x) => (x.merge.filter hit).flatMap MergeEntry.units
  let s : State := { s with
    dies := s.dies.map fun (q : Nat × Die) => (q.1, { q.2 with merge := q.2.merge.filter fun e => !hit e })
    hg := { s.hg with refused := s.hg.refused ++ units } }
  s.strands.foldl (fun s st =>
    match st.blocked with
    | some b =>
      (match b.wait with
       | .parked _ p va =>
         if p = pdom && pageOf va = page then s.raise { st with blocked := none } cPage (BitVec.ofNat 64 va) else s
       | _ => s)
    | none => s) s

/-- MST_OWN (R305): a master claims what is free or offered to it, or gives up what it owns; supervisor software writes it as any
register. A change raises MSI-X vector 2 (R303). -/
def State.writeOwn (s : State) (m : Nat) (v : BitVec 64) : State :=
  let x := v.toNat % 4
  let put (own hand : Nat) : State :=
    let t : State := { s with port := { s.port with own := own, hand := hand } }
    if own = s.port.own then t else t.raiseMsix 2
  if m = 0 then put x s.port.hand
  else if x = m && (s.port.own = 0 || s.port.hand = m) then put m (if s.port.hand = m then 0 else s.port.hand)
  else if x = 0 && s.port.own = m then put 0 s.port.hand
  else s

/-- HOST_IRQ (R303). -/
def State.writeIrq (s : State) (v : BitVec 64) : State :=
  let n := v.toNat % 32
  if 4 ≤ n then s.raiseMsix n else s

/-- Headgate registers (R60, R351, R373, R396). -/
def State.writeHg (s : State) (off : Nat) (v : BitVec 64) : State :=
  let h := s.hg
  match off with
  | 0x000 => { s with hg := { h with hqbase := v &&& 0x01FFFFFFFFFFF000 } }
  | 0x008 => { s with hg := { h with hqsize := v &&& 0x1FFFF } }
  | 0x010 => s.writeHtail v
  | 0x020 => s.writePolicy v
  | 0x030 => { s with hg := { h with bwbase := v &&& 0x01FFFFFFFFE00000 } }
  | 0x038 => { s with hg := { h with bwsize := v } }
  | 0x040 => { s with hg := { h with qtbase := v &&& 0x01FFFFFFFFFFF000 } }
  | 0x048 => s.writeQtcount v
  | 0x058 => { s with hg := { h with fqbase := v &&& 0x01FFFFFFFFFFFFE0 } }
  | 0x060 => { s with hg := { h with fqsize := v &&& 0x1FFFF } }
  | 0x068 => { s with hg := { h with fqhead := v &&& 0xFFFFFFFF } }
  | 0x078 => s.writeFkill v
  | 0x100 => { s with hg := { h with serr := v &&& 0xF01 } }
  | 0x108 => { s with hg := { h with dmpbase := v &&& 0xFFFFFFE00000 } }
  | 0x110 => { s with hg := { h with dmpsize := v &&& 0xFFFFF000 } }
  | 0x118 => { s with hg := { h with dmpnext := v &&& 0xFFFFF000 } }
  | _ =>
    if 0x080 ≤ off && off < 0x100 then
      { s with hg := { h with pquota := h.pquota.set ((off - 0x080) / 8) (v &&& 0x1FFFF) } }
    else s

/-- Flume registers (R272, R383, R385). -/
def State.writeFl (s : State) (off : Nat) (v : BitVec 64) : State :=
  match off with
  | 0x000 => { s with gx := { s.gx with rptol := v &&& 0xFFFFFFFF } }
  | 0x008 => { s with gx := { s.gx with svage := v &&& 0xFFFFFF } }
  | 0x010 => { s with gx := { s.gx with drop := v &&& 0xFFFFFFFF } }
  | 0x018 => { s with gx := { s.gx with pdrop := v &&& 0xFFFFFFFF } }
  | _ => if 0x400 ≤ off && off < 0xC00 then s.writeDom ((off - 0x400) / 8) v else s

/-- AZ_CLRPART (R375): ignored while a clear runs. -/
def State.writeClrpart (s : State) (v : BitVec 64) : State :=
  if s.link.clrpart.getLsbD 63 then s
  else
    let x := v &&& 0xFFFFFFFF0000
    { s with link := { s.link with clrpart := if v.getLsbD 0 then x ||| 0x8000000000000000 else x } }

/-- AZ_RETRAIN (R386). -/
def State.writeRetrain (s : State) (v : BitVec 64) : State :=
  if v.getLsbD 0 && s.link.stopped && !s.link.training then
    { s with link := { s.link with training := true, stopped := false } }
  else s

/-- Azair and cistern registers (R310, R375, R386). -/
def State.writeAz (s : State) (off : Nat) (v : BitVec 64) : State :=
  let l := s.link
  match off with
  | 0x08 => { s with link := { l with partid := v &&& 0xF } }
  | 0x10 => { s with link := { l with back := v &&& 0xFFFFFFE00000 } }
  | 0x18 => { s with link := { l with backn := v &&& 0xFFFFF } }
  | 0x20 => { s with link := { l with cisBase := v &&& 0xFFFFFFFFFFC0 } }
  | 0x28 => { s with link := { l with cisSlot := v &&& 0xFFFFFFFFC0 } }
  | 0x30 => { s with link := { l with cisPeriod := v &&& 0xFFFF } }
  | 0x38 => s.writeClrpart v
  | 0x48 => s.writeRetrain v
  | _ => s

/-- DH_CTL (R23): TRAIN starts training; EN set takes the timing and counts frames anew; EN cleared stops scan-out. Three points that R23
leaves open are the model's choice (assumption 65): LINK reads 0 from the write of TRAIN until training ends; a write of 1 to EN while EN
is 1 takes no timing and counts on, since R23 also says 'when EN is next set'; and SCAN falls in the step in which EN is cleared, not
at the end of the frame under way. -/
def Head.writeCtl (h : Head) (v : BitVec 64) : Head :=
  let was := (h.regs.getD 0 0).getLsbD 0
  let h := { h with training := h.training || v.getLsbD 1, regs := h.regs.set 0 (v &&& 0x71),
                    want := if v.getLsbD 1 then bitsNat v.toNat 6 4 else h.want }
  let h := if v.getLsbD 1 then { h with regs := h.regs.set 6 (h.regs.getD 6 0 &&& ~~~1) } else h
  if v.getLsbD 0 then
    if was then h
    else
      { h with latched := ((h.latched.set 3 (h.regs.getD 3 0)).set 4 (h.regs.getD 4 0)).set 5 (h.regs.getD 5 0),
               regs := h.regs.set 6 (h.regs.getD 6 0 &&& 1) }
  else { h with scanning := false }

/-- Registers of a head (R23). -/
def Head.write (h : Head) (off : Nat) (v : BitVec 64) : Head :=
  match off / 8 with
  | 0 => h.writeCtl v
  | 1 => { h with regs := h.regs.set 1 (v &&& 0xFFFFFFFFFF00) }
  | 2 => { h with regs := h.regs.set 2 (v &&& 0xFFFF0003) }
  | 3 => { h with regs := h.regs.set 3 v }
  | 4 => { h with regs := h.regs.set 4 v }
  | 5 => { h with regs := h.regs.set 5 (v &&& 0xFFFFFFFF) }
  | _ => h

/-- A head changed. -/
def State.mapHead (s : State) (n : Nat) (f : Head → Head) : State :=
  { s with gx := { s.gx with heads := s.gx.heads.zipIdx.map fun (h, i) => if i = n then f h else h } }

/-- PT_ROOT_n (R304): [47:13] and [0]. -/
def State.writePtroot (s : State) (n : Nat) (v : BitVec 64) : State :=
  { s with port := { s.port with ptroot := alSet n (v &&& 0xFFFFFFFFE001) s.port.ptroot } }

/-- A write to the register at an 8-byte aligned physical address, by master `who`, 0 for supervisor software at handler level
(R304, R305). -/
def State.regWrite64 (s : State) (who pa : Nat) (v : BitVec 64) : State :=
  match s.regPlace pa with
  | .mst 0 => s.writeOwn who v
  | p =>
    if !s.mayWrite who then s
    else
      match p with
      | .hg o => s.writeHg o v
      | .fl o => s.writeFl o v
      | .mst o =>
        if o = 8 then { s with port := { s.port with hand := v.toNat % 4 } } else if o = 0x40 then s.writeIrq v else s
      | .az o => s.writeAz o v
      | .lease => { s with gx := { s.gx with leaseRdc := v &&& 0xFFFFFFFF } }
      | .dh n o => s.mapHead n fun h => h.write o v
      | .ptroot n => s.writePtroot n v
      | .core d c n => s.csrPutUnit d c n v
      | .die d n => s.csrPutUnit d 0 n v
      | .none => s

end Sys2Proof.Machine
end

