-- ==== Sys2Proof/Machine/ValueFile.lean ====
section
/-! DEFINITION. The value-named vector file of a core and its reuse table (04 R80 to R88): how a result gets its entry, how entries are
counted and freed, and how the reuse table is looked up and filled. -/
namespace Sys2Proof.Machine

/-! ### Entries and their names (R80, R81) -/

def Core.ventry (k : Core) (n : Nat) : Option VEntry := k.vfile.find? fun e => e.name = n

/-- The 12-bit reference count of an entry (R81): the registers that map to it and the reuse entries that record it. An instruction reads
its sources in the step that issues it, so that none is in flight between steps (R88 lets it take several cycles; log entry 67). -/
def Core.refs (k : Core) (n : Nat) : Nat :=
  min 4095 ((k.vmap.filter fun h => h.name = some n).length + (k.reuse.filter fun e => e.name = some n).length)

/-- The i-th way in the order in which a value's entry is searched: buckets from its home bucket on, lowest way first (R80). -/
def vecPlace (x : Vec) (i : Nat) : Nat := (8 * Config.vecHash x + i) % 16384

/-- The live entry of the search set that a result joins: equal in all 256 bits, its count below 4,095 (R80). -/
def Core.joins (k : Core) (x : Vec) : Option Nat :=
  (List.range 32).findSome? fun i =>
    (k.ventry (vecPlace x i)).bind fun e => if e.val = x && k.refs e.name < 4095 then some e.name else none

/-- The first free way (R80). -/
def Core.freeName (k : Core) (x : Vec) : Option Nat :=
  (List.range 16384).findSome? fun i => if (k.ventry (vecPlace x i)).isNone then some (vecPlace x i) else none

/-- A result looked up: the entry it joins, else a free one that takes it (R80). -/
def Core.nameOf (k : Core) (x : Vec) : Option Nat × Core :=
  match k.joins x with
  | some n => (some n, k)
  | none =>
    match k.freeName x with
    | some n => (some n, { k with vfile := { name := n, val := x } :: k.vfile })
    | none => (none, k)

/-- The vector values of a strand, by allocation index: its registers, then the results of open windows. -/
def Strand.vectors (st : Strand) : List (Nat × Bool × Vec) :=
  (st.vregs.mapIdx fun j x => (j, false, x)) ++ st.pend.flatMap fun p =>
    if p.causes ≠ 0 then [] else p.writes.filterMap fun w => match w with | .v j x => some (j, true, x) | .s _ _ => none

/-- A core's registers being mapped anew: the holds of before that no register has taken over yet, and the tasks whose results have joined
a live entry (R322 source 6). -/
structure Naming where
  k : Core
  old : List VHold
  joined : List Nat

/-- One vector value of a strand: a register keeps its entry while it keeps its value, and takes over that of a window that has ended; every
other value is a result and is looked up (R80), that of the register `written` among them. A value that a register holds at its grant is no
result (R73), one reloaded at restore is (R83). -/
def Naming.value (st : Strand) (written : Option Nat) (reloaded : Bool) (r : Naming) (q : Nat × Bool × Vec) : Naming :=
  let (j, late, x) := q
  let mine (h : VHold) : Bool := h.slot = st.at_.slot && h.reg = j
  let keeps (h : VHold) : Bool := mine h && (h.late || !late) && (h.name.bind r.k.ventry).map VEntry.val = some x
  match if !late && written = some j then none else r.old.find? keeps with
  | some h => { r with k := { r.k with vmap := r.k.vmap ++ [{ h with late := late }] }, old := r.old.erase h }
  | none =>
    let all : Core := { r.k with vmap := r.old ++ r.k.vmap }
    let n := all.nameOf x
    { r with
      k := { r.k with vfile := n.2.vfile, vmap := r.k.vmap ++ [{ slot := st.at_.slot, reg := j, late := late, name := n.1 }] }
      joined := r.joined ++ if (reloaded || late || r.old.any mine) && (all.joins x).isSome then [st.task] else [] }

/-- The registers of a core's strands mapped to entries. -/
def Core.naming (k : Core) (sts : List Strand) (written : Option (SRef × Nat)) (reloaded : Bool) : Naming :=
  sts.foldl (fun r st =>
    let w := match written with | some (p, j) => if p = st.at_ then some j else none | none => none
    st.vectors.foldl (Naming.value st w reloaded) r) { k := { k with vmap := [] }, old := k.vmap, joined := [] }

/-- The results of reuse entries that have no entry yet, looked up in turn. -/
def Core.nameReuse (k : Core) (es : List ReuseEntry) : Core :=
  es.foldl (fun k e =>
    if e.name.isSome then k
    else
      let n := k.nameOf e.result
      { n.2 with reuse := n.2.reuse.map fun x => if x.key = e.key then { x with name := n.1 } else x }) k

/-- The name that a reuse entry has come by. -/
def Core.nameFor (k : Core) (e : ReuseEntry) : Option Nat := (k.reuse.find? fun x => x.key = e.key).bind ReuseEntry.name

/-- Every vector value of the device has its entry (R80, R81). `written` names a register that an instruction has just written. -/
def State.nameVectors (s : State) (written : Option (SRef × Nat)) (reloaded : Bool) : State :=
  let listed := s.cores.map Prod.fst
  let more := ((s.strands.map fun st => (st.at_.die, st.at_.core)).filter fun p => !listed.contains p).eraseDups
  let name (q : (Nat × Nat) × Core) : Naming :=
    q.2.naming (s.strands.filter fun st => (st.at_.die, st.at_.core) = q.1) written reloaded
  let all := s.cores ++ more.map fun p => (p, Core.reset)
  { s with
    cores := all.map fun q =>
      (q.1, { q.2 with
        vfile := ((name q).k.nameReuse q.2.reuse).vfile
        vmap := (name q).k.vmap
        reuse := q.2.reuse.map fun e => { e with name := ((name q).k.nameReuse q.2.reuse).nameFor e } })
    evBuf := s.evBuf ++ all.flatMap fun q => (name q).joined.map fun t =>
      { die := q.1.1, core := some q.1.2, src := 6, n := 1, who := s.who t } }

/-! ### Room in the file (R82, R87) -/

/-- Whether so many values may be held that entries can be short: fewer than 64 can be free only beyond 16,320 holders. -/
def Core.crowded (k : Core) : Bool := 16320 < k.vmap.length + k.reuse.length

/-- Reuse entries, least recently used first, without those whose result only the reuse table holds, until one entry of the file is free
(R87). -/
def releasePinned (held : List (Option Nat)) : List ReuseEntry → List ReuseEntry
  | [] => []
  | e :: r =>
    if e.name.isNone || held.contains e.name then e :: releasePinned held r
    else if r.any fun x => x.name = e.name then releasePinned held r
    else r

/-- With fewer than 64 entries free, entries that only the reuse table pins are released (R87). -/
def Core.releaseReuse (k : Core) : Core :=
  if k.crowded && 16384 < k.vfile.length + 64 then
    { k with reuse := (releasePinned (k.vmap.map VHold.name) k.reuse.reverse).reverse }
  else k

/-- The names that the key of a reuse entry rests on (R84). -/
def ReuseKey.names (q : ReuseKey) : List (Option Nat) := q.vsrc ++ match q.mask with | some (_, n) => [n] | none => []

/-- Entries whose count has fallen to zero are free from the next cycle (R81). A reuse entry whose key rests on such an entry could match
another value once its name is taken again: it is dropped (assumption 67). -/
def Core.freeEntries (k : Core) : Core :=
  let k := k.releaseReuse
  let live := k.vfile.filter fun e => k.refs e.name != 0
  { k with vfile := live, reuse := k.reuse.filter fun e => e.key.names.all fun n =>
      match n with | some n => live.any fun v => v.name = n | none => true }

/-- At the end of a cycle every value has its entry, and entries that nothing holds become free. -/
def State.settleVectors (s : State) : State :=
  let s := s.nameVectors none false
  { s with cores := s.cores.map fun q => (q.1, { q.2 with vfile := q.2.freeEntries.vfile, reuse := q.2.freeEntries.reuse }) }

/-- Whether a core has no free entry, so that its vector-writing instructions wait (R82). -/
def Core.fileFull (k : Core) : Bool := k.crowded && 16384 ≤ k.vfile.length

/-! ### The reuse table (R84, R85) -/

/-- The entry that a vector register of a strand maps to: none while it has no entry for the value it holds, else the name, which is none
for a name beyond the allocation. -/
def Core.vref (k : Core) (st : Strand) (r : BitVec 7) : Option (Option Nat) :=
  match st.vName r with
  | none => some none
  | some j =>
    match k.vmap.find? fun h => h.slot = st.at_.slot && h.reg = j && !h.late with
    | some h => if (h.name.bind k.ventry).map VEntry.val = some (st.v r) then some h.name else none
    | none => none

/-- The mask part of a key: under an MSK prefix the mask and the name of the destination's prior contents; none of the outer kind while the
destination has no entry. -/
def Core.maskRef (k : Core) (st : Strand) (mk : Option Msk) (d : BitVec 7) : Option (Option (BitVec 8 × Option Nat)) :=
  match mk with
  | none => some none
  | some _ => (k.vref st d).map fun n => some (st.mask mk, n)

/-- The set of a key. -/
def ReuseKey.set (q : ReuseKey) : Nat :=
  Config.reuseHash ([q.word.toNat, q.addr, q.rm.toNat, q.pdom, match q.imm with | some x => x.toNat + 1 | none => 0,
    match q.mask with | some (m, _) => m.toNat + 1 | none => 0] ++ q.psrc.map BitVec.toNat ++
    q.names.map fun n => match n with | some n => n + 1 | none => 0) % 512

/-- A new entry, the most recently used: it replaces one of the same key, else with eight in its set the least recently used of them
(R84, R85). -/
def enterReuse (l : List ReuseEntry) (e : ReuseEntry) : List ReuseEntry :=
  let rest := l.filter fun x => x.key != e.key
  let same := rest.filter fun x => x.set = e.set
  e :: if same.length < 8 then rest else match same.getLast? with | some v => rest.erase v | none => rest

/-- The entry becomes the most recently used. -/
def touchReuse (l : List ReuseEntry) (e : ReuseEntry) : List ReuseEntry := e :: l.erase e

/-- The live entry of a key (R85): a load entry lives until the lease of its lines ends (R86, R144). -/
def Core.reuseHit (k : Core) (now : Nat) (q : ReuseKey) : Option ReuseEntry :=
  k.reuse.find? fun e => e.key = q && match e.load with | some l => decide (now < l.expiry) | none => true

end Sys2Proof.Machine
end

