-- ==== Sys2Proof/Machine/Access.lean ====
section
/-! DEFINITION. How a strand's access is checked and performed: the address phase (20 R358, R363, R354), the data phase on
scratchpad, operand buffer, caches, homes, other dies and registers (06 R113 to R136; 07 R146, R153), and its end
(08 R160; 20 R359; 02 R40). -/
namespace Sys2Proof.Machine

/-! ### The register range -/

/-- n bytes of the register range as a strand of a level reads them, register by register (R304; assumption 15). -/
def State.regReadBytes (s : State) (level : Bool) (pa : Nat) : Nat → List Byte
  | 0 => []
  | n + 1 => BitVec.ofNat 8 ((s.regSeen level (pa / 8 * 8)).toNat / 2 ^ (8 * (pa % 8))) :: s.regReadBytes level (pa + 1) n

/-- A write to the register range, one register after another; bytes of a register that are not written keep what it reads
as (assumption 15). -/
def State.regWriteBytes (s : State) (who pa : Nat) (bs : List Byte) : Nat → State
  | 0 => s
  | n + 1 =>
    if bs.isEmpty then s
    else
      let off := pa % 8
      let old := natBytesLE 8 (s.regRead64 (pa - off)).toNat
      let new := old.take off ++ bs.take (8 - off) ++ old.drop (off + (bs.take (8 - off)).length)
      (s.regWrite64 who (pa - off) (BitVec.ofNat 64 (bytesNat new))).regWriteBytes who (pa - off + 8) (bs.drop (8 - off)) n

/-! ### The address phase -/

/-- What the check of one lane finds: its target, causes, a page whose walk has to be made, or a translation fault. -/
inductive LaneCheck where
  | ok (t : Target)
  | cause (c : BitVec 64)
  | walk
  | fault
  deriving DecidableEq, Repr

/-- How an access is checked. -/
inductive AccClass where
  | read | write | atomic
  deriving DecidableEq, Repr

/-- Permission causes of a leaf (R363). -/
def permCauses (l : Leaf) (a : AccClass) : BitVec 64 :=
  (if a != .write && !l.r then cPermR else 0) ||| (if a != .read && !l.w then cPermW else 0)

/-- Where an access to a translated address goes (R132, R135, R136). -/
def Leaf.target (l : Leaf) (pdom partid va : Nat) : Target :=
  let p := if l.poe then l.poid else partid
  match l.part (partOf va) with
  | .present => .phys (l.pa va) l.sg l.sbase p
  | .remote => if l.dra then .phys (2 ^ 48 + l.pa va) l.sg l.sbase p else .remote (l.pa va) l.sg l.sbase p pdom va
  | _ => .remote (l.pa va) l.sg l.sbase p pdom va

/-- The address check of one lane of an access of `size` bytes (R113, R114, R215, R363). -/
def State.checkLane (s : State) (st : Strand) (a : AccClass) (va size : Nat) : LaneCheck :=
  let mis := if va % size ≠ 0 then cMisalign else 0
  let give (ok : Bool) (t : Target) : LaneCheck :=
    let c := mis ||| if ok then 0 else cAddr
    if c = 0 then .ok t else .cause c
  match addrKind va with
  | .virt =>
    let page := pageOf va
    let leaf := s.tlbLeaf st.at_.die (some st.at_.core) st.pdom.toNat page
    (match leaf with
     | some l =>
       if s.usable l (partOf va) then
         let c := mis ||| permCauses l a
         if c = 0 then .ok (l.target st.pdom.toNat st.partid.toNat va) else .cause c
       else if s.pageFaulted st.at_.die st.pdom.toNat page then (if mis = 0 then .fault else .cause mis)
       else .walk
     | none =>
       if s.pageFaulted st.at_.die st.pdom.toNat page then (if mis = 0 then .fault else .cause mis) else .walk)
  | .cluster h off =>
    (match s.bundle? h with
     | some b =>
       let here := !b.evicted && b.die = st.at_.die && b.core / 4 = st.at_.core / 4
       give (a = .read && b.pdom = st.pdom && off + size ≤ 1024 * b.grant) (if here then .grant h off else .forward h off)
     | none => give false (.grant h off))
  | .scratch off =>
    (match s.bundleOf st with
     | some b => give (off + size ≤ 1024 * b.grant) (.grant b.handle off)
     | none => give false (.grant 0 off))
  | .opbuf off =>
    give (a != .atomic && ((s.core st.at_.die st.at_.core).tileAt st.pdom.toNat off).isSome) (.opbuf off)
  | .bad => give false (.grant 0 0)

/-- What the address phase of an instruction comes to (R354, R358). -/
inductive Phase where
  | ready (targets : List Target)
  | causes (c : BitVec 64) (va : Nat)
  | walk (va : Nat)
  | fault (va : Nat)
  deriving DecidableEq, Repr

/-- The address phase over the lanes given as (address, size): every lane whose page is unknown is walked first; then every
lane contributes its causes, and a translation fault counts only when there are none (R354). -/
def State.addrPhase (s : State) (st : Strand) (a : AccClass) (lanes : List (Nat × Nat)) : Phase :=
  let cs := lanes.map fun (va, n) => (va, s.checkLane st a va n)
  match cs.find? fun x => x.2 = .walk with
  | some (va, _) => .walk va
  | none =>
    let bad := cs.filterMap fun (va, c) => match c with | .cause c => some (va, c) | _ => none
    match bad with
    | (va, _) :: _ => .causes (bad.foldl (fun c x => c ||| x.2) 0) va
    | [] =>
      match cs.find? fun x => x.2 = .fault with
      | some (va, _) => .fault va
      | none => .ready (cs.filterMap fun (_, c) => match c with | .ok t => some t | _ => none)

/-- The strand waits for a walk, joins a faulted page, or takes its causes: an instruction whose address phase fails has no
effect (R342, R347). `acc` is the access code of R368. -/
def State.addrFail (s : State) (st : Strand) (acc : Nat) (p : Phase) : State :=
  match p with
  | .causes c va => s.raise st c (BitVec.ofNat 64 va)
  | .walk va | .fault va => s.mergeMiss st acc va
  | .ready _ => s

/-- The TLB entries an access uses enter the core's L1 TLB (R133). -/
def State.tlbUseAll (s : State) (st : Strand) (lanes : List (Nat × Nat)) : State :=
  lanes.foldl (fun s (va, _) =>
    if addrKind va = .virt then s.tlbUse st.at_.die st.at_.core st.pdom.toNat (pageOf va) else s) s

/-! ### The data phase -/

/-- f of R220 at width n bytes; none for a compare that fails. `new` is the new value of CAS. -/
def atomicNew (op n old x new : Nat) : Option Nat :=
  let w := 8 * n
  let so : Int := (BitVec.ofNat w old).toInt
  let sx : Int := (BitVec.ofNat w x).toInt
  match op with
  | 0 => some ((old + x) % 2 ^ w)
  | 1 => some (if so ≤ sx then old else x)
  | 2 => some (if so ≤ sx then x else old)
  | 3 => some (min old x)
  | 4 => some (max old x)
  | 5 => some (old &&& x)
  | 6 => some (old ||| x)
  | 7 => some (old ^^^ x)
  | 8 | 10 => some x
  | _ => if old = x then some new else none

/-- How far a lane has got. -/
inductive LaneStep where
  | done (s : State) (l : Lane)
  | wait (s : State)
  | retry

/-- A read request to another die for a lane (R149), unless one is on its way. An atomic's operation packet kills the load entries of
its region as it issues (R86). -/
def State.askAtom (s : State) (st : Strand) (k pa : Nat) (l : Lane) (kind : AccKind) (atomic : Bool) : State :=
  if s.xreads.any fun r => r.strand = st.at_ && r.lane = l.n && r.pa = pa && r.atomic = atomic then s
  else
    let d := st.at_.die
    let s := { s with nextId := s.nextId + 1, xreads := s.xreads ++
      [{ id := s.nextId, src := d, dst := k, pa := pa, row := s.row d k, strand := st.at_, lane := l.n, atomic := atomic,
         kind := kind, size := l.size, wdata := l.wdata, noL1 := false, noRdc := false }] }
    if atomic then
      let k := s.core d st.at_.core
      let k' := k.killRegion pa
      ((s.noteCache d (some st.at_.core) 10 (k.reuse.length - k'.reuse.length) (s.who st.task)).setCore d st.at_.core k').addOutstanding d
        (some st.at_.core) (· + 1)
    else s

/-- The access waits for a part move (R135): it joins the request of the part, or makes the first. -/
def State.awaitPart (s : State) (r : SRef) (pdom va : Nat) : State :=
  let page := pageOf va
  let k := partOf va
  let add (m : PartMove) : PartMove := { m with waiters := if m.waiters.contains r then m.waiters else m.waiters ++ [r] }
  let same (m : PartMove) : Bool := m.pdom = pdom && m.page = page && m.part = k && !m.out && !m.written
  let moves :=
    if s.link.moves.any same then s.link.moves.map fun m => if same m then add m else m
    else s.link.moves ++
      [{ pdom := pdom, page := page, part := k, out := false, requested := false, waiters := [r], claims := [], units := [],
         since := s.timePs, written := false }]
  { s with link := { s.link with moves := moves } }

/-- The access for which a strand had a claim on a part has been made (R135). -/
def State.unclaim (s : State) (r : SRef) : State :=
  { s with link := { s.link with moves := s.link.moves.map fun m => { m with claims := m.claims.filter (· != r) } } }

/-- A load of a bundle that does not stand in the loader's cluster, once the Headgate forwards it (R114): its value and its mark. -/
def State.forwarded (s : State) (h off n : Nat) : UnitRes (Nat × Nat) :=
  match s.bundle? h with
  | some b =>
    (match s.grantBytesAt b off n with
     | .ok s bs => .ok s (bytesNat bs, (s.readGrant h off n).2)
     | .wait s => .wait s
     | .fail s => .fail s)
  | none => .ok s (0, 0)

/-- The data phase of one lane. -/
def State.doLane (s : State) (st : Strand) (op : MemOp) (l : Lane) : LaneStep :=
  let d := st.at_.die
  let c := st.at_.core
  let k := s.core d c
  let fin (s : State) (x mark : Nat) : LaneStep := .done s { l with done := true, rdata := x, mark := mark }
  -- an atomic on bytes at hand: the write function, and the old value with its mark
  let rmw (s : State) (old mark : Nat) (w : State → List Byte → State) : LaneStep :=
    match op.kind with
    | .atomic o new =>
      (match if mark = 0 then atomicNew o l.size old l.wdata new else none with
       | some x => fin (w s (natBytesLE l.size x)) old mark
       | none => fin s old mark)
    | _ => fin s old mark
  match l.tgt with
  | .grant h off =>
    (match op.kind with
     | .load => let (x, m) := s.readGrant h off l.size; fin s x m
     | .store => fin (s.writeGrant h off (natBytesLE l.size l.wdata)) 0 0
     | .atomic _ _ => let (x, m) := s.readGrant h off l.size; rmw s x m fun s b => s.writeGrant h off b)
  | .forward h off =>
    if st.blocked.isNone then .wait s
    else (match s.forwarded h off l.size with
      | .ok s (x, m) => fin s x m
      | .wait s | .fail s => .wait s)
  | .opbuf off =>
    (match k.tileAt st.pdom.toNat off with
     | some t =>
       if t.state ≠ 2 && !(t.state = 3 && st.blocked.isSome) then .retry
       else
         (match op.kind with
          | .store => fin (s.writeOpbuf d c off (natBytesLE l.size l.wdata)) 0 0
          | _ => let (x, m) := k.readOpbuf off l.size; fin s x m)
     | none => .retry)
  | .remote _ _ _ _ pdom va => .wait (s.awaitPart st.at_ pdom va)
  | .phys pa g b p =>
    match homeOf pa with
    | .regs =>
      (match op.kind with
       | .load => fin { s with free := s.free + 8 } (bytesNat (s.regReadBytes st.level pa l.size)) 0
       | .store =>
         fin (if st.level then s.regWriteBytes 0 pa (natBytesLE l.size l.wdata) (l.size / 8 + 2) else s) 0 0
       | .atomic _ _ => rmw { s with free := s.free + 8 } (bytesNat (s.regReadBytes st.level pa l.size)) 0 fun s x =>
           if st.level then s.regWriteBytes 0 pa x (l.size / 8 + 2) else s)
    | home =>
      let off := pa % 32
      let pl : L2Place := { group := g, base := b, partid := p, hint := op.hint }
      (match op.kind with
       | .load =>
         (match s.lookAtom d (some c) (pa / 32) with
          | some (v, m) => fin (s.noteRead d (some c) pa pl v m) (getBytes v off l.size) m
          | none => (match home with | .dram j => .wait (s.askAtom st j pa l op.kind false) | _ => .retry))
       | .store =>
         if s.linkFull d pa then .retry
         else fin (s.writeAtom d (some c) pa (natBytesLE l.size l.wdata) op.strong (some pl)) 0 0
       | .atomic _ _ =>
         let write (s : State) (x : List Byte) : State := s.writeAtom d (some c) pa x op.strong (some pl)
         -- .b takes the bytes the core's L1 holds, every other scope those at the home; host memory takes .b as .s (R146)
         (match home with
          | .dram j =>
            if j = 3 || (j ≠ d && op.scope ≠ 0) then .wait (s.askAtom st j pa l op.kind true)
            else if op.scope ≠ 0 then
              rmw s (getBytes (s.atomData (pa / 32)) off l.size) (s.atomMark (pa / 32)) write
            else if s.linkFull d pa then .retry
            else
              (match s.lookAtom d (some c) (pa / 32) with
               | some (v, m) => rmw (s.noteRead d (some c) pa pl v m) (getBytes v off l.size) m write
               | none => .wait (s.askAtom st j pa l op.kind false))
          | _ => rmw s (getBytes (s.atomData (pa / 32)) off l.size) (s.atomMark (pa / 32)) write))

/-- How far an access has got: the state, the lanes, and whether any waits or has to issue again. -/
structure Progress where
  s : State
  lanes : List Lane
  waits : Bool
  again : Bool

/-- One lane, unless it is done. -/
def Progress.lane (st : Strand) (op : MemOp) (r : Progress) (l : Lane) : Progress :=
  if l.done then { r with lanes := r.lanes ++ [l] }
  else
    match r.s.doLane st op l with
    | .done s l => { r with s := s, lanes := r.lanes ++ [l] }
    | .wait s => { r with s := s, lanes := r.lanes ++ [l], waits := true }
    | .retry => { r with lanes := r.lanes ++ [l], again := true }

/-- Every lane not yet done, in ascending order (R218). -/
def State.doLanes (s : State) (st : Strand) (op : MemOp) : Progress :=
  op.lanes.foldl (Progress.lane st op) { s := s, lanes := [], waits := false, again := false }

/-! ### The end of an access -/

/-- The acquire that a strong load or atomic is (R139, R153). A strong CAS whose compare fails is an acquire too (R220). -/
def State.acquireOf (s : State) (st : Strand) (op : MemOp) : State :=
  if op.strong && op.kind != .store then s.acquire st.at_.die st.at_.core op.scope (st.bundle.map Prod.fst) st.at_ else s

/-- The register writes of a finished access: 4 × lane number is the place of a lane's bytes in a vector (R217). -/
def MemDest.writes (d : MemDest) (lanes : List Lane) : List RegWrite :=
  let x := match lanes with | l :: _ => l.rdata | [] => 0
  match d with
  | .none => []
  | .scalar i => (i.map fun i => RegWrite.s i (BitVec.ofNat 32 x)).toList
  | .pair lo hi =>
    (lo.map fun i => RegWrite.s i (BitVec.ofNat 32 x)).toList ++ (hi.map fun i => RegWrite.s i (BitVec.ofNat 32 (x / 2 ^ 32))).toList
  | .lanes i base => (i.map fun i => RegWrite.v i (lanes.foldl (fun v l => setBytes v (4 * l.n) (natBytesLE l.size l.rdata)) base)).toList
  | .low i => (i.map fun i => RegWrite.v i (BitVec.ofNat 256 x)).toList

/-- The window entry of a finished access: what it writes, or the causes its data brought, with the address of the lowest
such lane (R359). -/
def MemOp.pend (op : MemOp) : Pend :=
  let bad := op.lanes.filter fun l => l.mark != 0 && op.kind != .store
  { writes := op.dest.writes op.lanes, left := 0, arrived := false, flags := 0,
    causes := bad.foldl (fun c l => c ||| markCause l.mark) 0,
    tval := match bad with | l :: _ => BitVec.ofNat 64 l.va | [] => 0 }

/-- The cycle until which the bytes of a finished load serve the reuse table: the lease of its line in the L1, else, under the no-allocate
hint, one that starts now; none where an invalidation has met the fill (R86, R144, R154). -/
def Core.loadExpiry (k : Core) (now hint atom : Nat) : Option Nat :=
  match findSector k.l1 atom now with
  | some x => some x.expiry
  | none => if hint = 3 then some (now + k.lease) else none

/-- The atom that a lane of device or host memory has read. -/
def Lane.atom? (l : Lane) : Option Nat :=
  match l.tgt with
  | .phys pa _ _ _ => if homeOf pa != .regs && l.mark = 0 then some (pa / 32) else none
  | _ => none

/-- A weak LDV that has not matched enters the reuse table with its result (R84, R85). Only loads of device and host memory with good data
do: nothing of R86 kills an entry of the register range or of another bundle's grant (assumption 67). -/
def State.noteLoad (s : State) (st : Strand) (op : MemOp) : State :=
  match op.key, op.dest with
  | some q, .lanes _ base =>
    let k := s.core st.at_.die st.at_.core
    let atoms := op.lanes.filterMap Lane.atom?
    let ends := atoms.filterMap (k.loadExpiry s.cycle op.hint)
    if atoms.length < op.lanes.length || ends.length < atoms.length then s
    else
      let l : ReuseLoad :=
        { atoms := atoms.eraseDups, pages := (op.lanes.map fun l => pageOf l.va).eraseDups,
          expiry := ends.foldl min (s.cycle + k.lease), bundle := st.bundle.map Prod.fst, maker := st.at_ }
      let e : ReuseEntry :=
        { set := q.set, key := q, result := op.lanes.foldl (fun v l => setBytes v (4 * l.n) (natBytesLE l.size l.rdata)) base,
          name := none, flags := 0, load := some l }
      s.setCore st.at_.die st.at_.core { k with reuse := enterReuse k.reuse e }
  | _, _ => s

/-- An access whose lanes are all done retires its instruction. A load that waited stood at a blocking point, so its own
window is closed (R42, assumption 22). -/
def State.finishOp (s : State) (st : Strand) (len : Nat) (op : MemOp) (waited : Bool) : State :=
  let s := (s.acquireOf st op).noteLoad st op
  let st := s.seen st
  if op.kind = .store then s.putStrand (st.retire s.cycle len)
  else s.putStrand (st.retireLong s.cycle len (if waited then 0 else op.la) op.pend)

/-- A strand's access goes on: it ends, or the strand stands at the blocking point of R40; where a tile is not ready or the
memory pipe is full nothing is done yet and the instruction issues again (R215, R150). -/
def State.advanceOp (s : State) (st : Strand) (len : Nat) (op : MemOp) (waited : Bool) : State :=
  let r := s.doLanes st op
  let op := { op with lanes := r.lanes }
  if r.again then s.putStrand (st.block s.cycle 0 false .retry)
  else if r.waits then r.s.putStrand ((r.s.seen st).block s.cycle len true (.access op))
  else r.s.finishOp st len op waited

/-- An access that waits goes on for the strand in a slot, when an event has moved it. -/
def State.pokeAccess (s : State) (r : SRef) : State :=
  match s.strandAt r with
  | some st =>
    (match st.blocked with
     | some b => (match b.wait with
       | .access op =>
         let p := s.doLanes st op
         let op := { op with lanes := p.lanes }
         if p.waits || p.again then p.s.putStrand { p.s.seen st with blocked := some { b with wait := .access op } }
         else p.s.finishOp st b.len op true
       | _ => s)
     | none => s)
  | none => s

/-- Whether an access waits for something that no event brings: a forwarded load, or a write that finds the link full (R114, R150). -/
def State.stuckLane (s : State) (st : Strand) : Bool :=
  match st.blocked with
  | some b =>
    (match b.wait with
     | .access op => op.lanes.any fun l => !l.done &&
         (match l.tgt with | .remote .. => false | _ => !s.xreads.any fun r => r.strand = st.at_ && r.lane = l.n)
     | _ => false)
  | none => false

/-- Accesses that wait so go on at the end of a cycle. -/
def State.pokeStuck (s : State) : State :=
  (s.strands.filter s.stuckLane).foldl (fun s st => s.pokeAccess st.at_) s

/-- A memory instruction as its strand issues it: the lanes (number, address, size, data), the kind, and the rest of the
operation. -/
structure MemReq where
  kind : AccKind
  cls : AccClass
  lanes : List (Nat × Nat × Nat × Nat)
  strong : Bool
  scope : Nat
  hint : Nat
  la : Nat
  dest : MemDest
  key : Option ReuseKey
  deriving DecidableEq, Repr

def MemReq.op (q : MemReq) (ts : List Target) : MemOp :=
  { kind := q.kind, strong := q.strong, scope := q.scope, hint := q.hint, la := q.la, dest := q.dest, key := q.key,
    lanes := (q.lanes.zip ts).map fun ((n, va, size, w), t) =>
      { n := n, va := va, size := size, tgt := t, wdata := w, done := false, rdata := 0, mark := 0 } }

/-- Whether a release of a scope by a strand of a core has to wait: for .v and .s, until the core's acknowledgement counter
is zero (R153, R151). -/
def State.mustDrain (s : State) (st : Strand) (strong : Bool) (scope : Nat) : Bool :=
  strong && 2 ≤ scope && (s.core st.at_.die st.at_.core).outstanding != 0

/-- One issue of a memory instruction (R358): the address phase, the release a strong store or atomic is, the acquire a
strong load or atomic is, and the data phase. -/
def State.tryMem (s : State) (st : Strand) (len : Nat) (q : MemReq) : State :=
  let lanes := q.lanes.map fun (_, va, size, _) => (va, size)
  match s.addrPhase st q.cls lanes with
  | .ready ts =>
    if q.kind != .load && s.mustDrain st q.strong q.scope then s.putStrand (st.block s.cycle 0 false .retry)
    else
      let op := q.op ts
      ((s.tlbUseAll st lanes).acquireOf st op).advanceOp st len op false
  | p => s.addrFail st (match q.cls with | .read => 0 | .write => 1 | .atomic => 3) p

/-- A memory instruction; when it turns out to be a blocking point, its windows close and it reads the new values (R42). -/
def State.issueMem (s : State) (len : Nat) (f : Strand → MemReq) : Host.Outcome State Fault Refusal :=
  s.onStrand fun st =>
    let r := s.tryMem st len (f st)
    match (r.strandAt st.at_).bind Strand.blocked with
    | some b =>
      (match b.wait with
       | .access _ => if st.windowOpen then (s.putStrand st.closeWindows).tryMem st.closeWindows len (f st.closeWindows) else r
       | _ => r)
    | none => r

end Sys2Proof.Machine
end

