-- ==== Sys2Proof/Machine/MemInstr.lean ====
section
/-! DEFINITION. Loads, stores, gathers, scatters, prefetch, atomics, fences and watches (11 R216 to R223; 20 R363, R364). -/
namespace Sys2Proof.Machine

/-- Bytes of SIZE in LDS and STS, LDV and STV (R216, R217). -/
def scalarSize (z : BitVec 2) : Nat := 2 ^ z.toNat
def vectorSize (z : BitVec 2) : Nat := 32 / 2 ^ z.toNat

/-- A request with the fields ORDER, SCOPE and HINT of m (R158). -/
def memReq (kind : AccKind) (cls : AccClass) (lanes : List (Nat × Nat × Nat × Nat)) (q : BitVec 1) (c h : BitVec 2)
    (l : Nat) (dest : MemDest) : MemReq :=
  { kind := kind, cls := cls, lanes := lanes, strong := q = 1, scope := c.toNat, hint := h.toNat, la := l, dest := dest, key := none }

/-- LDS (R216). -/
def execLds (x : Option (BitVec 25)) (l : BitVec 4) (d a : BitVec 7) (z : BitVec 2) (q : BitVec 1) (c h : BitVec 2) (s : State) :
    Host.Outcome State Fault Refusal :=
  s.issueMem (len1 x) fun st =>
    memReq .load .read [(0, (st.ea a x).toNat, scalarSize z, 0)] q c h l.toNat
      (if z = 3 then .pair (st.sName d) (st.sIdx (d.toNat + 1)) else .scalar (st.sName d))

/-- STS (R216). -/
def execSts (x : Option (BitVec 25)) (d a : BitVec 7) (z : BitVec 2) (q : BitVec 1) (c h : BitVec 2) (s : State) :
    Host.Outcome State Fault Refusal :=
  s.issueMem (len1 x) fun st =>
    memReq .store .write
      [(0, (st.ea a x).toNat, scalarSize z, if z = 3 then (st.pair d).toNat else (st.s d).toNat % 2 ^ (8 * scalarSize z))]
      q c h 0 .none

/-- The lanes of an LDV or STV that access memory: one access when there is no mask, else each active lane within n (R217). -/
def Strand.vectorLanes (st : Strand) (mk : Option Msk) (x : Option (BitVec 25)) (a : BitVec 7) (n : Nat) (data : Vec) :
    List (Nat × Nat × Nat × Nat) :=
  let ea := st.ea a x
  match mk with
  | none => [(0, ea.toNat, n, data.toNat % 2 ^ (8 * n))]
  | some _ =>
    (List.range 8).filterMap fun i =>
      if (st.mask mk).getLsbD i && 4 * i < n then
        some (i, (ea + BitVec.ofNat 57 (4 * i)).toNat, 4, (lane data i).toNat)
      else none

/-- The prior contents of a load's destination: active lanes zero, inactive lanes kept (R217). -/
def Strand.loadBase (st : Strand) (mk : Option Msk) (d : BitVec 7) : Vec := mergeLanes (st.mask mk) (st.v d) 0

/-- The request of an LDV (R217). -/
def ldvReq (mk : Option Msk) (x : Option (BitVec 25)) (l : BitVec 4) (d a : BitVec 7) (z : BitVec 2) (q : BitVec 1)
    (c h : BitVec 2) (st : Strand) : MemReq :=
  memReq .load .read (st.vectorLanes mk x a (vectorSize z) 0) q c h l.toNat (.lanes (st.vName d) (st.loadBase mk d))

/-- The field m of an M-format load (R158). -/
def mField (z : BitVec 2) (q : BitVec 1) (c h : BitVec 2) : BitVec 7 := z ++ q ++ c ++ h

/-- The key under which a weak LDV is looked up (R84): one at an address outside the scratchpad and operand-buffer apertures. -/
def State.ldvKey (s : State) (mk : Option Msk) (x : Option (BitVec 25)) (d a : BitVec 7) (m : BitVec 7) (st : Strand) : Option ReuseKey :=
  let va := (st.ea a x).toNat
  if m.getLsbD 4 || addrKind va != .virt then none
  else
    ((s.core st.at_.die st.at_.core).maskRef st mk d).map fun mask =>
      { word := BitVec.ofNat 32 (0x41 * 2 ^ 25 + m.toNat), imm := none, rm := 0, addr := va, vsrc := [], psrc := [], mask := mask,
        pdom := st.pdom.toNat }

/-- A load entry matched: it is the most recently used now, and the match is counted (R85, R322). -/
def State.useReuse (s : State) (st : Strand) (e : ReuseEntry) : State :=
  let k := s.core st.at_.die st.at_.core
  (s.note st.at_.die (some st.at_.core) 5 1 st.task).setCore st.at_.die st.at_.core { k with reuse := touchReuse k.reuse e }

/-- LDV (R217). A weak LDV that matches a load entry retires with the entry's result and raises no
cause (R85, R363); one whose lanes are all inactive accesses nothing. -/
def execLdv (mk : Option Msk) (x : Option (BitVec 25)) (l : BitVec 4) (d a : BitVec 7) (z : BitVec 2) (q : BitVec 1)
    (c h : BitVec 2) (s : State) : Host.Outcome State Fault Refusal :=
  let len := lenOf mk x
  let key := s.ldvKey mk x d a (mField z q c h)
  match s.curStrand with
  | none => .fault .noStrand
  | some st =>
    match (key st).bind ((s.core st.at_.die st.at_.core).reuseHit s.cycle) with
    | some e => .next ((s.useReuse st e).putStrand (st.retireLong s.cycle len l.toNat (pendV (st.vName d) e.result 0)))
    | none => s.issueMem len fun st => { ldvReq mk x l d a z q c h st with key := key st }

/-- STV (R217): a strong one whose mask leaves no lane active still performs its release. -/
def execStv (mk : Option Msk) (x : Option (BitVec 25)) (d a : BitVec 7) (z : BitVec 2) (q : BitVec 1) (c h : BitVec 2)
    (s : State) : Host.Outcome State Fault Refusal :=
  s.issueMem (lenOf mk x) fun st =>
    memReq .store .write (st.vectorLanes mk x a (vectorSize z) (st.v d)) q c h 0 .none

/-- The lanes of a gather or scatter of n-byte elements, ascending (R218). -/
def Strand.gatherLanes (st : Strand) (mk : Option Msk) (a b : BitVec 7) (n : Nat) (data : Vec) : List (Nat × Nat × Nat × Nat) :=
  (List.range 8).filterMap fun i =>
    if (st.mask mk).getLsbD i then some (i, (st.laneAddr a b i).toNat, n, (lane data i).toNat % 2 ^ (8 * n)) else none

/-- LDG: m comes from the IMM prefix (R162, R218). -/
def execLdg (mk : Option Msk) (x : Option (BitVec 25)) (l : BitVec 4) (d a b : BitVec 7) (s : State) :
    Host.Outcome State Fault Refusal :=
  let m := gatherM x
  s.issueMem (lenOf mk x) fun st =>
    memReq .load .read (st.gatherLanes mk a b (scalarSize (m.extractLsb' 5 2)) 0) (m.extractLsb' 4 1) (m.extractLsb' 2 2)
      (m.extractLsb' 0 2) l.toNat (.lanes (st.vName d) (st.loadBase mk d))

/-- STG (R218). -/
def execStg (mk : Option Msk) (x : Option (BitVec 25)) (d a b : BitVec 7) (s : State) : Host.Outcome State Fault Refusal :=
  let m := gatherM x
  s.issueMem (lenOf mk x) fun st =>
    memReq .store .write (st.gatherLanes mk a b (scalarSize (m.extractLsb' 5 2)) (st.v d)) (m.extractLsb' 4 1)
      (m.extractLsb' 2 2) (m.extractLsb' 0 2) 0 .none

/-- The leaf a request that raises nothing looks at: the TLBs', else a walk's, which then enters the L2 TLB. -/
def State.peekLeaf (s : State) (st : Strand) (va : Nat) : Option Leaf × State :=
  let page := pageOf va
  match s.tlbLeaf st.at_.die (some st.at_.core) st.pdom.toNat page with
  | some l => (some l, s)
  | none =>
    match s.walk st.pdom.toNat page (partOf va) with
    | .ok l => (some l, s.tlbFill st.at_.die st.pdom.toNat page l)
    | .error _ => (none, s)

/-- The sectors of the 128-byte line of a physical address filled where the bytes can be had at once. -/
def State.fillLine (s : State) (st : Strand) (pa : Nat) (pl : L2Place) (l1 : Bool) : State :=
  (List.range 4).foldl (fun s j =>
    let p := pa / 128 * 128 + 32 * j
    match s.unitAtom st.at_.die (if l1 then some st.at_.core else none) p pl with
    | some (_, _, s) => s
    | none => s) s

/-- PREF: requests the line; it changes no register or memory value and raises nothing (R219, R363). A line of a part that is remote
without DRA is not requested, and its part does not move: the spec does not say whether PREF is an access of R135 (assumption 68). -/
def execPref (x : Option (BitVec 25)) (a : BitVec 7) (h : BitVec 2) (s : State) : Host.Outcome State Fault Refusal :=
  s.onStrand fun st =>
    let va := (st.ea a x).toNat
    let s' :=
      if addrKind va ≠ .virt then s
      else
        match s.peekLeaf st va with
        | (some l, s) =>
          (match l.target st.pdom.toNat st.partid.toNat va with
           | .phys pa g b p =>
             if s.usable l (partOf va) && homeOf pa ≠ .regs then
               s.fillLine st pa { group := g, base := b, partid := p, hint := h.toNat } (h != 3)
             else s
           | _ => s)
        | (none, s) => s
    s'.putStrand (st.retire s.cycle (len1 x))

/-- The operand and the new value of a scalar atomic: CAS takes a pair (R220). -/
def atomScalar (op : Nat) (x : Option (BitVec 25)) (l : BitVec 4) (d a : BitVec 7) (q : BitVec 1) (c : BitVec 2) (s : State) :
    Host.Outcome State Fault Refusal :=
  s.issueMem (len1 x) fun st =>
    memReq (.atomic op (st.sNext d).toNat) .atomic [(0, (st.ea a x).toNat, 4, (st.s d).toNat)] q c 0 l.toNat (.scalar (st.sName d))

/-- A vector atomic on n bytes of v[d]; CAS takes its new value above the compare value (R221). -/
def atomVector (op n : Nat) (x : Option (BitVec 25)) (l : BitVec 4) (d a : BitVec 7) (q : BitVec 1) (c : BitVec 2) (s : State) :
    Host.Outcome State Fault Refusal :=
  s.issueMem (len1 x) fun st =>
    memReq (.atomic op (getBytes (st.v d) n n)) .atomic [(0, (st.ea a x).toNat, n, getBytes (st.v d) 0 n)] q c 0 l.toNat
      (.low (st.vName d))

/-- ATOM operation 0 (R220). -/
def execAtomAdd (x : Option (BitVec 25)) (l : BitVec 4) (d a : BitVec 7) (q : BitVec 1) (c : BitVec 2) (s : State) :
    Host.Outcome State Fault Refusal := atomScalar 0 x l d a q c s

/-- ATOM operation 1 (R220). -/
def execAtomMin (x : Option (BitVec 25)) (l : BitVec 4) (d a : BitVec 7) (q : BitVec 1) (c : BitVec 2) (s : State) :
    Host.Outcome State Fault Refusal := atomScalar 1 x l d a q c s

/-- ATOM operation 2 (R220). -/
def execAtomMax (x : Option (BitVec 25)) (l : BitVec 4) (d a : BitVec 7) (q : BitVec 1) (c : BitVec 2) (s : State) :
    Host.Outcome State Fault Refusal := atomScalar 2 x l d a q c s

/-- ATOM operation 3 (R220). -/
def execAtomMinu (x : Option (BitVec 25)) (l : BitVec 4) (d a : BitVec 7) (q : BitVec 1) (c : BitVec 2) (s : State) :
    Host.Outcome State Fault Refusal := atomScalar 3 x l d a q c s

/-- ATOM operation 4 (R220). -/
def execAtomMaxu (x : Option (BitVec 25)) (l : BitVec 4) (d a : BitVec 7) (q : BitVec 1) (c : BitVec 2) (s : State) :
    Host.Outcome State Fault Refusal := atomScalar 4 x l d a q c s

/-- ATOM operation 5 (R220). -/
def execAtomAnd (x : Option (BitVec 25)) (l : BitVec 4) (d a : BitVec 7) (q : BitVec 1) (c : BitVec 2) (s : State) :
    Host.Outcome State Fault Refusal := atomScalar 5 x l d a q c s

/-- ATOM operation 6 (R220). -/
def execAtomOr (x : Option (BitVec 25)) (l : BitVec 4) (d a : BitVec 7) (q : BitVec 1) (c : BitVec 2) (s : State) :
    Host.Outcome State Fault Refusal := atomScalar 6 x l d a q c s

/-- ATOM operation 7 (R220). -/
def execAtomXor (x : Option (BitVec 25)) (l : BitVec 4) (d a : BitVec 7) (q : BitVec 1) (c : BitVec 2) (s : State) :
    Host.Outcome State Fault Refusal := atomScalar 7 x l d a q c s

/-- ATOM operation 8 (R220). -/
def execAtomXchg (x : Option (BitVec 25)) (l : BitVec 4) (d a : BitVec 7) (q : BitVec 1) (c : BitVec 2) (s : State) :
    Host.Outcome State Fault Refusal := atomScalar 8 x l d a q c s

/-- ATOM operation 9 (R220). -/
def execAtomCas (x : Option (BitVec 25)) (l : BitVec 4) (d a : BitVec 7) (q : BitVec 1) (c : BitVec 2) (s : State) :
    Host.Outcome State Fault Refusal := atomScalar 9 x l d a q c s

/-- ATOMV operation 0, 64 bits (R221). -/
def execAtomvAdd (x : Option (BitVec 25)) (l : BitVec 4) (d a : BitVec 7) (q : BitVec 1) (c : BitVec 2) (s : State) :
    Host.Outcome State Fault Refusal := atomVector 0 8 x l d a q c s

/-- ATOMV operation 1, 64 bits (R221). -/
def execAtomvMin (x : Option (BitVec 25)) (l : BitVec 4) (d a : BitVec 7) (q : BitVec 1) (c : BitVec 2) (s : State) :
    Host.Outcome State Fault Refusal := atomVector 1 8 x l d a q c s

/-- ATOMV operation 2, 64 bits (R221). -/
def execAtomvMax (x : Option (BitVec 25)) (l : BitVec 4) (d a : BitVec 7) (q : BitVec 1) (c : BitVec 2) (s : State) :
    Host.Outcome State Fault Refusal := atomVector 2 8 x l d a q c s

/-- ATOMV operation 3, 64 bits (R221). -/
def execAtomvMinu (x : Option (BitVec 25)) (l : BitVec 4) (d a : BitVec 7) (q : BitVec 1) (c : BitVec 2) (s : State) :
    Host.Outcome State Fault Refusal := atomVector 3 8 x l d a q c s

/-- ATOMV operation 4, 64 bits (R221). -/
def execAtomvMaxu (x : Option (BitVec 25)) (l : BitVec 4) (d a : BitVec 7) (q : BitVec 1) (c : BitVec 2) (s : State) :
    Host.Outcome State Fault Refusal := atomVector 4 8 x l d a q c s

/-- ATOMV operation 5, 64 bits (R221). -/
def execAtomvAnd (x : Option (BitVec 25)) (l : BitVec 4) (d a : BitVec 7) (q : BitVec 1) (c : BitVec 2) (s : State) :
    Host.Outcome State Fault Refusal := atomVector 5 8 x l d a q c s

/-- ATOMV operation 6, 64 bits (R221). -/
def execAtomvOr (x : Option (BitVec 25)) (l : BitVec 4) (d a : BitVec 7) (q : BitVec 1) (c : BitVec 2) (s : State) :
    Host.Outcome State Fault Refusal := atomVector 6 8 x l d a q c s

/-- ATOMV operation 7, 64 bits (R221). -/
def execAtomvXor (x : Option (BitVec 25)) (l : BitVec 4) (d a : BitVec 7) (q : BitVec 1) (c : BitVec 2) (s : State) :
    Host.Outcome State Fault Refusal := atomVector 7 8 x l d a q c s

/-- ATOMV operation 8, 64 bits (R221). -/
def execAtomvXchg (x : Option (BitVec 25)) (l : BitVec 4) (d a : BitVec 7) (q : BitVec 1) (c : BitVec 2) (s : State) :
    Host.Outcome State Fault Refusal := atomVector 8 8 x l d a q c s

/-- ATOMV operation 9, 64 bits (R221). -/
def execAtomvCas (x : Option (BitVec 25)) (l : BitVec 4) (d a : BitVec 7) (q : BitVec 1) (c : BitVec 2) (s : State) :
    Host.Outcome State Fault Refusal := atomVector 9 8 x l d a q c s

/-- ATOMV operation 10, 128 bits (R221). -/
def execAtomvXchgW128 (x : Option (BitVec 25)) (l : BitVec 4) (d a : BitVec 7) (q : BitVec 1) (c : BitVec 2) (s : State) :
    Host.Outcome State Fault Refusal := atomVector 10 16 x l d a q c s

/-- ATOMV operation 11, 128 bits (R221). -/
def execAtomvCasW128 (x : Option (BitVec 25)) (l : BitVec 4) (d a : BitVec 7) (q : BitVec 1) (c : BitVec 2) (s : State) :
    Host.Outcome State Fault Refusal := atomVector 11 16 x l d a q c s

/-- The region of a checked target (R223). -/
def watchRegion (st : Strand) : Target → WatchRegion
  | .phys pa _ _ _ => .line pa st.pdom.toNat 0
  | .remote pa _ _ _ _ _ => .line pa st.pdom.toNat 0
  | .grant h off | .forward h off => .grant h off
  | .opbuf off => .opbuf off 0

/-- MWATCH: fills the line and arms the strand's watch, replacing an earlier one (R223). A line whose home has not applied
the die's earlier writes, or whose part is moving, is waited for. -/
def execMwatch (x : Option (BitVec 25)) (a : BitVec 7) (s : State) : Host.Outcome State Fault Refusal :=
  s.onStrand fun st =>
    let va := (st.ea a x).toNat
    let arm (s : State) (r : WatchRegion) : State :=
      let w : Watch := { region := r, fired := false, limit := s.cycle + (s.core st.at_.die st.at_.core).lease }
      s.putStrand ({ st with watch := some w }.retire s.cycle (len1 x))
    match s.addrPhase st .read [(va, 4)] with
    | .ready ts =>
      let s := s.tlbUseAll st [(va, 4)]
      (match ts with
       | .phys pa g b p :: _ =>
         if homeOf pa = .regs then arm s (.line pa st.pdom.toNat (pageOf va))
         else
           let pl : L2Place := { group := g, base := b, partid := p, hint := 0 }
           (match s.unitAtom st.at_.die (some st.at_.core) pa pl with
            | some (_, _, s) => arm (s.fillLine st pa pl true) (.line pa st.pdom.toNat (pageOf va))
            | none => s.putStrand (st.block s.cycle 0 false .retry))
       | .remote _ _ _ _ pdom va :: _ =>
         (s.awaitPart st.at_ pdom va).putStrand (st.block s.cycle 0 false (.fetchMove pdom (pageOf va) (partOf va)))
       | .opbuf off :: _ =>
         (match (s.core st.at_.die st.at_.core).tileAt st.pdom.toNat off with
          | some t => if t.state = 2 then arm s (.opbuf off (tileHandle st.at_.die st.at_.core t)) else s.putStrand (st.block s.cycle 0 false .retry)
          | none => s)
       | t :: _ => arm s (watchRegion st t)
       | [] => s)
    | p => s.addrFail st 0 p

/-- MWAIT: passes at once when the watch has fired or none is armed, and disarms it (R223). -/
def execMwait (s : State) : Host.Outcome State Fault Refusal :=
  s.onStrand fun st =>
    match st.watch with
    | some w =>
      if w.fired then s.putStrand ({ st.closeWindows with watch := none }.retire s.cycle 1)
      else s.putStrand (st.block s.cycle 1 true .mwait)
    | none => s.putStrand (st.closeWindows.retire s.cycle 1)

/-- A fence of a kind and scope (R139, R153, R222): its wait is not a blocking point. -/
def fence (rel acq : Bool) (c : BitVec 2) (s : State) : Host.Outcome State Fault Refusal :=
  s.onStrand fun st =>
    if s.mustDrain st rel c.toNat then s.putStrand (st.block s.cycle 0 false .retry)
    else
      (if acq then s.acquire st.at_.die st.at_.core c.toNat (st.bundle.map Prod.fst) st.at_ else s).putStrand (st.retire s.cycle 1)

/-- FENCE, kind 0 (R222). -/
def execFenceAcq (c : BitVec 2) (s : State) : Host.Outcome State Fault Refusal := fence false true c s

/-- FENCE, kind 1 (R222). -/
def execFenceRel (c : BitVec 2) (s : State) : Host.Outcome State Fault Refusal := fence true false c s

/-- FENCE, kind 2 (R222). -/
def execFenceFull (c : BitVec 2) (s : State) : Host.Outcome State Fault Refusal := fence true true c s

end Sys2Proof.Machine
end

