-- ==== Sys2Proof/Machine/Sync.lean ====
section
/-! DEFINITION. Bundle membership, barriers, votes and collectives, remote writes, mailboxes, event flags and register blocks
(11 R224 to R233; 20 R364; 19 R350; 04 R70 to R78; 06 R117 to R120). -/
namespace Sys2Proof.Machine

/-- A cause whose TVAL is the instruction word (R341). -/
def State.raiseWord (s : State) (st : Strand) (c : BitVec 64) (w : Word) : State := s.raise st c (w.zeroExtend 64)

/-- The strand retires where it stands (one word, no prefix). -/
def State.pass (s : State) (st : Strand) : State := s.putStrand (st.retire s.cycle 1)

/-! ### Membership -/

/-- BNEW (R224): no room leaves everything as it was and answers 0; a grant above 256 raises OPLIM. -/
def execBnew (d a : BitVec 7) (s : State) : Host.Outcome State Fault Refusal :=
  s.onStrand fun st =>
    let g := ((st.s a).extractLsb' 0 9).toNat
    let die := st.at_.die
    let core := st.at_.core
    if g > 256 then s.raiseWord st cOplim (wordA 0x50 0 d a 0)
    else if (s.resident die core).length ≥ 64 || s.usedKiB die core + g > 256 then s.pass (st.setS d 0)
    else
      let (h, s) := s.newBundle die core st.pdom st.task g 1
      let s := s.leave st
      s.putStrand ({ st with bundle := some (h, 0) }.setS d (BitVec.ofNat 32 h) |>.retire s.cycle 1)

/-- BJOIN (R224): refused with 0xFFFF_FFFF when the bundle is not resident on the strand's core, is full, or belongs to
another domain. -/
def execBjoin (d a : BitVec 7) (s : State) : Host.Outcome State Fault Refusal :=
  s.onStrand fun st =>
    let h := (st.s a).toNat
    let others := (s.memberList h).filter fun (_, x) => x.at_ != st.at_
    match s.bundle? h with
    | some b =>
      if b.evicted || b.die ≠ st.at_.die || b.core ≠ st.at_.core || (s.memberList h).length ≥ 512 || b.pdom ≠ st.pdom then
        s.pass (st.setS d 0xFFFFFFFF)
      else
        let m := lowestFree (others.map Prod.fst) 0 512
        let s' := s.putStrand ({ st with bundle := some (h, m) }.setS d (BitVec.ofNat 32 m) |>.retire s.cycle 1)
        (match st.bundle with | some (g, _) => s'.dissolveIfDone g | none => s')
    | none => s.pass (st.setS d 0xFFFFFFFF)

/-- BLEAVE (R224). -/
def execBleave (s : State) : Host.Outcome State Fault Refusal :=
  s.onStrand fun st =>
    let s' := s.putStrand ({ st with bundle := none }.retire s.cycle 1)
    match st.bundle with | some (h, _) => s'.dissolveIfDone h | none => s'

/-- BINFO (R224). -/
def execBinfo (d : BitVec 7) (k : BitVec 7) (s : State) : Host.Outcome State Fault Refusal :=
  s.onStrand fun st =>
    let x : Nat :=
      match st.bundle with
      | none => 0
      | some (h, _) =>
        let ms := s.memberList h
        match k.toNat with
        | 0 => ms.length
        | 1 => match s.bundle? h with | some b => b.grant | none => 0
        | _ => ms.foldl (fun n (m, _) => max n (m + 1)) 0
    s.pass (st.setS d (BitVec.ofNat 32 x))

/-! ### Barriers -/

/-- A count taken from a register, and whether it lies outside the operand limits (R226). -/
def Strand.barCount (st : Strand) (a : BitVec 7) : Nat := ((st.s a).extractLsb' 0 10).toNat
def badCount (n : Nat) : Bool := n = 0 || n > 512

/-- BAR INIT (R226). -/
def execBarInit (a : BitVec 7) (k : BitVec 4) (s : State) : Host.Outcome State Fault Refusal :=
  s.onStrand fun st =>
    let n := st.barCount a
    if badCount n then s.raiseWord st cOplim (wordA 0x51 0 0 a (0#3 ++ k))
    else
      match st.bundle with
      | some (h, _) => (s.mapBar h k.toNat fun b => { b with exp := n }).pass st
      | none => s.pass st

/-- The arrival of SYNC and ARRIVE: with a count, EXP first (R226); more than 1,023 arrivals raise BARRIER (R350). -/
def State.arrive (s : State) (st : Strand) (fn : BitVec 4) (a : BitVec 7) (c : BitVec 1) (k : BitVec 4) (k' : State → State) : State :=
  let n := st.barCount a
  if c = 1 && badCount n then s.raiseWord st cOplim (wordA 0x51 fn 0 a (0#2 ++ c ++ k))
  else
    match st.bundle with
    | none => s.pass st
    | some (h, _) =>
      if (s.bar h k.toNat).arr ≥ 1023 then s.raise st cBarrier (BitVec.ofNat 64 k.toNat)
      else k' (s.mapBar h k.toNat fun b => { b with exp := if c = 1 then n else b.exp, arr := b.arr + 1 })

/-- BAR SYNC: arrives, records the phase and waits for the next (R226); its count is read as the new value (R42). -/
def execBarSync (a : BitVec 7) (c : BitVec 1) (k : BitVec 4) (s : State) : Host.Outcome State Fault Refusal :=
  s.onStrand fun st =>
    let st := if st.bundle.isSome then st.closeWindows else st
    s.arrive st 1 a c k fun s' =>
      match st.bundle with
      | some (h, _) => s'.putStrand (st.block s.cycle 1 true (.barSync k.toNat (s.bar h k.toNat).phase))
      | none => s'

/-- BAR ARRIVE (R226). -/
def execBarArrive (a : BitVec 7) (c : BitVec 1) (k : BitVec 4) (s : State) : Host.Outcome State Fault Refusal :=
  s.onStrand fun st => s.arrive st 2 a c k fun s' => s'.pass st

/-- BAR EXPECT: PEND + zext(s[a], 32) (R226). -/
def execBarExpect (a : BitVec 7) (k : BitVec 4) (s : State) : Host.Outcome State Fault Refusal :=
  s.onStrand fun st =>
    (match st.bundle with
     | some (h, _) => s.mapBar h k.toNat fun b => { b with pend := b.pend + (st.s a).zeroExtend 56 }
     | none => s).pass st

/-- BAR QUERY (R226): without a bundle it returns 0. -/
def execBarQuery (d : BitVec 7) (c : BitVec 1) (k : BitVec 4) (s : State) : Host.Outcome State Fault Refusal :=
  s.onStrand fun st =>
    let b : Bar := match st.bundle with | some (h, _) => s.bar h k.toNat | none => { exp := 1, arr := 0, pend := 0, phase := 0 }
    s.pass (if c = 1 then st.setPair d (b.pend.signExtend 64)
            else st.setS d (BitVec.ofNat 32 ((b.exp - 1) * 2 ^ 22 + b.arr * 2 ^ 12 + b.phase)))

/-- The check each barrier makes in every cycle (R225): at most one phase completes. -/
def Bar.check (b : Bar) : Bar :=
  if b.arr ≥ b.exp && b.pend = 0 then { b with phase := (b.phase + 1) % 4096, arr := b.arr - b.exp } else b

/-- Barriers of every bundle at the end of a cycle; a member whose phase has completed passes, with an acquire at bundle
scope (R225, R226, R156). -/
def State.endBarriers (s : State) : State :=
  let done : List (Nat × Nat) := s.bundles.flatMap fun b =>
    if b.evicted then (onesOf 0xFFFF 16).filterMap fun k =>
      let x := b.bars.getD k (Bar.fresh 1)
      if x.check = x then none else some (b.handle, k)
    else []
  let s : State := { s with bundles := s.bundles.map fun b => if b.evicted then b else { b with bars := b.bars.map Bar.check } }
  let s := done.foldl (fun s p => s.putBar p.1 p.2 Bar.check) s
  s.strands.foldl (fun (s : State) (st : Strand) =>
    match st.blocked, st.bundle with
    | some b, some (h, _) =>
      (match b.wait with
       | .barSync k p =>
         if (s.bar h k).phase ≠ p && !st.stopped then (s.acquire st.at_.die st.at_.core 0 (some h) st.at_).putStrand (st.unblock s.cycle) else s
       | _ => s)
    | _, _ => s) s

/-! ### Reconvergence -/

/-- Whether a strand stands at RCV. -/
def Strand.atRcv (st : Strand) : Bool := match st.blocked with | some b => b.wait = .rcv | none => false

/-- RCV at the end of a cycle: when every present member of a bundle stands at RCV, all pass (R39). -/
def State.endRcv (s : State) : State :=
  let done := s.bundles.filterMap fun b =>
    let ms := s.memberList b.handle
    if !ms.isEmpty && !b.evicted && ms.all fun (_, st) => st.atRcv && !st.stopped then some b.handle else none
  { s with strands := s.strands.map fun st =>
      match st.bundle with
      | some (h, _) => if done.contains h && st.atRcv then st.unblock s.cycle else st
      | none => st }

/-! ### Votes and collectives -/

/-- What a strand gives to a collective it waits at: major, select, destinations, window, vote, value, lookahead, word. -/
structure Given where
  mid : Nat
  strand : Strand
  major : Nat
  sel : Nat
  dst : Option Nat
  dst2 : Option Nat
  win : Nat
  vote : Bool
  val : Vec
  la : Nat
  word : Word
  len : Nat

def Strand.given (st : Strand) (mid : Nat) : Option Given :=
  match st.blocked with
  | some b =>
    (match b.wait with
     | .collective major sel dst dst2 win vote val la word =>
       some { mid := mid, strand := st, major := major, sel := sel, dst := dst, dst2 := dst2, win := win, vote := vote,
              val := val, la := la, word := word, len := b.len }
     | _ => none)
  | none => none

/-- Participants by ascending member index (R111, R227). -/
def sortGiven : List Given → List Given := fun l => l.foldr insert' []
where
  /-- Inserts by member index. -/
  insert' (g : Given) : List Given → List Given
    | [] => [g]
    | x :: r => if g.mid ≤ x.mid then g :: x :: r else x :: insert' g r

/-- Prefix sums in F32 by RNE (R111). -/
def scanF32 (acc : Nat) : List Nat → List Nat × BitVec 5
  | [] => ([], 0)
  | x :: r =>
    let (y, f) := FFmt.f32.add .rne acc x
    let (l, g) := scanF32 y r
    (y :: l, f ||| g)

/-- One lane of a collective over the participants' values in order: each participant's result, and the flags (R111, R229).
`sel` is b[6:0]: operation in [2:0], format code in [6:3]. -/
def collectLane (sel : Nat) (vs : List Nat) : List Nat × BitVec 5 :=
  let n := vs.length
  let fmt := sel / 8
  let w (x : Nat) : Word := BitVec.ofNat 32 x
  let same (r : Res) : List Nat × BitVec 5 := (List.replicate n r.1, r.2)
  let tree (f : Word → Word → Word) : List Nat × BitVec 5 :=
    same (match vs with | [] => (0, 0) | x :: r => ((r.foldl (fun a y => f a (w y)) (w x)).toNat, 0))
  match sel % 8 with
  | 0 => same (vs.headD 0, 0)
  | 1 => if fmt = 0 then same (treeSum vs) else tree (· + ·)
  | 2 => if fmt = 0 then same (treeMinMax false vs) else if fmt = 6 then tree minS else tree minU
  | 3 => if fmt = 0 then same (treeMinMax true vs) else if fmt = 6 then tree maxS else tree maxU
  | _ =>
    (match vs with
     | [] => ([], 0)
     | x :: r =>
       if fmt = 0 then
         let (x, f) := FFmt.f32.canon x
         let (l, g) := scanF32 x r
         (x :: l, f ||| g)
       else ((x :: r).zipIdx.map fun (_, j) => (((x :: r).take (j + 1)).foldl (· + ·) 0) % 2 ^ 32, 0))

/-- The strand of a participant after the collective (R228, R229). -/
def Given.finish (g : Given) (cycle : Nat) (all : List Given) : Strand :=
  let j := all.findIdx fun x => x.mid = g.mid
  if g.major = 0x52 then
    let votes := all.filterMap fun x => if x.vote then some x.mid else none
    let st := match g.sel with
      | 0 =>
        let b : BitVec 64 := votes.foldl (fun b m => if m / 64 = g.win then b ||| (1#64 <<< (m % 64)) else b) 0
        (g.strand.setSAt g.dst (b.extractLsb' 0 32)).setSAt g.dst2 (b.extractLsb' 32 32)
      | 1 => match g.dst with | some p => g.strand.setPBit (BitVec.ofNat 3 p) (!votes.isEmpty) | none => g.strand
      | _ => match g.dst with | some p => g.strand.setPBit (BitVec.ofNat 3 p) (votes.length == all.length) | none => g.strand
    st.retire cycle g.len
  else
    let lanes := (List.range 8).map fun i => collectLane g.sel (all.map fun x => (lane x.val i).toNat)
    let flags : BitVec 5 := lanes.foldl (fun f l => f ||| l.2) 0
    g.strand.retireLong cycle g.len g.la
      (pendV g.dst (ofLanes fun i => BitVec.ofNat 32 (((lanes.getD i ([], 0)).1).getD j 0)) flags)

/-- A collective whose participants all wait at the same instruction completes; where they differ each raises COLL
(R227, R350). -/
def State.finishCollective (s : State) (gs : List Given) : State :=
  match gs with
  | [] => s
  | g :: r =>
    if r.all fun x => x.major = g.major && x.sel = g.sel then
      gs.foldl (fun s x => s.putStrand (x.finish s.cycle gs)) s
    else gs.foldl (fun s x => s.raiseWord { x.strand with blocked := none } cColl x.word) s

/-- Collectives at the end of a cycle: a bundle whose every present member waits at one (R227). -/
def State.endCollectives (s : State) : State :=
  s.bundles.foldl (fun s b =>
    let ms := s.memberList b.handle
    let gs := ms.filterMap fun (m, st) => st.given m
    if !ms.isEmpty && !b.evicted && gs.length = ms.length then s.finishCollective (sortGiven gs) else s) s

/-- A collective issues: a strand without a bundle completes at once on a set of one (R227). -/
def State.collect (s : State) (f : Strand → Wait) : Host.Outcome State Fault Refusal :=
  s.onStrand fun st =>
    let st' := st.block s.cycle 1 false (f st)
    match st.bundle with
    | some _ => s.putStrand st'
    | none => s.finishCollective ((st'.given 0).toList)

/-- BVOTE votes on bit 0 of a predicate (R228). -/
def vote (fn : Nat) (dst dst2 : Strand → Option Nat) (a : BitVec 3) (w : Nat) (word : Word) (s : State) :
    Host.Outcome State Fault Refusal :=
  s.collect fun st => .collective 0x52 fn (dst st) (dst2 st) w ((st.p a).getLsbD 0) 0 0 word

/-- BALLOT (R228). -/
def execBallot (d : BitVec 7) (a : BitVec 3) (w : BitVec 7) (s : State) : Host.Outcome State Fault Refusal :=
  vote 0 (fun st => st.sName d) (fun st => st.sIdx (d.toNat + 1)) a w.toNat (wordA 0x52 0 d (0#4 ++ a) w) s

/-- ANY (R228). -/
def execAny (d a : BitVec 3) (s : State) : Host.Outcome State Fault Refusal :=
  vote 1 (fun _ => some d.toNat) (fun _ => none) a 0 (wordA 0x52 1 (0#4 ++ d) (0#4 ++ a) 0) s

/-- ALL (R228). -/
def execAll (d a : BitVec 3) (s : State) : Host.Outcome State Fault Refusal :=
  vote 2 (fun _ => some d.toNat) (fun _ => none) a 0 (wordA 0x52 2 (0#4 ++ d) (0#4 ++ a) 0) s

/-- BCOLL with select b (R229). -/
def coll (l : BitVec 4) (d a b : BitVec 7) (s : State) : Host.Outcome State Fault Refusal :=
  s.collect fun st => .collective 0x53 b.toNat (st.vName d) none 0 false (st.v a) l.toNat (wordA 0x53 l d a b)

/-- BCAST (R229). -/
def execBcast (l : BitVec 4) (d a : BitVec 7) (s : State) : Host.Outcome State Fault Refusal := coll l d a 0 s

/-- RADD (R229, R111). -/
def execRadd (l : BitVec 4) (d a : BitVec 7) (t : BitVec 4) (s : State) : Host.Outcome State Fault Refusal := coll l d a (t ++ 1#3) s

/-- RMIN (R229, R111). -/
def execRmin (l : BitVec 4) (d a : BitVec 7) (t : BitVec 4) (s : State) : Host.Outcome State Fault Refusal := coll l d a (t ++ 2#3) s

/-- RMAX (R229, R111). -/
def execRmax (l : BitVec 4) (d a : BitVec 7) (t : BitVec 4) (s : State) : Host.Outcome State Fault Refusal := coll l d a (t ++ 3#3) s

/-- SCANADD (R229, R111). -/
def execScanadd (l : BitVec 4) (d a : BitVec 7) (t : BitVec 4) (s : State) : Host.Outcome State Fault Refusal :=
  coll l d a (t ++ 4#3) s

/-! ### Remote writes -/

/-- RWR (R230): a deposit for a member of a bundle of the strand's domain; with no such bundle it is discarded (R77,
R364). -/
def rwr (vec : Bool) (d a b : BitVec 7) (s : State) : Host.Outcome State Fault Refusal :=
  s.onStrand fun st =>
    let h := (st.s b).toNat
    let dep : Deposit :=
      { id := s.nextId, bundle := h, mid := ((st.sNext b).extractLsb' 0 9).toNat, vec := vec, name := d.toNat,
        sval := st.s a, vval := st.v a, src := (st.task, st.sid) }
    match s.bundle? h with
    | some x =>
      if x.pdom = st.pdom then { s with nextId := s.nextId + 1, deposits := s.deposits ++ [dep] }.pass st else s.pass st
    | none => s.pass st

/-- RWR of a scalar (R230). -/
def execRwrScalar (d a b : BitVec 7) (s : State) : Host.Outcome State Fault Refusal := rwr false d a b s

/-- RWR of a vector (R230). -/
def execRwrVector (d a b : BitVec 7) (s : State) : Host.Outcome State Fault Refusal := rwr true d a b s

/-- A deposit written into its target: an instruction that the target has issued counts as earlier, so that its own write of the register,
in a window or still to come, is dropped (R77, R79). -/
def Deposit.write (x : Deposit) (st : Strand) : Strand :=
  if st.bundle = some (x.bundle, x.mid) then
    let j := if x.vec then st.vIdx x.name else st.sIdx x.name
    let st := if x.vec then st.setVAt j x.vval else st.setSAt j x.sval
    match j with
    | some j => { st with blocked := st.blocked.map fun b => { b with wait := b.wait.dropReg x.vec j } }
    | none => st
  else st

/-- A deposit takes effect, and is counted (R77, R78). -/
def State.deposit (s : State) (x : Deposit) : State :=
  ({ s with deposits := s.deposits.filter fun y => y.id != x.id, strands := s.strands.map x.write } : State).mapBundle x.bundle
    fun b => { b with arrive := b.arrive + 1 }

/-- A deposit takes effect between two instructions of its target (R77, R78): deposits of one sender to one bundle in the
order sent; held while the bundle is evicted (R44); discarded without counting when its bundle has dissolved. -/
def execRwrDeposit (id : Nat) (s : State) : Host.Outcome State Fault Refusal :=
  match s.deposits.find? fun x => x.id = id with
  | none => .next s
  | some x =>
    let rest := s.deposits.filter fun y => y.id != id
    match s.bundle? x.bundle with
    | none => .next { s with deposits := rest }
    | some b => .next (if b.evicted || rest.any (fun y => y.src = x.src && y.bundle = x.bundle && y.id < x.id) then s else s.deposit x)

/-- Whether RWAIT with target t passes (R78). -/
def State.arrived (s : State) (st : Strand) (t : Word) : Bool :=
  match s.bundleOf st with
  | some b => (b.arrive - t).toNat < 2 ^ 31
  | none => true

/-- RWAIT (R230): a blocking point unless it passes at once; a strand without a bundle passes. -/
def execRwait (a : BitVec 7) (s : State) : Host.Outcome State Fault Refusal :=
  s.onStrand fun st =>
    if s.arrived st (st.s a) then s.pass st
    else
      let st := st.closeWindows
      if s.arrived st (st.s a) then s.pass st else s.putStrand (st.block s.cycle 1 true (.rwait (st.s a)))

/-! ### Mailboxes -/

/-- QSEND: the offer stands with the sender's core until every consumer has accepted (R118, R119, R231). -/
def execQsend (k : BitVec 3) (m a : BitVec 7) (s : State) : Host.Outcome State Fault Refusal :=
  s.onStrand fun st =>
    let st := st.closeWindows
    let o : Offer :=
      { id := s.nextId, die := st.at_.die, core := st.at_.core, slot := st.at_.slot, task := st.task, sid := st.sid,
        mbox := k.toNat, pending := m, entry := st.v a, pdom := st.pdom.toNat, bundle := st.bundle.map Prod.fst,
        level := st.level }
    let s' := { s with nextId := s.nextId + 1, offers := s.offers ++ [o] }.putStrand (st.block s.cycle 1 true (.qsend s.nextId))
    -- the cluster flume port looks at the record when the entry is offered (R256)
    if m.getLsbD 6 then s'.portOffer o st.partid.toNat else s'

/-- QRECV (R231): it claims an unclaimed mailbox and takes the oldest entry, or waits; MAILBOX without a bundle or on a
mailbox claimed by another (R117, R120, R350). A receive returns the mailbox's free-entry count (R118). -/
def execQrecv (k : BitVec 3) (d : BitVec 7) (s : State) : Host.Outcome State Fault Refusal :=
  s.onStrand fun st =>
    let c := s.core st.at_.die st.at_.core
    let m := c.mboxes.getD k.toNat Mailbox.reset
    let put (m : Mailbox) : State := s.setCore st.at_.die st.at_.core { c with mboxes := c.mboxes.set k.toNat m }
    let misuse := s.raiseWord st cMailbox (wordA 0x57 (0#1 ++ k) d 0 0)
    match st.bundle with
    | none => misuse
    | some (h, _) =>
      if m.claim ≠ 0 && m.claim ≠ h then misuse
      else
        match m.items with
        | x :: r =>
          ((put { head := (m.head + 1) % 16, items := r, claim := h }).returnCount st.at_.die st.at_.core k.toNat).pass (st.setV d x)
        | [] => (put { m with claim := h }).putStrand (st.block s.cycle 1 true (.qrecv k.toNat (st.vName d)))

/-! ### Event flags -/

/-- A change of a core's event flag at the end of the cycle (R232). -/
def State.flagLater (s : State) (d c k : Nat) (on : Bool) : State := { s with flagBuf := s.flagBuf ++ [((d, c), k, on)] }

/-- FLAG SET (R232). -/
def execFlagSet (k : BitVec 5) (s : State) : Host.Outcome State Fault Refusal :=
  s.onStrand fun st => (s.flagLater st.at_.die st.at_.core k.toNat true).pass st

/-- FLAG CLR (R232). -/
def execFlagClr (k : BitVec 5) (s : State) : Host.Outcome State Fault Refusal :=
  s.onStrand fun st => (s.flagLater st.at_.die st.at_.core k.toNat false).pass st

/-- FLAG WAIT (R232). -/
def execFlagWait (k : BitVec 5) (s : State) : Host.Outcome State Fault Refusal :=
  s.onStrand fun st =>
    if (s.core st.at_.die st.at_.core).flags.getLsbD k.toNat then s.pass st
    else s.putStrand (st.block s.cycle 1 true (.flagWait st.at_.die st.at_.core k.toNat))

/-- FLAG TEST (R232). -/
def execFlagTest (d : BitVec 3) (k : BitVec 5) (s : State) : Host.Outcome State Fault Refusal :=
  s.simple 1 fun st => st.setPBit d ((s.core st.at_.die st.at_.core).flags.getLsbD k.toNat)

/-- A strand that waits for a flag which is set at the end of a cycle has been woken, resident or evicted (R232). -/
def State.flagMet (s : State) (st : Strand) : Strand :=
  match st.blocked with
  | some b =>
    (match b.wait with
     | .flagWait d c k => if (s.core d c).flags.getLsbD k then { st with blocked := some { b with woken := true } } else st
     | _ => st)
  | none => st

/-- The flags at the end of a cycle: every clear before every set; every waiter on a flag that is then set wakes (R232). -/
def State.endFlags (s : State) : State :=
  let ap (s : State) (on : Bool) : State := s.flagBuf.foldl (fun s ((d, c), k, x) =>
    if x = on then
      let r := s.core d c
      s.setCore d c { r with flags := if on then r.flags ||| (1#32 <<< k) else r.flags &&& ~~~(1#32 <<< k) }
    else s) s
  let s := { ap (ap s false) true with flagBuf := [] }
  { s with
    strands := s.strands.map s.flagMet
    bundles := s.bundles.map fun b => if b.saved.isEmpty then b else { b with saved := b.saved.map s.flagMet } }

/-- The commons at the end of a cycle: the write of the lowest member index is kept (R76). -/
def State.endCommons (s : State) : State :=
  let keep := s.commonsBuf.filter fun w =>
    !s.commonsBuf.any fun v => v.bundle = w.bundle && v.reg = w.reg && v.mid < w.mid
  keep.foldl (fun s w => s.mapBundle w.bundle fun b => { b with commons := b.commons.set w.reg w.val })
    { s with commonsBuf := [] }

/-! ### Register blocks and windows -/

/-- WBASES (R233). -/
def execWbases (k : BitVec 7) (s : State) : Host.Outcome State Fault Refusal :=
  s.simple 1 fun st => { st with wbs := k.extractLsb' 0 3 }

/-- WBASEV (R233). -/
def execWbasev (k : BitVec 7) (s : State) : Host.Outcome State Fault Refusal :=
  s.simple 1 fun st => { st with wbv := k.extractLsb' 0 4 }

/-- Whether the allocator of a core can grant k more blocks of a kind (R71). -/
def State.canGrant (s : State) (d c : Nat) (vec : Bool) (k : Nat) : Bool :=
  if vec then s.usedV d c + k ≤ 896 else s.usedS d c + k ≤ 1024

/-- k blocks appended to a strand's allocation, with the contents of R73. -/
def State.grant (s : State) (st : Strand) (vec : Bool) (k : Nat) : State × Strand :=
  let c := s.core st.at_.die st.at_.core
  if vec then
    let (x, l, f) := grantBlocks (0#256) 16 st.pdom.toNat c.leftV s.free k
    ({ s.setCore st.at_.die st.at_.core { c with leftV := l } with free := f },
     { st with nvb := st.nvb + k, vregs := st.vregs ++ x })
  else
    let (x, l, f) := grantBlocks (0#32) 32 st.pdom.toNat c.leftS s.free k
    ({ s.setCore st.at_.die st.at_.core { c with leftS := l } with free := f },
     { st with nsb := st.nsb + k, sregs := st.sregs ++ x })

/-- XACQS and XACQV: granted in issue order; a request that cannot be granted waits and holds back later ones (R72, R233). -/
def xacq (vec : Bool) (limit : Nat) (word : Word) (k : Nat) (s : State) : Host.Outcome State Fault Refusal :=
  s.onStrand fun st =>
    let c := s.core st.at_.die st.at_.core
    if k = 0 then s.pass st
    else if (if vec then st.nvb else st.nsb) + k > limit then s.raiseWord st cOplim word
    else if (if vec then c.waitV else c.waitS).isEmpty && s.canGrant st.at_.die st.at_.core vec k then
      let (s, st) := s.grant st vec k
      s.pass st
    else
      (s.setCore st.at_.die st.at_.core
        (if vec then { c with waitV := c.waitV ++ [st.at_] } else { c with waitS := c.waitS ++ [st.at_] })).putStrand
        (st.block s.cycle 1 true (.xacq vec k))

/-- XACQS (R233). -/
def execXacqs (k : BitVec 7) (s : State) : Host.Outcome State Fault Refusal := xacq false 8 (wordA 0x5A 2 0 0 k) k.toNat s

/-- XACQV (R233). -/
def execXacqv (k : BitVec 7) (s : State) : Host.Outcome State Fault Refusal := xacq true 16 (wordA 0x5A 3 0 0 k) k.toNat s

/-- Writes in flight to allocation registers at or above a limit land there at once (R70). -/
def Strand.landAbove (st : Strand) (vec : Bool) (lim : Nat) : Strand :=
  let above (w : RegWrite) : Bool := match w with | .s i _ => !vec && lim ≤ i | .v i _ => vec && lim ≤ i
  let st := st.pend.foldl (fun st p => (p.writes.filter above).foldl Strand.landOne st) st
  { st with pend := st.pend.map fun p => { p with writes := p.writes.filter fun w => !above w } }

/-- XRELS and XRELV release the k highest blocks; block 0 is never released (R69, R70, R233). -/
def xrel (vec : Bool) (word : Word) (k : Nat) (s : State) : Host.Outcome State Fault Refusal :=
  s.onStrand fun st =>
    if k ≥ (if vec then st.nvb else st.nsb) then s.raiseWord st cOplim word
    else if vec then
      let n := st.nvb - k
      let st := st.landAbove true (16 * n)
      (s.releaseBlocks st st.nsb n).pass { st with nvb := n, vregs := st.vregs.take (16 * n) }
    else
      let n := st.nsb - k
      let st := st.landAbove false (32 * n)
      (s.releaseBlocks st n st.nvb).pass { st with nsb := n, sregs := st.sregs.take (32 * n) }

/-- XRELS (R233). -/
def execXrels (k : BitVec 7) (s : State) : Host.Outcome State Fault Refusal := xrel false (wordA 0x5A 4 0 0 k) k.toNat s

/-- XRELV (R233). -/
def execXrelv (k : BitVec 7) (s : State) : Host.Outcome State Fault Refusal := xrel true (wordA 0x5A 5 0 0 k) k.toNat s

end Sys2Proof.Machine
end

