-- ==== Sys2Proof/Machine/EngInstr.lean ====
section
/-! DEFINITION. TILE, ENGQ, FORK and RDV (14 R275 to R281; 20 R360, R365; 22 R382; 12 R234 to R236). -/
namespace Sys2Proof.Machine

/-! ### Records that an instruction reads -/

/-- What the read of a record comes to: the strand has taken its causes, waits, or has the bytes. -/
inductive RecRead where
  | stop (s : State)
  | ok (s : State) (bytes : List Byte)

/-- The strand issues its instruction again from the next cycle; this is no blocking point. -/
def State.again (s : State) (st : Strand) : State := s.putStrand (st.block s.cycle 0 false .retry)

/-- n bytes in translated memory at a checked place, atom by atom, with the address of the first marked atom (R365). -/
def State.recBytes (s : State) (st : Strand) (va pa : Nat) (pl : L2Place) (n : Nat) (acc : List Byte) (bad : Option (Nat × Nat)) :
    Nat → Option (List Byte × Option (Nat × Nat) × State)
  | 0 => some (acc, bad, s)
  | f + 1 =>
    if n = 0 then some (acc, bad, s)
    else
      match s.unitAtom st.at_.die (some st.at_.core) pa pl with
      | none => none
      | some (v, m, s) =>
        let k := min n (32 - pa % 32)
        s.recBytes st (va + k) (pa + k) pl (n - k) (acc ++ natBytesLE k (getBytes v (pa % 32) k))
          (if m ≠ 0 && bad.isNone then some (va / 32 * 32, m) else bad) f

/-- A checked target read (R365): none while it waits. -/
def State.recTarget (s : State) (st : Strand) (va n : Nat) (t : Target) : Option (List Byte × Option (Nat × Nat)) × State :=
  let ans (s : State) (x m : Nat) : Option (List Byte × Option (Nat × Nat)) × State :=
    (some (natBytesLE n x, if m = 0 then none else some (va / 32 * 32, m)), s)
  match t with
  | .remote _ _ _ _ pdom va => (none, s.awaitPart st.at_ pdom va)
  | .grant h off => let (x, m) := s.readGrant h off n; ans s x m
  | .forward h off => (match s.forwarded h off n with | .ok s (x, m) => ans s x m | .wait s | .fail s => (none, s))
  | .opbuf off =>
    let k := s.core st.at_.die st.at_.core
    (match k.tileAt st.pdom.toNat off with
     | some t => if t.state ≠ 2 then (none, s) else let (x, m) := k.readOpbuf off n; ans s x m
     | none => (none, s))
  | .phys pa g b p =>
    match homeOf pa with
    | .regs => (some (s.regReadBytes st.level pa n, none), s)
    | _ =>
      match s.recBytes st va pa { group := g, base := b, partid := p, hint := 0 } n [] none (n / 32 + 2) with
      | some (bs, bad, s) => (some (bs, bad), s)
      | none => (none, s)

/-- Pieces (address, size) read one after another; a marked one raises its cause precisely (R365). -/
def State.recPieces (s : State) (st : Strand) (acc : List Byte) : List ((Nat × Nat) × Target) → RecRead
  | [] => .ok (s.unclaim st.at_) acc
  | ((va, n), t) :: r =>
    match s.recTarget st va n t with
    | (none, s) => .stop (s.again st)
    | (some (_, some (a, m)), s) => .stop (s.raise st (markCause m) (BitVec.ofNat 64 a))
    | (some (bs, none), s) => s.recPieces st (acc ++ bs) r

/-- The record a strand's instruction reads: pieces checked under R363, then read. -/
def State.readRecord (s : State) (st : Strand) (lanes : List (Nat × Nat)) : RecRead :=
  match s.addrPhase st .read lanes with
  | .ready ts => (s.tlbUseAll st lanes).recPieces st [] (lanes.zip ts)
  | p => .stop (s.addrFail st 0 p)

/-! ### TILE -/

/-- The live tile that a strand may name: of its own core and domain (R277, R382). -/
def State.strandTile (s : State) (st : Strand) (h : Nat) : Option Tile :=
  if handleDie h = st.at_.die && handleCore h = st.at_.core then
    match s.tile h with
    | some t => if t.pdom = st.pdom.toNat then some t else none
    | none => none
  else none

/-- TRESV (R276, R382). -/
def execTresv (d a : BitVec 7) (s : State) : Host.Outcome State Fault Refusal :=
  s.onStrand fun st =>
    match s.readRecord st [((st.pairAddr a).toNat, 16)] with
    | .stop s => s
    | .ok s bs =>
      let r : BitVec 128 := BitVec.ofNat 128 (bytesNat bs)
      let ret (s : State) (x : Nat) : State := s.putStrand ((st.setS d (BitVec.ofNat 32 x)).retire s.cycle 1)
      if badReservation r then ret s 0xFFFFFFFF
      else
        let k := s.core st.at_.die st.at_.core
        let base := bitsNat r.toNat 22 16
        let len := bitsNat r.toNat 39 32
        match (List.range 64).find? fun i => !k.tiles.any fun t => t.idx = i with
        | none => ret s 0
        | some idx =>
          if k.tiles.any fun t => t.overlaps base len then ret s 0
          else
            let seq := if (k.tileSeq + 1) % 2 ^ 17 = 0 then 1 else (k.tileSeq + 1) % 2 ^ 17
            let k := k.takeGranules st.pdom.toNat base len
            let t : Tile :=
              { idx := idx, record := r, state := if bitsNat r.toNat 49 48 = 1 then 2 else 0, seq := seq, pdom := st.pdom.toNat,
                holder := st.bundle.map Prod.fst, marked := false }
            ret (s.setCore st.at_.die st.at_.core { k with tiles := k.tiles ++ [t], tileSeq := seq })
              (tileHandle st.at_.die st.at_.core t)

/-- TREL (R277, R382): draining tiles that nothing uses are freed at the end of the cycle. -/
def execTrel (a : BitVec 7) (s : State) : Host.Outcome State Fault Refusal :=
  s.onStrand fun st =>
    let h := (st.s a).toNat
    let s := if (s.strandTile st h).isSome then s.releaseTile h else s
    s.putStrand (st.retire s.cycle 1)

/-- The acquire at bundle scope of a TSTAT or TWAIT that sees a ready tile (R156). -/
def State.acquireTile (s : State) (st : Strand) : State := s.acquire st.at_.die st.at_.core 0 (st.bundle.map Prod.fst) st.at_

/-- TSTAT (R278). -/
def execTstat (d a : BitVec 7) (s : State) : Host.Outcome State Fault Refusal :=
  s.onStrand fun st =>
    let x := match s.strandTile st (st.s a).toNat with | some t => t.state | none => 4
    (if x = 2 then s.acquireTile st else s).putStrand ((st.setS d (BitVec.ofNat 32 x)).retire s.cycle 1)

/-- Whether TWAIT passes: the tile is in state k or freed; whether it then acquires (R278). -/
def State.twaitPasses (s : State) (st : Strand) (h k : Nat) : Option Bool :=
  match s.strandTile st h with
  | some t => if t.state = k then some (k = 2) else none
  | none => some false

/-- TWAIT (R278, R382). -/
def execTwait (a k : BitVec 7) (s : State) : Host.Outcome State Fault Refusal :=
  s.onStrand fun st =>
    let go (s : State) (st : Strand) (acq : Bool) : State :=
      (if acq then s.acquireTile st else s).putStrand (st.retire s.cycle 1)
    match s.twaitPasses st (st.s a).toNat k.toNat with
    | some acq => go s st acq
    | none =>
      let st := st.closeWindows
      match s.twaitPasses st (st.s a).toNat k.toNat with
      | some acq => go s st acq
      | none => s.putStrand (st.block s.cycle 1 true (.twait (st.s a).toNat k.toNat))

/-! ### ENGQ and FORK -/

/-- An entry a strand makes (R234). -/
def Strand.engEntry (st : Strand) (record group : Nat) (engines : BitVec 4) (rdv : Option (Nat × Nat)) : EngEntry :=
  { record := record, task := st.task, pdom := st.pdom.toNat, partid := st.partid.toNat, bundle := st.bundle.map Prod.fst,
    group := group, engines := engines, rdv := rdv, engTask := false, ring := none }

/-- An entry appended to an engine's queue: the owner has one more command in flight (R38, R234). -/
def State.pushEntry (s : State) (d c u : Nat) (e : EngEntry) : State :=
  let x := s.engine d c u
  (s.setEngine d c u { x with queue := x.queue ++ [e] }).mapTask e.task fun t => { t with engLeft := t.engLeft + 1 }

/-- ENGQ (R279, R365). Its release at bundle scope needs no wait: an engine reads through the L1 that the strand's stores have updated, and a
QE through no L1, so that each sees them (R139). -/
def engq (u : Nat) (a : BitVec 7) (s : State) : Host.Outcome State Fault Refusal :=
  s.onStrand fun st =>
    let va := (st.pairAddr a).toNat
    let c := (if va % 64 != 0 then cMisalign else 0) ||| if addrKind va = .bad then cAddr else 0
    if c ≠ 0 then s.raise st c (BitVec.ofNat 64 va)
    else if !s.queueFree st.at_.die st.at_.core u then s.again st
    else (s.pushEntry st.at_.die st.at_.core u (st.engEntry va 0 0 none)).putStrand (st.retire s.cycle 1)

/-- ENGQ of MX (R279). -/
def execEngqMx (a : BitVec 7) (s : State) : Host.Outcome State Fault Refusal := engq 0 a s

/-- ENGQ of CE (R279). -/
def execEngqCe (a : BitVec 7) (s : State) : Host.Outcome State Fault Refusal := engq 1 a s

/-- ENGQ of SSB (R279). -/
def execEngqSsb (a : BitVec 7) (s : State) : Host.Outcome State Fault Refusal := engq 2 a s

/-- ENGQ of QE (R279). -/
def execEngqQe (a : BitVec 7) (s : State) : Host.Outcome State Fault Refusal := engq 3 a s

/-- Where a rendezvous object lies (R236, R365): the strand waits or has taken its causes, or its physical address. A page with
HOME 1 and an address that is not translated memory raise ADDR. -/
inductive RdvPlace where
  | bad (p : Phase)
  | wait (s : State)
  | ok (pa : Nat) (pl : L2Place)

def State.rdvPlace (s : State) (st : Strand) (va : Nat) (cls : AccClass) : RdvPlace :=
  let away := match s.tlbLeaf st.at_.die (some st.at_.core) st.pdom.toNat (pageOf va) with | some l => decide (l.home = 1) | none => false
  match s.addrPhase st cls [(va, 16)] with
  | .ready [.phys pa g b p] => if away then .bad (.causes cAddr va) else .ok pa { group := g, base := b, partid := p, hint := 0 }
  | .ready [.remote _ _ _ _ pdom x] => if away then .bad (.causes cAddr va) else .wait (s.awaitPart st.at_ pdom x)
  | .ready _ => .bad (.causes cAddr va)
  | p => .bad p

/-- The causes of two address phases together; a page still to be walked or faulted comes before or after them as R354 says. -/
def Phase.both (p q : Phase) : Phase :=
  match p, q with
  | .walk va, _ => .walk va
  | _, .walk va => .walk va
  | .causes c va, .causes d _ => .causes (c ||| d) va
  | .causes c va, _ => .causes c va
  | _, .causes c va => .causes c va
  | .fault va, _ => .fault va
  | _, q => q

/-- FORK (R280, R235, R236, R365). The store that initialises the object goes to its home as any store does (R148); no update of the group
is made there before it has been applied, for which the commands wait (`State.rdvComing`). -/
def execFork (e : BitVec 4) (a b : BitVec 7) (s : State) : Host.Outcome State Fault Refusal :=
  s.onStrand fun st =>
    let us := onesOf e.toNat 4
    let list := (st.pairAddr a).toNat
    let rva := (st.pairAddr b).toNat
    let lanes := (List.range us.length).map fun i => (list + 8 * i, 8)
    let d := st.at_.die
    let c := st.at_.core
    match s.rdvPlace st rva .write with
    | .wait s => s.again st
    | .bad p => s.addrFail st 0 (Phase.both (s.addrPhase st .read lanes) p)
    | .ok pa pl =>
      match s.readRecord st lanes with
      | .stop s => s
      | .ok s bs =>
        let recs := (List.range us.length).map fun i => bytesNat ((bs.drop (8 * i)).take 8) % 2 ^ 57
        match recs.find? fun r => r % 64 != 0 with
        | some r => s.raise st cMisalign (BitVec.ofNat 64 r)
        | none =>
          if s.linkFull d pa || !us.all fun u => s.queueFree d c u then s.again st
          else
            let g := s.nextId
            let s := { s with nextId := g + 1, rdvMarks := s.rdvMarks.filter fun x => x.1 != pa }
            let s := s.writeAtom d (some c) pa (natBytesLE 16 us.length) false (some pl)
            let s := (us.zip recs).foldl (fun s (u, r) => s.pushEntry d c u (st.engEntry r g e (some (pa, rva)))) s
            s.putStrand ((s.seen st).retire s.cycle 1)

/-! ### RDV -/

/-- What a read of a rendezvous object at its home finds for an RDV (R281): nothing while PEND is not 0, or while a store of the die to it is
still on its way, which such a read waits for (R149); else the mark of its atom, EXC, and the record that the object is marked with. -/
def State.rdvSeen (s : State) (d pa : Nat) : Option (Nat × Nat × Option Nat) :=
  let m := s.atomMark (pa / 32)
  let x := readNat s.mem pa 16
  if s.rdvComing pa (some d) then none
  else if m ≠ 0 then some (m, 0, none)
  else if bitsNat x 15 0 ≠ 0 then none
  else some (0, bitsNat x 68 64, (s.rdvMarks.find? fun r => r.1 = pa).map Prod.snd)

/-- RDV passes on what it has read, or takes its causes (R281, R360, R365). -/
def State.passRdv (s : State) (st : Strand) (len pa va : Nat) (dst : Option Nat) (seen : Nat × Nat × Option Nat) : State :=
  let (m, exc, record) := seen
  let s := match homeOf pa with | .dram k => if k = st.at_.die then s else s.raiseRow st.at_.die k | _ => s
  if m ≠ 0 then s.raise { st with blocked := none } (markCause m) (BitVec.ofNat 64 (va / 32 * 32))
  else
    let s := s.acquireTile st
    let st := { st.setSAt dst (BitVec.ofNat 32 exc) with blocked := none }
    match record with
    | some r => s.raiseAfter st len cEngine (BitVec.ofNat 64 r)
    | none => s.putStrand (st.retire s.cycle len)

/-- RDV (R281): a blocking point until PEND is 0. -/
def execRdv (d a : BitVec 7) (s : State) : Host.Outcome State Fault Refusal :=
  s.onStrand fun st =>
    let go (s : State) (st : Strand) : Option State × Option Nat :=
      let va := (st.pairAddr a).toNat
      match s.rdvPlace st va .read with
      | .wait s => (some (s.again st), none)
      | .bad p => (some (s.addrFail st 0 p), none)
      | .ok pa _ => ((s.rdvSeen st.at_.die pa).map (s.passRdv st 1 pa va (st.sName d)), some pa)
    match go s st with
    | (some s, _) => s
    | (none, _) =>
      let st := st.closeWindows
      let s := s.putStrand st
      match go s st with
      | (some s, _) => s
      | (none, pa) => s.putStrand (st.block s.cycle 1 true (.rdv (pa.getD 0) (st.pairAddr a).toNat (st.sName d)))

end Sys2Proof.Machine
end

