-- ==== Sys2Proof/Machine/System.lean ====
section
/-! DEFINITION. TASK, CSR, TRAP, SYS and CMAINT (14 R288 to R300; 20 R365, R366; 16 R322; 19 R344, R345, R348; 07 R154). -/
namespace Sys2Proof.Machine

/-! ### TASK -/

/-- Whether a release at device scope by a strand has to wait for acknowledgements (R153). -/
def State.drainWait (s : State) (st : Strand) : Bool := (s.core st.at_.die st.at_.core).outstanding != 0

/-- The record as TSPAWN submits it (R289). -/
def Strand.spawnRecord (st : Strand) (r : TaskRec) : TaskRec :=
  let r := if r.epoch = 0 then r.set 63 56 st.epoch.toNat else r
  if st.level then r
  else
    let r := (r.set 44 37 st.pdom.toNat).set 48 45 st.partid.toNat
    if st.prio.toNat < r.prio then r.set 55 49 st.prio.toNat else r

/-- Whether a strand's submission waits for a marker of the strands' queue that is still to be processed (R65): one of a traced task does
not, since its task is traced whatever the marker does (R317; assumption 58). -/
def State.spawnWaits (s : State) (st : Strand) : Bool :=
  s.markerStands true && !(match s.task? st.task with | some t => t.traced | none => false)

/-- TSPAWN (R289, R365): a release at device scope, the record read once, and its acceptance. -/
def execTspawn (d a : BitVec 7) (s : State) : Host.Outcome State Fault Refusal :=
  s.onStrand fun st =>
    if s.drainWait st || s.spawnWaits st then s.again st
    else
      let va := (st.pairAddr a).toNat
      match s.readRecord st [(va, 64)] with
      | .stop s => s
      | .ok s bs =>
        let (id, s) := s.accept (st.spawnRecord (BitVec.ofNat 512 (bytesNat bs))) va (some st) false false
        s.putStrand ((st.setS d id).retire s.cycle 1)

/-- TSIGNAL (R290). -/
def execTsignal (a : BitVec 7) (s : State) : Host.Outcome State Fault Refusal :=
  s.onStrand fun st =>
    if s.drainWait st then s.again st
    else (s.signalNode ((st.s a).toNat % 2 ^ 18) st.pdom.toNat).putStrand (st.retire s.cycle 1)

/-- What TQRD reads (R291). -/
def State.tqrd (s : State) (n k : Nat) : Nat :=
  if k = 2 then s.hg.frame.toNat % 2 ^ 32
  else if s.hg.qtcount.toNat ≤ n then 0
  else
    match s.queue? n with
    | some q => if k = 0 then q.r else if q.r = 0 then 0 else min ((s.cycle - q.oldestAt) / 64) (2 ^ 32 - 1)
    | none => 0

/-- TQRD (R291). -/
def execTqrd (d a k : BitVec 7) (s : State) : Host.Outcome State Fault Refusal :=
  s.simple 1 fun st => st.setS d (BitVec.ofNat 32 (s.tqrd ((st.s a).toNat % 2 ^ 12) k.toNat))

/-! ### CSR -/

/-- The value of a CSR for a strand (R292, R293). -/
def State.csrGet (s : State) (st : Strand) (n : Nat) : BitVec 64 :=
  match n with
  | 0x000 => st.rm.zeroExtend 64
  | 0x001 => st.fpflags.zeroExtend 64
  | 0x010 => BitVec.ofNat 64 ((if st.level then 1 else 0) + if st.plev then 2 else 0)
  | 0x011 => st.cause
  | 0x012 => st.tval
  | 0x013 => st.epc.zeroExtend 64
  | 0x020 => BitVec.ofNat 64 s.cycle
  | 0x021 => BitVec.ofNat 64 s.timeNs
  | n => s.csrUnit st.at_.die st.at_.core n

/-- Whether the selector of a counter lets programs read it (R322, R366): none when the CSR is no counter. -/
def State.counterUsr (s : State) (st : Strand) (n : Nat) : Option Bool :=
  let k := s.core st.at_.die st.at_.core
  let x := s.die st.at_.die
  if 0x308 ≤ n && n ≤ 0x30F then some ((k.evsel.getD (n - 0x308) 0).getLsbD 30)
  else if 0x330 ≤ n && n ≤ 0x34F then some ((x.devsel.getD (n - 0x330) 0).getLsbD 30)
  else none

/-- What an access at program level comes to (R366). -/
inductive CsrRight where
  | yes | ignored | priv
  deriving DecidableEq, Repr

def State.csrRight (s : State) (st : Strand) (n : Nat) (write : Bool) : CsrRight :=
  if n = 0x000 || n = 0x001 then .yes
  else if st.level then .yes
  else
    match s.counterUsr st n with
    | some usr => if !usr then .priv else if write then .ignored else .yes
    | none =>
      if n = 0x010 then (if write then .priv else .yes)
      else if n = 0x011 || n = 0x020 || n = 0x021 || n = 0x380 || (0x220 ≤ n && n ≤ 0x22F) then
        (if write then .ignored else .yes)
      else .priv

/-- CSRR (R292, R366). In interlocked mode every float write has completed before it (R200). -/
def execCsrr (d : BitVec 7) (c : BitVec 14) (s : State) : Host.Outcome State Fault Refusal :=
  s.onStrand fun st =>
    let word := wordC 0x70 0 d c
    match csrWide c.toNat with
    | none => s.raiseWord st cIllegal word
    | some wide =>
      if wide && d = 127 then s.raiseWord st cIllegal word
      else if s.csrRight st c.toNat false = .priv then s.raiseWord st cPriv word
      else
        let v := s.csrGet st c.toNat
        s.putStrand ((if wide then st.setPair d v else st.setS d (v.extractLsb' 0 32)).retire s.cycle 1)

/-- CSRW (R292, R366): EPC and TVAL are written whole, STATUS takes PLEV only, CAUSE and counts that the strand may not write
are left. -/
def execCsrw (d : BitVec 7) (c : BitVec 14) (s : State) : Host.Outcome State Fault Refusal :=
  s.onStrand fun st =>
    let word := wordC 0x70 1 d c
    match csrWide c.toNat with
    | none => s.raiseWord st cIllegal word
    | some wide =>
      if wide && d = 127 then s.raiseWord st cIllegal word
      else
        match s.csrRight st c.toNat true with
        | .priv => s.raiseWord st cPriv word
        | .ignored => s.putStrand (st.retire s.cycle 1)
        | .yes =>
          let v : BitVec 64 := if wide then st.pair d else (st.s d).zeroExtend 64
          match c.toNat with
          | 0x000 => s.putStrand ({ st with rm := v.extractLsb' 0 2 }.retire s.cycle 1)
          | 0x001 => s.putStrand ({ st with fpflags := v.extractLsb' 0 5 }.retire s.cycle 1)
          | 0x010 => s.putStrand ({ st with plev := v.getLsbD 1 }.retire s.cycle 1)
          | 0x012 => s.putStrand ({ st with tval := v }.retire s.cycle 1)
          | 0x013 => s.putStrand ({ st with epc := v.extractLsb' 0 57 }.retire s.cycle 1)
          | n => (if n < 0x100 then s else s.csrPutUnit st.at_.die st.at_.core n v).putStrand (st.retire s.cycle 1)

/-! ### TRAP and SYS -/

/-- TRAP (R295, R345). -/
def execTrap (i : BitVec 14) (s : State) : Host.Outcome State Fault Refusal :=
  s.onStrand fun st => s.raiseAfter st 1 cTrap (i.zeroExtend 64)

/-- ERET (R296, R344, R365). -/
def execEret (s : State) : Host.Outcome State Fault Refusal :=
  s.onStrand fun st =>
    if !st.level then s.raiseWord st cPriv (wordA 0x72 0 0 0 0) else s.putStrand (st.eret s.cycle)

/-- CCLR (R296, R365). -/
def execCclr (a : BitVec 7) (s : State) : Host.Outcome State Fault Refusal :=
  s.onStrand fun st =>
    if !st.level then s.raiseWord st cPriv (wordA 0x72 1 0 a 0)
    else s.putStrand ({ st with cause := st.cause &&& ~~~(st.pair a) }.retire s.cycle 1)

/-- ISYNC (R298): earlier stores have been sent when it issues; the fetched words are discarded. -/
def execIsync (s : State) : Host.Outcome State Fault Refusal :=
  s.onStrand fun st => s.putStrand ({ st with fbuf := none }.retire s.cycle 1)

/-! ### CMAINT -/

/-- Watches on lines that a removal reaches fire (R223). -/
def State.fireWatches (s : State) (who : Strand → Bool) (hit : Nat → Nat → Nat → Bool) : State :=
  s.fire fun st w => match w with | .line pa pdom page => who st && hit pa pdom page | _ => false

/-- Whether a cache holds a live sector of a line. -/
def holdsLine (l : List Sector) (now line : Nat) : Bool := l.any fun x => x.atom / 4 = line && now < x.expiry

/-- L1INV (R299, R300). Fills in flight are not installed (R154). -/
def execL1inv (a b : BitVec 7) (s : State) : Host.Outcome State Fault Refusal :=
  s.onStrand fun st =>
    let d := st.at_.die
    let c := st.at_.core
    let k := s.core d c
    let pass (s : State) : State := s.putStrand ((s.seen st).retire s.cycle 1)
    let mine (x : Strand) : Bool := x.at_.die = d && x.at_.core = c
    if !st.level then s.raiseWord st cPriv (wordA 0x73 0 0 a b)
    else if b = 0 then
      let fill (r : XRead) : Bool := r.src = d && r.strand.core = c
      pass ((((s.fireWatches mine fun pa _ _ => holdsLine k.l1 s.cycle (pa / 128)).setCore d c
        { k.killLoads (fun _ => true) with l1 := [] }).spoilFills fill fun _ => false).noteKills s)
    else
      let va := (st.pairAddr a).toNat
      let page := pageOf va
      let leaf := match s.tlbLeaf d (some c) st.pdom.toNat page with
        | some l => some l
        | none => match s.walk st.pdom.toNat page (partOf va) with | .ok l => some l | .error _ => none
      match if addrKind va = .virt then leaf else none with
      | none => pass s
      | some l =>
        let line := l.pa va / 128
        let had := holdsLine k.l1 s.cycle line
        let fill (r : XRead) : Bool := r.src = d && r.strand.core = c && r.pa / 128 = line
        pass ((((s.fireWatches mine fun pa _ _ => had && pa / 128 = line).setCore d c
          { k.killLoads (fun l => l.atoms.any fun a => a / 4 = line) with l1 := k.l1.filter fun x => x.atom / 4 != line }).spoilFills fill
            fun _ => false).noteKills s)

/-- What a TLB removal covers (R299): the page at an address, every page of a domain, or every entry. -/
def tlbHit (b pdom page : Nat) (p q : Nat) : Bool := match b with | 0 => p = pdom && q = page | 1 => p = pdom | _ => true

/-- Entries removed from the TLBs of some dies, with the load entries of their cores in the pages, the watches there, and every
parking and wait on the pages (R299, R348, R61, R86). A load of the pages that still waits leaves no entry. -/
def State.dropTlb (s : State) (dies : List Nat) (core : Option (Nat × Nat)) (hit : Nat → Nat → Bool) : State :=
  let keep (l : List TlbEntry) : List TlbEntry := l.filter fun e => !hit e.pdom e.page
  let mine (q : Nat × Nat) : Bool := match core with | some p => decide (q = p) | none => dies.contains q.1
  let forget (st : Strand) : Strand :=
    match st.blocked with
    | some b =>
      (match b.wait with
       | .access op =>
         if mine (st.at_.die, st.at_.core) && op.lanes.any (fun l => hit st.pdom.toNat (pageOf l.va)) then
           { st with blocked := some { b with wait := .access { op with key := none } } }
         else st
       | _ => st)
    | none => st
  let before := s
  let s : State := { s with
    cores := s.cores.map fun (q : (Nat × Nat) × Core) =>
      let k := q.2
      if mine q.1 then
        (q.1, { k with
          tlb := keep k.tlb
          reuse := k.reuse.filter fun e => match e.load with | some l => !l.pages.any (hit e.key.pdom) | none => true })
      else q
    strands := s.strands.map forget
    dies := s.dies.map fun (q : Nat × Die) =>
      (q.1, { q.2 with tlb := if dies.contains q.1 then keep q.2.tlb else q.2.tlb,
                       merge := q.2.merge.filter fun e => !(e.faulted && hit e.pdom e.page) }) }
  let s := (s.noteKills before).fireWatches (fun x => dies.contains x.at_.die) fun _ p q => hit p q
  [0, 1, 2].foldl (fun s d => s.reissuePage d hit) s

/-- TLBINV (R299, R300, R348). -/
def execTlbinv (d a b : BitVec 7) (s : State) : Host.Outcome State Fault Refusal :=
  s.onStrand fun st =>
    if !st.level then s.raiseWord st cPriv (wordA 0x73 1 d a b)
    else
      let s := s.dropTlb [st.at_.die] (some (st.at_.die, st.at_.core))
        (tlbHit b.toNat ((st.s d).toNat % 256) (pageOf (st.pairAddr a).toNat))
      s.putStrand ((s.seen st).retire s.cycle 1)

/-- Whether a SHOOT has still to wait (R300): for an access of a strand, or a write of a strand, an engine or a GX unit, that was in flight
when it issued; no other access of a unit, and no fetch, is under way between two steps. -/
def State.shootWaits (s : State) (id since : Nat) : Bool :=
  (s.xwrites.any fun w => w.id < id) ||
    s.strands.any fun st => match st.blocked with
      | some b => (match b.wait with | .access _ => b.since ≤ since | _ => false)
      | none => false

/-- SHOOT (R299, R300): entries leave every TLB at once; it retires when what translated through them has been performed. -/
def execShoot (d a b : BitVec 7) (s : State) : Host.Outcome State Fault Refusal :=
  s.onStrand fun st =>
    if !st.level then s.raiseWord st cPriv (wordA 0x73 2 d a b)
    else
      let s := s.dropTlb [0, 1, 2] none (tlbHit b.toNat ((st.s d).toNat % 256) (pageOf (st.pairAddr a).toNat))
      let st := s.seen st
      if s.shootWaits s.nextId s.cycle then
        { s with nextId := s.nextId + 1 }.putStrand (st.block s.cycle 1 false (.shoot s.nextId s.cycle))
      else s.putStrand (st.retire s.cycle 1)

/-- RDCINV (R299, R300). -/
def execRdcinv (a b : BitVec 7) (s : State) : Host.Outcome State Fault Refusal :=
  s.onStrand fun st =>
    let d := st.at_.die
    let x := s.die d
    let line := (st.pair a).toNat % 2 ^ 48 / 128
    if !st.level then s.raiseWord st cPriv (wordA 0x73 3 0 a b)
    else
      let hit (n : Nat) : Bool := b = 0 || n = line
      let s := s.fireWatches (fun y => y.at_.die = d) fun pa _ _ => hit (pa / 128) && holdsLine x.rdc s.cycle (pa / 128)
      let s := s.setDie d { x with rdc := x.rdc.filter fun y => !hit (y.atom / 4) }
      let s := s.spoilFills (fun _ => false) fun r => r.src = d && hit (r.pa / 128)
      s.putStrand ((s.seen st).retire s.cycle 1)

end Sys2Proof.Machine
end

