-- ==== Sys2Proof/Machine/Ports.lean ====
section
/-! DEFINITION. Register writes of the masters, display heads, part clears and the loss of a master (15 R303 to R305; 01 R20 to R23; 21
R375; 23 R386, R392; 03 R59, R60; 22 R385). -/
namespace Sys2Proof.Machine

/-! ### Register writes -/

/-- A write of a master to a register of the map (R305): none is taken while the device boots held (R393), and the host's come only
while its port is up. -/
def State.portWrite (s : State) (m pa : Nat) (v : BitVec 64) : State :=
  if !s.booted || (m = 1 && s.port.hostDown) then s else s.regWrite64 m pa v

/-- HG_HTAIL (R59): the doorbell. -/
def execHgHtail (m : Nat) (v : BitVec 64) (s : State) : Host.Outcome State Fault Refusal := .next (s.portWrite m 0x2000000010 v)

/-- HG_POLICY (R60). -/
def execHgPolicy (m : Nat) (v : BitVec 64) (s : State) : Host.Outcome State Fault Refusal := .next (s.portWrite m 0x2000000020 v)

/-- HG_QTCOUNT (R308). -/
def execHgQtcount (m : Nat) (v : BitVec 64) (s : State) : Host.Outcome State Fault Refusal := .next (s.portWrite m 0x2000000048 v)

/-- HG_FKILL (R351). -/
def execHgFkill (m : Nat) (v : BitVec 64) (s : State) : Host.Outcome State Fault Refusal := .next (s.portWrite m 0x2000000078 v)

/-- HOST_IRQ (R303). -/
def execHostIrq (m : Nat) (v : BitVec 64) (s : State) : Host.Outcome State Fault Refusal := .next (s.portWrite m 0x2000002040 v)

/-- MST_OWN (R305). -/
def execMstOwn (m : Nat) (v : BitVec 64) (s : State) : Host.Outcome State Fault Refusal := .next (s.portWrite m 0x2000002000 v)

/-- FL_DOM (R272, R385). -/
def execFlDom (m n : Nat) (v : BitVec 64) (s : State) : Host.Outcome State Fault Refusal :=
  .next (if n < 256 then s.portWrite m (0x2000001400 + 8 * n) v else s)

/-- AZ_RETRAIN (R386). -/
def execAzRetrain (m : Nat) (v : BitVec 64) (s : State) : Host.Outcome State Fault Refusal := .next (s.portWrite m 0x2000003048 v)

/-- AZ_CLRPART (R375). -/
def execAzClrpart (m : Nat) (v : BitVec 64) (s : State) : Host.Outcome State Fault Refusal := .next (s.portWrite m 0x2000003038 v)

/-- Whether a write to the management file takes effect (R315, R395). -/
def State.mgMay (s : State) (m : Nat) : Bool := s.booted && m = 3 && s.port.own = 3

/-- Registers of the management file without a behaviour of their own (R315): MG_HALTA and MG_BP_n. -/
def State.mgWrite (s : State) (n : Nat) (v : BitVec 64) : State :=
  if n = 0x20 then { s with mg := { s.mg with halta := v &&& 0x01FFFFFFFFFFFFC0 } }
  else if n = 0x40 || n = 0x48 || n = 0x50 || n = 0x58 then
    { s with mg := { s.mg with bps := s.mg.bps.set ((n - 0x40) / 8) (v &&& 0x81FFFFFFFFFFFFFC) } }
  else s

/-- A register of the management file as it reads (R315, R393, R394): MG_HALT, MG_BLOB and a number that is no register read zero, and so
does MG_SEC in a device that boots held, which serves no others. -/
def State.mgRead (s : State) (n : Nat) : BitVec 64 :=
  let m := s.mg
  if !s.booted && n != 0x00 && n != 0x38 then 0
  else
    match n with
    | 0x00 => m.id
    | 0x08 => m.sec.zeroExtend 64
    | 0x10 => BitVec.ofNat 64 (m.dbg.toNat + if m.arm then 4 else 0)
    | 0x18 => BitVec.ofNat 64 (m.pwrCur.toNat + m.pwrReq.toNat * 16)
    | 0x20 => m.halta
    | 0x38 => m.boot
    | 0x40 => m.bps.getD 0 0
    | 0x48 => m.bps.getD 1 0
    | 0x50 => m.bps.getD 2 0
    | 0x58 => m.bps.getD 3 0
    | 0x60 => m.blobst
    | _ => 0

/-- A read of a master (R302, R305, R315): any of the three reads the management file through the management port, which leaves idle, and
any reads a register of the map, which reads zero in a device that boots held. The host's reads end with its port. -/
def State.masterRead (s : State) (m addr : Nat) : State :=
  let put (s : State) (v : BitVec 64) : State := { s with port := { s.port with regReply := v } }
  if addr < 256 then put s.leaveIdle (s.mgRead addr)
  else if m = 1 && s.port.hostDown then s
  else put s (if s.booted then s.regRead64 (addr / 8 * 8) else 0)

/-- A register write of a master: to the management file below 256, else to the map. -/
def State.masterWrite (s : State) (m addr : Nat) (v : BitVec 64) : State :=
  if addr < 256 then (if s.mgMay m then (s.mgWrite addr v).leaveIdle else s.i3cSeen m) else s.portWrite m (addr / 8 * 8) v

/-- REGISTER_WRITE (R7, R304, R315): an address below 256 is a number of the management file. -/
def execRegisterWrite (m : Nat) (addr : BitVec 48) (v : BitVec 64) (s : State) : Host.Outcome State Fault Refusal :=
  .next (s.masterWrite m addr.toNat v)

/-- Register writes that arrive in one GX cycle are applied in ascending identity (R305, R392). -/
def State.masterWrites (s : State) (l : List (Nat × BitVec 48 × BitVec 64)) : State :=
  let from_ (m : Nat) : List (Nat × BitVec 48 × BitVec 64) := l.filter fun x => x.1 = m
  (from_ 1 ++ from_ 2 ++ from_ 3).foldl (fun s x => s.masterWrite x.1 x.2.1.toNat x.2.2) s

/-! ### Loss of a master (R392) -/

/-- The path of a master has failed. -/
def State.loseMaster (s : State) (m : Nat) : State :=
  let owned := s.port.own = m
  ({ s with port := { s.port with own := if owned then 0 else s.port.own,
                                  hand := if owned || s.port.hand = m then 0 else s.port.hand } } : State).raiseSecurity

/-- HOST_LINK_DOWN (R392). -/
def execHostLinkDown (s : State) : Host.Outcome State Fault Refusal :=
  .next (({ s with port := { s.port with hostDown := true } } : State).loseMaster 1)

/-- I3C_TARGET_RESET (R392). -/
def execI3cTargetReset (s : State) : Host.Outcome State Fault Refusal := .next (s.loseMaster 3)

/-! ### Display heads (R22, R23) -/

/-- DH_TRAIN: a write of 1 to TRAIN in DH_CTL. -/
def execDhTrain (m n : Nat) (v : BitVec 64) (s : State) : Host.Outcome State Fault Refusal :=
  .next (if n < 2 && v.getLsbD 1 then s.portWrite m (0x2000005000 + 0x100 * n) v else s)

/-- DH_ENABLE: a write of EN in DH_CTL. -/
def execDhEnable (m n : Nat) (v : BitVec 64) (s : State) : Host.Outcome State Fault Refusal :=
  .next (if n < 2 then s.portWrite m (0x2000005000 + 0x100 * n) v else s)

/-- The end of a head's training: LINK shows the result, and the link keeps the rate it was trained at; LRATE 7 is reserved and trains
no link. -/
def Head.trained (h : Head) (ok : Bool) : Head :=
  if h.training then
    { h with training := false, rate := h.want,
             regs := h.regs.set 6 ((h.regs.getD 6 0 &&& ~~~1) ||| if ok && h.want != 7 then 1 else 0) }
  else h

/-- DH_TRAIN_DONE. -/
def execDhTrainDone (n : Nat) (ok : Bool) (s : State) : Host.Outcome State Fault Refusal := .next (s.mapHead n fun h => h.trained ok)

/-- A frame start of a head: while a companion is paired it blanks; otherwise a head that is enabled and whose link carries the
timing latches DH_SURF and DH_FMT and counts the frame. -/
def Head.frame (h : Head) (paired : Bool) : Head :=
  let r (k : Nat) : Nat := (h.regs.getD k 0).toNat
  let l (k : Nat) : Nat := (h.latched.getD k 0).toNat
  if !bitNat (r 0) 0 || !bitNat (r 6) 0 || !Config.linkCarries h.rate (l 3) (l 4) (l 5) (r 2) || paired then
    { h with scanning := false }
  else
    { h with scanning := true, row := 0, latched := (h.latched.set 1 (h.regs.getD 1 0)).set 2 (h.regs.getD 2 0),
             regs := h.regs.set 6 (h.regs.getD 6 0 + 0x100000000) }

/-- DH_FRAME_START. -/
def execDhFrameStart (n : Nat) (s : State) : Host.Outcome State Fault Refusal := .next (s.mapHead n fun h => h.frame s.link.paired)

/-- A channel of RGBA16F as it is sent (R23): clamped to [0, 1], times 1,023, rounded to nearest even; what is sent of a NaN is not
stated, and free (assumption 65). -/
def sent10 (free b : Nat) : Nat :=
  match FFmt.f16.value b with
  | .nan _ => Config.freeNat free % 1024
  | .inf neg => if neg then 0 else 1023
  | .fin neg m e =>
    if neg then 0
    else
      let num := 1023 * m * 2 ^ e.toNat
      let den := 2 ^ (-e).toNat
      let q := num / den
      let r := 2 * (num % den)
      min 1023 (if den < r || (r = den && q % 2 = 1) then q + 1 else q)

/-- The colour sent of a pixel of a format (R23): red, green, blue, from the least significant channel up. -/
def sentColour (free pfmt x : Nat) : Nat × Nat × Nat :=
  match pfmt with
  | 0 => (bitsNat x 7 0, bitsNat x 15 8, bitsNat x 23 16)
  | 1 => (bitsNat x 9 0, bitsNat x 19 10, bitsNat x 29 20)
  | _ => (sent10 free (bitsNat x 15 0), sent10 (free + 1) (bitsNat x 31 16), sent10 (free + 2) (bitsNat x 47 32))

/-- A scanning head reads its next row at the homes, past every cache, and sends its colours (R23); after the last row of the frame it waits
for the next frame start. -/
def State.headRow (s : State) (n : Nat) : State :=
  match s.gx.heads[n]? with
  | none => s
  | some h =>
    let l (k : Nat) : Nat := (h.latched.getD k 0).toNat
    let pfmt := bitsNat (l 2) 1 0
    if !h.scanning || bitsNat (l 4) 15 0 ≤ h.row || pfmt = 3 then s
    else
      let w := if pfmt = 2 then 8 else 4
      let at_ := l 1 + bitsNat (l 2) 31 16 * h.row
      let px (i : Nat) : Nat × Nat × Nat := sentColour (s.free + 3 * i) pfmt (readNat s.mem (at_ + w * i) w)
      let n' := bitsNat (l 3) 15 0
      { s.mapHead n fun h => { h with row := h.row + 1, sent := (List.range n').map px } with free := s.free + 3 * n' }

/-! ### Part clears (R375) -/

/-- The bytes of a physical range become zero, their marks go, and every copy of them goes (R375, R135). -/
def State.clearRange (s : State) (lo hi : Nat) : State :=
  let s := s.dropCopies lo hi
  let s := s.fireWatches (fun _ => true) fun pa _ _ => lo ≤ pa && pa < hi
  { s with mem := s.mem.filter fun c => c.1 < lo || hi ≤ c.1,
           poison := dropRange (lo / 32) (hi / 32) s.poison, lost := dropRange (lo / 32) (hi / 32) s.lost }

/-- PART_CLEAR_DONE (R375). -/
def execPartClearDone (s : State) : Host.Outcome State Fault Refusal :=
  .next (
    let v := s.link.clrpart.toNat
    if !bitNat v 63 then s
    else
      let lo := bitsNat v 47 21 * 2 ^ 21 + bitsNat v 20 16 * 2 ^ 16
      let s := (s.clearRange lo (lo + 2 ^ 16)).gxRelease
      { s with link := { s.link with clrpart := s.link.clrpart &&& 0x7FFFFFFFFFFFFFFF } })

/-! ### Power and refresh (R20, R21) -/

/-- The clock after a measurement (R20): the mean of some samples, each a time and a power, moves it by at most one step. R20 gives steps
of 25 MHz and no case in which less than a step is left to a bound, nor one in which the configured clock lies below 1,200 MHz: the clock
then stops at the bound, and the lower bound wins; that is the model's choice (assumption 64). -/
def Mgmt.clockAfter (m : Mgmt) (l : List (Nat × Nat)) : Nat :=
  let sum := l.foldl (fun a x => a + x.2) 0
  if sum > 650000 * l.length then max 1200 (m.clock - 25)
  else if sum < 620000 * l.length then max 1200 (min m.cfgClock (m.clock + 25))
  else m.clock

/-- POWER_SAMPLE (R20): a measurement is made every 1 ms, and none before; the mean is over the last 10 ms, or over the samples there
are. -/
def execPowerSample (mw : Nat) (s : State) : Host.Outcome State Fault Refusal :=
  .next (
    if s.mg.samples.all fun x => x.1 + 10 ^ 9 ≤ s.timePs then
      let l := (s.timePs, mw) :: s.mg.samples.filter fun x => s.timePs < x.1 + 10 ^ 10
      { s with mg := { s.mg with samples := l, clock := s.mg.clockAfter l } }
    else s)

/-- DRAM_REFRESH (R21): no bit of the state changes. -/
def execDramRefresh (_die _chan : Nat) (s : State) : Host.Outcome State Fault Refusal := .next s

end Sys2Proof.Machine
end

