-- ==== Sys2Proof/Machine/Records.lean ====
section
/-! DEFINITION. Portable strand and bundle records, and their wake descriptors (15 R309; 02 R40; 20 R367). -/
namespace Sys2Proof.Machine

/-! ### Wake descriptors (R40, R309) -/

/-- The virtual address that an armed watch covers. -/
def Watch.va (w : Watch) : Nat :=
  match w.region with
  | .line pa _ page => page * 2 ^ 21 + pa % 2 ^ 21
  | .grant _ off => scratchVa off
  | .opbuf off _ => 0x1FD000000000000 + off

/-- WKIND and WARG of a strand: a wait that is no blocking point is recorded as ready (R47, R347). -/
def State.wake (s : State) (st : Strand) : Nat × Nat :=
  match st.blocked with
  | none => (0, 0)
  | some b =>
    match b.wait with
    | .barSync k p => (1, k + p * 16)
    | .rcv => (2, match st.bundle with | some (h, _) => h | none => 0)
    | .qrecv k _ => (3, k)
    | .qsend id => (4, match s.offers.find? fun o => o.id = id with | some o => o.mbox + o.pending.toNat * 8 | none => 0)
    | .flcall id => (5, match s.call? id with | some c => c.typ | none => 0)
    | .flwait off => (6, off)
    | .mwait => (7, match st.watch with | some w => w.va | none => 0)
    | .rdv _ va _ | .rdvMet _ va _ _ _ _ => (8, va)
    | .rwait t => (9, t.toNat)
    | .flagWait _ _ k => (10, k)
    | .twait h k | .twaitMet h k _ => (11, h + k * 2 ^ 32)
    | .xacq v k => (12, (if v then 1 else 0) + k * 2)
    | .sleep y l => (if y then 13 else 14, (l - s.cycle) % 2 ^ 32)
    | _ => (0, 0)

/-! ### Strand records (R309) -/

/-- RLEN, in units of 32 bytes. -/
def Strand.rlen (st : Strand) : Nat := 4 + 4 * st.nsb + 16 * st.nvb

/-- The predicates, p_k at bit 8k. -/
def Strand.predBits (st : Strand) : Nat := packNat 8 8 fun k => if h : k < 8 then st.preds[k] else 0

/-- The 128-byte header; a strand that runs under a foreign tag, or was restored so, has MODE 1 (R309, R311). -/
def State.recordHeader (s : State) (st : Strand) : Nat :=
  let (wk, wa) := s.wake st
  1 + st.rlen * 2 ^ 16 + st.step.toNat * 2 ^ 32 + (if st.native then 0 else 2 ^ 48) + (if st.level then 2 ^ 49 else 0) +
    (if st.plev then 2 ^ 50 else 0) + st.pdom.toNat * 2 ^ 56 + st.pc.toNat * 2 ^ 64 + st.link.toNat * 2 ^ 128 +
    st.cause.toNat * 2 ^ 192 + st.tval.toNat * 2 ^ 256 + st.epc.toNat * 2 ^ 320 + st.predBits * 2 ^ 384 +
    st.rm.toNat * 2 ^ 448 + st.fpflags.toNat * 2 ^ 456 + st.wbs.toNat * 2 ^ 464 + st.wbv.toNat * 2 ^ 472 +
    st.nsb % 16 * 2 ^ 476 + st.nvb % 32 * 2 ^ 480 + (match st.bundle with | some (h, m) => h % 2 ^ 32 * 2 ^ 512 + m % 2 ^ 9 * 2 ^ 544 | none => 0) +
    st.sid.toNat * 2 ^ 576 + st.taskId.toNat * 2 ^ 608 + wk * 2 ^ 640 + wa % 2 ^ 60 * 2 ^ 644 + st.epoch.toNat * 2 ^ 704 +
    st.prio.toNat * 2 ^ 712 + st.partid.toNat * 2 ^ 719

/-- A strand record: its header, its scalar registers and its vector registers. -/
def State.strandRecord (s : State) (st : Strand) : List Byte :=
  natBytesLE 128 (s.recordHeader st) ++ st.sregs.flatMap (fun x => natBytesLE 4 x.toNat) ++
    st.vregs.flatMap fun x => natBytesLE 32 x.toNat

/-- n registers of w bytes each from a list of bytes. -/
def regsOf (w : Nat) (bs : List Byte) (n : Nat) : List Nat := (List.range n).map fun i => bytesNat ((bs.drop (w * i)).take w)

/-- A strand with the architectural state of a record (R309, R311): the fields a record does not hold stay. Its registers are
values written afresh (R83); a STEP that is not the device's tag makes it interlocked; a cause of a strand recorded at program level
is delivered again at its first boundary (R367). -/
def Strand.ofRecord (base : Strand) (tag : BitVec 16) (cycle : Nat) (bs : List Byte) : Strand :=
  let h := bytesNat (bs.take 128)
  let f (hi lo : Nat) : Nat := bitsNat h hi lo
  let nsb := max 1 (min 8 (f 479 476))
  let nvb := max 1 (min 16 (f 484 480))
  let step := BitVec.ofNat 16 (f 47 32)
  let cause := BitVec.ofNat 64 (f 255 192)
  { base with
    pc := BitVec.ofNat 57 (f 120 64), native := step = tag && f 48 48 = 0, step := step, wbs := BitVec.ofNat 3 (f 466 464),
    wbv := BitVec.ofNat 4 (f 475 472), nsb := nsb, nvb := nvb,
    sregs := (regsOf 4 (bs.drop 128) (32 * nsb)).map fun x => BitVec.ofNat 32 x,
    vregs := (regsOf 32 (bs.drop (128 + 128 * nsb)) (16 * nvb)).map fun x => BitVec.ofNat 256 x,
    preds := Vector.ofFn fun k => BitVec.ofNat 8 (bitsNat h (391 + 8 * k.val) (384 + 8 * k.val)),
    link := BitVec.ofNat 57 (f 184 128), rm := BitVec.ofNat 2 (f 449 448), fpflags := BitVec.ofNat 5 (f 460 456),
    cause := cause, level := f 49 49 = 1, plev := f 50 50 = 1, epc := BitVec.ofNat 57 (f 376 320),
    tval := BitVec.ofNat 64 (f 319 256), bundle := if f 543 512 = 0 then none else some (f 543 512, f 552 544),
    taskId := BitVec.ofNat 32 (f 639 608), sid := BitVec.ofNat 32 (f 607 576), pdom := BitVec.ofNat 8 (f 63 56),
    prio := BitVec.ofNat 7 (f 718 712), partid := BitVec.ofNat 4 (f 722 719), epoch := BitVec.ofNat 8 (f 711 704),
    watch := base.watch.map fun w => { w with fired := true },
    fbuf := none, readyAt := cycle + 1, reenter := if cause ≠ 0 && f 49 49 = 0 then (if f 643 640 = 0 then 1 else 2) else 0 }

/-- The length in bytes of the record that starts a list of bytes. -/
def recordLen (bs : List Byte) : Nat := 32 * bitsNat (bytesNat (bs.take 4)) 31 16

/-- The word at an address, as the tables stand; none where its part is not here. -/
def State.peekWord (s : State) (pdom : Nat) (pc : Nat) : Option Word :=
  match s.walk pdom (pageOf pc) (partOf pc) with
  | .ok l => if l.part (partOf pc) = .present then some (BitVec.ofNat 32 (readNat s.mem (l.pa pc) 4)) else none
  | .error _ => none

/-- The last word of the instruction at an address, and its length in words: a prefix makes it two (R164). -/
def State.peekInstr (s : State) (pdom : Nat) (pc : Nat) : Option (Word × Nat) :=
  match s.peekWord pdom pc with
  | some w => if w.extractLsb' 25 7 = 0x7F#7 then (s.peekWord pdom (pc + 4)).map fun w => (w, 2) else some (w, 1)
  | none => none

/-- The d field of a word (R157). -/
def wordD (w : Word) : BitVec 7 := w.extractLsb' 14 7

/-- The wait that a record describes (R40, R309, R45). The destination of QRECV and RDV is that of the instruction at PC; where that
word or the object cannot be read here, and where a call is not held here, the strand issues its instruction again. -/
def State.waitOf (s : State) (st : Strand) (kind arg : Nat) : Option Wait :=
  let f (hi lo : Nat) : Nat := bitsNat arg hi lo
  let word := (s.peekInstr st.pdom.toNat st.pc.toNat).map Prod.fst
  let mine (d c slot : Nat) : Bool := d = st.at_.die && c = st.at_.core && slot = st.at_.slot
  match kind with
  | 1 => some (.barSync (f 3 0) (f 15 4))
  | 2 => some .rcv
  | 3 => word.map fun w => .qrecv (f 2 0) (st.vName (wordD w))
  | 4 => (s.offers.find? fun o => mine o.die o.core o.slot).map fun o => .qsend o.id
  | 5 => (s.gx.calls.find? fun c => c.stage = 0 && c.port.isNone && mine c.die c.core c.slot).map fun c => .flcall c.id
  | 6 => some (.flwait (f 17 0))
  | 7 => some .mwait
  | 8 =>
    let va := f 56 0
    match word, s.walk st.pdom.toNat (pageOf va) (partOf va) with
    | some w, .ok l => if l.part (partOf va) = .present then some (.rdv (l.pa va) va (st.sName (wordD w))) else none
    | _, _ => none
  | 9 => some (.rwait (BitVec.ofNat 32 (f 31 0)))
  | 10 => some (.flagWait st.at_.die st.at_.core (f 4 0))
  | 11 => some (.twait (f 31 0) (f 33 32))
  | 12 => some (.xacq (f 0 0 = 1) (f 4 1))
  | 13 => some (.sleep true (s.cycle + f 31 0))
  | 14 => some (.sleep false (s.cycle + f 31 0))
  | _ => none

/-- A strand restored from a record, at its blocking point or ready (R45). -/
def State.restoreStrand (s : State) (base : Strand) (bs : List Byte) : Strand :=
  let st := base.ofRecord s.mg.tag s.cycle bs
  let h := bytesNat (bs.take 128)
  { st with blocked := (s.waitOf st (bitsNat h 643 640) (bitsNat h 703 644)).map fun w =>
      { wait := w, len := match s.peekInstr st.pdom.toNat st.pc.toNat with | some (_, n) => n | none => 1, woken := false,
        since := s.cycle } }

/-! ### Bundle records (R309) -/

/-- The 448-byte part of a bundle record. -/
def Bundle.recordPart (b : Bundle) : List Byte :=
  natBytesLE 64 (b.handle % 2 ^ 32 + b.grant % 2 ^ 9 * 2 ^ 32 + b.arrive.toNat * 2 ^ 64) ++
    b.commons.flatMap (fun x => natBytesLE 4 x.toNat) ++ b.bars.flatMap fun x => natBytesLE 16 x.record

/-- The grant contents; a poisoned word reads zero in a dump (R399). -/
def Bundle.grantBytes (b : Bundle) : List Byte := readBytes b.scratch 0 (1024 * b.grant)

/-- A bundle record. -/
def Bundle.record (b : Bundle) : List Byte := b.recordPart ++ b.grantBytes

/-- EXP as a record holds it: 512 is written as 0, and the field has ten bits (R309). -/
def expOf (n : Nat) : Nat := if n = 0 then 512 else n

/-- A barrier from its 16 bytes. -/
def Bar.ofRecord (x : Nat) : Bar :=
  { pend := BitVec.ofNat 56 (bitsNat x 55 0), arr := bitsNat x 65 56, exp := expOf (bitsNat x 75 66), phase := bitsNat x 87 76 }

/-- The length in bytes of the bundle record that starts a list of bytes. -/
def bundleLen (bs : List Byte) : Nat := 448 + 1024 * bitsNat (bytesNat (bs.take 8)) 40 32

/-- A bundle with the state of a record: its handle, grant size and place stay. -/
def Bundle.ofRecord (base : Bundle) (bs : List Byte) : Bundle :=
  { base with
    arrive := BitVec.ofNat 32 (bytesNat ((bs.drop 8).take 4))
    commons := (regsOf 4 (bs.drop 64) 32).map fun x => BitVec.ofNat 32 x
    bars := (regsOf 16 (bs.drop 192) 16).map Bar.ofRecord
    scratch := writeBytes [] 0 ((bs.drop 448).take (1024 * base.grant))
    poison := [] }

end Sys2Proof.Machine
end

