-- ==== Sys2Proof/Machine/Evict.lean ====
section
/-! DEFINITION. Wake conditions and the strands that wake, eviction and restore (02 R40 to R46; 03 R58; 06 R117, R119, R120; 19 R353,
R404). -/
namespace Sys2Proof.Machine

/-! ### Wake conditions (R40, R45) -/

/-- Whether every present member of a bundle stands at RCV (R39). -/
def State.allAtRcv (s : State) (h : Nat) : Bool := (s.memberList h).all fun (_, st) => st.atRcv && !st.stopped

/-- The mailbox a QRECV takes its entry from, when it holds one for the bundle (R117, R120). -/
def State.mailFor (s : State) (st : Strand) (k : Nat) : Option Mailbox :=
  let m := (s.core st.at_.die st.at_.core).mboxes.getD k Mailbox.reset
  match st.bundle with
  | some (h, _) => if m.claim = h && !m.items.isEmpty then some m else none
  | none => none

/-- Whether the wake condition of a strand holds. `out` is whether its bundle is evicted: a member saved as ready wakes at once, and one at
XACQ stands in no allocator queue (R72, `State.grantsAt`). -/
def State.wakeHolds (s : State) (st : Strand) (out : Bool) : Bool :=
  match st.blocked with
  | none => out
  | some b =>
    let k := s.core st.at_.die st.at_.core
    match b.wait with
    | .barSync n p => (match st.bundle with | some (h, _) => (s.bar h n).phase != p | none => true)
    | .rcv => (match st.bundle with | some (h, _) => s.allAtRcv h | none => true)
    | .qrecv n _ => (s.mailFor st n).isSome
    | .qsend id => (match s.offers.find? fun o => o.id = id with | some o => o.pending = 0 | none => true)
    | .flcall id => b.woken || (match s.call? id with | some c => c.stage != 0 | none => true)
    | .flwait off => (match st.bundle with | some (h, _) => (s.slotDone h off).isSome | none => true)
    | .mwait => (match st.watch with | some w => w.fired || w.limit ≤ s.cycle | none => true)
    | .rdv pa _ _ => (s.rdvSeen st.at_.die pa).isSome
    | .rdvMet _ _ _ _ _ _ | .twaitMet _ _ _ => true
    | .rwait t => s.arrived st t
    | .flagWait d c n => b.woken || (s.core d c).flags.getLsbD n
    | .twait h n => (s.twaitPasses st h n).isSome
    | .xacq v n => !out && s.canGrant st.at_.die st.at_.core v n && (if v then k.waitV else k.waitS).head? = some st.at_
    | .sleep _ l => l ≤ s.cycle
    | .shoot id since => !s.shootWaits id since
    | _ => false

/-- The strand leaves its wait: its instruction retires with its full effect (R40, R41). -/
def State.wakeStrand (s : State) (st : Strand) : State :=
  match st.blocked with
  | none => s
  | some b =>
    let go (s : State) (st : Strand) : State := s.putStrand (st.unblock s.cycle)
    match b.wait with
    | .barSync _ _ => go (s.acquire st.at_.die st.at_.core 0 (st.bundle.map Prod.fst) st.at_) st
    | .qrecv n dst =>
      (match s.mailFor st n with
       | some m =>
         let k := s.core st.at_.die st.at_.core
         let s := s.setCore st.at_.die st.at_.core
           { k with mboxes := k.mboxes.set n { m with head := (m.head + 1) % 16, items := m.items.drop 1 } }
         go (s.returnCount st.at_.die st.at_.core n) (st.setVAt dst (m.items.headD 0))
       | none => s)
    | .qsend id => go { s with offers := s.offers.filter fun o => o.id != id } st
    | .flwait off =>
      (match st.bundle.bind fun p => s.slotDone p.1 off with
       | some h => s.passFlwait st off h
       | none => go s st)
    | .mwait => go s { st with watch := none }
    | .rdv pa va dst => (match s.rdvSeen st.at_.die pa with | some x => s.passRdv st b.len pa va dst x | none => s)
    | .rdvMet pa va dst m exc rec => s.passRdv st b.len pa va dst (m, exc, rec)
    | .twait h n => go (if s.twaitPasses st h n = some true then s.acquireTile st else s) st
    | .twaitMet _ _ acq => go (if acq then s.acquireTile st else s) st
    | .xacq v n =>
      let k := s.core st.at_.die st.at_.core
      let s := s.setCore st.at_.die st.at_.core
        { k with waitS := k.waitS.filter (· != st.at_), waitV := k.waitV.filter (· != st.at_) }
      let (s, st) := s.grant st v n
      go s st
    | .rcv | .flcall _ | .rwait _ | .flagWait _ _ _ | .sleep _ _ | .shoot _ _ => go s st
    | _ => s

/-- A wait at RDV or TWAIT whose condition holds at the end of a cycle: what it has seen stays with the strand, whatever comes after, so that
every strand that waits for the event wakes (R41, R278, R281). -/
def State.waitMet (s : State) (st : Strand) : Strand :=
  match st.blocked with
  | some b =>
    (match b.wait with
     | .rdv pa va dst =>
       (match s.rdvSeen st.at_.die pa with
        | some (m, exc, rec) => { st with blocked := some { b with wait := .rdvMet pa va dst m exc rec } }
        | none => st)
     | .twait h k =>
       (match s.twaitPasses st h k with
        | some acq => { st with blocked := some { b with wait := .twaitMet h k acq } }
        | none => st)
     | _ => st)
  | none => st

/-- The same for every strand, resident or evicted. -/
def State.endWaits (s : State) : State :=
  { s with
    strands := s.strands.map s.waitMet
    bundles := s.bundles.map fun b => if b.saved.isEmpty then b else { b with saved := b.saved.map s.waitMet } }

/-- Whether a strand may leave a wait now: it is not stopped, and its bundle is not being evicted. -/
def State.mayWake (s : State) (st : Strand) : Bool :=
  !st.stopped && st.blocked.isSome && !(match s.bundleOf st with | some b => b.evicting | none => false) && s.wakeHolds st false

/-- STRAND_WAKE (R41). All members that wait at an RCV pass it together (R39). -/
def execStrandWake (die core slot : Nat) (s : State) : Host.Outcome State Fault Refusal :=
  .next (
    match s.strandAt { die := die, core := core, slot := slot } with
    | some st => if s.mayWake st then s.wakeStrand st else s
    | none => s)

/-! ### Eviction (R43, R58) -/

/-- Whether a strand stands at a blocking point (R40). -/
def Strand.atBlocking (st : Strand) : Bool := match st.blocked with | some b => b.wait.blocking | none => false

/-- Whether a strand waits for an access that is still to be performed. -/
def Strand.inAccess (st : Strand) : Bool := match st.blocked with | some b => (match b.wait with | .access _ => true | _ => false) | none => false

/-- Whether R43 permits the eviction of a bundle. -/
def State.evictable (s : State) (b : Bundle) : Bool :=
  let ms := s.members b.handle
  !b.evicted && !b.evicting && !ms.isEmpty && ms.all fun (_, st) => st.atBlocking && !st.stopped

/-- Since which cycle every member has stood at a blocking point. -/
def State.standingSince (s : State) (b : Bundle) : Nat :=
  (s.members b.handle).foldl (fun n (_, st) => match st.blocked with | some x => max n x.since | none => s.cycle) 0

/-- Effective priority of a bundle: that of its task (R58). -/
def State.bundleEff (s : State) (b : Bundle) : Nat := match s.task? b.task with | some t => t.eff | none => 0

/-- The bundle that R58 takes first among some: the lowest effective priority, then the longest wait. -/
def State.evictFirst (s : State) (l : List Bundle) : Option Bundle :=
  l.foldl (fun best b =>
    match best with
    | none => some b
    | some x =>
      if s.bundleEff b < s.bundleEff x || (s.bundleEff b = s.bundleEff x && s.standingSince b < s.standingSince x) then some b
      else best) none

/-- Dies that a task permits its bundles (R45). -/
def State.permittedDies (s : State) (b : Bundle) : List Nat :=
  match s.task? b.task with
  | some t =>
    let d := TaskRec.dies t.record
    [1, 2].filter fun k => d = 0 || bitNat d (k - 1)
  | none => [1, 2]

/-- Whether a bundle may be restored only on the core it left: it holds a tile or a mailbox, or a member stands at QSEND (R45,
R117, R119). -/
def State.tiedToCore (s : State) (b : Bundle) : Bool :=
  let k := s.core b.die b.core
  (k.tiles.any fun t => t.holder = some b.handle) || (k.mboxes.any fun m => m.claim = b.handle) ||
    (b.bw.2 != 0 && b.saved.any fun st =>
      match st.blocked with | some x => (match x.wait with | .qsend _ => true | _ => false) | none => false)

/-- Cores on which an evicted bundle may be restored (R45, R18). -/
def State.restoreCores (s : State) (b : Bundle) : List (Nat × Nat) :=
  (if s.tiedToCore b then [(b.die, b.core)]
   else (s.permittedDies b).flatMap fun d => (List.range 96).map fun c => (d, c)).filter fun p => !s.mg.disabled.contains p

/-- Whether an evicted bundle fits on a core (R45) together with some more scalar and vector blocks (R72). -/
def State.restoreFitsWith (s : State) (b : Bundle) (d c es ev : Nat) : Bool :=
  b.saved.length ≤ s.freeSlots d c && s.usedS d c + b.saved.foldl (fun n st => n + st.nsb) es ≤ 1024 &&
    s.usedV d c + b.saved.foldl (fun n st => n + st.nvb) ev ≤ 896 && s.usedKiB d c + b.grant ≤ 256 && (s.resident d c).length < 64

/-- Whether an evicted bundle fits on a core (R45). -/
def State.restoreFits (s : State) (b : Bundle) (d c : Nat) : Bool := s.restoreFitsWith b d c 0 0

/-- The blocks that a strand waits for at XACQS or XACQV: scalar and vector. -/
def Strand.asks (st : Strand) : Nat × Nat :=
  match st.blocked with
  | some b => (match b.wait with | .xacq v n => if v then (0, n) else (n, 0) | _ => (0, 0))
  | none => (0, 0)

/-- The members at XACQS or XACQV whose blocks a core can hold together with their bundle, taken in the order of their waits: the grant is
made as part of a restore there (R72). -/
def State.grantsAt (s : State) (b : Bundle) (d c : Nat) : List SRef :=
  let ws := sortBy (fun st => match st.blocked with | some x => x.since | none => 0) (b.saved.filter fun st => st.asks != (0, 0))
  (ws.foldl (fun (r : List SRef × Nat × Nat) st =>
    let es := r.2.1 + st.asks.1
    let ev := r.2.2 + st.asks.2
    if s.restoreFitsWith b d c es ev then (r.1 ++ [st.at_], es, ev) else r) ([], 0, 0)).1

/-- Whether a member other than one at XACQ wakes, or docking has brought the bundle: any core that takes it will do. -/
def State.wakesAnywhere (s : State) (b : Bundle) : Bool :=
  (match s.link.docking with | some l => l.contains b.handle | none => false) || b.saved.any fun st => s.wakeHolds st true

/-- Whether an evicted bundle is restorable (R45, R46): the wake condition of a member holds, or docking has brought it. A bundle of
a task that is stopped is not restored. -/
def State.restorable (s : State) (b : Bundle) : Bool :=
  b.evicted && (match s.task? b.task with | some t => !s.taskHeld t && t.state != .ending | none => true) &&
    (s.wakesAnywhere b || (s.restoreCores b).any fun p => !(s.grantsAt b p.1 p.2).isEmpty)

/-- Where a restorable bundle can be restored now: the permitted core with the most free slots, the lower number on ties; where only a member
at XACQ wakes, a core that grants it its blocks. -/
def State.restorePlace (s : State) (b : Bundle) : Option (Nat × Nat) :=
  let any := s.wakesAnywhere b
  (s.restoreCores b).foldl (fun best p =>
    if s.restoreFits b p.1 p.2 && (any || !(s.grantsAt b p.1 p.2).isEmpty) then
      (match best with | some q => if s.freeSlots q.1 q.2 < s.freeSlots p.1 p.2 then some p else best | none => some p)
    else best) none

/-- Bundles that may be evicted to make room for a restorable one (R46): none while room is free, or while a strand on the
permitted cores does not stand at a blocking point of a bundle. -/
def State.evictForRestore (s : State) (r : Bundle) : List Bundle :=
  let cores := s.restoreCores r
  if (s.restorePlace r).isSome then []
  else if s.strands.any fun st => cores.contains (st.at_.die, st.at_.core) && !(st.atBlocking && st.bundle.isSome && !st.stopped) then []
  else s.bundles.filter fun b => s.evictable b && cores.contains (b.die, b.core)

/-- Bundles that may be evicted to place a task that has reserved dies (R54, R58): those that have waited EVMIN cycles. -/
def State.evictForTask (s : State) : List Bundle :=
  match s.hg.reserved.bind s.task? with
  | some t =>
    let r : TaskRec := t.record
    if r.kind != 0 || s.placeable t then []
    else
      s.bundles.filter fun b =>
        s.evictable b && bitNat r.dies (b.die - 1) && s.standingSince b + s.evmin ≤ s.cycle &&
          (match t.tiles with | h :: _ => handleDie h = b.die && handleCore h = b.core | [] => true)
  | none => []

/-- The bundle the Headgate evicts next (R58): for the first restorable bundle without room for which R46 allows an eviction, else for a task
that has reserved dies. -/
def State.evictNext (s : State) : Option Bundle :=
  ((s.bundles.filter fun r => s.restorable r && (s.restorePlace r).isNone).findSome? fun r => s.evictFirst (s.evictForRestore r)).or
    (s.evictFirst s.evictForTask)

/-- Bytes the records of a bundle take in the backwater. -/
def State.evictBytes (s : State) (b : Bundle) : Nat :=
  448 + 1024 * b.grant + (s.members b.handle).foldl (fun n (_, st) => n + 32 * st.rlen) 0

/-- The lowest offset in the backwater at which n bytes are free; the spill ring keeps the end of the area (R43, R52). -/
def State.bwPlace (s : State) (n : Nat) : Option Nat :=
  let lim := (s.hg.bwsize.toNat % 2 ^ 32) * 2 ^ 21 - 64 * s.spillCount
  let starts := 0 :: s.hg.bwUsed.map fun x => x.1 + x.2
  let free (o : Nat) : Bool := o + n ≤ lim && s.hg.bwUsed.all fun x => o + n ≤ x.1 || x.1 + x.2 ≤ o
  (starts.filter free).foldl (fun b o => match b with | some x => some (min x o) | none => some o) none

/-- Records written one after another by the Headgate or the debug logic, in domain 0 (R61). -/
def State.writeAll (s : State) (va : Nat) : List (List Byte) → UnitRes Unit
  | [] => .ok s ()
  | r :: rs =>
    match s.unitWrite 0 none 0 0 0 (va % 2 ^ 57) r with
    | .ok s _ => s.writeAll (va + r.length) rs
    | x => x

/-- A strand as its bundle's backwater copy holds it: nothing fetched ahead, not in an allocator queue. -/
def Strand.save (st : Strand) : Strand := { st with fbuf := none }

/-- Steps 2 and 3 of an eviction (R43): the records are written to the backwater, and slots, blocks and context are freed. -/
def State.evictNow (s : State) (b : Bundle) : State :=
  let ms := s.members b.handle
  let n := s.evictBytes b
  match s.bwPlace n with
  | none =>
    { s.mapBundle b.handle fun b => { b with evicting := false } with hg := { s.hg with bwFull := true } }
  | some off =>
    match s.writeAll (bitsNat s.hg.bwbase.toNat 56 21 * 2 ^ 21 + off) (b.record :: ms.map fun (_, st) => s.strandRecord st) with
    | .wait s => s
    | .fail s => s.mapBundle b.handle fun b => { b with evicting := false }
    | .ok s _ =>
      let s := ms.foldl (fun s (_, st) =>
        let s := s.releaseBlocks st 0 0
        let k := s.core st.at_.die st.at_.core
        let s := s.setCore st.at_.die st.at_.core
          { k with waitS := k.waitS.filter (· != st.at_), waitV := k.waitV.filter (· != st.at_) }
        { s with strands := s.strands.filter fun x => x.at_ != st.at_,
                 offers := s.offers.map fun o =>
                   if o.die = st.at_.die && o.core = st.at_.core && o.slot = st.at_.slot then { o with slot := 512 } else o }) s
      let k := s.core b.die b.core
      let s := s.setCore b.die b.core { k with leftScr := leftUnits b ++ k.leftScr }
      let s := s.mapBundle b.handle fun b =>
        { b with evicted := true, evicting := false, saved := ms.map fun (_, st) => st.save, bw := (off, n) }
      let t := match s.task? b.task with | some t => t.key | none => 0
      ({ s with hg := { s.hg with bwUsed := s.hg.bwUsed ++ [(off, n)], bwFull := false } } : State).note b.die none 74 1 t

/-- BUNDLE_EVICTION (R43): a chosen bundle whose members have accesses still to be performed waits for them first. -/
def execBundleEviction (h : Nat) (s : State) : Host.Outcome State Fault Refusal :=
  .next (
    match s.bundle? h with
    | some b =>
      if b.evicting || (match s.evictNext with | some x => decide (x.handle = h) | none => false) then
        if (s.members h).any fun (_, st) => st.inAccess then s.mapBundle h fun b => { b with evicting := true }
        else s.evictNow b
      else s
    | none => s)

/-- BACKWATER_FULL_REPORT (R353): a kind-3 record once per 1 ms while an eviction cannot be made. -/
def execBackwaterFullReport (s : State) : Host.Outcome State Fault Refusal :=
  .next (
    if s.hg.bwFull && s.evictNext.isSome && s.hg.bwReportAt ≤ s.timePs then
      ({ s with hg := { s.hg with bwReportAt := s.timePs + 10 ^ 9 } } : State).faultRecord 3 0 0 s.hg.bwbase.toNat
    else s)

/-! ### Restore (R45) -/

/-- One member takes a slot; its blocks are granted afresh and hold its values (R45, R73, R83). One whose request the core grants retires its
XACQ; any other request joins the order of the core (R72). -/
def State.restoreMember (s : State) (d c : Nat) (granted : List SRef) (st : Strand) (slot : Nat) : State :=
  let k := s.core d c
  let (_, ls, f) := grantBlocks (0#32) 32 st.pdom.toNat k.leftS s.free st.nsb
  let (_, lv, f) := grantBlocks (0#256) 16 st.pdom.toNat k.leftV f st.nvb
  let a : SRef := { die := d, core := c, slot := slot }
  let now := granted.contains st.at_
  let queue (x : Nat) (l : List SRef) : List SRef := if now || x = 0 then l else l ++ [a]
  let s := s.setCore d c { k with leftS := ls, leftV := lv, waitS := queue st.asks.1 k.waitS, waitV := queue st.asks.2 k.waitV }
  let offer := match st.blocked with | some b => (match b.wait with | .qsend id => id | _ => 0) | none => 0
  let s : State := { s with
    free := f
    offers := s.offers.map fun o => if o.id = offer then { o with die := d, core := c, slot := slot } else o }
  let st := { st with at_ := a, readyAt := s.cycle + 1, watch := st.watch.map fun w => { w with fired := true } }
  if now then
    let (s, st) := if st.asks.2 = 0 then s.grant st false st.asks.1 else s.grant st true st.asks.2
    { s with strands := s.strands ++ [st.unblock s.cycle] }
  else { s with strands := s.strands ++ [st] }

/-- A die's clock rows take in those of another die: reads of the one are then served only after the writes that the other has sent
(R149). -/
def State.joinRows (s : State) (d d0 : Nat) : State :=
  (List.range 4).foldl (fun s k => s.setRow d k (List.zipWith (fun a c => if atLeast c a then c else a) (s.row d k) (s.row d0 k))) s

/-- What a core and its die must not serve from their caches to strands that come from elsewhere: the strands read what they would have read
where they were (R48, R143; assumption 70). -/
def State.comeFrom (s : State) (d c d0 c0 : Nat) : State :=
  if d = d0 && c = c0 then s
  else
    let k := s.core d c
    let k' := k.killLoads fun _ => true
    let s := ((s.noteCache d (some c) 10 (k.reuse.length - k'.reuse.length) []).setCore d c { k' with l1 := [] }).spoilFills
      (fun r => r.src = d && r.strand.core = c) (fun r => d != d0 && r.src = d)
    if d = d0 then s else let x := s.die d; (s.setDie d { x with rdc := [] }).joinRows d d0

/-- Deposits held for a bundle while it was evicted are applied, those of one sender in the order sent (R44, R77, R78). -/
def State.applyHeld (s : State) (h : Nat) : State :=
  (s.deposits.filter fun x => x.bundle = h).foldl (fun s x => s.deposit x) s

/-- A bundle is restored on a core (R45): its members resume at their blocking points, and those whose wake condition holds then
leave them; its vector registers take their entries afresh (R83). -/
def State.restoreBundle (s : State) (b : Bundle) (d c : Nat) : State :=
  let granted := s.grantsAt b d c
  let s := s.comeFrom d c b.die b.core
  let k := s.core d c
  let (_, left, free) := grantUnits b.pdom.toNat k.leftScr s.free 0 b.grant
  let s := { s.setCore d c { k with leftScr := left } with free := free }
  let s := ((s.slotsFree d c).zip b.saved).foldl (fun s (slot, st) => s.restoreMember d c granted st slot) s
  let s := s.mapBundle b.handle fun b => { b with die := d, core := c, evicted := false, saved := [], bw := (0, 0) }
  let s := (s.applyHeld b.handle).nameVectors none true
  ((s.freeBackwater b).dissolveIfDone b.handle).note d none 75 1 b.task

/-- Whether a device message can be sent: the companion port is up (R301, R386). -/
def State.linkUp (s : State) : Bool := !s.link.training && !s.link.stopped

/-- A message sent on the companion port (R306). -/
def State.sendMsg (s : State) (code : Nat) (payload : Nat) (data : List Byte) (marks : List Nat) : State :=
  { s with link := { s.link with
      seq := (s.link.seq + 1) % 256
      sent := s.link.sent ++ [{ code := code, seq := s.link.seq, payload := BitVec.ofNat 128 payload, data := data, marks := marks }] } }

/-- The event field of AZ_STAT takes a value, with MSI-X vector 0 (R303, R310). -/
def State.azEvent (s : State) (e : Nat) : State := ({ s with link := { s.link with event := e } } : State).raiseMsix 0

/-- A bundle of a docking has been restored; with the last, MIGRATE_DONE is sent and MIGRATED becomes 1 (R311). -/
def State.dockStep (s : State) (h : Nat) : State :=
  match s.link.docking with
  | none => s
  | some l =>
    let l := l.filter (· != h)
    if l.isEmpty then
      (({ s with link := { s.link with docking := none, migrated := true, stepAt := s.timePs } } : State).sendMsg 0x11 0 [] []).azEvent 2
    else { s with link := { s.link with docking := some l } }

/-- BUNDLE_RESTORE (R45, R404): a backwater that cannot be read ends the bundle's task. -/
def execBundleRestore (h die core : Nat) (s : State) : Host.Outcome State Fault Refusal :=
  .next (
    match s.bundle? h with
    | some b =>
      if s.restorable b && (s.restoreCores b).contains (die, core) && s.restoreFits b die core then
        if b.bw.2 = 0 then (s.restoreBundle b die core).dockStep h
        else
          match s.hgRead 0 0 0 (bitsNat s.hg.bwbase.toNat 56 21 * 2 ^ 21 + b.bw.1) b.bw.2 with
          | .wait s => s
          | .fail s => s.endPlain b.task
          | .ok s _ => (s.restoreBundle b die core).dockStep h
      else s
    | none => s)

end Sys2Proof.Machine
end

