-- ==== Sys2Proof/Machine/MemEvents.lean ====
section
/-! DEFINITION. Events of the memory system: walks, load data, requests served at other homes, leases, soft errors, overdue
acknowledgements, watches, mailboxes, and the host's accesses to device memory (06 R118, R124, R133; 07 R146, R149, R151; 08 R160;
11 R223; 15 R302; 20 R359; 21 R368 to R375, R378). -/
namespace Sys2Proof.Machine

/-! ### Walks, leases and watches -/

/-- WALK_COMPLETE (R133, R369). -/
def execWalkComplete (die pdom page : Nat) (s : State) : Host.Outcome State Fault Refusal :=
  .next (
    match (s.die die).merge.find? fun e => e.pdom = pdom && e.page = page && e.walking with
    | some e => s.finishWalk die e
    | none => s)

/-- Whether a sector of a line has reached its expiry cycle (R124). -/
def Sector.over (x : Sector) (line now : Nat) : Bool := x.atom / 4 = line && x.expiry ≤ now

/-- LINE_LEASE_EXPIRY (R124): an RDC is numbered by its die, the L1 of a core by 512 × die + core. The load entries of the reuse table
in the line go with it (R86). -/
def execLineLeaseExpiry (cache line : Nat) (s : State) : Host.Outcome State Fault Refusal :=
  .next (
    if cache < 4 then
      let x := s.die cache
      if x.rdc.any fun y => y.over line s.cycle then s.setDie cache { x with rdc := x.rdc.filter fun y => !y.over line s.cycle }
      else s
    else
      let d := cache / 512
      let c := cache % 512
      let k := s.core d c
      if k.l1.any fun y => y.over line s.cycle then
        let k' := k.killLoads fun l => l.atoms.any fun a => a / 4 = line
        ((s.noteCache d (some c) 9 1 []).noteCache d (some c) 10 (k.reuse.length - k'.reuse.length) []).setCore d c
          { k' with l1 := k.l1.filter fun y => !y.over line s.cycle }
      else s)

/-- WATCH_TIMEOUT (R223). -/
def execWatchTimeout (die core slot : Nat) (s : State) : Host.Outcome State Fault Refusal :=
  .next (
    match s.strandAt { die := die, core := core, slot := slot } with
    | some st =>
      (match st.watch with
       | some w => if w.limit ≤ s.cycle then s.putStrand { st with watch := some { w with fired := true } } else s
       | none => s)
    | none => s)

/-! ### Load data -/

/-- The data of an open window arrive (R89, R200, R359): flags are raised and causes fall due at once; the register takes its value
when the window closes. -/
def Strand.arriveData (st : Strand) (n : Nat) : Strand :=
  match st.pend[n]? with
  | some p =>
    if p.arrived then st
    else
      let st := { st with
        pend := st.pend.set n { p with writes := if p.causes ≠ 0 then [] else p.writes, arrived := true, causes := 0, flags := 0 },
        due := st.due ||| p.causes, dueTval := if st.due = 0 && p.causes ≠ 0 then p.tval else st.dueTval }
      if p.causes ≠ 0 then st else st.raiseFlags p.flags
  | none => st

/-- LOAD_DATA_RETURN (R89): the data of the n-th open window of a strand. -/
def execLoadDataReturn (die core slot n : Nat) (s : State) : Host.Outcome State Fault Refusal :=
  .next (
    match s.strandAt { die := die, core := core, slot := slot } with
    | some st => s.putStrand (st.arriveData n)
    | none => s)

/-! ### Requests served at other homes -/

/-- The lane of an access that a request belongs to, while its strand still waits for it. -/
def State.laneOf (s : State) (r : XRead) : Option (Strand × Blocked × MemOp × Lane) :=
  match s.strandAt r.strand with
  | some st =>
    (match st.blocked with
     | some b =>
       (match b.wait with
        | .access op =>
          (op.lanes.find? fun l => l.n = r.lane && !l.done && (match l.tgt with | .phys pa _ _ _ => pa = r.pa | _ => false)).map
            fun l => (st, b, op, l)
        | _ => none)
     | none => none)
  | none => none

/-- The lane of a waiting access has its data. -/
def State.laneDone (s : State) (r : XRead) (x mark : Nat) : State :=
  match s.laneOf r with
  | some (st, b, op, l) =>
    s.putStrand { st with blocked := some { b with wait := .access { op with
      lanes := op.lanes.map fun y => if y.n = l.n then { y with done := true, rdata := x, mark := mark } else y } } }
  | none => s

/-- An operation packet performed at its home (R146): the new bytes there, and the old value with its marks. `data` is what an atom of
the companion's memory holds. -/
def State.performAtomic (s : State) (r : XRead) (data : Vec) : State × Nat × Nat :=
  let away := r.dst = 3
  let s := if away then s else (s.l2Touch r.pa none (r.kind != .load)).tagNotes s.evBuf.length
    (match s.strandAt r.strand with | some st => s.who st.task | none => [])
  let v := if away then data else s.atomData (r.pa / 32)
  let m := if away then 0 else s.atomMark (r.pa / 32)
  let old := getBytes v (r.pa % 32) r.size
  let new := match r.kind with
    | .atomic op y => if m = 0 then atomicNew op r.size old r.wdata y else none
    | _ => none
  match new with
  | none => (s, old, m)
  | some x =>
    let bs := natBytesLE r.size x
    let s :=
      if away then ({ s with link := { s.link with kmem := writeBytes s.link.kmem (r.pa - 2 ^ 48) bs } } : State).fireLine r.pa
      else s.homeWriteAtom r.pa bs false
    let k := s.core r.src r.strand.core
    let s := s.setCore r.src r.strand.core { k with l1 := writeSector k.l1 r.pa bs false false }
    let x := s.die r.src
    (s.setDie r.src { x with rdc := writeSector x.rdc r.pa bs false false }, old, m)

/-- A fill that an invalidation has met: the load is served, and leaves nothing in the caches that it has met nor in the reuse table
(R154, R143). -/
def State.noteFill (s : State) (r : XRead) (st : Strand) (op : MemOp) (pl : L2Place) (v : Vec) (m : Nat) : State :=
  let s :=
    if !r.noL1 && !r.noRdc then s.noteRead st.at_.die (some st.at_.core) r.pa pl v m
    else if r.noRdc then (s.noteCache st.at_.die none 68 1 s.curWho).l2Touch r.pa (some pl) false
    else s.noteRead st.at_.die none r.pa pl v m
  if r.noL1 || r.noRdc then
    s.putStrand { s.seen st with blocked := st.blocked.map fun b => { b with wait := .access { op with key := none } } }
  else s

/-- A home serves a request (R149): an atomic is performed there, a load or the fill for an atomic of scope .b takes the atom; the reply
carries APPLIED. -/
def State.serveRead (s : State) (r : XRead) (data : Vec) : State :=
  let s := { s with xreads := s.xreads.filter fun x => x.id != r.id }
  let s :=
    if r.atomic then
      let (s, old, m) := s.performAtomic r data
      (s.addOutstanding r.src (some r.strand.core) (· - 1)).laneDone r old m
    else
      match s.laneOf r with
      | some (st, _, op, l) =>
        (match l.tgt with
         | .phys pa g b p =>
           let v := if r.dst = 3 then data else s.atomData (pa / 32)
           let m := if r.dst = 3 then 0 else s.atomMark (pa / 32)
           let s := (s.noteFill r st op { group := g, base := b, partid := p, hint := op.hint } v m).tagNotes s.evBuf.length (s.who st.task)
           if op.kind = .load then s.laneDone r (getBytes v (pa % 32) l.size) m else s
         | _ => s)
      | none => s
  (s.raiseRow r.src r.dst).pokeAccess r.strand

/-- An access of a bus agent at the L2 of the homes of its bytes: it fills no line (R302, R130). -/
def State.busTouch (s : State) (pa n : Nat) (write : Bool) : State :=
  (atomPieces pa (List.replicate n 0)).foldl (fun s p => s.l2Touch p.1 none write) s

/-- Whether any of n bytes lies in a marked atom. -/
def State.rangeMarked (s : State) (pa n : Nat) : Bool :=
  (List.range ((pa + n + 31) / 32 - pa / 32)).any fun i => s.atomMark (pa / 32 + i) != 0

/-- A home serves a read of the companion (R149, R301): the bytes, whether any is marked, and APPLIED. -/
def State.serveCompanion (s : State) (r : CompanionRead) : State :=
  let s := (s.busTouch r.pa r.n false).raiseRow 3 r.dst
  { s with link := { s.link with reads := s.link.reads.filter fun x => x.id != r.id,
                                 reply := (readBytes s.mem r.pa r.n, s.rangeMarked r.pa r.n) } }

/-- READ_REQUEST_SERVE (R149): `data` is the atom where the companion is the home (R136). -/
def execReadRequestServe (id : Nat) (data : BitVec 256) (s : State) : Host.Outcome State Fault Refusal :=
  .next (
    match s.xreads.find? fun r => r.id = id with
    | some r => if s.served r.dst r.row then s.serveRead r data else s
    | none =>
      match s.link.reads.find? fun r => r.id = id with
      | some r => if s.served r.dst r.row then s.serveCompanion r else s
      | none => s)

/-- ACK_OVERDUE (R378): a kind-20 record for each 2^20 cycles that a write has waited. -/
def execAckOverdue (id : Nat) (s : State) : Host.Outcome State Fault Refusal :=
  .next (
    match s.xwrites.find? fun w => w.id = id with
    | some w =>
      if w.since + (w.overdue + 1) * 2 ^ 20 ≤ s.cycle then
        let s : State := { s with xwrites := s.xwrites.map fun (x : XWrite) => if x.id = id then { x with overdue := x.overdue + 1 } else x }
        s.memRecord 20 0 1 0 1 w.src (w.core.getD 0) w.pdom w.task (w.pa / 32 * 32)
      else s
    | none => s)

/-! ### Soft errors -/

/-- UNCORRECTABLE_MEMORY_ERROR (R372): `atom` is the atom's address in device memory. -/
def execUncorrectableMemoryError (atom : BitVec 48) (dirtyL2 : Bool) (s : State) : Host.Outcome State Fault Refusal :=
  .next (
    let a := atom.toNat / 32
    if 2 ^ 37 ≤ atom.toNat then s
    else
      ({ s with poison := insertNat a s.poison } : State).memRecord 17 (if dirtyL2 then 2 else 1) 1 0 0 (if atom.toNat < 2 ^ 36 then 1 else 2)
        0 0 0 (32 * a))

/-- The resident bundle that holds a byte of a core's scratchpad, and the byte's offset in its grant: grants lie one after another, in
the order of their creation. -/
def grantAt (off : Nat) : List Bundle → Option (Bundle × Nat)
  | [] => none
  | b :: r => if off < 1024 * b.grant then some (b, off) else grantAt (off - 1024 * b.grant) r

/-- The task that holds a word is ended under KILL (R373): no dump is written, and its status is 4. -/
def State.killHolder (s : State) (key : Nat) : State :=
  if s.hg.serr.getLsbD 0 then
    s.mapTask key fun t =>
      match t.state with
      | .finishing | .ending => t
      | _ => { t with state := .ending, status := 4, noDump := true }
  else s

/-- SCRATCHPAD_SOFT_ERROR (R373): `what` 1 the scratchpad, 2 the operand buffer, 3 the mailboxes, 512 bytes each. -/
def execScratchpadSoftError (die core what off : Nat) (s : State) : Host.Outcome State Fault Refusal :=
  .next (
    let k := s.core die core
    let report (s : State) (pdom : Nat) : State := s.memRecord 18 what 1 0 0 die core pdom 0 off
    match what with
    | 1 =>
      match grantAt off (s.resident die core) with
      | some (b, o) =>
        ((s.mapBundle b.handle fun b => { b with poison := insertNat (o / 8) b.poison }).killHolder b.task |> (report · b.pdom.toNat))
      | none => report s 0
    | 2 =>
      let t := k.tiles.find? fun t => t.base ≤ off / 4096 && off / 4096 < t.base + t.len
      let s := s.setCore die core { k with opPoison := insertNat (off / 8) k.opPoison }
      let s := match (t.bind Tile.holder).bind s.bundle? with | some b => s.killHolder b.task | none => s
      report s (match t with | some t => t.pdom | none => 0)
    | 3 =>
      let m := k.mboxes.getD (off / 512) Mailbox.reset
      let i := (off / 32 % 16 + 16 - m.head) % 16
      let s := s.setCore die core { k with mboxes := k.mboxes.set (off / 512) { m with items := m.items.eraseIdx i } }
      report s (match s.bundle? m.claim with | some b => b.pdom.toNat | none => 0)
    | _ => s)

/-! ### Mailboxes (R118 to R120) -/

/-- A consumer has accepted an offer. -/
def State.offerTaken (s : State) (o : Offer) (bit : Nat) : State :=
  { s with offers := s.offers.map fun x => if x.id = o.id then { x with pending := x.pending &&& ~~~(1#7 <<< bit) } else x }

/-- The strand of lowest slot that waits at a mailbox takes the entry (R120). -/
def State.mailWake (s : State) (d c n : Nat) : State :=
  let ws := (s.onCore d c).filter fun st =>
    (match st.blocked with | some b => (match b.wait with | .qrecv k _ => k = n | _ => false) | none => false) && s.mayWake st
  match ws.foldl (fun (b : Option Strand) st =>
      match b with | some x => if st.at_.slot < x.at_.slot then some st else b | none => some st) none with
  | some st => s.wakeStrand st
  | none => s

/-- An offer accepted by one consumer (R118): a mailbox, against a free-entry count that is not zero, an engine queue, or the cluster flume
port (R256). -/
def State.acceptOffer (s : State) (o : Offer) (bit : Nat) : State :=
  if bit < 3 then
    let own := s.core o.die o.core
    let counts := own.mboxFree.getD bit []
    let c := sibling o.core bit
    let k := s.core o.die c
    let m := k.mboxes.getD o.mbox Mailbox.reset
    if m.items.length < 16 && counts.getD o.mbox 0 != 0 then
      let s := s.setCore o.die o.core { own with mboxFree := own.mboxFree.set bit (counts.set o.mbox (counts.getD o.mbox 0 - 1)) }
      ((s.setCore o.die c { k with mboxes := k.mboxes.set o.mbox { m with items := m.items ++ [o.entry] } }).offerTaken o bit).mailWake
        o.die c o.mbox
    else s
  else if bit < 6 then
    let u := bit - 3
    if s.queueFree o.die o.core u then
      (s.pushEntry o.die o.core u
        { record := o.entry.toNat % 2 ^ 57, task := o.task, pdom := o.pdom,
          partid := match s.task? o.task with | some t => t.partid | none => 0,
          bundle := o.bundle, group := 0, engines := 0, rdv := none, engTask := false, ring := none }).offerTaken o bit
    else s
  else
    match s.gx.calls.find? fun c => c.port = some o.id && c.stage = 0 with
    | some c =>
      (match s.judgeToken c with
       | some s => s
       | none => if s.admissible c && s.firstAtWeir c then s.admitCall c else s)
    | none => s.portOffer o (match s.task? o.task with | some t => t.partid | none => 0)

/-- MAILBOX_ACCEPT (R118): consumer `bit` of the mask of an offer. -/
def execMailboxAccept (id bit : Nat) (s : State) : Host.Outcome State Fault Refusal :=
  .next (
    match s.offers.find? fun o => o.id = id with
    | some o => if bit < 7 && o.pending.getLsbD bit then s.acceptOffer o bit else s
    | none => s)

/-! ### The host's accesses to device memory (R151, R302, R146) -/

/-- Whether n bytes at an address lie in device memory. -/
def inDevice (pa n : Nat) : Bool := n != 0 && pa + n ≤ 2 ^ 37

/-- Whether the host reaches device memory: not while its port is down, nor in a device that boots held (R392, R393). -/
def State.hostMay (s : State) : Bool := s.booted && !s.port.hostDown

/-- HOST_MEMORY_WRITE (R151, R375): one TLP, of at most 512 bytes (R301). -/
def execHostMemoryWrite (addr : BitVec 48) (bytes : List (BitVec 8)) (s : State) : Host.Outcome State Fault Refusal :=
  .next (
    if s.hostMay && inDevice addr.toNat bytes.length && bytes.length ≤ 512 then
      (s.busTouch addr.toNat bytes.length true).homeWrite addr.toNat bytes true
    else s)

/-- HOST_MEMORY_READ (R302, R372): at most 4,096 bytes (R301) through BAR 2. A read of a register through BAR 0 is one of a master
(`State.masterRead`). -/
def execHostMemoryRead (addr : BitVec 48) (n : Nat) (s : State) : Host.Outcome State Fault Refusal :=
  .next (
    if s.hostMay && inDevice addr.toNat n && n ≤ 4096 then
      let s := s.busTouch addr.toNat n false
      { s with port := { s.port with reply := (readBytes s.mem addr.toNat n, s.rangeMarked addr.toNat n) } }
    else s)

/-- Whether a PCIe AtomicOp is one that R301 supports: 0 FetchAdd and 1 Swap at 4 or 8 bytes, 2 CAS at 4, 8 or 16; naturally aligned. -/
def pcieAtomic (op pa width : Nat) : Bool :=
  ((op ≤ 1 && (width = 4 || width = 8)) || (op = 2 && (width = 4 || width = 8 || width = 16))) && pa % width = 0

/-- A PCIe AtomicOp at the memory-side unit (R146): the old value, and the state after it. A marked atom keeps its bytes. -/
def State.busAtomic (s : State) (op pa width x y : Nat) : (List Byte × Bool) × State :=
  let s := s.busTouch pa width true
  let old := readNat s.mem pa width
  let reply : List Byte × Bool := (natBytesLE width old, s.atomMark (pa / 32) != 0)
  if s.atomMark (pa / 32) ≠ 0 then (reply, s)
  else
    let code := match op with | 0 => 0 | 1 => 8 | _ => 9
    match atomicNew code width old (x % 2 ^ (8 * width)) (y % 2 ^ (8 * width)) with
    | some new => (reply, s.homeWriteAtom pa (natBytesLE width new) false)
    | none => (reply, s)

/-- HOST_ATOMIC (R146, R301). -/
def execHostAtomic (op : Nat) (addr : BitVec 48) (width : Nat) (x y : BitVec 128) (s : State) : Host.Outcome State Fault Refusal :=
  .next (
    if s.hostMay && inDevice addr.toNat width && pcieAtomic op addr.toNat width then
      let (r, s) := s.busAtomic op addr.toNat width x.toNat y.toNat
      { s with port := { s.port with reply := r } }
    else s)

/-- COMPANION_ATOMICOP (R301, R136). -/
def execCompanionAtomicop (op : Nat) (addr : BitVec 48) (width : Nat) (x y : BitVec 128) (s : State) :
    Host.Outcome State Fault Refusal :=
  .next (
    if s.booted && s.linkUp && s.link.paired && inDevice addr.toNat width && pcieAtomic op addr.toNat width then
      let (r, s) := s.busAtomic op addr.toNat width x.toNat y.toNat
      { s with link := { s.link with reply := r } }
    else s)

/-- Whether a memory request of the companion reaches a home of this device. -/
def State.companionMay (s : State) (pa n : Nat) (row : List Nat) : Bool :=
  s.booted && s.linkUp && s.link.paired && inDevice pa n && row.length = 4

/-- A memory write of the companion, with the clock row that its prefixes carry, is on its way to its home, which applies it in its turn
(R149, R301). -/
def State.companionWrite (s : State) (pa : Nat) (bytes : List Byte) (row : List Nat) : State :=
  match homeOf pa with
  | .dram k =>
    if s.companionMay pa bytes.length row && bytes.length ≤ 512 then
      { s with
        nextId := s.nextId + 1
        xwrites := s.xwrites ++
          [{ id := s.nextId, src := 3, dst := k, core := none, pa := pa, bytes := bytes, whole := true, row := row.map (· % 2 ^ 16),
             since := s.cycle, overdue := 0, applied := false, poison := false, task := 0, pdom := 0, place := none }] }
    else s
  | _ => s

/-- A memory read of the companion, with its clock row, is on its way to its home (R149, R301). -/
def State.companionRead (s : State) (pa n : Nat) (row : List Nat) : State :=
  match homeOf pa with
  | .dram k =>
    if s.companionMay pa n row && n ≤ 4096 then
      { s with nextId := s.nextId + 1,
               link := { s.link with reads := s.link.reads ++ [{ id := s.nextId, dst := k, pa := pa, n := n, row := row.map (· % 2 ^ 16) }] } }
    else s
  | _ => s

end Sys2Proof.Machine
end

