-- ==== Sys2Proof/Machine/Capture.lean ====
section
/-! DEFINITION. Stopping strands for a capture, the capture area, debug halts and their resume, and how a task is ended and its dump
written (02 R47; 15 R311; 16 R323; 19 R345, R349; 20 R405; 21 R373; 23 R395; 24 R396 to R400). -/
namespace Sys2Proof.Machine

/-! ### Stopping (R47) -/

/-- Whether strands of a task are to stop: a capture covers it, it is halted, or it is being ended. -/
def State.stopping (s : State) (t : Task) : Bool := t.state = .ending || s.taskHeld t

/-- Whether a strand is at an instruction boundary with no open window, or stands at a blocking point, and has nothing still to be
delivered (R47, R405). A parked strand, and one that waits for a walk or for its bundle's collective, is taken as ready at its
instruction. -/
def Strand.canStop (st : Strand) : Bool :=
  st.due = 0 &&
    match st.blocked with
    | none => st.pend.isEmpty && st.reenter = 0
    | some b =>
      match b.wait with
      | .access _ | .fetchMove _ _ _ | .spec _ _ | .shoot _ _ => false
      | .walk _ _ _ | .parked _ _ _ | .collective _ _ _ _ _ _ _ _ _ | .retry => st.pend.isEmpty && st.reenter = 0
      | _ => true

/-- A strand stops where it stands. -/
def Strand.stop (st : Strand) : Strand :=
  { st with stopped := true,
            blocked := match st.blocked with | some b => if b.wait.blocking then some b else none | none => none }

/-- At the end of a cycle, strands of the captured, halted and ending tasks stop if they can. -/
def State.stopStrands (s : State) : State :=
  let keys := (s.hg.tasks.filter s.stopping).map Task.key
  let all := s.captures.any fun c => c.what = 2
  if keys.isEmpty && !all then s
  else
    { s with strands := s.strands.map fun st =>
        if (all || keys.contains st.task) && !st.stopped && st.canStop then st.stop else st }

/-- Whether every engine sequencer that runs a command which a capture covers has stopped between iterations with nothing of the last one
to be done: its bytes counted and its running state saved (R47, R245, R252). -/
def State.enginesStopped (s : State) (c : Capture) : Bool :=
  s.engines.all fun q => match q.2.run with | some r => !s.coversEntry c r.entry || (!r.unsaved && r.count.isNone) | none => true

/-- Bytes of the last run of a stopped copy command are counted once they are visible (R47, R252). -/
def State.settleStopped (s : State) : State :=
  s.engines.foldl (fun s ((d, c, u), e) =>
    match e.run with
    | some r => if r.count.isSome && s.entryStopped r.entry then (s.settleRun d c u r).1 else s
    | none => s) s

/-- Whether every resident strand of a set of tasks has stopped. -/
def State.allStopped (s : State) (of : Task → Bool) : Bool :=
  s.strands.all fun st => match s.task? st.task with | some t => !of t || st.stopped | none => true

/-! ### The capture area (R311) -/

/-- The strands of a bundle's eviction copy and the resident ones of some tasks. -/
def State.capturedStrands (s : State) (of : Task → Bool) : List Strand :=
  (s.bundles.flatMap Bundle.saved ++ s.strands).filter fun st =>
    match s.task? st.task with | some t => of t | none => false

/-- The bundles of some tasks. -/
def State.capturedBundles (s : State) (of : Task → Bool) : List Bundle :=
  s.bundles.filter fun b => match s.task? b.task with | some t => of t | none => false

/-- A task entry: the record as accepted, and the identifier. -/
def Task.entry (t : Task) : List Byte := natBytesLE 64 t.record.toNat ++ natBytesLE 4 t.id.toNat ++ List.replicate 60 0#8

/-- The capture area of some tasks: the count header, the task entries, the bundle records and the strand records. -/
def State.captureArea (s : State) (of : Task → Bool) : List (List Byte) :=
  let ss := s.capturedStrands of
  let bs := s.capturedBundles of
  let ts := (s.hg.tasks.filter of).filter fun t => ss.any fun st => st.task = t.key
  natBytesLE 64 (ss.length + bs.length * 2 ^ 32 + ts.length * 2 ^ 64) :: ts.map Task.entry ++ bs.map Bundle.record ++
    ss.map s.strandRecord

def areaLen (a : List (List Byte)) : Nat := a.foldl (fun n r => n + r.length) 0

/-- The fields of a capture area: strand records, bundle records and task entries, each as its bytes. -/
structure Area where
  tasks : List (List Byte)
  bundles : List (List Byte)
  strands : List (List Byte)
  deriving DecidableEq, Repr

/-- n records cut from a list of bytes, each as long as `len` finds, and what is left. -/
def cutRecords (len : List Byte → Nat) (bs : List Byte) : Nat → List (List Byte) × List Byte
  | 0 => ([], bs)
  | n + 1 =>
    let k := len bs
    let (rs, rest) := cutRecords len (bs.drop k) n
    (bs.take k :: rs, rest)

/-- A capture area read from its bytes; at most as many records as the bytes can hold. -/
def parseArea (bs : List Byte) : Area :=
  let h := bytesNat (bs.take 64)
  let m := bs.length
  let (ts, r) := cutRecords (fun _ => 128) (bs.drop 64) (min (bitsNat h 95 64) m)
  let (gs, r) := cutRecords bundleLen r (min (bitsNat h 63 32) m)
  let (ss, _) := cutRecords recordLen r (min (bitsNat h 31 0) m)
  { tasks := ts, bundles := gs, strands := ss }

/-! ### Debug halts (R323) -/

/-- A halt completes: the records are written to the halt area, unwritten ones are lost (R404), and a trace record follows. -/
def State.haltNow (s : State) (c : Capture) (t : Task) : State :=
  let of (x : Task) : Bool := x.key = t.key
  let n := (s.capturedStrands of).length
  let area := s.captureArea of
  match s.writeAll s.mg.halta.toNat area with
  | .wait s => s
  | .fail s | .ok s _ =>
    let s := (s.gxRelease.mapTask t.key fun t => { t with halted := true, haltArea := area.flatten }).traceDevice 7 t.id.toNat n
    { s with captures := s.captures.filter (· != c) }

/-- MG_HALT of a task (R323, R395): ignored unless the debug state is invasive; nothing happens to a halted task. -/
def State.haltTask (s : State) (id : Nat) : State :=
  if s.mg.dbg ≠ 2 then s
  else
    match s.hg.tasks.find? fun t => t.id.toNat = id && t.state != .finishing && t.state != .ending with
    | some t => if t.halted then s else s.askCapture 0 t.key 0
    | none => s

/-- MG_HALT with RESUME 0. -/
def execMgHalt (m : Nat) (v : BitVec 64) (s : State) : Host.Outcome State Fault Refusal :=
  .next (if s.mgMay m && !v.getLsbD 63 then s.leaveIdle.haltTask (v.toNat % 2 ^ 32) else s.i3cSeen m)

/-- The bytes of a record to resume from: those that a debugger has changed since the halt, and the others as the state now gives them,
since a capture and a resume change no value that the strand would otherwise have read (R48; assumption 71). -/
def mergeBytes (old new live : List Byte) : List Byte :=
  List.zipWith (fun (p : Byte × Byte) l => if p.1 = p.2 then l else p.2) (old.zip new) live

/-- A strand's record in an area: that of its SID, bundle and member index. -/
def Strand.recordIn (st : Strand) (recs : List (List Byte)) : Option (List Byte) :=
  recs.find? fun r =>
    let h := bytesNat (r.take 128)
    bitsNat h 607 576 = st.sid.toNat &&
      match st.bundle with
      | some (g, m) => bitsNat h 543 512 = g % 2 ^ 32 && bitsNat h 552 544 = m % 2 ^ 9
      | none => bitsNat h 543 512 = 0

/-- Where a record stands: its PC, WKIND and WARG. -/
def recordStand (r : List Byte) : Nat × Nat := let h := bytesNat (r.take 128); (bitsNat h 120 64, bitsNat h 703 640)

/-- A halted strand with its state in the halt area. It stands where it stood unless the debugger has moved it; a cause recorded at
program level is delivered again (R367). -/
def State.resumeStrand (s : State) (key : Nat) (old new : List (List Byte)) (st : Strand) : Strand :=
  if st.task ≠ key then st
  else
    let st := match st.recordIn old, st.recordIn new with
      | some o, some n =>
        if o = n then { st with reenter := if st.cause ≠ 0 && !st.level then (if st.blocked.isNone then 1 else 2) else st.reenter }
        else
          let x := s.restoreStrand st (mergeBytes o n (s.strandRecord st))
          if recordStand o = recordStand n then { x with blocked := st.blocked } else x
      | _, _ => st
    { st with stopped := false, resumed := true, task := key, readyAt := s.cycle + 1 }

/-- A bundle with its state in the halt area. -/
def resumeBundle (key : Nat) (old new : List (List Byte)) (b : Bundle) : Bundle :=
  let mine (r : List Byte) : Bool := bitsNat (bytesNat (r.take 8)) 31 0 = b.handle % 2 ^ 32
  if b.task ≠ key then b
  else
    match old.find? mine, new.find? mine with
    | some o, some n => if o = n then b else b.ofRecord (mergeBytes o n b.record)
    | _, _ => b

/-- A task resumes from the halt area as it stands (R323); a resume from an area that cannot be read is not made (R404), and one whose
read has to wait is made once it can (R61). -/
def State.resumeTask (s : State) (t : Task) : State :=
  match s.hgRead 0 0 0 (s.mg.halta.toNat % 2 ^ 57) t.haltArea.length with
  | .wait s => { s with mg := { s.mg with resumes := s.mg.resumes ++ [t.key] } }
  | .fail s => s
  | .ok s bs =>
    let old := parseArea t.haltArea
    let new := parseArea bs
    let s := s.mapTask t.key fun t => { t with halted := false, haltArea := [] }
    let one := s.resumeStrand t.key old.strands new.strands
    { s with
      strands := s.strands.map one
      bundles := s.bundles.map fun b => { resumeBundle t.key old.bundles new.bundles b with saved := b.saved.map one } }

/-- Resumes that had to wait, in retention (R395) or for the halt area (R61), are made. -/
def State.heldResumes (s : State) : State :=
  if s.mg.pwrCur = 2 then s
  else
    let keys := s.mg.resumes
    keys.foldl (fun s k => match s.task? k with | some t => if t.halted then s.resumeTask t else s | none => s)
      { s with mg := { s.mg with resumes := [] } }

/-- MG_HALT with RESUME 1 (R323, R395): held in retention until the device is active. -/
def State.askResume (s : State) (id : Nat) : State :=
  if s.mg.dbg ≠ 2 then s
  else
    match s.hg.tasks.find? fun t => t.id.toNat = id && t.halted with
    | some t =>
      if s.mg.pwrCur = 2 then { s with mg := { s.mg with resumes := s.mg.resumes ++ [t.key] } } else s.resumeTask t
    | none => s

/-- MG_HALT_RESUME. -/
def execMgHaltResume (m : Nat) (v : BitVec 64) (s : State) : Host.Outcome State Fault Refusal :=
  .next (if s.mgMay m && v.getLsbD 63 then s.leaveIdle.askResume (v.toNat % 2 ^ 32) else s.i3cSeen m)

/-! ### Ending a task (R345, R349, R373, R397) -/

/-- Engine commands of a task that have not started are removed (R397). -/
def State.removeQueued (s : State) (key : Nat) : State :=
  s.engines.foldl (fun s ((d, c, u), _) =>
    let e := s.engine d c u
    if e.queue.any fun q => q.task = key then s.setEngine d c u { e with queue := e.queue.filter fun q => q.task != key } else s) s

/-- Whether a dump of an ending task is still to be written (R396, R397). -/
def State.dumpDue (s : State) (t : Task) : Bool :=
  t.state = .ending && t.status = 3 && !t.noDump && !t.dumped && s.hg.dmpbase.toNat != 0

/-- Whether every strand of an ending task has stopped. -/
def State.endReady (s : State) (t : Task) : Bool := t.state = .ending && s.allStopped fun x => x.key = t.key

/-- The accepted copy of an idempotent task is accepted again (R373): it keeps its identifier; a node whose predecessors have
completed is ready. -/
def State.relaunch (s : State) (t : Task) : State :=
  let r : TaskRec := t.record
  let n : Task := { Task.fresh t.key t.id r t.addr s.cycle t.frame t.spawned t.traced with relaunches := t.relaunches + 1 }
  if r.graph && r.npred != 0 then (s.mapTask t.key fun _ => { n with tiles := t.tiles }).readyTask t.key
  else (s.mapTask t.key fun _ => n).tryAdmit t.key

/-- The strands, bundles and commands of a task go, and it completes with its status, or is launched again (R373, R397). -/
def State.clearTask (s : State) (t : Task) : State :=
  let s := s.removeCommands fun k => k = t.key
  -- the grants of a task that a soft error has ended are zeroed when freed (R373)
  let s := if t.status = 4 then { s with bundles := s.bundles.map fun b => if b.task = t.key then { b with scratch := [], poison := [] } else b }
    else s
  let s := (s.strands.filter fun st => st.task = t.key).foldl State.killStrand s
  let s := (s.bundles.filter fun b => b.evicted && b.task = t.key).foldl State.dropEvicted s
  let s := { s with captures := s.captures.filter fun c => c.what != 0 || c.id != t.key }
  s.dissolveAll

/-- A task that is being ended (R397): its queued commands go; when its strands have stopped and its dump is written it completes. -/
def State.endStep (s : State) (t : Task) : State :=
  let s := s.removeQueued t.key
  if !s.endReady t || s.dumpDue t then s
  else
    let s := s.clearTask t
    if t.status = 4 && TaskRec.idem t.record && t.relaunches < bitsNat s.hg.serr.toNat 11 8 then
      (match s.task? t.key with | some t => s.relaunch t | none => s)
    else s.finish t.key t.status

/-- TASK_END (R397). -/
def execTaskEnd (key : Nat) (s : State) : Host.Outcome State Fault Refusal :=
  .next (match s.task? key with | some t => if t.state = .ending then s.endStep t else s | none => s)

/-! ### The dump (R396 to R400) -/

/-- A grant as a dump holds it: a word with an uncorrectable error is written as zero (R399). -/
def Bundle.dumpGrant (b : Bundle) : List Byte :=
  readBytes (b.poison.foldl (fun m w => writeBytes m (8 * w) (List.replicate 8 0#8)) b.scratch) 0 (1024 * b.grant)

/-- The engine entry of a stopped command (R398). -/
def engineEntry (u : Nat) (r : EngRun) : Nat :=
  let v (i : Nat) : Nat := r.vec.getD i 0 % 2 ^ 20
  r.entry.record % 2 ^ 57 + u * 2 ^ 57 + v 0 * 2 ^ 64 + v 1 * 2 ^ 84 + v 2 * 2 ^ 104 + v 3 * 2 ^ 124 + v 4 * 2 ^ 144 +
    (if u = 2 then r.sub % 2 ^ 21 * 2 ^ 164 else 0)

/-- Running commands of a task, by core number, engine number and die. -/
def State.stoppedRuns (s : State) (key : Nat) : List (Nat × EngRun) :=
  let l : List ((Nat × Nat × Nat) × EngRun) := s.engines.filterMap fun (p, e) =>
    match e.run with | some r => if r.entry.task = key then some (p, r) else none | none => none
  (sortBy (fun x => (x.1.2.1 * 4 + x.1.2.2) * 4 + x.1.1) l).map fun x => (x.1.2.2, x.2)

/-- A section of a dump as it is laid out: its bytes and how many entries it holds. -/
structure Section where
  bytes : List Byte
  count : Nat
  deriving DecidableEq, Repr

/-- The four sections of R398, in order. -/
def State.dumpSections (s : State) (t : Task) : List Section :=
  let of (x : Task) : Bool := x.key = t.key
  let ss := sortBy (fun st => st.sid.toNat) (s.capturedStrands of)
  let bs := sortBy Bundle.handle (s.capturedBundles of)
  let es := s.stoppedRuns t.key
  [{ bytes := ss.flatMap s.strandRecord, count := ss.length }, { bytes := bs.flatMap Bundle.dumpGrant, count := bs.length },
   { bytes := bs.flatMap Bundle.recordPart, count := bs.length },
   { bytes := es.flatMap fun (u, r) => natBytesLE 32 (engineEntry u r), count := es.length }]

/-- n rounded up to a multiple of 64 (R398). -/
def round64 (n : Nat) : Nat := (n + 63) / 64 * 64

/-- The sections that fit in the room, each whole and in order (R399): offset and section, the end of the last, and whether one did not
fit. -/
def fitSections (room at_ : Nat) : List Section → List (Nat × Section) × Nat × Bool
  | [] => ([], at_, false)
  | x :: r =>
    let off := round64 at_
    if off + x.bytes.length ≤ room then
      let (l, e, t) := fitSections room (off + x.bytes.length) r
      ((off, x) :: l, e, t)
    else ([], at_, true)

/-- The header of a dump (R398). -/
def State.dumpHeader (s : State) (t : Task) (l : List (Nat × Section)) (len : Nat) (trunc : Bool) (valid : Bool) : Nat :=
  let off (i : Nat) : Nat := match l[i]? with | some (o, _) => o | none => 0
  let cnt (i : Nat) : Nat := match l[i]? with | some (_, x) => x.count | none => 0
  let spois := 2 ≤ l.length && (s.capturedBundles fun x => x.key = t.key).any fun b => !b.poison.isEmpty
  let e : EndRec := t.endRec.getD
    { fcause := 0, ftval := 0, fpc := 0, fsid := 0, fbhnd := 0, time := 0, ncount := 0, ncause := 0, ntval := 0, npc := 0, nsid := 0 }
  0x0D17 + 2 ^ 16 + (if valid then 2 ^ 24 else 0) + (if trunc then 2 ^ 25 else 0) + (if spois then 2 ^ 26 else 0) + t.id.toNat * 2 ^ 32 +
    t.pdom % 256 * 2 ^ 64 + t.partid % 16 * 2 ^ 72 + e.time % 2 ^ 64 * 2 ^ 128 + e.fcause.toNat * 2 ^ 192 + e.ftval.toNat * 2 ^ 256 +
    e.fpc.toNat * 2 ^ 320 + e.fsid.toNat * 2 ^ 384 + e.fbhnd % 2 ^ 32 * 2 ^ 416 + e.ncause.toNat * 2 ^ 448 + e.ntval.toNat * 2 ^ 512 +
    e.npc.toNat * 2 ^ 576 + e.nsid.toNat * 2 ^ 640 + min e.ncount (2 ^ 32 - 1) * 2 ^ 672 + cnt 0 * 2 ^ 704 + cnt 1 * 2 ^ 736 +
    cnt 3 * 2 ^ 752 + off 0 * 2 ^ 768 + off 1 * 2 ^ 800 + off 2 * 2 ^ 832 + off 3 * 2 ^ 864 + len % 2 ^ 32 * 2 ^ 896

/-- The dump of a task, in the order of R399: header, sections, release, and the first 8 bytes with VALID 1. Its writes are physical
(R396). -/
def State.writeDump (s : State) (t : Task) : State :=
  let size := bitsNat s.hg.dmpsize.toNat 31 12 * 4096
  let next := bitsNat s.hg.dmpnext.toNat 31 12 * 4096
  let room := size - next
  let base := bitsNat s.hg.dmpbase.toNat 47 21 * 2 ^ 21 + next
  let done (s : State) : State := s.mapTask t.key fun t => { t with dumped := true }
  if room < 128 then done (s.faultRecord 1 12 t.id.toNat t.addr)
  else
    let (l, len, trunc) := fitSections room 128 (s.dumpSections t)
    let h := s.dumpHeader t l len trunc
    let w (s : State) (off : Nat) (bs : List Byte) : State := s.writeMem 0 none (base + off) bs false none
    let s := w s 0 (natBytesLE 128 (h false))
    let s := (l.foldl (fun s (o, x) => w s o x.bytes) s).gxRelease
    let s := (w s 0 (natBytesLE 8 (h true % 2 ^ 64))).gxRelease
    let adv := if trunc then size else next + (len + 4095) / 4096 * 4096
    done { s with hg := { s.hg with dmpnext := BitVec.ofNat 64 (adv % 2 ^ 32) } }

/-- DUMP_WRITE (R397, R399). -/
def execDumpWrite (key : Nat) (s : State) : Host.Outcome State Fault Refusal :=
  .next (
    match s.task? key with
    | some t => if s.dumpDue t && (s.removeQueued key).endReady t then (s.removeQueued key).writeDump t else s
    | none => s)

end Sys2Proof.Machine
end

