-- ==== Sys2Proof/Machine/PartMoves.lean ====
section
/-! DEFINITION. Leaves shared with a companion, and the moves of their parts in both directions (06 R131 to R136; 15 R306; 19 R405). -/
namespace Sys2Proof.Machine

/-! ### Leaves in memory -/

/-- The leaf entries below a table: page number and the entry's address (R131). -/
def State.tableLeaves (s : State) (table page : Nat) : Nat → List (Nat × Nat)
  | 0 => (List.range 512).map fun i => (page * 512 + i, table + 16 * i)
  | n + 1 => (List.range 512).flatMap fun i =>
      let e := readNat s.mem (table + 16 * i) 16
      if bitNat e 0 then s.tableLeaves (bitsNat e 47 13 * 2 ^ 13) (page * 512 + i) n else []

/-- A leaf shared with the companion, with its place. -/
structure HomeLeaf where
  pdom : Nat
  page : Nat
  addr : Nat
  leaf : Leaf
  deriving DecidableEq, Repr

/-- Every valid leaf with HOME 1 (R131). -/
def State.homeLeaves (s : State) : List HomeLeaf :=
  (List.range 256).flatMap fun d =>
    let root := (s.ptroot d).toNat
    if bitNat root 0 then
      (s.tableLeaves (bitsNat root 47 13 * 2 ^ 13) 0 3).filterMap fun (page, a) =>
        let l : Leaf := BitVec.ofNat 128 (readNat s.mem a 16)
        if l.v && l.home = 1 then some { pdom := d, page := page, addr := a, leaf := l } else none
    else []

/-- The leaf of a page and its address, as the tables stand. -/
def State.leafOf (s : State) (pdom page : Nat) : Option HomeLeaf :=
  match s.leafAddr pdom page with
  | .ok a =>
    let l : Leaf := BitVec.ofNat 128 (readNat s.mem a 16)
    if l.v then some { pdom := pdom, page := page, addr := a, leaf := l } else none
  | .error _ => none

/-- The sluice sets the state of a part in its leaf and in every TLB (R134). -/
def State.setPart (s : State) (h : HomeLeaf) (k : Nat) (p : PartState) : State :=
  let now : Leaf := BitVec.ofNat 128 (readNat s.mem h.addr 16)
  (s.homeWriteAtom h.addr (natBytesLE 16 (now.setPart k p).toNat) false).tlbMap h.pdom h.page fun l => some (l.setPart k p)

/-- The physical address of a part. -/
def HomeLeaf.partPa (h : HomeLeaf) (k : Nat) : Nat := h.leaf.ppn * 2 ^ 21 + k * 2 ^ 16

/-- The MOVE payload of a part (R306). -/
def movePayload (pdom page part : Nat) : Nat := part % 32 + page * 2 ^ 21 % 2 ^ 57 + pdom % 256 * 2 ^ 64

/-! ### Accesses that wait for a part -/

/-- Lanes of a waiting access that lie in a part go to its backing. -/
def MemOp.arrive (op : MemOp) (pdom page part : Nat) : MemOp :=
  { op with lanes := op.lanes.map fun l =>
      match l.tgt with
      | .remote pa g b p d va => if d = pdom && pageOf va = page && partOf va = part then { l with tgt := .phys pa g b p } else l
      | _ => l }

/-- The waiting access of a strand, with its lanes in a part sent to the backing. -/
def Strand.arrive (st : Strand) (pdom page part : Nat) : Strand :=
  match st.blocked with
  | some b => (match b.wait with
    | .access op => { st with blocked := some { b with wait := .access (op.arrive pdom page part) } }
    | _ => st)
  | none => st

/-- Whether a strand will issue its instruction again for a part it waits for. -/
def State.willIssue (s : State) (r : SRef) : Bool :=
  match s.strandAt r with
  | some st =>
    (match st.blocked with
     | some b => (match b.wait with | .retry | .fetchMove _ _ _ => true | _ => false)
     | none => false)
  | none => false

/-- A part is here: its waiting accesses are performed in the order of their arrival, and waiting fetches are made again; strands that
issue again have a claim on the part until they have (R135). -/
def State.servePart (s : State) (pdom page part : Nat) : State :=
  let same (m : PartMove) : Bool := m.pdom = pdom && m.page = page && m.part = part && !m.out
  let ws := (s.link.moves.filter same).flatMap PartMove.waiters
  let s : State := { s with strands := s.strands.map fun (st : Strand) => st.arrive pdom page part }
  let s := ws.foldl State.pokeAccess s
  let claims := ws.filter s.willIssue
  let s : State := { s with strands := s.strands.map fun (st : Strand) =>
    match st.blocked with
    | some b => (match b.wait with
      | .fetchMove d p k => if d = pdom && p = page && k = part then st.reissue s.cycle else st
      | _ => st)
    | none => st }
  let done (m : PartMove) : PartMove := if same m then { m with written := true, since := s.timePs, waiters := [], claims := claims } else m
  { s with link := { s.link with moves := s.link.moves.map done } }

/-- Whether a strand that has a claim will still issue. -/
def State.claimStands (s : State) (r : SRef) : Bool := match s.strandAt r with | some st => !st.stopped | none => false

/-- Whether the access of a unit that waited for a part will still be made: its engine runs a command of its task, or reads its ring; its
task has not ended; or it is the Headgate's own. -/
def State.unitStands (s : State) (u : UnitWait) : Bool :=
  match u.core with
  | some c =>
    (u.task = 0 && (s.core u.die c).mxring ≠ 0 && !(s.core u.die c).ringStopped) ||
      s.engines.any fun ((d, k, n), e) => d = u.die && engCore k n = c &&
        match e.run with | some r => r.entry.pdom = u.pdom && s.engTaskId r = u.task && r.held.isNone | none => false
  | none => u.task = 0 || s.hg.tasks.any fun t => t.id.toNat = u.task

/-- Claims that nothing stands behind any more are gone. -/
def State.settleClaims (s : State) : State :=
  { s with link := { s.link with moves := s.link.moves.map fun m =>
      if m.written then { m with claims := m.claims.filter s.claimStands, units := m.units.filter s.unitStands } else m } }

/-- Whether an undone lane of a strand's waiting access lies in a physical range. -/
def Strand.uses (st : Strand) (lo hi : Nat) : Bool :=
  match st.blocked with
  | some b => (match b.wait with
    | .access op => op.lanes.any fun l => !l.done && (match l.tgt with | .phys pa _ _ _ => lo ≤ pa && pa < hi | _ => false)
    | _ => false)
  | none => false

/-- Whether an access in flight lies in a physical range. -/
def State.inFlight (s : State) (lo hi : Nat) : Bool :=
  (s.strands.any fun st => st.uses lo hi) || (s.xwrites.any fun w => lo ≤ w.pa && w.pa < hi) ||
    s.xreads.any fun r => lo ≤ r.pa && r.pa < hi

/-! ### Moves toward the companion (R135 step 3) -/

/-- The part leaves: its copies go, its watches fire, its 64 KiB are sent with the marks of its atoms, and it is remote. -/
def State.sendPart (s : State) (h : HomeLeaf) (k : Nat) : State :=
  let lo := h.partPa k
  let s := s.dropCopies lo (lo + 2 ^ 16)
  let s := s.fireWatches (fun _ => true) fun pa _ _ => lo ≤ pa && pa < lo + 2 ^ 16
  let marks := (List.range 2048).filter fun i => s.atomMark (lo / 32 + i) != 0
  let s := s.sendMsg 0x21 (movePayload h.pdom h.page k) (readBytes s.mem lo (2 ^ 16)) marks
  let s := s.setPart h k .remote
  { s with link := { s.link with dirty := s.link.dirty.filter (· != lo / 2 ^ 16) } }

/-- Whether a step's capture is in progress: MOVE requests wait until it has ended (R312). -/
def State.stepRunning (s : State) : Bool := s.captures.any fun c => c.why = 1

/-- Whether accesses that waited for a part here have still to be made before it may move back (R135). -/
def State.partClaimed (s : State) (m : PartMove) : Bool :=
  s.link.moves.any fun x => !x.out && x.pdom = m.pdom && x.page = m.page && x.part = m.part &&
    (!x.written || !x.claims.isEmpty || !x.units.isEmpty)

/-- A request of the companion for a part goes on (R135). -/
def State.outStep (s : State) (m : PartMove) : State :=
  let drop (s : State) : State := { s with link := { s.link with moves := s.link.moves.filter (· != m) } }
  match s.leafOf m.pdom m.page with
  | none => drop s
  | some h =>
    match h.leaf.part m.part with
    | .present =>
      if s.stepRunning || s.partClaimed m then s
      else
        let s := s.setPart h m.part .moving
        { s with link := { s.link with moves := s.link.moves.map fun x => if x = m then { m with requested := true } else x } }
    | .moving =>
      let lo := h.partPa m.part
      if s.inFlight lo (lo + 2 ^ 16) then s else (drop s).sendPart h m.part
    | _ => drop s

/-! ### Moves toward this side (R135 steps 1, 2 and 4) -/

/-- A request of this side: MOVE is sent once the part is remote; a part that is here after all is served (R135). -/
def State.inStepOf (s : State) (m : PartMove) : State :=
  let drop (s : State) : State := { s with link := { s.link with moves := s.link.moves.filter (· != m) } }
  if m.written then (if m.claims.isEmpty && m.units.isEmpty then drop s else s)
  else if m.requested then s
  else
    match s.leafOf m.pdom m.page with
    | none => s
    | some h =>
      match h.leaf.part m.part with
      | .present => s.servePart m.pdom m.page m.part
      | .remote =>
        if s.link.paired && s.linkUp then
          let s := s.sendMsg 0x20 (movePayload m.pdom m.page m.part) [] []
          { s with link := { s.link with moves := s.link.moves.map fun x =>
              if x = m then { m with requested := true, since := s.timePs } else x } }
        else s
      | _ => s

/-- The moves of parts go on, at the end of a cycle. -/
def State.stepMoves (s : State) : State :=
  let s := s.settleClaims
  let s := (s.link.moves.filter fun m => m.out).foldl State.outStep s
  (s.link.moves.filter fun m => !m.out).foldl State.inStepOf s

/-! ### The messages -/

/-- The bytes of a message's words. -/
def wordsBytes (w : List Word) : List Byte := w.flatMap fun x => natBytesLE 4 x.toNat

/-- The 16-byte payload of a message. -/
def msgPayload (w : List Word) : Nat := bytesNat ((wordsBytes w).take 16)

/-- Whether a message of the companion reaches the device, which leaves idle for it (R326, R386, R393). -/
def State.azMay (s : State) : Bool := s.booted && s.linkUp

/-- The part a MOVE payload names. -/
def payloadMove (p since : Nat) (out : Bool) : PartMove :=
  { pdom := bitsNat p 71 64, page := bitsNat p 56 21, part := bitsNat p 4 0, out := out, requested := false, waiters := [], claims := [], units := [],
    since := since, written := false }

/-- MOVE (R135, R306): the part is given up once the accesses that come first have been made. -/
def execMove (w : List (BitVec 32)) (s : State) : Host.Outcome State Fault Refusal :=
  .next (
    if s.azMay && s.link.paired then
      let m := payloadMove (msgPayload w) s.timePs true
      let s := s.leaveIdle
      if s.link.moves.any fun x => x.out && x.pdom = m.pdom && x.page = m.page && x.part = m.part then s
      else ({ s with link := { s.link with moves := s.link.moves ++ [m] } } : State).outStep m
    else s)

/-- MOVE_DATA (R135, R372, R375): the part's bytes and marks stand at its backing, the part is present, the device acquires at system scope
as its new owner (R152), and what waited for it is performed. -/
def State.takePart (s : State) (h : HomeLeaf) (k : Nat) (bytes : List Byte) (marks : List Nat) : State :=
  let lo := h.partPa k
  let s := s.dropCopies lo (lo + 2 ^ 16)
  let s := s.fireWatches (fun _ => true) fun pa _ _ => lo ≤ pa && pa < lo + 2 ^ 16
  let s : State := { s with
    mem := writeBytes s.mem lo bytes
    poison := (marks.filter (· < 2048)).foldl (fun l i => insertNat (lo / 32 + i) l) (dropRange (lo / 32) (lo / 32 + 2048) s.poison)
    lost := dropRange (lo / 32) (lo / 32 + 2048) s.lost }
  ((s.setPart h k .present).acquireAll.servePart h.pdom h.page k).note (match homeOf lo with | .dram d => d | _ => 0) none 73 1 0

/-- MOVE_DATA (R135). -/
def execMoveData (w : List (BitVec 32)) (bytes : List (BitVec 8)) (marks : List Nat) (s : State) : Host.Outcome State Fault Refusal :=
  .next (
    if s.azMay && s.link.paired && bytes.length = 2 ^ 16 then
      let m := payloadMove (msgPayload w) s.timePs false
      match s.leafOf m.pdom m.page with
      | some h =>
        (match h.leaf.part m.part with
         | .remote => s.leaveIdle.takePart h m.part bytes marks
         | _ => s)
      | none => s
    else s)

end Sys2Proof.Machine
end

