-- ==== Sys2Proof/Machine/Companion.lean ====
section
/-! DEFINITION. Pairing, docking, undocking, cistern steps and the end of a pair (15 R301, R306, R310 to R312; 21 R374, R378; 23 R386 to
R391). -/
namespace Sys2Proof.Machine

/-! ### Pairing (R306, R310, R311) -/

/-- Slot 3 of every clock row, and every row and count for home 3, are zero (R310); requests of the companion on their way are gone. -/
def State.clearSlot3 (s : State) : State :=
  { s with
    xwrites := s.xwrites.filter fun w => w.src != 3
    link := { s.link with reads := [] }
    dies := s.dies.map fun (n, x) =>
      if n = 3 then (n, { x with applied := [0, 0, 0, 0], rows := List.replicate 4 [0, 0, 0, 0] })
      else (n, { x with rows := (x.rows.set 3 [0, 0, 0, 0]).map fun r => r.set 3 0, applied := x.applied.set 3 0 }) }

/-- The payload this side sends in PAIR and PAIR_ACK: its stepping tag, version 1 and the memory size of its record (R306, R324). -/
def State.pairPayload (s : State) : Nat := s.mg.tag.toNat + 2 ^ 16 + s.mg.memGiB % 256 * 2 ^ 32

/-- PAIR (R306): answered with PAIR_ACK, and with this side's own PAIR. -/
def execPair (w : List (BitVec 32)) (s : State) : Host.Outcome State Fault Refusal :=
  .next (
    let p := msgPayload w
    if s.azMay && !s.link.paired && bitsNat p 23 16 = 1 then
      let s := s.leaveIdle
      let s : State := { s with link := { s.link with tagSeen := bitsNat p 15 0, memGiB := bitsNat p 39 32 } }
      (s.sendMsg 0x02 s.pairPayload [] []).sendMsg 0x01 s.pairPayload [] []
    else s)

/-- PAIR_ACK (R311): pairing completes; the heads finish the frame under way and then blank (R22). -/
def execPairAck (w : List (BitVec 32)) (s : State) : Host.Outcome State Fault Refusal :=
  .next (
    let p := msgPayload w
    if s.azMay && !s.link.paired && bitsNat p 23 16 = 1 then
      let s := s.leaveIdle.clearSlot3
      ({ s with link := { s.link with paired := true, skip := 0, tagSeen := bitsNat p 15 0, memGiB := bitsNat p 39 32, stepSlot := 1,
                                      stepPending := false, dirty := [] } } : State).azEvent 1
    else s)

/-- COMPANION_LINK_UP (R386). -/
def execCompanionLinkUp (s : State) : Host.Outcome State Fault Refusal :=
  .next { s with link := { s.link with training := false } }

/-! ### Docking (R311) -/

/-- A task entry taken as a migrated task: its number in the model, and the state that holds it. -/
def State.takeTask (s : State) (bs : List Byte) : State :=
  let r : TaskRec := BitVec.ofNat 512 (bytesNat (bs.take 64))
  let key := s.hg.nextKey
  let t := Task.fresh key (BitVec.ofNat 32 (bytesNat ((bs.drop 64).take 4))) r 0 s.cycle (s.hg.frame.toNat % 2 ^ 16) false false
  let t := { t with state := .dispatched [] [], epoch := 0, partid := s.link.partid.toNat % 16, migrated := true, started := true,
                    tstart := s.timeNs, noDump := false }
  { s with hg := { s.hg with nextKey := key + 1, tasks := s.hg.tasks ++ [t] } }

/-- The offer of a strand that comes standing at QSEND (R119, R309). The entry is the register that its instruction names; where that
word is not here it is a free value (assumption 34). -/
def State.takeOffer (s : State) (st : Strand) (arg : Nat) : Strand × State :=
  let (entry, s) := match s.peekInstr st.pdom.toNat st.pc.toNat with
    | some (w, _) => (st.v (w.extractLsb' 7 7), s)
    | none => s.freeVec
  let o : Offer :=
    { id := s.nextId, die := st.at_.die, core := st.at_.core, slot := st.at_.slot, task := st.task, sid := st.sid,
      mbox := arg % 8, pending := BitVec.ofNat 7 (arg / 8), entry := entry, pdom := st.pdom.toNat,
      bundle := st.bundle.map Prod.fst, level := st.level }
  ({ st with blocked := some { wait := .qsend s.nextId, len := 1, woken := false, since := s.cycle } },
   { s with nextId := s.nextId + 1, offers := s.offers ++ [o] })

/-- A strand record taken for one of the migrated tasks: it runs under AZ_PARTID, in epoch 0, and stands in no slot. -/
def State.takeStrand (s : State) (ts : List Task) (bs : List Byte) : Option Strand × State :=
  let h := bytesNat (bs.take 128)
  match ts.find? fun t => t.id.toNat = bitsNat h 639 608 with
  | none => (none, s)
  | some t =>
    let base := Strand.launch t s.mg.tag { die := 1, core := 0, slot := 600 } 0 0 0 s.cycle (s.mg.tag, 0) [] []
    let st := { s.restoreStrand base bs with task := t.key, taskId := t.id, partid := BitVec.ofNat 4 t.partid, epoch := 0 }
    if bitsNat h 643 640 = 4 then
      let (st, s) := s.takeOffer st (bitsNat h 703 644)
      (some st, s)
    else (some st, s)

/-- Every strand record of an area. -/
def State.takeStrands (s : State) (ts : List Task) : List (List Byte) → List Strand × State
  | [] => ([], s)
  | r :: rs =>
    let (x, s) := s.takeStrand ts r
    let (xs, s) := s.takeStrands ts rs
    (x.toList ++ xs, s)

/-- A bundle that stands evicted, with its strands, to be restored under R45 and R46. -/
def waitingBundle (handle grant : Nat) (st : Strand) (saved : List Strand) : Bundle :=
  { handle := handle, die := 1, core := 0, pdom := st.pdom, task := st.task, grant := grant, scratch := [], poison := [],
    bars := List.replicate 16 (Bar.fresh 1), commons := List.replicate 32 0, arrive := 0, evicted := true, evicting := false,
    saved := saved, bw := (0, 0) }

/-- The bundles of an area; strands without a bundle wait for a slot alone, in one that ends when they have it. -/
def areaBundles (recs : List (List Byte)) (ss : List Strand) : List Bundle :=
  recs.filterMap fun r =>
    let h := bitsNat (bytesNat (r.take 8)) 31 0
    let ms := ss.filter fun st => match st.bundle with | some (g, _) => g = h | none => false
    match ms with
    | st :: _ => some ((waitingBundle h (bitsNat (bytesNat (r.take 8)) 40 32) st ms).ofRecord r)
    | [] => none

/-- Strands of an area without a bundle, each waiting under a handle of its own. -/
def State.looseBundles (s : State) : List Strand → State
  | [] => s
  | st :: r =>
    let h := freeHandle (s.bundles.map Bundle.handle) s.hg.nextHandle (s.bundles.length + 2)
    ({ s with bundles := s.bundles ++ [waitingBundle h 0 st [st]], hg := { s.hg with nextHandle := h + 1 } } : State).looseBundles r

/-- Whether the handles of an area are new and distinct. -/
def State.handlesNew (s : State) (a : Area) : Bool :=
  let hs := a.bundles.map fun r => bitsNat (bytesNat (r.take 8)) 31 0
  hs.all fun h => h != 0 && (hs.filter (· = h)).length = 1 && (s.bundle? h).isNone

/-- The K9 takes a capture area (R311): the tasks, and the bundles, which wait to be restored. -/
def State.dock (s : State) (a : Area) : State :=
  let n := s.hg.tasks.length
  let s := a.tasks.foldl State.takeTask s
  let ts := s.hg.tasks.drop n
  let (ss, s) := s.takeStrands ts a.strands
  let bs := areaBundles a.bundles ss
  let s : State := { s with bundles := s.bundles ++ bs }
  let s := s.looseBundles (ss.filter fun st => st.bundle.isNone)
  let s := ts.foldl (fun s t => s.mapTask t.key fun t => { t with strandsLeft := (ss.filter fun st => st.task = t.key).length }) s
  let hs := (s.bundles.filter fun b => b.evicted && ts.any fun t => t.key = b.task).map Bundle.handle
  ({ s with link := { s.link with docking := some hs } } : State).dockStep 0

/-- MIGRATE (R306, R311): the payload's four words, and then the words of the capture area it names. An area that cannot be taken,
because this side is not free for it or a handle is in use here, is left (assumption 35). -/
def execMigrate (w : List (BitVec 32)) (s : State) : Host.Outcome State Fault Refusal :=
  .next (
    let a := parseArea ((wordsBytes (w.drop 4)).take (bitsNat (msgPayload w) 127 64))
    if s.azMay && s.link.paired && !s.link.migrated && s.link.docking.isNone && !s.link.undocking && s.handlesNew a then
      s.leaveIdle.dock a
    else s)

/-! ### Cistern steps (R312, R389) -/

/-- CIS_PERIOD in picoseconds, and whether a step is due. -/
def State.stepDue (s : State) : Bool :=
  let p := s.link.cisPeriod.toNat
  s.link.paired && s.link.migrated && p != 0 && !s.link.stepPending && !s.link.inStep && s.link.stepAt + p * 10 ^ 9 ≤ s.timePs

/-- CISTERN_STEP (R312): the capture of the migrated PARTID begins. -/
def execCisternStep (s : State) : Host.Outcome State Fault Refusal :=
  .next (
    if s.stepDue then
      { s.askCapture 1 (s.link.partid.toNat % 16) 1 with link := { s.link with inStep := true, stepAt := s.timePs } }
    else s)

/-- Captured strands run on (R312). -/
def State.endCapture (s : State) (c : Capture) : State :=
  let keys := (s.hg.tasks.filter fun t => c.covers t && !t.halted && t.state != .ending).map Task.key
  { s with
    captures := s.captures.filter (· != c)
    strands := s.strands.map fun st => if keys.contains st.task || (c.what = 2 && (s.task? st.task).isNone) then { st with stopped := false, readyAt := s.cycle + 1 } else st }

/-- The descriptor of a dirty 64 KiB block: the part of a shared leaf that it backs. -/
def blockPart (ls : List HomeLeaf) (b : Nat) : Option (Nat × Nat) :=
  ((ls.find? fun h => h.leaf.ppn = b / 32)).map fun h => (movePayload h.pdom h.page (b % 32), b)

/-- The records of a capture area written at a physical address. -/
def State.putArea (s : State) (at_ : Nat) (area : List (List Byte)) : State :=
  (area.foldl (fun (x : State × Nat) r => (x.1.writeMem 0 none x.2 r false none, x.2 + r.length)) (s, at_)).1

/-- Bytes written to the companion's memory. -/
def State.putKmem (s : State) (a : Nat) (bs : List Byte) : State :=
  { s with link := { s.link with kmem := writeBytes s.link.kmem a bs } }

/-- Whether writes of the tasks that a capture covers are still to be acknowledged: a release at system scope waits for them (R153). -/
def State.writesLeft (s : State) (c : Capture) : Bool :=
  s.xwrites.any fun w => match s.task? (s.keyOf w.task) with | some t => c.covers t | none => false

/-- The records and parts of a step are written to its slot, with the zero first and the commit record last, and STEP is sent
(R312, R389); a step that exceeds the slot is skipped. -/
def State.makeStep (s : State) (c : Capture) : State :=
  if s.writesLeft c then s
  else
  let area := s.captureArea fun t => c.covers t
  let ls := s.homeLeaves
  let parts := s.link.dirty.filterMap (blockPart ls)
  let used := areaLen area + parts.length * (16 + 2 ^ 16)
  let size := s.link.cisSlot.toNat
  if size < used + 32 then
    let s : State := { s with link := { s.link with inStep := false, skip := min (s.link.skip + 1) 65535, reason := 1 } }
    (s.endCapture c).azEvent 6
  else
    let slot := 1 - s.link.stepSlot
    let seq := s.link.stepSeq + 1
    let base := s.link.cisBase.toNat + slot * size
    let s := s.gxRelease.putKmem (base + size - 32) (List.replicate 32 0#8)
    let body := area ++ parts.flatMap fun (d, b) => [natBytesLE 16 d, readBytes s.mem (b * 2 ^ 16) (2 ^ 16)]
    let s := (body.foldl (fun (x : State × Nat) r => (x.1.putKmem x.2 r, x.2 + r.length)) (s, base)).1
    let s := s.putKmem (base + size - 32) (natBytesLE 32 (0x0C15 + seq % 2 ^ 64 * 2 ^ 64 + used % 2 ^ 64 * 2 ^ 128))
    let s := s.sendMsg 0x30 (slot + seq % 2 ^ 64 * 2 ^ 64) [] []
    let s : State := { s with link := { s.link with inStep := false, stepSeq := seq, stepSlot := slot, stepPending := true,
                                                    stepSince := s.timePs, dirty := [] } }
    s.endCapture c

/-- STEP_ACK (R389, R390). -/
def execStepAck (w : List (BitVec 32)) (s : State) : Host.Outcome State Fault Refusal :=
  .next (
    let p := msgPayload w
    if s.azMay && s.link.stepPending && bitsNat p 0 0 = s.link.stepSlot && bitsNat p 127 64 = s.link.stepSeq % 2 ^ 64 then
      { s.leaveIdle with link := { s.leaveIdle.link with stepPending := false, ackSeq := s.link.stepSeq, ackSlot := s.link.stepSlot } }
    else s)

/-! ### Undocking (R311) -/

/-- Work of a set of tasks goes as a cancel removes it, without completion records and without decrements (R387). -/
def State.dropTasks (s : State) (of : Task → Bool) : State :=
  let keys := (s.hg.tasks.filter of).map Task.key
  let s := (s.strands.filter fun st => keys.contains st.task).foldl State.killStrand s
  let s := (s.bundles.filter fun b => b.evicted && keys.contains b.task).foldl State.dropEvicted s
  let s := s.removeCommands keys.contains
  ({ s with hg := { s.hg with tasks := s.hg.tasks.filter fun t => !keys.contains t.key } } : State).dissolveAll

/-- The open epochs of the tasks that a capture covers, and whether one of their epochs is being committed or cancelled. -/
def State.openEpochs (s : State) (c : Capture) (states : List Nat) : List Nat :=
  (s.hg.epochs.filter fun x => states.contains x.2.1 && s.hg.tasks.any fun t => c.covers t && t.epoch = x.1).map Prod.fst

/-- Every open epoch of the tasks to be moved is cancelled, so that only epoch-0 work is captured (R311, which leaves the choice between a
commit and a cancel; assumption 33). -/
def State.closeEpochs (s : State) (c : Capture) : State := (s.openEpochs c [1]).foldl State.cancelEpoch s

/-- The capture for undocking is complete: every part this side owns goes back, the area is written, and MIGRATE is sent; MIGRATED
becomes 0 (R311). It waits for accesses in flight, and until no epoch of the tasks is open. -/
def State.undock (s : State) (c : Capture) : State :=
  let ls := s.homeLeaves
  let mine := ls.flatMap fun h => ((List.range 32).filter fun k => h.leaf.part k = .present || h.leaf.part k = .moving).map fun k => (h, k)
  if !(s.openEpochs c [1, 3, 4]).isEmpty then s.closeEpochs c
  else if s.writesLeft c || mine.any fun (h, k) => s.inFlight (h.partPa k) (h.partPa k + 2 ^ 16) then s
  else
    let area := s.captureArea fun t => c.covers t
    let away := (s.capturedStrands fun t => c.covers t).map Strand.task
    let s := mine.foldl (fun s (h, k) => s.sendPart h k) s
    let s := (s.putArea Config.undockArea area).gxRelease
    let s := s.sendMsg 0x10 (Config.undockArea % 2 ^ 64 + areaLen area % 2 ^ 64 * 2 ^ 64) [] []
    { s with link := { s.link with migrated := false, undocking := true, away := away, moves := s.link.moves.filter fun m => !m.out },
             captures := s.captures.filter (· != c) }

/-- A capture of the whole device is complete (R47): its records are written, in the layout of R311, and the strands run on. The spec names
no area for it (assumption 33). -/
def State.captureDevice (s : State) (c : Capture) : State :=
  if s.writesLeft c then s
  else ((s.putArea Config.undockArea (s.captureArea fun t => c.covers t)).gxRelease).endCapture c

/-- A pair that ends without failure (R306, R311): the companion has what an undocking has handed over. -/
def State.unpair (s : State) : State :=
  let s := (s.dropTasks fun t => s.link.undocking && s.link.away.contains t.key).clearSlot3
  ({ s with link := { s.link with paired := false, migrated := false, docking := none, undocking := false, away := [], stepPending := false,
                                  inStep := false, moves := [] },
            captures := s.captures.filter fun c => c.why = 0 || c.why = 3 } : State).azEvent 3

/-- MIGRATE_DONE (R311): the companion has restored the contexts; RELEASE follows. -/
def execMigrateDone (w : List (BitVec 32)) (s : State) : Host.Outcome State Fault Refusal :=
  .next (
    if s.azMay && s.link.undocking && bitsNat (msgPayload w) 7 0 = 0 then (s.leaveIdle.sendMsg 0x40 0 [] []).unpair
    else s)

/-- RELEASE (R306). -/
def execRelease (_w : List (BitVec 32)) (s : State) : Host.Outcome State Fault Refusal :=
  .next (if s.azMay && s.link.paired then s.leaveIdle.unpair else s)

/-! ### The end of a pair by surprise (R374, R378, R386, R387) -/

/-- Parts of a leaf that are lost with the companion: those that are remote. Those moving away come back (R374). -/
def State.loseLeaf (s : State) (h : HomeLeaf) : State :=
  let lost := (List.range 32).filter fun k => h.leaf.part k = .remote
  let back := (List.range 32).filter fun k => h.leaf.part k = .moving
  let s := back.foldl (fun s k => s.setPart h k .present) s
  let s := lost.foldl (fun (s : State) k =>
    let s := s.setPart h k .present
    { s with lost := (List.range 2048).foldl (fun l i => insertNat (h.partPa k / 32 + i) l) s.lost }) s
  match lost with
  | [] => s
  | k :: _ => s.memRecord 19 0 lost.length k 0 0 0 h.pdom 0 (h.page * 2 ^ 21)

/-- Writes toward the companion that were not acknowledged are dropped and counted as acknowledged, with a record for each core (R378). -/
def State.dropWrites (s : State) : State :=
  let ws := s.xwrites.filter fun w => w.dst = 3
  let s := ws.foldl (fun (s : State) w =>
    let s := s.addOutstanding w.src w.core (· - 1)
    match w.core with
    | some c => let k := s.core w.src c; s.setCore w.src c { k with l1 := ackSector k.l1 (w.pa / 32) }
    | none => s) { s with xwrites := s.xwrites.filter fun w => w.dst != 3 }
  let who := (ws.map fun w => (w.src, w.core)).eraseDups
  who.foldl (fun s (d, c) =>
    s.memRecord 21 0 (ws.filter fun w => w.src = d && w.core = c).length 0 1 d (c.getD 0) 0 0 0) s

/-- Requests waiting at die 3 complete with LOST data (R374). -/
def State.loseReads (s : State) : State :=
  (s.xreads.filter fun r => r.dst = 3).foldl (fun (s : State) r =>
    let s := { s with xreads := s.xreads.filter fun x => x.id != r.id }
    let s := if r.atomic then s.addOutstanding r.src (some r.strand.core) (· - 1) else s
    (s.laneDone r 0 2).pokeAccess r.strand) s

/-- The pair ends by surprise (R387); `ev` is the event, 4 or 5. -/
def State.endPair (s : State) (ev : Nat) : State :=
  if !s.link.paired then s
  else
    let part := s.link.partid.toNat % 16
    let inStep := s.link.inStep || s.link.stepPending
    let moves := s.link.moves.filter fun m => !m.out
    let s : State := { s with
      captures := s.captures.filter fun c => c.why = 0 || c.why = 3
      link := { s.link with paired := false, migrated := false, event := ev, docking := none, undocking := false, away := [], inStep := false,
                            stepPending := false, moves := moves,
                            reason := if ev = 5 then 3 else if inStep then 2 else s.link.reason } }
    let s := s.homeLeaves.foldl State.loseLeaf s
    let s := s.dropWrites.loseReads
    let s := s.dropCopies (2 ^ 48) (2 ^ 49)
    let s := moves.foldl (fun s m => s.servePart m.pdom m.page m.part) s
    let s : State := { s with link := { s.link with moves := [] } }
    let s := s.clearSlot3.dropTasks fun t => t.partid = part
    let s := (s.loseMaster 2).raiseMsix 0
    { s with port := { s.port with ibi := s.port.ibi + 1 } }

/-- COMPANION_SURPRISE_DOWN (R387): DL_Down on the companion port. -/
def execCompanionSurpriseDown (s : State) : Host.Outcome State Fault Refusal :=
  .next { s.endPair 4 with link := { (s.endPair 4).link with training := true } }

/-- Whether a MOVE or a STEP of this side has been without its answer for 1 s (R386). -/
def State.unanswered (s : State) : Bool :=
  (s.link.stepPending && s.link.stepSince + 10 ^ 12 ≤ s.timePs) ||
    s.link.moves.any fun m => !m.out && m.requested && !m.written && m.since + 10 ^ 12 ≤ s.timePs

/-- COMPANION_UNRESPONSIVE (R386). -/
def execCompanionUnresponsive (s : State) : Host.Outcome State Fault Refusal :=
  .next (
    if s.link.paired && s.unanswered then { s.endPair 5 with link := { (s.endPair 5).link with stopped := true } } else s)

/-! ### Captures that complete (R47) -/

/-- CONTEXT_CAPTURE (R47): a capture asked for whose strands and engines have all stopped. With none asked for, one of the migrated PARTID
begins an undocking, and one of the whole device begins that capture (assumption 33). -/
def execContextCapture (kind : Nat) (id : Nat) (s : State) : Host.Outcome State Fault Refusal :=
  .next (
    match s.captures.find? fun c => c.what = kind && c.id = id with
    | some c =>
      if !s.allStopped c.covers || !s.enginesStopped c then s
      else
        (match c.why with
         | 0 => (match s.task? c.id with | some t => s.haltNow c t | none => { s with captures := s.captures.filter (· != c) })
         | 1 => s.makeStep c
         | 2 => s.undock c
         | _ => s.captureDevice c)
    | none =>
      if kind = 1 && s.link.migrated && id = s.link.partid.toNat % 16 && s.link.docking.isNone && !s.link.undocking then
        let c : Capture := { what := 1, id := id, why := 2 }
        (s.closeEpochs c).askCapture 1 id 2
      else if kind = 2 && id = 0 && !s.hg.tasks.isEmpty then s.askCapture 2 0 3
      else s)

end Sys2Proof.Machine
end

