-- ==== Sys2Proof/Machine/FlumeDraw.lean ====
section
/-! DEFINITION. The raster, depth, blend, tessellator, texture filter and reprojection units, and appends to work queues
(13 R262 to R264, R270, R271; 22 R383). -/
namespace Sys2Proof.Machine

/-! ### Exact arithmetic on F32 patterns -/

/-- A finite F32 pattern in units of 2^−149. -/
def scaled32 (b : Nat) : Option Int :=
  match FFmt.f32.value b with
  | .fin neg m e => some (if neg then -(m * 2 ^ (e + 149).toNat : Nat) else (m * 2 ^ (e + 149).toNat : Nat))
  | _ => none

/-- round_rne_f32 of an exact value. -/
def rne32 (x : Exact) : Nat := (FFmt.f32.deliver .rne false x).1

/-- round_rne_f32 of a quotient of integers. -/
def rneRatio (n d : Int) : Nat := rne32 ((Exact.real n 0 false false).div (.real d 0 false false)).1

/-- The integer nearest to m × 2^e, ties to even (R95). -/
def rneInt (neg : Bool) (m : Nat) (e : Int) : Int :=
  let (q, r, den) := shiftPart m e 0
  let k := if roundsUp .rne neg q r den false then q + 1 else q
  if neg then -(k : Int) else k

/-- Vertices on a common scale: a point in the plane. -/
abbrev P2 := Int × Int

/-- px × qy − py × qx (R266). -/
def edge2 (p q : P2) : Int := p.1 * q.2 - p.2 * q.1

/-- An edge from P to Q is owned (R266). -/
def owned (p q : P2) : Bool := q.2 < p.2 || (q.2 = p.2 && q.1 < p.1)

/-- Whether a triangle about the origin is hit, given its edge values: the sign shared (true negative) (R266). -/
def triangleSign (u v w : Int) (a b c : P2) : Option Bool :=
  let neg := u < 0 || v < 0 || w < 0
  let pos := 0 < u || 0 < v || 0 < w
  let ok (x : Int) (p q : P2) : Bool := x != 0 || if neg then owned q p else owned p q
  if u + v + w = 0 || (neg && pos) then none
  else if ok u b c && ok v c a && ok w a b then some neg
  else none

/-! ### Appends (R271) -/

/-- FL_DROP counts discarded records, saturating (R383). -/
def State.addDrop (s : State) (n : Nat) : State :=
  { s with gx := { s.gx with drop := BitVec.ofNat 64 (min (s.gx.drop.toNat + n) (2 ^ 32 - 1)) } }

/-- Whether a queue can be appended to. -/
def State.queueLive (s : State) (n : Nat) : Bool := match s.queue? n with | some q => !q.disabled | none => false

/-- One try of a standing append: whether it is done (some true), has failed (some false), or still waits. It waits while an earlier append
to its queue stands, so that the records of each group are consecutive (R271). -/
def State.tryAppend (s : State) (a : AppendWait) : State × Option Bool :=
  if s.gx.appends.any fun x => x.queue = a.queue && x.id < a.id then (s, none)
  else
  let drop (s : State) : State := { s with gx := { s.gx with appends := s.gx.appends.filter fun x => x.id != a.id } }
  let live := s.queueLive a.queue
  match s.appendQueue a.queue a.recs with
  | .wait s => (s, none)
  | .fail s => (drop (if live || a.call.isNone then s.addDrop a.recs.length else s), some false)
  | .ok s n =>
    if n < a.recs.length then
      ({ s with gx := { s.gx with appends := s.gx.appends.map fun x => if x.id = a.id then { x with recs := x.recs.drop n } else x } }, none)
    else (drop s, some true)

/-- The records of a call, queue by queue, are appended as far as there is room (R271). -/
def State.startAppends (s : State) (c : Call) (ret : List Byte) : List (Nat × List (List Byte)) → FlRes (List Byte)
  | [] => .ok s ret
  | (q, recs) :: r =>
    if recs.isEmpty then s.startAppends c ret r
    else
      let a : AppendWait := { id := s.nextId, queue := q, recs := recs, call := some c.id, bucket := 0 }
      let s : State := { s with nextId := s.nextId + 1, gx := { s.gx with appends := s.gx.appends ++ [a] } }
      match (s.mapCall c.id fun c => { c with ret := ret }).tryAppend a with
      | (s, some false) => .fail s 8
      | (s, _) => s.startAppends c ret r

/-- A bucket of the sieve is free again (R269). -/
def State.freeBucket (s : State) (n : Nat) : State :=
  { s with gx := { s.gx with buckets := s.gx.buckets.filter fun b => b.n != n } }

/-- QUEUE_ROOM_RESUME (R269, R271): a standing append goes on; when all are done the call returns or the bucket is free. -/
def execQueueRoomResume (id : Nat) (s : State) : Host.Outcome State Fault Refusal :=
  .next (
    match s.gx.appends.find? fun a => a.id = id with
    | none => s
    | some a =>
      match s.tryAppend a, a.call with
      | (s, none), _ => s
      | (s, some _), none => s.freeBucket a.bucket
      | (s, some ok), some k =>
        match s.call? k with
        | none => s
        | some c =>
          if !ok then s.failCall c 8 0
          else if s.gx.appends.any fun x => x.call = some k then s
          else s.writeReturn c 0 c.ret)

/-! ### Raster -/

/-- The covered quads of a raster call, in ascending y and then x (R262): x, y, mask and z. Vertices that are NaN or infinite
make no triangle. -/
def rasterQuads (c : Call) : List (List Byte) :=
  let f (k : Nat) : Nat := c.pay (4 * k) 4
  let sc (k : Nat) : Nat := c.pay (36 + 2 * k) 2
  match scaled32 (f 0), scaled32 (f 1), scaled32 (f 3), scaled32 (f 4), scaled32 (f 6), scaled32 (f 7) with
  | some ax, some ay, some bx, some by_, some cx, some cy =>
    let one : Int := 2 ^ 149
    let lo (a b c : Int) : Nat := ((min a (min b c)) / one).toNat
    let hi (a b c : Int) : Nat := ((max a (max b c)) / one + 1).toNat
    let x0 := max (sc 0) (lo ax bx cx)
    let y0 := max (sc 1) (lo ay by_ cy)
    let x1 := min (sc 2) (hi ax bx cx)
    let y1 := min (sc 3) (hi ay by_ cy)
    let rel (x y : Nat) (px py : Int) : P2 := (2 * px - (2 * x + 1 : Nat) * one, 2 * py - (2 * y + 1 : Nat) * one)
    let edges (x y : Nat) : Int × Int × Int × P2 × P2 × P2 :=
      let a := rel x y ax ay
      let b := rel x y bx by_
      let c := rel x y cx cy
      (edge2 b c, edge2 c a, edge2 a b, a, b, c)
    let covered (x y : Nat) : Bool :=
      sc 0 ≤ x && x < sc 2 && sc 1 ≤ y && y < sc 3 &&
        let (u, v, w, a, b, c) := edges x y
        (triangleSign u v w a b c).isSome
    let z (x y : Nat) : Nat :=
      let (u, v, w, _, _, _) := edges x y
      let t (k : Int) (b : Nat) : Exact := (Exact.real k 0 false false).mul (FFmt.f32.ex b)
      rne32 ((((t u (f 2)).add .rne (t v (f 5))).add .rne (t w (f 8))).div (.real (u + v + w) 0 false false)).1
    (List.range ((y1 + 1) / 2 - y0 / 2)).flatMap fun j =>
      (List.range ((x1 + 1) / 2 - x0 / 2)).filterMap fun i =>
        let x := 2 * (x0 / 2 + i)
        let y := 2 * (y0 / 2 + j)
        let m := (if covered x y then 1 else 0) + (if covered (x + 1) y then 2 else 0) +
          (if covered x (y + 1) then 4 else 0) + if covered (x + 1) (y + 1) then 8 else 0
        if m = 0 then none
        else some (natBytesLE 16 (x + y * 2 ^ 16 + m * 2 ^ 32 + z x y * 2 ^ 96))
  | _, _, _, _, _, _ => []

def State.raster (s : State) (c : Call) : FlRes (List Byte) :=
  let q := c.pay 44 2
  if !s.queueLive q then .fail s 8
  else
    let recs := rasterQuads c
    s.startAppends c (natBytesLE 16 recs.length) [(q, recs)]

/-- FLUME_RASTER (R262). -/
def execFlumeRaster (id : Nat) (s : State) : Host.Outcome State Fault Refusal := .next (s.runCall 0 id State.raster)

/-! ### Depth and blend -/

/-- Lanes of a call one after another from lane i on; progress stays with the call while it waits. -/
def State.lanesFrom (s : State) (c : Call) (one : State → Nat → FlRes Bool) (mask i acc : Nat) : Nat → FlRes Nat
  | 0 => .ok s acc
  | n + 1 =>
    if !bitNat mask i then s.lanesFrom c one mask (i + 1) acc n
    else
      match one s i with
      | .wait s => .wait (s.mapCall c.id fun c => { c with pos := i, count := acc })
      | .fail s e => .fail s e
      | .ok s p => s.lanesFrom c one mask (i + 1) (acc + if p then 2 ^ i else 0) n

/-- The comparison of a depth call (R262). -/
def depthPass (op : Nat) (z d : FVal) : Bool :=
  match op with
  | 0 => z.le d && !d.le z
  | 1 => z.le d
  | 2 => d.le z && !z.le d
  | _ => true

def State.depth (s : State) (c : Call) : FlRes (List Byte) :=
  let ctl := c.pay 12 4
  let one (s : State) (i : Nat) : FlRes Bool :=
    let x := c.pay (16 + 8 * i) 2
    let y := c.pay (18 + 8 * i) 2
    let z := c.pay (20 + 8 * i) 4
    let a := c.pay 0 8 + y * c.pay 8 4 + 4 * x
    (s.flRead c a 4 4).bind fun s bs =>
      if depthPass (ctl % 4) (FFmt.f32.value z) (FFmt.f32.value (bytesNat bs)) then
        (if bitNat ctl 2 then s.flWrite c a (natBytesLE 4 z) 4 else .ok s ()).bind fun s _ => .ok s true
      else .ok s false
  (s.lanesFrom c one (bitsNat ctl 15 8) c.pos c.count (8 - c.pos)).bind fun s m => .ok s (natBytesLE 16 m)

/-- FLUME_DEPTH (R262). -/
def execFlumeDepth (id : Nat) (s : State) : Host.Outcome State Fault Refusal := .next (s.runCall 1 id State.depth)

/-- round_rne_f32 of a product, a sum and a difference of F32 patterns. -/
def mul32 (a b : Nat) : Nat := (FFmt.f32.mul .rne a b).1
def add32 (a b : Nat) : Nat := (FFmt.f32.add .rne a b).1
def sub32 (a b : Nat) : Nat := (FFmt.f32.sub .rne a b).1

/-- F16 to F32, exact, and round_rne_f16. -/
def widen16 (b : Nat) : Nat := rne32 (FFmt.f16.ex b)
def narrow16 (b : Nat) : Nat := (FFmt.f16.deliver .rne false (FFmt.f32.ex b)).1

def oneF : Nat := 0x3F800000

/-- One channel of a blend (R262): source, destination, source alpha. -/
def blendChannel (mode s d sa : Nat) : Nat :=
  narrow16 (match mode with
    | 0 => s
    | 1 => add32 s (mul32 d (sub32 oneF sa))
    | _ => add32 s d)

def State.blend (s : State) (c : Call) : FlRes (List Byte) :=
  let ctl := c.pay 12 4
  let one (s : State) (i : Nat) : FlRes Bool :=
    let a := c.pay 0 8 + c.pay (18 + 4 * i) 2 * c.pay 8 4 + 8 * c.pay (16 + 4 * i) 2
    let src (k : Nat) : Nat := widen16 (c.pay (48 + 8 * i + 2 * k) 2)
    (s.flRead c a 8 8).bind fun s bs =>
      let ch (k : Nat) : Nat := blendChannel (ctl % 4) (src k) (widen16 (bytesNat ((bs.drop (2 * k)).take 2))) (src 3)
      (s.flWrite c a ((List.range 4).flatMap fun k => natBytesLE 2 (ch k)) 8).bind fun s _ => .ok s true
  (s.lanesFrom c one (bitsNat ctl 15 8) c.pos 0 (8 - c.pos)).bind fun s _ => .ok s []

/-- FLUME_BLEND (R262). -/
def execFlumeBlend (id : Nat) (s : State) : Host.Outcome State Fault Refusal := .next (s.runCall 2 id State.blend)

/-! ### Tessellator -/

/-- A coordinate as a fraction, and a domain point. -/
abbrev Frac := Nat × Nat
abbrev UV := Frac × Frac

def Frac.le (a b : Frac) : Bool := a.1 * b.2 ≤ b.1 * a.2
def Frac.compl (a : Frac) : Frac := (a.2 - a.1, a.2)

/-- A factor rounded up and clamped to 1 to 64 (R262); of a NaN the spec states no value (assumption 20), and `nan` is what the call makes of
it. -/
def tessFactor (nan b : Nat) : Nat :=
  match FFmt.f32.value b with
  | .nan _ => nan % 64 + 1
  | .inf neg => if neg then 1 else 64
  | .fin neg m e =>
    if neg then 1
    else
      let (q, r, _) := shiftPart m e 0
      min 64 (max 1 (if r = 0 then q else q + 1))

/-- Point i of edge k with e segments (R264). -/
def edgePoint (quad : Bool) (k e i : Nat) : UV :=
  match quad, k with
  | _, 0 => ((i, e), (0, 1))
  | false, 1 => ((e - i, e), (i, e))
  | false, _ => ((0, 1), (e - i, e))
  | true, 1 => ((1, 1), (i, e))
  | true, 2 => ((e - i, e), (1, 1))
  | true, _ => ((0, 1), (e - i, e))

/-- Parameter t of a point on side k (R264). -/
def sideParam (quad : Bool) (k : Nat) (p : UV) : Frac :=
  match k with
  | 0 => p.1
  | 1 => p.2
  | 2 => if quad then p.1.compl else p.2.compl
  | _ => p.2.compl

/-- The inner grid points, by second and then first index (R264). -/
def innerGrid (quad : Bool) (m n : Nat) : List (Nat × Nat) :=
  (List.range n).flatMap fun b => (List.range (if quad then m else n)).filterMap fun a =>
    if a = 0 || b = 0 || (!quad && n ≤ a + b) then none else some (a, b)

/-- The sides of the inner ring, as grid points (R264). -/
def innerSide (quad : Bool) (m n k : Nat) (g : List (Nat × Nat)) : List (Nat × Nat) :=
  let byA (f : Nat × Nat → Bool) : List (Nat × Nat) := g.filter f
  match quad, k with
  | _, 0 => byA fun p => p.2 = 1
  | false, 1 => byA fun p => p.1 + p.2 = n - 1
  | false, _ => (byA fun p => p.1 = 1).reverse
  | true, 1 => byA fun p => p.1 = m - 1
  | true, 2 => (byA fun p => p.2 = n - 1).reverse
  | true, _ => (byA fun p => p.1 = 1).reverse

/-- The triangles between an edge and its inner side (R264): ps and qs are point numbers with their parameters. -/
def stitch : Nat → List (Nat × Frac) → List (Nat × Frac) → List (List Nat)
  | 0, _, _ => []
  | f + 1, p :: p' :: ps, [q] => [p.1, p'.1, q.1] :: stitch f (p' :: ps) [q]
  | f + 1, [p], q :: q' :: qs => [p.1, q'.1, q.1] :: stitch f [p] (q' :: qs)
  | f + 1, p :: p' :: ps, q :: q' :: qs =>
    if Frac.le p'.2 q'.2 then [p.1, p'.1, q.1] :: stitch f (p' :: ps) (q :: q' :: qs)
    else [p.1, q'.1, q.1] :: stitch f (p :: p' :: ps) (q' :: qs)
  | _ + 1, _, _ => []

/-- Points and triangles of a tessellation (R264). -/
def tessellate (quad : Bool) (e : List Nat) (m n : Nat) : List UV × List (List Nat) :=
  let sides := if quad then 4 else 3
  let g := innerGrid quad m n
  let outer := (List.range sides).flatMap fun k => (List.range (e.getD k 1)).map (edgePoint quad k (e.getD k 1))
  let at_ (p : Nat × Nat) : UV := ((p.1, if quad then m else n), (p.2, n))
  let inner := if g.isEmpty then [if quad then ((1, 2), (1, 2)) else ((1, 3), (1, 3))] else g.map at_
  let points := outer ++ inner
  let num (p : Nat × Nat) : Nat := outer.length + g.findIdx (· = p)
  let tri (l : List (Nat × Nat)) : List (List Nat) := if l.all g.contains then [l.map num] else []
  let interior := g.flatMap fun (a, b) =>
    if quad then
      (if g.contains (a + 1, b) && g.contains (a + 1, b + 1) && g.contains (a, b + 1) then
        [[num (a, b), num (a + 1, b), num (a + 1, b + 1)], [num (a, b), num (a + 1, b + 1), num (a, b + 1)]] else [])
    else tri [(a, b), (a + 1, b), (a, b + 1)] ++ tri [(a + 1, b), (a + 1, b + 1), (a, b + 1)]
  let base (k : Nat) : Nat := (e.take k).foldl (· + ·) 0
  let par (k i : Nat) : Nat × Frac := (i, sideParam quad k (points.getD i ((0, 1), (0, 1))))
  let stitches := (List.range sides).flatMap fun k =>
    let ek := e.getD k 1
    let last := if k + 1 = sides then 0 else base (k + 1)
    let ps := (List.range ek).map (fun i => par k (base k + i)) ++ [(last, sideParam quad k (edgePoint quad k ek ek))]
    let qs := if g.isEmpty then [par k outer.length] else (innerSide quad m n k g).map fun p => par k (num p)
    stitch (ps.length + qs.length) ps qs
  (points, interior ++ stitches)

def State.tessellator (s : State) (c : Call) : FlRes (List Byte) :=
  let quad := c.pay 0 4 % 2 = 1
  let f (k : Nat) : Nat := tessFactor (Config.nanInput c.payload k) (c.pay (4 + 4 * k) 4)
  let e := (List.range (if quad then 4 else 3)).map f
  let (ps, ts) := tessellate quad e (f 4) (if quad then f 5 else f 4)
  let pb := ps.flatMap fun (u, v) => natBytesLE 4 (rneRatio u.1 u.2) ++ natBytesLE 4 (rneRatio v.1 v.2)
  let tb := ts.flatMap fun t => t.flatMap fun i => natBytesLE 4 i
  (s.flWrite c (c.pay 28 8) pb 8).bind fun s _ => (s.flWrite c (c.pay 36 8) tb 4).bind fun s _ =>
    .ok s (natBytesLE 16 (ps.length + ts.length * 2 ^ 16))

/-- FLUME_TESSELLATOR (R264). -/
def execFlumeTessellator (id : Nat) (s : State) : Host.Outcome State Fault Refusal := .next (s.runCall 3 id State.tessellator)

/-! ### Texture filter -/

/-- Start, width and height of a level (R263). -/
def texLevel (base w h size : Nat) : Nat → Nat × Nat × Nat
  | 0 => (base, w, h)
  | l + 1 =>
    let (a, w, h) := texLevel base w h size l
    ((a + w * h * size + 255) / 256 * 256, max 1 (w / 2), max 1 (h / 2))

/-- floor of a finite F32 value. -/
def floor32 (b : Nat) : Option Int := (scaled32 b).map fun x => x / 2 ^ 149

/-- A texel's four channels in F32 (R263). -/
def State.texel (s : State) (c : Call) (fmt start w : Nat) (x y : Int) : FlRes (List Nat) :=
  let size := if fmt = 0 then 4 else 8
  (s.flRead c (start + (y.toNat * w + x.toNat) * size) size size).bind fun s bs =>
    .ok s ((List.range 4).map fun k =>
      if fmt = 0 then rneRatio ((bs.getD k 0).toNat : Nat) 255 else widen16 (bytesNat ((bs.drop (2 * k)).take 2)))

/-- A texel coordinate under AMODE (R263). -/
def texCoord (clamp : Bool) (x : Int) (w : Nat) : Int := if clamp then min (max x 0) ((w : Int) - 1) else x % (w : Int)

/-- One lane of the filter (R263). -/
def State.texLane (s : State) (c : Call) (fmt : Nat) (clamp : Bool) (start w h u v : Nat) : FlRes (List Nat) :=
  let half : Nat := 0x3F000000
  let coord (t n : Nat) : Nat := sub32 (mul32 t (rne32 (.real n 0 false false))) half
  let x := coord u w
  let y := coord v h
  match scaled32 u, scaled32 v, floor32 x, floor32 y with
  | some _, some _, some x0, some y0 =>
    let frac (b : Nat) (i : Int) : Nat := rne32 ((FFmt.f32.ex b).add .rne (.real (-i) 0 false false))
    let fx := frac x x0
    let fy := frac y y0
    let t (s : State) (i j : Int) : FlRes (List Nat) :=
      s.texel c fmt start w (texCoord clamp (x0 + i) w) (texCoord clamp (y0 + j) h)
    let mix (a b f : Nat) : Nat := add32 (mul32 a (sub32 oneF f)) (mul32 b f)
    (t s 0 0).bind fun s t00 => (t s 1 0).bind fun s t10 => (t s 0 1).bind fun s t01 => (t s 1 1).bind fun s t11 =>
      .ok s ((List.range 4).map fun k =>
        mix (mix (t00.getD k 0) (t10.getD k 0) fx) (mix (t01.getD k 0) (t11.getD k 0) fx) fy)
  | _, _, _, _ => .ok s (List.replicate 4 FFmt.f32.nanBits)

/-- Lanes of a texture call from lane i on. -/
def State.texLanes (s : State) (one : State → Nat → FlRes (List Nat)) (i : Nat) (acc : List Byte) : Nat → FlRes (List Byte)
  | 0 => .ok s acc
  | n + 1 => (one s i).bind fun s l => s.texLanes one (i + 1) (acc ++ l.flatMap (natBytesLE 4)) n

/-- The level a call names, rounded and clamped (R262); of a NaN the spec states no level (assumption 20). -/
def texLevelNo (nan levels b : Nat) : Nat :=
  match FFmt.f32.value b with
  | .nan _ => nan % levels
  | .inf neg => if neg then 0 else levels - 1
  | .fin neg m e => min (levels - 1) (rneInt neg m e).toNat

def State.texture (s : State) (c : Call) : FlRes (List Byte) :=
  (s.flRead c (c.pay 0 8) 16 16).bind fun s bs =>
    let d := bytesNat bs
    let levels := bitsNat d 95 92
    let fmt := bitsNat d 90 89
    let base := bitsNat d 56 0
    if levels = 0 || 2 ≤ fmt || bitsNat d 88 57 != 0 then .fail s 6
    else if base % 256 != 0 then .fail s 4
    else
      let l := texLevelNo (Config.nanInput c.payload 0) levels (c.pay 8 4)
      let (start, w, h) := texLevel base (bitsNat d 127 112 + 1) (bitsNat d 111 96 + 1) (if fmt = 0 then 4 else 8) l
      s.texLanes (fun s i => s.texLane c fmt (bitNat d 91) start w h (c.pay (16 + 8 * i) 4) (c.pay (20 + 8 * i) 4)) 0 [] 8

/-- FLUME_TEXTURE_FILTER (R263). -/
def execFlumeTextureFilter (id : Nat) (s : State) : Host.Outcome State Fault Refusal := .next (s.runCall 4 id State.texture)

/-! ### Reprojection -/

/-- A component of p := q + (dx, dy), rounded to an integer from its exact value (R270; log entry 57); none when the motion is not
finite. F16 values are multiples of 2^−24. -/
def motionTo (q b : Nat) : Option Int :=
  match FFmt.f16.value b with
  | .fin neg m e =>
    let d : Int := (m * 2 ^ (e + 24).toNat : Nat)
    let n : Int := (q * 2 ^ 24 : Nat) + if neg then -d else d
    some (rneInt (n < 0) n.natAbs (-24))
  | _ => none

/-- |zp − zq| > round_rne_f32(tol × |zq|), as exact values (R270). -/
def depthFails (tol zp zq : Nat) : Bool :=
  let lim := mul32 tol (zq % 2 ^ 31)
  match scaled32 zp, scaled32 zq, FFmt.f32.value lim with
  | some p, some q, .fin neg m e =>
    let l : Int := (m * 2 ^ (e + 149).toNat : Nat)
    neg && l != 0 || l < ((p - q).natAbs : Int)
  | some _, some _, .inf neg => neg
  | some _, none, .fin _ _ _ => (FFmt.f32.value zq).isNan = false
  | none, some _, .fin _ _ _ => (FFmt.f32.value zp).isNan = false
  | _, _, _ => false

/-- One pixel (R270): a record of failure, or none when the pixel was carried. -/
def State.reprojPixel (s : State) (c : Call) (q : Nat) : FlRes (Option (Nat × List Byte)) :=
  let w := c.pay 24 2
  let h := c.pay 26 2
  let x := q % w
  let y := q / w
  let fail (queue reason : Nat) : Option (Nat × List Byte) :=
    some (queue, natBytesLE 8 (reason + x * 2 ^ 16 + y * 2 ^ 32))
  (s.flRead c (c.pay 8 8 + 8 * q) 8 8).bind fun s mb =>
    let mot := bytesNat mb
    match motionTo x (bitsNat mot 15 0), motionTo y (bitsNat mot 31 16) with
    | some px, some py =>
      if px < 0 || py < 0 || (w : Int) ≤ px || (h : Int) ≤ py then .ok s (fail (c.pay 28 2) 1)
      else
        (s.flRead c (c.pay 0 8 + 8 * (py.toNat * w + px.toNat)) 8 8).bind fun s vb =>
          let vis := bytesNat vb
          if vis % 2 ^ 32 = 0xFFFFFFFF then .ok s (fail (c.pay 28 2) 1)
          else if depthFails (s.gx.rptol.toNat % 2 ^ 32) (vis / 2 ^ 32) (mot / 2 ^ 32) then .ok s (fail (c.pay 30 2) 2)
          else (s.flWrite c (c.pay 16 8 + 8 * q) vb 8).bind fun s _ => .ok s none
    | _, _ => .ok s (fail (c.pay 28 2) 1)

/-- Pixels from q on; progress stays with the call while it waits. -/
def State.reprojFrom (s : State) (c : Call) (q carried : Nat) (recs : List (Nat × List Byte)) :
    Nat → FlRes (Nat × List (Nat × List Byte))
  | 0 => .ok s (carried, recs)
  | n + 1 =>
    match s.reprojPixel c q with
    | .wait s => .wait (s.mapCall c.id fun c => { c with pos := q, count := carried, recs := recs })
    | .fail s e => .fail s e
    | .ok s none => s.reprojFrom c (q + 1) (carried + 1) recs n
    | .ok s (some r) => s.reprojFrom c (q + 1) carried (recs ++ [r]) n

def State.reproject (s : State) (c : Call) : FlRes (List Byte) :=
  let qr := c.pay 28 2
  let qg := c.pay 30 2
  if !s.queueLive qr || !s.queueLive qg then .fail s 8
  else
    (s.reprojFrom c c.pos c.count c.recs (c.pay 24 2 * c.pay 26 2 - c.pos)).bind fun s (carried, recs) =>
      let of (q : Nat) : List (List Byte) := (recs.filter fun r => r.1 = q).map Prod.snd
      s.startAppends c (natBytesLE 16 (carried + recs.length * 2 ^ 32)) ((qr, of qr) :: if qg = qr then [] else [(qg, of qg)])

/-- FLUME_REPROJECTION (R270). -/
def execFlumeReprojection (id : Nat) (s : State) : Host.Outcome State Fault Refusal := .next (s.runCall 6 id State.reproject)

end Sys2Proof.Machine
end

