-- ==== Sys2Proof/Machine/FlumeTrace.lean ====
section
/-! DEFINITION. Traversal units, traversal tasks and the sieve (13 R265 to R269; 22 R383, R384; 19 R404). -/
namespace Sys2Proof.Machine

/-! ### The sieve -/

/-- A flush (R269): the records go to the queue MKEY[31:20]; without room for all the bucket waits; records for a queue that is
not registered or is disabled are discarded and counted (R383, R404). -/
def State.flushBucket (s : State) (b : Bucket) : State :=
  if b.waiting then s
  else
    let a : AppendWait :=
      { id := s.nextId, queue := bitsNat b.mkey.toNat 31 20, recs := b.recs.map fun r => natBytesLE 64 r.toNat, call := none,
        bucket := b.n }
    let s : State := { s with nextId := s.nextId + 1, gx := { s.gx with
      appends := s.gx.appends ++ [a]
      buckets := s.gx.buckets.map fun x => if x.n = b.n then { x with waiting := true, recs := [] } else x } }
    match s.tryAppend a with
    | (s, none) => s
    | (s, some _) => s.freeBucket b.n

/-- The lowest bucket not in use. -/
def freeBucketNo (used : List Nat) (i : Nat) : Nat → Option Nat
  | 0 => none
  | n + 1 => if used.contains i then freeBucketNo used (i + 1) n else some i

/-- A record put into a bound bucket; at 32 records the bucket is flushed (R269). -/
def State.putBucket (s : State) (b : Bucket) (r : BitVec 512) : State :=
  let b := { b with recs := b.recs ++ [r], oldest := if b.recs.isEmpty then s.cycle else b.oldest }
  let s := { s with gx := { s.gx with buckets := b :: s.gx.buckets.filter fun x => x.n != b.n } }
  if b.recs.length ≥ 32 then s.flushBucket b else s

/-- A record of a key that no bucket is bound to: it binds the lowest free bucket, if there is one (R269). -/
def State.bindBucket (s : State) (key : Word) (r : BitVec 512) : Option State :=
  (freeBucketNo (s.gx.buckets.map Bucket.n) 0 1024).map fun n =>
    s.putBucket { n := n, mkey := key, recs := [], oldest := s.cycle, waiting := false, forced := false } r

/-- The bucket, of those that are not being flushed, whose oldest record is oldest, the lowest on ties (R269). -/
def State.oldestBucket (s : State) : Option Bucket :=
  (s.gx.buckets.filter fun b => !b.waiting).foldl (fun (b : Option Bucket) x =>
    match b with
    | some y => if x.oldest < y.oldest || (x.oldest = y.oldest && x.n < y.n) then some x else b
    | none => some x) none

/-- A bucket is flushed to be freed for a key that no bucket is bound to. -/
def State.forceBucket (s : State) (b : Bucket) : State :=
  let s := s.flushBucket b
  { s with gx := { s.gx with buckets := s.gx.buckets.map fun x => if x.n = b.n then { x with forced := true } else x } }

/-- Whether a record of a key has to wait in the weir (R269): its bucket is being flushed, or no bucket is free for it and one is being
flushed to be freed. -/
def State.sieveStuck (s : State) (key : Word) : Bool :=
  match s.gx.buckets.find? fun b => b.mkey = key with
  | some b => b.waiting
  | none => (freeBucketNo (s.gx.buckets.map Bucket.n) 0 1024).isNone && (s.gx.buckets.any Bucket.forced || s.oldestBucket.isNone)

/-- A hit record is placed (R269), and whether it is taken: with no bucket free for a new key, the bucket whose oldest record is oldest is
flushed first, and the record waits with it for room. -/
def State.sieve (s : State) (r : BitVec 512) : State × Bool :=
  let key : Word := r.extractLsb' 128 32
  if s.sieveStuck key then (s, false)
  else
    match s.gx.buckets.find? fun b => b.mkey = key with
    | some b => (s.putBucket b r, true)
    | none =>
      match s.bindBucket key r with
      | some s => (s, true)
      | none =>
        match s.oldestBucket with
        | some b =>
          let s := s.forceBucket b
          (match s.bindBucket key r with | some s => (s, true) | none => (s, false))
        | none => (s, false)

/-- The key of a hit record. -/
def hitKey (r : BitVec 512) : Word := r.extractLsb' 128 32

/-- The record that a sieve call brings. -/
def Call.hit (c : Call) : BitVec 512 := BitVec.ofNat 512 (c.pay 0 64)

/-- Records that stand before the sieve, of calls and of traversal tasks, by their place in the order of arrival. -/
def State.arrivals (s : State) : List (Nat × Word) :=
  ((s.gx.calls.filter fun c => c.typ = 7 && c.stage = 1).map fun c => (c.id, hitKey c.hit)) ++
    (s.gx.hits.filter fun h => match s.task? h.task with | some t => decide (t.state = .dispatched [] []) && t.engLeft != 0 | none => false).map
      fun h => (h.id, hitKey h.record)

/-- Whether a record is next at the sieve, which takes records in arrival order (R269): one that has to wait lets records of other keys
pass. -/
def State.sieveNext (s : State) (id : Nat) (key : Word) : Bool :=
  s.arrivals.all fun (i, k) => id ≤ i || (k ≠ key && s.sieveStuck k)

/-- FLUME_SIEVE (R269): a call's hit record is taken in its turn; one that has to wait stays in the weir. -/
def execFlumeSieve (id : Nat) (s : State) : Host.Outcome State Fault Refusal :=
  .next (
    match s.call? id with
    | some c =>
      if c.typ ≠ 7 || c.stage ≠ 1 || !s.sieveNext c.id (hitKey c.hit) then s
      else
        match s.sieve c.hit with
        | (s, true) => s.writeReturn c 0 []
        | (s, false) => s
    | none => s)

/-- SIEVE_AGE_FLUSH (R269, R272): the oldest record of a bucket has waited FL_SVAGE cycles. -/
def execSieveAgeFlush (bucket : Nat) (s : State) : Host.Outcome State Fault Refusal :=
  let age := s.gx.svage.toNat % 2 ^ 24
  .next (
    match s.gx.buckets.find? fun b => b.n = bucket with
    | some b => if age != 0 && !b.waiting && b.oldest + age ≤ s.cycle then s.flushBucket b else s
    | none => s)

/-- A FRAME token at the sieve (R65, R269): every bucket holding records is flushed, in ascending number. -/
def State.flushAll (s : State) : State :=
  (List.range 1024).foldl (fun s n =>
    match s.gx.buckets.find? fun b => b.n = n && !b.waiting with
    | some b => s.flushBucket b
    | none => s) s

/-! ### Rays, boxes and triangles -/

/-- A ray, with its bounds and its budget (R266, R267). -/
structure Ray where
  o : List Nat
  d : List Nat
  tmin : Nat
  tmax : Nat
  root : Nat
  lo : Nat
  hi : Nat
  budget : Nat
  any : Bool
  reject : Bool

/-- Whether a ray or its bounds are malformed at the start (R384). -/
def Ray.bad (r : Ray) : Bool :=
  let v := FFmt.f32.value
  let fin (x : Nat) : Bool := match v x with | .fin _ _ _ => true | _ => false
  r.hi ≤ r.lo || !(r.o.all fin) || !(r.d.all fin) || (r.d.all fun x => x % 2 ^ 31 = 0) || !fin r.tmin || (v r.tmax).isNan

/-- BUDGET (R267, R384). -/
def budgetOf (b : Nat) : Nat := min (if b = 0 then 65536 else b) (2 ^ 24)

/-- Value order on F32 patterns: a ≤ b; false with a NaN. -/
def le32 (a b : Nat) : Bool := (FFmt.f32.value a).le (FFmt.f32.value b)

/-- (x − o) / d rounded down or up from its exact value (R266). -/
def slab (md : RMode) (x o d : Nat) : Nat :=
  (FFmt.f32.deliver md false (((FFmt.f32.ex x).add .rne (FFmt.f32.ex o).neg).div (FFmt.f32.ex d)).1).1

/-- The entry distance of a box, when its slab interval meets [tmin, tmax] (R266, R267). `b` holds lo x, y, z and hi x, y, z.
A box with a NaN is not entered. -/
def Ray.box (r : Ray) (tmax : Nat) (b : List Nat) : Option Nat :=
  let axis (acc : Option (Nat × Nat)) (k : Nat) : Option (Nat × Nat) :=
    acc.bind fun (en, ex) =>
      let lo := b.getD k 0
      let hi := b.getD (k + 3) 0
      let o := r.o.getD k 0
      let d := r.d.getD k 0
      if d % 2 ^ 31 = 0 then (if le32 lo o && le32 o hi then some (en, ex) else none)
      else
        let (near, far) := if bitNat d 31 then (hi, lo) else (lo, hi)
        let a := slab .rdn near o d
        let z := slab .rup far o d
        if (FFmt.f32.value a).isNan || (FFmt.f32.value z).isNan then none
        else some (if le32 en a then a else en, if le32 z ex then z else ex)
  ([0, 1, 2].foldl axis (some (r.tmin, tmax))).bind fun (en, ex) => if le32 en ex then some en else none

/-- A hit of a triangle record (R266): t, u, v and whether σ is negative. -/
structure Hit where
  t : Nat
  u : Nat
  v : Nat
  neg : Bool

/-- The index of the largest |d[k]|, the lowest on ties (R266). -/
def Ray.kz (r : Ray) : Nat :=
  let m (k : Nat) : Nat := r.d.getD k 0 % 2 ^ 31
  if m 1 ≤ m 0 && m 2 ≤ m 0 then 0 else if m 2 ≤ m 1 then 1 else 2

/-- The triangle test of R266; arithmetic that overflows gives no hit. -/
def Ray.triangle (r : Ray) (tmax : Nat) (vs : List Nat) : Option Hit :=
  let kz := r.kz
  let kx0 := (kz + 1) % 3
  let ky0 := (kx0 + 1) % 3
  let (kx, ky) := if bitNat (r.d.getD kz 0) 31 then (ky0, kx0) else (kx0, ky0)
  let d (k : Nat) : Nat := r.d.getD k 0
  let sx := (FFmt.f32.div .rne (d kx) (d kz)).1
  let sy := (FFmt.f32.div .rne (d ky) (d kz)).1
  let sz := (FFmt.f32.div .rne oneF (d kz)).1
  let q (p k : Nat) : Nat := sub32 (vs.getD (3 * p + k) 0) (r.o.getD k 0)
  let px (p : Nat) : Option Int := scaled32 (FFmt.f32.fma true false .rne sx (q p kz) (q p kx)).1
  let py (p : Nat) : Option Int := scaled32 (FFmt.f32.fma true false .rne sy (q p kz) (q p ky)).1
  let pz (p : Nat) : Option Int := scaled32 (mul32 sz (q p kz))
  match px 0, py 0, pz 0, px 1, py 1, pz 1, px 2, py 2, pz 2 with
  | some ax, some ay, some az, some bx, some by_, some bz, some cx, some cy, some cz =>
    let a : P2 := (ax, ay)
    let b : P2 := (bx, by_)
    let c : P2 := (cx, cy)
    -- coordinates are in units of 2^−149, so that their products are in units of 2^−298
    let e (p q : P2) : Option Int := scaled32 (rne32 (.real (edge2 p q) (-298) false false))
    (match e b c, e c a, e a b with
     | some u, some v, some w =>
       let dd := u + v + w
       (triangleSign u v w a b c).bind fun neg =>
         let t := rne32 ((Exact.real (u * az + v * bz + w * cz) (-149) false false).div (.real dd 0 false false)).1
         if le32 r.tmin t && le32 t tmax then some { t := t, u := rneRatio u dd, v := rneRatio v dd, neg := neg } else none
     | _, _, _ => none)
  | _, _, _, _, _, _, _, _, _ => none

/-! ### The walk of a BVH -/

/-- What a traversal has found: the best hit, the address of its record, and PRIM, INST and MKEY. -/
structure Best where
  hit : Hit
  at_ : Nat
  prim : Nat
  inst : Nat
  mkey : Nat

/-- How a traversal ends. -/
inductive TravRes where
  | wait (s : State)
  /-- A failure with its STATUS, and the fetches made. -/
  | bad (s : State) (status visits : Nat)
  | ok (s : State) (best : Option Best) (visits : Nat)

/-- How a unit reads n bytes for a traversal: a call's reads fail with a STATUS, a task's wait. -/
abbrev Fetch := State → Nat → Nat → FlRes (List Byte)

/-- A pending child: entry distance, whether it is a box node, address, and triangles of a leaf. -/
structure Child where
  entry : Option Nat
  node : Bool
  addr : Nat
  count : Nat

/-- Whether a record of n bytes may be fetched (R267, R384). -/
def Ray.mayFetch (r : Ray) (a n al visits : Nat) : Bool :=
  a % al = 0 && r.lo ≤ a && a + n ≤ r.hi && visits < r.budget

/-- Inserts a child by entry distance and then by index: the list is in visiting order (R267). -/
def insertChild (c : Child) : List Child → List Child
  | [] => [c]
  | x :: r =>
    let before := match c.entry, x.entry with | some a, some b => le32 a b | _, _ => true
    if before then c :: x :: r else x :: insertChild c r

/-- The children of a box node in visiting order; none when one is malformed (R265, R384). -/
def Ray.children (r : Ray) (tmax : Nat) (bs : List Byte) : Option (List Child) :=
  let w (off n : Nat) : Nat := bytesNat ((bs.drop off).take n)
  [3, 2, 1, 0].foldl (fun acc c =>
    acc.bind fun l =>
      let e := w (96 + 8 * c) 8
      let kind := bitsNat e 63 62
      let n := bitsNat e 61 57
      if kind = 0 then some l
      else if kind = 3 || (kind = 2 && (n = 0 || 16 < n)) then none
      else
        match r.box tmax ((List.range 6).map fun k => w (24 * c + 4 * k) 4) with
        | some en => some (insertChild { entry := some en, node := kind = 1, addr := bitsNat e 56 0, count := n } l)
        | none => some l) (some [])

/-- The triangles of a leaf from number j on (R267): the best hit and the bound after them, and the fetches made. -/
def Ray.leaf (r : Ray) (fetch : Fetch) (s : State) (a j tmax visits : Nat) (best : Option Best) :
    Nat → TravRes × Nat
  | 0 => (.ok s best visits, tmax)
  | n + 1 =>
    let at_ := a + 48 * j
    if !r.mayFetch at_ 48 16 visits then (.bad s 1 visits, tmax)
    else
      match fetch s at_ 48 with
      | .wait s => (.wait s, tmax)
      | .fail s e => (.bad s e (visits + 1), tmax)
      | .ok s bs =>
        let w (off k : Nat) : Nat := bytesNat ((bs.drop off).take k)
        match r.triangle tmax ((List.range 9).map fun k => w (4 * k) 4) with
        | some h =>
          if r.reject && h.neg then r.leaf fetch s a (j + 1) tmax (visits + 1) best n
          else
            let b : Best := { hit := h, at_ := at_, prim := w 36 4, inst := w 40 2, mkey := w 44 4 }
            let better := match best with
              | some x => !(le32 x.hit.t h.t) || (le32 h.t x.hit.t && at_ < x.at_)
              | none => true
            if r.any then (.ok s (some b) (visits + 1), tmax)
            else r.leaf fetch s a (j + 1) (if le32 h.t tmax then h.t else tmax) (visits + 1) (if better then some b else best) n
        | none => r.leaf fetch s a (j + 1) tmax (visits + 1) best n

/-- The traversal of the pending children (R267, R384): the stack holds at most 64 of them. -/
def Ray.walk (r : Ray) (fetch : Fetch) (s : State) (tmax visits : Nat) (best : Option Best) : List Child → Nat → TravRes
  | _, 0 => .bad s 1 visits
  | [], _ + 1 => .ok s best visits
  | c :: stack, f + 1 =>
    if (match c.entry with | some e => !le32 e tmax | none => false) then r.walk fetch s tmax visits best stack f
    else if c.node then
      if !r.mayFetch c.addr 128 128 visits then .bad s 1 visits
      else
        match fetch s c.addr 128 with
        | .wait s => .wait s
        | .fail s e => .bad s e (visits + 1)
        | .ok s bs =>
          match r.children tmax bs with
          | none => .bad s 1 (visits + 1)
          | some l =>
            if 64 < l.length + stack.length then .bad s 1 (visits + 1)
            else r.walk fetch s tmax (visits + 1) best (l ++ stack) f
    else
      match r.leaf fetch s c.addr 0 tmax visits best c.count with
      | (.ok s b v, tm) => if r.any && b.isSome then .ok s b v else r.walk fetch s tm v b stack f
      | (q, _) => q

/-- A whole traversal (R266, R267, R383, R384). Every fetch pushes at most four children, so that the fuel never runs out. -/
def Ray.run (r : Ray) (fetch : Fetch) (s : State) : TravRes :=
  if r.bad then .bad s 1 0
  else if [r.root, r.lo, r.hi].any fun a => addrKind a != .virt then .bad s 4 0
  else r.walk fetch s r.tmax 0 none [{ entry := none, node := true, addr := r.root, count := 0 }] (5 * r.budget + 2)

/-- The return payload of a hit (R267). -/
def Best.payload (b : Best) (visits : Nat) : List Byte :=
  natBytesLE 4 b.hit.t ++ natBytesLE 4 b.hit.u ++ natBytesLE 4 b.hit.v ++ natBytesLE 4 b.prim ++ natBytesLE 4 b.mkey ++
    natBytesLE 4 (b.inst + if b.hit.neg then 2 ^ 16 else 0) ++ natBytesLE 4 visits ++ natBytesLE 4 0

/-- The ray of the first 32 bytes of a call payload (R267). -/
def rayOf (bs : List Byte) (root lo hi budget flags : Nat) : Ray :=
  let w (k : Nat) : Nat := bytesNat ((bs.drop (4 * k)).take 4)
  { o := [w 0, w 1, w 2], d := [w 4, w 5, w 6], tmin := w 3, tmax := w 7, root := root, lo := lo, hi := hi,
    budget := budgetOf budget, any := bitNat flags 0, reject := bitNat flags 1 }

/-- A traversal call (R267). -/
def State.traverse (s : State) (c : Call) : FlRes (List Byte) :=
  let r := rayOf c.payload (c.pay 32 8) (c.pay 40 8) (c.pay 48 8) (c.pay 56 4) (c.pay 60 4)
  match r.run (fun s a n => s.flRead c a n 1) s with
  | .wait s => .wait s
  | .bad s e v => .fail (s.mapCall c.id fun c => { c with count := v }) e
  | .ok s (some b) v => .ok s (b.payload v)
  | .ok s none v => .ok { s with free := s.free + 3 } (missPayload s.free v none)

/-- FLUME_TRAVERSAL (R267). -/
def execFlumeTraversal (id : Nat) (s : State) : Host.Outcome State Fault Refusal := .next (s.runCall 5 id State.traverse)

/-! ### Traversal tasks -/

/-- A hit record of a task is taken by the sieve in its turn, and the task goes on to its next ray. -/
def State.sieveHit (s : State) (h : SieveHit) : State :=
  if !s.sieveNext h.id (hitKey h.record) then s
  else
    match s.sieve h.record with
    | (s, true) =>
      ({ s with gx := { s.gx with hits := s.gx.hits.filter fun x => x.task != h.task } } : State).mapTask h.task fun t => { t with ray := t.ray + 1 }
    | (s, false) => s

/-- The hit record of a ray is handed on (R267): it arrives at the sieve, or is written to OUT, where a failed write is counted in FL_DROP
(R404) and one that waits is made again. -/
def State.putHit (s : State) (t : Task) (out : Nat) (hit : List Byte) : State :=
  let next (s : State) : State := s.mapTask t.key fun t => { t with ray := t.ray + 1 }
  if out = 0 then
    let h : SieveHit := { id := s.nextId, task := t.key, record := BitVec.ofNat 512 (bytesNat hit) }
    ({ s with nextId := s.nextId + 1, gx := { s.gx with hits := s.gx.hits ++ [h] } } : State).sieveHit h
  else
    match s.unitWrite 0 none t.pdom t.partid t.id.toNat ((out + 64 * t.ray) % 2 ^ 64) hit with
    | .wait s => s
    | .fail s => next (s.addDrop 1)
    | .ok s _ => next s

/-- The next ray of a traversal task (R267, R384, R404); the last one done, the task has nothing left in flight. -/
def State.nextRay (s : State) (t : Task) : State :=
  let read (s : State) (a n : Nat) : UnitRes (List Byte × Nat) := s.unitRead 0 none t.pdom t.partid t.id.toNat a n
  match read s (TaskRec.entry t.record) 64 with
  | .wait s => s
  | .fail s => s.endPlain t.key
  | .ok s (bs, m) =>
    let b := bytesNat bs
    if m ≠ 0 then s.endPlain t.key
    else if bitsNat b 95 64 ≤ t.ray then s.mapTask t.key fun t => { t with engLeft := 0 }
    else
      let misskey := bitsNat b 383 352
      let out := bitsNat b 447 384
      let give (s : State) (p user : List Byte) : State := s.putHit t out (p ++ user)
      let bad (s : State) (user : List Byte) : State :=
        give { s with free := s.free + 3 } (missPayload s.free 0xFFFFFFFF (some misskey)) user
      match read s ((bitsNat b 63 0 + 64 * t.ray) % 2 ^ 64) 64 with
      | .wait s => s
      | .fail s => bad s (List.replicate 32 0)
      | .ok s (rb, m) =>
        if m ≠ 0 then bad s (List.replicate 32 0)
        else
          let r := rayOf rb (bitsNat b 191 128) (bitsNat b 255 192) (bitsNat b 319 256) (bitsNat b 351 320) (bitsNat b 127 96)
          let fetch : Fetch := fun s a n =>
            match read s a n with
            | .wait s => .wait s
            | .fail s => .fail s 2
            | .ok s (x, m) => if m ≠ 0 then .fail s 5 else .ok s x
          match r.run fetch s with
          | .wait s => s
          | .bad s' _ _ => bad s' (rb.drop 32)
          | .ok s' (some h) v => give s' (h.payload v) (rb.drop 32)
          | .ok s' none v => give { s' with free := s'.free + 3 } (missPayload s'.free v (some misskey)) (rb.drop 32)

/-- TRAVERSAL_TASK (R267): one ray of a dispatched traversal task. -/
def execTraversalTask (key : Nat) (s : State) : Host.Outcome State Fault Refusal :=
  .next (
    match s.task? key with
    | some t =>
      if t.state = .dispatched [] [] && TaskRec.kind t.record = 1 && t.engLeft != 0 then
        (match s.gx.hits.find? fun h => h.task = key with
         | some h => s.sieveHit h
         | none => s.nextRay t)
      else s
    | none => s)

end Sys2Proof.Machine
end

