-- ==== Sys2Proof/Machine/Manage.lean ====
section
/-! DEFINITION. The management file's debug, power and security registers, signed records, FRAME tokens, resets and the loss of power
(01 R8; 03 R65; 16 R315, R319, R324 to R326; 23 R393 to R395). -/
namespace Sys2Proof.Machine

/-! ### Debug state (R319, R395) -/

/-- A write to MG_DBG: state 3 never takes effect, nor invasive while production-locked; the register is then unchanged. -/
def State.writeDbg (s : State) (v : BitVec 64) : State :=
  let d := v.toNat % 4
  if d = 3 || (d = 2 && s.mg.sec = 0) then s
  else { s with mg := { s.mg with dbg := BitVec.ofNat 2 d, arm := v.getLsbD 2 } }

/-- MG_DBG. -/
def execMgDbg (m : Nat) (v : BitVec 64) (s : State) : Host.Outcome State Fault Refusal :=
  .next (if s.mgMay m then s.leaveIdle.writeDbg v else s.i3cSeen m)

/-! ### Power states (R326) -/

/-- MG_PWR.REQ: retention is left when it is no longer asked for. -/
def State.writePwr (s : State) (v : BitVec 64) : State :=
  let s : State := { s with mg := { s.mg with pwrReq := v.extractLsb' 4 2 } }
  if s.mg.pwrCur = 2 && s.mg.pwrReq ≠ 2 then (s.setPower 0).heldResumes else s

/-- MG_PWR_REQ. -/
def execMgPwrReq (m : Nat) (v : BitVec 64) (s : State) : Host.Outcome State Fault Refusal :=
  .next (if s.mgMay m then s.leaveIdle.writePwr v else s.i3cSeen m)

/-- Whether a task runs: it is neither waiting nor halted (R326). -/
def Task.running (t : Task) : Bool :=
  !t.halted && match t.state with | .dispatched _ _ | .ending | .finishing => true | _ => false

/-- RETENTION_ENTRY: retention is asked for and the running tasks have completed. -/
def execRetentionEntry (s : State) : Host.Outcome State Fault Refusal :=
  .next (if s.mg.pwrReq = 2 && s.mg.pwrCur.toNat < 2 && !s.hg.tasks.any Task.running then s.setPower 2 else s)

/-- Whether a task is resident or ready (R326). -/
def State.busy (s : State) : Bool := s.hg.tasks.any fun t => t.running || (t.state = .ready && !t.halted)

/-- IDLE_ENTRY: nothing has been resident or ready for 1 ms. -/
def execIdleEntry (s : State) : Host.Outcome State Fault Refusal :=
  .next (if s.mg.pwrCur = 0 && !s.busy && s.mg.busyAt + 10 ^ 9 ≤ s.timePs then s.setPower 1 else s)

/-! ### Signed records (R324, R325, R394) -/

/-- MG_BLOBST with a result. -/
def State.blobResult (s : State) (r : Nat) : State :=
  { s with mg := { s.mg with blobst := BitVec.ofNat 64 (s.mg.flashSeq.toNat % 2 ^ 32 * 2 ^ 32 + r * 2 ^ 8) } }

/-- Whether the stream port takes a record: from the owning I3C master, and in a device that boots held (R315, R393). -/
def State.blobMay (s : State) : Bool := !s.booted || s.port.own = 3

/-- Whether a record has its kind and its length (R394). -/
def blobForm (bytes : List Byte) (kind : Nat) : Bool :=
  8 ≤ bytes.length && bytesNat (bytes.take 1) = kind && bytesNat ((bytes.drop 4).take 4) = bytes.length

/-- The transitions of R325. -/
def transitionOk (from_ to_ : BitVec 2) : Bool :=
  (from_ = 0 && to_ = 1) || (from_ = 1 && to_ = 0) || to_ = 2 || (from_ = 2 && to_ = 0)

/-- Device memory, scratchpads, operand buffers and register files become zero (R325). -/
def State.clearAll (s : State) : State :=
  let s := s.dropCopies 0 (2 ^ 37)
  let z (st : Strand) : Strand :=
    { st with sregs := st.sregs.map fun _ => 0, vregs := st.vregs.map fun _ => 0, pend := st.pend.map fun p => { p with writes := [] } }
  { s with
    mem := s.mem.filter fun c => 2 ^ 37 ≤ c.1
    poison := dropRange 0 (2 ^ 32) s.poison
    lost := dropRange 0 (2 ^ 32) s.lost
    strands := s.strands.map z
    bundles := s.bundles.map fun b => { b with scratch := [], poison := [], saved := b.saved.map z }
    cores := s.cores.map fun (q : (Nat × Nat) × Core) =>
      (q.1, { q.2 with opbuf := [], opPoison := [], leftS := [], leftV := [], leftScr := [] }) }

/-- A new security state (R319, R395): the debug state is off, and tasks halted then end without a further dump. -/
def State.setSec (s : State) (sec : BitVec 2) : State :=
  let halted := (s.hg.tasks.filter fun t => t.halted).map Task.key
  let s := halted.foldl (fun s k => (s.mapTask k fun t => { t with noDump := true, halted := false }).endPlain k) s
  ({ s with mg := { s.mg with sec := sec, dbg := 0, arm := false } } : State).raiseSecurity

/-- A transition record (R325, R394): malformed, a signature, identity, transition and sequence, in this order. -/
def State.transition (s : State) (bytes : List Byte) (sigOk : Bool) : State :=
  let to_ := Config.blobTarget bytes
  let seq := Config.blobSeq bytes
  if !blobForm bytes 1 then s.blobResult 5
  else if !sigOk then s.blobResult 1
  else if Config.blobId bytes ≠ s.mg.id || s.mg.certBad then s.blobResult 2
  else if !transitionOk s.mg.sec to_ then s.blobResult 3
  else if seq.toNat ≤ s.mg.flashSeq.toNat then s.blobResult 4
  else
    let s := if to_ = 2 || s.mg.sec = 2 then s.clearAll else s
    let s := s.setSec to_
    ({ s with mg := { s.mg with flashSec := to_, flashSeq := BitVec.ofNat 64 seq.toNat } } : State).blobResult 0

/-- BLOB_TRANSITION. -/
def execBlobTransition (bytes : List (BitVec 8)) (sigOk : Bool) (s : State) : Host.Outcome State Fault Refusal :=
  .next (if s.blobMay then s.leaveIdle.transition bytes sigOk else s.leaveIdle)

/-- BLOB_CONFIGURATION (R393, R394): stored, and effective at the next power-on. -/
def execBlobConfiguration (bytes : List (BitVec 8)) (sigOk : Bool) (s : State) : Host.Outcome State Fault Refusal :=
  .next (
    if !s.blobMay then s.leaveIdle
    else if !blobForm bytes 2 then s.leaveIdle.blobResult 5
    else if !sigOk then s.leaveIdle.blobResult 1
    else (({ s.leaveIdle with mg := { s.leaveIdle.mg with flashCfg := some bytes } } : State).blobResult 6))

/-! ### FRAME tokens (R65) -/

/-- A FRAME token is processed: HG_FRAME, the work queues, the sieve, and its completion, in one step. -/
def State.processFrame (s : State) (key : Nat) : State :=
  match s.task? key with
  | some t =>
    if s.markerReady t 1 then
      let s : State := { s with hg := { s.hg with frame := s.hg.frame + 1 } }
      s.frameQueues.flushAll.markerDone key
    else s
  | none => s

/-- FRAME_TOKEN. -/
def execFrameToken (key : Nat) (s : State) : Host.Outcome State Fault Refusal := .next (s.processFrame key)

/-- Markers that are ready are processed at the end of the cycle in which they have become so, in the order of their acceptance (R65). -/
def State.processMarkers (s : State) : State :=
  (s.hg.tasks.filter fun t => t.state = .ready && TaskRec.kind t.record = 3).foldl (fun s t =>
    match TaskRec.mark t.record with
    | 1 => s.processFrame t.key
    | 2 => s.processStart t.key
    | _ => s.processStop t.key) s

/-! ### Resets and the loss of power (R8, R393, R394) -/

/-- MG_BOOT by the results of the two banks (R393): bank 1 is tried when bank 0 does not verify. -/
def bootOf (banks : Nat × Nat) (cert : Bool) : BitVec 64 :=
  let b1 := if banks.1 = 0 then 6 else banks.2
  let bank := if banks.1 = 0 then 0 else if banks.2 = 0 then 1 else 0
  BitVec.ofNat 64 ((if banks.1 = 0 || banks.2 = 0 then 1 else 0) + bank * 2 + banks.1 % 16 * 2 ^ 8 + b1 % 16 * 2 ^ 12 +
    (if cert then 2 ^ 16 else 0))

/-- The management file at power-on: what flash holds, and the configuration record in force (R324, R393; assumption 13). -/
def Mgmt.powerOn (m : Mgmt) : Mgmt :=
  let boot := bootOf m.banks m.certBad
  let clock := match m.flashCfg with | some r => Config.cfgClock r | none => Mgmt.reset.cfgClock
  { Mgmt.reset with
    banks := m.banks, certBad := m.certBad, boot := boot, flashSec := m.flashSec, flashSeq := m.flashSeq, flashCfg := m.flashCfg
    sec := if boot.getLsbD 0 then m.flashSec else 0
    blobst := BitVec.ofNat 64 (m.flashSeq.toNat % 2 ^ 32 * 2 ^ 32)
    tag := match m.flashCfg with | some r => Config.cfgTag r | none => Mgmt.reset.tag
    cfgClock := clock, clock := clock
    disabled := match m.flashCfg with
      | some r => (Config.cfgDisabled r).flatMap fun (d, c) => (List.range 4).map fun i => (d, 4 * c + i)
      | none => Mgmt.reset.disabled
    gxOff := match m.flashCfg with | some r => Config.cfgGxOff r | none => Mgmt.reset.gxOff
    memGiB := match m.flashCfg with | some r => Config.cfgMemory r | none => Mgmt.reset.memGiB
    cfgSec := match m.flashCfg with | some r => Config.cfgSecurity r | none => Mgmt.reset.cfgSec }

/-- The device after power-on. Host memory, the companion's memory, and what the model's environment holds are not the device's. -/
def State.powerOn (s : State) : State :=
  { State.reset with
    mem := s.mem.filter fun c => 2 ^ 47 ≤ c.1
    link := { Link.reset with kmem := s.link.kmem }
    mg := s.mg.powerOn, agenda := s.agenda, free := s.free }

/-- POWER_ON_RESET (R8). -/
def execPowerOnReset (s : State) : Host.Outcome State Fault Refusal := .next s.powerOn

/-- WARM_RESET (R8): every field takes its reset value but those preserved; memory, the boot results and the configuration in force stay,
and so do the counters since power-on. A field that the spec does not mark preserved, MG_BLOBST.RESULT among them, takes its Reset value
(assumption 36); SEQ is what flash holds. -/
def execWarmReset (s : State) : Host.Outcome State Fault Refusal :=
  .next { State.reset with
    mem := s.mem, poison := s.poison, lost := s.lost, link := { Link.reset with kmem := s.link.kmem }, agenda := s.agenda,
    free := s.free, cycle := s.cycle, timePs := s.timePs
    mg := { Mgmt.reset with
      id := s.mg.id, sec := s.mg.sec, banks := s.mg.banks, certBad := s.mg.certBad, boot := s.mg.boot,
      blobst := BitVec.ofNat 64 (s.mg.flashSeq.toNat % 2 ^ 32 * 2 ^ 32),
      flashSec := s.mg.flashSec, flashSeq := s.mg.flashSeq, flashCfg := s.mg.flashCfg, tag := s.mg.tag, cfgClock := s.mg.cfgClock,
      clock := s.mg.cfgClock, disabled := s.mg.disabled, gxOff := s.mg.gxOff, memGiB := s.mg.memGiB, cfgSec := s.mg.cfgSec, busyAt := s.timePs } }

/-- POWER_LOSS (R326, R394): every volatile state is lost; what flash holds stays. -/
def execPowerLoss (s : State) : Host.Outcome State Fault Refusal :=
  .next { s.powerOn with mg := { s.powerOn.mg with pwrCur := 3 } }

end Sys2Proof.Machine
end

