-- ==== Sys2Proof/Machine/Fetch.lean ====
section
/-! DEFINITION. Fetching an instruction's words through a strand's translation (20 R356, R357; 14 R298; 19 R405; 21 R376). -/
namespace Sys2Proof.Machine

/-- What the fetch of one word comes to: the word, with the state that holds its atom; or the state in which the instruction has taken
its cause, is parked, or waits. -/
inductive FetchRes (α : Type) where
  | got (s : State) (x : α)
  | stop (s : State)

/-- The word at an address of a fetched atom. -/
def atomWord (v : Vec) (va : Nat) : Word := v.extractLsb' (8 * (va % 32)) 32

/-- The word at the strand's fetch address `va`, fetched in 32-byte atoms (R357). An atom that the strand holds is not fetched again
until ISYNC (R298, R376; assumption 12). -/
def State.fetchWord (s : State) (st : Strand) (va : Nat) : FetchRes Word :=
  let d := st.at_.die
  let c := st.at_.core
  let fresh : FetchRes Word :=
    if addrKind va ≠ .virt then .stop (s.raise st cAddr (BitVec.ofNat 64 va))
    else
      let page := pageOf va
      let k := partOf va
      let miss : FetchRes Word := .stop (s.mergeMiss st 2 va)
      match s.tlbLeaf d (some c) st.pdom.toNat page with
      | none => miss
      | some l =>
        if !s.usable l k then miss
        else if !l.x then .stop (s.raise st cPermX (BitVec.ofNat 64 va))
        else
          match l.target st.pdom.toNat st.partid.toNat va with
          | .phys pa g b p =>
            (match (s.tlbUse d c st.pdom.toNat page).unitAtom d (some c) pa { group := g, base := b, partid := p, hint := 0 } with
             | none => .stop (s.putStrand (st.block s.cycle 0 false .retry))
             | some (v, m, t) =>
               let s := t.tagNotes s.evBuf.length (s.who st.task)
               if m ≠ 0 then .stop (s.raise st (markCause m) (BitVec.ofNat 64 va))
               else .got (s.putStrand { st with fbuf := some (va / 32, v) }) (atomWord v va))
          | _ =>
            .stop ((s.awaitPart st.at_ st.pdom.toNat va).putStrand (st.block s.cycle 0 false (.fetchMove st.pdom.toNat page k)))
  match st.fbuf with
  | some (a, v) => if a = va / 32 then .got s (atomWord v va) else fresh
  | none => fresh

/-- The words of the instruction at PC, one at a time, until they are an instruction or are none (R164, R355). -/
noncomputable def State.fetchFrom (s : State) (r : SRef) (ws : List Word) : Nat → FetchRes Instr
  | 0 => .stop s
  | n + 1 =>
    match s.strandAt r with
    | none => .stop s
    | some st =>
      match s.fetchWord st ((st.pc.toNat + 4 * ws.length) % 2 ^ 57) with
      | .stop s => .stop s
      | .got s w =>
        match decodeWords (ws ++ [w]) with
        | .instr i => .got s i
        | .illegal w =>
          (match s.strandAt r with
           | some st => .stop (s.raise st cIllegal (w.zeroExtend 64))
           | none => .stop s)
        | .truncated => s.fetchFrom r (ws ++ [w]) n

/-- The instruction at PC of a strand: at most three words (R164). -/
noncomputable def State.fetchInstr (s : State) (r : SRef) : FetchRes Instr := s.fetchFrom r [] 3

/-! ### Looking at the next instruction (R28, R29) -/

/-- The word at an address as the strand would fetch it now, without fetching it. -/
def State.peekFetch (s : State) (st : Strand) (va : Nat) : Option Word :=
  let far : Option Word :=
    match s.tlbLeaf st.at_.die (some st.at_.core) st.pdom.toNat (pageOf va) with
    | none => none
    | some l => some (BitVec.ofNat 32 (readNat s.mem (l.pa va) 4))
  match st.fbuf with
  | some (a, v) => if a = va / 32 then some (atomWord v va) else far
  | none => far

/-- The word of a strand's next instruction, after its prefixes. -/
def State.lastWord (s : State) (st : Strand) (va : Nat) : Nat → Word
  | 0 => 0
  | n + 1 =>
    match s.peekFetch st (va % 2 ^ 57) with
    | none => 0
    | some w => if fOp w = 0x7E#7 || fOp w = 0x7F#7 then s.lastWord st (va + 4) n else w

/-- The port of a strand's next instruction: majors 0x30 and up are the memory/control port's (R28). -/
def State.portOf (s : State) (st : Strand) : Bool := 0x30 ≤ (fOp (s.lastWord st st.pc.toNat 3)).toNat

end Sys2Proof.Machine
end

