-- ==== Sys2Proof/Machine/Counters.lean ====
section
/-! DEFINITION. Event counters and memory samples (16 R321, R322). -/
namespace Sys2Proof.Machine

/-! ### Event counters (R322) -/

/-- Whether an event passes the filters of a selector. -/
def EvNote.passes (e : EvNote) (sel : Word) : Bool :=
  let pfe := sel.getLsbD 24
  let win := sel.getLsbD 29
  (!pfe && !win) || e.who.any fun (p, t) => (!pfe || p = bitsNat sel.toNat 23 20) && (!win || t)

/-- How many events of a cycle a counter counts, given the notes of its core or die and the codes its selector accepts. -/
def selCount (sel : Word) (lo hi : Nat) (notes : List EvNote) : Nat :=
  let src := sel.toNat % 256
  if !sel.getLsbD 31 || src < lo || hi < src then 0
  else if src = 1 then (if sel.getLsbD 24 || sel.getLsbD 29 then 0 else 1)
  else
    let l := notes.filter fun e => e.src = src && e.passes sel
    if src = 16 || src = 70 then min 1 l.length else l.foldl (fun n e => n + e.n) 0

/-- Counters advanced by their selectors. -/
def countAll (lo hi : Nat) (notes : List EvNote) (sels : List Word) (xs : List (BitVec 64)) : List (BitVec 64) :=
  List.zipWith (fun sel x => x + BitVec.ofNat 64 (selCount sel lo hi notes)) sels xs

/-- Events that the state at the end of a cycle shows: calls refused at a weir, entries to blocking points, cross-die writes sent, and
writes held for a window. -/
def State.lateNotes (s : State) : List EvNote :=
  (s.gx.calls.filterMap fun c =>
    if c.stage = 0 then some { die := c.die, core := some c.core, src := 16, n := 1, who := s.who c.task } else none) ++
  (s.strands.filterMap fun st =>
    match st.blocked with
    | some b =>
      if b.wait.blocking && b.since = s.cycle then
        some { die := st.at_.die, core := some st.at_.core, src := 17, n := 1, who := s.who st.task }
      else none
    | none => none) ++
  (s.xwrites.filterMap fun w =>
    if w.since = s.cycle then some { die := w.src, core := none, src := 69, n := 1, who := s.who (s.keyOf w.task) } else none) ++
  (s.strands.filterMap fun st =>
    match st.blocked with
    | some b =>
      if b.wait = .retry && [1, 2].any (fun k => (s.xwrites.filter fun w => w.src = st.at_.die && w.dst = k).length ≥ 2 ^ 15 - 1) then
        some { die := st.at_.die, core := none, src := 70, n := 1, who := s.who st.task }
      else none
    | none => none)

/-- Whether a list of selectors counts anything. -/
def anyEnabled (sels : List Word) : Bool := sels.any fun w => w.getLsbD 31

/-- The counters of a core advance: its selectors accept codes 1 to 18. -/
def countCore (notes : List EvNote) (q : (Nat × Nat) × Core) : (Nat × Nat) × Core :=
  if anyEnabled q.2.evsel then
    (q.1, { q.2 with evcnt := countAll 1 18 (notes.filter fun e => e.die = q.1.1 && e.core = some q.1.2) q.2.evsel q.2.evcnt })
  else q

/-- The counters of a die advance: its selectors accept codes 64 to 78. -/
def countDie (notes : List EvNote) (q : Nat × Die) : Nat × Die :=
  if anyEnabled q.2.devsel then
    (q.1, { q.2 with devcnt := countAll 64 78 (notes.filter fun e => e.die = q.1 && e.core = none) q.2.devsel q.2.devcnt })
  else q

/-- Whether the counters hold: in idle and retention under trace-only (R326; assumption 54). -/
def State.countersHold (s : State) : Bool := s.mg.dbg = 1 && (s.mg.pwrCur = 1 || s.mg.pwrCur = 2)

/-- Every event of the cycle is counted (R322). -/
def State.countEvents (s : State) : State :=
  if s.countersHold then { s with evBuf := [] }
  else if s.cores.any (fun x => anyEnabled x.2.evsel) || s.dies.any (fun x => anyEnabled x.2.devsel) then
    let notes := s.evBuf ++ s.lateNotes
    { s with cores := s.cores.map (countCore notes), dies := s.dies.map (countDie notes), evBuf := [] }
  else { s with evBuf := [] }

/-! ### Memory samples (R321) -/

/-- Whether a strand's task is traced. -/
def State.tracedStrand (s : State) (st : Strand) : Bool := match s.task? st.task with | some t => t.traced | none => false

/-- The prefixes before a strand's next instruction word. -/
def State.prefixWords (s : State) (st : Strand) (va : Nat) : Nat → List Word
  | 0 => []
  | n + 1 =>
    match s.peekFetch st (va % 2 ^ 57) with
    | none => []
    | some w => if fOp w = 0x7E#7 || fOp w = 0x7F#7 then w :: s.prefixWords st (va + 4) n else []

/-- The bytes that an instruction of majors 0x40 to 0x48 touches, as (address, size), given its prefixes (R216 to R221). -/
def Strand.touched (st : Strand) (ps : List Word) (w : Word) : List (Nat × Nat) :=
  let mk : Option Msk := (ps.find? fun p => fOp p = 0x7E#7).map fun p => { sense := p.extractLsb' 3 1, pred := p.extractLsb' 0 3 }
  let x : Option (BitVec 25) := (ps.find? fun p => fOp p = 0x7F#7).map fun p => p.extractLsb' 0 25
  let z : BitVec 2 := w.extractLsb' 5 2
  let ea := (st.ea (fA w) x).toNat
  let places (l : List (Nat × Nat × Nat × Nat)) : List (Nat × Nat) := l.map fun (_, va, n, _) => (va, n)
  match (fOp w).toNat with
  | 0x40 | 0x43 => [(ea, scalarSize z)]
  | 0x41 | 0x44 => places (st.vectorLanes mk x (fA w) (vectorSize z) 0)
  | 0x42 | 0x45 => places (st.gatherLanes mk (fA w) (fB w) (scalarSize ((gatherM x).extractLsb' 5 2)) 0)
  | 0x46 => (List.range 4).map fun j => (ea / 128 * 128 + 32 * j, 32)
  | 0x47 => [(ea, 4)]
  | 0x48 => [(ea, if 10 ≤ (w.extractLsb' 3 4).toNat then 16 else 8)]
  | _ => []

/-- The 32-byte sector that an address of a strand lies in, told apart by where it stands: physical memory, a grant, or an address that
does not translate. -/
def State.sectorAt (s : State) (st : Strand) (va : Nat) : Nat × Nat :=
  match addrKind va with
  | .virt => (match (s.peekLeaf st va).1 with | some l => (0, l.pa va / 32) | none => (1, va / 32))
  | .cluster h off => (2 + h, off / 32)
  | .scratch off => (match st.bundle with | some (h, _) => (2 + h, off / 32) | none => (1, va / 32))
  | _ => (1, va / 32)

/-- The level that a load of an address is served by (R321): none where no code of LVL names it. -/
def State.levelAt (s : State) (st : Strand) (load : Bool) (va : Nat) : Option Nat :=
  let d := st.at_.die
  match addrKind va with
  | .scratch _ | .cluster _ _ => some 4
  | .virt =>
    if !load then none
    else
      match ((s.peekLeaf st va).1.map fun l => l.target st.pdom.toNat st.partid.toNat va : Option Target) with
      | some (.phys pa _ _ _) =>
        if (findSector (s.core d st.at_.core).l1 (pa / 32) s.cycle).isSome then some 0
        else
          match homeOf pa with
          | .regs => none
          | .host => some 6
          | .dram k =>
            if k ≠ d && (findSector (s.die d).rdc (pa / 32) s.cycle).isSome then some 2
            else if k = 3 then some 5
            else if (s.die k).l2.any fun x => x.line = pa / 128 then some 1
            else some 3
      | _ => none
  | _ => none

/-- The one level that serves all the bytes a strand's instruction touches, if there is one. -/
def State.levelOf (s : State) (st : Strand) (load : Bool) (l : List (Nat × Nat)) : Option Nat :=
  match l.map fun p => s.levelAt st load p.1 with
  | x :: r => if r.all (· = x) then x else none
  | [] => none

/-- The weave of a core is counted, and every SPER-th is sampled, when traced strands issue majors 0x40 to 0x49; strands that issue their
instruction again have been counted. -/
def State.sampleWeave (s : State) (sts : List Strand) : State :=
  match sts with
  | [] => s
  | st :: _ =>
    let w := s.lastWord st st.pc.toNat 3
    if !s.trace.opened || s.trace.closing || sts.all Strand.again || !(sts.any s.tracedStrand) || (fOp w).toNat < 0x40 || 0x49 < (fOp w).toNat then s
    else
      let k := s.core st.at_.die st.at_.core
      let s := s.setCore st.at_.die st.at_.core { k with sampleCount := k.sampleCount + 1 }
      if s.trace.sper = 0 || (k.sampleCount + 1) % s.trace.sper ≠ 0 then s
      else
        let ps := s.prefixWords st st.pc.toNat 3
        let touched := sts.map fun x => (x, x.touched ps w)
        let x : Sample :=
          { sid := st.sid, made := none
            common := traceCommon 3 0 st.at_.die st.at_.core (match st.bundle with | some (h, _) => h | none => 0) st.sid.toNat
              st.taskId.toNat st.pc.toNat 0
            pc := st.pc, insn := w, active := sts.length
            sectors := (touched.flatMap fun (x, l) => l.map fun p => s.sectorAt x p.1).eraseDups.length
            levels := touched.filterMap fun (x, l) => (s.levelOf x ((fOp w).toNat ≤ 0x42) l).map fun k => (x.at_, k)
            left := sts.map fun x => (x.at_, x.sid) }
        { s with trace := { s.trace with samples := s.trace.samples ++ [x] } }

/-- Whether a strand of a sampled weave has been served: it has gone on from the instruction. -/
def State.sampleServed (s : State) (x : Sample) (p : SRef × Word) : Bool :=
  match s.strandAt p.1 with
  | some st => st.sid != p.2 || st.pc != x.pc
  | none => true

/-- The record of a sample: its queue times and replays, and a level that R321 does not settle, are free values (assumption 16). -/
def sampleRecord (x : Sample) (ns lastSid : Nat) (lvl : Option Nat) (free : Nat) : Nat :=
  let f (i w : Nat) : Nat := Config.freeNat (free + i) % 2 ^ w
  x.common + ns % 2 ^ 64 * 2 ^ 192 + x.insn.toNat * 2 ^ 288 + (lvl.getD (Config.freeNat free % 7)) * 2 ^ 341 + x.active * 2 ^ 344 +
    x.sectors % 2 ^ 16 * 2 ^ 352 + f 2 16 * 2 ^ 368 + f 3 32 * 2 ^ 384 + f 4 32 * 2 ^ 416 + f 5 32 * 2 ^ 448 + lastSid * 2 ^ 480

/-- Samples whose last strand has been served are written (R321), and records that stood behind them, each once no earlier record of its
strand stands before it (R318). -/
def State.makeSamples (s : State) (kept : List Sample) : List Sample → State
  | [] => { s with trace := { s.trace with samples := kept } }
  | x :: xs =>
    let behind := kept.any fun y => y.sid = x.sid
    let gone := x.left.filter (s.sampleServed x)
    let left := x.left.filter fun p => !s.sampleServed x p
    if !left.isEmpty then s.makeSamples (kept ++ [{ x with left := left }]) xs
    else if behind then s.makeSamples (kept ++ [{ x with left := gone.take 1 }]) xs
    else
      match x.made with
      | some r => (s.traceAdd r.toNat).makeSamples kept xs
      | none =>
        let (sid, lvl) := match gone with
          | p :: _ => (p.2.toNat, (x.levels.find? fun l => l.1 = p.1).map Prod.snd)
          | [] => (0, none)
        let s := s.traceAdd (sampleRecord x s.timeNs sid lvl s.free)
        ({ s with free := s.free + 6 } : State).makeSamples kept xs

/-- The samples at the end of a cycle. -/
def State.endSamples (s : State) : State := s.makeSamples [] s.trace.samples

end Sys2Proof.Machine
end

