-- ==== Sys2Proof/Machine/Control.lean ====
section
/-! DEFINITION. Branches, jumps, reconvergence and strand control (09 R193 to R197; 20 R362; 02 R36, R39, R40). -/
namespace Sys2Proof.Machine

/-- A transfer of control by the strand alone; it ends no window (R195). -/
def State.jump (s : State) (st : Strand) (target : Addr) : State := s.putStrand (st.goTo s.cycle target)

/-- BR (R193). -/
def execBr (x : Option (BitVec 25)) (o : BitVec 21) (s : State) : Host.Outcome State Fault Refusal :=
  s.onStrand fun st => s.jump st (st.branchTarget x o)

/-- BRP: taken when (p[k][0] xor sense) = 1 (R193). -/
def execBrp (x : Option (BitVec 25)) (z : BitVec 1) (p : BitVec 3) (o : BitVec 21) (s : State) :
    Host.Outcome State Fault Refusal :=
  s.onStrand fun st =>
    s.jump st (if (st.p p).getLsbD 0 != z.getLsbD 0 then st.branchTarget x o else st.after (len1 x))

/-- CALL: %link takes the fall-through address (R193). -/
def execCall (x : Option (BitVec 25)) (o : BitVec 21) (s : State) : Host.Outcome State Fault Refusal :=
  s.onStrand fun st => s.jump { st with link := st.after (len1 x) } (st.branchTarget x o)

/-- JR and JALR: the offset has bits [1:0] zero, otherwise MISALIGN with the target in TVAL (R194, R362). -/
def State.jumpBy (s : State) (st : Strand) (a : BitVec 7) (link : Bool) : State :=
  let off := st.s a
  let target := st.pc + off.signExtend 57
  if off.extractLsb' 0 2 ≠ 0 then s.raise st cMisalign (target.zeroExtend 64)
  else s.jump { st with link := if link then st.after 1 else st.link } target

/-- JR (R194). -/
def execJr (a : BitVec 7) (s : State) : Host.Outcome State Fault Refusal := s.onStrand fun st => s.jumpBy st a false

/-- JALR (R194). -/
def execJalr (a : BitVec 7) (s : State) : Host.Outcome State Fault Refusal := s.onStrand fun st => s.jumpBy st a true

/-- RET through %link (R194). -/
def execRet (s : State) : Host.Outcome State Fault Refusal := s.onStrand fun st => s.jump st st.link

/-- RET through a pair; bits [1:0] not zero raise MISALIGN (R194, R362). -/
def execRetPair (a : BitVec 7) (s : State) : Host.Outcome State Fault Refusal :=
  s.onStrand fun st =>
    let target := st.pairAddr a
    if target.extractLsb' 0 2 ≠ 0 then s.raise st cMisalign (target.zeroExtend 64) else s.jump st target

/-- RCV: a blocking point for a member of a bundle; a strand without a bundle passes at once (R39, R196). -/
def execRcv (s : State) : Host.Outcome State Fault Refusal :=
  s.onStrand fun st =>
    match st.bundle with
    | none => s.putStrand (st.closeWindows.retire s.cycle 1)
    | some _ => s.putStrand (st.block s.cycle 1 true .rcv)

/-- EXIT: long-latency writes in flight are discarded (R36, R197). -/
def execExit (s : State) : Host.Outcome State Fault Refusal := s.onStrand fun st => s.endStrand st

/-- YIELD: ready again 16 cycles after issue (R197). -/
def execYield (s : State) : Host.Outcome State Fault Refusal :=
  s.onStrand fun st => s.putStrand (st.block s.cycle 1 true (.sleep true (s.cycle + 16)))

/-- SLEEP: its count is read as the new value, since a blocking point closes every window; a count of 0 acts as YIELD
(R197, R42). -/
def execSleep (a : BitVec 7) (s : State) : Host.Outcome State Fault Refusal :=
  s.onStrand fun st =>
    let n := (st.closeWindows.s a).toNat
    s.putStrand (st.block s.cycle 1 true (.sleep (n = 0) (s.cycle + if n = 0 then 16 else n)))

end Sys2Proof.Machine
end

