-- ==== Sys2Proof/Machine/Dispatch.lean ====
section
/-! DEFINITION. The dispatch: one arm per row of the opcode table, each one call of its meaning. -/
namespace Sys2Proof.Machine

def exec (i : Instr) (s : State) : Host.Outcome State Fault Refusal :=
  match i with
  | .powerOnReset => Sys2Proof.Machine.execPowerOnReset s
  | .warmReset => Sys2Proof.Machine.execWarmReset s
  | .powerSample mw => Sys2Proof.Machine.execPowerSample mw s
  | .dramRefresh die chan => Sys2Proof.Machine.execDramRefresh die chan s
  | .dhTrain m n v => Sys2Proof.Machine.execDhTrain m n v s
  | .dhTrainDone n ok => Sys2Proof.Machine.execDhTrainDone n ok s
  | .dhEnable m n v => Sys2Proof.Machine.execDhEnable m n v s
  | .dhFrameStart n => Sys2Proof.Machine.execDhFrameStart n s
  | .hgHtail m v => Sys2Proof.Machine.execHgHtail m v s
  | .taskAcceptance => Sys2Proof.Machine.execTaskAcceptance s
  | .agingStep => Sys2Proof.Machine.execAgingStep s
  | .evminReservation => Sys2Proof.Machine.execEvminReservation s
  | .taskDispatch => Sys2Proof.Machine.execTaskDispatch s
  | .bundlePlacement die => Sys2Proof.Machine.execBundlePlacement die s
  | .fastPathPlacement die => Sys2Proof.Machine.execFastPathPlacement die s
  | .stealRequest die => Sys2Proof.Machine.execStealRequest die s
  | .bundleEviction h => Sys2Proof.Machine.execBundleEviction h s
  | .bundleRestore h die core => Sys2Proof.Machine.execBundleRestore h die core s
  | .workQueueTailObserve q => Sys2Proof.Machine.execWorkQueueTailObserve q s
  | .workQueueLaunch q => Sys2Proof.Machine.execWorkQueueLaunch q s
  | .taskCompletion key => Sys2Proof.Machine.execTaskCompletion key s
  | .frameToken key => Sys2Proof.Machine.execFrameToken key s
  | .traceStart key => Sys2Proof.Machine.execTraceStart key s
  | .traceStop key => Sys2Proof.Machine.execTraceStop key s
  | .hgPolicy m v => Sys2Proof.Machine.execHgPolicy m v s
  | .hgQtcount m v => Sys2Proof.Machine.execHgQtcount m v s
  | .hgFkill m v => Sys2Proof.Machine.execHgFkill m v s
  | .backwaterFullReport => Sys2Proof.Machine.execBackwaterFullReport s
  | .hostIrq m v => Sys2Proof.Machine.execHostIrq m v s
  | .mstOwn m v => Sys2Proof.Machine.execMstOwn m v s
  | .registerWrite m addr v => Sys2Proof.Machine.execRegisterWrite m addr v s
  | .hostMemoryWrite addr bytes => Sys2Proof.Machine.execHostMemoryWrite addr bytes s
  | .hostMemoryRead addr n => Sys2Proof.Machine.execHostMemoryRead addr n s
  | .hostAtomic op addr width x y => Sys2Proof.Machine.execHostAtomic op addr width x y s
  | .lineLeaseExpiry cache line => Sys2Proof.Machine.execLineLeaseExpiry cache line s
  | .crossDieWriteApply id => Sys2Proof.Machine.execCrossDieWriteApply id s
  | .writeAcknowledge id => Sys2Proof.Machine.execWriteAcknowledge id s
  | .readRequestServe id data => Sys2Proof.Machine.execReadRequestServe id data s
  | .loadDataReturn die core slot n => Sys2Proof.Machine.execLoadDataReturn die core slot n s
  | .walkComplete die pdom page => Sys2Proof.Machine.execWalkComplete die pdom page s
  | .uncorrectableMemoryError atom dirtyL2 => Sys2Proof.Machine.execUncorrectableMemoryError atom dirtyL2 s
  | .scratchpadSoftError die core what off => Sys2Proof.Machine.execScratchpadSoftError die core what off s
  | .ackOverdue id => Sys2Proof.Machine.execAckOverdue id s
  | .watchTimeout die core slot => Sys2Proof.Machine.execWatchTimeout die core slot s
  | .strandWake die core slot => Sys2Proof.Machine.execStrandWake die core slot s
  | .rwrDeposit id => Sys2Proof.Machine.execRwrDeposit id s
  | .mailboxAccept id bit => Sys2Proof.Machine.execMailboxAccept id bit s
  | .mxMma die core => Sys2Proof.Machine.execMxMma die core s
  | .mxMmac die core => Sys2Proof.Machine.execMxMmac die core s
  | .ssbScan die core => Sys2Proof.Machine.execSsbScan die core s
  | .ceCopy die core => Sys2Proof.Machine.execCeCopy die core s
  | .qeQuant die cluster => Sys2Proof.Machine.execQeQuant die cluster s
  | .engineCommandComplete die unit eng => Sys2Proof.Machine.execEngineCommandComplete die unit eng s
  | .engctlResume die core v => Sys2Proof.Machine.execEngctlResume die core v s
  | .engctlAbandon die core v => Sys2Proof.Machine.execEngctlAbandon die core v s
  | .mxringTailObserve die core => Sys2Proof.Machine.execMxringTailObserve die core s
  | .weirAdmit id => Sys2Proof.Machine.execWeirAdmit id s
  | .flumeRaster id => Sys2Proof.Machine.execFlumeRaster id s
  | .flumeDepth id => Sys2Proof.Machine.execFlumeDepth id s
  | .flumeBlend id => Sys2Proof.Machine.execFlumeBlend id s
  | .flumeTessellator id => Sys2Proof.Machine.execFlumeTessellator id s
  | .flumeTextureFilter id => Sys2Proof.Machine.execFlumeTextureFilter id s
  | .flumeTraversal id => Sys2Proof.Machine.execFlumeTraversal id s
  | .flumeReprojection id => Sys2Proof.Machine.execFlumeReprojection id s
  | .flumeSieve id => Sys2Proof.Machine.execFlumeSieve id s
  | .sieveAgeFlush bucket => Sys2Proof.Machine.execSieveAgeFlush bucket s
  | .queueRoomResume id => Sys2Proof.Machine.execQueueRoomResume id s
  | .orderDomainAdvance n => Sys2Proof.Machine.execOrderDomainAdvance n s
  | .traversalTask key => Sys2Proof.Machine.execTraversalTask key s
  | .flDom m n v => Sys2Proof.Machine.execFlDom m n v s
  | .pair w => Sys2Proof.Machine.execPair w s
  | .pairAck w => Sys2Proof.Machine.execPairAck w s
  | .migrate w => Sys2Proof.Machine.execMigrate w s
  | .migrateDone w => Sys2Proof.Machine.execMigrateDone w s
  | .move w => Sys2Proof.Machine.execMove w s
  | .moveData w bytes marks => Sys2Proof.Machine.execMoveData w bytes marks s
  | .stepAck w => Sys2Proof.Machine.execStepAck w s
  | .release w => Sys2Proof.Machine.execRelease w s
  | .cisternStep => Sys2Proof.Machine.execCisternStep s
  | .companionSurpriseDown => Sys2Proof.Machine.execCompanionSurpriseDown s
  | .companionUnresponsive => Sys2Proof.Machine.execCompanionUnresponsive s
  | .azRetrain m v => Sys2Proof.Machine.execAzRetrain m v s
  | .azClrpart m v => Sys2Proof.Machine.execAzClrpart m v s
  | .partClearDone => Sys2Proof.Machine.execPartClearDone s
  | .hostLinkDown => Sys2Proof.Machine.execHostLinkDown s
  | .i3cTargetReset => Sys2Proof.Machine.execI3cTargetReset s
  | .mgDbg m v => Sys2Proof.Machine.execMgDbg m v s
  | .mgPwrReq m v => Sys2Proof.Machine.execMgPwrReq m v s
  | .retentionEntry => Sys2Proof.Machine.execRetentionEntry s
  | .idleEntry => Sys2Proof.Machine.execIdleEntry s
  | .mgHalt m v => Sys2Proof.Machine.execMgHalt m v s
  | .mgHaltResume m v => Sys2Proof.Machine.execMgHaltResume m v s
  | .blobTransition bytes sigOk => Sys2Proof.Machine.execBlobTransition bytes sigOk s
  | .blobConfiguration bytes sigOk => Sys2Proof.Machine.execBlobConfiguration bytes sigOk s
  | .contextCapture kind id => Sys2Proof.Machine.execContextCapture kind id s
  | .taskEnd key => Sys2Proof.Machine.execTaskEnd key s
  | .dumpWrite key => Sys2Proof.Machine.execDumpWrite key s
  | .saluAdd d a b => Sys2Proof.Machine.execSaluAdd d a b s
  | .saluSub d a b => Sys2Proof.Machine.execSaluSub d a b s
  | .saluMul d a b => Sys2Proof.Machine.execSaluMul d a b s
  | .saluMulhs d a b => Sys2Proof.Machine.execSaluMulhs d a b s
  | .saluMulhu d a b => Sys2Proof.Machine.execSaluMulhu d a b s
  | .saluAnd d a b => Sys2Proof.Machine.execSaluAnd d a b s
  | .saluOr d a b => Sys2Proof.Machine.execSaluOr d a b s
  | .saluXor d a b => Sys2Proof.Machine.execSaluXor d a b s
  | .saluShl d a b => Sys2Proof.Machine.execSaluShl d a b s
  | .saluShr d a b => Sys2Proof.Machine.execSaluShr d a b s
  | .saluSar d a b => Sys2Proof.Machine.execSaluSar d a b s
  | .saluMin d a b => Sys2Proof.Machine.execSaluMin d a b s
  | .saluMax d a b => Sys2Proof.Machine.execSaluMax d a b s
  | .saluMinu d a b => Sys2Proof.Machine.execSaluMinu d a b s
  | .saluMaxu d a b => Sys2Proof.Machine.execSaluMaxu d a b s
  | .saluSlt d a b => Sys2Proof.Machine.execSaluSlt d a b s
  | .saluiAdd x d a im => Sys2Proof.Machine.execSaluiAdd x d a im s
  | .saluiSub x d a im => Sys2Proof.Machine.execSaluiSub x d a im s
  | .saluiMul x d a im => Sys2Proof.Machine.execSaluiMul x d a im s
  | .saluiMulhs x d a im => Sys2Proof.Machine.execSaluiMulhs x d a im s
  | .saluiMulhu x d a im => Sys2Proof.Machine.execSaluiMulhu x d a im s
  | .saluiAnd x d a im => Sys2Proof.Machine.execSaluiAnd x d a im s
  | .saluiOr x d a im => Sys2Proof.Machine.execSaluiOr x d a im s
  | .saluiXor x d a im => Sys2Proof.Machine.execSaluiXor x d a im s
  | .saluiShl x d a im => Sys2Proof.Machine.execSaluiShl x d a im s
  | .saluiShr x d a im => Sys2Proof.Machine.execSaluiShr x d a im s
  | .saluiSar x d a im => Sys2Proof.Machine.execSaluiSar x d a im s
  | .saluiMin x d a im => Sys2Proof.Machine.execSaluiMin x d a im s
  | .saluiMax x d a im => Sys2Proof.Machine.execSaluiMax x d a im s
  | .saluiMinu x d a im => Sys2Proof.Machine.execSaluiMinu x d a im s
  | .saluiMaxu x d a im => Sys2Proof.Machine.execSaluiMaxu x d a im s
  | .saluiSlt x d a im => Sys2Proof.Machine.execSaluiSlt x d a im s
  | .li x d im => Sys2Proof.Machine.execLi x d im s
  | .lih d im => Sys2Proof.Machine.execLih d im s
  | .sbitPopc d a => Sys2Proof.Machine.execSbitPopc d a s
  | .sbitClz d a => Sys2Proof.Machine.execSbitClz d a s
  | .sbitCtz d a => Sys2Proof.Machine.execSbitCtz d a s
  | .sbitBrev d a => Sys2Proof.Machine.execSbitBrev d a s
  | .bfx d a b => Sys2Proof.Machine.execBfx d a b s
  | .bfi d a b => Sys2Proof.Machine.execBfi d a b s
  | .sextb d a => Sys2Proof.Machine.execSextb d a s
  | .sexth d a => Sys2Proof.Machine.execSexth d a s
  | .zextb d a => Sys2Proof.Machine.execZextb d a s
  | .zexth d a => Sys2Proof.Machine.execZexth d a s
  | .div l d a b => Sys2Proof.Machine.execDiv l d a b s
  | .divu l d a b => Sys2Proof.Machine.execDivu l d a b s
  | .rem l d a b => Sys2Proof.Machine.execRem l d a b s
  | .remu l d a b => Sys2Proof.Machine.execRemu l d a b s
  | .scmpEq d a b => Sys2Proof.Machine.execScmpEq d a b s
  | .scmpNe d a b => Sys2Proof.Machine.execScmpNe d a b s
  | .scmpLt d a b => Sys2Proof.Machine.execScmpLt d a b s
  | .scmpLe d a b => Sys2Proof.Machine.execScmpLe d a b s
  | .scmpGt d a b => Sys2Proof.Machine.execScmpGt d a b s
  | .scmpGe d a b => Sys2Proof.Machine.execScmpGe d a b s
  | .scmpLtu d a b => Sys2Proof.Machine.execScmpLtu d a b s
  | .scmpLeu d a b => Sys2Proof.Machine.execScmpLeu d a b s
  | .scmpGtu d a b => Sys2Proof.Machine.execScmpGtu d a b s
  | .scmpGeu d a b => Sys2Proof.Machine.execScmpGeu d a b s
  | .scmpiEq x d a im => Sys2Proof.Machine.execScmpiEq x d a im s
  | .scmpiNe x d a im => Sys2Proof.Machine.execScmpiNe x d a im s
  | .scmpiLt x d a im => Sys2Proof.Machine.execScmpiLt x d a im s
  | .scmpiLe x d a im => Sys2Proof.Machine.execScmpiLe x d a im s
  | .scmpiGt x d a im => Sys2Proof.Machine.execScmpiGt x d a im s
  | .scmpiGe x d a im => Sys2Proof.Machine.execScmpiGe x d a im s
  | .scmpiLtu x d a im => Sys2Proof.Machine.execScmpiLtu x d a im s
  | .scmpiLeu x d a im => Sys2Proof.Machine.execScmpiLeu x d a im s
  | .scmpiGtu x d a im => Sys2Proof.Machine.execScmpiGtu x d a im s
  | .scmpiGeu x d a im => Sys2Proof.Machine.execScmpiGeu x d a im s
  | .pand d a b => Sys2Proof.Machine.execPand d a b s
  | .por d a b => Sys2Proof.Machine.execPor d a b s
  | .pxor d a b => Sys2Proof.Machine.execPxor d a b s
  | .pandn d a b => Sys2Proof.Machine.execPandn d a b s
  | .porn d a b => Sys2Proof.Machine.execPorn d a b s
  | .pnot d a => Sys2Proof.Machine.execPnot d a s
  | .pmov d a => Sys2Proof.Machine.execPmov d a s
  | .pclr d => Sys2Proof.Machine.execPclr d s
  | .pset d => Sys2Proof.Machine.execPset d s
  | .sel z p d a b => Sys2Proof.Machine.execSel z p d a b s
  | .bcasts d a => Sys2Proof.Machine.execBcasts d a s
  | .extr d a k => Sys2Proof.Machine.execExtr d a k s
  | .insr d a k => Sys2Proof.Machine.execInsr d a k s
  | .crd d a => Sys2Proof.Machine.execCrd d a s
  | .cwr d a => Sys2Proof.Machine.execCwr d a s
  | .srd d a => Sys2Proof.Machine.execSrd d a s
  | .movs d a => Sys2Proof.Machine.execMovs d a s
  | .movv d a => Sys2Proof.Machine.execMovv d a s
  | .prd d a => Sys2Proof.Machine.execPrd d a s
  | .pwr d a => Sys2Proof.Machine.execPwr d a s
  | .valuAdd mk d a b => Sys2Proof.Machine.execValuAdd mk d a b s
  | .valuSub mk d a b => Sys2Proof.Machine.execValuSub mk d a b s
  | .valuMul mk d a b => Sys2Proof.Machine.execValuMul mk d a b s
  | .valuMulhs mk d a b => Sys2Proof.Machine.execValuMulhs mk d a b s
  | .valuMulhu mk d a b => Sys2Proof.Machine.execValuMulhu mk d a b s
  | .valuAdds mk d a b => Sys2Proof.Machine.execValuAdds mk d a b s
  | .valuSubs mk d a b => Sys2Proof.Machine.execValuSubs mk d a b s
  | .valuAddus mk d a b => Sys2Proof.Machine.execValuAddus mk d a b s
  | .valuSubus mk d a b => Sys2Proof.Machine.execValuSubus mk d a b s
  | .valuMin mk d a b => Sys2Proof.Machine.execValuMin mk d a b s
  | .valuMax mk d a b => Sys2Proof.Machine.execValuMax mk d a b s
  | .valuMinu mk d a b => Sys2Proof.Machine.execValuMinu mk d a b s
  | .valuMaxu mk d a b => Sys2Proof.Machine.execValuMaxu mk d a b s
  | .valuAbs mk d a => Sys2Proof.Machine.execValuAbs mk d a s
  | .valuNeg mk d a => Sys2Proof.Machine.execValuNeg mk d a s
  | .valuAbsd mk d a b => Sys2Proof.Machine.execValuAbsd mk d a b s
  | .valuiAdd mk x d a im => Sys2Proof.Machine.execValuiAdd mk x d a im s
  | .valuiSub mk x d a im => Sys2Proof.Machine.execValuiSub mk x d a im s
  | .valuiMul mk x d a im => Sys2Proof.Machine.execValuiMul mk x d a im s
  | .valuiMulhs mk x d a im => Sys2Proof.Machine.execValuiMulhs mk x d a im s
  | .valuiMulhu mk x d a im => Sys2Proof.Machine.execValuiMulhu mk x d a im s
  | .valuiAdds mk x d a im => Sys2Proof.Machine.execValuiAdds mk x d a im s
  | .valuiSubs mk x d a im => Sys2Proof.Machine.execValuiSubs mk x d a im s
  | .valuiAddus mk x d a im => Sys2Proof.Machine.execValuiAddus mk x d a im s
  | .valuiSubus mk x d a im => Sys2Proof.Machine.execValuiSubus mk x d a im s
  | .valuiMin mk x d a im => Sys2Proof.Machine.execValuiMin mk x d a im s
  | .valuiMax mk x d a im => Sys2Proof.Machine.execValuiMax mk x d a im s
  | .valuiMinu mk x d a im => Sys2Proof.Machine.execValuiMinu mk x d a im s
  | .valuiMaxu mk x d a im => Sys2Proof.Machine.execValuiMaxu mk x d a im s
  | .valuiAbsd mk x d a im => Sys2Proof.Machine.execValuiAbsd mk x d a im s
  | .vmadMad mk d a b => Sys2Proof.Machine.execVmadMad mk d a b s
  | .vmadMsb mk d a b => Sys2Proof.Machine.execVmadMsb mk d a b s
  | .vmadMads mk d a b => Sys2Proof.Machine.execVmadMads mk d a b s
  | .vmadMadI16 mk d a b => Sys2Proof.Machine.execVmadMadI16 mk d a b s
  | .vmadMadI8 mk d a b => Sys2Proof.Machine.execVmadMadI8 mk d a b s
  | .vdot2 mk d a b => Sys2Proof.Machine.execVdot2 mk d a b s
  | .vdot4 mk d a b => Sys2Proof.Machine.execVdot4 mk d a b s
  | .vdot4u mk d a b => Sys2Proof.Machine.execVdot4u mk d a b s
  | .vcmpEq mk d a b => Sys2Proof.Machine.execVcmpEq mk d a b s
  | .vcmpNe mk d a b => Sys2Proof.Machine.execVcmpNe mk d a b s
  | .vcmpLt mk d a b => Sys2Proof.Machine.execVcmpLt mk d a b s
  | .vcmpLe mk d a b => Sys2Proof.Machine.execVcmpLe mk d a b s
  | .vcmpGt mk d a b => Sys2Proof.Machine.execVcmpGt mk d a b s
  | .vcmpGe mk d a b => Sys2Proof.Machine.execVcmpGe mk d a b s
  | .vcmpLtu mk d a b => Sys2Proof.Machine.execVcmpLtu mk d a b s
  | .vcmpLeu mk d a b => Sys2Proof.Machine.execVcmpLeu mk d a b s
  | .vcmpGtu mk d a b => Sys2Proof.Machine.execVcmpGtu mk d a b s
  | .vcmpGeu mk d a b => Sys2Proof.Machine.execVcmpGeu mk d a b s
  | .vcmpEqI16 mk d a b => Sys2Proof.Machine.execVcmpEqI16 mk d a b s
  | .vcmpLtI16 mk d a b => Sys2Proof.Machine.execVcmpLtI16 mk d a b s
  | .vcmpLtuI16 mk d a b => Sys2Proof.Machine.execVcmpLtuI16 mk d a b s
  | .vcmpEqI8 mk d a b => Sys2Proof.Machine.execVcmpEqI8 mk d a b s
  | .vcmpLtI8 mk d a b => Sys2Proof.Machine.execVcmpLtI8 mk d a b s
  | .vcmpLtuI8 mk d a b => Sys2Proof.Machine.execVcmpLtuI8 mk d a b s
  | .perm mk d a b => Sys2Proof.Machine.execPerm mk d a b s
  | .shuf mk d a b => Sys2Proof.Machine.execShuf mk d a b s
  | .rot mk d a k => Sys2Proof.Machine.execRot mk d a k s
  | .ext mk d a k => Sys2Proof.Machine.execExt mk d a k s
  | .ins mk d a k => Sys2Proof.Machine.execIns mk d a k s
  | .zip mk d a b => Sys2Proof.Machine.execZip mk d a b s
  | .unzip mk d a b => Sys2Proof.Machine.execUnzip mk d a b s
  | .vpackAdd mk w d a b => Sys2Proof.Machine.execVpackAdd mk w d a b s
  | .vpackSub mk w d a b => Sys2Proof.Machine.execVpackSub mk w d a b s
  | .vpackAdds mk w d a b => Sys2Proof.Machine.execVpackAdds mk w d a b s
  | .vpackSubs mk w d a b => Sys2Proof.Machine.execVpackSubs mk w d a b s
  | .vpackAddus mk w d a b => Sys2Proof.Machine.execVpackAddus mk w d a b s
  | .vpackSubus mk w d a b => Sys2Proof.Machine.execVpackSubus mk w d a b s
  | .vpackMin mk w d a b => Sys2Proof.Machine.execVpackMin mk w d a b s
  | .vpackMax mk w d a b => Sys2Proof.Machine.execVpackMax mk w d a b s
  | .redadd mk d a => Sys2Proof.Machine.execRedadd mk d a s
  | .redmin mk d a => Sys2Proof.Machine.execRedmin mk d a s
  | .redmax mk d a => Sys2Proof.Machine.execRedmax mk d a s
  | .redminu mk d a => Sys2Proof.Machine.execRedminu mk d a s
  | .redmaxu mk d a => Sys2Proof.Machine.execRedmaxu mk d a s
  | .redand mk d a => Sys2Proof.Machine.execRedand mk d a s
  | .redor mk d a => Sys2Proof.Machine.execRedor mk d a s
  | .redxor mk d a => Sys2Proof.Machine.execRedxor mk d a s
  | .redaddF32 mk d a => Sys2Proof.Machine.execRedaddF32 mk d a s
  | .redminF32 mk d a => Sys2Proof.Machine.execRedminF32 mk d a s
  | .redmaxF32 mk d a => Sys2Proof.Machine.execRedmaxF32 mk d a s
  | .vbitAnd mk d a b => Sys2Proof.Machine.execVbitAnd mk d a b s
  | .vbitOr mk d a b => Sys2Proof.Machine.execVbitOr mk d a b s
  | .vbitXor mk d a b => Sys2Proof.Machine.execVbitXor mk d a b s
  | .vbitAndn mk d a b => Sys2Proof.Machine.execVbitAndn mk d a b s
  | .vbitNot mk d a => Sys2Proof.Machine.execVbitNot mk d a s
  | .vbitShl mk d a b => Sys2Proof.Machine.execVbitShl mk d a b s
  | .vbitShr mk d a b => Sys2Proof.Machine.execVbitShr mk d a b s
  | .vbitSar mk d a b => Sys2Proof.Machine.execVbitSar mk d a b s
  | .vbitShlI16 mk d a b => Sys2Proof.Machine.execVbitShlI16 mk d a b s
  | .vbitShrI16 mk d a b => Sys2Proof.Machine.execVbitShrI16 mk d a b s
  | .vbitSarI16 mk d a b => Sys2Proof.Machine.execVbitSarI16 mk d a b s
  | .vbitPopc mk d a => Sys2Proof.Machine.execVbitPopc mk d a s
  | .vbitClz mk d a => Sys2Proof.Machine.execVbitClz mk d a s
  | .vbitBrev mk d a => Sys2Proof.Machine.execVbitBrev mk d a s
  | .vsel mk z p d a b => Sys2Proof.Machine.execVsel mk z p d a b s
  | .fadd mk d a b => Sys2Proof.Machine.execFadd mk d a b s
  | .fsub mk d a b => Sys2Proof.Machine.execFsub mk d a b s
  | .fmul mk d a b => Sys2Proof.Machine.execFmul mk d a b s
  | .fmin mk d a b => Sys2Proof.Machine.execFmin mk d a b s
  | .fmax mk d a b => Sys2Proof.Machine.execFmax mk d a b s
  | .fabs mk d a => Sys2Proof.Machine.execFabs mk d a s
  | .fneg mk d a => Sys2Proof.Machine.execFneg mk d a s
  | .fsgn mk d a b => Sys2Proof.Machine.execFsgn mk d a b s
  | .fma mk d a b => Sys2Proof.Machine.execFma mk d a b s
  | .fms mk d a b => Sys2Proof.Machine.execFms mk d a b s
  | .fnma mk d a b => Sys2Proof.Machine.execFnma mk d a b s
  | .fnms mk d a b => Sys2Proof.Machine.execFnms mk d a b s
  | .fcmpF32Eq mk d a b => Sys2Proof.Machine.execFcmpF32Eq mk d a b s
  | .fcmpF32Ne mk d a b => Sys2Proof.Machine.execFcmpF32Ne mk d a b s
  | .fcmpF32Lt mk d a b => Sys2Proof.Machine.execFcmpF32Lt mk d a b s
  | .fcmpF32Le mk d a b => Sys2Proof.Machine.execFcmpF32Le mk d a b s
  | .fcmpF32Gt mk d a b => Sys2Proof.Machine.execFcmpF32Gt mk d a b s
  | .fcmpF32Ge mk d a b => Sys2Proof.Machine.execFcmpF32Ge mk d a b s
  | .fcmpF32Unord mk d a b => Sys2Proof.Machine.execFcmpF32Unord mk d a b s
  | .fcmpF32Ord mk d a b => Sys2Proof.Machine.execFcmpF32Ord mk d a b s
  | .fcmpF16Eq mk d a b => Sys2Proof.Machine.execFcmpF16Eq mk d a b s
  | .fcmpF16Lt mk d a b => Sys2Proof.Machine.execFcmpF16Lt mk d a b s
  | .fcmpF16Le mk d a b => Sys2Proof.Machine.execFcmpF16Le mk d a b s
  | .fcmpF16Unord mk d a b => Sys2Proof.Machine.execFcmpF16Unord mk d a b s
  | .fcmpBf16Eq mk d a b => Sys2Proof.Machine.execFcmpBf16Eq mk d a b s
  | .fcmpBf16Lt mk d a b => Sys2Proof.Machine.execFcmpBf16Lt mk d a b s
  | .fcmpBf16Le mk d a b => Sys2Proof.Machine.execFcmpBf16Le mk d a b s
  | .fcmpBf16Unord mk d a b => Sys2Proof.Machine.execFcmpBf16Unord mk d a b s
  | .rcp mk l d a => Sys2Proof.Machine.execRcp mk l d a s
  | .rsq mk l d a => Sys2Proof.Machine.execRsq mk l d a s
  | .sqrt mk l d a => Sys2Proof.Machine.execSqrt mk l d a s
  | .exp2 mk l d a => Sys2Proof.Machine.execExp2 mk l d a s
  | .log2 mk l d a => Sys2Proof.Machine.execLog2 mk l d a s
  | .sinpi mk l d a => Sys2Proof.Machine.execSinpi mk l d a s
  | .cospi mk l d a => Sys2Proof.Machine.execCospi mk l d a s
  | .tanh mk l d a => Sys2Proof.Machine.execTanh mk l d a s
  | .fdiv mk l d a b => Sys2Proof.Machine.execFdiv mk l d a b s
  | .fcvt mk t d a z r => Sys2Proof.Machine.execFcvt mk t d a z r s
  | .frnd mk r d a t => Sys2Proof.Machine.execFrnd mk r d a t s
  | .fclass mk d a t => Sys2Proof.Machine.execFclass mk d a t s
  | .dot2F16 mk d a b => Sys2Proof.Machine.execDot2F16 mk d a b s
  | .dot2Bf16 mk d a b => Sys2Proof.Machine.execDot2Bf16 mk d a b s
  | .dot4E5m2 mk d a b => Sys2Proof.Machine.execDot4E5m2 mk d a b s
  | .dot4E4m3 mk d a b => Sys2Proof.Machine.execDot4E4m3 mk d a b s
  | .dot4I8 mk d a b => Sys2Proof.Machine.execDot4I8 mk d a b s
  | .dot8I4 mk d a b => Sys2Proof.Machine.execDot8I4 mk d a b s
  | .falu16Fadd mk t d a b => Sys2Proof.Machine.execFalu16Fadd mk t d a b s
  | .falu16Fsub mk t d a b => Sys2Proof.Machine.execFalu16Fsub mk t d a b s
  | .falu16Fmul mk t d a b => Sys2Proof.Machine.execFalu16Fmul mk t d a b s
  | .falu16Fmin mk t d a b => Sys2Proof.Machine.execFalu16Fmin mk t d a b s
  | .falu16Fmax mk t d a b => Sys2Proof.Machine.execFalu16Fmax mk t d a b s
  | .falu16Fma mk t d a b => Sys2Proof.Machine.execFalu16Fma mk t d a b s
  | .falu16Fabs mk t d a => Sys2Proof.Machine.execFalu16Fabs mk t d a s
  | .falu16Fneg mk t d a => Sys2Proof.Machine.execFalu16Fneg mk t d a s
  | .br x o => Sys2Proof.Machine.execBr x o s
  | .brp x z p o => Sys2Proof.Machine.execBrp x z p o s
  | .call x o => Sys2Proof.Machine.execCall x o s
  | .jr a => Sys2Proof.Machine.execJr a s
  | .jalr a => Sys2Proof.Machine.execJalr a s
  | .ret => Sys2Proof.Machine.execRet s
  | .retPair a => Sys2Proof.Machine.execRetPair a s
  | .rcv => Sys2Proof.Machine.execRcv s
  | .exit => Sys2Proof.Machine.execExit s
  | .yield => Sys2Proof.Machine.execYield s
  | .sleep a => Sys2Proof.Machine.execSleep a s
  | .lds x l d a z q c h => Sys2Proof.Machine.execLds x l d a z q c h s
  | .ldv mk x l d a z q c h => Sys2Proof.Machine.execLdv mk x l d a z q c h s
  | .ldg mk x l d a b => Sys2Proof.Machine.execLdg mk x l d a b s
  | .sts x d a z q c h => Sys2Proof.Machine.execSts x d a z q c h s
  | .stv mk x d a z q c h => Sys2Proof.Machine.execStv mk x d a z q c h s
  | .stg mk x d a b => Sys2Proof.Machine.execStg mk x d a b s
  | .pref x a h => Sys2Proof.Machine.execPref x a h s
  | .atomAdd x l d a q c => Sys2Proof.Machine.execAtomAdd x l d a q c s
  | .atomMin x l d a q c => Sys2Proof.Machine.execAtomMin x l d a q c s
  | .atomMax x l d a q c => Sys2Proof.Machine.execAtomMax x l d a q c s
  | .atomMinu x l d a q c => Sys2Proof.Machine.execAtomMinu x l d a q c s
  | .atomMaxu x l d a q c => Sys2Proof.Machine.execAtomMaxu x l d a q c s
  | .atomAnd x l d a q c => Sys2Proof.Machine.execAtomAnd x l d a q c s
  | .atomOr x l d a q c => Sys2Proof.Machine.execAtomOr x l d a q c s
  | .atomXor x l d a q c => Sys2Proof.Machine.execAtomXor x l d a q c s
  | .atomXchg x l d a q c => Sys2Proof.Machine.execAtomXchg x l d a q c s
  | .atomCas x l d a q c => Sys2Proof.Machine.execAtomCas x l d a q c s
  | .atomvAdd x l d a q c => Sys2Proof.Machine.execAtomvAdd x l d a q c s
  | .atomvMin x l d a q c => Sys2Proof.Machine.execAtomvMin x l d a q c s
  | .atomvMax x l d a q c => Sys2Proof.Machine.execAtomvMax x l d a q c s
  | .atomvMinu x l d a q c => Sys2Proof.Machine.execAtomvMinu x l d a q c s
  | .atomvMaxu x l d a q c => Sys2Proof.Machine.execAtomvMaxu x l d a q c s
  | .atomvAnd x l d a q c => Sys2Proof.Machine.execAtomvAnd x l d a q c s
  | .atomvOr x l d a q c => Sys2Proof.Machine.execAtomvOr x l d a q c s
  | .atomvXor x l d a q c => Sys2Proof.Machine.execAtomvXor x l d a q c s
  | .atomvXchg x l d a q c => Sys2Proof.Machine.execAtomvXchg x l d a q c s
  | .atomvCas x l d a q c => Sys2Proof.Machine.execAtomvCas x l d a q c s
  | .atomvXchgW128 x l d a q c => Sys2Proof.Machine.execAtomvXchgW128 x l d a q c s
  | .atomvCasW128 x l d a q c => Sys2Proof.Machine.execAtomvCasW128 x l d a q c s
  | .mwatch x a => Sys2Proof.Machine.execMwatch x a s
  | .fenceAcq c => Sys2Proof.Machine.execFenceAcq c s
  | .fenceRel c => Sys2Proof.Machine.execFenceRel c s
  | .fenceFull c => Sys2Proof.Machine.execFenceFull c s
  | .mwait => Sys2Proof.Machine.execMwait s
  | .bnew d a => Sys2Proof.Machine.execBnew d a s
  | .bjoin d a => Sys2Proof.Machine.execBjoin d a s
  | .bleave => Sys2Proof.Machine.execBleave s
  | .binfo d k => Sys2Proof.Machine.execBinfo d k s
  | .barInit a k => Sys2Proof.Machine.execBarInit a k s
  | .barSync a c k => Sys2Proof.Machine.execBarSync a c k s
  | .barArrive a c k => Sys2Proof.Machine.execBarArrive a c k s
  | .barExpect a k => Sys2Proof.Machine.execBarExpect a k s
  | .barQuery d c k => Sys2Proof.Machine.execBarQuery d c k s
  | .ballot d a w => Sys2Proof.Machine.execBallot d a w s
  | .any d a => Sys2Proof.Machine.execAny d a s
  | .all d a => Sys2Proof.Machine.execAll d a s
  | .bcast l d a => Sys2Proof.Machine.execBcast l d a s
  | .radd l d a t => Sys2Proof.Machine.execRadd l d a t s
  | .rmin l d a t => Sys2Proof.Machine.execRmin l d a t s
  | .rmax l d a t => Sys2Proof.Machine.execRmax l d a t s
  | .scanadd l d a t => Sys2Proof.Machine.execScanadd l d a t s
  | .rwrScalar d a b => Sys2Proof.Machine.execRwrScalar d a b s
  | .rwrVector d a b => Sys2Proof.Machine.execRwrVector d a b s
  | .rwait a => Sys2Proof.Machine.execRwait a s
  | .qsend k m a => Sys2Proof.Machine.execQsend k m a s
  | .qrecv k d => Sys2Proof.Machine.execQrecv k d s
  | .flagSet k => Sys2Proof.Machine.execFlagSet k s
  | .flagClr k => Sys2Proof.Machine.execFlagClr k s
  | .flagWait k => Sys2Proof.Machine.execFlagWait k s
  | .flagTest d k => Sys2Proof.Machine.execFlagTest d k s
  | .wbases k => Sys2Proof.Machine.execWbases k s
  | .wbasev k => Sys2Proof.Machine.execWbasev k s
  | .xacqs k => Sys2Proof.Machine.execXacqs k s
  | .xacqv k => Sys2Proof.Machine.execXacqv k s
  | .xrels k => Sys2Proof.Machine.execXrels k s
  | .xrelv k => Sys2Proof.Machine.execXrelv k s
  | .tresv d a => Sys2Proof.Machine.execTresv d a s
  | .trel a => Sys2Proof.Machine.execTrel a s
  | .tstat d a => Sys2Proof.Machine.execTstat d a s
  | .twait a k => Sys2Proof.Machine.execTwait a k s
  | .engqMx a => Sys2Proof.Machine.execEngqMx a s
  | .engqCe a => Sys2Proof.Machine.execEngqCe a s
  | .engqSsb a => Sys2Proof.Machine.execEngqSsb a s
  | .engqQe a => Sys2Proof.Machine.execEngqQe a s
  | .fork e a b => Sys2Proof.Machine.execFork e a b s
  | .rdv d a => Sys2Proof.Machine.execRdv d a s
  | .specEpoch d a => Sys2Proof.Machine.execSpecEpoch d a s
  | .specCommit d a => Sys2Proof.Machine.execSpecCommit d a s
  | .specCancel d a => Sys2Proof.Machine.execSpecCancel d a s
  | .flcall t a r => Sys2Proof.Machine.execFlcall t a r s
  | .flwait a => Sys2Proof.Machine.execFlwait a s
  | .take d a b => Sys2Proof.Machine.execTake d a b s
  | .skip a b => Sys2Proof.Machine.execSkip a b s
  | .tspawn d a => Sys2Proof.Machine.execTspawn d a s
  | .tsignal a => Sys2Proof.Machine.execTsignal a s
  | .tqrd d a k => Sys2Proof.Machine.execTqrd d a k s
  | .csrr d c => Sys2Proof.Machine.execCsrr d c s
  | .csrw d c => Sys2Proof.Machine.execCsrw d c s
  | .trap im => Sys2Proof.Machine.execTrap im s
  | .eret => Sys2Proof.Machine.execEret s
  | .cclr a => Sys2Proof.Machine.execCclr a s
  | .bkpt k => Sys2Proof.Machine.execBkpt k s
  | .tmark a k => Sys2Proof.Machine.execTmark a k s
  | .isync => Sys2Proof.Machine.execIsync s
  | .l1inv a b => Sys2Proof.Machine.execL1inv a b s
  | .tlbinv d a b => Sys2Proof.Machine.execTlbinv d a b s
  | .shoot d a b => Sys2Proof.Machine.execShoot d a b s
  | .rdcinv a b => Sys2Proof.Machine.execRdcinv a b s
  | .powerLoss => Sys2Proof.Machine.execPowerLoss s
  | .companionLinkUp => Sys2Proof.Machine.execCompanionLinkUp s
  | .companionAtomicop op addr width x y => Sys2Proof.Machine.execCompanionAtomicop op addr width x y s

end Sys2Proof.Machine
end

