-- ==== Sys2Proof/Machine/Reuse.lean ====
section
/-! DEFINITION. What an instruction that has issued leaves in the value-named vector file and in the reuse table: computational entries, and
the names of the results (04 R80 to R85). -/
namespace Sys2Proof.Machine

/-! ### Eligible instructions (R84) -/

/-- Whether a word is an eligible computation: its destination is a vector register, and it does not round stochastically. -/
def reusable (w : Word) : Bool :=
  let op := (fOp w).toNat
  (0x10 ≤ op && op ≤ 0x12) || (0x14 ≤ op && op ≤ 0x18) || op = 0x20 || op = 0x21 ||
    (0x23 ≤ op && op ≤ 0x29 && !(op = 0x25 && w.extractLsb' 0 3 = 4))

/-- Whether b of an eligible word names a vector register. -/
def bVector (w : Word) : Bool :=
  let fn := (fFn w).toNat
  match (fOp w).toNat with
  | 0x10 => fn != 13 && fn != 14
  | 0x14 => fn ≤ 1 || 5 ≤ fn
  | 0x17 => !([4, 11, 12, 13].contains fn)
  | 0x20 => fn ≤ 4 || fn = 7
  | 0x29 => fn % 8 ≤ 5
  | 0x12 | 0x15 | 0x18 | 0x21 | 0x24 | 0x28 => true
  | _ => false

/-- Whether an eligible word reads its destination. -/
def dSource (w : Word) : Bool :=
  match (fOp w).toNat with
  | 0x14 => fFn w = 3 || fFn w = 4
  | 0x29 => (fFn w).toNat % 8 = 5
  | 0x12 | 0x21 | 0x28 => true
  | _ => false

/-- Whether an eligible word rounds as FPMODE says. -/
def readsMode (w : Word) : Bool :=
  match (fOp w).toNat with
  | 0x16 | 0x20 | 0x21 | 0x23 | 0x24 | 0x28 | 0x29 => true
  | 0x25 => w.extractLsb' 0 3 = 5
  | 0x26 => fFn w = 5
  | _ => false

/-- Major, fn and modifiers of a word: its register fields are cleared, and the lookahead of format L is none of them. -/
def keyWord (w : Word) : Word :=
  let la := fOp w = 0x23#7 || fOp w = 0x24#7
  BitVec.ofNat 32 ((fOp w).toNat * 2 ^ 25 + (if la then 0 else (fFn w).toNat * 2 ^ 21) + (if bVector w then 0 else (fB w).toNat))

/-- The key of a computation (R84); none while a source has no entry. -/
def Core.computeKey (k : Core) (st : Strand) (i : Instr) : Option ReuseKey :=
  let w := i.word
  let src (on : Bool) (r : BitVec 7) : Option (List (Option Nat)) := if on then (k.vref st r).map fun n => [n] else some []
  (src true (fA w)).bind fun a => (src (bVector w) (fB w)).bind fun b => (src (dSource w) (fD w)).bind fun d =>
    (k.maskRef st i.mskOf (fD w)).map fun mask =>
      { word := keyWord w, imm := i.immOf, rm := if readsMode w then st.rm else 0, addr := 0, vsrc := a ++ b ++ d,
        psrc := if fOp w = 0x18#7 then [st.p (w.extractLsb' 21 3)] else [], mask := mask, pdom := st.pdom.toNat }

/-! ### Entering and matching (R85) -/

/-- The strand as an instruction's result and flags are told from: no window, and no flags of before. -/
def Strand.plain (st : Strand) : Strand := { st with native := Bool.false, pend := [], fpflags := 0 }

/-- The result of an instruction in a vector register, and the flags it raises. -/
def State.resultOf (s : State) (r : SRef) (i : Instr) : Vec × BitVec 5 :=
  match exec i { s with strands := s.strands.map fun x => if x.at_ = r then x.plain else x, cur := some r } with
  | .next t => (match t.strandAt r with | some x => (x.v (fD i.word), x.fpflags) | none => (0, 0))
  | _ => (0, 0)

/-- The reuse table after a computation has retired, and whether it matched a live entry: one that matches is used, and else a new one is
entered. A match gives the result and the flags that the execution gives. -/
def Core.afterCompute (k : Core) (key : Option ReuseKey) (now : Nat) (res : Vec × BitVec 5) : List ReuseEntry × Bool :=
  match key with
  | none => (k.reuse, false)
  | some q =>
    match k.reuseHit now q with
    | some e => (touchReuse k.reuse e, true)
    | none => (enterReuse k.reuse { set := q.set, key := q, result := res.1, name := none, flags := res.2, load := none }, false)

/-- Whether a strand's instruction has retired in the step that issued it. -/
def Strand.retired (st x : Strand) (i : Instr) : Bool :=
  x.blocked.isNone && decide (x.pc = st.after i.len) && x.level == st.level && !x.stopped

/-- What an instruction of the strand at r leaves in the reuse table: `s` is the state it issued in, `t` the state after it. -/
def State.noteCompute (s t : State) (r : SRef) (i : Instr) : State :=
  match s.strandAt r, t.strandAt r with
  | some st, some x =>
    if reusable i.word && st.retired x i && (st.vName (fD i.word)).isSome then
      let k := t.core r.die r.core
      let n := k.afterCompute ((s.core r.die r.core).computeKey st i) s.cycle (s.resultOf r i)
      let e : EvNote := { die := r.die, core := some r.core, src := 4, n := 1, who := s.who st.task }
      { t.setCore r.die r.core { k with reuse := n.1 } with evBuf := t.evBuf ++ if n.2 then [e] else [] }
    else t
  | _, _ => t

/-! ### Vector results (R80 to R82) -/

/-- Whether an instruction word writes a vector register. -/
def writesVector (w : Word) : Bool :=
  let op := (fOp w).toNat
  reusable w || op = 0x25 || op = 0x41 || op = 0x42 || op = 0x48 || op = 0x53 || op = 0x57 ||
    (op = 0x0D && [0, 2, 7].contains (fFn w).toNat)

/-- The register whose value an instruction that has retired has just written, where no window holds it back. -/
def State.writtenBy (s t : State) (r : SRef) (i : Instr) : Option (SRef × Nat) :=
  match s.strandAt r, t.strandAt r with
  | some st, some x =>
    match st.vName (fD i.word) with
    | some j =>
      if writesVector i.word && st.retired x i && !x.pend.any (fun p => p.writes.any fun w => w.hits true j) then some (r, j) else none
    | none => none
  | _, _ => none

/-- The vector file and the reuse table after an instruction has issued. -/
def State.noteResults (s t : State) (r : SRef) (i : Instr) : State := (s.noteCompute t r i).nameVectors (s.writtenBy t r i) false

end Sys2Proof.Machine
end

