-- ==== Sys2Proof/Machine/Sched.lean ====
section
/-! DEFINITION. What the machine does next, and what happens at the end of a cycle: weaves (02 R28 to R30, R98), events whose condition
holds, the issue of one strand, and the effects that take place at a cycle's end (assumptions 1, 6, 7). -/
namespace Sys2Proof.Machine

/-! ### Weaves (R29) -/

/-- Whether a strand can issue: it waits for nothing, is not stopped, and its bundle is not being evicted. -/
def State.ready (s : State) (st : Strand) : Bool :=
  !st.stopped && st.blocked.isNone && st.readyAt ≤ s.cycle && !(match s.bundleOf st with | some b => b.evicting | none => false)

/-- Whether a strand comes before another: the older, then the lower die, core and slot. -/
def Strand.older (a b : Strand) : Bool :=
  let p (st : Strand) : Nat := (st.at_.die * 128 + st.at_.core) * 512 + st.at_.slot
  a.readyAt < b.readyAt || (a.readyAt = b.readyAt && p a < p b)

/-- The oldest of some strands. -/
def oldest (l : List Strand) : Option Strand :=
  l.foldl (fun b st => match b with | some x => if st.older x then some st else b | none => some st) none

/-- Whether two strands of one core fall in the same PC group (R29). -/
def Strand.sameGroup (a b : Strand) : Bool :=
  a.at_.die = b.at_.die && a.at_.core = b.at_.core && a.pc = b.pc && a.kernel = b.kernel && a.pdom = b.pdom && a.native = b.native

/-- The weave that a strand leads: up to 32 of its group, oldest first (R29), in ascending slot order (R98). -/
def State.weaveOf (s : State) (lead : Strand) : List Strand :=
  let group := s.strands.filter fun st => s.ready st && st.sameGroup lead
  sortBy (fun st => st.at_.slot) ((sortBy (fun st => st.readyAt * 512 + st.at_.slot) group).take 32)

/-- A weave begins to issue: it is counted (R322), sampled (R321), and its strands issue one after another. One whose strands all issue
their instruction again is not counted again. -/
def State.startWeave (s : State) (sts : List Strand) : State :=
  match sts with
  | [] => s
  | st :: _ =>
    let s := s.sampleWeave sts
    let e : EvNote := { die := st.at_.die, core := some st.at_.core, src := 3, n := 1, who := sts.flatMap fun x => s.who x.task }
    { s with weave := sts.map fun x => x.at_, evBuf := s.evBuf ++ if sts.all Strand.again then [] else [e] }

/-- The weave of the oldest ready strand of the device, or of one port of a core. -/
def State.nextWeave (s : State) (sel : Strand → Bool) : List Strand :=
  match oldest (s.strands.filter fun st => s.ready st && sel st) with
  | some st => s.weaveOf st
  | none => []

/-! ### Events whose condition holds -/

/-- The state without what a mere look at memory may change. -/
def State.bare (s : State) : State :=
  { s with
    free := 0, evBuf := []
    cores := s.cores.map fun (q : (Nat × Nat) × Core) => (q.1, { q.2 with l1 := [], tlb := [], reuse := [], vfile := [], vmap := [] })
    dies := s.dies.map fun (q : Nat × Die) => (q.1, { q.2 with rdc := [], tlb := [], l2 := [] }) }

/-- Whether an event would change the machine. -/
def State.changes (s : State) (i : Instr) : Bool :=
  match exec i s with
  | .next t => decide (t.bare ≠ s.bare)
  | _ => false

/-- Events of strands. -/
def State.strandEvents (s : State) : List Instr :=
  s.strands.flatMap fun st =>
    (if st.blocked.isSome then [Instr.strandWake st.at_.die st.at_.core st.at_.slot] else []) ++
      match st.watch with
      | some w => if !w.fired && w.limit ≤ s.cycle then [Instr.watchTimeout st.at_.die st.at_.core st.at_.slot] else []
      | none => []

/-- Events of deposits, offers and weirs. -/
def State.sendEvents (s : State) : List Instr :=
  (s.deposits.map fun d => Instr.rwrDeposit d.id) ++
    (s.offers.flatMap fun o => (onesOf o.pending.toNat 7).map fun b => Instr.mailboxAccept o.id b) ++
    (s.gx.calls.filter fun c => c.stage = 0).map fun c => Instr.weirAdmit c.id

/-- Events of the memory system. -/
def State.memoryEvents (s : State) : List Instr :=
  (s.dies.flatMap fun (d, x) => (x.merge.filter fun e => e.walking).map fun e => Instr.walkComplete d e.pdom e.page) ++
    (s.xwrites.flatMap fun w => [Instr.crossDieWriteApply w.id, Instr.writeAcknowledge w.id, Instr.ackOverdue w.id]) ++
    (s.xreads.map fun r => Instr.readRequestServe r.id s.freeVec.1) ++
  (s.link.reads.map fun r => Instr.readRequestServe r.id 0) ++
    (if s.link.clrpart.getLsbD 63 then [Instr.partClearDone] else [])

/-- Sectors whose lease has run out (R124). -/
def State.leaseEvent (s : State) : Option Instr :=
  let old (l : List Sector) : Option Sector := l.find? fun x => x.expiry ≤ s.cycle
  let rdc := s.dies.findSome? fun (d, x) => (old x.rdc).map fun y => Instr.lineLeaseExpiry d (y.atom / 4)
  let l1 := s.cores.findSome? fun ((d, c), k) => (old k.l1).map fun y => Instr.lineLeaseExpiry (512 * d + c) (y.atom / 4)
  rdc.or l1

/-- Events of the engines. -/
def State.engineEvents (s : State) : List Instr :=
  (s.engines.flatMap fun ((d, c, u), e) =>
    if e.run.isNone && e.queue.isEmpty then []
    else
      let step := match u with
        | 0 => if (match e.run with | some r => decide (r.opc = 1) && 2 ≤ r.stage | none => false) then Instr.mxMmac d c else .mxMma d c
        | 1 => .ceCopy d c
        | 2 => .ssbScan d c
        | _ => .qeQuant d (c / 4)
      [step, .engineCommandComplete d (if u = 3 then c / 4 else c) u]) ++
  s.cores.filterMap fun ((d, c), k) => if k.mxring ≠ 0 then some (Instr.mxringTailObserve d c) else none

/-- Events of the flumes. -/
def State.flumeEvents (s : State) : List Instr :=
  ((s.gx.calls.filter fun c => c.stage = 1 || c.stage = 3).map fun c =>
    match c.typ with
    | 0 => Instr.flumeRaster c.id
    | 1 => .flumeDepth c.id
    | 2 => .flumeBlend c.id
    | 3 => .flumeTessellator c.id
    | 4 => .flumeTextureFilter c.id
    | 5 => .flumeTraversal c.id
    | 6 => .flumeReprojection c.id
    | _ => .flumeSieve c.id) ++
  (s.gx.domains.map fun d => Instr.orderDomainAdvance d.n) ++
  (s.gx.calls.filterMap fun c => if c.stage = 2 then some (Instr.orderDomainAdvance c.dom) else none) ++
  (s.gx.appends.map fun a => Instr.queueRoomResume a.id) ++ s.gx.buckets.map fun b => Instr.sieveAgeFlush b.n

/-- Events of the Headgate and of tasks. -/
def State.taskEvents (s : State) : List Instr :=
  (s.captures.map fun c => Instr.contextCapture c.what c.id) ++
  (s.hg.tasks.flatMap fun t =>
    match t.state with
    | .ending => [Instr.dumpWrite t.key, .taskEnd t.key]
    | .finishing => [.taskCompletion t.key]
    | .ready =>
      (if TaskRec.kind t.record = 3 then
        [match TaskRec.mark t.record with | 1 => Instr.frameToken t.key | 2 => .traceStart t.key | _ => .traceStop t.key]
       else [])
    | .dispatched _ _ => if TaskRec.kind t.record = 1 then [.traversalTask t.key, .taskCompletion t.key] else [.taskCompletion t.key]
    | _ => []) ++
  (if s.acceptPending then [.taskAcceptance] else []) ++
  (if s.hg.tasks.isEmpty then []
   else [.agingStep, .taskDispatch, .bundlePlacement 1, .bundlePlacement 2, .stealRequest 3, .stealRequest 1, .stealRequest 2, .evminReservation]) ++
  (s.bundles.flatMap fun b =>
    if b.evicted then (match s.restorePlace b with | some (d, c) => if s.restorable b then [Instr.bundleRestore b.handle d c] else [] | none => [])
    else if b.evicting then [.bundleEviction b.handle]
    else []) ++
  (if s.bundles.any Bundle.evicted || s.hg.reserved.isSome then
    (match s.evictNext with | some b => [Instr.bundleEviction b.handle, .backwaterFullReport] | none => [])
   else []) ++
  s.hg.queues.flatMap fun q => [Instr.workQueueTailObserve q.n, .workQueueLaunch q.n]

/-- Events of the link and of the power controller. -/
def State.deviceEvents (s : State) : List Instr :=
  (if s.stepDue then [Instr.cisternStep] else []) ++ (if s.link.paired && s.unanswered then [.companionUnresponsive] else []) ++
    [.retentionEntry, .idleEntry]

/-- The first event whose condition holds, in a fixed order (assumption 1). -/
def State.nextEvent (s : State) : Option Instr :=
  let first (l : List Instr) : Option Instr := l.find? s.changes
  s.leaseEvent.or ((first s.strandEvents).or ((first s.sendEvents).or ((first s.memoryEvents).or ((first s.engineEvents).or
    ((first s.flumeEvents).or ((first s.taskEvents).or (first s.deviceEvents)))))))

/-! ### The end of a cycle -/

/-- Causes that have come while strands stand at blocking instructions are set in CAUSE (R359). -/
def State.settleBlocked (s : State) : State :=
  (s.strands.filter fun st => st.blocked.isSome && st.due ≠ 0).foldl State.settleDue s

/-- Strands that wait to issue their instruction again do so from the next cycle. -/
def State.reissueRetries (s : State) : State :=
  { s with strands := s.strands.map fun st =>
      match st.blocked with | some b => if b.wait = .retry then st.reissue s.cycle else st | none => st }

/-- Core cycle time in picoseconds at the current clock (R20). -/
def State.cyclePs (s : State) : Nat := 1000000 / max s.mg.clock 1

/-- What strands wait for at the end of a cycle: members' writes, flags, barriers, collectives, epochs, tiles (R41). -/
def State.endWaiting (s : State) : State :=
  (s.endCommons.endFlags.endBarriers.endRcv.endCollectives.endSpecs.freeTiles).endWaits

/-- The Headgate's work at the end of a cycle: spilled tasks return, queues are registered, markers are processed, fault records and resumes
that waited are made (R52, R61, R62, R65, R323). -/
def State.endHeadgate (s : State) : State :=
  let s := (s.unspill (s.hg.tasks.filter Task.spilled).length).noteFirst.registerPending.processMarkers
  (s.flushFaults s.hg.fqPend.length).heldResumes

/-- What a capture stops at the end of a cycle (R47). -/
def State.endStops (s : State) : State := s.settleBlocked.stopStrands.settleStopped.saveRuns

/-- Everything that takes place at the end of a cycle, and the cycle's end. -/
def State.endCycle (s : State) : State :=
  let s := s.endWaiting.endHeadgate.endSamples.endTrace
  let s := s.endStops.stepMoves.pokeStuck.settleVectors
  let s := s.countEvents.reissueRetries
  { s with
    cycle := s.cycle + 1, timePs := s.timePs + s.cyclePs
    mg := { s.mg with busyAt := if s.busy then s.timePs + s.cyclePs else s.mg.busyAt } }

/-! ### Issue -/

/-- What a strand's turn in its weave comes to before its instruction runs: the state in which nothing more is to be done, or the
instruction, and the state in which it is that strand's. -/
inductive Turn where
  | done (s : State)
  | run (s : State) (i : Instr)

/-- The instruction a task's strand issues first starts the task (R64). -/
def State.noteStart (s : State) (st : Strand) : State :=
  s.mapTask st.task fun t => if t.started then t else { t with started := true, tstart := s.timeNs }

/-- Whether data that bring causes are on their way to a register that an instruction word names, in interlocked mode: the registers a
word names by a field are at most eight from the one in the field (R359, assumption 9). -/
def Strand.meetsHeld (st : Strand) (w : Word) : Bool :=
  let named (r : BitVec 7) : RegWrite → Bool
    | .s j _ => (match st.sName r with | some i => decide (i ≤ j ∧ j < i + 8) | none => false)
    | .v j _ => (match st.vName r with | some i => decide (i ≤ j ∧ j < i + 8) | none => false)
  !st.native && st.pend.any fun p => p.causes != 0 && p.writes.any fun x => named (fD w) x || named (fA w) x || named (fB w) x

/-- The turn of a strand: causes that fell due and re-entries come first (R359, R344), then its fetch, the wait for an entry of the vector
file (R82), and a comparator (R319). An instruction that issues again has been counted and compared. -/
noncomputable def State.turn (s : State) (r : SRef) : Turn :=
  match s.strandAt r with
  | none => .done s
  | some st =>
    if st.stopped || st.blocked.isSome then .done s
    else if st.due ≠ 0 then .done (s.settleDue st)
    else if st.reenter ≠ 0 then .done (s.reenterHandler st st.reenter)
    else
      match s.fetchInstr r with
      | .stop s => .done s
      | .got s i =>
        match s.strandAt r with
        | none => .done s
        | some st =>
          if st.meetsHeld (s.lastWord st st.pc.toNat 3) then .done (s.settleDue st.closeWindows)
          else if writesVector i.word && (s.core st.at_.die st.at_.core).fileFull then .done (s.putStrand { st with readyAt := s.cycle + 1 })
          else
          let (s, stop) := match s.comparator st with
            | some n => s.breakpoint st (128 + n)
            | none => (s, false)
          if stop then .done s
          else
            let s := if st.again then s else (s.noteStart st).note st.at_.die (some st.at_.core) 2 1 st.task
            .run { s with cur := some r } i

/-- Whether a strand waits to issue the instruction it has issued again: for a walk, at a faulted page, or for room. -/
def Strand.issuesAgain (st : Strand) : Bool :=
  match st.blocked with
  | some b => (match b.wait with | .walk _ _ _ | .parked _ _ _ | .retry => true | _ => false)
  | none => false

/-- A strand has issued an instruction: a claim on a part is met unless it issues again (R135), and comparators see its next one (R319). -/
def State.hasIssued (s : State) (r : SRef) : State :=
  match s.strandAt r with
  | some st =>
    let s := s.putStrand { st with resumed := false, again := st.issuesAgain }
    if st.issuesAgain then s else s.unclaim r
  | none => s.unclaim r

/-- The cycle ends once the weave has issued. -/
def State.afterIssue (s : State) : State :=
  let s : State := { s with cur := none }
  if s.weave.isEmpty then s.endCycle else s

/-- What the machine does next when no weave is issuing. -/
inductive Next where
  | event (i : Instr) (s : State)
  | weave (s : State)
  | act (s : State)
  | idle

/-- The environment's choice comes first; then, in turn, an event whose condition holds and the oldest weave (assumption 1). The environment
chooses no instruction that has an encoding: only a strand issues one (R26). It may also read and write registers, scan out a row of a
head, and send the companion's memory requests, which no row of the table names. A device that boots held runs nothing of its own (R393). -/
def State.next (s : State) : Next :=
  match s.agenda with
  | .event i :: rest => if i.encoded then .idle else .event i { s with agenda := rest }
  | .issue d c port :: rest =>
    let s : State := { s with agenda := rest }
    (match s.nextWeave fun st => st.at_.die = d && st.at_.core = c && s.portOf st = port with
     | [] => .idle
     | l => .weave (s.startWeave l))
  | .read m a :: rest => .act (({ s with agenda := rest } : State).masterRead m a.toNat)
  | .writes l :: rest => .act (({ s with agenda := rest } : State).masterWrites l)
  | .row n :: rest => .act (({ s with agenda := rest } : State).headRow n)
  | .companionWrite pa bs row :: rest => .act (({ s with agenda := rest } : State).companionWrite pa.toNat bs row)
  | .companionRead pa n row :: rest => .act (({ s with agenda := rest } : State).companionRead pa.toNat n row)
  | [] =>
    if !s.booted then .idle
    else
      let ev : Option Next := s.nextEvent.map fun i => .event i { s with free := s.free + 4 }
      let wv : Option Next := match s.nextWeave fun _ => true with | [] => none | l => some (.weave (s.startWeave l))
      ((if s.cycle % 2 = 0 then ev.or wv else wv.or ev)).getD .idle

/-- Whether the device is off: only a power-on reset acts (R326). -/
def State.off (s : State) : Bool := s.mg.pwrCur = 3

end Sys2Proof.Machine
end

