-- ==== Sys2Proof/Machine/Step.lean ====
section
/-! DEFINITION. One step of the machine (assumptions 1 and 7), and a machine whose next step runs a given instruction. -/
namespace Sys2Proof.Machine

/-- An outcome of `exec`, with what follows it. -/
def after (f : State → State) : Host.Outcome State Fault Refusal → Host.Outcome State Fault Refusal
  | .next s => .next (f s)
  | .fault r => .fault r
  | .refused r => .refused r

/-- The head of the weave has its turn. -/
noncomputable def issueStep (s : State) (r : SRef) (rest : List SRef) : Host.Outcome State Fault Refusal :=
  match ({ s with weave := rest } : State).turn r with
  | .done s => .next s.afterIssue
  | .run s i => after (fun t => ((s.noteResults t r i).hasIssued r).afterIssue) (exec i s)

/-- An event takes place. A device that is off knows only its power-on reset. -/
def eventStep (i : Instr) (s : State) : Host.Outcome State Fault Refusal := after State.endCycle (exec i s)

/-- One step: a strand of the weave being issued, an event, the start of a weave with its first strand, or an idle cycle. -/
noncomputable def step (s : State) : Host.Outcome State Fault Refusal :=
  if s.off then
    match s.agenda with
    | .event .powerOnReset :: rest => eventStep .powerOnReset { s with agenda := rest }
    | _ :: rest => .next { s with agenda := rest }
    | [] => .next s
  else
    match s.weave with
    | r :: rest => issueStep s r rest
    | [] =>
      match s.next with
      | .event i s => eventStep i s
      | .act s => .next s.endCycle
      | .weave s => (match s.weave with | r :: rest => issueStep s r rest | [] => .next s.endCycle)
      | .idle => .next ({ s with agenda := s.agenda.drop 1 } : State).endCycle

/-! ### A machine whose next step runs an instruction -/

/-- Where `withFetchWord` puts the instruction: the virtual and physical address, and the strand's slot. -/
def firstAddr : Nat := 0x40000000
def firstSlot : SRef := { die := 1, core := 0, slot := 0 }

/-- The leaf of the page of `firstAddr`: readable, writable and executable, every part present, in one slice (R131, R128). -/
def firstLeaf : Leaf :=
  BitVec.ofNat 128 (1 + 8 + 16 + 32 + firstAddr / 2 ^ 21 * 2 ^ 16 + 3 * 2 ^ 52 + 0xFFFFFFFF * 2 ^ 96)

/-- A strand at program level and in native mode that stands at `firstAddr`, with base blocks of zeros and no bundle. -/
def firstStrand (s : State) : Strand :=
  { at_ := firstSlot, pc := BitVec.ofNat 57 firstAddr, native := Bool.true, step := s.mg.tag, kernel := 0, wbs := 0, wbv := 0, nsb := 1,
    nvb := 1, sregs := List.replicate 32 0, vregs := List.replicate 16 0, preds := Vector.replicate 8 0, link := 0, rm := 0,
    fpflags := 0, cause := 0, level := false, plev := false, epc := 0, tval := 0, bundle := none, task := 0, taskId := 0, sid := 0,
    pdom := 0, prio := 0, partid := 0, epoch := 0, args := 0, pend := [], period := 0, due := 0, dueTval := 0, reenter := 0,
    blocked := none, watch := none, fbuf := none, readyAt := s.cycle, resumed := true, again := false, stopped := false }

/-- The state with an instruction where the next step fetches (assumption 3): its three words, the bits above `nbits` zero, in memory at
`firstAddr`; a strand that stands there, with the TLB entry of its page, whose turn it is; and the device on. -/
def State.withFetchWord (s : State) (nbits w : Nat) : State :=
  let k := s.core 1 0
  let atom := firstAddr / 32
  let s := s.setCore 1 0
    { k with tlb := putTlb k.tlb 64 0 (pageOf firstAddr) firstLeaf, l1 := k.l1.filter fun x => x.atom != atom }
  { s with
    strands := firstStrand s :: s.strands.filter fun st => st.at_ != firstSlot
    mem := writeBytes s.mem firstAddr (natBytes 12 (w % 2 ^ nbits))
    poison := s.poison.filter (· != atom), lost := s.lost.filter (· != atom)
    mg := { s.mg with pwrCur := if s.mg.pwrCur = 3 then 0 else s.mg.pwrCur }
    weave := [firstSlot], cur := none }

end Sys2Proof.Machine
end

