-- ==== Sys2Proof/Safety.lean ====
section
/-! DEFINITION. The terms of the statements: what an instruction that ends leaves of its strand and of the machine, and the invariants. A
strand that issues is `st`, and `t` is the strand after its instruction; `st.tick` is `st` after the long-latency writes whose windows the
instruction ends have become visible (R160). -/
namespace Sys2Proof.Machine

/-! ### The strand after an instruction -/

/-- The instruction has ended: the strand is at `pc`, waits for nothing and can issue from the next cycle. -/
structure Strand.Ends (t : Strand) (cycle : Nat) (pc : Addr) : Prop where
  pc : t.pc = pc
  free : t.blocked = none
  ready : t.readyAt = cycle + 1

/-- The instruction has ended and changed nothing of its strand. -/
structure Strand.OnlyMoved (st t : Strand) (cycle : Nat) (pc : Addr) : Prop where
  ends : t.Ends cycle pc
  rest : t = { st.tick with pc := t.pc, blocked := t.blocked, readyAt := t.readyAt }

/-- The instruction has ended with s[r] := x and nothing else: a write in flight to the register is superseded (R79), and a name beyond
the allocation discards the write (R69). -/
structure Strand.WroteS (st t : Strand) (cycle : Nat) (pc : Addr) (r : BitVec 7) (x : Word) : Prop where
  ends : t.Ends cycle pc
  named : ∀ j, st.sName r = some j → t.sregs = st.tick.sregs.set j x ∧ t.pend = st.tick.pend.map (Pend.drop false j)
  beyond : st.sName r = none → t.sregs = st.tick.sregs ∧ t.pend = st.tick.pend
  rest : t = { st.tick with pc := t.pc, blocked := t.blocked, readyAt := t.readyAt, sregs := t.sregs, pend := t.pend }

/-- The register writes of s[r] := the low half and s[r + 1] := the high half of a pair; a name beyond the allocation has none (R159, R69). -/
def Strand.pairWrites (st : Strand) (r : BitVec 7) (x : BitVec 64) : List RegWrite :=
  (match st.sIdx r.toNat with | some j => [.s j (BitVec.ofNat 32 x.toNat)] | none => []) ++
    (match st.sIdx (r.toNat + 1) with | some j => [.s j (BitVec.ofNat 32 (x.toNat / 2 ^ 32))] | none => [])

/-- The instruction has ended with the pair s[r], s[r + 1] := x and nothing else. -/
structure Strand.WrotePair (st t : Strand) (cycle : Nat) (pc : Addr) (r : BitVec 7) (x : BitVec 64) : Prop where
  ends : t.Ends cycle pc
  sregs : t.sregs = ((st.pairWrites r x).foldl Strand.landOne st.tick).sregs
  flight : t.pend = st.tick.pend.map (Pend.dropAll (st.pairWrites r x))
  rest : t = { st.tick with pc := t.pc, blocked := t.blocked, readyAt := t.readyAt, sregs := t.sregs, pend := t.pend }

/-- The same of a vector register, with FPFLAGS gaining the bits f (R94). -/
structure Strand.WroteV (st t : Strand) (cycle : Nat) (pc : Addr) (r : BitVec 7) (x : Vec) (f : BitVec 5) : Prop where
  ends : t.Ends cycle pc
  named : ∀ j, st.vName r = some j → t.vregs = st.tick.vregs.set j x ∧ t.pend = st.tick.pend.map (Pend.drop true j)
  beyond : st.vName r = none → t.vregs = st.tick.vregs ∧ t.pend = st.tick.pend
  flags : t.fpflags = st.tick.fpflags ||| f
  rest : t = { st.tick with pc := t.pc, blocked := t.blocked, readyAt := t.readyAt, vregs := t.vregs, pend := t.pend,
                            fpflags := t.fpflags }

/-- The instruction has ended with p[r] := x and FPFLAGS gaining the bits f, and nothing else. -/
structure Strand.WroteP (st t : Strand) (cycle : Nat) (pc : Addr) (r : BitVec 3) (x : BitVec 8) (f : BitVec 5) : Prop where
  ends : t.Ends cycle pc
  value : t.preds = st.preds.set r.toNat x
  flags : t.fpflags = st.tick.fpflags ||| f
  rest : t = { st.tick with pc := t.pc, blocked := t.blocked, readyAt := t.readyAt, preds := t.preds, fpflags := t.fpflags }

/-- The instructions that the window of a long-latency write with lookahead la holds, when it is issued (R160, R161): none in
interlocked mode, and never more than what is left of an open period. -/
def Strand.window (st : Strand) (la : Nat) : Nat :=
  if st.native then (if st.pend = [] then la else min la st.tick.period) else 0

/-- The instruction has ended with its write in flight: the entry `p` stands last, its window holding n instructions, and no register has
changed (R160). -/
structure Strand.Delayed (st t : Strand) (cycle : Nat) (pc : Addr) (n : Nat) (p : Pend) : Prop where
  ends : t.Ends cycle pc
  entry : t.pend = st.tick.pend ++ [{ p with left := n }]
  period : t.period = if st.pend = [] then 15 else st.tick.period
  rest : t = { st.tick with pc := t.pc, blocked := t.blocked, readyAt := t.readyAt, pend := t.pend, period := t.period }

/-- The instruction has ended with its write visible at once, its window being empty: the entry's registers hold its values, its flags are
raised, and the writes in flight to those registers are superseded. -/
structure Strand.Landed (st t : Strand) (cycle : Nat) (pc : Addr) (p : Pend) : Prop where
  ends : t.Ends cycle pc
  sregs : t.sregs = (p.writes.foldl Strand.landOne st.tick).sregs
  vregs : t.vregs = (p.writes.foldl Strand.landOne st.tick).vregs
  flags : t.fpflags = st.tick.fpflags ||| p.flags
  flight : t.pend = st.tick.pend.map (Pend.dropAll p.writes)
  period : t.period = if st.pend = [] then 15 else st.tick.period
  rest : t = { st.tick with pc := t.pc, blocked := t.blocked, readyAt := t.readyAt, sregs := t.sregs, vregs := t.vregs,
                            fpflags := t.fpflags, pend := t.pend, period := t.period }

/-! ### Instructions that change only their strand -/

/-- Whenever a strand issues the instruction, the machine goes on, only the strand changes, and it changes as `Q` says. -/
def Effect (i : Instr) (Q : State → Strand → Strand → Prop) : Prop :=
  ∀ s st, s.curStrand = some st → ∃ t, exec i s = .next (s.putStrand t) ∧ Q s st t

/-- The words of one major under prefixes (R158, R159, R164): a word whose code stands in the table is the instruction beside it, and a word
with any other code is no instruction. -/
def Codes (mk : Option Msk) (x : Option (BitVec 25)) (word : BitVec 4 → Word) (table : List (Nat × Instr)) : Prop :=
  ∀ fn : BitVec 4, ∀ ws : List Word, ws = (mk.map mskWord).toList ++ (x.map immWord).toList ++ [word fn] →
    (∀ i, (fn.toNat, i) ∈ table → decodeWords ws = .instr i) ∧
    ((∀ i, (fn.toNat, i) ∉ table) → ∃ w, decodeWords ws = .illegal w)

/-- The address after an instruction of n words (R164). -/
def Strand.past (st : Strand) (n : Nat) : Addr := st.pc + BitVec.ofNat 57 (4 * n)

/-- An instruction of n words that sets s[d] to f. -/
def WritesS (i : Instr) (n : Nat) (d : BitVec 7) (f : Strand → Word) : Prop :=
  Effect i fun s st t => st.WroteS t s.cycle (st.past n) d (f st)

/-- An instruction of n words that sets v[d] to f. -/
def WritesV (i : Instr) (n : Nat) (d : BitVec 7) (f : Strand → Vec) : Prop :=
  Effect i fun s st t => st.WroteV t s.cycle (st.past n) d (f st) 0

/-- An instruction of n words that sets p[d] to f. -/
def WritesP (i : Instr) (n : Nat) (d : BitVec 3) (f : Strand → BitVec 8) : Prop :=
  Effect i fun s st t => st.WroteP t s.cycle (st.past n) d (f st) 0

/-- Whether lane i is active under an optional MSK prefix (R163): without one every lane is. -/
def Strand.runs (st : Strand) (mk : Option Msk) (i : Nat) : Bool :=
  match mk with
  | none => true
  | some m => (st.p m.pred).getLsbD i != m.sense.getLsbD 0

/-- Words of an instruction, its prefixes included (R164). -/
def words (pre : List Bool) : Nat := 1 + pre.count true

/-- An instruction of n words that writes v[d] element by element, elements of width w: those in active lanes take f, the others keep
their contents; FPFLAGS gains fl. -/
def WritesElems (i : Instr) (mk : Option Msk) (n : Nat) (d : BitVec 7) (w : Nat) (f : Strand → Nat → BitVec w)
    (fl : Strand → BitVec 5) : Prop :=
  Effect i fun s st t => ∃ y, st.WroteV t s.cycle (st.past n) d y (fl st) ∧
    ∀ j < 256 / w, elem w y j = if st.runs mk (w * j / 32) then f st j else elem w (st.v d) j

/-- An instruction of n words that writes p[d] lane by lane: the bits of active lanes take f, the others keep theirs; FPFLAGS gains
fl. -/
def WritesBits (i : Instr) (mk : Option Msk) (n : Nat) (d : BitVec 3) (f : Strand → Nat → Bool) (fl : Strand → BitVec 5) : Prop :=
  Effect i fun s st t => ∃ y, st.WroteP t s.cycle (st.past n) d y (fl st) ∧
    ∀ k < 8, y.getLsbD k = if st.runs mk k then f st k else (st.p d).getLsbD k

/-- An instruction with an optional MSK prefix that combines elements of width w of v[a] and v[b] into v[d], and raises no flag. -/
def ElemOp (w : Nat) (i : Instr) (mk : Option Msk) (d a b : BitVec 7) (f : BitVec w → BitVec w → BitVec w) : Prop :=
  WritesElems i mk (words [mk.isSome]) d w (fun st j => f (elem w (st.v a) j) (elem w (st.v b) j)) fun _ => 0

/-- The same of the 32-bit lanes of v[a] and an immediate. -/
def LaneOpImm (i : Instr) (mk : Option Msk) (x : Option (BitVec 25)) (d a : BitVec 7) (k : Word) (f : Word → Word → Word) : Prop :=
  WritesElems i mk (words [mk.isSome, x.isSome]) d 32 (fun st j => f (lane (st.v a) j) k) fun _ => 0

/-- The same of the lanes of v[a] alone. -/
def LaneOp1 (i : Instr) (mk : Option Msk) (d a : BitVec 7) (f : Word → Word) : Prop :=
  WritesElems i mk (words [mk.isSome]) d 32 (fun st j => f (lane (st.v a) j)) fun _ => 0

/-- A reduction: lane 0 of v[d] takes f over lanes 0 to 7 of v[a], from lane 0 up, and lanes 1 to 7 take zero. -/
def ReduceOp (i : Instr) (mk : Option Msk) (d a : BitVec 7) (f : Word → Word → Word) : Prop :=
  WritesElems i mk (words [mk.isSome]) d 32
    (fun st k => if k = 0 then [1, 2, 3, 4, 5, 6, 7].foldl (fun x j => f x (lane (st.v a) j)) (lane (st.v a) 0) else 0) fun _ => 0

/-- A vector compare: bit i of p[d] is 1 when every element of width w of lane i meets the condition. -/
def CompareOp (w : Nat) (i : Instr) (mk : Option Msk) (d : BitVec 3) (a b : BitVec 7) (c : BitVec w → BitVec w → Prop)
    [DecidableRel c] : Prop :=
  WritesBits i mk (words [mk.isSome]) d
    (fun st k => (List.range (32 / w)).all fun j => decide (c (elem w (st.v a) (32 / w * k + j)) (elem w (st.v b) (32 / w * k + j))))
    fun _ => 0

/-- The signed and the unsigned w-bit number nearest to an integer (R101). -/
def nearestS (w : Nat) (z : Int) : BitVec w := BitVec.ofInt w (max (-2 ^ (w - 1)) (min (2 ^ (w - 1) - 1) z))
def nearestU (w : Nat) (z : Int) : BitVec w := BitVec.ofInt w (max 0 (min (2 ^ w - 1) z))

/-- High 32 bits of the signed and of the unsigned product. -/
def highS (a b : Word) : Word := (a.signExtend 64 * b.signExtend 64).extractLsb' 32 32
def highU (a b : Word) : Word := (a.zeroExtend 64 * b.zeroExtend 64).extractLsb' 32 32

/-- A long-latency instruction of n words (R160): its entry `p` is in flight while its window holds an instruction, and visible at once
when it holds none. -/
def WritesLater (i : Instr) (n la : Nat) (p : Strand → Pend) : Prop :=
  Effect i fun s st t =>
    (st.window la = 0 → st.Landed t s.cycle (st.past n) (p st)) ∧
      (0 < st.window la → st.Delayed t s.cycle (st.past n) (st.window la) (p st))

/-- A write in flight of s[d], with no flags and no causes. -/
def entryS (st : Strand) (d : BitVec 7) (x : Word) : Pend :=
  { writes := (match st.sName d with | some j => [.s j x] | none => []), left := 0, arrived := false, flags := 0, causes := 0, tval := 0 }

/-- A write in flight of v[d] with the flags f and no causes. -/
def entryV (st : Strand) (d : BitVec 7) (x : Vec) (f : BitVec 5) : Pend :=
  { writes := (match st.vName d with | some j => [.v j x] | none => []), left := 0, arrived := false, flags := f, causes := 0, tval := 0 }

/-! ### Floating point -/

/-- The flags of the elements, of width w, that lie in active lanes, together (R94, R199). -/
def Strand.raised (st : Strand) (mk : Option Msk) (w : Nat) (g : Nat → Res) (n : Nat) : BitVec 5 :=
  (List.range n).foldl (fun f j => if st.runs mk (w * j / 32) then f ||| (g j).2 else f) 0

/-- A float instruction that writes the n low elements of width w of v[d] from `g`, those above as zeros, and raises the flags of the
active elements. -/
def FloatOp (w n : Nat) (i : Instr) (mk : Option Msk) (d : BitVec 7) (g : Strand → Nat → Res) : Prop :=
  WritesElems i mk (words [mk.isSome]) d w (fun st j => if j < n then BitVec.ofNat w (g st j).1 else 0)
    fun st => st.raised mk w (g st) n

/-- The pattern of element j of width w. -/
def Strand.pat (st : Strand) (w : Nat) (a : BitVec 7) (j : Nat) : Nat := (elem w (st.v a) j).toNat

/-- The rounding mode that FPMODE.RM names (R94). -/
def Strand.roundingMode (st : Strand) : RMode :=
  if st.rm = 0 then .rne else if st.rm = 1 then .rtz else if st.rm = 2 then .rdn else .rup

/-- A float operation on each element of a format of v[a], of v[a] and v[b], and of v[a], v[b] and the old v[d]. -/
def FloatOp1 (f : FFmt) (i : Instr) (mk : Option Msk) (d a : BitVec 7) (g : Nat → Res) : Prop :=
  FloatOp f.width (256 / f.width) i mk d fun st j => g (st.pat f.width a j)
def FloatOp2 (f : FFmt) (i : Instr) (mk : Option Msk) (d a b : BitVec 7) (g : RMode → Nat → Nat → Res) : Prop :=
  FloatOp f.width (256 / f.width) i mk d fun st j => g st.roundingMode (st.pat f.width a j) (st.pat f.width b j)
def FloatOp3 (f : FFmt) (i : Instr) (mk : Option Msk) (d a b : BitVec 7) (g : RMode → Nat → Nat → Nat → Res) : Prop :=
  FloatOp f.width (256 / f.width) i mk d fun st j =>
    g st.roundingMode (st.pat f.width a j) (st.pat f.width b j) (st.pat f.width d j)

/-- A float compare: bit k of p[d] is 1 when every element of lane k meets the condition; a signalling NaN in an active lane sets NV. -/
def FloatCompare (f : FFmt) (c : FCond) (i : Instr) (mk : Option Msk) (d : BitVec 3) (a b : BitVec 7) : Prop :=
  WritesBits i mk (words [mk.isSome]) d
    (fun st k => (List.range (32 / f.width)).all fun j =>
      c.holds (f.value (st.pat f.width a (32 / f.width * k + j))) (f.value (st.pat f.width b (32 / f.width * k + j))))
    fun st => st.raised mk f.width
      (fun j => (0, if (f.value (st.pat f.width a j)).isSig || (f.value (st.pat f.width b j)).isSig then fNV else 0)) (256 / f.width)

/-- A long-latency float instruction on the lanes: the entry in flight holds the lanes, the inactive ones with their old contents, and the
flags of the active ones. -/
def FloatLater (i : Instr) (mk : Option Msk) (l : BitVec 4) (d : BitVec 7) (g : Strand → Nat → Res) : Prop :=
  ∃ y : Strand → Vec, WritesLater i (words [mk.isSome]) l.toNat (fun st => entryV st d (y st) (st.raised mk 32 (g st) 8)) ∧
    ∀ st, ∀ j < 8, lane (y st) j = if st.runs mk j then BitVec.ofNat 32 (g st j).1 else lane (st.v d) j

/-- The state of a generator after the elements below n, of which those that `need` one have taken a draw (R98). -/
def drawSeed (need : Nat → Bool) (seed : Word) : Nat → Word
  | 0 => seed
  | n + 1 => if need n then nextDraw (drawSeed need seed n) else drawSeed need seed n

/-! ### Control -/

/-- The same under a condition on the state and the strand. -/
def EffectWhen (i : Instr) (H : State → Strand → Prop) (Q : State → Strand → Strand → Prop) : Prop :=
  ∀ s st, s.curStrand = some st → H s st → ∃ t, exec i s = .next (s.putStrand t) ∧ Q s st t

/-- The instruction has ended at `pc` with %link := l and nothing else. -/
structure Strand.Linked (st t : Strand) (cycle : Nat) (pc l : Addr) : Prop where
  ends : t.Ends cycle pc
  link : t.link = l
  rest : t = { st.tick with pc := t.pc, blocked := t.blocked, readyAt := t.readyAt, link := t.link }

/-- The strand stands at its instruction of n words, a blocking point: its windows are closed and it waits as `w` says (R42). -/
def Strand.standsAt (st : Strand) (cycle n : Nat) (w : Wait) : Strand :=
  { st.closeWindows with blocked := some { wait := w, len := n, woken := false, since := cycle } }

/-! ### Memory -/

/-- The instruction has ended with its write in flight, or visible at once when its window holds no instruction (R160). -/
def Strand.Later (st u : Strand) (cycle : Nat) (pc : Addr) (la : Nat) (p : Pend) : Prop :=
  (st.window la = 0 → st.Landed u cycle pc p) ∧ (0 < st.window la → st.Delayed u cycle pc (st.window la) p)

/-- An access of n bytes of class `a` at `va` is aligned and goes to the physical address `pa`: its page is in the core's or the die's TLB,
its part is here, and the page permits it (R113, R132, R215, R363). -/
structure State.At (s : State) (st : Strand) (a : AccClass) (va n pa : Nat) : Prop where
  aligned : va % n = 0
  kind : addrKind va = .virt
  leaf : ∃ l, s.tlbLeaf st.at_.die (some st.at_.core) st.pdom.toNat (pageOf va) = some l ∧ l.part (partOf va) = .present ∧
    l.pa va = pa ∧ (a ≠ .write → l.r = true) ∧ (a ≠ .read → l.w = true)

/-- Memory that the agents of a die of this device reach without another die: its own memory, or host memory (R115). Die 3 is the
companion. -/
def localMemory (die pa : Nat) : Prop := (homeOf pa = .dram die ∧ die ≠ 3) ∨ homeOf pa = .host

/-- Between two states, a memory instruction has written the bytes `ws` at their homes, in order, and nothing else: watches on the lines
written have fired (R223), whole atoms have lost their marks (R372, R375), parts that back companion pages are noted (R312), and caches and
TLBs, with the events they count, have changed; fills in flight may have lost the places where they are installed (R154), and claims on parts
may have been met (R135). -/
structure State.Wrote (s t : State) (ws : List (Nat × List Byte)) : Prop where
  mem : t.mem = ws.foldl (fun m p => writeBytes m p.1 p.2) s.mem
  outside : Memory.wf s.mem = true → ∀ a, (∀ p ∈ ws, a < p.1 ∨ p.1 + p.2.length ≤ a) → readByte t.mem a = readByte s.mem a
  poison : ∀ a, (a ∈ t.poison → a ∈ s.poison) ∧ ((∀ p ∈ ws, p.1 / 32 ≠ a) → a ∈ s.poison → a ∈ t.poison)
  lost : ∀ a, (a ∈ t.lost → a ∈ s.lost) ∧ ((∀ p ∈ ws, p.1 / 32 ≠ a) → a ∈ s.lost → a ∈ t.lost)
  core : ∀ d c, t.core d c = { s.core d c with l1 := (t.core d c).l1, tlb := (t.core d c).tlb, reuse := (t.core d c).reuse }
  die : ∀ d, t.die d = { s.die d with rdc := (t.die d).rdc, tlb := (t.die d).tlb, l2 := (t.die d).l2 }
  fills : ∃ l1 rdc, t.xreads = (s.spoilFills l1 rdc).xreads
  claims : ∃ f : SRef → Bool, t.link.moves = s.link.moves.map fun m => { m with claims := m.claims.filter f }
  rest : t = { ws.foldl (fun s p => s.fireLine p.1) s with
    mem := t.mem, poison := t.poison, lost := t.lost, link := { s.link with dirty := t.link.dirty, moves := t.link.moves },
    cores := t.cores, dies := t.dies, evBuf := t.evBuf, xreads := t.xreads }

/-- Lines that a cache holds. -/
def heldLines (l : List Sector) : Nat := (l.map fun x => x.atom / 4).eraseDups.length

/-- The accesses of one instruction, n of them, throw no line out of the caches of the strand's core and die that another of them may hit: there
is only one, or there is room for all (R17, R126). -/
def State.RoomFor (s : State) (st : Strand) (n : Nat) : Prop :=
  n ≤ 1 ∨ (heldLines (s.core st.at_.die st.at_.core).l1 + n ≤ l1Lines ∧ heldLines (s.die st.at_.die).rdc + n ≤ rdcLines st.at_.die)

/-- The state in which a load or an atomic looks at memory: a strong one has made its acquire (R139, R153). -/
def State.acquired (s : State) (st : Strand) (q : BitVec 1) (c : BitVec 2) : State :=
  if q = 1 then s.acquire st.at_.die st.at_.core c.toNat (st.bundle.map Prod.fst) st.at_ else s

/-- A load instruction of n words whose accesses are `lanes` (number, address, bytes, unused): when each goes to memory that its core sees
without marks, and the caches have room for them, its entry is made of the bytes seen; the rest of the machine is as it was. -/
def Loads (i : Instr) (n la : Nat) (q : BitVec 1) (c : BitVec 2) (H : State → Strand → Prop)
    (lanes : Strand → List (Nat × Nat × Nat × Nat)) (entry : Strand → (Nat → Nat) → Pend) : Prop :=
  ∀ (s : State) (st : Strand) (val : Nat → Nat), s.curStrand = some st → H s st → (s.acquired st q c).RoomFor st (lanes st).length →
    (∀ l ∈ lanes st, ∃ pa v, s.At st .read l.2.1 l.2.2.1 pa ∧ homeOf pa ≠ .regs ∧
      (s.acquired st q c).lookAtom st.at_.die (some st.at_.core) (pa / 32) = some (v, 0) ∧ val l.1 = getBytes v (pa % 32) l.2.2.1) →
    ∃ t u, exec i s = .next (t.putStrand u) ∧ s.Wrote t [] ∧ st.Later u s.cycle (st.past n) la (entry st val)

/-- A release of a scope has nothing to wait for (R151, R153). -/
def State.drained (s : State) (st : Strand) (q : BitVec 1) (c : BitVec 2) : Prop :=
  q = 1 → 2 ≤ c.toNat → (s.core st.at_.die st.at_.core).outstanding = 0

/-- A store instruction of n words whose accesses are `lanes` (number, address, bytes, data): when each goes to memory of the die or the
host, its bytes are written there in order. -/
def Stores (i : Instr) (n : Nat) (q : BitVec 1) (c : BitVec 2) (lanes : Strand → List (Nat × Nat × Nat × Nat)) : Prop :=
  ∀ (s : State) (st : Strand) (pa : Nat → Nat), s.curStrand = some st → s.drained st q c →
    (∀ l ∈ lanes st, s.At st .write l.2.1 l.2.2.1 (pa l.1) ∧ localMemory st.at_.die (pa l.1)) →
    ∃ t u, exec i s = .next (t.putStrand u) ∧
      s.Wrote t ((lanes st).map fun l => (pa l.1, natBytesLE l.2.2.1 l.2.2.2)) ∧ (t.seen st).OnlyMoved u s.cycle (st.past n)

/-- An atomic instruction of n words on `size` bytes: the old value, as the place of its scope has it, and the new one (R220); host memory
takes bundle scope as system scope (R146). -/
def Updates (i : Instr) (n la : Nat) (q : BitVec 1) (c : BitVec 2) (size : Nat) (ea : Strand → Nat)
    (f : Strand → Nat → Option Nat) (entry : Strand → Nat → Pend) : Prop :=
  ∀ (s : State) (st : Strand) (pa old : Nat) (v : Vec), s.curStrand = some st → s.drained st q c →
    s.At st .atomic (ea st) size pa → localMemory st.at_.die pa →
    (if c = 0 ∧ homeOf pa ≠ .host then s.lookAtom st.at_.die (some st.at_.core) (pa / 32) = some (v, 0)
      else v = s.atomData (pa / 32) ∧ s.atomMark (pa / 32) = 0) →
    old = getBytes v (pa % 32) size →
    ∃ t u, exec i s = .next (t.putStrand u) ∧
      s.Wrote t (match f st old with | some x => [(pa, natBytesLE size x)] | none => []) ∧
      (t.seen st).Later u s.cycle (st.past n) la (entry st old)

/-- An atomic instruction of n words on `size` bytes completes, whatever the bytes hold and even where their atom is marked: its conditions are
that a release it makes has nothing to wait for, and that its access is aligned and permitted (R151, R153, R215, R363). -/
def Completes (i : Instr) (n : Nat) (q : BitVec 1) (c : BitVec 2) (size : Nat) (ea : Strand → Nat) : Prop :=
  ∀ (s : State) (st : Strand) (pa : Nat), s.curStrand = some st → s.drained st q c → s.At st .atomic (ea st) size pa →
    localMemory st.at_.die pa → ∃ (t : State) (u : Strand), exec i s = .next (t.putStrand u) ∧ u.Ends s.cycle (st.past n)

/-- The entry of a scalar pair. -/
def entryPair (st : Strand) (d : BitVec 7) (x : BitVec 64) : Pend :=
  { writes := st.pairWrites d x, left := 0, arrived := false, flags := 0, causes := 0, tval := 0 }

/-- An agent has looked at memory: between the two states only caches and TLBs have changed, with the events they count, and the rows of
writes known to be applied and the counter of free values where another die answered (R124, R126, R149). -/
structure State.Fetched (s t : State) : Prop where
  core : ∀ d c, t.core d c = { s.core d c with l1 := (t.core d c).l1, tlb := (t.core d c).tlb, reuse := (t.core d c).reuse }
  die : ∀ d, t.die d =
    { s.die d with rdc := (t.die d).rdc, tlb := (t.die d).tlb, l2 := (t.die d).l2, rows := (t.die d).rows }
  rest : t = { s with cores := t.cores, dies := t.dies, evBuf := t.evBuf, free := t.free }

/-- The n bytes at `va`, aligned, unmarked and in memory that the core can read at once, hold x as the core sees them. -/
def State.Sees (s : State) (st : Strand) (va n x : Nat) : Prop :=
  ∃ pa v, s.At st .read va n pa ∧ homeOf pa ≠ .regs ∧ s.lookAtom st.at_.die (some st.at_.core) (pa / 32) = some (v, 0) ∧
    x = getBytes v (pa % 32) n

/-- The strand stands at its instruction with its windows open, which is no blocking point, and issues it again from the next cycle. -/
def Strand.standsAgain (st : Strand) (cycle : Nat) : Strand :=
  { st with blocked := some { wait := .retry, len := 0, woken := false, since := cycle } }

/-- The instruction has ended with the strand's watch at w and nothing else. -/
structure Strand.Watches (st t : Strand) (cycle : Nat) (pc : Addr) (w : Option Watch) : Prop where
  ends : t.Ends cycle pc
  watch : t.watch = w
  rest : t = { st.tick with pc := t.pc, blocked := t.blocked, readyAt := t.readyAt, watch := t.watch }

/-- The core has invalidated what an acquire of scope c invalidates (R153): at .b the load entries of its bundle, or its own without one;
beyond .b every load entry and every sector without a write not yet acknowledged; from .v on also such sectors of the die's RDC. Fills in
flight are not installed where it acts (R154). -/
structure State.Invalidated (s t : State) (st : Strand) (c : Nat) : Prop where
  core : t.core st.at_.die st.at_.core = { s.core st.at_.die st.at_.core with
    l1 := (s.core st.at_.die st.at_.core).l1.filter fun x => c = 0 ∨ 0 < x.unacked
    reuse := (s.core st.at_.die st.at_.core).reuse.filter fun e => match e.load with
      | some l => c = 0 && !(match st.bundle with
        | some b => decide (l.bundle = some b.1) || s.strands.any fun x => x.at_ = l.maker && x.bundle.map Prod.fst = some b.1
        | none => decide (l.maker = st.at_))
      | none => true }
  die : t.die st.at_.die = { s.die st.at_.die with rdc := (s.die st.at_.die).rdc.filter fun x => c < 2 ∨ 0 < x.unacked }
  others : ∀ d k, (d, k) ≠ (st.at_.die, st.at_.core) → t.core d k = s.core d k
  otherDies : ∀ d, d ≠ st.at_.die → t.die d = s.die d
  fills : t.xreads = s.xreads.map fun r => { r with
    noL1 := r.noL1 || decide (c ≠ 0 ∧ r.src = st.at_.die ∧ r.strand.core = st.at_.core)
    noRdc := r.noRdc || decide (2 ≤ c ∧ r.src = st.at_.die) }
  rest : t = { s with cores := t.cores, dies := t.dies, evBuf := t.evBuf, xreads := t.xreads }

/-- A strand waits for the walk of a page on a die, or is parked on it (R133, R347). -/
def Strand.OnPage (st : Strand) (die pdom page : Nat) : Prop :=
  ∃ b, st.blocked = some b ∧ (b.wait = .walk die pdom page ∨ ∃ va, b.wait = .parked die pdom va ∧ pageOf va = page)

/-! ### Engines -/

/-- The command r runs on an engine at the given stage, and it is neither held nor stopped (R234, R238, R239, R381); no bytes of a run before
are still to be counted (R252). -/
structure State.Runs (s : State) (d c u : Nat) (r : EngRun) (stage : Nat) : Prop where
  run : (s.engine d c u).run = some r
  free : r.held = none
  goes : s.entryStopped r.entry = false
  stage : r.stage = stage
  counted : r.stage = 3 → r.count = none

/-- What an engine has done from s to t stands for its command's task: its writes in flight and the events it counts (R322, R368). -/
def State.charged (s t : State) (r : EngRun) : State :=
  (t.tagWrites s.nextId (s.engTaskId r) r.entry.pdom).tagNotes s.evBuf.length (s.engWho r.entry)

/-- An iteration from s to t, which left the command at r', has ended: the vector of the nest is the next one, level 0 innermost, or
after the last the destination is filled and the command completes (R122, R238, R239). The tiles that the command uses are those it has come
to in its accesses (R122). -/
def State.iterated (s t : State) (d c u : Nat) (r r' : EngRun) : State :=
  match nextVec r'.vec (r'.bounds u) with
  | some v => (s.charged t r).mapRun d c u fun old => { r' with vec := v, entered := false, tiles := old.tiles }
  | none => (s.charged (t.endFill u r') r).mapRun d c u fun old => { r' with stage := 4, filling := false, tiles := old.tiles }

/-- The event that makes the engine u of a core (for QE: of the cluster that starts there) go on with a command of operation op. -/
noncomputable def engineEvent (d c u op : Nat) : Instr :=
  match u with
  | 0 => if op = 0 then .mxMma d c else .mxMmac d c
  | 1 => .ceCopy d c
  | 2 => .ssbScan d c
  | _ => .qeQuant d (c / 4)

/-- A barrier of a bundle changed (R225). -/
def Bundle.withBar (b : Bundle) (n : Nat) (f : Bar → Bar) : Bundle := { b with bars := b.bars.set n (f (b.bars.getD n (Bar.fresh 1))) }

/-! ### Flumes -/

/-- A unit of the type can go on with a call: it has started it, or the call stands in the weir and a unit is free; and none of its appends
stands (R255, R258, R260, R271). -/
structure State.Serves (s : State) (typ id : Nat) (c : Call) : Prop where
  call : s.call? id = some c
  typ : c.typ = typ
  appended : ∀ a ∈ s.gx.appends, a.call ≠ some id
  turn : c.stage = 3 ∨ (c.stage = 1 ∧ s.unitFree c = true)

/-- The call with its unit at work on it. -/
def Call.begun (c : Call) : Call := { c with stage := 3 }

/-- The call has been started (R258); a unit that starts one made with .rel acquires on the GX (R125). -/
def State.begun (s : State) (c : Call) : State := if c.stage = 1 then s.startCall c else s

/-- What a unit has done from s to t stands for its call's task: its writes in flight and the events it counts (R322, R368). -/
def State.worked (s t : State) (c : Call) : State :=
  (t.tagWrites s.nextId (match t.task? c.task with | some k => k.id.toNat | none => 0) c.pdom).tagNotes s.evBuf.length (t.who c.task)

/-- The unit at work on the call has come from s to t with the return payload p: the call returns, unless records of it still wait for room in
a queue (R257, R271). -/
def State.returned (s t : State) (c : Call) (p : List Byte) : State :=
  if ∃ a ∈ (s.worked t c).gx.appends, a.call = some c.id then s.worked t c
  else (s.worked t c).writeReturn (((s.worked t c).call? c.id).getD c.begun) 0 p

/-- The unit at work on the call has come from s to t and fails (R383). -/
def State.failed (s t : State) (c : Call) (status : Nat) : State :=
  (s.worked t c).failCall (((s.worked t c).call? c.id).getD c.begun) status (((s.worked t c).call? c.id).getD c.begun).count

/-- Work done on the elements of a list one after another leads from s to t: one element as `one` says, with its result. -/
inductive Each {α β : Type} (one : α → State → State → β → Prop) : List α → State → State → List β → Prop
  | nil (s : State) : Each one [] s s []
  | cons {x : α} {l : List α} {s u t : State} {y : β} {r : List β} : one x s u y → Each one l u t r → Each one (x :: l) s t (y :: r)

/-! ### The machine as a whole -/

/-- Device and host memory is in its canonical form (assumption 4): addresses rising, and no byte listed that an unlisted address reads as. -/
def State.memOk (s : State) : Prop := Memory.wf s.mem = true

/-- A strand that can go on with its instruction (R26, R344, R359): the device is on, the strand is not stopped, waits for nothing,
and owes no cause and no handler entry. -/
structure State.MayIssue (s : State) (st : Strand) : Prop where
  here : s.strandAt st.at_ = some st
  on : s.off = false
  goes : st.stopped = false ∧ st.blocked = none
  owes : st.due = 0 ∧ st.reenter = 0

/-- The state in which the strand's instruction runs: its first instruction starts its task (R64), and the issue is counted (R322), but for one
that is issued again. -/
def State.issuing (s : State) (st : Strand) : State :=
  { (if st.again then s else (s.noteStart st).note st.at_.die (some st.at_.core) 2 1 st.task) with cur := some st.at_ }

/-- The strand's fetches of the words from word n of its instruction on give the words of the list, and lead from the first state to the
last (R164, R357). -/
inductive Fetches (r : SRef) : Nat → State → List Word → State → Prop
  | nil (n : Nat) (s : State) : Fetches r n s [] s
  | cons {n : Nat} {s u t : State} {st : Strand} {w : Word} {ws : List Word} : s.strandAt r = some st →
      s.fetchWord st ((st.pc.toNat + 4 * n) % 2 ^ 57) = .got u w → Fetches r (n + 1) u ws t → Fetches r n s (w :: ws) t

/-! ### Collectives -/

/-- A collective of a strand that belongs to no bundle: it completes at once on a set of one, each lane of v[d] as g gives it of the lane of
v[a] (R227, R229). -/
def CollectsAlone (i : Instr) (l : BitVec 4) (d a : BitVec 7) (g : Nat → Res) : Prop :=
  EffectWhen i (fun _ st => st.bundle = none) fun s st t => ∃ y, (∀ k < 8, lane y k = BitVec.ofNat 32 (g (st.pat 32 a k)).1) ∧
    st.Later t s.cycle (st.past 1) l.toNat (entryV st d y ((List.range 8).foldl (fun f k => f ||| (g (st.pat 32 a k)).2) 0))

/-- A collective of a member of a bundle: it waits with its windows open, which is no blocking point, until every present member does. -/
def CollectsWithMembers (i : Instr) (w : Strand → Wait) : Prop :=
  EffectWhen i (fun _ st => st.bundle ≠ none) fun s st t =>
    t = { st with blocked := some { wait := w st, len := 1, woken := false, since := s.cycle } }

end Sys2Proof.Machine
end

