-- ==== Sys2Proof/Certificates/Slice0/Obligations.lean ====
section
/-! DEFINITION. The statements for the provers. `WritesS`, `Effect` and the other terms are those of Safety.lean: each says that whenever a
strand issues the instruction, the machine answers a next state in which only that strand has changed, and how. -/
open Sys2Proof Sys2Proof.Machine

/-! ### Scalar registers (09 R175 to R184) -/

/-- SALU (R175): s[d] is the operation of the table on s[a] and s[b]; a shift takes the low five bits of its count. SALUI (R176, R162): the
operations of R175 on s[a] and the immediate k, which is sext(imm7) without a prefix and imm25 × 2^7 + imm7 under an IMM prefix. The words
of both majors (format A, format B) are these instructions, and only these. -/
def Obligations.SaluAndSaluiSetTheirResult : Prop :=
  (∀ d a b : BitVec 7,
   WritesS (.saluAdd d a b) 1 d (fun st => st.s a + st.s b) ∧
   WritesS (.saluSub d a b) 1 d (fun st => st.s a - st.s b) ∧
   WritesS (.saluMul d a b) 1 d (fun st => st.s a * st.s b) ∧
   WritesS (.saluMulhs d a b) 1 d (fun st => highS (st.s a) (st.s b)) ∧
   WritesS (.saluMulhu d a b) 1 d (fun st => highU (st.s a) (st.s b)) ∧
   WritesS (.saluAnd d a b) 1 d (fun st => st.s a &&& st.s b) ∧
   WritesS (.saluOr d a b) 1 d (fun st => st.s a ||| st.s b) ∧
   WritesS (.saluXor d a b) 1 d (fun st => st.s a ^^^ st.s b) ∧
   WritesS (.saluShl d a b) 1 d (fun st => BitVec.ofNat 32 ((st.s a).toNat * 2 ^ ((st.s b).toNat % 32))) ∧
   WritesS (.saluShr d a b) 1 d (fun st => BitVec.ofNat 32 ((st.s a).toNat / 2 ^ ((st.s b).toNat % 32))) ∧
   WritesS (.saluSar d a b) 1 d (fun st => BitVec.ofInt 32 ((st.s a).toInt / (2 ^ ((st.s b).toNat % 32) : Nat))) ∧
   WritesS (.saluMin d a b) 1 d (fun st => if (st.s a).toInt ≤ (st.s b).toInt then st.s a else st.s b) ∧
   WritesS (.saluMax d a b) 1 d (fun st => if (st.s a).toInt ≤ (st.s b).toInt then st.s b else st.s a) ∧
   WritesS (.saluMinu d a b) 1 d (fun st => if (st.s a).toNat ≤ (st.s b).toNat then st.s a else st.s b) ∧
   WritesS (.saluMaxu d a b) 1 d (fun st => if (st.s a).toNat ≤ (st.s b).toNat then st.s b else st.s a) ∧
   WritesS (.saluSlt d a b) 1 d (fun st => if (st.s a).toInt < (st.s b).toInt then 1 else 0)) ∧
  (∀ (x : Option (BitVec 25)) (d a i : BitVec 7), ∀ k : Word,
   (x = none → k = BitVec.ofInt 32 i.toInt) → (∀ y, x = some y → k = BitVec.ofNat 32 (y.toNat * 2 ^ 7 + i.toNat)) →
   WritesS (.saluiAdd x d a i) (words [x.isSome]) d (fun st => st.s a + k) ∧
   WritesS (.saluiSub x d a i) (words [x.isSome]) d (fun st => st.s a - k) ∧
   WritesS (.saluiMul x d a i) (words [x.isSome]) d (fun st => st.s a * k) ∧
   WritesS (.saluiMulhs x d a i) (words [x.isSome]) d (fun st => highS (st.s a) k) ∧
   WritesS (.saluiMulhu x d a i) (words [x.isSome]) d (fun st => highU (st.s a) k) ∧
   WritesS (.saluiAnd x d a i) (words [x.isSome]) d (fun st => st.s a &&& k) ∧
   WritesS (.saluiOr x d a i) (words [x.isSome]) d (fun st => st.s a ||| k) ∧
   WritesS (.saluiXor x d a i) (words [x.isSome]) d (fun st => st.s a ^^^ k) ∧
   WritesS (.saluiShl x d a i) (words [x.isSome]) d (fun st => BitVec.ofNat 32 ((st.s a).toNat * 2 ^ (k.toNat % 32))) ∧
   WritesS (.saluiShr x d a i) (words [x.isSome]) d (fun st => BitVec.ofNat 32 ((st.s a).toNat / 2 ^ (k.toNat % 32))) ∧
   WritesS (.saluiSar x d a i) (words [x.isSome]) d (fun st => BitVec.ofInt 32 ((st.s a).toInt / (2 ^ (k.toNat % 32) : Nat))) ∧
   WritesS (.saluiMin x d a i) (words [x.isSome]) d (fun st => if (st.s a).toInt ≤ k.toInt then st.s a else k) ∧
   WritesS (.saluiMax x d a i) (words [x.isSome]) d (fun st => if (st.s a).toInt ≤ k.toInt then k else st.s a) ∧
   WritesS (.saluiMinu x d a i) (words [x.isSome]) d (fun st => if (st.s a).toNat ≤ k.toNat then st.s a else k) ∧
   WritesS (.saluiMaxu x d a i) (words [x.isSome]) d (fun st => if (st.s a).toNat ≤ k.toNat then k else st.s a) ∧
   WritesS (.saluiSlt x d a i) (words [x.isSome]) d (fun st => if (st.s a).toInt < k.toInt then 1 else 0)) ∧
  (∀ (x : Option (BitVec 25)) (d a b : BitVec 7),
   Codes none none (fun fn => wordA 0x01 fn d a b)
    [(0, .saluAdd d a b), (1, .saluSub d a b), (2, .saluMul d a b), (3, .saluMulhs d a b), (4, .saluMulhu d a b), (5, .saluAnd d a b),
     (6, .saluOr d a b), (7, .saluXor d a b), (8, .saluShl d a b), (9, .saluShr d a b), (10, .saluSar d a b), (11, .saluMin d a b),
     (12, .saluMax d a b), (13, .saluMinu d a b), (14, .saluMaxu d a b), (15, .saluSlt d a b)] ∧
   Codes none x (fun fn => wordA 0x02 fn d a b)
    [(0, .saluiAdd x d a b), (1, .saluiSub x d a b), (2, .saluiMul x d a b), (3, .saluiMulhs x d a b), (4, .saluiMulhu x d a b),
     (5, .saluiAnd x d a b), (6, .saluiOr x d a b), (7, .saluiXor x d a b), (8, .saluiShl x d a b), (9, .saluiShr x d a b),
     (10, .saluiSar x d a b), (11, .saluiMin x d a b), (12, .saluiMax x d a b), (13, .saluiMinu x d a b), (14, .saluiMaxu x d a b),
     (15, .saluiSlt x d a b)])

/-- LI and LIH (R177). The unary operations of R178 and the bit fields of R179, bit by bit: k ranges over the bits of the result. The words of
the majors 0x03 and 0x04 are these instructions: other codes, LIH under a prefix and a unary operation with b not zero are none. -/
def Obligations.ImmediatesAndBitsSetTheirResult : Prop :=
  (∀ (x : BitVec 25) (d : BitVec 7) (i : BitVec 14),
   WritesS (.li none d i) 1 d (fun _ => BitVec.ofInt 32 i.toInt) ∧
   WritesS (.li (some x) d i) 2 d (fun _ => BitVec.ofNat 32 (x.toNat % 2 ^ 18 * 2 ^ 14 + i.toNat)) ∧
   WritesS (.lih d i) 1 d (fun st => BitVec.ofNat 32 (i.toNat * 2 ^ 18 + (st.s d).toNat % 2 ^ 18))) ∧
  (∀ d a b : BitVec 7,
   WritesS (.sbitPopc d a) 1 d (fun st => BitVec.ofNat 32 ((List.range 32).countP fun k => (st.s a).getLsbD k)) ∧
   WritesS (.sbitClz d a) 1 d (fun st => BitVec.ofNat 32 (((List.range 32).takeWhile fun k => !(st.s a).getLsbD (31 - k)).length)) ∧
   WritesS (.sbitCtz d a) 1 d (fun st => BitVec.ofNat 32 (((List.range 32).takeWhile fun k => !(st.s a).getLsbD k).length)) ∧
   (∃ f : Strand → Word, WritesS (.sbitBrev d a) 1 d f ∧ ∀ st, ∀ k < 32, (f st).getLsbD k = (st.s a).getLsbD (31 - k)) ∧
   WritesS (.sextb d a) 1 d (fun st => BitVec.ofInt 32 ((st.s a).extractLsb' 0 8).toInt) ∧
   WritesS (.sexth d a) 1 d (fun st => BitVec.ofInt 32 ((st.s a).extractLsb' 0 16).toInt) ∧
   WritesS (.zextb d a) 1 d (fun st => BitVec.ofNat 32 ((st.s a).toNat % 2 ^ 8)) ∧
   WritesS (.zexth d a) 1 d (fun st => BitVec.ofNat 32 ((st.s a).toNat % 2 ^ 16)) ∧
   (∃ f : Strand → Word, WritesS (.bfx d a b) 1 d f ∧ ∀ st, ∀ k < 32, (f st).getLsbD k =
     (decide (k < min ((st.s b).toNat / 2 ^ 8 % 2 ^ 6) 32) && (st.s a).getLsbD ((st.s b).toNat % 32 + k))) ∧
   (∃ f : Strand → Word, WritesS (.bfi d a b) 1 d f ∧ ∀ st, ∀ k < 32, (f st).getLsbD k =
     if (st.s b).toNat % 32 ≤ k ∧ k < (st.s b).toNat % 32 + min ((st.s b).toNat / 2 ^ 8 % 2 ^ 6) 32
     then (st.s a).getLsbD (k - (st.s b).toNat % 32) else (st.s d).getLsbD k)) ∧
  (∀ (x : Option (BitVec 25)) (d a b : BitVec 7) (i : BitVec 14),
   ((∀ y, x = some y → y.toNat < 2 ^ 18) →
    Codes none x (fun fn => wordC 0x03 fn d i) ((0, .li x d i) :: if x = none then [(1, .lih d i)] else [])) ∧
   Codes none none (fun fn => wordA 0x04 fn d a b) ([(4, .bfx d a b), (5, .bfi d a b)] ++ if b = 0 then
    [(0, .sbitPopc d a), (1, .sbitClz d a), (2, .sbitCtz d a), (3, .sbitBrev d a), (6, .sextb d a), (7, .sexth d a), (8, .zextb d a),
     (9, .zexth d a)] else []))

/-- Division (R180): a long-latency write of lookahead l; a zero divisor gives all ones and the dividend, and the quotient is truncated toward
zero, so that -2^31 / -1 wraps to -2^31 with remainder 0. The words of the majors 0x05 to 0x08 are these instructions, with l in field la. -/
def Obligations.DivisionsWriteTheirResultLater : Prop := (∀ (l : BitVec 4) (d a b : BitVec 7),
   WritesLater (.div l d a b) 1 l.toNat (fun st => entryS st d
     (if st.s b = 0 then 0xFFFFFFFF else BitVec.ofInt 32 ((st.s a).toInt.tdiv (st.s b).toInt))) ∧
   WritesLater (.divu l d a b) 1 l.toNat (fun st => entryS st d
     (if st.s b = 0 then 0xFFFFFFFF else BitVec.ofNat 32 ((st.s a).toNat / (st.s b).toNat))) ∧
   WritesLater (.rem l d a b) 1 l.toNat (fun st => entryS st d
     (if st.s b = 0 then st.s a else BitVec.ofInt 32 ((st.s a).toInt.tmod (st.s b).toInt))) ∧
   WritesLater (.remu l d a b) 1 l.toNat (fun st => entryS st d
     (if st.s b = 0 then st.s a else BitVec.ofNat 32 ((st.s a).toNat % (st.s b).toNat)))) ∧
  (∀ (l : BitVec 4) (d a b : BitVec 7),
   decodeWords [wordA 0x05 l d a b] = .instr (.div l d a b) ∧ decodeWords [wordA 0x06 l d a b] = .instr (.divu l d a b) ∧
   decodeWords [wordA 0x07 l d a b] = .instr (.rem l d a b) ∧ decodeWords [wordA 0x08 l d a b] = .instr (.remu l d a b))

/-- Scalar compares (R181): p[d] is 1 when the condition holds and 0 when it does not, so that its other bits are cleared. Scalar compares with
the immediate k of R176 (R181). Predicate logic on whole 8-bit predicates (R182), and PWR (R184). The words of the majors 0x09, 0x0A and
0x0B are these instructions, and other codes are none. -/
def Obligations.ComparesAndLogicSetThePredicate : Prop :=
  (∀ (d : BitVec 3) (a b : BitVec 7),
   WritesP (.scmpEq d a b) 1 d (fun st => if st.s a = st.s b then 1 else 0) ∧
   WritesP (.scmpNe d a b) 1 d (fun st => if st.s a ≠ st.s b then 1 else 0) ∧
   WritesP (.scmpLt d a b) 1 d (fun st => if (st.s a).toInt < (st.s b).toInt then 1 else 0) ∧
   WritesP (.scmpLe d a b) 1 d (fun st => if (st.s a).toInt ≤ (st.s b).toInt then 1 else 0) ∧
   WritesP (.scmpGt d a b) 1 d (fun st => if (st.s b).toInt < (st.s a).toInt then 1 else 0) ∧
   WritesP (.scmpGe d a b) 1 d (fun st => if (st.s b).toInt ≤ (st.s a).toInt then 1 else 0) ∧
   WritesP (.scmpLtu d a b) 1 d (fun st => if (st.s a).toNat < (st.s b).toNat then 1 else 0) ∧
   WritesP (.scmpLeu d a b) 1 d (fun st => if (st.s a).toNat ≤ (st.s b).toNat then 1 else 0) ∧
   WritesP (.scmpGtu d a b) 1 d (fun st => if (st.s b).toNat < (st.s a).toNat then 1 else 0) ∧
   WritesP (.scmpGeu d a b) 1 d (fun st => if (st.s b).toNat ≤ (st.s a).toNat then 1 else 0)) ∧
  (∀ (x : Option (BitVec 25)) (d : BitVec 3) (a i : BitVec 7), ∀ k : Word,
   (x = none → k = BitVec.ofInt 32 i.toInt) → (∀ y, x = some y → k = BitVec.ofNat 32 (y.toNat * 2 ^ 7 + i.toNat)) →
   WritesP (.scmpiEq x d a i) (words [x.isSome]) d (fun st => if st.s a = k then 1 else 0) ∧
   WritesP (.scmpiNe x d a i) (words [x.isSome]) d (fun st => if st.s a ≠ k then 1 else 0) ∧
   WritesP (.scmpiLt x d a i) (words [x.isSome]) d (fun st => if (st.s a).toInt < k.toInt then 1 else 0) ∧
   WritesP (.scmpiLe x d a i) (words [x.isSome]) d (fun st => if (st.s a).toInt ≤ k.toInt then 1 else 0) ∧
   WritesP (.scmpiGt x d a i) (words [x.isSome]) d (fun st => if k.toInt < (st.s a).toInt then 1 else 0) ∧
   WritesP (.scmpiGe x d a i) (words [x.isSome]) d (fun st => if k.toInt ≤ (st.s a).toInt then 1 else 0) ∧
   WritesP (.scmpiLtu x d a i) (words [x.isSome]) d (fun st => if (st.s a).toNat < k.toNat then 1 else 0) ∧
   WritesP (.scmpiLeu x d a i) (words [x.isSome]) d (fun st => if (st.s a).toNat ≤ k.toNat then 1 else 0) ∧
   WritesP (.scmpiGtu x d a i) (words [x.isSome]) d (fun st => if k.toNat < (st.s a).toNat then 1 else 0) ∧
   WritesP (.scmpiGeu x d a i) (words [x.isSome]) d (fun st => if k.toNat ≤ (st.s a).toNat then 1 else 0)) ∧
  (∀ (d a b : BitVec 3) (r : BitVec 7),
   WritesP (.pand d a b) 1 d (fun st => st.p a &&& st.p b) ∧
   WritesP (.por d a b) 1 d (fun st => st.p a ||| st.p b) ∧
   WritesP (.pxor d a b) 1 d (fun st => st.p a ^^^ st.p b) ∧
   WritesP (.pandn d a b) 1 d (fun st => st.p a &&& ~~~(st.p b)) ∧
   WritesP (.porn d a b) 1 d (fun st => st.p a ||| ~~~(st.p b)) ∧
   WritesP (.pnot d a) 1 d (fun st => ~~~(st.p a)) ∧
   WritesP (.pmov d a) 1 d (fun st => st.p a) ∧
   WritesP (.pclr d) 1 d (fun _ => 0x00) ∧
   WritesP (.pset d) 1 d (fun _ => 0xFF) ∧
   WritesP (.pwr d r) 1 d (fun st => BitVec.ofNat 8 ((st.s r).toNat % 2 ^ 8))) ∧
  (∀ (x : Option (BitVec 25)) (p q r : BitVec 3) (a b : BitVec 7),
   Codes none none (fun fn => wordA 0x09 fn (0#4 ++ p) a b)
    [(0, .scmpEq p a b), (1, .scmpNe p a b), (2, .scmpLt p a b), (3, .scmpLe p a b), (4, .scmpGt p a b), (5, .scmpGe p a b),
     (6, .scmpLtu p a b), (7, .scmpLeu p a b), (8, .scmpGtu p a b), (9, .scmpGeu p a b)] ∧
   Codes none x (fun fn => wordA 0x0A fn (0#4 ++ p) a b)
    [(0, .scmpiEq x p a b), (1, .scmpiNe x p a b), (2, .scmpiLt x p a b), (3, .scmpiLe x p a b), (4, .scmpiGt x p a b),
     (5, .scmpiGe x p a b), (6, .scmpiLtu x p a b), (7, .scmpiLeu x p a b), (8, .scmpiGtu x p a b), (9, .scmpiGeu x p a b)] ∧
   Codes none none (fun fn => wordA 0x0B fn (0#4 ++ p) (0#4 ++ q) (0#4 ++ r))
    ([(0, .pand p q r), (1, .por p q r), (2, .pxor p q r), (3, .pandn p q r), (4, .porn p q r)] ++
     (if r = 0 then [(5, .pnot p q), (6, .pmov p q)] else []) ++ if q = 0 ∧ r = 0 then [(7, .pclr p), (8, .pset p)] else []))

/-- SEL (R183) and the moves between register kinds (R184): SRD of %args and %link sets a pair, of every other special register one scalar; CRD
reads the bundle's commons register, zero without a bundle (R76). CWR (R184, R76): the strand goes on, and the write of the commons register
waits for the end of the cycle; without a bundle nothing is written. Nothing else changes. The choices of the model in it: log entry 6
(commons writes are collected until the cycle ends). -/
def Obligations.MovesSetTheirResult : Prop :=
  (∀ (sense : BitVec 1) (p q : BitVec 3) (k : BitVec 3) (c : BitVec 5) (d a b : BitVec 7),
   WritesS (.sel sense p d a b) 1 d (fun st => if (st.p p).getLsbD 0 ≠ sense.getLsbD 0 then st.s a else st.s b) ∧
   (∃ f : Strand → Vec, WritesV (.bcasts d a) 1 d f ∧ ∀ st, ∀ i < 8, lane (f st) i = st.s a) ∧
   WritesS (.extr d a k) 1 d (fun st => lane (st.v a) k.toNat) ∧
   (∃ f : Strand → Vec, WritesV (.insr d a k) 1 d f ∧ ∀ st, ∀ i < 8, lane (f st) i = if i = k.toNat then st.s a else lane (st.v d) i) ∧
   WritesS (.movs d a) 1 d (fun st => st.s a) ∧
   WritesV (.movv d a) 1 d (fun st => st.v a) ∧
   WritesS (.prd d q) 1 d (fun st => (st.p q).zeroExtend 32) ∧
   (∀ s st, s.curStrand = some st → ∃ t, exec (.crd d c) s = .next (s.putStrand t) ∧
     st.WroteS t s.cycle (st.past 1) d (match s.bundleOf st with | some g => g.commons.getD c.toNat 0 | none => 0)) ∧
   (∀ s st, s.curStrand = some st → a ≠ 6 → a ≠ 7 → ∃ t, exec (.srd d a) s = .next (s.putStrand t) ∧
     st.WroteS t s.cycle (st.past 1) d (s.special st a.toNat)) ∧
   (∀ s st, s.curStrand = some st → a = 6 → ∃ t, exec (.srd d a) s = .next (s.putStrand t) ∧
     st.WrotePair t s.cycle (st.past 1) d (BitVec.ofNat 64 st.args.toNat)) ∧
   (∀ s st, s.curStrand = some st → a = 7 → ∃ t, exec (.srd d a) s = .next (s.putStrand t) ∧
     st.WrotePair t s.cycle (st.past 1) d (BitVec.ofNat 64 st.link.toNat))) ∧
  (∀ (d : BitVec 5) (a : BitVec 7) (s : State) (st : Strand),
   s.curStrand = some st → ∃ t, st.OnlyMoved t s.cycle (st.past 1) ∧
     (st.bundle = none → exec (.cwr d a) s = .next (s.putStrand t)) ∧
     (∀ h m, st.bundle = some (h, m) → exec (.cwr d a) s =
       .next { s.putStrand t with commonsBuf := s.commonsBuf ++ [{ bundle := h, reg := d.toNat, mid := m, val := st.s a }] }))

/-! ### Vector integers (09 R186 to R192), under an optional MSK prefix (R163) -/

/-- VALU (R186), lane by lane. VALUI (R186, R176): the same with the immediate k in every lane. The words of both majors are these instructions;
ABS and NEG have b zero, and the codes 13 and 14 of VALUI are reserved. -/
def Obligations.ValuAndValuiSetTheirLanes : Prop :=
  (∀ (mk : Option Msk) (d a b : BitVec 7),
   ElemOp 32 (.valuAdd mk d a b) mk d a b (fun x y => x + y) ∧
   ElemOp 32 (.valuSub mk d a b) mk d a b (fun x y => x - y) ∧
   ElemOp 32 (.valuMul mk d a b) mk d a b (fun x y => x * y) ∧
   ElemOp 32 (.valuMulhs mk d a b) mk d a b (fun x y => highS x y) ∧
   ElemOp 32 (.valuMulhu mk d a b) mk d a b (fun x y => highU x y) ∧
   ElemOp 32 (.valuAdds mk d a b) mk d a b (fun x y => nearestS 32 (x.toInt + y.toInt)) ∧
   ElemOp 32 (.valuSubs mk d a b) mk d a b (fun x y => nearestS 32 (x.toInt - y.toInt)) ∧
   ElemOp 32 (.valuAddus mk d a b) mk d a b (fun x y => nearestU 32 ((x.toNat : Int) + y.toNat)) ∧
   ElemOp 32 (.valuSubus mk d a b) mk d a b (fun x y => nearestU 32 ((x.toNat : Int) - y.toNat)) ∧
   ElemOp 32 (.valuMin mk d a b) mk d a b (fun x y => if x.toInt ≤ y.toInt then x else y) ∧
   ElemOp 32 (.valuMax mk d a b) mk d a b (fun x y => if x.toInt ≤ y.toInt then y else x) ∧
   ElemOp 32 (.valuMinu mk d a b) mk d a b (fun x y => if x.toNat ≤ y.toNat then x else y) ∧
   ElemOp 32 (.valuMaxu mk d a b) mk d a b (fun x y => if x.toNat ≤ y.toNat then y else x) ∧
   ElemOp 32 (.valuAbsd mk d a b) mk d a b (fun x y => BitVec.ofInt 32 ((x.toInt - y.toInt).natAbs)) ∧
   LaneOp1 (.valuAbs mk d a) mk d a (fun x => BitVec.ofInt 32 x.toInt.natAbs) ∧
   LaneOp1 (.valuNeg mk d a) mk d a (fun x => BitVec.ofInt 32 (-x.toInt))) ∧
  (∀ (mk : Option Msk) (x : Option (BitVec 25)) (d a i : BitVec 7), ∀ k : Word,
   (x = none → k = BitVec.ofInt 32 i.toInt) → (∀ y, x = some y → k = BitVec.ofNat 32 (y.toNat * 2 ^ 7 + i.toNat)) →
   LaneOpImm (.valuiAdd mk x d a i) mk x d a k (fun x y => x + y) ∧
   LaneOpImm (.valuiSub mk x d a i) mk x d a k (fun x y => x - y) ∧
   LaneOpImm (.valuiMul mk x d a i) mk x d a k (fun x y => x * y) ∧
   LaneOpImm (.valuiMulhs mk x d a i) mk x d a k (fun x y => highS x y) ∧
   LaneOpImm (.valuiMulhu mk x d a i) mk x d a k (fun x y => highU x y) ∧
   LaneOpImm (.valuiAdds mk x d a i) mk x d a k (fun x y => nearestS 32 (x.toInt + y.toInt)) ∧
   LaneOpImm (.valuiSubs mk x d a i) mk x d a k (fun x y => nearestS 32 (x.toInt - y.toInt)) ∧
   LaneOpImm (.valuiAddus mk x d a i) mk x d a k (fun x y => nearestU 32 ((x.toNat : Int) + y.toNat)) ∧
   LaneOpImm (.valuiSubus mk x d a i) mk x d a k (fun x y => nearestU 32 ((x.toNat : Int) - y.toNat)) ∧
   LaneOpImm (.valuiMin mk x d a i) mk x d a k (fun x y => if x.toInt ≤ y.toInt then x else y) ∧
   LaneOpImm (.valuiMax mk x d a i) mk x d a k (fun x y => if x.toInt ≤ y.toInt then y else x) ∧
   LaneOpImm (.valuiMinu mk x d a i) mk x d a k (fun x y => if x.toNat ≤ y.toNat then x else y) ∧
   LaneOpImm (.valuiMaxu mk x d a i) mk x d a k (fun x y => if x.toNat ≤ y.toNat then y else x) ∧
   LaneOpImm (.valuiAbsd mk x d a i) mk x d a k (fun x y => BitVec.ofInt 32 ((x.toInt - y.toInt).natAbs))) ∧
  (∀ (mk : Option Msk) (x : Option (BitVec 25)) (d a b : BitVec 7),
   Codes mk none (fun fn => wordA 0x10 fn d a b) (
    [(0, .valuAdd mk d a b), (1, .valuSub mk d a b), (2, .valuMul mk d a b), (3, .valuMulhs mk d a b), (4, .valuMulhu mk d a b),
     (5, .valuAdds mk d a b), (6, .valuSubs mk d a b), (7, .valuAddus mk d a b), (8, .valuSubus mk d a b), (9, .valuMin mk d a b),
     (10, .valuMax mk d a b), (11, .valuMinu mk d a b), (12, .valuMaxu mk d a b), (15, .valuAbsd mk d a b)] ++ if b = 0 then [(13, .valuAbs mk d a), (14, .valuNeg mk d a)] else []) ∧
   Codes mk x (fun fn => wordA 0x11 fn d a b)
    [(0, .valuiAdd mk x d a b), (1, .valuiSub mk x d a b), (2, .valuiMul mk x d a b), (3, .valuiMulhs mk x d a b),
     (4, .valuiMulhu mk x d a b), (5, .valuiAdds mk x d a b), (6, .valuiSubs mk x d a b), (7, .valuiAddus mk x d a b),
     (8, .valuiSubus mk x d a b), (9, .valuiMin mk x d a b), (10, .valuiMax mk x d a b), (11, .valuiMinu mk x d a b),
     (12, .valuiMaxu mk x d a b), (15, .valuiAbsd mk x d a b)])

/-- VMAD and the dot products (R187): the accumulator is the old destination. The words of the major are these instructions; codes 8 to 15 are
reserved. -/
def Obligations.VmadSetsItsLanes : Prop := (∀ (mk : Option Msk) (d a b : BitVec 7), ∀ n : Nat, n = words [mk.isSome] →
   WritesElems (.vmadMad mk d a b) mk n d 32 (fun st i => BitVec.ofInt 32
     ((lane (st.v d) i).toInt + (lane (st.v a) i).toInt * (lane (st.v b) i).toInt)) (fun _ => 0) ∧
   WritesElems (.vmadMsb mk d a b) mk n d 32 (fun st i => BitVec.ofInt 32
     ((lane (st.v d) i).toInt - (lane (st.v a) i).toInt * (lane (st.v b) i).toInt)) (fun _ => 0) ∧
   WritesElems (.vmadMads mk d a b) mk n d 32 (fun st i => nearestS 32
     ((lane (st.v d) i).toInt + (lane (st.v a) i).toInt * (lane (st.v b) i).toInt)) (fun _ => 0) ∧
   WritesElems (.vmadMadI16 mk d a b) mk n d 16 (fun st j => elem 16 (st.v d) j + elem 16 (st.v a) j * elem 16 (st.v b) j) (fun _ => 0) ∧
   WritesElems (.vmadMadI8 mk d a b) mk n d 8 (fun st j => elem 8 (st.v d) j + elem 8 (st.v a) j * elem 8 (st.v b) j) (fun _ => 0) ∧
   WritesElems (.vdot2 mk d a b) mk n d 32 (fun st i => BitVec.ofInt 32 ((lane (st.v d) i).toInt +
     ((List.range 2).map fun j => (elem 16 (st.v a) (2 * i + j)).toInt * (elem 16 (st.v b) (2 * i + j)).toInt).sum)) (fun _ => 0) ∧
   WritesElems (.vdot4 mk d a b) mk n d 32 (fun st i => BitVec.ofInt 32 ((lane (st.v d) i).toInt +
     ((List.range 4).map fun j => (elem 8 (st.v a) (4 * i + j)).toInt * (elem 8 (st.v b) (4 * i + j)).toInt).sum)) (fun _ => 0) ∧
   WritesElems (.vdot4u mk d a b) mk n d 32 (fun st i => BitVec.ofInt 32 ((lane (st.v d) i).toInt +
     ((List.range 4).map fun j => (((elem 8 (st.v a) (4 * i + j)).toNat * (elem 8 (st.v b) (4 * i + j)).toNat : Nat) : Int)).sum)) (fun _ => 0)) ∧
  (∀ (mk : Option Msk) (d a b : BitVec 7),
   Codes mk none (fun fn => wordA 0x12 fn d a b)
    [(0, .vmadMad mk d a b), (1, .vmadMsb mk d a b), (2, .vmadMads mk d a b), (3, .vmadMadI16 mk d a b), (4, .vmadMadI8 mk d a b),
     (5, .vdot2 mk d a b), (6, .vdot4 mk d a b), (7, .vdot4u mk d a b)])

/-- VCMP (R188). The words of the major are these instructions. -/
def Obligations.VectorComparesSetTheirBits : Prop := (∀ (mk : Option Msk) (d : BitVec 3) (a b : BitVec 7),
   CompareOp 32 (.vcmpEq mk d a b) mk d a b (fun x y => x = y) ∧
   CompareOp 32 (.vcmpNe mk d a b) mk d a b (fun x y => x ≠ y) ∧
   CompareOp 32 (.vcmpLt mk d a b) mk d a b (fun x y => x.toInt < y.toInt) ∧
   CompareOp 32 (.vcmpLe mk d a b) mk d a b (fun x y => x.toInt ≤ y.toInt) ∧
   CompareOp 32 (.vcmpGt mk d a b) mk d a b (fun x y => y.toInt < x.toInt) ∧
   CompareOp 32 (.vcmpGe mk d a b) mk d a b (fun x y => y.toInt ≤ x.toInt) ∧
   CompareOp 32 (.vcmpLtu mk d a b) mk d a b (fun x y => x.toNat < y.toNat) ∧
   CompareOp 32 (.vcmpLeu mk d a b) mk d a b (fun x y => x.toNat ≤ y.toNat) ∧
   CompareOp 32 (.vcmpGtu mk d a b) mk d a b (fun x y => y.toNat < x.toNat) ∧
   CompareOp 32 (.vcmpGeu mk d a b) mk d a b (fun x y => y.toNat ≤ x.toNat) ∧
   CompareOp 16 (.vcmpEqI16 mk d a b) mk d a b (fun x y => x = y) ∧
   CompareOp 16 (.vcmpLtI16 mk d a b) mk d a b (fun x y => x.toInt < y.toInt) ∧
   CompareOp 16 (.vcmpLtuI16 mk d a b) mk d a b (fun x y => x.toNat < y.toNat) ∧
   CompareOp 8 (.vcmpEqI8 mk d a b) mk d a b (fun x y => x = y) ∧
   CompareOp 8 (.vcmpLtI8 mk d a b) mk d a b (fun x y => x.toInt < y.toInt) ∧
   CompareOp 8 (.vcmpLtuI8 mk d a b) mk d a b (fun x y => x.toNat < y.toNat)) ∧
  (∀ (mk : Option Msk) (p : BitVec 3) (a b : BitVec 7),
   Codes mk none (fun fn => wordA 0x13 fn (0#4 ++ p) a b)
    [(0, .vcmpEq mk p a b), (1, .vcmpNe mk p a b), (2, .vcmpLt mk p a b), (3, .vcmpLe mk p a b), (4, .vcmpGt mk p a b),
     (5, .vcmpGe mk p a b), (6, .vcmpLtu mk p a b), (7, .vcmpLeu mk p a b), (8, .vcmpGtu mk p a b), (9, .vcmpGeu mk p a b),
     (10, .vcmpEqI16 mk p a b), (11, .vcmpLtI16 mk p a b), (12, .vcmpLtuI16 mk p a b), (13, .vcmpEqI8 mk p a b),
     (14, .vcmpLtI8 mk p a b), (15, .vcmpLtuI8 mk p a b)])

/-- VPERM (R189) and VSEL (R183). The words of VPERM are these instructions: where b holds k its upper bits are zero, and codes 7 to 15 are
reserved. -/
def Obligations.PermutesSetTheirLanes : Prop := (∀ (mk : Option Msk) (d a b : BitVec 7) (k p : BitVec 3) (sense : BitVec 1),
   ∀ n : Nat, n = words [mk.isSome] →
   WritesElems (.perm mk d a b) mk n d 32 (fun st i => lane (st.v a) ((lane (st.v b) i).toNat % 8)) (fun _ => 0) ∧
   WritesElems (.shuf mk d a b) mk n d 8 (fun st j => if (elem 8 (st.v b) j).getLsbD 7 then 0
     else elem 8 (st.v a) ((elem 8 (st.v b) j).toNat % 32)) (fun _ => 0) ∧
   WritesElems (.rot mk d a k) mk n d 32 (fun st i => lane (st.v a) ((i + k.toNat) % 8)) (fun _ => 0) ∧
   WritesElems (.ext mk d a k) mk n d 32 (fun st i => if i + k.toNat ≤ 7 then lane (st.v a) (i + k.toNat)
     else lane (st.v d) (i + k.toNat - 8)) (fun _ => 0) ∧
   WritesElems (.ins mk d a k) mk n d 32 (fun st i => if i = k.toNat then lane (st.v a) 0 else lane (st.v d) i) (fun _ => 0) ∧
   WritesElems (.zip mk d a b) mk n d 32 (fun st i => if i % 2 = 0 then lane (st.v a) (i / 2) else lane (st.v b) (i / 2)) (fun _ => 0) ∧
   WritesElems (.unzip mk d a b) mk n d 32 (fun st i => if i < 4 then lane (st.v a) (2 * i) else lane (st.v b) (2 * (i - 4))) (fun _ => 0) ∧
   WritesElems (.vsel mk sense p d a b) mk n d 32 (fun st i =>
     if (st.p p).getLsbD i ≠ sense.getLsbD 0 then lane (st.v a) i else lane (st.v b) i) (fun _ => 0)) ∧
  (∀ (mk : Option Msk) (d a b : BitVec 7) (k : BitVec 3), k = b.extractLsb' 0 3 →
   Codes mk none (fun fn => wordA 0x14 fn d a b) ([(0, .perm mk d a b), (1, .shuf mk d a b), (5, .zip mk d a b), (6, .unzip mk d a b)] ++
    if b.toNat < 8 then [(2, .rot mk d a k), (3, .ext mk d a k), (4, .ins mk d a k)] else []))

/-- VPACK (R190): packed elements of 16 bits when the width bit is 0, of 8 bits when it is 1. The words of the major are these instructions, the
width bit above the code. -/
def Obligations.VpackSetsItsElements : Prop := (∀ (mk : Option Msk) (d a b : BitVec 7),
   ElemOp 16 (.vpackAdd mk 0 d a b) mk d a b (fun x y => x + y) ∧
   ElemOp 16 (.vpackSub mk 0 d a b) mk d a b (fun x y => x - y) ∧
   ElemOp 16 (.vpackAdds mk 0 d a b) mk d a b (fun x y => nearestS 16 (x.toInt + y.toInt)) ∧
   ElemOp 16 (.vpackSubs mk 0 d a b) mk d a b (fun x y => nearestS 16 (x.toInt - y.toInt)) ∧
   ElemOp 16 (.vpackAddus mk 0 d a b) mk d a b (fun x y => nearestU 16 ((x.toNat : Int) + y.toNat)) ∧
   ElemOp 16 (.vpackSubus mk 0 d a b) mk d a b (fun x y => nearestU 16 ((x.toNat : Int) - y.toNat)) ∧
   ElemOp 16 (.vpackMin mk 0 d a b) mk d a b (fun x y => if x.toInt ≤ y.toInt then x else y) ∧
   ElemOp 16 (.vpackMax mk 0 d a b) mk d a b (fun x y => if x.toInt ≤ y.toInt then y else x) ∧
   ElemOp 8 (.vpackAdd mk 1 d a b) mk d a b (fun x y => x + y) ∧
   ElemOp 8 (.vpackSub mk 1 d a b) mk d a b (fun x y => x - y) ∧
   ElemOp 8 (.vpackAdds mk 1 d a b) mk d a b (fun x y => nearestS 8 (x.toInt + y.toInt)) ∧
   ElemOp 8 (.vpackSubs mk 1 d a b) mk d a b (fun x y => nearestS 8 (x.toInt - y.toInt)) ∧
   ElemOp 8 (.vpackAddus mk 1 d a b) mk d a b (fun x y => nearestU 8 ((x.toNat : Int) + y.toNat)) ∧
   ElemOp 8 (.vpackSubus mk 1 d a b) mk d a b (fun x y => nearestU 8 ((x.toNat : Int) - y.toNat)) ∧
   ElemOp 8 (.vpackMin mk 1 d a b) mk d a b (fun x y => if x.toInt ≤ y.toInt then x else y) ∧
   ElemOp 8 (.vpackMax mk 1 d a b) mk d a b (fun x y => if x.toInt ≤ y.toInt then y else x)) ∧
  (∀ (mk : Option Msk) (c : BitVec 1) (d a b : BitVec 7),
   (∀ w, w = (fun f : BitVec 3 => (mk.map mskWord).toList ++ [wordA 0x15 (c ++ f) d a b]) →
    decodeWords (w 0) = .instr (.vpackAdd mk c d a b) ∧
    decodeWords (w 1) = .instr (.vpackSub mk c d a b) ∧
    decodeWords (w 2) = .instr (.vpackAdds mk c d a b) ∧
    decodeWords (w 3) = .instr (.vpackSubs mk c d a b) ∧
    decodeWords (w 4) = .instr (.vpackAddus mk c d a b) ∧
    decodeWords (w 5) = .instr (.vpackSubus mk c d a b) ∧
    decodeWords (w 6) = .instr (.vpackMin mk c d a b) ∧
    decodeWords (w 7) = .instr (.vpackMax mk c d a b)))

/-- The integer reductions of VRED (R191): the result over all eight lanes goes to lane 0, and lanes 1 to 7 are written zero. -/
def Obligations.ReductionsSetLaneZero : Prop := ∀ (mk : Option Msk) (d a : BitVec 7),
  ReduceOp (.redadd mk d a) mk d a (fun x y => x + y) ∧
  ReduceOp (.redmin mk d a) mk d a (fun x y => if x.toInt ≤ y.toInt then x else y) ∧
  ReduceOp (.redmax mk d a) mk d a (fun x y => if x.toInt ≤ y.toInt then y else x) ∧
  ReduceOp (.redminu mk d a) mk d a (fun x y => if x.toNat ≤ y.toNat then x else y) ∧
  ReduceOp (.redmaxu mk d a) mk d a (fun x y => if x.toNat ≤ y.toNat then y else x) ∧
  ReduceOp (.redand mk d a) mk d a (fun x y => x &&& y) ∧
  ReduceOp (.redor mk d a) mk d a (fun x y => x ||| y) ∧
  ReduceOp (.redxor mk d a) mk d a (fun x y => x ^^^ y)

/-- VBIT (R192): shifts of lanes take the low five bits of their count, shifts of 16-bit elements the low four. The words of the major are these
instructions; a unary one has b zero, and codes 14 and 15 are reserved. -/
def Obligations.VbitSetsItsLanes : Prop := (∀ (mk : Option Msk) (d a b : BitVec 7),
   ElemOp 32 (.vbitAnd mk d a b) mk d a b (fun x y => x &&& y) ∧
   ElemOp 32 (.vbitOr mk d a b) mk d a b (fun x y => x ||| y) ∧
   ElemOp 32 (.vbitXor mk d a b) mk d a b (fun x y => x ^^^ y) ∧
   ElemOp 32 (.vbitAndn mk d a b) mk d a b (fun x y => x &&& ~~~y) ∧
   LaneOp1 (.vbitNot mk d a) mk d a (fun x => ~~~x) ∧
   ElemOp 32 (.vbitShl mk d a b) mk d a b (fun x y => BitVec.ofNat 32 (x.toNat * 2 ^ (y.toNat % 32))) ∧
   ElemOp 32 (.vbitShr mk d a b) mk d a b (fun x y => BitVec.ofNat 32 (x.toNat / 2 ^ (y.toNat % 32))) ∧
   ElemOp 32 (.vbitSar mk d a b) mk d a b (fun x y => BitVec.ofInt 32 (x.toInt / (2 ^ (y.toNat % 32) : Nat))) ∧
   ElemOp 16 (.vbitShlI16 mk d a b) mk d a b (fun x y => BitVec.ofNat 16 (x.toNat * 2 ^ (y.toNat % 16))) ∧
   ElemOp 16 (.vbitShrI16 mk d a b) mk d a b (fun x y => BitVec.ofNat 16 (x.toNat / 2 ^ (y.toNat % 16))) ∧
   ElemOp 16 (.vbitSarI16 mk d a b) mk d a b (fun x y => BitVec.ofInt 16 (x.toInt / (2 ^ (y.toNat % 16) : Nat))) ∧
   LaneOp1 (.vbitPopc mk d a) mk d a (fun x => BitVec.ofNat 32 ((List.range 32).countP fun k => x.getLsbD k)) ∧
   LaneOp1 (.vbitClz mk d a) mk d a (fun x => BitVec.ofNat 32 (((List.range 32).takeWhile fun k => !x.getLsbD (31 - k)).length)) ∧
   (∃ f : Word → Word, LaneOp1 (.vbitBrev mk d a) mk d a f ∧ ∀ x, ∀ k < 32, (f x).getLsbD k = x.getLsbD (31 - k))) ∧
  (∀ (mk : Option Msk) (d a b : BitVec 7),
   Codes mk none (fun fn => wordA 0x17 fn d a b) (
    [(0, .vbitAnd mk d a b), (1, .vbitOr mk d a b), (2, .vbitXor mk d a b), (3, .vbitAndn mk d a b), (5, .vbitShl mk d a b),
     (6, .vbitShr mk d a b), (7, .vbitSar mk d a b), (8, .vbitShlI16 mk d a b), (9, .vbitShrI16 mk d a b), (10, .vbitSarI16 mk d a b)] ++ if b = 0 then
    [(4, .vbitNot mk d a), (11, .vbitPopc mk d a), (12, .vbitClz mk d a), (13, .vbitBrev mk d a)] else []))

/-! ### Floating point (10 R199 to R214), under an optional MSK prefix (R163) -/

/-- FALU (R201 to R203): each operation is computed exactly and rounded once in FPMODE.RM; flags of active lanes are ORed into FPFLAGS. FALU16
(R214): 16 elements of F16 when the type bit is 0, of BF16 when it is 1. -/
def Obligations.FaluAndFalu16SetTheirElements : Prop :=
  (∀ (mk : Option Msk) (d a b : BitVec 7),
   FloatOp2 .f32 (.fadd mk d a b) mk d a b FFmt.f32.add ∧
   FloatOp2 .f32 (.fsub mk d a b) mk d a b FFmt.f32.sub ∧
   FloatOp2 .f32 (.fmul mk d a b) mk d a b FFmt.f32.mul ∧
   FloatOp2 .f32 (.fmin mk d a b) mk d a b (fun _ => FFmt.f32.minMax false) ∧
   FloatOp2 .f32 (.fmax mk d a b) mk d a b (fun _ => FFmt.f32.minMax true) ∧
   FloatOp1 .f32 (.fabs mk d a) mk d a FFmt.f32.abs ∧
   FloatOp1 .f32 (.fneg mk d a) mk d a FFmt.f32.negate ∧
   FloatOp2 .f32 (.fsgn mk d a b) mk d a b (fun _ => FFmt.f32.copySign)) ∧
  (∀ (mk : Option Msk) (d a b : BitVec 7), ∀ t : BitVec 1, ∀ f : FFmt,
   (t = 0 → f = .f16) → (t = 1 → f = .bf16) →
   FloatOp2 f (.falu16Fadd mk t d a b) mk d a b f.add ∧
   FloatOp2 f (.falu16Fsub mk t d a b) mk d a b f.sub ∧
   FloatOp2 f (.falu16Fmul mk t d a b) mk d a b f.mul ∧
   FloatOp2 f (.falu16Fmin mk t d a b) mk d a b (fun _ => f.minMax false) ∧
   FloatOp2 f (.falu16Fmax mk t d a b) mk d a b (fun _ => f.minMax true) ∧
   FloatOp3 f (.falu16Fma mk t d a b) mk d a b (f.fma false false) ∧
   FloatOp1 f (.falu16Fabs mk t d a) mk d a f.abs ∧
   FloatOp1 f (.falu16Fneg mk t d a) mk d a f.negate)

/-- FMAD (R204): the product and the accumulator v[d] are added exactly and rounded once. -/
def Obligations.FmadSetsItsLanes : Prop := ∀ (mk : Option Msk) (d a b : BitVec 7),
  FloatOp3 .f32 (.fma mk d a b) mk d a b (FFmt.f32.fma false false) ∧
  FloatOp3 .f32 (.fms mk d a b) mk d a b (FFmt.f32.fma false true) ∧
  FloatOp3 .f32 (.fnma mk d a b) mk d a b (FFmt.f32.fma true false) ∧
  FloatOp3 .f32 (.fnms mk d a b) mk d a b (FFmt.f32.fma true true)

/-- FCMP (R205). -/
def Obligations.FloatComparesSetTheirBits : Prop := ∀ (mk : Option Msk) (d : BitVec 3) (a b : BitVec 7),
  FloatCompare .f32 .eq (.fcmpF32Eq mk d a b) mk d a b ∧
  FloatCompare .f32 .ne (.fcmpF32Ne mk d a b) mk d a b ∧
  FloatCompare .f32 .lt (.fcmpF32Lt mk d a b) mk d a b ∧
  FloatCompare .f32 .le (.fcmpF32Le mk d a b) mk d a b ∧
  FloatCompare .f32 .gt (.fcmpF32Gt mk d a b) mk d a b ∧
  FloatCompare .f32 .ge (.fcmpF32Ge mk d a b) mk d a b ∧
  FloatCompare .f32 .unord (.fcmpF32Unord mk d a b) mk d a b ∧
  FloatCompare .f32 .ord (.fcmpF32Ord mk d a b) mk d a b ∧
  FloatCompare .f16 .eq (.fcmpF16Eq mk d a b) mk d a b ∧
  FloatCompare .f16 .lt (.fcmpF16Lt mk d a b) mk d a b ∧
  FloatCompare .f16 .le (.fcmpF16Le mk d a b) mk d a b ∧
  FloatCompare .f16 .unord (.fcmpF16Unord mk d a b) mk d a b ∧
  FloatCompare .bf16 .eq (.fcmpBf16Eq mk d a b) mk d a b ∧
  FloatCompare .bf16 .lt (.fcmpBf16Lt mk d a b) mk d a b ∧
  FloatCompare .bf16 .le (.fcmpBf16Le mk d a b) mk d a b ∧
  FloatCompare .bf16 .unord (.fcmpBf16Unord mk d a b) mk d a b

/-- FTRANS and FDIV (R206, R208): long-latency writes whose flags arrive with the result (R200). FRND and FCLASS (R211, R212): elements of F32,
F16 or BF16 by the format code. The choices of the model in it: log entries 8 (the FTRANS results that R206 and R207 leave open), 9 (when
the data arrive). -/
def Obligations.FloatFunctionsSetTheirElements : Prop :=
  (∀ (mk : Option Msk) (l : BitVec 4) (d a b : BitVec 7),
   FloatLater (.rcp mk l d a) mk l d (fun st j => ftransF32 0 st.roundingMode (lane (st.v a) j)) ∧
   FloatLater (.rsq mk l d a) mk l d (fun st j => ftransF32 1 st.roundingMode (lane (st.v a) j)) ∧
   FloatLater (.sqrt mk l d a) mk l d (fun st j => ftransF32 2 st.roundingMode (lane (st.v a) j)) ∧
   FloatLater (.exp2 mk l d a) mk l d (fun st j => ftransF32 3 st.roundingMode (lane (st.v a) j)) ∧
   FloatLater (.log2 mk l d a) mk l d (fun st j => ftransF32 4 st.roundingMode (lane (st.v a) j)) ∧
   FloatLater (.sinpi mk l d a) mk l d (fun st j => ftransF32 5 st.roundingMode (lane (st.v a) j)) ∧
   FloatLater (.cospi mk l d a) mk l d (fun st j => ftransF32 6 st.roundingMode (lane (st.v a) j)) ∧
   FloatLater (.tanh mk l d a) mk l d (fun st j => ftransF32 7 st.roundingMode (lane (st.v a) j)) ∧
   FloatLater (.fdiv mk l d a b) mk l d (fun st j => FFmt.f32.div st.roundingMode (st.pat 32 a j) (st.pat 32 b j))) ∧
  (∀ (mk : Option Msk) (d a t : BitVec 7) (r : BitVec 4), ∀ f : FFmt,
   (t = 0 ∧ f = .f32) ∨ (t = 1 ∧ f = .f16) ∨ (t = 2 ∧ f = .bf16) →
   FloatOp1 f (.fclass mk d a t) mk d a (fun x => (f.classBit x, 0)) ∧
   ∀ m : Strand → RMode, (r = 0 ∧ m = fun _ => .rne) ∨ (r = 1 ∧ m = fun _ => .rtz) ∨ (r = 2 ∧ m = fun _ => .rdn) ∨
     (r = 3 ∧ m = fun _ => .rup) ∨ (r = 5 ∧ m = Strand.roundingMode) →
     FloatOp f.width (256 / f.width) (.frnd mk r d a t) mk d (fun st j => f.integral (m st) (st.pat f.width a j)))

/-- FDOT (R213): the accumulator is one more term of an exact sum rounded once; the integer forms saturate. -/
def Obligations.DotProductsSetTheirLanes : Prop := ∀ (mk : Option Msk) (d a b : BitVec 7),
  (∀ f i, (f = FFmt.f16 ∧ i = .dot2F16 mk d a b) ∨ (f = .bf16 ∧ i = .dot2Bf16 mk d a b) ∨ (f = .e5m2 ∧ i = .dot4E5m2 mk d a b) ∨
      (f = .e4m3 ∧ i = .dot4E4m3 mk d a b) →
    FloatOp 32 8 i mk d fun st l => FFmt.f32.deliver st.roundingMode false (exactSum st.roundingMode (FFmt.f32.ex (st.pat 32 d l) ::
      (List.range (32 / f.width)).map fun j =>
        (f.ex (st.pat f.width a (32 / f.width * l + j))).mul (f.ex (st.pat f.width b (32 / f.width * l + j)))))) ∧
  WritesElems (.dot4I8 mk d a b) mk (words [mk.isSome]) d 32 (fun st l => nearestS 32 ((lane (st.v d) l).toInt +
    ((List.range 4).map fun j => (elem 8 (st.v a) (4 * l + j)).toInt * (elem 8 (st.v b) (4 * l + j)).toInt).sum)) (fun _ => 0) ∧
  WritesElems (.dot8I4 mk d a b) mk (words [mk.isSome]) d 32 (fun st l => nearestS 32 ((lane (st.v d) l).toInt +
    ((List.range 8).map fun j => (elem 4 (st.v a) (8 * l + j)).toInt * (elem 4 (st.v b) (8 * l + j)).toInt).sum)) (fun _ => 0)

/-- The float reductions of VRED (R191): the tree of R107 in RNE over lanes 0 to 7, to lane 0; lanes 1 to 7 zero. -/
def Obligations.FloatReductionsSetLaneZero : Prop := ∀ (mk : Option Msk) (d a : BitVec 7),
  FloatOp 32 1 (.redaddF32 mk d a) mk d (fun st _ => treeSum ((List.range 8).map (st.pat 32 a))) ∧
  FloatOp 32 1 (.redminF32 mk d a) mk d (fun st _ => treeMinMax false ((List.range 8).map (st.pat 32 a))) ∧
  FloatOp 32 1 (.redmaxF32 mk d a) mk d (fun st _ => treeMinMax true ((List.range 8).map (st.pat 32 a)))

/-- FCVT (R209) in every rounding but SR: n = 256 / max(ws, wd) elements, packed at the bottom of v[d], zeros above. FCVT under SR (R98, R209),
to F16, BF16, E5M2, E4M3 or E2M1: each inexact element in an active lane that is not beyond the largest finite magnitude takes one draw of
its core's generator, in ascending order; the generator keeps the last state, and the draws are counted (event 18). The choices of the model
in it: log entry 1 (the order in which strands of a core draw). -/
def Obligations.FcvtSetsItsElements : Prop :=
  (∀ (mk : Option Msk) (t c : BitVec 4) (d a : BitVec 7) (r : BitVec 3), ∀ w : BitVec 4 → Nat,
   (∀ x, w x = if x = 0 ∨ x = 6 ∨ x = 7 then 32 else if x = 1 ∨ x = 2 ∨ x = 8 ∨ x = 9 then 16 else if x = 5 then 4 else 8) → r ≠ 4 →
   ∀ m : Strand → RMode, (r = 0 ∨ r = 6 → m = fun _ => .rne) → (r = 1 → m = fun _ => .rtz) → (r = 2 → m = fun _ => .rdn) →
     (r = 3 → m = fun _ => .rup) → (r = 5 ∨ r = 7 → m = Strand.roundingMode) → t.toNat ≤ 11 → c.toNat ≤ 11 →
     FloatOp (w t) (256 / max (w c) (w t)) (.fcvt mk t d a c r) mk d fun st j =>
       cvtElem t (m st) (decide (6 ≤ r.toNat)) (cvtSource c (st.pat (w c) a j))) ∧
  (∀ (mk : Option Msk) (t c : BitVec 4) (d a : BitVec 7) (s : State) (st : Strand),
   s.curStrand = some st → t.toNat ≤ 5 → c.toNat ≤ 11 → ∀ x : Nat → FVal, ∀ need : Nat → Bool, ∀ n : Nat, ∀ seed : Nat → Word,
   x = (fun j => cvtSource c (st.pat (cvtWidth c) a j)) → n = 256 / max (cvtWidth c) (cvtWidth t) →
   need = (fun j => st.runs mk (cvtWidth t * j / 32) && (fmtOf t).draws (x j).exact) →
   seed = drawSeed need (s.core st.at_.die st.at_.core).srseed →
   ∃ y u, st.WroteV u s.cycle (st.past (words [mk.isSome])) d y
       (st.raised mk (cvtWidth t) (fun j => cvtElem t (.sr ((seed (j + 1)).toNat / 2 ^ 16)) false (x j)) n) ∧
     (∀ j < 256 / cvtWidth t, elem (cvtWidth t) y j = if st.runs mk (cvtWidth t * j / 32) then
       (if j < n then BitVec.ofNat _ (cvtElem t (.sr ((seed (j + 1)).toNat / 2 ^ 16)) false (x j)).1 else 0)
       else elem (cvtWidth t) (st.v d) j) ∧
     exec (.fcvt mk t d a c 4) s = .next ((if (List.range n).all fun j => !need j then s
       else (s.setCore st.at_.die st.at_.core { s.core st.at_.die st.at_.core with srseed := seed n }).note st.at_.die (some st.at_.core) 18
         ((List.range n).countP need) st.task).putStrand u))

/-! ### Control transfer and strand control (09 R193 to R197) -/

/-- BR, BRP, CALL (R193, R162): the target is pc + 4 × offset modulo 2^57; the offset is sext(off21) without a prefix and sext(imm25 × 2^21 +
off21) under an IMM prefix. The words of the three majors are these instructions; the code of BR and CALL is 0. -/
def Obligations.BranchesSetThePc : Prop := (∀ (x : Option (BitVec 25)) (o : BitVec 21) (z : BitVec 1) (p : BitVec 3), ∀ k : Int,
   (x = none → k = o.toInt) → (∀ y, x = some y → k = y.toInt * 2 ^ 21 + o.toNat) →
   ∀ target : Strand → Addr, (∀ st, target st = BitVec.ofInt 57 (st.pc.toNat + 4 * k)) →
   Effect (.br x o) (fun s st t => st.OnlyMoved t s.cycle (target st)) ∧
   Effect (.brp x z p o) (fun s st t => st.OnlyMoved t s.cycle
     (if (st.p p).getLsbD 0 ≠ z.getLsbD 0 then target st else st.past (words [x.isSome]))) ∧
   Effect (.call x o) (fun s st t => st.Linked t s.cycle (target st) (st.past (words [x.isSome])))) ∧
  (∀ (x : Option (BitVec 25)) (o : BitVec 21) (c : BitVec 1) (q : BitVec 3),
   Codes none x (fun fn => wordJ 0x30 fn o) [(0, .br x o)] ∧ Codes none x (fun fn => wordJ 0x32 fn o) [(0, .call x o)] ∧
   decodeWords ((x.map immWord).toList ++ [wordJ 0x31 (c ++ q) o]) = .instr (.brp x c q o))

/-- JR, JALR and RET (R194): pc + sext(s[a]), %link, or the address in a pair; a target offset or address with bits [1:0] not zero raises
MISALIGN in place of the jump, with the target in TVAL (R362). -/
def Obligations.JumpsSetThePc : Prop := ∀ a : BitVec 7, ∀ target : Strand → Addr,
  (∀ st, target st = BitVec.ofInt 57 (st.pc.toNat + (st.s a).toInt)) →
  EffectWhen (.jr a) (fun _ st => (st.s a).toNat % 4 = 0) (fun s st t => st.OnlyMoved t s.cycle (target st)) ∧
  EffectWhen (.jalr a) (fun _ st => (st.s a).toNat % 4 = 0) (fun s st t => st.Linked t s.cycle (target st) (st.past 1)) ∧
  Effect .ret (fun s st t => st.OnlyMoved t s.cycle st.link) ∧
  EffectWhen (.retPair a) (fun _ st => (st.pair a).toNat % 4 = 0)
    (fun s st t => st.OnlyMoved t s.cycle (BitVec.ofNat 57 (st.pair a).toNat)) ∧
  (∀ s st, s.curStrand = some st → (st.s a).toNat % 4 ≠ 0 →
    exec (.jr a) s = .next (s.raise st (1 <<< 8) (BitVec.ofNat 64 (target st).toNat)) ∧
    exec (.jalr a) s = .next (s.raise st (1 <<< 8) (BitVec.ofNat 64 (target st).toNat))) ∧
  (∀ s st, s.curStrand = some st → (st.pair a).toNat % 4 ≠ 0 →
    exec (.retPair a) s = .next (s.raise st (1 <<< 8) (BitVec.ofNat 64 ((st.pair a).toNat % 2 ^ 57))))

/-- RCV, YIELD and SLEEP (R196, R197, R42): blocking points. A strand without a bundle passes RCV at once; YIELD and SLEEP of 0 wait 16 cycles,
SLEEP of n waits n. The choices of the model in it: log entry 23 (which instructions close the windows). -/
def Obligations.WaitsCloseTheWindows : Prop := ∀ a : BitVec 7,
  EffectWhen .rcv (fun _ st => st.bundle = none) (fun s st t => st.closeWindows.OnlyMoved t s.cycle (st.past 1)) ∧
  EffectWhen .rcv (fun _ st => st.bundle ≠ none) (fun s st t => t = st.standsAt s.cycle 1 .rcv) ∧
  Effect .yield (fun s st t => t = st.standsAt s.cycle 1 (.sleep true (s.cycle + 16))) ∧
  EffectWhen (.sleep a) (fun _ st => st.closeWindows.s a = 0) (fun s st t => t = st.standsAt s.cycle 1 (.sleep true (s.cycle + 16))) ∧
  EffectWhen (.sleep a) (fun _ st => st.closeWindows.s a ≠ 0)
    (fun s st t => t = st.standsAt s.cycle 1 (.sleep false (s.cycle + (st.closeWindows.s a).toNat)))

/-- EXIT (R36, R64, R197): the strand leaves its slot, its writes in flight are discarded, and its flags enter its task's EXC. -/
def Obligations.ExitFreesTheSlot : Prop := ∀ (s : State) (st : Strand), s.curStrand = some st →
  ∃ t, exec .exit s = .next t ∧
    t = { s with strands := t.strands, hg := t.hg, cores := t.cores, bundles := t.bundles } ∧
    t.strands.map Strand.at_ = (s.strands.map Strand.at_).filter (· ≠ st.at_) ∧
    t.hg = { s.hg with tasks := s.hg.tasks.map fun k =>
      if k.key = st.task then { k with exc := k.exc ||| st.fpflags, strandsLeft := k.strandsLeft - 1 } else k } ∧
    (st.bundle = none → t.strands = s.strands.filter (fun x => x.at_ ≠ st.at_) ∧ t.bundles = s.bundles)

/-! ### Memory (11 R215 to R221). The effective address is the pair plus the offset of the IMM prefix, modulo 2^57 (R162, R215). -/

/-- LDS and LDV (R216, R217): bytes zero-extended; a masked LDV loads each active lane within n by itself and clears the active lanes above. A
weak LDV is stated where no entry of the reuse table has its address (R84), and several accesses where the caches have room for their lines
(R17, R126). The choices of the model in it: log entries 9 (when the data arrive), 11 (which lines a cache takes), 22 (a load that
waited). -/
def Obligations.LoadsSetTheirDestination : Prop := ∀ (mk : Msk) (x : Option (BitVec 25)) (l : BitVec 4) (d a : BitVec 7)
  (z : BitVec 2) (q : BitVec 1) (c h : BitVec 2), ∀ k : Int, (x = none → k = 0) → (∀ y, x = some y → k = y.toInt) →
  ∀ ea : Strand → Nat, (∀ st, (ea st : Int) = ((st.pair a).toNat + k) % 2 ^ 57) →
  Loads (.lds x l d a z q c h) (words [x.isSome]) l.toNat q c (fun _ _ => True) (fun st => [(0, ea st, 2 ^ z.toNat, 0)])
    (fun st v => if z = 3 then entryPair st d (BitVec.ofNat 64 (v 0)) else entryS st d (BitVec.ofNat 32 (v 0))) ∧
  Loads (.ldv none x l d a z q c h) (words [x.isSome]) l.toNat q c
    (fun s st => q = 0 → ∀ e ∈ (s.core st.at_.die st.at_.core).reuse, e.key.addr ≠ ea st)
    (fun st => [(0, ea st, 32 / 2 ^ z.toNat, 0)]) (fun st v => entryV st d (BitVec.ofNat 256 (v 0)) 0) ∧
  Loads (.ldv (some mk) x l d a z q c h) (words [true, x.isSome]) l.toNat q c
    (fun s st => q = 0 → ∀ e ∈ (s.core st.at_.die st.at_.core).reuse, e.key.addr ≠ ea st)
    (fun st => (List.range 8).filterMap fun i =>
      if st.runs (some mk) i ∧ 4 * i < 32 / 2 ^ z.toNat then some (i, (ea st + 4 * i) % 2 ^ 57, 4, 0) else none)
    (fun st v => entryV st d (ofLanes fun i =>
      if st.runs (some mk) i then (if 4 * i < 32 / 2 ^ z.toNat then BitVec.ofNat 32 (v i) else 0) else lane (st.v d) i) 0)

/-- STS and STV (R216, R217). -/
def Obligations.StoresWriteTheirBytes : Prop := ∀ (mk : Msk) (x : Option (BitVec 25)) (d a : BitVec 7)
  (z : BitVec 2) (q : BitVec 1) (c h : BitVec 2), ∀ k : Int, (x = none → k = 0) → (∀ y, x = some y → k = y.toInt) →
  ∀ ea : Strand → Nat, (∀ st, (ea st : Int) = ((st.pair a).toNat + k) % 2 ^ 57) →
  Stores (.sts x d a z q c h) (words [x.isSome]) q c (fun st => [(0, ea st, 2 ^ z.toNat,
    if z = 3 then (st.sNext d).toNat * 2 ^ 32 + (st.s d).toNat else (st.s d).toNat % 2 ^ (8 * 2 ^ z.toNat))]) ∧
  Stores (.stv none x d a z q c h) (words [x.isSome]) q c
    (fun st => [(0, ea st, 32 / 2 ^ z.toNat, (st.v d).toNat % 2 ^ (8 * (32 / 2 ^ z.toNat)))]) ∧
  Stores (.stv (some mk) x d a z q c h) (words [true, x.isSome]) q c
    (fun st => (List.range 8).filterMap fun i =>
      if st.runs (some mk) i ∧ 4 * i < 32 / 2 ^ z.toNat then some (i, (ea st + 4 * i) % 2 ^ 57, 4, (lane (st.v d) i).toNat) else none)

/-- LDG and STG (R218): eight lanes, ascending; the field m is that of the IMM prefix, and 0x40 without one; SIZE 3 is reserved. The choices of
the model in it: log entries 9 (when the data arrive), 11 (which lines a cache takes), 22 (a load that waited). -/
def Obligations.GathersAndScattersGoLaneByLane : Prop := ∀ (mk : Option Msk) (x : Option (BitVec 25)) (l : BitVec 4) (d a b : BitVec 7)
  (z : BitVec 2) (q : BitVec 1) (c h : BitVec 2), z ≠ 3 →
  (x = none → z = 2 ∧ q = 0 ∧ c = 0 ∧ h = 0) →
  (∀ y, x = some y → y.toNat % 128 = z.toNat * 32 + q.toNat * 16 + c.toNat * 4 + h.toNat) →
  ∀ at_ : Strand → Nat → Nat, (∀ st i, (at_ st i : Int) = ((st.pair a).toNat + (lane (st.v b) i).toInt) % 2 ^ 57) →
  Loads (.ldg mk x l d a b) (words [mk.isSome, x.isSome]) l.toNat q c (fun _ _ => True)
    (fun st => (List.range 8).filterMap fun i => if st.runs mk i then some (i, at_ st i, 2 ^ z.toNat, 0) else none)
    (fun st v => entryV st d (ofLanes fun i => if st.runs mk i then BitVec.ofNat 32 (v i) else lane (st.v d) i) 0) ∧
  Stores (.stg mk x d a b) (words [mk.isSome, x.isSome]) q c
    (fun st => (List.range 8).filterMap fun i =>
      if st.runs mk i then some (i, at_ st i, 2 ^ z.toNat, (lane (st.v d) i).toNat % 2 ^ (8 * 2 ^ z.toNat)) else none)

/-- ATOM (R220): the old value goes to s[d], the new one to memory; a CAS whose compare fails writes nothing. ATOMV (R221): 64 or 128 bits of
v[d]; the old value goes to v[d] with zeros above. The choices of the model in it: log entries 9 (when the data arrive), 22 (an atomic that
waited). -/
def Obligations.AtomicsReadAndWriteAtOnce : Prop :=
  (∀ (x : Option (BitVec 25)) (l : BitVec 4) (d a : BitVec 7)
   (q : BitVec 1) (c : BitVec 2), ∀ k : Int, (x = none → k = 0) → (∀ y, x = some y → k = y.toInt) →
   ∀ ea : Strand → Nat, (∀ st, (ea st : Int) = ((st.pair a).toNat + k) % 2 ^ 57) →
   Updates (.atomAdd x l d a q c) (words [x.isSome]) l.toNat q c 4 ea
     (fun st o => let x := (st.s d).toNat; some ((o + x) % 2 ^ 32))
     (fun st o => entryS st d (BitVec.ofNat 32 o)) ∧
   Updates (.atomMin x l d a q c) (words [x.isSome]) l.toNat q c 4 ea
     (fun st o => let x := (st.s d).toNat; some (if (BitVec.ofNat 32 o).toInt ≤ (BitVec.ofNat 32 x).toInt then o else x))
     (fun st o => entryS st d (BitVec.ofNat 32 o)) ∧
   Updates (.atomMax x l d a q c) (words [x.isSome]) l.toNat q c 4 ea
     (fun st o => let x := (st.s d).toNat; some (if (BitVec.ofNat 32 o).toInt ≤ (BitVec.ofNat 32 x).toInt then x else o))
     (fun st o => entryS st d (BitVec.ofNat 32 o)) ∧
   Updates (.atomMinu x l d a q c) (words [x.isSome]) l.toNat q c 4 ea
     (fun st o => let x := (st.s d).toNat; some (min o x))
     (fun st o => entryS st d (BitVec.ofNat 32 o)) ∧
   Updates (.atomMaxu x l d a q c) (words [x.isSome]) l.toNat q c 4 ea
     (fun st o => let x := (st.s d).toNat; some (max o x))
     (fun st o => entryS st d (BitVec.ofNat 32 o)) ∧
   Updates (.atomAnd x l d a q c) (words [x.isSome]) l.toNat q c 4 ea
     (fun st o => let x := (st.s d).toNat; some (o &&& x))
     (fun st o => entryS st d (BitVec.ofNat 32 o)) ∧
   Updates (.atomOr x l d a q c) (words [x.isSome]) l.toNat q c 4 ea
     (fun st o => let x := (st.s d).toNat; some (o ||| x))
     (fun st o => entryS st d (BitVec.ofNat 32 o)) ∧
   Updates (.atomXor x l d a q c) (words [x.isSome]) l.toNat q c 4 ea
     (fun st o => let x := (st.s d).toNat; some (o ^^^ x))
     (fun st o => entryS st d (BitVec.ofNat 32 o)) ∧
   Updates (.atomXchg x l d a q c) (words [x.isSome]) l.toNat q c 4 ea
     (fun st _ => some (st.s d).toNat)
     (fun st o => entryS st d (BitVec.ofNat 32 o)) ∧
   Updates (.atomCas x l d a q c) (words [x.isSome]) l.toNat q c 4 ea
     (fun st o => if o = (st.s d).toNat then some (st.sNext d).toNat else none)
     (fun st o => entryS st d (BitVec.ofNat 32 o))) ∧
  (∀ (x : Option (BitVec 25)) (l : BitVec 4) (d a : BitVec 7)
   (q : BitVec 1) (c : BitVec 2), ∀ k : Int, (x = none → k = 0) → (∀ y, x = some y → k = y.toInt) →
   ∀ ea : Strand → Nat, (∀ st, (ea st : Int) = ((st.pair a).toNat + k) % 2 ^ 57) →
   Updates (.atomvAdd x l d a q c) (words [x.isSome]) l.toNat q c 8 ea
     (fun st o => let x := (st.v d).toNat % 2 ^ 64; some ((o + x) % 2 ^ 64))
     (fun st o => entryV st d (BitVec.ofNat 256 o) 0) ∧
   Updates (.atomvMin x l d a q c) (words [x.isSome]) l.toNat q c 8 ea
     (fun st o => let x := (st.v d).toNat % 2 ^ 64; some (if (BitVec.ofNat 64 o).toInt ≤ (BitVec.ofNat 64 x).toInt then o else x))
     (fun st o => entryV st d (BitVec.ofNat 256 o) 0) ∧
   Updates (.atomvMax x l d a q c) (words [x.isSome]) l.toNat q c 8 ea
     (fun st o => let x := (st.v d).toNat % 2 ^ 64; some (if (BitVec.ofNat 64 o).toInt ≤ (BitVec.ofNat 64 x).toInt then x else o))
     (fun st o => entryV st d (BitVec.ofNat 256 o) 0) ∧
   Updates (.atomvMinu x l d a q c) (words [x.isSome]) l.toNat q c 8 ea
     (fun st o => let x := (st.v d).toNat % 2 ^ 64; some (min o x))
     (fun st o => entryV st d (BitVec.ofNat 256 o) 0) ∧
   Updates (.atomvMaxu x l d a q c) (words [x.isSome]) l.toNat q c 8 ea
     (fun st o => let x := (st.v d).toNat % 2 ^ 64; some (max o x))
     (fun st o => entryV st d (BitVec.ofNat 256 o) 0) ∧
   Updates (.atomvAnd x l d a q c) (words [x.isSome]) l.toNat q c 8 ea
     (fun st o => let x := (st.v d).toNat % 2 ^ 64; some (o &&& x))
     (fun st o => entryV st d (BitVec.ofNat 256 o) 0) ∧
   Updates (.atomvOr x l d a q c) (words [x.isSome]) l.toNat q c 8 ea
     (fun st o => let x := (st.v d).toNat % 2 ^ 64; some (o ||| x))
     (fun st o => entryV st d (BitVec.ofNat 256 o) 0) ∧
   Updates (.atomvXor x l d a q c) (words [x.isSome]) l.toNat q c 8 ea
     (fun st o => let x := (st.v d).toNat % 2 ^ 64; some (o ^^^ x))
     (fun st o => entryV st d (BitVec.ofNat 256 o) 0) ∧
   Updates (.atomvXchg x l d a q c) (words [x.isSome]) l.toNat q c 8 ea
     (fun st _ => some ((st.v d).toNat % 2 ^ 64))
     (fun st o => entryV st d (BitVec.ofNat 256 o) 0) ∧
   Updates (.atomvCas x l d a q c) (words [x.isSome]) l.toNat q c 8 ea
     (fun st o => if o = (st.v d).toNat % 2 ^ 64 then some ((st.v d).toNat / 2 ^ 64 % 2 ^ 64) else none)
     (fun st o => entryV st d (BitVec.ofNat 256 o) 0) ∧
   Updates (.atomvXchgW128 x l d a q c) (words [x.isSome]) l.toNat q c 16 ea
     (fun st _ => some ((st.v d).toNat % 2 ^ 128)) (fun st o => entryV st d (BitVec.ofNat 256 o) 0) ∧
   Updates (.atomvCasW128 x l d a q c) (words [x.isSome]) l.toNat q c 16 ea
     (fun st o => if o = (st.v d).toNat % 2 ^ 128 then some ((st.v d).toNat / 2 ^ 128) else none)
     (fun st o => entryV st d (BitVec.ofNat 256 o) 0))

/-- Every form of ATOM and ATOMV completes (R220, R221): it retires and its strand goes on behind it, for all bytes that the place can hold,
those of a marked atom among them, under the conditions of R151, R153, R215 and R363 alone. The choices of the model in it: log entries 9 (when
the data arrive), 22 (an atomic that waited). -/
def Obligations.EveryAtomicCompletes : Prop := ∀ (x : Option (BitVec 25)) (l : BitVec 4) (d a : BitVec 7) (q : BitVec 1) (c : BitVec 2),
  ∀ k : Int, (x = none → k = 0) → (∀ y, x = some y → k = y.toInt) → ∀ ea : Strand → Nat, (∀ st, (ea st : Int) = ((st.pair a).toNat + k) % 2 ^ 57) →
  (∀ i ∈ [Instr.atomAdd x l d a q c, .atomMin x l d a q c, .atomMax x l d a q c, .atomMinu x l d a q c, .atomMaxu x l d a q c, .atomAnd x l d a q c,
      .atomOr x l d a q c, .atomXor x l d a q c, .atomXchg x l d a q c, .atomCas x l d a q c], Completes i (words [x.isSome]) q c 4 ea) ∧
  (∀ i ∈ [Instr.atomvAdd x l d a q c, .atomvMin x l d a q c, .atomvMax x l d a q c, .atomvMinu x l d a q c, .atomvMaxu x l d a q c, .atomvAnd x l d a q c,
      .atomvOr x l d a q c, .atomvXor x l d a q c, .atomvXchg x l d a q c, .atomvCas x l d a q c], Completes i (words [x.isSome]) q c 8 ea) ∧
  (∀ i ∈ [Instr.atomvXchgW128 x l d a q c, .atomvCasW128 x l d a q c], Completes i (words [x.isSome]) q c 16 ea)

/-- PREF (R219): it retires without waiting and changes no register and no byte. Where the line is memory of the die or the host, its sectors
are in the L1 of the core afterwards, unless the hint is 3. MWATCH and MWAIT (R223), on a line of the die's memory or the host's: the line
is filled and the one watch of the strand armed; MWAIT passes when the watch has fired or none is armed, disarms it, and else stands at a
blocking point. The choices of the model in it: log entries 11 (which lines a cache takes), 23 (MWAIT closes the windows). -/
def Obligations.PrefetchesAndWatchesReachTheLine : Prop :=
  (∀ (x : Option (BitVec 25)) (a : BitVec 7) (h : BitVec 2), ∀ k : Int,
   (x = none → k = 0) → (∀ y, x = some y → k = y.toInt) →
   ∀ ea : Strand → Nat, (∀ st, (ea st : Int) = ((st.pair a).toNat + k) % 2 ^ 57) →
   ∀ s st, s.curStrand = some st → ∃ t u, exec (.pref x a h) s = .next (t.putStrand u) ∧ s.Fetched t ∧
     st.OnlyMoved u s.cycle (st.past (words [x.isSome])) ∧
     ∀ pa, h ≠ 3 → s.At st .read (ea st) 1 pa → localMemory st.at_.die pa →
       ∀ j < 4, (findSector (t.core st.at_.die st.at_.core).l1 (pa / 128 * 4 + j) s.cycle).isSome) ∧
  (∀ (x : Option (BitVec 25)) (a : BitVec 7), ∀ k : Int,
   (x = none → k = 0) → (∀ y, x = some y → k = y.toInt) →
   ∀ ea : Strand → Nat, (∀ st, (ea st : Int) = ((st.pair a).toNat + k) % 2 ^ 57) →
   (∀ s st pa, s.curStrand = some st → s.At st .read (ea st) 4 pa → localMemory st.at_.die pa →
     ∃ t u, exec (.mwatch x a) s = .next (t.putStrand u) ∧ s.Fetched t ∧
       st.Watches u s.cycle (st.past (words [x.isSome])) (some { region := .line pa st.pdom.toNat (pageOf (ea st)), fired := false,
                                                                 limit := s.cycle + (s.core st.at_.die st.at_.core).lease }) ∧
       (findSector (t.core st.at_.die st.at_.core).l1 (pa / 32) s.cycle).isSome) ∧
   EffectWhen .mwait (fun _ st => ∀ w, st.watch = some w → w.fired = true)
     (fun s st t => st.closeWindows.Watches t s.cycle (st.past 1) none) ∧
   EffectWhen .mwait (fun _ st => ∃ w, st.watch = some w ∧ w.fired = false) (fun s st t => t = st.standsAt s.cycle 1 .mwait))

/-- FENCE (R139, R153, R222): an acquire invalidates; a release of .v or .s waits for the core's acknowledgement counter to be zero, which is no
blocking point and leaves the windows open. -/
def Obligations.FencesInvalidateAndWait : Prop := ∀ c : BitVec 2,
  (∀ s st, s.curStrand = some st → ∃ t u, exec (.fenceAcq c) s = .next (t.putStrand u) ∧ s.Invalidated t st c.toNat ∧
    st.OnlyMoved u s.cycle (st.past 1)) ∧
  EffectWhen (.fenceRel c) (fun s st => s.drained st 1 c) (fun s st t => st.OnlyMoved t s.cycle (st.past 1)) ∧
  (∀ s st, s.curStrand = some st → s.drained st 1 c → ∃ t u, exec (.fenceFull c) s = .next (t.putStrand u) ∧
    s.Invalidated t st c.toNat ∧ st.OnlyMoved u s.cycle (st.past 1)) ∧
  (∀ i ∈ [.fenceRel c, .fenceFull c], ∀ s st, s.curStrand = some st → ¬ s.drained st 1 c → exec i s =
    .next (s.putStrand { st with blocked := some { wait := .retry, len := 0, woken := false, since := s.cycle } }))

/-! ### Bundles, barriers and collectives (02 R31 to R39; 11 R224 to R229) -/

/-- BNEW, BJOIN, BLEAVE, BINFO (R224, R31, R32, R37). A bundle that the strand leaves dissolves if no member and no engine command in flight is
left: its grant is freed and its mailboxes are emptied. A grant above 256 raises OPLIM with the word in TVAL. The choices of the model in
it: log entries 5 (what a grant holds), 18 (the number of a handle). -/
def Obligations.MembersJoinAndLeave : Prop := ∀ (d a : BitVec 7) (k : BitVec 7) (s : State) (st : Strand), s.curStrand = some st →
  ∀ g : Nat, g = (st.s a).toNat % 512 → ∀ h : Nat, h = (st.s a).toNat →
  ∀ here : List Bundle, here = s.bundles.filter (fun b => b.die = st.at_.die && b.core = st.at_.core && !b.evicted) →
  ∀ used : List Nat, used = ((s.memberList h).filter fun x => x.2.at_ ≠ st.at_).map Prod.fst →
  ∀ left : State → State, left = (fun t => match st.bundle with | some (b, _) => t.dissolveIfDone b | none => t) →
  (256 < g → exec (.bnew d a) s = .next (s.raise st (1 <<< 2) ((wordA 0x50 0 d a 0).zeroExtend 64))) ∧
  (g ≤ 256 → 64 ≤ here.length ∨ 256 < (here.map Bundle.grant).sum + g →
    ∃ u, exec (.bnew d a) s = .next (s.putStrand u) ∧ st.WroteS u s.cycle (st.past 1) d 0) ∧
  (g ≤ 256 → here.length < 64 → (here.map Bundle.grant).sum + g ≤ 256 → st.bundle = none →
    ∃ (t : State) (u : Strand) (b : Bundle), exec (.bnew d a) s = .next (t.putStrand u) ∧
      t = { s with bundles := s.bundles ++ [b], hg := { s.hg with nextHandle := t.hg.nextHandle }, cores := t.cores, free := t.free } ∧
      (∀ e f, t.core e f = { s.core e f with leftScr := (t.core e f).leftScr }) ∧
      b = { handle := b.handle, die := st.at_.die, core := st.at_.core, pdom := st.pdom, task := st.task, grant := g, scratch := b.scratch,
            poison := [], bars := List.replicate 16 { exp := 1, arr := 0, pend := 0, phase := 0 }, commons := List.replicate 32 0,
            arrive := 0, evicted := false, evicting := false, saved := [], bw := (0, 0) } ∧
      ({ st with bundle := some (b.handle, 0) } : Strand).WroteS u s.cycle (st.past 1) d (BitVec.ofNat 32 b.handle)) ∧
  ((∃ b, s.bundle? h = some b ∧ b.evicted = false ∧ b.die = st.at_.die ∧ b.core = st.at_.core ∧ b.pdom = st.pdom) → (s.memberList h).length < 512 →
    ∃ m u, exec (.bjoin d a) s = .next (left (s.putStrand u)) ∧ m ∉ used ∧ (∀ j < m, j ∈ used) ∧
      ({ st with bundle := some (h, m) } : Strand).WroteS u s.cycle (st.past 1) d (BitVec.ofNat 32 m)) ∧
  ((∀ b, s.bundle? h = some b → b.evicted = true ∨ b.die ≠ st.at_.die ∨ b.core ≠ st.at_.core ∨ b.pdom ≠ st.pdom ∨ 512 ≤ (s.memberList h).length) →
    ∃ u, exec (.bjoin d a) s = .next (s.putStrand u) ∧ st.WroteS u s.cycle (st.past 1) d 0xFFFFFFFF) ∧
  (∃ u, exec .bleave s = .next (left (s.putStrand u)) ∧ ({ st with bundle := none } : Strand).OnlyMoved u s.cycle (st.past 1)) ∧
  (k.toNat ≤ 2 → ∃ u, exec (.binfo d k) s = .next (s.putStrand u) ∧ st.WroteS u s.cycle (st.past 1) d (BitVec.ofNat 32
    (match st.bundle with
     | none => 0
     | some (b, _) =>
       if k = 0 then (s.memberList b).length
       else if k = 1 then ((s.bundle? b).map Bundle.grant).getD 0
       else ((s.memberList b).map fun x => x.1 + 1).foldl max 0))) ∧
  (∀ e b, s.bundle? e = some b →
    ((s.memberList e = [] ∧ s.bundleNamed e = false) → (s.dissolveIfDone e).bundles.map Bundle.handle = (s.bundles.map Bundle.handle).filter (· ≠ e) ∧
      (((s.dissolveIfDone e).core b.die b.core).mboxes = (s.core b.die b.core).mboxes.map fun m => if m.claim = e then Mailbox.reset else m)) ∧
    (s.memberList e ≠ [] ∨ s.bundleNamed e = true → s.dissolveIfDone e = s))

/-- BAR (R225, R226): the barrier k of the strand's bundle. A strand without a bundle passes, and QUERY then reads zero; an arrival above 1,023
raises BARRIER (R350); a count of 0 or above 512 raises OPLIM. SYNC is a blocking point and reads its count with its windows closed (log
entry 23). In every cycle a barrier with ARR ≥ EXP and PEND = 0 completes one phase. The choices of the model in it: log entry 6 (phases
complete at the end of a cycle). -/
def Obligations.BarriersCountArrivals : Prop := ∀ (d a : BitVec 7) (c : BitVec 1) (k : BitVec 4) (s : State) (st : Strand),
  s.curStrand = some st →
  ∀ count : Strand → Nat, count = (fun x => (x.s a).toNat % 1024) →
  ∀ set : Nat → (Bar → Bar) → State, set = (fun h f => s.mapBundle h fun b =>
    { b with bars := b.bars.set k.toNat (f (b.bars.getD k.toNat { exp := 1, arr := 0, pend := 0, phase := 0 })) }) →
  ∀ now : Nat → Bar, now = (fun h => (((s.bundle? h).bind fun b => b.bars[k.toNat]?)).getD { exp := 1, arr := 0, pend := 0, phase := 0 }) →
  ∀ x : Strand, x = (if st.bundle = none then st else st.closeWindows) →
  (st.bundle = none →
    (0 < count st → count st ≤ 512 → ∃ u, exec (.barInit a k) s = .next (s.putStrand u) ∧ st.OnlyMoved u s.cycle (st.past 1)) ∧
    ((c = 1 → 0 < count st ∧ count st ≤ 512) →
      (∃ u, exec (.barSync a c k) s = .next (s.putStrand u) ∧ st.OnlyMoved u s.cycle (st.past 1)) ∧
      (∃ u, exec (.barArrive a c k) s = .next (s.putStrand u) ∧ st.OnlyMoved u s.cycle (st.past 1))) ∧
    (∃ u, exec (.barExpect a k) s = .next (s.putStrand u) ∧ st.OnlyMoved u s.cycle (st.past 1)) ∧
    (∃ u, exec (.barQuery d 0 k) s = .next (s.putStrand u) ∧ st.WroteS u s.cycle (st.past 1) d 0) ∧
    (∃ u, exec (.barQuery d 1 k) s = .next (s.putStrand u) ∧ st.WrotePair u s.cycle (st.past 1) d 0)) ∧
  (∀ h m, st.bundle = some (h, m) →
    (0 < count st → count st ≤ 512 → ∃ u, exec (.barInit a k) s = .next ((set h fun b => { b with exp := count st }).putStrand u) ∧
      st.OnlyMoved u s.cycle (st.past 1)) ∧
    ((c = 1 → 0 < count x ∧ count x ≤ 512) → (now h).arr < 1023 →
      exec (.barSync a c k) s = .next ((set h fun b => { b with exp := if c = 1 then count x else b.exp, arr := b.arr + 1 }).putStrand
        (st.standsAt s.cycle 1 (.barSync k.toNat (now h).phase)))) ∧
    ((c = 1 → 0 < count st ∧ count st ≤ 512) → (now h).arr < 1023 →
      ∃ u, exec (.barArrive a c k) s = .next ((set h fun b => { b with exp := if c = 1 then count st else b.exp, arr := b.arr + 1 }).putStrand u) ∧
        st.OnlyMoved u s.cycle (st.past 1)) ∧
    (∃ u, exec (.barExpect a k) s = .next ((set h fun b => { b with pend := b.pend + (st.s a).zeroExtend 56 }).putStrand u) ∧
      st.OnlyMoved u s.cycle (st.past 1)) ∧
    (∃ u, exec (.barQuery d 0 k) s = .next (s.putStrand u) ∧
      st.WroteS u s.cycle (st.past 1) d (BitVec.ofNat 32 (((now h).exp - 1) * 2 ^ 22 + (now h).arr * 2 ^ 12 + (now h).phase))) ∧
    (∃ u, exec (.barQuery d 1 k) s = .next (s.putStrand u) ∧ st.WrotePair u s.cycle (st.past 1) d ((now h).pend.signExtend 64)) ∧
    ((c = 1 → 0 < count x ∧ count x ≤ 512) → 1023 ≤ (now h).arr →
      exec (.barSync a c k) s = .next (s.raise x (1 <<< 33) (BitVec.ofNat 64 k.toNat))) ∧
    ((c = 1 → 0 < count st ∧ count st ≤ 512) → 1023 ≤ (now h).arr →
      exec (.barArrive a c k) s = .next (s.raise st (1 <<< 33) (BitVec.ofNat 64 k.toNat)))) ∧
  (count st = 0 ∨ 512 < count st → exec (.barInit a k) s = .next (s.raise st (1 <<< 2) ((wordA 0x51 0 0 a (0#3 ++ k)).zeroExtend 64))) ∧
  (∀ b : Bar, b.check = if b.exp ≤ b.arr ∧ b.pend = 0 then { b with phase := (b.phase + 1) % 4096, arr := b.arr - b.exp } else b)

/-- BVOTE and BCOLL (R111, R227, R228, R229) of a strand without a bundle, which completes at once, and of a member, which waits. What the
participants of a collective, all at the same one, receive (R111, R228, R229), and the mismatch (R350). `gs` are the participants by
ascending member index. The choices of the model in it: log entries 6 (collectives complete at the end of a cycle), 9 (when the data
arrive). -/
def Obligations.CollectivesCombineTheMembers : Prop :=
  (∀ (l : BitVec 4) (d a : BitVec 7) (w : BitVec 7) (t : BitVec 4) (p q : BitVec 3),
   EffectWhen (.ballot d q w) (fun _ st => st.bundle = none) (fun s st u =>
     st.WrotePair u s.cycle (st.past 1) d (if w = 0 ∧ (st.p q).getLsbD 0 then 1 else 0)) ∧
   EffectWhen (.any p q) (fun _ st => st.bundle = none) (fun s st u =>
     st.WroteP u s.cycle (st.past 1) p (if (st.p q).getLsbD 0 then 1 else 0) 0) ∧
   EffectWhen (.all p q) (fun _ st => st.bundle = none) (fun s st u =>
     st.WroteP u s.cycle (st.past 1) p (if (st.p q).getLsbD 0 then 1 else 0) 0) ∧
   CollectsAlone (.bcast l d a) l d a (fun x => (x, 0)) ∧
   CollectsAlone (.radd l d a t) l d a (fun x => if t = 0 then treeSum [x] else (x, 0)) ∧
   CollectsAlone (.rmin l d a t) l d a (fun x => if t = 0 then treeMinMax false [x] else (x, 0)) ∧
   CollectsAlone (.rmax l d a t) l d a (fun x => if t = 0 then treeMinMax true [x] else (x, 0)) ∧
   CollectsAlone (.scanadd l d a t) l d a (fun x => if t = 0 then FFmt.f32.canon x else (x, 0)) ∧
   CollectsWithMembers (.ballot d q w) (fun st => .collective 0x52 0 (st.sName d) (st.sIdx (d.toNat + 1)) w.toNat ((st.p q).getLsbD 0) 0 0
     (wordA 0x52 0 d (0#4 ++ q) w)) ∧
   CollectsWithMembers (.any p q) (fun st => .collective 0x52 1 (some p.toNat) none 0 ((st.p q).getLsbD 0) 0 0
     (wordA 0x52 1 (0#4 ++ p) (0#4 ++ q) 0)) ∧
   CollectsWithMembers (.all p q) (fun st => .collective 0x52 2 (some p.toNat) none 0 ((st.p q).getLsbD 0) 0 0
     (wordA 0x52 2 (0#4 ++ p) (0#4 ++ q) 0)) ∧
   ∀ (o : BitVec 3) (i : Instr), i = (if o = 0 then .bcast l d a else if o = 1 then .radd l d a t else if o = 2 then .rmin l d a t
       else if o = 3 then .rmax l d a t else .scanadd l d a t) → (o = 0 → t = 0) → o.toNat ≤ 4 →
     CollectsWithMembers i (fun st => .collective 0x53 (t.toNat * 8 + o.toNat) (st.vName d) none 0 false (st.v a) l.toNat
       (wordA 0x53 l d a (t ++ o)))) ∧
  (∀ (gs : List Given) (g : Given) (cycle : Nat) (d : BitVec 7), g ∈ gs →
   (g.major = 0x52 → g.sel = 0 → g.dst = g.strand.sName d → g.dst2 = g.strand.sIdx (d.toNat + 1) → ∃ y : BitVec 64,
     (∀ j < 64, y.getLsbD j = gs.any fun x => x.vote && x.mid == 64 * g.win + j) ∧
     g.strand.WrotePair (g.finish cycle gs) cycle (g.strand.past g.len) d y) ∧
   (∀ p : BitVec 3, g.major = 0x52 → g.sel = 1 → g.dst = some p.toNat →
     g.strand.WroteP (g.finish cycle gs) cycle (g.strand.past g.len) p (if gs.any Given.vote then 1 else 0) 0) ∧
   (∀ p : BitVec 3, g.major = 0x52 → g.sel = 2 → g.dst = some p.toNat →
     g.strand.WroteP (g.finish cycle gs) cycle (g.strand.past g.len) p (if gs.all Given.vote then 1 else 0) 0) ∧
   (g.major = 0x53 → g.sel = 0 → g.dst = g.strand.vName d → ∃ y : Vec, (∀ x r, gs = x :: r → ∀ i < 8, lane y i = lane x.val i) ∧
     g.strand.Later (g.finish cycle gs) cycle (g.strand.past g.len) g.la (entryV g.strand d y 0)) ∧
   (g.major = 0x53 → g.sel = 6 * 8 + 1 ∨ g.sel = 7 * 8 + 1 → g.dst = g.strand.vName d → ∃ y : Vec,
     (∀ i < 8, lane y i = (gs.map fun x => lane x.val i).sum) ∧
     g.strand.Later (g.finish cycle gs) cycle (g.strand.past g.len) g.la (entryV g.strand d y 0)) ∧
   (∀ s : State, (∀ x ∈ gs, x.major = g.major ∧ x.sel = g.sel) → s.finishCollective gs = gs.foldl (fun s x => s.putStrand (x.finish s.cycle gs)) s) ∧
   (∀ s : State, (∃ x ∈ gs, x.major ≠ g.major ∨ x.sel ≠ g.sel) → s.finishCollective gs =
     gs.foldl (fun s x => s.raise { x.strand with blocked := none } (1 <<< 34) (x.word.zeroExtend 64)) s))

/-- RWR, RWAIT, QSEND, QRECV, and a deposit taking effect (04 R77, R78; 06 R117 to R120; 11 R230, R231). RWAIT and QSEND are blocking points; a
QRECV without a bundle, or on a mailbox claimed by another, raises MAILBOX (R350). The choices of the model in it: log entry 23 (QSEND and
RWAIT close the windows), 69 (when a mailbox returns its free-entry count), 72 (a deposit beside an instruction that waits). -/
def Obligations.RemoteWritesAndMailboxes : Prop := ∀ (d a b : BitVec 7) (k : BitVec 3) (m : BitVec 7) (s : State) (st : Strand),
  s.curStrand = some st → ∀ x : Strand, x = st.closeWindows →
  ∀ passes : Strand → Prop, passes = (fun y => ∀ g, s.bundleOf st = some g → (g.arrive - y.s a).toNat < 2 ^ 31) →
  ∀ box : Mailbox, box = (s.core st.at_.die st.at_.core).mboxes.getD k.toNat { head := 0, items := [], claim := 0 } →
  ∀ put : Mailbox → State, put = (fun q => s.setCore st.at_.die st.at_.core
    { s.core st.at_.die st.at_.core with mboxes := (s.core st.at_.die st.at_.core).mboxes.set k.toNat q }) →
  (∀ vec : Bool, ∀ i : Instr, i = (if vec then .rwrVector d a b else .rwrScalar d a b) →
    ((∃ g, s.bundle? (st.s b).toNat = some g ∧ g.pdom = st.pdom) → ∀ dep : Deposit, dep =
      ⟨s.nextId, (st.s b).toNat, (st.sNext b).toNat % 512, vec, d.toNat, st.s a, st.v a, (st.task, st.sid)⟩ →
      ∃ u, exec i s = .next (State.putStrand { s with nextId := s.nextId + 1, deposits := s.deposits ++ [dep] } u) ∧
      st.OnlyMoved u s.cycle (st.past 1)) ∧
    ((∀ g, s.bundle? (st.s b).toNat = some g → g.pdom ≠ st.pdom) →
      ∃ u, exec i s = .next (s.putStrand u) ∧ st.OnlyMoved u s.cycle (st.past 1))) ∧
  (∀ id dep g, s.deposits.find? (fun y => y.id = id) = some dep → s.bundle? dep.bundle = some g → g.evicted = false →
    (∀ y ∈ s.deposits, y.id ≠ id → y.src = dep.src → y.bundle = dep.bundle → id ≤ y.id) →
    exec (.rwrDeposit id) s = .next { s with
      deposits := s.deposits.filter (fun y => y.id ≠ id)
      strands := s.strands.map dep.write
      bundles := s.bundles.map fun y => if y.handle = dep.bundle then { y with arrive := y.arrive + 1 } else y }) ∧
  (∀ (dep : Deposit) (y : Strand), (y.bundle ≠ some (dep.bundle, dep.mid) → dep.write y = y) ∧
    (y.bundle = some (dep.bundle, dep.mid) → ∀ j, (if dep.vec then y.vIdx dep.name else y.sIdx dep.name) = j →
      ∀ z, z = (if dep.vec then y.setVAt j dep.vval else y.setSAt j dep.sval) → (j = none → dep.write y = z) ∧
        ∀ i, j = some i → dep.write y = { z with blocked := z.blocked.map fun b => { b with wait := b.wait.dropReg dep.vec i } })) ∧
  (passes st → ∃ u, exec (.rwait a) s = .next (s.putStrand u) ∧ st.OnlyMoved u s.cycle (st.past 1)) ∧
  (¬ passes st → passes x → ∃ u, exec (.rwait a) s = .next (s.putStrand u) ∧ x.OnlyMoved u s.cycle (st.past 1)) ∧
  (¬ passes st → ¬ passes x → exec (.rwait a) s = .next (s.putStrand (st.standsAt s.cycle 1 (.rwait (x.s a))))) ∧
  (∀ o : Offer, o = ⟨s.nextId, st.at_.die, st.at_.core, st.at_.slot, st.task, st.sid, k.toNat, m, x.v a, st.pdom.toNat,
      st.bundle.map Prod.fst, st.level⟩ →
    ∀ t : State, t = State.putStrand { s with nextId := s.nextId + 1, offers := s.offers ++ [o] }
        (st.standsAt s.cycle 1 (.qsend s.nextId)) →
    exec (.qsend k m a) s = .next (if m.getLsbD 6 then t.portOffer o st.partid.toNat else t)) ∧
  (∀ h j e r, st.bundle = some (h, j) → (box.claim = 0 ∨ box.claim = h) → box.items = e :: r →
    ∃ u, exec (.qrecv k d) s = .next ((State.returnCount (put { head := (box.head + 1) % 16, items := r, claim := h })
      st.at_.die st.at_.core k.toNat).putStrand u) ∧ st.WroteV u s.cycle (st.past 1) d e 0) ∧
  (∀ (e f : Nat), (∃ fs, (s.returnCount st.at_.die st.at_.core k.toNat).core e f = { s.core e f with mboxFree := fs }) ∧
    ((s.core e f).mboxFree.length = 3 → (∀ l ∈ (s.core e f).mboxFree, l.length = 8) →
      ∀ i < 3, ∀ n < 8, (((s.returnCount st.at_.die st.at_.core k.toNat).core e f).mboxFree.getD i []).getD n 0 =
        if e = st.at_.die ∧ f ∈ siblings st.at_.core ∧ sibling f i = st.at_.core ∧ n = k.toNat then 16 - box.items.length
        else ((s.core e f).mboxFree.getD i []).getD n 0)) ∧
  (∀ h j, st.bundle = some (h, j) → (box.claim = 0 ∨ box.claim = h) → box.items = [] →
    exec (.qrecv k d) s = .next ((put { box with claim := h }).putStrand (st.standsAt s.cycle 1 (.qrecv k.toNat (st.vName d))))) ∧
  (st.bundle = none ∨ (∃ h j, st.bundle = some (h, j) ∧ box.claim ≠ 0 ∧ box.claim ≠ h) →
    exec (.qrecv k d) s = .next (s.raise st (1 <<< 35) ((wordA 0x57 (0#1 ++ k) d 0 0).zeroExtend 64)))

/-- FLAG and REGM (R69 to R73, R232, R233): flags change at the end of the cycle, every clear before every set; a grant appends blocks and a
release takes the highest away, after their writes in flight have landed in them. Beyond 8 scalar or 16 vector blocks, or down to none,
OPLIM is raised. The choices of the model in it: log entries 5 (what a granted block holds), 6 (flags change at the end of a cycle), 23
(which waits close the windows). -/
def Obligations.FlagsAndRegisterBlocks : Prop := ∀ (d : BitVec 3) (n : BitVec 5) (k : BitVec 7) (s : State) (st : Strand),
  s.curStrand = some st → ∀ c : Core, c = s.core st.at_.die st.at_.core →
  ∀ oplim : BitVec 4 → State, oplim = (fun fn => s.raise st (1 <<< 2) ((wordA 0x5A fn 0 0 k).zeroExtend 64)) →
  ∀ stays : State → State → Prop, stays = (fun s t => t = { s with cores := t.cores, free := t.free } ∧
    ∀ e f, t.core e f = { s.core e f with leftS := (t.core e f).leftS, leftV := (t.core e f).leftV }) →
  (∃ u, exec (.flagSet n) s = .next (State.putStrand { s with flagBuf := s.flagBuf ++ [((st.at_.die, st.at_.core), n.toNat, true)] } u) ∧
    st.OnlyMoved u s.cycle (st.past 1)) ∧
  (∃ u, exec (.flagClr n) s = .next (State.putStrand { s with flagBuf := s.flagBuf ++ [((st.at_.die, st.at_.core), n.toNat, false)] } u) ∧
    st.OnlyMoved u s.cycle (st.past 1)) ∧
  (c.flags.getLsbD n.toNat = true → ∃ u, exec (.flagWait n) s = .next (s.putStrand u) ∧ st.OnlyMoved u s.cycle (st.past 1)) ∧
  (c.flags.getLsbD n.toNat = false → exec (.flagWait n) s = .next (s.putStrand (st.standsAt s.cycle 1 (.flagWait st.at_.die st.at_.core n.toNat)))) ∧
  (∃ u, exec (.flagTest d n) s = .next (s.putStrand u) ∧
    st.WroteP u s.cycle (st.past 1) d (if c.flags.getLsbD n.toNat then 1 else 0) 0) ∧
  (∃ u, exec (.wbases k) s = .next (s.putStrand u) ∧
    ({ st with wbs := BitVec.ofNat 3 k.toNat } : Strand).OnlyMoved u s.cycle (st.past 1)) ∧
  (∃ u, exec (.wbasev k) s = .next (s.putStrand u) ∧
    ({ st with wbv := BitVec.ofNat 4 k.toNat } : Strand).OnlyMoved u s.cycle (st.past 1)) ∧
  (k = 0 → (∃ u, exec (.xacqs k) s = .next (s.putStrand u) ∧ st.OnlyMoved u s.cycle (st.past 1)) ∧
    ∃ u, exec (.xacqv k) s = .next (s.putStrand u) ∧ st.OnlyMoved u s.cycle (st.past 1)) ∧
  (k ≠ 0 → st.nsb + k.toNat ≤ 8 → c.waitS = [] → s.usedS st.at_.die st.at_.core + k.toNat ≤ 1024 →
    ∃ t u l, exec (.xacqs k) s = .next (t.putStrand u) ∧ stays s t ∧ l.length = 32 * k.toNat ∧
      ({ st with nsb := st.nsb + k.toNat, sregs := st.sregs ++ l } : Strand).OnlyMoved u s.cycle (st.past 1)) ∧
  (k ≠ 0 → st.nvb + k.toNat ≤ 16 → c.waitV = [] → s.usedV st.at_.die st.at_.core + k.toNat ≤ 896 →
    ∃ t u l, exec (.xacqv k) s = .next (t.putStrand u) ∧ stays s t ∧ l.length = 16 * k.toNat ∧
      ({ st with nvb := st.nvb + k.toNat, vregs := st.vregs ++ l } : Strand).OnlyMoved u s.cycle (st.past 1)) ∧
  (k ≠ 0 → st.nsb + k.toNat ≤ 8 → c.waitS ≠ [] ∨ 1024 < s.usedS st.at_.die st.at_.core + k.toNat → exec (.xacqs k) s =
    .next ((s.setCore st.at_.die st.at_.core { c with waitS := c.waitS ++ [st.at_] }).putStrand
      (st.standsAt s.cycle 1 (.xacq false k.toNat)))) ∧
  (k ≠ 0 → st.nvb + k.toNat ≤ 16 → c.waitV ≠ [] ∨ 896 < s.usedV st.at_.die st.at_.core + k.toNat → exec (.xacqv k) s =
    .next ((s.setCore st.at_.die st.at_.core { c with waitV := c.waitV ++ [st.at_] }).putStrand
      (st.standsAt s.cycle 1 (.xacq true k.toNat)))) ∧
  (k ≠ 0 → 8 < st.nsb + k.toNat → exec (.xacqs k) s = .next (oplim 2)) ∧
  (k ≠ 0 → 16 < st.nvb + k.toNat → exec (.xacqv k) s = .next (oplim 3)) ∧
  (k.toNat < st.nsb → ∀ x : Strand, x = st.landAbove false (32 * (st.nsb - k.toNat)) → ∃ t u l, exec (.xrels k) s = .next (t.putStrand u) ∧
    stays s t ∧ (t.core st.at_.die st.at_.core).leftS = l ++ c.leftS ∧ l.length = k.toNat ∧ (∀ y ∈ l, y.pdom = st.pdom.toNat) ∧
    ({ x with nsb := st.nsb - k.toNat, sregs := x.sregs.take (32 * (st.nsb - k.toNat)) } : Strand).OnlyMoved u s.cycle (st.past 1)) ∧
  (k.toNat < st.nvb → ∀ x : Strand, x = st.landAbove true (16 * (st.nvb - k.toNat)) → ∃ t u l, exec (.xrelv k) s = .next (t.putStrand u) ∧
    stays s t ∧ (t.core st.at_.die st.at_.core).leftV = l ++ c.leftV ∧ l.length = k.toNat ∧ (∀ y ∈ l, y.pdom = st.pdom.toNat) ∧
    ({ x with nvb := st.nvb - k.toNat, vregs := x.vregs.take (16 * (st.nvb - k.toNat)) } : Strand).OnlyMoved u s.cycle (st.past 1)) ∧
  (st.nsb ≤ k.toNat → exec (.xrels k) s = .next (oplim 4)) ∧
  (st.nvb ≤ k.toNat → exec (.xrelv k) s = .next (oplim 5))

/-! ### Engines, tiles, epochs, flumes and tasks (12 R234 to R236; 14 R275 to R289) -/

/-- TRESV, TREL, TSTAT, TWAIT (R275 to R278, R121, R122, R74, R156). A record that breaks R121 gives 0xFFFFFFFF, a lack of room 0, and else a
new tile its handle; granules last held by another domain read as zero. A handle that names no live tile of the core and the domain reads as
state 4; a look that finds a tile ready acquires at .b. TWAIT is a blocking point. The choices of the model in it: log entries 5 (what a
granule holds), 23 (TWAIT closes the windows when it would wait), 40 (a tile released while a command uses it). -/
def Obligations.TilesAreReservedAndReleased : Prop := ∀ (d a k : BitVec 7) (s : State) (st : Strand), s.curStrand = some st →
  ∀ die core : Nat, die = st.at_.die → core = st.at_.core → ∀ c : Core, c = s.core die core → ∀ cw : Strand, cw = st.closeWindows →
  ∀ tile : Strand → Option Tile, tile = (fun y => (s.tile (y.s a).toNat).filter fun x =>
    handleDie (y.s a).toNat = die && handleCore (y.s a).toNat = core && x.pdom = st.pdom.toNat) →
  ∀ passes : Strand → Prop, passes = (fun y => ∀ x, tile y = some x → x.state = k.toNat) →
  ∀ looks : Strand → State → Prop, looks = (fun y t => if tile y ≠ none ∧ k = 2 then s.Invalidated t st 0 else t = s) →
  (∀ r : BitVec 128, s.Sees st ((st.pair a).toNat % 2 ^ 57) 16 r.toNat → ∀ base len : Nat, base = r.toNat / 2 ^ 16 % 2 ^ 7 → len = r.toNat / 2 ^ 32 % 2 ^ 8 →
    ∀ fits : Prop, fits = ((∃ i < 64, ∀ y ∈ c.tiles, y.idx ≠ i) ∧ ∀ y ∈ c.tiles, y.base + y.len ≤ base ∨ base + len ≤ y.base) →
    (badReservation r = true → ∃ t u, exec (.tresv d a) s = .next (t.putStrand u) ∧ s.Wrote t [] ∧
      st.WroteS u s.cycle (st.past 1) d 0xFFFFFFFF) ∧
    (badReservation r = false → ¬ fits → ∃ t u, exec (.tresv d a) s = .next (t.putStrand u) ∧ s.Wrote t [] ∧
      st.WroteS u s.cycle (st.past 1) d 0) ∧
    (badReservation r = false → fits → ∃ (t f : State) (u : Strand) (x : Tile), exec (.tresv d a) s = .next (t.putStrand u) ∧ s.Wrote f [] ∧
      t = f.setCore die core { f.core die core with tiles := c.tiles ++ [x], tileSeq := x.seq, granule := (t.core die core).granule, opbuf := (t.core die core).opbuf, opPoison := (t.core die core).opPoison } ∧
      x = ⟨x.idx, r, if r.toNat / 2 ^ 48 % 4 = 1 then 2 else 0, x.seq, st.pdom.toNat, st.bundle.map Prod.fst, false⟩ ∧
      (∀ y ∈ c.tiles, y.idx ≠ x.idx) ∧ (∀ i < x.idx, ∃ y ∈ c.tiles, y.idx = i) ∧
      x.seq = (if (c.tileSeq + 1) % 2 ^ 17 = 0 then 1 else (c.tileSeq + 1) % 2 ^ 17) ∧
      (t.core die core).opbuf = c.opbuf.filter (fun y => ¬ (base ≤ y.1 / 4096 ∧ y.1 / 4096 < base + len ∧
        alGet st.pdom.toNat (y.1 / 4096) c.granule ≠ st.pdom.toNat)) ∧
      st.WroteS u s.cycle (st.past 1) d (BitVec.ofNat 32 ((die - 1) * 2 ^ 30 + core * 2 ^ 23 + x.seq * 2 ^ 6 + x.idx)))) ∧
  (∀ x, tile st = some x → ∃ u, exec (.trel a) s = .next ((s.setCore die core { c with tiles := c.tiles.map fun y =>
      if y.idx = (st.s a).toNat % 64 ∧ y.seq = (st.s a).toNat / 64 % 2 ^ 17 then
        (if y.state = 0 ∨ y.state = 2 then { y with state := 3 } else if y.state = 1 then { y with marked := true } else y)
      else y }).putStrand u) ∧ st.OnlyMoved u s.cycle (st.past 1)) ∧
  (tile st = none → ∃ u, exec (.trel a) s = .next (s.putStrand u) ∧ st.OnlyMoved u s.cycle (st.past 1)) ∧
  (∃ t u, exec (.tstat d a) s = .next (t.putStrand u) ∧ (if (tile st).map Tile.state = some 2 then s.Invalidated t st 0 else t = s) ∧
    st.WroteS u s.cycle (st.past 1) d (BitVec.ofNat 32 (((tile st).map Tile.state).getD 4))) ∧
  (passes st → ∃ t u, exec (.twait a k) s = .next (t.putStrand u) ∧ looks st t ∧ st.OnlyMoved u s.cycle (st.past 1)) ∧
  (¬ passes st → passes cw → ∃ t u, exec (.twait a k) s = .next (t.putStrand u) ∧ looks cw t ∧ cw.OnlyMoved u s.cycle (st.past 1)) ∧
  (¬ passes st → ¬ passes cw →
    exec (.twait a k) s = .next (s.putStrand (st.standsAt s.cycle 1 (.twait (cw.s a).toNat k.toNat))))

/-- ENGQ, FORK, RDV (R234 to R236, R279 to R281, R365). An entry goes to the tail of the engine's queue, and its owner has one more command in
flight; a full queue, in which the command that runs keeps its place, is waited for with the windows open. FORK first sets the rendezvous
object to its count, by a store that is sent to its home as any other, and appends an entry for each engine named. RDV passes when the object
at its home has PEND = 0 and no store of the die to it is still on its way, and reads EXC. The choices of the model in it: log entries 11
(which lines a cache takes), 23 (RDV closes the windows when it would wait). -/
def Obligations.EnginesTakeCommands : Prop := ∀ (e : BitVec 4) (d a b : BitVec 7) (s : State) (st : Strand), s.curStrand = some st →
  ∀ die core : Nat, die = st.at_.die → core = st.at_.core → ∀ va : BitVec 7 → Nat, va = (fun r => (st.pair r).toNat % 2 ^ 57) →
  ∀ entry : Nat → Nat → BitVec 4 → Option (Nat × Nat) → EngEntry,
    entry = (fun r g f o => ⟨r, st.task, st.pdom.toNat, st.partid.toNat, st.bundle.map Prod.fst, g, f, o, false, none⟩) →
  ∀ push : State → Nat × EngEntry → State, push = (fun t x =>
    (t.setEngine die core x.1 { t.engine die core x.1 with queue := (t.engine die core x.1).queue ++ [x.2] }).mapTask st.task
      fun y => { y with engLeft := y.engLeft + 1 }) →
  ∀ free : Nat → Prop, free = (fun u => (s.engine die core u).queue.length + (if (s.engine die core u).run = none then 0 else 1) < 16) →
  ∀ home0 : BitVec 7 → Prop, home0 = (fun r => ∀ l, s.tlbLeaf die (some core) st.pdom.toNat (pageOf (va r)) = some l → l.home ≠ 1) →
  (∀ x ∈ [(0, .engqMx a), (1, .engqCe a), (2, .engqSsb a), (3, .engqQe a)],
    (va a % 64 = 0 → addrKind (va a) ≠ .bad → free x.1 →
      ∃ u, exec x.2 s = .next ((push s (x.1, entry (va a) 0 0 none)).putStrand u) ∧ st.OnlyMoved u s.cycle (st.past 1)) ∧
    (va a % 64 = 0 → addrKind (va a) ≠ .bad → ¬ free x.1 →
      exec x.2 s = .next (s.putStrand (st.standsAgain s.cycle))) ∧
    (va a % 64 ≠ 0 → addrKind (va a) ≠ .bad → exec x.2 s = .next (s.raise st (1 <<< 8) (BitVec.ofNat 64 (va a))))) ∧
  (∀ (us : List Nat) (rs : Nat → Nat) (pa : Nat), us = (List.range 4).filter (fun j => e.getLsbD j) → s.At st .write (va b) 16 pa → home0 b →
    (∀ i < us.length, s.Sees st (va a + 8 * i) 8 (rs i)) → (∀ i < us.length, rs i % 64 = 0) →
    s.RoomFor st us.length → ((∀ j ∈ us, free j) → s.linkFull die pa = false → homeOf pa ≠ .regs → ∃ (t : State) (u : Strand), exec (.fork e a b) s =
        .next (State.putStrand ((us.zip ((List.range us.length).map fun i => entry (rs i % 2 ^ 57) s.nextId e (some (pa, va b)))).foldl push t) u) ∧
      (localMemory die pa → s.Wrote { t with nextId := s.nextId, rdvMarks := s.rdvMarks } [(pa, natBytesLE 16 us.length)] ∧ t.nextId = s.nextId + 1) ∧
      (∀ k, homeOf pa = .dram k → k ≠ die → t.mem = s.mem ∧ (t.core die core).outstanding = (s.core die core).outstanding + 1 ∧ ∃ w,
        t.xwrites = s.xwrites ++ [w] ∧ w.src = die ∧ w.dst = k ∧ w.core = some core ∧ w.pa = pa ∧ w.bytes = natBytesLE 16 us.length ∧ w.applied = false) ∧
      t.rdvMarks = s.rdvMarks.filter (fun x => x.1 ≠ pa) ∧ (t.seen st).OnlyMoved u s.cycle (st.past 1)) ∧
    ((∃ j ∈ us, ¬ free j) ∨ s.linkFull die pa = true → ∃ t, exec (.fork e a b) s = .next (t.putStrand (st.standsAgain s.cycle)) ∧
      s.Wrote t [])) ∧
  (∀ pa, s.At st .read (va a) 16 pa → home0 a → s.atomMark (pa / 32) = 0 → ∀ x, x = readNat s.mem pa 16 →
    ∀ coming : Prop, coming = (∃ w ∈ s.xwrites, w.pa = pa ∧ w.applied = false ∧ w.src = die) →
    (x % 2 ^ 16 = 0 → ¬ coming → (∀ y ∈ s.rdvMarks, y.1 ≠ pa) → ∀ s1 : State,
      s1 = (match homeOf pa with | .dram k => if k = die then s else s.raiseRow die k | _ => s) →
      ∃ t u, exec (.rdv d a) s = .next (t.putStrand u) ∧ s1.Invalidated t st 0 ∧
        st.WroteS u s.cycle (st.past 1) d (BitVec.ofNat 32 (x / 2 ^ 64 % 32))) ∧
    (x % 2 ^ 16 ≠ 0 ∨ coming → st.closeWindows.pair a = st.pair a →
      exec (.rdv d a) s = .next (s.putStrand (st.standsAt s.cycle 1 (.rdv pa (va a) (st.sName d))))))

/-- SPEC (R66, R282, R283). EPOCH 0 opens the lowest free epoch, else the lowest cancelled one, else answers 0; EPOCH e opens a free epoch or one that
the domain cancelled, answers 0 for an open one, and issues again while its commit or cancel is in progress. COMMIT and CANCEL answer 0 unless the
strand's domain has the epoch open; else they wait, with the windows open, for the slot copies of the SSB, and a cancel for the records of the
tasks it has ended, and then answer 1: a committed epoch is free and its tasks are of epoch 0, a cancelled one keeps its state and its tasks have
nothing left but their completion. The choices of the model in it: log entry 48 (the wait of COMMIT and CANCEL). -/
def Obligations.EpochsOpenCommitAndCancel : Prop := ∀ (d a : BitVec 7) (s : State) (st : Strand), s.curStrand = some st →
  ∀ e dom : Nat, e = (st.s a).toNat % 256 → dom = st.pdom.toNat →
  ∀ gives : Instr → State → Nat → Prop, gives = (fun i t x => ∃ u, exec i s = .next (t.putStrand u) ∧
    st.WroteS u s.cycle (st.past 1) d (BitVec.ofNat 32 x)) →
  (∀ n, e = 0 → 1 ≤ n → n ≤ 255 → s.epochState n = 0 → (∀ m, 1 ≤ m → m < n → s.epochState m ≠ 0) →
    gives (.specEpoch d a) (s.setEpoch n 1 dom) n) ∧
  (∀ n, e = 0 → (∀ m, 1 ≤ m → m ≤ 255 → s.epochState m ≠ 0) → 1 ≤ n → n ≤ 255 → s.epochState n = 2 →
    (∀ m, 1 ≤ m → m < n → s.epochState m ≠ 2) → gives (.specEpoch d a) (s.setEpoch n 1 dom) n) ∧
  (e = 0 → (∀ m, 1 ≤ m → m ≤ 255 → s.epochState m ≠ 0 ∧ s.epochState m ≠ 2) → gives (.specEpoch d a) s 0) ∧
  (e ≠ 0 → s.epochState e = 0 ∨ (s.epochState e = 2 ∧ s.epochDom e = dom) → gives (.specEpoch d a) (s.setEpoch e 1 dom) e) ∧
  (e ≠ 0 → s.epochState e = 1 ∨ (s.epochState e = 2 ∧ s.epochDom e ≠ dom) → gives (.specEpoch d a) s 0) ∧
  (e ≠ 0 → 2 < s.epochState e → exec (.specEpoch d a) s = .next (s.putStrand (st.standsAgain s.cycle))) ∧
  (e = 0 ∨ s.epochState e ≠ 1 ∨ s.epochDom e ≠ dom → gives (.specCommit d a) s 0 ∧ gives (.specCancel d a) s 0) ∧
  (e ≠ 0 → s.epochState e = 1 → s.epochDom e = dom → ∀ x ∈ [(.specCommit d a, s.commitEpoch e, 3, 0), (.specCancel d a, s.cancelEpoch e, 4, 2)],
    ∀ t : State, t = x.2.1 → ∀ y : Strand, t.strandAt st.at_ = some y → y.sName d = st.sName d → t.epochState e = x.2.2.1 →
    (t.ssbRunning e = true ∨ (t.listed e = [] ∧ x.2.2.1 = 4 ∧ t.recordsDue e = true) → exec x.1 s =
      .next (t.putStrand { y with blocked := some { wait := .spec e (st.sName d), len := 1, woken := false, since := t.cycle } })) ∧
    (t.ssbRunning e = false → t.listed e = [] → (x.2.2.1 = 4 → t.recordsDue e = false) → ∃ u v, exec x.1 s = .next u ∧ u.epochState e = x.2.2.2 ∧ u.strandAt st.at_ = some v ∧
      y.WroteS v t.cycle (y.past 1) d 1 ∧ u = { t with hg := { t.hg with epochs := u.hg.epochs }, strands := u.strands })) ∧
  ((s.commitEpoch e).hg.tasks = s.hg.tasks.map fun x => if x.epoch = e then { x with epoch := 0 } else x) ∧
  (∀ x ∈ s.hg.tasks, x.cancellable e = true → (∀ z ∈ s.hg.tasks, z.key = x.key → z = x) → ∀ y ∈ (s.cancelEpoch e).hg.tasks, y.key = x.key → y.state = .finishing ∧ y.status = 1)

/-- FLCALL, FLWAIT, TAKE, SKIP (R256 to R259, R285 to R287, R385). A call that its weir has room for is presented: the header of its return slot
is zero, and the call stands in the weir, or in its domain's storage when it is ordered. FLWAIT passes when its slot's header has DONE = 1
and STATUS = 0, and else is a blocking point. TAKE hands out tokens of a domain, SKIP marks an outstanding one done. The choices of the
model in it: log entries 23 (FLWAIT and FLCALL close the windows when they would wait), 41 (the order of the checks of a record). -/
def Obligations.FlumesTakeCallsAndTokens : Prop := ∀ (k : BitVec 3) (d a b : BitVec 7) (r : BitVec 1) (s : State) (st : Strand),
  s.curStrand = some st → ∀ off : Nat, off = (st.s a).toNat % 2 ^ 18 →
  (∀ (g : Bundle) (hd : Nat) (pay : List Byte) (c : Call) (s0 : State), s.bundleOf st = some g → off % 16 = 0 → hd = readNat g.scratch off 16 →
    off + 16 + 16 * chPlen hd ≤ 1024 * g.grant → g.firstBad off (16 + 16 * chPlen hd) = none → slotFits k.toNat hd g.grant = true →
    pay = readBytes g.scratch (off + 16) (min (16 * chPlen hd) (flPayload k.toNat)) → badCall k.toNat hd pay = false →
    c = ⟨s.nextId, k.toNat, st.at_.die, st.at_.core, st.at_.slot, g.handle, st.task, st.pdom.toNat,
      if st.level then chPartid hd else st.partid.toNat, BitVec.ofNat 128 hd, pay, 0, none, 0, 0, false, [], [], decide (r = 1)⟩ →
    s0 = s.writeGrant g.handle (chRslot hd) (List.replicate 16 0) → s.drained st r 2 →
    (∀ x ∈ s.gx.calls, x.id < s.nextId) → (∀ x ∈ s0.strands, ∀ y, x.blocked = some y → y.wait ≠ .flcall s.nextId) →
    (∀ x ∈ s.gx.calls, x.stage = 0 → x.sameWeir c = false) → (s.gx.calls.filter fun x => x.stage = 1 && x.sameWeir c).length < flDepth k.toNat →
    (chOrd hd = true → (s.domain (chDom hd)).ahead (chToken hd) < min 1024 ((s.domain (chDom hd)).ahead (s.domain (chDom hd)).next) ∧
      chToken hd ∉ (s.domain (chDom hd)).marks ∧ ∀ x ∈ s.gx.calls, x.ord = true → x.dom = chDom hd → x.token ≠ chToken hd) →
    ∃ (t : State) (u : Strand), exec (.flcall k a r) s = .next (t.putStrand u) ∧ (t.seen st).OnlyMoved u s.cycle (st.past 1) ∧
      t = { s0.mapTask st.task (fun x => { x with callsLeft := x.callsLeft + 1 }) with nextId := s.nextId + 1, evBuf := t.evBuf, gx := { s.gx with calls := s.gx.calls ++ [{ c with stage := if chOrd hd then 2 else 1 }] } }) ∧
  (∀ g : Bundle, s.bundleOf st = some g → s.bundle? g.handle = some g → off % 16 = 0 → off + 16 ≤ 1024 * g.grant → g.firstBad off 16 = none →
    ∀ hd, hd = readNat g.scratch off 16 →
    (hd % 2 = 1 → hd / 2 ^ 88 % 2 ^ 8 = 0 → ∃ u, exec (.flwait a) s = .next (s.putStrand u) ∧ st.OnlyMoved u s.cycle (st.past 1)) ∧
    (hd % 2 = 0 → st.closeWindows.s a = st.s a → exec (.flwait a) s = .next (s.putStrand (st.standsAt s.cycle 1 (.flwait off))))) ∧
  (∀ (n : Nat) (m : Domain), n = (st.s b).toNat % 2 ^ 11 → 0 < n → n ≤ 1024 → m = s.domain ((st.s a).toNat % 256) →
    (m.ahead m.next + n ≤ 65535 → ∃ u, exec (.take d a b) s = .next ((s.setDomain { m with next := (m.next + n) % 2 ^ 16 }).putStrand u) ∧
      st.WroteS u s.cycle (st.past 1) d (BitVec.ofNat 32 m.next)) ∧
    (65535 < m.ahead m.next + n → ∃ u, exec (.take d a b) s = .next (s.putStrand u) ∧ st.WroteS u s.cycle (st.past 1) d 0xFFFFFFFF)) ∧
  (∀ (m : Domain) (t : Nat), m = s.domain ((st.s a).toNat % 256) → t = (st.s b).toNat % 2 ^ 16 →
    ∀ out : Prop, out = (m.ahead t < m.ahead m.next ∧ t ∉ m.marks ∧
      ∀ x ∈ s.gx.calls, x.ord = true → x.dom = (st.s a).toNat % 256 → x.token = t → x.id ≠ 0 → x.detached = true) →
    (out → ∃ u, exec (.skip a b) s = .next ((s.setDomain { m with marks := insertNat t m.marks }).putStrand u) ∧
      st.OnlyMoved u s.cycle (st.past 1)) ∧
    (¬ out → ∃ u, exec (.skip a b) s = .next (s.putStrand u) ∧ st.OnlyMoved u s.cycle (st.past 1)))

/-- TSPAWN, TSIGNAL, TQRD (R52, R53, R289 to R291, R352). TSPAWN answers the identifier of the task it submits: one that its record disqualifies
has nothing left but its completion with STATUS 2, one of a cancelled epoch with STATUS 1, a node waits for its predecessors, and else the
task becomes ready or, if it is a kernel, may start at once. TSIGNAL counts an installed node of the domain down. TQRD reads a queue's
records, the age of its oldest in units of 64 cycles, or the frame counter. Both TSPAWN and TSIGNAL are releases at device scope. A TSPAWN
waits for a marker of the strands' queue that is still to be processed (R65), unless its task is traced. The choices of the model in it: log
entries 7 (releases drain within a step), 58 (what a marker holds back). -/
def Obligations.TasksAreSpawnedAndSignalled : Prop := ∀ (d a k : BitVec 7) (s : State) (st : Strand), s.curStrand = some st →
  ∀ held : Prop, held = ((∃ x ∈ s.hg.tasks, x.state = .ready ∧ TaskRec.kind x.record = 3 ∧ TaskRec.graph x.record = false ∧ x.spawned = true) ∧
    ∀ x, s.task? st.task = some x → x.traced = false) →
  (∀ (pa : Nat) (v w : Vec) (r : BitVec 512), s.drained st 1 2 → ¬ held → s.At st .read ((st.pair a).toNat % 2 ^ 57) 64 pa → homeOf pa ≠ .regs →
    s.lookAtom st.at_.die (some st.at_.core) (pa / 32) = some (v, 0) → s.lookAtom st.at_.die (some st.at_.core) (pa / 32 + 1) = some (w, 0) →
    r = st.spawnRecord (w ++ v) → TaskRec.ntile r = 0 → (∀ x ∈ s.hg.tasks, x.key < s.hg.nextKey) →
    ∃ (f t : State) (u : Strand) (x : Task), exec (.tspawn d a) s = .next (t.putStrand u) ∧ s.Wrote f [] ∧
      t = { f with hg := { s.hg with nextKey := s.hg.nextKey + 1, nextId := nextIdOf s.hg.nextId, tasks := s.hg.tasks ++ [x], poolSeq := t.hg.poolSeq } } ∧
      st.WroteS u s.cycle (st.past 1) d s.hg.nextId ∧
      x.key = s.hg.nextKey ∧ x.id = s.hg.nextId ∧ x.record = r ∧ x.pdom = TaskRec.pdom r ∧ x.partid = TaskRec.partid r ∧
      x.prio = TaskRec.prio r ∧ x.epoch = TaskRec.epoch r ∧ x.accepted = s.cycle ∧
      (s.recordReason r ≠ 0 → x.state = .finishing ∧ x.status = 2 ∧ x.reason = s.recordReason r) ∧
      (s.recordReason r = 0 → x.epoch ≠ 0 ∧ (s.epochState x.epoch = 2 ∨ s.epochState x.epoch = 4) → x.state = .finishing ∧ x.status = 1) ∧
      (s.recordReason r = 0 → ¬ (x.epoch ≠ 0 ∧ (s.epochState x.epoch = 2 ∨ s.epochState x.epoch = 4)) → TaskRec.graph r = true → TaskRec.npred r ≠ 0 →
        x.state = .node (TaskRec.npred r)) ∧
      (s.recordReason r = 0 → ¬ (x.epoch ≠ 0 ∧ (s.epochState x.epoch = 2 ∨ s.epochState x.epoch = 4)) → TaskRec.graph r = false ∨ TaskRec.npred r = 0 →
        x.state = .ready ∨ TaskRec.kind r = 0 ∧ x.state = .dispatched x.split.1 x.split.2)) ∧
  (s.drained st 1 2 → ∃ u, exec (.tsignal a) s = .next ((s.signalNode ((st.s a).toNat % 2 ^ 18) st.pdom.toNat).putStrand u) ∧
    st.OnlyMoved u s.cycle (st.past 1)) ∧
  (∀ n x, s.nodeTask n = some x → x.pdom = st.pdom.toNat → ∀ m, x.state = .node m → s.signalNode n st.pdom.toNat =
    if 1 < m then s.mapTask x.key (fun y => { y with state := .node (m - 1) }) else s.readyTask x.key) ∧
  (¬ s.drained st 1 2 → ∀ i ∈ [.tspawn d a, .tsignal a], exec i s = .next (s.putStrand (st.standsAgain s.cycle))) ∧
  (held → exec (.tspawn d a) s = .next (s.putStrand (st.standsAgain s.cycle))) ∧
  (∀ n q, n = (st.s a).toNat % 2 ^ 12 → s.queue? n = some q → n < s.hg.qtcount.toNat → k.toNat ≤ 2 →
    ∃ u, exec (.tqrd d a k) s = .next (s.putStrand u) ∧ st.WroteS u s.cycle (st.past 1) d (BitVec.ofNat 32
      (if k = 2 then s.hg.frame.toNat % 2 ^ 32 else if k = 0 then (q.tail + 2 ^ 32 - q.head % 2 ^ 32) % 2 ^ 32
       else if (q.tail + 2 ^ 32 - q.head % 2 ^ 32) % 2 ^ 32 = 0 then 0 else min ((s.cycle - q.oldestAt) / 64) (2 ^ 32 - 1))))

/-! ### Special registers, exceptions and maintenance (14 R292 to R300; 16 R319, R320; 19 R342 to R345; 20 R366) -/

/-- CSRR and CSRW (R292, R293, R366). A reserved number, and a 64-bit CSR at d = 127, raise ILLEGAL; an access that the level does not permit
raises PRIV or, where the table says so, is a write that does nothing. A read gives s[d], or the pair of a 64-bit CSR, the register's value;
a write gives the register the value, within its fields. The choices of the model in it: log entries 14 (the power field of CLKSTAT), 16
(what some event sources count). -/
def Obligations.CsrsAreReadAndWritten : Prop := ∀ (d : BitVec 7) (c : BitVec 14) (s : State) (st : Strand), s.curStrand = some st →
  ∀ n : Nat, n = c.toNat → ∀ k : Core, k = s.core st.at_.die st.at_.core → ∀ v : Bool → BitVec 64, v = (fun w => if w then st.pair d else (st.s d).zeroExtend 64) →
  ∀ bad : BitVec 1 → BitVec 64 → State, bad = (fun fn x => s.raise st x ((wordC 0x70 (0#3 ++ fn) d c).zeroExtend 64)) →
  (Machine.csrWide n = none ∨ (Machine.csrWide n = some true ∧ d = 127) → exec (.csrr d c) s = .next (bad 0 1) ∧ exec (.csrw d c) s = .next (bad 1 1)) ∧
  (∀ w, Machine.csrWide n = some w → (w = true → d ≠ 127) →
    (s.csrRight st n false = .priv → exec (.csrr d c) s = .next (bad 0 2)) ∧
    (s.csrRight st n false ≠ .priv → ∃ u, exec (.csrr d c) s = .next (s.putStrand u) ∧
      if w then st.WrotePair u s.cycle (st.past 1) d (s.csrGet st n) else st.WroteS u s.cycle (st.past 1) d ((s.csrGet st n).extractLsb' 0 32)) ∧
    (s.csrRight st n true = .priv → exec (.csrw d c) s = .next (bad 1 2)) ∧
    (s.csrRight st n true = .ignored → ∃ u, exec (.csrw d c) s = .next (s.putStrand u) ∧ st.OnlyMoved u s.cycle (st.past 1)) ∧
    (s.csrRight st n true = .yes → (∀ x ∈ [(0x000, { st with rm := (v w).extractLsb' 0 2 }), (0x001, { st with fpflags := (v w).extractLsb' 0 5 }),
        (0x010, { st with plev := (v w).getLsbD 1 }), (0x012, { st with tval := v w }), (0x013, { st with epc := (v w).extractLsb' 0 57 })],
      n = x.1 → exec (.csrw d c) s = .next (s.putStrand ((x.2 : Strand).retire s.cycle 1))) ∧
      (0x100 ≤ n → ∃ u, exec (.csrw d c) s = .next ((s.csrPutUnit st.at_.die st.at_.core n (v w)).putStrand u) ∧ st.OnlyMoved u s.cycle (st.past 1)))) ∧
  (∀ wr, s.csrRight st 0x000 wr = .yes ∧ s.csrRight st 0x001 wr = .yes ∧ (st.level = true → s.csrRight st n wr = .yes) ∧
    (st.level = false → s.csrRight st 0x010 wr = (if wr then .priv else .yes) ∧
      (∀ m, m ∈ [0x011, 0x020, 0x021, 0x380] ∨ (0x220 ≤ m ∧ m ≤ 0x22F) → s.csrRight st m wr = if wr then .ignored else .yes) ∧
      (∀ m, m ∈ [0x012, 0x013] ∨ (0x100 ≤ m ∧ m ≤ 0x21F) ∨ (0x300 ≤ m ∧ m ≤ 0x307) ∨ (0x310 ≤ m ∧ m ≤ 0x32F) → s.csrRight st m wr = .priv) ∧
      (∀ j < 8, s.csrRight st (0x308 + j) wr = if (k.evsel.getD j 0).getLsbD 30 then (if wr then .ignored else .yes) else .priv) ∧
      (∀ j < 32, s.csrRight st (0x330 + j) wr = if ((s.die st.at_.die).devsel.getD j 0).getLsbD 30 then (if wr then .ignored else .yes) else .priv))) ∧
  (∀ x ∈ [(0x000, st.rm.zeroExtend 64), (0x001, st.fpflags.zeroExtend 64), (0x010, (0#62 ++ BitVec.ofBool st.plev ++ BitVec.ofBool st.level)),
      (0x011, st.cause), (0x012, st.tval), (0x013, st.epc.zeroExtend 64), (0x020, BitVec.ofNat 64 s.cycle), (0x021, BitVec.ofNat 64 (s.timePs / 1000)),
      (0x100, k.tvec.zeroExtend 64), (0x101, k.srseed.zeroExtend 64), (0x102, k.leaseL1.zeroExtend 64), (0x103, k.ssbThresh.zeroExtend 64),
      (0x104, k.mxring.zeroExtend 64), (0x110, k.engfa), (0x200, (s.die st.at_.die).leaseRdc.zeroExtend 64), (0x201, (s.die st.at_.die).occsel.zeroExtend 64),
      (0x202, (s.die st.at_.die).memerrPar), (0x203, (s.die st.at_.die).memerrCor)], s.csrGet st x.1 = x.2) ∧
  (∀ j < 16, s.csrGet st (0x210 + j) = ((s.die st.at_.die).waymask.getD j 0).zeroExtend 64) ∧
  (∀ j < 8, s.csrGet st (0x300 + j) = (k.evsel.getD j 0).zeroExtend 64 ∧ s.csrGet st (0x308 + j) = k.evcnt.getD j 0) ∧
  (∀ j < 32, s.csrGet st (0x310 + j) = ((s.die st.at_.die).devsel.getD j 0).zeroExtend 64 ∧
    s.csrGet st (0x330 + j) = (s.die st.at_.die).devcnt.getD j 0) ∧
  (∀ w : BitVec 64, ∀ x ∈ [(0x100, { k with tvec := w.extractLsb' 0 57 &&& ~~~3 }), (0x101, { k with srseed := if w.extractLsb' 0 32 = 0 then 0x2545F491 else w.extractLsb' 0 32 }),
      (0x102, { k with leaseL1 := w.extractLsb' 0 24 }), (0x103, { k with ssbThresh := w.extractLsb' 0 16 })],
    s.csrPutUnit st.at_.die st.at_.core x.1 w = s.setCore st.at_.die st.at_.core x.2)

/-- Taking an exception and returning from one (R342, R344, R345, R295, R296). At program level the causes enter CAUSE, TVAL and EPC are
written, PLEV takes LEVEL, LEVEL is 1 and the PC is TVEC's. A core whose TVEC is 0 ends the task after the registers are written, and a
cause at handler level sets NESTED, leaves TVAL and EPC, and ends the task. ERET returns to EPC and PLEV, and is to enter again while CAUSE
is not zero. The choices of the model in it: log entry 47 (a core whose TVEC is 0). -/
def Obligations.ExceptionsAreTakenAndLeft : Prop := ∀ (s : State) (st : Strand), s.curStrand = some st →
  ∀ tvec : Addr, tvec = (s.core st.at_.die st.at_.core).tvec →
  (∀ (x : Strand) (causes tval : BitVec 64) (epc : Addr), x.at_ = st.at_ → x.level = false → ∀ t : Strand,
    t = { x with blocked := none, readyAt := s.cycle + 1, cause := x.cause ||| causes, tval := tval, epc := epc, plev := false, level := true, pc := if tvec = 0 then epc else tvec } →
    (tvec ≠ 0 → s.deliver x causes tval epc = s.putStrand t) ∧
    (tvec = 0 → s.deliver x causes tval epc = (s.endTaskBy t causes).putStrand { t with stopped := true, reenter := 0, due := 0 })) ∧
  (∀ (x : Strand) (causes tval : BitVec 64) (epc : Addr), x.level = true → ∀ t : Strand,
    t = { x with blocked := none, readyAt := s.cycle + 1, cause := x.cause ||| causes ||| (1 <<< 40) } →
    s.deliver x causes tval epc = (s.endTaskBy { t with tval := tval, pc := epc } (causes ||| (1 <<< 40))).putStrand
      { t with stopped := true, reenter := 0, due := 0 }) ∧
  (∀ (x : Strand) (causes : BitVec 64), ∀ k ∈ s.hg.tasks, k.key = x.task → k.endRec = none → ∃ j ∈ (s.endTaskBy x causes).hg.tasks,
    j.key = k.key ∧ j.state = .ending ∧ (k.state ≠ .ending → j.status = 3)) ∧
  (∀ i : BitVec 14, exec (.trap i) s = .next (s.deliver st.tick (1 <<< 3) (i.zeroExtend 64) (st.past 1))) ∧
  (st.level = true → ∃ u, exec .eret s = .next (s.putStrand u) ∧
    u = { st.tick with pc := st.epc, blocked := none, readyAt := s.cycle + 1, level := st.plev, plev := false, reenter := if st.cause = 0 then 0 else 1 }) ∧
  (st.level = false → exec .eret s = .next (s.raise st 2 ((wordA 0x72 0 0 0 0).zeroExtend 64))) ∧
  (∀ a : BitVec 7, (st.level = true → ∃ u, exec (.cclr a) s = .next (s.putStrand u) ∧
      ({ st with cause := st.cause &&& ~~~ (st.pair a) } : Strand).OnlyMoved u s.cycle (st.past 1)) ∧
    (st.level = false → exec (.cclr a) s = .next (s.raise st 2 ((wordA 0x72 1 0 a 0).zeroExtend 64)))) ∧
  (∀ k : BitVec 7, (s.mg.dbg = 0 → ∃ u, exec (.bkpt k) s = .next (s.putStrand u) ∧ st.OnlyMoved u s.cycle (st.past 1)) ∧
    (s.mg.dbg ≠ 0 → ¬ (s.mg.dbg = 2 ∧ s.mg.arm = true) → ∃ u, exec (.bkpt k) s = .next ((s.traceStrand st 1 k.toNat 0).putStrand u) ∧
      st.OnlyMoved u s.cycle (st.past 1)) ∧
    (s.mg.dbg = 2 → s.mg.arm = true → exec (.bkpt k) s = .next ((s.putStrand { st with stopped := true }).askCapture 0 st.task 0))) ∧
  (∀ a k : BitVec 7, ∃ u, exec (.tmark a k) s =
    .next ((if s.mg.dbg = 0 then s else s.traceStrand st 2 k.toNat (st.s a).toNat).putStrand u) ∧ st.OnlyMoved u s.cycle (st.past 1))

/-- ISYNC and CMAINT (R154, R298 to R300). ISYNC discards the fetched words. L1INV empties the core's L1 and removes the load entries of its
reuse table, or removes one line and the load entries in it; TLBINV removes entries from the core's and the die's TLBs, SHOOT from every
TLB, waiting for what translated through them; RDCINV empties the die's RDC or removes one line. Lines whose fill is in flight are not
installed where L1INV or RDCINV removes them. At program level the four raise PRIV. The choices of the model in it: log entries 27 (parkings that
TLBINV and SHOOT release), 28 (what SHOOT waits for). -/
def Obligations.MaintenanceRemovesCopies : Prop := ∀ (d a b : BitVec 7) (s : State) (st : Strand), s.curStrand = some st →
  ∀ die core : Nat, die = st.at_.die → core = st.at_.core →
  ∀ passes : Instr → State → Prop, passes = (fun i t => ∃ u, exec i s = .next (t.putStrand u) ∧ (t.seen st).OnlyMoved u s.cycle (st.past 1)) →
  ∀ hit : Nat → Nat → Bool, hit = (fun p q => if b = 0 then p = (st.s d).toNat % 256 && q = pageOf (st.pairAddr a).toNat
    else if b = 1 then p = (st.s d).toNat % 256 else true) →
  ∀ quiet : State → Prop, quiet = (fun t => t = { s with cores := t.cores, dies := t.dies, strands := t.strands, bundles := t.bundles, evBuf := t.evBuf, xreads := t.xreads }) →
  ∀ without : (ReuseLoad → Bool) → List ReuseEntry → List ReuseEntry, without = (fun f l => l.filter fun x => match x.load with | some y => !f y | none => true) →
  (∃ u, exec .isync s = .next (s.putStrand u) ∧ ({ st with fbuf := none } : Strand).OnlyMoved u s.cycle (st.past 1)) ∧
  (st.level = false → ∀ x ∈ [(.l1inv a b, wordA 0x73 0 0 a b), (.tlbinv d a b, wordA 0x73 1 d a b), (.shoot d a b, wordA 0x73 2 d a b),
    (.rdcinv a b, wordA 0x73 3 0 a b)], exec x.1 s = .next (s.raise st 2 (x.2.zeroExtend 64))) ∧
  (st.level = true → b = 0 → ∃ t, passes (.l1inv a b) t ∧ quiet t ∧
    t.core die core = { s.core die core with l1 := [], reuse := without (fun _ => true) (s.core die core).reuse } ∧
    ∀ r ∈ t.xreads, r.src = die → r.strand.core = core → r.noL1 = true) ∧
  (st.level = true → b ≠ 0 → ∀ va, va = (st.pairAddr a).toNat → ∀ l, addrKind va = .virt →
    s.tlbLeaf die (some core) st.pdom.toNat (pageOf va) = some l → ∃ t, passes (.l1inv a b) t ∧ quiet t ∧
      t.core die core = { s.core die core with l1 := (s.core die core).l1.filter (fun x => x.atom / 4 ≠ l.pa va / 128), reuse := without (fun y => y.atoms.any fun x => x / 4 = l.pa va / 128) (s.core die core).reuse } ∧
      ∀ r ∈ t.xreads, r.src = die → r.strand.core = core → r.pa / 128 = l.pa va / 128 → r.noL1 = true) ∧
  (st.level = true → ∃ t, passes (.tlbinv d a b) t ∧ quiet t ∧ (∀ e f, ((t.core e f).tlb = if (e, f) = (die, core) then
      (s.core e f).tlb.filter fun x => !hit x.pdom x.page else (s.core e f).tlb) ∧ (t.core e f).l1 = (s.core e f).l1) ∧
    ∀ e, ((t.die e).tlb = if e = die then (s.die e).tlb.filter fun x => !hit x.pdom x.page else (s.die e).tlb) ∧ (t.die e).rdc = (s.die e).rdc) ∧
  (st.level = true → ∃ t, quiet t ∧ (t.shootWaits s.nextId s.cycle = false → passes (.shoot d a b) t) ∧
    (t.shootWaits s.nextId s.cycle = true → exec (.shoot d a b) s = .next (State.putStrand { t with nextId := s.nextId + 1 }
      ({ t.seen st with blocked := some { wait := .shoot s.nextId s.cycle, len := 1, woken := false, since := s.cycle } } : Strand))) ∧
    (∀ e ≤ 2, ∀ f, (t.core e f).tlb = (s.core e f).tlb.filter fun x => !hit x.pdom x.page) ∧
    ∀ e ≤ 2, (t.die e).tlb = (s.die e).tlb.filter fun x => !hit x.pdom x.page) ∧
  (st.level = true → ∃ t, passes (.rdcinv a b) t ∧ quiet t ∧ t.die die = { s.die die with rdc := (s.die die).rdc.filter (fun x => b ≠ 0 ∧ x.atom / 4 ≠ (st.pair a).toNat % 2 ^ 48 / 128) } ∧
    ∀ r ∈ t.xreads, r.src = die → (b = 0 ∨ r.pa / 128 = (st.pair a).toNat % 2 ^ 48 / 128) → r.noRdc = true)

/-! ### Masters, power and display heads (01 R20 to R23; 03 R60; 15 R303 to R305; 16 R315, R319; 20 R351; 21 R375; 23 R386, R392) -/

/-- Register writes of the masters (R60, R272, R303 to R305, R351, R375, R386). Only the owner's are taken; a write leaves the writable bits of
its register. HG_FKILL frees the merge entries of the page, and every strand parked on it is in its handler with PAGE. MST_OWN is claimed
when free or offered, and given up by its owner. The choices of the model in it: log entries 25 (supervisor software as master 0), 27 (merge
entries of units). -/
def Obligations.MastersWriteTheRegisters : Prop := ∀ (s : State) (m : Nat) (v : BitVec 64), s.booted = true → (m = 1 → s.port.hostDown = false) →
  (m ≠ 0 → s.port.own ≠ m → ∀ i ∈ [.hgHtail m v, .hgPolicy m v, .hgQtcount m v, .hgFkill m v, .hostIrq m v, .azRetrain m v, .azClrpart m v,
    .flDom m 0 v, .dhTrain m 0 v, .dhEnable m 1 v, .mgDbg 1 v, .mgPwrReq 1 v], exec i s = .next s) ∧
  (1 ≤ m → m ≤ 3 → s.port.own = m →
    exec (.hgHtail m v) s = .next { s.leaveIdle with hg := { s.hg with htail := v &&& 0xFFFFFFFF } } ∧
    (∃ t, exec (.hgPolicy m v) s = .next t ∧ t = { s with hg := { s.hg with policy := v &&& 0xFFFFFFFF03, tasks := t.hg.tasks } } ∧
      (bitsNat s.hg.policy.toNat 15 12 = bitsNat (v.toNat &&& 0xFFFFFFFF03) 15 12 → t.hg.tasks = s.hg.tasks)) ∧
    (∃ n, n ≤ 4096 ∧ (v.toNat % 8192 ≤ 4096 → n = v.toNat % 8192) ∧ exec (.hgQtcount m v) s =
      .next { s with hg := { s.hg with qtcount := BitVec.ofNat 64 n, queues := [], qtPend := List.range n } }.registerPending) ∧
    (∀ hit : MergeEntry → Bool, hit = (fun e => e.faulted && e.page = bitsNat v.toNat 56 21 && e.pdom = v.toNat % 256) →
      ∃ t, exec (.hgFkill m v) s = .next t ∧ (∀ d, (t.die d).merge = (s.die d).merge.filter fun e => !hit e) ∧
        (∀ d x, (d, x) ∈ s.dies → ∀ e ∈ x.merge, hit e = true → ∀ u ∈ e.units, u ∈ t.hg.refused) ∧ t.mem = s.mem ∧
        ((s.strands.map Strand.at_).Pairwise (· ≠ ·) → ∀ st ∈ s.strands,
          ((∃ b d va, st.blocked = some b ∧ b.wait = .parked d (v.toNat % 256) va ∧ pageOf va = bitsNat v.toNat 56 21) →
            ∃ y ∈ t.strands, y.at_ = st.at_ ∧ y.level = true ∧ y.blocked = none ∧ y.cause.getLsbD 12 = true) ∧
          ((∀ b d va, st.blocked = some b → b.wait ≠ .parked d (v.toNat % 256) va ∨ pageOf va ≠ bitsNat v.toNat 56 21) → st ∈ t.strands))) ∧
    (∃ t, exec (.hostIrq m v) s = .next t ∧ t = { s with port := { s.port with msix := t.port.msix } } ∧
      ∀ k, k ∈ t.port.msix ↔ k ∈ s.port.msix ∨ (4 ≤ v.toNat % 32 ∧ k = v.toNat % 32)) ∧
    exec (.azRetrain m v) s = .next (if v.getLsbD 0 ∧ s.link.stopped ∧ !s.link.training then
      { s with link := { s.link with training := true, stopped := false } } else s) ∧
    exec (.azClrpart m v) s = .next (if s.link.clrpart.getLsbD 63 then s
      else { s with link := { s.link with clrpart := (v &&& 0xFFFFFFFF0000) ||| if v.getLsbD 0 then 0x8000000000000000 else 0 } }) ∧
    (∀ n < 256, (∀ c ∈ s.gx.calls, c.ord = true → c.dom = n → c.stage = 3) → ∃ t, exec (.flDom m n v) s = .next t ∧
      t = { s with gx := { s.gx with domains := t.gx.domains, calls := s.gx.calls.map fun c => if c.ord && c.dom = n && c.stage = 3 then { c with detached := true } else c } } ∧
      t.domain n = { n := n, next := v.toNat % 2 ^ 16, apply := v.toNat / 2 ^ 16 % 2 ^ 16, marks := [] } ∧ ∀ k, k ≠ n → t.domain k = s.domain k) ∧
    (∀ n < 2, ∀ h, s.gx.heads[n]? = some h →
      exec (.dhEnable m n v) s = .next { s with gx := { s.gx with heads := s.gx.heads.set n (h.write 0 v) } } ∧
      exec (.dhTrain m n v) s = .next (if v.getLsbD 1 then { s with gx := { s.gx with heads := s.gx.heads.set n (h.write 0 v) } } else s) ∧
      (v.getLsbD 1 = true → (h.write 0 v).training = true) ∧ (v.getLsbD 0 = false → (h.write 0 v).scanning = false) ∧
      (h.regs.length = 7 → (h.write 0 v).regs.getD 0 0 = v &&& 0x71)) ∧
    (∀ x : Nat × State, x ∈ [(0x2000000000, { s with hg := { s.hg with hqbase := v &&& 0x01FFFFFFFFFFF000 } }), (0x2000000008, { s with hg := { s.hg with hqsize := v &&& 0x1FFFF } }),
        (0x2000000030, { s with hg := { s.hg with bwbase := v &&& 0x01FFFFFFFFE00000 } }), (0x2000000040, { s with hg := { s.hg with qtbase := v &&& 0x01FFFFFFFFFFF000 } }),
        (0x2000000058, { s with hg := { s.hg with fqbase := v &&& 0x01FFFFFFFFFFFFE0 } }), (0x2000000068, { s with hg := { s.hg with fqhead := v &&& 0xFFFFFFFF } }),
        (0x2000000100, { s with hg := { s.hg with serr := v &&& 0xF01 } }), (0x2000000108, { s with hg := { s.hg with dmpbase := v &&& 0xFFFFFFE00000 } }),
        (0x2000001000, { s with gx := { s.gx with rptol := v &&& 0xFFFFFFFF } }), (0x2000001008, { s with gx := { s.gx with svage := v &&& 0xFFFFFF } }),
        (0x2000002008, { s with port := { s.port with hand := v.toNat % 4 } }), (0x2000003008, { s with link := { s.link with partid := v &&& 0xF } }),
        (0x2000003020, { s with link := { s.link with cisBase := v &&& 0xFFFFFFFFFFC0 } }), (0x2000004000, { s with gx := { s.gx with leaseRdc := v &&& 0xFFFFFFFF } }),
        (0x2000010008, { s with port := { s.port with ptroot := alSet 1 (v &&& 0xFFFFFFFFE001) s.port.ptroot } }),
        (0x2002000000 + 8 * 0x200, s.setDie 1 { s.die 1 with leaseRdc := v.extractLsb' 0 32 }), (0x2002010000 + 8 * 0x201, s.setDie 2 { s.die 2 with occsel := v.extractLsb' 0 9 })] →
      exec (.registerWrite m (BitVec.ofNat 48 x.1) v) s = .next x.2)) ∧
  (1 ≤ m → v.toNat % 4 = m → s.port.own = 0 ∨ s.port.hand = m → ∃ t, exec (.mstOwn m v) s = .next t ∧ t.port.own = m ∧
    t.port.hand = (if s.port.hand = m then 0 else s.port.hand) ∧ (s.port.own ≠ m → 2 ∈ t.port.msix) ∧
    t = { s with port := { s.port with own := t.port.own, hand := t.port.hand, msix := t.port.msix } }) ∧
  (m ≠ 0 → v.toNat % 4 = 0 → s.port.own = m → ∃ t, exec (.mstOwn m v) s = .next t ∧ t.port.own = 0 ∧ 2 ∈ t.port.msix ∧
    t = { s with port := { s.port with own := 0, msix := t.port.msix } }) ∧
  (1 ≤ m → v.toNat % 4 ≠ m → ¬ (v.toNat % 4 = 0 ∧ s.port.own = m) → exec (.mstOwn m v) s = .next s)

/-- Power, display heads, the management file and the loss of a master (R20 to R23, R315, R319, R326, R375, R386, R392). A measurement is taken 1 ms
after the last, and the clock moves by one step of 25 MHz by the mean of the last 10 ms; a refresh changes nothing. A write to the management file
is taken from the I3C master while it owns the device. The choices of the model in it: log entries 31 (which modes a link rate carries), 54 (what
a change of the power state raises), 64 (the bounds of the clock), 65 (what a head shows while it trains). -/
def Obligations.PowerHeadsAndManagement : Prop := ∀ (s : State),
  (∀ (mw : Nat) (l : List (Nat × Nat)), l = (s.timePs, mw) :: s.mg.samples.filter (fun x => s.timePs < x.1 + 10 ^ 10) → ∀ sum, sum = (l.map Prod.snd).sum →
    ((∃ x ∈ s.mg.samples, s.timePs < x.1 + 10 ^ 9) → exec (.powerSample mw) s = .next s) ∧
    ((∀ x ∈ s.mg.samples, x.1 + 10 ^ 9 ≤ s.timePs) → ∃ t, exec (.powerSample mw) s = .next t ∧
      t = { s with mg := { s.mg with samples := l, clock := t.mg.clock } } ∧
      (650000 * l.length < sum → t.mg.clock = max 1200 (s.mg.clock - 25)) ∧
      (sum < 620000 * l.length → t.mg.clock = max 1200 (min s.mg.cfgClock (s.mg.clock + 25))) ∧
      (620000 * l.length ≤ sum → sum ≤ 650000 * l.length → t.mg.clock = s.mg.clock))) ∧
  (∀ die chan, exec (.dramRefresh die chan) s = .next s) ∧
  (∀ (n : Nat) (h : Head), s.gx.heads[n]? = some h → ∀ g : Head → State, g = (fun x => { s with gx := { s.gx with heads := s.gx.heads.set n x } }) →
    (∀ ok, h.training = true → h.regs.length = 7 → ∃ x, exec (.dhTrainDone n ok) s = .next (g x) ∧ x = { h with training := false, rate := h.want, regs := x.regs } ∧
      ∀ k, x.regs.getD k 0 = if k = 6 then (h.regs.getD 6 0 &&& ~~~1) ||| (if ok = true ∧ h.want ≠ 7 then 1 else 0) else h.regs.getD k 0) ∧
    ((h.regs.getD 0 0).getLsbD 0 = true → (h.regs.getD 6 0).getLsbD 0 = true → s.link.paired = false → h.regs.length = 7 → h.latched.length = 7 →
      Config.linkCarries h.rate (h.latched.getD 3 0).toNat (h.latched.getD 4 0).toNat (h.latched.getD 5 0).toNat (h.regs.getD 2 0).toNat = true →
      ∃ x, exec (.dhFrameStart n) s = .next (g x) ∧ x = { h with scanning := true, row := 0, latched := x.latched, regs := x.regs } ∧
        (∀ k, x.latched.getD k 0 = if k = 1 ∨ k = 2 then h.regs.getD k 0 else h.latched.getD k 0) ∧
        ∀ k, x.regs.getD k 0 = if k = 6 then h.regs.getD 6 0 + 0x100000000 else h.regs.getD k 0) ∧
    ((h.regs.getD 0 0).getLsbD 0 = false ∨ (h.regs.getD 6 0).getLsbD 0 = false ∨ s.link.paired = true →
      exec (.dhFrameStart n) s = .next (g { h with scanning := false }))) ∧
  (Memory.wf s.mem = true → s.link.clrpart.getLsbD 63 = true → (∀ w ∈ s.xwrites, w.src ≠ 0) → ∀ lo : Nat,
    lo = bitsNat s.link.clrpart.toNat 47 21 * 2 ^ 21 + bitsNat s.link.clrpart.toNat 20 16 * 2 ^ 16 → ∃ t, exec .partClearDone s = .next t ∧
    (∀ a, readByte t.mem a = if lo ≤ a ∧ a < lo + 2 ^ 16 then 0 else readByte s.mem a) ∧
    (∀ p, p ∈ t.poison ↔ p ∈ s.poison ∧ (p < lo / 32 ∨ (lo + 2 ^ 16) / 32 ≤ p)) ∧ (∀ p, p ∈ t.lost ↔ p ∈ s.lost ∧ (p < lo / 32 ∨ (lo + 2 ^ 16) / 32 ≤ p)) ∧
    t.link = { s.link with clrpart := s.link.clrpart &&& 0x7FFFFFFFFFFFFFFF } ∧ t.hg = s.hg) ∧
  (∃ t, exec .hostLinkDown s = .next t ∧ t.port.hostDown = true ∧ t.port.own = (if s.port.own = 1 then 0 else s.port.own) ∧
    t.port.hand = (if s.port.own = 1 ∨ s.port.hand = 1 then 0 else s.port.hand) ∧ t.port.ibi = s.port.ibi + 1 ∧
    (s.booted = true → 2 ∈ t.port.msix) ∧ t = { s with port := t.port }) ∧
  (∃ t, exec .i3cTargetReset s = .next t ∧ t.port.hostDown = s.port.hostDown ∧ t.port.own = (if s.port.own = 3 then 0 else s.port.own) ∧
    t.port.hand = (if s.port.own = 3 ∨ s.port.hand = 3 then 0 else s.port.hand) ∧ t.port.ibi = s.port.ibi + 1 ∧
    (s.booted = true → 2 ∈ t.port.msix) ∧ t = { s with port := t.port }) ∧
  (∀ v : BitVec 64, s.booted = true → s.port.own = 3 → s.mg.pwrCur ≠ 1 →
    exec (.mgDbg 3 v) s = .next (if v.toNat % 4 = 3 ∨ (v.toNat % 4 = 2 ∧ s.mg.sec = 0) then s
      else { s with mg := { s.mg with dbg := v.extractLsb' 0 2, arm := v.getLsbD 2 } }) ∧
    (s.mg.pwrCur ≠ 2 ∨ v.extractLsb' 4 2 = 2 → exec (.mgPwrReq 3 v) s = .next { s with mg := { s.mg with pwrReq := v.extractLsb' 4 2 } }) ∧
    (s.mg.pwrCur = 2 → v.extractLsb' 4 2 ≠ 2 → s.mg.resumes = [] → ∃ t, exec (.mgPwrReq 3 v) s = .next t ∧ t.mg.pwrReq = v.extractLsb' 4 2 ∧
      t.mg.pwrCur = 0 ∧ 2 ∈ t.port.msix ∧ t.port.ibi = s.port.ibi + 1) ∧
    exec (.registerWrite 3 0x20 v) s = .next { s with mg := { s.mg with halta := v &&& 0x01FFFFFFFFFFFFC0 } } ∧
    (∀ n < 4, exec (.registerWrite 3 (BitVec.ofNat 48 (0x40 + 8 * n)) v) s =
      .next { s with mg := { s.mg with bps := s.mg.bps.set n (v &&& 0x81FFFFFFFFFFFFFC) } }))

/-! ### Events of the memory system (06 R118, R124, R133; 07 R146 to R149, R151; 08 R160; 11 R223; 15 R301, R302; 20 R359; 21 R369 to R378) -/

/-- Walks, leases, watches, load data, soft errors and mailboxes (R118, R124, R133, R223, R359, R369, R372, R373, R378). The walk of a merge
entry, from the root it began with, serves every strand on the page and frees the entry, or the entry stands faulted and one kind-16 record is
made. A mailbox takes an offer while it has a free entry and the sender's count of them is not zero, which then falls. The choices of the
model in it: log entries 9 (when data arrive), 10 (which entry leaves a TLB), 24 (the operands of an event), 26 (record fields that no rule
fills), 69 (when a mailbox returns its count). -/
def Obligations.MemoryEventsHaveTheirEffects : Prop := ∀ (s : State),
  (∀ (die pdom page : Nat) (e : MergeEntry), (s.die die).merge.find? (fun e => e.pdom = pdom && e.page = page && e.walking) = some e →
    (∀ l, s.walkFrom e.root page (partOf e.va) = .ok l → ∃ t, exec (.walkComplete die pdom page) s = .next t ∧ t = { s with dies := t.dies, strands := t.strands } ∧
      t.die die = { s.die die with merge := (s.die die).merge.filter (· ≠ e), tlb := putTlb2 (s.die die).tlb pdom page l } ∧
      ∀ st ∈ s.strands, (st.OnPage die pdom page → st.reissue s.cycle ∈ t.strands) ∧ (¬ st.OnPage die pdom page → st ∈ t.strands)) ∧
    (∀ r, s.walkFrom e.root page (partOf e.va) = .error r → ∃ t : State, exec (.walkComplete die pdom page) s =
        .next (t.memRecord 16 r e.strands.length (partOf e.va) e.acc die e.core pdom e.task e.va) ∧ t = { s with dies := t.dies, strands := t.strands } ∧
      (t.die die) = { s.die die with merge := (s.die die).merge.map fun y => if y = e then { y with walking := false, faulted := true } else y } ∧
      ∀ st ∈ s.strands, (st.OnPage die pdom page → st.reissue s.cycle ∈ t.strands) ∧ (¬ st.OnPage die pdom page → st ∈ t.strands))) ∧
  (∀ (line : Nat) (gone : Sector → Prop) [DecidablePred gone], gone = (fun y => y.atom / 4 = line ∧ y.expiry ≤ s.cycle) →
    (∀ d < 4, (∃ y ∈ (s.die d).rdc, gone y) → exec (.lineLeaseExpiry d line) s =
      .next (s.setDie d { s.die d with rdc := (s.die d).rdc.filter fun y => !decide (gone y) })) ∧
    (∀ d c, 1 ≤ d → c < 512 → (∃ y ∈ (s.core d c).l1, gone y) → ∃ e, exec (.lineLeaseExpiry (512 * d + c) line) s =
      .next (State.setCore { s with evBuf := e } d c { s.core d c with l1 := (s.core d c).l1.filter fun y => !decide (gone y), reuse := (s.core d c).reuse.filter fun y => match y.load with | some x => !(x.atoms.any fun a => a / 4 = line) | none => true }))) ∧
  (∀ (r : SRef) (st : Strand), s.strandAt r = some st →
    (∀ w, st.watch = some w → w.limit ≤ s.cycle → exec (.watchTimeout r.die r.core r.slot) s = .next (s.putStrand { st with watch := some { w with fired := true } })) ∧
    (∀ n p, st.pend[n]? = some p → p.arrived = false →
      (p.causes = 0 → exec (.loadDataReturn r.die r.core r.slot n) s = .next (s.putStrand
        { st with fpflags := st.fpflags ||| p.flags, pend := st.pend.set n { p with arrived := true, flags := 0 } })) ∧
      (p.causes ≠ 0 → exec (.loadDataReturn r.die r.core r.slot n) s = .next (s.putStrand
        { st with due := st.due ||| p.causes, dueTval := if st.due = 0 then p.tval else st.dueTval,
                  pend := st.pend.set n { p with writes := [], arrived := true, causes := 0, flags := 0 } })))) ∧
  (∀ (a : BitVec 48) (dirty : Bool), a.toNat < 2 ^ 37 → exec (.uncorrectableMemoryError a dirty) s =
    .next (State.memRecord { s with poison := insertNat (a.toNat / 32) s.poison } 17 (if dirty then 2 else 1) 1 0 0 (if a.toNat < 2 ^ 36 then 1 else 2) 0 0 0 (a.toNat / 32 * 32))) ∧
  (∀ (d c off : Nat) (k : Core), k = s.core d c →
    (∀ b o, grantAt off (s.resident d c) = some (b, o) → exec (.scratchpadSoftError d c 1 off) s =
      .next (((s.mapBundle b.handle fun b => { b with poison := insertNat (o / 8) b.poison }).killHolder b.task).memRecord 18 1 1 0 0 d c b.pdom.toNat 0 off)) ∧
    ((∀ x ∈ k.tiles, ¬ (x.base ≤ off / 4096 ∧ off / 4096 < x.base + x.len)) → exec (.scratchpadSoftError d c 2 off) s =
      .next ((s.setCore d c { k with opPoison := insertNat (off / 8) k.opPoison }).memRecord 18 2 1 0 0 d c 0 0 off)) ∧
    (∀ m, k.mboxes[off / 512]? = some m → ∃ items pdom, exec (.scratchpadSoftError d c 3 off) s =
      .next ((s.setCore d c { k with mboxes := k.mboxes.set (off / 512) { m with items := items } }).memRecord 18 3 1 0 0 d c pdom 0 off) ∧
      ∀ n < 16, m.head < 16 → off / 32 % 16 = (m.head + n) % 16 → items = m.items.eraseIdx n)) ∧
  (∀ key k, s.task? key = some k → s.hg.serr.getLsbD 0 = true → k.state ≠ .finishing → k.state ≠ .ending →
    s.killHolder key = s.mapTask key fun t => match t.state with | .finishing | .ending => t | _ => { t with state := .ending, status := 4, noDump := true }) ∧
  (∀ (id bit : Nat) (o : Offer), s.offers.find? (fun o => o.id = id) = some o → o.pending.getLsbD bit = true → ∀ taken : State → State,
    taken = (fun t => { t with offers := t.offers.map fun x => if x.id = o.id then { x with pending := x.pending &&& ~~~(1#7 <<< bit) } else x }) →
    (bit < 3 → ∀ c m, c = sibling o.core bit → (s.core o.die c).mboxes[o.mbox]? = some m → ∀ counts : List Nat, counts = (s.core o.die o.core).mboxFree.getD bit [] →
      (m.items.length < 16 → counts.getD o.mbox 0 ≠ 0 → ∃ t : State, exec (.mailboxAccept id bit) s = .next (t.mailWake o.die c o.mbox) ∧
        t = taken ((s.setCore o.die o.core { s.core o.die o.core with
          mboxFree := (s.core o.die o.core).mboxFree.set bit (counts.set o.mbox (counts.getD o.mbox 0 - 1)) }).setCore o.die c { s.core o.die c with mboxes := (s.core o.die c).mboxes.set o.mbox { m with items := m.items ++ [o.entry] } })) ∧
      (16 ≤ m.items.length ∨ counts.getD o.mbox 0 = 0 → exec (.mailboxAccept id bit) s = .next s)) ∧
    (3 ≤ bit → bit < 6 → (s.engine o.die o.core (bit - 3)).queue.length + (if (s.engine o.die o.core (bit - 3)).run = none then 0 else 1) < 16 → ∃ (e : EngEntry) (t : State), exec (.mailboxAccept id bit) s = .next (taken t) ∧
      t = s.pushEntry o.die o.core (bit - 3) e ∧ e.record = o.entry.toNat % 2 ^ 57 ∧ e.task = o.task ∧ e.pdom = o.pdom) ∧
    (bit = 6 → (∀ c ∈ s.gx.calls, ¬ (c.port = some o.id ∧ c.stage = 0)) → ∃ p, exec (.mailboxAccept id bit) s = .next (s.portOffer o p))) ∧
  (∀ (id : Nat) (w : XWrite), s.xwrites.find? (fun w => w.id = id) = some w → w.since + (w.overdue + 1) * 2 ^ 20 ≤ s.cycle →
    exec (.ackOverdue id) s = .next (State.memRecord { s with xwrites := s.xwrites.map fun x => if x.id = id then { x with overdue := x.overdue + 1 } else x }
      20 0 1 0 1 w.src (w.core.getD 0) w.pdom w.task (w.pa / 32 * 32)))

/-- Writes and requests at their homes, and the host (R146 to R149, R151, R301, R302, R372, R375). A home applies a write as the next of its
sender, its bytes standing there; the acknowledgement lowers the counter. A request is served when its row has been. A host write leaves its
bytes and takes the marks from the atoms that it covers; a read or an atomic answers the old bytes, poisoned when an atom is marked. The
choices of the model in it: log entries 7 (what an event takes of time), 11 (what an access leaves in the L2), 52 (when a read is served). -/
def Obligations.HomesAndHostReachMemory : Prop := ∀ (s : State), Memory.wf s.mem = true →
  (∀ (id : Nat) (w : XWrite), s.xwrites.find? (fun w => w.id = id) = some w →
    (s.writeReady w = true → ∃ t, exec (.crossDieWriteApply id) s = .next t ∧ t.hg = s.hg ∧ t.cores = s.cores ∧
      (t.die w.dst).applied = (s.die w.dst).applied.set w.src (((s.die w.dst).applied.getD w.src 0 + 1) % 2 ^ 16) ∧
      t.xwrites = (s.xwrites.map fun v => if v.id = w.id then { v with applied := true } else v) ∧
      (w.dst = 3 → t.mem = s.mem ∧ t.link.kmem = writeBytes s.link.kmem (w.pa - 2 ^ 48) w.bytes) ∧
      (w.dst ≠ 3 → t.mem = writeBytes s.mem w.pa w.bytes ∧ (w.poison = true → w.pa / 32 ∈ t.poison))) ∧
    (w.applied = true → ∀ c, w.core = some c → ∃ t, exec (.writeAcknowledge id) s = .next t ∧
      (t.core w.src c).outstanding = (s.core w.src c).outstanding - 1 ∧ t.xwrites = s.xwrites.filter (fun v => v.id ≠ w.id) ∧
      (w.src < 4 → w.dst < 4 → (s.die w.src).rows.length = 4 → t.row w.src w.dst = List.zipWith (fun a c => if atLeast c a then c else a) (s.row w.src w.dst) (s.die w.dst).applied) ∧
      t = { s with cores := t.cores, dies := t.dies, xwrites := t.xwrites })) ∧
  (∀ (id : Nat) (r : XRead) (data : Vec), s.xreads.find? (fun r => r.id = id) = some r → s.served r.dst r.row = true →
    ∃ t : State, exec (.readRequestServe id data) s = .next ((t.raiseRow r.src r.dst).pokeAccess r.strand) ∧ t.xreads = s.xreads.filter (fun x => x.id ≠ r.id) ∧
      (r.atomic = false → t.mem = s.mem ∧ t.hg = s.hg) ∧
      (∀ op y x, r.atomic = true → r.dst ≠ 3 → r.kind = .atomic op y → s.atomMark (r.pa / 32) = 0 →
        atomicNew op r.size (getBytes (s.atomData (r.pa / 32)) (r.pa % 32) r.size) r.wdata y = some x →
        t.mem = writeBytes s.mem r.pa (natBytesLE r.size x) ∧ (t.core r.src r.strand.core).outstanding = (s.core r.src r.strand.core).outstanding - 1)) ∧
  (s.booted = true → s.port.hostDown = false → ∀ a : BitVec 48,
    (∀ bs : List Byte, 1 ≤ bs.length → bs.length ≤ 512 → a.toNat + bs.length ≤ 2 ^ 37 → ∃ t, exec (.hostMemoryWrite a bs) s = .next t ∧
      (∀ x, readByte t.mem x = if a.toNat ≤ x ∧ x < a.toNat + bs.length then bs.getD (x - a.toNat) 0 else readByte s.mem x) ∧
      (∀ p, (p ∈ t.poison ↔ p ∈ s.poison ∧ ¬ (a.toNat ≤ 32 * p ∧ 32 * p + 32 ≤ a.toNat + bs.length)) ∧
        (p ∈ t.lost ↔ p ∈ s.lost ∧ ¬ (a.toNat ≤ 32 * p ∧ 32 * p + 32 ≤ a.toNat + bs.length))) ∧
      t = { s with mem := t.mem, poison := t.poison, lost := t.lost, link := { s.link with dirty := t.link.dirty }, strands := t.strands, bundles := t.bundles,
                   dies := t.dies, evBuf := t.evBuf } ∧ ∀ d, t.die d = { s.die d with l2 := (t.die d).l2 }) ∧
    (∀ n, 1 ≤ n → n ≤ 4096 → a.toNat + n ≤ 2 ^ 37 → ∃ t : State, exec (.hostMemoryRead a n) s =
        .next { t with port := { t.port with reply := (readBytes s.mem a.toNat n, s.rangeMarked a.toNat n) } } ∧
      t = { s with dies := t.dies, evBuf := t.evBuf } ∧ ∀ d, t.die d = { s.die d with l2 := (t.die d).l2 }) ∧
    (256 ≤ a.toNat → s.masterRead 1 a.toNat = { s with port := { s.port with regReply := s.regRead64 (a.toNat / 8 * 8) } })) ∧
  (∀ (op width : Nat) (a : BitVec 48) (x y : BitVec 128), (op ≤ 1 ∧ (width = 4 ∨ width = 8)) ∨ (op = 2 ∧ (width = 4 ∨ width = 8 ∨ width = 16)) → a.toNat % width = 0 →
    a.toNat + width ≤ 2 ^ 37 → s.atomMark (a.toNat / 32) = 0 → ∀ old : Nat, old = readNat s.mem a.toNat width →
    ∀ new : Nat, new = (if op = 0 then (old + x.toNat) % 2 ^ (8 * width) else if op = 1 then x.toNat % 2 ^ (8 * width)
      else if old = x.toNat % 2 ^ (8 * width) then y.toNat % 2 ^ (8 * width) else old) →
    (s.booted = true → s.port.hostDown = false → ∃ t, exec (.hostAtomic op a width x y) s = .next t ∧ t.port.reply = (natBytesLE width old, false) ∧
      ∀ b, readByte t.mem b = if a.toNat ≤ b ∧ b < a.toNat + width then (natBytesLE width new).getD (b - a.toNat) 0 else readByte s.mem b) ∧
    (s.booted = true → s.linkUp = true → s.link.paired = true → ∃ t, exec (.companionAtomicop op a width x y) s = .next t ∧ t.link.reply = (natBytesLE width old, false) ∧
      ∀ b, readByte t.mem b = if a.toNat ≤ b ∧ b < a.toNat + width then (natBytesLE width new).getD (b - a.toNat) 0 else readByte s.mem b))

/-! ### The Headgate (02 R38 to R46; 03 R50 to R65; 19 R349, R352, R353) -/

/-- Tasks (R38, R52, R54, R56, R57, R59, R62 to R64, R352). A record of the host task queue, when no marker of that
queue stands unprocessed before it, becomes a task with the next identifier,
disqualified with status 2 or ready; credit grows by one a step; the placeable task that stands first is dispatched; a queue is launched
with its first records; a task that has nothing left completes, and is gone after its record and its successors, once every write of the die
made before it is applied; one whose tile has been freed is ended in place of its dispatch. The choices of the model in
it: log entries 7 (releases of GX drain within a step), 21 (a record that cannot be written), 58 (markers of the host queue come first). -/
def Obligations.HeadgateRunsTasks : Prop := ∀ (s : State),
  (∀ size head va, size = max (s.hg.hqsize.toNat % 2 ^ 17) 1 → head = s.hg.hhead.toNat → head ≠ s.hg.htail.toNat % 2 ^ 32 % size →
    va = (s.hg.hqbase.toNat % 2 ^ 57 / 4096 * 4096 + 64 * head) % 2 ^ 57 → (∀ t ∈ s.hg.tasks, t.state ≠ .accepted) →
    (∀ t ∈ s.hg.tasks, t.state = .ready → TaskRec.kind t.record = 3 → TaskRec.graph t.record = false → t.spawned = true) →
    ∀ u bs v r, s.hgRead 0 0 0 va 64 = .ok u bs → u.task? u.hg.nextKey = none → v = { u with hg := { u.hg with hhead := BitVec.ofNat 64 ((head + 1) % size) } } →
      r = BitVec.ofNat 512 (bytesNat bs) →
    (v.recordReason r ≠ 0 ∨ (TaskRec.ntile r = 0 ∧ TaskRec.epoch r = 0 ∧ TaskRec.graph r = false)) → ∃ t k, exec .taskAcceptance s = .next t ∧ k ∈ t.hg.tasks ∧
      k.key = u.hg.nextKey ∧ k.id = u.hg.nextId ∧ k.record = r ∧ k.addr = va ∧ t.hg.nextId = nextIdOf u.hg.nextId ∧ t.hg.hhead = BitVec.ofNat 64 ((head + 1) % size) ∧
      (v.recordReason r ≠ 0 → k.state = .finishing ∧ k.status = 2 ∧ k.reason = v.recordReason r) ∧ (v.recordReason r = 0 → k.state = .ready ∧ k.credit = 0)) ∧
  (∀ n, n = s.ageStep → ∃ t, exec .agingStep s = .next t ∧ t = { s with hg := { s.hg with tasks := t.hg.tasks } } ∧ ∀ k ∈ s.hg.tasks,
    (n ≠ 0 → k.state = .ready → TaskRec.kind k.record ≠ 3 → k.spilled = false → k.creditAt + n ≤ s.cycle →
      { k with credit := if k.prio + k.credit < 127 then k.credit + 1 else k.credit, creditAt := k.creditAt + n } ∈ t.hg.tasks) ∧
    (n = 0 ∨ k.state ≠ .ready ∨ TaskRec.kind k.record = 3 ∨ k.spilled = true ∨ s.cycle < k.creditAt + n → k ∈ t.hg.tasks)) ∧
  (∀ t l, s.poolOrder = t :: l → s.hg.reserved = none → t.firstAt ≠ 0 → t.firstAt - 1 + s.evmin ≤ s.cycle →
    exec .evminReservation s = .next { s with hg := { s.hg with reserved := some t.key } }) ∧
  (∀ t, s.launchHeld = false → s.poolOrder.find? s.placeable = some t → ∀ started : Task → Task,
    started = (fun k => { k with state := .dispatched [] [], engLeft := 1, tstart := s.timeNs, started := true, credit := 0 }) →
    (s.tileFreed t = true → ∃ e, exec .taskDispatch s = .next e ∧ e = { s with hg := { s.hg with tasks := e.hg.tasks } } ∧ ∀ k ∈ s.hg.tasks,
      ∃ k' ∈ e.hg.tasks, k'.key = k.key ∧ (k.key ≠ t.key → k' = k) ∧ (k.key = t.key → k'.state = .ending ∧ (k.state ≠ .ending → k'.status = 3))) ∧
    (s.tileFreed t = false →
    (TaskRec.kind t.record = 0 → exec .taskDispatch s = .next { s with hg := { s.hg with poolSeq := s.hg.poolSeq + 1, tasks := s.hg.tasks.map fun k =>
      if k.key = t.key then { k with state := .dispatched k.split.1 k.split.2, poolSeq := s.hg.poolSeq, fast := false, spilled := false, credit := 0 } else k } }) ∧
    (TaskRec.kind t.record = 1 → exec .taskDispatch s = .next (s.mapTask t.key started).gxAcquire) ∧
    (TaskRec.kind t.record = 2 → ∀ d c u, d = TaskRec.edie t.record → c = TaskRec.ecore t.record → u = TaskRec.unit t.record → exec .taskDispatch s =
      .next ((s.mapTask t.key started).setEngine d c u { s.engine d c u with queue := (s.engine d c u).queue ++ [engTaskEntry t] }).gxAcquire))) ∧
  (∀ w u bs h head n r m v, s.launchHeld = false → s.nextLaunch = some w → s.hgRead 0 0 0 w.header 64 = .ok u bs → h = bytesNat bs → head = qhHead h →
    n = (if TaskRec.kind w.tmpl = 0 then max (TaskRec.nstr w.tmpl) 1 else 1) → r = (qhTail h + 2 ^ 32 - head) % 2 ^ 32 → 1 ≤ r → r ≤ w.size →
    m = min (min r w.b) (min (98304 / n) (w.size - head % w.size)) →
    (u.mapQueue w.n fun _ => { w with head := head, tail := qhTail h }).unitWrite 0 none 0 0 0 (w.header + 44) (natBytesLE 4 (head + m)) = .ok v () →
    exec (.workQueueLaunch w.n) s = .next ((v.gxRelease.mapQueue w.n fun q => { q with head := (head + m) % 2 ^ 32, oldestAt := v.gxRelease.cycle, flush := q.flush - m }).accept
      (((TaskRec.set w.tmpl 440 384 (w.base + w.esize * (head % w.size))).set 55 49 w.prio).set 93 77 (if TaskRec.kind w.tmpl = 0 then m * n else 0)) w.tmplAt none false true).2) ∧
  (∀ n w u bs, s.queue? n = some w → w.disabled = false → s.hgRead 0 0 0 (w.header + 40) 4 = .ok u bs →
    (bytesNat bs = w.tail → exec (.workQueueTailObserve n) s = .next u) ∧
    (bytesNat bs ≠ w.tail → (bytesNat bs + 2 ^ 32 - w.head % 2 ^ 32) % 2 ^ 32 ≤ w.size → ∃ t : State, t = u.leaveIdle.gxAcquire ∧ exec (.workQueueTailObserve n) s = .next { t with hg := { t.hg with
      queues := t.hg.queues.map fun q => if q.n = w.n then { w with tail := bytesNat bs, oldestAt := if w.r = 0 then t.cycle else w.oldestAt } else q } })) ∧
  (∀ key k, s.task? key = some k →
    (k.state = .dispatched [] [] → k.strandsLeft = 0 → k.engLeft = 0 → k.callsLeft = 0 → exec (.taskCompletion key) s =
      .next (s.mapTask key fun t => { t with state := .finishing, status := 0, relId := s.nextId, poolSeq := s.hg.poolSeq })) ∧
    (k.state = .finishing → (∃ w ∈ s.xwrites, w.src ≠ 0 ∧ w.id < k.relId) → exec (.taskCompletion key) s = .next s) ∧
    (k.state = .finishing → (∀ w ∈ s.xwrites, w.src ≠ 0 → k.relId ≤ w.id) → k.recDone = false → TaskRec.crec k.record = 0 → k.status < 2 → TaskRec.nsucc k.record = 0 →
      exec (.taskCompletion key) s = .next { s.gxRelease with hg := { s.gxRelease.hg with tasks := s.gxRelease.hg.tasks.filter fun x => x.key ≠ key } }) ∧
    (k.state = .finishing → (∀ w ∈ s.xwrites, w.src ≠ 0 → k.relId ≤ w.id) → TaskRec.crec k.record ≠ 0 → k.recDone = false → ¬ (k.status = 2 ∧ k.reason = 7) → ∀ u,
      s.gxRelease.unitWrite 0 none k.pdom k.partid k.id.toNat (TaskRec.crec k.record) (natBytesLE 32 (s.completionRecord k)) = .ok u () →
      exec (.taskCompletion key) s = .next ((u.gxRelease.mapTask key fun t => { t with recDone := true }).closeTask { k with recDone := true })))

/-- Bundles and strands (R26, R34, R38 to R46, R56 to R58, R353). A bundle is placed whole on the core that the distributor chooses, its strands
at the kernel's entry; the later half of a task's unplaced bundles is
stolen, where the asking die has room for the first of them; a bundle of waiting members is evicted and restored; a strand whose wake condition
holds, or has held at the end of a cycle, leaves its wait. The choices of the model in it: log entries 5 (what a grant holds), 18 (the number
of a handle), 53 (which bundles are evicted, and where). -/
def Obligations.BundlesMoveAndStrandsWake : Prop := ∀ (s : State),
  (∀ d t k rest c hd, t.header = some hd → t.left d = k :: rest → s.tileFreed t = false → s.placeOn t d (TaskRec.members t.record k) = some c →
    ∀ placed, placed = (s.mapTask t.key fun x => x.setLeft d rest).placeBundle t d c k hd →
    (s.nextPlacement d (fun _ => true) = some t → exec (.bundlePlacement d) s = .next placed) ∧
    (s.nextPlacement d (fun x => x.fast) = some t → exec (.fastPathPlacement d) s = .next placed) ∧
    ∃ h new, placed.strands = s.strands ++ new ∧ new.map (fun x => x.at_.slot) = (s.slotsFree d c).take (TaskRec.members t.record k) ∧ ∀ i x, new[i]? = some x →
      x.at_.die = d ∧ x.at_.core = c ∧ x.task = t.key ∧ x.bundle = some (h, i) ∧ x.sid = BitVec.ofNat 32 (k * TaskRec.bsize t.record + i) ∧
      x.pc = BitVec.ofNat 57 (TaskRec.entry t.record + 32 + 4 * hd.2) ∧ x.native = decide (hd.1 = s.mg.tag) ∧ x.blocked = none ∧ x.level = false ∧ x.nsb = 1 ∧ x.nvb = 1) ∧
  (∀ d o t l k rest, (d = 1 ∧ o = 2) ∨ (d = 2 ∧ o = 1) → (∀ x ∈ s.hg.tasks, x.left d = []) → s.stealFrom o = some t → l = t.left o →
    ∀ n, n = min (max ((l.length + 1) / 2) 1) s.stealMax → l.drop (l.length - n) = k :: rest →
    ((s.placeOn t d (TaskRec.members t.record k)).isSome = true → exec (.stealRequest d) s =
      .next ((s.mapTask t.key fun x => (x.setLeft o (l.take (l.length - n))).setLeft d (k :: rest)).note d none 76 n t.key)) ∧
    (s.placeOn t d (TaskRec.members t.record k) = none → exec (.stealRequest d) s = .next s)) ∧
  (∀ h b, s.bundle? h = some b → (b.evicting = true ∨ ∃ x, s.evictNext = some x ∧ x.handle = h) →
    ((∃ p ∈ s.members h, p.2.inAccess = true) → exec (.bundleEviction h) s = .next (s.mapBundle h fun b => { b with evicting := true })) ∧
    ((∀ p ∈ s.members h, p.2.inAccess = false) → exec (.bundleEviction h) s = .next (s.evictNow b)) ∧
    (b.handle = h → s.bwPlace (s.evictBytes b) = none → s.evictNow b = { s.mapBundle h (fun b => { b with evicting := false }) with hg := { s.hg with bwFull := true } })) ∧
  (∀ h b d c, s.bundle? h = some b → s.restorable b = true → (d, c) ∈ s.restoreCores b → s.restoreFits b d c = true → b.bw.2 = 0 →
    exec (.bundleRestore h d c) s = .next ((s.restoreBundle b d c).dockStep h)) ∧
  (∀ h b d c u bs, s.bundle? h = some b → s.restorable b = true → (d, c) ∈ s.restoreCores b → s.restoreFits b d c = true → b.bw.2 ≠ 0 →
    s.hgRead 0 0 0 (bitsNat s.hg.bwbase.toNat 56 21 * 2 ^ 21 + b.bw.1) b.bw.2 = .ok u bs → exec (.bundleRestore h d c) s = .next ((u.restoreBundle b d c).dockStep h)) ∧
  (s.hg.bwFull = true → s.evictNext.isSome = true → s.hg.bwReportAt ≤ s.timePs → exec .backwaterFullReport s =
    .next (State.faultRecord { s with hg := { s.hg with bwReportAt := s.timePs + 10 ^ 9 } } 3 0 0 s.hg.bwbase.toNat)) ∧
  (∀ r st b, s.strandAt r = some st → st.blocked = some b → s.mayWake st = true → ∀ (i : Instr) (goes : State → Strand → Prop), i = .strandWake r.die r.core r.slot →
    goes = (fun t x => ∃ u, exec i s = .next (t.putStrand u) ∧ x.OnlyMoved u s.cycle (x.past b.len)) →
    (b.wait = .rcv ∨ (∃ c, b.wait = .flcall c) ∨ (∃ w, b.wait = .rwait w) ∨ (∃ x y n, b.wait = .flagWait x y n) ∨ (∃ y l, b.wait = .sleep y l) → goes s st) ∧
    (∀ k p, b.wait = .barSync k p → goes (s.acquire st.at_.die st.at_.core 0 (st.bundle.map Prod.fst) st.at_) st) ∧
    (b.wait = .mwait → goes s { st with watch := none }) ∧
    (∀ o, b.wait = .qsend o → goes { s with offers := s.offers.filter fun x => x.id != o } st) ∧
    (∀ n dst h m, b.wait = .qrecv n dst → st.bundle = some h → (s.core st.at_.die st.at_.core).mboxes[n]? = some m → m.claim = h.1 → ∀ e l, m.items = e :: l →
      goes ((s.setCore st.at_.die st.at_.core { s.core st.at_.die st.at_.core with mboxes := (s.core st.at_.die st.at_.core).mboxes.set n { m with head := (m.head + 1) % 16, items := l } }).returnCount
          st.at_.die st.at_.core n) (st.setVAt dst e)) ∧
    (∀ h k acq, b.wait = .twaitMet h k acq → goes (if acq = true then s.acquireTile st else s) st))

/-! ### Engines (05 R106 to R110; 12 R234 to R254; 22 R379 to R381) -/

/-- Engine commands (R108, R109, R234 to R239, R241, R243, R246 to R250, R252, R254, R381). A command starts, is read, waits for its barrier link, and
iterates: a 16 by 32 block of C from row blocks of A and B, one step or chunk of an SSCB, one run of bytes, one block of 24 elements; then the
vector of its nest moves on. The bytes of a run are counted once they have reached their homes, before the next run; the state of an SSCB stays in
the engine until its last step writes it. A command that has iterated ends: its release, its barrier arrival, its event flag, its owner; one that
has been stopped does nothing. ENGCTL resumes or abandons what is held, and the ring's next record enters the queue of its MX. The choices of the
model in it: log entries 7 (releases drain within a step), 37 (the stages of a command), 38 (the order of start codes), 39 (numbers that no rule
states). -/
def Obligations.EnginesRunCommands : Prop := ∀ (s : State) (d c : Nat) (r : EngRun) (x : Nat → EngCtx), (∀ u, x u = { d := d, c := c, u := u, r := r }) →
  (∀ u op q rest t, u < 4 → (u = 3 → c % 4 = 0) → s.engine d c u = { queue := q :: rest, run := none } → s.entryStopped q = false → q.group = 0 →
    t = s.setEngine d c u { queue := rest, run := some (s.freshRun q) } → t.Runs d c u (s.freshRun q) 0 ∧ exec (engineEvent d c u op) s = exec (engineEvent d c u op) t) ∧
  (∀ u t m, u < 4 → (u = 3 → c % 4 = 0) → s.Runs d c u r 0 → (r.entry.ring = some m ∧ t = s ∨ ∃ bs, r.entry.ring = none ∧ r.entry.record % 64 = 0 ∧
      s.engReadGood (x u) r.entry.record 64 = .ok t bs ∧ m = BitVec.ofNat 512 (bytesNat bs)) →
    exec (engineEvent d c u r.opc) s = .next ((s.charged t r).mapRun d c u fun old => { r with words := m, stage := 1, tiles := old.tiles })) ∧
  (∀ h n f b, s.bundle? h = some b → b.evicted = false → s.putBar h n f = s.mapBundle h fun b => b.withBar n f) ∧
  (∀ u, u < 4 → (u = 0 → r.opc ≤ 1) → (u = 3 → c % 4 = 0) → s.Runs d c u r 2 →
    (s.linkReady r = true → exec (engineEvent d c u r.opc) s = .next (State.mapRun (if r.acq = true then
      s.charged (s.acquire d c r.scope r.entry.bundle { die := d, core := c, slot := 0 }) r else s) d c u fun r => { r with stage := 3 })) ∧
    (s.linkReady r = false → exec (engineEvent d c u r.opc) s = .next s)) ∧
  (s.Runs d c 0 r 3 → ∀ (i : Instr) (k : Core), (r.opc = 0 ∧ i = .mxMma d c) ∨ (r.opc = 1 ∧ i = .mxMmac d c) → k = s.core d c →
    ∀ (a b e : TileView) (m n j : Nat) (view : Tile → TileView), view = (fun t => { t := t, mem := k.opbuf, poison := k.opPoison }) → a = view a.t → b = view b.t → e = view e.t →
    s.engTile (x 0) (r.f 223 192) = some a.t → s.engTile (x 0) (r.f 255 224) = some b.t → s.engTile (x 0) (r.f 287 256) = some e.t →
    (∀ v ∈ [a, b, e], v.t.state = 2 ∨ (v.t.state = 3 ∧ r.begun = true)) → fmtClass a.t.fmt ≠ 0 → fmtClass a.t.fmt = fmtClass b.t.fmt → e.t.fmt = 0 →
    (m : Int) = (r.f 303 288 : Nat) + r.strideSum 8 336 24 [0, 1, 2, 3, 4] → (n : Int) = (r.f 319 304 : Nat) + r.strideSum 8 344 24 [0, 1, 2, 3, 4] →
    (j : Int) = (r.f 335 320 : Nat) + r.strideSum 8 352 24 [0, 1, 2, 3, 4] → 16 * m + 16 ≤ a.t.rows → 32 * n + 32 ≤ b.t.rows → 16 * m + 16 ≤ e.t.rows → 32 * n + 32 ≤ e.t.cols →
    (∀ v ∈ [a, b], j < (v.t.cols + segLen v.t.fmt - 1) / segLen v.t.fmt) →
    ∀ (zero : Bool) (rowsA rowsB : List Nat) (at_ : Nat → Nat), zero = decide (r.opc = 0 ∧ (m, n) ∉ r.zeroed) → rowsA = (List.range 16).map (16 * m + ·) →
    rowsB = (List.range 32).map (32 * n + ·) → at_ = (fun row => e.rowAt row + 4 * (32 * n)) →
    (∀ row ∈ rowsA, a.poisoned row j = false ∧ a.badScale row j = false ∧ (zero = false → ∀ w ∈ wordsTouched (at_ row) 128, w ∉ k.opPoison)) →
    (∀ row ∈ rowsB, b.poisoned row j = false ∧ b.badScale row j = false) →
    ∀ (old : Nat → List Nat) (new : Nat → List Nat × BitVec 5), old = (fun row => (List.range 32).map fun y => if zero = true then 0 else readNat k.opbuf (at_ row + 4 * y) 4) →
    new = (fun row => mmaRow (groupSize a.t b.t) (a.values row j) (rowsB.map (b.values · j)) (old row)) →
    exec i s = .next (s.iterated ((rowsA.foldl (fun t row => t.writeOpbuf d c (at_ row) ((new row).1.flatMap fun y => natBytesLE 4 y)) s).noteRun (x 0) 11 1) d c 0 r
      { r with flags := r.flags ||| rowsA.foldl (fun f row => f ||| (new row).2) 0, zeroed := if (m, n) ∈ r.zeroed then r.zeroed else (m, n) :: r.zeroed })) ∧
  (s.Runs d c 1 r 3 → ∀ (n : Nat) (u v w : State) (g : Got) (ps : List EngPiece), n = r.f 83 64 →
    s.engRead (x 1) (addrOf ((r.f 248 192 : Nat) + 16 * r.strideSum 20 312 40 [1, 2, 3, 4])) n = .ok u g →
    u.ceTarget (x 1) ((r.f 312 256 : Nat) + 16 * r.strideSum 20 332 40 [1, 2, 3, 4]) n = .ok v ps → w = (v.engPut (x 1) g.bytes g.bad 0 ps).noteRun (x 1) 14 n →
    (r.bhnd = none ∨ r.pbd = false → exec (.ceCopy d c) s = .next (s.iterated w d c 1 r r)) ∧
    (∀ h, r.bhnd = some h → r.pbd = true →
      ((∀ y ∈ w.xwrites, v.nextId ≤ y.id → y.id < w.nextId → y.applied = true) → exec (.ceCopy d c) s =
        .next (s.iterated (w.putBar h r.barNo fun y => { y with pend := y.pend - BitVec.ofNat 56 n }) d c 1 r r)) ∧
      ((∃ y ∈ w.xwrites, v.nextId ≤ y.id ∧ y.id < w.nextId ∧ y.applied = false) → exec (.ceCopy d c) s =
        .next (s.iterated w d c 1 r { r with count := some (v.nextId, w.nextId) })))) ∧
  (∀ a b, r.count = some (a, b) → r.stage = 3 ∨ r.stage = 4 → (s.engine d c 1).run = some r → (∃ w ∈ s.xwrites, a ≤ w.id ∧ w.id < b ∧ w.applied = false) →
    exec (.ceCopy d c) s = .next s ∧ exec (.engineCommandComplete d c 1) s = .next s) ∧
  (s.Runs d c 3 r 3 → c % 4 = 0 → ∀ (t : Tile) (row blk es : Nat) (f : FFmt) (u : State) (bs : List Byte) (xs : List (Option (Bool × Nat × Int) × BitVec 5)) (scale at_ h : Nat)
      (q : List Nat × Word × BitVec 5), h = r.dtl 3 → s.engTile (x 3) h = some t → f = qeSource (r.f 250 249) → es = f.width / 8 →
    (row : Int) = (r.f 367 352 : Nat) + r.strideSum 8 384 16 [0, 1, 2, 3, 4] → (blk : Int) = (r.f 383 368 : Nat) + r.strideSum 8 392 16 [0, 1, 2, 3, 4] →
    row < t.rows → blk < t.cols / 24 → s.engReadGood (x 3) ((r.f 248 192 + row * r.f 287 256 + 24 * blk * es) % 2 ^ 64) (24 * es) = .ok u bs →
    xs = (List.range 24).map (fun i => qeElem f (bytesNat ((bs.drop (es * i)).take es))) → scale = qeScale t.fmt (xs.map Prod.fst) →
    q = qeBlock t.fmt (r.f 251 251 = 1) scale (xs.map Prod.fst) r.rng → at_ = 4096 * t.base + row * t.pitch → ∀ v w : State,
    v = (qeBytes t.fmt blk q.1).foldl (fun s (p : Nat × List Byte) => s.writeOpbuf (handleDie h) (handleCore h) (at_ + p.1) p.2) u →
    w = (if t.scl = true then v.writeOpbuf (handleDie h) (handleCore h) (4096 * t.base + t.scoff + row * (t.cols / 24) + blk) [BitVec.ofNat 8 scale] else v) →
    exec (.qeQuant d (c / 4)) s = .next (s.iterated w d c 3 r { r with rng := q.2.1, flags := xs.foldl (fun a y => a ||| y.2) (r.flags ||| q.2.2) })) ∧
  (s.Runs d c 2 r 3 → ∀ (sv : Nat) (u v : State) (bs : List Byte) (b : Sscb) (k : Core), sv = r.sscbAt → sv % 128 = 0 → s.copyComing (x 2) sv = false → s.engReadGood (x 2) sv 128 = .ok u bs →
    b = { w := bytesNat bs } → b.bad = false → (b.sep = 0 ∨ b.sep = r.epoch) →
    (if r.epoch = 0 ∨ r.entered = true then some (u.core d c) else (u.core d c).enterSscb { sscb := sv, epoch := r.epoch, pdom := r.entry.pdom, partid := r.entry.partid, bundle := r.entry.bundle, pos := 0, done := none }) = some k →
    v = u.setCore d c k → ∀ (form : Bool) (q e o hh pp nn size slot t : Nat), t = r.sub →
    form = (if t = 0 then decide ((if b.thr = 0 then max k.ssbThresh.toNat 1 else b.thr) ≤ b.ll) else r.form) → q = (if form = true then min b.q (b.ll - t) else 1) →
    e = b.ifmt.width / 8 → o = b.ofmt.width / 8 → hh = b.hh → pp = b.pp → nn = b.nn → size = hh * pp * nn → slot = (if r.epoch = 0 then b.sca else b.ssa) →
    ∀ (u1 u2 u3 u4 u5 u6 u7 : State) (xb db bb cb ab dd : List Byte) (sb : List Nat),
    v.engReadGood (x 2) (b.xa + t * hh * pp * e) (q * hh * pp * e) = .ok u1 xb → u1.engReadGood (x 2) (b.dta + t * hh * e) (q * hh * e) = .ok u2 db →
    u2.engReadGood (x 2) (b.ba + t * hh * nn * e) (q * hh * nn * e) = .ok u3 bb → u3.engReadGood (x 2) (b.ca + t * hh * nn * e) (q * hh * nn * e) = .ok u4 cb →
    u4.engReadGood (x 2) b.aa (4 * hh) = .ok u5 ab → u5.engReadGood (x 2) b.da (4 * hh) = .ok u6 dd →
    (t ≠ 0 ∧ r.state ≠ [] → u7 = u6 ∧ sb = r.state) → (t = 0 ∧ b.rst = true → u7 = u6 ∧ sb = List.replicate size 0) →
    (¬ (t ≠ 0 ∧ r.state ≠ []) → ¬ (t = 0 ∧ b.rst = true) → ∃ bs, u6.engReadGood (x 2) slot (4 * size) = .ok u7 bs ∧ sb = patterns .f32 bs size) →
    ∀ (one : Nat → Fl HeadOut) (outs : Fl (List HeadOut)) (yb : Fl (List Byte)) (new : List Nat) (st : List Byte),
    one = (fun h => (if form = true then chunked else recurrent)
      { dt := (List.range q).map fun j => (patterns b.ifmt db (q * hh)).getD (j * hh + h) 0, a := (patterns .f32 ab hh).getD h 0, d := (patterns .f32 dd hh).getD h 0,
        x := (List.range q).map fun j => slice (patterns b.ifmt xb (q * hh * pp)) ((j * hh + h) * pp) pp,
        b := (List.range q).map fun j => slice (patterns b.ifmt bb (q * hh * nn)) ((j * hh + h) * nn) nn,
        c := (List.range q).map fun j => slice (patterns b.ifmt cb (q * hh * nn)) ((j * hh + h) * nn) nn,
        st := (List.range pp).map fun p => slice sb ((h * pp + p) * nn) nn }) →
    outs = Fl.mapList one (List.range hh) → yb = outBytes b.ofmt ((List.range q).flatMap fun j => outs.x.flatMap fun h => h.y.getD j []) →
    new = (outs.x.flatMap fun h => h.st.flatMap fun l => l) → st = new.flatMap (fun v => natBytesLE 4 v) →
    ∀ (v1 v2 v3 v4 y z : State) (py pc ps pe : List EngPiece), u7.engMayWrite (x 2) (b.ya + t * hh * pp * o) yb.x.length = .ok v1 py →
    (if r.epoch = 0 then v1.engMayWrite (x 2) b.sca (4 * size) else .ok v1 []) = .ok v2 pc → v2.engMayWrite (x 2) b.ssa (4 * size) = .ok v3 ps →
    (if r.epoch = 0 then .ok v3 [] else v3.engMayWrite (x 2) (sv + 8) 1) = .ok v4 pe → y = v4.engPut (x 2) yb.x [] 0 py →
    z = (if t + q < b.ll then y else ((y.engPut (x 2) st [] 0 pc).engPut (x 2) st [] 0 ps).engPut (x 2) [BitVec.ofNat 8 r.epoch] [] 0 pe) →
    ∀ (r' : EngRun) (w : State), r' = { r with sub := if t + q < b.ll then t + q else 0, state := if t + q < b.ll then new else [], form := form, entered := true,
                                               flags := r.flags ||| outs.fl ||| yb.fl } →
    w = (if t = 0 then z.noteRun (x 2) (if form = true then 12 else 13) 1 else z) →
    exec (.ssbScan d c) s = .next (if r'.sub ≠ 0 then (s.charged w r).mapRun d c 2 fun old => { r' with tiles := old.tiles } else s.iterated w d c 2 r r')) ∧
  (∀ u, u < 3 ∨ (u = 3 ∧ c % 4 = 0) → ∀ i : Instr, i = .engineCommandComplete d (if u = 3 then c / 4 else c) u → (s.engine d c u).run = some r →
    (s.entryStopped r.entry = true → exec i s = .next s) ∧
    (s.entryStopped r.entry = false → (∀ pa va, r.entry.rdv = some (pa, va) → s.rdvComing pa none = false) → r.count = none →
    (r.stage = 4 → (r.rel = false ∨ r.scope < 2 ∨ (s.core d c).outstanding = 0) → ∀ t : State,
      (r.blnk = false ∨ r.bhnd = none → t = s) → (∀ h, r.bhnd = some h → r.blnk = true → t = s.putBar h r.barNo fun y => { y with arr := if y.arr ≥ 1023 then y.arr else y.arr + 1 }) →
      (r.eve = false → exec i s = .next (t.retireCommand d c u r)) ∧
      (r.eve = true → exec i s = .next (State.mapRun { t with flagBuf := t.flagBuf ++ [((d, c), r.evf, true)] } d c u fun r => { r with stage := 5 }))) ∧
    (r.stage = 4 → r.rel = true → 2 ≤ r.scope → (s.core d c).outstanding ≠ 0 → exec i s = .next s) ∧
    (r.stage = 5 → ((d, c), r.evf, true) ∉ s.flagBuf → exec i s = .next (s.retireCommand d c u r))) ∧
    (r.entry.rdv = none → r.entry.engTask = false ∨ r.abandoned = false → r.entry.bundle = none → r.bhnd = none → s.retireCommand d c u r =
      (s.setEngine d c u { s.engine d c u with run := none }).mapTask r.entry.task fun t => { t with engLeft := t.engLeft - 1, exc := t.exc ||| r.flags })) ∧
  (∀ (v : BitVec 32) (u : Nat) (t : State), u = (v.extractLsb' 4 2).toNat → (u = 3 → c % 4 = 0) → v.getLsbD 9 = true →
    t = s.setCore d c { s.core d c with engSel := v.extractLsb' 4 2, engHold := v.getLsbD 0 } → (t.engine d c u).run = some r → r.held.isSome = true →
    (v.getLsbD 8 = true → exec (.engctlResume d c v) s = .next ((t.clearHeld d c u (t.engTaskId r)).mapRun d c u fun r => { r with held := none })) ∧
    (v.getLsbD 8 = false → exec (.engctlAbandon d c v) s = .next ((t.clearHeld d c u (t.engTaskId r)).abandon d c u r))) ∧
  (∀ (k : Core) (hdr h head size rec_ : Nat) (u v w : State) (bs rs : List Byte) (m : BitVec 512), k = s.core d c → hdr = bitsNat k.mxring.toNat 56 5 * 32 → hdr ≠ 0 →
    k.ringStopped = false → k.mx.queue.length + (if k.mx.run.isSome = true then 1 else 0) < 16 → s.hgRead 0 0 0 hdr 32 = .ok u bs → h = bytesNat bs → head = bitsNat h 151 128 → head ≠ bitsNat h 119 96 →
    size = max (bitsNat h 80 64) 1 → rec_ = (bitsNat h 56 0 + 64 * (head % size)) % 2 ^ 57 → u.hgRead 0 0 0 rec_ 64 = .ok v rs → m = BitVec.ofNat 512 (bytesNat rs) →
    (∀ y ∈ [bitsNat m.toNat 223 192, bitsNat m.toNat 255 224, bitsNat m.toNat 287 256], ∀ t, v.tile y = some t → t.pdom = bitsNat h 95 88 → handleDie y = d → handleCore y = c → t.state = 2) →
    v.unitWrite 0 none 0 0 0 (hdr + 16) (natBytesLE 3 (head + 1)) = .ok w () →
    ∀ q : EngEntry, q =
      { record := rec_, task := 0, pdom := bitsNat h 95 88, partid := bitsNat h 87 84, bundle := none, group := 0, engines := 0, rdv := none, engTask := false, ring := some m } →
    exec (.mxringTailObserve d c) s = .next (w.gxRelease.setCore d c { w.gxRelease.core d c with
      mx := { (w.gxRelease.core d c).mx with queue := (w.gxRelease.core d c).mx.queue ++ [q] }, ringTail := bitsNat h 119 96 }))

/-! ### Flumes (13 R255 to R272; 22 R383 to R385) -/

/-- Weirs, domains, appends and returns (R257, R258, R260, R269, R271, R383, R385). A presented call is admitted when its weir has room, none before
it could be, and its token is within reach; it returns STATUS 7 when its token is not outstanding. A domain passes a done token, or starts the
stored call whose turn it is, with an acquire of GX where it is a .rel call. The sieve takes records in arrival order; one whose bucket is being
flushed waits and lets other keys pass, and with no bucket free the oldest is flushed first. A standing append goes on. A return writes its
payload and then its header; the domain goes on to the next token. The choices of the model in it: log entries 7 (releases drain within a step),
41 (the order of the checks), 43 (appends that find too little room). -/
def Obligations.FlumeCallsMoveThroughTheirQueues : Prop := ∀ (s : State),
  (∀ id c, s.call? id = some c → c.stage = 0 →
    (c.ord = true → s.outstandingToken c.dom c.token c.id = false → exec (.weirAdmit id) s = .next ((s.failCall c 7 0).callTaken c)) ∧
    ((c.ord = true → s.outstandingToken c.dom c.token c.id = true ∧ (s.domain c.dom).ahead c.token < 1024) →
      (s.gx.calls.filter fun x => x.stage = 1 && x.sameWeir c).length < flDepth c.typ →
      (∀ x ∈ s.gx.calls, x.stage = 0 → x.sameWeir c = true → x.id < c.id → s.admissible x = false) → exec (.weirAdmit id) s =
        .next (((s.mapCall c.id fun x => { x with stage := if x.ord then 2 else 1 }).callTaken c).note c.die (some c.core) 15 1 c.task))) ∧
  (∀ n, exec (.orderDomainAdvance n) s = .next (s.advanceSteps n 4) ∧ ∀ (d : Domain) (k : Nat), d = s.domain n →
    (d.apply ∈ d.marks → s.advanceSteps n (k + 1) = (s.setDomain { d with apply := (d.apply + 1) % 2 ^ 16, marks := d.marks.filter (· ≠ d.apply) }).advanceSteps n k) ∧
    (d.apply ∉ d.marks → (∃ c ∈ s.gx.calls, c.ord = true ∧ c.dom = n ∧ c.stage = 3 ∧ c.detached = false) → s.advanceSteps n (k + 1) = s) ∧
    (d.apply ∉ d.marks → (∀ c ∈ s.gx.calls, c.ord = true → c.dom = n → c.stage = 3 → c.detached = true) → ∀ c,
      s.gx.calls.find? (fun c => c.ord && c.dom = n && c.stage = 2 && c.token = d.apply) = some c →
      (s.unitFree c = true → s.advanceSteps n (k + 1) = (State.mapCall (if c.rel = true then s.gxAcquire else s) c.id fun c => { c with stage := 3 }).advanceSteps n k) ∧
      (s.unitFree c = false → s.advanceSteps n (k + 1) = s))) ∧
  (∀ id a t r, s.gx.appends.find? (fun a => a.id = id) = some a → s.tryAppend a = (t, r) →
    (r = none → exec (.queueRoomResume id) s = .next t) ∧
    (r ≠ none → a.call = none → exec (.queueRoomResume id) s = .next { t with gx := { t.gx with buckets := t.gx.buckets.filter fun b => b.n ≠ a.bucket } }) ∧
    (∀ k c, a.call = some k → t.call? k = some c → (r = some false → exec (.queueRoomResume id) s = .next (t.failCall c 8 0)) ∧
      (r = some true → (∃ x ∈ t.gx.appends, x.call = some k) → exec (.queueRoomResume id) s = .next t) ∧
      (r = some true → (∀ x ∈ t.gx.appends, x.call ≠ some k) → exec (.queueRoomResume id) s = .next (t.writeReturn c 0 c.ret)))) ∧
  (∀ (c : Call) (status : Nat) (p : List Byte) (u v w : State), u = (if p = [] then s else s.putGrant c.bundle (chRslot c.hd + 16) p) →
    v = (if chRel c.hd = true then u.gxRelease else u) → w = (v.putGrant c.bundle (chRslot c.hd) (natBytesLE 16 (chTag c.hd * 2 ^ 96 + status * 2 ^ 88 + p.length / 16 * 2 ^ 80 + 1))).mapTask c.task
      (fun t => { t with callsLeft := t.callsLeft - 1 }) → ∀ t : State, t = { w with gx := { w.gx with calls := w.gx.calls.filter fun x => x.id ≠ c.id, appends := w.gx.appends.filter fun a => a.call ≠ some c.id } } →
    (c.ord = false ∨ c.stage ≠ 3 ∨ c.detached = true → s.writeReturn c status p = t) ∧
    (c.ord = true → c.stage = 3 → c.detached = false → s.writeReturn c status p =
      t.setDomain { t.domain c.dom with apply := (c.token + 1) % 2 ^ 16, marks := (t.domain c.dom).marks.filter (· ≠ c.token) })) ∧
  (∀ (c : Call) (status visits : Nat), (c.typ ≠ 5 → s.failCall c status visits = s.writeReturn c status []) ∧
    (c.typ = 5 → ∃ p, s.failCall c status visits = State.writeReturn { s with free := s.free + 3 } c status p ∧ p.length = 32 ∧ bytesNat (p.take 4) = 0x7F800000 ∧
      bytesNat ((p.drop 12).take 4) = 0xFFFFFFFF ∧ bytesNat ((p.drop 24).take 4) = visits % 2 ^ 32)) ∧
  (∀ h off bs b, s.bundle? h = some b → b.evicted = false → s.putGrant h off bs = s.writeGrant h off bs) ∧
  (∀ id c r key, s.call? id = some c → c.typ = 7 → c.stage = 1 → r = BitVec.ofNat 512 (c.pay 0 64) → key = r.extractLsb' 128 32 →
    (∀ a ∈ s.arrivals, a.1 < id → a.2 ≠ key ∧ s.sieveStuck a.2 = true) →
    (s.sieveStuck key = true → exec (.flumeSieve id) s = .next s) ∧
    (∀ b, s.gx.buckets.find? (fun b => b.mkey = key) = some b →
      (b.waiting = true → exec (.flumeSieve id) s = .next s) ∧
      (b.waiting = false → exec (.flumeSieve id) s = .next ((s.putBucket b r).writeReturn c 0 []))) ∧
    (s.gx.buckets.find? (fun b => b.mkey = key) = none →
      (∀ n, n < 1024 → (∀ b ∈ s.gx.buckets, b.n ≠ n) → (∀ m < n, ∃ b ∈ s.gx.buckets, b.n = m) →
        exec (.flumeSieve id) s = .next ((s.putBucket { n := n, mkey := key, recs := [], oldest := s.cycle, waiting := false, forced := false } r).writeReturn c 0 [])) ∧
      ((∀ n < 1024, ∃ b ∈ s.gx.buckets, b.n = n) → (∀ b ∈ s.gx.buckets, b.forced = false) → ∀ b u, s.oldestBucket = some b → u = s.forceBucket b →
        (∀ v, u.bindBucket key r = some v → exec (.flumeSieve id) s = .next (v.writeReturn c 0 [])) ∧ (u.bindBucket key r = none → exec (.flumeSieve id) s = .next u)))) ∧
  (∀ b r, b.recs.length < 31 → s.putBucket b r = { s with gx := { s.gx with
    buckets := { b with recs := b.recs ++ [r], oldest := if b.recs = [] then s.cycle else b.oldest } :: s.gx.buckets.filter fun x => x.n ≠ b.n } }) ∧
  (∀ n b, s.gx.buckets.find? (fun b => b.n = n) = some b → b.waiting = false → s.gx.svage.toNat % 2 ^ 24 ≠ 0 → b.oldest + s.gx.svage.toNat % 2 ^ 24 ≤ s.cycle →
    exec (.sieveAgeFlush n) s = .next (s.flushBucket b)) ∧
  (∀ (b : Bucket) (a : AppendWait) (u t : State) (r : Option Bool), b.waiting = false →
    a = { id := s.nextId, queue := bitsNat b.mkey.toNat 31 20, recs := b.recs.map fun r => natBytesLE 64 r.toNat, call := none, bucket := b.n } →
    u = { s with nextId := s.nextId + 1, gx := { s.gx with appends := s.gx.appends ++ [a], buckets := s.gx.buckets.map fun x => if x.n = b.n then { x with waiting := true, recs := [] } else x } } →
    u.tryAppend a = (t, r) → (r = none → s.flushBucket b = t) ∧ (r ≠ none → s.flushBucket b = { t with gx := { t.gx with buckets := t.gx.buckets.filter fun x => x.n ≠ b.n } }))

/-- The units (R262 to R267, R270, R383, R384, R404). A unit that has done its call's work returns it: the quads of a triangle appended, the lanes
that passed, the lanes blended, the points and triangles written, the samples, the nearest hit or a miss, the pixels carried. A traversal task
hands on the hit record of one ray after another, at the sieve in its turn. The choices of the model in it: log entries 20 and 42 (values that no
rule states are free values), 43 (appends that find too little room), 57 (the sum of R270). -/
def Obligations.FlumeUnitsServeTheirCalls : Prop := ∀ (s : State) (id : Nat) (c : Call),
  (∀ (i : Instr) (typ : Nat), (i, typ) ∈ [(.flumeRaster id, 0), (.flumeDepth id, 1), (.flumeBlend id, 2), (.flumeTessellator id, 3), (.flumeTextureFilter id, 4), (.flumeTraversal id, 5), (.flumeReprojection id, 6)] →
    s.call? id = some c → c.typ ≠ typ ∨ c.stage = 0 ∨ c.stage = 2 ∨ (c.stage = 1 ∧ s.unitFree c = false) ∨ (∃ a ∈ s.gx.appends, a.call = some id) → c.stage ≤ 3 → exec i s = .next s) ∧
  (s.Serves 0 id c → ∀ q, q = c.pay 44 2 → ∀ p, p = natBytesLE 16 (rasterQuads c).length →
    (s.queueLive q = false → exec (.flumeRaster id) s = .next (s.failed (s.begun c) c 8)) ∧
    (s.queueLive q = true → rasterQuads c = [] → exec (.flumeRaster id) s = .next (s.returned (s.begun c) c p)) ∧
    (s.queueLive q = true → rasterQuads c ≠ [] → ∀ (a : AppendWait) (u t : State) (ok : Option Bool), a = { id := s.nextId, queue := q, recs := rasterQuads c, call := some id, bucket := 0 } →
      u = State.mapCall { s.begun c with nextId := s.nextId + 1, gx := { (s.begun c).gx with appends := s.gx.appends ++ [a] } } id (fun c => { c with ret := p }) →
      u.tryAppend a = (t, ok) → exec (.flumeRaster id) s = .next (if ok = some false then s.failed t c 8 else s.returned t c p))) ∧
  (s.Serves 1 id c → ∀ (ctl m : Nat) (t : State) (ps : List Bool) (at_ z : Nat → Nat) (lanes : List Nat), ctl = c.pay 12 4 →
    at_ = (fun i => c.pay 0 8 + c.pay (18 + 8 * i) 2 * c.pay 8 4 + 4 * c.pay (16 + 8 * i) 2) → z = (fun i => c.pay (20 + 8 * i) 4) →
    lanes = (List.range 8).filter (fun i => decide (c.pos ≤ i) && bitNat (bitsNat ctl 15 8) i) →
    Each (fun i u w p => ∃ v bs, u.flRead c.begun (at_ i) 4 4 = .ok v bs ∧ p = depthPass (ctl % 4) (FFmt.f32.value (z i)) (FFmt.f32.value (bytesNat bs)) ∧
      if p = true ∧ bitNat ctl 2 = true then v.flWrite c.begun (at_ i) (natBytesLE 4 (z i)) 4 = .ok w () else w = v) lanes (s.begun c) t ps →
    m = (lanes.zip ps).foldl (fun a x => a + if x.2 then 2 ^ x.1 else 0) c.count → exec (.flumeDepth id) s = .next (s.returned t c (natBytesLE 16 m))) ∧
  (s.Serves 2 id c → ∀ (ctl : Nat) (t : State) (ps : List Unit) (at_ : Nat → Nat) (src : Nat → Nat → Nat) (lanes : List Nat), ctl = c.pay 12 4 →
    at_ = (fun i => c.pay 0 8 + c.pay (18 + 4 * i) 2 * c.pay 8 4 + 8 * c.pay (16 + 4 * i) 2) → src = (fun i k => widen16 (c.pay (48 + 8 * i + 2 * k) 2)) →
    lanes = (List.range 8).filter (fun i => decide (c.pos ≤ i) && bitNat (bitsNat ctl 15 8) i) →
    Each (fun i u w _ => ∃ v bs, u.flRead c.begun (at_ i) 8 8 = .ok v bs ∧ v.flWrite c.begun (at_ i) ((List.range 4).flatMap fun k =>
      natBytesLE 2 (blendChannel (ctl % 4) (src i k) (widen16 (bytesNat ((bs.drop (2 * k)).take 2))) (src i 3))) 8 = .ok w ()) lanes (s.begun c) t ps →
    exec (.flumeBlend id) s = .next (s.returned t c [])) ∧
  (s.Serves 3 id c → ∀ (f : Nat → Nat) (m : List UV × List (List Nat)) (u t : State),
    f = (fun k => tessFactor (Config.nanInput c.payload k) (c.pay (4 + 4 * k) 4)) → m = tessellate (c.pay 0 4 % 2 = 1) ((List.range (if c.pay 0 4 % 2 = 1 then 4 else 3)).map f) (f 4) (if c.pay 0 4 % 2 = 1 then f 5 else f 4) →
    (s.begun c).flWrite c.begun (c.pay 28 8) (m.1.flatMap fun p => natBytesLE 4 (rneRatio p.1.1 p.1.2) ++ natBytesLE 4 (rneRatio p.2.1 p.2.2)) 8 = .ok u () →
    u.flWrite c.begun (c.pay 36 8) (m.2.flatMap fun l => l.flatMap fun i => natBytesLE 4 i) 4 = .ok t () →
    exec (.flumeTessellator id) s = .next (s.returned t c (natBytesLE 16 (m.1.length + m.2.length * 2 ^ 16)))) ∧
  (s.Serves 4 id c → ∀ (u t : State) (bs : List Byte) (d fmt : Nat) (ls : List (List Nat)) (g : Nat × Nat × Nat), (s.begun c).flRead c.begun (c.pay 0 8) 16 16 = .ok u bs → d = bytesNat bs →
    fmt = bitsNat d 90 89 → bitsNat d 95 92 ≠ 0 → fmt < 2 → bitsNat d 88 57 = 0 → bitsNat d 56 0 % 256 = 0 →
    g = texLevel (bitsNat d 56 0) (bitsNat d 127 112 + 1) (bitsNat d 111 96 + 1) (if fmt = 0 then 4 else 8) (texLevelNo (Config.nanInput c.payload 0) (bitsNat d 95 92) (c.pay 8 4)) →
    Each (fun i v w l => v.texLane c.begun fmt (bitNat d 91) g.1 g.2.1 g.2.2 (c.pay (16 + 8 * i) 4) (c.pay (20 + 8 * i) 4) = .ok w l) (List.range 8) u t ls →
    exec (.flumeTextureFilter id) s = .next (s.returned t c (ls.flatMap fun l => l.flatMap (natBytesLE 4)))) ∧
  (s.Serves 5 id c → ∀ (r : Ray) (q : TravRes), r = rayOf c.payload (c.pay 32 8) (c.pay 40 8) (c.pay 48 8) (c.pay 56 4) (c.pay 60 4) →
    q = r.run (fun u a n => u.flRead c.begun a n 1) (s.begun c) →
    (∀ t b v, q = .ok t (some b) v → exec (.flumeTraversal id) s = .next (s.returned t c (b.payload v))) ∧
    (∀ t v, q = .ok t none v → exec (.flumeTraversal id) s = .next (s.returned { t with free := t.free + 3 } c (missPayload t.free v none))) ∧
    (∀ t status v, q = .bad t status v → exec (.flumeTraversal id) s = .next (s.failed (t.mapCall c.id fun c => { c with count := v }) c status)) ∧
    (r.bad = true → q = .bad (s.begun c) 1 0)) ∧
  (s.Serves 6 id c → ∀ (qr qg : Nat), qr = c.pay 28 2 → qg = c.pay 30 2 →
    (s.queueLive qr = false ∨ s.queueLive qg = false → exec (.flumeReprojection id) s = .next (s.failed (s.begun c) c 8)) ∧
    (s.queueLive qr = true → s.queueLive qg = true → ∀ (t u : State) (rs : List (Option (Nat × List Byte))) (recs : List (Nat × List Byte)) (p p' : List Byte) (of : Nat → List (List Byte)),
      Each (fun q v w r => v.reprojPixel c.begun q = .ok w r) ((List.range (c.pay 24 2 * c.pay 26 2 - c.pos)).map (c.pos + ·)) (s.begun c) t rs → recs = c.recs ++ rs.filterMap (fun r => r) →
      p = natBytesLE 16 (c.count + rs.countP (fun r => r.isNone) + recs.length * 2 ^ 32) → of = (fun q => (recs.filter fun r => r.1 = q).map Prod.snd) →
      t.startAppends c.begun p ((qr, of qr) :: if qg = qr then [] else [(qg, of qg)]) = .ok u p' → exec (.flumeReprojection id) s = .next (s.returned u c p'))) ∧
  (∀ key k, s.task? key = some k → k.state = .dispatched [] [] → TaskRec.kind k.record = 1 → k.engLeft ≠ 0 →
    (∀ h, s.gx.hits.find? (fun h => h.task = key) = some h → exec (.traversalTask key) s = .next (s.sieveHit h)) ∧ ((∀ h ∈ s.gx.hits, h.task ≠ key) →
    ∀ (b : Nat) (u v : State) (bs rb : List Byte), s.unitRead 0 none k.pdom k.partid k.id.toNat (TaskRec.entry k.record) 64 = .ok u (bs, 0) → b = bytesNat bs →
    (bitsNat b 95 64 ≤ k.ray → exec (.traversalTask key) s = .next (u.mapTask key fun t => { t with engLeft := 0 })) ∧
    (k.ray < bitsNat b 95 64 → u.unitRead 0 none k.pdom k.partid k.id.toNat ((bitsNat b 63 0 + 64 * k.ray) % 2 ^ 64) 64 = .ok v (rb, 0) →
      ∀ (fetch : Fetch) (q : TravRes) (w : State) (p : List Byte), fetch = (fun s a n => match s.unitRead 0 none k.pdom k.partid k.id.toNat a n with
          | .wait s => .wait s | .fail s => .fail s 2 | .ok s (x, m) => if m ≠ 0 then .fail s 5 else .ok s x) →
      q = (rayOf rb (bitsNat b 191 128) (bitsNat b 255 192) (bitsNat b 319 256) (bitsNat b 351 320) (bitsNat b 127 96)).run fetch v →
      ((∃ h n, q = .ok w (some h) n ∧ p = h.payload n) ∨ (∃ x n, q = .ok x none n ∧ w = { x with free := x.free + 3 } ∧ p = missPayload x.free n (some (bitsNat b 383 352))) ∨
        (∃ x e n, q = .bad x e n ∧ w = { x with free := x.free + 3 } ∧ p = missPayload x.free 0xFFFFFFFF (some (bitsNat b 383 352)))) →
      exec (.traversalTask key) s = .next (w.putHit k (bitsNat b 447 384) (p ++ rb.drop 32))))) ∧
  (∀ (k : Task) (out : Nat) (hit : List Byte) (u : State), out ≠ 0 → s.unitWrite 0 none k.pdom k.partid k.id.toNat ((out + 64 * k.ray) % 2 ^ 64) hit = .ok u () →
    s.putHit k out hit = u.mapTask k.key fun t => { t with ray := t.ray + 1 }) ∧
  (∀ (k : Task) (hit : List Byte) (h : SieveHit), h = { id := s.nextId, task := k.key, record := BitVec.ofNat 512 (bytesNat hit) } →
    s.putHit k 0 hit = State.sieveHit { s with nextId := s.nextId + 1, gx := { s.gx with hits := s.gx.hits ++ [h] } } h) ∧
  (∀ h : SieveHit, (∃ a ∈ s.arrivals, a.1 < h.id ∧ ¬ (a.2 ≠ h.record.extractLsb' 128 32 ∧ s.sieveStuck a.2 = true)) → s.sieveHit h = s)

/-! ### The companion (06 R134 to R136; 15 R306, R310 to R312; 21 R374, R378; 23 R386 to R391) -/

/-- The companion link (R135, R306, R310 to R312, R374, R386, R387, R389). Pairing is answered and completes with slot 3 of every clock row zero; a
capture area is docked; a part that the companion asks for moves away once nothing uses it, and one that comes is placed with its marks; cistern
steps start, end and are acknowledged; a capture waits for strands, engines and the writes in flight of its set; an undocking has no epoch open; a
pair ends by RELEASE, by surprise, or for want of an answer. The choices of the model in it: log entries 33 (the area of an undocking, and its
epochs), 34 (a docked QSEND), 35 (a MIGRATE out of place), 49 (payload fields of PAIR and STEP). -/
def Obligations.CompanionLinkWorks : Prop := ∀ (s u : State), u = s.leaveIdle →
  (s.mg.pwrCur ≠ 1 → u = s) ∧ (s.mg.pwrCur = 1 → u.mg.pwrCur = 0 ∧ u = { s with mg := { s.mg with pwrCur := 0 }, port := u.port }) ∧
  (s.booted = true → s.linkUp = true → ∀ (w : List Word) (p : Nat), p = msgPayload w →
    (s.link.paired = false → bitsNat p 23 16 = 1 → ∀ answer : Nat → Nat → Msg, answer = (fun c n =>
        { code := c, seq := n, payload := BitVec.ofNat 128 (s.mg.tag.toNat + 2 ^ 16 + s.mg.memGiB % 256 * 2 ^ 32), data := [], marks := [] }) →
      exec (.pair w) s = .next { u with
        link := { s.link with tagSeen := bitsNat p 15 0, memGiB := bitsNat p 39 32, seq := ((s.link.seq + 1) % 256 + 1) % 256, sent := s.link.sent ++ [answer 0x02 s.link.seq, answer 0x01 ((s.link.seq + 1) % 256)] } } ∧
      ∃ t, exec (.pairAck w) s = .next t ∧ t.link = { s.link with paired := true, skip := 0, tagSeen := bitsNat p 15 0, memGiB := bitsNat p 39 32, stepSlot := 1, stepPending := false, dirty := [], reads := [], event := 1 } ∧
        0 ∈ t.port.msix ∧ (∀ q ∈ t.dies, q.1 ≠ 3 → q.2.applied.getD 3 0 = 0 ∧ ∀ r ∈ q.2.rows, r.getD 3 0 = 0)) ∧
    (s.link.paired = true → s.link.migrated = false → s.link.docking = none → s.link.undocking = false → ∀ a : Area, a = parseArea ((wordsBytes (w.drop 4)).take (bitsNat p 127 64)) →
      s.handlesNew a = true → exec (.migrate w) s = .next (u.dock a)) ∧
    (∀ (bs : List Byte) (v : State), ∃ k, (v.takeTask bs).hg.tasks = v.hg.tasks ++ [k] ∧ k.key = v.hg.nextKey ∧ k.id = BitVec.ofNat 32 (bytesNat ((bs.drop 64).take 4)) ∧
      k.record = BitVec.ofNat 512 (bytesNat (bs.take 64)) ∧ k.partid = v.link.partid.toNat % 16 ∧ k.epoch = 0 ∧ k.migrated = true ∧ k.state = .dispatched [] []) ∧
    (s.link.paired = true → ∀ (m : PartMove) (h : HomeLeaf), m = payloadMove p s.timePs true → (∀ x ∈ s.link.moves, x.out = true → ¬ (x.pdom = m.pdom ∧ x.page = m.page ∧ x.part = m.part)) →
      ∀ v : State, v = { u with link := { u.link with moves := u.link.moves ++ [m] } } → v.leafOf m.pdom m.page = some h →
      (h.leaf.part m.part = .present → v.stepRunning = true ∨ v.partClaimed m = true → exec (.move w) s = .next v) ∧
      (h.leaf.part m.part = .present → v.stepRunning = false → v.partClaimed m = false → ∀ x : State, x = v.setPart h m.part .moving →
        exec (.move w) s = .next { x with link := { x.link with moves := x.link.moves.map fun y => if y = m then { m with requested := true } else y } }) ∧
      (h.leaf.part m.part = .moving → v.inFlight (h.partPa m.part) (h.partPa m.part + 2 ^ 16) = false →
        exec (.move w) s = .next (State.sendPart { v with link := { v.link with moves := v.link.moves.filter (· ≠ m) } } h m.part))) ∧
    (s.link.paired = true → ∀ (bytes : List Byte) (marks : List Nat) (m : PartMove) (h : HomeLeaf) (lo : Nat) (x y : State), bytes.length = 2 ^ 16 → m = payloadMove p s.timePs false →
      s.leafOf m.pdom m.page = some h → h.leaf.part m.part = .remote → lo = h.partPa m.part →
      x = (u.dropCopies lo (lo + 2 ^ 16)).fireWatches (fun _ => true) (fun pa _ _ => lo ≤ pa && pa < lo + 2 ^ 16) →
      y = { x with
        mem := writeBytes x.mem lo bytes, poison := (marks.filter (· < 2048)).foldl (fun l i => insertNat (lo / 32 + i) l) (dropRange (lo / 32) (lo / 32 + 2048) x.poison), lost := dropRange (lo / 32) (lo / 32 + 2048) x.lost } →
      exec (.moveData w bytes marks) s = .next (((y.setPart h m.part .present).acquireAll.servePart h.pdom h.page m.part).note (match homeOf lo with | .dram d => d | _ => 0) none 73 1 0)) ∧
    (s.link.stepPending = true → bitsNat p 0 0 = s.link.stepSlot → bitsNat p 127 64 = s.link.stepSeq % 2 ^ 64 →
      exec (.stepAck w) s = .next { u with link := { s.link with stepPending := false, ackSeq := s.link.stepSeq, ackSlot := s.link.stepSlot } }) ∧
    (s.link.undocking = true → bitsNat p 7 0 = 0 → exec (.migrateDone w) s = .next (u.sendMsg 0x40 0 [] []).unpair) ∧
    (s.link.paired = true → exec (.release w) s = .next u.unpair)) ∧
  (∀ v x : State, x = v.dropTasks (fun t => v.link.undocking && v.link.away.contains t.key) →
    v.unpair.link = { x.link with paired := false, migrated := false, docking := none, undocking := false, away := [], stepPending := false, inStep := false, moves := [], reads := [], event := 3 } ∧
    v.unpair.captures = x.captures.filter (fun c => c.why = 0 || c.why = 3)) ∧
  (exec .companionLinkUp s = .next { s with link := { s.link with training := false } }) ∧
  (s.link.paired = true → s.link.migrated = true → s.link.cisPeriod ≠ 0 → s.link.stepPending = false → s.link.inStep = false → s.link.stepAt + s.link.cisPeriod.toNat * 10 ^ 9 ≤ s.timePs →
    ∀ c : Capture, c = { what := 1, id := s.link.partid.toNat % 16, why := 1 } → c ∉ s.captures →
    exec .cisternStep s = .next { s with captures := s.captures ++ [c], link := { s.link with inStep := true, stepAt := s.timePs } }) ∧
  (∀ (kind id : Nat) (c : Capture), s.captures.find? (fun c => c.what = kind && c.id = id) = some c →
    (s.allStopped c.covers = false ∨ s.enginesStopped c = false → exec (.contextCapture kind id) s = .next s) ∧
    (s.allStopped c.covers = true → s.enginesStopped c = true → (∀ t, c.why = 0 → s.task? c.id = some t → exec (.contextCapture kind id) s = .next (s.haltNow c t)) ∧
      (c.why = 1 → exec (.contextCapture kind id) s = .next (s.makeStep c)) ∧ (c.why = 2 → exec (.contextCapture kind id) s = .next (s.undock c)) ∧
      (3 ≤ c.why → exec (.contextCapture kind id) s = .next (s.captureDevice c)))) ∧
  (∀ id, (∀ c ∈ s.captures, ¬ (c.what = 1 ∧ c.id = id)) → s.link.migrated = true → id = s.link.partid.toNat % 16 → s.link.docking = none → s.link.undocking = false →
    ∀ c : Capture, c = { what := 1, id := id, why := 2 } → exec (.contextCapture 1 id) s = .next ((s.closeEpochs c).askCapture 1 id 2) ∧
      (s.openEpochs c [1] = [] → exec (.contextCapture 1 id) s = .next { s with captures := s.captures ++ [c] })) ∧
  ((∀ c ∈ s.captures, ¬ (c.what = 2 ∧ c.id = 0)) → s.hg.tasks ≠ [] → exec (.contextCapture 2 0) s = .next { s with captures := s.captures ++ [{ what := 2, id := 0, why := 3 }] }) ∧
  (∀ c : Capture, (s.openEpochs c [1, 3, 4] ≠ [] → s.undock c = s.closeEpochs c) ∧ (s.openEpochs c [1, 3, 4] = [] → s.writesLeft c = true → s.undock c = s) ∧
    (s.writesLeft c = true → s.makeStep c = s ∧ s.captureDevice c = s)) ∧
  (∀ (c : Capture) (area : List (List Byte)) (parts : List (Nat × Nat)) (used size : Nat), s.writesLeft c = false → area = s.captureArea (fun t => c.covers t) → parts = s.link.dirty.filterMap (blockPart s.homeLeaves) →
    used = areaLen area + parts.length * (16 + 2 ^ 16) → size = s.link.cisSlot.toNat → size < used + 32 →
    s.makeStep c = (State.endCapture { s with link := { s.link with inStep := false, skip := min (s.link.skip + 1) 65535, reason := 1 } } c).azEvent 6) ∧
  (∃ t, exec .companionSurpriseDown s = .next t ∧ t.link.training = true ∧ (s.link.paired = false → t = { s with link := { s.link with training := true } }) ∧
    (s.link.paired = true → t = { s.endPair 4 with link := { (s.endPair 4).link with training := true } })) ∧
  (s.link.paired = true → (s.link.stepPending = true ∧ s.link.stepSince + 10 ^ 12 ≤ s.timePs) ∨ (∃ m ∈ s.link.moves, m.out = false ∧ m.requested = true ∧ m.written = false ∧ m.since + 10 ^ 12 ≤ s.timePs) →
    exec .companionUnresponsive s = .next { s.endPair 5 with link := { (s.endPair 5).link with stopped := true } }) ∧
  (∀ (ev : Nat) (v x y z : State), s.link.paired = true → v = { s with captures := s.captures.filter fun c => c.why = 0 || c.why = 3, link := { s.link with paired := false, migrated := false, event := ev, docking := none, undocking := false, away := [], inStep := false, stepPending := false, moves := s.link.moves.filter fun m => !m.out, reason := if ev = 5 then 3 else if s.link.inStep || s.link.stepPending then 2 else s.link.reason } } →
    x = ((v.homeLeaves.foldl State.loseLeaf v).dropWrites.loseReads).dropCopies (2 ^ 48) (2 ^ 49) → y = (s.link.moves.filter fun m => !m.out).foldl (fun s m => s.servePart m.pdom m.page m.part) x →
    z = ((State.dropTasks (State.clearSlot3 { y with link := { y.link with moves := [] } }) fun t => t.partid = s.link.partid.toNat % 16).loseMaster 2).raiseMsix 0 →
    s.endPair ev = { z with port := { z.port with ibi := z.port.ibi + 1 } })

/-! ### Resets, power, debug, and the end of tasks (01 R8; 03 R65; 16 R316 to R319, R323 to R326; 21 R373; 23 R393 to R395; 24 R396 to R400) -/

/-- Resets and power states (R8, R325, R326, R393, R394). Power-on leaves the reset state, with what flash holds; a warm reset keeps memory, the
security state, the boot results and the configuration in force. A record is judged in the order of R394. The choices of the model in it: log
entries 4 (what unwritten memory reads as), 32 (the places of the fields of a record), 36 (what a warm reset keeps), 50 (when a record is
accepted), 54 (power states), 55 (what a power-on keeps). -/
def Obligations.ResetsPowerAndRecords : Prop := ∀ (s u : State), u = s.leaveIdle →
  (∃ t, exec .powerOnReset s = .next t ∧ t = { State.reset with mem := t.mem, link := { Link.reset with kmem := s.link.kmem }, mg := s.mg.powerOn, agenda := s.agenda, free := s.free } ∧
    (Memory.wf s.mem = true → ∀ a, readByte t.mem a = if a < 2 ^ 47 then 0 else readByte s.mem a) ∧ t.mg.pwrCur = 0 ∧ t.mg.dbg = 0 ∧ t.mg.flashSeq = s.mg.flashSeq ∧
    t.mg.sec = (if s.mg.banks.1 = 0 ∨ s.mg.banks.2 = 0 then s.mg.flashSec else 0) ∧ t.booted = decide (s.mg.banks.1 = 0 ∨ s.mg.banks.2 = 0) ∧
    exec .powerLoss s = .next { t with mg := { t.mg with pwrCur := 3 } }) ∧
  (∃ t, exec .warmReset s = .next t ∧ t.mem = s.mem ∧ t.poison = s.poison ∧ t.lost = s.lost ∧ t.strands = [] ∧ t.bundles = [] ∧ t.hg = Headgate.reset ∧ t.cores = [] ∧ t.dies = [] ∧ t.gx = Gx.reset ∧
    t.port = Port.reset ∧ t.mg = { Mgmt.reset with
      id := s.mg.id, sec := s.mg.sec, banks := s.mg.banks, certBad := s.mg.certBad, boot := s.mg.boot, blobst := BitVec.ofNat 64 (s.mg.flashSeq.toNat % 2 ^ 32 * 2 ^ 32), flashSec := s.mg.flashSec, flashSeq := s.mg.flashSeq,
      flashCfg := s.mg.flashCfg, tag := s.mg.tag, cfgClock := s.mg.cfgClock, clock := s.mg.cfgClock, disabled := s.mg.disabled, gxOff := s.mg.gxOff, memGiB := s.mg.memGiB,
      cfgSec := s.mg.cfgSec, busyAt := s.timePs }) ∧
  (s.mg.pwrReq = 2 → s.mg.pwrCur.toNat < 2 → (∀ t ∈ s.hg.tasks, t.running = false) → ∃ t, exec .retentionEntry s = .next t ∧ t.mg.pwrCur = 2 ∧ t.port.ibi = s.port.ibi + 1 ∧
    (s.booted = true → 2 ∈ t.port.msix) ∧ t = { s with mg := t.mg, port := t.port }) ∧
  (s.mg.pwrCur = 0 → (∀ t ∈ s.hg.tasks, t.running = false ∧ (t.state = .ready → t.halted = true)) → s.mg.busyAt + 10 ^ 9 ≤ s.timePs →
    ∃ t, exec .idleEntry s = .next t ∧ t.mg.pwrCur = 1 ∧ t.port.ibi = s.port.ibi + 1 ∧ t = { s with mg := t.mg, port := t.port }) ∧
  (s.booted = false ∨ s.port.own = 3 → ∀ (bytes : List Byte) (ok : Bool) (res : Nat → State), res = (fun n =>
      { u with mg := { u.mg with blobst := BitVec.ofNat 64 (u.mg.flashSeq.toNat % 2 ^ 32 * 2 ^ 32 + n * 2 ^ 8) } }) →
    (∀ kind ∈ [1, 2], ∀ i, i = (if kind = 1 then Instr.blobTransition bytes ok else Instr.blobConfiguration bytes ok) →
      (blobForm bytes kind = false → exec i s = .next (res 5)) ∧ (blobForm bytes kind = true → ok = false → exec i s = .next (res 1))) ∧
    (blobForm bytes 2 = true → ok = true → exec (.blobConfiguration bytes ok) s = .next { res 6 with mg := { (res 6).mg with flashCfg := some bytes } }) ∧
    (blobForm bytes 1 = true → ok = true → ∀ (to_ : BitVec 2) (seq : Nat), to_ = Config.blobTarget bytes → seq = (Config.blobSeq bytes).toNat →
      (Config.blobId bytes ≠ s.mg.id ∨ s.mg.certBad = true → exec (.blobTransition bytes ok) s = .next (res 2)) ∧
      (Config.blobId bytes = s.mg.id → s.mg.certBad = false → transitionOk s.mg.sec to_ = false → exec (.blobTransition bytes ok) s = .next (res 3)) ∧
      (Config.blobId bytes = s.mg.id → s.mg.certBad = false → transitionOk s.mg.sec to_ = true → seq ≤ s.mg.flashSeq.toNat → exec (.blobTransition bytes ok) s = .next (res 4)) ∧
      (Config.blobId bytes = s.mg.id → s.mg.certBad = false → transitionOk s.mg.sec to_ = true → s.mg.flashSeq.toNat < seq → (∀ t ∈ s.hg.tasks, t.halted = false) → ∃ t,
        exec (.blobTransition bytes ok) s = .next t ∧ t.mg.sec = to_ ∧ t.mg.dbg = 0 ∧ t.mg.arm = false ∧ t.mg.flashSec = to_ ∧ t.mg.flashSeq = BitVec.ofNat 64 seq ∧
        (Memory.wf s.mem = true → ∀ a, readByte t.mem a = if (to_ = 2 ∨ s.mg.sec = 2) ∧ a < 2 ^ 37 then 0 else readByte s.mem a))))

/-- Markers, debug halts, dumps and the end of a task (R65, R316, R317, R323, R349, R373, R396, R397, R399). A marker is processed and gone in one
step; a START closes the window that stands open before it opens its own. The choices of the model in it: log entries 7 (releases drain within a
step), 44 (what a capture holds), 45 (which task a halt names), 46 (the entries of a dump), 58 (a second START), 71 (what a resume takes from the
halt area). -/
def Obligations.MarkersHaltsAndEnds : Prop := ∀ (s u : State), u = s.leaveIdle →
  (∀ key t, s.task? key = some t → (s.markerReady t 1 = true → exec (.frameToken key) s = .next
      ((State.flushAll (State.frameQueues { s with hg := { s.hg with frame := s.hg.frame + 1 } })).finishNow key 0)) ∧
    (s.markerReady t 3 = true → exec (.traceStop key) s = .next (State.finishNow (if s.trace.opened = true ∧ s.trace.fromSpawn = t.spawned ∧ s.trace.stopping = false then
      { s with trace := { s.trace with stopping := true, queueAdmits := false, task := t.id } } else s) key 0)) ∧
    (s.markerReady t 2 = true → (s.mg.dbg = 0 → exec (.traceStart key) s = .next (s.finishNow key 0)) ∧
      (s.mg.dbg ≠ 0 → s.trace.opened = true → exec (.traceStart key) s = .next (if s.trace.stopping = true then s else
        { s with trace := { s.trace with stopping := true, queueAdmits := false, task := t.id } })) ∧
      (s.mg.dbg ≠ 0 → s.trace.opened = false → ∀ (ctrl r : Nat) (v w x : State) (bs : List Byte), ctrl = TaskRec.entry t.record → s.hgRead 0 0 0 ctrl 64 = .ok v bs → r = bytesNat bs → ctrl % 64 = 0 →
        v.unitWrite 0 none 0 0 0 (ctrl + 40) (natBytesLE 4 0) = .ok w () → w.unitWrite 0 none 0 0 0 (ctrl + 48) (natBytesLE 4 0) = .ok x () →
        ∀ y z : State, y = x.gxRelease → z = { y with
          trace := { opened := true, stopping := false, closing := false, ctrl := ctrl, base := bitsNat r 56 0, size := max (bitsNat r 159 128) 1, sper := bitsNat r 287 256, head := 0, lost := 0,
                     lostRun := 0, lostDue := false, task := t.id, queueAdmits := true, fromSpawn := t.spawned, queue := [], samples := [] }
          cores := y.cores.map fun (q : (Nat × Nat) × Core) => (q.1, { q.2 with sampleCount := 0 }) } →
        exec (.traceStart key) s = .next ((z.traceDevice 4 t.id.toNat 0).finishNow key 0)))) ∧
  (∀ key status k, (s.finish key status).task? key = some k → s.finishNow key status = (s.finish key status).completeTask k) ∧
  (∀ v : BitVec 64, s.booted = true → s.port.own = 3 → s.mg.dbg = 2 → ∀ id, id = v.toNat % 2 ^ 32 →
    (∀ t, v.getLsbD 63 = false → s.hg.tasks.find? (fun t => t.id.toNat = id && t.state != .finishing && t.state != .ending) = some t →
      (t.halted = true → exec (.mgHalt 3 v) s = .next u) ∧
      (t.halted = false → (∀ c ∈ s.captures, ¬ (c.what = 0 ∧ c.id = t.key ∧ c.why = 0)) → exec (.mgHalt 3 v) s = .next { u with captures := s.captures ++ [{ what := 0, id := t.key, why := 0 }] })) ∧
    (∀ t, v.getLsbD 63 = true → s.hg.tasks.find? (fun t => t.id.toNat = id && t.halted) = some t →
      (s.mg.pwrCur = 2 → exec (.mgHaltResume 3 v) s = .next { s with mg := { s.mg with resumes := s.mg.resumes ++ [t.key] } }) ∧
      (s.mg.pwrCur ≠ 2 → (∀ w : State, u.hgRead 0 0 0 (u.mg.halta.toNat % 2 ^ 57) t.haltArea.length = .wait w →
          exec (.mgHaltResume 3 v) s = .next { w with mg := { w.mg with resumes := w.mg.resumes ++ [t.key] } }) ∧
        ∀ (w : State) (bs : List Byte) (old new : Area), u.hgRead 0 0 0 (u.mg.halta.toNat % 2 ^ 57) t.haltArea.length = .ok w bs → old = parseArea t.haltArea → new = parseArea bs →
          ∀ x : State, x = w.mapTask t.key (fun t => { t with halted := false, haltArea := [] }) → exec (.mgHaltResume 3 v) s = .next { x with
            strands := x.strands.map (x.resumeStrand t.key old.strands new.strands)
            bundles := x.bundles.map fun b => { resumeBundle t.key old.bundles new.bundles b with saved := b.saved.map (x.resumeStrand t.key old.strands new.strands) } }))) ∧
  (∀ key t v, s.task? key = some t → t.state = .ending → v = s.removeQueued key →
    (v.endReady t = false ∨ v.dumpDue t = true → exec (.taskEnd key) s = .next v) ∧
    (v.endReady t = true → v.dumpDue t = false → (t.status ≠ 4 → exec (.taskEnd key) s = .next ((v.clearTask t).finish key t.status)) ∧
      (t.status = 4 → ∀ w x, w = v.clearTask t → (TaskRec.idem t.record = false ∨ bitsNat w.hg.serr.toNat 11 8 ≤ t.relaunches → exec (.taskEnd key) s = .next (w.finish key 4)) ∧
        (TaskRec.idem t.record = true → t.relaunches < bitsNat w.hg.serr.toNat 11 8 → w.task? key = some x → exec (.taskEnd key) s = .next (w.relaunch x)))) ∧
    (s.dumpDue t = true → v.endReady t = true → ∀ (next room base : Nat) (done : State → State), next = bitsNat v.hg.dmpnext.toNat 31 12 * 4096 →
      room = bitsNat v.hg.dmpsize.toNat 31 12 * 4096 - next → base = bitsNat v.hg.dmpbase.toNat 47 21 * 2 ^ 21 + next → done = (fun s => s.mapTask key fun t => { t with dumped := true }) →
      (room < 128 → exec (.dumpWrite key) s = .next (done (v.faultRecord 1 12 t.id.toNat t.addr))) ∧
      (128 ≤ room → ∀ (l : List (Nat × Section)) (len : Nat) (trunc : Bool) (h : Bool → Nat) (put : State → Nat → List Byte → State) (x y : State), fitSections room 128 (v.dumpSections t) = (l, len, trunc) →
        h = v.dumpHeader t l len trunc → put = (fun s off bs => s.writeMem 0 none (base + off) bs false none) → x = (l.foldl (fun s p => put s p.1 p.2.bytes) (put v 0 (natBytesLE 128 (h false)))).gxRelease →
        y = (put x 0 (natBytesLE 8 (h true % 2 ^ 64))).gxRelease → ∀ adv, adv = (if trunc = true then bitsNat v.hg.dmpsize.toNat 31 12 * 4096 else next + (len + 4095) / 4096 * 4096) →
        exec (.dumpWrite key) s = .next (done { y with hg := { y.hg with dmpnext := BitVec.ofNat 64 (adv % 2 ^ 32) } }))))

/-! ### The machine as a whole (01 R4, R8; 02 R26, R29; 03 R60; 08 R158 to R166; 14 R272, R293; 16 R319; 20 R355 to R357) -/

/-- Power-on reset (R8 with the Reset columns of R60, R98, R124, R129, R244, R272, R293, R315, R373, R380): no task, no bundle and no strand;
every core's, die's, Headgate's and GX register at its reset value; memory in canonical form. The choices of the model in it: log entries 4
(what unwritten memory reads as, in the canonical form). -/
def Obligations.ResetStateHoldsTheResetValues : Prop := State.reset.memOk ∧ State.reset.strands = [] ∧ State.reset.bundles = [] ∧ State.reset.hg.tasks = [] ∧ State.reset.off = false ∧ State.reset.weave = [] ∧
  (∀ d c, ∀ k, k = State.reset.core d c → k.flags = 0 ∧ k.tvec = 0 ∧ k.srseed = 0x2545F491#32 ∧ k.leaseL1 = 4096 ∧ k.ssbThresh = 64 ∧ k.mxring = 0 ∧ k.engfa = 0 ∧ k.engSel = 0 ∧ k.engHold = false ∧
    k.outstanding = 0 ∧ (∀ m ∈ k.mboxes, m.items = []) ∧ k.tiles = [] ∧ (∀ e ∈ k.evsel, e = 0) ∧ (∀ n ∈ k.evcnt, n = 0)) ∧
  (∀ d, ∀ x, x = State.reset.die d → x.leaseRdc = 65536 ∧ x.occsel = 0 ∧ x.memerrPar = 0 ∧ x.memerrCor = 0 ∧ x.waymask = List.replicate 16 0xFFFF ∧ x.merge = [] ∧ ∀ r ∈ x.rows, ∀ n ∈ r, n = 0) ∧
  State.reset.hg.hqsize = 64 ∧ State.reset.hg.fqsize = 64 ∧ State.reset.hg.policy = 0x4001004600 ∧ State.reset.hg.serr = 0x300 ∧ State.reset.hg.hhead = 0 ∧ State.reset.hg.htail = 0 ∧
  State.reset.hg.frame = 0 ∧ State.reset.gx.rptol = 0x3C23D70A ∧ State.reset.gx.svage = 0x4000 ∧ State.reset.gx.leaseRdc = 65536 ∧ State.reset.gx.drop = 0 ∧
  State.reset.mg.dbg = 0 ∧ State.reset.mg.arm = false ∧ State.reset.mg.pwrCur = 0 ∧ State.reset.port.own = 0 ∧ State.reset.link.paired = false ∧ State.reset.link.cisPeriod = 100 ∧ State.reset.cycle = 0

/-- One step runs the decoded instruction (R26, R164, R319, R355 to R357). When the strand whose turn it is may go on and its fetches give an
instruction's words, the step is the instruction, the vector file and the reuse table take its results, and the cycle ends with the weave; one
that writes a vector register waits while the file has no free entry (R82); words that are no instruction raise ILLEGAL. A word comes from the
atom the strand holds, or from a readable atom of an executable page; else the fetch takes its cause or waits for a walk. The choices of the model
in it: log entries 1 (whose turn it is), 12 (the fetched atom that a strand holds), 52 (when a fetch reaches its home). -/
def Obligations.StepRunsTheDecodedInstruction : Prop := ∀ (s u x : State) (st st' : Strand) (rest : List SRef),
  s.weave = st.at_ :: rest → u = { s with weave := rest } → s.MayIssue st → x.strandAt st.at_ = some st' → st'.at_ = st.at_ →
  (∀ i : Instr, i.wf = true → Fetches st.at_ 0 u (encode i) x → st'.meetsHeld (x.lastWord st' st'.pc.toNat 3) = false → (writesVector i.word = true → (x.core st'.at_.die st'.at_.core).fileFull = false) →
    x.comparator st' = none → step s = after (fun t => (((x.issuing st').noteResults t st.at_ i).hasIssued st.at_).afterIssue) (exec i (x.issuing st'))) ∧
  (∀ i : Instr, i.wf = true → Fetches st.at_ 0 u (encode i) x → st'.meetsHeld (x.lastWord st' st'.pc.toNat 3) = false → writesVector i.word = true →
    (x.core st'.at_.die st'.at_.core).fileFull = true → step s = .next (x.putStrand { st' with readyAt := x.cycle + 1 }).afterIssue) ∧
  (∀ (ws : List Word) (w : Word), Fetches st.at_ 0 u ws x → ws.length ≤ 3 → decodeWords ws = .illegal w → (∀ n < ws.length, decodeWords (ws.take n) = .truncated) →
    step s = .next (x.raise st' 1 (w.zeroExtend 64)).afterIssue) ∧
  (∀ (va : Nat) (v : Vec), st'.fbuf = some (va / 32, v) → x.fetchWord st' va = .got x (atomWord v va)) ∧
  (∀ va : Nat, (∀ v, st'.fbuf ≠ some (va / 32, v)) → (addrKind va ≠ .virt → x.fetchWord st' va = .stop (x.raise st' 0x2000 (BitVec.ofNat 64 va))) ∧
    (addrKind va = .virt → ∀ d c, d = st'.at_.die → c = st'.at_.core → (x.tlbLeaf d (some c) st'.pdom.toNat (pageOf va) = none → x.fetchWord st' va = .stop (x.mergeMiss st' 2 va)) ∧
      (∀ l, x.tlbLeaf d (some c) st'.pdom.toNat (pageOf va) = some l → x.usable l (partOf va) = true →
        (l.x = false → x.fetchWord st' va = .stop (x.raise st' 0x800 (BitVec.ofNat 64 va))) ∧
        (∀ pa g b p v m t y, l.x = true → l.target st'.pdom.toNat st'.partid.toNat va = .phys pa g b p → (x.tlbUse d c st'.pdom.toNat (pageOf va)).unitAtom d (some c) pa { group := g, base := b, partid := p, hint := 0 } = some (v, m, t) →
          y = t.tagNotes x.evBuf.length (x.who st'.task) →
          (m = 0 → x.fetchWord st' va = .got (y.putStrand { st' with fbuf := some (va / 32, v) }) (atomWord v va)) ∧
          (m ≠ 0 → x.fetchWord st' va = .stop (y.raise st' (markCause m) (BitVec.ofNat 64 va)))))))

/-- Words written out field by field from the layouts of R158, R162, R163 and the majors of R166 are the instructions they stand for; the word 0
is no instruction (R159). -/
def Obligations.WordsDecodeAsTheTablesSay : Prop := decodeWords [0b0000001_0001_0000101_0000011_0000100] = .instr (.saluSub 5 3 4) ∧
  decodeWords [0b0000011_0000_0000011_00000000001111] = .instr (.li none 3 15) ∧
  decodeWords [0b1111111_0000000000000000000000001, 0b0000011_0000_0000011_00000000001111] = .instr (.li (some 1) 3 15) ∧
  decodeWords [0b0001010_0100_0000001_0000011_1111111] = .instr (.scmpiGt none 1 3 127) ∧
  decodeWords [0b1111110_000000000000000000000_1_010, 0b0010000_0000_0000101_0000110_0000111] =
    .instr (.valuAdd (some { sense := 1, pred := 2 }) 5 6 7) ∧
  decodeWords [0b0100100_0010_0001000_0000101_0001001] = .instr (.fdiv none 2 8 5 9) ∧
  decodeWords [0b1111111_0000000000000000100000000, 0b1000000_0010_0000100_0001010_10_1_01_00] =
    .instr (.lds (some 0x100) 2 4 10 2 1 1 0) ∧
  decodeWords [0b0110001_1001_111111111111111111001] = .instr (.brp none 1 1 0x1FFFF9) ∧
  decodeWords [0b1010010_0000_0001000_0000010_0000000] = .instr (.ballot 8 2 0) ∧
  decodeWords [0b1010110_0011_0001011_0001100_0000000] = .instr (.qsend 3 0x0B 12) ∧
  decodeWords [0b1110000_0000_0000111_00000000100000] = .instr (.csrr 7 0x020) ∧
  decodeWords [0] = .illegal 0

/-- Decoding and encoding agree (R4, R158 to R168, R355): the words of every well-formed instruction, with every operand at every value that its
encoding admits, and their bytes with whatever follows, are read as that instruction. -/
def Obligations.EncodedInstructionsDecodeToThemselves : Prop := ∀ i : Instr, i.wf = true →
  (∀ ws, decodeWords (encode i ++ ws) = .instr i) ∧ (∀ bs, decodeBytes ((encode i).flatMap bytesOfWord ++ bs) = .instr i) ∧
  (encode i).length = i.len ∧ i.len ≤ 3 ∧ (∀ n < i.len, decodeWords ((encode i).take n) = .truncated) ∧
  (∀ nbits w, 0 < nbits → natBytes 12 (w % 2 ^ nbits) = (encode i).flatMap bytesOfWord ++ List.replicate (12 - 4 * i.len) 0 → decodeTableWord nbits w = some i)

/-- Every step keeps memory in its canonical form (log entry 4), whatever it does: an instruction, an event, a fetch, or a cycle's end. -/
def Obligations.EveryStepKeepsMemoryCanonical : Prop := ∀ s t : State, s.memOk → step s = .next t → t.memOk
end

