-- ==== Sys2Proof/Laws/Bits.lean ====
section
/-! SUPPORT. The elements of packed vectors and the bits of predicates. -/namespace Sys2Proof.Machine

theorem packNat_lt (w n : Nat) (f : Nat → BitVec w) : packNat w n f < 2 ^ (w * n) := by
  induction n generalizing f with
  | zero => simp [packNat]
  | succ n ih =>
    have h := ih fun j => f (j + 1)
    have h0 := (f 0).isLt
    have e : 2 ^ (w * (n + 1)) = 2 ^ w * 2 ^ (w * n) := by rw [← Nat.pow_add]; congr 1; grind
    rw [packNat, e]
    calc (f 0).toNat + 2 ^ w * packNat w n (fun j => f (j + 1)) < 2 ^ w + 2 ^ w * packNat w n (fun j => f (j + 1)) := by omega
      _ = 2 ^ w * (packNat w n (fun j => f (j + 1)) + 1) := by rw [Nat.mul_add, Nat.mul_one, Nat.add_comm]
      _ ≤ 2 ^ w * 2 ^ (w * n) := Nat.mul_le_mul_left _ h

theorem packNat_at (w n : Nat) (f : Nat → BitVec w) (j : Nat) (h : j < n) :
    packNat w n f / 2 ^ (w * j) % 2 ^ w = (f j).toNat := by
  induction n generalizing f j with
  | zero => omega
  | succ n ih =>
    have h0 := (f 0).isLt
    cases j with
    | zero => simp [packNat, Nat.add_mul_mod_self_left, Nat.mod_eq_of_lt h0]
    | succ j =>
      have e : 2 ^ (w * (j + 1)) = 2 ^ w * 2 ^ (w * j) := by rw [← Nat.pow_add]; congr 1; grind
      rw [packNat, e, ← Nat.div_div_eq_div_mul, Nat.add_mul_div_left _ _ (Nat.two_pow_pos w), Nat.div_eq_of_lt h0, Nat.zero_add]
      exact ih _ j (by omega)

/-- Element j of a vector made element by element. -/
theorem elem_ofElems (w n : Nat) (f : Nat → BitVec w) (j : Nat) (h : j < n) (hn : w * n ≤ 256) :
    elem w (ofElems w n f) j = f j := by
  apply BitVec.eq_of_toNat_eq
  have hlt : packNat w n f < 2 ^ 256 := Nat.lt_of_lt_of_le (packNat_lt w n f) (Nat.pow_le_pow_right (by omega) hn)
  rw [elem, BitVec.extractLsb'_toNat, ofElems, BitVec.toNat_ofNat, Nat.mod_eq_of_lt hlt, Nat.shiftRight_eq_div_pow]
  exact packNat_at w n f j h

theorem lane_ofLanes (f : Nat → Word) (i : Nat) (h : i < 8) : lane (ofLanes f) i = f i :=
  elem_ofElems 32 8 f i h (by omega)

theorem lane_mergeLanes (m : BitVec 8) (old new : Vec) (i : Nat) (h : i < 8) :
    lane (mergeLanes m old new) i = if m.getLsbD i then lane new i else lane old i := lane_ofLanes _ i h

/-- An element lies in one lane. -/
theorem elem_of_lane (w k : Nat) (hk : w * k = 32) (v : Vec) (j : Nat) :
    elem w v j = (lane v (j / k)).extractLsb' (w * (j % k)) w := by
  have hk0 : 0 < k := by rcases Nat.eq_zero_or_pos k with h | h <;> simp_all
  have hd := Nat.div_add_mod j k
  have e : w * j = 32 * (j / k) + w * (j % k) := by
    rw [← hk, Nat.mul_assoc, ← Nat.mul_add, hd]
  have hm : w * (j % k) + w ≤ 32 := by
    rw [← hk, ← Nat.mul_succ]; exact Nat.mul_le_mul_left _ (Nat.mod_lt _ hk0)
  apply BitVec.eq_of_getLsbD_eq
  intro i hi
  simp only [elem, lane, BitVec.getLsbD_extractLsb']
  rw [e]
  simp [hi, show w * (j % k) + i < 32 by omega, Nat.add_assoc]

/-- The elements of a merged vector: those of active lanes are new. -/
theorem elem_mergeLanes (w k : Nat) (hk : w * k = 32) (m : BitVec 8) (old new : Vec) (j : Nat) (h : j / k < 8) :
    elem w (mergeLanes m old new) j = if m.getLsbD (j / k) then elem w new j else elem w old j := by
  rw [elem_of_lane w k hk, lane_mergeLanes m old new _ h]
  split <;> exact (elem_of_lane w k hk _ j).symm

theorem getLsbD_predOf (f : Nat → Bool) (i : Nat) (h : i < 8) : (predOf f).getLsbD i = f i := by
  have hp := packNat_at 1 8 (fun i => if f i then 1#1 else 0#1) i h
  rw [predOf, BitVec.getLsbD_ofNat]
  simp only [h, decide_true, Bool.true_and, Nat.testBit, Nat.shiftRight_eq_div_pow, Nat.one_mul] at hp ⊢
  rw [Nat.and_comm, Nat.and_one_is_mod]
  have : (2:Nat)^1 = 2 := rfl
  rw [this] at hp
  rw [hp]
  cases f i <;> simp

theorem getLsbD_mergePred (m old new : BitVec 8) (i : Nat) (h : i < 8) :
    (mergePred m old new).getLsbD i = if m.getLsbD i then new.getLsbD i else old.getLsbD i := by
  simp only [mergePred, BitVec.getLsbD_or, BitVec.getLsbD_and, BitVec.getLsbD_not]
  cases m.getLsbD i <;> simp [h]

end Sys2Proof.Machine
end

