-- ==== Sys2Proof/Laws/State.lean ====
section
/-! SUPPORT. What each update of the state leaves in each field: one lemma a field and update, true by unfolding once. -/
namespace Sys2Proof.Machine

/-! ### Keyed lists -/

@[simp] theorem alGet_alSet_same {α β : Type} [DecidableEq α] (d v : β) (k : α) (l : List (α × β)) :
    alGet d k (alSet k v l) = v := by
  induction l with
  | nil => simp [alSet, alGet]
  | cons p r ih =>
    obtain ⟨a, b⟩ := p
    by_cases h : a = k <;> simp [alSet, alGet, h, ih]

theorem alGet_alSet_other {α β : Type} [DecidableEq α] (d v : β) {k j : α} (h : j ≠ k) (l : List (α × β)) :
    alGet d j (alSet k v l) = alGet d j l := by
  induction l with
  | nil => have h' : ¬ k = j := fun e => h e.symm
           simp [alSet, alGet, h']
  | cons p r ih =>
    obtain ⟨a, b⟩ := p
    by_cases hk : a = k
    · subst hk; have h' : ¬ a = j := fun e => h e.symm
      simp [alSet, alGet, h']
    · by_cases hj : a = j <;> simp [alSet, alGet, hk, hj, h, ih]

/-! ### Updates of the state -/

@[simp] theorem State.setCore_strands (s : State) (d c : Nat) (k : Core) : (s.setCore d c k).strands = s.strands := rfl
@[simp] theorem State.setCore_bundles (s : State) (d c : Nat) (k : Core) : (s.setCore d c k).bundles = s.bundles := rfl
@[simp] theorem State.setCore_cores (s : State) (d c : Nat) (k : Core) : (s.setCore d c k).cores = alSet (d, c) k s.cores := rfl
@[simp] theorem State.setCore_dies (s : State) (d c : Nat) (k : Core) : (s.setCore d c k).dies = s.dies := rfl
@[simp] theorem State.setCore_qes (s : State) (d c : Nat) (k : Core) : (s.setCore d c k).qes = s.qes := rfl
@[simp] theorem State.setCore_mem (s : State) (d c : Nat) (k : Core) : (s.setCore d c k).mem = s.mem := rfl
@[simp] theorem State.setCore_poison (s : State) (d c : Nat) (k : Core) : (s.setCore d c k).poison = s.poison := rfl
@[simp] theorem State.setCore_lost (s : State) (d c : Nat) (k : Core) : (s.setCore d c k).lost = s.lost := rfl
@[simp] theorem State.setCore_offers (s : State) (d c : Nat) (k : Core) : (s.setCore d c k).offers = s.offers := rfl
@[simp] theorem State.setCore_deposits (s : State) (d c : Nat) (k : Core) : (s.setCore d c k).deposits = s.deposits := rfl
@[simp] theorem State.setCore_xwrites (s : State) (d c : Nat) (k : Core) : (s.setCore d c k).xwrites = s.xwrites := rfl
@[simp] theorem State.setCore_xreads (s : State) (d c : Nat) (k : Core) : (s.setCore d c k).xreads = s.xreads := rfl
@[simp] theorem State.setCore_hg (s : State) (d c : Nat) (k : Core) : (s.setCore d c k).hg = s.hg := rfl
@[simp] theorem State.setCore_gx (s : State) (d c : Nat) (k : Core) : (s.setCore d c k).gx = s.gx := rfl
@[simp] theorem State.setCore_link (s : State) (d c : Nat) (k : Core) : (s.setCore d c k).link = s.link := rfl
@[simp] theorem State.setCore_port (s : State) (d c : Nat) (k : Core) : (s.setCore d c k).port = s.port := rfl
@[simp] theorem State.setCore_trace (s : State) (d c : Nat) (k : Core) : (s.setCore d c k).trace = s.trace := rfl
@[simp] theorem State.setCore_mg (s : State) (d c : Nat) (k : Core) : (s.setCore d c k).mg = s.mg := rfl
@[simp] theorem State.setCore_captures (s : State) (d c : Nat) (k : Core) : (s.setCore d c k).captures = s.captures := rfl
@[simp] theorem State.setCore_rdvMarks (s : State) (d c : Nat) (k : Core) : (s.setCore d c k).rdvMarks = s.rdvMarks := rfl
@[simp] theorem State.setCore_nextId (s : State) (d c : Nat) (k : Core) : (s.setCore d c k).nextId = s.nextId := rfl
@[simp] theorem State.setCore_cycle (s : State) (d c : Nat) (k : Core) : (s.setCore d c k).cycle = s.cycle := rfl
@[simp] theorem State.setCore_timePs (s : State) (d c : Nat) (k : Core) : (s.setCore d c k).timePs = s.timePs := rfl
@[simp] theorem State.setCore_cur (s : State) (d c : Nat) (k : Core) : (s.setCore d c k).cur = s.cur := rfl
@[simp] theorem State.setCore_weave (s : State) (d c : Nat) (k : Core) : (s.setCore d c k).weave = s.weave := rfl
@[simp] theorem State.setCore_commonsBuf (s : State) (d c : Nat) (k : Core) : (s.setCore d c k).commonsBuf = s.commonsBuf := rfl
@[simp] theorem State.setCore_flagBuf (s : State) (d c : Nat) (k : Core) : (s.setCore d c k).flagBuf = s.flagBuf := rfl
@[simp] theorem State.setCore_evBuf (s : State) (d c : Nat) (k : Core) : (s.setCore d c k).evBuf = s.evBuf := rfl
@[simp] theorem State.setCore_agenda (s : State) (d c : Nat) (k : Core) : (s.setCore d c k).agenda = s.agenda := rfl
@[simp] theorem State.setCore_free (s : State) (d c : Nat) (k : Core) : (s.setCore d c k).free = s.free := rfl

@[simp] theorem State.setDie_strands (s : State) (d : Nat) (k : Die) : (s.setDie d k).strands = s.strands := rfl
@[simp] theorem State.setDie_bundles (s : State) (d : Nat) (k : Die) : (s.setDie d k).bundles = s.bundles := rfl
@[simp] theorem State.setDie_cores (s : State) (d : Nat) (k : Die) : (s.setDie d k).cores = s.cores := rfl
@[simp] theorem State.setDie_dies (s : State) (d : Nat) (k : Die) : (s.setDie d k).dies = alSet d k s.dies := rfl
@[simp] theorem State.setDie_qes (s : State) (d : Nat) (k : Die) : (s.setDie d k).qes = s.qes := rfl
@[simp] theorem State.setDie_mem (s : State) (d : Nat) (k : Die) : (s.setDie d k).mem = s.mem := rfl
@[simp] theorem State.setDie_poison (s : State) (d : Nat) (k : Die) : (s.setDie d k).poison = s.poison := rfl
@[simp] theorem State.setDie_lost (s : State) (d : Nat) (k : Die) : (s.setDie d k).lost = s.lost := rfl
@[simp] theorem State.setDie_offers (s : State) (d : Nat) (k : Die) : (s.setDie d k).offers = s.offers := rfl
@[simp] theorem State.setDie_deposits (s : State) (d : Nat) (k : Die) : (s.setDie d k).deposits = s.deposits := rfl
@[simp] theorem State.setDie_xwrites (s : State) (d : Nat) (k : Die) : (s.setDie d k).xwrites = s.xwrites := rfl
@[simp] theorem State.setDie_xreads (s : State) (d : Nat) (k : Die) : (s.setDie d k).xreads = s.xreads := rfl
@[simp] theorem State.setDie_hg (s : State) (d : Nat) (k : Die) : (s.setDie d k).hg = s.hg := rfl
@[simp] theorem State.setDie_gx (s : State) (d : Nat) (k : Die) : (s.setDie d k).gx = s.gx := rfl
@[simp] theorem State.setDie_link (s : State) (d : Nat) (k : Die) : (s.setDie d k).link = s.link := rfl
@[simp] theorem State.setDie_port (s : State) (d : Nat) (k : Die) : (s.setDie d k).port = s.port := rfl
@[simp] theorem State.setDie_trace (s : State) (d : Nat) (k : Die) : (s.setDie d k).trace = s.trace := rfl
@[simp] theorem State.setDie_mg (s : State) (d : Nat) (k : Die) : (s.setDie d k).mg = s.mg := rfl
@[simp] theorem State.setDie_captures (s : State) (d : Nat) (k : Die) : (s.setDie d k).captures = s.captures := rfl
@[simp] theorem State.setDie_rdvMarks (s : State) (d : Nat) (k : Die) : (s.setDie d k).rdvMarks = s.rdvMarks := rfl
@[simp] theorem State.setDie_nextId (s : State) (d : Nat) (k : Die) : (s.setDie d k).nextId = s.nextId := rfl
@[simp] theorem State.setDie_cycle (s : State) (d : Nat) (k : Die) : (s.setDie d k).cycle = s.cycle := rfl
@[simp] theorem State.setDie_timePs (s : State) (d : Nat) (k : Die) : (s.setDie d k).timePs = s.timePs := rfl
@[simp] theorem State.setDie_cur (s : State) (d : Nat) (k : Die) : (s.setDie d k).cur = s.cur := rfl
@[simp] theorem State.setDie_weave (s : State) (d : Nat) (k : Die) : (s.setDie d k).weave = s.weave := rfl
@[simp] theorem State.setDie_commonsBuf (s : State) (d : Nat) (k : Die) : (s.setDie d k).commonsBuf = s.commonsBuf := rfl
@[simp] theorem State.setDie_flagBuf (s : State) (d : Nat) (k : Die) : (s.setDie d k).flagBuf = s.flagBuf := rfl
@[simp] theorem State.setDie_evBuf (s : State) (d : Nat) (k : Die) : (s.setDie d k).evBuf = s.evBuf := rfl
@[simp] theorem State.setDie_agenda (s : State) (d : Nat) (k : Die) : (s.setDie d k).agenda = s.agenda := rfl
@[simp] theorem State.setDie_free (s : State) (d : Nat) (k : Die) : (s.setDie d k).free = s.free := rfl

@[simp] theorem State.setQe_strands (s : State) (d c : Nat) (k : Engine) : (s.setQe d c k).strands = s.strands := rfl
@[simp] theorem State.setQe_bundles (s : State) (d c : Nat) (k : Engine) : (s.setQe d c k).bundles = s.bundles := rfl
@[simp] theorem State.setQe_cores (s : State) (d c : Nat) (k : Engine) : (s.setQe d c k).cores = s.cores := rfl
@[simp] theorem State.setQe_dies (s : State) (d c : Nat) (k : Engine) : (s.setQe d c k).dies = s.dies := rfl
@[simp] theorem State.setQe_qes (s : State) (d c : Nat) (k : Engine) : (s.setQe d c k).qes = alSet (d, c) k s.qes := rfl
@[simp] theorem State.setQe_mem (s : State) (d c : Nat) (k : Engine) : (s.setQe d c k).mem = s.mem := rfl
@[simp] theorem State.setQe_poison (s : State) (d c : Nat) (k : Engine) : (s.setQe d c k).poison = s.poison := rfl
@[simp] theorem State.setQe_lost (s : State) (d c : Nat) (k : Engine) : (s.setQe d c k).lost = s.lost := rfl
@[simp] theorem State.setQe_offers (s : State) (d c : Nat) (k : Engine) : (s.setQe d c k).offers = s.offers := rfl
@[simp] theorem State.setQe_deposits (s : State) (d c : Nat) (k : Engine) : (s.setQe d c k).deposits = s.deposits := rfl
@[simp] theorem State.setQe_xwrites (s : State) (d c : Nat) (k : Engine) : (s.setQe d c k).xwrites = s.xwrites := rfl
@[simp] theorem State.setQe_xreads (s : State) (d c : Nat) (k : Engine) : (s.setQe d c k).xreads = s.xreads := rfl
@[simp] theorem State.setQe_hg (s : State) (d c : Nat) (k : Engine) : (s.setQe d c k).hg = s.hg := rfl
@[simp] theorem State.setQe_gx (s : State) (d c : Nat) (k : Engine) : (s.setQe d c k).gx = s.gx := rfl
@[simp] theorem State.setQe_link (s : State) (d c : Nat) (k : Engine) : (s.setQe d c k).link = s.link := rfl
@[simp] theorem State.setQe_port (s : State) (d c : Nat) (k : Engine) : (s.setQe d c k).port = s.port := rfl
@[simp] theorem State.setQe_trace (s : State) (d c : Nat) (k : Engine) : (s.setQe d c k).trace = s.trace := rfl
@[simp] theorem State.setQe_mg (s : State) (d c : Nat) (k : Engine) : (s.setQe d c k).mg = s.mg := rfl
@[simp] theorem State.setQe_captures (s : State) (d c : Nat) (k : Engine) : (s.setQe d c k).captures = s.captures := rfl
@[simp] theorem State.setQe_rdvMarks (s : State) (d c : Nat) (k : Engine) : (s.setQe d c k).rdvMarks = s.rdvMarks := rfl
@[simp] theorem State.setQe_nextId (s : State) (d c : Nat) (k : Engine) : (s.setQe d c k).nextId = s.nextId := rfl
@[simp] theorem State.setQe_cycle (s : State) (d c : Nat) (k : Engine) : (s.setQe d c k).cycle = s.cycle := rfl
@[simp] theorem State.setQe_timePs (s : State) (d c : Nat) (k : Engine) : (s.setQe d c k).timePs = s.timePs := rfl
@[simp] theorem State.setQe_cur (s : State) (d c : Nat) (k : Engine) : (s.setQe d c k).cur = s.cur := rfl
@[simp] theorem State.setQe_weave (s : State) (d c : Nat) (k : Engine) : (s.setQe d c k).weave = s.weave := rfl
@[simp] theorem State.setQe_commonsBuf (s : State) (d c : Nat) (k : Engine) : (s.setQe d c k).commonsBuf = s.commonsBuf := rfl
@[simp] theorem State.setQe_flagBuf (s : State) (d c : Nat) (k : Engine) : (s.setQe d c k).flagBuf = s.flagBuf := rfl
@[simp] theorem State.setQe_evBuf (s : State) (d c : Nat) (k : Engine) : (s.setQe d c k).evBuf = s.evBuf := rfl
@[simp] theorem State.setQe_agenda (s : State) (d c : Nat) (k : Engine) : (s.setQe d c k).agenda = s.agenda := rfl
@[simp] theorem State.setQe_free (s : State) (d c : Nat) (k : Engine) : (s.setQe d c k).free = s.free := rfl

@[simp] theorem State.putStrand_strands (s : State) (st : Strand) : (s.putStrand st).strands = s.strands.map fun x => if x.at_ = st.at_ then st else x := rfl
@[simp] theorem State.putStrand_bundles (s : State) (st : Strand) : (s.putStrand st).bundles = s.bundles := rfl
@[simp] theorem State.putStrand_cores (s : State) (st : Strand) : (s.putStrand st).cores = s.cores := rfl
@[simp] theorem State.putStrand_dies (s : State) (st : Strand) : (s.putStrand st).dies = s.dies := rfl
@[simp] theorem State.putStrand_qes (s : State) (st : Strand) : (s.putStrand st).qes = s.qes := rfl
@[simp] theorem State.putStrand_mem (s : State) (st : Strand) : (s.putStrand st).mem = s.mem := rfl
@[simp] theorem State.putStrand_poison (s : State) (st : Strand) : (s.putStrand st).poison = s.poison := rfl
@[simp] theorem State.putStrand_lost (s : State) (st : Strand) : (s.putStrand st).lost = s.lost := rfl
@[simp] theorem State.putStrand_offers (s : State) (st : Strand) : (s.putStrand st).offers = s.offers := rfl
@[simp] theorem State.putStrand_deposits (s : State) (st : Strand) : (s.putStrand st).deposits = s.deposits := rfl
@[simp] theorem State.putStrand_xwrites (s : State) (st : Strand) : (s.putStrand st).xwrites = s.xwrites := rfl
@[simp] theorem State.putStrand_xreads (s : State) (st : Strand) : (s.putStrand st).xreads = s.xreads := rfl
@[simp] theorem State.putStrand_hg (s : State) (st : Strand) : (s.putStrand st).hg = s.hg := rfl
@[simp] theorem State.putStrand_gx (s : State) (st : Strand) : (s.putStrand st).gx = s.gx := rfl
@[simp] theorem State.putStrand_link (s : State) (st : Strand) : (s.putStrand st).link = s.link := rfl
@[simp] theorem State.putStrand_port (s : State) (st : Strand) : (s.putStrand st).port = s.port := rfl
@[simp] theorem State.putStrand_trace (s : State) (st : Strand) : (s.putStrand st).trace = s.trace := rfl
@[simp] theorem State.putStrand_mg (s : State) (st : Strand) : (s.putStrand st).mg = s.mg := rfl
@[simp] theorem State.putStrand_captures (s : State) (st : Strand) : (s.putStrand st).captures = s.captures := rfl
@[simp] theorem State.putStrand_rdvMarks (s : State) (st : Strand) : (s.putStrand st).rdvMarks = s.rdvMarks := rfl
@[simp] theorem State.putStrand_nextId (s : State) (st : Strand) : (s.putStrand st).nextId = s.nextId := rfl
@[simp] theorem State.putStrand_cycle (s : State) (st : Strand) : (s.putStrand st).cycle = s.cycle := rfl
@[simp] theorem State.putStrand_timePs (s : State) (st : Strand) : (s.putStrand st).timePs = s.timePs := rfl
@[simp] theorem State.putStrand_cur (s : State) (st : Strand) : (s.putStrand st).cur = s.cur := rfl
@[simp] theorem State.putStrand_weave (s : State) (st : Strand) : (s.putStrand st).weave = s.weave := rfl
@[simp] theorem State.putStrand_commonsBuf (s : State) (st : Strand) : (s.putStrand st).commonsBuf = s.commonsBuf := rfl
@[simp] theorem State.putStrand_flagBuf (s : State) (st : Strand) : (s.putStrand st).flagBuf = s.flagBuf := rfl
@[simp] theorem State.putStrand_evBuf (s : State) (st : Strand) : (s.putStrand st).evBuf = s.evBuf := rfl
@[simp] theorem State.putStrand_agenda (s : State) (st : Strand) : (s.putStrand st).agenda = s.agenda := rfl
@[simp] theorem State.putStrand_free (s : State) (st : Strand) : (s.putStrand st).free = s.free := rfl

@[simp] theorem State.mapTask_strands (s : State) (key : Nat) (f : Task → Task) : (s.mapTask key f).strands = s.strands := rfl
@[simp] theorem State.mapTask_bundles (s : State) (key : Nat) (f : Task → Task) : (s.mapTask key f).bundles = s.bundles := rfl
@[simp] theorem State.mapTask_cores (s : State) (key : Nat) (f : Task → Task) : (s.mapTask key f).cores = s.cores := rfl
@[simp] theorem State.mapTask_dies (s : State) (key : Nat) (f : Task → Task) : (s.mapTask key f).dies = s.dies := rfl
@[simp] theorem State.mapTask_qes (s : State) (key : Nat) (f : Task → Task) : (s.mapTask key f).qes = s.qes := rfl
@[simp] theorem State.mapTask_mem (s : State) (key : Nat) (f : Task → Task) : (s.mapTask key f).mem = s.mem := rfl
@[simp] theorem State.mapTask_poison (s : State) (key : Nat) (f : Task → Task) : (s.mapTask key f).poison = s.poison := rfl
@[simp] theorem State.mapTask_lost (s : State) (key : Nat) (f : Task → Task) : (s.mapTask key f).lost = s.lost := rfl
@[simp] theorem State.mapTask_offers (s : State) (key : Nat) (f : Task → Task) : (s.mapTask key f).offers = s.offers := rfl
@[simp] theorem State.mapTask_deposits (s : State) (key : Nat) (f : Task → Task) : (s.mapTask key f).deposits = s.deposits := rfl
@[simp] theorem State.mapTask_xwrites (s : State) (key : Nat) (f : Task → Task) : (s.mapTask key f).xwrites = s.xwrites := rfl
@[simp] theorem State.mapTask_xreads (s : State) (key : Nat) (f : Task → Task) : (s.mapTask key f).xreads = s.xreads := rfl
@[simp] theorem State.mapTask_hg (s : State) (key : Nat) (f : Task → Task) : (s.mapTask key f).hg = { s.hg with tasks := s.hg.tasks.map fun t => if t.key = key then f t else t } := rfl
@[simp] theorem State.mapTask_gx (s : State) (key : Nat) (f : Task → Task) : (s.mapTask key f).gx = s.gx := rfl
@[simp] theorem State.mapTask_link (s : State) (key : Nat) (f : Task → Task) : (s.mapTask key f).link = s.link := rfl
@[simp] theorem State.mapTask_port (s : State) (key : Nat) (f : Task → Task) : (s.mapTask key f).port = s.port := rfl
@[simp] theorem State.mapTask_trace (s : State) (key : Nat) (f : Task → Task) : (s.mapTask key f).trace = s.trace := rfl
@[simp] theorem State.mapTask_mg (s : State) (key : Nat) (f : Task → Task) : (s.mapTask key f).mg = s.mg := rfl
@[simp] theorem State.mapTask_captures (s : State) (key : Nat) (f : Task → Task) : (s.mapTask key f).captures = s.captures := rfl
@[simp] theorem State.mapTask_rdvMarks (s : State) (key : Nat) (f : Task → Task) : (s.mapTask key f).rdvMarks = s.rdvMarks := rfl
@[simp] theorem State.mapTask_nextId (s : State) (key : Nat) (f : Task → Task) : (s.mapTask key f).nextId = s.nextId := rfl
@[simp] theorem State.mapTask_cycle (s : State) (key : Nat) (f : Task → Task) : (s.mapTask key f).cycle = s.cycle := rfl
@[simp] theorem State.mapTask_timePs (s : State) (key : Nat) (f : Task → Task) : (s.mapTask key f).timePs = s.timePs := rfl
@[simp] theorem State.mapTask_cur (s : State) (key : Nat) (f : Task → Task) : (s.mapTask key f).cur = s.cur := rfl
@[simp] theorem State.mapTask_weave (s : State) (key : Nat) (f : Task → Task) : (s.mapTask key f).weave = s.weave := rfl
@[simp] theorem State.mapTask_commonsBuf (s : State) (key : Nat) (f : Task → Task) : (s.mapTask key f).commonsBuf = s.commonsBuf := rfl
@[simp] theorem State.mapTask_flagBuf (s : State) (key : Nat) (f : Task → Task) : (s.mapTask key f).flagBuf = s.flagBuf := rfl
@[simp] theorem State.mapTask_evBuf (s : State) (key : Nat) (f : Task → Task) : (s.mapTask key f).evBuf = s.evBuf := rfl
@[simp] theorem State.mapTask_agenda (s : State) (key : Nat) (f : Task → Task) : (s.mapTask key f).agenda = s.agenda := rfl
@[simp] theorem State.mapTask_free (s : State) (key : Nat) (f : Task → Task) : (s.mapTask key f).free = s.free := rfl

@[simp] theorem State.mapBundle_strands (s : State) (h : Nat) (f : Bundle → Bundle) : (s.mapBundle h f).strands = s.strands := rfl
@[simp] theorem State.mapBundle_bundles (s : State) (h : Nat) (f : Bundle → Bundle) : (s.mapBundle h f).bundles = s.bundles.map fun b => if b.handle = h then f b else b := rfl
@[simp] theorem State.mapBundle_cores (s : State) (h : Nat) (f : Bundle → Bundle) : (s.mapBundle h f).cores = s.cores := rfl
@[simp] theorem State.mapBundle_dies (s : State) (h : Nat) (f : Bundle → Bundle) : (s.mapBundle h f).dies = s.dies := rfl
@[simp] theorem State.mapBundle_qes (s : State) (h : Nat) (f : Bundle → Bundle) : (s.mapBundle h f).qes = s.qes := rfl
@[simp] theorem State.mapBundle_mem (s : State) (h : Nat) (f : Bundle → Bundle) : (s.mapBundle h f).mem = s.mem := rfl
@[simp] theorem State.mapBundle_poison (s : State) (h : Nat) (f : Bundle → Bundle) : (s.mapBundle h f).poison = s.poison := rfl
@[simp] theorem State.mapBundle_lost (s : State) (h : Nat) (f : Bundle → Bundle) : (s.mapBundle h f).lost = s.lost := rfl
@[simp] theorem State.mapBundle_offers (s : State) (h : Nat) (f : Bundle → Bundle) : (s.mapBundle h f).offers = s.offers := rfl
@[simp] theorem State.mapBundle_deposits (s : State) (h : Nat) (f : Bundle → Bundle) : (s.mapBundle h f).deposits = s.deposits := rfl
@[simp] theorem State.mapBundle_xwrites (s : State) (h : Nat) (f : Bundle → Bundle) : (s.mapBundle h f).xwrites = s.xwrites := rfl
@[simp] theorem State.mapBundle_xreads (s : State) (h : Nat) (f : Bundle → Bundle) : (s.mapBundle h f).xreads = s.xreads := rfl
@[simp] theorem State.mapBundle_hg (s : State) (h : Nat) (f : Bundle → Bundle) : (s.mapBundle h f).hg = s.hg := rfl
@[simp] theorem State.mapBundle_gx (s : State) (h : Nat) (f : Bundle → Bundle) : (s.mapBundle h f).gx = s.gx := rfl
@[simp] theorem State.mapBundle_link (s : State) (h : Nat) (f : Bundle → Bundle) : (s.mapBundle h f).link = s.link := rfl
@[simp] theorem State.mapBundle_port (s : State) (h : Nat) (f : Bundle → Bundle) : (s.mapBundle h f).port = s.port := rfl
@[simp] theorem State.mapBundle_trace (s : State) (h : Nat) (f : Bundle → Bundle) : (s.mapBundle h f).trace = s.trace := rfl
@[simp] theorem State.mapBundle_mg (s : State) (h : Nat) (f : Bundle → Bundle) : (s.mapBundle h f).mg = s.mg := rfl
@[simp] theorem State.mapBundle_captures (s : State) (h : Nat) (f : Bundle → Bundle) : (s.mapBundle h f).captures = s.captures := rfl
@[simp] theorem State.mapBundle_rdvMarks (s : State) (h : Nat) (f : Bundle → Bundle) : (s.mapBundle h f).rdvMarks = s.rdvMarks := rfl
@[simp] theorem State.mapBundle_nextId (s : State) (h : Nat) (f : Bundle → Bundle) : (s.mapBundle h f).nextId = s.nextId := rfl
@[simp] theorem State.mapBundle_cycle (s : State) (h : Nat) (f : Bundle → Bundle) : (s.mapBundle h f).cycle = s.cycle := rfl
@[simp] theorem State.mapBundle_timePs (s : State) (h : Nat) (f : Bundle → Bundle) : (s.mapBundle h f).timePs = s.timePs := rfl
@[simp] theorem State.mapBundle_cur (s : State) (h : Nat) (f : Bundle → Bundle) : (s.mapBundle h f).cur = s.cur := rfl
@[simp] theorem State.mapBundle_weave (s : State) (h : Nat) (f : Bundle → Bundle) : (s.mapBundle h f).weave = s.weave := rfl
@[simp] theorem State.mapBundle_commonsBuf (s : State) (h : Nat) (f : Bundle → Bundle) : (s.mapBundle h f).commonsBuf = s.commonsBuf := rfl
@[simp] theorem State.mapBundle_flagBuf (s : State) (h : Nat) (f : Bundle → Bundle) : (s.mapBundle h f).flagBuf = s.flagBuf := rfl
@[simp] theorem State.mapBundle_evBuf (s : State) (h : Nat) (f : Bundle → Bundle) : (s.mapBundle h f).evBuf = s.evBuf := rfl
@[simp] theorem State.mapBundle_agenda (s : State) (h : Nat) (f : Bundle → Bundle) : (s.mapBundle h f).agenda = s.agenda := rfl
@[simp] theorem State.mapBundle_free (s : State) (h : Nat) (f : Bundle → Bundle) : (s.mapBundle h f).free = s.free := rfl

@[simp] theorem State.note_strands (s : State) (d : Nat) (c : Option Nat) (src n key : Nat) : (s.note d c src n key).strands = s.strands := rfl
@[simp] theorem State.note_bundles (s : State) (d : Nat) (c : Option Nat) (src n key : Nat) : (s.note d c src n key).bundles = s.bundles := rfl
@[simp] theorem State.note_cores (s : State) (d : Nat) (c : Option Nat) (src n key : Nat) : (s.note d c src n key).cores = s.cores := rfl
@[simp] theorem State.note_dies (s : State) (d : Nat) (c : Option Nat) (src n key : Nat) : (s.note d c src n key).dies = s.dies := rfl
@[simp] theorem State.note_qes (s : State) (d : Nat) (c : Option Nat) (src n key : Nat) : (s.note d c src n key).qes = s.qes := rfl
@[simp] theorem State.note_mem (s : State) (d : Nat) (c : Option Nat) (src n key : Nat) : (s.note d c src n key).mem = s.mem := rfl
@[simp] theorem State.note_poison (s : State) (d : Nat) (c : Option Nat) (src n key : Nat) : (s.note d c src n key).poison = s.poison := rfl
@[simp] theorem State.note_lost (s : State) (d : Nat) (c : Option Nat) (src n key : Nat) : (s.note d c src n key).lost = s.lost := rfl
@[simp] theorem State.note_offers (s : State) (d : Nat) (c : Option Nat) (src n key : Nat) : (s.note d c src n key).offers = s.offers := rfl
@[simp] theorem State.note_deposits (s : State) (d : Nat) (c : Option Nat) (src n key : Nat) : (s.note d c src n key).deposits = s.deposits := rfl
@[simp] theorem State.note_xwrites (s : State) (d : Nat) (c : Option Nat) (src n key : Nat) : (s.note d c src n key).xwrites = s.xwrites := rfl
@[simp] theorem State.note_xreads (s : State) (d : Nat) (c : Option Nat) (src n key : Nat) : (s.note d c src n key).xreads = s.xreads := rfl
@[simp] theorem State.note_hg (s : State) (d : Nat) (c : Option Nat) (src n key : Nat) : (s.note d c src n key).hg = s.hg := rfl
@[simp] theorem State.note_gx (s : State) (d : Nat) (c : Option Nat) (src n key : Nat) : (s.note d c src n key).gx = s.gx := rfl
@[simp] theorem State.note_link (s : State) (d : Nat) (c : Option Nat) (src n key : Nat) : (s.note d c src n key).link = s.link := rfl
@[simp] theorem State.note_port (s : State) (d : Nat) (c : Option Nat) (src n key : Nat) : (s.note d c src n key).port = s.port := rfl
@[simp] theorem State.note_trace (s : State) (d : Nat) (c : Option Nat) (src n key : Nat) : (s.note d c src n key).trace = s.trace := rfl
@[simp] theorem State.note_mg (s : State) (d : Nat) (c : Option Nat) (src n key : Nat) : (s.note d c src n key).mg = s.mg := rfl
@[simp] theorem State.note_captures (s : State) (d : Nat) (c : Option Nat) (src n key : Nat) : (s.note d c src n key).captures = s.captures := rfl
@[simp] theorem State.note_rdvMarks (s : State) (d : Nat) (c : Option Nat) (src n key : Nat) : (s.note d c src n key).rdvMarks = s.rdvMarks := rfl
@[simp] theorem State.note_nextId (s : State) (d : Nat) (c : Option Nat) (src n key : Nat) : (s.note d c src n key).nextId = s.nextId := rfl
@[simp] theorem State.note_cycle (s : State) (d : Nat) (c : Option Nat) (src n key : Nat) : (s.note d c src n key).cycle = s.cycle := rfl
@[simp] theorem State.note_timePs (s : State) (d : Nat) (c : Option Nat) (src n key : Nat) : (s.note d c src n key).timePs = s.timePs := rfl
@[simp] theorem State.note_cur (s : State) (d : Nat) (c : Option Nat) (src n key : Nat) : (s.note d c src n key).cur = s.cur := rfl
@[simp] theorem State.note_weave (s : State) (d : Nat) (c : Option Nat) (src n key : Nat) : (s.note d c src n key).weave = s.weave := rfl
@[simp] theorem State.note_commonsBuf (s : State) (d : Nat) (c : Option Nat) (src n key : Nat) : (s.note d c src n key).commonsBuf = s.commonsBuf := rfl
@[simp] theorem State.note_flagBuf (s : State) (d : Nat) (c : Option Nat) (src n key : Nat) : (s.note d c src n key).flagBuf = s.flagBuf := rfl
@[simp] theorem State.note_evBuf (s : State) (d : Nat) (c : Option Nat) (src n key : Nat) : (s.note d c src n key).evBuf = s.evBuf ++ [{ die := d, core := c, src := src, n := n, who := s.who key }] := rfl
@[simp] theorem State.note_agenda (s : State) (d : Nat) (c : Option Nat) (src n key : Nat) : (s.note d c src n key).agenda = s.agenda := rfl
@[simp] theorem State.note_free (s : State) (d : Nat) (c : Option Nat) (src n key : Nat) : (s.note d c src n key).free = s.free := rfl

/-! ### Reading what an update wrote -/

@[simp] theorem State.core_setCore (s : State) (d c : Nat) (k : Core) : (s.setCore d c k).core d c = k := alGet_alSet_same ..
theorem State.core_setCore_other (s : State) {d c d' c' : Nat} (k : Core) (h : (d', c') ≠ (d, c)) :
    (s.setCore d c k).core d' c' = s.core d' c' := alGet_alSet_other _ _ h _
@[simp] theorem State.die_setDie (s : State) (d : Nat) (k : Die) : (s.setDie d k).die d = k := alGet_alSet_same ..
theorem State.die_setDie_other (s : State) {d d' : Nat} (k : Die) (h : d' ≠ d) : (s.setDie d k).die d' = s.die d' :=
  alGet_alSet_other _ _ h _
@[simp] theorem State.qe_setQe (s : State) (d c : Nat) (k : Engine) : (s.setQe d c k).qe d c = k := alGet_alSet_same ..
@[simp] theorem State.core_putStrand (s : State) (st : Strand) (d c : Nat) : (s.putStrand st).core d c = s.core d c := rfl
@[simp] theorem State.die_putStrand (s : State) (st : Strand) (d : Nat) : (s.putStrand st).die d = s.die d := rfl
@[simp] theorem State.core_mapTask (s : State) (k : Nat) (f : Task → Task) (d c : Nat) : (s.mapTask k f).core d c = s.core d c := rfl

/-- A strand put back is the strand found at its slot. -/
theorem State.strandAt_putStrand (s : State) (st : Strand) :
    (s.putStrand st).strandAt st.at_ = (s.strandAt st.at_).map fun _ => st := by
  simp only [State.strandAt, State.putStrand]
  induction s.strands with
  | nil => rfl
  | cons x r ih => by_cases h : x.at_ = st.at_ <;> simp [h, ih]

/-- A strand put back leaves the strands of other slots. -/
theorem State.strandAt_putStrand_other (s : State) (st : Strand) {r : SRef} (h : r ≠ st.at_) :
    (s.putStrand st).strandAt r = s.strandAt r := by
  simp only [State.strandAt, State.putStrand]
  induction s.strands with
  | nil => rfl
  | cons x l ih =>
    by_cases hx : x.at_ = st.at_
    · have h' : ¬ st.at_ = r := fun e => h e.symm
      have h2 : ¬ x.at_ = r := hx ▸ h'
      simp [hx, h', ih]
    · by_cases hr : x.at_ = r <;> simp [hx, hr, h, ih]

/-- The strand found at a slot stands there. -/
theorem State.strandAt_at {s : State} {r : SRef} {st : Strand} (h : s.strandAt r = some st) : st.at_ = r := by
  simpa using List.find?_some h

/-- The strand that is issuing, put back changed, is the strand that is issuing. -/
theorem State.curStrand_putStrand {s : State} {st st' : Strand} (h : s.curStrand = some st) (ha : st'.at_ = st.at_) :
    (s.putStrand st').curStrand = some st' := by
  unfold State.curStrand at *
  cases hc : s.cur with
  | none => simp [hc] at h
  | some r =>
    rw [hc] at h
    have hr : st.at_ = r := State.strandAt_at h
    have := s.strandAt_putStrand st'
    simp only [State.putStrand_cur, hc, Option.bind_some] at *
    rw [ha, hr] at this
    rw [this, h]; rfl

/-! ### Updates of a strand -/

@[simp] theorem Strand.setSAt_at_ (st : Strand) (j : Option Nat) (x : Word) : (st.setSAt j x).at_ = st.at_ := by cases j <;> rfl
@[simp] theorem Strand.setS_at_ (st : Strand) (r : BitVec 7) (x : Word) : (st.setS r x).at_ = st.at_ := Strand.setSAt_at_ ..
@[simp] theorem Strand.setSAt_pc (st : Strand) (j : Option Nat) (x : Word) : (st.setSAt j x).pc = st.pc := by cases j <;> rfl
@[simp] theorem Strand.setS_pc (st : Strand) (r : BitVec 7) (x : Word) : (st.setS r x).pc = st.pc := Strand.setSAt_pc ..
@[simp] theorem Strand.setSAt_native (st : Strand) (j : Option Nat) (x : Word) : (st.setSAt j x).native = st.native := by cases j <;> rfl
@[simp] theorem Strand.setS_native (st : Strand) (r : BitVec 7) (x : Word) : (st.setS r x).native = st.native := Strand.setSAt_native ..
@[simp] theorem Strand.setSAt_step (st : Strand) (j : Option Nat) (x : Word) : (st.setSAt j x).step = st.step := by cases j <;> rfl
@[simp] theorem Strand.setS_step (st : Strand) (r : BitVec 7) (x : Word) : (st.setS r x).step = st.step := Strand.setSAt_step ..
@[simp] theorem Strand.setSAt_kernel (st : Strand) (j : Option Nat) (x : Word) : (st.setSAt j x).kernel = st.kernel := by cases j <;> rfl
@[simp] theorem Strand.setS_kernel (st : Strand) (r : BitVec 7) (x : Word) : (st.setS r x).kernel = st.kernel := Strand.setSAt_kernel ..
@[simp] theorem Strand.setSAt_wbs (st : Strand) (j : Option Nat) (x : Word) : (st.setSAt j x).wbs = st.wbs := by cases j <;> rfl
@[simp] theorem Strand.setS_wbs (st : Strand) (r : BitVec 7) (x : Word) : (st.setS r x).wbs = st.wbs := Strand.setSAt_wbs ..
@[simp] theorem Strand.setSAt_wbv (st : Strand) (j : Option Nat) (x : Word) : (st.setSAt j x).wbv = st.wbv := by cases j <;> rfl
@[simp] theorem Strand.setS_wbv (st : Strand) (r : BitVec 7) (x : Word) : (st.setS r x).wbv = st.wbv := Strand.setSAt_wbv ..
@[simp] theorem Strand.setSAt_nsb (st : Strand) (j : Option Nat) (x : Word) : (st.setSAt j x).nsb = st.nsb := by cases j <;> rfl
@[simp] theorem Strand.setS_nsb (st : Strand) (r : BitVec 7) (x : Word) : (st.setS r x).nsb = st.nsb := Strand.setSAt_nsb ..
@[simp] theorem Strand.setSAt_nvb (st : Strand) (j : Option Nat) (x : Word) : (st.setSAt j x).nvb = st.nvb := by cases j <;> rfl
@[simp] theorem Strand.setS_nvb (st : Strand) (r : BitVec 7) (x : Word) : (st.setS r x).nvb = st.nvb := Strand.setSAt_nvb ..
@[simp] theorem Strand.setSAt_vregs (st : Strand) (j : Option Nat) (x : Word) : (st.setSAt j x).vregs = st.vregs := by cases j <;> rfl
@[simp] theorem Strand.setS_vregs (st : Strand) (r : BitVec 7) (x : Word) : (st.setS r x).vregs = st.vregs := Strand.setSAt_vregs ..
@[simp] theorem Strand.setSAt_preds (st : Strand) (j : Option Nat) (x : Word) : (st.setSAt j x).preds = st.preds := by cases j <;> rfl
@[simp] theorem Strand.setS_preds (st : Strand) (r : BitVec 7) (x : Word) : (st.setS r x).preds = st.preds := Strand.setSAt_preds ..
@[simp] theorem Strand.setSAt_link (st : Strand) (j : Option Nat) (x : Word) : (st.setSAt j x).link = st.link := by cases j <;> rfl
@[simp] theorem Strand.setS_link (st : Strand) (r : BitVec 7) (x : Word) : (st.setS r x).link = st.link := Strand.setSAt_link ..
@[simp] theorem Strand.setSAt_rm (st : Strand) (j : Option Nat) (x : Word) : (st.setSAt j x).rm = st.rm := by cases j <;> rfl
@[simp] theorem Strand.setS_rm (st : Strand) (r : BitVec 7) (x : Word) : (st.setS r x).rm = st.rm := Strand.setSAt_rm ..
@[simp] theorem Strand.setSAt_fpflags (st : Strand) (j : Option Nat) (x : Word) : (st.setSAt j x).fpflags = st.fpflags := by cases j <;> rfl
@[simp] theorem Strand.setS_fpflags (st : Strand) (r : BitVec 7) (x : Word) : (st.setS r x).fpflags = st.fpflags := Strand.setSAt_fpflags ..
@[simp] theorem Strand.setSAt_cause (st : Strand) (j : Option Nat) (x : Word) : (st.setSAt j x).cause = st.cause := by cases j <;> rfl
@[simp] theorem Strand.setS_cause (st : Strand) (r : BitVec 7) (x : Word) : (st.setS r x).cause = st.cause := Strand.setSAt_cause ..
@[simp] theorem Strand.setSAt_level (st : Strand) (j : Option Nat) (x : Word) : (st.setSAt j x).level = st.level := by cases j <;> rfl
@[simp] theorem Strand.setS_level (st : Strand) (r : BitVec 7) (x : Word) : (st.setS r x).level = st.level := Strand.setSAt_level ..
@[simp] theorem Strand.setSAt_plev (st : Strand) (j : Option Nat) (x : Word) : (st.setSAt j x).plev = st.plev := by cases j <;> rfl
@[simp] theorem Strand.setS_plev (st : Strand) (r : BitVec 7) (x : Word) : (st.setS r x).plev = st.plev := Strand.setSAt_plev ..
@[simp] theorem Strand.setSAt_epc (st : Strand) (j : Option Nat) (x : Word) : (st.setSAt j x).epc = st.epc := by cases j <;> rfl
@[simp] theorem Strand.setS_epc (st : Strand) (r : BitVec 7) (x : Word) : (st.setS r x).epc = st.epc := Strand.setSAt_epc ..
@[simp] theorem Strand.setSAt_tval (st : Strand) (j : Option Nat) (x : Word) : (st.setSAt j x).tval = st.tval := by cases j <;> rfl
@[simp] theorem Strand.setS_tval (st : Strand) (r : BitVec 7) (x : Word) : (st.setS r x).tval = st.tval := Strand.setSAt_tval ..
@[simp] theorem Strand.setSAt_bundle (st : Strand) (j : Option Nat) (x : Word) : (st.setSAt j x).bundle = st.bundle := by cases j <;> rfl
@[simp] theorem Strand.setS_bundle (st : Strand) (r : BitVec 7) (x : Word) : (st.setS r x).bundle = st.bundle := Strand.setSAt_bundle ..
@[simp] theorem Strand.setSAt_task (st : Strand) (j : Option Nat) (x : Word) : (st.setSAt j x).task = st.task := by cases j <;> rfl
@[simp] theorem Strand.setS_task (st : Strand) (r : BitVec 7) (x : Word) : (st.setS r x).task = st.task := Strand.setSAt_task ..
@[simp] theorem Strand.setSAt_taskId (st : Strand) (j : Option Nat) (x : Word) : (st.setSAt j x).taskId = st.taskId := by cases j <;> rfl
@[simp] theorem Strand.setS_taskId (st : Strand) (r : BitVec 7) (x : Word) : (st.setS r x).taskId = st.taskId := Strand.setSAt_taskId ..
@[simp] theorem Strand.setSAt_sid (st : Strand) (j : Option Nat) (x : Word) : (st.setSAt j x).sid = st.sid := by cases j <;> rfl
@[simp] theorem Strand.setS_sid (st : Strand) (r : BitVec 7) (x : Word) : (st.setS r x).sid = st.sid := Strand.setSAt_sid ..
@[simp] theorem Strand.setSAt_pdom (st : Strand) (j : Option Nat) (x : Word) : (st.setSAt j x).pdom = st.pdom := by cases j <;> rfl
@[simp] theorem Strand.setS_pdom (st : Strand) (r : BitVec 7) (x : Word) : (st.setS r x).pdom = st.pdom := Strand.setSAt_pdom ..
@[simp] theorem Strand.setSAt_prio (st : Strand) (j : Option Nat) (x : Word) : (st.setSAt j x).prio = st.prio := by cases j <;> rfl
@[simp] theorem Strand.setS_prio (st : Strand) (r : BitVec 7) (x : Word) : (st.setS r x).prio = st.prio := Strand.setSAt_prio ..
@[simp] theorem Strand.setSAt_partid (st : Strand) (j : Option Nat) (x : Word) : (st.setSAt j x).partid = st.partid := by cases j <;> rfl
@[simp] theorem Strand.setS_partid (st : Strand) (r : BitVec 7) (x : Word) : (st.setS r x).partid = st.partid := Strand.setSAt_partid ..
@[simp] theorem Strand.setSAt_epoch (st : Strand) (j : Option Nat) (x : Word) : (st.setSAt j x).epoch = st.epoch := by cases j <;> rfl
@[simp] theorem Strand.setS_epoch (st : Strand) (r : BitVec 7) (x : Word) : (st.setS r x).epoch = st.epoch := Strand.setSAt_epoch ..
@[simp] theorem Strand.setSAt_args (st : Strand) (j : Option Nat) (x : Word) : (st.setSAt j x).args = st.args := by cases j <;> rfl
@[simp] theorem Strand.setS_args (st : Strand) (r : BitVec 7) (x : Word) : (st.setS r x).args = st.args := Strand.setSAt_args ..
@[simp] theorem Strand.setSAt_period (st : Strand) (j : Option Nat) (x : Word) : (st.setSAt j x).period = st.period := by cases j <;> rfl
@[simp] theorem Strand.setS_period (st : Strand) (r : BitVec 7) (x : Word) : (st.setS r x).period = st.period := Strand.setSAt_period ..
@[simp] theorem Strand.setSAt_due (st : Strand) (j : Option Nat) (x : Word) : (st.setSAt j x).due = st.due := by cases j <;> rfl
@[simp] theorem Strand.setS_due (st : Strand) (r : BitVec 7) (x : Word) : (st.setS r x).due = st.due := Strand.setSAt_due ..
@[simp] theorem Strand.setSAt_dueTval (st : Strand) (j : Option Nat) (x : Word) : (st.setSAt j x).dueTval = st.dueTval := by cases j <;> rfl
@[simp] theorem Strand.setS_dueTval (st : Strand) (r : BitVec 7) (x : Word) : (st.setS r x).dueTval = st.dueTval := Strand.setSAt_dueTval ..
@[simp] theorem Strand.setSAt_reenter (st : Strand) (j : Option Nat) (x : Word) : (st.setSAt j x).reenter = st.reenter := by cases j <;> rfl
@[simp] theorem Strand.setS_reenter (st : Strand) (r : BitVec 7) (x : Word) : (st.setS r x).reenter = st.reenter := Strand.setSAt_reenter ..
@[simp] theorem Strand.setSAt_blocked (st : Strand) (j : Option Nat) (x : Word) : (st.setSAt j x).blocked = st.blocked := by cases j <;> rfl
@[simp] theorem Strand.setS_blocked (st : Strand) (r : BitVec 7) (x : Word) : (st.setS r x).blocked = st.blocked := Strand.setSAt_blocked ..
@[simp] theorem Strand.setSAt_watch (st : Strand) (j : Option Nat) (x : Word) : (st.setSAt j x).watch = st.watch := by cases j <;> rfl
@[simp] theorem Strand.setS_watch (st : Strand) (r : BitVec 7) (x : Word) : (st.setS r x).watch = st.watch := Strand.setSAt_watch ..
@[simp] theorem Strand.setSAt_fbuf (st : Strand) (j : Option Nat) (x : Word) : (st.setSAt j x).fbuf = st.fbuf := by cases j <;> rfl
@[simp] theorem Strand.setS_fbuf (st : Strand) (r : BitVec 7) (x : Word) : (st.setS r x).fbuf = st.fbuf := Strand.setSAt_fbuf ..
@[simp] theorem Strand.setSAt_readyAt (st : Strand) (j : Option Nat) (x : Word) : (st.setSAt j x).readyAt = st.readyAt := by cases j <;> rfl
@[simp] theorem Strand.setS_readyAt (st : Strand) (r : BitVec 7) (x : Word) : (st.setS r x).readyAt = st.readyAt := Strand.setSAt_readyAt ..
@[simp] theorem Strand.setSAt_resumed (st : Strand) (j : Option Nat) (x : Word) : (st.setSAt j x).resumed = st.resumed := by cases j <;> rfl
@[simp] theorem Strand.setS_resumed (st : Strand) (r : BitVec 7) (x : Word) : (st.setS r x).resumed = st.resumed := Strand.setSAt_resumed ..
@[simp] theorem Strand.setSAt_stopped (st : Strand) (j : Option Nat) (x : Word) : (st.setSAt j x).stopped = st.stopped := by cases j <;> rfl
@[simp] theorem Strand.setS_stopped (st : Strand) (r : BitVec 7) (x : Word) : (st.setS r x).stopped = st.stopped := Strand.setSAt_stopped ..
@[simp] theorem Strand.setVAt_at_ (st : Strand) (j : Option Nat) (x : Vec) : (st.setVAt j x).at_ = st.at_ := by cases j <;> rfl
@[simp] theorem Strand.setV_at_ (st : Strand) (r : BitVec 7) (x : Vec) : (st.setV r x).at_ = st.at_ := Strand.setVAt_at_ ..
@[simp] theorem Strand.setVAt_pc (st : Strand) (j : Option Nat) (x : Vec) : (st.setVAt j x).pc = st.pc := by cases j <;> rfl
@[simp] theorem Strand.setV_pc (st : Strand) (r : BitVec 7) (x : Vec) : (st.setV r x).pc = st.pc := Strand.setVAt_pc ..
@[simp] theorem Strand.setVAt_native (st : Strand) (j : Option Nat) (x : Vec) : (st.setVAt j x).native = st.native := by cases j <;> rfl
@[simp] theorem Strand.setV_native (st : Strand) (r : BitVec 7) (x : Vec) : (st.setV r x).native = st.native := Strand.setVAt_native ..
@[simp] theorem Strand.setVAt_step (st : Strand) (j : Option Nat) (x : Vec) : (st.setVAt j x).step = st.step := by cases j <;> rfl
@[simp] theorem Strand.setV_step (st : Strand) (r : BitVec 7) (x : Vec) : (st.setV r x).step = st.step := Strand.setVAt_step ..
@[simp] theorem Strand.setVAt_kernel (st : Strand) (j : Option Nat) (x : Vec) : (st.setVAt j x).kernel = st.kernel := by cases j <;> rfl
@[simp] theorem Strand.setV_kernel (st : Strand) (r : BitVec 7) (x : Vec) : (st.setV r x).kernel = st.kernel := Strand.setVAt_kernel ..
@[simp] theorem Strand.setVAt_wbs (st : Strand) (j : Option Nat) (x : Vec) : (st.setVAt j x).wbs = st.wbs := by cases j <;> rfl
@[simp] theorem Strand.setV_wbs (st : Strand) (r : BitVec 7) (x : Vec) : (st.setV r x).wbs = st.wbs := Strand.setVAt_wbs ..
@[simp] theorem Strand.setVAt_wbv (st : Strand) (j : Option Nat) (x : Vec) : (st.setVAt j x).wbv = st.wbv := by cases j <;> rfl
@[simp] theorem Strand.setV_wbv (st : Strand) (r : BitVec 7) (x : Vec) : (st.setV r x).wbv = st.wbv := Strand.setVAt_wbv ..
@[simp] theorem Strand.setVAt_nsb (st : Strand) (j : Option Nat) (x : Vec) : (st.setVAt j x).nsb = st.nsb := by cases j <;> rfl
@[simp] theorem Strand.setV_nsb (st : Strand) (r : BitVec 7) (x : Vec) : (st.setV r x).nsb = st.nsb := Strand.setVAt_nsb ..
@[simp] theorem Strand.setVAt_nvb (st : Strand) (j : Option Nat) (x : Vec) : (st.setVAt j x).nvb = st.nvb := by cases j <;> rfl
@[simp] theorem Strand.setV_nvb (st : Strand) (r : BitVec 7) (x : Vec) : (st.setV r x).nvb = st.nvb := Strand.setVAt_nvb ..
@[simp] theorem Strand.setVAt_sregs (st : Strand) (j : Option Nat) (x : Vec) : (st.setVAt j x).sregs = st.sregs := by cases j <;> rfl
@[simp] theorem Strand.setV_sregs (st : Strand) (r : BitVec 7) (x : Vec) : (st.setV r x).sregs = st.sregs := Strand.setVAt_sregs ..
@[simp] theorem Strand.setVAt_preds (st : Strand) (j : Option Nat) (x : Vec) : (st.setVAt j x).preds = st.preds := by cases j <;> rfl
@[simp] theorem Strand.setV_preds (st : Strand) (r : BitVec 7) (x : Vec) : (st.setV r x).preds = st.preds := Strand.setVAt_preds ..
@[simp] theorem Strand.setVAt_link (st : Strand) (j : Option Nat) (x : Vec) : (st.setVAt j x).link = st.link := by cases j <;> rfl
@[simp] theorem Strand.setV_link (st : Strand) (r : BitVec 7) (x : Vec) : (st.setV r x).link = st.link := Strand.setVAt_link ..
@[simp] theorem Strand.setVAt_rm (st : Strand) (j : Option Nat) (x : Vec) : (st.setVAt j x).rm = st.rm := by cases j <;> rfl
@[simp] theorem Strand.setV_rm (st : Strand) (r : BitVec 7) (x : Vec) : (st.setV r x).rm = st.rm := Strand.setVAt_rm ..
@[simp] theorem Strand.setVAt_fpflags (st : Strand) (j : Option Nat) (x : Vec) : (st.setVAt j x).fpflags = st.fpflags := by cases j <;> rfl
@[simp] theorem Strand.setV_fpflags (st : Strand) (r : BitVec 7) (x : Vec) : (st.setV r x).fpflags = st.fpflags := Strand.setVAt_fpflags ..
@[simp] theorem Strand.setVAt_cause (st : Strand) (j : Option Nat) (x : Vec) : (st.setVAt j x).cause = st.cause := by cases j <;> rfl
@[simp] theorem Strand.setV_cause (st : Strand) (r : BitVec 7) (x : Vec) : (st.setV r x).cause = st.cause := Strand.setVAt_cause ..
@[simp] theorem Strand.setVAt_level (st : Strand) (j : Option Nat) (x : Vec) : (st.setVAt j x).level = st.level := by cases j <;> rfl
@[simp] theorem Strand.setV_level (st : Strand) (r : BitVec 7) (x : Vec) : (st.setV r x).level = st.level := Strand.setVAt_level ..
@[simp] theorem Strand.setVAt_plev (st : Strand) (j : Option Nat) (x : Vec) : (st.setVAt j x).plev = st.plev := by cases j <;> rfl
@[simp] theorem Strand.setV_plev (st : Strand) (r : BitVec 7) (x : Vec) : (st.setV r x).plev = st.plev := Strand.setVAt_plev ..
@[simp] theorem Strand.setVAt_epc (st : Strand) (j : Option Nat) (x : Vec) : (st.setVAt j x).epc = st.epc := by cases j <;> rfl
@[simp] theorem Strand.setV_epc (st : Strand) (r : BitVec 7) (x : Vec) : (st.setV r x).epc = st.epc := Strand.setVAt_epc ..
@[simp] theorem Strand.setVAt_tval (st : Strand) (j : Option Nat) (x : Vec) : (st.setVAt j x).tval = st.tval := by cases j <;> rfl
@[simp] theorem Strand.setV_tval (st : Strand) (r : BitVec 7) (x : Vec) : (st.setV r x).tval = st.tval := Strand.setVAt_tval ..
@[simp] theorem Strand.setVAt_bundle (st : Strand) (j : Option Nat) (x : Vec) : (st.setVAt j x).bundle = st.bundle := by cases j <;> rfl
@[simp] theorem Strand.setV_bundle (st : Strand) (r : BitVec 7) (x : Vec) : (st.setV r x).bundle = st.bundle := Strand.setVAt_bundle ..
@[simp] theorem Strand.setVAt_task (st : Strand) (j : Option Nat) (x : Vec) : (st.setVAt j x).task = st.task := by cases j <;> rfl
@[simp] theorem Strand.setV_task (st : Strand) (r : BitVec 7) (x : Vec) : (st.setV r x).task = st.task := Strand.setVAt_task ..
@[simp] theorem Strand.setVAt_taskId (st : Strand) (j : Option Nat) (x : Vec) : (st.setVAt j x).taskId = st.taskId := by cases j <;> rfl
@[simp] theorem Strand.setV_taskId (st : Strand) (r : BitVec 7) (x : Vec) : (st.setV r x).taskId = st.taskId := Strand.setVAt_taskId ..
@[simp] theorem Strand.setVAt_sid (st : Strand) (j : Option Nat) (x : Vec) : (st.setVAt j x).sid = st.sid := by cases j <;> rfl
@[simp] theorem Strand.setV_sid (st : Strand) (r : BitVec 7) (x : Vec) : (st.setV r x).sid = st.sid := Strand.setVAt_sid ..
@[simp] theorem Strand.setVAt_pdom (st : Strand) (j : Option Nat) (x : Vec) : (st.setVAt j x).pdom = st.pdom := by cases j <;> rfl
@[simp] theorem Strand.setV_pdom (st : Strand) (r : BitVec 7) (x : Vec) : (st.setV r x).pdom = st.pdom := Strand.setVAt_pdom ..
@[simp] theorem Strand.setVAt_prio (st : Strand) (j : Option Nat) (x : Vec) : (st.setVAt j x).prio = st.prio := by cases j <;> rfl
@[simp] theorem Strand.setV_prio (st : Strand) (r : BitVec 7) (x : Vec) : (st.setV r x).prio = st.prio := Strand.setVAt_prio ..
@[simp] theorem Strand.setVAt_partid (st : Strand) (j : Option Nat) (x : Vec) : (st.setVAt j x).partid = st.partid := by cases j <;> rfl
@[simp] theorem Strand.setV_partid (st : Strand) (r : BitVec 7) (x : Vec) : (st.setV r x).partid = st.partid := Strand.setVAt_partid ..
@[simp] theorem Strand.setVAt_epoch (st : Strand) (j : Option Nat) (x : Vec) : (st.setVAt j x).epoch = st.epoch := by cases j <;> rfl
@[simp] theorem Strand.setV_epoch (st : Strand) (r : BitVec 7) (x : Vec) : (st.setV r x).epoch = st.epoch := Strand.setVAt_epoch ..
@[simp] theorem Strand.setVAt_args (st : Strand) (j : Option Nat) (x : Vec) : (st.setVAt j x).args = st.args := by cases j <;> rfl
@[simp] theorem Strand.setV_args (st : Strand) (r : BitVec 7) (x : Vec) : (st.setV r x).args = st.args := Strand.setVAt_args ..
@[simp] theorem Strand.setVAt_period (st : Strand) (j : Option Nat) (x : Vec) : (st.setVAt j x).period = st.period := by cases j <;> rfl
@[simp] theorem Strand.setV_period (st : Strand) (r : BitVec 7) (x : Vec) : (st.setV r x).period = st.period := Strand.setVAt_period ..
@[simp] theorem Strand.setVAt_due (st : Strand) (j : Option Nat) (x : Vec) : (st.setVAt j x).due = st.due := by cases j <;> rfl
@[simp] theorem Strand.setV_due (st : Strand) (r : BitVec 7) (x : Vec) : (st.setV r x).due = st.due := Strand.setVAt_due ..
@[simp] theorem Strand.setVAt_dueTval (st : Strand) (j : Option Nat) (x : Vec) : (st.setVAt j x).dueTval = st.dueTval := by cases j <;> rfl
@[simp] theorem Strand.setV_dueTval (st : Strand) (r : BitVec 7) (x : Vec) : (st.setV r x).dueTval = st.dueTval := Strand.setVAt_dueTval ..
@[simp] theorem Strand.setVAt_reenter (st : Strand) (j : Option Nat) (x : Vec) : (st.setVAt j x).reenter = st.reenter := by cases j <;> rfl
@[simp] theorem Strand.setV_reenter (st : Strand) (r : BitVec 7) (x : Vec) : (st.setV r x).reenter = st.reenter := Strand.setVAt_reenter ..
@[simp] theorem Strand.setVAt_blocked (st : Strand) (j : Option Nat) (x : Vec) : (st.setVAt j x).blocked = st.blocked := by cases j <;> rfl
@[simp] theorem Strand.setV_blocked (st : Strand) (r : BitVec 7) (x : Vec) : (st.setV r x).blocked = st.blocked := Strand.setVAt_blocked ..
@[simp] theorem Strand.setVAt_watch (st : Strand) (j : Option Nat) (x : Vec) : (st.setVAt j x).watch = st.watch := by cases j <;> rfl
@[simp] theorem Strand.setV_watch (st : Strand) (r : BitVec 7) (x : Vec) : (st.setV r x).watch = st.watch := Strand.setVAt_watch ..
@[simp] theorem Strand.setVAt_fbuf (st : Strand) (j : Option Nat) (x : Vec) : (st.setVAt j x).fbuf = st.fbuf := by cases j <;> rfl
@[simp] theorem Strand.setV_fbuf (st : Strand) (r : BitVec 7) (x : Vec) : (st.setV r x).fbuf = st.fbuf := Strand.setVAt_fbuf ..
@[simp] theorem Strand.setVAt_readyAt (st : Strand) (j : Option Nat) (x : Vec) : (st.setVAt j x).readyAt = st.readyAt := by cases j <;> rfl
@[simp] theorem Strand.setV_readyAt (st : Strand) (r : BitVec 7) (x : Vec) : (st.setV r x).readyAt = st.readyAt := Strand.setVAt_readyAt ..
@[simp] theorem Strand.setVAt_resumed (st : Strand) (j : Option Nat) (x : Vec) : (st.setVAt j x).resumed = st.resumed := by cases j <;> rfl
@[simp] theorem Strand.setV_resumed (st : Strand) (r : BitVec 7) (x : Vec) : (st.setV r x).resumed = st.resumed := Strand.setVAt_resumed ..
@[simp] theorem Strand.setVAt_stopped (st : Strand) (j : Option Nat) (x : Vec) : (st.setVAt j x).stopped = st.stopped := by cases j <;> rfl
@[simp] theorem Strand.setV_stopped (st : Strand) (r : BitVec 7) (x : Vec) : (st.setV r x).stopped = st.stopped := Strand.setVAt_stopped ..
@[simp] theorem Strand.setP_at_ (st : Strand) (r : BitVec 3) (x : BitVec 8) : (st.setP r x).at_ = st.at_ := rfl
@[simp] theorem Strand.setP_pc (st : Strand) (r : BitVec 3) (x : BitVec 8) : (st.setP r x).pc = st.pc := rfl
@[simp] theorem Strand.setP_native (st : Strand) (r : BitVec 3) (x : BitVec 8) : (st.setP r x).native = st.native := rfl
@[simp] theorem Strand.setP_step (st : Strand) (r : BitVec 3) (x : BitVec 8) : (st.setP r x).step = st.step := rfl
@[simp] theorem Strand.setP_kernel (st : Strand) (r : BitVec 3) (x : BitVec 8) : (st.setP r x).kernel = st.kernel := rfl
@[simp] theorem Strand.setP_wbs (st : Strand) (r : BitVec 3) (x : BitVec 8) : (st.setP r x).wbs = st.wbs := rfl
@[simp] theorem Strand.setP_wbv (st : Strand) (r : BitVec 3) (x : BitVec 8) : (st.setP r x).wbv = st.wbv := rfl
@[simp] theorem Strand.setP_nsb (st : Strand) (r : BitVec 3) (x : BitVec 8) : (st.setP r x).nsb = st.nsb := rfl
@[simp] theorem Strand.setP_nvb (st : Strand) (r : BitVec 3) (x : BitVec 8) : (st.setP r x).nvb = st.nvb := rfl
@[simp] theorem Strand.setP_sregs (st : Strand) (r : BitVec 3) (x : BitVec 8) : (st.setP r x).sregs = st.sregs := rfl
@[simp] theorem Strand.setP_vregs (st : Strand) (r : BitVec 3) (x : BitVec 8) : (st.setP r x).vregs = st.vregs := rfl
@[simp] theorem Strand.setP_link (st : Strand) (r : BitVec 3) (x : BitVec 8) : (st.setP r x).link = st.link := rfl
@[simp] theorem Strand.setP_rm (st : Strand) (r : BitVec 3) (x : BitVec 8) : (st.setP r x).rm = st.rm := rfl
@[simp] theorem Strand.setP_fpflags (st : Strand) (r : BitVec 3) (x : BitVec 8) : (st.setP r x).fpflags = st.fpflags := rfl
@[simp] theorem Strand.setP_cause (st : Strand) (r : BitVec 3) (x : BitVec 8) : (st.setP r x).cause = st.cause := rfl
@[simp] theorem Strand.setP_level (st : Strand) (r : BitVec 3) (x : BitVec 8) : (st.setP r x).level = st.level := rfl
@[simp] theorem Strand.setP_plev (st : Strand) (r : BitVec 3) (x : BitVec 8) : (st.setP r x).plev = st.plev := rfl
@[simp] theorem Strand.setP_epc (st : Strand) (r : BitVec 3) (x : BitVec 8) : (st.setP r x).epc = st.epc := rfl
@[simp] theorem Strand.setP_tval (st : Strand) (r : BitVec 3) (x : BitVec 8) : (st.setP r x).tval = st.tval := rfl
@[simp] theorem Strand.setP_bundle (st : Strand) (r : BitVec 3) (x : BitVec 8) : (st.setP r x).bundle = st.bundle := rfl
@[simp] theorem Strand.setP_task (st : Strand) (r : BitVec 3) (x : BitVec 8) : (st.setP r x).task = st.task := rfl
@[simp] theorem Strand.setP_taskId (st : Strand) (r : BitVec 3) (x : BitVec 8) : (st.setP r x).taskId = st.taskId := rfl
@[simp] theorem Strand.setP_sid (st : Strand) (r : BitVec 3) (x : BitVec 8) : (st.setP r x).sid = st.sid := rfl
@[simp] theorem Strand.setP_pdom (st : Strand) (r : BitVec 3) (x : BitVec 8) : (st.setP r x).pdom = st.pdom := rfl
@[simp] theorem Strand.setP_prio (st : Strand) (r : BitVec 3) (x : BitVec 8) : (st.setP r x).prio = st.prio := rfl
@[simp] theorem Strand.setP_partid (st : Strand) (r : BitVec 3) (x : BitVec 8) : (st.setP r x).partid = st.partid := rfl
@[simp] theorem Strand.setP_epoch (st : Strand) (r : BitVec 3) (x : BitVec 8) : (st.setP r x).epoch = st.epoch := rfl
@[simp] theorem Strand.setP_args (st : Strand) (r : BitVec 3) (x : BitVec 8) : (st.setP r x).args = st.args := rfl
@[simp] theorem Strand.setP_pend (st : Strand) (r : BitVec 3) (x : BitVec 8) : (st.setP r x).pend = st.pend := rfl
@[simp] theorem Strand.setP_period (st : Strand) (r : BitVec 3) (x : BitVec 8) : (st.setP r x).period = st.period := rfl
@[simp] theorem Strand.setP_due (st : Strand) (r : BitVec 3) (x : BitVec 8) : (st.setP r x).due = st.due := rfl
@[simp] theorem Strand.setP_dueTval (st : Strand) (r : BitVec 3) (x : BitVec 8) : (st.setP r x).dueTval = st.dueTval := rfl
@[simp] theorem Strand.setP_reenter (st : Strand) (r : BitVec 3) (x : BitVec 8) : (st.setP r x).reenter = st.reenter := rfl
@[simp] theorem Strand.setP_blocked (st : Strand) (r : BitVec 3) (x : BitVec 8) : (st.setP r x).blocked = st.blocked := rfl
@[simp] theorem Strand.setP_watch (st : Strand) (r : BitVec 3) (x : BitVec 8) : (st.setP r x).watch = st.watch := rfl
@[simp] theorem Strand.setP_fbuf (st : Strand) (r : BitVec 3) (x : BitVec 8) : (st.setP r x).fbuf = st.fbuf := rfl
@[simp] theorem Strand.setP_readyAt (st : Strand) (r : BitVec 3) (x : BitVec 8) : (st.setP r x).readyAt = st.readyAt := rfl
@[simp] theorem Strand.setP_resumed (st : Strand) (r : BitVec 3) (x : BitVec 8) : (st.setP r x).resumed = st.resumed := rfl
@[simp] theorem Strand.setP_stopped (st : Strand) (r : BitVec 3) (x : BitVec 8) : (st.setP r x).stopped = st.stopped := rfl
@[simp] theorem Strand.raiseFlags_at_ (st : Strand) (f : BitVec 5) : (st.raiseFlags f).at_ = st.at_ := rfl
@[simp] theorem Strand.raiseFlags_pc (st : Strand) (f : BitVec 5) : (st.raiseFlags f).pc = st.pc := rfl
@[simp] theorem Strand.raiseFlags_native (st : Strand) (f : BitVec 5) : (st.raiseFlags f).native = st.native := rfl
@[simp] theorem Strand.raiseFlags_step (st : Strand) (f : BitVec 5) : (st.raiseFlags f).step = st.step := rfl
@[simp] theorem Strand.raiseFlags_kernel (st : Strand) (f : BitVec 5) : (st.raiseFlags f).kernel = st.kernel := rfl
@[simp] theorem Strand.raiseFlags_wbs (st : Strand) (f : BitVec 5) : (st.raiseFlags f).wbs = st.wbs := rfl
@[simp] theorem Strand.raiseFlags_wbv (st : Strand) (f : BitVec 5) : (st.raiseFlags f).wbv = st.wbv := rfl
@[simp] theorem Strand.raiseFlags_nsb (st : Strand) (f : BitVec 5) : (st.raiseFlags f).nsb = st.nsb := rfl
@[simp] theorem Strand.raiseFlags_nvb (st : Strand) (f : BitVec 5) : (st.raiseFlags f).nvb = st.nvb := rfl
@[simp] theorem Strand.raiseFlags_sregs (st : Strand) (f : BitVec 5) : (st.raiseFlags f).sregs = st.sregs := rfl
@[simp] theorem Strand.raiseFlags_vregs (st : Strand) (f : BitVec 5) : (st.raiseFlags f).vregs = st.vregs := rfl
@[simp] theorem Strand.raiseFlags_preds (st : Strand) (f : BitVec 5) : (st.raiseFlags f).preds = st.preds := rfl
@[simp] theorem Strand.raiseFlags_link (st : Strand) (f : BitVec 5) : (st.raiseFlags f).link = st.link := rfl
@[simp] theorem Strand.raiseFlags_rm (st : Strand) (f : BitVec 5) : (st.raiseFlags f).rm = st.rm := rfl
@[simp] theorem Strand.raiseFlags_cause (st : Strand) (f : BitVec 5) : (st.raiseFlags f).cause = st.cause := rfl
@[simp] theorem Strand.raiseFlags_level (st : Strand) (f : BitVec 5) : (st.raiseFlags f).level = st.level := rfl
@[simp] theorem Strand.raiseFlags_plev (st : Strand) (f : BitVec 5) : (st.raiseFlags f).plev = st.plev := rfl
@[simp] theorem Strand.raiseFlags_epc (st : Strand) (f : BitVec 5) : (st.raiseFlags f).epc = st.epc := rfl
@[simp] theorem Strand.raiseFlags_tval (st : Strand) (f : BitVec 5) : (st.raiseFlags f).tval = st.tval := rfl
@[simp] theorem Strand.raiseFlags_bundle (st : Strand) (f : BitVec 5) : (st.raiseFlags f).bundle = st.bundle := rfl
@[simp] theorem Strand.raiseFlags_task (st : Strand) (f : BitVec 5) : (st.raiseFlags f).task = st.task := rfl
@[simp] theorem Strand.raiseFlags_taskId (st : Strand) (f : BitVec 5) : (st.raiseFlags f).taskId = st.taskId := rfl
@[simp] theorem Strand.raiseFlags_sid (st : Strand) (f : BitVec 5) : (st.raiseFlags f).sid = st.sid := rfl
@[simp] theorem Strand.raiseFlags_pdom (st : Strand) (f : BitVec 5) : (st.raiseFlags f).pdom = st.pdom := rfl
@[simp] theorem Strand.raiseFlags_prio (st : Strand) (f : BitVec 5) : (st.raiseFlags f).prio = st.prio := rfl
@[simp] theorem Strand.raiseFlags_partid (st : Strand) (f : BitVec 5) : (st.raiseFlags f).partid = st.partid := rfl
@[simp] theorem Strand.raiseFlags_epoch (st : Strand) (f : BitVec 5) : (st.raiseFlags f).epoch = st.epoch := rfl
@[simp] theorem Strand.raiseFlags_args (st : Strand) (f : BitVec 5) : (st.raiseFlags f).args = st.args := rfl
@[simp] theorem Strand.raiseFlags_pend (st : Strand) (f : BitVec 5) : (st.raiseFlags f).pend = st.pend := rfl
@[simp] theorem Strand.raiseFlags_period (st : Strand) (f : BitVec 5) : (st.raiseFlags f).period = st.period := rfl
@[simp] theorem Strand.raiseFlags_due (st : Strand) (f : BitVec 5) : (st.raiseFlags f).due = st.due := rfl
@[simp] theorem Strand.raiseFlags_dueTval (st : Strand) (f : BitVec 5) : (st.raiseFlags f).dueTval = st.dueTval := rfl
@[simp] theorem Strand.raiseFlags_reenter (st : Strand) (f : BitVec 5) : (st.raiseFlags f).reenter = st.reenter := rfl
@[simp] theorem Strand.raiseFlags_blocked (st : Strand) (f : BitVec 5) : (st.raiseFlags f).blocked = st.blocked := rfl
@[simp] theorem Strand.raiseFlags_watch (st : Strand) (f : BitVec 5) : (st.raiseFlags f).watch = st.watch := rfl
@[simp] theorem Strand.raiseFlags_fbuf (st : Strand) (f : BitVec 5) : (st.raiseFlags f).fbuf = st.fbuf := rfl
@[simp] theorem Strand.raiseFlags_readyAt (st : Strand) (f : BitVec 5) : (st.raiseFlags f).readyAt = st.readyAt := rfl
@[simp] theorem Strand.raiseFlags_resumed (st : Strand) (f : BitVec 5) : (st.raiseFlags f).resumed = st.resumed := rfl
@[simp] theorem Strand.raiseFlags_stopped (st : Strand) (f : BitVec 5) : (st.raiseFlags f).stopped = st.stopped := rfl

@[simp] theorem Strand.raiseFlags_fpflags (st : Strand) (f : BitVec 5) : (st.raiseFlags f).fpflags = st.fpflags ||| f := rfl
@[simp] theorem Strand.setP_p (st : Strand) (r : BitVec 3) (x : BitVec 8) : (st.setP r x).p r = x := by
  simp [Strand.setP, Strand.p]
theorem Strand.setP_p_other (st : Strand) {r q : BitVec 3} (x : BitVec 8) (h : q ≠ r) : (st.setP r x).p q = st.p q := by
  have h' : r.toNat ≠ q.toNat := fun e => h (BitVec.eq_of_toNat_eq e.symm)
  simp [Strand.setP, Strand.p, h']

end Sys2Proof.Machine
end

