-- ==== Sys2Proof/Laws/Ops.lean ====
section
/-! SUPPORT. What the shared operations on a strand do: register writes and the end of an instruction, and the forms in which the families'
meanings answer. -/namespace Sys2Proof.Machine

/-! ### Dropping writes in flight (R79) -/

theorem Pend.drop_comm (v w : Bool) (i j : Nat) (p : Pend) : (p.drop v i).drop w j = (p.drop w j).drop v i := by
  simp [Pend.drop, List.filter_filter, Bool.and_comm]

theorem Pend.drop_idem (v : Bool) (j : Nat) (p : Pend) : (p.drop v j).drop v j = p.drop v j := by
  simp [Pend.drop]

/-- Dropping every register of a list of writes, and one register more, in either order. -/
theorem Pend.dropAll_drop (ws : List RegWrite) (v : Bool) (j : Nat) (p : Pend) :
    Pend.dropAll ws (p.drop v j) = (Pend.dropAll ws p).drop v j := by
  induction ws generalizing p with
  | nil => rfl
  | cons w ws ih => cases w <;> simp only [Pend.dropAll, List.foldl_cons] at ih ⊢ <;> rw [Pend.drop_comm] <;> exact ih _

/-- A write of a register that is dropped afterwards need not be dropped with the list it stands in. -/
theorem Pend.dropAll_filter (ws : List RegWrite) (v : Bool) (j : Nat) (p : Pend) :
    Pend.dropAll (ws.filter fun w => !w.hits v j) (p.drop v j) = Pend.dropAll ws (p.drop v j) := by
  induction ws generalizing p with
  | nil => rfl
  | cons w ws ih =>
    cases w with
    | s i x =>
      by_cases h : v = false ∧ i = j
      · obtain ⟨rfl, rfl⟩ := h
        rw [List.filter_cons_of_neg (by simp [RegWrite.hits]), ih]
        simp only [Pend.dropAll, List.foldl_cons, Pend.drop_idem]
      · rw [List.filter_cons_of_pos (by cases v <;> simp_all [RegWrite.hits])]
        simp only [Pend.dropAll, List.foldl_cons] at ih ⊢
        rw [Pend.drop_comm]; exact ih _
    | v i x =>
      by_cases h : v = true ∧ i = j
      · obtain ⟨rfl, rfl⟩ := h
        rw [List.filter_cons_of_neg (by simp [RegWrite.hits]), ih]
        simp only [Pend.dropAll, List.foldl_cons, Pend.drop_idem]
      · rw [List.filter_cons_of_pos (by cases v <;> simp_all [RegWrite.hits])]
        simp only [Pend.dropAll, List.foldl_cons] at ih ⊢
        rw [Pend.drop_comm]; exact ih _

/-! ### Landing -/

theorem foldl_landOne_setS (j : Nat) (x : Word) (ws : List RegWrite) (st : Strand) :
    (ws.filter fun w => !w.hits false j).foldl Strand.landOne { st with sregs := st.sregs.set j x } =
      { ws.foldl Strand.landOne st with sregs := (ws.foldl Strand.landOne st).sregs.set j x } := by
  induction ws generalizing st with
  | nil => rfl
  | cons w ws ih =>
    cases w with
    | s i y =>
      by_cases h : i = j
      · subst h
        rw [List.filter_cons_of_neg (by simp [RegWrite.hits])]
        have := ih { st with sregs := st.sregs.set i y }
        simpa [Strand.landOne, List.set_set] using this
      · rw [List.filter_cons_of_pos (by simp [RegWrite.hits, h])]
        have := ih { st with sregs := st.sregs.set i y }
        simpa [Strand.landOne, List.set_comm _ _ (Ne.symm h)] using this
    | v i y =>
      rw [List.filter_cons_of_pos (by simp [RegWrite.hits])]
      exact ih { st with vregs := st.vregs.set i y }

theorem foldl_landOne_setV (j : Nat) (x : Vec) (ws : List RegWrite) (st : Strand) :
    (ws.filter fun w => !w.hits true j).foldl Strand.landOne { st with vregs := st.vregs.set j x } =
      { ws.foldl Strand.landOne st with vregs := (ws.foldl Strand.landOne st).vregs.set j x } := by
  induction ws generalizing st with
  | nil => rfl
  | cons w ws ih =>
    cases w with
    | v i y =>
      by_cases h : i = j
      · subst h
        rw [List.filter_cons_of_neg (by simp [RegWrite.hits])]
        have := ih { st with vregs := st.vregs.set i y }
        simpa [Strand.landOne, List.set_set] using this
      · rw [List.filter_cons_of_pos (by simp [RegWrite.hits, h])]
        have := ih { st with vregs := st.vregs.set i y }
        simpa [Strand.landOne, List.set_comm _ _ (Ne.symm h)] using this
    | s i y =>
      rw [List.filter_cons_of_pos (by simp [RegWrite.hits])]
      exact ih { st with sregs := st.sregs.set i y }

theorem Strand.land_setS (j : Nat) (x : Word) (st : Strand) (p : Pend) :
    ({ st with sregs := st.sregs.set j x } : Strand).land (p.drop false j) =
      { st.land p with sregs := (st.land p).sregs.set j x } := by
  unfold Strand.land Pend.drop
  split
  · rfl
  · rw [foldl_landOne_setS]; split <;> rfl

theorem Strand.land_setV (j : Nat) (x : Vec) (st : Strand) (p : Pend) :
    ({ st with vregs := st.vregs.set j x } : Strand).land (p.drop true j) =
      { st.land p with vregs := (st.land p).vregs.set j x } := by
  unfold Strand.land Pend.drop
  split
  · rfl
  · rw [foldl_landOne_setV]; split <;> rfl

theorem landExpired_setS (j : Nat) (x : Word) (ps kept : List Pend) (st : Strand) :
    landExpired { st with sregs := st.sregs.set j x } (kept.map (Pend.drop false j)) (ps.map (Pend.drop false j)) =
      (landExpired st kept ps).setSAt (some j) x := by
  induction ps generalizing st kept with
  | nil => rfl
  | cons p ps ih =>
    simp only [List.map_cons, landExpired]
    by_cases h : p.left = 0
    · rw [if_pos (show (p.drop false j).left = 0 from h), if_pos h, Strand.land_setS]
      rw [show (if (p.drop false j).causes ≠ 0 then kept.map (Pend.drop false j)
          else (kept.map (Pend.drop false j)).map (Pend.dropAll (p.drop false j).writes)) =
          (if p.causes ≠ 0 then kept else kept.map (Pend.dropAll p.writes)).map (Pend.drop false j) from ?_]
      · exact ih _ _
      · show (if p.causes ≠ 0 then _ else _) = _
        split
        · rfl
        · simp only [List.map_map]; congr 1; funext q
          exact (Pend.dropAll_filter p.writes false j q).trans (Pend.dropAll_drop p.writes false j q)
    · rw [if_neg (show ¬ (p.drop false j).left = 0 from h), if_neg h, ← ih]
      simp

theorem landExpired_setV (j : Nat) (x : Vec) (ps kept : List Pend) (st : Strand) :
    landExpired { st with vregs := st.vregs.set j x } (kept.map (Pend.drop true j)) (ps.map (Pend.drop true j)) =
      (landExpired st kept ps).setVAt (some j) x := by
  induction ps generalizing st kept with
  | nil => rfl
  | cons p ps ih =>
    simp only [List.map_cons, landExpired]
    by_cases h : p.left = 0
    · rw [if_pos (show (p.drop true j).left = 0 from h), if_pos h, Strand.land_setV]
      rw [show (if (p.drop true j).causes ≠ 0 then kept.map (Pend.drop true j)
          else (kept.map (Pend.drop true j)).map (Pend.dropAll (p.drop true j).writes)) =
          (if p.causes ≠ 0 then kept else kept.map (Pend.dropAll p.writes)).map (Pend.drop true j) from ?_]
      · exact ih _ _
      · show (if p.causes ≠ 0 then _ else _) = _
        split
        · rfl
        · simp only [List.map_map]; congr 1; funext q
          exact (Pend.dropAll_filter p.writes true j q).trans (Pend.dropAll_drop p.writes true j q)
    · rw [if_neg (show ¬ (p.drop true j).left = 0 from h), if_neg h, ← ih]
      simp

/-! ### What landing leaves alone -/

theorem foldl_landOne_pend (q : List Pend) (ws : List RegWrite) (st : Strand) :
    ws.foldl Strand.landOne { st with pend := q } = { ws.foldl Strand.landOne st with pend := q } := by
  induction ws generalizing st with
  | nil => rfl
  | cons w ws ih =>
    cases w with
    | s i y => exact ih { st with sregs := st.sregs.set i y }
    | v i y => exact ih { st with vregs := st.vregs.set i y }

theorem Strand.land_pend (q : List Pend) (st : Strand) (p : Pend) :
    ({ st with pend := q } : Strand).land p = { st.land p with pend := q } := by
  unfold Strand.land
  split
  · rfl
  · rw [foldl_landOne_pend]; split <;> rfl

theorem landExpired_pend (q kept ps : List Pend) (st : Strand) :
    landExpired { st with pend := q } kept ps = landExpired st kept ps := by
  induction ps generalizing st kept with
  | nil => rfl
  | cons p ps ih =>
    simp only [landExpired]
    split
    · rw [Strand.land_pend]; exact ih _ _
    · exact ih _ _

theorem foldl_landOne_preds (q : Vector (BitVec 8) 8) (ws : List RegWrite) (st : Strand) :
    ws.foldl Strand.landOne { st with preds := q } = { ws.foldl Strand.landOne st with preds := q } := by
  induction ws generalizing st with
  | nil => rfl
  | cons w ws ih =>
    cases w with
    | s i y => exact ih { st with sregs := st.sregs.set i y }
    | v i y => exact ih { st with vregs := st.vregs.set i y }

theorem Strand.land_preds (q : Vector (BitVec 8) 8) (st : Strand) (p : Pend) :
    ({ st with preds := q } : Strand).land p = { st.land p with preds := q } := by
  unfold Strand.land
  split
  · rfl
  · rw [foldl_landOne_preds]; split <;> rfl

theorem landExpired_preds (q : Vector (BitVec 8) 8) (kept ps : List Pend) (st : Strand) :
    landExpired { st with preds := q } kept ps = { landExpired st kept ps with preds := q } := by
  induction ps generalizing st kept with
  | nil => rfl
  | cons p ps ih =>
    simp only [landExpired]
    split
    · rw [Strand.land_preds]; exact ih _ _
    · exact ih _ _

theorem foldl_landOne_flags (f : BitVec 5) (ws : List RegWrite) (st : Strand) :
    ws.foldl Strand.landOne (st.raiseFlags f) = (ws.foldl Strand.landOne st).raiseFlags f := by
  induction ws generalizing st with
  | nil => rfl
  | cons w ws ih =>
    cases w with
    | s i y => exact ih { st with sregs := st.sregs.set i y }
    | v i y => exact ih { st with vregs := st.vregs.set i y }

theorem Strand.land_flags (f : BitVec 5) (st : Strand) (p : Pend) : (st.raiseFlags f).land p = (st.land p).raiseFlags f := by
  unfold Strand.land
  split
  · rfl
  · rw [foldl_landOne_flags]
    split
    · rfl
    · simp only [Strand.raiseFlags]; congr 1; rw [BitVec.or_assoc, BitVec.or_comm f, ← BitVec.or_assoc]

theorem landExpired_flags (f : BitVec 5) (kept ps : List Pend) (st : Strand) :
    landExpired (st.raiseFlags f) kept ps = (landExpired st kept ps).raiseFlags f := by
  induction ps generalizing st kept with
  | nil => rfl
  | cons p ps ih =>
    simp only [landExpired]
    split
    · rw [Strand.land_flags]; exact ih _ _
    · exact ih _ _

/-! ### A write and the end of its instruction -/

/-- A register written just before an instruction ends stands as if written just after (R79). -/
theorem Strand.tick_setSAt (st : Strand) (j : Option Nat) (x : Word) : (st.setSAt j x).tick = st.tick.setSAt j x := by
  cases j with
  | none => rfl
  | some j =>
    have := landExpired_setS j x (st.pend.map fun p => { p with left := p.left - 1 }) [] { st with period := st.period - 1 }
    rw [← landExpired_pend (st.pend.map (Pend.drop false j))] at this
    simp only [List.map_nil, List.map_map] at this
    simp only [Strand.tick, Strand.setSAt, List.map_map]
    exact this

theorem Strand.tick_setVAt (st : Strand) (j : Option Nat) (x : Vec) : (st.setVAt j x).tick = st.tick.setVAt j x := by
  cases j with
  | none => rfl
  | some j =>
    have := landExpired_setV j x (st.pend.map fun p => { p with left := p.left - 1 }) [] { st with period := st.period - 1 }
    rw [← landExpired_pend (st.pend.map (Pend.drop true j))] at this
    simp only [List.map_nil, List.map_map] at this
    simp only [Strand.tick, Strand.setVAt, List.map_map]
    exact this

theorem Strand.tick_setS (st : Strand) (r : BitVec 7) (x : Word) : (st.setS r x).tick = st.tick.setSAt (st.sName r) x :=
  st.tick_setSAt _ x

theorem Strand.tick_setV (st : Strand) (r : BitVec 7) (x : Vec) : (st.setV r x).tick = st.tick.setVAt (st.vName r) x :=
  st.tick_setVAt _ x

theorem Strand.tick_preds (st : Strand) (q : Vector (BitVec 8) 8) :
    ({ st with preds := q } : Strand).tick = { st.tick with preds := q } :=
  landExpired_preds q [] (st.pend.map fun (p : Pend) => { p with left := p.left - 1 })
    ({ st with period := st.period - 1 } : Strand)

theorem Strand.tick_raiseFlags (st : Strand) (f : BitVec 5) : (st.raiseFlags f).tick = st.tick.raiseFlags f :=
  landExpired_flags f [] (st.pend.map fun (p : Pend) => { p with left := p.left - 1 })
    ({ st with period := st.period - 1 } : Strand)

/-- What the end of an instruction leaves alone: everything but registers, FPFLAGS, the open windows, and causes that fell due. -/
theorem foldl_landOne_rest (ws : List RegWrite) (st : Strand) :
    ws.foldl Strand.landOne st =
      { st with sregs := (ws.foldl Strand.landOne st).sregs, vregs := (ws.foldl Strand.landOne st).vregs } := by
  induction ws generalizing st with
  | nil => rfl
  | cons w ws ih =>
    cases w with
    | s i y => exact ih { st with sregs := st.sregs.set i y }
    | v i y => exact ih { st with vregs := st.vregs.set i y }

theorem Strand.land_rest (st : Strand) (p : Pend) :
    st.land p = { st with sregs := (st.land p).sregs, vregs := (st.land p).vregs, fpflags := (st.land p).fpflags,
                          due := (st.land p).due, dueTval := (st.land p).dueTval } := by
  unfold Strand.land
  split
  · rfl
  · rw [foldl_landOne_rest]; split <;> rfl

theorem landExpired_rest (kept ps : List Pend) (st : Strand) :
    landExpired st kept ps =
      { st with sregs := (landExpired st kept ps).sregs, vregs := (landExpired st kept ps).vregs,
                fpflags := (landExpired st kept ps).fpflags, due := (landExpired st kept ps).due,
                dueTval := (landExpired st kept ps).dueTval, pend := (landExpired st kept ps).pend } := by
  induction ps generalizing st kept with
  | nil => rfl
  | cons p ps ih =>
    simp only [landExpired]
    split
    · rw [ih, Strand.land_rest]
    · exact ih _ _

theorem Strand.tick_rest (st : Strand) :
    st.tick = { st with sregs := st.tick.sregs, vregs := st.tick.vregs, fpflags := st.tick.fpflags, due := st.tick.due,
                        dueTval := st.tick.dueTval, pend := st.tick.pend, period := st.period - 1 } :=
  landExpired_rest _ _ _

/-- With no window open the end of an instruction changes nothing but the open period's count. -/
theorem Strand.tick_closed (st : Strand) (h : st.pend = []) : st.tick = { st with period := st.period - 1 } := by
  cases st; simp only at h; subst h; rfl

/-- Two strands agree in what windows change. -/
def Strand.SameRegs (x y : Strand) : Prop :=
  x.sregs = y.sregs ∧ x.vregs = y.vregs ∧ x.fpflags = y.fpflags ∧ x.due = y.due ∧ x.dueTval = y.dueTval

theorem Strand.land_same {x y : Strand} (h : x.SameRegs y) (p : Pend) : (x.land p).SameRegs (y.land p) := by
  have hf : ∀ (ws : List RegWrite) (x y : Strand), x.SameRegs y → (ws.foldl Strand.landOne x).SameRegs (ws.foldl Strand.landOne y) := by
    intro ws
    induction ws with
    | nil => intro x y h; exact h
    | cons w ws ih =>
      intro x y ⟨h1, h2, h3, h4, h5⟩
      cases w with
      | s j v => exact ih _ _ ⟨by show x.sregs.set j v = y.sregs.set j v; rw [h1], h2, h3, h4, h5⟩
      | v j v => exact ih _ _ ⟨h1, by show x.vregs.set j v = y.vregs.set j v; rw [h2], h3, h4, h5⟩
  unfold Strand.land
  split
  · obtain ⟨h1, h2, h3, h4, h5⟩ := h
    exact ⟨h1, h2, h3, by show x.due ||| _ = y.due ||| _; rw [h4], by show (if x.due = 0 then _ else x.dueTval) = if y.due = 0 then _ else y.dueTval; rw [h4, h5]⟩
  · have := hf p.writes x y h
    dsimp only
    split
    · exact this
    · obtain ⟨h1, h2, h3, h4, h5⟩ := this
      exact ⟨h1, h2, by show Strand.fpflags _ ||| _ = Strand.fpflags _ ||| _; rw [h3], h4, h5⟩

theorem landExpired_same {x y : Strand} (h : x.SameRegs y) (kept ps : List Pend) :
    (landExpired x kept ps).SameRegs (landExpired y kept ps) ∧ (landExpired x kept ps).pend = (landExpired y kept ps).pend := by
  induction ps generalizing x y kept with
  | nil => exact ⟨h, rfl⟩
  | cons p ps ih =>
    simp only [landExpired]
    split
    · exact ih (Strand.land_same h p) _
    · exact ih h _

/-- The end of an instruction depends on what windows change and on the windows only. -/
theorem Strand.tick_same {x y : Strand} (h : x.SameRegs y) (hp : x.pend = y.pend) (hn : x.period = y.period) :
    x.tick = { x with sregs := y.tick.sregs, vregs := y.tick.vregs, fpflags := y.tick.fpflags, due := y.tick.due,
                      dueTval := y.tick.dueTval, pend := y.tick.pend, period := y.tick.period } := by
  have e := x.tick_rest
  have h' : ({ x with period := x.period - 1 } : Strand).SameRegs { y with period := y.period - 1 } := h
  obtain ⟨⟨h1, h2, h3, h4, h5⟩, h6⟩ := landExpired_same h' [] (x.pend.map fun p => { p with left := p.left - 1 })
  have e2 : landExpired ({ x with period := x.period - 1 } : Strand) [] (x.pend.map fun p => { p with left := p.left - 1 }) = x.tick := rfl
  have e3 : landExpired ({ y with period := y.period - 1 } : Strand) [] (x.pend.map fun p => { p with left := p.left - 1 }) = y.tick := by
    rw [hp]; rfl
  rw [e2, e3] at h1 h2 h3 h4 h5 h6
  have h7 : y.tick.period = y.period - 1 := by rw [y.tick_rest]
  rw [e, h1, h2, h3, h4, h5, h6, h7, hn]

/-- Closing the windows changes only what windows change. -/
theorem Strand.closeWindows_rest (st : Strand) :
    st.closeWindows = { st with sregs := st.closeWindows.sregs, vregs := st.closeWindows.vregs, fpflags := st.closeWindows.fpflags,
                                due := st.closeWindows.due, dueTval := st.closeWindows.dueTval, pend := st.closeWindows.pend } :=
  landExpired_rest _ _ _

end Sys2Proof.Machine
end

