-- ==== Sys2Proof/Laws/Forms.lean ====
section
/-! SUPPORT. The forms in which meanings answer: what an instruction that only changes its strand leaves, once for each form. -/
namespace Sys2Proof.Machine

theorem len1_words {α : Type} (x : Option α) : len1 x = words [x.isSome] := by cases x <;> rfl
theorem lenOf_words {α β : Type} (m : Option α) (x : Option β) : lenOf m x = words [m.isSome, x.isSome] := by
  cases m <;> cases x <;> rfl

/-- What an instruction that only changes its strand answers. -/
theorem effect_of_onStrand {i : Instr} {f : State → Strand → Strand} {Q : State → Strand → Strand → Prop}
    (h : ∀ s, exec i s = s.onStrand fun st => s.putStrand (f s st)) (q : ∀ s st, Q s st (f s st)) : Effect i Q := by
  intro s st hs
  exact ⟨f s st, by rw [h, State.onStrand, hs], q s st⟩

theorem Strand.wroteS_retire (st : Strand) (cycle n : Nat) (d : BitVec 7) (x : Word) :
    st.WroteS ((st.setS d x).retire cycle n) cycle (st.past n) d x := by
  have e : (st.setS d x).retire cycle n = ({ st.tick.setSAt (st.sName d) x with pc := st.past n, blocked := none, readyAt := cycle + 1 } : Strand) := by
    have a : (st.setS d x).after n = st.past n := by cases h : st.sName d <;> simp [Strand.setS, Strand.setSAt, Strand.after, Strand.past, h]
    rw [Strand.retire, Strand.goTo, Strand.tick_setS, a]
  rw [e]
  refine ⟨⟨rfl, rfl, rfl⟩, fun j h => ?_, fun h => ?_, ?_⟩
  · rw [h]; exact ⟨rfl, rfl⟩
  · rw [h]; exact ⟨rfl, rfl⟩
  · cases h : st.sName d <;> simp [Strand.setSAt]

theorem Strand.wroteV_retire (st : Strand) (cycle n : Nat) (d : BitVec 7) (x : Vec) (f : BitVec 5) :
    st.WroteV (((st.setV d x).raiseFlags f).retire cycle n) cycle (st.past n) d x f := by
  have e : ((st.setV d x).raiseFlags f).retire cycle n =
      ({ (st.tick.setVAt (st.vName d) x).raiseFlags f with pc := st.past n, blocked := none, readyAt := cycle + 1 } : Strand) := by
    have a : ((st.setV d x).raiseFlags f).after n = st.past n := by
      cases h : st.vName d <;> simp [Strand.setV, Strand.setVAt, Strand.after, Strand.past, Strand.raiseFlags, h]
    rw [Strand.retire, Strand.goTo, Strand.tick_raiseFlags, Strand.tick_setV, a]
  rw [e]
  refine ⟨⟨rfl, rfl, rfl⟩, fun j h => ?_, fun h => ?_, ?_, ?_⟩
  · rw [h]; exact ⟨rfl, rfl⟩
  · rw [h]; exact ⟨rfl, rfl⟩
  · cases h : st.vName d <;> simp [Strand.setVAt, Strand.raiseFlags]
  · cases h : st.vName d <;> simp [Strand.setVAt, Strand.raiseFlags]

theorem Strand.raiseFlags_zero (st : Strand) : st.raiseFlags 0 = st := by simp [Strand.raiseFlags]

theorem Strand.wroteV_retire0 (st : Strand) (cycle n : Nat) (d : BitVec 7) (x : Vec) :
    st.WroteV ((st.setV d x).retire cycle n) cycle (st.past n) d x 0 := by
  have := st.wroteV_retire cycle n d x 0
  rwa [Strand.raiseFlags_zero] at this

theorem Strand.wroteP_retire (st : Strand) (cycle n : Nat) (d : BitVec 3) (x : BitVec 8) (f : BitVec 5) :
    st.WroteP (((st.setP d x).raiseFlags f).retire cycle n) cycle (st.past n) d x f := by
  have e : ((st.setP d x).raiseFlags f).retire cycle n =
      ({ ({ st.tick with preds := st.preds.set d.toNat x } : Strand).raiseFlags f with
          pc := st.past n, blocked := none, readyAt := cycle + 1 } : Strand) := by
    rw [Strand.retire, Strand.goTo, Strand.tick_raiseFlags, Strand.setP, Strand.tick_preds]; rfl
  rw [e]
  exact ⟨⟨rfl, rfl, rfl⟩, rfl, rfl, rfl⟩

theorem Strand.onlyMoved_goTo (st : Strand) (cycle : Nat) (pc : Addr) : st.OnlyMoved (st.goTo cycle pc) cycle pc :=
  ⟨⟨rfl, rfl, rfl⟩, rfl⟩

theorem Strand.runs_mask (st : Strand) (mk : Option Msk) (i : Nat) (h : i < 8) : (st.mask mk).getLsbD i = st.runs mk i := by
  cases mk with
  | none => simp only [Strand.mask, Strand.runs]; have : i = 0 ∨ i = 1 ∨ i = 2 ∨ i = 3 ∨ i = 4 ∨ i = 5 ∨ i = 6 ∨ i = 7 := by omega
            rcases this with h | h | h | h | h | h | h | h <;> subst h <;> rfl
  | some m =>
    obtain ⟨se, p⟩ := m
    simp only [Strand.mask, Strand.runs]
    have hs : se = 0 ∨ se = 1 := by
      have := se.isLt; rcases (show se.toNat = 0 ∨ se.toNat = 1 by omega) with h | h
      · left; exact BitVec.eq_of_toNat_eq h
      · right; exact BitVec.eq_of_toNat_eq h
    rcases hs with rfl | rfl
    · simp
    · simp [h]

/-- A masked write of a vector is a write of the merged vector. -/
theorem Strand.setVMasked_eq (st : Strand) (mk : Option Msk) (d : BitVec 7) (x : Vec) :
    ∃ y, st.setVMasked mk d x = st.setV d y ∧
      ∀ w k, w * k = 32 → ∀ j, j / k < 8 → elem w y j = if st.runs mk (w * j / 32) then elem w x j else elem w (st.v d) j := by
  cases mk with
  | none => exact ⟨x, rfl, fun w k _ j _ => by simp [Strand.runs]⟩
  | some m =>
    refine ⟨_, rfl, fun w k hk j hj => ?_⟩
    rw [elem_mergeLanes w k hk _ _ _ _ hj, st.runs_mask _ _ hj]
    have : w * j / 32 = j / k := by
      have hw : 0 < w := by rcases Nat.eq_zero_or_pos w with h | h <;> simp_all
      rw [← hk, Nat.mul_div_mul_left _ _ hw]
    rw [this]

theorem Strand.setPMasked_eq (st : Strand) (mk : Option Msk) (d : BitVec 3) (x : BitVec 8) :
    ∃ y, st.setPMasked mk d x = st.setP d y ∧
      ∀ k < 8, y.getLsbD k = if st.runs mk k then x.getLsbD k else (st.p d).getLsbD k := by
  cases mk with
  | none => exact ⟨x, rfl, fun k _ => by simp [Strand.runs]⟩
  | some m => exact ⟨_, rfl, fun k hk => by rw [getLsbD_mergePred _ _ _ _ hk, st.runs_mask _ _ hk]⟩

theorem writesS_of {i : Instr} {n : Nat} {d : BitVec 7} {f : Strand → Word}
    (h : ∀ s, exec i s = s.simple n fun st => st.setS d (f st)) : WritesS i n d f :=
  effect_of_onStrand (f := fun s st => (st.setS d (f st)).retire s.cycle n) h fun s st => st.wroteS_retire s.cycle n d (f st)

theorem writesV_of {i : Instr} {n : Nat} {d : BitVec 7} {f : Strand → Vec}
    (h : ∀ s, exec i s = s.simple n fun st => st.setV d (f st)) : WritesV i n d f :=
  effect_of_onStrand (f := fun s st => (st.setV d (f st)).retire s.cycle n) h fun s st => st.wroteV_retire0 s.cycle n d (f st)

theorem writesP_of {i : Instr} {n : Nat} {d : BitVec 3} {f : Strand → BitVec 8}
    (h : ∀ s, exec i s = s.simple n fun st => st.setP d (f st)) : WritesP i n d f :=
  effect_of_onStrand (f := fun s st => (st.setP d (f st)).retire s.cycle n) h fun s st => by
    have := st.wroteP_retire s.cycle n d (f st) 0
    rwa [Strand.raiseFlags_zero] at this

theorem writesElems_of {i : Instr} {mk : Option Msk} {n : Nat} {d : BitVec 7} {w k : Nat} (hk : w * k = 32)
    {g : Strand → Vec} {f : Strand → Nat → BitVec w} {fl : Strand → BitVec 5}
    (h : ∀ s, exec i s = s.simple n fun st => (st.setVMasked mk d (g st)).raiseFlags (fl st))
    (hg : ∀ st, ∀ j < 256 / w, elem w (g st) j = f st j) : WritesElems i mk n d w f fl := by
  have hk0 : 0 < k := by rcases Nat.eq_zero_or_pos k with h | h <;> simp_all
  have hw : 256 / w = k * 8 := by
    have hw : 0 < w := by rcases Nat.eq_zero_or_pos w with h | h <;> simp_all
    have : 256 = k * 8 * w := by grind
    rw [this]; exact Nat.mul_div_cancel _ hw
  refine effect_of_onStrand (f := fun s st => (((st.setVMasked mk d (g st)).raiseFlags (fl st)).retire s.cycle n)) h fun s st => ?_
  obtain ⟨y, hy, he⟩ := st.setVMasked_eq mk d (g st)
  refine ⟨y, ?_, fun j hj => ?_⟩
  · rw [hy]; exact st.wroteV_retire _ _ _ _ _
  · rw [he w k hk j (Nat.div_lt_of_lt_mul (hw ▸ hj)), hg st j hj]

theorem writesElems_of0 {i : Instr} {mk : Option Msk} {n : Nat} {d : BitVec 7} {w k : Nat} (hk : w * k = 32)
    {g : Strand → Vec} {f : Strand → Nat → BitVec w}
    (h : ∀ s, exec i s = s.simple n fun st => st.setVMasked mk d (g st))
    (hg : ∀ st, ∀ j < 256 / w, elem w (g st) j = f st j) : WritesElems i mk n d w f fun _ => 0 :=
  writesElems_of hk (fun s => by rw [h]; simp only [Strand.raiseFlags_zero]) hg

theorem writesBits_of {i : Instr} {mk : Option Msk} {n : Nat} {d : BitVec 3} {g : Strand → BitVec 8} {f : Strand → Nat → Bool}
    {fl : Strand → BitVec 5}
    (h : ∀ s, exec i s = s.simple n fun st => (st.setPMasked mk d (g st)).raiseFlags (fl st))
    (hg : ∀ st, ∀ k < 8, (g st).getLsbD k = f st k) : WritesBits i mk n d f fl := by
  refine effect_of_onStrand (f := fun s st => (((st.setPMasked mk d (g st)).raiseFlags (fl st)).retire s.cycle n)) h fun s st => ?_
  obtain ⟨y, hy, he⟩ := st.setPMasked_eq mk d (g st)
  refine ⟨y, ?_, fun k hk => ?_⟩
  · rw [hy]; exact st.wroteP_retire _ _ _ _ _
  · rw [he k hk, hg st k hk]

theorem writesBits_of0 {i : Instr} {mk : Option Msk} {n : Nat} {d : BitVec 3} {g : Strand → BitVec 8} {f : Strand → Nat → Bool}
    (h : ∀ s, exec i s = s.simple n fun st => st.setPMasked mk d (g st))
    (hg : ∀ st, ∀ k < 8, (g st).getLsbD k = f st k) : WritesBits i mk n d f fun _ => 0 :=
  writesBits_of (fun s => by rw [h]; simp only [Strand.raiseFlags_zero]) hg

/-! ### Long-latency writes (R160) -/


theorem Pend.dropAll_left (ws : List RegWrite) (p : Pend) : (Pend.dropAll ws p).left = p.left := by
  induction ws generalizing p with
  | nil => rfl
  | cons w ws ih => cases w <;> exact ih _

/-- No window that is left open holds no instruction. -/
theorem landExpired_open (kept ps : List Pend) (st : Strand) (h : ∀ q ∈ kept, q.left ≠ 0) :
    ∀ q ∈ (landExpired st kept ps).pend, q.left ≠ 0 := by
  induction ps generalizing st kept with
  | nil => exact h
  | cons p ps ih =>
    simp only [landExpired]
    split
    · apply ih
      split
      · exact h
      · intro q hq
        obtain ⟨r, hr, rfl⟩ := List.mem_map.1 hq
        rw [Pend.dropAll_left]; exact h r hr
    · apply ih
      intro q hq
      rcases List.mem_append.1 hq with hq | hq
      · exact h q hq
      · rw [List.mem_singleton.1 hq]; assumption

/-- Open windows with instructions left stay, and the last entry lands when its window is empty. -/
theorem landExpired_append (kept ps : List Pend) (p : Pend) (st : Strand) (h : ∀ q ∈ ps, q.left ≠ 0) :
    landExpired st kept (ps ++ [p]) =
      if p.left = 0 then { st.land p with pend := if p.causes ≠ 0 then kept ++ ps else (kept ++ ps).map (Pend.dropAll p.writes) }
      else { st with pend := kept ++ ps ++ [p] } := by
  induction ps generalizing kept with
  | nil =>
    simp only [List.nil_append, List.append_nil, landExpired]
  | cons q ps ih =>
    have hq : q.left ≠ 0 := h q (by simp)
    simp only [List.cons_append, landExpired, hq, if_false]
    rw [ih (kept ++ [q]) fun r hr => h r (by simp [hr])]
    simp only [List.append_assoc, List.singleton_append]

/-- A long-latency write without causes, as its instruction ends. -/
theorem Strand.retireLong_eq (st : Strand) (cycle n la : Nat) (p : Pend) (hp : p.causes = 0) :
    st.retireLong cycle n la p =
      if st.window la = 0 then
        { ({ st.goTo cycle (st.past n) with period := if st.pend = [] then 15 else st.tick.period } : Strand).land
            { p with left := 0 } with pend := st.tick.pend.map (Pend.dropAll p.writes) }
      else
        { st.goTo cycle (st.past n) with
            period := if st.pend = [] then 15 else st.tick.period
            pend := st.tick.pend ++ [{ p with left := st.window la }] } := by
  have hopen : ∀ q ∈ st.tick.pend, q.left ≠ 0 := landExpired_open _ _ _ (by simp)
  have hw : (st.retire cycle n).held st.windowOpen la p = st.window la := by
    have hn : (st.retire cycle n).native = st.native := by
      show st.tick.native = _; rw [Strand.tick_rest]
    have hpd : (st.retire cycle n).period = st.tick.period := rfl
    unfold Strand.held Strand.lookahead Strand.window Strand.windowOpen
    rw [hn, hpd]
    cases st.native <;> cases h : st.pend <;> simp [hp]
  have hpe : ∀ x : Strand, x = (if st.windowOpen then st.retire cycle n else { st.retire cycle n with period := 15 }) →
      x = { st.goTo cycle (st.past n) with period := if st.pend = [] then 15 else st.tick.period } := by
    intro x hx; subst hx
    unfold Strand.windowOpen
    cases h : st.pend <;> simp [Strand.retire, Strand.goTo, Strand.past, Strand.after]
  unfold Strand.retireLong Strand.openWindow
  simp only [hw]
  rw [hpe _ rfl]
  have := landExpired_append [] st.tick.pend { p with left := st.window la }
    { st.goTo cycle (st.past n) with period := if st.pend = [] then 15 else st.tick.period } hopen
  simp only [List.nil_append, hp] at this
  simp only [hp] at this ⊢
  refine Eq.trans this ?_
  by_cases hz : st.window la = 0
  · simp [hz]
  · simp [hz]

/-- A long-latency write without causes lands with its window, or enters it. -/
theorem Strand.later_retireLong (st : Strand) (cycle n la : Nat) (p : Pend) (hp : p.causes = 0 ∧ p.arrived = false) :
    st.Later (st.retireLong cycle n la p) cycle (st.past n) la p := by
  refine ⟨fun hz => ?_, fun hz => ?_⟩
  · rw [Strand.retireLong_eq _ _ _ _ _ hp.1, if_pos hz]
    have e : ({ st.goTo cycle (st.past n) with period := if st.pend = [] then 15 else st.tick.period } : Strand).land
        { p with left := 0 } =
        { ({ st.goTo cycle (st.past n) with period := if st.pend = [] then 15 else st.tick.period } : Strand) with
          sregs := (p.writes.foldl Strand.landOne st.tick).sregs, vregs := (p.writes.foldl Strand.landOne st.tick).vregs,
          fpflags := st.tick.fpflags ||| p.flags } := by
      have hf : ∀ ws : List RegWrite, ∀ x : Strand,
          ws.foldl Strand.landOne { x with pc := st.past n, blocked := none, readyAt := cycle + 1, period := if st.pend = [] then 15 else st.tick.period } =
          { ws.foldl Strand.landOne x with pc := st.past n, blocked := none, readyAt := cycle + 1, period := if st.pend = [] then 15 else st.tick.period } := by
        intro ws
        induction ws with
        | nil => intro x; rfl
        | cons w ws ih =>
          intro x
          cases w with
          | s i y => exact ih { x with sregs := x.sregs.set i y }
          | v i y => exact ih { x with vregs := x.vregs.set i y }
      simp only [Strand.land, hp.1, hp.2, ne_eq, not_true_eq_false, if_false, Bool.false_eq_true]
      have := hf p.writes st.tick
      unfold Strand.goTo
      rw [this, foldl_landOne_rest]
      rfl
    rw [e]
    exact ⟨⟨rfl, rfl, rfl⟩, rfl, rfl, rfl, rfl, rfl, rfl⟩
  · rw [Strand.retireLong_eq _ _ _ _ _ hp.1, if_neg (by omega)]
    exact ⟨⟨rfl, rfl, rfl⟩, rfl, rfl, rfl⟩

theorem writesLater_of {i : Instr} {n la : Nat} {p : Strand → Pend} (hp : ∀ st, (p st).causes = 0 ∧ (p st).arrived = false)
    (h : ∀ s, exec i s = s.simpleLong n la p) : WritesLater i n la p :=
  effect_of_onStrand (f := fun s st => st.retireLong s.cycle n la (p st)) h fun s st => st.later_retireLong s.cycle n la (p st) (hp st)

/-! ### Pairs, predicates, entries -/

theorem pendS_entryS (st : Strand) (d : BitVec 7) (x : Word) : pendS (st.sName d) x 0 = entryS st d x := by
  unfold pendS entryS; cases st.sName d <;> rfl

theorem Strand.setPBit_if (c : Prop) [Decidable c] (st : Strand) (d : BitVec 3) : st.setPBit d (decide c) = st.setP d (if c then 1 else 0) := by
  unfold Strand.setPBit; by_cases h : c <;> simp [h]

theorem Strand.wrotePair_retire (st : Strand) (d : BitVec 7) (x : BitVec 64) (cycle : Nat) (n : Nat) :
    st.WrotePair ((st.setPair d x).retire cycle n) cycle (st.past n) d x := by
  have hlo : BitVec.ofNat 32 x.toNat = x.extractLsb' 0 32 := by apply BitVec.eq_of_toNat_eq; simp
  have hhi : BitVec.ofNat 32 (x.toNat / 2 ^ 32) = x.extractLsb' 32 32 := by
    apply BitVec.eq_of_toNat_eq; rw [BitVec.extractLsb'_toNat, Nat.shiftRight_eq_div_pow, BitVec.toNat_ofNat]
  have e : (st.setPair d x).retire cycle n =
      ({ (st.tick.setSAt (st.sIdx d.toNat) (x.extractLsb' 0 32)).setSAt (st.sIdx (d.toNat + 1)) (x.extractLsb' 32 32) with
        pc := st.past n, blocked := none, readyAt := cycle + 1 } : Strand) := by
    have a : (st.setPair d x).after n = st.past n := by
      unfold Strand.setPair
      cases h : st.sName d <;> cases h2 : st.sIdx (d.toNat + 1) <;> simp [Strand.setSAt, Strand.after, Strand.past]
    rw [Strand.retire, Strand.goTo, a, Strand.setPair, Strand.tick_setSAt, Strand.tick_setSAt]; rfl
  rw [e]
  refine ⟨⟨rfl, rfl, rfl⟩, ?_, ?_, by cases h : st.sIdx d.toNat <;> cases h2 : st.sIdx (d.toNat + 1) <;> simp [Strand.setSAt]⟩
  all_goals
    unfold Strand.pairWrites
    rw [hlo, hhi]
    cases h : st.sIdx d.toNat <;> cases h2 : st.sIdx (d.toNat + 1) <;>
      simp [Strand.setSAt, Strand.landOne, Pend.dropAll, show (fun p : Pend => Pend.dropAll [] p) = id from rfl, Function.comp_def]

theorem pendV_entryV (st : Strand) (d : BitVec 7) (x : Vec) (f : BitVec 5) : pendV (st.vName d) x f = entryV st d x f := by
  unfold pendV entryV; cases st.vName d <;> rfl

end Sys2Proof.Machine
end

