-- ==== Sys2Proof/Laws/Memory.lean ====
section
/-! SUPPORT. Byte storage: every operation keeps the canonical form, a read after a write gives what was written, and a write
leaves every other byte alone (assumption 4). -/
namespace Sys2Proof.Machine

/-! ### The canonical form -/

theorem cellsAbove_weaken {lo : Option Nat} {l : List Host.Cell} (h : cellsAbove lo l = true) : cellsAbove none l = true := by
  cases l with
  | nil => rfl
  | cons p r => obtain ⟨b, x⟩ := p; simp [cellsAbove] at h ⊢; exact ⟨h.1.2, h.2⟩

theorem cellsAbove_lower {lo hi : Nat} {l : List Host.Cell} (hl : lo ≤ hi) (h : cellsAbove (some hi) l = true) :
    cellsAbove (some lo) l = true := by
  cases l with
  | nil => rfl
  | cons p r => obtain ⟨b, x⟩ := p; simp [cellsAbove] at h ⊢; exact ⟨⟨by omega, h.1.2⟩, h.2⟩

/-- A write above a bound keeps the cells above it. -/
theorem cellsAbove_writeByte {l : List Host.Cell} {a : Nat} {v : Byte} {lo : Option Nat} (ha : ∀ x, lo = some x → x < a)
    (h : cellsAbove lo l = true) : cellsAbove lo (writeByte l a v) = true := by
  induction l generalizing lo with
  | nil =>
    by_cases hv : v = blankByte
    · simp [writeByte, hv, cellsAbove]
    · cases lo with
      | none => simp [writeByte, hv, cellsAbove]
      | some x => simp [writeByte, hv, cellsAbove, ha x rfl]
  | cons p r ih =>
    obtain ⟨b, x⟩ := p
    have hr : cellsAbove (some b) r = true := by simp [cellsAbove] at h; exact h.2
    by_cases h1 : a = b
    · subst h1
      by_cases hv : v = blankByte
      · simp only [writeByte, if_pos, hv]
        cases lo with
        | none => exact cellsAbove_weaken hr
        | some y => exact cellsAbove_lower (Nat.le_of_lt (ha y rfl)) hr
      · cases lo with
        | none => simp [writeByte, hv, cellsAbove, hr]
        | some y => simp [writeByte, hv, cellsAbove, hr, ha y rfl]
    · by_cases h2 : a < b
      · by_cases hv : v = blankByte
        · simp only [writeByte, if_neg h1, if_pos h2, if_pos hv]; exact h
        · have hb : cellsAbove (some a) ((b, x) :: r) = true := by
            simp [cellsAbove] at h ⊢; exact ⟨⟨h2, h.1.2⟩, h.2⟩
          simp only [writeByte, if_neg h1, if_pos h2, if_neg hv]
          cases lo with
          | none => simp [cellsAbove, hv] at hb ⊢; exact hb
          | some y => simp [cellsAbove, hv, ha y rfl] at hb ⊢; exact hb
      · have hi := ih (lo := some b) (fun y hy => by cases hy; omega) hr
        simp only [writeByte, if_neg h1, if_neg h2]
        simp [cellsAbove] at h ⊢
        exact ⟨h.1, hi⟩

/-- Writing one byte keeps the canonical form. -/
theorem Memory.wf_writeByte {m : List Host.Cell} {a : Nat} {v : Byte} (h : Memory.wf m = true) : Memory.wf (writeByte m a v) = true :=
  cellsAbove_writeByte (fun _ e => nomatch e) h

/-- Writing bytes keeps the canonical form. -/
theorem Memory.wf_writeBytes {m : List Host.Cell} {a : Nat} {bs : List Byte} (h : Memory.wf m = true) :
    Memory.wf (writeBytes m a bs) = true := by
  induction bs generalizing m a with
  | nil => exact h
  | cons b r ih => exact ih (Memory.wf_writeByte h)

/-- Writing a number keeps the canonical form. -/
theorem Memory.wf_writeNat {m : List Host.Cell} {a n x : Nat} (h : Memory.wf m = true) : Memory.wf (writeNat m a n x) = true :=
  Memory.wf_writeBytes h

theorem cellsAbove_filter (p : Host.Cell → Bool) {l : List Host.Cell} {lo : Option Nat} (h : cellsAbove lo l = true) :
    cellsAbove lo (l.filter p) = true := by
  induction l generalizing lo with
  | nil => exact h
  | cons c r ih =>
    obtain ⟨b, x⟩ := c
    have hr : cellsAbove (some b) r = true := by simp [cellsAbove] at h; exact h.2
    by_cases hp : p (b, x) = true
    · have hc := h
      simp [cellsAbove, List.filter_cons, hp] at h ⊢
      exact ⟨h.1, ih hr⟩
    · simp only [List.filter_cons, hp, Bool.false_eq_true, if_false]
      have := ih hr
      cases lo with
      | none => exact cellsAbove_weaken this
      | some y =>
        have hy : y < b := by simp [cellsAbove] at h; exact h.1.1
        exact cellsAbove_lower (Nat.le_of_lt hy) this

/-- Clearing bytes keeps the canonical form. -/
theorem Memory.wf_filter {m : List Host.Cell} (p : Host.Cell → Bool) (h : Memory.wf m = true) : Memory.wf (m.filter p) = true :=
  cellsAbove_filter p h

/-- Memory after reset is canonical. -/
theorem Memory.wf_reset : Memory.wf State.reset.mem = true := rfl

/-! ### Reading and writing -/

theorem readByte_below {l : List Host.Cell} {lo a : Nat} (h : cellsAbove (some lo) l = true) (ha : a ≤ lo) :
    readByte l a = blankByte := by
  cases l with
  | nil => rfl
  | cons p r =>
    obtain ⟨b, x⟩ := p
    simp [cellsAbove] at h
    have h1 : ¬ a = b := by omega
    have h2 : a < b := by omega
    simp [readByte, h1, h2]

theorem readByte_writeByte_above {l : List Host.Cell} {a : Nat} {v : Byte} {lo : Option Nat} (h : cellsAbove lo l = true) :
    readByte (writeByte l a v) a = v := by
  induction l generalizing lo with
  | nil => by_cases hv : v = blankByte <;> simp [writeByte, readByte, hv]
  | cons p r ih =>
    obtain ⟨b, x⟩ := p
    have hr : cellsAbove (some b) r = true := by simp [cellsAbove] at h; exact h.2
    by_cases h1 : a = b
    · subst h1
      by_cases hv : v = blankByte
      · simp only [writeByte, hv, if_true]; exact readByte_below hr (Nat.le_refl _)
      · simp [writeByte, readByte, hv]
    · by_cases h2 : a < b
      · by_cases hv : v = blankByte <;> simp [writeByte, readByte, h1, h2, hv]
      · simp [writeByte, readByte, h1, h2, ih hr]

/-- A byte reads as it was written. -/
theorem readByte_writeByte {m : List Host.Cell} {a : Nat} {v : Byte} (h : Memory.wf m = true) : readByte (writeByte m a v) a = v :=
  readByte_writeByte_above h

theorem readByte_writeByte_other_above {l : List Host.Cell} {a c : Nat} {v : Byte} {lo : Option Nat} (hc : c ≠ a)
    (h : cellsAbove lo l = true) : readByte (writeByte l a v) c = readByte l c := by
  induction l generalizing lo with
  | nil =>
    by_cases hv : v = blankByte
    · simp [writeByte, hv]
    · simp [writeByte, hv, readByte, hc]
  | cons p r ih =>
    obtain ⟨b, x⟩ := p
    have hr : cellsAbove (some b) r = true := by simp [cellsAbove] at h; exact h.2
    by_cases h1 : a = b
    · subst h1
      by_cases hv : v = blankByte
      · simp only [writeByte, hv, if_true]
        by_cases h3 : c < a
        · rw [readByte_below hr (Nat.le_of_lt h3)]; simp [readByte, hc, h3]
        · simp [readByte, hc, h3]
      · simp [writeByte, readByte, hv, hc]
    · by_cases h2 : a < b
      · by_cases hv : v = blankByte
        · simp [writeByte, h1, h2, hv]
        · by_cases h4 : c < a
          · have h5 : ¬ c = b := by omega
            have h6 : c < b := by omega
            simp [writeByte, readByte, h1, h2, hv, hc, h4, h5, h6]
          · simp [writeByte, readByte, h1, h2, hv, hc, h4]
      · simp [writeByte, readByte, h1, h2, ih hr]

/-- A write leaves every other byte. -/
theorem readByte_writeByte_other {m : List Host.Cell} {a c : Nat} {v : Byte} (hc : c ≠ a) (h : Memory.wf m = true) :
    readByte (writeByte m a v) c = readByte m c := readByte_writeByte_other_above hc h

/-- A store leaves every byte outside its range. -/
theorem readByte_writeBytes_outside {m : List Host.Cell} {a c : Nat} {bs : List Byte} (hc : c < a ∨ a + bs.length ≤ c)
    (h : Memory.wf m = true) : readByte (writeBytes m a bs) c = readByte m c := by
  induction bs generalizing m a with
  | nil => rfl
  | cons b r ih =>
    simp only [List.length_cons] at hc
    rw [writeBytes, ih (by omega) (Memory.wf_writeByte h), readByte_writeByte_other (by omega) h]

/-- A store's bytes read back. -/
theorem readByte_writeBytes_inside {m : List Host.Cell} {a k : Nat} {bs : List Byte} (hk : k < bs.length) (h : Memory.wf m = true) :
    readByte (writeBytes m a bs) (a + k) = bs[k] := by
  induction bs generalizing m a k with
  | nil => exact absurd hk (Nat.not_lt_zero _)
  | cons b r ih =>
    rw [writeBytes]
    cases k with
    | zero =>
      rw [readByte_writeBytes_outside (by omega) (Memory.wf_writeByte h), Nat.add_zero, readByte_writeByte h]; rfl
    | succ k =>
      have := ih (m := writeByte m a b) (a := a + 1) (k := k) (by simpa using hk) (Memory.wf_writeByte h)
      rw [show a + (k + 1) = a + 1 + k by omega, this]; rfl

@[simp] theorem natBytesLE_length (n x : Nat) : (natBytesLE n x).length = n := by
  induction n generalizing x with
  | zero => rfl
  | succ n ih => simp [natBytesLE, ih]

@[simp] theorem readBytes_length (m : List Host.Cell) (a n : Nat) : (readBytes m a n).length = n := by
  induction n generalizing a with
  | zero => rfl
  | succ n ih => simp [readBytes, ih]

/-- A range of bytes reads back as it was stored. -/
theorem readBytes_writeBytes {m : List Host.Cell} {a : Nat} {bs : List Byte} (h : Memory.wf m = true) :
    readBytes (writeBytes m a bs) a bs.length = bs := by
  apply List.ext_getElem (by simp)
  intro k h1 h2
  have read : ∀ (n a k : Nat) (M : List Host.Cell) (hk : k < (readBytes M a n).length), (readBytes M a n)[k] = readByte M (a + k) := by
    intro n
    induction n with
    | zero => intro a k M hk; simp at hk
    | succ n ih =>
      intro a k M hk
      cases k with
      | zero => rfl
      | succ k => simp only [readBytes, List.getElem_cons_succ]; rw [ih]; congr 1; omega
  rw [read, readByte_writeBytes_inside h2 h]

/-- The value of a number's bytes (R4). -/
theorem bytesNat_natBytesLE (n x : Nat) : bytesNat (natBytesLE n x) = x % 256 ^ n := by
  induction n generalizing x with
  | zero => simp [natBytesLE, bytesNat, Nat.mod_one]
  | succ n ih =>
    simp only [natBytesLE, bytesNat, ih, BitVec.toNat_ofNat]
    rw [show (2 : Nat) ^ 8 = 256 from rfl, Nat.pow_succ, Nat.mul_comm (256 ^ n) 256, Nat.mod_mul]

/-- A number stored little-endian reads back, modulo its width (R4). -/
theorem readNat_writeNat {m : List Host.Cell} {a n x : Nat} (h : Memory.wf m = true) :
    readNat (writeNat m a n x) a n = x % 256 ^ n := by
  have := readBytes_writeBytes (a := a) (bs := natBytesLE n x) h
  rw [natBytesLE_length] at this
  rw [readNat, writeNat, this, bytesNat_natBytesLE]

end Sys2Proof.Machine
end

