-- ==== Sys2Proof/Laws/Access.lean ====
section
/-! SUPPORT. What the operations of an access do: the address phase, the caches, a write at its home, and the lanes of one instruction. -/
namespace Sys2Proof.Machine

/-! ### Fields of the state under the operations on caches -/

theorem State.die_setCore (s : State) (d c : Nat) (k : Core) (e : Nat) : (s.setCore d c k).die e = s.die e := rfl
theorem State.core_setDie (s : State) (d : Nat) (k : Die) (e f : Nat) : (s.setDie d k).core e f = s.core e f := rfl

/-! ### Watches -/

/-- Firing watches depends on strands and bundles, and changes only them. -/
theorem fireLine_same (ws : List (Nat × List Byte)) (x y : State) (h : x.strands = y.strands) (h' : x.bundles = y.bundles) :
    (ws.foldl (fun s p => s.fireLine p.1) x).strands = (ws.foldl (fun s p => s.fireLine p.1) y).strands ∧
    (ws.foldl (fun s p => s.fireLine p.1) x).bundles = (ws.foldl (fun s p => s.fireLine p.1) y).bundles ∧
    ws.foldl (fun s p => s.fireLine p.1) x =
      { x with strands := (ws.foldl (fun s p => s.fireLine p.1) x).strands,
               bundles := (ws.foldl (fun s p => s.fireLine p.1) x).bundles } := by
  induction ws generalizing x y with
  | nil => exact ⟨h, h', rfl⟩
  | cons w ws ih =>
    have e : (x.fireLine w.1).strands = (y.fireLine w.1).strands := by
      show x.strands.map _ = y.strands.map _; rw [h]
    have e' : (x.fireLine w.1).bundles = (y.fireLine w.1).bundles := by
      show x.bundles.map _ = y.bundles.map _; rw [h']
    obtain ⟨h1, h2, h3⟩ := ih _ _ e e'
    exact ⟨h1, h2, h3⟩

theorem Strand.at_fire (hit : Strand → WatchRegion → Bool) (x : Strand) : (Strand.fire hit x).at_ = x.at_ := by
  unfold Strand.fire
  split
  · split <;> rfl
  · rfl

theorem Strand.fire_rest (hit : Strand → WatchRegion → Bool) (x : Strand) :
    Strand.fire hit x = { x with watch := (Strand.fire hit x).watch } := by
  unfold Strand.fire
  split
  · split <;> rfl
  · rfl

/-! ### What a memory instruction leaves -/

/-- A state with the part moves of another has met no claim. -/
theorem State.claims_same {s t : State} (h : t.link.moves = s.link.moves) :
    ∃ f : SRef → Bool, t.link.moves = s.link.moves.map fun m => { m with claims := m.claims.filter f } :=
  ⟨fun _ => true, by
    rw [h]
    conv => lhs; rw [← List.map_id s.link.moves]
    exact List.map_congr_left fun m _ => by rw [List.filter_eq_self.2 fun _ _ => rfl]; rfl⟩

theorem State.claims_trans {s t u : State} (h : ∃ f : SRef → Bool, t.link.moves = s.link.moves.map fun m => { m with claims := m.claims.filter f })
    (g : ∃ f : SRef → Bool, u.link.moves = t.link.moves.map fun m => { m with claims := m.claims.filter f }) :
    ∃ f : SRef → Bool, u.link.moves = s.link.moves.map fun m => { m with claims := m.claims.filter f } := by
  obtain ⟨f, e⟩ := h
  obtain ⟨f', e'⟩ := g
  refine ⟨fun r => f r && f' r, ?_⟩
  rw [e', e, List.map_map]
  exact List.map_congr_left fun m _ => by simp [List.filter_filter, Bool.and_comm]

theorem State.spoilFills_none (s : State) : (s.spoilFills (fun _ => false) fun _ => false).xreads = s.xreads := by
  simp [State.spoilFills]

/-- Fills that two operations meet one after another are those that one meets. -/
theorem State.spoilFills_trans {s t u : State} (h : ∃ f g, t.xreads = (s.spoilFills f g).xreads)
    (h' : ∃ f g, u.xreads = (t.spoilFills f g).xreads) : ∃ f g, u.xreads = (s.spoilFills f g).xreads := by
  obtain ⟨f, g, e⟩ := h
  obtain ⟨f', g', e'⟩ := h'
  let m (r : XRead) : XRead := { r with noL1 := r.noL1 || f r, noRdc := r.noRdc || g r }
  refine ⟨fun r => f r || f' (m r), fun r => g r || g' (m r), ?_⟩
  rw [e', State.spoilFills, e, State.spoilFills, State.spoilFills]
  simp only [List.map_map]
  exact List.map_congr_left fun r _ => by simp [m, Bool.or_assoc]

/-- A state with the reads of another has spoiled no fill. -/
theorem State.fills_same {s t : State} (h : t.xreads = s.xreads) : ∃ f g, t.xreads = (s.spoilFills f g).xreads :=
  ⟨_, _, h.trans s.spoilFills_none.symm⟩

theorem State.Wrote.refl (s : State) : s.Wrote s [] where
  mem := rfl
  outside := fun _ _ _ => rfl
  poison := fun _ => ⟨id, fun _ => id⟩
  lost := fun _ => ⟨id, fun _ => id⟩
  core := fun _ _ => rfl
  die := fun _ => rfl
  fills := State.fills_same rfl
  claims := State.claims_same rfl
  rest := rfl

theorem wf_foldl_writeBytes (ws : List (Nat × List Byte)) (m : List Host.Cell) (h : Memory.wf m = true) :
    Memory.wf (ws.foldl (fun m p => writeBytes m p.1 p.2) m) = true := by
  induction ws generalizing m with
  | nil => exact h
  | cons w ws ih => exact ih _ (Memory.wf_writeBytes h)

theorem State.Wrote.trans {s t u : State} {a b : List (Nat × List Byte)} (h : s.Wrote t a) (g : t.Wrote u b) : s.Wrote u (a ++ b) where
  mem := by rw [List.foldl_append, ← h.mem, g.mem]
  outside := fun w x hx => by
    have wt : Memory.wf t.mem = true := by rw [h.mem]; exact wf_foldl_writeBytes _ _ w
    rw [g.outside wt x fun p hp => hx p (List.mem_append_right _ hp), h.outside w x fun p hp => hx p (List.mem_append_left _ hp)]
  poison := fun x => ⟨fun hx => (h.poison x).1 ((g.poison x).1 hx), fun n hx =>
    (g.poison x).2 (fun p hp => n p (List.mem_append_right _ hp)) ((h.poison x).2 (fun p hp => n p (List.mem_append_left _ hp)) hx)⟩
  lost := fun x => ⟨fun hx => (h.lost x).1 ((g.lost x).1 hx), fun n hx =>
    (g.lost x).2 (fun p hp => n p (List.mem_append_right _ hp)) ((h.lost x).2 (fun p hp => n p (List.mem_append_left _ hp)) hx)⟩
  core := fun d c => by rw [g.core d c, h.core d c]
  die := fun d => by rw [g.die d, h.die d]
  fills := State.spoilFills_trans h.fills g.fills
  claims := State.claims_trans h.claims g.claims
  rest := by
    obtain ⟨-, -, e1⟩ := fireLine_same a s s rfl rfl
    have hs : t.strands = (a.foldl (fun s p => s.fireLine p.1) s).strands := by rw [h.rest]
    have hb : t.bundles = (a.foldl (fun s p => s.fireLine p.1) s).bundles := by rw [h.rest]
    obtain ⟨f1, f2, f3⟩ := fireLine_same b t _ hs hb
    obtain ⟨-, -, f4⟩ := fireLine_same b (a.foldl (fun s p => s.fireLine p.1) s) _ rfl rfl
    rw [List.foldl_append, f4]
    conv => lhs; rw [g.rest, f3, f1, f2]
    conv => lhs; rw [h.rest]

/-- The caches and the TLB of a core. -/
theorem State.Wrote.caches (s : State) (d c : Nat) (l1 : List Sector) (tlb : List TlbEntry) (reuse : List ReuseEntry) :
    s.Wrote (s.setCore d c { s.core d c with l1 := l1, tlb := tlb, reuse := reuse }) [] where
  mem := rfl
  outside := fun _ _ _ => rfl
  poison := fun _ => ⟨id, fun _ => id⟩
  lost := fun _ => ⟨id, fun _ => id⟩
  core := fun e f => by
    by_cases h : (e, f) = (d, c)
    · cases h; rw [State.core_setCore]
    · rw [State.core_setCore_other _ _ h]
  die := fun _ => rfl
  fills := State.fills_same rfl
  claims := State.claims_same rfl
  rest := rfl

/-- The caches and the TLB of a die. -/
theorem State.Wrote.dieCaches (s : State) (d : Nat) (rdc : List Sector) (tlb : List TlbEntry) (l2 : List L2Line) :
    s.Wrote (s.setDie d { s.die d with rdc := rdc, tlb := tlb, l2 := l2 }) [] where
  mem := rfl
  outside := fun _ _ _ => rfl
  poison := fun _ => ⟨id, fun _ => id⟩
  lost := fun _ => ⟨id, fun _ => id⟩
  core := fun _ _ => rfl
  die := fun e => by
    by_cases h : e = d
    · cases h; rw [State.die_setDie]
    · rw [State.die_setDie_other _ _ h]
  fills := State.fills_same rfl
  claims := State.claims_same rfl
  rest := rfl

theorem State.Wrote.noteCache (s : State) (d : Nat) (c : Option Nat) (src n : Nat) (who : List (Nat × Bool)) :
    s.Wrote (s.noteCache d c src n who) [] := by
  unfold State.noteCache
  split
  · exact .refl s
  · exact ⟨rfl, fun _ _ _ => rfl, fun _ => ⟨id, fun _ => id⟩, fun _ => ⟨id, fun _ => id⟩, fun _ _ => rfl, fun _ => rfl, State.fills_same rfl, State.claims_same rfl, rfl⟩

theorem State.Wrote.note (s : State) (d : Nat) (c : Option Nat) (src n key : Nat) : s.Wrote (s.note d c src n key) [] :=
  ⟨rfl, fun _ _ _ => rfl, fun _ => ⟨id, fun _ => id⟩, fun _ => ⟨id, fun _ => id⟩, fun _ _ => rfl, fun _ => rfl, State.fills_same rfl, State.claims_same rfl, rfl⟩

theorem State.Wrote.spoilFills (s : State) (f g : XRead → Bool) : s.Wrote (s.spoilFills f g) [] :=
  ⟨rfl, fun _ _ _ => rfl, fun _ => ⟨id, fun _ => id⟩, fun _ => ⟨id, fun _ => id⟩, fun _ _ => rfl, fun _ => rfl, ⟨f, g, rfl⟩, State.claims_same rfl, rfl⟩

/-- An access that a strand had a claim for has been made. -/
theorem State.Wrote.unclaim (s : State) (r : SRef) : s.Wrote (s.unclaim r) [] :=
  ⟨rfl, fun _ _ _ => rfl, fun _ => ⟨id, fun _ => id⟩, fun _ => ⟨id, fun _ => id⟩, fun _ _ => rfl, fun _ => rfl, State.fills_same rfl,
    ⟨fun x => x != r, rfl⟩, rfl⟩

theorem State.Wrote.quiet {s t u : State} (h : s.Wrote t []) (g : t.Wrote u []) : s.Wrote u [] := h.trans g

theorem State.Wrote.strands {s t : State} (h : s.Wrote t []) : t.strands = s.strands := by rw [h.rest]; rfl
theorem State.Wrote.cycle {s t : State} {ws : List (Nat × List Byte)} (h : s.Wrote t ws) : t.cycle = s.cycle := by
  rw [h.rest]; obtain ⟨-, -, e⟩ := fireLine_same ws s s rfl rfl; rw [e]
theorem State.Wrote.link {s t : State} {ws : List (Nat × List Byte)} (h : s.Wrote t ws) : t.link.paired = s.link.paired := by
  rw [h.rest]
theorem State.Wrote.cur {s t : State} {ws : List (Nat × List Byte)} (h : s.Wrote t ws) : t.cur = s.cur := by
  rw [h.rest]; obtain ⟨-, -, e⟩ := fireLine_same ws s s rfl rfl; rw [e]
theorem State.Wrote.strandAt {s t : State} (h : s.Wrote t []) (r : SRef) : t.strandAt r = s.strandAt r := by
  unfold State.strandAt; rw [h.strands]

theorem State.noteCache_core (s : State) (d : Nat) (c : Option Nat) (src n : Nat) (who : List (Nat × Bool)) (e f : Nat) :
    (s.noteCache d c src n who).core e f = s.core e f := by
  unfold State.noteCache; split <;> rfl
theorem State.noteCache_die (s : State) (d : Nat) (c : Option Nat) (src n : Nat) (who : List (Nat × Bool)) (e : Nat) :
    (s.noteCache d c src n who).die e = s.die e := by
  unfold State.noteCache; split <;> rfl

theorem State.noteCache_rest (s : State) (d : Nat) (c : Option Nat) (src n : Nat) (who : List (Nat × Bool)) :
    (s.noteCache d c src n who).mem = s.mem ∧ (s.noteCache d c src n who).poison = s.poison ∧ (s.noteCache d c src n who).lost = s.lost ∧
      (s.noteCache d c src n who).cycle = s.cycle := by
  unfold State.noteCache; split <;> exact ⟨rfl, rfl, rfl, rfl⟩

/-! ### What a core sees of an atom -/

/-- An atom as a core sees it depends on its L1, its die's RDC, memory with its marks, and the cycle. -/
theorem State.lookAtom_congr {x y : State} {d c : Nat} (h1 : (x.core d c).l1 = (y.core d c).l1) (h2 : (x.die d).rdc = (y.die d).rdc)
    (h3 : x.cycle = y.cycle) (h4 : x.mem = y.mem) (h5 : x.poison = y.poison) (h6 : x.lost = y.lost) (a : Nat) :
    x.lookAtom d (some c) a = y.lookAtom d (some c) a := by
  unfold State.lookAtom State.atomData State.atomMark
  simp only [h1, h2, h3, h4, h5, h6]

theorem State.lookAtom_noteCache (s : State) (d c : Nat) (e : Nat) (f : Option Nat) (src n : Nat) (who : List (Nat × Bool)) (a : Nat) :
    (s.noteCache e f src n who).lookAtom d (some c) a = s.lookAtom d (some c) a := by
  unfold State.noteCache; split
  · rfl
  · rfl

theorem nodup_eraseDups : ∀ (n : Nat) (l : List Nat), l.length ≤ n → l.eraseDups.Nodup
  | _, [], _ => by simp
  | 0, _ :: _, h => absurd h (by simp)
  | n + 1, a :: l, h => by
    rw [List.eraseDups_cons, List.nodup_cons]
    refine ⟨?_, nodup_eraseDups n _ (Nat.le_trans (List.length_filter_le _ _) (by simpa using h))⟩
    rw [List.mem_eraseDups]; simp

/-- Of two lists of lines, the one within the other counts no more. -/
theorem heldLines_le {l m : List Nat} (h : l ⊆ m) : l.eraseDups.length ≤ m.eraseDups.length :=
  (nodup_eraseDups _ l (Nat.le_refl _)).length_le_of_subset fun a ha => by
    rw [List.mem_eraseDups] at ha ⊢; exact h ha

theorem find?_same {α : Type} {p q : α → Bool} {l : List α} (h : ∀ x ∈ l, p x = q x) : l.find? p = l.find? q := by
  induction l with
  | nil => rfl
  | cons a l ih => rw [List.find?_cons, List.find?_cons, h a (by simp), ih fun x hx => h x (by simp [hx])]

theorem find?_filter_keep {α : Type} {p q : α → Bool} {l : List α} (h : ∀ x ∈ l, p x = true → q x = true) :
    (l.filter q).find? p = l.find? p := by
  rw [List.find?_filter]
  refine find?_same fun x hx => ?_
  cases hp : p x
  · simp
  · simp [h x hx hp]

theorem find?_filter_lose {α : Type} {p q : α → Bool} {l : List α} (h : ∀ x ∈ l, p x = true → q x = false) :
    (l.filter q).find? p = none := by
  rw [List.find?_eq_none]
  intro x hx hp
  have := List.mem_filter.1 hx
  rw [h x this.1 hp] at this
  exact absurd this.2 (by simp)

/-- The order of lines by use decides no hit. -/
theorem findSector_useLine (l : List Sector) (atom a now : Nat) : findSector (useLine l atom) a now = findSector l a now := by
  unfold findSector useLine
  rw [List.find?_append]
  by_cases h : a / 4 = atom / 4
  · rw [find?_filter_keep, find?_filter_lose, Option.or_none]
    · intro x _ hx; simp only [Bool.and_eq_true, decide_eq_true_eq] at hx; simp [hx.1, h]
    · intro x _ hx; simp only [Bool.and_eq_true, decide_eq_true_eq] at hx; simp [hx.1, h]
  · rw [find?_filter_lose, find?_filter_keep, Option.none_or]
    · intro x _ hx; simp only [Bool.and_eq_true, decide_eq_true_eq] at hx; simp [hx.1, h]
    · intro x _ hx; simp only [Bool.and_eq_true, decide_eq_true_eq] at hx; simp [hx.1, h]

theorem makeRoom_subset (l : List Sector) (cap : Nat) : makeRoom l cap ⊆ l := by
  unfold makeRoom; split
  · exact List.Subset.refl _
  · split
    · exact List.filter_sublist.subset
    · exact List.Subset.refl _

theorem makeRoom_room {l : List Sector} {cap : Nat} (h : heldLines l < cap) : makeRoom l cap = l := by
  unfold makeRoom; exact if_pos h

theorem heldLines_filter (l : List Sector) (f : Sector → Bool) : heldLines (l.filter f) ≤ heldLines l :=
  heldLines_le (List.map_subset _ (List.filter_sublist.subset))

/-- A sector of a line that is not held alive is found where the line is not. -/
theorem findSector_other {l : List Sector} {atom a now : Nat} (h : findLine l atom now = none) (ha : a / 4 = atom / 4) :
    findSector l a now = none := by
  unfold findSector
  unfold findLine at h
  rw [List.find?_eq_none] at h ⊢
  intro x hx
  have := h x hx
  simp only [Bool.and_eq_true, decide_eq_true_eq] at this ⊢
  rintro ⟨rfl, h2⟩
  exact this ⟨ha, h2⟩

/-- What a cache holds after a fill, where it has room, and of the line that is filled in any case. -/
theorem findSector_fillSector (l : List Sector) (cap atom now lease mark hint : Nat) (v : Vec) (hl : 0 < lease) (a : Nat)
    (hr : a / 4 = atom / 4 ∨ heldLines l < cap) :
    (findSector (fillSector l cap atom v mark now lease hint) a now).map (fun x => (x.data, x.mark)) =
      if a = atom then some (v, mark) else (findSector l a now).map fun x => (x.data, x.mark) := by
  unfold fillSector
  dsimp only
  have hput : ∀ (x : Sector) (m : List Sector), x.atom = atom → now < x.expiry → x.data = v → x.mark = mark →
      (∀ y ∈ m, y.atom ≠ atom) →
      (findSector (x :: m) a now).map (fun x => (x.data, x.mark)) = (if a = atom then some (v, mark) else
        (findSector m a now).map fun x => (x.data, x.mark)) ∧
      (findSector (m ++ [x]) a now).map (fun x => (x.data, x.mark)) = (if a = atom then some (v, mark) else
        (findSector m a now).map fun x => (x.data, x.mark)) := by
    intro x m h1 h2 h3 h4 h5
    unfold findSector
    by_cases h : a = atom
    · subst h
      have hm : m.find? (fun x => decide (x.atom = a) && decide (now < x.expiry)) = none := by
        rw [List.find?_eq_none]; intro y hy; simp [h5 y hy]
      rw [if_pos rfl, List.find?_cons_of_pos (by simp [h1, h2]), List.find?_append, hm]
      simp [h1, h2, h3, h4]
    · have hx : (decide (x.atom = a) && decide (now < x.expiry)) = false := by
        rw [h1]; simp [Ne.symm h]
      rw [if_neg h, List.find?_cons_of_neg (by simp [hx]), List.find?_append]
      simp [hx]
  let old : Nat := match findSector l atom now with | some x => x.unacked | none => 0
  cases hf : findLine l atom now with
  | some y =>
    dsimp only
    have hy : now < y.expiry := by
      have := List.find?_some hf; simp only [Bool.and_eq_true, decide_eq_true_eq] at this; exact this.2
    have g := (hput { atom := atom, data := v, mark := mark, filled := now, expiry := y.expiry, unacked := old }
      (useLine (l.filter fun x => x.atom != atom) atom) rfl hy rfl rfl fun x hx => by
        have : x ∈ l.filter fun x => x.atom != atom := by
          rcases List.mem_append.1 hx with hx | hx <;> exact (List.mem_filter.1 hx).1
        simpa using (List.mem_filter.1 this).2).1
    refine g.trans ?_
    split
    · rfl
    · rename_i ha
      rw [findSector_useLine]
      unfold findSector
      rw [find?_filter_keep]
      intro x _ hx
      simp only [Bool.and_eq_true, decide_eq_true_eq] at hx
      simp [hx.1, ha]
  | none =>
    dsimp only
    have hroom : a ≠ atom → findSector (makeRoom (l.filter fun x => x.atom / 4 != atom / 4) cap) a now = findSector l a now := by
      intro hne
      by_cases ha : a / 4 = atom / 4
      · rw [findSector_other hf ha]
        unfold findSector
        rw [List.find?_eq_none]
        intro x hx
        have := (List.mem_filter.1 (makeRoom_subset _ _ hx)).2
        simp only [Bool.and_eq_true, decide_eq_true_eq]
        rintro ⟨rfl, -⟩
        simp [ha] at this
      · rw [makeRoom_room (Nat.lt_of_le_of_lt (heldLines_filter _ _) (hr.resolve_left ha))]
        unfold findSector
        refine find?_filter_keep fun x _ hx => ?_
        simp only [Bool.and_eq_true, decide_eq_true_eq] at hx
        simp [hx.1, ha]
    have hmem : ∀ y ∈ makeRoom (l.filter fun x => x.atom / 4 != atom / 4) cap, y.atom ≠ atom := by
      intro y hy
      have : y ∈ l.filter fun x => x.atom / 4 != atom / 4 := makeRoom_subset _ _ hy
      have h2 := (List.mem_filter.1 this).2
      simp only [bne_iff_ne] at h2
      intro e; rw [e] at h2; exact h2 rfl
    obtain ⟨g1, g2⟩ := hput { atom := atom, data := v, mark := mark, filled := now, expiry := now + lease, unacked := old }
      (makeRoom (l.filter fun x => x.atom / 4 != atom / 4) cap) rfl (by show now < now + lease; omega) rfl rfl hmem
    split
    · refine g2.trans ?_; split
      · rfl
      · rename_i h; rw [hroom h]
    · refine g1.trans ?_; split
      · rfl
      · rename_i h; rw [hroom h]

/-- A fill adds one line at most to a cache that has room for it. -/
theorem heldLines_fillSector (l : List Sector) (cap atom now lease mark hint : Nat) (v : Vec) :
    heldLines (fillSector l cap atom v mark now lease hint) ≤ heldLines l + 1 := by
  have hsub : ∀ m : List Nat, m ⊆ atom / 4 :: l.map (fun x => x.atom / 4) → m.eraseDups.length ≤ heldLines l + 1 := by
    intro m hm
    refine Nat.le_trans (heldLines_le hm) ?_
    rw [List.eraseDups_cons, List.length_cons]
    exact Nat.succ_le_succ (heldLines_le (List.filter_sublist.subset))
  apply hsub
  unfold fillSector
  dsimp only
  have hmk : ∀ m : List Sector, makeRoom m cap ⊆ m := fun m => makeRoom_subset m cap
  intro x hx
  obtain ⟨y, hy, rfl⟩ := List.mem_map.1 hx
  have key : y.atom = atom ∨ y ∈ l := by
    split at hy
    · rcases List.mem_cons.1 hy with h | h
      · left; rw [h]
      · right
        rcases List.mem_append.1 h with h | h <;> exact (List.mem_filter.1 (List.mem_filter.1 h).1).1
    · split at hy
      · rcases List.mem_append.1 hy with h | h
        · right; exact (List.mem_filter.1 (hmk _ h)).1
        · left; rw [List.mem_singleton.1 h]
      · rcases List.mem_cons.1 hy with h | h
        · left; rw [h]
        · right; exact (List.mem_filter.1 (hmk _ h)).1
  rcases key with h | h
  · rw [h]; exact List.mem_cons_self ..
  · exact List.mem_cons_of_mem _ (List.mem_map.2 ⟨y, h, rfl⟩)

theorem heldLines_useLine (l : List Sector) (atom : Nat) : heldLines (useLine l atom) ≤ heldLines l := by
  apply heldLines_le
  intro x hx
  obtain ⟨y, hy, rfl⟩ := List.mem_map.1 hx
  rcases List.mem_append.1 hy with h | h <;> exact List.mem_map.2 ⟨y, (List.mem_filter.1 h).1, rfl⟩

/-! ### The L2 of a home -/

/-- From s to t only L2s have changed, and events have been counted. -/
structure State.L2Only (s t : State) : Prop where
  die : ∀ d, t.die d = { s.die d with l2 := (t.die d).l2 }
  rest : t = { s with dies := t.dies, evBuf := t.evBuf }

theorem State.L2Only.refl (s : State) : s.L2Only s := ⟨fun _ => rfl, rfl⟩

theorem State.L2Only.trans {s t u : State} (h : s.L2Only t) (g : t.L2Only u) : s.L2Only u :=
  ⟨fun d => by rw [g.die d, h.die d], by rw [g.rest, h.rest]⟩

theorem State.L2Only.noteCache {s t : State} (h : s.L2Only t) (d : Nat) (c : Option Nat) (src n : Nat) (who : List (Nat × Bool)) :
    s.L2Only (t.noteCache d c src n who) := by
  refine h.trans ?_
  unfold State.noteCache
  split
  · exact .refl t
  · exact ⟨fun _ => rfl, rfl⟩

theorem State.L2Only.setDie {s t : State} (h : s.L2Only t) (d : Nat) (x : Die) (hx : x = { t.die d with l2 := x.l2 }) :
    s.L2Only (t.setDie d x) := by
  refine h.trans ⟨fun e => ?_, rfl⟩
  by_cases he : e = d
  · subst he; rw [State.die_setDie]; exact hx
  · rw [State.die_setDie_other _ _ he]

theorem Die.l2Use_rest (d : Die) (line : Nat) (w : Bool) : d.l2Use line w = { d with l2 := (d.l2Use line w).l2 } := by
  unfold Die.l2Use; split <;> rfl

/-- An access at the L2 of its home changes only that L2. -/
theorem State.l2Only_l2Touch (s : State) (pa : Nat) (pl : Option L2Place) (w : Bool) : s.L2Only (s.l2Touch pa pl w) := by
  unfold State.l2Touch
  split
  · dsimp only
    split
    · exact (L2Only.noteCache (.refl s) ..).setDie _ _ (Die.l2Use_rest ..)
    · split
      · split
        · exact (L2Only.noteCache (.refl s) ..).noteCache ..
        · refine L2Only.setDie ?_ _ _ rfl
          split
          · exact ((((L2Only.refl s).noteCache ..).noteCache ..).noteCache ..).noteCache ..
          · exact (((L2Only.refl s).noteCache ..).noteCache ..).noteCache ..
      · exact (L2Only.noteCache (.refl s) ..).noteCache ..
  · exact .refl s

theorem State.L2Only.wrote {s t : State} (h : s.L2Only t) : s.Wrote t [] := by
  obtain ⟨hd, hr⟩ := h
  have e : ∀ d, t.die d = { s.die d with rdc := (t.die d).rdc, tlb := (t.die d).tlb, l2 := (t.die d).l2 } := fun d => by
    have : (t.die d).rdc = (s.die d).rdc ∧ (t.die d).tlb = (s.die d).tlb := by rw [hd d]; exact ⟨rfl, rfl⟩
    rw [this.1, this.2]; exact hd d
  refine ⟨by rw [hr]; rfl, fun _ _ _ => by rw [hr], fun _ => ?_, fun _ => ?_, fun _ _ => ?_, e, State.fills_same ?_, State.claims_same ?_, by rw [hr]; rfl⟩
  · rw [hr]; exact ⟨id, fun _ => id⟩
  · rw [hr]; exact ⟨id, fun _ => id⟩
  · rw [hr]; rfl
  · rw [hr]
  · rw [hr]

theorem State.Wrote.l2Touch (s : State) (pa : Nat) (pl : Option L2Place) (w : Bool) : s.Wrote (s.l2Touch pa pl w) [] :=
  (s.l2Only_l2Touch pa pl w).wrote

theorem State.l2Touch_rdc (s : State) (pa : Nat) (pl : Option L2Place) (w : Bool) (e : Nat) :
    ((s.l2Touch pa pl w).die e).rdc = (s.die e).rdc := by
  rw [(s.l2Only_l2Touch pa pl w).die e]

theorem State.l2Touch_l1 (s : State) (pa : Nat) (pl : Option L2Place) (w : Bool) (e f : Nat) :
    (s.l2Touch pa pl w).core e f = s.core e f := by
  rw [(s.l2Only_l2Touch pa pl w).rest]; rfl

theorem State.lookAtom_l2Touch (s : State) (pa : Nat) (pl : Option L2Place) (w : Bool) (d c a : Nat) :
    (s.l2Touch pa pl w).lookAtom d (some c) a = s.lookAtom d (some c) a := by
  have h := s.l2Only_l2Touch pa pl w
  exact State.lookAtom_congr (by rw [State.l2Touch_l1]) (State.l2Touch_rdc ..) (by rw [h.rest]) (by rw [h.rest]) (by rw [h.rest])
    (by rw [h.rest]) a

/-! ### L1 and RDC -/

theorem State.Wrote.cachesAfter {s x : State} {d c : Nat} (h : s.Wrote x []) (hc : x.core d c = s.core d c) (l1 : List Sector)
    (tlb : List TlbEntry) (reuse : List ReuseEntry) :
    s.Wrote (x.setCore d c { s.core d c with l1 := l1, tlb := tlb, reuse := reuse }) [] := by
  rw [← hc]; exact h.quiet (.caches x d c l1 tlb reuse)

theorem Core.killLoads_rest (k : Core) (f : ReuseLoad → Bool) : k.killLoads f = { k with reuse := (k.killLoads f).reuse } := rfl

theorem State.Wrote.fillL1 (s : State) (d c atom : Nat) (v : Vec) (m h : Nat) : s.Wrote (s.fillL1 d c atom v m h) [] := by
  unfold State.fillL1
  dsimp only
  have hk : ∀ l1 : List Sector, ∀ k' : Core, (k' = s.core d c ∨ ∃ f, k' = (s.core d c).killLoads f) →
      ∃ r, ({ k' with l1 := l1 } : Core) = { s.core d c with l1 := l1, tlb := (s.core d c).tlb, reuse := r } := by
    rintro l1 k' (rfl | ⟨f, rfl⟩)
    · exact ⟨_, rfl⟩
    · exact ⟨_, rfl⟩
  have hn : ∀ n n' : Nat, ∀ w w', s.Wrote ((s.noteCache d (some c) 9 n w).noteCache d (some c) 10 n' w') [] := fun n n' w w' =>
    (State.Wrote.noteCache s d (some c) 9 n w).quiet (.noteCache _ d (some c) 10 n' w')
  obtain ⟨r, hr⟩ := hk (fillSector (s.core d c).l1 l1Lines atom v m s.cycle (s.core d c).lease h)
    (if (if ((s.core d c).l1.any fun x => decide (x.atom / 4 = atom / 4) && decide (x.expiry ≤ s.cycle)) = true then 1 else 0) = 0 then s.core d c
      else (s.core d c).killLoads fun l => l.atoms.any fun a => decide (a / 4 = atom / 4)) (by
        split
        · exact .inr ⟨_, if_neg (by decide)⟩
        · exact .inl (if_pos rfl))
  have hcyc : ∀ n n' : Nat, ∀ w w', ((s.noteCache d (some c) 9 n w).noteCache d (some c) 10 n' w').cycle = s.cycle :=
    fun n n' w w' => (hn n n' w w').cycle
  rw [hcyc, hr]
  exact State.Wrote.cachesAfter (hn _ _ _ _) (by rw [State.noteCache_core, State.noteCache_core]) _ _ _

theorem State.Wrote.fillRdc (s : State) (d atom : Nat) (v : Vec) (m h : Nat) : s.Wrote (s.fillRdc d atom v m h) [] :=
  .dieCaches s d _ _ _

theorem State.Wrote.useL1 (s : State) (d c atom : Nat) : s.Wrote (s.useL1 d c atom) [] := .caches s d c _ _ _
theorem State.Wrote.useRdc (s : State) (d atom : Nat) : s.Wrote (s.useRdc d atom) [] := .dieCaches s d _ _ _

/-- What a read does, in order: the L1 of its core, then the RDC of its die, then the L2 of the home. -/
theorem State.noteRead_stages {P Q R : State → Prop} {s : State} {d : Nat} {c : Option Nat} {pa : Nat} {pl : L2Place} {v : Vec} {m : Nat}
    (h : P s) (note : ∀ x e f src n who, P x → P (State.noteCache x e f src n who))
    (skip : ∀ x, P x → Q x) (use1 : ∀ x k, c = some k → P x → Q (State.useL1 x d k (pa / 32)))
    (fill1 : ∀ x k, c = some k → P x → Q (State.fillL1 x d k (pa / 32) v m pl.hint))
    (noteQ : ∀ x e f src n who, Q x → Q (State.noteCache x e f src n who)) (skipQ : ∀ x, Q x → R x)
    (useR : ∀ x, Q x → R (State.useRdc x d (pa / 32)))
    (fillR : ∀ x k, homeOf pa = .dram k → k ≠ d → Q x → R (State.fillRdc x d (pa / 32) v m pl.hint))
    (l2 : ∀ x, R x → R (State.l2Touch x pa (some pl) false)) : R (s.noteRead d c pa pl v m) := by
  unfold State.noteRead
  dsimp only
  have hq : ∀ x : State, Q x → ∀ inL1 : Bool, R (if inL1 = true then x else
      match homeOf pa with
      | .dram k =>
        if k = d then x.l2Touch pa (some pl) false
        else
          if (findSector (x.die d).rdc (pa / 32) x.cycle).isSome = true then
            (x.noteCache d none (if (findSector (x.die d).rdc (pa / 32) x.cycle).isSome = true then 67 else 68) 1 s.curWho).useRdc d (pa / 32)
          else (if pl.hint = 3 then
              x.noteCache d none (if (findSector (x.die d).rdc (pa / 32) x.cycle).isSome = true then 67 else 68) 1 s.curWho
            else (x.noteCache d none (if (findSector (x.die d).rdc (pa / 32) x.cycle).isSome = true then 67 else 68) 1 s.curWho).fillRdc d
              (pa / 32) v m pl.hint).l2Touch pa (some pl) false
      | _ => x) := by
    intro x hx inL1
    split
    · exact skipQ _ hx
    · split
      · rename_i k hk
        split
        · exact l2 _ (skipQ _ hx)
        · rename_i hne
          split
          · exact useR _ (noteQ _ _ _ _ _ _ hx)
          · refine l2 _ ?_
            split
            · exact skipQ _ (noteQ _ _ _ _ _ _ hx)
            · exact fillR _ k hk hne (noteQ _ _ _ _ _ _ hx)
      · exact skipQ _ hx
  refine hq _ ?_ _
  cases c with
  | none => exact skip _ h
  | some c =>
    dsimp only
    split
    · exact use1 _ c rfl (note _ _ _ _ _ _ h)
    · split
      · exact skip _ (note _ _ _ _ _ _ h)
      · exact fill1 _ c rfl (note _ _ _ _ _ _ h)

theorem State.Wrote.noteRead (s : State) (d : Nat) (c : Option Nat) (pa : Nat) (pl : L2Place) (v : Vec) (m : Nat) :
    s.Wrote (s.noteRead d c pa pl v m) [] :=
  State.noteRead_stages (P := fun x => s.Wrote x []) (Q := fun x => s.Wrote x []) (R := fun x => s.Wrote x []) (.refl s)
    (fun _ _ _ _ _ _ h => h.quiet (.noteCache ..)) (fun _ h => h) (fun _ _ _ h => h.quiet (.useL1 ..))
    (fun _ _ _ h => h.quiet (.fillL1 ..)) (fun _ _ _ _ _ _ h => h.quiet (.noteCache ..)) (fun _ h => h) (fun _ h => h.quiet (.useRdc ..))
    (fun _ _ _ _ h => h.quiet (.fillRdc ..)) fun _ h => h.quiet (.l2Touch ..)

theorem Core.lease_pos (k : Core) : 0 < k.lease := by unfold Core.lease; omega

/-- From s to t the core sees every atom as before, and its L1 and its die's RDC hold at most i and j lines more. -/
structure State.Keeps (s t : State) (d c i j : Nat) : Prop where
  look : ∀ a, t.lookAtom d (some c) a = s.lookAtom d (some c) a
  l1 : heldLines (t.core d c).l1 ≤ heldLines (s.core d c).l1 + i
  rdc : heldLines (t.die d).rdc ≤ heldLines (s.die d).rdc + j

theorem State.Keeps.refl (s : State) (d c : Nat) : s.Keeps s d c 0 0 := ⟨fun _ => rfl, Nat.le_refl _, Nat.le_refl _⟩

theorem State.Keeps.trans {s t u : State} {d c i j i' j' : Nat} (h : s.Keeps t d c i j) (g : t.Keeps u d c i' j') :
    s.Keeps u d c (i + i') (j + j') :=
  ⟨fun a => (g.look a).trans (h.look a), by have := h.l1; have := g.l1; omega, by have := h.rdc; have := g.rdc; omega⟩

theorem State.Keeps.more {s t : State} {d c i j i' j' : Nat} (h : s.Keeps t d c i j) (hi : i ≤ i') (hj : j ≤ j') : s.Keeps t d c i' j' :=
  ⟨h.look, by have := h.l1; omega, by have := h.rdc; omega⟩

theorem State.keeps_noteCache (s : State) (d c e : Nat) (f : Option Nat) (src n : Nat) (who : List (Nat × Bool)) :
    s.Keeps (s.noteCache e f src n who) d c 0 0 :=
  ⟨State.lookAtom_noteCache s d c e f src n who, by rw [State.noteCache_core]; exact Nat.le_refl _,
    by rw [State.noteCache_die]; exact Nat.le_refl _⟩

theorem State.keeps_l2Touch (s : State) (d c pa : Nat) (pl : Option L2Place) (w : Bool) : s.Keeps (s.l2Touch pa pl w) d c 0 0 :=
  ⟨State.lookAtom_l2Touch s pa pl w d c, by rw [State.l2Touch_l1]; exact Nat.le_refl _, by rw [State.l2Touch_rdc]; exact Nat.le_refl _⟩

/-- How a core sees an atom follows from what its L1 and its die's RDC have of it. -/
theorem State.lookAtom_ext {x y : State} {d c a : Nat}
    (h1 : (findSector (x.core d c).l1 a x.cycle).map (fun z => (z.data, z.mark)) =
      (findSector (y.core d c).l1 a y.cycle).map fun z => (z.data, z.mark))
    (h2 : (findSector (x.die d).rdc a x.cycle).map (fun z => (z.data, z.mark)) =
      (findSector (y.die d).rdc a y.cycle).map fun z => (z.data, z.mark))
    (h4 : x.mem = y.mem) (h5 : x.poison = y.poison) (h6 : x.lost = y.lost) : x.lookAtom d (some c) a = y.lookAtom d (some c) a := by
  unfold State.lookAtom State.atomData State.atomMark
  dsimp only
  rw [h2, h4, h5, h6]
  cases hx : findSector (x.core d c).l1 a x.cycle <;> cases hy : findSector (y.core d c).l1 a y.cycle <;> rw [hx, hy] at h1 <;>
    simp at h1 ⊢
  exact h1

theorem State.keeps_useL1 (s : State) (d c atom : Nat) : s.Keeps (s.useL1 d c atom) d c 0 0 := by
  have hl : ((s.useL1 d c atom).core d c).l1 = useLine (s.core d c).l1 atom := by unfold State.useL1; rw [State.core_setCore]
  refine ⟨fun a => State.lookAtom_ext ?_ rfl rfl rfl rfl, ?_, Nat.le_refl _⟩
  · rw [hl, findSector_useLine]; rfl
  · rw [hl]; exact heldLines_useLine _ _

theorem State.keeps_useRdc (s : State) (d c atom : Nat) : s.Keeps (s.useRdc d atom) d c 0 0 := by
  have hl : ((s.useRdc d atom).die d).rdc = useLine (s.die d).rdc atom := by unfold State.useRdc; rw [State.die_setDie]
  refine ⟨fun a => State.lookAtom_ext rfl ?_ rfl rfl rfl, Nat.le_refl _, ?_⟩
  · rw [hl, findSector_useLine]; rfl
  · rw [hl]; exact heldLines_useLine _ _

theorem State.fillL1_l1 (s : State) (d c atom : Nat) (v : Vec) (m h : Nat) :
    ((s.fillL1 d c atom v m h).core d c).l1 = fillSector (s.core d c).l1 l1Lines atom v m s.cycle (s.core d c).lease h := by
  unfold State.fillL1
  dsimp only
  rw [State.core_setCore]
  show fillSector _ _ _ _ _ (State.cycle _) _ _ = _
  rw [((State.Wrote.noteCache s d (some c) 9 _ _).quiet (.noteCache _ d (some c) 10 _ _)).cycle]

theorem State.fillL1_marks (s : State) (d c atom : Nat) (v : Vec) (m h : Nat) :
    (s.fillL1 d c atom v m h).poison = s.poison ∧ (s.fillL1 d c atom v m h).lost = s.lost := by
  unfold State.fillL1
  dsimp only
  exact ⟨(State.noteCache_rest ..).2.1.trans (State.noteCache_rest ..).2.1,
    (State.noteCache_rest ..).2.2.1.trans (State.noteCache_rest ..).2.2.1⟩

/-- A sector filled with what the core sees changes nothing that it sees of that line, and of any where the L1 has room. -/
theorem State.look_fillL1 {s : State} {d c atom : Nat} {v : Vec} {m h : Nat} (hs : s.lookAtom d (some c) atom = some (v, m)) {a : Nat}
    (hr : a / 4 = atom / 4 ∨ heldLines (s.core d c).l1 < l1Lines) :
    (s.fillL1 d c atom v m h).lookAtom d (some c) a = s.lookAtom d (some c) a := by
  have w := State.Wrote.fillL1 s d c atom v m h
  have hd : (s.fillL1 d c atom v m h).die d = s.die d := by
    unfold State.fillL1; dsimp only; rw [State.die_setCore, State.noteCache_die, State.noteCache_die]
  obtain ⟨hp, hq⟩ := State.fillL1_marks s d c atom v m h
  have hf := findSector_fillSector (s.core d c).l1 l1Lines atom s.cycle (s.core d c).lease m h v (Core.lease_pos _) a hr
  by_cases ha : a = atom
  · subst ha
    rw [hs]
    rw [if_pos rfl] at hf
    unfold State.lookAtom
    dsimp only
    rw [State.fillL1_l1, w.cycle]
    cases hx : findSector (fillSector (s.core d c).l1 l1Lines a v m s.cycle (s.core d c).lease h) a s.cycle with
    | none => rw [hx] at hf; simp at hf
    | some x => rw [hx] at hf; simpa using hf
  · refine State.lookAtom_ext ?_ (by rw [hd, w.cycle]) w.mem hp hq
    rw [State.fillL1_l1, w.cycle, hf, if_neg ha]

theorem State.look_fillRdc {s : State} {d c atom : Nat} {v : Vec} {m h : Nat} (hs : s.lookAtom d (some c) atom = some (v, m))
    (hh : ∀ k, homeOf (32 * atom) = .dram k → k ≠ d) {a : Nat} (hr : a / 4 = atom / 4 ∨ heldLines (s.die d).rdc < rdcLines d) :
    (s.fillRdc d atom v m h).lookAtom d (some c) a = s.lookAtom d (some c) a := by
  have hl : ((s.fillRdc d atom v m h).die d).rdc = fillSector (s.die d).rdc (rdcLines d) atom v m s.cycle (s.rdcLease d) h := by
    unfold State.fillRdc; rw [State.die_setDie]
  have hf := findSector_fillSector (s.die d).rdc (rdcLines d) atom s.cycle (s.rdcLease d) m h v
    (by unfold State.rdcLease Die.lease; split <;> omega) a hr
  by_cases ha : a = atom
  · subst ha
    unfold State.lookAtom at hs ⊢
    have e1 : (s.fillRdc d a v m h).core d c = s.core d c := rfl
    have e2 : (s.fillRdc d a v m h).cycle = s.cycle := rfl
    dsimp only at hs ⊢
    rw [e1, e2, hl]
    cases hx : findSector (s.core d c).l1 a s.cycle with
    | some x => rfl
    | none =>
      dsimp only
      cases ho : homeOf (32 * a) with
      | regs => rfl
      | host => rfl
      | dram k =>
        dsimp only
        rw [if_neg (hh k ho), if_neg (hh k ho), hf, if_pos rfl]
        rw [hx, ho] at hs
        simp only [hh k ho, if_false] at hs
        rw [hs]
  · exact State.lookAtom_ext rfl (by rw [hl]; exact hf.trans (if_neg ha)) rfl rfl rfl

theorem State.keeps_fillL1 {s : State} {d c atom : Nat} {v : Vec} {m h : Nat} (hs : s.lookAtom d (some c) atom = some (v, m))
    (hr : heldLines (s.core d c).l1 < l1Lines) : s.Keeps (s.fillL1 d c atom v m h) d c 1 0 := by
  have hd : (s.fillL1 d c atom v m h).die d = s.die d := by
    unfold State.fillL1; dsimp only; rw [State.die_setCore, State.noteCache_die, State.noteCache_die]
  exact ⟨fun _ => State.look_fillL1 hs (.inr hr), by rw [State.fillL1_l1]; exact heldLines_fillSector .., by rw [hd]; exact Nat.le_refl _⟩

theorem State.keeps_fillRdc {s : State} {d c atom : Nat} {v : Vec} {m h : Nat} (hs : s.lookAtom d (some c) atom = some (v, m))
    (hh : ∀ k, homeOf (32 * atom) = .dram k → k ≠ d) (hr : heldLines (s.die d).rdc < rdcLines d) :
    s.Keeps (s.fillRdc d atom v m h) d c 0 1 :=
  ⟨fun _ => State.look_fillRdc hs hh (.inr hr), Nat.le_refl _, by
    unfold State.fillRdc; rw [State.die_setDie]; exact heldLines_fillSector ..⟩

theorem homeOf_atom (pa : Nat) : homeOf (32 * (pa / 32)) = homeOf pa := by
  have h (k : Nat) : (32 * (pa / 32) < 32 * k) = (pa < 32 * k) := by simp only [eq_iff_iff]; omega
  have h36 := h (2 ^ 31); have h37 := h (2 ^ 32); have h47 := h (2 ^ 42); have h48 := h (2 ^ 43)
  simp only [Nat.reducePow, Nat.reduceMul] at h36 h37 h47 h48
  unfold homeOf
  simp only [Nat.reducePow, h36, h37, h47, h48]

/-- A read leaves what the core sees as it was, where the caches have room. -/
theorem State.keeps_noteRead {s : State} {d c pa : Nat} {pl : L2Place} {v : Vec} {m : Nat} (h : s.lookAtom d (some c) (pa / 32) = some (v, m))
    (h1 : heldLines (s.core d c).l1 < l1Lines) (h2 : heldLines (s.die d).rdc < rdcLines d) :
    s.Keeps (s.noteRead d (some c) pa pl v m) d c 1 1 := by
  refine State.noteRead_stages (P := fun x => s.Keeps x d c 0 0) (Q := fun x => s.Keeps x d c 1 0) (R := fun x => s.Keeps x d c 1 1)
    (.refl s d c) (fun x _ _ _ _ _ g => g.trans (x.keeps_noteCache ..)) (fun _ g => g.more (by omega) (by omega)) ?_ ?_
    (fun x _ _ _ _ _ g => g.trans (x.keeps_noteCache ..)) (fun _ g => g.more (by omega) (by omega))
    (fun x g => (g.trans (x.keeps_useRdc ..)).more (by omega) (by omega)) ?_ fun x g => g.trans (x.keeps_l2Touch ..)
  · rintro x k ⟨⟩ g; exact (g.trans (x.keeps_useL1 ..)).more (by omega) (by omega)
  · rintro x k ⟨⟩ g
    exact g.trans (State.keeps_fillL1 ((g.look _).trans h) (by have := g.l1; omega))
  · intro x k hk hne g
    refine (g.trans (State.keeps_fillRdc ((g.look _).trans h) ?_ (by have := g.rdc; omega))).more (by omega) (by omega)
    intro j hj; rw [homeOf_atom, hk] at hj; cases hj; exact hne

/-- A read leaves what the core sees of the line read as it was. -/
theorem State.look_noteRead {s : State} {d c pa : Nat} {pl : L2Place} {v : Vec} {m : Nat} (h : s.lookAtom d (some c) (pa / 32) = some (v, m))
    {a : Nat} (ha : a / 4 = pa / 32 / 4) : (s.noteRead d (some c) pa pl v m).lookAtom d (some c) a = s.lookAtom d (some c) a := by
  let P (x : State) : Prop := x.lookAtom d (some c) (pa / 32) = some (v, m) ∧ x.lookAtom d (some c) a = s.lookAtom d (some c) a
  have keep : ∀ x y i j, P x → x.Keeps y d c i j → P y := fun x y i j p k => ⟨(k.look _).trans p.1, (k.look _).trans p.2⟩
  refine (State.noteRead_stages (P := P) (Q := P) (R := P) ⟨h, rfl⟩ (fun x _ _ _ _ _ g => keep _ _ _ _ g (x.keeps_noteCache ..)) (fun _ g => g) ?_ ?_
    (fun x _ _ _ _ _ g => keep _ _ _ _ g (x.keeps_noteCache ..)) (fun _ g => g) (fun x g => keep _ _ _ _ g (x.keeps_useRdc ..)) ?_
    fun x g => keep _ _ _ _ g (x.keeps_l2Touch ..)).2
  · rintro x k ⟨⟩ g; exact keep _ _ _ _ g (x.keeps_useL1 ..)
  · rintro x k ⟨⟩ g
    exact ⟨(State.look_fillL1 g.1 (.inl rfl)).trans g.1, (State.look_fillL1 g.1 (.inl ha)).trans g.2⟩
  · intro x k hk hne g
    have hh : ∀ j, homeOf (32 * (pa / 32)) = .dram j → j ≠ d := by
      intro j hj; rw [homeOf_atom, hk] at hj; cases hj; exact hne
    exact ⟨(State.look_fillRdc g.1 hh (.inl rfl)).trans g.1, (State.look_fillRdc g.1 hh (.inl ha)).trans g.2⟩

theorem State.Wrote.acquire (s : State) (d c scope : Nat) (h : Option Nat) (r : SRef) : s.Wrote (s.acquire d c scope h r) [] := by
  unfold State.acquire
  dsimp only
  have e : ∀ l1 reuse n who, s.Wrote ((s.noteCache d (some c) 10 n who).setCore d c { s.core d c with l1 := l1, reuse := reuse }) [] :=
    fun l1 reuse n who => State.Wrote.cachesAfter (.noteCache s d (some c) 10 n who) (State.noteCache_core ..) l1 (s.core d c).tlb reuse
  split
  · exact (e _ _ _ _).quiet (.spoilFills ..)
  · exact ((e _ _ _ _).quiet (.spoilFills ..)).quiet (.dieCaches _ _ _ _ _)

theorem State.Wrote.tlbUse (s : State) (d c pdom page : Nat) : s.Wrote (s.tlbUse d c pdom page) [] := by
  unfold State.tlbUse
  split
  · exact .refl s
  · split
    · exact .caches s d c _ _ _
    · exact .refl s

theorem State.Wrote.tlbUseAll (s : State) (st : Strand) (l : List (Nat × Nat)) : s.Wrote (s.tlbUseAll st l) [] := by
  unfold State.tlbUseAll
  have : ∀ x : State, s.Wrote x [] → s.Wrote (l.foldl (fun s (va, _) =>
      if addrKind va = .virt then s.tlbUse st.at_.die st.at_.core st.pdom.toNat (pageOf va) else s) x) [] := by
    induction l with
    | nil => exact fun x h => h
    | cons p l ih =>
      intro x h
      refine ih _ ?_
      dsimp only
      split
      · exact h.quiet (.tlbUse _ _ _ _ _)
      · exact h
  exact this s (.refl s)

/-- What a core's caches, memory and marks are is what its loads see: states that agree in them look the same. -/
structure State.Alike (x y : State) (d c : Nat) : Prop where
  l1 : (x.core d c).l1 = (y.core d c).l1
  rdc : (x.die d).rdc = (y.die d).rdc
  cycle : x.cycle = y.cycle
  mem : x.mem = y.mem
  poison : x.poison = y.poison
  lost : x.lost = y.lost
  out : (x.core d c).outstanding = (y.core d c).outstanding

theorem State.Alike.look {x y : State} {d c : Nat} (h : x.Alike y d c) (a : Nat) : x.lookAtom d (some c) a = y.lookAtom d (some c) a :=
  State.lookAtom_congr h.l1 h.rdc h.cycle h.mem h.poison h.lost a

theorem State.Alike.trans {x y z : State} {d c : Nat} (h : x.Alike y d c) (g : y.Alike z d c) : x.Alike z d c :=
  ⟨h.l1.trans g.l1, h.rdc.trans g.rdc, h.cycle.trans g.cycle, h.mem.trans g.mem, h.poison.trans g.poison, h.lost.trans g.lost,
    h.out.trans g.out⟩

theorem State.alike_tlbUse (s : State) (d c pdom page : Nat) : (s.tlbUse d c pdom page).Alike s d c := by
  unfold State.tlbUse
  split
  · exact ⟨rfl, rfl, rfl, rfl, rfl, rfl, rfl⟩
  · split
    · exact ⟨by rw [State.core_setCore], rfl, rfl, rfl, rfl, rfl, by rw [State.core_setCore]⟩
    · exact ⟨rfl, rfl, rfl, rfl, rfl, rfl, rfl⟩

theorem State.alike_tlbUseAll (s : State) (st : Strand) (l : List (Nat × Nat)) : (s.tlbUseAll st l).Alike s st.at_.die st.at_.core := by
  unfold State.tlbUseAll
  have : ∀ x : State, x.Alike s st.at_.die st.at_.core → (l.foldl (fun s (va, _) =>
      if addrKind va = .virt then s.tlbUse st.at_.die st.at_.core st.pdom.toNat (pageOf va) else s) x).Alike s st.at_.die st.at_.core := by
    induction l with
    | nil => exact fun x h => h
    | cons p l ih =>
      intro x h
      refine ih _ ?_
      dsimp only
      split
      · exact (State.alike_tlbUse _ _ _ _ _).trans h
      · exact h
  exact this s ⟨rfl, rfl, rfl, rfl, rfl, rfl, rfl⟩

/-- What an acquire leaves of the caches, and what it does not touch. -/
theorem State.acquire_l1 (s : State) (d c scope : Nat) (b : Option Nat) (r : SRef) : ((s.acquire d c scope b r).core d c).l1 =
    if scope = 0 then (s.core d c).l1 else (s.core d c).l1.filter fun x => decide (x.unacked > 0) := by
  unfold State.acquire
  dsimp only
  split
  · show (State.core (State.setCore _ _ _ _) _ _).l1 = _; rw [State.core_setCore]
  · show (State.core (State.setCore _ _ _ _) _ _).l1 = _; rw [State.core_setCore]

theorem State.acquire_out (s : State) (d c scope : Nat) (b : Option Nat) (r : SRef) :
    ((s.acquire d c scope b r).core d c).outstanding = (s.core d c).outstanding := by
  unfold State.acquire
  dsimp only
  split
  · show (State.core (State.setCore _ _ _ _) _ _).outstanding = _; rw [State.core_setCore]; rfl
  · show (State.core (State.setCore _ _ _ _) _ _).outstanding = _; rw [State.core_setCore]; rfl

theorem State.acquire_rdc (s : State) (d c scope : Nat) (b : Option Nat) (r : SRef) : ((s.acquire d c scope b r).die d).rdc =
    if scope < 2 then (s.die d).rdc else (s.die d).rdc.filter fun x => decide (x.unacked > 0) := by
  unfold State.acquire
  dsimp only
  split
  · show ((State.noteCache _ _ _ _ _ _).die d).rdc = _
    rw [State.noteCache_die]
  · rw [State.die_setDie]
    show ((State.noteCache _ _ _ _ _ _).die d).rdc.filter _ = _
    rw [State.noteCache_die]

theorem State.acquire_rest (s : State) (d c scope : Nat) (b : Option Nat) (r : SRef) :
    (s.acquire d c scope b r).mem = s.mem ∧ (s.acquire d c scope b r).poison = s.poison ∧ (s.acquire d c scope b r).lost = s.lost ∧
      (s.acquire d c scope b r).cycle = s.cycle := by
  unfold State.acquire
  dsimp only
  split <;> exact State.noteCache_rest ..

theorem State.alike_acquire {x y : State} {d c : Nat} (h : x.Alike y d c) (scope : Nat) (b : Option Nat) (r : SRef) :
    (x.acquire d c scope b r).Alike (y.acquire d c scope b r) d c := by
  obtain ⟨x1, x2, x3, x4⟩ := x.acquire_rest d c scope b r
  obtain ⟨y1, y2, y3, y4⟩ := y.acquire_rest d c scope b r
  refine ⟨?_, ?_, x4.trans (h.cycle.trans y4.symm), x1.trans (h.mem.trans y1.symm), x2.trans (h.poison.trans y2.symm),
    x3.trans (h.lost.trans y3.symm), ?_⟩
  · rw [State.acquire_l1, State.acquire_l1, h.l1]
  · rw [State.acquire_rdc, State.acquire_rdc, h.rdc]
  · rw [State.acquire_out, State.acquire_out, h.out]

/-! ### The address phase -/

theorem State.checkLane_at {s : State} {st : Strand} {a : AccClass} {va n pa : Nat} (h : s.At st a va n pa) :
    ∃ g b p, s.checkLane st a va n = .ok (.phys pa g b p) := by
  obtain ⟨h1, h2, l, h3, h4, h5, h6, h7⟩ := h
  refine ⟨l.sg, l.sbase, if l.poe then l.poid else st.partid.toNat, ?_⟩
  have hp : permCauses l a = 0 := by
    unfold permCauses
    cases a
    · simp [h6 (by decide)]
    · simp [h7 (by decide)]
    · simp [h6 (by decide), h7 (by decide)]
  have hu : s.usable l (partOf va) = true := by unfold State.usable; rw [h4]
  unfold State.checkLane
  simp only [h2, h3, hu, if_true, h1, ne_eq, not_true_eq_false, if_false, hp]
  unfold Leaf.target
  simp only [h4, h5]
  exact if_pos (by decide)

/-- Lanes that all check give a ready address phase, with their targets in order. -/
theorem State.addrPhase_ready {s : State} {st : Strand} {a : AccClass} {lanes : List (Nat × Nat)} {tgt : Nat × Nat → Target}
    (h : ∀ l ∈ lanes, s.checkLane st a l.1 l.2 = .ok (tgt l)) : s.addrPhase st a lanes = .ready (lanes.map tgt) := by
  have hm : (lanes.map fun (va, n) => (va, s.checkLane st a va n)) = lanes.map fun l => (l.1, LaneCheck.ok (tgt l)) := by
    apply List.map_congr_left
    intro l hl
    show (l.1, s.checkLane st a l.1 l.2) = _
    rw [h l hl]
  unfold State.addrPhase
  dsimp only
  rw [hm]
  have h1 : (lanes.map fun l => (l.1, LaneCheck.ok (tgt l))).find? (fun x => decide (x.2 = .walk)) = none := by
    rw [List.find?_eq_none]; intro x hx; obtain ⟨l, -, rfl⟩ := List.mem_map.1 hx; simp
  have h2 : ∀ f : Nat × LaneCheck → Option (Nat × BitVec 64), (∀ n t, f (n, .ok t) = none) →
      (lanes.map fun l => (l.1, LaneCheck.ok (tgt l))).filterMap f = [] := by
    intro f hf
    rw [List.filterMap_eq_nil_iff]; intro x hx; obtain ⟨l, -, rfl⟩ := List.mem_map.1 hx; exact hf _ _
  have h3 : (lanes.map fun l => (l.1, LaneCheck.ok (tgt l))).find? (fun x => decide (x.2 = .fault)) = none := by
    rw [List.find?_eq_none]; intro x hx; obtain ⟨l, -, rfl⟩ := List.mem_map.1 hx; simp
  rw [h1]; dsimp only; rw [h2 _ fun _ _ => rfl]; dsimp only; rw [h3]; dsimp only
  rw [List.filterMap_map]
  congr 1
  exact congrFun (List.filterMap_eq_map' (f := tgt)) lanes

/-! ### The lanes of a load -/

/-- A lane of a load whose bytes the core sees is done at once. -/
theorem State.doLane_load {s : State} {st : Strand} {op : MemOp} {l : Lane} {pa g b p : Nat} {v : Vec} (hk : op.kind = .load)
    (ht : l.tgt = .phys pa g b p) (hr : homeOf pa ≠ .regs)
    (hv : s.lookAtom st.at_.die (some st.at_.core) (pa / 32) = some (v, 0)) :
    s.doLane st op l = .done
      (s.noteRead st.at_.die (some st.at_.core) pa { group := g, base := b, partid := p, hint := op.hint } v 0)
      { l with done := true, rdata := getBytes v (pa % 32) l.size, mark := 0 } := by
  unfold State.doLane
  simp only [ht]
  cases hh : homeOf pa with
  | regs => exact absurd hh hr
  | dram k => simp only [hk, hv]
  | host => simp only [hk, hv]

/-- The lanes of a load whose bytes the core sees are done in order, where the caches have room for those that more than one brings. -/
theorem State.doLanes_load (s₀ : State) (st : Strand) (op : MemOp) (hk : op.kind = .load) (val : Nat → Nat) (ls : List Lane)
    (hl : ∀ l ∈ ls, l.done = false ∧ ∃ pa g b p v, l.tgt = .phys pa g b p ∧ homeOf pa ≠ .regs ∧
      s₀.lookAtom st.at_.die (some st.at_.core) (pa / 32) = some (v, 0) ∧ val l.n = getBytes v (pa % 32) l.size)
    (r : Progress) (hw : s₀.Wrote r.s []) (hs : ∀ a, r.s.lookAtom st.at_.die (some st.at_.core) a =
      s₀.lookAtom st.at_.die (some st.at_.core) a) (hroom : r.s.RoomFor st ls.length) :
    ∃ t, s₀.Wrote t [] ∧ ls.foldl (Progress.lane st op) r =
      { r with s := t, lanes := r.lanes ++ ls.map fun l => { l with done := true, rdata := val l.n, mark := 0 } } := by
  induction ls generalizing r with
  | nil => exact ⟨r.s, hw, by simp⟩
  | cons l ls ih =>
    obtain ⟨hd, pa, g, b, p, v, h1, h2, h3, h4⟩ := hl l (by simp)
    have e := State.doLane_load (op := op) hk h1 h2 ((hs _).trans h3)
    generalize hpl : ({ group := g, base := b, partid := p, hint := op.hint } : L2Place) = pl at e
    have e2 : Progress.lane st op r l = ⟨r.s.noteRead st.at_.die (some st.at_.core) pa pl v 0,
        r.lanes ++ [{ l with done := true, rdata := val l.n, mark := 0 }], r.waits, r.again⟩ := by
      unfold Progress.lane
      rw [hd, e, h4]
      rfl
    have hw2 := hw.quiet (.noteRead r.s st.at_.die (some st.at_.core) pa pl v 0)
    rw [List.foldl_cons, e2]
    cases hls : ls with
    | nil => exact ⟨_, hw2, by simp⟩
    | cons l2 ls2 =>
      rw [← hls]
      have hlen : 1 ≤ ls.length := by rw [hls]; simp
      obtain ⟨hr1, hr2⟩ := hroom.resolve_left (by rw [List.length_cons]; omega)
      rw [List.length_cons] at hr1 hr2
      have hk2 := State.keeps_noteRead (pl := pl) ((hs _).trans h3) (by omega) (by omega)
      obtain ⟨t, ht, he⟩ := ih (fun l' hl' => hl l' (by simp [hl']))
        ⟨r.s.noteRead st.at_.die (some st.at_.core) pa pl v 0,
          r.lanes ++ [{ l with done := true, rdata := val l.n, mark := 0 }], r.waits, r.again⟩ hw2
        (fun a => (hk2.look a).trans (hs a))
        (.inr ⟨by have := hk2.l1; dsimp only; omega, by have := hk2.rdc; dsimp only; omega⟩)
      refine ⟨t, ht, ?_⟩
      rw [he]
      simp

/-! ### The end of an access -/

theorem State.strandAt_cur {s : State} {st : Strand} (h : s.curStrand = some st) : s.strandAt st.at_ = some st := by
  unfold State.curStrand at h
  cases hc : s.cur with
  | none => rw [hc] at h; cases h
  | some r =>
    rw [hc] at h
    have : s.strandAt r = some st := h
    have e := List.find?_some this
    simp only [decide_eq_true_eq] at e
    rw [e]; exact this

theorem State.seen_cur {s t : State} {st : Strand} (h : s.curStrand = some st) (w : s.Wrote t []) : t.seen st = st := by
  unfold State.seen
  rw [w.strandAt, State.strandAt_cur h]

theorem Strand.tick_at (st : Strand) : st.tick.at_ = st.at_ := by rw [st.tick_rest]

theorem Strand.Later.at {st u : Strand} {cycle la : Nat} {pc : Addr} {p : Pend} (h : st.Later u cycle pc la p) :
    u.at_ = st.at_ ∧ u.blocked = none := by
  rcases Nat.eq_zero_or_pos (st.window la) with hz | hz
  · have g := h.1 hz
    exact ⟨by rw [g.rest]; exact st.tick_at, g.ends.free⟩
  · have g := h.2 hz
    exact ⟨by rw [g.rest]; exact st.tick_at, g.ends.free⟩

theorem Strand.OnlyMoved.at {st u : Strand} {cycle : Nat} {pc : Addr} (h : st.OnlyMoved u cycle pc) : u.at_ = st.at_ ∧ u.blocked = none :=
  ⟨by rw [h.rest]; exact st.tick_at, h.ends.free⟩

/-- The strand of a memory instruction that is over does not wait, so the instruction is issued once. -/
theorem State.issueMem_over {s t : State} {st u : Strand} {len : Nat} {f : Strand → MemReq} (hs : s.curStrand = some st)
    (h : s.tryMem st len (f st) = t.putStrand u) (hu : u.at_ = st.at_ ∧ u.blocked = none) (ht : (t.strandAt st.at_).isSome) :
    s.issueMem len f = .next (t.putStrand u) := by
  unfold State.issueMem State.onStrand
  rw [hs]
  dsimp only
  rw [h]
  obtain ⟨x, hx⟩ := Option.isSome_iff_exists.1 ht
  rw [← hu.1] at hx ⊢
  rw [State.strandAt_putStrand, hx]
  simp only [Option.map_some, Option.bind_some, hu.2]

theorem State.Wrote.acquireOf (s : State) (st : Strand) (op : MemOp) : s.Wrote (s.acquireOf st op) [] := by
  unfold State.acquireOf
  split
  · exact .acquire _ _ _ _ _ _
  · exact .refl s

theorem State.Wrote.noteLoad (s : State) (st : Strand) (op : MemOp) : s.Wrote (s.noteLoad st op) [] := by
  unfold State.noteLoad
  dsimp only
  split
  · split
    · exact .refl s
    · exact .caches s st.at_.die st.at_.core (s.core st.at_.die st.at_.core).l1 (s.core st.at_.die st.at_.core).tlb _
  · exact .refl s

/-- What the end of an access does beside its strand: the acquire of a strong one, and the entry of a weak LDV. -/
def State.ending (s : State) (st : Strand) (op : MemOp) : State := (s.acquireOf st op).noteLoad st op

theorem State.Wrote.ending (s : State) (st : Strand) (op : MemOp) : s.Wrote (s.ending st op) [] :=
  (State.Wrote.acquireOf s st op).quiet (.noteLoad _ st op)

theorem State.finishOp_eq (s : State) (st : Strand) (len : Nat) (op : MemOp) (waited : Bool) : s.finishOp st len op waited =
    if op.kind = .store then (s.ending st op).putStrand (((s.ending st op).seen st).retire (s.ending st op).cycle len)
    else (s.ending st op).putStrand
      (((s.ending st op).seen st).retireLong (s.ending st op).cycle len (if waited then 0 else op.la) op.pend) := rfl

theorem State.RoomFor.same {x y : State} {st : Strand} {n : Nat} (h : y.RoomFor st n)
    (h1 : (x.core st.at_.die st.at_.core).l1 = (y.core st.at_.die st.at_.core).l1) (h2 : (x.die st.at_.die).rdc = (y.die st.at_.die).rdc) :
    x.RoomFor st n := by
  unfold State.RoomFor at h ⊢; rw [h1, h2]; exact h

theorem MemOp.pend_clean (op : MemOp) (h : ∀ l ∈ op.lanes, l.mark = 0) :
    op.pend = { writes := op.dest.writes op.lanes, left := 0, arrived := false, flags := 0, causes := 0, tval := 0 } := by
  unfold MemOp.pend
  have : (op.lanes.filter fun l => l.mark != 0 && op.kind != .store) = [] := by
    rw [List.filter_eq_nil_iff]; intro l hl; simp [h l hl]
  rw [this]; rfl

/-- A load whose bytes the core sees. -/
theorem State.tryMem_load {s : State} {st : Strand} {len : Nat} {q : MemReq} {c : BitVec 2} {o : BitVec 1} {val : Nat → Nat}
    {ws : List RegWrite} (hs : s.curStrand = some st) (hk : q.kind = .load) (hc : q.cls = .read) (ho : q.strong = decide (o = 1))
    (hsc : q.scope = c.toNat) (hroom : (s.acquired st o c).RoomFor st q.lanes.length)
    (hl : ∀ l ∈ q.lanes, ∃ pa v, s.At st .read l.2.1 l.2.2.1 pa ∧ homeOf pa ≠ .regs ∧
      (s.acquired st o c).lookAtom st.at_.die (some st.at_.core) (pa / 32) = some (v, 0) ∧ val l.1 = getBytes v (pa % 32) l.2.2.1)
    (hw : ∀ L : List Lane, L.map (fun l => (l.n, l.size, l.rdata)) = q.lanes.map (fun l => (l.1, l.2.2.1, val l.1)) → q.dest.writes L = ws) :
    ∃ t u, s.tryMem st len q = t.putStrand u ∧ s.Wrote t [] ∧ st.Later u s.cycle (st.past len) q.la
      { writes := ws, left := 0, arrived := false, flags := 0, causes := 0, tval := 0 } := by
  -- the targets
  have hck : ∀ l ∈ q.lanes.map fun (_, va, size, _) => (va, size), ∃ t, s.checkLane st .read l.1 l.2 = .ok t := by
    intro l hm
    obtain ⟨x, hx, rfl⟩ := List.mem_map.1 hm
    obtain ⟨pa, v, h1, -⟩ := hl x hx
    obtain ⟨g, b, p, e⟩ := State.checkLane_at h1
    exact ⟨_, e⟩
  let tgt : Nat × Nat → Target := fun l => match s.checkLane st .read l.1 l.2 with | .ok t => t | _ => .opbuf 0
  have htgt : ∀ l ∈ q.lanes.map fun (_, va, size, _) => (va, size), s.checkLane st .read l.1 l.2 = .ok (tgt l) := by
    intro l hm; obtain ⟨t, ht⟩ := hck l hm; simp only [tgt, ht]
  have hready := State.addrPhase_ready htgt
  unfold State.tryMem
  dsimp only
  rw [hc, hready]
  dsimp only
  have hkl : (q.kind != AccKind.load) = false := by rw [hk]; rfl
  rw [hkl]
  simp only [Bool.false_and, Bool.false_eq_true, if_false]
  generalize hop : q.op ((q.lanes.map fun (_, va, size, _) => (va, size)).map tgt) = op
  have hopk : op.kind = .load := by rw [← hop]; exact hk
  have hopd : op.dest = q.dest := by rw [← hop]; rfl
  have hopl : op.la = q.la := by rw [← hop]; rfl
  have hoplanes : op.lanes = q.lanes.map fun l =>
      { n := l.1, va := l.2.1, size := l.2.2.1, tgt := tgt (l.2.1, l.2.2.1), wdata := l.2.2.2, done := false, rdata := 0, mark := 0 } := by
    rw [← hop]
    show (q.lanes.zip ((q.lanes.map fun (_, va, size, _) => (va, size)).map tgt)).map _ = _
    rw [List.map_map, List.zip_map_right, List.map_map]
    have : q.lanes.zip q.lanes = q.lanes.map fun l => (l, l) := by
      generalize q.lanes = l; induction l with
      | nil => rfl
      | cons a l ih => rw [List.zip_cons_cons, ih]; rfl
    rw [this, List.map_map]
    apply List.map_congr_left; intro l _; rfl
  generalize hs1 : (s.tlbUseAll st (q.lanes.map fun (_, va, size, _) => (va, size))).acquireOf st op = s1
  have hw1 : s.Wrote s1 [] := by rw [← hs1]; exact (State.Wrote.tlbUseAll _ _ _).quiet (.acquireOf _ _ _)
  have halike : s1.Alike (s.acquired st o c) st.at_.die st.at_.core := by
    have hal := State.alike_tlbUseAll s st (q.lanes.map fun (_, va, size, _) => (va, size))
    rw [← hs1]
    unfold State.acquireOf State.acquired
    have hst : op.strong = decide (o = 1) := by rw [← hop]; exact ho
    have hsc' : op.scope = c.toNat := by rw [← hop]; exact hsc
    have hks : (op.kind != AccKind.store) = true := by rw [hopk]; rfl
    rw [hst, hks, hsc']
    by_cases h1 : o = 1
    · simp only [h1, decide_true, Bool.true_and, if_true]
      exact State.alike_acquire hal _ _ _
    · simp only [h1, decide_false, Bool.false_and, Bool.false_eq_true, if_false]
      exact hal
  have hlook := halike.look
  obtain ⟨t, ht, hf⟩ := State.doLanes_load s1 st op hopk val op.lanes (fun l hm => by
      rw [hoplanes] at hm
      obtain ⟨x, hx, rfl⟩ := List.mem_map.1 hm
      obtain ⟨pa, v, h1, h2, h3, h4⟩ := hl x hx
      obtain ⟨g, b, p, e⟩ := State.checkLane_at h1
      refine ⟨rfl, pa, g, b, p, v, ?_, h2, (hlook _).trans h3, h4⟩
      simp only [tgt, e]) { s := s1, lanes := [], waits := false, again := false } (.refl s1) (fun _ => rfl)
    (by rw [hoplanes, List.length_map]; exact hroom.same halike.l1 halike.rdc)
  unfold State.advanceOp State.doLanes
  dsimp only
  rw [hf]
  simp only [Bool.false_eq_true, if_false, List.nil_append]
  generalize hop2 : ({ op with lanes := op.lanes.map fun l => { l with done := true, rdata := val l.n, mark := 0 } } : MemOp) = op2
  have hk2 : op2.kind = .load := by rw [← hop2]; exact hopk
  have hw2 : s.Wrote (t.ending st op2) [] := (hw1.quiet ht).quiet (.ending _ _ _)
  refine ⟨t.ending st op2, st.retireLong (t.ending st op2).cycle len op2.la op2.pend, ?_, hw2, ?_⟩
  · rw [State.finishOp_eq, State.seen_cur hs hw2, hk2]
    rfl
  · have hp : op2.pend = { writes := ws, left := 0, arrived := false, flags := 0, causes := 0, tval := 0 } := by
      rw [MemOp.pend_clean op2 (by rw [← hop2]; intro l hm; obtain ⟨x, -, rfl⟩ := List.mem_map.1 hm; rfl)]
      have : op2.dest.writes op2.lanes = ws := by
        rw [← hop2]
        show op.dest.writes _ = ws
        rw [hopd]
        apply hw
        rw [hoplanes, List.map_map, List.map_map]
        apply List.map_congr_left; intro l _; rfl
      rw [this]
    have hla : op2.la = q.la := by rw [← hop2]; exact hopl
    rw [hp, hla, hw2.cycle]
    exact st.later_retireLong _ _ _ _ ⟨rfl, rfl⟩

/-! ### A write at its home -/

theorem natBytes_eq (s : State) (pa : Nat) : (s.noteDirty pa) = { s with link := { s.link with dirty := (s.noteDirty pa).link.dirty } } := by
  unfold State.noteDirty
  dsimp only
  split <;> rfl

theorem State.Wrote.homeWriteAtom (s : State) (pa : Nat) (bs : List Byte) (strong : Bool) :
    s.Wrote (s.homeWriteAtom pa bs strong) [(pa, bs)] := by
  have hd : ∀ x : State, (x.noteDirty pa).mem = x.mem ∧ (x.noteDirty pa).poison = x.poison ∧ (x.noteDirty pa).lost = x.lost := by
    intro x; rw [natBytes_eq]; exact ⟨rfl, rfl, rfl⟩
  have hm : (s.homeWriteAtom pa bs strong).mem = writeBytes s.mem pa bs := (hd _).1
  refine ⟨hm, fun w a ha => ?_, fun a => ?_, fun a => ?_, fun d c => ?_, fun d => ?_, State.fills_same ?_, State.claims_same ?_, ?_⟩
  · rw [hm]
    have := ha (pa, bs) (by simp)
    exact readByte_writeBytes_outside this w
  · have e : (s.homeWriteAtom pa bs strong).poison =
        if pa % 32 = 0 && bs.length = 32 then s.poison.filter (· != pa / 32) else s.poison := (hd _).2.1
    rw [e]
    split
    · exact ⟨fun h => (List.mem_filter.1 h).1, fun n h => List.mem_filter.2 ⟨h, by
        have := n (pa, bs) (by simp); simp only [bne_iff_ne]; exact fun e => this e.symm⟩⟩
    · exact ⟨id, fun _ => id⟩
  · have e : (s.homeWriteAtom pa bs strong).lost =
        if (pa % 32 = 0 && bs.length = 32) && strong then s.lost.filter (· != pa / 32) else s.lost := (hd _).2.2
    rw [e]
    split
    · exact ⟨fun h => (List.mem_filter.1 h).1, fun n h => List.mem_filter.2 ⟨h, by
        have := n (pa, bs) (by simp); simp only [bne_iff_ne]; exact fun e => this e.symm⟩⟩
    · exact ⟨id, fun _ => id⟩
  · unfold State.homeWriteAtom; dsimp only; rw [natBytes_eq]; rfl
  · unfold State.homeWriteAtom; dsimp only; rw [natBytes_eq]; rfl
  · unfold State.homeWriteAtom; dsimp only; rw [natBytes_eq]; rfl
  · unfold State.homeWriteAtom; dsimp only; rw [natBytes_eq]; rfl
  · unfold State.homeWriteAtom; dsimp only; rw [natBytes_eq]; rfl

theorem State.Wrote.writeAtom {s : State} {d c pa : Nat} (bs : List Byte) (strong : Bool) (pl : Option L2Place) (h : localMemory d pa) :
    s.Wrote (s.writeAtom d (some c) pa bs strong pl) [(pa, bs)] := by
  unfold State.writeAtom
  dsimp only
  have e : ∀ l1 n who, s.Wrote ((s.noteCache d (some c) 10 n who).setCore d c { (s.core d c).killRegion pa with l1 := l1 }) [] :=
    fun l1 n who => State.Wrote.cachesAfter (.noteCache s d (some c) 10 n who) (State.noteCache_core ..) l1 (s.core d c).tlb _
  rcases h with ⟨h, -⟩ | h
  · rw [h]
    dsimp only
    rw [if_pos rfl]
    exact ((e _ _ _).quiet (.l2Touch _ _ _ _)).trans (.homeWriteAtom _ _ _ _)
  · rw [h]
    dsimp only
    exact (e _ _ _).trans (.homeWriteAtom _ _ _ _)

theorem State.linkFull_local (s : State) {d pa : Nat} (h : localMemory d pa) : s.linkFull d pa = false := by
  unfold State.linkFull
  rcases h with ⟨h, -⟩ | h <;> rw [h]
  simp

/-- A lane of a store to the die's memory or the host's is done at once. -/
theorem State.doLane_store {s : State} {st : Strand} {op : MemOp} {l : Lane} {pa g b p : Nat} (hk : op.kind = .store)
    (ht : l.tgt = .phys pa g b p) (hl : localMemory st.at_.die pa) :
    s.doLane st op l = .done (s.writeAtom st.at_.die (some st.at_.core) pa (natBytesLE l.size l.wdata) op.strong
        (some { group := g, base := b, partid := p, hint := op.hint })) { l with done := true, rdata := 0, mark := 0 } := by
  have hf := State.linkFull_local s hl
  unfold State.doLane
  simp only [ht, hf]
  rcases hl with ⟨h, h3⟩ | h
  · rw [h]; simp only [hk]; simp
  · rw [h]; simp only [hk]; simp

theorem State.doLanes_store (s₀ : State) (st : Strand) (op : MemOp) (hk : op.kind = .store) (pa : Nat → Nat) (ls : List Lane)
    (hl : ∀ l ∈ ls, l.done = false ∧ localMemory st.at_.die (pa l.n) ∧ ∃ g b p, l.tgt = .phys (pa l.n) g b p)
    (r : Progress) (ws : List (Nat × List Byte)) (hw : s₀.Wrote r.s ws) :
    ∃ t, s₀.Wrote t (ws ++ ls.map fun l => (pa l.n, natBytesLE l.size l.wdata)) ∧ ls.foldl (Progress.lane st op) r =
      { r with s := t, lanes := r.lanes ++ ls.map fun l => { l with done := true, rdata := 0, mark := 0 } } := by
  induction ls generalizing r ws with
  | nil => exact ⟨r.s, by simpa using hw, by simp⟩
  | cons l ls ih =>
    obtain ⟨hd, h2, g, b, p, h1⟩ := hl l (by simp)
    have e := State.doLane_store (s := r.s) (op := op) hk h1 h2
    generalize hpl : some ({ group := g, base := b, partid := p, hint := op.hint } : L2Place) = pl at e
    have w2 : s₀.Wrote (r.s.writeAtom st.at_.die (some st.at_.core) (pa l.n) (natBytesLE l.size l.wdata) op.strong pl)
        (ws ++ [(pa l.n, natBytesLE l.size l.wdata)]) := hw.trans (.writeAtom _ _ _ h2)
    obtain ⟨t, ht, he⟩ := ih (fun l' hl' => hl l' (by simp [hl']))
      ⟨r.s.writeAtom st.at_.die (some st.at_.core) (pa l.n) (natBytesLE l.size l.wdata) op.strong pl,
        r.lanes ++ [{ l with done := true, rdata := 0, mark := 0 }], r.waits, r.again⟩ _ w2
    refine ⟨t, by simpa using ht, ?_⟩
    rw [List.foldl_cons]
    have e2 : Progress.lane st op r l = ⟨r.s.writeAtom st.at_.die (some st.at_.core) (pa l.n) (natBytesLE l.size l.wdata) op.strong pl,
        r.lanes ++ [{ l with done := true, rdata := 0, mark := 0 }], r.waits, r.again⟩ := by
      unfold Progress.lane
      rw [hd, e]
      rfl
    rw [e2, he]
    simp

/-- What a ready request is made of. -/
theorem MemReq.op_lanes (q : MemReq) (tgt : Nat × Nat → Target) :
    (q.op ((q.lanes.map fun (_, va, size, _) => (va, size)).map tgt)).lanes = q.lanes.map fun l =>
      { n := l.1, va := l.2.1, size := l.2.2.1, tgt := tgt (l.2.1, l.2.2.1), wdata := l.2.2.2, done := false, rdata := 0, mark := 0 } := by
  show (q.lanes.zip ((q.lanes.map fun (_, va, size, _) => (va, size)).map tgt)).map _ = _
  rw [List.map_map, List.zip_map_right, List.map_map]
  have : q.lanes.zip q.lanes = q.lanes.map fun l => (l, l) := by
    generalize q.lanes = l; induction l with
    | nil => rfl
    | cons a l ih => rw [List.zip_cons_cons, ih]; rfl
  rw [this, List.map_map]
  apply List.map_congr_left; intro l _; rfl

theorem State.mustDrain_drained {s : State} {st : Strand} {o : BitVec 1} {c : BitVec 2} (h : s.drained st o c) :
    s.mustDrain st (decide (o = 1)) c.toNat = false := by
  unfold State.mustDrain
  by_cases h1 : o = 1
  · by_cases h2 : 2 ≤ c.toNat
    · have := h h1 h2; simp [this]
    · simp [h2]
  · rw [decide_eq_false h1]; rfl

/-- A store to memory of the die or the host. -/
theorem State.tryMem_store {s : State} {st : Strand} {len : Nat} {q : MemReq} {c : BitVec 2} {o : BitVec 1} {pa : Nat → Nat}
    (hk : q.kind = .store) (hc : q.cls = .write) (ho : q.strong = decide (o = 1)) (hsc : q.scope = c.toNat)
    (hdr : s.drained st o c)
    (hl : ∀ l ∈ q.lanes, s.At st .write l.2.1 l.2.2.1 (pa l.1) ∧ localMemory st.at_.die (pa l.1)) :
    ∃ t u, s.tryMem st len q = t.putStrand u ∧ s.Wrote t (q.lanes.map fun l => (pa l.1, natBytesLE l.2.2.1 l.2.2.2)) ∧
      (t.seen st).OnlyMoved u s.cycle (st.past len) := by
  have hck : ∀ l ∈ q.lanes.map fun (_, va, size, _) => (va, size), ∃ t, s.checkLane st .write l.1 l.2 = .ok t := by
    intro l hm
    obtain ⟨x, hx, rfl⟩ := List.mem_map.1 hm
    obtain ⟨g, b, p, e⟩ := State.checkLane_at (hl x hx).1
    exact ⟨_, e⟩
  let tgt : Nat × Nat → Target := fun l => match s.checkLane st .write l.1 l.2 with | .ok t => t | _ => .opbuf 0
  have htgt : ∀ l ∈ q.lanes.map fun (_, va, size, _) => (va, size), s.checkLane st .write l.1 l.2 = .ok (tgt l) := by
    intro l hm; obtain ⟨t, ht⟩ := hck l hm; simp only [tgt, ht]
  have hready := State.addrPhase_ready htgt
  have hmd : s.mustDrain st q.strong q.scope = false := by rw [ho, hsc]; exact State.mustDrain_drained hdr
  unfold State.tryMem
  dsimp only
  rw [hc, hready]
  dsimp only
  rw [hmd, Bool.and_false]
  simp only [Bool.false_eq_true, if_false]
  have hoplanes := MemReq.op_lanes q tgt
  generalize hop : q.op ((q.lanes.map fun (_, va, size, _) => (va, size)).map tgt) = op at *
  have hopk : op.kind = .store := by rw [← hop]; exact hk
  generalize hs1 : (s.tlbUseAll st (q.lanes.map fun (_, va, size, _) => (va, size))).acquireOf st op = s1
  have hw1 : s.Wrote s1 [] := by rw [← hs1]; exact (State.Wrote.tlbUseAll _ _ _).quiet (.acquireOf _ _ _)
  obtain ⟨t, ht, hf⟩ := State.doLanes_store s1 st op hopk pa op.lanes (fun l hm => by
      rw [hoplanes] at hm
      obtain ⟨x, hx, rfl⟩ := List.mem_map.1 hm
      obtain ⟨h1, h2⟩ := hl x hx
      obtain ⟨g, b, p, e⟩ := State.checkLane_at h1
      exact ⟨rfl, h2, g, b, p, by simp only [tgt, e]⟩) ⟨s1, [], false, false⟩ [] (.refl s1)
  unfold State.advanceOp State.doLanes
  dsimp only
  rw [hf]
  simp only [Bool.false_eq_true, if_false, List.nil_append] at ht ⊢
  generalize hop2 : ({ op with lanes := op.lanes.map fun l => { l with done := true, rdata := 0, mark := 0 } } : MemOp) = op2
  have hk2 : op2.kind = .store := by rw [← hop2]; exact hopk
  have hmap : (op.lanes.map fun l => (pa l.n, natBytesLE l.size l.wdata)) = q.lanes.map fun l => (pa l.1, natBytesLE l.2.2.1 l.2.2.2) := by
    rw [hoplanes, List.map_map]; rfl
  rw [hmap] at ht
  have hw2 : s.Wrote (t.ending st op2) (q.lanes.map fun l => (pa l.1, natBytesLE l.2.2.1 l.2.2.2)) := by
    simpa using (hw1.trans ht).trans (.ending t st op2)
  refine ⟨t.ending st op2, ((t.ending st op2).seen st).retire (t.ending st op2).cycle len, ?_, hw2, ?_⟩
  · rw [State.finishOp_eq, hk2]
    rfl
  · rw [hw2.cycle]
    have : ((t.ending st op2).seen st).after len = st.past len := by unfold State.seen; split <;> rfl
    unfold Strand.retire
    rw [this]
    exact Strand.onlyMoved_goTo _ _ _

/-- The lane of an atomic on memory of the die or the host: the old value, and the new one written. -/
theorem State.doLane_atomic {s : State} {st : Strand} {op : MemOp} {l : Lane} {pa g b p o new : Nat} {v : Vec}
    (hk : op.kind = .atomic o new) (ht : l.tgt = .phys pa g b p) (hl : localMemory st.at_.die pa)
    (hv : if op.scope = 0 ∧ homeOf pa ≠ .host then s.lookAtom st.at_.die (some st.at_.core) (pa / 32) = some (v, 0)
      else v = s.atomData (pa / 32) ∧ s.atomMark (pa / 32) = 0) :
    ∃ x, s.Wrote x [] ∧ ∃ pl, s.doLane st op l = .done
      (match atomicNew o l.size (getBytes v (pa % 32) l.size) l.wdata new with
       | some y => x.writeAtom st.at_.die (some st.at_.core) pa (natBytesLE l.size y) op.strong pl
       | none => x)
      { l with done := true, rdata := getBytes v (pa % 32) l.size, mark := 0 } := by
  have hf := State.linkFull_local s hl
  unfold State.doLane
  simp only [ht, hk, hf]
  rcases hl with ⟨h, h3⟩ | h
  · rw [h] at hv ⊢
    by_cases h0 : op.scope = 0
    · rw [if_pos ⟨h0, by simp⟩] at hv
      simp only [h0, hv, h3, decide_false, ne_eq, not_true_eq_false, Bool.false_and, Bool.or_self, Bool.false_eq_true, if_false, if_true]
      refine ⟨_, .noteRead s st.at_.die (some st.at_.core) pa { group := g, base := b, partid := p, hint := op.hint } v 0,
        some { group := g, base := b, partid := p, hint := op.hint }, ?_⟩
      generalize atomicNew o l.size (getBytes v (pa % 32) l.size) l.wdata new = r
      cases r <;> rfl
    · rw [if_neg fun e => h0 e.1] at hv
      simp only [h0, h3, ← hv.1, hv.2, decide_false, ne_eq, not_true_eq_false, not_false_eq_true, Bool.false_and, Bool.or_self, Bool.false_eq_true,
        if_false, if_true]
      refine ⟨_, .refl s, some { group := g, base := b, partid := p, hint := op.hint }, ?_⟩
      generalize atomicNew o l.size (getBytes v (pa % 32) l.size) l.wdata new = r
      cases r <;> rfl
  · rw [h] at hv ⊢
    rw [if_neg fun e => e.2 rfl] at hv
    simp only [← hv.1, hv.2, if_true]
    refine ⟨_, .refl s, some { group := g, base := b, partid := p, hint := op.hint }, ?_⟩
    generalize atomicNew o l.size (getBytes v (pa % 32) l.size) l.wdata new = r
    cases r <;> rfl

/-- An atomic on memory of the die or the host. -/
theorem State.tryMem_atomic {s : State} {st : Strand} {len : Nat} {q : MemReq} {c : BitVec 2} {o : BitVec 1} {n va size w k new pa : Nat}
    {v : Vec} {ws : List RegWrite}
    (hk : q.kind = .atomic k new) (hc : q.cls = .atomic) (ho : q.strong = decide (o = 1))
    (hsc : q.scope = c.toNat) (hdr : s.drained st o c) (hlanes : q.lanes = [(n, va, size, w)])
    (hat : s.At st .atomic va size pa) (hl : localMemory st.at_.die pa)
    (hv : if c = 0 ∧ homeOf pa ≠ .host then s.lookAtom st.at_.die (some st.at_.core) (pa / 32) = some (v, 0)
      else v = s.atomData (pa / 32) ∧ s.atomMark (pa / 32) = 0)
    (hw : ∀ l : Lane, l.rdata = getBytes v (pa % 32) size → q.dest.writes [l] = ws) :
    ∃ t u, s.tryMem st len q = t.putStrand u ∧
      s.Wrote t (match atomicNew k size (getBytes v (pa % 32) size) w new with | some x => [(pa, natBytesLE size x)] | none => []) ∧
      (t.seen st).Later u s.cycle (st.past len) q.la
        { writes := ws, left := 0, arrived := false, flags := 0, causes := 0, tval := 0 } := by
  obtain ⟨g, b, p, hck⟩ := State.checkLane_at hat
  have hready : s.addrPhase st .atomic (q.lanes.map fun (_, va, size, _) => (va, size)) =
      .ready ((q.lanes.map fun (_, va, size, _) => (va, size)).map fun _ => Target.phys pa g b p) :=
    State.addrPhase_ready fun l hm => by rw [hlanes] at hm; simp only [List.map_cons, List.map_nil, List.mem_singleton] at hm; rw [hm]; exact hck
  have hmd : s.mustDrain st q.strong q.scope = false := by rw [ho, hsc]; exact State.mustDrain_drained hdr
  unfold State.tryMem
  dsimp only
  rw [hc, hready]
  dsimp only
  rw [hmd, Bool.and_false]
  simp only [Bool.false_eq_true, if_false]
  have hoplanes := MemReq.op_lanes q fun _ => Target.phys pa g b p
  generalize hop : q.op ((q.lanes.map fun (_, va, size, _) => (va, size)).map fun _ => Target.phys pa g b p) = op at *
  have hopk : op.kind = .atomic k new := by rw [← hop]; exact hk
  have hops : op.scope = c.toNat := by rw [← hop]; exact hsc
  have hopst : op.strong = decide (o = 1) := by rw [← hop]; exact ho
  have hopd : op.dest = q.dest := by rw [← hop]; rfl
  have hopl : op.la = q.la := by rw [← hop]; rfl
  rw [hlanes] at hoplanes
  simp only [List.map_cons, List.map_nil] at hoplanes
  generalize hs1 : (s.tlbUseAll st (q.lanes.map fun (_, va, size, _) => (va, size))).acquireOf st op = s1
  have hw1 : s.Wrote s1 [] := by rw [← hs1]; exact (State.Wrote.tlbUseAll _ _ _).quiet (.acquireOf _ _ _)
  have hmarks : s1.mem = s.mem ∧ s1.poison = s.poison ∧ s1.lost = s.lost ∧
      (c = 0 → ∀ a, s1.lookAtom st.at_.die (some st.at_.core) a = s.lookAtom st.at_.die (some st.at_.core) a) := by
    have hal := State.alike_tlbUseAll s st (q.lanes.map fun (_, va, size, _) => (va, size))
    rw [← hs1]
    unfold State.acquireOf
    split
    · rw [hops]
      obtain ⟨r1, r2, r3, r4⟩ := s.acquire_rest st.at_.die st.at_.core c.toNat (st.bundle.map Prod.fst) st.at_
      have ha := State.alike_acquire hal c.toNat (st.bundle.map Prod.fst) st.at_
      refine ⟨ha.mem.trans r1, ha.poison.trans r2, ha.lost.trans r3, fun h0 a => (ha.look a).trans ?_⟩
      subst h0
      exact State.lookAtom_congr (by rw [State.acquire_l1]; rfl) (by rw [State.acquire_rdc]; rfl) r4 r1 r2 r3 a
    · exact ⟨hal.mem, hal.poison, hal.lost, fun _ a => hal.look a⟩
  have hv1 : if op.scope = 0 ∧ homeOf pa ≠ .host then s1.lookAtom st.at_.die (some st.at_.core) (pa / 32) = some (v, 0)
      else v = s1.atomData (pa / 32) ∧ s1.atomMark (pa / 32) = 0 := by
    have h0 : op.scope = 0 ↔ c = 0 := by
      rw [hops]; exact ⟨fun e => BitVec.eq_of_toNat_eq e, fun e => by rw [e]; rfl⟩
    by_cases hc0 : c = 0 ∧ homeOf pa ≠ .host
    · rw [if_pos ⟨h0.2 hc0.1, hc0.2⟩, hmarks.2.2.2 hc0.1]
      rwa [if_pos hc0] at hv
    · rw [if_neg fun e => hc0 ⟨h0.1 e.1, e.2⟩]
      rw [if_neg hc0] at hv
      unfold State.atomData State.atomMark at hv ⊢
      rw [hmarks.1, hmarks.2.1, hmarks.2.2.1]; exact hv
  obtain ⟨x, hx, pl, hlane⟩ := State.doLane_atomic (s := s1) (l := { n := n, va := va, size := size, tgt := .phys pa g b p, wdata := w, done := false, rdata := 0, mark := 0 }) hopk rfl hl hv1
  dsimp only at hlane
  generalize hold : getBytes v (pa % 32) size = old at *
  generalize ht : (match atomicNew k size old w new with
       | some y => x.writeAtom st.at_.die (some st.at_.core) pa (natBytesLE size y) op.strong pl
       | none => x) = t at hlane
  have hwt : s.Wrote t (match atomicNew k size old w new with | some x => [(pa, natBytesLE size x)] | none => []) := by
    rw [← ht]
    cases atomicNew k size old w new with
    | none => exact hw1.quiet hx
    | some y => exact (hw1.quiet hx).trans (.writeAtom _ _ _ hl)
  unfold State.advanceOp State.doLanes
  dsimp only
  rw [hoplanes]
  have e2 : Progress.lane st op ⟨s1, [], false, false⟩ { n := n, va := va, size := size, tgt := .phys pa g b p, wdata := w, done := false, rdata := 0, mark := 0 } =
      ⟨t, [{ n := n, va := va, size := size, tgt := .phys pa g b p, wdata := w, done := true, rdata := old, mark := 0 }], false, false⟩ := by
    unfold Progress.lane
    rw [hlane]
    rfl
  simp only [List.foldl_cons, List.foldl_nil, e2, Bool.false_eq_true, if_false]
  generalize hop2 : ({ op with lanes := [{ n := n, va := va, size := size, tgt := .phys pa g b p, wdata := w, done := true, rdata := old, mark := 0 }] } : MemOp) = op2
  have hk2 : op2.kind = .atomic k new := by rw [← hop2]; exact hopk
  have hw2 := hwt.trans (State.Wrote.ending t st op2)
  rw [List.append_nil] at hw2
  refine ⟨t.ending st op2, ((t.ending st op2).seen st).retireLong (t.ending st op2).cycle len op2.la op2.pend, ?_, hw2, ?_⟩
  · rw [State.finishOp_eq, hk2]
    rfl
  · have hp : op2.pend = { writes := ws, left := 0, arrived := false, flags := 0, causes := 0, tval := 0 } := by
      rw [MemOp.pend_clean op2 (by rw [← hop2]; intro l hm; simp only [List.mem_singleton] at hm; rw [hm])]
      have : op2.dest.writes op2.lanes = ws := by
        rw [← hop2]
        show op.dest.writes _ = ws
        rw [hopd]
        exact hw _ rfl
      rw [this]
    have hla : op2.la = q.la := by rw [← hop2]; exact hopl
    rw [hp, hla, hw2.cycle]
    have hpast : ((t.ending st op2).seen st).past len = st.past len := by unfold State.seen; split <;> rfl
    rw [← hpast]
    exact Strand.later_retireLong _ _ _ _ _ ⟨rfl, rfl⟩

end Sys2Proof.Machine
end

