-- ==== Sys2Proof/Laws/Numbers.lean ====
section
/-! SUPPORT. The model's number operations as the statements write them: products, shifts, counts, saturation, sums. -/
namespace Sys2Proof.Machine

theorem extract_high_ofInt (z : Int) : (BitVec.ofInt 64 z).extractLsb' 32 32 = BitVec.ofInt 32 (z / 2 ^ 32) := by
  apply BitVec.eq_of_toNat_eq
  rw [BitVec.extractLsb'_toNat, Nat.shiftRight_eq_div_pow, BitVec.toNat_ofInt, BitVec.toNat_ofInt]
  omega

theorem mulHighS_eq (a b : Word) : mulHighS a b = highS a b := by
  rw [highS, BitVec.signExtend, BitVec.signExtend, ← BitVec.ofInt_mul, extract_high_ofInt]; rfl

theorem mulHighU_eq (a b : Word) : mulHighU a b = highU a b := by
  apply BitVec.eq_of_toNat_eq
  have ha := a.isLt; have hb := b.isLt
  have : a.toNat * b.toNat < 2 ^ 64 := calc
    a.toNat * b.toNat ≤ 2^32 * b.toNat := Nat.mul_le_mul_right _ (by omega)
    _ < 2^32 * 2^32 := by omega
    _ = 2 ^ 64 := by decide
  rw [highU, BitVec.extractLsb'_toNat, Nat.shiftRight_eq_div_pow, BitVec.toNat_mul, BitVec.toNat_setWidth, BitVec.toNat_setWidth, mulHighU, BitVec.toNat_ofNat]
  rw [Nat.mod_eq_of_lt (show a.toNat < 2 ^ 64 by omega), Nat.mod_eq_of_lt (show b.toNat < 2 ^ 64 by omega), Nat.mod_eq_of_lt this]

theorem low5_toNat (b : Word) : (b.extractLsb' 0 5).toNat = b.toNat % 32 := by simp [BitVec.extractLsb'_toNat]

theorem shiftLeft_eq (a b : Word) : shiftLeft a b = BitVec.ofNat 32 (a.toNat * 2 ^ (b.toNat % 32)) := by
  rw [shiftLeft, low5_toNat]; apply BitVec.eq_of_toNat_eq; rw [BitVec.toNat_shiftLeft, Nat.shiftLeft_eq, BitVec.toNat_ofNat]

theorem shiftRight_eq (a b : Word) : shiftRight a b = BitVec.ofNat 32 (a.toNat / 2 ^ (b.toNat % 32)) := by
  rw [shiftRight, low5_toNat]; apply BitVec.eq_of_toNat_eq
  have := a.isLt
  have h2 : a.toNat / 2 ^ (b.toNat % 32) ≤ a.toNat := Nat.div_le_self _ _
  rw [BitVec.toNat_ushiftRight, Nat.shiftRight_eq_div_pow, BitVec.toNat_ofNat, Nat.mod_eq_of_lt (Nat.lt_of_le_of_lt h2 this)]

theorem shiftRightS_eq (a b : Word) : shiftRightS a b = BitVec.ofInt 32 (a.toInt / (2 ^ (b.toNat % 32) : Nat)) := by
  rw [shiftRightS, low5_toNat, BitVec.sshiftRight, Int.shiftRight_eq_div_pow]

theorem immWord7_of (x : Option (BitVec 25)) (i : BitVec 7) (k : Word) (h : x = none → k = BitVec.ofInt 32 i.toInt)
   (h' : ∀ y, x = some y → k = BitVec.ofNat 32 (y.toNat * 2 ^ 7 + i.toNat)) : k = immWord7 x i := by
  cases x with
  | none => exact h rfl
  | some y =>
    rw [h' y rfl]
    apply BitVec.eq_of_toNat_eq
    have := y.isLt; have := i.isLt
    simp only [immWord7, BitVec.toNat_append, BitVec.toNat_ofNat, Nat.shiftLeft_eq]
    rw [Nat.mod_eq_of_lt (by omega), ← Nat.shiftLeft_eq, Nat.shiftLeft_add_eq_or_of_lt i.isLt]

theorem popcNat_eq {w} (x : BitVec w) (n : Nat) : popcNat x n = (List.range n).countP fun k => x.getLsbD k := by
  induction n with
  | zero => rfl
  | succ n ih => rw [List.range_succ, List.countP_append, popcNat, ih]; simp [List.countP_cons, Nat.add_comm]

theorem clzNat_eq {w} (x : BitVec w) (n : Nat) : clzNat x n = ((List.range n).takeWhile fun k => !x.getLsbD (n - 1 - k)).length := by
  induction n with
  | zero => rfl
  | succ n ih =>
    rw [List.range_succ_eq_map, clzNat]
    simp only [List.takeWhile_cons, List.takeWhile_map]
    simp only [Nat.add_sub_cancel, Nat.sub_zero]
    cases x.getLsbD n <;> simp
    rw [ih, Nat.add_comm]; congr 3; funext k; simp; congr 1; omega

theorem ctzNat_eq {w} (x : BitVec w) (j n : Nat) : ctzNat x j n = ((List.range n).takeWhile fun k => !x.getLsbD (j + k)).length := by
  induction n generalizing j with
  | zero => rfl
  | succ n ih =>
    rw [List.range_succ_eq_map, ctzNat]
    simp only [List.takeWhile_cons, List.takeWhile_map, Nat.add_zero]
    cases x.getLsbD j <;> simp
    rw [ih, Nat.add_comm]; congr 3; funext k; simp; congr 1; omega

theorem getLsbD_brev32 (x : Word) (k : Nat) (h : k < 32) : (brev32 x).getLsbD k = x.getLsbD (31 - k) := by
  have hp := packNat_at 1 32 (fun k => if x.getLsbD (31 - k) then 1#1 else 0#1) k h
  rw [brev32, BitVec.getLsbD_ofNat]
  simp only [h, decide_true, Bool.true_and, Nat.testBit, Nat.shiftRight_eq_div_pow, Nat.one_mul] at hp ⊢
  rw [Nat.pow_one] at hp
  rw [Nat.and_comm, Nat.and_one_is_mod, hp]
  cases x.getLsbD (31 - k) <;> simp

theorem getLsbD_lowMask (w k : Nat) (hw : w ≤ 32) : (lowMask w).getLsbD k = decide (k < w) := by
  rw [lowMask, BitVec.getLsbD_ofNat, Nat.testBit_two_pow_sub_one]
  by_cases h : k < w <;> simp [h]; omega

theorem fieldLsb_eq (b : Word) : fieldLsb b = b.toNat % 32 := by simp [fieldLsb, BitVec.extractLsb'_toNat]

theorem fieldWidth_eq (b : Word) : fieldWidth b = min (b.toNat / 2 ^ 8 % 2 ^ 6) 32 := by
  rw [fieldWidth, BitVec.extractLsb'_toNat, Nat.shiftRight_eq_div_pow]

theorem satS_eq (w : Nat) (z : Int) : satS w z = nearestS w z := by
  have e : (2 : Int) ^ (w - 1) = pow2 (w - 1) := by simp [pow2]
  have p : 0 < pow2 (w - 1) := by
    have := Nat.two_pow_pos (w - 1); unfold pow2; omega
  unfold satS nearestS
  rw [e]
  split
  · congr 1; omega
  · split <;> (congr 1; omega)

theorem satU_eq (w : Nat) (z : Int) : satU w z = nearestU w z := by
  have e : (2 : Int) ^ w = pow2 w := by simp [pow2]
  have p : 0 < pow2 w := by
    have := Nat.two_pow_pos w; unfold pow2; omega
  unfold satU nearestU
  rw [e]
  split
  · rw [show max 0 (min (pow2 w - 1) z) = (0 : Int) by omega]; simp
  · split <;> (congr 1; omega)

theorem addS_eq {w : Nat} (a b : BitVec w) : addS a b = nearestS w (a.toInt + b.toInt) := satS_eq _ _
theorem subS_eq {w : Nat} (a b : BitVec w) : subS a b = nearestS w (a.toInt - b.toInt) := satS_eq _ _
theorem addU_eq {w : Nat} (a b : BitVec w) : addU a b = nearestU w ((a.toNat : Int) + b.toNat) := satU_eq _ _
theorem subU_eq {w : Nat} (a b : BitVec w) : subU a b = nearestU w ((a.toNat : Int) - b.toNat) := satU_eq _ _

theorem sumTo_eq (f : Nat → Int) (n : Nat) : sumTo f n = ((List.range n).map f).sum := by
  induction n with
  | zero => rfl
  | succ n ih => rw [List.range_succ, List.map_append, List.sum_append, sumTo, ih]; simp

theorem allBelow_eq (f : Nat → Bool) (n : Nat) : allBelow f n = (List.range n).all f := by
  induction n with
  | zero => rfl
  | succ n ih => rw [List.range_succ, List.all_append, allBelow, ih]; simp

theorem low4_toNat (b : BitVec 16) : (b.extractLsb' 0 4).toNat = b.toNat % 16 := by simp [BitVec.extractLsb'_toNat]
theorem shl16_eq (a b : BitVec 16) : a <<< (b.extractLsb' 0 4).toNat = BitVec.ofNat 16 (a.toNat * 2 ^ (b.toNat % 16)) := by
  rw [low4_toNat]; apply BitVec.eq_of_toNat_eq; rw [BitVec.toNat_shiftLeft, Nat.shiftLeft_eq, BitVec.toNat_ofNat]
theorem shr16_eq (a b : BitVec 16) : a >>> (b.extractLsb' 0 4).toNat = BitVec.ofNat 16 (a.toNat / 2 ^ (b.toNat % 16)) := by
  rw [low4_toNat]; apply BitVec.eq_of_toNat_eq
  have := a.isLt
  have h2 : a.toNat / 2 ^ (b.toNat % 16) ≤ a.toNat := Nat.div_le_self _ _
  rw [BitVec.toNat_ushiftRight, Nat.shiftRight_eq_div_pow, BitVec.toNat_ofNat, Nat.mod_eq_of_lt (Nat.lt_of_le_of_lt h2 this)]
theorem sar16_eq (a b : BitVec 16) : a.sshiftRight (b.extractLsb' 0 4).toNat = BitVec.ofInt 16 (a.toInt / (2 ^ (b.toNat % 16) : Nat)) := by
  rw [low4_toNat, BitVec.sshiftRight, Int.shiftRight_eq_div_pow]

end Sys2Proof.Machine
end

