-- ==== Sys2Proof/Laws/Vector.lean ====
section
/-! SUPPORT. The forms of the vector families: what each shared operation of VectorInt.lean leaves. -/
namespace Sys2Proof.Machine

/-- A vector instruction that computes element by element. -/
theorem writesElems_ofElems {i : Instr} {mk : Option Msk} {d : BitVec 7} {w n : Nat} (hn : w * n = 256) (hk : w * (n / 8) = 32)
    {f : Strand → Nat → BitVec w}
    (h : ∀ s, exec i s = vecOp mk (len1 mk) d (fun st => ofElems w n (f st)) s) :
    WritesElems i mk (words [mk.isSome]) d w f fun _ => 0 := by
  rw [← len1_words]
  refine writesElems_of0 hk (fun s => (h s).trans rfl) fun st j hj => elem_ofElems w n _ j ?_ (by omega)
  have hw : 0 < w := by rcases Nat.eq_zero_or_pos w with h | h <;> simp_all
  rw [← hn, Nat.mul_div_cancel_left _ hw] at hj; exact hj

theorem writesElems_ofLanes {i : Instr} {mk : Option Msk} {d : BitVec 7} {f : Strand → Nat → Word}
    (h : ∀ s, exec i s = vecOp mk (len1 mk) d (fun st => ofLanes (f st)) s) :
    WritesElems i mk (words [mk.isSome]) d 32 f fun _ => 0 := writesElems_ofElems (n := 8) rfl rfl h

theorem elemOp_valu {i : Instr} {mk : Option Msk} {d a b : BitVec 7} {f : Word → Word → Word}
    (h : ∀ s, exec i s = valu f mk d a b s) : ElemOp 32 i mk d a b f := writesElems_ofLanes h

theorem laneOp1_of {i : Instr} {mk : Option Msk} {d a : BitVec 7} {f : Word → Word}
    (h : ∀ s, exec i s = vecOp mk (len1 mk) d (fun st => mapLanes f (st.v a)) s) : LaneOp1 i mk d a f := writesElems_ofLanes h

theorem laneOpImm_valui {i : Instr} {mk : Option Msk} {x : Option (BitVec 25)} {d a k : BitVec 7} {f : Word → Word → Word}
    (h : ∀ s, exec i s = valui f mk x d a k s) : LaneOpImm i mk x d a (immWord7 x k) f := by
  unfold LaneOpImm
  rw [← lenOf_words]
  exact writesElems_of0 (k := 1) rfl (fun s => (h s).trans rfl) fun st j hj => elem_ofElems 32 8 _ j hj (by omega)

theorem elemOp_vpack16 {i : Instr} {mk : Option Msk} {d a b : BitVec 7} {f : BitVec 16 → BitVec 16 → BitVec 16}
    {g : BitVec 8 → BitVec 8 → BitVec 8} (h : ∀ s, exec i s = vpack f g mk 0 d a b s) : ElemOp 16 i mk d a b f :=
  writesElems_ofElems (n := 16) rfl rfl h

theorem elemOp_vpack8 {i : Instr} {mk : Option Msk} {d a b : BitVec 7} {f : BitVec 16 → BitVec 16 → BitVec 16}
    {g : BitVec 8 → BitVec 8 → BitVec 8} (h : ∀ s, exec i s = vpack f g mk 1 d a b s) : ElemOp 8 i mk d a b g :=
  writesElems_ofElems (n := 32) rfl rfl h

theorem compareOp_vcmp {w n : Nat} (hn : 32 / w = n) {i : Instr} {mk : Option Msk} {d : BitVec 3} {a b : BitVec 7}
    {c : BitVec w → BitVec w → Prop} [DecidableRel c] {f : BitVec w → BitVec w → Bool} (hf : ∀ x y, f x y = decide (c x y))
    (h : ∀ s, exec i s = vcmp w n f mk d a b s) : CompareOp w i mk d a b c := by
  subst hn
  unfold CompareOp
  rw [← len1_words]
  refine writesBits_of0 (fun s => (h s).trans rfl) fun st k hk => ?_
  rw [getLsbD_predOf _ _ hk, allBelow_eq]
  simp only [hf]

theorem elemOp_shift16 {i : Instr} {mk : Option Msk} {d a b : BitVec 7} {f : BitVec 16 → Nat → BitVec 16}
    (h : ∀ s, exec i s = vshift16 f mk d a b s) : ElemOp 16 i mk d a b (fun x y => f x (y.extractLsb' 0 4).toNat) :=
  writesElems_ofElems (n := 16) rfl rfl h

theorem reduceOp_vred {i : Instr} {mk : Option Msk} {d a : BitVec 7} {f : Word → Word → Word}
    (h : ∀ s, exec i s = vred f mk d a s) : ReduceOp i mk d a f := by
  have e : ∀ v : Vec, [1, 2, 3, 4, 5, 6, 7].foldl (fun x j => f x (lane v j)) (lane v 0) = foldLanes f v 7 := fun v => rfl
  unfold ReduceOp
  simp only [e]
  exact writesElems_ofLanes h

end Sys2Proof.Machine
end

