-- ==== Sys2Proof/Laws/MemInstr.lean ====
section
/-! SUPPORT. The shapes of the loads, stores and atomics of Safety.lean: an instruction that is one memory request has them. -/
namespace Sys2Proof.Machine

theorem Strand.ea_eq (st : Strand) (a : BitVec 7) (x : Option (BitVec 25)) (k : Int) (h1 : x = none → k = 0) (h2 : ∀ y, x = some y → k = y.toInt) :
    ((st.ea a x).toNat : Int) = ((st.pair a).toNat + k) % 2 ^ 57 := by
  have e : byteOffset x = BitVec.ofInt 57 k := by
    cases x with
    | none => rw [h1 rfl]; rfl
    | some y => rw [h2 y rfl]; rfl
  unfold Strand.ea
  rw [e, BitVec.toNat_add, BitVec.extractLsb'_toNat, BitVec.toNat_ofInt]
  simp only [Nat.shiftRight_zero]
  omega

theorem Strand.laneAddr_eq (st : Strand) (a b : BitVec 7) (i : Nat) :
    ((st.laneAddr a b i).toNat : Int) = ((st.pair a).toNat + (lane (st.v b) i).toInt) % 2 ^ 57 := by
  unfold Strand.laneAddr Strand.pairAddr
  rw [BitVec.toNat_add, BitVec.extractLsb'_toNat, BitVec.signExtend, BitVec.toNat_ofInt]
  simp only [Nat.shiftRight_zero]
  omega

theorem State.issueMem_load {n la : Nat} {o : BitVec 1} {c h : BitVec 2}
    {lanes : Strand → List (Nat × Nat × Nat × Nat)} {entry : Strand → (Nat → Nat) → Pend}
    {dest : Strand → MemDest} {key : Strand → Option ReuseKey} {s : State} {st : Strand} {val : Nat → Nat} (hs : s.curStrand = some st)
    (hroom : (s.acquired st o c).RoomFor st (lanes st).length)
    (hl : ∀ l ∈ lanes st, ∃ pa v, s.At st .read l.2.1 l.2.2.1 pa ∧ homeOf pa ≠ .regs ∧
      (s.acquired st o c).lookAtom st.at_.die (some st.at_.core) (pa / 32) = some (v, 0) ∧ val l.1 = getBytes v (pa % 32) l.2.2.1)
    (hw : ∀ st val, (∀ l ∈ lanes st, val l.1 < 2 ^ (8 * l.2.2.1)) → ∀ L : List Lane, L.map (fun l => (l.n, l.size, l.rdata)) = (lanes st).map (fun l => (l.1, l.2.2.1, val l.1)) →
      entry st val = { writes := (dest st).writes L, left := 0, arrived := false, flags := 0, causes := 0, tval := 0 }) :
    ∃ t u, s.issueMem n (fun st => { memReq .load .read (lanes st) o c h la (dest st) with key := key st }) = .next (t.putStrand u) ∧ s.Wrote t [] ∧
      st.Later u s.cycle (st.past n) la (entry st val) := by
  have hv : ∀ l ∈ lanes st, val l.1 < 2 ^ (8 * l.2.2.1) := by
    intro l hm
    obtain ⟨pa, v, -, -, -, e⟩ := hl l hm
    rw [e]; unfold getBytes; exact Nat.mod_lt _ (Nat.two_pow_pos _)
  let L : List Lane := (lanes st).map fun l => { n := l.1, va := 0, size := l.2.2.1, tgt := .opbuf 0, wdata := 0, done := true, rdata := val l.1, mark := 0 }
  obtain ⟨t, u, e1, e2, e3⟩ := State.tryMem_load (len := n) (q := { memReq .load .read (lanes st) o c h la (dest st) with key := key st }) (c := c) (o := o) (val := val) (ws := (dest st).writes L) hs rfl rfl
    rfl rfl hroom hl fun L' hL' => by
      have := (hw st val hv L' hL').symm.trans (hw st val hv L (by simp [L, Function.comp_def]))
      exact congrArg Pend.writes this
  refine ⟨t, u, State.issueMem_over (f := fun st => { memReq .load .read (lanes st) o c h la (dest st) with key := key st }) hs e1 e3.at (by rw [e2.strandAt, State.strandAt_cur hs]; rfl), e2, ?_⟩
  rw [hw st val hv L (by simp [L, Function.comp_def])]
  exact e3

theorem loads_of {i : Instr} {n la : Nat} {o : BitVec 1} {c h : BitVec 2} {H : State → Strand → Prop}
    {lanes : Strand → List (Nat × Nat × Nat × Nat)} {entry : Strand → (Nat → Nat) → Pend}
    {dest : Strand → MemDest}
    (he : ∀ s st, s.curStrand = some st → H s st → exec i s = s.issueMem n fun st => memReq .load .read (lanes st) o c h la (dest st))
    (hw : ∀ st val, (∀ l ∈ lanes st, val l.1 < 2 ^ (8 * l.2.2.1)) → ∀ L : List Lane, L.map (fun l => (l.n, l.size, l.rdata)) = (lanes st).map (fun l => (l.1, l.2.2.1, val l.1)) →
      entry st val = { writes := (dest st).writes L, left := 0, arrived := false, flags := 0, causes := 0, tval := 0 }) :
    Loads i n la o c H lanes entry := by
  intro s st val hs hH hr hl
  rw [he s st hs hH]
  exact State.issueMem_load (key := fun _ => none) hs hr hl hw

theorem State.Wrote.standing {s t : State} {ws : List (Nat × List Byte)} (h : s.Wrote t ws) (r : SRef) (hs : (s.strandAt r).isSome) :
    (t.strandAt r).isSome := by
  have e : ∀ (ws : List (Nat × List Byte)) (s : State), (s.strandAt r).isSome → ((ws.foldl (fun s p => s.fireLine p.1) s).strandAt r).isSome := by
    intro ws
    induction ws with
    | nil => intro s hs; exact hs
    | cons w ws ih =>
      intro s hs
      refine ih _ ?_
      obtain ⟨x, hx⟩ := Option.isSome_iff_exists.1 hs
      unfold State.strandAt at hx ⊢
      unfold State.fireLine State.fire
      rw [List.find?_isSome]
      refine ⟨_, List.mem_map_of_mem (List.mem_of_find?_eq_some hx), ?_⟩
      have := List.find?_some hx
      rw [Strand.at_fire]; exact this
  rw [h.rest]
  exact e ws s hs

theorem State.seen_at (t : State) (st : Strand) : (t.seen st).at_ = st.at_ := by unfold State.seen; split <;> rfl

theorem stores_of {i : Instr} {n : Nat} {o : BitVec 1} {c h : BitVec 2} {lanes : Strand → List (Nat × Nat × Nat × Nat)}
    (he : ∀ s, exec i s = s.issueMem n fun st => memReq .store .write (lanes st) o c h 0 .none) : Stores i n o c lanes := by
  intro s st pa hs hd hl
  rw [he]
  obtain ⟨t, u, e1, e2, e3⟩ := State.tryMem_store (s := s) (st := st) (len := n) (q := memReq .store .write (lanes st) o c h 0 .none) (c := c) (o := o) (pa := pa) rfl rfl rfl rfl hd hl
  refine ⟨t, u, State.issueMem_over (f := fun st => memReq .store .write (lanes st) o c h 0 .none) hs e1 ⟨e3.at.1.trans (State.seen_at _ _), e3.at.2⟩ (e2.standing _ (by rw [State.strandAt_cur hs]; rfl)), e2, e3⟩

theorem updates_of {i : Instr} {n la k size num : Nat} {new arg : Strand → Nat} {o : BitVec 1} {c : BitVec 2} {ea : Strand → Nat}
    {f : Strand → Nat → Option Nat} {entry : Strand → Nat → Pend} {dest : Strand → MemDest}
    (he : ∀ s, exec i s = s.issueMem n fun st => memReq (.atomic k (new st)) .atomic [(num, ea st, size, arg st)] o c 0 la (dest st))
    (hf : ∀ st old, old < 2 ^ (8 * size) → atomicNew k size old (arg st) (new st) = f st old)
    (hw : ∀ st old l, Lane.rdata l = old → old < 2 ^ (8 * size) →
      entry st old = { writes := (dest st).writes [l], left := 0, arrived := false, flags := 0, causes := 0, tval := 0 }) :
    Updates i n la o c size ea f entry := by
  intro s st pa old v hs hd hat hl hv hold
  have hlt : old < 2 ^ (8 * size) := by rw [hold]; unfold getBytes; exact Nat.mod_lt _ (Nat.two_pow_pos _)
  rw [he]
  let l0 : Lane := { n := 0, va := 0, size := 0, tgt := .opbuf 0, wdata := 0, done := true, rdata := old, mark := 0 }
  obtain ⟨t, u, e1, e2, e3⟩ := State.tryMem_atomic (s := s) (st := st) (len := n)
    (q := memReq (.atomic k (new st)) .atomic [(num, ea st, size, arg st)] o c 0 la (dest st)) (c := c) (o := o) (ws := (dest st).writes [l0]) rfl rfl rfl rfl hd rfl hat hl hv
    (fun l hr => by
      have := (hw st old l (by rw [hr, hold]) hlt).symm.trans (hw st old l0 rfl hlt)
      exact congrArg Pend.writes this)
  rw [← hold, hf st old hlt] at e2
  refine ⟨t, u, State.issueMem_over (f := fun st => memReq (.atomic k (new st)) .atomic [(num, ea st, size, arg st)] o c 0 la (dest st)) hs e1
    ⟨e3.at.1.trans (State.seen_at _ _), e3.at.2⟩ (e2.standing _ (by rw [State.strandAt_cur hs]; rfl)), e2, ?_⟩
  rw [hw st old l0 rfl hlt]
  exact e3

theorem entryS_writes (st : Strand) (d : BitVec 7) (l : Lane) :
    entryS st d (BitVec.ofNat 32 l.rdata) = { writes := (MemDest.scalar (st.sName d)).writes [l], left := 0, arrived := false, flags := 0, causes := 0, tval := 0 } := by
  unfold entryS MemDest.writes
  cases st.sName d <;> rfl

theorem getLsbD_setByte (v : Vec) (off : Nat) (b : Byte) (ho : off < 32) (j : Nat) :
    ((v &&& ~~~(0xFF#256 <<< (8 * off))) ||| (b.zeroExtend 256 <<< (8 * off))).getLsbD j =
      if 8 * off ≤ j ∧ j < 8 * off + 8 then b.getLsbD (j - 8 * off) else v.getLsbD j := by
  have h8 : ∀ k, (0xFF#256).getLsbD k = decide (k < 8) := by
    intro k
    show (BitVec.ofNat 256 (2 ^ 8 - 1)).getLsbD k = _
    rw [BitVec.getLsbD_ofNat, Nat.testBit_two_pow_sub_one, ← Bool.decide_and, decide_eq_decide]
    omega
  simp only [BitVec.getLsbD_or, BitVec.getLsbD_and, BitVec.getLsbD_not, BitVec.getLsbD_shiftLeft, h8, BitVec.getLsbD_setWidth]
  by_cases hj : j < 256
  · by_cases h1 : 8 * off ≤ j
    · by_cases h2 : j < 8 * off + 8
      · have e1 : j - 8 * off < 8 := by omega
        have e2 : j - 8 * off < 256 := by omega
        have e3 : ¬ j < 8 * off := by omega
        simp [h1, h2, e1, e2, e3, hj]
      · have e1 : ¬ j - 8 * off < 8 := by omega
        have e3 : ¬ j < 8 * off := by omega
        have e4 : b.getLsbD (j - 8 * off) = false := BitVec.getLsbD_of_ge _ _ (by omega)
        simp [h2, e1, e3, e4, hj]
    · have e3 : j < 8 * off := by omega
      simp [h1, e3, hj]
  · have h1 : ¬ j < 8 * off := by omega
    have h2 : ¬ j < 8 * off + 8 := by omega
    rw [BitVec.getLsbD_of_ge v j (by omega)]
    simp [hj, h2]

theorem getLsbD_setBytes (off n x : Nat) (v : Vec) (h : off + n ≤ 32) (j : Nat) :
    (setBytes v off (natBytesLE n x)).getLsbD j =
      if 8 * off ≤ j ∧ j < 8 * (off + n) then x.testBit (j - 8 * off) else v.getLsbD j := by
  induction n generalizing off x v with
  | zero => rw [if_neg (by omega)]; rfl
  | succ n ih =>
    show (setBytes _ (off + 1) (natBytesLE n (x / 256))).getLsbD j = _
    rw [ih (off + 1) _ _ (by omega), getLsbD_setByte _ _ _ (by omega)]
    by_cases h1 : 8 * (off + 1) ≤ j ∧ j < 8 * (off + 1 + n)
    · rw [if_pos h1, if_pos (by omega), show (256 : Nat) = 2 ^ 8 from rfl, Nat.testBit_div_two_pow]
      congr 1; omega
    · rw [if_neg h1]
      by_cases h2 : 8 * off ≤ j ∧ j < 8 * off + 8
      · rw [if_pos h2, if_pos (by omega), BitVec.getLsbD_ofNat]
        have : j - 8 * off < 8 := by omega
        simp [this]
      · rw [if_neg h2, if_neg (by omega)]

theorem lane_setBytes (i n size x : Nat) (v : Vec) (hn : n < 8) (hs : size ≤ 4) (hx : x < 2 ^ (8 * size))
    (hz : lane v n = 0) : lane (setBytes v (4 * n) (natBytesLE size x)) i = if i = n then BitVec.ofNat 32 x else lane v i := by
  apply BitVec.eq_of_getLsbD_eq
  intro j hj
  have hz' : ∀ j < 32, v.getLsbD (32 * n + j) = false := by
    intro j hj
    have := congrArg (fun w : Word => w.getLsbD j) hz
    unfold lane elem at this
    simp only [BitVec.getLsbD_extractLsb', hj, decide_true, Bool.true_and] at this
    rw [this]; exact BitVec.getLsbD_zero
  have key := getLsbD_setBytes (4 * n) size x v (by omega) (32 * i + j)
  have e1 : (lane (setBytes v (4 * n) (natBytesLE size x)) i).getLsbD j = (setBytes v (4 * n) (natBytesLE size x)).getLsbD (32 * i + j) := by
    unfold lane elem; simp [hj]
  rw [e1, key]
  by_cases h : i = n
  · subst h
    rw [if_pos rfl]
    by_cases h2 : j < 8 * size
    · rw [if_pos (by omega), show 32 * i + j - 8 * (4 * i) = j by omega, BitVec.getLsbD_ofNat]; simp [hj]
    · rw [if_neg (by omega), hz' j hj]
      simp only [BitVec.getLsbD_ofNat]
      rw [Nat.testBit_lt_two_pow (Nat.lt_of_lt_of_le hx (Nat.pow_le_pow_right (by omega) (by omega)))]; simp
  · rw [if_neg h, if_neg (by omega)]
    unfold lane elem; simp [hj]

/-- The bytes of lanes written one after another into a vector whose lanes there are zero. -/
theorem lane_foldLanes (g : Nat → Option Nat) (val : Nat → Nat) (base : Vec) (m : Nat) (hm : m ≤ 8)
    (hg : ∀ i < m, ∀ z, g i = some z → lane base i = 0 ∧ z ≤ 4 ∧ val i < 2 ^ (8 * z)) (i : Nat) (hi : i < 8) :
    lane ((((List.range m).filterMap fun i => (g i).map fun z => (i, z)).map fun l => (l.1, l.2, val l.1)).foldl
      (fun v l => setBytes v (4 * l.1) (natBytesLE l.2.1 l.2.2)) base) i =
      if i < m ∧ (g i).isSome then BitVec.ofNat 32 (val i) else lane base i := by
  induction m generalizing i with
  | zero => simp
  | succ m ih =>
    have ih := fun i hi => ih (by omega) (fun i h => hg i (by omega)) i hi
    rw [List.range_succ, List.filterMap_append, List.map_append, List.foldl_append]
    cases hgm : g m with
    | none =>
      simp only [List.filterMap_cons, hgm, Option.map_none, List.filterMap_nil, List.map_nil, List.foldl_nil]
      rw [ih i hi]
      by_cases he : i = m
      · subst he; simp [hgm]
      · have : i < m + 1 ↔ i < m := by omega
        simp [this]
    | some z =>
      obtain ⟨h0, h1, h2⟩ := hg m (by omega) z hgm
      simp only [List.filterMap_cons, hgm, Option.map_some, List.filterMap_nil, List.map_cons, List.map_nil, List.foldl_cons, List.foldl_nil]
      rw [lane_setBytes i m z (val m) _ (by omega) h1 h2 (by rw [ih m (by omega)]; simp [h0]), ih i hi]
      by_cases he : i = m
      · subst he; simp [hgm]
      · have : i < m + 1 ↔ i < m := by omega
        simp [this, he]

theorem vec_ext {x y : Vec} (h : ∀ i < 8, lane x i = lane y i) : x = y := by
  apply BitVec.eq_of_getLsbD_eq
  intro j hj
  have := congrArg (fun w : Word => w.getLsbD (j % 32)) (h (j / 32) (by omega))
  unfold lane elem at this
  simp only [BitVec.getLsbD_extractLsb', Nat.mod_lt j (by omega : 32 > 0), decide_true, Bool.true_and] at this
  rw [Nat.div_add_mod] at this
  exact this

/-- The vector a finished load leaves, one lane at a time. -/
theorem lanes_writes (d : Option Nat) (base : Vec) (g : Nat → Option Nat) (va w : Nat → Nat) (val : Nat → Nat) (L : List Lane)
    (hg : ∀ i < 8, ∀ z, g i = some z → lane base i = 0 ∧ z ≤ 4 ∧ val i < 2 ^ (8 * z))
    (hL : L.map (fun l => (l.n, l.size, l.rdata)) =
      ((List.range 8).filterMap fun i => (g i).map fun z => (i, va i, z, w i)).map fun l => (l.1, l.2.2.1, val l.1)) :
    (MemDest.lanes d base).writes L =
      (match d with
       | some j => [.v j (ofLanes fun i => if (g i).isSome then BitVec.ofNat 32 (val i) else lane base i)]
       | none => []) := by
  have e : L.foldl (fun v l => setBytes v (4 * l.n) (natBytesLE l.size l.rdata)) base =
      ofLanes fun i => if (g i).isSome then BitVec.ofNat 32 (val i) else lane base i := by
    have e1 : L.foldl (fun v l => setBytes v (4 * l.n) (natBytesLE l.size l.rdata)) base =
        (L.map fun l => (l.n, l.size, l.rdata)).foldl (fun v l => setBytes v (4 * l.1) (natBytesLE l.2.1 l.2.2)) base := by
      rw [List.foldl_map]
    have e2 : (((List.range 8).filterMap fun i => (g i).map fun z => (i, va i, z, w i)).map fun l => (l.1, l.2.2.1, val l.1)) =
        (((List.range 8).filterMap fun i => (g i).map fun z => (i, z)).map fun l => (l.1, l.2, val l.1)) := by
      rw [List.map_filterMap, List.map_filterMap]
      congr 1; funext i
      cases g i <;> rfl
    rw [e1, hL, e2]
    apply vec_ext
    intro i hi
    rw [lane_foldLanes g val base 8 (by omega) hg i hi, lane_ofLanes _ _ hi]
    simp [hi]
  unfold MemDest.writes
  cases d with
  | none => rfl
  | some j => simp only [Option.map_some, Option.toList]; rw [e]

theorem Strand.lane_loadBase (st : Strand) (mk : Option Msk) (d : BitVec 7) (i : Nat) (hi : i < 8) :
    lane (st.loadBase mk d) i = if st.runs mk i then 0 else lane (st.v d) i := by
  unfold Strand.loadBase
  rw [lane_mergeLanes _ _ _ _ hi, Strand.runs_mask _ _ _ hi]
  have : lane 0 i = 0 := by unfold lane elem; simp
  rw [this]

theorem ofLanes_congr {f g : Nat → Word} (h : ∀ i < 8, f i = g i) : ofLanes f = ofLanes g :=
  vec_ext fun i hi => by rw [lane_ofLanes _ _ hi, lane_ofLanes _ _ hi, h i hi]

theorem filterMap_congr_mem {α β : Type} {f g : α → Option β} {l : List α} (h : ∀ x ∈ l, f x = g x) : l.filterMap f = l.filterMap g := by
  induction l with
  | nil => rfl
  | cons a l ih => rw [List.filterMap_cons, List.filterMap_cons, h a (by simp), ih fun x hx => h x (by simp [hx])]

theorem mField_fields : ∀ (z : BitVec 2) (o : BitVec 1) (c h : BitVec 2),
    (z ++ o ++ c ++ h : BitVec 7).toNat = z.toNat * 32 + o.toNat * 16 + c.toNat * 4 + h.toNat ∧
    (z ++ o ++ c ++ h : BitVec 7).extractLsb' 5 2 = z ∧ (z ++ o ++ c ++ h : BitVec 7).extractLsb' 4 1 = o ∧
    (z ++ o ++ c ++ h : BitVec 7).extractLsb' 2 2 = c ∧ (z ++ o ++ c ++ h : BitVec 7).extractLsb' 0 2 = h := by decide

theorem gatherSize_le : ∀ z : BitVec 2, z ≠ 3 → 2 ^ z.toNat ≤ 4 := by decide

theorem lanes_entry (st : Strand) (d : BitVec 7) (base : Vec) (f g : Nat → Word) (L : List Lane) (h : (MemDest.lanes (st.vName d) base).writes L =
      (match st.vName d with | some j => [.v j (ofLanes f)] | none => [])) (hg : ∀ i < 8, f i = g i) :
    entryV st d (ofLanes g) 0 = { writes := (MemDest.lanes (st.vName d) base).writes L, left := 0, arrived := false, flags := 0, causes := 0, tval := 0 } := by
  rw [h, ← ofLanes_congr hg]; rfl

theorem Strand.vectorLanes_none (st : Strand) (x : Option (BitVec 25)) (a : BitVec 7) (n : Nat) (v : Vec) :
    st.vectorLanes none x a n v = [(0, (st.ea a x).toNat, n, v.toNat % 2 ^ (8 * n))] := rfl

theorem Strand.vectorLanes_some (st : Strand) (mk : Msk) (x : Option (BitVec 25)) (a : BitVec 7) (n : Nat) (v : Vec) :
    st.vectorLanes (some mk) x a n v = (List.range 8).filterMap fun i =>
      if st.runs (some mk) i ∧ 4 * i < n then some (i, ((st.ea a x).toNat + 4 * i) % 2 ^ 57, 4, (lane v i).toNat) else none := by
  unfold Strand.vectorLanes
  dsimp only
  apply filterMap_congr_mem
  intro i hi
  have hi8 : i < 8 := by simpa using hi
  rw [Strand.runs_mask _ _ _ hi8]
  have e : (st.ea a x + BitVec.ofNat 57 (4 * i)).toNat = ((st.ea a x).toNat + 4 * i) % 2 ^ 57 := by
    rw [BitVec.toNat_add, BitVec.toNat_ofNat]; omega
  rw [e]
  simp only [Bool.and_eq_true, decide_eq_true_eq]

theorem ldv_loads {mk : Option Msk} {x : Option (BitVec 25)} {l : BitVec 4} {d a : BitVec 7} {z : BitVec 2} {o : BitVec 1} {c h : BitVec 2}
    {ea : Strand → Nat} {entry : Strand → (Nat → Nat) → Pend} (hea : ∀ st, ea st = (st.ea a x).toNat)
    (hw : ∀ st val, (∀ l ∈ st.vectorLanes mk x a (32 / 2 ^ z.toNat) 0, val l.1 < 2 ^ (8 * l.2.2.1)) → ∀ L : List Lane,
      L.map (fun l => (l.n, l.size, l.rdata)) = (st.vectorLanes mk x a (32 / 2 ^ z.toNat) 0).map (fun l => (l.1, l.2.2.1, val l.1)) →
      entry st val = { writes := (MemDest.lanes (st.vName d) (st.loadBase mk d)).writes L, left := 0, arrived := false, flags := 0, causes := 0, tval := 0 }) :
    Loads (.ldv mk x l d a z o c h) (words [mk.isSome, x.isSome]) l.toNat o c
      (fun s st => o = 0 → ∀ e ∈ (s.core st.at_.die st.at_.core).reuse, e.key.addr ≠ ea st)
      (fun st => st.vectorLanes mk x a (32 / 2 ^ z.toNat) 0) entry := by
  intro s st val hs hH hr hl
  obtain ⟨t, u, e1, e2, e3⟩ := State.issueMem_load (n := words [mk.isSome, x.isSome]) (la := l.toNat) (o := o) (c := c) (h := h) (lanes := fun st => st.vectorLanes mk x a (32 / 2 ^ z.toNat) 0)
    (entry := entry) (dest := fun st => .lanes (st.vName d) (st.loadBase mk d)) (key := s.ldvKey mk x d a (mField z o c h)) hs hr hl hw
  have hkey : ((s.ldvKey mk x d a (mField z o c h) st).bind ((s.core st.at_.die st.at_.core).reuseHit s.cycle)) = none := by
    cases hk : s.ldvKey mk x d a (mField z o c h) st with
    | none => rfl
    | some q =>
      show Core.reuseHit _ _ q = none
      unfold Core.reuseHit
      rw [List.find?_eq_none]
      intro e he
      unfold State.ldvKey at hk
      dsimp only at hk
      split at hk
      · cases hk
      · rename_i hc
        obtain ⟨y, -, rfl⟩ := Option.map_eq_some_iff.1 hk
        have ho : o = 0 := by
          have h4 := (mField_fields z o c h).2.2.1
          have : (mField z o c h).getLsbD 4 = false := by simp at hc; simp [hc.1]
          have e : (z ++ o ++ c ++ h : BitVec 7).getLsbD 4 = o.getLsbD 0 := by
            have h5 : ((z ++ o ++ c ++ h : BitVec 7).extractLsb' 4 1).getLsbD 0 = o.getLsbD 0 := by rw [h4]
            rwa [BitVec.getLsbD_extractLsb'] at h5
          have : o.getLsbD 0 = false := e.symm.trans this
          exact (by decide : ∀ o : BitVec 1, o.getLsbD 0 = false → o = 0) o this
        have := hH ho e he
        rw [hea] at this
        simp only [Bool.and_eq_true, decide_eq_true_eq]
        rintro ⟨hq, -⟩
        rw [hq] at this
        exact this rfl
  show ∃ t u, execLdv mk x l d a z o c h s = _ ∧ _
  unfold execLdv
  rw [hs]
  dsimp only
  rw [hkey]
  rw [lenOf_words]
  exact ⟨t, u, e1, e2, e3⟩

theorem Strand.vectorLanes_zero (st : Strand) (mk : Msk) (x : Option (BitVec 25)) (a : BitVec 7) (n : Nat) :
    st.vectorLanes (some mk) x a n 0 = (List.range 8).filterMap fun i =>
      if st.runs (some mk) i ∧ 4 * i < n then some (i, ((st.ea a x).toNat + 4 * i) % 2 ^ 57, 4, 0) else none := by
  rw [Strand.vectorLanes_some]
  apply filterMap_congr_mem
  intro i _
  have : lane 0 i = 0 := by unfold lane elem; simp
  rw [this]; rfl

theorem vectorSize_le : ∀ z : BitVec 2, 32 / 2 ^ z.toNat ≤ 32 := by decide

theorem setBytes_zero (n x : Nat) (hn : n ≤ 32) (hx : x < 2 ^ (8 * n)) : setBytes 0 0 (natBytesLE n x) = BitVec.ofNat 256 x := by
  apply BitVec.eq_of_getLsbD_eq
  intro j hj
  rw [getLsbD_setBytes 0 n x 0 (by omega) j, BitVec.getLsbD_ofNat]
  split
  · simp [hj]
  · rw [Nat.testBit_lt_two_pow (Nat.lt_of_lt_of_le hx (Nat.pow_le_pow_right (by omega) (by omega)))]; simp

theorem Strand.loadBase_none (st : Strand) (d : BitVec 7) : st.loadBase none d = 0 := by
  apply vec_ext
  intro i hi
  rw [Strand.lane_loadBase _ _ _ _ hi]
  have : lane 0 i = 0 := by unfold lane elem; simp
  rw [this]; rfl

end Sys2Proof.Machine
end

