-- ==== Sys2Proof/Laws/Control.lean ====
section
/-! SUPPORT. Lemmas for control flow and for effects under a condition. -/
namespace Sys2Proof.Machine

theorem effectWhen_of {i : Instr} {H : State → Strand → Prop} {f : State → Strand → Strand} {Q : State → Strand → Strand → Prop}
    (h : ∀ s st, s.curStrand = some st → H s st → exec i s = .next (s.putStrand (f s st))) (q : ∀ s st, H s st → Q s st (f s st)) :
    EffectWhen i H Q := fun s st hs hh => ⟨_, h s st hs hh, q s st hh⟩

theorem State.onStrand_some {s : State} {st : Strand} (h : s.curStrand = some st) (f : Strand → State) : s.onStrand f = .next (f st) := by
  unfold State.onStrand; rw [h]

theorem Strand.linked_goTo (st : Strand) (cycle : Nat) (pc l : Addr) : st.Linked (({ st with link := l } : Strand).goTo cycle pc) cycle pc l := by
  have e : ({ st with link := l } : Strand).tick = { st.tick with link := l } := by
    rw [Strand.tick_same (x := { st with link := l }) (y := st) ⟨rfl, rfl, rfl, rfl, rfl⟩ rfl rfl]
    rw [show st.tick.period = st.period - 1 by rw [st.tick_rest]]
    conv => rhs; rw [st.tick_rest]
  unfold Strand.goTo
  rw [e]
  exact ⟨⟨rfl, rfl, rfl⟩, rfl, rfl⟩

theorem Strand.branchTarget_of (x : Option (BitVec 25)) (o : BitVec 21) (k : Int)
  (h : x = none → k = o.toInt) (h' : ∀ y, x = some y → k = y.toInt * 2 ^ 21 + o.toNat) (st : Strand) :
  st.branchTarget x o = BitVec.ofInt 57 (st.pc.toNat + 4 * k) := by
  have e : branchOffset x o = BitVec.ofInt 57 k := by
    cases x with
    | none => rw [h rfl]; rfl
    | some y =>
      rw [h' y rfl]
      show BitVec.ofInt 57 (y ++ o).toInt = _
      congr 1
      have h1 := y.isLt; have h2 := o.isLt
      have h3 : (y ++ o).toNat = y.toNat * 2 ^ 21 + o.toNat := by
        rw [BitVec.toNat_append, ← Nat.shiftLeft_add_eq_or_of_lt h2, Nat.shiftLeft_eq]
      rw [BitVec.toInt_eq_toNat_cond, BitVec.toInt_eq_toNat_cond, h3]
      split <;> split <;> omega
  unfold Strand.branchTarget
  rw [e, BitVec.ofInt_add]
  congr 1
  · apply BitVec.eq_of_toNat_eq; simp
  · apply BitVec.eq_of_toNat_eq
    rw [BitVec.toNat_shiftLeft, BitVec.toNat_ofInt, BitVec.toNat_ofInt, Nat.shiftLeft_eq]
    omega

theorem extractLsb_low2 (x : BitVec w) : x.extractLsb' 0 2 = 0 ↔ x.toNat % 4 = 0 := by
  constructor
  · intro h; have := congrArg BitVec.toNat h; simpa using this
  · intro h; apply BitVec.eq_of_toNat_eq; simpa using h

end Sys2Proof.Machine
end

