-- ==== Sys2Proof/Laws/Reads.lean ====
section
/-! SUPPORT. What reads leave in the caches; watches and acquires. -/
namespace Sys2Proof.Machine

theorem State.Fetched.refl (s : State) : s.Fetched s := ⟨fun _ _ => rfl, fun _ => rfl, rfl⟩

theorem State.Fetched.trans {s t u : State} (h : s.Fetched t) (g : t.Fetched u) : s.Fetched u where
  core d c := by rw [g.core d c, h.core d c]
  die d := by rw [g.die d, h.die d]
  rest := by
    have := g.rest
    rw [h.rest] at this
    exact this

theorem State.Fetched.caches (s : State) (d c : Nat) (l1 : List Sector) (tlb : List TlbEntry) (reuse : List ReuseEntry) :
    s.Fetched (s.setCore d c { s.core d c with l1 := l1, tlb := tlb, reuse := reuse }) where
  core := fun e f => by
    by_cases h : (e, f) = (d, c)
    · cases h; rw [State.core_setCore]
    · rw [State.core_setCore_other _ _ h]
  die := fun _ => rfl
  rest := rfl

theorem State.Fetched.dieCaches (s : State) (d : Nat) (rdc : List Sector) (tlb : List TlbEntry) (l2 : List L2Line) :
    s.Fetched (s.setDie d { s.die d with rdc := rdc, tlb := tlb, l2 := l2 }) where
  core := fun _ _ => rfl
  die := fun e => by
    by_cases h : e = d
    · cases h; rw [State.die_setDie]
    · rw [State.die_setDie_other _ _ h]
  rest := rfl

theorem State.Fetched.noteCache (s : State) (d : Nat) (c : Option Nat) (src n : Nat) (who : List (Nat × Bool)) :
    s.Fetched (s.noteCache d c src n who) := by
  unfold State.noteCache
  split
  · exact .refl s
  · exact ⟨fun _ _ => rfl, fun _ => rfl, rfl⟩

theorem State.noteCache_reads (s : State) (d : Nat) (c : Option Nat) (src n : Nat) (who : List (Nat × Bool)) :
    (s.noteCache d c src n who).xreads = s.xreads := by
  unfold State.noteCache; split <;> rfl
theorem State.noteCache_link (s : State) (d : Nat) (c : Option Nat) (src n : Nat) (who : List (Nat × Bool)) :
    (s.noteCache d c src n who).link = s.link := by
  unfold State.noteCache; split <;> rfl

theorem State.L2Only.fetched {s t : State} (h : s.L2Only t) : s.Fetched t := by
  obtain ⟨hd, hr⟩ := h
  refine ⟨fun _ _ => by rw [hr]; rfl, fun d => ?_, ?_⟩
  · have : (t.die d).rdc = (s.die d).rdc ∧ (t.die d).tlb = (s.die d).tlb ∧ (t.die d).rows = (s.die d).rows := by rw [hd d]; exact ⟨rfl, rfl, rfl⟩
    rw [this.1, this.2.1, this.2.2]; exact hd d
  · rw [hr]

theorem State.Fetched.l2Touch (s : State) (pa : Nat) (pl : Option L2Place) (w : Bool) : s.Fetched (s.l2Touch pa pl w) :=
  (s.l2Only_l2Touch pa pl w).fetched

/-- What only changes the caches of cores and dies, with the events they count, is a look at memory. -/
theorem State.Wrote.fetched {s t : State} (h : s.Wrote t []) (hx : t.xreads = s.xreads) (hp : t.poison = s.poison) (hl : t.lost = s.lost)
    (hk : t.link = s.link) : s.Fetched t := by
  refine ⟨h.core, fun d => ?_, ?_⟩
  · have : (t.die d).rows = (s.die d).rows := by rw [h.die d]
    rw [this]; exact h.die d
  · have hf : t.free = s.free := by rw [h.rest]; rfl
    rw [hf]
    conv => lhs; rw [h.rest, h.mem]
    rw [hx, hp, hl, hk]
    rfl

theorem State.Fetched.noteRead (s : State) (d : Nat) (c : Option Nat) (pa : Nat) (pl : L2Place) (v : Vec) (m : Nat) :
    s.Fetched (s.noteRead d c pa pl v m) := by
  let P (x : State) : Prop := s.Fetched x
  have fill : ∀ x e a, s.Fetched x → s.Fetched (State.fillL1 x e a (pa / 32) v m pl.hint) := fun x e a h =>
    h.trans ((State.Wrote.fillL1 x e a (pa / 32) v m pl.hint).fetched
      (by unfold State.fillL1; dsimp only; exact (State.noteCache_reads ..).trans (State.noteCache_reads ..))
      (State.fillL1_marks ..).1 (State.fillL1_marks ..).2
      (by unfold State.fillL1; dsimp only; exact (State.noteCache_link ..).trans (State.noteCache_link ..)))
  exact State.noteRead_stages (P := P) (Q := P) (R := P) (.refl s) (fun _ _ _ _ _ _ h => h.trans (.noteCache ..)) (fun _ h => h)
    (fun _ _ _ h => h.trans (.caches ..)) (fun _ _ _ h => fill _ _ _ h) (fun _ _ _ _ _ _ h => h.trans (.noteCache ..)) (fun _ h => h)
    (fun _ h => h.trans (.dieCaches ..)) (fun _ _ _ _ h => h.trans (.dieCaches ..)) fun _ h => h.trans (.l2Touch ..)

theorem State.Fetched.tlbUse (s : State) (d c pdom page : Nat) : s.Fetched (s.tlbUse d c pdom page) := by
  unfold State.tlbUse
  split
  · exact .refl s
  · split
    · exact .caches s d c _ _ _
    · exact .refl s

theorem State.Fetched.tlbUseAll (s : State) (st : Strand) (l : List (Nat × Nat)) : s.Fetched (s.tlbUseAll st l) := by
  unfold State.tlbUseAll
  have : ∀ x : State, s.Fetched x → s.Fetched (l.foldl (fun s (va, _) =>
      if addrKind va = .virt then s.tlbUse st.at_.die st.at_.core st.pdom.toNat (pageOf va) else s) x) := by
    induction l with
    | nil => exact fun x h => h
    | cons p l ih =>
      intro x h
      refine ih _ ?_
      dsimp only
      split
      · exact h.trans (.tlbUse _ _ _ _ _)
      · exact h
  exact this s (.refl s)


theorem State.Fetched.tlbFill (s : State) (d pdom page : Nat) (l : Leaf) : s.Fetched (s.tlbFill d pdom page l) :=
  .dieCaches s d (s.die d).rdc _ (s.die d).l2

theorem State.Fetched.raiseRow (s : State) (d k : Nat) : s.Fetched (s.raiseRow d k) where
  core := fun _ _ => rfl
  die := fun e => by
    unfold State.raiseRow State.setRow
    by_cases h : e = d
    · cases h; rw [State.die_setDie]
    · dsimp only; rw [State.die_setDie_other _ _ h]
  rest := rfl

theorem State.Fetched.free (s : State) (n : Nat) : s.Fetched { s with free := n } := ⟨fun _ _ => rfl, fun _ => rfl, rfl⟩

theorem State.Fetched.unitAtom {s t : State} {d : Nat} {c : Option Nat} {pa : Nat} {pl : L2Place} {v : Vec} {m : Nat}
    (h : s.unitAtom d c pa pl = some (v, m, t)) : s.Fetched t := by
  unfold State.unitAtom at h
  split at h
  · cases h; exact .noteRead ..
  · split at h
    · split at h
      · rename_i k _ _
        have hh : s.Fetched (s.homeAtom k (pa / 32)).2 := by
          unfold State.homeAtom
          split
          · exact .free s _
          · exact .refl s
        simp only [Option.some.injEq, Prod.mk.injEq] at h
        rw [← h.2.2]
        exact hh.trans ((State.Fetched.raiseRow _ _ _).trans (.noteRead ..))
      · cases h
    · cases h

theorem State.Fetched.fillLine (s : State) (st : Strand) (pa : Nat) (pl : L2Place) (l1 : Bool) : s.Fetched (s.fillLine st pa pl l1) := by
  unfold State.fillLine
  have : ∀ (l : List Nat) (x : State), s.Fetched x → s.Fetched (l.foldl (fun s j =>
      let p' := pa / 128 * 128 + 32 * j
      match s.unitAtom st.at_.die (if l1 then some st.at_.core else none) p' pl with
      | some (_, _, s) => s
      | none => s) x) := by
    intro l
    induction l with
    | nil => exact fun x h => h
    | cons j l ih =>
      intro x h
      refine ih _ ?_
      dsimp only
      split
      · rename_i hu
        exact h.trans (.unitAtom hu)
      · exact h
  exact this _ s (.refl s)

/-! ### What the L1 holds after reads -/

/-- A sector of a line that is held alive. -/
theorem findLine_of_sector {l : List Sector} {a atom now : Nat} (ha : a / 4 = atom / 4) (h : (findSector l a now).isSome) :
    (findLine l atom now).isSome := by
  cases hf : findLine l atom now with
  | some y => rfl
  | none => rw [findSector_other hf ha] at h; cases h

/-- A fill leaves in the cache the sector it brings, and those of its line. -/
theorem findSector_fillSector_some (l : List Sector) (cap atom now lease mark hint : Nat) (v : Vec) (hl : 0 < lease) (a : Nat)
    (ha : a / 4 = atom / 4) (h : a = atom ∨ (findSector l a now).isSome) :
    (findSector (fillSector l cap atom v mark now lease hint) a now).isSome := by
  by_cases e : a = atom
  · have hf := findSector_fillSector l cap atom now lease mark hint v hl a (.inl ha)
    rw [if_pos e] at hf
    cases hx : findSector (fillSector l cap atom v mark now lease hint) a now with
    | none => rw [hx] at hf; simp at hf
    | some x => rfl
  · have hs := h.resolve_left e
    have hline := findLine_of_sector ha hs
    unfold fillSector
    dsimp only
    cases hf : findLine l atom now with
    | none => rw [hf] at hline; cases hline
    | some y =>
      dsimp only
      unfold findSector at hs ⊢
      rw [List.find?_cons_of_neg (by simp [Ne.symm e])]
      show (findSector (useLine _ atom) a now).isSome
      rw [findSector_useLine]
      unfold findSector
      rw [find?_filter_keep]
      · exact hs
      · intro x _ hx
        simp only [Bool.and_eq_true, decide_eq_true_eq] at hx
        simp [hx.1, e]

/-- The L1 of the reader after a read that allocates: it holds the atom, and what it held of the line. -/
theorem State.noteRead_l1 (s : State) (d c pa : Nat) (pl : L2Place) (v : Vec) (m : Nat) (a : Nat) (hp : pl.hint ≠ 3)
    (ha : a / 4 = pa / 32 / 4) (h : a = pa / 32 ∨ (findSector (s.core d c).l1 a s.cycle).isSome) :
    (findSector ((s.noteRead d (some c) pa pl v m).core d c).l1 a s.cycle).isSome := by
  unfold State.noteRead
  dsimp only
  generalize hin : (findSector (s.core d c).l1 (pa / 32) s.cycle).isSome = inL1
  have hx : ∀ x : State, (findSector (x.core d c).l1 a s.cycle).isSome → (findSector (State.core (if inL1 = true then x else
      match homeOf pa with
      | .dram k =>
        if k = d then x.l2Touch pa (some pl) false
        else
          if (findSector (x.die d).rdc (pa / 32) x.cycle).isSome = true then
            (x.noteCache d none (if (findSector (x.die d).rdc (pa / 32) x.cycle).isSome = true then 67 else 68) 1 s.curWho).useRdc d (pa / 32)
          else (if pl.hint = 3 then
              x.noteCache d none (if (findSector (x.die d).rdc (pa / 32) x.cycle).isSome = true then 67 else 68) 1 s.curWho
            else (x.noteCache d none (if (findSector (x.die d).rdc (pa / 32) x.cycle).isSome = true then 67 else 68) 1 s.curWho).fillRdc d
              (pa / 32) v m pl.hint).l2Touch pa (some pl) false
      | _ => x) d c).l1 a s.cycle).isSome := by
    intro x hx
    split
    · exact hx
    · split
      · split
        · rw [State.l2Touch_l1]; exact hx
        · split
          · show (findSector (State.core (State.noteCache ..) d c).l1 a s.cycle).isSome
            rw [State.noteCache_core]; exact hx
          · rw [State.l2Touch_l1]
            show (findSector (State.core (State.noteCache ..) d c).l1 a s.cycle).isSome
            rw [State.noteCache_core]; exact hx
      · exact hx
  apply hx
  have hc : ∀ n, (s.noteCache d (some c) n 1 s.curWho).cycle = s.cycle := fun n => (State.noteCache_rest ..).2.2.2
  cases inL1 with
  | true =>
    simp only [if_true]
    unfold State.useL1
    dsimp only
    rw [State.core_setCore]
    show (findSector (useLine _ _) a s.cycle).isSome
    rw [findSector_useLine, State.noteCache_core]
    rcases h with h | h
    · rw [h]; exact hin
    · exact h
  | false =>
    simp only [Bool.false_eq_true, if_false, hp]
    rw [State.fillL1_l1, hc, State.noteCache_core]
    exact findSector_fillSector_some _ _ _ _ _ _ _ _ (Core.lease_pos _) _ ha h

theorem State.Fetched.cycle {s t : State} (h : s.Fetched t) : t.cycle = s.cycle := by rw [h.rest]
theorem State.Fetched.mem {s t : State} (h : s.Fetched t) : t.mem = s.mem := by rw [h.rest]
theorem State.Fetched.strands {s t : State} (h : s.Fetched t) : t.strands = s.strands := by rw [h.rest]

theorem State.lookAtom_local (s : State) {d c pa : Nat} (h : localMemory d pa) : ∃ v m, s.lookAtom d (some c) (pa / 32) = some (v, m) := by
  unfold State.lookAtom
  dsimp only
  split
  · exact ⟨_, _, rfl⟩
  · rw [homeOf_atom]
    rcases h with ⟨h, -⟩ | h
    · rw [h]; simp only [if_true]; exact ⟨_, _, rfl⟩
    · rw [h]; exact ⟨_, _, rfl⟩

theorem State.unitAtom_local (s : State) {d c pa : Nat} {pl : L2Place} (h : localMemory d pa) (hp : pl.hint ≠ 3) :
    ∃ v m t, s.unitAtom d (some c) pa pl = some (v, m, t) ∧ s.Fetched t ∧
      ∀ a, a / 4 = pa / 32 / 4 → (a = pa / 32 ∨ (findSector (s.core d c).l1 a s.cycle).isSome) → (findSector (t.core d c).l1 a t.cycle).isSome := by
  obtain ⟨v, m, e⟩ := s.lookAtom_local (c := c) h
  refine ⟨v, m, _, by unfold State.unitAtom; rw [e], .noteRead .., fun a h1 ha => ?_⟩
  rw [(State.Fetched.noteRead ..).cycle]
  exact s.noteRead_l1 d c pa pl v m a hp h1 ha

theorem homeOf_line (pa j : Nat) (h : j < 4) : homeOf (pa / 128 * 128 + 32 * j) = homeOf pa := by
  have h (k : Nat) : (pa / 128 * 128 + 32 * j < 128 * k) = (pa < 128 * k) := by simp only [eq_iff_iff]; omega
  have h36 := h (2 ^ 29); have h37 := h (2 ^ 30); have h47 := h (2 ^ 40); have h48 := h (2 ^ 41)
  simp only [Nat.reducePow, Nat.reduceMul] at h36 h37 h47 h48
  unfold homeOf
  simp only [Nat.reducePow, h36, h37, h47, h48]

theorem State.fillLine_l1 (s : State) (st : Strand) (pa : Nat) (pl : L2Place) (hp : pl.hint ≠ 3) (h : localMemory st.at_.die pa) (j : Nat) (hj : j < 4) :
    (findSector ((s.fillLine st pa pl true).core st.at_.die st.at_.core).l1 (pa / 128 * 4 + j) s.cycle).isSome := by
  unfold State.fillLine
  have main : ∀ (l : List Nat) (x : State), x.cycle = s.cycle → (∀ i ∈ l, i < 4) →
      (j ∈ l ∨ (findSector (x.core st.at_.die st.at_.core).l1 (pa / 128 * 4 + j) s.cycle).isSome) →
      (findSector (State.core (l.foldl (fun s j =>
        let p' := pa / 128 * 128 + 32 * j
        match s.unitAtom st.at_.die (if true then some st.at_.core else none) p' pl with
        | some (_, _, s) => s
        | none => s) x) st.at_.die st.at_.core).l1 (pa / 128 * 4 + j) s.cycle).isSome := by
    intro l
    induction l with
    | nil => intro x _ _ hx; exact hx.resolve_left (by simp)
    | cons i l ih =>
      intro x hc hl hx
      have hi : i < 4 := hl i (by simp)
      have hloc : localMemory st.at_.die (pa / 128 * 128 + 32 * i) := by
        unfold localMemory; rw [homeOf_line pa i hi]; exact h
      obtain ⟨v, m, t, e, f, k⟩ := x.unitAtom_local (c := st.at_.core) (pl := pl) hloc hp
      rw [List.foldl_cons]
      simp only [if_true] at e ⊢
      rw [e]
      refine ih t (f.cycle.trans hc) (fun i hi => hl i (by simp [hi])) ?_
      rcases hx with hx | hx
      · rcases List.mem_cons.1 hx with hx | hx
        · right
          have := k (pa / 128 * 4 + j) (by omega) (.inl (by omega))
          rw [f.cycle, hc] at this; exact this
        · exact .inl hx
      · right
        have := k (pa / 128 * 4 + j) (by omega) (.inr (by rw [hc]; exact hx))
        rw [f.cycle, hc] at this; exact this
  exact main _ s rfl (by simp) (.inl (by simpa using hj))


theorem Strand.watches_goTo (st : Strand) (cycle : Nat) (pc : Addr) (w : Option Watch) :
    st.Watches (({ st with watch := w } : Strand).goTo cycle pc) cycle pc w := by
  have e : ({ st with watch := w } : Strand).tick = { st.tick with watch := w } := by
    rw [Strand.tick_same (x := { st with watch := w }) (y := st) ⟨rfl, rfl, rfl, rfl, rfl⟩ rfl rfl]
    rw [show st.tick.period = st.period - 1 by rw [st.tick_rest]]
    conv => rhs; rw [st.tick_rest]
  unfold Strand.goTo
  rw [e]
  exact ⟨⟨rfl, rfl, rfl⟩, rfl, rfl⟩

theorem State.noteCache_only (s : State) (d : Nat) (c : Option Nat) (src n : Nat) (who : List (Nat × Bool)) :
    s.noteCache d c src n who = { s with evBuf := (s.noteCache d c src n who).evBuf } := by
  unfold State.noteCache
  split <;> rfl

theorem State.invalidated_acquire (s : State) (st : Strand) (c : Nat) :
    s.Invalidated (s.acquire st.at_.die st.at_.core c (st.bundle.map Prod.fst) st.at_) st c := by
  have e1 : ∀ l : List Sector, (if c = 0 then l else l.filter fun x => decide (x.unacked > 0)) = l.filter fun x => decide (c = 0 ∨ 0 < x.unacked) := by
    intro l; split <;> rename_i h
    · exact (List.filter_eq_self.2 (by simp [h])).symm
    · simp [h]
  have e2 : ∀ l : List ReuseEntry, (l.filter fun e => match e.load with
        | some l => !(c != 0 || match st.bundle.map Prod.fst with
          | some h => decide (l.bundle = some h) || s.strands.any fun x => decide (x.at_ = l.maker) && decide (x.bundle.map Prod.fst = some h)
          | none => decide (l.maker = st.at_))
        | none => true) =
      l.filter fun e => match e.load with
      | some l => decide (c = 0) && !(match st.bundle with
        | some b => decide (l.bundle = some b.1) || s.strands.any fun x => decide (x.at_ = l.maker) && decide (x.bundle.map Prod.fst = some b.1)
        | none => decide (l.maker = st.at_))
      | none => true := by
    intro l
    refine List.filter_congr fun e _ => ?_
    cases e.load with
    | none => rfl
    | some l =>
      by_cases h : c = 0
      · subst h; cases st.bundle <;> simp
      · simp [h]
  have hd : ∀ l : List Sector, (if c < 2 then l else l.filter fun y => decide (y.unacked > 0)) = l.filter fun x => decide (c < 2 ∨ 0 < x.unacked) := by
    intro l; split <;> rename_i h
    · exact (List.filter_eq_self.2 (by simp [h])).symm
    · simp [h]
  have hrd : ∀ l : List XRead, (l.map fun r => ({ r with noL1 := r.noL1 || (c != 0 && decide (r.src = st.at_.die) && decide (r.strand.core = st.at_.core)), noRdc := r.noRdc || (decide (2 ≤ c) && decide (r.src = st.at_.die)) } : XRead)) =
      l.map fun r => { r with noL1 := r.noL1 || decide (c ≠ 0 ∧ r.src = st.at_.die ∧ r.strand.core = st.at_.core), noRdc := r.noRdc || decide (2 ≤ c ∧ r.src = st.at_.die) } := by
    intro l
    refine List.map_congr_left fun r _ => ?_
    have e : (c != 0) = decide (c ≠ 0) := by cases c <;> rfl
    rw [e]
    simp only [Bool.decide_and, Bool.and_assoc]
  have hkk := fun k : Core => congr (congrArg (fun l1 r => ({ k with l1 := l1, reuse := r } : Core)) (e1 k.l1)) (e2 k.reuse)
  unfold State.acquire State.spoilFills Core.killLoads
  dsimp only
  rw [hrd]
  generalize hn : s.noteCache _ _ _ _ _ = n
  have hnc : ∀ e f, n.core e f = s.core e f := by rw [← hn]; intro e f; exact State.noteCache_core ..
  have hnd : ∀ e, n.die e = s.die e := by rw [← hn]; intro e; exact State.noteCache_die ..
  have hnr : n = { s with evBuf := n.evBuf } := by rw [← hn]; exact State.noteCache_only ..
  have hcore : ∀ k e f, (e, f) ≠ (st.at_.die, st.at_.core) → (n.setCore st.at_.die st.at_.core k).core e f = s.core e f := by
    intro k e f h; rw [State.core_setCore_other _ _ h, hnc]
  obtain ⟨ev, rfl⟩ : ∃ ev, n = { s with evBuf := ev } := ⟨_, hnr⟩
  split
  next h =>
    refine ⟨(State.core_setCore ..).trans (hkk _), ?_, hcore _, fun d _ => hnd d, rfl, rfl⟩
    refine (hnd _).trans ?_
    rw [← hd]; simp only [h, if_true]
  next h =>
    refine ⟨?_, ?_, fun e f hef => ?_, fun d hd' => ?_, rfl, rfl⟩
    · exact (State.core_setDie ..).trans ((State.core_setCore ..).trans (hkk _))
    · rw [State.die_setDie]
      rw [← hd]
      simp only [h, if_false]
      rfl
    · rw [State.core_setDie]
      exact (State.core_setCore_other _ _ hef).trans (hnc e f)
    · rw [State.die_setDie_other _ _ hd']
      exact hnd d

end Sys2Proof.Machine
end

