-- ==== Sys2Proof/Laws/Sync.lean ====
section
/-! SUPPORT. Membership, barriers and windows. -/
namespace Sys2Proof.Machine

theorem State.putStrand_putStrand (s : State) (x y : Strand) (h : x.at_ = y.at_) : (s.putStrand x).putStrand y = s.putStrand y := by
  unfold State.putStrand
  dsimp only
  rw [List.map_map]
  congr 2
  funext z
  simp only [Function.comp]
  by_cases hz : z.at_ = x.at_
  · rw [if_pos hz, if_pos h, if_pos (hz.trans h)]
  · rw [if_neg hz]

theorem le_length_of_all_mem (n : Nat) (l : List Nat) (h : ∀ k < n, k ∈ l) : n ≤ l.length := by
  induction n generalizing l with
  | zero => omega
  | succ n ih =>
    have hm := h n (by omega)
    have := ih (l.erase n) fun k hk => (List.mem_erase_of_ne (by omega)).2 (h k (by omega))
    rw [List.length_erase_of_mem hm] at this
    have : 0 < l.length := List.length_pos_of_mem hm
    omega

theorem lowestFree_spec (used : List Nat) (i n : Nat) :
    (∀ j, i ≤ j → j < lowestFree used i n → j ∈ used) ∧ (lowestFree used i n < i + n → lowestFree used i n ∉ used) ∧ i ≤ lowestFree used i n ∧ lowestFree used i n ≤ i + n := by
  induction n generalizing i with
  | zero =>
    unfold lowestFree
    exact ⟨fun j h1 h2 => absurd h2 (by omega), fun h => absurd h (by omega), by omega, by omega⟩
  | succ n ih =>
    unfold lowestFree
    by_cases h : used.contains i
    · rw [if_pos h]
      obtain ⟨h1, h2, h3, h4⟩ := ih (i + 1)
      refine ⟨fun j hj hj' => ?_, fun hj => h2 (by omega), by omega, by omega⟩
      by_cases e : j = i
      · subst e; simpa using h
      · exact h1 j (by omega) hj'
    · rw [if_neg h]
      exact ⟨fun j h1 h2 => absurd h2 (by omega), fun _ => by simpa using h, by omega, by omega⟩

theorem lowestFree_free (used : List Nat) (n : Nat) (h : used.length < n) :
    lowestFree used 0 n ∉ used ∧ ∀ j < lowestFree used 0 n, j ∈ used := by
  obtain ⟨h1, h2, -, h4⟩ := lowestFree_spec used 0 n
  have h5 := le_length_of_all_mem _ used fun k hk => h1 k (by omega) hk
  exact ⟨h2 (by omega), fun j hj => h1 j (by omega) hj⟩

theorem foldl_add_sum (l : List Bundle) (n : Nat) : l.foldl (fun n b => n + b.grant) n = n + (l.map Bundle.grant).sum := by
  induction l generalizing n with
  | nil => simp
  | cons b l ih => rw [List.foldl_cons, ih]; simp [Nat.add_assoc]

theorem State.dissolveIfDone_keeps (s : State) (e : Nat) (b : Bundle) (hb : s.bundle? e = some b)
    (h : s.memberList e ≠ [] ∨ s.bundleNamed e = true) : s.dissolveIfDone e = s := by
  unfold State.dissolveIfDone
  rw [hb]
  dsimp only
  rw [if_neg]
  simp only [Bool.and_eq_true, List.isEmpty_iff, Bool.not_eq_true']
  rintro ⟨h1, h2⟩
  rcases h with h | h
  · exact h h1
  · rw [h2] at h; cases h

theorem State.core_leftScr (s : State) (d c : Nat) (l : List (Left Host.Cell)) (e f : Nat) :
    (s.setCore d c { s.core d c with leftScr := l }).core e f =
      { s.core e f with leftScr := ((s.setCore d c { s.core d c with leftScr := l }).core e f).leftScr } := by
  by_cases hef : (e, f) = (d, c)
  · cases hef; rw [State.core_setCore]
  · rw [State.core_setCore_other _ _ hef]

theorem Strand.WroteS.at {st u : Strand} {c : Nat} {pc : Addr} {d : BitVec 7} {x : Word} (h : st.WroteS u c pc d x) :
    u.at_ = st.at_ := by rw [h.rest]; exact st.tick_at

theorem Strand.at_setS_retire (x : Strand) (d : BitVec 7) (w : Word) (c n : Nat) : ((x.setS d w).retire c n).at_ = x.at_ :=
  (x.wroteS_retire c n d w).at

theorem landExpired_all (ps : List Pend) (st : Strand) (h : ∀ p ∈ ps, p.left = 0) : (landExpired st [] ps).pend = [] := by
  induction ps generalizing st with
  | nil => rfl
  | cons p ps ih =>
    simp only [landExpired]
    rw [if_pos (h p (by simp))]
    have : (if p.causes ≠ 0 then [] else ([] : List Pend).map (Pend.dropAll p.writes)) = [] := by split <;> rfl
    rw [this]
    exact ih _ fun q hq => h q (by simp [hq])

theorem Strand.closeWindows_pend (st : Strand) : st.closeWindows.pend = [] :=
  landExpired_all _ _ fun p hp => by obtain ⟨q, -, rfl⟩ := List.mem_map.1 hp; rfl

theorem Strand.closeWindows_twice (st : Strand) : st.closeWindows.closeWindows = st.closeWindows := by
  have h : st.closeWindows.pend = [] := st.closeWindows_pend
  generalize st.closeWindows = x at h
  unfold Strand.closeWindows
  rw [h]
  cases x; cases h; rfl

end Sys2Proof.Machine
end

