-- ==== Sys2Proof/Laws/Collectives.lean ====
section
/-! SUPPORT. Votes and collectives. -/
namespace Sys2Proof.Machine

theorem State.collect_member {s : State} {st : Strand} (hs : s.curStrand = some st) (f : Strand → Wait) (hb : st.bundle ≠ none) :
    s.collect f = .next (s.putStrand { st with blocked := some { wait := f st, len := 1, woken := false, since := s.cycle } }) := by
  unfold State.collect
  rw [State.onStrand_some hs]
  dsimp only
  cases h : st.bundle with
  | none => exact absurd h hb
  | some b => simp only [Strand.block, Bool.false_eq_true, if_false, h]

/-- The strand that waits differs from the strand that issued only in its wait. -/
theorem Strand.tick_blocked (st : Strand) (b : Option Blocked) : ({ st with blocked := b } : Strand).tick = { st.tick with blocked := b } := by
  rw [Strand.tick_same (x := { st with blocked := b }) (y := st) ⟨rfl, rfl, rfl, rfl, rfl⟩ rfl rfl]
  rw [show st.tick.period = st.period - 1 by rw [st.tick_rest]]
  conv => rhs; rw [st.tick_rest]

theorem Strand.goTo_blocked (st : Strand) (b : Option Blocked) (c : Nat) (pc : Addr) :
    ({ st with blocked := b } : Strand).goTo c pc = st.goTo c pc := by
  unfold Strand.goTo; rw [Strand.tick_blocked]

theorem Strand.retire_blocked (st : Strand) (b : Option Blocked) (c n : Nat) :
    ({ st with blocked := b } : Strand).retire c n = st.retire c n := st.goTo_blocked b c _

theorem Strand.retireLong_blocked (st : Strand) (b : Option Blocked) (c n la : Nat) (p : Pend) :
    ({ st with blocked := b } : Strand).retireLong c n la p = st.retireLong c n la p := by
  unfold Strand.retireLong; rw [Strand.retire_blocked]; rfl

/-- A vote whose participants are gs (R228). -/
theorem ballot_bits (win : Nat) (ms : List Nat) (b0 : BitVec 64) (j : Nat) (hj : j < 64) :
    (ms.foldl (fun b m => if m / 64 = win then b ||| (1#64 <<< (m % 64)) else b) b0).getLsbD j =
      (b0.getLsbD j || ms.any fun m => m == 64 * win + j) := by
  induction ms generalizing b0 with
  | nil => simp
  | cons m ms ih =>
    rw [List.foldl_cons, ih, List.any_cons]
    by_cases h : m / 64 = win
    · rw [if_pos h, BitVec.getLsbD_or]
      have : (1#64 <<< (m % 64)).getLsbD j = (m == 64 * win + j) := by
        rw [BitVec.getLsbD_shiftLeft]
        by_cases e : m = 64 * win + j
        · have e2 : m % 64 = j := by omega
          have e3 : (m == 64 * win + j) = true := by simp [e]
          rw [e3, e2]; simp [hj]
        · have e3 : (m == 64 * win + j) = false := by simp [e]
          rw [e3]
          by_cases e4 : j < m % 64
          · simp [e4]
          · have : (1#64).getLsbD (j - m % 64) = false := by
              rw [BitVec.getLsbD_one]; simp; omega
            simp [this]
      rw [this, Bool.or_assoc]
    · rw [if_neg h]
      have : (m == 64 * win + j) = false := by simp; omega
      rw [this, Bool.false_or]

theorem wordSum_fold (l : List Nat) (x : Word) : l.foldl (fun a y => a + BitVec.ofNat 32 y) x = x + (l.map (BitVec.ofNat 32)).sum := by
  induction l generalizing x with
  | nil => simp
  | cons y l ih => rw [List.foldl_cons, ih, List.map_cons, List.sum_cons, BitVec.add_assoc]

theorem findIdx_mid_lt (gs : List Given) (g : Given) (h : g ∈ gs) : (gs.findIdx fun x => x.mid = g.mid) < gs.length :=
  List.findIdx_lt_length_of_exists ⟨g, h, by simp⟩

theorem replicate_getD {n j x : Nat} (h : j < n) : (List.replicate n x).getD j 0 = x := by
  rw [List.getD_eq_getElem?_getD, List.getElem?_replicate, if_pos h]; rfl

theorem foldl_or_none {α : Type} (l : List α) (f : α → BitVec 5) (a : BitVec 5) (h : ∀ x ∈ l, f x = 0) :
    l.foldl (fun a x => a ||| f x) a = a := by
  induction l generalizing a with
  | nil => rfl
  | cons x l ih => rw [List.foldl_cons, h x (by simp), show a ||| (0 : BitVec 5) = a from BitVec.or_zero]; exact ih a fun y hy => h y (by simp [hy])

/-- A participant of a BCOLL whose lanes raise no flag. -/
theorem Given.finish_coll (g : Given) (cycle : Nat) (gs : List Given) (d : BitVec 7) (y : Vec) (hm : g.major = 0x53)
    (hd : g.dst = g.strand.vName d)
    (hy : ∀ i < 8, collectLane g.sel (gs.map fun x => (lane x.val i).toNat) =
      ((collectLane g.sel (gs.map fun x => (lane x.val i).toNat)).1, 0))
    (hv : ∀ i < 8, BitVec.ofNat 32 ((collectLane g.sel (gs.map fun x => (lane x.val i).toNat)).1.getD (gs.findIdx fun x => x.mid = g.mid) 0) = lane y i) :
    g.strand.Later (g.finish cycle gs) cycle (g.strand.past g.len) g.la (entryV g.strand d y 0) := by
  have hval : ∀ (f : Nat → List Nat × BitVec 5) i, i < 8 → ((List.range 8).map f).getD i ([], 0) = f i := by
    intro f i hi
    rw [List.getD_eq_getElem?_getD, List.getElem?_map, List.getElem?_range hi]; rfl
  unfold Given.finish
  rw [if_neg (by rw [hm]; decide)]
  dsimp only
  have e1 : ((List.range 8).map fun i => collectLane g.sel (gs.map fun x => (lane x.val i).toNat)).foldl (fun f l => f ||| l.2) (0 : BitVec 5) = 0 := by
    apply foldl_or_none
    intro x hx
    obtain ⟨i, hi, rfl⟩ := List.mem_map.1 hx
    rw [hy i (by simpa using hi)]
  have e2 : (ofLanes fun i => BitVec.ofNat 32 (((((List.range 8).map fun i => collectLane g.sel (gs.map fun x => (lane x.val i).toNat)).getD i ([], 0)).1).getD
      (gs.findIdx fun x => x.mid = g.mid) 0)) = y := by
    apply vec_ext
    intro i hi
    rw [lane_ofLanes _ _ hi, hval _ i hi, hv i hi]
  rw [e1, e2, hd, pendV_entryV]
  exact Strand.later_retireLong _ _ _ _ _ ⟨rfl, rfl⟩

/-- A collective of a strand without a bundle. -/
theorem State.collect_alone {s : State} {st : Strand} (hs : s.curStrand = some st) (hb : st.bundle = none) {f : Strand → Wait}
    {major sel win la : Nat} {dst dst2 : Option Nat} {vote : Bool} {val : Vec} {word : Word}
    (hf : f st = .collective major sel dst dst2 win vote val la word) :
    s.collect f = .next (s.putStrand ((Given.mk 0 { st with blocked := some { wait := f st, len := 1, woken := false, since := s.cycle } } major sel dst dst2 win vote val la word 1).finish s.cycle
      [Given.mk 0 { st with blocked := some { wait := f st, len := 1, woken := false, since := s.cycle } } major sel dst dst2 win vote val la word 1])) := by
  unfold State.collect
  rw [State.onStrand_some hs, hb]
  dsimp only
  unfold Strand.given Strand.block
  simp only [Bool.false_eq_true, if_false, hf, hb]
  rfl

theorem Given.finish_alone (g : Given) (cycle : Nat) (d a : BitVec 7) (st : Strand) (b : Option Blocked) (f : Nat → Res)
    (hst : g.strand = { st with blocked := b }) (hm : g.major = 0x53) (hd : g.dst = st.vName d) (hv : g.val = st.v a)
    (hc : ∀ x, x < 2 ^ 32 → collectLane g.sel [x] = ([(f x).1], (f x).2)) :
    ∃ y, (∀ k < 8, lane y k = BitVec.ofNat 32 (f (st.pat 32 a k)).1) ∧
      st.Later (g.finish cycle [g]) cycle (st.past g.len) g.la
        (entryV st d y ((List.range 8).foldl (fun fl k => fl ||| (f (st.pat 32 a k)).2) 0)) := by
  have hp : ∀ i, (lane g.val i).toNat = st.pat 32 a i := by intro i; rw [hv]; rfl
  have hc' : ∀ i, collectLane g.sel [(lane g.val i).toNat] = ([(f (st.pat 32 a i)).1], (f (st.pat 32 a i)).2) := by
    intro i; rw [hc _ (lane g.val i).isLt, hp]
  have hval : ∀ (f : Nat → List Nat × BitVec 5) i, i < 8 → ((List.range 8).map f).getD i ([], 0) = f i := by
    intro f i hi
    rw [List.getD_eq_getElem?_getD, List.getElem?_map, List.getElem?_range hi]; rfl
  refine ⟨ofLanes fun i => BitVec.ofNat 32 (f (st.pat 32 a i)).1, fun k hk => lane_ofLanes _ _ hk, ?_⟩
  unfold Given.finish
  rw [if_neg (by rw [hm]; decide)]
  simp only [List.map_cons, List.map_nil, hc']
  rw [hst, Strand.retireLong_blocked, hd]
  have e1 : ([g].findIdx fun x => x.mid = g.mid) = 0 := by simp [List.findIdx_cons]
  have e2 : (ofLanes fun i => BitVec.ofNat 32 (((((List.range 8).map fun i => ([(f (st.pat 32 a i)).1], (f (st.pat 32 a i)).2)).getD i ([], 0)).1).getD 0 0)) =
      ofLanes fun i => BitVec.ofNat 32 (f (st.pat 32 a i)).1 := by
    apply ofLanes_congr
    intro i hi
    rw [hval _ i hi]; rfl
  rw [e1, e2, List.foldl_map, pendV_entryV]
  exact Strand.later_retireLong _ _ _ _ _ ⟨rfl, rfl⟩

theorem collectLane_int (n o x : Nat) (hx : x < 2 ^ 32) (hn : n ≠ 0) (h1 : 0 < o) (h2 : o < 5) :
    collectLane (n * 8 + o) [x] = ([x], 0) := by
  have hw : (BitVec.ofNat 32 x).toNat = x := by rw [BitVec.toNat_ofNat]; exact Nat.mod_eq_of_lt hx
  have hm : x % 2 ^ 32 = x := Nat.mod_eq_of_lt hx
  unfold collectLane
  have e1 : (n * 8 + o) % 8 = o := by omega
  have e2 : (n * 8 + o) / 8 = n := by omega
  rw [e1, e2]
  rcases (show o = 1 ∨ o = 2 ∨ o = 3 ∨ o = 4 by omega) with rfl | rfl | rfl | rfl
  · simp only [hn, if_false, List.foldl_nil, hw]; rfl
  · simp only [hn, if_false, List.foldl_nil, hw]; split <;> rfl
  · simp only [hn, if_false, List.foldl_nil, hw]; split <;> rfl
  · simp only [hn, if_false, List.zipIdx_cons, List.zipIdx_nil, List.map_cons, List.map_nil, List.take_succ_cons, List.take_zero, List.foldl_cons, List.foldl_nil, Nat.zero_add, hm]

theorem Strand.setPair_blocked (st : Strand) (b : Option Blocked) (d : BitVec 7) (x : BitVec 64) :
    ((({ st with blocked := b } : Strand).setSAt (st.sName d) (x.extractLsb' 0 32)).setSAt (st.sIdx (d.toNat + 1)) (x.extractLsb' 32 32)) =
      { st.setPair d x with blocked := b } := by
  unfold Strand.setPair
  cases st.sName d <;> cases st.sIdx (d.toNat + 1) <;> rfl

end Sys2Proof.Machine
end

