-- ==== Sys2Proof/Laws/Blocks.lean ====
section
/-! SUPPORT. Blocking points, flags and register blocks. -/
namespace Sys2Proof.Machine

theorem Strand.standsAt_block (st : Strand) (cycle n : Nat) (w : Wait) : st.block cycle n true w = st.standsAt cycle n w := rfl

theorem Strand.closed_block (st : Strand) (cycle n : Nat) (w : Wait) : st.closeWindows.block cycle n true w = st.standsAt cycle n w := by
  unfold Strand.block Strand.standsAt
  simp only [if_true, Strand.closeWindows_twice]

theorem Strand.closed_retire (st : Strand) (cycle n : Nat) : st.closeWindows.OnlyMoved (st.closeWindows.retire cycle n) cycle (st.past n) := by
  have e : st.closeWindows.retire cycle n = st.closeWindows.goTo cycle (st.past n) := by
    unfold Strand.retire; congr 1
    show st.closeWindows.pc + _ = _
    rw [st.closeWindows_rest]; rfl
  rw [e]; exact Strand.onlyMoved_goTo _ _ _

theorem Strand.retire_moved (st : Strand) (cycle n : Nat) : st.OnlyMoved (st.retire cycle n) cycle (st.past n) := st.onlyMoved_goTo _ _

theorem State.arrived_iff (s : State) (st : Strand) (t : Word) : s.arrived st t = true ↔ ∀ g, s.bundleOf st = some g → (g.arrive - t).toNat < 2 ^ 31 := by
  unfold State.arrived
  cases h : s.bundleOf st with
  | none => simp
  | some b => simp

theorem Strand.set_retire (st x : Strand) (cycle n : Nat) (h : x.pc = st.pc) : x.OnlyMoved (x.retire cycle n) cycle (st.past n) := by
  unfold Strand.retire Strand.after
  rw [h]
  exact x.onlyMoved_goTo _ _

theorem grantBlocks_length {α : Type} (zero : α) (w pdom n : Nat) (l : List (Left α)) (free : Nat) :
    (grantBlocks zero w pdom l free n).1.length = w * n := by
  induction n generalizing l free with
  | zero => rfl
  | succ n ih =>
    unfold grantBlocks
    dsimp only
    rw [List.length_append, ih]
    split
    · rename_i h; rw [h, Nat.mul_succ, Nat.add_comm]
    · rw [List.length_replicate, Nat.mul_succ, Nat.add_comm]

theorem chunks_length {α : Type} (w n : Nat) (l : List α) : (chunks w l n).length = n := by
  induction n generalizing l with
  | zero => rfl
  | succ n ih => unfold chunks; rw [List.length_cons, ih]

theorem landFilter_rest (f : RegWrite → Bool) (ps : List Pend) (st : Strand) :
    ps.foldl (fun st p => (p.writes.filter f).foldl Strand.landOne st) st =
      { st with sregs := (ps.foldl (fun st p => (p.writes.filter f).foldl Strand.landOne st) st).sregs,
                vregs := (ps.foldl (fun st p => (p.writes.filter f).foldl Strand.landOne st) st).vregs } := by
  induction ps generalizing st with
  | nil => rfl
  | cons p ps ih =>
    rw [List.foldl_cons, ih, foldl_landOne_rest]

theorem landFilter_rest2 (f : RegWrite → Bool) (st : Strand) (g : List Pend → List Pend) (y z : Strand)
    (hy : y = st.pend.foldl (fun st p => (p.writes.filter f).foldl Strand.landOne st) st) (hz : z = { y with pend := g y.pend }) :
    z = { st with sregs := z.sregs, vregs := z.vregs, pend := z.pend } := by
  have h := landFilter_rest f st.pend st
  rw [← hy] at h
  rw [h] at hz
  rw [hz]

theorem Strand.landAbove_rest (st : Strand) (vec : Bool) (lim : Nat) :
    st.landAbove vec lim = { st with sregs := (st.landAbove vec lim).sregs, vregs := (st.landAbove vec lim).vregs, pend := (st.landAbove vec lim).pend } :=
  landFilter_rest2 _ st _ _ _ rfl rfl

/-- The leftovers of a core may change; nothing else. -/
theorem State.core_left (s : State) (d c : Nat) (l : List (Left Word)) (v : List (Left Vec)) (e f : Nat) :
    (s.setCore d c { s.core d c with leftS := l, leftV := v }).core e f =
      { s.core e f with leftS := ((s.setCore d c { s.core d c with leftS := l, leftV := v }).core e f).leftS,
                        leftV := ((s.setCore d c { s.core d c with leftS := l, leftV := v }).core e f).leftV } := by
  by_cases hef : (e, f) = (d, c)
  · cases hef; rw [State.core_setCore]
  · rw [State.core_setCore_other _ _ hef]

end Sys2Proof.Machine
end

