-- ==== Sys2Proof/Laws/Decode.lean ====
section
/-! SUPPORT. Instruction words and their decoding, piece by piece (R158 to R168): every field accessor reads back what the word was
built from, and the major opcode selects its table. -/
namespace Sys2Proof

@[simp] theorem fOp_wordA (op : BitVec 7) (fn : BitVec 4) (d a b : BitVec 7) : fOp (wordA op fn d a b) = op := by
  ext i hi; simp [fOp, wordA]; try grind

@[simp] theorem fFn_wordA (op : BitVec 7) (fn : BitVec 4) (d a b : BitVec 7) : fFn (wordA op fn d a b) = fn := by
  ext i hi; simp [fFn, wordA]; try grind

@[simp] theorem fD_wordA (op : BitVec 7) (fn : BitVec 4) (d a b : BitVec 7) : fD (wordA op fn d a b) = d := by
  ext i hi; simp [fD, wordA]; try grind

@[simp] theorem fA_wordA (op : BitVec 7) (fn : BitVec 4) (d a b : BitVec 7) : fA (wordA op fn d a b) = a := by
  ext i hi; simp [fA, wordA]; try grind

@[simp] theorem fB_wordA (op : BitVec 7) (fn : BitVec 4) (d a b : BitVec 7) : fB (wordA op fn d a b) = b := by
  ext i hi; simp [fB, wordA]; try grind

@[simp] theorem fOp_wordC (op : BitVec 7) (fn : BitVec 4) (d : BitVec 7) (imm : BitVec 14) : fOp (wordC op fn d imm) = op := by
  ext i hi; simp [fOp, wordC]; try grind

@[simp] theorem fFn_wordC (op : BitVec 7) (fn : BitVec 4) (d : BitVec 7) (imm : BitVec 14) : fFn (wordC op fn d imm) = fn := by
  ext i hi; simp [fFn, wordC]; try grind

@[simp] theorem fD_wordC (op : BitVec 7) (fn : BitVec 4) (d : BitVec 7) (imm : BitVec 14) : fD (wordC op fn d imm) = d := by
  ext i hi; simp [fD, wordC]; try grind

@[simp] theorem fImm_wordC (op : BitVec 7) (fn : BitVec 4) (d : BitVec 7) (imm : BitVec 14) : fImm (wordC op fn d imm) = imm := by
  ext i hi; simp [fImm, wordC]; try grind

@[simp] theorem fOp_wordJ (op : BitVec 7) (fn : BitVec 4) (off : BitVec 21) : fOp (wordJ op fn off) = op := by
  ext i hi; simp [fOp, wordJ]; try grind

@[simp] theorem fFn_wordJ (op : BitVec 7) (fn : BitVec 4) (off : BitVec 21) : fFn (wordJ op fn off) = fn := by
  ext i hi; simp [fFn, wordJ]; try grind

@[simp] theorem fOff_wordJ (op : BitVec 7) (fn : BitVec 4) (off : BitVec 21) : fOff (wordJ op fn off) = off := by
  ext i hi; simp [fOff, wordJ]; try grind

@[simp] theorem fOp_mskWord (m : Msk) : fOp (mskWord m) = 0x7E#7 := by
  obtain ⟨z, p⟩ := m; revert z p; decide

@[simp] theorem mskWord_zero (m : Msk) : (mskWord m).extractLsb' 4 21 = 0#21 := by
  obtain ⟨z, p⟩ := m; revert z p; decide

@[simp] theorem mskWord_sense (m : Msk) : (mskWord m).extractLsb' 3 1 = m.sense := by
  obtain ⟨z, p⟩ := m; revert z p; decide

@[simp] theorem mskWord_pred (m : Msk) : (mskWord m).extractLsb' 0 3 = m.pred := by
  obtain ⟨z, p⟩ := m; revert z p; decide

@[simp] theorem fOp_immWord (x : BitVec 25) : fOp (immWord x) = 0x7F#7 := by
  ext i hi; simp [fOp, immWord]; try grind

@[simp] theorem immWord_bits (x : BitVec 25) : (immWord x).extractLsb' 0 25 = x := by
  ext i hi; simp [immWord]; grind


@[simp] theorem field_1_3_hi (x : BitVec 1) (y : BitVec 3) : @BitVec.extractLsb' 4 3 1 (x ++ y) = x := by
  ext i hi; simp; try grind
@[simp] theorem field_1_3_lo (x : BitVec 1) (y : BitVec 3) : @BitVec.extractLsb' 4 0 3 (x ++ y) = y := by
  ext i hi; simp; try grind

@[simp] theorem field_2_2_hi (x : BitVec 2) (y : BitVec 2) : @BitVec.extractLsb' 4 2 2 (x ++ y) = x := by
  ext i hi; simp; try grind
@[simp] theorem field_2_2_lo (x : BitVec 2) (y : BitVec 2) : @BitVec.extractLsb' 4 0 2 (x ++ y) = y := by
  ext i hi; simp; try grind

@[simp] theorem field_3_1_hi (x : BitVec 3) (y : BitVec 1) : @BitVec.extractLsb' 4 1 3 (x ++ y) = x := by
  ext i hi; simp; try grind
@[simp] theorem field_3_1_lo (x : BitVec 3) (y : BitVec 1) : @BitVec.extractLsb' 4 0 1 (x ++ y) = y := by
  ext i hi; simp; try grind

@[simp] theorem field_1_6_hi (x : BitVec 1) (y : BitVec 6) : @BitVec.extractLsb' 7 6 1 (x ++ y) = x := by
  ext i hi; simp; try grind
@[simp] theorem field_1_6_lo (x : BitVec 1) (y : BitVec 6) : @BitVec.extractLsb' 7 0 6 (x ++ y) = y := by
  ext i hi; simp; try grind

@[simp] theorem field_2_5_hi (x : BitVec 2) (y : BitVec 5) : @BitVec.extractLsb' 7 5 2 (x ++ y) = x := by
  ext i hi; simp; try grind
@[simp] theorem field_2_5_lo (x : BitVec 2) (y : BitVec 5) : @BitVec.extractLsb' 7 0 5 (x ++ y) = y := by
  ext i hi; simp; try grind

@[simp] theorem field_3_4_hi (x : BitVec 3) (y : BitVec 4) : @BitVec.extractLsb' 7 4 3 (x ++ y) = x := by
  ext i hi; simp; try grind
@[simp] theorem field_3_4_lo (x : BitVec 3) (y : BitVec 4) : @BitVec.extractLsb' 7 0 4 (x ++ y) = y := by
  ext i hi; simp; try grind

@[simp] theorem field_4_3_hi (x : BitVec 4) (y : BitVec 3) : @BitVec.extractLsb' 7 3 4 (x ++ y) = x := by
  ext i hi; simp; try grind
@[simp] theorem field_4_3_lo (x : BitVec 4) (y : BitVec 3) : @BitVec.extractLsb' 7 0 3 (x ++ y) = y := by
  ext i hi; simp; try grind

@[simp] theorem field_5_2_hi (x : BitVec 5) (y : BitVec 2) : @BitVec.extractLsb' 7 2 5 (x ++ y) = x := by
  ext i hi; simp; try grind
@[simp] theorem field_5_2_lo (x : BitVec 5) (y : BitVec 2) : @BitVec.extractLsb' 7 0 2 (x ++ y) = y := by
  ext i hi; simp; try grind

@[simp] theorem field_6_1_hi (x : BitVec 6) (y : BitVec 1) : @BitVec.extractLsb' 7 1 6 (x ++ y) = x := by
  ext i hi; simp; try grind
@[simp] theorem field_6_1_lo (x : BitVec 6) (y : BitVec 1) : @BitVec.extractLsb' 7 0 1 (x ++ y) = y := by
  ext i hi; simp; try grind

@[simp] theorem field_2_1_4_hi (x : BitVec 2) (y : BitVec 1) (z : BitVec 4) : @BitVec.extractLsb' 7 5 2 (x ++ y ++ z) = x := by
  ext i hi; simp; try grind
@[simp] theorem field_2_1_4_mid (x : BitVec 2) (y : BitVec 1) (z : BitVec 4) : @BitVec.extractLsb' 7 4 1 (x ++ y ++ z) = y := by
  ext i hi; simp; try grind

@[simp] theorem field_4_1_2_hi (x : BitVec 4) (y : BitVec 1) (z : BitVec 2) : @BitVec.extractLsb' 7 3 4 (x ++ y ++ z) = x := by
  ext i hi; simp; try grind
@[simp] theorem field_4_1_2_mid (x : BitVec 4) (y : BitVec 1) (z : BitVec 2) : @BitVec.extractLsb' 7 2 1 (x ++ y ++ z) = y := by
  ext i hi; simp; try grind
@[simp] theorem field_2_1_2_2_hi (x : BitVec 2) (y : BitVec 1) (z u : BitVec 2) : @BitVec.extractLsb' 7 5 2 (x ++ y ++ z ++ u) = x := by
  ext i hi; simp; try grind
@[simp] theorem field_2_1_2_2_mid (x : BitVec 2) (y : BitVec 1) (z u : BitVec 2) : @BitVec.extractLsb' 7 4 1 (x ++ y ++ z ++ u) = y := by
  ext i hi; simp; try grind
@[simp] theorem field_2_1_2_2_low (x : BitVec 2) (y : BitVec 1) (z u : BitVec 2) : @BitVec.extractLsb' 7 2 2 (x ++ y ++ z ++ u) = z := by
  ext i hi; simp; try grind

/-! ### The major opcode selects the table (R166) -/

theorem decodeMain_01 {mk : Option Msk} {x : Option (BitVec 25)} {w : Word} (h : fOp w = 0x01#7) :
    decodeMain mk x w = (if mk.isNone && x.isNone then decode01 (fFn w) (fD w) (fA w) (fB w) else none) := by
  unfold decodeMain; rw [h]; rfl

theorem decodeMain_02 {mk : Option Msk} {x : Option (BitVec 25)} {w : Word} (h : fOp w = 0x02#7) :
    decodeMain mk x w = (if mk.isNone then decode02 x (fFn w) (fD w) (fA w) (fB w) else none) := by
  unfold decodeMain; rw [h]; rfl

theorem decodeMain_03 {mk : Option Msk} {x : Option (BitVec 25)} {w : Word} (h : fOp w = 0x03#7) :
    decodeMain mk x w = (if mk.isNone then decode03 x (fFn w) (fD w) (fImm w) else none) := by
  unfold decodeMain; rw [h]; rfl

theorem decodeMain_04 {mk : Option Msk} {x : Option (BitVec 25)} {w : Word} (h : fOp w = 0x04#7) :
    decodeMain mk x w = (if mk.isNone && x.isNone then decode04 (fFn w) (fD w) (fA w) (fB w) else none) := by
  unfold decodeMain; rw [h]; rfl

theorem decodeMain_05 {mk : Option Msk} {x : Option (BitVec 25)} {w : Word} (h : fOp w = 0x05#7) :
    decodeMain mk x w = (if mk.isNone && x.isNone then decode05 (fFn w) (fD w) (fA w) (fB w) else none) := by
  unfold decodeMain; rw [h]; rfl

theorem decodeMain_06 {mk : Option Msk} {x : Option (BitVec 25)} {w : Word} (h : fOp w = 0x06#7) :
    decodeMain mk x w = (if mk.isNone && x.isNone then decode06 (fFn w) (fD w) (fA w) (fB w) else none) := by
  unfold decodeMain; rw [h]; rfl

theorem decodeMain_07 {mk : Option Msk} {x : Option (BitVec 25)} {w : Word} (h : fOp w = 0x07#7) :
    decodeMain mk x w = (if mk.isNone && x.isNone then decode07 (fFn w) (fD w) (fA w) (fB w) else none) := by
  unfold decodeMain; rw [h]; rfl

theorem decodeMain_08 {mk : Option Msk} {x : Option (BitVec 25)} {w : Word} (h : fOp w = 0x08#7) :
    decodeMain mk x w = (if mk.isNone && x.isNone then decode08 (fFn w) (fD w) (fA w) (fB w) else none) := by
  unfold decodeMain; rw [h]; rfl

theorem decodeMain_09 {mk : Option Msk} {x : Option (BitVec 25)} {w : Word} (h : fOp w = 0x09#7) :
    decodeMain mk x w = (if mk.isNone && x.isNone then decode09 (fFn w) (fD w) (fA w) (fB w) else none) := by
  unfold decodeMain; rw [h]; rfl

theorem decodeMain_0A {mk : Option Msk} {x : Option (BitVec 25)} {w : Word} (h : fOp w = 0x0A#7) :
    decodeMain mk x w = (if mk.isNone then decode0A x (fFn w) (fD w) (fA w) (fB w) else none) := by
  unfold decodeMain; rw [h]; rfl

theorem decodeMain_0B {mk : Option Msk} {x : Option (BitVec 25)} {w : Word} (h : fOp w = 0x0B#7) :
    decodeMain mk x w = (if mk.isNone && x.isNone then decode0B (fFn w) (fD w) (fA w) (fB w) else none) := by
  unfold decodeMain; rw [h]; rfl

theorem decodeMain_0C {mk : Option Msk} {x : Option (BitVec 25)} {w : Word} (h : fOp w = 0x0C#7) :
    decodeMain mk x w = (if mk.isNone && x.isNone then decode0C (fFn w) (fD w) (fA w) (fB w) else none) := by
  unfold decodeMain; rw [h]; rfl

theorem decodeMain_0D {mk : Option Msk} {x : Option (BitVec 25)} {w : Word} (h : fOp w = 0x0D#7) :
    decodeMain mk x w = (if mk.isNone && x.isNone then decode0D (fFn w) (fD w) (fA w) (fB w) else none) := by
  unfold decodeMain; rw [h]; rfl

theorem decodeMain_10 {mk : Option Msk} {x : Option (BitVec 25)} {w : Word} (h : fOp w = 0x10#7) :
    decodeMain mk x w = (if x.isNone then decode10 mk (fFn w) (fD w) (fA w) (fB w) else none) := by
  unfold decodeMain; rw [h]; rfl

theorem decodeMain_11 {mk : Option Msk} {x : Option (BitVec 25)} {w : Word} (h : fOp w = 0x11#7) :
    decodeMain mk x w = decode11 mk x (fFn w) (fD w) (fA w) (fB w) := by
  unfold decodeMain; rw [h]; rfl

theorem decodeMain_12 {mk : Option Msk} {x : Option (BitVec 25)} {w : Word} (h : fOp w = 0x12#7) :
    decodeMain mk x w = (if x.isNone then decode12 mk (fFn w) (fD w) (fA w) (fB w) else none) := by
  unfold decodeMain; rw [h]; rfl

theorem decodeMain_13 {mk : Option Msk} {x : Option (BitVec 25)} {w : Word} (h : fOp w = 0x13#7) :
    decodeMain mk x w = (if x.isNone then decode13 mk (fFn w) (fD w) (fA w) (fB w) else none) := by
  unfold decodeMain; rw [h]; rfl

theorem decodeMain_14 {mk : Option Msk} {x : Option (BitVec 25)} {w : Word} (h : fOp w = 0x14#7) :
    decodeMain mk x w = (if x.isNone then decode14 mk (fFn w) (fD w) (fA w) (fB w) else none) := by
  unfold decodeMain; rw [h]; rfl

theorem decodeMain_15 {mk : Option Msk} {x : Option (BitVec 25)} {w : Word} (h : fOp w = 0x15#7) :
    decodeMain mk x w = (if x.isNone then decode15 mk (fFn w) (fD w) (fA w) (fB w) else none) := by
  unfold decodeMain; rw [h]; rfl

theorem decodeMain_16 {mk : Option Msk} {x : Option (BitVec 25)} {w : Word} (h : fOp w = 0x16#7) :
    decodeMain mk x w = (if x.isNone then decode16 mk (fFn w) (fD w) (fA w) (fB w) else none) := by
  unfold decodeMain; rw [h]; rfl

theorem decodeMain_17 {mk : Option Msk} {x : Option (BitVec 25)} {w : Word} (h : fOp w = 0x17#7) :
    decodeMain mk x w = (if x.isNone then decode17 mk (fFn w) (fD w) (fA w) (fB w) else none) := by
  unfold decodeMain; rw [h]; rfl

theorem decodeMain_18 {mk : Option Msk} {x : Option (BitVec 25)} {w : Word} (h : fOp w = 0x18#7) :
    decodeMain mk x w = (if x.isNone then decode18 mk (fFn w) (fD w) (fA w) (fB w) else none) := by
  unfold decodeMain; rw [h]; rfl

theorem decodeMain_20 {mk : Option Msk} {x : Option (BitVec 25)} {w : Word} (h : fOp w = 0x20#7) :
    decodeMain mk x w = (if x.isNone then decode20 mk (fFn w) (fD w) (fA w) (fB w) else none) := by
  unfold decodeMain; rw [h]; rfl

theorem decodeMain_21 {mk : Option Msk} {x : Option (BitVec 25)} {w : Word} (h : fOp w = 0x21#7) :
    decodeMain mk x w = (if x.isNone then decode21 mk (fFn w) (fD w) (fA w) (fB w) else none) := by
  unfold decodeMain; rw [h]; rfl

theorem decodeMain_22 {mk : Option Msk} {x : Option (BitVec 25)} {w : Word} (h : fOp w = 0x22#7) :
    decodeMain mk x w = (if x.isNone then decode22 mk (fFn w) (fD w) (fA w) (fB w) else none) := by
  unfold decodeMain; rw [h]; rfl

theorem decodeMain_23 {mk : Option Msk} {x : Option (BitVec 25)} {w : Word} (h : fOp w = 0x23#7) :
    decodeMain mk x w = (if x.isNone then decode23 mk (fFn w) (fD w) (fA w) (fB w) else none) := by
  unfold decodeMain; rw [h]; rfl

theorem decodeMain_24 {mk : Option Msk} {x : Option (BitVec 25)} {w : Word} (h : fOp w = 0x24#7) :
    decodeMain mk x w = (if x.isNone then decode24 mk (fFn w) (fD w) (fA w) (fB w) else none) := by
  unfold decodeMain; rw [h]; rfl

theorem decodeMain_25 {mk : Option Msk} {x : Option (BitVec 25)} {w : Word} (h : fOp w = 0x25#7) :
    decodeMain mk x w = (if x.isNone then decode25 mk (fFn w) (fD w) (fA w) (fB w) else none) := by
  unfold decodeMain; rw [h]; rfl

theorem decodeMain_26 {mk : Option Msk} {x : Option (BitVec 25)} {w : Word} (h : fOp w = 0x26#7) :
    decodeMain mk x w = (if x.isNone then decode26 mk (fFn w) (fD w) (fA w) (fB w) else none) := by
  unfold decodeMain; rw [h]; rfl

theorem decodeMain_27 {mk : Option Msk} {x : Option (BitVec 25)} {w : Word} (h : fOp w = 0x27#7) :
    decodeMain mk x w = (if x.isNone then decode27 mk (fFn w) (fD w) (fA w) (fB w) else none) := by
  unfold decodeMain; rw [h]; rfl

theorem decodeMain_28 {mk : Option Msk} {x : Option (BitVec 25)} {w : Word} (h : fOp w = 0x28#7) :
    decodeMain mk x w = (if x.isNone then decode28 mk (fFn w) (fD w) (fA w) (fB w) else none) := by
  unfold decodeMain; rw [h]; rfl

theorem decodeMain_29 {mk : Option Msk} {x : Option (BitVec 25)} {w : Word} (h : fOp w = 0x29#7) :
    decodeMain mk x w = (if x.isNone then decode29 mk (fFn w) (fD w) (fA w) (fB w) else none) := by
  unfold decodeMain; rw [h]; rfl

theorem decodeMain_30 {mk : Option Msk} {x : Option (BitVec 25)} {w : Word} (h : fOp w = 0x30#7) :
    decodeMain mk x w = (if mk.isNone then decode30 x (fFn w) (fOff w) else none) := by
  unfold decodeMain; rw [h]; rfl

theorem decodeMain_31 {mk : Option Msk} {x : Option (BitVec 25)} {w : Word} (h : fOp w = 0x31#7) :
    decodeMain mk x w = (if mk.isNone then decode31 x (fFn w) (fOff w) else none) := by
  unfold decodeMain; rw [h]; rfl

theorem decodeMain_32 {mk : Option Msk} {x : Option (BitVec 25)} {w : Word} (h : fOp w = 0x32#7) :
    decodeMain mk x w = (if mk.isNone then decode32 x (fFn w) (fOff w) else none) := by
  unfold decodeMain; rw [h]; rfl

theorem decodeMain_33 {mk : Option Msk} {x : Option (BitVec 25)} {w : Word} (h : fOp w = 0x33#7) :
    decodeMain mk x w = (if mk.isNone && x.isNone then decode33 (fFn w) (fD w) (fA w) (fB w) else none) := by
  unfold decodeMain; rw [h]; rfl

theorem decodeMain_34 {mk : Option Msk} {x : Option (BitVec 25)} {w : Word} (h : fOp w = 0x34#7) :
    decodeMain mk x w = (if mk.isNone && x.isNone then decode34 (fFn w) (fD w) (fA w) (fB w) else none) := by
  unfold decodeMain; rw [h]; rfl

theorem decodeMain_35 {mk : Option Msk} {x : Option (BitVec 25)} {w : Word} (h : fOp w = 0x35#7) :
    decodeMain mk x w = (if mk.isNone && x.isNone then decode35 (fFn w) (fD w) (fA w) (fB w) else none) := by
  unfold decodeMain; rw [h]; rfl

theorem decodeMain_40 {mk : Option Msk} {x : Option (BitVec 25)} {w : Word} (h : fOp w = 0x40#7) :
    decodeMain mk x w = (if mk.isNone then decode40 x (fFn w) (fD w) (fA w) (fB w) else none) := by
  unfold decodeMain; rw [h]; rfl

theorem decodeMain_41 {mk : Option Msk} {x : Option (BitVec 25)} {w : Word} (h : fOp w = 0x41#7) :
    decodeMain mk x w = decode41 mk x (fFn w) (fD w) (fA w) (fB w) := by
  unfold decodeMain; rw [h]; rfl

theorem decodeMain_42 {mk : Option Msk} {x : Option (BitVec 25)} {w : Word} (h : fOp w = 0x42#7) :
    decodeMain mk x w = decode42 mk x (fFn w) (fD w) (fA w) (fB w) := by
  unfold decodeMain; rw [h]; rfl

theorem decodeMain_43 {mk : Option Msk} {x : Option (BitVec 25)} {w : Word} (h : fOp w = 0x43#7) :
    decodeMain mk x w = (if mk.isNone then decode43 x (fFn w) (fD w) (fA w) (fB w) else none) := by
  unfold decodeMain; rw [h]; rfl

theorem decodeMain_44 {mk : Option Msk} {x : Option (BitVec 25)} {w : Word} (h : fOp w = 0x44#7) :
    decodeMain mk x w = decode44 mk x (fFn w) (fD w) (fA w) (fB w) := by
  unfold decodeMain; rw [h]; rfl

theorem decodeMain_45 {mk : Option Msk} {x : Option (BitVec 25)} {w : Word} (h : fOp w = 0x45#7) :
    decodeMain mk x w = decode45 mk x (fFn w) (fD w) (fA w) (fB w) := by
  unfold decodeMain; rw [h]; rfl

theorem decodeMain_46 {mk : Option Msk} {x : Option (BitVec 25)} {w : Word} (h : fOp w = 0x46#7) :
    decodeMain mk x w = (if mk.isNone then decode46 x (fFn w) (fD w) (fA w) (fB w) else none) := by
  unfold decodeMain; rw [h]; rfl

theorem decodeMain_47 {mk : Option Msk} {x : Option (BitVec 25)} {w : Word} (h : fOp w = 0x47#7) :
    decodeMain mk x w = (if mk.isNone then decode47 x (fFn w) (fD w) (fA w) (fB w) else none) := by
  unfold decodeMain; rw [h]; rfl

theorem decodeMain_48 {mk : Option Msk} {x : Option (BitVec 25)} {w : Word} (h : fOp w = 0x48#7) :
    decodeMain mk x w = (if mk.isNone then decode48 x (fFn w) (fD w) (fA w) (fB w) else none) := by
  unfold decodeMain; rw [h]; rfl

theorem decodeMain_49 {mk : Option Msk} {x : Option (BitVec 25)} {w : Word} (h : fOp w = 0x49#7) :
    decodeMain mk x w = (if mk.isNone then decode49 x (fFn w) (fD w) (fA w) (fB w) else none) := by
  unfold decodeMain; rw [h]; rfl

theorem decodeMain_4A {mk : Option Msk} {x : Option (BitVec 25)} {w : Word} (h : fOp w = 0x4A#7) :
    decodeMain mk x w = (if mk.isNone && x.isNone then decode4A (fFn w) (fD w) (fA w) (fB w) else none) := by
  unfold decodeMain; rw [h]; rfl

theorem decodeMain_4B {mk : Option Msk} {x : Option (BitVec 25)} {w : Word} (h : fOp w = 0x4B#7) :
    decodeMain mk x w = (if mk.isNone && x.isNone then decode4B (fFn w) (fD w) (fA w) (fB w) else none) := by
  unfold decodeMain; rw [h]; rfl

theorem decodeMain_50 {mk : Option Msk} {x : Option (BitVec 25)} {w : Word} (h : fOp w = 0x50#7) :
    decodeMain mk x w = (if mk.isNone && x.isNone then decode50 (fFn w) (fD w) (fA w) (fB w) else none) := by
  unfold decodeMain; rw [h]; rfl

theorem decodeMain_51 {mk : Option Msk} {x : Option (BitVec 25)} {w : Word} (h : fOp w = 0x51#7) :
    decodeMain mk x w = (if mk.isNone && x.isNone then decode51 (fFn w) (fD w) (fA w) (fB w) else none) := by
  unfold decodeMain; rw [h]; rfl

theorem decodeMain_52 {mk : Option Msk} {x : Option (BitVec 25)} {w : Word} (h : fOp w = 0x52#7) :
    decodeMain mk x w = (if mk.isNone && x.isNone then decode52 (fFn w) (fD w) (fA w) (fB w) else none) := by
  unfold decodeMain; rw [h]; rfl

theorem decodeMain_53 {mk : Option Msk} {x : Option (BitVec 25)} {w : Word} (h : fOp w = 0x53#7) :
    decodeMain mk x w = (if mk.isNone && x.isNone then decode53 (fFn w) (fD w) (fA w) (fB w) else none) := by
  unfold decodeMain; rw [h]; rfl

theorem decodeMain_54 {mk : Option Msk} {x : Option (BitVec 25)} {w : Word} (h : fOp w = 0x54#7) :
    decodeMain mk x w = (if mk.isNone && x.isNone then decode54 (fFn w) (fD w) (fA w) (fB w) else none) := by
  unfold decodeMain; rw [h]; rfl

theorem decodeMain_55 {mk : Option Msk} {x : Option (BitVec 25)} {w : Word} (h : fOp w = 0x55#7) :
    decodeMain mk x w = (if mk.isNone && x.isNone then decode55 (fFn w) (fD w) (fA w) (fB w) else none) := by
  unfold decodeMain; rw [h]; rfl

theorem decodeMain_56 {mk : Option Msk} {x : Option (BitVec 25)} {w : Word} (h : fOp w = 0x56#7) :
    decodeMain mk x w = (if mk.isNone && x.isNone then decode56 (fFn w) (fD w) (fA w) (fB w) else none) := by
  unfold decodeMain; rw [h]; rfl

theorem decodeMain_57 {mk : Option Msk} {x : Option (BitVec 25)} {w : Word} (h : fOp w = 0x57#7) :
    decodeMain mk x w = (if mk.isNone && x.isNone then decode57 (fFn w) (fD w) (fA w) (fB w) else none) := by
  unfold decodeMain; rw [h]; rfl

theorem decodeMain_58 {mk : Option Msk} {x : Option (BitVec 25)} {w : Word} (h : fOp w = 0x58#7) :
    decodeMain mk x w = (if mk.isNone && x.isNone then decode58 (fFn w) (fD w) (fA w) (fB w) else none) := by
  unfold decodeMain; rw [h]; rfl

theorem decodeMain_5A {mk : Option Msk} {x : Option (BitVec 25)} {w : Word} (h : fOp w = 0x5A#7) :
    decodeMain mk x w = (if mk.isNone && x.isNone then decode5A (fFn w) (fD w) (fA w) (fB w) else none) := by
  unfold decodeMain; rw [h]; rfl

theorem decodeMain_60 {mk : Option Msk} {x : Option (BitVec 25)} {w : Word} (h : fOp w = 0x60#7) :
    decodeMain mk x w = (if mk.isNone && x.isNone then decode60 (fFn w) (fD w) (fA w) (fB w) else none) := by
  unfold decodeMain; rw [h]; rfl

theorem decodeMain_61 {mk : Option Msk} {x : Option (BitVec 25)} {w : Word} (h : fOp w = 0x61#7) :
    decodeMain mk x w = (if mk.isNone && x.isNone then decode61 (fFn w) (fD w) (fA w) (fB w) else none) := by
  unfold decodeMain; rw [h]; rfl

theorem decodeMain_62 {mk : Option Msk} {x : Option (BitVec 25)} {w : Word} (h : fOp w = 0x62#7) :
    decodeMain mk x w = (if mk.isNone && x.isNone then decode62 (fFn w) (fD w) (fA w) (fB w) else none) := by
  unfold decodeMain; rw [h]; rfl

theorem decodeMain_63 {mk : Option Msk} {x : Option (BitVec 25)} {w : Word} (h : fOp w = 0x63#7) :
    decodeMain mk x w = (if mk.isNone && x.isNone then decode63 (fFn w) (fD w) (fA w) (fB w) else none) := by
  unfold decodeMain; rw [h]; rfl

theorem decodeMain_64 {mk : Option Msk} {x : Option (BitVec 25)} {w : Word} (h : fOp w = 0x64#7) :
    decodeMain mk x w = (if mk.isNone && x.isNone then decode64 (fFn w) (fD w) (fA w) (fB w) else none) := by
  unfold decodeMain; rw [h]; rfl

theorem decodeMain_65 {mk : Option Msk} {x : Option (BitVec 25)} {w : Word} (h : fOp w = 0x65#7) :
    decodeMain mk x w = (if mk.isNone && x.isNone then decode65 (fFn w) (fD w) (fA w) (fB w) else none) := by
  unfold decodeMain; rw [h]; rfl

theorem decodeMain_66 {mk : Option Msk} {x : Option (BitVec 25)} {w : Word} (h : fOp w = 0x66#7) :
    decodeMain mk x w = (if mk.isNone && x.isNone then decode66 (fFn w) (fD w) (fA w) (fB w) else none) := by
  unfold decodeMain; rw [h]; rfl

theorem decodeMain_67 {mk : Option Msk} {x : Option (BitVec 25)} {w : Word} (h : fOp w = 0x67#7) :
    decodeMain mk x w = (if mk.isNone && x.isNone then decode67 (fFn w) (fD w) (fA w) (fB w) else none) := by
  unfold decodeMain; rw [h]; rfl

theorem decodeMain_68 {mk : Option Msk} {x : Option (BitVec 25)} {w : Word} (h : fOp w = 0x68#7) :
    decodeMain mk x w = (if mk.isNone && x.isNone then decode68 (fFn w) (fD w) (fA w) (fB w) else none) := by
  unfold decodeMain; rw [h]; rfl

theorem decodeMain_70 {mk : Option Msk} {x : Option (BitVec 25)} {w : Word} (h : fOp w = 0x70#7) :
    decodeMain mk x w = (if mk.isNone && x.isNone then decode70 (fFn w) (fD w) (fImm w) else none) := by
  unfold decodeMain; rw [h]; rfl

theorem decodeMain_71 {mk : Option Msk} {x : Option (BitVec 25)} {w : Word} (h : fOp w = 0x71#7) :
    decodeMain mk x w = (if mk.isNone && x.isNone then decode71 (fFn w) (fD w) (fImm w) else none) := by
  unfold decodeMain; rw [h]; rfl

theorem decodeMain_72 {mk : Option Msk} {x : Option (BitVec 25)} {w : Word} (h : fOp w = 0x72#7) :
    decodeMain mk x w = (if mk.isNone && x.isNone then decode72 (fFn w) (fD w) (fA w) (fB w) else none) := by
  unfold decodeMain; rw [h]; rfl

theorem decodeMain_73 {mk : Option Msk} {x : Option (BitVec 25)} {w : Word} (h : fOp w = 0x73#7) :
    decodeMain mk x w = (if mk.isNone && x.isNone then decode73 (fFn w) (fD w) (fA w) (fB w) else none) := by
  unfold decodeMain; rw [h]; rfl

end Sys2Proof
end

