-- ==== Sys2Proof/Laws/PerInstr.lean ====
section
/-! SUPPORT. Statements made for every instruction: the table of an instruction's major opcode reads its word back (R158, R166). -/
namespace Sys2Proof.Laws.ReadsBack

/-- The instruction word, under the prefixes the instruction carries, is read as that instruction. -/
def Statement (i : Instr) : Prop := i.encoded = true → decodeMain i.mskOf i.immOf i.word = some i

theorem powerOnReset : Statement .powerOnReset := fun h => nomatch h

theorem warmReset : Statement .warmReset := fun h => nomatch h

theorem powerSample (mw : Nat) : Statement (.powerSample mw) := fun h => nomatch h

theorem dramRefresh (die chan : Nat) : Statement (.dramRefresh die chan) := fun h => nomatch h

theorem dhTrain (m n : Nat) (v : BitVec 64) : Statement (.dhTrain m n v) := fun h => nomatch h

theorem dhTrainDone (n : Nat) (ok : Bool) : Statement (.dhTrainDone n ok) := fun h => nomatch h

theorem dhEnable (m n : Nat) (v : BitVec 64) : Statement (.dhEnable m n v) := fun h => nomatch h

theorem dhFrameStart (n : Nat) : Statement (.dhFrameStart n) := fun h => nomatch h

theorem hgHtail (m : Nat) (v : BitVec 64) : Statement (.hgHtail m v) := fun h => nomatch h

theorem taskAcceptance : Statement .taskAcceptance := fun h => nomatch h

theorem agingStep : Statement .agingStep := fun h => nomatch h

theorem evminReservation : Statement .evminReservation := fun h => nomatch h

theorem taskDispatch : Statement .taskDispatch := fun h => nomatch h

theorem bundlePlacement (die : Nat) : Statement (.bundlePlacement die) := fun h => nomatch h

theorem fastPathPlacement (die : Nat) : Statement (.fastPathPlacement die) := fun h => nomatch h

theorem stealRequest (die : Nat) : Statement (.stealRequest die) := fun h => nomatch h

theorem bundleEviction (h : Nat) : Statement (.bundleEviction h) := fun h => nomatch h

theorem bundleRestore (h die core : Nat) : Statement (.bundleRestore h die core) := fun h => nomatch h

theorem workQueueTailObserve (q : Nat) : Statement (.workQueueTailObserve q) := fun h => nomatch h

theorem workQueueLaunch (q : Nat) : Statement (.workQueueLaunch q) := fun h => nomatch h

theorem taskCompletion (key : Nat) : Statement (.taskCompletion key) := fun h => nomatch h

theorem frameToken (key : Nat) : Statement (.frameToken key) := fun h => nomatch h

theorem traceStart (key : Nat) : Statement (.traceStart key) := fun h => nomatch h

theorem traceStop (key : Nat) : Statement (.traceStop key) := fun h => nomatch h

theorem hgPolicy (m : Nat) (v : BitVec 64) : Statement (.hgPolicy m v) := fun h => nomatch h

theorem hgQtcount (m : Nat) (v : BitVec 64) : Statement (.hgQtcount m v) := fun h => nomatch h

theorem hgFkill (m : Nat) (v : BitVec 64) : Statement (.hgFkill m v) := fun h => nomatch h

theorem backwaterFullReport : Statement .backwaterFullReport := fun h => nomatch h

theorem hostIrq (m : Nat) (v : BitVec 64) : Statement (.hostIrq m v) := fun h => nomatch h

theorem mstOwn (m : Nat) (v : BitVec 64) : Statement (.mstOwn m v) := fun h => nomatch h

theorem registerWrite (m : Nat) (addr : BitVec 48) (v : BitVec 64) : Statement (.registerWrite m addr v) := fun h => nomatch h

theorem hostMemoryWrite (addr : BitVec 48) (bytes : List (BitVec 8)) : Statement (.hostMemoryWrite addr bytes) := fun h => nomatch h

theorem hostMemoryRead (addr : BitVec 48) (n : Nat) : Statement (.hostMemoryRead addr n) := fun h => nomatch h

theorem hostAtomic (op : Nat) (addr : BitVec 48) (width : Nat) (x y : BitVec 128) : Statement (.hostAtomic op addr width x y) := fun h => nomatch h

theorem lineLeaseExpiry (cache line : Nat) : Statement (.lineLeaseExpiry cache line) := fun h => nomatch h

theorem crossDieWriteApply (id : Nat) : Statement (.crossDieWriteApply id) := fun h => nomatch h

theorem writeAcknowledge (id : Nat) : Statement (.writeAcknowledge id) := fun h => nomatch h

theorem readRequestServe (id : Nat) (data : BitVec 256) : Statement (.readRequestServe id data) := fun h => nomatch h

theorem loadDataReturn (die core slot n : Nat) : Statement (.loadDataReturn die core slot n) := fun h => nomatch h

theorem walkComplete (die pdom page : Nat) : Statement (.walkComplete die pdom page) := fun h => nomatch h

theorem uncorrectableMemoryError (atom : BitVec 48) (dirtyL2 : Bool) : Statement (.uncorrectableMemoryError atom dirtyL2) := fun h => nomatch h

theorem scratchpadSoftError (die core what off : Nat) : Statement (.scratchpadSoftError die core what off) := fun h => nomatch h

theorem ackOverdue (id : Nat) : Statement (.ackOverdue id) := fun h => nomatch h

theorem watchTimeout (die core slot : Nat) : Statement (.watchTimeout die core slot) := fun h => nomatch h

theorem strandWake (die core slot : Nat) : Statement (.strandWake die core slot) := fun h => nomatch h

theorem rwrDeposit (id : Nat) : Statement (.rwrDeposit id) := fun h => nomatch h

theorem mailboxAccept (id bit : Nat) : Statement (.mailboxAccept id bit) := fun h => nomatch h

theorem mxMma (die core : Nat) : Statement (.mxMma die core) := fun h => nomatch h

theorem mxMmac (die core : Nat) : Statement (.mxMmac die core) := fun h => nomatch h

theorem ssbScan (die core : Nat) : Statement (.ssbScan die core) := fun h => nomatch h

theorem ceCopy (die core : Nat) : Statement (.ceCopy die core) := fun h => nomatch h

theorem qeQuant (die cluster : Nat) : Statement (.qeQuant die cluster) := fun h => nomatch h

theorem engineCommandComplete (die unit eng : Nat) : Statement (.engineCommandComplete die unit eng) := fun h => nomatch h

theorem engctlResume (die core : Nat) (v : BitVec 32) : Statement (.engctlResume die core v) := fun h => nomatch h

theorem engctlAbandon (die core : Nat) (v : BitVec 32) : Statement (.engctlAbandon die core v) := fun h => nomatch h

theorem mxringTailObserve (die core : Nat) : Statement (.mxringTailObserve die core) := fun h => nomatch h

theorem weirAdmit (id : Nat) : Statement (.weirAdmit id) := fun h => nomatch h

theorem flumeRaster (id : Nat) : Statement (.flumeRaster id) := fun h => nomatch h

theorem flumeDepth (id : Nat) : Statement (.flumeDepth id) := fun h => nomatch h

theorem flumeBlend (id : Nat) : Statement (.flumeBlend id) := fun h => nomatch h

theorem flumeTessellator (id : Nat) : Statement (.flumeTessellator id) := fun h => nomatch h

theorem flumeTextureFilter (id : Nat) : Statement (.flumeTextureFilter id) := fun h => nomatch h

theorem flumeTraversal (id : Nat) : Statement (.flumeTraversal id) := fun h => nomatch h

theorem flumeReprojection (id : Nat) : Statement (.flumeReprojection id) := fun h => nomatch h

theorem flumeSieve (id : Nat) : Statement (.flumeSieve id) := fun h => nomatch h

theorem sieveAgeFlush (bucket : Nat) : Statement (.sieveAgeFlush bucket) := fun h => nomatch h

theorem queueRoomResume (id : Nat) : Statement (.queueRoomResume id) := fun h => nomatch h

theorem orderDomainAdvance (n : Nat) : Statement (.orderDomainAdvance n) := fun h => nomatch h

theorem traversalTask (key : Nat) : Statement (.traversalTask key) := fun h => nomatch h

theorem flDom (m n : Nat) (v : BitVec 64) : Statement (.flDom m n v) := fun h => nomatch h

theorem pair (w : List (BitVec 32)) : Statement (.pair w) := fun h => nomatch h

theorem pairAck (w : List (BitVec 32)) : Statement (.pairAck w) := fun h => nomatch h

theorem migrate (w : List (BitVec 32)) : Statement (.migrate w) := fun h => nomatch h

theorem migrateDone (w : List (BitVec 32)) : Statement (.migrateDone w) := fun h => nomatch h

theorem move (w : List (BitVec 32)) : Statement (.move w) := fun h => nomatch h

theorem moveData (w : List (BitVec 32)) (bytes : List (BitVec 8)) (marks : List Nat) : Statement (.moveData w bytes marks) := fun h => nomatch h

theorem stepAck (w : List (BitVec 32)) : Statement (.stepAck w) := fun h => nomatch h

theorem release (w : List (BitVec 32)) : Statement (.release w) := fun h => nomatch h

theorem cisternStep : Statement .cisternStep := fun h => nomatch h

theorem companionSurpriseDown : Statement .companionSurpriseDown := fun h => nomatch h

theorem companionUnresponsive : Statement .companionUnresponsive := fun h => nomatch h

theorem azRetrain (m : Nat) (v : BitVec 64) : Statement (.azRetrain m v) := fun h => nomatch h

theorem azClrpart (m : Nat) (v : BitVec 64) : Statement (.azClrpart m v) := fun h => nomatch h

theorem partClearDone : Statement .partClearDone := fun h => nomatch h

theorem hostLinkDown : Statement .hostLinkDown := fun h => nomatch h

theorem i3cTargetReset : Statement .i3cTargetReset := fun h => nomatch h

theorem mgDbg (m : Nat) (v : BitVec 64) : Statement (.mgDbg m v) := fun h => nomatch h

theorem mgPwrReq (m : Nat) (v : BitVec 64) : Statement (.mgPwrReq m v) := fun h => nomatch h

theorem retentionEntry : Statement .retentionEntry := fun h => nomatch h

theorem idleEntry : Statement .idleEntry := fun h => nomatch h

theorem mgHalt (m : Nat) (v : BitVec 64) : Statement (.mgHalt m v) := fun h => nomatch h

theorem mgHaltResume (m : Nat) (v : BitVec 64) : Statement (.mgHaltResume m v) := fun h => nomatch h

theorem blobTransition (bytes : List (BitVec 8)) (sigOk : Bool) : Statement (.blobTransition bytes sigOk) := fun h => nomatch h

theorem blobConfiguration (bytes : List (BitVec 8)) (sigOk : Bool) : Statement (.blobConfiguration bytes sigOk) := fun h => nomatch h

theorem contextCapture (kind : Nat) (id : Nat) : Statement (.contextCapture kind id) := fun h => nomatch h

theorem taskEnd (key : Nat) : Statement (.taskEnd key) := fun h => nomatch h

theorem dumpWrite (key : Nat) : Statement (.dumpWrite key) := fun h => nomatch h

theorem saluAdd (d : BitVec 7) (a : BitVec 7) (b : BitVec 7) : Statement (.saluAdd d a b) := by
  intro _; show decodeMain none none (wordA 0x01#7 0#4 d a b) = _
  rw [decodeMain_01 (fOp_wordA ..)]; simp [decode01]

theorem saluSub (d : BitVec 7) (a : BitVec 7) (b : BitVec 7) : Statement (.saluSub d a b) := by
  intro _; show decodeMain none none (wordA 0x01#7 1#4 d a b) = _
  rw [decodeMain_01 (fOp_wordA ..)]; simp [decode01]

theorem saluMul (d : BitVec 7) (a : BitVec 7) (b : BitVec 7) : Statement (.saluMul d a b) := by
  intro _; show decodeMain none none (wordA 0x01#7 2#4 d a b) = _
  rw [decodeMain_01 (fOp_wordA ..)]; simp [decode01]

theorem saluMulhs (d : BitVec 7) (a : BitVec 7) (b : BitVec 7) : Statement (.saluMulhs d a b) := by
  intro _; show decodeMain none none (wordA 0x01#7 3#4 d a b) = _
  rw [decodeMain_01 (fOp_wordA ..)]; simp [decode01]

theorem saluMulhu (d : BitVec 7) (a : BitVec 7) (b : BitVec 7) : Statement (.saluMulhu d a b) := by
  intro _; show decodeMain none none (wordA 0x01#7 4#4 d a b) = _
  rw [decodeMain_01 (fOp_wordA ..)]; simp [decode01]

theorem saluAnd (d : BitVec 7) (a : BitVec 7) (b : BitVec 7) : Statement (.saluAnd d a b) := by
  intro _; show decodeMain none none (wordA 0x01#7 5#4 d a b) = _
  rw [decodeMain_01 (fOp_wordA ..)]; simp [decode01]

theorem saluOr (d : BitVec 7) (a : BitVec 7) (b : BitVec 7) : Statement (.saluOr d a b) := by
  intro _; show decodeMain none none (wordA 0x01#7 6#4 d a b) = _
  rw [decodeMain_01 (fOp_wordA ..)]; simp [decode01]

theorem saluXor (d : BitVec 7) (a : BitVec 7) (b : BitVec 7) : Statement (.saluXor d a b) := by
  intro _; show decodeMain none none (wordA 0x01#7 7#4 d a b) = _
  rw [decodeMain_01 (fOp_wordA ..)]; simp [decode01]

theorem saluShl (d : BitVec 7) (a : BitVec 7) (b : BitVec 7) : Statement (.saluShl d a b) := by
  intro _; show decodeMain none none (wordA 0x01#7 8#4 d a b) = _
  rw [decodeMain_01 (fOp_wordA ..)]; simp [decode01]

theorem saluShr (d : BitVec 7) (a : BitVec 7) (b : BitVec 7) : Statement (.saluShr d a b) := by
  intro _; show decodeMain none none (wordA 0x01#7 9#4 d a b) = _
  rw [decodeMain_01 (fOp_wordA ..)]; simp [decode01]

theorem saluSar (d : BitVec 7) (a : BitVec 7) (b : BitVec 7) : Statement (.saluSar d a b) := by
  intro _; show decodeMain none none (wordA 0x01#7 10#4 d a b) = _
  rw [decodeMain_01 (fOp_wordA ..)]; simp [decode01]

theorem saluMin (d : BitVec 7) (a : BitVec 7) (b : BitVec 7) : Statement (.saluMin d a b) := by
  intro _; show decodeMain none none (wordA 0x01#7 11#4 d a b) = _
  rw [decodeMain_01 (fOp_wordA ..)]; simp [decode01]

theorem saluMax (d : BitVec 7) (a : BitVec 7) (b : BitVec 7) : Statement (.saluMax d a b) := by
  intro _; show decodeMain none none (wordA 0x01#7 12#4 d a b) = _
  rw [decodeMain_01 (fOp_wordA ..)]; simp [decode01]

theorem saluMinu (d : BitVec 7) (a : BitVec 7) (b : BitVec 7) : Statement (.saluMinu d a b) := by
  intro _; show decodeMain none none (wordA 0x01#7 13#4 d a b) = _
  rw [decodeMain_01 (fOp_wordA ..)]; simp [decode01]

theorem saluMaxu (d : BitVec 7) (a : BitVec 7) (b : BitVec 7) : Statement (.saluMaxu d a b) := by
  intro _; show decodeMain none none (wordA 0x01#7 14#4 d a b) = _
  rw [decodeMain_01 (fOp_wordA ..)]; simp [decode01]

theorem saluSlt (d : BitVec 7) (a : BitVec 7) (b : BitVec 7) : Statement (.saluSlt d a b) := by
  intro _; show decodeMain none none (wordA 0x01#7 15#4 d a b) = _
  rw [decodeMain_01 (fOp_wordA ..)]; simp [decode01]

theorem saluiAdd (x : Option (BitVec 25)) (d : BitVec 7) (a : BitVec 7) (i : BitVec 7) : Statement (.saluiAdd x d a i) := by
  intro _; show decodeMain none x (wordA 0x02#7 0#4 d a i) = _
  rw [decodeMain_02 (fOp_wordA ..)]; simp [decode02]

theorem saluiSub (x : Option (BitVec 25)) (d : BitVec 7) (a : BitVec 7) (i : BitVec 7) : Statement (.saluiSub x d a i) := by
  intro _; show decodeMain none x (wordA 0x02#7 1#4 d a i) = _
  rw [decodeMain_02 (fOp_wordA ..)]; simp [decode02]

theorem saluiMul (x : Option (BitVec 25)) (d : BitVec 7) (a : BitVec 7) (i : BitVec 7) : Statement (.saluiMul x d a i) := by
  intro _; show decodeMain none x (wordA 0x02#7 2#4 d a i) = _
  rw [decodeMain_02 (fOp_wordA ..)]; simp [decode02]

theorem saluiMulhs (x : Option (BitVec 25)) (d : BitVec 7) (a : BitVec 7) (i : BitVec 7) : Statement (.saluiMulhs x d a i) := by
  intro _; show decodeMain none x (wordA 0x02#7 3#4 d a i) = _
  rw [decodeMain_02 (fOp_wordA ..)]; simp [decode02]

theorem saluiMulhu (x : Option (BitVec 25)) (d : BitVec 7) (a : BitVec 7) (i : BitVec 7) : Statement (.saluiMulhu x d a i) := by
  intro _; show decodeMain none x (wordA 0x02#7 4#4 d a i) = _
  rw [decodeMain_02 (fOp_wordA ..)]; simp [decode02]

theorem saluiAnd (x : Option (BitVec 25)) (d : BitVec 7) (a : BitVec 7) (i : BitVec 7) : Statement (.saluiAnd x d a i) := by
  intro _; show decodeMain none x (wordA 0x02#7 5#4 d a i) = _
  rw [decodeMain_02 (fOp_wordA ..)]; simp [decode02]

theorem saluiOr (x : Option (BitVec 25)) (d : BitVec 7) (a : BitVec 7) (i : BitVec 7) : Statement (.saluiOr x d a i) := by
  intro _; show decodeMain none x (wordA 0x02#7 6#4 d a i) = _
  rw [decodeMain_02 (fOp_wordA ..)]; simp [decode02]

theorem saluiXor (x : Option (BitVec 25)) (d : BitVec 7) (a : BitVec 7) (i : BitVec 7) : Statement (.saluiXor x d a i) := by
  intro _; show decodeMain none x (wordA 0x02#7 7#4 d a i) = _
  rw [decodeMain_02 (fOp_wordA ..)]; simp [decode02]

theorem saluiShl (x : Option (BitVec 25)) (d : BitVec 7) (a : BitVec 7) (i : BitVec 7) : Statement (.saluiShl x d a i) := by
  intro _; show decodeMain none x (wordA 0x02#7 8#4 d a i) = _
  rw [decodeMain_02 (fOp_wordA ..)]; simp [decode02]

theorem saluiShr (x : Option (BitVec 25)) (d : BitVec 7) (a : BitVec 7) (i : BitVec 7) : Statement (.saluiShr x d a i) := by
  intro _; show decodeMain none x (wordA 0x02#7 9#4 d a i) = _
  rw [decodeMain_02 (fOp_wordA ..)]; simp [decode02]

theorem saluiSar (x : Option (BitVec 25)) (d : BitVec 7) (a : BitVec 7) (i : BitVec 7) : Statement (.saluiSar x d a i) := by
  intro _; show decodeMain none x (wordA 0x02#7 10#4 d a i) = _
  rw [decodeMain_02 (fOp_wordA ..)]; simp [decode02]

theorem saluiMin (x : Option (BitVec 25)) (d : BitVec 7) (a : BitVec 7) (i : BitVec 7) : Statement (.saluiMin x d a i) := by
  intro _; show decodeMain none x (wordA 0x02#7 11#4 d a i) = _
  rw [decodeMain_02 (fOp_wordA ..)]; simp [decode02]

theorem saluiMax (x : Option (BitVec 25)) (d : BitVec 7) (a : BitVec 7) (i : BitVec 7) : Statement (.saluiMax x d a i) := by
  intro _; show decodeMain none x (wordA 0x02#7 12#4 d a i) = _
  rw [decodeMain_02 (fOp_wordA ..)]; simp [decode02]

theorem saluiMinu (x : Option (BitVec 25)) (d : BitVec 7) (a : BitVec 7) (i : BitVec 7) : Statement (.saluiMinu x d a i) := by
  intro _; show decodeMain none x (wordA 0x02#7 13#4 d a i) = _
  rw [decodeMain_02 (fOp_wordA ..)]; simp [decode02]

theorem saluiMaxu (x : Option (BitVec 25)) (d : BitVec 7) (a : BitVec 7) (i : BitVec 7) : Statement (.saluiMaxu x d a i) := by
  intro _; show decodeMain none x (wordA 0x02#7 14#4 d a i) = _
  rw [decodeMain_02 (fOp_wordA ..)]; simp [decode02]

theorem saluiSlt (x : Option (BitVec 25)) (d : BitVec 7) (a : BitVec 7) (i : BitVec 7) : Statement (.saluiSlt x d a i) := by
  intro _; show decodeMain none x (wordA 0x02#7 15#4 d a i) = _
  rw [decodeMain_02 (fOp_wordA ..)]; simp [decode02]

theorem li (x : Option (BitVec 25)) (d : BitVec 7) (i : BitVec 14) : Statement (.li x d i) := by
  intro _; show decodeMain none x (wordC 0x03#7 0#4 d i) = _
  rw [decodeMain_03 (fOp_wordC ..)]; simp [decode03]

theorem lih (d : BitVec 7) (i : BitVec 14) : Statement (.lih d i) := by
  intro _; show decodeMain none none (wordC 0x03#7 1#4 d i) = _
  rw [decodeMain_03 (fOp_wordC ..)]; simp [decode03]

theorem sbitPopc (d : BitVec 7) (a : BitVec 7) : Statement (.sbitPopc d a) := by
  intro _; show decodeMain none none (wordA 0x04#7 0#4 d a 0#7) = _
  rw [decodeMain_04 (fOp_wordA ..)]; simp [decode04]

theorem sbitClz (d : BitVec 7) (a : BitVec 7) : Statement (.sbitClz d a) := by
  intro _; show decodeMain none none (wordA 0x04#7 1#4 d a 0#7) = _
  rw [decodeMain_04 (fOp_wordA ..)]; simp [decode04]

theorem sbitCtz (d : BitVec 7) (a : BitVec 7) : Statement (.sbitCtz d a) := by
  intro _; show decodeMain none none (wordA 0x04#7 2#4 d a 0#7) = _
  rw [decodeMain_04 (fOp_wordA ..)]; simp [decode04]

theorem sbitBrev (d : BitVec 7) (a : BitVec 7) : Statement (.sbitBrev d a) := by
  intro _; show decodeMain none none (wordA 0x04#7 3#4 d a 0#7) = _
  rw [decodeMain_04 (fOp_wordA ..)]; simp [decode04]

theorem bfx (d : BitVec 7) (a : BitVec 7) (b : BitVec 7) : Statement (.bfx d a b) := by
  intro _; show decodeMain none none (wordA 0x04#7 4#4 d a b) = _
  rw [decodeMain_04 (fOp_wordA ..)]; simp [decode04]

theorem bfi (d : BitVec 7) (a : BitVec 7) (b : BitVec 7) : Statement (.bfi d a b) := by
  intro _; show decodeMain none none (wordA 0x04#7 5#4 d a b) = _
  rw [decodeMain_04 (fOp_wordA ..)]; simp [decode04]

theorem sextb (d : BitVec 7) (a : BitVec 7) : Statement (.sextb d a) := by
  intro _; show decodeMain none none (wordA 0x04#7 6#4 d a 0#7) = _
  rw [decodeMain_04 (fOp_wordA ..)]; simp [decode04]

theorem sexth (d : BitVec 7) (a : BitVec 7) : Statement (.sexth d a) := by
  intro _; show decodeMain none none (wordA 0x04#7 7#4 d a 0#7) = _
  rw [decodeMain_04 (fOp_wordA ..)]; simp [decode04]

theorem zextb (d : BitVec 7) (a : BitVec 7) : Statement (.zextb d a) := by
  intro _; show decodeMain none none (wordA 0x04#7 8#4 d a 0#7) = _
  rw [decodeMain_04 (fOp_wordA ..)]; simp [decode04]

theorem zexth (d : BitVec 7) (a : BitVec 7) : Statement (.zexth d a) := by
  intro _; show decodeMain none none (wordA 0x04#7 9#4 d a 0#7) = _
  rw [decodeMain_04 (fOp_wordA ..)]; simp [decode04]

theorem div (l : BitVec 4) (d : BitVec 7) (a : BitVec 7) (b : BitVec 7) : Statement (.div l d a b) := by
  intro _; show decodeMain none none (wordA 0x05#7 l d a b) = _
  rw [decodeMain_05 (fOp_wordA ..)]; simp [decode05]

theorem divu (l : BitVec 4) (d : BitVec 7) (a : BitVec 7) (b : BitVec 7) : Statement (.divu l d a b) := by
  intro _; show decodeMain none none (wordA 0x06#7 l d a b) = _
  rw [decodeMain_06 (fOp_wordA ..)]; simp [decode06]

theorem rem (l : BitVec 4) (d : BitVec 7) (a : BitVec 7) (b : BitVec 7) : Statement (.rem l d a b) := by
  intro _; show decodeMain none none (wordA 0x07#7 l d a b) = _
  rw [decodeMain_07 (fOp_wordA ..)]; simp [decode07]

theorem remu (l : BitVec 4) (d : BitVec 7) (a : BitVec 7) (b : BitVec 7) : Statement (.remu l d a b) := by
  intro _; show decodeMain none none (wordA 0x08#7 l d a b) = _
  rw [decodeMain_08 (fOp_wordA ..)]; simp [decode08]

theorem scmpEq (d : BitVec 3) (a : BitVec 7) (b : BitVec 7) : Statement (.scmpEq d a b) := by
  intro _; show decodeMain none none (wordA 0x09#7 0#4 (0#4 ++ d) a b) = _
  rw [decodeMain_09 (fOp_wordA ..)]; simp [decode09]

theorem scmpNe (d : BitVec 3) (a : BitVec 7) (b : BitVec 7) : Statement (.scmpNe d a b) := by
  intro _; show decodeMain none none (wordA 0x09#7 1#4 (0#4 ++ d) a b) = _
  rw [decodeMain_09 (fOp_wordA ..)]; simp [decode09]

theorem scmpLt (d : BitVec 3) (a : BitVec 7) (b : BitVec 7) : Statement (.scmpLt d a b) := by
  intro _; show decodeMain none none (wordA 0x09#7 2#4 (0#4 ++ d) a b) = _
  rw [decodeMain_09 (fOp_wordA ..)]; simp [decode09]

theorem scmpLe (d : BitVec 3) (a : BitVec 7) (b : BitVec 7) : Statement (.scmpLe d a b) := by
  intro _; show decodeMain none none (wordA 0x09#7 3#4 (0#4 ++ d) a b) = _
  rw [decodeMain_09 (fOp_wordA ..)]; simp [decode09]

theorem scmpGt (d : BitVec 3) (a : BitVec 7) (b : BitVec 7) : Statement (.scmpGt d a b) := by
  intro _; show decodeMain none none (wordA 0x09#7 4#4 (0#4 ++ d) a b) = _
  rw [decodeMain_09 (fOp_wordA ..)]; simp [decode09]

theorem scmpGe (d : BitVec 3) (a : BitVec 7) (b : BitVec 7) : Statement (.scmpGe d a b) := by
  intro _; show decodeMain none none (wordA 0x09#7 5#4 (0#4 ++ d) a b) = _
  rw [decodeMain_09 (fOp_wordA ..)]; simp [decode09]

theorem scmpLtu (d : BitVec 3) (a : BitVec 7) (b : BitVec 7) : Statement (.scmpLtu d a b) := by
  intro _; show decodeMain none none (wordA 0x09#7 6#4 (0#4 ++ d) a b) = _
  rw [decodeMain_09 (fOp_wordA ..)]; simp [decode09]

theorem scmpLeu (d : BitVec 3) (a : BitVec 7) (b : BitVec 7) : Statement (.scmpLeu d a b) := by
  intro _; show decodeMain none none (wordA 0x09#7 7#4 (0#4 ++ d) a b) = _
  rw [decodeMain_09 (fOp_wordA ..)]; simp [decode09]

theorem scmpGtu (d : BitVec 3) (a : BitVec 7) (b : BitVec 7) : Statement (.scmpGtu d a b) := by
  intro _; show decodeMain none none (wordA 0x09#7 8#4 (0#4 ++ d) a b) = _
  rw [decodeMain_09 (fOp_wordA ..)]; simp [decode09]

theorem scmpGeu (d : BitVec 3) (a : BitVec 7) (b : BitVec 7) : Statement (.scmpGeu d a b) := by
  intro _; show decodeMain none none (wordA 0x09#7 9#4 (0#4 ++ d) a b) = _
  rw [decodeMain_09 (fOp_wordA ..)]; simp [decode09]

theorem scmpiEq (x : Option (BitVec 25)) (d : BitVec 3) (a : BitVec 7) (i : BitVec 7) : Statement (.scmpiEq x d a i) := by
  intro _; show decodeMain none x (wordA 0x0A#7 0#4 (0#4 ++ d) a i) = _
  rw [decodeMain_0A (fOp_wordA ..)]; simp [decode0A]

theorem scmpiNe (x : Option (BitVec 25)) (d : BitVec 3) (a : BitVec 7) (i : BitVec 7) : Statement (.scmpiNe x d a i) := by
  intro _; show decodeMain none x (wordA 0x0A#7 1#4 (0#4 ++ d) a i) = _
  rw [decodeMain_0A (fOp_wordA ..)]; simp [decode0A]

theorem scmpiLt (x : Option (BitVec 25)) (d : BitVec 3) (a : BitVec 7) (i : BitVec 7) : Statement (.scmpiLt x d a i) := by
  intro _; show decodeMain none x (wordA 0x0A#7 2#4 (0#4 ++ d) a i) = _
  rw [decodeMain_0A (fOp_wordA ..)]; simp [decode0A]

theorem scmpiLe (x : Option (BitVec 25)) (d : BitVec 3) (a : BitVec 7) (i : BitVec 7) : Statement (.scmpiLe x d a i) := by
  intro _; show decodeMain none x (wordA 0x0A#7 3#4 (0#4 ++ d) a i) = _
  rw [decodeMain_0A (fOp_wordA ..)]; simp [decode0A]

theorem scmpiGt (x : Option (BitVec 25)) (d : BitVec 3) (a : BitVec 7) (i : BitVec 7) : Statement (.scmpiGt x d a i) := by
  intro _; show decodeMain none x (wordA 0x0A#7 4#4 (0#4 ++ d) a i) = _
  rw [decodeMain_0A (fOp_wordA ..)]; simp [decode0A]

theorem scmpiGe (x : Option (BitVec 25)) (d : BitVec 3) (a : BitVec 7) (i : BitVec 7) : Statement (.scmpiGe x d a i) := by
  intro _; show decodeMain none x (wordA 0x0A#7 5#4 (0#4 ++ d) a i) = _
  rw [decodeMain_0A (fOp_wordA ..)]; simp [decode0A]

theorem scmpiLtu (x : Option (BitVec 25)) (d : BitVec 3) (a : BitVec 7) (i : BitVec 7) : Statement (.scmpiLtu x d a i) := by
  intro _; show decodeMain none x (wordA 0x0A#7 6#4 (0#4 ++ d) a i) = _
  rw [decodeMain_0A (fOp_wordA ..)]; simp [decode0A]

theorem scmpiLeu (x : Option (BitVec 25)) (d : BitVec 3) (a : BitVec 7) (i : BitVec 7) : Statement (.scmpiLeu x d a i) := by
  intro _; show decodeMain none x (wordA 0x0A#7 7#4 (0#4 ++ d) a i) = _
  rw [decodeMain_0A (fOp_wordA ..)]; simp [decode0A]

theorem scmpiGtu (x : Option (BitVec 25)) (d : BitVec 3) (a : BitVec 7) (i : BitVec 7) : Statement (.scmpiGtu x d a i) := by
  intro _; show decodeMain none x (wordA 0x0A#7 8#4 (0#4 ++ d) a i) = _
  rw [decodeMain_0A (fOp_wordA ..)]; simp [decode0A]

theorem scmpiGeu (x : Option (BitVec 25)) (d : BitVec 3) (a : BitVec 7) (i : BitVec 7) : Statement (.scmpiGeu x d a i) := by
  intro _; show decodeMain none x (wordA 0x0A#7 9#4 (0#4 ++ d) a i) = _
  rw [decodeMain_0A (fOp_wordA ..)]; simp [decode0A]

theorem pand (d : BitVec 3) (a : BitVec 3) (b : BitVec 3) : Statement (.pand d a b) := by
  intro _; show decodeMain none none (wordA 0x0B#7 0#4 (0#4 ++ d) (0#4 ++ a) (0#4 ++ b)) = _
  rw [decodeMain_0B (fOp_wordA ..)]; simp [decode0B]

theorem por (d : BitVec 3) (a : BitVec 3) (b : BitVec 3) : Statement (.por d a b) := by
  intro _; show decodeMain none none (wordA 0x0B#7 1#4 (0#4 ++ d) (0#4 ++ a) (0#4 ++ b)) = _
  rw [decodeMain_0B (fOp_wordA ..)]; simp [decode0B]

theorem pxor (d : BitVec 3) (a : BitVec 3) (b : BitVec 3) : Statement (.pxor d a b) := by
  intro _; show decodeMain none none (wordA 0x0B#7 2#4 (0#4 ++ d) (0#4 ++ a) (0#4 ++ b)) = _
  rw [decodeMain_0B (fOp_wordA ..)]; simp [decode0B]

theorem pandn (d : BitVec 3) (a : BitVec 3) (b : BitVec 3) : Statement (.pandn d a b) := by
  intro _; show decodeMain none none (wordA 0x0B#7 3#4 (0#4 ++ d) (0#4 ++ a) (0#4 ++ b)) = _
  rw [decodeMain_0B (fOp_wordA ..)]; simp [decode0B]

theorem porn (d : BitVec 3) (a : BitVec 3) (b : BitVec 3) : Statement (.porn d a b) := by
  intro _; show decodeMain none none (wordA 0x0B#7 4#4 (0#4 ++ d) (0#4 ++ a) (0#4 ++ b)) = _
  rw [decodeMain_0B (fOp_wordA ..)]; simp [decode0B]

theorem pnot (d : BitVec 3) (a : BitVec 3) : Statement (.pnot d a) := by
  intro _; show decodeMain none none (wordA 0x0B#7 5#4 (0#4 ++ d) (0#4 ++ a) 0#7) = _
  rw [decodeMain_0B (fOp_wordA ..)]; simp [decode0B]

theorem pmov (d : BitVec 3) (a : BitVec 3) : Statement (.pmov d a) := by
  intro _; show decodeMain none none (wordA 0x0B#7 6#4 (0#4 ++ d) (0#4 ++ a) 0#7) = _
  rw [decodeMain_0B (fOp_wordA ..)]; simp [decode0B]

theorem pclr (d : BitVec 3) : Statement (.pclr d) := by
  intro _; show decodeMain none none (wordA 0x0B#7 7#4 (0#4 ++ d) 0#7 0#7) = _
  rw [decodeMain_0B (fOp_wordA ..)]; simp [decode0B]

theorem pset (d : BitVec 3) : Statement (.pset d) := by
  intro _; show decodeMain none none (wordA 0x0B#7 8#4 (0#4 ++ d) 0#7 0#7) = _
  rw [decodeMain_0B (fOp_wordA ..)]; simp [decode0B]

theorem sel (s : BitVec 1) (p : BitVec 3) (d : BitVec 7) (a : BitVec 7) (b : BitVec 7) : Statement (.sel s p d a b) := by
  intro _; show decodeMain none none (wordA 0x0C#7 (s ++ p) d a b) = _
  rw [decodeMain_0C (fOp_wordA ..)]; simp [decode0C]

theorem bcasts (d : BitVec 7) (a : BitVec 7) : Statement (.bcasts d a) := by
  intro _; show decodeMain none none (wordA 0x0D#7 0#4 d a 0#7) = _
  rw [decodeMain_0D (fOp_wordA ..)]; simp [decode0D]

theorem extr (d : BitVec 7) (a : BitVec 7) (k : BitVec 3) : Statement (.extr d a k) := by
  intro _; show decodeMain none none (wordA 0x0D#7 1#4 d a (0#4 ++ k)) = _
  rw [decodeMain_0D (fOp_wordA ..)]; simp [decode0D]

theorem insr (d : BitVec 7) (a : BitVec 7) (k : BitVec 3) : Statement (.insr d a k) := by
  intro _; show decodeMain none none (wordA 0x0D#7 2#4 d a (0#4 ++ k)) = _
  rw [decodeMain_0D (fOp_wordA ..)]; simp [decode0D]

theorem crd (d : BitVec 7) (a : BitVec 5) : Statement (.crd d a) := by
  intro _; show decodeMain none none (wordA 0x0D#7 3#4 d (0#2 ++ a) 0#7) = _
  rw [decodeMain_0D (fOp_wordA ..)]; simp [decode0D]

theorem cwr (d : BitVec 5) (a : BitVec 7) : Statement (.cwr d a) := by
  intro _; show decodeMain none none (wordA 0x0D#7 4#4 (0#2 ++ d) a 0#7) = _
  rw [decodeMain_0D (fOp_wordA ..)]; simp [decode0D]

theorem srd (d : BitVec 7) (a : BitVec 7) : Statement (.srd d a) := by
  intro _; show decodeMain none none (wordA 0x0D#7 5#4 d a 0#7) = _
  rw [decodeMain_0D (fOp_wordA ..)]; simp [decode0D]

theorem movs (d : BitVec 7) (a : BitVec 7) : Statement (.movs d a) := by
  intro _; show decodeMain none none (wordA 0x0D#7 6#4 d a 0#7) = _
  rw [decodeMain_0D (fOp_wordA ..)]; simp [decode0D]

theorem movv (d : BitVec 7) (a : BitVec 7) : Statement (.movv d a) := by
  intro _; show decodeMain none none (wordA 0x0D#7 7#4 d a 0#7) = _
  rw [decodeMain_0D (fOp_wordA ..)]; simp [decode0D]

theorem prd (d : BitVec 7) (a : BitVec 3) : Statement (.prd d a) := by
  intro _; show decodeMain none none (wordA 0x0D#7 8#4 d (0#4 ++ a) 0#7) = _
  rw [decodeMain_0D (fOp_wordA ..)]; simp [decode0D]

theorem pwr (d : BitVec 3) (a : BitVec 7) : Statement (.pwr d a) := by
  intro _; show decodeMain none none (wordA 0x0D#7 9#4 (0#4 ++ d) a 0#7) = _
  rw [decodeMain_0D (fOp_wordA ..)]; simp [decode0D]

theorem valuAdd (mk : Option Msk) (d : BitVec 7) (a : BitVec 7) (b : BitVec 7) : Statement (.valuAdd mk d a b) := by
  intro _; show decodeMain mk none (wordA 0x10#7 0#4 d a b) = _
  rw [decodeMain_10 (fOp_wordA ..)]; simp [decode10]

theorem valuSub (mk : Option Msk) (d : BitVec 7) (a : BitVec 7) (b : BitVec 7) : Statement (.valuSub mk d a b) := by
  intro _; show decodeMain mk none (wordA 0x10#7 1#4 d a b) = _
  rw [decodeMain_10 (fOp_wordA ..)]; simp [decode10]

theorem valuMul (mk : Option Msk) (d : BitVec 7) (a : BitVec 7) (b : BitVec 7) : Statement (.valuMul mk d a b) := by
  intro _; show decodeMain mk none (wordA 0x10#7 2#4 d a b) = _
  rw [decodeMain_10 (fOp_wordA ..)]; simp [decode10]

theorem valuMulhs (mk : Option Msk) (d : BitVec 7) (a : BitVec 7) (b : BitVec 7) : Statement (.valuMulhs mk d a b) := by
  intro _; show decodeMain mk none (wordA 0x10#7 3#4 d a b) = _
  rw [decodeMain_10 (fOp_wordA ..)]; simp [decode10]

theorem valuMulhu (mk : Option Msk) (d : BitVec 7) (a : BitVec 7) (b : BitVec 7) : Statement (.valuMulhu mk d a b) := by
  intro _; show decodeMain mk none (wordA 0x10#7 4#4 d a b) = _
  rw [decodeMain_10 (fOp_wordA ..)]; simp [decode10]

theorem valuAdds (mk : Option Msk) (d : BitVec 7) (a : BitVec 7) (b : BitVec 7) : Statement (.valuAdds mk d a b) := by
  intro _; show decodeMain mk none (wordA 0x10#7 5#4 d a b) = _
  rw [decodeMain_10 (fOp_wordA ..)]; simp [decode10]

theorem valuSubs (mk : Option Msk) (d : BitVec 7) (a : BitVec 7) (b : BitVec 7) : Statement (.valuSubs mk d a b) := by
  intro _; show decodeMain mk none (wordA 0x10#7 6#4 d a b) = _
  rw [decodeMain_10 (fOp_wordA ..)]; simp [decode10]

theorem valuAddus (mk : Option Msk) (d : BitVec 7) (a : BitVec 7) (b : BitVec 7) : Statement (.valuAddus mk d a b) := by
  intro _; show decodeMain mk none (wordA 0x10#7 7#4 d a b) = _
  rw [decodeMain_10 (fOp_wordA ..)]; simp [decode10]

theorem valuSubus (mk : Option Msk) (d : BitVec 7) (a : BitVec 7) (b : BitVec 7) : Statement (.valuSubus mk d a b) := by
  intro _; show decodeMain mk none (wordA 0x10#7 8#4 d a b) = _
  rw [decodeMain_10 (fOp_wordA ..)]; simp [decode10]

theorem valuMin (mk : Option Msk) (d : BitVec 7) (a : BitVec 7) (b : BitVec 7) : Statement (.valuMin mk d a b) := by
  intro _; show decodeMain mk none (wordA 0x10#7 9#4 d a b) = _
  rw [decodeMain_10 (fOp_wordA ..)]; simp [decode10]

theorem valuMax (mk : Option Msk) (d : BitVec 7) (a : BitVec 7) (b : BitVec 7) : Statement (.valuMax mk d a b) := by
  intro _; show decodeMain mk none (wordA 0x10#7 10#4 d a b) = _
  rw [decodeMain_10 (fOp_wordA ..)]; simp [decode10]

theorem valuMinu (mk : Option Msk) (d : BitVec 7) (a : BitVec 7) (b : BitVec 7) : Statement (.valuMinu mk d a b) := by
  intro _; show decodeMain mk none (wordA 0x10#7 11#4 d a b) = _
  rw [decodeMain_10 (fOp_wordA ..)]; simp [decode10]

theorem valuMaxu (mk : Option Msk) (d : BitVec 7) (a : BitVec 7) (b : BitVec 7) : Statement (.valuMaxu mk d a b) := by
  intro _; show decodeMain mk none (wordA 0x10#7 12#4 d a b) = _
  rw [decodeMain_10 (fOp_wordA ..)]; simp [decode10]

theorem valuAbs (mk : Option Msk) (d : BitVec 7) (a : BitVec 7) : Statement (.valuAbs mk d a) := by
  intro _; show decodeMain mk none (wordA 0x10#7 13#4 d a 0#7) = _
  rw [decodeMain_10 (fOp_wordA ..)]; simp [decode10]

theorem valuNeg (mk : Option Msk) (d : BitVec 7) (a : BitVec 7) : Statement (.valuNeg mk d a) := by
  intro _; show decodeMain mk none (wordA 0x10#7 14#4 d a 0#7) = _
  rw [decodeMain_10 (fOp_wordA ..)]; simp [decode10]

theorem valuAbsd (mk : Option Msk) (d : BitVec 7) (a : BitVec 7) (b : BitVec 7) : Statement (.valuAbsd mk d a b) := by
  intro _; show decodeMain mk none (wordA 0x10#7 15#4 d a b) = _
  rw [decodeMain_10 (fOp_wordA ..)]; simp [decode10]

theorem valuiAdd (mk : Option Msk) (x : Option (BitVec 25)) (d : BitVec 7) (a : BitVec 7) (i : BitVec 7) : Statement (.valuiAdd mk x d a i) := by
  intro _; show decodeMain mk x (wordA 0x11#7 0#4 d a i) = _
  rw [decodeMain_11 (fOp_wordA ..)]; simp [decode11]

theorem valuiSub (mk : Option Msk) (x : Option (BitVec 25)) (d : BitVec 7) (a : BitVec 7) (i : BitVec 7) : Statement (.valuiSub mk x d a i) := by
  intro _; show decodeMain mk x (wordA 0x11#7 1#4 d a i) = _
  rw [decodeMain_11 (fOp_wordA ..)]; simp [decode11]

theorem valuiMul (mk : Option Msk) (x : Option (BitVec 25)) (d : BitVec 7) (a : BitVec 7) (i : BitVec 7) : Statement (.valuiMul mk x d a i) := by
  intro _; show decodeMain mk x (wordA 0x11#7 2#4 d a i) = _
  rw [decodeMain_11 (fOp_wordA ..)]; simp [decode11]

theorem valuiMulhs (mk : Option Msk) (x : Option (BitVec 25)) (d : BitVec 7) (a : BitVec 7) (i : BitVec 7) : Statement (.valuiMulhs mk x d a i) := by
  intro _; show decodeMain mk x (wordA 0x11#7 3#4 d a i) = _
  rw [decodeMain_11 (fOp_wordA ..)]; simp [decode11]

theorem valuiMulhu (mk : Option Msk) (x : Option (BitVec 25)) (d : BitVec 7) (a : BitVec 7) (i : BitVec 7) : Statement (.valuiMulhu mk x d a i) := by
  intro _; show decodeMain mk x (wordA 0x11#7 4#4 d a i) = _
  rw [decodeMain_11 (fOp_wordA ..)]; simp [decode11]

theorem valuiAdds (mk : Option Msk) (x : Option (BitVec 25)) (d : BitVec 7) (a : BitVec 7) (i : BitVec 7) : Statement (.valuiAdds mk x d a i) := by
  intro _; show decodeMain mk x (wordA 0x11#7 5#4 d a i) = _
  rw [decodeMain_11 (fOp_wordA ..)]; simp [decode11]

theorem valuiSubs (mk : Option Msk) (x : Option (BitVec 25)) (d : BitVec 7) (a : BitVec 7) (i : BitVec 7) : Statement (.valuiSubs mk x d a i) := by
  intro _; show decodeMain mk x (wordA 0x11#7 6#4 d a i) = _
  rw [decodeMain_11 (fOp_wordA ..)]; simp [decode11]

theorem valuiAddus (mk : Option Msk) (x : Option (BitVec 25)) (d : BitVec 7) (a : BitVec 7) (i : BitVec 7) : Statement (.valuiAddus mk x d a i) := by
  intro _; show decodeMain mk x (wordA 0x11#7 7#4 d a i) = _
  rw [decodeMain_11 (fOp_wordA ..)]; simp [decode11]

theorem valuiSubus (mk : Option Msk) (x : Option (BitVec 25)) (d : BitVec 7) (a : BitVec 7) (i : BitVec 7) : Statement (.valuiSubus mk x d a i) := by
  intro _; show decodeMain mk x (wordA 0x11#7 8#4 d a i) = _
  rw [decodeMain_11 (fOp_wordA ..)]; simp [decode11]

theorem valuiMin (mk : Option Msk) (x : Option (BitVec 25)) (d : BitVec 7) (a : BitVec 7) (i : BitVec 7) : Statement (.valuiMin mk x d a i) := by
  intro _; show decodeMain mk x (wordA 0x11#7 9#4 d a i) = _
  rw [decodeMain_11 (fOp_wordA ..)]; simp [decode11]

theorem valuiMax (mk : Option Msk) (x : Option (BitVec 25)) (d : BitVec 7) (a : BitVec 7) (i : BitVec 7) : Statement (.valuiMax mk x d a i) := by
  intro _; show decodeMain mk x (wordA 0x11#7 10#4 d a i) = _
  rw [decodeMain_11 (fOp_wordA ..)]; simp [decode11]

theorem valuiMinu (mk : Option Msk) (x : Option (BitVec 25)) (d : BitVec 7) (a : BitVec 7) (i : BitVec 7) : Statement (.valuiMinu mk x d a i) := by
  intro _; show decodeMain mk x (wordA 0x11#7 11#4 d a i) = _
  rw [decodeMain_11 (fOp_wordA ..)]; simp [decode11]

theorem valuiMaxu (mk : Option Msk) (x : Option (BitVec 25)) (d : BitVec 7) (a : BitVec 7) (i : BitVec 7) : Statement (.valuiMaxu mk x d a i) := by
  intro _; show decodeMain mk x (wordA 0x11#7 12#4 d a i) = _
  rw [decodeMain_11 (fOp_wordA ..)]; simp [decode11]

theorem valuiAbsd (mk : Option Msk) (x : Option (BitVec 25)) (d : BitVec 7) (a : BitVec 7) (i : BitVec 7) : Statement (.valuiAbsd mk x d a i) := by
  intro _; show decodeMain mk x (wordA 0x11#7 15#4 d a i) = _
  rw [decodeMain_11 (fOp_wordA ..)]; simp [decode11]

theorem vmadMad (mk : Option Msk) (d : BitVec 7) (a : BitVec 7) (b : BitVec 7) : Statement (.vmadMad mk d a b) := by
  intro _; show decodeMain mk none (wordA 0x12#7 0#4 d a b) = _
  rw [decodeMain_12 (fOp_wordA ..)]; simp [decode12]

theorem vmadMsb (mk : Option Msk) (d : BitVec 7) (a : BitVec 7) (b : BitVec 7) : Statement (.vmadMsb mk d a b) := by
  intro _; show decodeMain mk none (wordA 0x12#7 1#4 d a b) = _
  rw [decodeMain_12 (fOp_wordA ..)]; simp [decode12]

theorem vmadMads (mk : Option Msk) (d : BitVec 7) (a : BitVec 7) (b : BitVec 7) : Statement (.vmadMads mk d a b) := by
  intro _; show decodeMain mk none (wordA 0x12#7 2#4 d a b) = _
  rw [decodeMain_12 (fOp_wordA ..)]; simp [decode12]

theorem vmadMadI16 (mk : Option Msk) (d : BitVec 7) (a : BitVec 7) (b : BitVec 7) : Statement (.vmadMadI16 mk d a b) := by
  intro _; show decodeMain mk none (wordA 0x12#7 3#4 d a b) = _
  rw [decodeMain_12 (fOp_wordA ..)]; simp [decode12]

theorem vmadMadI8 (mk : Option Msk) (d : BitVec 7) (a : BitVec 7) (b : BitVec 7) : Statement (.vmadMadI8 mk d a b) := by
  intro _; show decodeMain mk none (wordA 0x12#7 4#4 d a b) = _
  rw [decodeMain_12 (fOp_wordA ..)]; simp [decode12]

theorem vdot2 (mk : Option Msk) (d : BitVec 7) (a : BitVec 7) (b : BitVec 7) : Statement (.vdot2 mk d a b) := by
  intro _; show decodeMain mk none (wordA 0x12#7 5#4 d a b) = _
  rw [decodeMain_12 (fOp_wordA ..)]; simp [decode12]

theorem vdot4 (mk : Option Msk) (d : BitVec 7) (a : BitVec 7) (b : BitVec 7) : Statement (.vdot4 mk d a b) := by
  intro _; show decodeMain mk none (wordA 0x12#7 6#4 d a b) = _
  rw [decodeMain_12 (fOp_wordA ..)]; simp [decode12]

theorem vdot4u (mk : Option Msk) (d : BitVec 7) (a : BitVec 7) (b : BitVec 7) : Statement (.vdot4u mk d a b) := by
  intro _; show decodeMain mk none (wordA 0x12#7 7#4 d a b) = _
  rw [decodeMain_12 (fOp_wordA ..)]; simp [decode12]

theorem vcmpEq (mk : Option Msk) (d : BitVec 3) (a : BitVec 7) (b : BitVec 7) : Statement (.vcmpEq mk d a b) := by
  intro _; show decodeMain mk none (wordA 0x13#7 0#4 (0#4 ++ d) a b) = _
  rw [decodeMain_13 (fOp_wordA ..)]; simp [decode13]

theorem vcmpNe (mk : Option Msk) (d : BitVec 3) (a : BitVec 7) (b : BitVec 7) : Statement (.vcmpNe mk d a b) := by
  intro _; show decodeMain mk none (wordA 0x13#7 1#4 (0#4 ++ d) a b) = _
  rw [decodeMain_13 (fOp_wordA ..)]; simp [decode13]

theorem vcmpLt (mk : Option Msk) (d : BitVec 3) (a : BitVec 7) (b : BitVec 7) : Statement (.vcmpLt mk d a b) := by
  intro _; show decodeMain mk none (wordA 0x13#7 2#4 (0#4 ++ d) a b) = _
  rw [decodeMain_13 (fOp_wordA ..)]; simp [decode13]

theorem vcmpLe (mk : Option Msk) (d : BitVec 3) (a : BitVec 7) (b : BitVec 7) : Statement (.vcmpLe mk d a b) := by
  intro _; show decodeMain mk none (wordA 0x13#7 3#4 (0#4 ++ d) a b) = _
  rw [decodeMain_13 (fOp_wordA ..)]; simp [decode13]

theorem vcmpGt (mk : Option Msk) (d : BitVec 3) (a : BitVec 7) (b : BitVec 7) : Statement (.vcmpGt mk d a b) := by
  intro _; show decodeMain mk none (wordA 0x13#7 4#4 (0#4 ++ d) a b) = _
  rw [decodeMain_13 (fOp_wordA ..)]; simp [decode13]

theorem vcmpGe (mk : Option Msk) (d : BitVec 3) (a : BitVec 7) (b : BitVec 7) : Statement (.vcmpGe mk d a b) := by
  intro _; show decodeMain mk none (wordA 0x13#7 5#4 (0#4 ++ d) a b) = _
  rw [decodeMain_13 (fOp_wordA ..)]; simp [decode13]

theorem vcmpLtu (mk : Option Msk) (d : BitVec 3) (a : BitVec 7) (b : BitVec 7) : Statement (.vcmpLtu mk d a b) := by
  intro _; show decodeMain mk none (wordA 0x13#7 6#4 (0#4 ++ d) a b) = _
  rw [decodeMain_13 (fOp_wordA ..)]; simp [decode13]

theorem vcmpLeu (mk : Option Msk) (d : BitVec 3) (a : BitVec 7) (b : BitVec 7) : Statement (.vcmpLeu mk d a b) := by
  intro _; show decodeMain mk none (wordA 0x13#7 7#4 (0#4 ++ d) a b) = _
  rw [decodeMain_13 (fOp_wordA ..)]; simp [decode13]

theorem vcmpGtu (mk : Option Msk) (d : BitVec 3) (a : BitVec 7) (b : BitVec 7) : Statement (.vcmpGtu mk d a b) := by
  intro _; show decodeMain mk none (wordA 0x13#7 8#4 (0#4 ++ d) a b) = _
  rw [decodeMain_13 (fOp_wordA ..)]; simp [decode13]

theorem vcmpGeu (mk : Option Msk) (d : BitVec 3) (a : BitVec 7) (b : BitVec 7) : Statement (.vcmpGeu mk d a b) := by
  intro _; show decodeMain mk none (wordA 0x13#7 9#4 (0#4 ++ d) a b) = _
  rw [decodeMain_13 (fOp_wordA ..)]; simp [decode13]

theorem vcmpEqI16 (mk : Option Msk) (d : BitVec 3) (a : BitVec 7) (b : BitVec 7) : Statement (.vcmpEqI16 mk d a b) := by
  intro _; show decodeMain mk none (wordA 0x13#7 10#4 (0#4 ++ d) a b) = _
  rw [decodeMain_13 (fOp_wordA ..)]; simp [decode13]

theorem vcmpLtI16 (mk : Option Msk) (d : BitVec 3) (a : BitVec 7) (b : BitVec 7) : Statement (.vcmpLtI16 mk d a b) := by
  intro _; show decodeMain mk none (wordA 0x13#7 11#4 (0#4 ++ d) a b) = _
  rw [decodeMain_13 (fOp_wordA ..)]; simp [decode13]

theorem vcmpLtuI16 (mk : Option Msk) (d : BitVec 3) (a : BitVec 7) (b : BitVec 7) : Statement (.vcmpLtuI16 mk d a b) := by
  intro _; show decodeMain mk none (wordA 0x13#7 12#4 (0#4 ++ d) a b) = _
  rw [decodeMain_13 (fOp_wordA ..)]; simp [decode13]

theorem vcmpEqI8 (mk : Option Msk) (d : BitVec 3) (a : BitVec 7) (b : BitVec 7) : Statement (.vcmpEqI8 mk d a b) := by
  intro _; show decodeMain mk none (wordA 0x13#7 13#4 (0#4 ++ d) a b) = _
  rw [decodeMain_13 (fOp_wordA ..)]; simp [decode13]

theorem vcmpLtI8 (mk : Option Msk) (d : BitVec 3) (a : BitVec 7) (b : BitVec 7) : Statement (.vcmpLtI8 mk d a b) := by
  intro _; show decodeMain mk none (wordA 0x13#7 14#4 (0#4 ++ d) a b) = _
  rw [decodeMain_13 (fOp_wordA ..)]; simp [decode13]

theorem vcmpLtuI8 (mk : Option Msk) (d : BitVec 3) (a : BitVec 7) (b : BitVec 7) : Statement (.vcmpLtuI8 mk d a b) := by
  intro _; show decodeMain mk none (wordA 0x13#7 15#4 (0#4 ++ d) a b) = _
  rw [decodeMain_13 (fOp_wordA ..)]; simp [decode13]

theorem perm (mk : Option Msk) (d : BitVec 7) (a : BitVec 7) (b : BitVec 7) : Statement (.perm mk d a b) := by
  intro _; show decodeMain mk none (wordA 0x14#7 0#4 d a b) = _
  rw [decodeMain_14 (fOp_wordA ..)]; simp [decode14]

theorem shuf (mk : Option Msk) (d : BitVec 7) (a : BitVec 7) (b : BitVec 7) : Statement (.shuf mk d a b) := by
  intro _; show decodeMain mk none (wordA 0x14#7 1#4 d a b) = _
  rw [decodeMain_14 (fOp_wordA ..)]; simp [decode14]

theorem rot (mk : Option Msk) (d : BitVec 7) (a : BitVec 7) (k : BitVec 3) : Statement (.rot mk d a k) := by
  intro _; show decodeMain mk none (wordA 0x14#7 2#4 d a (0#4 ++ k)) = _
  rw [decodeMain_14 (fOp_wordA ..)]; simp [decode14]

theorem ext (mk : Option Msk) (d : BitVec 7) (a : BitVec 7) (k : BitVec 3) : Statement (.ext mk d a k) := by
  intro _; show decodeMain mk none (wordA 0x14#7 3#4 d a (0#4 ++ k)) = _
  rw [decodeMain_14 (fOp_wordA ..)]; simp [decode14]

theorem ins (mk : Option Msk) (d : BitVec 7) (a : BitVec 7) (k : BitVec 3) : Statement (.ins mk d a k) := by
  intro _; show decodeMain mk none (wordA 0x14#7 4#4 d a (0#4 ++ k)) = _
  rw [decodeMain_14 (fOp_wordA ..)]; simp [decode14]

theorem zip (mk : Option Msk) (d : BitVec 7) (a : BitVec 7) (b : BitVec 7) : Statement (.zip mk d a b) := by
  intro _; show decodeMain mk none (wordA 0x14#7 5#4 d a b) = _
  rw [decodeMain_14 (fOp_wordA ..)]; simp [decode14]

theorem unzip (mk : Option Msk) (d : BitVec 7) (a : BitVec 7) (b : BitVec 7) : Statement (.unzip mk d a b) := by
  intro _; show decodeMain mk none (wordA 0x14#7 6#4 d a b) = _
  rw [decodeMain_14 (fOp_wordA ..)]; simp [decode14]

theorem vpackAdd (mk : Option Msk) (w : BitVec 1) (d : BitVec 7) (a : BitVec 7) (b : BitVec 7) : Statement (.vpackAdd mk w d a b) := by
  intro _; show decodeMain mk none (wordA 0x15#7 (w ++ 0#3) d a b) = _
  rw [decodeMain_15 (fOp_wordA ..)]; simp [decode15]

theorem vpackSub (mk : Option Msk) (w : BitVec 1) (d : BitVec 7) (a : BitVec 7) (b : BitVec 7) : Statement (.vpackSub mk w d a b) := by
  intro _; show decodeMain mk none (wordA 0x15#7 (w ++ 1#3) d a b) = _
  rw [decodeMain_15 (fOp_wordA ..)]; simp [decode15]

theorem vpackAdds (mk : Option Msk) (w : BitVec 1) (d : BitVec 7) (a : BitVec 7) (b : BitVec 7) : Statement (.vpackAdds mk w d a b) := by
  intro _; show decodeMain mk none (wordA 0x15#7 (w ++ 2#3) d a b) = _
  rw [decodeMain_15 (fOp_wordA ..)]; simp [decode15]

theorem vpackSubs (mk : Option Msk) (w : BitVec 1) (d : BitVec 7) (a : BitVec 7) (b : BitVec 7) : Statement (.vpackSubs mk w d a b) := by
  intro _; show decodeMain mk none (wordA 0x15#7 (w ++ 3#3) d a b) = _
  rw [decodeMain_15 (fOp_wordA ..)]; simp [decode15]

theorem vpackAddus (mk : Option Msk) (w : BitVec 1) (d : BitVec 7) (a : BitVec 7) (b : BitVec 7) : Statement (.vpackAddus mk w d a b) := by
  intro _; show decodeMain mk none (wordA 0x15#7 (w ++ 4#3) d a b) = _
  rw [decodeMain_15 (fOp_wordA ..)]; simp [decode15]

theorem vpackSubus (mk : Option Msk) (w : BitVec 1) (d : BitVec 7) (a : BitVec 7) (b : BitVec 7) : Statement (.vpackSubus mk w d a b) := by
  intro _; show decodeMain mk none (wordA 0x15#7 (w ++ 5#3) d a b) = _
  rw [decodeMain_15 (fOp_wordA ..)]; simp [decode15]

theorem vpackMin (mk : Option Msk) (w : BitVec 1) (d : BitVec 7) (a : BitVec 7) (b : BitVec 7) : Statement (.vpackMin mk w d a b) := by
  intro _; show decodeMain mk none (wordA 0x15#7 (w ++ 6#3) d a b) = _
  rw [decodeMain_15 (fOp_wordA ..)]; simp [decode15]

theorem vpackMax (mk : Option Msk) (w : BitVec 1) (d : BitVec 7) (a : BitVec 7) (b : BitVec 7) : Statement (.vpackMax mk w d a b) := by
  intro _; show decodeMain mk none (wordA 0x15#7 (w ++ 7#3) d a b) = _
  rw [decodeMain_15 (fOp_wordA ..)]; simp [decode15]

theorem redadd (mk : Option Msk) (d : BitVec 7) (a : BitVec 7) : Statement (.redadd mk d a) := by
  intro _; show decodeMain mk none (wordA 0x16#7 0#4 d a 0#7) = _
  rw [decodeMain_16 (fOp_wordA ..)]; simp [decode16]

theorem redmin (mk : Option Msk) (d : BitVec 7) (a : BitVec 7) : Statement (.redmin mk d a) := by
  intro _; show decodeMain mk none (wordA 0x16#7 1#4 d a 0#7) = _
  rw [decodeMain_16 (fOp_wordA ..)]; simp [decode16]

theorem redmax (mk : Option Msk) (d : BitVec 7) (a : BitVec 7) : Statement (.redmax mk d a) := by
  intro _; show decodeMain mk none (wordA 0x16#7 2#4 d a 0#7) = _
  rw [decodeMain_16 (fOp_wordA ..)]; simp [decode16]

theorem redminu (mk : Option Msk) (d : BitVec 7) (a : BitVec 7) : Statement (.redminu mk d a) := by
  intro _; show decodeMain mk none (wordA 0x16#7 3#4 d a 0#7) = _
  rw [decodeMain_16 (fOp_wordA ..)]; simp [decode16]

theorem redmaxu (mk : Option Msk) (d : BitVec 7) (a : BitVec 7) : Statement (.redmaxu mk d a) := by
  intro _; show decodeMain mk none (wordA 0x16#7 4#4 d a 0#7) = _
  rw [decodeMain_16 (fOp_wordA ..)]; simp [decode16]

theorem redand (mk : Option Msk) (d : BitVec 7) (a : BitVec 7) : Statement (.redand mk d a) := by
  intro _; show decodeMain mk none (wordA 0x16#7 5#4 d a 0#7) = _
  rw [decodeMain_16 (fOp_wordA ..)]; simp [decode16]

theorem redor (mk : Option Msk) (d : BitVec 7) (a : BitVec 7) : Statement (.redor mk d a) := by
  intro _; show decodeMain mk none (wordA 0x16#7 6#4 d a 0#7) = _
  rw [decodeMain_16 (fOp_wordA ..)]; simp [decode16]

theorem redxor (mk : Option Msk) (d : BitVec 7) (a : BitVec 7) : Statement (.redxor mk d a) := by
  intro _; show decodeMain mk none (wordA 0x16#7 7#4 d a 0#7) = _
  rw [decodeMain_16 (fOp_wordA ..)]; simp [decode16]

theorem redaddF32 (mk : Option Msk) (d : BitVec 7) (a : BitVec 7) : Statement (.redaddF32 mk d a) := by
  intro _; show decodeMain mk none (wordA 0x16#7 8#4 d a 0#7) = _
  rw [decodeMain_16 (fOp_wordA ..)]; simp [decode16]

theorem redminF32 (mk : Option Msk) (d : BitVec 7) (a : BitVec 7) : Statement (.redminF32 mk d a) := by
  intro _; show decodeMain mk none (wordA 0x16#7 9#4 d a 0#7) = _
  rw [decodeMain_16 (fOp_wordA ..)]; simp [decode16]

theorem redmaxF32 (mk : Option Msk) (d : BitVec 7) (a : BitVec 7) : Statement (.redmaxF32 mk d a) := by
  intro _; show decodeMain mk none (wordA 0x16#7 10#4 d a 0#7) = _
  rw [decodeMain_16 (fOp_wordA ..)]; simp [decode16]

theorem vbitAnd (mk : Option Msk) (d : BitVec 7) (a : BitVec 7) (b : BitVec 7) : Statement (.vbitAnd mk d a b) := by
  intro _; show decodeMain mk none (wordA 0x17#7 0#4 d a b) = _
  rw [decodeMain_17 (fOp_wordA ..)]; simp [decode17]

theorem vbitOr (mk : Option Msk) (d : BitVec 7) (a : BitVec 7) (b : BitVec 7) : Statement (.vbitOr mk d a b) := by
  intro _; show decodeMain mk none (wordA 0x17#7 1#4 d a b) = _
  rw [decodeMain_17 (fOp_wordA ..)]; simp [decode17]

theorem vbitXor (mk : Option Msk) (d : BitVec 7) (a : BitVec 7) (b : BitVec 7) : Statement (.vbitXor mk d a b) := by
  intro _; show decodeMain mk none (wordA 0x17#7 2#4 d a b) = _
  rw [decodeMain_17 (fOp_wordA ..)]; simp [decode17]

theorem vbitAndn (mk : Option Msk) (d : BitVec 7) (a : BitVec 7) (b : BitVec 7) : Statement (.vbitAndn mk d a b) := by
  intro _; show decodeMain mk none (wordA 0x17#7 3#4 d a b) = _
  rw [decodeMain_17 (fOp_wordA ..)]; simp [decode17]

theorem vbitNot (mk : Option Msk) (d : BitVec 7) (a : BitVec 7) : Statement (.vbitNot mk d a) := by
  intro _; show decodeMain mk none (wordA 0x17#7 4#4 d a 0#7) = _
  rw [decodeMain_17 (fOp_wordA ..)]; simp [decode17]

theorem vbitShl (mk : Option Msk) (d : BitVec 7) (a : BitVec 7) (b : BitVec 7) : Statement (.vbitShl mk d a b) := by
  intro _; show decodeMain mk none (wordA 0x17#7 5#4 d a b) = _
  rw [decodeMain_17 (fOp_wordA ..)]; simp [decode17]

theorem vbitShr (mk : Option Msk) (d : BitVec 7) (a : BitVec 7) (b : BitVec 7) : Statement (.vbitShr mk d a b) := by
  intro _; show decodeMain mk none (wordA 0x17#7 6#4 d a b) = _
  rw [decodeMain_17 (fOp_wordA ..)]; simp [decode17]

theorem vbitSar (mk : Option Msk) (d : BitVec 7) (a : BitVec 7) (b : BitVec 7) : Statement (.vbitSar mk d a b) := by
  intro _; show decodeMain mk none (wordA 0x17#7 7#4 d a b) = _
  rw [decodeMain_17 (fOp_wordA ..)]; simp [decode17]

theorem vbitShlI16 (mk : Option Msk) (d : BitVec 7) (a : BitVec 7) (b : BitVec 7) : Statement (.vbitShlI16 mk d a b) := by
  intro _; show decodeMain mk none (wordA 0x17#7 8#4 d a b) = _
  rw [decodeMain_17 (fOp_wordA ..)]; simp [decode17]

theorem vbitShrI16 (mk : Option Msk) (d : BitVec 7) (a : BitVec 7) (b : BitVec 7) : Statement (.vbitShrI16 mk d a b) := by
  intro _; show decodeMain mk none (wordA 0x17#7 9#4 d a b) = _
  rw [decodeMain_17 (fOp_wordA ..)]; simp [decode17]

theorem vbitSarI16 (mk : Option Msk) (d : BitVec 7) (a : BitVec 7) (b : BitVec 7) : Statement (.vbitSarI16 mk d a b) := by
  intro _; show decodeMain mk none (wordA 0x17#7 10#4 d a b) = _
  rw [decodeMain_17 (fOp_wordA ..)]; simp [decode17]

theorem vbitPopc (mk : Option Msk) (d : BitVec 7) (a : BitVec 7) : Statement (.vbitPopc mk d a) := by
  intro _; show decodeMain mk none (wordA 0x17#7 11#4 d a 0#7) = _
  rw [decodeMain_17 (fOp_wordA ..)]; simp [decode17]

theorem vbitClz (mk : Option Msk) (d : BitVec 7) (a : BitVec 7) : Statement (.vbitClz mk d a) := by
  intro _; show decodeMain mk none (wordA 0x17#7 12#4 d a 0#7) = _
  rw [decodeMain_17 (fOp_wordA ..)]; simp [decode17]

theorem vbitBrev (mk : Option Msk) (d : BitVec 7) (a : BitVec 7) : Statement (.vbitBrev mk d a) := by
  intro _; show decodeMain mk none (wordA 0x17#7 13#4 d a 0#7) = _
  rw [decodeMain_17 (fOp_wordA ..)]; simp [decode17]

theorem vsel (mk : Option Msk) (s : BitVec 1) (p : BitVec 3) (d : BitVec 7) (a : BitVec 7) (b : BitVec 7) : Statement (.vsel mk s p d a b) := by
  intro _; show decodeMain mk none (wordA 0x18#7 (s ++ p) d a b) = _
  rw [decodeMain_18 (fOp_wordA ..)]; simp [decode18]

theorem fadd (mk : Option Msk) (d : BitVec 7) (a : BitVec 7) (b : BitVec 7) : Statement (.fadd mk d a b) := by
  intro _; show decodeMain mk none (wordA 0x20#7 0#4 d a b) = _
  rw [decodeMain_20 (fOp_wordA ..)]; simp [decode20]

theorem fsub (mk : Option Msk) (d : BitVec 7) (a : BitVec 7) (b : BitVec 7) : Statement (.fsub mk d a b) := by
  intro _; show decodeMain mk none (wordA 0x20#7 1#4 d a b) = _
  rw [decodeMain_20 (fOp_wordA ..)]; simp [decode20]

theorem fmul (mk : Option Msk) (d : BitVec 7) (a : BitVec 7) (b : BitVec 7) : Statement (.fmul mk d a b) := by
  intro _; show decodeMain mk none (wordA 0x20#7 2#4 d a b) = _
  rw [decodeMain_20 (fOp_wordA ..)]; simp [decode20]

theorem fmin (mk : Option Msk) (d : BitVec 7) (a : BitVec 7) (b : BitVec 7) : Statement (.fmin mk d a b) := by
  intro _; show decodeMain mk none (wordA 0x20#7 3#4 d a b) = _
  rw [decodeMain_20 (fOp_wordA ..)]; simp [decode20]

theorem fmax (mk : Option Msk) (d : BitVec 7) (a : BitVec 7) (b : BitVec 7) : Statement (.fmax mk d a b) := by
  intro _; show decodeMain mk none (wordA 0x20#7 4#4 d a b) = _
  rw [decodeMain_20 (fOp_wordA ..)]; simp [decode20]

theorem fabs (mk : Option Msk) (d : BitVec 7) (a : BitVec 7) : Statement (.fabs mk d a) := by
  intro _; show decodeMain mk none (wordA 0x20#7 5#4 d a 0#7) = _
  rw [decodeMain_20 (fOp_wordA ..)]; simp [decode20]

theorem fneg (mk : Option Msk) (d : BitVec 7) (a : BitVec 7) : Statement (.fneg mk d a) := by
  intro _; show decodeMain mk none (wordA 0x20#7 6#4 d a 0#7) = _
  rw [decodeMain_20 (fOp_wordA ..)]; simp [decode20]

theorem fsgn (mk : Option Msk) (d : BitVec 7) (a : BitVec 7) (b : BitVec 7) : Statement (.fsgn mk d a b) := by
  intro _; show decodeMain mk none (wordA 0x20#7 7#4 d a b) = _
  rw [decodeMain_20 (fOp_wordA ..)]; simp [decode20]

theorem fma (mk : Option Msk) (d : BitVec 7) (a : BitVec 7) (b : BitVec 7) : Statement (.fma mk d a b) := by
  intro _; show decodeMain mk none (wordA 0x21#7 0#4 d a b) = _
  rw [decodeMain_21 (fOp_wordA ..)]; simp [decode21]

theorem fms (mk : Option Msk) (d : BitVec 7) (a : BitVec 7) (b : BitVec 7) : Statement (.fms mk d a b) := by
  intro _; show decodeMain mk none (wordA 0x21#7 1#4 d a b) = _
  rw [decodeMain_21 (fOp_wordA ..)]; simp [decode21]

theorem fnma (mk : Option Msk) (d : BitVec 7) (a : BitVec 7) (b : BitVec 7) : Statement (.fnma mk d a b) := by
  intro _; show decodeMain mk none (wordA 0x21#7 2#4 d a b) = _
  rw [decodeMain_21 (fOp_wordA ..)]; simp [decode21]

theorem fnms (mk : Option Msk) (d : BitVec 7) (a : BitVec 7) (b : BitVec 7) : Statement (.fnms mk d a b) := by
  intro _; show decodeMain mk none (wordA 0x21#7 3#4 d a b) = _
  rw [decodeMain_21 (fOp_wordA ..)]; simp [decode21]

theorem fcmpF32Eq (mk : Option Msk) (d : BitVec 3) (a : BitVec 7) (b : BitVec 7) : Statement (.fcmpF32Eq mk d a b) := by
  intro _; show decodeMain mk none (wordA 0x22#7 0#4 (0#4 ++ d) a b) = _
  rw [decodeMain_22 (fOp_wordA ..)]; simp [decode22]

theorem fcmpF32Ne (mk : Option Msk) (d : BitVec 3) (a : BitVec 7) (b : BitVec 7) : Statement (.fcmpF32Ne mk d a b) := by
  intro _; show decodeMain mk none (wordA 0x22#7 1#4 (0#4 ++ d) a b) = _
  rw [decodeMain_22 (fOp_wordA ..)]; simp [decode22]

theorem fcmpF32Lt (mk : Option Msk) (d : BitVec 3) (a : BitVec 7) (b : BitVec 7) : Statement (.fcmpF32Lt mk d a b) := by
  intro _; show decodeMain mk none (wordA 0x22#7 2#4 (0#4 ++ d) a b) = _
  rw [decodeMain_22 (fOp_wordA ..)]; simp [decode22]

theorem fcmpF32Le (mk : Option Msk) (d : BitVec 3) (a : BitVec 7) (b : BitVec 7) : Statement (.fcmpF32Le mk d a b) := by
  intro _; show decodeMain mk none (wordA 0x22#7 3#4 (0#4 ++ d) a b) = _
  rw [decodeMain_22 (fOp_wordA ..)]; simp [decode22]

theorem fcmpF32Gt (mk : Option Msk) (d : BitVec 3) (a : BitVec 7) (b : BitVec 7) : Statement (.fcmpF32Gt mk d a b) := by
  intro _; show decodeMain mk none (wordA 0x22#7 4#4 (0#4 ++ d) a b) = _
  rw [decodeMain_22 (fOp_wordA ..)]; simp [decode22]

theorem fcmpF32Ge (mk : Option Msk) (d : BitVec 3) (a : BitVec 7) (b : BitVec 7) : Statement (.fcmpF32Ge mk d a b) := by
  intro _; show decodeMain mk none (wordA 0x22#7 5#4 (0#4 ++ d) a b) = _
  rw [decodeMain_22 (fOp_wordA ..)]; simp [decode22]

theorem fcmpF32Unord (mk : Option Msk) (d : BitVec 3) (a : BitVec 7) (b : BitVec 7) : Statement (.fcmpF32Unord mk d a b) := by
  intro _; show decodeMain mk none (wordA 0x22#7 6#4 (0#4 ++ d) a b) = _
  rw [decodeMain_22 (fOp_wordA ..)]; simp [decode22]

theorem fcmpF32Ord (mk : Option Msk) (d : BitVec 3) (a : BitVec 7) (b : BitVec 7) : Statement (.fcmpF32Ord mk d a b) := by
  intro _; show decodeMain mk none (wordA 0x22#7 7#4 (0#4 ++ d) a b) = _
  rw [decodeMain_22 (fOp_wordA ..)]; simp [decode22]

theorem fcmpF16Eq (mk : Option Msk) (d : BitVec 3) (a : BitVec 7) (b : BitVec 7) : Statement (.fcmpF16Eq mk d a b) := by
  intro _; show decodeMain mk none (wordA 0x22#7 8#4 (0#4 ++ d) a b) = _
  rw [decodeMain_22 (fOp_wordA ..)]; simp [decode22]

theorem fcmpF16Lt (mk : Option Msk) (d : BitVec 3) (a : BitVec 7) (b : BitVec 7) : Statement (.fcmpF16Lt mk d a b) := by
  intro _; show decodeMain mk none (wordA 0x22#7 9#4 (0#4 ++ d) a b) = _
  rw [decodeMain_22 (fOp_wordA ..)]; simp [decode22]

theorem fcmpF16Le (mk : Option Msk) (d : BitVec 3) (a : BitVec 7) (b : BitVec 7) : Statement (.fcmpF16Le mk d a b) := by
  intro _; show decodeMain mk none (wordA 0x22#7 10#4 (0#4 ++ d) a b) = _
  rw [decodeMain_22 (fOp_wordA ..)]; simp [decode22]

theorem fcmpF16Unord (mk : Option Msk) (d : BitVec 3) (a : BitVec 7) (b : BitVec 7) : Statement (.fcmpF16Unord mk d a b) := by
  intro _; show decodeMain mk none (wordA 0x22#7 11#4 (0#4 ++ d) a b) = _
  rw [decodeMain_22 (fOp_wordA ..)]; simp [decode22]

theorem fcmpBf16Eq (mk : Option Msk) (d : BitVec 3) (a : BitVec 7) (b : BitVec 7) : Statement (.fcmpBf16Eq mk d a b) := by
  intro _; show decodeMain mk none (wordA 0x22#7 12#4 (0#4 ++ d) a b) = _
  rw [decodeMain_22 (fOp_wordA ..)]; simp [decode22]

theorem fcmpBf16Lt (mk : Option Msk) (d : BitVec 3) (a : BitVec 7) (b : BitVec 7) : Statement (.fcmpBf16Lt mk d a b) := by
  intro _; show decodeMain mk none (wordA 0x22#7 13#4 (0#4 ++ d) a b) = _
  rw [decodeMain_22 (fOp_wordA ..)]; simp [decode22]

theorem fcmpBf16Le (mk : Option Msk) (d : BitVec 3) (a : BitVec 7) (b : BitVec 7) : Statement (.fcmpBf16Le mk d a b) := by
  intro _; show decodeMain mk none (wordA 0x22#7 14#4 (0#4 ++ d) a b) = _
  rw [decodeMain_22 (fOp_wordA ..)]; simp [decode22]

theorem fcmpBf16Unord (mk : Option Msk) (d : BitVec 3) (a : BitVec 7) (b : BitVec 7) : Statement (.fcmpBf16Unord mk d a b) := by
  intro _; show decodeMain mk none (wordA 0x22#7 15#4 (0#4 ++ d) a b) = _
  rw [decodeMain_22 (fOp_wordA ..)]; simp [decode22]

theorem rcp (mk : Option Msk) (l : BitVec 4) (d : BitVec 7) (a : BitVec 7) : Statement (.rcp mk l d a) := by
  intro _; show decodeMain mk none (wordA 0x23#7 l d a 0#7) = _
  rw [decodeMain_23 (fOp_wordA ..)]; simp [decode23]

theorem rsq (mk : Option Msk) (l : BitVec 4) (d : BitVec 7) (a : BitVec 7) : Statement (.rsq mk l d a) := by
  intro _; show decodeMain mk none (wordA 0x23#7 l d a 1#7) = _
  rw [decodeMain_23 (fOp_wordA ..)]; simp [decode23]

theorem sqrt (mk : Option Msk) (l : BitVec 4) (d : BitVec 7) (a : BitVec 7) : Statement (.sqrt mk l d a) := by
  intro _; show decodeMain mk none (wordA 0x23#7 l d a 2#7) = _
  rw [decodeMain_23 (fOp_wordA ..)]; simp [decode23]

theorem exp2 (mk : Option Msk) (l : BitVec 4) (d : BitVec 7) (a : BitVec 7) : Statement (.exp2 mk l d a) := by
  intro _; show decodeMain mk none (wordA 0x23#7 l d a 3#7) = _
  rw [decodeMain_23 (fOp_wordA ..)]; simp [decode23]

theorem log2 (mk : Option Msk) (l : BitVec 4) (d : BitVec 7) (a : BitVec 7) : Statement (.log2 mk l d a) := by
  intro _; show decodeMain mk none (wordA 0x23#7 l d a 4#7) = _
  rw [decodeMain_23 (fOp_wordA ..)]; simp [decode23]

theorem sinpi (mk : Option Msk) (l : BitVec 4) (d : BitVec 7) (a : BitVec 7) : Statement (.sinpi mk l d a) := by
  intro _; show decodeMain mk none (wordA 0x23#7 l d a 5#7) = _
  rw [decodeMain_23 (fOp_wordA ..)]; simp [decode23]

theorem cospi (mk : Option Msk) (l : BitVec 4) (d : BitVec 7) (a : BitVec 7) : Statement (.cospi mk l d a) := by
  intro _; show decodeMain mk none (wordA 0x23#7 l d a 6#7) = _
  rw [decodeMain_23 (fOp_wordA ..)]; simp [decode23]

theorem tanh (mk : Option Msk) (l : BitVec 4) (d : BitVec 7) (a : BitVec 7) : Statement (.tanh mk l d a) := by
  intro _; show decodeMain mk none (wordA 0x23#7 l d a 7#7) = _
  rw [decodeMain_23 (fOp_wordA ..)]; simp [decode23]

theorem fdiv (mk : Option Msk) (l : BitVec 4) (d : BitVec 7) (a : BitVec 7) (b : BitVec 7) : Statement (.fdiv mk l d a b) := by
  intro _; show decodeMain mk none (wordA 0x24#7 l d a b) = _
  rw [decodeMain_24 (fOp_wordA ..)]; simp [decode24]

theorem fcvt (mk : Option Msk) (t : BitVec 4) (d : BitVec 7) (a : BitVec 7) (s : BitVec 4) (r : BitVec 3) : Statement (.fcvt mk t d a s r) := by
  intro _; show decodeMain mk none (wordA 0x25#7 t d a (s ++ r)) = _
  rw [decodeMain_25 (fOp_wordA ..)]; simp [decode25]

theorem frnd (mk : Option Msk) (r : BitVec 4) (d : BitVec 7) (a : BitVec 7) (t : BitVec 7) : Statement (.frnd mk r d a t) := by
  intro _; show decodeMain mk none (wordA 0x26#7 r d a t) = _
  rw [decodeMain_26 (fOp_wordA ..)]; simp [decode26]

theorem fclass (mk : Option Msk) (d : BitVec 7) (a : BitVec 7) (t : BitVec 7) : Statement (.fclass mk d a t) := by
  intro _; show decodeMain mk none (wordA 0x27#7 0#4 d a t) = _
  rw [decodeMain_27 (fOp_wordA ..)]; simp [decode27]

theorem dot2F16 (mk : Option Msk) (d : BitVec 7) (a : BitVec 7) (b : BitVec 7) : Statement (.dot2F16 mk d a b) := by
  intro _; show decodeMain mk none (wordA 0x28#7 0#4 d a b) = _
  rw [decodeMain_28 (fOp_wordA ..)]; simp [decode28]

theorem dot2Bf16 (mk : Option Msk) (d : BitVec 7) (a : BitVec 7) (b : BitVec 7) : Statement (.dot2Bf16 mk d a b) := by
  intro _; show decodeMain mk none (wordA 0x28#7 1#4 d a b) = _
  rw [decodeMain_28 (fOp_wordA ..)]; simp [decode28]

theorem dot4E5m2 (mk : Option Msk) (d : BitVec 7) (a : BitVec 7) (b : BitVec 7) : Statement (.dot4E5m2 mk d a b) := by
  intro _; show decodeMain mk none (wordA 0x28#7 2#4 d a b) = _
  rw [decodeMain_28 (fOp_wordA ..)]; simp [decode28]

theorem dot4E4m3 (mk : Option Msk) (d : BitVec 7) (a : BitVec 7) (b : BitVec 7) : Statement (.dot4E4m3 mk d a b) := by
  intro _; show decodeMain mk none (wordA 0x28#7 3#4 d a b) = _
  rw [decodeMain_28 (fOp_wordA ..)]; simp [decode28]

theorem dot4I8 (mk : Option Msk) (d : BitVec 7) (a : BitVec 7) (b : BitVec 7) : Statement (.dot4I8 mk d a b) := by
  intro _; show decodeMain mk none (wordA 0x28#7 4#4 d a b) = _
  rw [decodeMain_28 (fOp_wordA ..)]; simp [decode28]

theorem dot8I4 (mk : Option Msk) (d : BitVec 7) (a : BitVec 7) (b : BitVec 7) : Statement (.dot8I4 mk d a b) := by
  intro _; show decodeMain mk none (wordA 0x28#7 5#4 d a b) = _
  rw [decodeMain_28 (fOp_wordA ..)]; simp [decode28]

theorem falu16Fadd (mk : Option Msk) (t : BitVec 1) (d : BitVec 7) (a : BitVec 7) (b : BitVec 7) : Statement (.falu16Fadd mk t d a b) := by
  intro _; show decodeMain mk none (wordA 0x29#7 (t ++ 0#3) d a b) = _
  rw [decodeMain_29 (fOp_wordA ..)]; simp [decode29]

theorem falu16Fsub (mk : Option Msk) (t : BitVec 1) (d : BitVec 7) (a : BitVec 7) (b : BitVec 7) : Statement (.falu16Fsub mk t d a b) := by
  intro _; show decodeMain mk none (wordA 0x29#7 (t ++ 1#3) d a b) = _
  rw [decodeMain_29 (fOp_wordA ..)]; simp [decode29]

theorem falu16Fmul (mk : Option Msk) (t : BitVec 1) (d : BitVec 7) (a : BitVec 7) (b : BitVec 7) : Statement (.falu16Fmul mk t d a b) := by
  intro _; show decodeMain mk none (wordA 0x29#7 (t ++ 2#3) d a b) = _
  rw [decodeMain_29 (fOp_wordA ..)]; simp [decode29]

theorem falu16Fmin (mk : Option Msk) (t : BitVec 1) (d : BitVec 7) (a : BitVec 7) (b : BitVec 7) : Statement (.falu16Fmin mk t d a b) := by
  intro _; show decodeMain mk none (wordA 0x29#7 (t ++ 3#3) d a b) = _
  rw [decodeMain_29 (fOp_wordA ..)]; simp [decode29]

theorem falu16Fmax (mk : Option Msk) (t : BitVec 1) (d : BitVec 7) (a : BitVec 7) (b : BitVec 7) : Statement (.falu16Fmax mk t d a b) := by
  intro _; show decodeMain mk none (wordA 0x29#7 (t ++ 4#3) d a b) = _
  rw [decodeMain_29 (fOp_wordA ..)]; simp [decode29]

theorem falu16Fma (mk : Option Msk) (t : BitVec 1) (d : BitVec 7) (a : BitVec 7) (b : BitVec 7) : Statement (.falu16Fma mk t d a b) := by
  intro _; show decodeMain mk none (wordA 0x29#7 (t ++ 5#3) d a b) = _
  rw [decodeMain_29 (fOp_wordA ..)]; simp [decode29]

theorem falu16Fabs (mk : Option Msk) (t : BitVec 1) (d : BitVec 7) (a : BitVec 7) : Statement (.falu16Fabs mk t d a) := by
  intro _; show decodeMain mk none (wordA 0x29#7 (t ++ 6#3) d a 0#7) = _
  rw [decodeMain_29 (fOp_wordA ..)]; simp [decode29]

theorem falu16Fneg (mk : Option Msk) (t : BitVec 1) (d : BitVec 7) (a : BitVec 7) : Statement (.falu16Fneg mk t d a) := by
  intro _; show decodeMain mk none (wordA 0x29#7 (t ++ 7#3) d a 0#7) = _
  rw [decodeMain_29 (fOp_wordA ..)]; simp [decode29]

theorem br (x : Option (BitVec 25)) (o : BitVec 21) : Statement (.br x o) := by
  intro _; show decodeMain none x (wordJ 0x30#7 0#4 o) = _
  rw [decodeMain_30 (fOp_wordJ ..)]; simp [decode30]

theorem brp (x : Option (BitVec 25)) (s : BitVec 1) (p : BitVec 3) (o : BitVec 21) : Statement (.brp x s p o) := by
  intro _; show decodeMain none x (wordJ 0x31#7 (s ++ p) o) = _
  rw [decodeMain_31 (fOp_wordJ ..)]; simp [decode31]

theorem call (x : Option (BitVec 25)) (o : BitVec 21) : Statement (.call x o) := by
  intro _; show decodeMain none x (wordJ 0x32#7 0#4 o) = _
  rw [decodeMain_32 (fOp_wordJ ..)]; simp [decode32]

theorem jr (a : BitVec 7) : Statement (.jr a) := by
  intro _; show decodeMain none none (wordA 0x33#7 0#4 0#7 a 0#7) = _
  rw [decodeMain_33 (fOp_wordA ..)]; simp [decode33]

theorem jalr (a : BitVec 7) : Statement (.jalr a) := by
  intro _; show decodeMain none none (wordA 0x33#7 1#4 0#7 a 0#7) = _
  rw [decodeMain_33 (fOp_wordA ..)]; simp [decode33]

theorem ret : Statement .ret := by
  intro _; show decodeMain none none (wordA 0x33#7 2#4 0#7 0#7 0#7) = _
  rw [decodeMain_33 (fOp_wordA ..)]; simp [decode33]

theorem retPair (a : BitVec 7) : Statement (.retPair a) := by
  intro _; show decodeMain none none (wordA 0x33#7 2#4 0#7 a 1#7) = _
  rw [decodeMain_33 (fOp_wordA ..)]; simp [decode33]

theorem rcv : Statement .rcv := by
  intro _; show decodeMain none none (wordA 0x34#7 0#4 0#7 0#7 0#7) = _
  rw [decodeMain_34 (fOp_wordA ..)]; simp [decode34]

theorem exit : Statement .exit := by
  intro _; show decodeMain none none (wordA 0x35#7 0#4 0#7 0#7 0#7) = _
  rw [decodeMain_35 (fOp_wordA ..)]; simp [decode35]

theorem yield : Statement .yield := by
  intro _; show decodeMain none none (wordA 0x35#7 1#4 0#7 0#7 0#7) = _
  rw [decodeMain_35 (fOp_wordA ..)]; simp [decode35]

theorem sleep (a : BitVec 7) : Statement (.sleep a) := by
  intro _; show decodeMain none none (wordA 0x35#7 2#4 0#7 a 0#7) = _
  rw [decodeMain_35 (fOp_wordA ..)]; simp [decode35]

theorem lds (x : Option (BitVec 25)) (l : BitVec 4) (d : BitVec 7) (a : BitVec 7) (s : BitVec 2) (q : BitVec 1) (c : BitVec 2) (h : BitVec 2) : Statement (.lds x l d a s q c h) := by
  intro _; show decodeMain none x (wordA 0x40#7 l d a (s ++ q ++ c ++ h)) = _
  rw [decodeMain_40 (fOp_wordA ..)]; simp [decode40]

theorem ldv (mk : Option Msk) (x : Option (BitVec 25)) (l : BitVec 4) (d : BitVec 7) (a : BitVec 7) (s : BitVec 2) (q : BitVec 1) (c : BitVec 2) (h : BitVec 2) : Statement (.ldv mk x l d a s q c h) := by
  intro _; show decodeMain mk x (wordA 0x41#7 l d a (s ++ q ++ c ++ h)) = _
  rw [decodeMain_41 (fOp_wordA ..)]; simp [decode41]

theorem ldg (mk : Option Msk) (x : Option (BitVec 25)) (l : BitVec 4) (d : BitVec 7) (a : BitVec 7) (b : BitVec 7) : Statement (.ldg mk x l d a b) := by
  intro _; show decodeMain mk x (wordA 0x42#7 l d a b) = _
  rw [decodeMain_42 (fOp_wordA ..)]; simp [decode42]

theorem sts (x : Option (BitVec 25)) (d : BitVec 7) (a : BitVec 7) (s : BitVec 2) (q : BitVec 1) (c : BitVec 2) (h : BitVec 2) : Statement (.sts x d a s q c h) := by
  intro _; show decodeMain none x (wordA 0x43#7 0#4 d a (s ++ q ++ c ++ h)) = _
  rw [decodeMain_43 (fOp_wordA ..)]; simp [decode43]

theorem stv (mk : Option Msk) (x : Option (BitVec 25)) (d : BitVec 7) (a : BitVec 7) (s : BitVec 2) (q : BitVec 1) (c : BitVec 2) (h : BitVec 2) : Statement (.stv mk x d a s q c h) := by
  intro _; show decodeMain mk x (wordA 0x44#7 0#4 d a (s ++ q ++ c ++ h)) = _
  rw [decodeMain_44 (fOp_wordA ..)]; simp [decode44]

theorem stg (mk : Option Msk) (x : Option (BitVec 25)) (d : BitVec 7) (a : BitVec 7) (b : BitVec 7) : Statement (.stg mk x d a b) := by
  intro _; show decodeMain mk x (wordA 0x45#7 0#4 d a b) = _
  rw [decodeMain_45 (fOp_wordA ..)]; simp [decode45]

theorem pref (x : Option (BitVec 25)) (a : BitVec 7) (h : BitVec 2) : Statement (.pref x a h) := by
  intro _; show decodeMain none x (wordA 0x46#7 0#4 0#7 a (0#5 ++ h)) = _
  rw [decodeMain_46 (fOp_wordA ..)]; simp [decode46]

theorem atomAdd (x : Option (BitVec 25)) (l : BitVec 4) (d : BitVec 7) (a : BitVec 7) (q : BitVec 1) (c : BitVec 2) : Statement (.atomAdd x l d a q c) := by
  intro _; show decodeMain none x (wordA 0x47#7 l d a (0#4 ++ q ++ c)) = _
  rw [decodeMain_47 (fOp_wordA ..)]; simp [decode47]

theorem atomMin (x : Option (BitVec 25)) (l : BitVec 4) (d : BitVec 7) (a : BitVec 7) (q : BitVec 1) (c : BitVec 2) : Statement (.atomMin x l d a q c) := by
  intro _; show decodeMain none x (wordA 0x47#7 l d a (1#4 ++ q ++ c)) = _
  rw [decodeMain_47 (fOp_wordA ..)]; simp [decode47]

theorem atomMax (x : Option (BitVec 25)) (l : BitVec 4) (d : BitVec 7) (a : BitVec 7) (q : BitVec 1) (c : BitVec 2) : Statement (.atomMax x l d a q c) := by
  intro _; show decodeMain none x (wordA 0x47#7 l d a (2#4 ++ q ++ c)) = _
  rw [decodeMain_47 (fOp_wordA ..)]; simp [decode47]

theorem atomMinu (x : Option (BitVec 25)) (l : BitVec 4) (d : BitVec 7) (a : BitVec 7) (q : BitVec 1) (c : BitVec 2) : Statement (.atomMinu x l d a q c) := by
  intro _; show decodeMain none x (wordA 0x47#7 l d a (3#4 ++ q ++ c)) = _
  rw [decodeMain_47 (fOp_wordA ..)]; simp [decode47]

theorem atomMaxu (x : Option (BitVec 25)) (l : BitVec 4) (d : BitVec 7) (a : BitVec 7) (q : BitVec 1) (c : BitVec 2) : Statement (.atomMaxu x l d a q c) := by
  intro _; show decodeMain none x (wordA 0x47#7 l d a (4#4 ++ q ++ c)) = _
  rw [decodeMain_47 (fOp_wordA ..)]; simp [decode47]

theorem atomAnd (x : Option (BitVec 25)) (l : BitVec 4) (d : BitVec 7) (a : BitVec 7) (q : BitVec 1) (c : BitVec 2) : Statement (.atomAnd x l d a q c) := by
  intro _; show decodeMain none x (wordA 0x47#7 l d a (5#4 ++ q ++ c)) = _
  rw [decodeMain_47 (fOp_wordA ..)]; simp [decode47]

theorem atomOr (x : Option (BitVec 25)) (l : BitVec 4) (d : BitVec 7) (a : BitVec 7) (q : BitVec 1) (c : BitVec 2) : Statement (.atomOr x l d a q c) := by
  intro _; show decodeMain none x (wordA 0x47#7 l d a (6#4 ++ q ++ c)) = _
  rw [decodeMain_47 (fOp_wordA ..)]; simp [decode47]

theorem atomXor (x : Option (BitVec 25)) (l : BitVec 4) (d : BitVec 7) (a : BitVec 7) (q : BitVec 1) (c : BitVec 2) : Statement (.atomXor x l d a q c) := by
  intro _; show decodeMain none x (wordA 0x47#7 l d a (7#4 ++ q ++ c)) = _
  rw [decodeMain_47 (fOp_wordA ..)]; simp [decode47]

theorem atomXchg (x : Option (BitVec 25)) (l : BitVec 4) (d : BitVec 7) (a : BitVec 7) (q : BitVec 1) (c : BitVec 2) : Statement (.atomXchg x l d a q c) := by
  intro _; show decodeMain none x (wordA 0x47#7 l d a (8#4 ++ q ++ c)) = _
  rw [decodeMain_47 (fOp_wordA ..)]; simp [decode47]

theorem atomCas (x : Option (BitVec 25)) (l : BitVec 4) (d : BitVec 7) (a : BitVec 7) (q : BitVec 1) (c : BitVec 2) : Statement (.atomCas x l d a q c) := by
  intro _; show decodeMain none x (wordA 0x47#7 l d a (9#4 ++ q ++ c)) = _
  rw [decodeMain_47 (fOp_wordA ..)]; simp [decode47]

theorem atomvAdd (x : Option (BitVec 25)) (l : BitVec 4) (d : BitVec 7) (a : BitVec 7) (q : BitVec 1) (c : BitVec 2) : Statement (.atomvAdd x l d a q c) := by
  intro _; show decodeMain none x (wordA 0x48#7 l d a (0#4 ++ q ++ c)) = _
  rw [decodeMain_48 (fOp_wordA ..)]; simp [decode48]

theorem atomvMin (x : Option (BitVec 25)) (l : BitVec 4) (d : BitVec 7) (a : BitVec 7) (q : BitVec 1) (c : BitVec 2) : Statement (.atomvMin x l d a q c) := by
  intro _; show decodeMain none x (wordA 0x48#7 l d a (1#4 ++ q ++ c)) = _
  rw [decodeMain_48 (fOp_wordA ..)]; simp [decode48]

theorem atomvMax (x : Option (BitVec 25)) (l : BitVec 4) (d : BitVec 7) (a : BitVec 7) (q : BitVec 1) (c : BitVec 2) : Statement (.atomvMax x l d a q c) := by
  intro _; show decodeMain none x (wordA 0x48#7 l d a (2#4 ++ q ++ c)) = _
  rw [decodeMain_48 (fOp_wordA ..)]; simp [decode48]

theorem atomvMinu (x : Option (BitVec 25)) (l : BitVec 4) (d : BitVec 7) (a : BitVec 7) (q : BitVec 1) (c : BitVec 2) : Statement (.atomvMinu x l d a q c) := by
  intro _; show decodeMain none x (wordA 0x48#7 l d a (3#4 ++ q ++ c)) = _
  rw [decodeMain_48 (fOp_wordA ..)]; simp [decode48]

theorem atomvMaxu (x : Option (BitVec 25)) (l : BitVec 4) (d : BitVec 7) (a : BitVec 7) (q : BitVec 1) (c : BitVec 2) : Statement (.atomvMaxu x l d a q c) := by
  intro _; show decodeMain none x (wordA 0x48#7 l d a (4#4 ++ q ++ c)) = _
  rw [decodeMain_48 (fOp_wordA ..)]; simp [decode48]

theorem atomvAnd (x : Option (BitVec 25)) (l : BitVec 4) (d : BitVec 7) (a : BitVec 7) (q : BitVec 1) (c : BitVec 2) : Statement (.atomvAnd x l d a q c) := by
  intro _; show decodeMain none x (wordA 0x48#7 l d a (5#4 ++ q ++ c)) = _
  rw [decodeMain_48 (fOp_wordA ..)]; simp [decode48]

theorem atomvOr (x : Option (BitVec 25)) (l : BitVec 4) (d : BitVec 7) (a : BitVec 7) (q : BitVec 1) (c : BitVec 2) : Statement (.atomvOr x l d a q c) := by
  intro _; show decodeMain none x (wordA 0x48#7 l d a (6#4 ++ q ++ c)) = _
  rw [decodeMain_48 (fOp_wordA ..)]; simp [decode48]

theorem atomvXor (x : Option (BitVec 25)) (l : BitVec 4) (d : BitVec 7) (a : BitVec 7) (q : BitVec 1) (c : BitVec 2) : Statement (.atomvXor x l d a q c) := by
  intro _; show decodeMain none x (wordA 0x48#7 l d a (7#4 ++ q ++ c)) = _
  rw [decodeMain_48 (fOp_wordA ..)]; simp [decode48]

theorem atomvXchg (x : Option (BitVec 25)) (l : BitVec 4) (d : BitVec 7) (a : BitVec 7) (q : BitVec 1) (c : BitVec 2) : Statement (.atomvXchg x l d a q c) := by
  intro _; show decodeMain none x (wordA 0x48#7 l d a (8#4 ++ q ++ c)) = _
  rw [decodeMain_48 (fOp_wordA ..)]; simp [decode48]

theorem atomvCas (x : Option (BitVec 25)) (l : BitVec 4) (d : BitVec 7) (a : BitVec 7) (q : BitVec 1) (c : BitVec 2) : Statement (.atomvCas x l d a q c) := by
  intro _; show decodeMain none x (wordA 0x48#7 l d a (9#4 ++ q ++ c)) = _
  rw [decodeMain_48 (fOp_wordA ..)]; simp [decode48]

theorem atomvXchgW128 (x : Option (BitVec 25)) (l : BitVec 4) (d : BitVec 7) (a : BitVec 7) (q : BitVec 1) (c : BitVec 2) : Statement (.atomvXchgW128 x l d a q c) := by
  intro _; show decodeMain none x (wordA 0x48#7 l d a (10#4 ++ q ++ c)) = _
  rw [decodeMain_48 (fOp_wordA ..)]; simp [decode48]

theorem atomvCasW128 (x : Option (BitVec 25)) (l : BitVec 4) (d : BitVec 7) (a : BitVec 7) (q : BitVec 1) (c : BitVec 2) : Statement (.atomvCasW128 x l d a q c) := by
  intro _; show decodeMain none x (wordA 0x48#7 l d a (11#4 ++ q ++ c)) = _
  rw [decodeMain_48 (fOp_wordA ..)]; simp [decode48]

theorem mwatch (x : Option (BitVec 25)) (a : BitVec 7) : Statement (.mwatch x a) := by
  intro _; show decodeMain none x (wordA 0x49#7 0#4 0#7 a 0#7) = _
  rw [decodeMain_49 (fOp_wordA ..)]; simp [decode49]

theorem fenceAcq (c : BitVec 2) : Statement (.fenceAcq c) := by
  intro _; show decodeMain none none (wordA 0x4A#7 (c ++ 0#2) 0#7 0#7 0#7) = _
  rw [decodeMain_4A (fOp_wordA ..)]; simp [decode4A]

theorem fenceRel (c : BitVec 2) : Statement (.fenceRel c) := by
  intro _; show decodeMain none none (wordA 0x4A#7 (c ++ 1#2) 0#7 0#7 0#7) = _
  rw [decodeMain_4A (fOp_wordA ..)]; simp [decode4A]

theorem fenceFull (c : BitVec 2) : Statement (.fenceFull c) := by
  intro _; show decodeMain none none (wordA 0x4A#7 (c ++ 2#2) 0#7 0#7 0#7) = _
  rw [decodeMain_4A (fOp_wordA ..)]; simp [decode4A]

theorem mwait : Statement .mwait := by
  intro _; show decodeMain none none (wordA 0x4B#7 0#4 0#7 0#7 0#7) = _
  rw [decodeMain_4B (fOp_wordA ..)]; simp [decode4B]

theorem bnew (d : BitVec 7) (a : BitVec 7) : Statement (.bnew d a) := by
  intro _; show decodeMain none none (wordA 0x50#7 0#4 d a 0#7) = _
  rw [decodeMain_50 (fOp_wordA ..)]; simp [decode50]

theorem bjoin (d : BitVec 7) (a : BitVec 7) : Statement (.bjoin d a) := by
  intro _; show decodeMain none none (wordA 0x50#7 1#4 d a 0#7) = _
  rw [decodeMain_50 (fOp_wordA ..)]; simp [decode50]

theorem bleave : Statement .bleave := by
  intro _; show decodeMain none none (wordA 0x50#7 2#4 0#7 0#7 0#7) = _
  rw [decodeMain_50 (fOp_wordA ..)]; simp [decode50]

theorem binfo (d : BitVec 7) (k : BitVec 7) : Statement (.binfo d k) := by
  intro _; show decodeMain none none (wordA 0x50#7 3#4 d 0#7 k) = _
  rw [decodeMain_50 (fOp_wordA ..)]; simp [decode50]

theorem barInit (a : BitVec 7) (k : BitVec 4) : Statement (.barInit a k) := by
  intro _; show decodeMain none none (wordA 0x51#7 0#4 0#7 a (0#3 ++ k)) = _
  rw [decodeMain_51 (fOp_wordA ..)]; simp [decode51]

theorem barSync (a : BitVec 7) (c : BitVec 1) (k : BitVec 4) : Statement (.barSync a c k) := by
  intro _; show decodeMain none none (wordA 0x51#7 1#4 0#7 a (0#2 ++ c ++ k)) = _
  rw [decodeMain_51 (fOp_wordA ..)]; simp [decode51]

theorem barArrive (a : BitVec 7) (c : BitVec 1) (k : BitVec 4) : Statement (.barArrive a c k) := by
  intro _; show decodeMain none none (wordA 0x51#7 2#4 0#7 a (0#2 ++ c ++ k)) = _
  rw [decodeMain_51 (fOp_wordA ..)]; simp [decode51]

theorem barExpect (a : BitVec 7) (k : BitVec 4) : Statement (.barExpect a k) := by
  intro _; show decodeMain none none (wordA 0x51#7 3#4 0#7 a (0#3 ++ k)) = _
  rw [decodeMain_51 (fOp_wordA ..)]; simp [decode51]

theorem barQuery (d : BitVec 7) (c : BitVec 1) (k : BitVec 4) : Statement (.barQuery d c k) := by
  intro _; show decodeMain none none (wordA 0x51#7 4#4 d 0#7 (0#2 ++ c ++ k)) = _
  rw [decodeMain_51 (fOp_wordA ..)]; simp [decode51]

theorem ballot (d : BitVec 7) (a : BitVec 3) (w : BitVec 7) : Statement (.ballot d a w) := by
  intro _; show decodeMain none none (wordA 0x52#7 0#4 d (0#4 ++ a) w) = _
  rw [decodeMain_52 (fOp_wordA ..)]; simp [decode52]

theorem any (d : BitVec 3) (a : BitVec 3) : Statement (.any d a) := by
  intro _; show decodeMain none none (wordA 0x52#7 1#4 (0#4 ++ d) (0#4 ++ a) 0#7) = _
  rw [decodeMain_52 (fOp_wordA ..)]; simp [decode52]

theorem all (d : BitVec 3) (a : BitVec 3) : Statement (.all d a) := by
  intro _; show decodeMain none none (wordA 0x52#7 2#4 (0#4 ++ d) (0#4 ++ a) 0#7) = _
  rw [decodeMain_52 (fOp_wordA ..)]; simp [decode52]

theorem bcast (l : BitVec 4) (d : BitVec 7) (a : BitVec 7) : Statement (.bcast l d a) := by
  intro _; show decodeMain none none (wordA 0x53#7 l d a 0#7) = _
  rw [decodeMain_53 (fOp_wordA ..)]; simp [decode53]

theorem radd (l : BitVec 4) (d : BitVec 7) (a : BitVec 7) (t : BitVec 4) : Statement (.radd l d a t) := by
  intro _; show decodeMain none none (wordA 0x53#7 l d a (t ++ 1#3)) = _
  rw [decodeMain_53 (fOp_wordA ..)]; simp [decode53]

theorem rmin (l : BitVec 4) (d : BitVec 7) (a : BitVec 7) (t : BitVec 4) : Statement (.rmin l d a t) := by
  intro _; show decodeMain none none (wordA 0x53#7 l d a (t ++ 2#3)) = _
  rw [decodeMain_53 (fOp_wordA ..)]; simp [decode53]

theorem rmax (l : BitVec 4) (d : BitVec 7) (a : BitVec 7) (t : BitVec 4) : Statement (.rmax l d a t) := by
  intro _; show decodeMain none none (wordA 0x53#7 l d a (t ++ 3#3)) = _
  rw [decodeMain_53 (fOp_wordA ..)]; simp [decode53]

theorem scanadd (l : BitVec 4) (d : BitVec 7) (a : BitVec 7) (t : BitVec 4) : Statement (.scanadd l d a t) := by
  intro _; show decodeMain none none (wordA 0x53#7 l d a (t ++ 4#3)) = _
  rw [decodeMain_53 (fOp_wordA ..)]; simp [decode53]

theorem rwrScalar (d : BitVec 7) (a : BitVec 7) (b : BitVec 7) : Statement (.rwrScalar d a b) := by
  intro _; show decodeMain none none (wordA 0x54#7 0#4 d a b) = _
  rw [decodeMain_54 (fOp_wordA ..)]; simp [decode54]

theorem rwrVector (d : BitVec 7) (a : BitVec 7) (b : BitVec 7) : Statement (.rwrVector d a b) := by
  intro _; show decodeMain none none (wordA 0x54#7 1#4 d a b) = _
  rw [decodeMain_54 (fOp_wordA ..)]; simp [decode54]

theorem rwait (a : BitVec 7) : Statement (.rwait a) := by
  intro _; show decodeMain none none (wordA 0x55#7 0#4 0#7 a 0#7) = _
  rw [decodeMain_55 (fOp_wordA ..)]; simp [decode55]

theorem qsend (k : BitVec 3) (m : BitVec 7) (a : BitVec 7) : Statement (.qsend k m a) := by
  intro _; show decodeMain none none (wordA 0x56#7 (0#1 ++ k) m a 0#7) = _
  rw [decodeMain_56 (fOp_wordA ..)]; simp [decode56]

theorem qrecv (k : BitVec 3) (d : BitVec 7) : Statement (.qrecv k d) := by
  intro _; show decodeMain none none (wordA 0x57#7 (0#1 ++ k) d 0#7 0#7) = _
  rw [decodeMain_57 (fOp_wordA ..)]; simp [decode57]

theorem flagSet (k : BitVec 5) : Statement (.flagSet k) := by
  intro _; show decodeMain none none (wordA 0x58#7 0#4 0#7 0#7 (0#2 ++ k)) = _
  rw [decodeMain_58 (fOp_wordA ..)]; simp [decode58]

theorem flagClr (k : BitVec 5) : Statement (.flagClr k) := by
  intro _; show decodeMain none none (wordA 0x58#7 1#4 0#7 0#7 (0#2 ++ k)) = _
  rw [decodeMain_58 (fOp_wordA ..)]; simp [decode58]

theorem flagWait (k : BitVec 5) : Statement (.flagWait k) := by
  intro _; show decodeMain none none (wordA 0x58#7 2#4 0#7 0#7 (0#2 ++ k)) = _
  rw [decodeMain_58 (fOp_wordA ..)]; simp [decode58]

theorem flagTest (d : BitVec 3) (k : BitVec 5) : Statement (.flagTest d k) := by
  intro _; show decodeMain none none (wordA 0x58#7 3#4 (0#4 ++ d) 0#7 (0#2 ++ k)) = _
  rw [decodeMain_58 (fOp_wordA ..)]; simp [decode58]

theorem wbases (k : BitVec 7) : Statement (.wbases k) := by
  intro _; show decodeMain none none (wordA 0x5A#7 0#4 0#7 0#7 k) = _
  rw [decodeMain_5A (fOp_wordA ..)]; simp [decode5A]

theorem wbasev (k : BitVec 7) : Statement (.wbasev k) := by
  intro _; show decodeMain none none (wordA 0x5A#7 1#4 0#7 0#7 k) = _
  rw [decodeMain_5A (fOp_wordA ..)]; simp [decode5A]

theorem xacqs (k : BitVec 7) : Statement (.xacqs k) := by
  intro _; show decodeMain none none (wordA 0x5A#7 2#4 0#7 0#7 k) = _
  rw [decodeMain_5A (fOp_wordA ..)]; simp [decode5A]

theorem xacqv (k : BitVec 7) : Statement (.xacqv k) := by
  intro _; show decodeMain none none (wordA 0x5A#7 3#4 0#7 0#7 k) = _
  rw [decodeMain_5A (fOp_wordA ..)]; simp [decode5A]

theorem xrels (k : BitVec 7) : Statement (.xrels k) := by
  intro _; show decodeMain none none (wordA 0x5A#7 4#4 0#7 0#7 k) = _
  rw [decodeMain_5A (fOp_wordA ..)]; simp [decode5A]

theorem xrelv (k : BitVec 7) : Statement (.xrelv k) := by
  intro _; show decodeMain none none (wordA 0x5A#7 5#4 0#7 0#7 k) = _
  rw [decodeMain_5A (fOp_wordA ..)]; simp [decode5A]

theorem tresv (d : BitVec 7) (a : BitVec 7) : Statement (.tresv d a) := by
  intro _; show decodeMain none none (wordA 0x60#7 0#4 d a 0#7) = _
  rw [decodeMain_60 (fOp_wordA ..)]; simp [decode60]

theorem trel (a : BitVec 7) : Statement (.trel a) := by
  intro _; show decodeMain none none (wordA 0x60#7 1#4 0#7 a 0#7) = _
  rw [decodeMain_60 (fOp_wordA ..)]; simp [decode60]

theorem tstat (d : BitVec 7) (a : BitVec 7) : Statement (.tstat d a) := by
  intro _; show decodeMain none none (wordA 0x60#7 2#4 d a 0#7) = _
  rw [decodeMain_60 (fOp_wordA ..)]; simp [decode60]

theorem twait (a : BitVec 7) (k : BitVec 7) : Statement (.twait a k) := by
  intro _; show decodeMain none none (wordA 0x60#7 3#4 0#7 a k) = _
  rw [decodeMain_60 (fOp_wordA ..)]; simp [decode60]

theorem engqMx (a : BitVec 7) : Statement (.engqMx a) := by
  intro _; show decodeMain none none (wordA 0x61#7 0#4 0#7 a 0#7) = _
  rw [decodeMain_61 (fOp_wordA ..)]; simp [decode61]

theorem engqCe (a : BitVec 7) : Statement (.engqCe a) := by
  intro _; show decodeMain none none (wordA 0x61#7 1#4 0#7 a 0#7) = _
  rw [decodeMain_61 (fOp_wordA ..)]; simp [decode61]

theorem engqSsb (a : BitVec 7) : Statement (.engqSsb a) := by
  intro _; show decodeMain none none (wordA 0x61#7 2#4 0#7 a 0#7) = _
  rw [decodeMain_61 (fOp_wordA ..)]; simp [decode61]

theorem engqQe (a : BitVec 7) : Statement (.engqQe a) := by
  intro _; show decodeMain none none (wordA 0x61#7 3#4 0#7 a 0#7) = _
  rw [decodeMain_61 (fOp_wordA ..)]; simp [decode61]

theorem fork (e : BitVec 4) (a : BitVec 7) (b : BitVec 7) : Statement (.fork e a b) := by
  intro _; show decodeMain none none (wordA 0x62#7 e 0#7 a b) = _
  rw [decodeMain_62 (fOp_wordA ..)]; simp [decode62]

theorem rdv (d : BitVec 7) (a : BitVec 7) : Statement (.rdv d a) := by
  intro _; show decodeMain none none (wordA 0x63#7 0#4 d a 0#7) = _
  rw [decodeMain_63 (fOp_wordA ..)]; simp [decode63]

theorem specEpoch (d : BitVec 7) (a : BitVec 7) : Statement (.specEpoch d a) := by
  intro _; show decodeMain none none (wordA 0x64#7 0#4 d a 0#7) = _
  rw [decodeMain_64 (fOp_wordA ..)]; simp [decode64]

theorem specCommit (d : BitVec 7) (a : BitVec 7) : Statement (.specCommit d a) := by
  intro _; show decodeMain none none (wordA 0x64#7 1#4 d a 0#7) = _
  rw [decodeMain_64 (fOp_wordA ..)]; simp [decode64]

theorem specCancel (d : BitVec 7) (a : BitVec 7) : Statement (.specCancel d a) := by
  intro _; show decodeMain none none (wordA 0x64#7 2#4 d a 0#7) = _
  rw [decodeMain_64 (fOp_wordA ..)]; simp [decode64]

theorem flcall (t : BitVec 3) (a : BitVec 7) (r : BitVec 1) : Statement (.flcall t a r) := by
  intro _; show decodeMain none none (wordA 0x65#7 (0#1 ++ t) 0#7 a (0#6 ++ r)) = _
  rw [decodeMain_65 (fOp_wordA ..)]; simp [decode65]

theorem flwait (a : BitVec 7) : Statement (.flwait a) := by
  intro _; show decodeMain none none (wordA 0x66#7 0#4 0#7 a 0#7) = _
  rw [decodeMain_66 (fOp_wordA ..)]; simp [decode66]

theorem take (d : BitVec 7) (a : BitVec 7) (b : BitVec 7) : Statement (.take d a b) := by
  intro _; show decodeMain none none (wordA 0x67#7 0#4 d a b) = _
  rw [decodeMain_67 (fOp_wordA ..)]; simp [decode67]

theorem skip (a : BitVec 7) (b : BitVec 7) : Statement (.skip a b) := by
  intro _; show decodeMain none none (wordA 0x67#7 1#4 0#7 a b) = _
  rw [decodeMain_67 (fOp_wordA ..)]; simp [decode67]

theorem tspawn (d : BitVec 7) (a : BitVec 7) : Statement (.tspawn d a) := by
  intro _; show decodeMain none none (wordA 0x68#7 0#4 d a 0#7) = _
  rw [decodeMain_68 (fOp_wordA ..)]; simp [decode68]

theorem tsignal (a : BitVec 7) : Statement (.tsignal a) := by
  intro _; show decodeMain none none (wordA 0x68#7 1#4 0#7 a 0#7) = _
  rw [decodeMain_68 (fOp_wordA ..)]; simp [decode68]

theorem tqrd (d : BitVec 7) (a : BitVec 7) (k : BitVec 7) : Statement (.tqrd d a k) := by
  intro _; show decodeMain none none (wordA 0x68#7 2#4 d a k) = _
  rw [decodeMain_68 (fOp_wordA ..)]; simp [decode68]

theorem csrr (d : BitVec 7) (c : BitVec 14) : Statement (.csrr d c) := by
  intro _; show decodeMain none none (wordC 0x70#7 0#4 d c) = _
  rw [decodeMain_70 (fOp_wordC ..)]; simp [decode70]

theorem csrw (d : BitVec 7) (c : BitVec 14) : Statement (.csrw d c) := by
  intro _; show decodeMain none none (wordC 0x70#7 1#4 d c) = _
  rw [decodeMain_70 (fOp_wordC ..)]; simp [decode70]

theorem trap (i : BitVec 14) : Statement (.trap i) := by
  intro _; show decodeMain none none (wordC 0x71#7 0#4 0#7 i) = _
  rw [decodeMain_71 (fOp_wordC ..)]; simp [decode71]

theorem eret : Statement .eret := by
  intro _; show decodeMain none none (wordA 0x72#7 0#4 0#7 0#7 0#7) = _
  rw [decodeMain_72 (fOp_wordA ..)]; simp [decode72]

theorem cclr (a : BitVec 7) : Statement (.cclr a) := by
  intro _; show decodeMain none none (wordA 0x72#7 1#4 0#7 a 0#7) = _
  rw [decodeMain_72 (fOp_wordA ..)]; simp [decode72]

theorem bkpt (k : BitVec 7) : Statement (.bkpt k) := by
  intro _; show decodeMain none none (wordA 0x72#7 2#4 0#7 0#7 k) = _
  rw [decodeMain_72 (fOp_wordA ..)]; simp [decode72]

theorem tmark (a : BitVec 7) (k : BitVec 7) : Statement (.tmark a k) := by
  intro _; show decodeMain none none (wordA 0x72#7 3#4 0#7 a k) = _
  rw [decodeMain_72 (fOp_wordA ..)]; simp [decode72]

theorem isync : Statement .isync := by
  intro _; show decodeMain none none (wordA 0x72#7 4#4 0#7 0#7 0#7) = _
  rw [decodeMain_72 (fOp_wordA ..)]; simp [decode72]

theorem l1inv (a : BitVec 7) (b : BitVec 7) : Statement (.l1inv a b) := by
  intro _; show decodeMain none none (wordA 0x73#7 0#4 0#7 a b) = _
  rw [decodeMain_73 (fOp_wordA ..)]; simp [decode73]

theorem tlbinv (d : BitVec 7) (a : BitVec 7) (b : BitVec 7) : Statement (.tlbinv d a b) := by
  intro _; show decodeMain none none (wordA 0x73#7 1#4 d a b) = _
  rw [decodeMain_73 (fOp_wordA ..)]; simp [decode73]

theorem shoot (d : BitVec 7) (a : BitVec 7) (b : BitVec 7) : Statement (.shoot d a b) := by
  intro _; show decodeMain none none (wordA 0x73#7 2#4 d a b) = _
  rw [decodeMain_73 (fOp_wordA ..)]; simp [decode73]

theorem rdcinv (a : BitVec 7) (b : BitVec 7) : Statement (.rdcinv a b) := by
  intro _; show decodeMain none none (wordA 0x73#7 3#4 0#7 a b) = _
  rw [decodeMain_73 (fOp_wordA ..)]; simp [decode73]

theorem powerLoss : Statement .powerLoss := fun h => nomatch h

theorem companionLinkUp : Statement .companionLinkUp := fun h => nomatch h

theorem companionAtomicop (op : Nat) (addr : BitVec 48) (width : Nat) (x y : BitVec 128) : Statement (.companionAtomicop op addr width x y) := fun h => nomatch h

end Sys2Proof.Laws.ReadsBack
end

