-- ==== Sys2Proof/Laws/Round.lean ====
section
/-! SUPPORT. The words of an instruction are read as that instruction (08 R158 to R164, 20 R355). -/
namespace Sys2Proof.Laws

/-- The word of every strand instruction, under its prefixes, is read as that instruction. -/
theorem readsBack : ∀ i : Instr, i.encoded = true → decodeMain i.mskOf i.immOf i.word = some i
  | .powerOnReset, h => ReadsBack.powerOnReset h
  | .warmReset, h => ReadsBack.warmReset h
  | .powerSample a0, h => ReadsBack.powerSample a0 h
  | .dramRefresh a0 a1, h => ReadsBack.dramRefresh a0 a1 h
  | .dhTrain a0 a1 a2, h => ReadsBack.dhTrain a0 a1 a2 h
  | .dhTrainDone a0 a1, h => ReadsBack.dhTrainDone a0 a1 h
  | .dhEnable a0 a1 a2, h => ReadsBack.dhEnable a0 a1 a2 h
  | .dhFrameStart a0, h => ReadsBack.dhFrameStart a0 h
  | .hgHtail a0 a1, h => ReadsBack.hgHtail a0 a1 h
  | .taskAcceptance, h => ReadsBack.taskAcceptance h
  | .agingStep, h => ReadsBack.agingStep h
  | .evminReservation, h => ReadsBack.evminReservation h
  | .taskDispatch, h => ReadsBack.taskDispatch h
  | .bundlePlacement a0, h => ReadsBack.bundlePlacement a0 h
  | .fastPathPlacement a0, h => ReadsBack.fastPathPlacement a0 h
  | .stealRequest a0, h => ReadsBack.stealRequest a0 h
  | .bundleEviction a0, h => ReadsBack.bundleEviction a0 h
  | .bundleRestore a0 a1 a2, h => ReadsBack.bundleRestore a0 a1 a2 h
  | .workQueueTailObserve a0, h => ReadsBack.workQueueTailObserve a0 h
  | .workQueueLaunch a0, h => ReadsBack.workQueueLaunch a0 h
  | .taskCompletion a0, h => ReadsBack.taskCompletion a0 h
  | .frameToken a0, h => ReadsBack.frameToken a0 h
  | .traceStart a0, h => ReadsBack.traceStart a0 h
  | .traceStop a0, h => ReadsBack.traceStop a0 h
  | .hgPolicy a0 a1, h => ReadsBack.hgPolicy a0 a1 h
  | .hgQtcount a0 a1, h => ReadsBack.hgQtcount a0 a1 h
  | .hgFkill a0 a1, h => ReadsBack.hgFkill a0 a1 h
  | .backwaterFullReport, h => ReadsBack.backwaterFullReport h
  | .hostIrq a0 a1, h => ReadsBack.hostIrq a0 a1 h
  | .mstOwn a0 a1, h => ReadsBack.mstOwn a0 a1 h
  | .registerWrite a0 a1 a2, h => ReadsBack.registerWrite a0 a1 a2 h
  | .hostMemoryWrite a0 a1, h => ReadsBack.hostMemoryWrite a0 a1 h
  | .hostMemoryRead a0 a1, h => ReadsBack.hostMemoryRead a0 a1 h
  | .hostAtomic a0 a1 a2 a3 a4, h => ReadsBack.hostAtomic a0 a1 a2 a3 a4 h
  | .lineLeaseExpiry a0 a1, h => ReadsBack.lineLeaseExpiry a0 a1 h
  | .crossDieWriteApply a0, h => ReadsBack.crossDieWriteApply a0 h
  | .writeAcknowledge a0, h => ReadsBack.writeAcknowledge a0 h
  | .readRequestServe a0 a1, h => ReadsBack.readRequestServe a0 a1 h
  | .loadDataReturn a0 a1 a2 a3, h => ReadsBack.loadDataReturn a0 a1 a2 a3 h
  | .walkComplete a0 a1 a2, h => ReadsBack.walkComplete a0 a1 a2 h
  | .uncorrectableMemoryError a0 a1, h => ReadsBack.uncorrectableMemoryError a0 a1 h
  | .scratchpadSoftError a0 a1 a2 a3, h => ReadsBack.scratchpadSoftError a0 a1 a2 a3 h
  | .ackOverdue a0, h => ReadsBack.ackOverdue a0 h
  | .watchTimeout a0 a1 a2, h => ReadsBack.watchTimeout a0 a1 a2 h
  | .strandWake a0 a1 a2, h => ReadsBack.strandWake a0 a1 a2 h
  | .rwrDeposit a0, h => ReadsBack.rwrDeposit a0 h
  | .mailboxAccept a0 a1, h => ReadsBack.mailboxAccept a0 a1 h
  | .mxMma a0 a1, h => ReadsBack.mxMma a0 a1 h
  | .mxMmac a0 a1, h => ReadsBack.mxMmac a0 a1 h
  | .ssbScan a0 a1, h => ReadsBack.ssbScan a0 a1 h
  | .ceCopy a0 a1, h => ReadsBack.ceCopy a0 a1 h
  | .qeQuant a0 a1, h => ReadsBack.qeQuant a0 a1 h
  | .engineCommandComplete a0 a1 a2, h => ReadsBack.engineCommandComplete a0 a1 a2 h
  | .engctlResume a0 a1 a2, h => ReadsBack.engctlResume a0 a1 a2 h
  | .engctlAbandon a0 a1 a2, h => ReadsBack.engctlAbandon a0 a1 a2 h
  | .mxringTailObserve a0 a1, h => ReadsBack.mxringTailObserve a0 a1 h
  | .weirAdmit a0, h => ReadsBack.weirAdmit a0 h
  | .flumeRaster a0, h => ReadsBack.flumeRaster a0 h
  | .flumeDepth a0, h => ReadsBack.flumeDepth a0 h
  | .flumeBlend a0, h => ReadsBack.flumeBlend a0 h
  | .flumeTessellator a0, h => ReadsBack.flumeTessellator a0 h
  | .flumeTextureFilter a0, h => ReadsBack.flumeTextureFilter a0 h
  | .flumeTraversal a0, h => ReadsBack.flumeTraversal a0 h
  | .flumeReprojection a0, h => ReadsBack.flumeReprojection a0 h
  | .flumeSieve a0, h => ReadsBack.flumeSieve a0 h
  | .sieveAgeFlush a0, h => ReadsBack.sieveAgeFlush a0 h
  | .queueRoomResume a0, h => ReadsBack.queueRoomResume a0 h
  | .orderDomainAdvance a0, h => ReadsBack.orderDomainAdvance a0 h
  | .traversalTask a0, h => ReadsBack.traversalTask a0 h
  | .flDom a0 a1 a2, h => ReadsBack.flDom a0 a1 a2 h
  | .pair a0, h => ReadsBack.pair a0 h
  | .pairAck a0, h => ReadsBack.pairAck a0 h
  | .migrate a0, h => ReadsBack.migrate a0 h
  | .migrateDone a0, h => ReadsBack.migrateDone a0 h
  | .move a0, h => ReadsBack.move a0 h
  | .moveData a0 a1 a2, h => ReadsBack.moveData a0 a1 a2 h
  | .stepAck a0, h => ReadsBack.stepAck a0 h
  | .release a0, h => ReadsBack.release a0 h
  | .cisternStep, h => ReadsBack.cisternStep h
  | .companionSurpriseDown, h => ReadsBack.companionSurpriseDown h
  | .companionUnresponsive, h => ReadsBack.companionUnresponsive h
  | .azRetrain a0 a1, h => ReadsBack.azRetrain a0 a1 h
  | .azClrpart a0 a1, h => ReadsBack.azClrpart a0 a1 h
  | .partClearDone, h => ReadsBack.partClearDone h
  | .hostLinkDown, h => ReadsBack.hostLinkDown h
  | .i3cTargetReset, h => ReadsBack.i3cTargetReset h
  | .mgDbg a0 a1, h => ReadsBack.mgDbg a0 a1 h
  | .mgPwrReq a0 a1, h => ReadsBack.mgPwrReq a0 a1 h
  | .retentionEntry, h => ReadsBack.retentionEntry h
  | .idleEntry, h => ReadsBack.idleEntry h
  | .mgHalt a0 a1, h => ReadsBack.mgHalt a0 a1 h
  | .mgHaltResume a0 a1, h => ReadsBack.mgHaltResume a0 a1 h
  | .blobTransition a0 a1, h => ReadsBack.blobTransition a0 a1 h
  | .blobConfiguration a0 a1, h => ReadsBack.blobConfiguration a0 a1 h
  | .contextCapture a0 a1, h => ReadsBack.contextCapture a0 a1 h
  | .taskEnd a0, h => ReadsBack.taskEnd a0 h
  | .dumpWrite a0, h => ReadsBack.dumpWrite a0 h
  | .saluAdd a0 a1 a2, h => ReadsBack.saluAdd a0 a1 a2 h
  | .saluSub a0 a1 a2, h => ReadsBack.saluSub a0 a1 a2 h
  | .saluMul a0 a1 a2, h => ReadsBack.saluMul a0 a1 a2 h
  | .saluMulhs a0 a1 a2, h => ReadsBack.saluMulhs a0 a1 a2 h
  | .saluMulhu a0 a1 a2, h => ReadsBack.saluMulhu a0 a1 a2 h
  | .saluAnd a0 a1 a2, h => ReadsBack.saluAnd a0 a1 a2 h
  | .saluOr a0 a1 a2, h => ReadsBack.saluOr a0 a1 a2 h
  | .saluXor a0 a1 a2, h => ReadsBack.saluXor a0 a1 a2 h
  | .saluShl a0 a1 a2, h => ReadsBack.saluShl a0 a1 a2 h
  | .saluShr a0 a1 a2, h => ReadsBack.saluShr a0 a1 a2 h
  | .saluSar a0 a1 a2, h => ReadsBack.saluSar a0 a1 a2 h
  | .saluMin a0 a1 a2, h => ReadsBack.saluMin a0 a1 a2 h
  | .saluMax a0 a1 a2, h => ReadsBack.saluMax a0 a1 a2 h
  | .saluMinu a0 a1 a2, h => ReadsBack.saluMinu a0 a1 a2 h
  | .saluMaxu a0 a1 a2, h => ReadsBack.saluMaxu a0 a1 a2 h
  | .saluSlt a0 a1 a2, h => ReadsBack.saluSlt a0 a1 a2 h
  | .saluiAdd a0 a1 a2 a3, h => ReadsBack.saluiAdd a0 a1 a2 a3 h
  | .saluiSub a0 a1 a2 a3, h => ReadsBack.saluiSub a0 a1 a2 a3 h
  | .saluiMul a0 a1 a2 a3, h => ReadsBack.saluiMul a0 a1 a2 a3 h
  | .saluiMulhs a0 a1 a2 a3, h => ReadsBack.saluiMulhs a0 a1 a2 a3 h
  | .saluiMulhu a0 a1 a2 a3, h => ReadsBack.saluiMulhu a0 a1 a2 a3 h
  | .saluiAnd a0 a1 a2 a3, h => ReadsBack.saluiAnd a0 a1 a2 a3 h
  | .saluiOr a0 a1 a2 a3, h => ReadsBack.saluiOr a0 a1 a2 a3 h
  | .saluiXor a0 a1 a2 a3, h => ReadsBack.saluiXor a0 a1 a2 a3 h
  | .saluiShl a0 a1 a2 a3, h => ReadsBack.saluiShl a0 a1 a2 a3 h
  | .saluiShr a0 a1 a2 a3, h => ReadsBack.saluiShr a0 a1 a2 a3 h
  | .saluiSar a0 a1 a2 a3, h => ReadsBack.saluiSar a0 a1 a2 a3 h
  | .saluiMin a0 a1 a2 a3, h => ReadsBack.saluiMin a0 a1 a2 a3 h
  | .saluiMax a0 a1 a2 a3, h => ReadsBack.saluiMax a0 a1 a2 a3 h
  | .saluiMinu a0 a1 a2 a3, h => ReadsBack.saluiMinu a0 a1 a2 a3 h
  | .saluiMaxu a0 a1 a2 a3, h => ReadsBack.saluiMaxu a0 a1 a2 a3 h
  | .saluiSlt a0 a1 a2 a3, h => ReadsBack.saluiSlt a0 a1 a2 a3 h
  | .li a0 a1 a2, h => ReadsBack.li a0 a1 a2 h
  | .lih a0 a1, h => ReadsBack.lih a0 a1 h
  | .sbitPopc a0 a1, h => ReadsBack.sbitPopc a0 a1 h
  | .sbitClz a0 a1, h => ReadsBack.sbitClz a0 a1 h
  | .sbitCtz a0 a1, h => ReadsBack.sbitCtz a0 a1 h
  | .sbitBrev a0 a1, h => ReadsBack.sbitBrev a0 a1 h
  | .bfx a0 a1 a2, h => ReadsBack.bfx a0 a1 a2 h
  | .bfi a0 a1 a2, h => ReadsBack.bfi a0 a1 a2 h
  | .sextb a0 a1, h => ReadsBack.sextb a0 a1 h
  | .sexth a0 a1, h => ReadsBack.sexth a0 a1 h
  | .zextb a0 a1, h => ReadsBack.zextb a0 a1 h
  | .zexth a0 a1, h => ReadsBack.zexth a0 a1 h
  | .div a0 a1 a2 a3, h => ReadsBack.div a0 a1 a2 a3 h
  | .divu a0 a1 a2 a3, h => ReadsBack.divu a0 a1 a2 a3 h
  | .rem a0 a1 a2 a3, h => ReadsBack.rem a0 a1 a2 a3 h
  | .remu a0 a1 a2 a3, h => ReadsBack.remu a0 a1 a2 a3 h
  | .scmpEq a0 a1 a2, h => ReadsBack.scmpEq a0 a1 a2 h
  | .scmpNe a0 a1 a2, h => ReadsBack.scmpNe a0 a1 a2 h
  | .scmpLt a0 a1 a2, h => ReadsBack.scmpLt a0 a1 a2 h
  | .scmpLe a0 a1 a2, h => ReadsBack.scmpLe a0 a1 a2 h
  | .scmpGt a0 a1 a2, h => ReadsBack.scmpGt a0 a1 a2 h
  | .scmpGe a0 a1 a2, h => ReadsBack.scmpGe a0 a1 a2 h
  | .scmpLtu a0 a1 a2, h => ReadsBack.scmpLtu a0 a1 a2 h
  | .scmpLeu a0 a1 a2, h => ReadsBack.scmpLeu a0 a1 a2 h
  | .scmpGtu a0 a1 a2, h => ReadsBack.scmpGtu a0 a1 a2 h
  | .scmpGeu a0 a1 a2, h => ReadsBack.scmpGeu a0 a1 a2 h
  | .scmpiEq a0 a1 a2 a3, h => ReadsBack.scmpiEq a0 a1 a2 a3 h
  | .scmpiNe a0 a1 a2 a3, h => ReadsBack.scmpiNe a0 a1 a2 a3 h
  | .scmpiLt a0 a1 a2 a3, h => ReadsBack.scmpiLt a0 a1 a2 a3 h
  | .scmpiLe a0 a1 a2 a3, h => ReadsBack.scmpiLe a0 a1 a2 a3 h
  | .scmpiGt a0 a1 a2 a3, h => ReadsBack.scmpiGt a0 a1 a2 a3 h
  | .scmpiGe a0 a1 a2 a3, h => ReadsBack.scmpiGe a0 a1 a2 a3 h
  | .scmpiLtu a0 a1 a2 a3, h => ReadsBack.scmpiLtu a0 a1 a2 a3 h
  | .scmpiLeu a0 a1 a2 a3, h => ReadsBack.scmpiLeu a0 a1 a2 a3 h
  | .scmpiGtu a0 a1 a2 a3, h => ReadsBack.scmpiGtu a0 a1 a2 a3 h
  | .scmpiGeu a0 a1 a2 a3, h => ReadsBack.scmpiGeu a0 a1 a2 a3 h
  | .pand a0 a1 a2, h => ReadsBack.pand a0 a1 a2 h
  | .por a0 a1 a2, h => ReadsBack.por a0 a1 a2 h
  | .pxor a0 a1 a2, h => ReadsBack.pxor a0 a1 a2 h
  | .pandn a0 a1 a2, h => ReadsBack.pandn a0 a1 a2 h
  | .porn a0 a1 a2, h => ReadsBack.porn a0 a1 a2 h
  | .pnot a0 a1, h => ReadsBack.pnot a0 a1 h
  | .pmov a0 a1, h => ReadsBack.pmov a0 a1 h
  | .pclr a0, h => ReadsBack.pclr a0 h
  | .pset a0, h => ReadsBack.pset a0 h
  | .sel a0 a1 a2 a3 a4, h => ReadsBack.sel a0 a1 a2 a3 a4 h
  | .bcasts a0 a1, h => ReadsBack.bcasts a0 a1 h
  | .extr a0 a1 a2, h => ReadsBack.extr a0 a1 a2 h
  | .insr a0 a1 a2, h => ReadsBack.insr a0 a1 a2 h
  | .crd a0 a1, h => ReadsBack.crd a0 a1 h
  | .cwr a0 a1, h => ReadsBack.cwr a0 a1 h
  | .srd a0 a1, h => ReadsBack.srd a0 a1 h
  | .movs a0 a1, h => ReadsBack.movs a0 a1 h
  | .movv a0 a1, h => ReadsBack.movv a0 a1 h
  | .prd a0 a1, h => ReadsBack.prd a0 a1 h
  | .pwr a0 a1, h => ReadsBack.pwr a0 a1 h
  | .valuAdd a0 a1 a2 a3, h => ReadsBack.valuAdd a0 a1 a2 a3 h
  | .valuSub a0 a1 a2 a3, h => ReadsBack.valuSub a0 a1 a2 a3 h
  | .valuMul a0 a1 a2 a3, h => ReadsBack.valuMul a0 a1 a2 a3 h
  | .valuMulhs a0 a1 a2 a3, h => ReadsBack.valuMulhs a0 a1 a2 a3 h
  | .valuMulhu a0 a1 a2 a3, h => ReadsBack.valuMulhu a0 a1 a2 a3 h
  | .valuAdds a0 a1 a2 a3, h => ReadsBack.valuAdds a0 a1 a2 a3 h
  | .valuSubs a0 a1 a2 a3, h => ReadsBack.valuSubs a0 a1 a2 a3 h
  | .valuAddus a0 a1 a2 a3, h => ReadsBack.valuAddus a0 a1 a2 a3 h
  | .valuSubus a0 a1 a2 a3, h => ReadsBack.valuSubus a0 a1 a2 a3 h
  | .valuMin a0 a1 a2 a3, h => ReadsBack.valuMin a0 a1 a2 a3 h
  | .valuMax a0 a1 a2 a3, h => ReadsBack.valuMax a0 a1 a2 a3 h
  | .valuMinu a0 a1 a2 a3, h => ReadsBack.valuMinu a0 a1 a2 a3 h
  | .valuMaxu a0 a1 a2 a3, h => ReadsBack.valuMaxu a0 a1 a2 a3 h
  | .valuAbs a0 a1 a2, h => ReadsBack.valuAbs a0 a1 a2 h
  | .valuNeg a0 a1 a2, h => ReadsBack.valuNeg a0 a1 a2 h
  | .valuAbsd a0 a1 a2 a3, h => ReadsBack.valuAbsd a0 a1 a2 a3 h
  | .valuiAdd a0 a1 a2 a3 a4, h => ReadsBack.valuiAdd a0 a1 a2 a3 a4 h
  | .valuiSub a0 a1 a2 a3 a4, h => ReadsBack.valuiSub a0 a1 a2 a3 a4 h
  | .valuiMul a0 a1 a2 a3 a4, h => ReadsBack.valuiMul a0 a1 a2 a3 a4 h
  | .valuiMulhs a0 a1 a2 a3 a4, h => ReadsBack.valuiMulhs a0 a1 a2 a3 a4 h
  | .valuiMulhu a0 a1 a2 a3 a4, h => ReadsBack.valuiMulhu a0 a1 a2 a3 a4 h
  | .valuiAdds a0 a1 a2 a3 a4, h => ReadsBack.valuiAdds a0 a1 a2 a3 a4 h
  | .valuiSubs a0 a1 a2 a3 a4, h => ReadsBack.valuiSubs a0 a1 a2 a3 a4 h
  | .valuiAddus a0 a1 a2 a3 a4, h => ReadsBack.valuiAddus a0 a1 a2 a3 a4 h
  | .valuiSubus a0 a1 a2 a3 a4, h => ReadsBack.valuiSubus a0 a1 a2 a3 a4 h
  | .valuiMin a0 a1 a2 a3 a4, h => ReadsBack.valuiMin a0 a1 a2 a3 a4 h
  | .valuiMax a0 a1 a2 a3 a4, h => ReadsBack.valuiMax a0 a1 a2 a3 a4 h
  | .valuiMinu a0 a1 a2 a3 a4, h => ReadsBack.valuiMinu a0 a1 a2 a3 a4 h
  | .valuiMaxu a0 a1 a2 a3 a4, h => ReadsBack.valuiMaxu a0 a1 a2 a3 a4 h
  | .valuiAbsd a0 a1 a2 a3 a4, h => ReadsBack.valuiAbsd a0 a1 a2 a3 a4 h
  | .vmadMad a0 a1 a2 a3, h => ReadsBack.vmadMad a0 a1 a2 a3 h
  | .vmadMsb a0 a1 a2 a3, h => ReadsBack.vmadMsb a0 a1 a2 a3 h
  | .vmadMads a0 a1 a2 a3, h => ReadsBack.vmadMads a0 a1 a2 a3 h
  | .vmadMadI16 a0 a1 a2 a3, h => ReadsBack.vmadMadI16 a0 a1 a2 a3 h
  | .vmadMadI8 a0 a1 a2 a3, h => ReadsBack.vmadMadI8 a0 a1 a2 a3 h
  | .vdot2 a0 a1 a2 a3, h => ReadsBack.vdot2 a0 a1 a2 a3 h
  | .vdot4 a0 a1 a2 a3, h => ReadsBack.vdot4 a0 a1 a2 a3 h
  | .vdot4u a0 a1 a2 a3, h => ReadsBack.vdot4u a0 a1 a2 a3 h
  | .vcmpEq a0 a1 a2 a3, h => ReadsBack.vcmpEq a0 a1 a2 a3 h
  | .vcmpNe a0 a1 a2 a3, h => ReadsBack.vcmpNe a0 a1 a2 a3 h
  | .vcmpLt a0 a1 a2 a3, h => ReadsBack.vcmpLt a0 a1 a2 a3 h
  | .vcmpLe a0 a1 a2 a3, h => ReadsBack.vcmpLe a0 a1 a2 a3 h
  | .vcmpGt a0 a1 a2 a3, h => ReadsBack.vcmpGt a0 a1 a2 a3 h
  | .vcmpGe a0 a1 a2 a3, h => ReadsBack.vcmpGe a0 a1 a2 a3 h
  | .vcmpLtu a0 a1 a2 a3, h => ReadsBack.vcmpLtu a0 a1 a2 a3 h
  | .vcmpLeu a0 a1 a2 a3, h => ReadsBack.vcmpLeu a0 a1 a2 a3 h
  | .vcmpGtu a0 a1 a2 a3, h => ReadsBack.vcmpGtu a0 a1 a2 a3 h
  | .vcmpGeu a0 a1 a2 a3, h => ReadsBack.vcmpGeu a0 a1 a2 a3 h
  | .vcmpEqI16 a0 a1 a2 a3, h => ReadsBack.vcmpEqI16 a0 a1 a2 a3 h
  | .vcmpLtI16 a0 a1 a2 a3, h => ReadsBack.vcmpLtI16 a0 a1 a2 a3 h
  | .vcmpLtuI16 a0 a1 a2 a3, h => ReadsBack.vcmpLtuI16 a0 a1 a2 a3 h
  | .vcmpEqI8 a0 a1 a2 a3, h => ReadsBack.vcmpEqI8 a0 a1 a2 a3 h
  | .vcmpLtI8 a0 a1 a2 a3, h => ReadsBack.vcmpLtI8 a0 a1 a2 a3 h
  | .vcmpLtuI8 a0 a1 a2 a3, h => ReadsBack.vcmpLtuI8 a0 a1 a2 a3 h
  | .perm a0 a1 a2 a3, h => ReadsBack.perm a0 a1 a2 a3 h
  | .shuf a0 a1 a2 a3, h => ReadsBack.shuf a0 a1 a2 a3 h
  | .rot a0 a1 a2 a3, h => ReadsBack.rot a0 a1 a2 a3 h
  | .ext a0 a1 a2 a3, h => ReadsBack.ext a0 a1 a2 a3 h
  | .ins a0 a1 a2 a3, h => ReadsBack.ins a0 a1 a2 a3 h
  | .zip a0 a1 a2 a3, h => ReadsBack.zip a0 a1 a2 a3 h
  | .unzip a0 a1 a2 a3, h => ReadsBack.unzip a0 a1 a2 a3 h
  | .vpackAdd a0 a1 a2 a3 a4, h => ReadsBack.vpackAdd a0 a1 a2 a3 a4 h
  | .vpackSub a0 a1 a2 a3 a4, h => ReadsBack.vpackSub a0 a1 a2 a3 a4 h
  | .vpackAdds a0 a1 a2 a3 a4, h => ReadsBack.vpackAdds a0 a1 a2 a3 a4 h
  | .vpackSubs a0 a1 a2 a3 a4, h => ReadsBack.vpackSubs a0 a1 a2 a3 a4 h
  | .vpackAddus a0 a1 a2 a3 a4, h => ReadsBack.vpackAddus a0 a1 a2 a3 a4 h
  | .vpackSubus a0 a1 a2 a3 a4, h => ReadsBack.vpackSubus a0 a1 a2 a3 a4 h
  | .vpackMin a0 a1 a2 a3 a4, h => ReadsBack.vpackMin a0 a1 a2 a3 a4 h
  | .vpackMax a0 a1 a2 a3 a4, h => ReadsBack.vpackMax a0 a1 a2 a3 a4 h
  | .redadd a0 a1 a2, h => ReadsBack.redadd a0 a1 a2 h
  | .redmin a0 a1 a2, h => ReadsBack.redmin a0 a1 a2 h
  | .redmax a0 a1 a2, h => ReadsBack.redmax a0 a1 a2 h
  | .redminu a0 a1 a2, h => ReadsBack.redminu a0 a1 a2 h
  | .redmaxu a0 a1 a2, h => ReadsBack.redmaxu a0 a1 a2 h
  | .redand a0 a1 a2, h => ReadsBack.redand a0 a1 a2 h
  | .redor a0 a1 a2, h => ReadsBack.redor a0 a1 a2 h
  | .redxor a0 a1 a2, h => ReadsBack.redxor a0 a1 a2 h
  | .redaddF32 a0 a1 a2, h => ReadsBack.redaddF32 a0 a1 a2 h
  | .redminF32 a0 a1 a2, h => ReadsBack.redminF32 a0 a1 a2 h
  | .redmaxF32 a0 a1 a2, h => ReadsBack.redmaxF32 a0 a1 a2 h
  | .vbitAnd a0 a1 a2 a3, h => ReadsBack.vbitAnd a0 a1 a2 a3 h
  | .vbitOr a0 a1 a2 a3, h => ReadsBack.vbitOr a0 a1 a2 a3 h
  | .vbitXor a0 a1 a2 a3, h => ReadsBack.vbitXor a0 a1 a2 a3 h
  | .vbitAndn a0 a1 a2 a3, h => ReadsBack.vbitAndn a0 a1 a2 a3 h
  | .vbitNot a0 a1 a2, h => ReadsBack.vbitNot a0 a1 a2 h
  | .vbitShl a0 a1 a2 a3, h => ReadsBack.vbitShl a0 a1 a2 a3 h
  | .vbitShr a0 a1 a2 a3, h => ReadsBack.vbitShr a0 a1 a2 a3 h
  | .vbitSar a0 a1 a2 a3, h => ReadsBack.vbitSar a0 a1 a2 a3 h
  | .vbitShlI16 a0 a1 a2 a3, h => ReadsBack.vbitShlI16 a0 a1 a2 a3 h
  | .vbitShrI16 a0 a1 a2 a3, h => ReadsBack.vbitShrI16 a0 a1 a2 a3 h
  | .vbitSarI16 a0 a1 a2 a3, h => ReadsBack.vbitSarI16 a0 a1 a2 a3 h
  | .vbitPopc a0 a1 a2, h => ReadsBack.vbitPopc a0 a1 a2 h
  | .vbitClz a0 a1 a2, h => ReadsBack.vbitClz a0 a1 a2 h
  | .vbitBrev a0 a1 a2, h => ReadsBack.vbitBrev a0 a1 a2 h
  | .vsel a0 a1 a2 a3 a4 a5, h => ReadsBack.vsel a0 a1 a2 a3 a4 a5 h
  | .fadd a0 a1 a2 a3, h => ReadsBack.fadd a0 a1 a2 a3 h
  | .fsub a0 a1 a2 a3, h => ReadsBack.fsub a0 a1 a2 a3 h
  | .fmul a0 a1 a2 a3, h => ReadsBack.fmul a0 a1 a2 a3 h
  | .fmin a0 a1 a2 a3, h => ReadsBack.fmin a0 a1 a2 a3 h
  | .fmax a0 a1 a2 a3, h => ReadsBack.fmax a0 a1 a2 a3 h
  | .fabs a0 a1 a2, h => ReadsBack.fabs a0 a1 a2 h
  | .fneg a0 a1 a2, h => ReadsBack.fneg a0 a1 a2 h
  | .fsgn a0 a1 a2 a3, h => ReadsBack.fsgn a0 a1 a2 a3 h
  | .fma a0 a1 a2 a3, h => ReadsBack.fma a0 a1 a2 a3 h
  | .fms a0 a1 a2 a3, h => ReadsBack.fms a0 a1 a2 a3 h
  | .fnma a0 a1 a2 a3, h => ReadsBack.fnma a0 a1 a2 a3 h
  | .fnms a0 a1 a2 a3, h => ReadsBack.fnms a0 a1 a2 a3 h
  | .fcmpF32Eq a0 a1 a2 a3, h => ReadsBack.fcmpF32Eq a0 a1 a2 a3 h
  | .fcmpF32Ne a0 a1 a2 a3, h => ReadsBack.fcmpF32Ne a0 a1 a2 a3 h
  | .fcmpF32Lt a0 a1 a2 a3, h => ReadsBack.fcmpF32Lt a0 a1 a2 a3 h
  | .fcmpF32Le a0 a1 a2 a3, h => ReadsBack.fcmpF32Le a0 a1 a2 a3 h
  | .fcmpF32Gt a0 a1 a2 a3, h => ReadsBack.fcmpF32Gt a0 a1 a2 a3 h
  | .fcmpF32Ge a0 a1 a2 a3, h => ReadsBack.fcmpF32Ge a0 a1 a2 a3 h
  | .fcmpF32Unord a0 a1 a2 a3, h => ReadsBack.fcmpF32Unord a0 a1 a2 a3 h
  | .fcmpF32Ord a0 a1 a2 a3, h => ReadsBack.fcmpF32Ord a0 a1 a2 a3 h
  | .fcmpF16Eq a0 a1 a2 a3, h => ReadsBack.fcmpF16Eq a0 a1 a2 a3 h
  | .fcmpF16Lt a0 a1 a2 a3, h => ReadsBack.fcmpF16Lt a0 a1 a2 a3 h
  | .fcmpF16Le a0 a1 a2 a3, h => ReadsBack.fcmpF16Le a0 a1 a2 a3 h
  | .fcmpF16Unord a0 a1 a2 a3, h => ReadsBack.fcmpF16Unord a0 a1 a2 a3 h
  | .fcmpBf16Eq a0 a1 a2 a3, h => ReadsBack.fcmpBf16Eq a0 a1 a2 a3 h
  | .fcmpBf16Lt a0 a1 a2 a3, h => ReadsBack.fcmpBf16Lt a0 a1 a2 a3 h
  | .fcmpBf16Le a0 a1 a2 a3, h => ReadsBack.fcmpBf16Le a0 a1 a2 a3 h
  | .fcmpBf16Unord a0 a1 a2 a3, h => ReadsBack.fcmpBf16Unord a0 a1 a2 a3 h
  | .rcp a0 a1 a2 a3, h => ReadsBack.rcp a0 a1 a2 a3 h
  | .rsq a0 a1 a2 a3, h => ReadsBack.rsq a0 a1 a2 a3 h
  | .sqrt a0 a1 a2 a3, h => ReadsBack.sqrt a0 a1 a2 a3 h
  | .exp2 a0 a1 a2 a3, h => ReadsBack.exp2 a0 a1 a2 a3 h
  | .log2 a0 a1 a2 a3, h => ReadsBack.log2 a0 a1 a2 a3 h
  | .sinpi a0 a1 a2 a3, h => ReadsBack.sinpi a0 a1 a2 a3 h
  | .cospi a0 a1 a2 a3, h => ReadsBack.cospi a0 a1 a2 a3 h
  | .tanh a0 a1 a2 a3, h => ReadsBack.tanh a0 a1 a2 a3 h
  | .fdiv a0 a1 a2 a3 a4, h => ReadsBack.fdiv a0 a1 a2 a3 a4 h
  | .fcvt a0 a1 a2 a3 a4 a5, h => ReadsBack.fcvt a0 a1 a2 a3 a4 a5 h
  | .frnd a0 a1 a2 a3 a4, h => ReadsBack.frnd a0 a1 a2 a3 a4 h
  | .fclass a0 a1 a2 a3, h => ReadsBack.fclass a0 a1 a2 a3 h
  | .dot2F16 a0 a1 a2 a3, h => ReadsBack.dot2F16 a0 a1 a2 a3 h
  | .dot2Bf16 a0 a1 a2 a3, h => ReadsBack.dot2Bf16 a0 a1 a2 a3 h
  | .dot4E5m2 a0 a1 a2 a3, h => ReadsBack.dot4E5m2 a0 a1 a2 a3 h
  | .dot4E4m3 a0 a1 a2 a3, h => ReadsBack.dot4E4m3 a0 a1 a2 a3 h
  | .dot4I8 a0 a1 a2 a3, h => ReadsBack.dot4I8 a0 a1 a2 a3 h
  | .dot8I4 a0 a1 a2 a3, h => ReadsBack.dot8I4 a0 a1 a2 a3 h
  | .falu16Fadd a0 a1 a2 a3 a4, h => ReadsBack.falu16Fadd a0 a1 a2 a3 a4 h
  | .falu16Fsub a0 a1 a2 a3 a4, h => ReadsBack.falu16Fsub a0 a1 a2 a3 a4 h
  | .falu16Fmul a0 a1 a2 a3 a4, h => ReadsBack.falu16Fmul a0 a1 a2 a3 a4 h
  | .falu16Fmin a0 a1 a2 a3 a4, h => ReadsBack.falu16Fmin a0 a1 a2 a3 a4 h
  | .falu16Fmax a0 a1 a2 a3 a4, h => ReadsBack.falu16Fmax a0 a1 a2 a3 a4 h
  | .falu16Fma a0 a1 a2 a3 a4, h => ReadsBack.falu16Fma a0 a1 a2 a3 a4 h
  | .falu16Fabs a0 a1 a2 a3, h => ReadsBack.falu16Fabs a0 a1 a2 a3 h
  | .falu16Fneg a0 a1 a2 a3, h => ReadsBack.falu16Fneg a0 a1 a2 a3 h
  | .br a0 a1, h => ReadsBack.br a0 a1 h
  | .brp a0 a1 a2 a3, h => ReadsBack.brp a0 a1 a2 a3 h
  | .call a0 a1, h => ReadsBack.call a0 a1 h
  | .jr a0, h => ReadsBack.jr a0 h
  | .jalr a0, h => ReadsBack.jalr a0 h
  | .ret, h => ReadsBack.ret h
  | .retPair a0, h => ReadsBack.retPair a0 h
  | .rcv, h => ReadsBack.rcv h
  | .exit, h => ReadsBack.exit h
  | .yield, h => ReadsBack.yield h
  | .sleep a0, h => ReadsBack.sleep a0 h
  | .lds a0 a1 a2 a3 a4 a5 a6 a7, h => ReadsBack.lds a0 a1 a2 a3 a4 a5 a6 a7 h
  | .ldv a0 a1 a2 a3 a4 a5 a6 a7 a8, h => ReadsBack.ldv a0 a1 a2 a3 a4 a5 a6 a7 a8 h
  | .ldg a0 a1 a2 a3 a4 a5, h => ReadsBack.ldg a0 a1 a2 a3 a4 a5 h
  | .sts a0 a1 a2 a3 a4 a5 a6, h => ReadsBack.sts a0 a1 a2 a3 a4 a5 a6 h
  | .stv a0 a1 a2 a3 a4 a5 a6 a7, h => ReadsBack.stv a0 a1 a2 a3 a4 a5 a6 a7 h
  | .stg a0 a1 a2 a3 a4, h => ReadsBack.stg a0 a1 a2 a3 a4 h
  | .pref a0 a1 a2, h => ReadsBack.pref a0 a1 a2 h
  | .atomAdd a0 a1 a2 a3 a4 a5, h => ReadsBack.atomAdd a0 a1 a2 a3 a4 a5 h
  | .atomMin a0 a1 a2 a3 a4 a5, h => ReadsBack.atomMin a0 a1 a2 a3 a4 a5 h
  | .atomMax a0 a1 a2 a3 a4 a5, h => ReadsBack.atomMax a0 a1 a2 a3 a4 a5 h
  | .atomMinu a0 a1 a2 a3 a4 a5, h => ReadsBack.atomMinu a0 a1 a2 a3 a4 a5 h
  | .atomMaxu a0 a1 a2 a3 a4 a5, h => ReadsBack.atomMaxu a0 a1 a2 a3 a4 a5 h
  | .atomAnd a0 a1 a2 a3 a4 a5, h => ReadsBack.atomAnd a0 a1 a2 a3 a4 a5 h
  | .atomOr a0 a1 a2 a3 a4 a5, h => ReadsBack.atomOr a0 a1 a2 a3 a4 a5 h
  | .atomXor a0 a1 a2 a3 a4 a5, h => ReadsBack.atomXor a0 a1 a2 a3 a4 a5 h
  | .atomXchg a0 a1 a2 a3 a4 a5, h => ReadsBack.atomXchg a0 a1 a2 a3 a4 a5 h
  | .atomCas a0 a1 a2 a3 a4 a5, h => ReadsBack.atomCas a0 a1 a2 a3 a4 a5 h
  | .atomvAdd a0 a1 a2 a3 a4 a5, h => ReadsBack.atomvAdd a0 a1 a2 a3 a4 a5 h
  | .atomvMin a0 a1 a2 a3 a4 a5, h => ReadsBack.atomvMin a0 a1 a2 a3 a4 a5 h
  | .atomvMax a0 a1 a2 a3 a4 a5, h => ReadsBack.atomvMax a0 a1 a2 a3 a4 a5 h
  | .atomvMinu a0 a1 a2 a3 a4 a5, h => ReadsBack.atomvMinu a0 a1 a2 a3 a4 a5 h
  | .atomvMaxu a0 a1 a2 a3 a4 a5, h => ReadsBack.atomvMaxu a0 a1 a2 a3 a4 a5 h
  | .atomvAnd a0 a1 a2 a3 a4 a5, h => ReadsBack.atomvAnd a0 a1 a2 a3 a4 a5 h
  | .atomvOr a0 a1 a2 a3 a4 a5, h => ReadsBack.atomvOr a0 a1 a2 a3 a4 a5 h
  | .atomvXor a0 a1 a2 a3 a4 a5, h => ReadsBack.atomvXor a0 a1 a2 a3 a4 a5 h
  | .atomvXchg a0 a1 a2 a3 a4 a5, h => ReadsBack.atomvXchg a0 a1 a2 a3 a4 a5 h
  | .atomvCas a0 a1 a2 a3 a4 a5, h => ReadsBack.atomvCas a0 a1 a2 a3 a4 a5 h
  | .atomvXchgW128 a0 a1 a2 a3 a4 a5, h => ReadsBack.atomvXchgW128 a0 a1 a2 a3 a4 a5 h
  | .atomvCasW128 a0 a1 a2 a3 a4 a5, h => ReadsBack.atomvCasW128 a0 a1 a2 a3 a4 a5 h
  | .mwatch a0 a1, h => ReadsBack.mwatch a0 a1 h
  | .fenceAcq a0, h => ReadsBack.fenceAcq a0 h
  | .fenceRel a0, h => ReadsBack.fenceRel a0 h
  | .fenceFull a0, h => ReadsBack.fenceFull a0 h
  | .mwait, h => ReadsBack.mwait h
  | .bnew a0 a1, h => ReadsBack.bnew a0 a1 h
  | .bjoin a0 a1, h => ReadsBack.bjoin a0 a1 h
  | .bleave, h => ReadsBack.bleave h
  | .binfo a0 a1, h => ReadsBack.binfo a0 a1 h
  | .barInit a0 a1, h => ReadsBack.barInit a0 a1 h
  | .barSync a0 a1 a2, h => ReadsBack.barSync a0 a1 a2 h
  | .barArrive a0 a1 a2, h => ReadsBack.barArrive a0 a1 a2 h
  | .barExpect a0 a1, h => ReadsBack.barExpect a0 a1 h
  | .barQuery a0 a1 a2, h => ReadsBack.barQuery a0 a1 a2 h
  | .ballot a0 a1 a2, h => ReadsBack.ballot a0 a1 a2 h
  | .any a0 a1, h => ReadsBack.any a0 a1 h
  | .all a0 a1, h => ReadsBack.all a0 a1 h
  | .bcast a0 a1 a2, h => ReadsBack.bcast a0 a1 a2 h
  | .radd a0 a1 a2 a3, h => ReadsBack.radd a0 a1 a2 a3 h
  | .rmin a0 a1 a2 a3, h => ReadsBack.rmin a0 a1 a2 a3 h
  | .rmax a0 a1 a2 a3, h => ReadsBack.rmax a0 a1 a2 a3 h
  | .scanadd a0 a1 a2 a3, h => ReadsBack.scanadd a0 a1 a2 a3 h
  | .rwrScalar a0 a1 a2, h => ReadsBack.rwrScalar a0 a1 a2 h
  | .rwrVector a0 a1 a2, h => ReadsBack.rwrVector a0 a1 a2 h
  | .rwait a0, h => ReadsBack.rwait a0 h
  | .qsend a0 a1 a2, h => ReadsBack.qsend a0 a1 a2 h
  | .qrecv a0 a1, h => ReadsBack.qrecv a0 a1 h
  | .flagSet a0, h => ReadsBack.flagSet a0 h
  | .flagClr a0, h => ReadsBack.flagClr a0 h
  | .flagWait a0, h => ReadsBack.flagWait a0 h
  | .flagTest a0 a1, h => ReadsBack.flagTest a0 a1 h
  | .wbases a0, h => ReadsBack.wbases a0 h
  | .wbasev a0, h => ReadsBack.wbasev a0 h
  | .xacqs a0, h => ReadsBack.xacqs a0 h
  | .xacqv a0, h => ReadsBack.xacqv a0 h
  | .xrels a0, h => ReadsBack.xrels a0 h
  | .xrelv a0, h => ReadsBack.xrelv a0 h
  | .tresv a0 a1, h => ReadsBack.tresv a0 a1 h
  | .trel a0, h => ReadsBack.trel a0 h
  | .tstat a0 a1, h => ReadsBack.tstat a0 a1 h
  | .twait a0 a1, h => ReadsBack.twait a0 a1 h
  | .engqMx a0, h => ReadsBack.engqMx a0 h
  | .engqCe a0, h => ReadsBack.engqCe a0 h
  | .engqSsb a0, h => ReadsBack.engqSsb a0 h
  | .engqQe a0, h => ReadsBack.engqQe a0 h
  | .fork a0 a1 a2, h => ReadsBack.fork a0 a1 a2 h
  | .rdv a0 a1, h => ReadsBack.rdv a0 a1 h
  | .specEpoch a0 a1, h => ReadsBack.specEpoch a0 a1 h
  | .specCommit a0 a1, h => ReadsBack.specCommit a0 a1 h
  | .specCancel a0 a1, h => ReadsBack.specCancel a0 a1 h
  | .flcall a0 a1 a2, h => ReadsBack.flcall a0 a1 a2 h
  | .flwait a0, h => ReadsBack.flwait a0 h
  | .take a0 a1 a2, h => ReadsBack.take a0 a1 a2 h
  | .skip a0 a1, h => ReadsBack.skip a0 a1 h
  | .tspawn a0 a1, h => ReadsBack.tspawn a0 a1 h
  | .tsignal a0, h => ReadsBack.tsignal a0 h
  | .tqrd a0 a1 a2, h => ReadsBack.tqrd a0 a1 a2 h
  | .csrr a0 a1, h => ReadsBack.csrr a0 a1 h
  | .csrw a0 a1, h => ReadsBack.csrw a0 a1 h
  | .trap a0, h => ReadsBack.trap a0 h
  | .eret, h => ReadsBack.eret h
  | .cclr a0, h => ReadsBack.cclr a0 h
  | .bkpt a0, h => ReadsBack.bkpt a0 h
  | .tmark a0 a1, h => ReadsBack.tmark a0 a1 h
  | .isync, h => ReadsBack.isync h
  | .l1inv a0 a1, h => ReadsBack.l1inv a0 a1 h
  | .tlbinv a0 a1 a2, h => ReadsBack.tlbinv a0 a1 a2 h
  | .shoot a0 a1 a2, h => ReadsBack.shoot a0 a1 a2 h
  | .rdcinv a0 a1, h => ReadsBack.rdcinv a0 a1 h
  | .powerLoss, h => ReadsBack.powerLoss h
  | .companionLinkUp, h => ReadsBack.companionLinkUp h
  | .companionAtomicop a0 a1 a2 a3 a4, h => ReadsBack.companionAtomicop a0 a1 a2 a3 a4 h

theorem decodeMain_prefix {mk : Option Msk} {x : Option (BitVec 25)} {w : Word} (h : fOp w = 0x7E#7 ∨ fOp w = 0x7F#7) :
    decodeMain mk x w = none := by
  rcases h with h | h <;> (unfold decodeMain; rw [h]; rfl)

/-- An instruction's word is no prefix. -/
theorem word_noPrefix {i : Instr} (h : i.encoded = true) : fOp i.word ≠ 0x7E#7 ∧ fOp i.word ≠ 0x7F#7 := by
  have k := readsBack i h
  constructor <;> intro e
  · rw [decodeMain_prefix (Or.inl e)] at k; cases k
  · rw [decodeMain_prefix (Or.inr e)] at k; cases k

/-- The IMM prefix of an instruction within its limits holds what its word admits (R355). -/
theorem immBits_of_ok {i : Instr} {y : BitVec 25} (h : i.encoded = true) (ho : i.immOk = true) (hy : i.immOf = some y) :
    immBitsOk (fOp i.word) (fFn i.word) y = true := by
  have k := readsBack i h
  unfold immBitsOk
  by_cases a : fOp i.word = 0x03#7
  · by_cases b : fFn i.word = 0#4
    · rw [decodeMain_03 a, b, hy] at k
      have e : i = .li (some y) (fD i.word) (fImm i.word) := by
        by_cases m : i.mskOf.isNone <;> simp [m, decode03] at k
        exact k.symm
      rw [e] at ho
      change liImmOk (some y) = true at ho
      simpa [a, b, liImmOk] using ho
    · simp [a, b]
  · by_cases b : fOp i.word = 0x42#7
    · rw [decodeMain_42 b, hy] at k
      simp [decode42] at k
      rw [← k] at ho
      change gatherImmOk (some y) = true at ho
      simpa [a, b, gatherImmOk] using ho
    · by_cases c : fOp i.word = 0x45#7
      · rw [decodeMain_45 c, hy] at k
        simp [decode45] at k
        rw [← k.2] at ho
        change gatherImmOk (some y) = true at ho
        simpa [a, b, c, gatherImmOk] using ho
      · simp [a, b, c]

theorem decodeLast_word {i : Instr} (h : i.wf = true) : decodeLast i.mskOf i.immOf i.word = .instr i := by
  simp only [Instr.wf, Bool.and_eq_true] at h
  unfold decodeLast
  rw [readsBack i h.1.1]
  simp [h.1.2]

/-- The words of a well-formed instruction, with whatever follows, are read as that instruction (R164, R355). -/
theorem decodeWords_encode {i : Instr} (h : i.wf = true) (ws : List Word) : decodeWords (encode i ++ ws) = .instr i := by
  have k := h
  simp only [Instr.wf, Bool.and_eq_true] at k
  obtain ⟨⟨e, -⟩, o⟩ := k
  have n := word_noPrefix e
  have l := decodeLast_word h
  unfold encode
  rw [if_pos e]
  cases hm : i.mskOf with
  | none =>
    cases hx : i.immOf with
    | none => rw [hm, hx] at l; simpa [decodeWords, n.1, n.2] using l
    | some y =>
      rw [hm, hx] at l
      simpa [decodeWords, decodeAfterImm, immBits_of_ok e o hx] using l
  | some m =>
    cases hx : i.immOf with
    | none => rw [hm, hx] at l; simpa [decodeWords, decodeAfterMsk, n.2] using l
    | some y =>
      rw [hm, hx] at l
      simpa [decodeWords, decodeAfterMsk, decodeAfterImm, immBits_of_ok e o hx] using l

theorem encode_length {i : Instr} (h : i.encoded = true) : (encode i).length = i.len := by
  unfold encode Instr.len
  rw [if_pos h]
  cases i.mskOf <;> cases i.immOf <;> rfl

theorem len_le (i : Instr) : i.len ≤ 3 := by unfold Instr.len; split <;> split <;> omega

/-- No part of an instruction's words is an instruction by itself. -/
theorem decodeWords_part {i : Instr} (h : i.encoded = true) {n : Nat} (hn : n < i.len) : decodeWords ((encode i).take n) = .truncated := by
  have e : encode i = (i.mskOf.map mskWord).toList ++ (i.immOf.map immWord).toList ++ [i.word] := by unfold encode; rw [if_pos h]
  rw [e]
  unfold Instr.len at hn
  cases hm : i.mskOf <;> cases hx : i.immOf <;> simp [hm, hx] at hn
  · subst hn; rfl
  · obtain rfl | rfl : n = 0 ∨ n = 1 := by omega
    · rfl
    · simp [decodeWords, decodeAfterImm]
  · obtain rfl | rfl : n = 0 ∨ n = 1 := by omega
    · rfl
    · simp [decodeWords, decodeAfterMsk]
  · obtain rfl | rfl | rfl : n = 0 ∨ n = 1 ∨ n = 2 := by omega
    · rfl
    · simp [decodeWords, decodeAfterMsk]
    · simp [decodeWords, decodeAfterMsk, decodeAfterImm]

theorem wordOfBytes_bytes (w : Word) : wordOfBytes (w.extractLsb' 0 8) (w.extractLsb' 8 8) (w.extractLsb' 16 8) (w.extractLsb' 24 8) = w := by
  unfold wordOfBytes
  apply BitVec.eq_of_getLsbD_eq
  intro k hk
  simp
  grind

theorem wordsOfBytes_words (ws : List Word) (bs : List Byte) : wordsOfBytes (ws.flatMap bytesOfWord ++ bs) = ws ++ wordsOfBytes bs := by
  induction ws with
  | nil => rfl
  | cons w ws ih =>
    show wordOfBytes _ _ _ _ :: wordsOfBytes (ws.flatMap bytesOfWord ++ bs) = _
    rw [wordOfBytes_bytes, ih]; rfl

end Sys2Proof.Laws
end

