-- ==== Sys2Proof/Laws/Codes.lean ====
section
/-! SUPPORT. The table of a major's words (08 R158 to R164). -/
namespace Sys2Proof.Laws
open Machine

/-- The prefixes of a word that is itself no prefix are read, and the word is judged under them (R164). -/
theorem decodeWords_prefixes {mk : Option Msk} {x : Option (BitVec 25)} {w : Word} (hm : fOp w ≠ 0x7E#7) (hi : fOp w ≠ 0x7F#7)
    (hx : ∀ y, x = some y → immBitsOk (fOp w) (fFn w) y = true) :
    decodeWords ((mk.map mskWord).toList ++ (x.map immWord).toList ++ [w]) = decodeLast mk x w := by
  cases mk <;> cases x <;> simp_all [decodeWords, decodeAfterMsk, decodeAfterImm]

/-- The sixteen codes of a word. -/
theorem code_cases (fn : BitVec 4) : fn = 0 ∨ fn = 1 ∨ fn = 2 ∨ fn = 3 ∨ fn = 4 ∨ fn = 5 ∨ fn = 6 ∨ fn = 7 ∨ fn = 8 ∨ fn = 9 ∨ fn = 10 ∨
    fn = 11 ∨ fn = 12 ∨ fn = 13 ∨ fn = 14 ∨ fn = 15 := by
  revert fn; decide

/-- A table is that of a major's words when each of its instructions is well formed, carries the prefixes and is encoded as the word of its code,
and the word of a code that it does not name has no instruction. -/
theorem codes_of_table {mk : Option Msk} {x : Option (BitVec 25)} {word : BitVec 4 → Word} {table : List (Nat × Instr)}
    (hm : ∀ fn, fOp (word fn) ≠ 0x7E#7) (hi : ∀ fn, fOp (word fn) ≠ 0x7F#7)
    (hx : ∀ fn, ∀ y, x = some y → immBitsOk (fOp (word fn)) (fFn (word fn)) y = true)
    (ht : ∀ p ∈ table, p.2.wf = true ∧ p.2.mskOf = mk ∧ p.2.immOf = x ∧ p.2.word = word (BitVec.ofNat 4 p.1))
    (hn : ∀ fn, (∀ p ∈ table, p.1 ≠ fn.toNat) → decodeMain mk x (word fn) = none) : Codes mk x word table := by
  rintro fn _ rfl
  constructor
  · intro i h
    obtain ⟨w, m, y, k⟩ := ht _ h
    have e : i.encoded = true := by simp only [Instr.wf, Bool.and_eq_true] at w; exact w.1.1
    have d := decodeWords_encode w []
    simpa [encode, e, m, y, k] using d
  · intro h
    refine ⟨word fn, ?_⟩
    rw [decodeWords_prefixes (hm fn) (hi fn) (hx fn)]
    unfold decodeLast
    rw [hn fn fun p hp he => h p.2 (he ▸ hp)]

end Sys2Proof.Laws
end

