-- ==== Sys2Proof/Laws/Engines.lean ====
section
/-! SUPPORT. One step of an engine, by the stage of its command. -/
namespace Sys2Proof.Machine

theorem State.startHead_running (s : State) (d c u : Nat) (r : EngRun) (h : (s.engine d c u).run = some r) : s.startHead d c u = s := by
  unfold State.startHead
  dsimp only
  rw [h]

/-- What an engine answers, when its command is at a stage up to the iterations. -/
theorem State.engineStep_record (s : State) (d c u : Nat) (r : EngRun) (iter : State → EngCtx → EngRes EngRun) (h : s.Runs d c u r 0)
    (hu : engCore c u = c) (t : State) (m : BitVec 512) (hb : r.entry.ring = some m ∧ t = s ∨ ∃ bs, r.entry.ring = none ∧ r.entry.record % 64 = 0 ∧
      s.engReadGood { d := d, c := c, u := u, r := r } r.entry.record 64 = .ok t bs ∧ m = BitVec.ofNat 512 (bytesNat bs)) :
    s.engineStep d c u iter = (s.charged t r).mapRun d c u fun old => { r with words := m, stage := 1, tiles := old.tiles } := by
  unfold State.engineStep
  dsimp only
  rw [s.startHead_running d c u r h.run, h.run]
  dsimp only
  rw [if_neg (by rw [h.free, h.goes]; simp), h.stage]
  obtain ⟨hr, rfl⟩ | ⟨bs, hr, ha, hb, rfl⟩ := hb
  · rw [hr]
    rfl
  · rw [hr]
    dsimp only
    rw [if_neg (by simpa using ha), hu, hb]
    rfl

theorem State.engine_setEngine (s : State) (d c u : Nat) (hu : u < 4) (e : Engine) : (s.setEngine d c u e).engine d c u = e := by
  have hc : u = 0 ∨ u = 1 ∨ u = 2 ∨ u = 3 := by omega
  unfold State.setEngine State.engine
  obtain rfl | rfl | rfl | rfl := hc
  · rw [if_neg (by decide), if_neg (by decide), State.core_setCore]; rfl
  · rw [if_neg (by decide), if_neg (by decide), State.core_setCore]; rfl
  · rw [if_neg (by decide), if_neg (by decide), State.core_setCore]; rfl
  · rw [if_pos rfl, if_pos rfl]
    exact alGet_alSet_same ..

theorem State.entryStopped_setEngine (s : State) (d c u : Nat) (e : Engine) (q : EngEntry) : (s.setEngine d c u e).entryStopped q = s.entryStopped q := by
  unfold State.setEngine
  split <;> rfl

theorem State.engineStep_link (s : State) (d c u : Nat) (r : EngRun) (iter : State → EngCtx → EngRes EngRun) (h : s.Runs d c u r 2)
    (hu : engCore c u = c) : s.engineStep d c u iter = if s.linkReady r = true then State.mapRun (if r.acq = true then
      s.charged (s.acquire d c r.scope r.entry.bundle { die := d, core := c, slot := 0 }) r else s) d c u fun r => { r with stage := 3 } else s := by
  unfold State.engineStep
  dsimp only
  rw [s.startHead_running d c u r h.run, h.run]
  dsimp only
  rw [if_neg (by rw [h.free, h.goes]; simp), h.stage, hu]
  rfl

theorem State.engineStep_iter (s : State) (d c u : Nat) (r : EngRun) (iter : State → EngCtx → EngRes EngRun) (h : s.Runs d c u r 3)
    (hu : engCore c u = c) (t : State) (r' : EngRun) (hi : iter s { d := d, c := c, u := u, r := r } = .ok t r') :
    s.engineStep d c u iter = if u = 2 ∧ r'.sub ≠ 0 then (s.charged t r).mapRun d c u fun old => { r' with tiles := old.tiles }
      else s.iterated t d c u r r' := by
  unfold State.engineStep
  dsimp only
  rw [s.startHead_running d c u r h.run, h.run]
  dsimp only
  rw [if_neg (by rw [h.free, h.goes]; simp), h.stage, hu]
  have hn := h.counted h.stage
  have hset : s.settleRun d c u r = (s, true) := by unfold State.settleRun; rw [hn]; rfl
  have hr : ({ r with stage := 3, count := none } : EngRun) = r := by
    have e : ∀ x : EngRun, x.stage = 3 → x.count = none → ({ x with stage := 3, count := none } : EngRun) = x := by
      rintro ⟨⟩ h1 h2; dsimp only at h1 h2; rw [h1, h2]
    exact e r h.stage hn
  rw [hset, hr]
  simp only [hi, EngRes.bind, Bool.not_true, Bool.false_eq_true, if_false]
  by_cases hc : u = 2 ∧ r'.sub ≠ 0
  · rw [if_pos hc, if_pos (by simpa using hc)]
    rfl
  · rw [if_neg hc, if_neg (by simpa using hc)]
    unfold State.iterated
    cases nextVec r'.vec (r'.bounds u) <;> rfl

theorem engCore_self (c u : Nat) (h : u = 3 → c % 4 = 0) : engCore c u = c := by
  unfold engCore
  split
  · have := h ‹_›
    omega
  · rfl

theorem State.mxOther_running (s : State) (d c : Nat) (r : EngRun) (op : Nat) (h : (s.engine d c 0).run = some r) (ho : r.stage < 2 ∨ r.opc = op) : s.mxOther d c op = false := by
  have h' : (s.core d c).mx.run = some r := h
  unfold State.mxOther
  rw [h']
  dsimp only
  obtain h1 | h1 := ho
  · rw [decide_eq_false (by omega)]; rfl
  · simp [h1]

/-- The event of an engine is a step of it. -/
theorem engineEvent_step (s t : State) (d c u op : Nat) (hu : u < 4) (h4 : u = 3 → c % 4 = 0) (hm : u = 0 → s.mxOther d c (if op = 0 then 0 else 1) = false)
    (ht : u = 0 → t.mxOther d c (if op = 0 then 0 else 1) = false) :
    ∃ iter, exec (engineEvent d c u op) s = .next (s.engineStep d c u iter) ∧ exec (engineEvent d c u op) t = .next (t.engineStep d c u iter) := by
  have hc : u = 0 ∨ u = 1 ∨ u = 2 ∨ u = 3 := by omega
  obtain rfl | rfl | rfl | rfl := hc
  · refine ⟨State.mxIter, ?_⟩
    have hm := hm rfl
    have ht := ht rfl
    unfold engineEvent
    by_cases ho : op = 0
    · rw [if_pos ho] at hm ht ⊢
      exact ⟨congrArg Host.Outcome.next (if_neg (by rw [hm]; simp)), congrArg Host.Outcome.next (if_neg (by rw [ht]; simp))⟩
    · rw [if_neg ho] at hm ht ⊢
      exact ⟨congrArg Host.Outcome.next (if_neg (by rw [hm]; simp)), congrArg Host.Outcome.next (if_neg (by rw [ht]; simp))⟩
  · exact ⟨State.ceIter, rfl, rfl⟩
  · exact ⟨State.ssbIter, rfl, rfl⟩
  · refine ⟨State.qeIter, ?_⟩
    have := h4 rfl
    refine ⟨?_, ?_⟩
    · show Host.Outcome.next (s.engineStep d (4 * (c / 4)) 3 State.qeIter) = _
      rw [show 4 * (c / 4) = c by omega]
    · show Host.Outcome.next (t.engineStep d (4 * (c / 4)) 3 State.qeIter) = _
      rw [show 4 * (c / 4) = c by omega]

end Sys2Proof.Machine
end

