-- ==== Sys2Proof/Laws/Float.lean ====
section
/-! SUPPORT. The forms of the floating-point family: what each shared operation of Float.lean leaves. -/
namespace Sys2Proof.Machine

theorem Strand.active_eq (st : Strand) (mk : Option Msk) (w j : Nat) (h : w * j / 32 < 8) : st.active mk w j = st.runs mk (w * j / 32) :=
  st.runs_mask mk _ h

theorem Strand.flagsOf_eq (st : Strand) (mk : Option Msk) (w : Nat) (g : Nat → Res) (n : Nat) (h : ∀ j < n, w * j / 32 < 8) :
    st.flagsOf mk w g n = st.raised mk w g n := by
  induction n with
  | zero => rfl
  | succ n ih =>
    unfold Strand.raised at ih ⊢
    rw [List.range_succ, List.foldl_append, ← ih fun j hj => h j (by omega), Strand.flagsOf, st.active_eq mk w n (h n (by omega))]
    simp only [List.foldl_cons, List.foldl_nil]
    split <;> simp

theorem Strand.mode_eq (st : Strand) : st.mode = st.roundingMode := by
  unfold Strand.mode RMode.ofCode Strand.roundingMode
  have := st.rm.isLt
  have h : st.rm = 0 ∨ st.rm = 1 ∨ st.rm = 2 ∨ st.rm = 3 := by
    rcases (show st.rm.toNat = 0 ∨ st.rm.toNat = 1 ∨ st.rm.toNat = 2 ∨ st.rm.toNat = 3 by omega) with h | h | h | h
    · exact .inl (BitVec.eq_of_toNat_eq h)
    · exact .inr (.inl (BitVec.eq_of_toNat_eq h))
    · exact .inr (.inr (.inl (BitVec.eq_of_toNat_eq h)))
    · exact .inr (.inr (.inr (BitVec.eq_of_toNat_eq h)))
  rcases h with h | h | h | h <;> rw [h] <;> rfl

theorem packNat_congr {w n : Nat} {f g : Nat → BitVec w} (h : ∀ j < n, f j = g j) : packNat w n f = packNat w n g := by
  induction n generalizing f g with
  | zero => rfl
  | succ n ih => simp only [packNat]; rw [h 0 (by omega), ih fun j hj => h (j + 1) (by omega)]

theorem packNat_zero (w n : Nat) : packNat w n (fun _ => 0) = 0 := by
  induction n with
  | zero => rfl
  | succ n ih =>
    show (0 : BitVec w).toNat + 2 ^ w * packNat w n (fun _ => 0) = 0
    rw [ih]; simp

theorem packNat_append (w n m : Nat) (f : Nat → BitVec w) :
    packNat w (n + m) f = packNat w n f + 2 ^ (w * n) * packNat w m fun j => f (n + j) := by
  induction n generalizing f with
  | zero => simp [packNat]
  | succ n ih =>
    rw [show n + 1 + m = n + m + 1 by omega]
    simp only [packNat]
    rw [ih]
    have : (fun j => f (n + j + 1)) = fun j => f (n + 1 + j) := by funext j; congr 1; omega
    rw [this, show w * (n + 1) = w + w * n by rw [Nat.mul_add, Nat.mul_one, Nat.add_comm], Nat.pow_add]
    grind

/-- Packed results are zero above their number. -/
theorem ofElems_widen (w n m : Nat) (h : n ≤ m) (f : Nat → BitVec w) :
    ofElems w n f = ofElems w m fun j => if j < n then f j else 0 := by
  obtain ⟨k, rfl⟩ := Nat.exists_eq_add_of_le h
  unfold ofElems
  rw [packNat_append]
  have h1 : packNat w n (fun j => if j < n then f j else 0) = packNat w n f := packNat_congr fun j hj => by simp [hj]
  have h2 : packNat w k (fun j => if n + j < n then f (n + j) else 0) = 0 := by
    rw [packNat_congr (g := fun _ => 0) fun j _ => if_neg (by omega), packNat_zero]
  rw [h1, h2]; simp

theorem elem_ofResults (w n : Nat) (hn : n ≤ 256 / w) (g : Nat → Res) (j : Nat) (hj : j < 256 / w) :
    elem w (ofResults w n g) j = if j < n then BitVec.ofNat w (g j).1 else 0 := by
  unfold ofResults
  rw [ofElems_widen w n (256 / w) hn, elem_ofElems _ _ _ _ hj (Nat.mul_div_le 256 w)]

theorem floatOp_of {w n k : Nat} (hk : w * k = 32) (hn : n ≤ 256 / w) {i : Instr} {mk : Option Msk} {d : BitVec 7} {g : Strand → Nat → Res}
    (h : ∀ s, exec i s = fvec w n mk d g s) : FloatOp w n i mk d g := by
  have hw : 0 < w := by rcases Nat.eq_zero_or_pos w with h | h <;> simp_all
  have hf : ∀ st : Strand, st.flagsOf mk w (g st) n = st.raised mk w (g st) n := fun st => st.flagsOf_eq mk w _ n fun j hj => by
    have h1 : w * j ≤ w * (256 / w - 1) := Nat.mul_le_mul_left _ (by omega)
    have h2 : w * (256 / w) ≤ 256 := Nat.mul_div_le 256 w
    have h3 : 0 < 256 / w := by omega
    have : w * (256 / w - 1) + w = w * (256 / w) := by rw [← Nat.mul_succ]; congr 1; omega
    omega
  unfold FloatOp
  rw [← len1_words]
  refine writesElems_of hk (g := fun st => ofResults w n (g st)) (fun s => ?_) fun st j hj => elem_ofResults w n hn _ j hj
  rw [h]; unfold fvec; simp only [hf]

theorem width_dvd (f : FFmt) : f.width * (32 / f.width) = 32 := by cases f <;> rfl

theorem floatOp1_of {f : FFmt} {i : Instr} {mk : Option Msk} {d a : BitVec 7} {g : Nat → Res}
    (h : ∀ s, exec i s = funary f g mk d a s) : FloatOp1 f i mk d a g := floatOp_of (width_dvd f) (Nat.le_refl _) h

theorem floatOp2_of {f : FFmt} {i : Instr} {mk : Option Msk} {d a b : BitVec 7} {g : RMode → Nat → Nat → Res}
    (h : ∀ s, exec i s = fbinary f g mk d a b s) : FloatOp2 f i mk d a b g :=
  floatOp_of (width_dvd f) (Nat.le_refl _) fun s => by rw [h]; unfold fbinary; simp only [Strand.mode_eq]; rfl

theorem floatOp3_of {f : FFmt} {i : Instr} {mk : Option Msk} {d a b : BitVec 7} {g : RMode → Nat → Nat → Nat → Res}
    (h : ∀ s, exec i s = fternary f g mk d a b s) : FloatOp3 f i mk d a b g :=
  floatOp_of (width_dvd f) (Nat.le_refl _) fun s => by rw [h]; unfold fternary; simp only [Strand.mode_eq]; rfl

theorem floatCompare_of {f : FFmt} {c : FCond} {i : Instr} {mk : Option Msk} {d : BitVec 3} {a b : BitVec 7}
    (h : ∀ s, exec i s = fcmp f c mk d a b s) : FloatCompare f c i mk d a b := by
  have hf : ∀ (st : Strand) g, st.flagsOf mk f.width g (8 * (32 / f.width)) = st.raised mk f.width g (256 / f.width) := fun st g => by
    rw [st.flagsOf_eq mk f.width g _ fun j hj => by cases f <;> simp [FFmt.width, FFmt.eBits, FFmt.fBits] at * <;> omega]
    cases f <;> rfl
  unfold FloatCompare
  rw [← len1_words]
  refine writesBits_of (fun s => ?_) fun st k hk => getLsbD_predOf _ k hk
  rw [h]; unfold fcmp; simp only [hf]; rfl

theorem floatLater_of {i : Instr} {mk : Option Msk} {l : BitVec 4} {d : BitVec 7} {g : Strand → Nat → Res}
    (h : ∀ s, exec i s = flong mk l d g s) : FloatLater i mk l d g := by
  have hf : ∀ st : Strand, st.flagsOf mk 32 (g st) 8 = st.raised mk 32 (g st) 8 := fun st => st.flagsOf_eq mk 32 _ 8 fun j hj => by omega
  refine ⟨fun st => mergeLanes (st.mask mk) (st.v d) (ofResults 32 8 (g st)), ?_, fun st j hj => ?_⟩
  · rw [← len1_words]
    refine writesLater_of (fun st => ⟨rfl, rfl⟩) fun s => ?_
    rw [h]; unfold flong; simp only [hf, pendV_entryV]
  · rw [lane_mergeLanes _ _ _ _ hj, st.runs_mask _ _ hj]
    split
    · show elem 32 (ofResults 32 8 (g st)) j = _
      rw [elem_ofResults 32 8 (by omega) _ j (by omega), if_pos hj]
    · rfl

theorem foldl_sum (f : Nat → Int) (l : List Nat) (x : Int) : l.foldl (fun t j => t + f j) x = x + (l.map f).sum := by
  induction l generalizing x with
  | nil => simp
  | cons a l ih => simp only [List.foldl_cons, ih, List.map_cons, List.sum_cons]; omega

theorem vredF_eq (f : List Nat → Res) (mk : Option Msk) (d a : BitVec 7) (s : State) :
   vredF f mk d a s = fvec 32 1 mk d (fun st _ => f ((List.range 8).map (elemN 32 (st.v a)))) s := by
  unfold vredF fvec
  have h : ∀ x : Res, ofResults 32 8 (fun i => if i = 0 then x else (0, 0)) = ofResults 32 1 fun _ => x := by
    intro x; unfold ofResults; rw [ofElems_widen 32 1 8 (by omega)]; congr 1; funext j
    by_cases h : j = 0 <;> simp [h]
  have h2 : ∀ (st : Strand) (x : Res), st.flagsOf mk 32 (fun i => if i = 0 then x else (0, 0)) 8 = st.flagsOf mk 32 (fun _ => x) 1 := by
    intro st x; simp [Strand.flagsOf]
  simp only [h, h2]

theorem ofResults_congr {w n : Nat} {f g : Nat → Res} (h : ∀ j < n, f j = g j) : ofResults w n f = ofResults w n g := by
  unfold ofResults ofElems; rw [packNat_congr]; intro j hj; rw [h j hj]

theorem flagsOf_congr {st : Strand} {mk : Option Msk} {w n : Nat} {f g : Nat → Res} (h : ∀ j < n, f j = g j) : st.flagsOf mk w f n = st.flagsOf mk w g n := by
  induction n with
  | zero => rfl
  | succ n ih => simp only [Strand.flagsOf]; rw [ih fun j hj => h j (by omega), h n (by omega)]

theorem fcvt_eq (mk : Option Msk) (t c : BitVec 4) (d a : BitVec 7) (r : BitVec 3) (hr : r ≠ 4) (s : State) :
    execFcvt mk t d a c r s = fvec (cvtWidth t) (256 / max (cvtWidth c) (cvtWidth t)) mk d (fun st j =>
      cvtElem t (if r.toNat < 4 then RMode.ofCode r.toNat else if r = 6 then .rne else st.mode) (6 ≤ r.toNat)
        (cvtSource c (elemN (cvtWidth c) (st.v a) j))) s := by
  unfold execFcvt fvec State.simple
  congr 1; funext st
  have hf : ∀ (x : Nat → Res), ∀ j < 256 / max (cvtWidth c) (cvtWidth t), ((List.range (256 / max (cvtWidth c) (cvtWidth t))).map x).getD j (0, 0) = x j := by
    intro x j hj; simp [List.getD_eq_getElem?_getD, List.getElem?_range hj]
  simp only [hr, if_false, decide_false, Bool.false_and]
  rw [ofResults_congr (hf _), flagsOf_congr (hf _)]
  simp

end Sys2Proof.Machine
end

