-- ==== Sys2Proof/Laws/Flumes.lean ====
section
/-! SUPPORT. What a flume unit answers for a call, and work on lanes, samples and pixels one after another. -/
namespace Sys2Proof.Machine

theorem State.call?_id (s : State) (id : Nat) (c : Call) (h : s.call? id = some c) : c.id = id := by
  unfold State.call? at h
  simpa using List.find?_some h

theorem State.begun_counts (s : State) (c : Call) : (s.begun c).nextId = s.nextId ∧ (s.begun c).evBuf = s.evBuf := by
  unfold State.begun State.startCall
  split
  · split <;> exact ⟨rfl, rfl⟩
  · exact ⟨rfl, rfl⟩

theorem State.runCall_serves (s : State) (typ id : Nat) (work : State → Call → FlRes (List Byte)) (c : Call) (h : s.Serves typ id c) :
    s.runCall typ id work = (match work (s.begun c) c.begun with
      | .wait t => s.worked t c
      | .fail t st => s.failed t c st
      | .ok t p => s.returned t c p) := by
  obtain rfl := s.call?_id id c h.call
  unfold State.runCall
  rw [h.call]
  dsimp only
  have h1 : (s.gx.appends.any fun a => decide (a.call = some c.id)) = false := by
    rw [List.any_eq_false]
    intro a ha
    simpa using h.appended a ha
  rw [h1, if_neg (by simp [h.typ]), if_neg (by obtain h2 | ⟨h2, h3⟩ := h.turn <;> simp [*])]
  obtain ⟨h4, h5⟩ := s.begun_counts c
  change (match work (s.begun c) c.begun with | .wait t => _ | .fail t st => _ | .ok t p => _) = _
  rw [show (if c.stage = 1 then s.startCall c else s).nextId = s.nextId from h4,
    show (if c.stage = 1 then s.startCall c else s).evBuf = s.evBuf from h5]
  generalize hw : work _ _ = x
  cases x with
  | wait t => rfl
  | fail t st => rfl
  | ok t p =>
    unfold State.returned
    dsimp only
    by_cases hb : ∃ a ∈ (s.worked t c).gx.appends, a.call = some c.id
    · rw [if_pos hb]
      refine if_pos ?_
      rw [List.any_eq_true]
      obtain ⟨a, h2, h3⟩ := hb
      exact ⟨a, h2, decide_eq_true h3⟩
    · rw [if_neg hb]
      refine if_neg ?_
      rw [List.any_eq_true]
      rintro ⟨a, h2, h3⟩
      exact hb ⟨a, h2, of_decide_eq_true h3⟩

theorem State.texLanes_each (one : State → Nat → FlRes (List Nat)) (n : Nat) : ∀ (s t : State) (i : Nat) (acc : List Byte) (ls : List (List Nat)),
    Each (fun i v w l => one v i = .ok w l) (List.range' i n) s t ls → s.texLanes one i acc n = .ok t (acc ++ ls.flatMap fun l => l.flatMap (natBytesLE 4)) := by
  induction n with
  | zero =>
    intro s t i acc ls h
    cases h
    unfold State.texLanes
    simp
  | succ n ih =>
    intro s t i acc ls h
    rw [List.range'_succ] at h
    cases h with
    | cons h1 h2 =>
      unfold State.texLanes
      rw [h1]
      unfold FlRes.bind
      dsimp only
      rw [ih _ _ _ _ _ h2]
      simp

theorem State.lanesFrom_each (c : Call) (one : State → Nat → FlRes Bool) (mask n : Nat) : ∀ (s t : State) (i acc : Nat) (ps : List Bool),
    Each (fun i v w p => one v i = .ok w p) ((List.range' i n).filter fun i => bitNat mask i) s t ps →
    s.lanesFrom c one mask i acc n = .ok t ((((List.range' i n).filter fun i => bitNat mask i).zip ps).foldl (fun a x => a + if x.2 then 2 ^ x.1 else 0) acc) := by
  induction n with
  | zero =>
    intro s t i acc ls h
    cases h
    unfold State.lanesFrom
    rfl
  | succ n ih =>
    intro s t i acc ls h
    rw [List.range'_succ, List.filter_cons] at h ⊢
    unfold State.lanesFrom
    by_cases hb : bitNat mask i = true
    · rw [if_pos hb] at h ⊢
      rw [if_neg (by simp [hb])]
      cases h with
      | cons h1 h2 =>
        rw [h1]
        dsimp only
        rw [ih _ _ _ _ _ h2]
        rfl
    · rw [if_neg hb] at h ⊢
      rw [if_pos (by simpa using hb)]
      exact ih _ _ _ _ _ h

theorem lanes_list (pos mask : Nat) : ((List.range 8).filter fun i => decide (pos ≤ i) && bitNat mask i) = (List.range' pos (8 - pos)).filter fun i => bitNat mask i := by
  by_cases h : pos ≤ 8
  · obtain ⟨k, hk⟩ := Nat.exists_eq_add_of_le h
    rw [hk, List.range_add, List.filter_append, Nat.add_sub_cancel_left, List.range'_eq_map_range]
    have h1 : ((List.range pos).filter fun i => decide (pos ≤ i) && bitNat mask i) = [] := by
      rw [List.filter_eq_nil_iff]
      intro x hx
      have := List.mem_range.1 hx
      simp only [Bool.and_eq_true, decide_eq_true_eq]
      omega
    rw [h1, List.nil_append]
    refine List.filter_congr ?_
    intro x hx
    obtain ⟨y, _, rfl⟩ := List.mem_map.1 hx
    rw [decide_eq_true (by omega)]
    rfl
  · rw [show 8 - pos = 0 by omega]
    show _ = []
    rw [List.filter_eq_nil_iff]
    intro x hx
    have := List.mem_range.1 hx
    simp only [Bool.and_eq_true, decide_eq_true_eq]
    omega

theorem Each.mono {α β : Type} {p q : α → State → State → β → Prop} (h : ∀ x s t y, p x s t y → q x s t y) {l : List α} {s t : State} {r : List β}
    (e : Each p l s t r) : Each q l s t r := by
  induction e with
  | nil s => exact .nil s
  | cons h1 _ ih => exact .cons (h _ _ _ _ h1) ih

theorem State.reprojFrom_each (c : Call) (n : Nat) : ∀ (s t : State) (q carried : Nat) (recs : List (Nat × List Byte)) (rs : List (Option (Nat × List Byte))),
    Each (fun q v w r => v.reprojPixel c q = .ok w r) (List.range' q n) s t rs →
    s.reprojFrom c q carried recs n = .ok t (carried + rs.countP (fun r => r.isNone), recs ++ rs.filterMap (fun r => r)) := by
  induction n with
  | zero =>
    intro s t q carried recs rs h
    cases h
    unfold State.reprojFrom
    simp
  | succ n ih =>
    intro s t q carried recs rs h
    rw [List.range'_succ] at h
    cases h with
    | @cons _ _ _ _ _ y r h1 h2 =>
      unfold State.reprojFrom
      rw [h1]
      cases y with
      | none =>
        dsimp only
        rw [ih _ _ _ _ _ _ h2]
        simp only [List.countP_cons, Option.isNone_none, if_true, List.filterMap_cons]
        rw [show carried + 1 + r.countP (fun r => r.isNone) = carried + (r.countP (fun r => r.isNone) + 1) by omega]
      | some y =>
        dsimp only
        rw [ih _ _ _ _ _ _ h2]
        simp

end Sys2Proof.Machine
end

