-- ==== Sys2Proof/Laws/Records.lean ====
section
/-! SUPPORT. Records that an instruction reads, granules handed out, and the store that initialises a rendezvous object. -/
namespace Sys2Proof.Machine

theorem At_room {s : State} {st : Strand} {a : AccClass} {va n pa : Nat} (h : s.At st a va n pa) (hn : n ∣ 32) : pa % 32 + n ≤ 32 := by
  obtain ⟨h1, -, l, -, -, h5, -⟩ := h
  unfold Leaf.pa at h5
  have e : pa % 32 = va % 32 := by omega
  obtain ⟨k, hk⟩ := hn
  have h2 : va % 32 % n = 0 := by rw [hk, Nat.mod_mul_right_mod]; exact h1
  obtain ⟨j, hj⟩ := Nat.dvd_of_mod_eq_zero h2
  have h3 : va % 32 < 32 := Nat.mod_lt _ (by decide)
  rw [e, hj]
  have : j < k := by
    refine Nat.lt_of_mul_lt_mul_left (a := n) ?_
    omega
  calc n * j + n = n * (j + 1) := by rw [Nat.mul_succ]
    _ ≤ n * k := Nat.mul_le_mul_left n this
    _ = 32 := hk.symm

theorem State.unitAtom_sees {s : State} {d c pa : Nat} {v : Vec} (h : s.lookAtom d (some c) (pa / 32) = some (v, 0)) (pl : L2Place) :
    ∃ t, s.unitAtom d (some c) pa pl = some (v, 0, t) ∧ s.Wrote t [] ∧
      (∀ a, a / 4 = pa / 32 / 4 → t.lookAtom d (some c) a = s.lookAtom d (some c) a) ∧
      (heldLines (s.core d c).l1 < l1Lines → heldLines (s.die d).rdc < rdcLines d → s.Keeps t d c 1 1) :=
  ⟨_, by unfold State.unitAtom; rw [h], .noteRead .., fun _ ha => State.look_noteRead h ha, State.keeps_noteRead h⟩

theorem State.recTarget_sees {s : State} {st : Strand} {va n pa g b p : Nat} {v : Vec}
    (h : s.lookAtom st.at_.die (some st.at_.core) (pa / 32) = some (v, 0)) (hr : homeOf pa ≠ .regs) (hn : pa % 32 + n ≤ 32) (h0 : 0 < n) :
    ∃ t, s.recTarget st va n (.phys pa g b p) = (some (natBytesLE n (getBytes v (pa % 32) n), none), t) ∧ s.Wrote t [] ∧
      (heldLines (s.core st.at_.die st.at_.core).l1 < l1Lines → heldLines (s.die st.at_.die).rdc < rdcLines st.at_.die →
        s.Keeps t st.at_.die st.at_.core 1 1) := by
  obtain ⟨t, e, w, -, l⟩ := State.unitAtom_sees h { group := g, base := b, partid := p, hint := 0 }
  refine ⟨t, ?_, w, l⟩
  have hb : s.recBytes st va pa { group := g, base := b, partid := p, hint := 0 } n [] none (n / 32 + 2) =
      some (natBytesLE n (getBytes v (pa % 32) n), none, t) := by
    rw [State.recBytes, if_neg (by omega), e]
    dsimp only
    rw [show min n (32 - pa % 32) = n by omega, Nat.sub_self, State.recBytes, if_pos rfl]
    rfl
  unfold State.recTarget
  cases hh : homeOf pa with
  | regs => exact absurd hh hr
  | dram k => simp only [hb]
  | host => simp only [hb]

theorem State.recPieces_sees (s₀ : State) (st : Strand) (val : Nat × Nat → Nat) (tgt : Nat × Nat → Target) (ls : List (Nat × Nat))
    (hl : ∀ l ∈ ls, ∃ pa g b p v, tgt l = .phys pa g b p ∧ homeOf pa ≠ .regs ∧ pa % 32 + l.2 ≤ 32 ∧ 0 < l.2 ∧
      s₀.lookAtom st.at_.die (some st.at_.core) (pa / 32) = some (v, 0) ∧ val l = getBytes v (pa % 32) l.2)
    (s : State) (acc : List Byte) (hw : s₀.Wrote s [])
    (hs : ∀ a, s.lookAtom st.at_.die (some st.at_.core) a = s₀.lookAtom st.at_.die (some st.at_.core) a) (hroom : s.RoomFor st ls.length) :
    ∃ t, s₀.Wrote t [] ∧ s.recPieces st acc (ls.map fun l => (l, tgt l)) = .ok t (acc ++ ls.flatMap fun l => natBytesLE l.2 (val l)) := by
  induction ls generalizing s acc with
  | nil => exact ⟨s.unclaim st.at_, hw.quiet (.unclaim s _), by simp [State.recPieces]⟩
  | cons l ls ih =>
    obtain ⟨pa, g, b, p, v, h1, h2, h3, h4, h5, h6⟩ := hl l (by simp)
    obtain ⟨t, e, w, lk⟩ := State.recTarget_sees (s := s) (va := l.1) (g := g) (b := b) (p := p) ((hs _).trans h5) h2 h3 h4
    rw [List.map_cons, State.recPieces, h1, e]
    dsimp only
    cases hls : ls with
    | nil => exact ⟨t.unclaim st.at_, (hw.quiet w).quiet (.unclaim t _), by simp [State.recPieces, h6]⟩
    | cons l2 ls2 =>
      rw [← hls]
      have hlen : 1 ≤ ls.length := by rw [hls]; simp
      obtain ⟨hr1, hr2⟩ := hroom.resolve_left (by rw [List.length_cons]; omega)
      rw [List.length_cons] at hr1 hr2
      have k := lk (by omega) (by omega)
      obtain ⟨t', w', e'⟩ := ih (fun l' hl' => hl l' (by simp [hl'])) t (acc ++ natBytesLE l.2 (val l)) (hw.quiet w)
        (fun a => (k.look a).trans (hs a)) (.inr ⟨by have := k.l1; omega, by have := k.rdc; omega⟩)
      refine ⟨t', w', ?_⟩
      rw [← h6, e']
      simp

theorem State.readRecord_sees {s : State} {st : Strand} {ls : List (Nat × Nat)} {val : Nat × Nat → Nat}
    (hl : ∀ l ∈ ls, s.Sees st l.1 l.2 (val l)) (hn : ∀ l ∈ ls, l.2 ∣ 32 ∧ 0 < l.2) (hroom : s.RoomFor st ls.length) :
    ∃ t, s.Wrote t [] ∧ s.readRecord st ls = .ok t (ls.flatMap fun l => natBytesLE l.2 (val l)) := by
  have hck : ∀ l ∈ ls, ∃ t, s.checkLane st .read l.1 l.2 = .ok t := by
    intro l hm
    obtain ⟨pa, v, h1, -⟩ := hl l hm
    obtain ⟨g, b, p, e⟩ := State.checkLane_at h1
    exact ⟨_, e⟩
  let tgt : Nat × Nat → Target := fun l => match s.checkLane st .read l.1 l.2 with | .ok t => t | _ => .opbuf 0
  have htgt : ∀ l ∈ ls, s.checkLane st .read l.1 l.2 = .ok (tgt l) := by
    intro l hm; obtain ⟨t, ht⟩ := hck l hm; simp only [tgt, ht]
  unfold State.readRecord
  rw [State.addrPhase_ready htgt]
  dsimp only
  have ez : ls.zip (ls.map tgt) = ls.map fun l => (l, tgt l) := by
    generalize ls = l; induction l with
    | nil => rfl
    | cons a l ih => rw [List.map_cons, List.zip_cons_cons, ih]; rfl
  rw [ez]
  have hal := State.alike_tlbUseAll s st ls
  obtain ⟨t, w, e⟩ := State.recPieces_sees (s.tlbUseAll st ls) st val tgt ls (fun l hm => by
      obtain ⟨pa, v, h1, h2, h3, h4⟩ := hl l hm
      obtain ⟨g, b, p, e⟩ := State.checkLane_at h1
      refine ⟨pa, g, b, p, v, ?_, h2, At_room h1 (hn l hm).1, (hn l hm).2, (hal.look _).trans h3, h4⟩
      simp only [tgt, e]) (s.tlbUseAll st ls) [] (.refl _) (fun _ => rfl) (hroom.same hal.l1 hal.rdc)
  exact ⟨t, (State.Wrote.tlbUseAll s st ls).quiet w, by rw [e]; simp⟩

theorem alGet_takeGranules (pdom base n : Nat) (k : Core) (g : Nat) (h : base + n ≤ g) :
    alGet pdom g (k.takeGranules pdom base n).granule = alGet pdom g k.granule := by
  induction n generalizing k with
  | zero => rfl
  | succ n ih =>
    rw [Core.takeGranules]
    rw [ih _ (by omega)]
    show alGet pdom g (alSet (base + n) pdom _) = _
    rw [alGet_alSet_other _ _ (by omega) _]
    split <;> rfl

theorem takeGranules_rest (pdom base n : Nat) (k : Core) :
    k.takeGranules pdom base n = { k with opbuf := (k.takeGranules pdom base n).opbuf, opPoison := (k.takeGranules pdom base n).opPoison,
                                          granule := (k.takeGranules pdom base n).granule } := by
  induction n generalizing k with
  | zero => rfl
  | succ n ih =>
    rw [Core.takeGranules]
    rw [ih]
    split <;> rfl

theorem takeGranules_opbuf (pdom base n : Nat) (k : Core) :
    (k.takeGranules pdom base n).opbuf = k.opbuf.filter fun y => ¬ (base ≤ y.1 / 4096 ∧ y.1 / 4096 < base + n ∧
      alGet pdom (y.1 / 4096) k.granule ≠ pdom) := by
  induction n generalizing k with
  | zero =>
    symm
    rw [Core.takeGranules, List.filter_eq_self]
    intro y _
    simp only [decide_eq_true_eq]
    omega
  | succ n ih =>
    rw [Core.takeGranules]
    rw [ih]
    have e : ∀ g, base ≤ g → g < base + n → ∀ l, alGet pdom g (alSet (base + n) pdom l) = alGet pdom g l :=
      fun g _ h2 l => alGet_alSet_other _ _ (by omega) _
    by_cases h : alGet pdom (base + n) k.granule = pdom
    · rw [if_pos h]
      apply List.filter_congr
      intro y _
      rw [decide_eq_decide]
      apply not_congr
      constructor
      · rintro ⟨h1, h2, h3⟩
        exact ⟨h1, by omega, by rwa [e _ h1 h2] at h3⟩
      · rintro ⟨h1, h2, h3⟩
        have : y.1 / 4096 ≠ base + n := fun hh => h3 (by rw [hh]; exact h)
        exact ⟨h1, by omega, by rwa [e _ h1 (by omega)]⟩
    · rw [if_neg h]
      dsimp only
      rw [List.filter_filter]
      apply List.filter_congr
      intro y _
      rw [← Bool.decide_coe (y.1 / 4096 != base + n), ← Bool.decide_and, decide_eq_decide]
      simp only [bne_iff_ne]
      constructor
      · rintro ⟨h4, h0⟩ ⟨h1, h2, h3⟩
        exact h4 ⟨h1, by omega, by rwa [e _ h1 (by omega)]⟩
      · intro h4
        refine ⟨?_, ?_⟩
        · rintro ⟨h1, h2, h3⟩
          exact h4 ⟨h1, by omega, by rwa [e _ h1 h2] at h3⟩
        · intro hh
          exact h4 ⟨by omega, by omega, by rw [hh]; exact h⟩


theorem State.Wrote.core_keeps {s t : State} (h : s.Wrote t []) (d c : Nat) :
    (t.core d c).tiles = (s.core d c).tiles ∧ (t.core d c).tileSeq = (s.core d c).tileSeq ∧ (t.core d c).opbuf = (s.core d c).opbuf ∧
      (t.core d c).granule = (s.core d c).granule ∧ (t.core d c).mx = (s.core d c).mx ∧ (t.core d c).ce = (s.core d c).ce ∧ (t.core d c).ssb = (s.core d c).ssb := by
  rw [h.core d c]; exact ⟨rfl, rfl, rfl, rfl, rfl, rfl, rfl⟩

theorem bytesNat_word16 (r : BitVec 128) : BitVec.ofNat 128 (bytesNat (natBytesLE 16 r.toNat)) = r := by
  rw [bytesNat_natBytesLE, Nat.mod_eq_of_lt (by have := r.isLt; omega)]; simp

theorem Strand.pairAddr_toNat (st : Strand) (a : BitVec 7) : (st.pairAddr a).toNat = (st.pair a).toNat % 2 ^ 57 := by
  unfold Strand.pairAddr; rw [BitVec.extractLsb'_toNat]; simp

theorem State.strandTile_eq (s : State) (st : Strand) (h : Nat) : s.strandTile st h = (s.tile h).filter fun x =>
    handleDie h = st.at_.die && handleCore h = st.at_.core && x.pdom = st.pdom.toNat := by
  unfold State.strandTile
  cases s.tile h with
  | none => simp
  | some t =>
    by_cases h1 : handleDie h = st.at_.die <;> by_cases h2 : handleCore h = st.at_.core <;> by_cases h3 : t.pdom = st.pdom.toNat <;>
      simp [h1, h2, h3, Option.filter]

theorem onesOf_eq (x : BitVec 4) : onesOf x.toNat 4 = (List.range 4).filter fun j => x.getLsbD j := by
  unfold onesOf
  apply List.filter_congr
  intro j hj
  unfold bitNat
  rw [BitVec.getLsbD, Nat.testBit_eq_decide_div_mod_eq]
  rfl

theorem take_drop_records (f : Nat → Nat) (n j : Nat) (hj : j < n) :
    ((((List.range n).flatMap fun i => natBytesLE 8 (f i)).drop (8 * j)).take 8) = natBytesLE 8 (f j) := by
  have hlen : ∀ k, (natBytesLE 8 k).length = 8 := fun k => by simp [natBytesLE]
  have hl : ∀ m, ((List.range m).flatMap fun i => natBytesLE 8 (f i)).length = 8 * m := by
    intro m
    induction m with
    | zero => rfl
    | succ m ih => rw [List.range_succ, List.flatMap_append, List.length_append, ih]; simp [hlen]; omega
  have e : List.range n = List.range j ++ j :: (List.range (n - j - 1)).map (· + (j + 1)) := by
    have h1 := List.range_add (n := j) (m := n - j)
    rw [show j + (n - j) = n by omega] at h1
    rw [h1]
    congr 1
    obtain ⟨m, hm⟩ : ∃ m, n - j = m + 1 := ⟨n - j - 1, by omega⟩
    rw [hm, List.range_succ_eq_map]
    simp only [List.map_cons, List.map_map, Nat.add_zero, Nat.add_sub_cancel]
    congr 1
    apply List.map_congr_left
    intro i _
    show j + (i + 1) = i + (j + 1)
    omega
  rw [e, List.flatMap_append, List.flatMap_cons, List.drop_append, List.drop_of_length_le (by rw [hl] <;> omega), hl, Nat.sub_self,
    List.nil_append, List.drop_zero, List.take_append, hlen, List.take_of_length_le (by rw [hlen] <;> omega)]
  simp

theorem State.noteCache_ids (s : State) (d : Nat) (c : Option Nat) (src n : Nat) (who : List (Nat × Bool)) (i : Nat) (r : List (Nat × Nat)) :
    ({ s with nextId := i, rdvMarks := r } : State).noteCache d c src n who = { s.noteCache d c src n who with nextId := i, rdvMarks := r } := by
  unfold State.noteCache; split <;> rfl

theorem State.homeWriteAtom_ids (s : State) (pa : Nat) (bs : List Byte) (q : Bool) (i : Nat) (r : List (Nat × Nat)) :
    ({ s with nextId := i, rdvMarks := r } : State).homeWriteAtom pa bs q = { s.homeWriteAtom pa bs q with nextId := i, rdvMarks := r } := by
  unfold State.homeWriteAtom State.noteDirty; dsimp only; split <;> rfl

end Sys2Proof.Machine
end

