-- ==== Sys2Proof/Laws/Tasks.lean ====
section
/-! SUPPORT. Epochs, records of 64 bytes, and strands that have seen a wake. -/
namespace Sys2Proof.Machine

theorem State.epochState_set (s : State) (e f x dom : Nat) :
    (s.setEpoch e x dom).epochState f = if f = e then x else s.epochState f := by
  unfold State.setEpoch State.epochState
  dsimp only
  by_cases h : f = e
  · subst h
    rw [if_pos rfl]
    have hn : (s.hg.epochs.filter fun y => y.1 != f).find? (fun y => y.1 = f) = none := by
      rw [List.find?_eq_none]; intro y hy; have := (List.mem_filter.1 hy).2; simpa using this
    by_cases hx : x = 0
    · rw [if_pos hx, hn]; exact hx.symm
    · rw [if_neg hx, List.find?_append, hn]; simp
  · rw [if_neg h]
    have hn : (s.hg.epochs.filter fun y => y.1 != e).find? (fun y => y.1 = f) = s.hg.epochs.find? fun y => y.1 = f := by
      rw [List.find?_filter]
      congr 1; funext y
      by_cases h1 : y.1 = f
      · have : y.1 ≠ e := fun h2 => h (h1 ▸ h2)
        simp [h1, h]
      · simp [h1]
    by_cases hx : x = 0
    · rw [if_pos hx, hn]
    · rw [if_neg hx, List.find?_append, hn]
      cases s.hg.epochs.find? fun y => decide (y.1 = f) with
      | some z => rfl
      | none => simp only [Option.none_or, List.find?_cons, List.find?_nil, decide_eq_false (fun h2 : e = f => h h2.symm)]

theorem find?_range_first (p : Nat → Bool) (n : Nat) (h1 : 1 ≤ n) (h2 : n ≤ 255) (hp : p n = true)
    (hm : ∀ m, 1 ≤ m → m < n → p m = false) : ((List.range 255).map (· + 1)).find? p = some n := by
  rw [List.find?_map, Option.map_eq_some_iff]
  refine ⟨n - 1, ?_, by omega⟩
  rw [List.find?_range_eq_some]
  refine ⟨?_, by simp; omega, ?_⟩
  · show p (n - 1 + 1) = true; rw [show n - 1 + 1 = n by omega]; exact hp
  · intro j hj; show (!p (j + 1)) = true; rw [hm (j + 1) (by omega) (by omega)]; rfl

theorem find?_range_never (p : Nat → Bool) (hm : ∀ m, 1 ≤ m → m ≤ 255 → p m = false) :
    ((List.range 255).map (· + 1)).find? p = none := by
  rw [List.find?_eq_none]
  intro x hx
  obtain ⟨y, hy, rfl⟩ := List.mem_map.1 hx
  rw [List.mem_range] at hy
  rw [hm _ (by omega) (by omega)]; decide

/-- Operations that change only cores, one after another, change only cores. -/
theorem foldl_cores {α : Type} (f : State → α → State) (hf : ∀ s a, f s a = { s with cores := (f s a).cores }) (l : List α) (s : State) :
    l.foldl f s = { s with cores := (l.foldl f s).cores } := by
  induction l generalizing s with
  | nil => rfl
  | cons a l ih =>
    rw [List.foldl_cons]
    have h1 := hf s a
    have h2 := ih (f s a)
    generalize l.foldl f (f s a) = u at h2 ⊢
    generalize f s a = w at h1 h2
    rw [h2, h1]

/-- The count of a mailbox returned to its siblings changes only cores (R118). -/
theorem State.returnCount_rest (s : State) (d c n : Nat) : s.returnCount d c n = { s with cores := (s.returnCount d c n).cores } :=
  foldl_cores _ (fun _ _ => rfl) _ s

theorem State.returnCounts_hg (l : List Nat) (d c : Nat) (s : State) : (l.foldl (fun s n => s.returnCount d c n) s).hg = s.hg := by
  rw [foldl_cores _ (fun s n => s.returnCount_rest d c n) l s]

theorem State.dissolveIfDone_hg (s : State) (h : Nat) : (s.dissolveIfDone h).hg = s.hg := by
  unfold State.dissolveIfDone
  split
  · split
    · exact State.returnCounts_hg ..
    · rfl
  · rfl

theorem State.dissolveAll_hg (s : State) : s.dissolveAll.hg = s.hg := by
  unfold State.dissolveAll
  generalize s.bundles = l
  induction l generalizing s with
  | nil => rfl
  | cons b l ih =>
    rw [List.foldl_cons, ih, State.dissolveIfDone_hg]

theorem finish_all (keys : List Nat) (g : Task → Task) (hg : ∀ t, (g t).key = t.key) (s : State) :
    ∀ y ∈ (keys.foldl (fun s k => (s.mapTask k g).finish k 1) s).hg.tasks, y.key ∈ keys → y.state = .finishing ∧ y.status = 1 := by
  have step : ∀ (s : State) (k : Nat) (P : Nat → Prop), (∀ y ∈ s.hg.tasks, P y.key → y.state = .finishing ∧ y.status = 1) →
      ∀ y ∈ ((s.mapTask k g).finish k 1).hg.tasks, (P y.key ∨ y.key = k) → y.state = .finishing ∧ y.status = 1 := by
    intro s k P h y hy hk
    unfold State.finish State.mapTask at hy
    dsimp only at hy
    rw [List.map_map, List.mem_map] at hy
    obtain ⟨z, hz, rfl⟩ := hy
    simp only [Function.comp] at hk ⊢
    by_cases e : z.key = k
    · rw [if_pos e, if_pos (by rw [hg]; exact e)]; exact ⟨rfl, rfl⟩
    · rw [if_neg e, if_neg e] at hk ⊢
      exact h z hz (hk.resolve_right e)
  have main : ∀ (l : List Nat) (s : State) (P : Nat → Prop), (∀ y ∈ s.hg.tasks, P y.key → y.state = .finishing ∧ y.status = 1) →
      ∀ y ∈ (l.foldl (fun s k => (s.mapTask k g).finish k 1) s).hg.tasks, (P y.key ∨ y.key ∈ l) → y.state = .finishing ∧ y.status = 1 := by
    intro l
    induction l with
    | nil => intro s P h y hy hk; exact h y hy (hk.resolve_right (by simp))
    | cons k l ih =>
      intro s P h y hy hk
      refine ih _ (fun j => P j ∨ j = k) (fun y hy hk => step s k P h y hy hk) y hy ?_
      rcases hk with h1 | h1
      · exact .inl (.inl h1)
      · rcases List.mem_cons.1 h1 with h2 | h2
        · exact .inl (.inr h2)
        · exact .inr h2
  intro y hy hk
  exact main keys s (fun _ => False) (fun _ _ h => h.elim) y hy (.inr hk)

theorem find?_strands (f : Strand → Strand) (hf : ∀ x, (f x).at_ = x.at_) (l : List Strand) (r : SRef) :
    (l.map f).find? (fun x => decide (x.at_ = r)) = (l.find? fun x => decide (x.at_ = r)).map f := by
  rw [List.find?_map]
  congr 2; funext x
  simp [hf]

theorem Strand.retire_at (st : Strand) (c n : Nat) : (st.retire c n).at_ = st.at_ := st.tick_at

theorem State.curStrand_bundleOf_keep (s : State) (st : Strand) : s.bundleOf st.closeWindows = s.bundleOf st := by
  unfold State.bundleOf; rw [st.closeWindows_rest]

theorem Strand.seen_moved (t : State) (st : Strand) (c n : Nat) : (t.seen st).OnlyMoved ((t.seen st).retire c n) c (st.past n) := by
  refine Strand.set_retire st _ _ _ ?_
  unfold State.seen; split <;> rfl

theorem State.readRecord_wide {s : State} {st : Strand} {va pa : Nat} {v w : Vec} (hat : s.At st .read va 64 pa) (hr : homeOf pa ≠ .regs)
    (hv : s.lookAtom st.at_.die (some st.at_.core) (pa / 32) = some (v, 0))
    (hw : s.lookAtom st.at_.die (some st.at_.core) (pa / 32 + 1) = some (w, 0)) :
    ∃ t, s.Wrote t [] ∧ s.readRecord st [(va, 64)] = .ok t (natBytesLE 32 v.toNat ++ natBytesLE 32 w.toNat) := by
  obtain ⟨g, b, p, ec⟩ := State.checkLane_at hat
  have hpa : pa % 64 = 0 := by
    obtain ⟨h1, -, l, -, -, h5, -⟩ := hat
    unfold Leaf.pa at h5
    omega
  have hal := State.alike_tlbUseAll s st [(va, 64)]
  have hp := State.addrPhase_ready (s := s) (st := st) (a := .read) (lanes := [(va, 64)]) (tgt := fun _ => .phys pa g b p)
    (by intro l hm; rw [List.mem_singleton] at hm; subst hm; exact ec)
  obtain ⟨t1, e1, w1, l1⟩ := State.unitAtom_sees (s := s.tlbUseAll st [(va, 64)]) (pa := pa) ((hal.look _).trans hv)
    { group := g, base := b, partid := p, hint := 0 }
  obtain ⟨t2, e2, w2, -⟩ := State.unitAtom_sees (s := t1) (pa := pa + 32) (v := w) (by
    rw [show (pa + 32) / 32 = pa / 32 + 1 by omega]; exact (l1.1 _ (by omega)).trans ((hal.look _).trans hw))
    { group := g, base := b, partid := p, hint := 0 }
  refine ⟨t2.unclaim st.at_, (((State.Wrote.tlbUseAll s st _).quiet w1).quiet w2).quiet (.unclaim t2 _), ?_⟩
  have gb : ∀ x : Vec, getBytes x 0 32 = x.toNat := by
    intro x; unfold getBytes; have := x.isLt; simp only [Nat.mul_zero, Nat.pow_zero, Nat.div_one]; exact Nat.mod_eq_of_lt this
  have hb : (s.tlbUseAll st [(va, 64)]).recBytes st va pa { group := g, base := b, partid := p, hint := 0 } 64 [] none 4 = some (natBytesLE 32 v.toNat ++ natBytesLE 32 w.toNat, none, t2) := by
    rw [State.recBytes, if_neg (by decide), e1]
    dsimp only
    rw [show pa % 32 = 0 by omega, show min 64 (32 - 0) = 32 by decide, State.recBytes, if_neg (by decide), e2]
    dsimp only
    rw [show (pa + 32) % 32 = 0 by omega, show min (64 - 32) (32 - 0) = 32 by decide, State.recBytes, if_pos (by decide), gb, gb]
    rfl
  unfold State.readRecord
  rw [hp]
  dsimp only [List.map_cons, List.map_nil, List.zip_cons_cons, List.zip_nil_left]
  have ht : (s.tlbUseAll st [(va, 64)]).recTarget st va 64 (.phys pa g b p) = (some (natBytesLE 32 v.toNat ++ natBytesLE 32 w.toNat, none), t2) := by
    unfold State.recTarget
    cases hh : homeOf pa with
    | regs => exact absurd hh hr
    | dram k => simp only [show 64 / 32 + 2 = 4 from rfl, hb]
    | host => simp only [show 64 / 32 + 2 = 4 from rfl, hb]
  show (s.tlbUseAll st [(va, 64)]).recPieces st [] [((va, 64), .phys pa g b p)] = _
  rw [State.recPieces, ht]
  rfl

theorem bytesNat_two (v w : Vec) : BitVec.ofNat 512 (bytesNat (natBytesLE 32 v.toNat ++ natBytesLE 32 w.toNat)) = w ++ v := by
  have happ : ∀ l m : List Byte, bytesNat (l ++ m) = bytesNat l + 256 ^ l.length * bytesNat m := by
    intro l m
    induction l with
    | nil => simp [bytesNat]
    | cons x l ih =>
      rw [List.cons_append]
      simp only [bytesNat, ih, List.length_cons, Nat.pow_succ]
      rw [Nat.mul_add, ← Nat.mul_assoc, Nat.mul_comm 256 (256 ^ l.length), Nat.add_assoc]
  rw [happ, bytesNat_natBytesLE, bytesNat_natBytesLE, Nat.mod_eq_of_lt (by have := v.isLt; omega), Nat.mod_eq_of_lt (by have := w.isLt; omega)]
  have hl : (natBytesLE 32 v.toNat).length = 32 := by simp [natBytesLE]
  rw [hl]
  apply BitVec.eq_of_toNat_eq
  rw [BitVec.toNat_ofNat, BitVec.toNat_append]
  have h1 := v.isLt
  have h2 := w.isLt
  rw [Nat.mod_eq_of_lt (by omega), ← Nat.shiftLeft_add_eq_or_of_lt h1, Nat.shiftLeft_eq]
  omega

end Sys2Proof.Machine
end

