-- ==== Sys2Proof/Laws/Maintain.lean ====
section
/-! SUPPORT. What cache maintenance and removals of translations leave as it was. -/
namespace Sys2Proof.Machine

theorem State.fire_fields (s : State) (f : Strand → WatchRegion → Bool) : s.fire f =
    { s with strands := (s.fire f).strands, bundles := (s.fire f).bundles } := rfl

/-- A fold of cache notes writes nothing but the event notes. -/
theorem State.foldNotes_only (n : (Nat × Nat) × Core → Nat) (w : List (Nat × Bool)) (l : List ((Nat × Nat) × Core)) (u : State) :
    ∃ e, (l.foldl (fun (u : State) (q : (Nat × Nat) × Core) => u.noteCache q.1.1 (some q.1.2) 10 (n q) w) u) = { u with evBuf := e } := by
  induction l generalizing u with
  | nil => exact ⟨u.evBuf, rfl⟩
  | cons q l ih =>
    obtain ⟨e, he⟩ := ih (u.noteCache q.1.1 (some q.1.2) 10 (n q) w)
    refine ⟨e, ?_⟩
    rw [List.foldl_cons, he, State.noteCache_only]

theorem State.noteKills_only (t s : State) : ∃ e, t.noteKills s = { t with evBuf := e } :=
  State.foldNotes_only (fun q => (s.core q.1.1 q.1.2).reuse.length - q.2.reuse.length) s.curWho t.cores t

theorem alGet_mapped {α β : Type} [DecidableEq α] (d : β) (g : α × β → α × β) (hg : ∀ q, (g q).1 = q.1) (l : List (α × β)) (p : α)
    (h : (g (p, d)).2 = d) : alGet d p (l.map g) = (g (p, alGet d p l)).2 := by
  induction l with
  | nil => exact h.symm
  | cons q l ih =>
    obtain ⟨a, b⟩ := q
    rw [List.map_cons]
    have hg2 := hg (a, b)
    generalize hq : g (a, b) = q'
    rw [hq] at hg2
    obtain ⟨a', b'⟩ := q'
    have ha : a' = a := hg2
    subst ha
    show (if a' = p then b' else alGet d p _) = (g (p, if a' = p then b else alGet d p l)).2
    by_cases e : a' = p
    · subst e; rw [if_pos rfl, if_pos rfl, hq]
    · rw [if_neg e, if_neg e, ih]

theorem State.dropTlb_facts (s : State) (dies : List Nat) (core : Option (Nat × Nat)) (hit : Nat → Nat → Bool) :
    (∃ a b c d e, (s.dropTlb dies core hit) = { s with cores := a, dies := b, strands := c, bundles := d, evBuf := e }) ∧
    (∀ e f, (s.dropTlb dies core hit).core e f = if (match core with | some p => decide ((e, f) = p) | none => dies.contains e) then
      { s.core e f with tlb := (s.core e f).tlb.filter (fun x => !hit x.pdom x.page), reuse := (s.core e f).reuse.filter (fun x => match x.load with | some l => !l.pages.any (hit x.key.pdom) | none => true) } else s.core e f) ∧
    (∀ e, (s.dropTlb dies core hit).die e = { s.die e with tlb := (if dies.contains e then (s.die e).tlb.filter (fun x => !hit x.pdom x.page) else (s.die e).tlb), merge := (s.die e).merge.filter (fun x => !(x.faulted && hit x.pdom x.page)) }) := by
  unfold State.dropTlb
  dsimp only
  generalize hu : ({ s with cores := _, strands := _, dies := _ } : State) = u
  obtain ⟨e, he⟩ := u.noteKills_only s
  rw [he]
  subst hu
  refine ⟨⟨_, _, _, _, _, rfl⟩, ?_, ?_⟩
  · intro e f
    refine (alGet_mapped Core.reset _ ?_ s.cores (e, f) ?_).trans ?_
    · intro q; split <;> split <;> rfl
    · split <;> split <;> rfl
    · split <;> split <;> rfl
  · intro e
    refine (alGet_mapped Die.reset _ ?_ s.dies e ?_).trans ?_
    · intro q; rfl
    · split <;> rfl
    · rfl

end Sys2Proof.Machine
end

