-- ==== Sys2Proof/Laws/Masters.lean ====
section
/-! SUPPORT. Register writes of the masters, deliveries to many strands, and memory with a range taken out. -/
namespace Sys2Proof.Machine

theorem State.portWrite_owner {s : State} {m pa : Nat} {v : BitVec 64} (hb : s.booted = true) (hd : m = 1 → s.port.hostDown = false) :
    s.portWrite m pa v = s.regWrite64 m pa v := by
  unfold State.portWrite
  rw [if_neg]
  rw [hb]
  by_cases h : m = 1
  · rw [hd h]; simp
  · simp [h]

theorem State.mayWrite_owner {s : State} {m : Nat} (h3 : m ≤ 3) (ho : s.port.own = m) : (!s.mayWrite m) = false := by
  unfold State.mayWrite
  simp [h3, ho]

theorem State.mayWrite_other {s : State} {m : Nat} (h0 : m ≠ 0) (ho : s.port.own ≠ m) : (!s.mayWrite m) = true := by
  unfold State.mayWrite
  simp [h0, ho]

theorem mem_insertNat (a k : Nat) (l : List Nat) : k ∈ insertNat a l ↔ k ∈ l ∨ k = a := by
  induction l with
  | nil => simp [insertNat]
  | cons b r ih =>
    unfold insertNat
    split
    · next h => subst h; simp only [List.mem_cons]; exact ⟨Or.inl, fun h => h.elim id .inl⟩
    · split
      · simp only [List.mem_cons]; exact ⟨fun h => h.elim .inr .inl, fun h => h.elim .inr .inl⟩
      · simp only [List.mem_cons, ih]; exact ⟨fun h => h.elim (.inl ∘ .inl) (fun h => h.elim (.inl ∘ .inr) .inr), fun h => h.elim (fun h => h.elim .inl (.inr ∘ .inl)) (.inr ∘ .inr)⟩

theorem State.raiseMsix_booted {s : State} (hb : s.booted = true) (n : Nat) :
    s.raiseMsix n = { s with port := { s.port with msix := insertNat n s.port.msix } } := by
  unfold State.raiseMsix
  rw [if_pos hb]

theorem State.regPlace_off (s : State) (o : Nat) : s.regPlace (0x2000000000 + o) =
    if o < 0x1000 then .hg o
    else if o < 0x2000 then .fl (o - 0x1000)
    else if o < 0x3000 then .mst (o - 0x2000)
    else if o < 0x4000 then .az (o - 0x3000)
    else if o < 0x4008 then .lease
    else if 0x5000 ≤ o && o < 0x5200 then .dh ((o - 0x5000) / 0x100) (o % 0x100)
    else if 0x10000 ≤ o && o < 0x10800 then .ptroot ((o - 0x10000) / 8)
    else if 0x1000000 ≤ o && o < 0x1400000 then
      if o % 0x4000 / 8 |> fun n => (o - 0x1000000) % 0x200000 / 0x4000 < 96 && coreCsr n && !s.mg.disabled.contains ((o - 0x1000000) / 0x200000 + 1, (o - 0x1000000) % 0x200000 / 0x4000)
      then .core ((o - 0x1000000) / 0x200000 + 1) ((o - 0x1000000) % 0x200000 / 0x4000) (o % 0x4000 / 8) else .none
    else if 0x2000000 ≤ o && o < 0x2020000 then
      if dieCsr (o % 0x10000 / 8) then .die ((o - 0x2000000) / 0x10000 + 1) (o % 0x10000 / 8) else .none
    else .none := by
  unfold State.regPlace
  rw [if_neg (Nat.not_lt.2 (Nat.le_add_right _ _))]
  rw [Nat.add_sub_cancel_left]

theorem State.mapHead_set {s : State} {n : Nat} {h : Head} (hh : s.gx.heads[n]? = some h) (f : Head → Head) :
    s.mapHead n f = { s with gx := { s.gx with heads := s.gx.heads.set n (f h) } } := by
  have : (s.gx.heads.zipIdx.map fun (p : Head × Nat) => if p.2 = n then f p.1 else p.1) = s.gx.heads.set n (f h) := by
    apply List.ext_getElem?
    intro k
    rw [List.getElem?_map, List.getElem?_zipIdx, List.getElem?_set]
    by_cases hk : n = k
    · subst hk
      rw [hh]
      have : n < s.gx.heads.length := by
        rw [List.getElem?_eq_some_iff] at hh; exact hh.1
      simp [this]
    · rw [if_neg hk]
      cases e : s.gx.heads[k]? with
      | none => rfl
      | some x => simp [Ne.symm hk]
  unfold State.mapHead
  exact congrArg (fun l => ({ s with gx := { s.gx with heads := l } } : State)) this

theorem State.domain_set (s : State) (d : Domain) (k : Nat) : (s.setDomain d).domain k = if k = d.n then d else s.domain k := by
  unfold State.setDomain State.domain
  dsimp only
  rw [List.find?_cons]
  by_cases h : k = d.n
  · subst h; simp
  · rw [if_neg h]
    rw [show decide (d.n = k) = false from decide_eq_false (fun e => h e.symm)]
    dsimp only
    rw [List.find?_filter]
    have : (fun a : Domain => decide (a.n != d.n) && decide (a.n = k)) = fun a => decide (a.n = k) := by
      funext a
      by_cases e : a.n = k
      · have : a.n ≠ d.n := fun x => h (e ▸ x)
        simp [e, h]
      · simp [e]
    first
      | rw [this]
      | (congr 1; simp_all)

theorem State.regPlace_fl (s : State) (pa o : Nat) (h1 : pa = 0x2000000000 + (0x1000 + o)) (h2 : o < 0x1000) : s.regPlace pa = .fl o := by
  have a1 : ¬ pa < 0x2000000000 := by omega
  have a2 : pa - 0x2000000000 = 0x1000 + o := by omega
  have a3 : ¬ (0x1000 + o < 0x1000) := by omega
  have a4 : 0x1000 + o < 0x2000 := by omega
  have a5 : 0x1000 + o - 0x1000 = o := Nat.add_sub_cancel_left ..
  unfold State.regPlace
  simp only [a1, a2, a3, a4, a5, if_true, if_false]

theorem State.deliver_strand (s : State) (st : Strand) (c v : BitVec 64) (e : Addr) : ∃ (y : Strand) (ts : List Task),
    s.deliver st c v e = ({ s with hg := { s.hg with tasks := ts } } : State).putStrand y ∧ y.at_ = st.at_ ∧ y.level = true ∧ y.blocked = none ∧
    ∀ k, c.getLsbD k = true → y.cause.getLsbD k = true := by
  unfold State.deliver
  dsimp only
  split
  · next h =>
    refine ⟨_, _, rfl, rfl, h, rfl, ?_⟩
    intro k hk
    show ((st.cause ||| c) ||| cNested).getLsbD k = true
    simp [BitVec.getLsbD_or, hk]
  · split
    · refine ⟨_, _, rfl, rfl, rfl, rfl, ?_⟩
      intro k hk
      show (st.cause ||| c).getLsbD k = true
      simp [BitVec.getLsbD_or, hk]
    · refine ⟨_, _, rfl, rfl, rfl, rfl, ?_⟩
      intro k hk
      show (st.cause ||| c).getLsbD k = true
      simp [BitVec.getLsbD_or, hk]

/-- A fold of deliveries to some of the strands of a list writes strands and tasks alone. -/
theorem State.foldRaise_only (q : Strand → Option Nat) (l : List Strand) (u : State) :
    ∃ ss ts, l.foldl (fun (s : State) st => (q st).elim s fun va => s.raise { st with blocked := none } cPage (BitVec.ofNat 64 va)) u =
      { u with strands := ss, hg := { u.hg with tasks := ts } } := by
  induction l generalizing u with
  | nil => exact ⟨u.strands, u.hg.tasks, rfl⟩
  | cons a l ih =>
    rw [List.foldl_cons]
    cases hq : q a with
    | none => exact ih u
    | some va =>
      obtain ⟨y, ts, e, -⟩ := u.deliver_strand { a with blocked := none } cPage (BitVec.ofNat 64 va) a.pc
      obtain ⟨ss, ts2, h⟩ := ih (({ u with hg := { u.hg with tasks := ts } } : State).putStrand y)
      refine ⟨ss, ts2, ?_⟩
      rw [Option.elim_some, show u.raise { a with blocked := none } cPage (BitVec.ofNat 64 va) = ({ u with hg := { u.hg with tasks := ts } } : State).putStrand y from e]
      exact h

/-- What a fold of deliveries to some of the strands of a list does to them and to the others. -/
theorem State.foldRaise (q : Strand → Option Nat) (l : List Strand) (u : State) (hp : (l.map Strand.at_).Pairwise (· ≠ ·)) :
    ∀ r, r = l.foldl (fun (s : State) st => (q st).elim s fun va => s.raise { st with blocked := none } cPage (BitVec.ofNat 64 va)) u →
    (∀ x ∈ u.strands, x.at_ ∉ l.map Strand.at_ → x ∈ r.strands) ∧
    ∀ st ∈ l, st ∈ u.strands → ((q st).isSome = true → ∃ y ∈ r.strands, y.at_ = st.at_ ∧ y.level = true ∧ y.blocked = none ∧ y.cause.getLsbD 12 = true) ∧
      (q st = none → st ∈ r.strands) := by
  induction l generalizing u with
  | nil => intro r hr; subst hr; exact ⟨fun x hx _ => hx, fun st h => absurd h (by simp)⟩
  | cons a l ih =>
    intro r hr
    rw [List.foldl_cons] at hr
    rw [List.map_cons, List.pairwise_cons] at hp
    have ha : a.at_ ∉ l.map Strand.at_ := fun h => hp.1 a.at_ h rfl
    cases hq : q a with
    | none =>
      rw [hq] at hr
      obtain ⟨h2, h3⟩ := ih u hp.2 r hr
      refine ⟨fun x hx hn => h2 x hx (fun h => hn (List.mem_cons_of_mem _ h)), ?_⟩
      intro st hm hu
      rcases List.mem_cons.1 hm with rfl | hm
      · exact ⟨fun h => (by rw [hq] at h; cases h), fun _ => h2 st hu ha⟩
      · exact h3 st hm hu
    | some va =>
      rw [hq] at hr
      obtain ⟨y, ts, e, ea, e1, e2, e3⟩ := u.deliver_strand { a with blocked := none } cPage (BitVec.ofNat 64 va) a.pc
      have e' : u.raise { a with blocked := none } cPage (BitVec.ofNat 64 va) = ({ u with hg := { u.hg with tasks := ts } } : State).putStrand y := e
      rw [Option.elim_some, e'] at hr
      have hmem : ∀ x ∈ u.strands, x.at_ ≠ a.at_ → x ∈ (({ u with hg := { u.hg with tasks := ts } } : State).putStrand y).strands := by
        intro x hx hne
        refine List.mem_map.2 ⟨x, hx, ?_⟩
        rw [if_neg (by rw [ea]; exact hne)]
      obtain ⟨h2, h3⟩ := ih _ hp.2 r hr
      refine ⟨?_, ?_⟩
      · intro x hx hn
        rw [List.map_cons, List.mem_cons, not_or] at hn
        exact h2 x (hmem x hx hn.1) hn.2
      · intro st hm hu
        rcases List.mem_cons.1 hm with rfl | hm
        · refine ⟨fun _ => ⟨y, h2 y (List.mem_map.2 ⟨st, hu, if_pos (by rw [ea])⟩) (by rw [ea]; exact ha), ea, e1, e2, e3 12 (by decide)⟩, fun h => (by rw [hq] at h; cases h)⟩
        · exact h3 st hm (hmem st hu (fun h => hp.1 st.at_ (List.mem_map.2 ⟨st, hm, rfl⟩) h.symm))

theorem State.die_mapped (s : State) (g : Die → Die) (h : g Die.reset = Die.reset) (d : Nat) :
    alGet Die.reset d (s.dies.map fun (q : Nat × Die) => (q.1, g q.2)) = g (s.die d) :=
  alGet_mapped Die.reset (fun (q : Nat × Die) => (q.1, g q.2)) (fun _ => rfl) s.dies d h

theorem bitNat_toNat {w : Nat} (x : BitVec w) (k : Nat) : bitNat x.toNat k = x.getLsbD k := by
  unfold bitNat BitVec.getLsbD
  first | rfl | simp [Nat.testBit, Nat.shiftRight_eq_div_pow]

/-- A canonical list with some addresses taken out reads there as if nothing were written, and elsewhere as before. -/
theorem readByte_drop (p : Nat → Bool) (m : List Host.Cell) (hw : Memory.wf m = true) (a : Nat) :
    readByte (m.filter fun c => p c.1) a = if p a = true then readByte m a else 0 := by
  have key : ∀ (m : List Host.Cell) (lo : Option Nat), cellsAbove lo m = true →
      readByte (m.filter fun c => p c.1) a = if p a = true then readByte m a else 0 := by
    intro m
    induction m with
    | nil => intro lo _; split <;> rfl
    | cons c r ih =>
      obtain ⟨b, x⟩ := c
      intro lo h
      have hr : cellsAbove (some b) r = true := by
        unfold cellsAbove at h
        simp only [Bool.and_eq_true] at h
        exact h.2
      have ih := ih (some b) hr
      have hread : readByte ((b, x) :: r) a = if a = b then x else if a < b then 0 else readByte r a := rfl
      rw [List.filter_cons]
      dsimp only
      by_cases hb : p b = true
      · rw [if_pos hb]
        show (if a = b then x else if a < b then 0 else readByte (r.filter fun c => p c.1) a) = _
        rw [ih, hread]
        by_cases e : a = b
        · subst e; simp [hb]
        · simp only [if_neg e]
          split <;> split <;> rfl
      · rw [if_neg hb, ih, hread]
        by_cases e : a = b
        · subst e; simp [hb]
        · rw [if_neg e]
          by_cases hl : a < b
          · rw [if_pos hl, readByte_below hr (Nat.le_of_lt hl)]; rfl
          · rw [if_neg hl]
  exact key m none hw

theorem State.loseMaster_facts (s : State) (m : Nat) : ∃ t, s.loseMaster m = t ∧ t.port.hostDown = s.port.hostDown ∧
    t.port.own = (if s.port.own = m then 0 else s.port.own) ∧ t.port.hand = (if s.port.own = m ∨ s.port.hand = m then 0 else s.port.hand) ∧
    t.port.ibi = s.port.ibi + 1 ∧ (s.booted = true → 2 ∈ t.port.msix) ∧ t = { s with port := t.port } := by
  refine ⟨_, rfl, ?_⟩
  unfold State.loseMaster State.raiseSecurity
  dsimp only
  by_cases hb : s.booted = true
  · rw [State.raiseMsix_booted (by exact hb)]
    exact ⟨rfl, by simp, by simp, rfl, fun _ => (mem_insertNat ..).2 (.inr rfl), rfl⟩
  · unfold State.raiseMsix
    rw [if_neg (by exact hb)]
    exact ⟨rfl, by simp, by simp, rfl, fun h => absurd h hb, rfl⟩

end Sys2Proof.Machine
end

