-- ==== Sys2Proof/Laws/MemEvents.lean ====
section
/-! SUPPORT. Writes of any length at a home, requests served there, and the release of strands on a page. -/
namespace Sys2Proof.Machine

/-- Strands on the page of a walk that has ended issue again; the others stand as they were. -/
theorem State.reissuePage_facts (s : State) (d pdom page : Nat) (hit : Nat → Nat → Bool) (hh : ∀ p q, hit p q = true ↔ p = pdom ∧ q = page) :
    (∃ ss, s.reissuePage d hit = { s with strands := ss }) ∧
    ∀ st ∈ s.strands, (st.OnPage d pdom page → st.reissue s.cycle ∈ (s.reissuePage d hit).strands) ∧
      (¬ st.OnPage d pdom page → st ∈ (s.reissuePage d hit).strands) := by
  refine ⟨⟨_, rfl⟩, ?_⟩
  intro st hm
  constructor
  · rintro ⟨b, hb, hw⟩
    refine List.mem_map.2 ⟨st, hm, ?_⟩
    rw [hb]
    dsimp only
    obtain hw | ⟨va, hw, hp⟩ := hw
    · rw [hw]; dsimp only
      rw [if_pos (by simp [(hh pdom page).2 ⟨rfl, rfl⟩])]
    · rw [hw]; dsimp only
      rw [if_pos (by simp [(hh pdom (pageOf va)).2 ⟨rfl, hp⟩])]
  · intro hn
    refine List.mem_map.2 ⟨st, hm, ?_⟩
    split
    · next b hb =>
      split
      · next e p q hw =>
        rw [if_neg]
        intro hc
        simp only [Bool.and_eq_true, decide_eq_true_eq] at hc
        obtain ⟨h1, h2⟩ := (hh _ _).1 hc.2
        exact hn ⟨b, hb, .inl (by rw [hw, hc.1, h1, h2])⟩
      · next e p va hw =>
        rw [if_neg]
        intro hc
        simp only [Bool.and_eq_true, decide_eq_true_eq] at hc
        obtain ⟨h1, h2⟩ := (hh _ _).1 hc.2
        exact hn ⟨b, hb, .inr ⟨va, by rw [hw, hc.1, h1], h2⟩⟩
      · rfl
    · rfl

theorem writeBytes_split (m : List Host.Cell) (a k : Nat) (bs : List Byte) (h : k ≤ bs.length) :
    writeBytes (writeBytes m a (bs.take k)) (a + k) (bs.drop k) = writeBytes m a bs := by
  induction k generalizing m a bs with
  | zero => rfl
  | succ k ih =>
    cases bs with
    | nil => exact absurd h (by simp)
    | cons b bs =>
      rw [List.take_succ_cons, List.drop_succ_cons]
      show writeBytes (writeBytes (writeByte m a b) (a + 1) (bs.take k)) (a + (k + 1)) (bs.drop k) = writeBytes (writeByte m a b) (a + 1) bs
      rw [show a + (k + 1) = a + 1 + k by omega]
      exact ih _ _ _ (by simpa using h)

theorem State.homeWriteAtom_parts (s : State) (pa : Nat) (bs : List Byte) (strong : Bool) : ∃ (q l : List Nat) (dd : List Nat) (ss : List Strand) (bb : List Bundle),
    s.homeWriteAtom pa bs strong = { s with mem := writeBytes s.mem pa bs, poison := q, lost := l, link := { s.link with dirty := dd }, strands := ss, bundles := bb } ∧
    (∀ p, p ∈ q ↔ p ∈ s.poison ∧ ¬ (pa % 32 = 0 ∧ bs.length = 32 ∧ p = pa / 32)) ∧
    (∀ p, p ∈ l ↔ p ∈ s.lost ∧ ¬ (strong = true ∧ pa % 32 = 0 ∧ bs.length = 32 ∧ p = pa / 32)) := by
  unfold State.homeWriteAtom
  dsimp only
  rw [natBytes_eq]
  refine ⟨_, _, _, _, _, rfl, ?_, ?_⟩
  · intro p
    dsimp only [State.fireLine, State.fire]
    by_cases h : pa % 32 = 0 ∧ bs.length = 32
    · rw [if_pos (by simp [h.1, h.2])]
      simp [List.mem_filter, h.1, h.2]
    · rw [if_neg (by simpa using h)]
      exact ⟨fun hp => ⟨hp, fun hh => h ⟨hh.1, hh.2.1⟩⟩, fun hp => hp.1⟩
  · intro p
    dsimp only [State.fireLine, State.fire]
    by_cases h : pa % 32 = 0 ∧ bs.length = 32
    · by_cases hs : strong = true
      · rw [if_pos (by simp [h.1, h.2, hs])]
        simp [List.mem_filter, h.1, h.2, hs]
      · rw [if_neg (by simp [hs])]
        exact ⟨fun hp => ⟨hp, fun hh => hs hh.1⟩, fun hp => hp.1⟩
    · rw [if_neg (by intro hc; simp only [Bool.and_eq_true, decide_eq_true_eq] at hc; exact h hc.1)]
      exact ⟨fun hp => ⟨hp, fun hh => h ⟨hh.2.1, hh.2.2.1⟩⟩, fun hp => hp.1⟩

/-- A write of any length applied at its home: the bytes stand there, and the marks of the atoms it covers are gone. -/
theorem State.homeWrite_parts (s : State) (pa : Nat) (bs : List Byte) (strong : Bool) : ∃ (q l : List Nat) (dd : List Nat) (ss : List Strand) (bb : List Bundle),
    s.homeWrite pa bs strong = { s with mem := writeBytes s.mem pa bs, poison := q, lost := l, link := { s.link with dirty := dd }, strands := ss, bundles := bb } ∧
    (∀ p, p ∈ q ↔ p ∈ s.poison ∧ ¬ (pa ≤ 32 * p ∧ 32 * p + 32 ≤ pa + bs.length)) ∧
    (∀ p, p ∈ l ↔ p ∈ s.lost ∧ ¬ (strong = true ∧ pa ≤ 32 * p ∧ 32 * p + 32 ≤ pa + bs.length)) := by
  unfold State.homeWrite atomPieces
  generalize hn : bs.length / 32 + 2 = n
  have hcap : bs.length + pa % 32 ≤ 32 * n := by omega
  clear hn
  induction n generalizing s pa bs with
  | zero =>
    have : bs = [] := List.eq_nil_of_length_eq_zero (by omega)
    subst this
    refine ⟨s.poison, s.lost, s.link.dirty, s.strands, s.bundles, rfl, ?_, ?_⟩
    · intro p; simp only [List.length_nil]; exact ⟨fun h => ⟨h, by omega⟩, fun h => h.1⟩
    · intro p; simp only [List.length_nil]; exact ⟨fun h => ⟨h, by omega⟩, fun h => h.1⟩
  | succ n ih =>
    unfold splitAtoms
    by_cases he : bs = []
    · subst he
      refine ⟨s.poison, s.lost, s.link.dirty, s.strands, s.bundles, rfl, ?_, ?_⟩
      · intro p; simp only [List.length_nil]; exact ⟨fun h => ⟨h, by omega⟩, fun h => h.1⟩
      · intro p; simp only [List.length_nil]; exact ⟨fun h => ⟨h, by omega⟩, fun h => h.1⟩
    · rw [if_neg (by simpa using he), List.foldl_cons]
      dsimp only
      obtain ⟨q, l, dd, ss, bb, e, hq, hl⟩ := s.homeWriteAtom_parts pa (bs.take (32 - pa % 32)) strong
      generalize hk : 32 - pa % 32 = k at *
      have hd : (bs.drop k).length = bs.length - k := List.length_drop ..
      have htk : (bs.take k).length = min k bs.length := List.length_take ..
      obtain ⟨q', l', dd', ss', bb', e', hq', hl'⟩ := ih (s.homeWriteAtom pa (bs.take k) strong) (pa + k) (bs.drop k) (by omega)
      refine ⟨q', l', dd', ss', bb', ?_, ?_, ?_⟩
      · rw [e', e]
        dsimp only
        have : writeBytes (writeBytes s.mem pa (bs.take k)) (pa + k) (bs.drop k) = writeBytes s.mem pa bs := by
          by_cases hle : k ≤ bs.length
          · exact writeBytes_split _ _ _ _ hle
          · rw [List.take_of_length_le (by omega), List.drop_of_length_le (by omega)]; rfl
        rw [this]
      · intro p
        rw [hq', e]
        dsimp only
        rw [hq, htk, hd]
        constructor
        · rintro ⟨⟨h1, h2⟩, h3⟩
          exact ⟨h1, by omega⟩
        · rintro ⟨h1, h2⟩
          exact ⟨⟨h1, by omega⟩, by omega⟩
      · intro p
        rw [hl', e]
        dsimp only
        rw [hl, htk, hd]
        by_cases hs : strong = true
        · simp only [hs, true_and]
          constructor
          · rintro ⟨⟨h1, h2⟩, h3⟩
            exact ⟨h1, by omega⟩
          · rintro ⟨h1, h2⟩
            exact ⟨⟨h1, by omega⟩, by omega⟩
        · simp [hs]

theorem State.laneDone_only (s : State) (r : XRead) (x m : Nat) : ∃ ss, s.laneDone r x m = { s with strands := ss } := by
  unfold State.laneDone
  split
  · exact ⟨_, rfl⟩
  · exact ⟨s.strands, rfl⟩

theorem State.laneDone_keeps (s : State) (r : XRead) (x m : Nat) :
    (s.laneDone r x m).xreads = s.xreads ∧ (s.laneDone r x m).mem = s.mem ∧ (s.laneDone r x m).hg = s.hg := by
  obtain ⟨ss, e⟩ := s.laneDone_only r x m
  rw [e]
  exact ⟨rfl, rfl, rfl⟩

theorem State.fillL1_keeps (s : State) (d c atom : Nat) (v : Vec) (m h : Nat) :
    (s.fillL1 d c atom v m h).xreads = s.xreads ∧ (s.fillL1 d c atom v m h).mem = s.mem ∧ (s.fillL1 d c atom v m h).hg = s.hg := by
  have cache : ∀ (t : State) e f src n who, (State.noteCache t e f src n who).xreads = t.xreads ∧ (State.noteCache t e f src n who).mem = t.mem ∧
      (State.noteCache t e f src n who).hg = t.hg := by
    intro t e f src n who
    rw [State.noteCache_only]
    exact ⟨rfl, rfl, rfl⟩
  unfold State.fillL1
  dsimp only
  exact ⟨(cache ..).1.trans (cache ..).1, (cache ..).2.1.trans (cache ..).2.1, (cache ..).2.2.trans (cache ..).2.2⟩

theorem State.noteRead_keeps (s : State) (d : Nat) (c : Option Nat) (pa : Nat) (pl : L2Place) (v : Vec) (m : Nat) :
    (s.noteRead d c pa pl v m).xreads = s.xreads ∧ (s.noteRead d c pa pl v m).mem = s.mem ∧ (s.noteRead d c pa pl v m).hg = s.hg := by
  have cache : ∀ (t : State) e f src n who, (State.noteCache t e f src n who).xreads = t.xreads ∧ (State.noteCache t e f src n who).mem = t.mem ∧
      (State.noteCache t e f src n who).hg = t.hg := by
    intro t e f src n who
    rw [State.noteCache_only]
    exact ⟨rfl, rfl, rfl⟩
  have stay : ∀ {a b : State}, (b.xreads = a.xreads ∧ b.mem = a.mem ∧ b.hg = a.hg) → (a.xreads = s.xreads ∧ a.mem = s.mem ∧ a.hg = s.hg) →
      b.xreads = s.xreads ∧ b.mem = s.mem ∧ b.hg = s.hg := fun h g => ⟨h.1.trans g.1, h.2.1.trans g.2.1, h.2.2.trans g.2.2⟩
  refine State.noteRead_stages (P := fun t => t.xreads = s.xreads ∧ t.mem = s.mem ∧ t.hg = s.hg) (Q := fun t => t.xreads = s.xreads ∧ t.mem = s.mem ∧ t.hg = s.hg)
    (R := fun t => t.xreads = s.xreads ∧ t.mem = s.mem ∧ t.hg = s.hg) ⟨rfl, rfl, rfl⟩ (fun x e f src n who h => stay (cache x e f src n who) h) (fun _ h => h)
    (fun _ _ _ h => h) (fun x k _ h => stay (x.fillL1_keeps d k (pa / 32) v m pl.hint) h) (fun x e f src n who h => stay (cache x e f src n who) h)
    (fun _ h => h) (fun _ h => h) (fun _ _ _ _ h => h) fun x h => stay ?_ h
  rw [(x.l2Only_l2Touch pa (some pl) false).rest]
  exact ⟨rfl, rfl, rfl⟩

/-- A fill taken or turned away leaves memory and the requests in flight as they are. -/
theorem State.noteFill_keeps (s : State) (r : XRead) (st : Strand) (op : MemOp) (pl : L2Place) (v : Vec) (m : Nat) :
    (s.noteFill r st op pl v m).xreads = s.xreads ∧ (s.noteFill r st op pl v m).mem = s.mem ∧ (s.noteFill r st op pl v m).hg = s.hg := by
  have l2 : ∀ (t : State) w, (t.l2Touch r.pa w false).xreads = t.xreads ∧ (t.l2Touch r.pa w false).mem = t.mem ∧ (t.l2Touch r.pa w false).hg = t.hg := by
    intro t w
    rw [(t.l2Only_l2Touch r.pa w false).rest]
    exact ⟨rfl, rfl, rfl⟩
  unfold State.noteFill
  dsimp only
  generalize hu : (if (!r.noL1 && !r.noRdc) = true then s.noteRead st.at_.die (some st.at_.core) r.pa pl v m
    else if r.noRdc = true then (s.noteCache st.at_.die none 68 1 s.curWho).l2Touch r.pa (some pl) false
    else s.noteRead st.at_.die none r.pa pl v m) = u
  have h : u.xreads = s.xreads ∧ u.mem = s.mem ∧ u.hg = s.hg := by
    subst hu
    split
    · exact s.noteRead_keeps ..
    · split
      · obtain ⟨h1, h2, h3⟩ := l2 (s.noteCache st.at_.die none 68 1 s.curWho) (some pl)
        rw [h1, h2, h3, State.noteCache_only]
        exact ⟨rfl, rfl, rfl⟩
      · exact s.noteRead_keeps ..
  split
  · exact h
  · exact h

theorem State.tagNotes_keeps (s : State) (n : Nat) (w : List (Nat × Bool)) :
    (s.tagNotes n w).xreads = s.xreads ∧ (s.tagNotes n w).mem = s.mem ∧ (s.tagNotes n w).hg = s.hg := ⟨rfl, rfl, rfl⟩

/-- What reaches an operation's home on this device first: the line is used in its L2, and the events belong to the strand's task. -/
theorem State.atomicTouch (s : State) (r : XRead) (n : Nat) (w : List (Nat × Bool)) : s.L2Only ((s.l2Touch r.pa none (r.kind != .load)).tagNotes n w) :=
  ⟨fun d => (s.l2Only_l2Touch r.pa none _).die d, by
    show State.tagNotes _ _ _ = _
    unfold State.tagNotes
    rw [(s.l2Only_l2Touch r.pa none (r.kind != .load)).rest]⟩

/-- An operation packet performed at its home on this device. -/
theorem State.performAtomic_home (s : State) (r : XRead) (data : Vec) (op y x : Nat) (hd : r.dst ≠ 3) (hk : r.kind = .atomic op y)
    (hm : s.atomMark (r.pa / 32) = 0) (hx : atomicNew op r.size (getBytes (s.atomData (r.pa / 32)) (r.pa % 32) r.size) r.wdata y = some x) :
    (s.performAtomic r data).1.mem = writeBytes s.mem r.pa (natBytesLE r.size x) ∧ (s.performAtomic r data).1.xreads = s.xreads ∧
    ((s.performAtomic r data).1.core r.src r.strand.core).outstanding = (s.core r.src r.strand.core).outstanding := by
  unfold State.performAtomic
  dsimp only
  rw [if_neg (by simpa using hd), if_neg (by simpa using hd), if_neg (by simpa using hd)]
  generalize ht : State.tagNotes _ _ _ = t
  have e : t = { s with dies := t.dies, evBuf := t.evBuf } := by
    rw [← ht]
    exact (s.atomicTouch r _ _).rest
  clear ht
  obtain ⟨q, l, dd, ss, bb, e', -⟩ := t.homeWriteAtom_parts r.pa (natBytesLE r.size x) false
  have h1 : t.atomMark (r.pa / 32) = 0 := by rw [e]; exact hm
  have h2 : t.atomData (r.pa / 32) = s.atomData (r.pa / 32) := by rw [e]; rfl
  rw [h1, h2, hk]
  dsimp only
  rw [if_pos rfl, hx]
  dsimp only
  rw [if_neg (by simpa using hd), e']
  refine ⟨by rw [e]; rfl, by rw [e]; rfl, ?_⟩
  show (State.core (State.setCore _ _ _ _) r.src r.strand.core).outstanding = _
  rw [State.core_setCore, e]
  rfl

theorem State.performAtomic_keep (s : State) (r : XRead) (data : Vec) : (s.performAtomic r data).1.xreads = s.xreads := by
  unfold State.performAtomic
  dsimp only
  generalize ht : (if r.dst = 3 then s else State.tagNotes _ _ _) = t
  have e : t.xreads = s.xreads := by
    rw [← ht]
    split
    · rfl
    · rw [(s.atomicTouch r _ _).rest]
  split
  · exact e
  · next x hx =>
    obtain ⟨q, l, dd, ss, bb, e', -⟩ := t.homeWriteAtom_parts r.pa (natBytesLE r.size x) false
    split
    · exact e
    · rw [e']; exact e

theorem State.serveRead_facts (s : State) (r : XRead) (data : Vec) : ∃ t : State, s.serveRead r data = (t.raiseRow r.src r.dst).pokeAccess r.strand ∧
    t.xreads = s.xreads.filter (fun x => x.id != r.id) ∧ (r.atomic = false → t.mem = s.mem ∧ t.hg = s.hg) ∧
    (∀ op y x, r.atomic = true → r.dst ≠ 3 → r.kind = .atomic op y → s.atomMark (r.pa / 32) = 0 →
      atomicNew op r.size (getBytes (s.atomData (r.pa / 32)) (r.pa % 32) r.size) r.wdata y = some x →
      t.mem = writeBytes s.mem r.pa (natBytesLE r.size x) ∧ (t.core r.src r.strand.core).outstanding = (s.core r.src r.strand.core).outstanding - 1) := by
  unfold State.serveRead
  refine ⟨_, rfl, ?_, ?_, ?_⟩
  · dsimp only
    split
    · rw [(State.laneDone_keeps ..).1]
      exact State.performAtomic_keep { s with xreads := s.xreads.filter fun x => x.id != r.id } r data
    · split
      · split
        · split
          · rw [(State.laneDone_keeps ..).1, (State.tagNotes_keeps ..).1, (State.noteFill_keeps ..).1]
          · rw [(State.tagNotes_keeps ..).1, (State.noteFill_keeps ..).1]
        · rfl
      · rfl
  · intro ha
    rw [if_neg (by rw [ha]; decide)]
    dsimp only
    split
    · split
      · split
        · rw [(State.laneDone_keeps ..).2.1, (State.laneDone_keeps ..).2.2, (State.tagNotes_keeps ..).2.1, (State.tagNotes_keeps ..).2.2,
            (State.noteFill_keeps ..).2.1, (State.noteFill_keeps ..).2.2]; exact ⟨rfl, rfl⟩
        · rw [(State.tagNotes_keeps ..).2.1, (State.tagNotes_keeps ..).2.2, (State.noteFill_keeps ..).2.1, (State.noteFill_keeps ..).2.2]; exact ⟨rfl, rfl⟩
      · exact ⟨rfl, rfl⟩
    · exact ⟨rfl, rfl⟩
  · intro op y x ha hd hk hm hx
    rw [if_pos ha]
    dsimp only
    obtain ⟨h1, -, h3⟩ := State.performAtomic_home { s with xreads := s.xreads.filter fun x => x.id != r.id } r data op y x hd hk hm hx
    obtain ⟨ss, e⟩ := State.laneDone_only (State.addOutstanding (State.performAtomic { s with xreads := s.xreads.filter fun x => x.id != r.id } r data).1 r.src (some r.strand.core) (· - 1)) r
        (State.performAtomic { s with xreads := s.xreads.filter fun x => x.id != r.id } r data).2.1 (State.performAtomic { s with xreads := s.xreads.filter fun x => x.id != r.id } r data).2.2
    rw [e]
    refine ⟨h1, ?_⟩
    show (State.core (State.setCore _ _ _ _) r.src r.strand.core).outstanding = _
    rw [State.core_setCore]
    show _ - 1 = _ - 1
    rw [h3]
    rfl

theorem natBytesLE_bytesNat (bs : List Byte) : natBytesLE bs.length (bytesNat bs) = bs := by
  induction bs with
  | nil => rfl
  | cons b bs ih =>
    have hb := b.isLt
    simp only [List.length_cons, natBytesLE, bytesNat]
    have h1 : BitVec.ofNat 8 (b.toNat + 256 * bytesNat bs) = b := by
      apply BitVec.eq_of_toNat_eq
      rw [BitVec.toNat_ofNat]
      omega
    have h2 : (b.toNat + 256 * bytesNat bs) / 256 = bytesNat bs := by omega
    rw [h1, h2, ih]

theorem readBytes_getD (m : List Host.Cell) (a n k : Nat) (h : k < n) : (readBytes m a n).getD k 0 = readByte m (a + k) := by
  induction n generalizing a k with
  | zero => omega
  | succ n ih =>
    unfold readBytes
    cases k with
    | zero => rfl
    | succ k => rw [List.getD_cons_succ, ih _ _ (by omega)]; congr 1; omega

end Sys2Proof.Machine
end

