-- ==== Sys2Proof/Laws/Launch.lean ====
section
/-! SUPPORT. A record accepted, strands placed in slots, and the state after an acquire. -/
namespace Sys2Proof.Machine

theorem State.accept_host (v : State) (r : TaskRec) (va : Nat) (hk : v.task? v.hg.nextKey = none)
    (hc : v.recordReason r ≠ 0 ∨ (TaskRec.ntile r = 0 ∧ TaskRec.epoch r = 0 ∧ TaskRec.graph r = false)) : ∃ (t : State) (k : Task), (v.accept r va none false false).2 = t ∧ k ∈ t.hg.tasks ∧
      k.key = v.hg.nextKey ∧ k.id = v.hg.nextId ∧ k.record = r ∧ k.addr = va ∧ t.hg.nextId = nextIdOf v.hg.nextId ∧ t.hg.hhead = v.hg.hhead ∧
      (v.recordReason r ≠ 0 → k.state = .finishing ∧ k.status = 2 ∧ k.reason = v.recordReason r) ∧ (v.recordReason r = 0 → k.state = .ready ∧ k.credit = 0) := by
  unfold State.accept
  dsimp only
  have hm : ∀ (l : List Task) (key : Nat) (f : Task → Task) (x : Task), x ∈ l → x.key = key → f x ∈ l.map fun t => if t.key = key then f t else t := by
    intro l key f x hx he
    exact List.mem_map.2 ⟨x, hx, if_pos he⟩
  generalize hT : Task.fresh v.hg.nextKey v.hg.nextId r va v.cycle (v.hg.frame.toNat % 2 ^ 16) (Option.isSome (none : Option Strand)) (v.tracedNow none false) = T
  have hTk : T.key = v.hg.nextKey := by rw [← hT]; rfl
  have hTe : T.state = .accepted ∧ T.id = v.hg.nextId ∧ T.record = r ∧ T.addr = va ∧ T.epoch = TaskRec.epoch r ∧ T.spawned = false := by rw [← hT]; exact ⟨rfl, rfl, rfl, rfl, rfl, rfl⟩
  have hin : T ∈ v.hg.tasks ++ [T] := by simp
  rw [show (if (false = true) then 10 else v.recordReason r) = v.recordReason r from if_neg (by decide)]
  by_cases h0 : v.recordReason r = 0
  · rw [if_pos h0]
    obtain h | ⟨hn, he, hg⟩ := hc
    · exact absurd h0 h
    · unfold State.tryAdmit
      have hf : State.task? { v with hg := { v.hg with nextKey := v.hg.nextKey + 1, nextId := nextIdOf v.hg.nextId, tasks := v.hg.tasks ++ [T] } } v.hg.nextKey = some T := by
        unfold State.task? at hk ⊢
        dsimp only
        rw [List.find?_append, hk]
        simp [hTk]
      rw [hf]
      dsimp only
      rw [if_neg (by rw [hTe.1]; simp), hTe.2.2.1, if_pos hn]
      unfold State.enroll
      dsimp only
      rw [hTe.2.2.1, hTe.2.2.2.2.1, hTe.2.2.2.2.2, he, hg]
      rw [if_neg (by simp), if_neg (by simp), if_neg (by simp)]
      unfold State.readyTask
      refine ⟨_, _, rfl, hm _ T.key _ T hin rfl, hTk, hTe.2.1, hTe.2.2.1, hTe.2.2.2.1, rfl, rfl, fun h => absurd h0 h, fun _ => ⟨rfl, rfl⟩⟩
  · rw [if_neg h0]
    unfold State.reject State.finish
    refine ⟨_, _, rfl, hm _ v.hg.nextKey _ _ (hm _ v.hg.nextKey _ T hin hTk) hTk, hTk, hTe.2.1, hTe.2.2.1, hTe.2.2.2.1, rfl, rfl, fun _ => ⟨rfl, rfl, rfl⟩, fun h => absurd h h0⟩

theorem filter_mapped_key (l : List Task) (f : Task → Task) (key : Nat) (hf : ∀ x, (f x).key = x.key) :
    (l.map fun t => if t.key = key then f t else t).filter (fun x => x.key != key) = l.filter fun x => decide (x.key ≠ key) := by
  induction l with
  | nil => rfl
  | cons x l ih =>
    rw [List.map_cons, List.filter_cons, List.filter_cons, ih]
    by_cases h : x.key = key
    · rw [if_pos h, if_neg (by rw [hf, h]; simp), if_neg (by rw [h]; simp)]
    · rw [if_neg h, if_pos (by simpa using h), if_pos (by simpa using h)]

theorem State.acquire_only (s : State) (d c k : Nat) (b : Option Nat) (w : SRef) :
    ∃ cs ds rs ev, s.acquire d c k b w = { s with cores := cs, dies := ds, xreads := rs, evBuf := ev } := by
  unfold State.acquire
  dsimp only
  generalize hn : s.noteCache d (some c) 10 _ _ = x
  have h : x = { s with evBuf := x.evBuf } := by
    rw [← hn, State.noteCache_only]
  clear hn
  rw [h]
  split
  · exact ⟨_, _, _, x.evBuf, rfl⟩
  · exact ⟨_, _, _, x.evBuf, rfl⟩

theorem State.placeStrands_cons (s : State) (t : Task) (d c h : Nat) (hd : BitVec 16 × Nat) (sid mid a : Nat) (r : List Nat) : ∃ (u : State) (x : Strand),
    s.placeStrands t d c h hd sid mid (a :: r) = u.placeStrands t d c h hd (sid + 1) (mid + 1) r ∧ u.strands = s.strands ++ [x] ∧ u.mg = s.mg ∧
    ∃ xs xv, x = Strand.launch t s.mg.tag { die := d, core := c, slot := a } h mid sid s.cycle hd xs xv := by
  exact ⟨{ s.setCore d c { s.core d c with leftS := (grantBlocks (0#32) 32 t.pdom (s.core d c).leftS s.free 1).2.1, leftV := (grantBlocks (0#256) 16 t.pdom (s.core d c).leftV (grantBlocks (0#32) 32 t.pdom (s.core d c).leftS s.free 1).2.2 1).2.1 } with
      free := (grantBlocks (0#256) 16 t.pdom (s.core d c).leftV (grantBlocks (0#32) 32 t.pdom (s.core d c).leftS s.free 1).2.2 1).2.2,
      strands := s.strands ++ [Strand.launch t s.mg.tag { die := d, core := c, slot := a } h mid sid s.cycle hd (grantBlocks (0#32) 32 t.pdom (s.core d c).leftS s.free 1).1 (grantBlocks (0#256) 16 t.pdom (s.core d c).leftV (grantBlocks (0#32) 32 t.pdom (s.core d c).leftS s.free 1).2.2 1).1] },
    _, rfl, rfl, rfl, _, _, rfl⟩

/-- Strands placed in slots of a core, in order. -/
theorem State.placeStrands_new (s : State) (t : Task) (d c h : Nat) (hd : BitVec 16 × Nat) (sid mid : Nat) (slots : List Nat) :
    ∃ new, (s.placeStrands t d c h hd sid mid slots).strands = s.strands ++ new ∧ new.map (fun x => x.at_.slot) = slots ∧ ∀ i x, new[i]? = some x →
      x.at_.die = d ∧ x.at_.core = c ∧ x.task = t.key ∧ x.bundle = some (h, mid + i) ∧ x.sid = BitVec.ofNat 32 (sid + i) ∧
      x.pc = BitVec.ofNat 57 (TaskRec.entry t.record + 32 + 4 * hd.2) ∧ x.native = decide (hd.1 = s.mg.tag) ∧ x.blocked = none ∧ x.level = false ∧ x.nsb = 1 ∧ x.nvb = 1 := by
  induction slots generalizing s sid mid with
  | nil => exact ⟨[], (List.append_nil _).symm, rfl, fun i x h => by simp at h⟩
  | cons a r ih =>
    obtain ⟨u, x0, e, hus, hut, xs, xv, hx⟩ := s.placeStrands_cons t d c h hd sid mid a r
    rw [e]
    obtain ⟨new, h1, h2, h3⟩ := ih u (sid + 1) (mid + 1)
    refine ⟨x0 :: new, ?_, ?_, ?_⟩
    · rw [h1, hus, List.append_assoc]; rfl
    · rw [List.map_cons, h2, hx]; rfl
    · intro i x hi
      cases i with
      | zero =>
        have hxx : x0 = x := by simpa using hi
        rw [← hxx, hx]
        exact ⟨rfl, rfl, rfl, rfl, rfl, rfl, rfl, rfl, rfl, rfl, rfl⟩
      | succ i =>
        obtain ⟨g1, g2, g3, g4, g5, g6, g7, g8⟩ := h3 i x (by simpa using hi)
        rw [hut] at g7
        refine ⟨g1, g2, g3, ?_, ?_, g6, g7, g8⟩
        · rw [g4]; congr 2; omega
        · rw [g5]; congr 1; omega

end Sys2Proof.Machine
end

