-- ==== Sys2Proof/Laws/Manage.lean ====
section
/-! SUPPORT. The power state, the security state and what removes copies; slot 3 of the clock rows after pairing. -/
namespace Sys2Proof.Machine

theorem State.leaveIdle_only (s : State) : ∃ p m, s.leaveIdle = { s with mg := { s.mg with pwrCur := p }, port := m } := by
  unfold State.leaveIdle State.setPower State.raiseSecurity State.raiseMsix
  split
  · split
    · exact ⟨_, _, rfl⟩
    · dsimp only
      split <;> exact ⟨_, _, rfl⟩
  · exact ⟨_, _, rfl⟩

theorem State.setPower_facts (s : State) (p : BitVec 2) (h : s.mg.pwrCur ≠ p) : (s.setPower p).mg.pwrCur = p ∧ (s.setPower p).port.ibi = s.port.ibi + 1 ∧
    (s.booted = true → 2 ∈ (s.setPower p).port.msix) ∧ s.setPower p = { s with mg := (s.setPower p).mg, port := (s.setPower p).port } := by
  unfold State.setPower
  rw [if_neg h]
  unfold State.raiseSecurity
  by_cases hb : s.booted = true
  · rw [State.raiseMsix_booted (by exact hb)]
    exact ⟨rfl, rfl, fun _ => (mem_insertNat ..).2 (.inr rfl), rfl⟩
  · unfold State.raiseMsix
    rw [if_neg (by exact hb)]
    exact ⟨rfl, rfl, fun h => absurd h hb, rfl⟩

theorem State.raiseSecurity_only (s : State) : ∃ m, s.raiseSecurity = { s with port := m } := by
  unfold State.raiseSecurity State.raiseMsix
  split <;> exact ⟨_, rfl⟩

theorem State.dropCopies_only (s : State) (lo hi : Nat) :
    ∃ cs ds rs e, s.dropCopies lo hi = { s with cores := cs, dies := ds, xreads := rs, evBuf := e } := by
  unfold State.dropCopies
  dsimp only
  generalize hu : State.spoilFills _ _ _ = u
  obtain ⟨e, he⟩ := u.noteKills_only s
  refine ⟨u.cores, u.dies, u.xreads, e, he.trans ?_⟩
  subst hu
  rfl

theorem bootOf_bit (b : Nat × Nat) (c : Bool) : (bootOf b c).getLsbD 0 = decide (b.1 = 0 ∨ b.2 = 0) := by
  have key : ∀ x y z, (BitVec.ofNat 64 (x + y * 2 + z * 2 ^ 8)).getLsbD 0 = decide (x % 2 = 1) := by
    intro x y z
    rw [BitVec.getLsbD_ofNat]
    simp only [Nat.testBit_zero, Nat.zero_lt_succ, decide_true, Bool.true_and]
    exact decide_eq_decide.2 (by omega)
  unfold bootOf
  dsimp only
  rw [show ∀ x y a d e : Nat, x + y * 2 + a * 2 ^ 8 + d * 2 ^ 12 + (if c = true then 2 ^ 16 else 0) = x + y * 2 + (a + d * 2 ^ 4 + (if c = true then 2 ^ 8 else 0)) * 2 ^ 8 from fun x y a d e => by cases c <;> simp <;> omega, key]
  · by_cases h : b.1 = 0 ∨ b.2 = 0
    · rw [if_pos (by simpa using h)]; simp [h]
    · rw [if_neg (by simpa using h)]; simp [h]
  · exact 0

theorem State.clearSlot3_dies (s : State) : ∀ q ∈ s.clearSlot3.dies, q.1 ≠ 3 → q.2.applied.getD 3 0 = 0 ∧ ∀ r ∈ q.2.rows, r.getD 3 0 = 0 := by
  intro q hq h3
  unfold State.clearSlot3 at hq
  obtain ⟨⟨n, x⟩, -, rfl⟩ := List.mem_map.1 hq
  dsimp only at h3 ⊢
  by_cases hn : n = 3
  · rw [if_pos hn] at h3
    exact absurd hn h3
  · rw [if_neg hn]
    dsimp only
    refine ⟨?_, fun r hr => ?_⟩
    · simp only [List.getD_eq_getElem?_getD, List.getElem?_set]
      simp
      split <;> simp
    · obtain ⟨y, -, rfl⟩ := List.mem_map.1 hr
      simp only [List.getD_eq_getElem?_getD, List.getElem?_set]
      simp
      split <;> simp

end Sys2Proof.Machine
end

