-- ==== Sys2Proof/Laws/Results.lean ====
section
/-! SUPPORT. The vector file and the reuse table beside an instruction (04 R80 to R85), the counts of mailboxes (06 R118), fills that are not
installed (07 R154), and what a strand has issued (06 R135): all that each of these operations can change. -/
namespace Sys2Proof.Machine

/-- The reuse table takes a computation: one core and the events to count. -/
theorem State.noteCompute_frame (s t : State) (r : SRef) (i : Instr) :
    ∃ cs ev, s.noteCompute t r i = { t with cores := cs, evBuf := ev } := by
  unfold State.noteCompute
  split
  · split
    · exact ⟨_, _, rfl⟩
    · exact ⟨t.cores, t.evBuf, rfl⟩
  · exact ⟨t.cores, t.evBuf, rfl⟩

/-- The vector file is brought up to date: cores and the events to count. -/
theorem State.nameVectors_frame (s : State) (w : Option (SRef × Nat)) (re : Bool) :
    ∃ cs ev, s.nameVectors w re = { s with cores := cs, evBuf := ev } := ⟨_, _, rfl⟩

/-- What an instruction leaves in the vector file and the reuse table: cores and the events to count. -/
theorem State.noteResults_frame (s t : State) (r : SRef) (i : Instr) :
    ∃ cs ev, s.noteResults t r i = { t with cores := cs, evBuf := ev } := by
  obtain ⟨a, b, h⟩ := s.noteCompute_frame t r i
  obtain ⟨c, d, g⟩ := (s.noteCompute t r i).nameVectors_frame (s.writtenBy t r i) false
  exact ⟨c, d, by unfold State.noteResults; rw [g, h]⟩

/-- At the end of a cycle the vector file changes nothing else. -/
theorem State.settleVectors_frame (s : State) : ∃ cs ev, s.settleVectors = { s with cores := cs, evBuf := ev } := ⟨_, _, rfl⟩

/-- The count that a mailbox returns reaches cores alone. -/
theorem State.returnCount_frame (s : State) (d c n : Nat) : ∃ cs, s.returnCount d c n = { s with cores := cs } := by
  have aux : ∀ (f : State → Nat → State), (∀ t o, ∃ k : Core, f t o = t.setCore d o k) → ∀ (l : List Nat) (t : State),
      ∃ cs, l.foldl f t = { t with cores := cs } := by
    intro f hf l
    induction l with
    | nil => exact fun t => ⟨t.cores, rfl⟩
    | cons o l ih =>
      intro t
      obtain ⟨k, hk⟩ := hf t o
      obtain ⟨cs, h⟩ := ih (f t o)
      exact ⟨cs, by rw [List.foldl_cons, h, hk]; rfl⟩
  exact aux _ (fun _ _ => ⟨_, rfl⟩) _ s

/-- Marking fills changes nothing but the marks of requests in flight. -/
theorem State.spoilFills_frame (s : State) (f g : XRead → Bool) : s.spoilFills f g = { s with xreads := (s.spoilFills f g).xreads } := rfl

/-- A fill that an invalidation meets is not installed. -/
theorem State.spoilFills_marks {s : State} {f g : XRead → Bool} {r : XRead} (h : r ∈ (s.spoilFills f g).xreads) :
    ∃ x ∈ s.xreads, r = { x with noL1 := x.noL1 || f x, noRdc := x.noRdc || g x } := by
  obtain ⟨x, hx, rfl⟩ := List.mem_map.mp h
  exact ⟨x, hx, rfl⟩

@[simp] theorem State.spoilFills_mem (s : State) (f g : XRead → Bool) : (s.spoilFills f g).mem = s.mem := rfl
@[simp] theorem State.spoilFills_cores (s : State) (f g : XRead → Bool) : (s.spoilFills f g).cores = s.cores := rfl
@[simp] theorem State.spoilFills_dies (s : State) (f g : XRead → Bool) : (s.spoilFills f g).dies = s.dies := rfl
@[simp] theorem State.spoilFills_strands (s : State) (f g : XRead → Bool) : (s.spoilFills f g).strands = s.strands := rfl
@[simp] theorem State.spoilFills_bundles (s : State) (f g : XRead → Bool) : (s.spoilFills f g).bundles = s.bundles := rfl
@[simp] theorem State.spoilFills_xwrites (s : State) (f g : XRead → Bool) : (s.spoilFills f g).xwrites = s.xwrites := rfl
@[simp] theorem State.spoilFills_cycle (s : State) (f g : XRead → Bool) : (s.spoilFills f g).cycle = s.cycle := rfl

/-- What is noted once a strand has issued: the strand itself and the claims of part moves. -/
theorem State.hasIssued_frame (s : State) (r : SRef) :
    ∃ ss ms, s.hasIssued r = { s with strands := ss, link := { s.link with moves := ms } } := by
  unfold State.hasIssued
  split
  · simp only []
    split
    · exact ⟨_, s.link.moves, rfl⟩
    · exact ⟨_, _, rfl⟩
  · exact ⟨s.strands, _, rfl⟩

end Sys2Proof.Machine
end

