-- ==== Sys2Proof/Laws/Turn.lean ====
section
/-! SUPPORT. One step of a strand whose turn it is: its fetches, and its instruction (02 R26, 08 R164, 20 R355 to R357). -/
namespace Sys2Proof.Machine

/-- Fetches that give an instruction's words reach it (R164). -/
theorem Fetches.fetchFrom {r : SRef} {n : Nat} {s x : State} {ws : List Word} (h : Fetches r n s ws x) :
    ∀ (pre : List Word) (m : Nat) (i : Instr), pre.length = n → ws.length ≤ m → (∀ k < ws.length, decodeWords (pre ++ ws.take k) = .truncated) →
      ws ≠ [] → decodeWords (pre ++ ws) = .instr i → s.fetchFrom r pre m = .got x i := by
  induction h with
  | nil => intro _ _ _ _ _ _ h; exact absurd rfl h
  | @cons n s u t st w ws hs hf _ ih =>
    intro pre m i hp hm ht _ hi
    obtain ⟨m, rfl⟩ : ∃ k, m = k + 1 := ⟨m - 1, by simp at hm; omega⟩
    subst hp
    have e : pre ++ w :: ws = (pre ++ [w]) ++ ws := by simp
    cases ws with
    | nil =>
      rename_i h
      cases h
      simp only [State.fetchFrom, hs, hf, hi]
    | cons v ws =>
      have hw : decodeWords (pre ++ [w]) = .truncated := by simpa using ht 1 (by simp)
      simp only [State.fetchFrom, hs, hf, hw]
      refine ih (pre ++ [w]) m i (by simp) (by simpa using hm) (fun k hk => ?_) (by simp) (by rw [← e]; exact hi)
      have := ht (k + 1) (by simp at hk ⊢; omega)
      simpa using this

/-- Fetches whose last word makes the sequence no instruction take ILLEGAL (R355). -/
theorem Fetches.illegal {r : SRef} {n : Nat} {s x : State} {ws : List Word} (h : Fetches r n s ws x) :
    ∀ (pre : List Word) (m : Nat) (b : Word) (st : Strand), pre.length = n → ws.length ≤ m → (∀ k < ws.length, decodeWords (pre ++ ws.take k) = .truncated) →
      ws ≠ [] → decodeWords (pre ++ ws) = .illegal b → x.strandAt r = some st → s.fetchFrom r pre m = .stop (x.raise st cIllegal (b.zeroExtend 64)) := by
  induction h with
  | nil => intro _ _ _ _ _ _ _ h; exact absurd rfl h
  | @cons n s u t st w ws hs hf _ ih =>
    intro pre m b st' hp hm ht _ hi hx
    obtain ⟨m, rfl⟩ : ∃ k, m = k + 1 := ⟨m - 1, by simp at hm; omega⟩
    subst hp
    have e : pre ++ w :: ws = (pre ++ [w]) ++ ws := by simp
    cases ws with
    | nil =>
      rename_i h
      cases h
      simp only [State.fetchFrom, hs, hf, hi, hx]
    | cons v ws =>
      have hw : decodeWords (pre ++ [w]) = .truncated := by simpa using ht 1 (by simp)
      simp only [State.fetchFrom, hs, hf, hw]
      refine ih (pre ++ [w]) m b st' (by simp) (by simpa using hm) (fun k hk => ?_) (by simp) (by rw [← e]; exact hi) hx
      have := ht (k + 1) (by simp at hk ⊢; omega)
      simpa using this

/-- A word of an atom that the strand does not hold is fetched (R357). -/
theorem State.fetchWord_fresh {s : State} {st : Strand} {va : Nat} (hb : ∀ v, st.fbuf ≠ some (va / 32, v)) :
    s.fetchWord st va = if addrKind va ≠ .virt then .stop (s.raise st cAddr (BitVec.ofNat 64 va)) else
      match s.tlbLeaf st.at_.die (some st.at_.core) st.pdom.toNat (pageOf va) with
      | none => .stop (s.mergeMiss st 2 va)
      | some l =>
        if !s.usable l (partOf va) then .stop (s.mergeMiss st 2 va)
        else if !l.x then .stop (s.raise st cPermX (BitVec.ofNat 64 va))
        else
          match l.target st.pdom.toNat st.partid.toNat va with
          | .phys pa g b p =>
            (match (s.tlbUse st.at_.die st.at_.core st.pdom.toNat (pageOf va)).unitAtom st.at_.die (some st.at_.core) pa { group := g, base := b, partid := p, hint := 0 } with
             | none => .stop (s.putStrand (st.block s.cycle 0 false .retry))
             | some (v, m, t) =>
               let s := t.tagNotes s.evBuf.length (s.who st.task)
               if m ≠ 0 then .stop (s.raise st (markCause m) (BitVec.ofNat 64 va))
               else .got (s.putStrand { st with fbuf := some (va / 32, v) }) (atomWord v va))
          | _ =>
            .stop ((s.awaitPart st.at_ st.pdom.toNat va).putStrand (st.block s.cycle 0 false (.fetchMove st.pdom.toNat (pageOf va) (partOf va)))) := by
  unfold State.fetchWord
  cases h : st.fbuf with
  | none => rfl
  | some p =>
    obtain ⟨a, v⟩ := p
    dsimp only
    rw [if_neg (fun e => hb v (by rw [h, e]))]
    try rfl

theorem step_weave {s u : State} {r : SRef} {rest : List SRef} (ho : s.off = false) (hw : s.weave = r :: rest)
    (hu : u = { s with weave := rest }) :
    step s = match u.turn r with
      | .done s => .next s.afterIssue
      | .run s i => after (fun t => ((s.noteResults t r i).hasIssued r).afterIssue) (exec i s) := by
  subst hu
  unfold step
  rw [if_neg (by simp [ho]), hw]
  rfl

/-- A strand that may issue fetches (R26). -/
theorem State.MayIssue.turn {s : State} {st : Strand} {r : SRef} (h : s.MayIssue st) (hr : st.at_ = r) : s.turn r = match s.fetchInstr r with
    | .stop s => .done s
    | .got s i => (match s.strandAt r with
      | none => .done s
      | some st =>
        if st.meetsHeld (s.lastWord st st.pc.toNat 3) then .done (s.settleDue st.closeWindows)
        else if writesVector i.word && (s.core st.at_.die st.at_.core).fileFull then .done (s.putStrand { st with readyAt := s.cycle + 1 })
        else
          let (s, stop) := match s.comparator st with
            | some n => s.breakpoint st (128 + n)
            | none => (s, false)
          if stop then .done s
          else
            let s := if st.again then s else (s.noteStart st).note st.at_.die (some st.at_.core) 2 1 st.task
            .run { s with cur := some r } i) := by
  subst hr
  unfold State.turn
  rw [h.here]
  dsimp only
  rw [if_neg (by simp [h.goes]), if_neg (by simp [h.owes]), if_neg (by simp [h.owes])]
  try rfl

end Sys2Proof.Machine
end

