-- ==== Sys2Proof/Tests/Slice0.lean ====
section
/-! SUPPORT. Tests: ill-formed terms that each check refuses, words written out from the encodings of the spec, small steps worked by hand
from the spec, and for every statement with hypotheses a state and operands that meet them. -/
namespace Sys2Proof.Tests
open Sys2Proof Sys2Proof.Machine
-- one test after another: tests that wait for each other's checks would each hold a thread
set_option Elab.async false

/-! ### Ill-formed instructions (08 R158, R159, R162, R167, R168; 20 R355) -/

/-- Events have no encoding; a pair is 0 to 126; a weak access has SCOPE 0. -/
theorem test_wf_refuses_pairs_and_orders :
    [Instr.powerOnReset, .retPair 127, .atomAdd none 0 1 127 0 0, .atomCas none 0 127 2 0 0, .engqMx 127, .cclr 127, .tspawn 1 127,
      .rwrScalar 0 1 127, .lds none 0 1 2 2 0 1 0, .lds none 0 127 2 3 0 0 0, .sts none 127 2 3 0 0 0, .stv none none 1 127 0 0 0 0,
      .mwatch none 127, .pref none 127 0].all (fun i => !i.wf) = true := by decide

/-- The selects and codes of SRD, FCVT, FRND, FCLASS and BCOLL. -/
theorem test_wf_refuses_codes :
    [Instr.srd 1 15, .srd 127 6, .fcvt none 0 1 2 0 0, .fcvt none 6 1 2 7 0, .fcvt none 12 1 2 0 0, .fcvt none 0 1 2 1 4, .fcvt none 8 1 2 0 6,
      .frnd none 4 1 2 0, .frnd none 0 1 2 3, .fclass none 1 2 3, .radd 0 1 2 1, .rmin 0 1 2 5, .scanadd 0 1 2 8].all (fun i => !i.wf) = true := by
  decide

/-- Windows, counts, states and sets outside their range. -/
theorem test_wf_refuses_ranges :
    [Instr.binfo 1 3, .barSync 1 0 2, .barArrive 1 0 2, .barQuery 127 1 0, .ballot 1 0 8, .ballot 127 0 0, .qsend 0 0 1, .wbases 8, .wbasev 16,
      .xacqs 8, .xacqv 16, .xrels 8, .xrelv 16, .twait 1 4, .tqrd 1 2 3, .fork 0 1 2, .fork 1 127 2, .rdv 1 127].all (fun i => !i.wf) = true := by
  decide

/-- CSR numbers and pairs, the forms of CMAINT, and what an IMM prefix holds. -/
theorem test_wf_refuses_csrs_and_prefixes :
    [Instr.csrr 1 0x002, .csrr 127 0x011, .csrw 1 0x390, .l1inv 2 0, .l1inv 127 1, .rdcinv 1 2, .tlbinv 1 2 1, .tlbinv 1 0 2, .shoot 1 127 0,
      .shoot 0 0 3, .li (some 0x40000) 1 0, .ldg none (some 0x60) 0 1 2 3, .ldg none (some 0x44) 0 1 2 3, .stg none (some 0xC0) 1 2 3].all
      (fun i => !i.wf) = true := by decide

/-- The same instructions within their limits. -/
theorem test_wf_accepts :
    [Instr.retPair 126, .srd 126 6, .fcvt none 1 1 2 0 4, .frnd none 5 1 2 2, .radd 0 1 2 7, .binfo 1 2, .barSync 1 1 2, .ballot 126 0 7,
      .qsend 7 0x40 1, .wbases 7, .twait 1 3, .fork 8 126 0, .csrr 126 0x34F, .l1inv 126 1, .shoot 0 0 2, .li (some 0x3FFFF) 1 0,
      .ldg none (some 0x54) 0 1 2 3].all Instr.wf = true := by decide

/-! ### Words (08 R158 to R166, and the examples of 08 to 11 and 14), one and more of every group of majors -/

/-- Integer and control majors 0x01 to 0x0D. The words of DIVU, LI, ADD and SRD stand in R180 and R169. -/
theorem test_words_integer :
    decodeWords [0b0000001_1010_0000101_0000011_0000100] = .instr (.saluSar 5 3 4) ∧
    decodeWords [0x0400C1FB] = .instr (.saluiAdd none 3 3 0x7B) ∧
    decodeWords [0x0600C00F] = .instr (.li none 3 15) ∧
    decodeWords [0b0000011_0001_0000101_10000000000001] = .instr (.lih 5 0x2001) ∧
    decodeWords [0b0000100_0101_0000101_0000011_0000100] = .instr (.bfi 5 3 4) ∧
    decodeWords [0b0000100_0110_0000101_0000011_0000000] = .instr (.sextb 5 3) ∧
    decodeWords [0x0C614307] = .instr (.divu 3 5 6 7) ∧
    decodeWords [0b0001000_1111_0000101_0000011_0000100] = .instr (.remu 15 5 3 4) ∧
    decodeWords [0b0001001_0111_0000101_0000011_0000100] = .instr (.scmpLeu 5 3 4) ∧
    decodeWords [0x14804180] = .instr (.scmpiGt none 1 3 0) ∧
    decodeWords [0b0001011_0011_0000101_0000011_0000100] = .instr (.pandn 5 3 4) ∧
    decodeWords [0b0001100_1010_0000101_0000011_0000100] = .instr (.sel 1 2 5 3 4) ∧
    decodeWords [0b0001101_0010_0000101_0000011_0000110] = .instr (.insr 5 3 6) ∧
    decodeWords [0x1AA28300] = .instr (.srd 10 6) ∧
    decodeWords [0b0001101_1001_0000101_0000011_0000000] = .instr (.pwr 5 3) := by
  and_intros <;> rfl

/-- Vector majors 0x10 to 0x18; VDOT4's word stands in R187. -/
theorem test_words_vector :
    decodeWords [0xFC000002, 0x20014307] = .instr (.valuAdd (some { sense := 0, pred := 2 }) 5 6 7) ∧
    decodeWords [0b1111110_000000000000000000000_1_101, 0b1111111_0000000000000000000000011, 0b0010001_0101_0000101_0000011_0000100] =
      .instr (.valuiAdds (some { sense := 1, pred := 5 }) (some 3) 5 3 4) ∧
    decodeWords [0x24C08184] = .instr (.vdot4 none 2 3 4) ∧
    decodeWords [0b0010011_1111_0000101_0000011_0000100] = .instr (.vcmpLtuI8 none 5 3 4) ∧
    decodeWords [0b0010100_0011_0000101_0000011_0000100] = .instr (.ext none 5 3 4) ∧
    decodeWords [0b0010101_1100_0000101_0000011_0000100] = .instr (.vpackAddus none 1 5 3 4) ∧
    decodeWords [0b0010110_0100_0000101_0000011_0000000] = .instr (.redmaxu none 5 3) ∧
    decodeWords [0b0010111_0111_0000101_0000011_0000100] = .instr (.vbitSar none 5 3 4) ∧
    decodeWords [0b0011000_1111_0000101_0000011_0000100] = .instr (.vsel none 1 7 5 3 4) := by
  and_intros <;> rfl

/-- Float majors 0x20 to 0x29; the words of FDIV, FMA, FCMP, FCVT and FALU16 stand in R169, R204, R205, R209 and R214. -/
theorem test_words_float :
    decodeWords [0b0100000_0111_0000101_0000011_0000100] = .instr (.fsgn none 5 3 4) ∧
    decodeWords [0x42010286] = .instr (.fma none 4 5 6) ∧
    decodeWords [0x4520C082] = .instr (.fcmpF16Lt none 3 1 2) ∧
    decodeWords [0b0100011_0010_0000101_0000011_0000111] = .instr (.tanh none 2 5 3) ∧
    decodeWords [0x48220289] = .instr (.fdiv none 1 8 5 9) ∧
    decodeWords [0x4A81C406] = .instr (.fcvt none 4 7 8 0 6) ∧
    decodeWords [0b0100110_0011_0000101_0000011_0000010] = .instr (.frnd none 3 5 3 2) ∧
    decodeWords [0b0100111_0000_0000101_0000011_0000001] = .instr (.fclass none 5 3 1) ∧
    decodeWords [0b0101000_0101_0000101_0000011_0000100] = .instr (.dot8I4 none 5 3 4) ∧
    decodeWords [0x53A2450B] = .instr (.falu16Fma none 1 9 10 11) := by
  and_intros <;> rfl

/-- Control majors 0x30 to 0x35; the words of BRP, RET and RCV stand in R169, R194 and R196. -/
theorem test_words_control :
    decodeWords [0b1111111_1000000000000000000000000, 0b0110000_0000_000000000000000000011] = .instr (.br (some 0x1000000) 3) ∧
    decodeWords [0x623FFFF9] = .instr (.brp none 0 1 0x1FFFF9) ∧
    decodeWords [0b0110010_0000_000000000000000011010] = .instr (.call none 26) ∧
    decodeWords [0b0110011_0001_0000000_0000011_0000000] = .instr (.jalr 3) ∧
    decodeWords [0x66400000] = .instr .ret ∧ decodeWords [0x66400A01] = .instr (.retPair 20) ∧
    decodeWords [0x68000000] = .instr .rcv ∧ decodeWords [0x6A000000] = .instr .exit ∧
    decodeWords [0b0110101_0010_0000000_0000011_0000000] = .instr (.sleep 3) := by
  and_intros <;> rfl

/-- Memory majors 0x40 to 0x4B; the words of LDS, LDG, ATOM and FENCE stand in R169, R218, R220 and R222. -/
theorem test_words_memory :
    decodeWords [0xFE000100, 0x80410554] = .instr (.lds (some 0x100) 2 4 10 2 1 1 0) ∧
    decodeWords [0b1000001_0011_0000101_0000010_01_0_00_01] = .instr (.ldv none none 3 5 2 1 0 0 1) ∧
    decodeWords [0x8480C505] = .instr (.ldg none none 4 3 10 5) ∧
    decodeWords [0b1000011_0000_0000101_0000010_11_1_11_00] = .instr (.sts none 5 2 3 1 3 0) ∧
    decodeWords [0b1000100_0000_0000101_0000010_00_1_10_10] = .instr (.stv none none 5 2 0 1 2 2) ∧
    decodeWords [0b1111111_0000000000000000001010100, 0b1000101_0000_0000101_0000010_0000100] = .instr (.stg none (some 0x54) 5 2 4) ∧
    decodeWords [0b1000110_0000_0000000_0000010_0000011] = .instr (.pref none 2 3) ∧
    decodeWords [0x8E21864E] = .instr (.atomCas none 1 6 12 1 2) ∧
    decodeWords [0b1001000_0010_0000101_0000010_1011_0_01] = .instr (.atomvCasW128 none 2 5 2 0 1) ∧
    decodeWords [0b1001001_0000_0000000_0000010_0000000] = .instr (.mwatch none 2) ∧
    decodeWords [0x95200000] = .instr (.fenceRel 2) ∧ decodeWords [0b1001011_0000_0000000_0000000_0000000] = .instr .mwait := by
  and_intros <;> rfl

/-- Synchronisation majors 0x50 to 0x5A; the words stand in R224 to R233, but for RWAIT, QRECV and FLAG. -/
theorem test_words_sync :
    decodeWords [0xA0014300] = .instr (.bnew 5 6) ∧ decodeWords [0xA2200411] = .instr (.barSync 8 1 1) ∧
    decodeWords [0xA2400411] = .instr (.barArrive 8 1 1) ∧ decodeWords [0xA4050080] = .instr (.ballot 20 1 0) ∧
    decodeWords [0xA6410281] = .instr (.radd 2 4 5 0) ∧ decodeWords [0xA820C394] = .instr (.rwrVector 3 7 20) ∧
    decodeWords [0b1010101_0000_0000000_0000011_0000000] = .instr (.rwait 3) ∧ decodeWords [0xAC62C600] = .instr (.qsend 3 0x0B 12) ∧
    decodeWords [0b1010111_0011_0000101_0000000_0000000] = .instr (.qrecv 3 5) ∧
    decodeWords [0b1011000_0011_0000101_0000000_0011111] = .instr (.flagTest 5 31) ∧ decodeWords [0xB4600003] = .instr (.xacqv 3) := by
  and_intros <;> rfl

/-- Engine and system majors 0x60 to 0x73; the words of FORK, RDV, FLCALL, TAKE, TSIGNAL, CSRR, CSRW, TRAP, ISYNC and SHOOT stand in 14. -/
theorem test_words_engines_system :
    decodeWords [0b1100000_0011_0000000_0000011_0000010] = .instr (.twait 3 2) ∧
    decodeWords [0b1100001_0010_0000000_0000010_0000000] = .instr (.engqSsb 2) ∧ decodeWords [0xC460060E] = .instr (.fork 3 12 14) ∧
    decodeWords [0xC6018700] = .instr (.rdv 6 14) ∧ decodeWords [0b1100100_0001_0000101_0000011_0000000] = .instr (.specCommit 5 3) ∧
    decodeWords [0xCAA00201] = .instr (.flcall 5 4 1) ∧ decodeWords [0b1100110_0000_0000000_0000011_0000000] = .instr (.flwait 3) ∧
    decodeWords [0xCE01C103] = .instr (.take 7 2 3) ∧ decodeWords [0xD0200400] = .instr (.tsignal 8) ∧
    decodeWords [0xE0010011] = .instr (.csrr 4 0x011) ∧ decodeWords [0xE020C000] = .instr (.csrw 3 0x000) ∧
    decodeWords [0xE200002A] = .instr (.trap 0x2A) ∧ decodeWords [0xE4800000] = .instr .isync ∧
    decodeWords [0xE640C500] = .instr (.shoot 3 10 0) := by
  and_intros <;> rfl

/-- Words that are no instruction, and the word that R355 reports: the zero word, a reserved major and fn, a register where zero must be, two
prefixes, a prefix before a word that takes none, and a prefix whose own bits are not zero. -/
theorem test_words_refused :
    decodeWords [0] = .illegal 0 ∧ decodeWords [0x1C000000] = .illegal 0x1C000000 ∧ decodeWords [0b0000100_1111_0000101_0000011_0000000] = .illegal 0x09E14180 ∧
    decodeWords [0b0000100_0000_0000101_0000011_0000001] = .illegal 0x08014181 ∧ decodeWords [0xFE000001, 0xFE000002, 0x0600C00F] = .illegal 0xFE000002 ∧
    decodeWords [0xFE000001, 0x02A14184] = .illegal 0x02A14184 ∧ decodeWords [0xFC000012, 0x20014307] = .illegal 0xFC000012 ∧
    decodeWords [0xFE040000, 0x0600C00F] = .illegal 0xFE040000 ∧ decodeWords [0xFC000002] = .truncated := by
  and_intros <;> rfl

/-! ### A small machine -/

/-- The TLB entry of the page of `firstAddr` in domain 0. -/
def tl : TlbEntry := { pdom := 0, page := pageOf firstAddr, leaf := firstLeaf }

/-- A strand whose pair s0, s1 is `firstAddr`, whose pair s2, s3 is the address 64 above, and s4 = 5, s5 = 9. -/
def st0 : Strand := { firstStrand State.reset with sregs := [0x40000000, 0, 0x40000040, 0, 5, 9] ++ List.replicate 26 0 }

/-- A machine with the strand issuing, and the page in the TLBs of its core, its die and GX. -/
def m0 (st : Strand) : State :=
  { State.reset with strands := [st], cur := some firstSlot, cores := [((1, 0), { Core.reset with tlb := [tl] })]
                     dies := [(0, { Die.reset with tlb := [tl] }), (1, { Die.reset with tlb := [tl] })] }

/-- A bundle with a grant of 1 KiB, of which `bst` is member 0. -/
def b0 : Bundle :=
  { handle := 9, die := 1, core := 0, pdom := 0, task := 0, grant := 1, scratch := [], poison := [], bars := List.replicate 16 (Bar.fresh 2)
    commons := List.replicate 32 0, arrive := 0, evicted := false, evicting := false, saved := [], bw := (0, 0) }
def bst : Strand := { st0 with bundle := some (9, 0) }
def mb : State := { m0 bst with bundles := [b0] }

/-- Whether an access of a strand goes to the physical address, aligned, on a page that may be read and written. -/
def atOk (s : State) (st : Strand) (va n pa : Nat) : Bool :=
  va % n == 0 && decide (addrKind va = .virt) &&
    match s.tlbLeaf st.at_.die (some st.at_.core) st.pdom.toNat (pageOf va) with
    | some l => decide (l.part (partOf va) = .present) && l.pa va == pa && l.r && l.w
    | none => false

theorem at_of_ok {s : State} {st : Strand} {va n pa : Nat} (h : atOk s st va n pa = true) (a : AccClass) : s.At st a va n pa := by
  unfold atOk at h
  cases hl : s.tlbLeaf st.at_.die (some st.at_.core) st.pdom.toNat (pageOf va) with
  | none => simp [hl] at h
  | some l =>
    simp [hl] at h
    exact ⟨h.1.1, h.1.2, l, hl, h.2.1.1.1, h.2.1.1.2, fun _ => h.2.1.2, fun _ => h.2.2⟩

/-! ### What meets the hypotheses of the statements about instructions -/

/-- SaluAndSaluiSetTheirResult, ComparesAndLogicSetThePredicate, ValuAndValuiSetTheirLanes, VmadSetsItsLanes and every other statement about an
instruction of a strand: a strand that issues, without a bundle and in one; and the immediate -5 without a prefix, 0x85 with the prefix 1. -/
theorem test_met_strand : (m0 st0).curStrand = some st0 ∧ mb.curStrand = some bst ∧ (m0 st0).bundleOf st0 = none ∧ mb.bundleOf bst = some b0 ∧
    (0xFFFFFFFB : Word) = BitVec.ofInt 32 (0x7B#7).toInt ∧ (0x85 : Word) = BitVec.ofNat 32 (1 * 2 ^ 7 + 5) := by
  and_intros
  all_goals first | decide +kernel | rfl

/-- DivisionsWriteTheirResultLater and the other long-latency writes: the window of lookahead 3 holds 3 instructions in native mode and none in
interlocked mode, and that of lookahead 0 holds none. -/
theorem test_met_windows : st0.window 3 = 3 ∧ st0.window 0 = 0 ∧ ({ st0 with native := false } : Strand).window 15 = 0 := by decide

/-- MovesSetTheirResult: special registers 6 and 7 are pairs, 14 is the last; CWR without a bundle and in one. -/
theorem test_met_moves : (14 : BitVec 7) ≠ 6 ∧ (14 : BitVec 7) ≠ 7 ∧ st0.bundle = none ∧ bst.bundle = some (9, 0) := by decide

/-- FaluAndFalu16SetTheirElements, FloatFunctionsSetTheirElements: the type bits and the format and rounding codes. -/
theorem test_met_float_codes : ((0 : BitVec 1) = 0 ∧ (1 : BitVec 1) = 1) ∧ ∀ t : BitVec 7, t.toNat ≤ 2 → t = 0 ∨ t = 1 ∨ t = 2 := by
  refine ⟨⟨rfl, rfl⟩, by decide⟩

/-- DotProductsSetTheirLanes and FcvtSetsItsElements: a format; destination 5 and source 11, the last codes, in a rounding that is not SR; and SR to
destination 5. -/
theorem test_met_formats : FFmt.e4m3 = .e4m3 ∧ (5 : BitVec 4).toNat ≤ 11 ∧ (11 : BitVec 4).toNat ≤ 11 ∧ (7 : BitVec 3) ≠ 4 ∧ (5 : BitVec 4).toNat ≤ 5 := by
  decide

/-- BranchesSetThePc: offset -7 without a prefix, and 2^21 + 3 with the prefix 1. -/
theorem test_met_offsets : (0x1FFFF9 : BitVec 21).toInt = -7 ∧ (1 : BitVec 25).toInt * 2 ^ 21 + (3 : BitVec 21).toNat = 2 ^ 21 + 3 := by decide

/-- JumpsSetThePc: an offset and an address that are multiples of 4, and ones that are not. -/
theorem test_met_jumps : (st0.s 0).toNat % 4 = 0 ∧ (st0.pair 0).toNat % 4 = 0 ∧ (st0.s 4).toNat % 4 ≠ 0 ∧ (st0.pair 4).toNat % 4 ≠ 0 := by decide

/-- WaitsCloseTheWindows: a strand without a bundle and in one; a count of 0 and of 5. -/
theorem test_met_waits : st0.bundle = none ∧ bst.bundle ≠ none ∧ st0.closeWindows.s 3 = 0 ∧ st0.closeWindows.s 4 ≠ 0 := by decide

/-- ExitFreesTheSlot: a strand without a bundle. -/
theorem test_met_exit : (m0 st0).curStrand = some st0 ∧ st0.bundle = none := ⟨rfl, rfl⟩

/-- LoadsSetTheirDestination, GathersAndScattersGoLaneByLane: memory that the core sees without marks, for a weak and for a strong load, a
byte and an atom; and a core without load entries. -/
theorem test_met_loads : (m0 st0).At st0 .read 0x4000001F 1 0x4000001F ∧ (m0 st0).At st0 .read 0x40000000 32 0x40000000 ∧
    homeOf 0x4000001F ≠ .regs ∧ ((m0 st0).acquired st0 0 0).lookAtom 1 (some 0) (0x4000001F / 32) = some (0, 0) ∧
    ((m0 st0).acquired st0 1 3).lookAtom 1 (some 0) (0x40000000 / 32) = some (0, 0) ∧ ((m0 st0).core 1 0).reuse = [] := by
  and_intros
  all_goals first | exact at_of_ok (by decide) _ | decide +kernel | rfl

/-- StoresWriteTheirBytes, AtomicsReadAndWriteAtOnce, EveryAtomicCompletes: an address of the die's memory that may be written, with nothing to wait for; the place
of an atomic of scope .b, and of another. -/
theorem test_met_stores : (m0 st0).At st0 .write 0x40000040 8 0x40000040 ∧ (m0 st0).At st0 .atomic 0x40000040 16 0x40000040 ∧ localMemory 1 0x40000040 ∧
    (m0 st0).drained st0 1 3 ∧ (m0 st0).lookAtom 1 (some 0) (0x40000040 / 32) = some (0, 0) ∧ (m0 st0).atomMark (0x40000040 / 32) = 0 := by
  refine ⟨at_of_ok (by decide) _, at_of_ok (by decide) _, Or.inl (by decide), fun _ _ => rfl, by decide, by decide⟩

/-- GathersAndScattersGoLaneByLane: the field m of a gather, with a prefix and without. -/
theorem test_met_gathers : (2 : BitVec 2) ≠ 3 ∧ (0x57 : BitVec 25).toNat % 128 = (2 : BitVec 2).toNat * 32 + (1 : BitVec 1).toNat * 16 + (1 : BitVec 2).toNat * 4 + (3 : BitVec 2).toNat := by
  decide

/-- PrefetchesAndWatchesReachTheLine: a hint that is not 3, a line of the die, and a watch that has fired, one that has not, and none. -/
theorem test_met_watches : (2 : BitVec 2) ≠ 3 ∧ (m0 st0).At st0 .read 0x40000000 4 0x40000000 ∧ (m0 st0).At st0 .read 0x40000000 1 0x40000000 ∧
    localMemory 1 0x40000000 ∧ st0.watch = none ∧
    (∃ w, ({ st0 with watch := some { region := .opbuf 0 0, fired := true, limit := 0 } } : Strand).watch = some w ∧ w.fired = true) ∧
    ∃ w, ({ st0 with watch := some { region := .opbuf 0 0, fired := false, limit := 0 } } : Strand).watch = some w ∧ w.fired = false := by
  and_intros
  all_goals first | exact at_of_ok (by decide) _ | exact Or.inl (by decide) | exact ⟨_, rfl, rfl⟩ | decide +kernel | rfl

/-- FencesInvalidateAndWait: a core with nothing outstanding, and one with a write that holds a release of .v. -/
theorem test_met_fences : (m0 st0).drained st0 1 3 ∧
    ¬ ((m0 st0).setCore 1 0 { Core.reset with outstanding := 1 }).drained st0 1 2 := by
  refine ⟨fun _ _ => rfl, fun h => ?_⟩
  have := h rfl (by decide)
  exact absurd this (by decide)

/-- MembersJoinAndLeave: BNEW with 257 KiB, with 1 KiB where 256 are granted, and with 1 KiB; BJOIN of a bundle here and of none; the last member leaves. -/
theorem test_met_members :
    (({ st0 with sregs := 257 :: st0.sregs } : Strand).s 0).toNat % 512 = 257 ∧
    256 < (({ mb with bundles := [{ b0 with grant := 256 }] } : State).bundles.map Bundle.grant).sum + 1 ∧
    (mb.bundles.map Bundle.grant).sum + 255 ≤ 256 ∧ mb.bundles.length < 64 ∧ st0.bundle = none ∧
    (∃ b, mb.bundle? 9 = some b ∧ b.evicted = false ∧ b.die = bst.at_.die ∧ b.core = bst.at_.core ∧ b.pdom = bst.pdom) ∧
    ((mb.memberList 9).map Prod.fst = [0]) ∧ mb.bundle? 5 = none ∧ (2 : BitVec 7).toNat ≤ 2 ∧
    (let s := { mb with strands := [st0] }; s.memberList 9 = [] ∧ s.bundleNamed 9 = false) ∧ mb.memberList 9 ≠ [] ∧ (mb.memberList 9).length < 512 := by
  and_intros
  all_goals first | exact ⟨b0, rfl, rfl, rfl, rfl, rfl⟩ | decide +kernel | rfl

/-- BarriersCountArrivals: counts 5, 0 and 513, with a bundle and without; 1,022 and 1,023 arrivals. -/
theorem test_met_barriers : (bst.s 4).toNat % 1024 = 5 ∧ (bst.closeWindows.s 4).toNat % 1024 = 5 ∧ (bst.s 3).toNat % 1024 = 0 ∧
    (({ bst with sregs := [513] } : Strand).s 0).toNat % 1024 = 513 ∧ (Bar.fresh 2).arr < 1023 ∧ ¬ ({ Bar.fresh 2 with arr := 1023 } : Bar).arr < 1023 ∧
    (mb.bundle? 9).map (fun b => b.bars[15]?) = some (some (Bar.fresh 2)) := by decide

/-- What member m gives at a collective of the major. -/
def gave (m major sel : Nat) : Given :=
  { mid := m, strand := bst, major := major, sel := sel, dst := bst.sName 1, dst2 := bst.sIdx 2, win := 0, vote := true, val := 0, la := 0, word := 0, len := 1 }

/-- CollectivesCombineTheMembers: a ballot, a vote and a sum that two members give, and two members that give different ones. -/
theorem test_met_collectives : gave 1 0x52 0 ∈ [gave 0 0x52 0, gave 1 0x52 0] ∧ (gave 1 0x52 0).dst2 = (gave 1 0x52 0).strand.sIdx ((1 : BitVec 7).toNat + 1) ∧
    ({ gave 1 0x52 1 with dst := some 3 } : Given).dst = some (3 : BitVec 3).toNat ∧ ({ gave 1 0x53 49 with dst := bst.vName 1 } : Given).sel = 6 * 8 + 1 ∧
    (∀ x ∈ [gave 0 0x52 0, gave 1 0x52 0], x.major = 0x52 ∧ x.sel = 0) ∧ (∃ x ∈ [gave 0 0x52 0, gave 1 0x52 1], x.major ≠ 0x52 ∨ x.sel ≠ 0) ∧
    (4 : BitVec 3).toNat ≤ 4 ∧ ((4 : BitVec 3) = 0 → (7 : BitVec 4) = 0) := by
  and_intros
  all_goals first | exact .tail _ (.head _) | exact ⟨_, .tail _ (.head _), .inr (by decide)⟩ | decide +kernel | rfl

/-- A write in flight to member 0 of bundle 9, and the machine with it. -/
def dep0 : Deposit := { id := 4, bundle := 9, mid := 0, vec := false, name := 3, sval := 7, vval := 0, src := (7, 0) }
def mdep : State := { mb with deposits := [dep0] }

/-- RemoteWritesAndMailboxes: a bundle of the domain and none; the oldest deposit; an arrival count reached and not reached; a mailbox with an entry,
without one, and one that another bundle has claimed. -/
theorem test_met_remote_writes : (∃ g, mb.bundle? 9 = some g ∧ g.pdom = bst.pdom) ∧ mb.bundle? (bst.s 4).toNat = none ∧
    mdep.deposits.find? (fun y => y.id = 4) = some dep0 ∧ (mdep.bundle? dep0.bundle = some b0 ∧ b0.evicted = false) ∧
    (∀ y ∈ mdep.deposits, y.id ≠ 4 → y.src = dep0.src → y.bundle = dep0.bundle → 4 ≤ y.id) ∧
    (b0.arrive - bst.s 3).toNat < 2 ^ 31 ∧ ¬ (b0.arrive - bst.s 4).toNat < 2 ^ 31 ∧
    ((mb.core 1 0).mboxes.getD 7 { head := 0, items := [], claim := 0 }).items = [] ∧
    ({ head := 15, items := [0], claim := 9 } : Mailbox).items = (0 : Vec) :: [] ∧ (0x40 : BitVec 7).getLsbD 6 = true ∧ (3 : Nat) ≠ 0 ∧ (3 : Nat) ≠ 9 := by
  and_intros
  all_goals first | exact ⟨b0, rfl, rfl⟩ | decide +kernel | rfl

/-- FlagsAndRegisterBlocks: a flag that is set and one that is not; grants of 7 more scalar blocks and of 15 more vector blocks, the last that fit, and one
beyond; a grant that waits; the release of one block of two, and of the last. -/
theorem test_met_blocks : ({ Core.reset with flags := 1 } : Core).flags.getLsbD (0 : BitVec 5).toNat = true ∧ ((m0 st0).core 1 0).flags.getLsbD (31 : BitVec 5).toNat = false ∧
    ((7 : BitVec 7) ≠ 0 ∧ st0.nsb + (7 : BitVec 7).toNat ≤ 8 ∧ ((m0 st0).core 1 0).waitS = [] ∧ (m0 st0).usedS 1 0 + 7 ≤ 1024) ∧
    (st0.nvb + (15 : BitVec 7).toNat ≤ 16 ∧ ((m0 st0).core 1 0).waitV = [] ∧ (m0 st0).usedV 1 0 + 15 ≤ 896) ∧
    ({ Core.reset with waitS := [firstSlot] } : Core).waitS ≠ [] ∧ 8 < st0.nsb + (8 : BitVec 7).toNat ∧ 16 < st0.nvb + (16 : BitVec 7).toNat ∧
    (1 : BitVec 7).toNat < ({ st0 with nsb := 2, nvb := 2 } : Strand).nsb ∧ st0.nsb ≤ (1 : BitVec 7).toNat ∧ st0.nvb ≤ (1 : BitVec 7).toNat := by decide

/-- A tile reservation record: 24 by 1 elements of format 0 in one granule, granule 0, rows 96 bytes apart. -/
def resv : BitVec 128 := 0x00180001006000001800000100000000
/-- The machine with memory listed as said, from `firstAddr` on. -/
def mm (st : Strand) (n x : Nat) : State := { m0 st with mem := writeBytes [] 0x40000000 (natBytesLE n x) }
def tile0 : Tile := ⟨0, resv, 2, 1, 0, none, false⟩

/-- TilesAreReservedAndReleased: a record seen that fits, one that does not, and a bad one; a handle of a live tile (sequence 1, index 0) and none, and a
wait for the state it has and for another. -/
theorem test_met_tiles : (mm st0 16 resv.toNat).Sees st0 ((st0.pair 0).toNat % 2 ^ 57) 16 resv.toNat ∧ badReservation resv = false ∧ badReservation 0 = true ∧
    ((mm st0 16 resv.toNat).core 1 0).tiles = [] ∧ tile0.base + tile0.len ≤ 0 + 1 ∧ ¬ (tile0.base + tile0.len ≤ 0 ∨ 0 + 1 ≤ tile0.base) ∧
    (let st : Strand := { st0 with sregs := [64] }; (((m0 st).setCore 1 0 { Core.reset with tiles := [tile0] }).tile (st.s 0).toNat) = some tile0 ∧
      handleDie (st.s 0).toNat = 1 ∧ handleCore (st.s 0).toNat = 0) ∧ (m0 st0).tile (st0.s 4).toNat = none ∧
    tile0.state = (2 : BitVec 7).toNat ∧ tile0.state ≠ (3 : BitVec 7).toNat := by
  and_intros
  all_goals first | exact ⟨0x40000000, _, at_of_ok (by decide) _, by decide, rfl, by decide⟩ | decide +kernel | rfl

/-- A full queue. -/
def ent0 : EngEntry := ⟨0x40000000, 0, 0, 0, none, 0, 0, none, false, none⟩
def full : Engine := { queue := List.replicate 16 ent0, run := none }

/-- EnginesTakeCommands: an address that is a multiple of 64 and one that is not; a queue of 15 and one of 16; a fork that names two engines, whose two
addresses are seen and whose rendezvous object can be written; a rendezvous object with PEND 0 and one with PEND 1. -/
theorem test_met_engines : (st0.pair 0).toNat % 2 ^ 57 % 64 = 0 ∧ addrKind ((st0.pair 0).toNat % 2 ^ 57) ≠ .bad ∧ addrKind ((st0.pair 4).toNat % 2 ^ 57) = .virt ∧
    (st0.pair 4).toNat % 2 ^ 57 % 64 ≠ 0 ∧ ({ full with queue := full.queue.tail } : Engine).queue.length < 16 ∧ 16 ≤ full.queue.length ∧
    (List.range 4).filter (fun j => (0b0101 : BitVec 4).getLsbD j) = [0, 2] ∧ (m0 st0).At st0 .write 0x40000040 16 0x40000040 ∧
    (∀ l, (m0 st0).tlbLeaf 1 (some 0) st0.pdom.toNat (pageOf 0x40000040) = some l → l.home ≠ 1) ∧
    (m0 st0).Sees st0 0x40000000 8 0 ∧ (m0 st0).Sees st0 0x40000008 8 0 ∧ (m0 st0).At st0 .read 0x40000000 16 0x40000000 ∧
    (m0 st0).atomMark (0x40000000 / 32) = 0 ∧ readNat (m0 st0).mem 0x40000000 16 % 2 ^ 16 = 0 ∧ readNat (mm st0 16 1).mem 0x40000000 16 % 2 ^ 16 = 1 ∧
    (m0 st0).rdvMarks = [] ∧ st0.closeWindows.pair 0 = st0.pair 0 := by
  and_intros
  all_goals first | (intro l h; cases h; decide) | exact at_of_ok (by decide) _ | exact ⟨0x40000000, 0, at_of_ok (by decide) _, by decide, by decide, by decide⟩ | exact ⟨0x40000008, 0, at_of_ok (by decide) _, by decide, by decide, by decide⟩ | decide +kernel | rfl

/-- A task, and epochs: e free, open, cancelled or in progress. -/
def task0 : Task :=
  { key := 0, id := 1, record := 0, state := .ready, epoch := 5, pdom := 0, partid := 0, prio := 0, credit := 0, creditAt := 0, poolSeq := 0, firstAt := 0,
    accepted := 0, frame := 0, tstart := 0, started := false, strandsLeft := 0, engLeft := 0, callsLeft := 0, exc := 0, status := 0, traced := false,
    relaunches := 0, migrated := false, fast := false, header := none, ray := 0, endRec := none, dumped := false, noDump := false, halted := false, addr := 0,
    reason := 0, gone := [], tiles := [], spawned := false, spilled := false, relId := 0, recDone := false, succDone := false, haltArea := [] }
def me (l : List (Nat × Nat × Nat)) : State := { m0 st0 with hg := { Headgate.reset with epochs := l, tasks := [{ task0 with key := 7 }] } }

/-- EpochsOpenCommitAndCancel: no epoch used; every epoch in use, with 255 cancelled and with none; epoch 5 open by the domain and by another, cancelled by
another, and in progress; the commit and the cancel of an open epoch whose SSBs are idle. -/
theorem test_met_epochs : (st0.s 3).toNat % 256 = 0 ∧ (st0.s 4).toNat % 256 = 5 ∧ (me []).epochState 1 = 0 ∧
    ((me ((List.range 255).map fun i => (i + 1, if i = 254 then 2 else 1, 0))).epochState 255 = 2) ∧
    (∀ m < 254, (me ((List.range 255).map fun i => (i + 1, if i = 254 then 2 else 1, 0))).epochState (m + 1) = 1) ∧
    ((me [(5, 1, 0)]).epochState 5 = 1 ∧ (me [(5, 1, 0)]).epochDom 5 = st0.pdom.toNat) ∧ (me [(5, 1, 3)]).epochDom 5 ≠ st0.pdom.toNat ∧
    ((me [(5, 2, 3)]).epochState 5 = 2 ∧ (me [(5, 2, 3)]).epochDom 5 ≠ 0) ∧ 2 < (me [(5, 3, 0)]).epochState 5 ∧
    (∀ t ∈ [((me [(5, 1, 0)]).commitEpoch 5, 3), ((me [(5, 1, 0)]).cancelEpoch 5, 4)], t.1.epochState 5 = t.2 ∧ t.1.ssbRunning 5 = false ∧ t.1.listed 5 = [] ∧
      t.1.strandAt st0.at_ = some st0) ∧ task0.cancellable 5 = true := by
  decide +kernel

/-- A call record for the weir k: its payload length, a return slot at 64 that is long enough. -/
def head0 (k : Nat) : Nat := k * 2 ^ 96 + flPayload k / 16 * 2 ^ 88 + 64 * 2 ^ 64 + 9 * 2 ^ 56
def bfl (hd : Nat) : Bundle := { b0 with scratch := writeBytes [] 0 (natBytesLE 16 hd) }
def mfl (hd : Nat) : State := { m0 bst with bundles := [bfl hd] }

/-- FlumesTakeCallsAndTokens: a record at offset 0 whose header, slot and payload are right; slots that are done and that are not; 1 and 1,024 tokens of a domain
that has room and of one that has not; an outstanding token and one that is not. -/
theorem test_met_flumes : let hd := head0 0
    (mfl hd).bundleOf bst = some (bfl hd) ∧ (bst.s 3).toNat % 2 ^ 18 = 0 ∧ readNat (bfl hd).scratch 0 16 = hd ∧ 0 + 16 + 16 * chPlen hd ≤ 1024 * (bfl hd).grant ∧
    (bfl hd).firstBad 0 (16 + 16 * chPlen hd) = none ∧ slotFits 0 hd (bfl hd).grant = true ∧ chOrd hd = false ∧ (mfl hd).drained bst 1 2 ∧ (mfl hd).gx.calls = [] ∧
    (mfl 1).bundle? 9 = some (bfl 1) ∧ readNat (bfl 1).scratch 0 16 % 2 = 1 ∧ readNat (bfl 1).scratch 0 16 / 2 ^ 88 % 2 ^ 8 = 0 ∧ readNat (bfl 0).scratch 0 16 % 2 = 0 ∧
    bst.closeWindows.s 3 = bst.s 3 ∧ ((m0 st0).domain 5).ahead ((m0 st0).domain 5).next + 1024 ≤ 65535 ∧ (1024 : Nat) % 2 ^ 11 = 1024 ∧
    65535 < ({ n := 5, next := 64512, apply := 0, marks := [] } : Domain).ahead 64512 + 1024 ∧
    ({ n := 5, next := 2, apply := 1, marks := [] } : Domain).ahead 1 < ({ n := 5, next := 2, apply := 1, marks := [] } : Domain).ahead 2 ∧
    ¬ ((m0 st0).domain 5).ahead 9 < ((m0 st0).domain 5).ahead ((m0 st0).domain 5).next := by
  and_intros
  all_goals first | exact fun _ _ => rfl | decide +kernel | rfl

/-- The flat payload of all zeros of an append is not malformed (R268). -/
theorem test_met_flume_payload : ∃ k < 8, badCall k (head0 k) (List.replicate (flPayload k) 0) = false := ⟨7, by decide, by decide⟩

/-- A task record of a kernel: 3 strands in bundles of 2 on die 1, entry at 0x40000080. -/
def rec0 : BitVec 512 := BitVec.ofNat 512 (0x40000080 * 2 ^ 256 + 3 * 2 ^ 77 + 2 * 2 ^ 67 + 1 * 2 ^ 33)
/-- A node with one predecessor. -/
def rec1 : BitVec 512 := BitVec.ofNat 512 (rec0.toNat + 7 * 2 ^ 110 + 1 * 2 ^ 94 + 2 ^ 66)

/-- TasksAreSpawnedAndSignalled: a record that is read without marks, whose task may run, waits as a node, or is disqualified; a node of the domain with one
predecessor; a core with writes outstanding; a registered queue. -/
theorem test_met_spawns : (m0 st0).drained st0 1 2 ∧ (m0 st0).At st0 .read ((st0.pair 0).toNat % 2 ^ 57) 64 0x40000000 ∧ homeOf 0x40000000 ≠ .regs ∧
    (mm st0 64 rec0.toNat).lookAtom 1 (some 0) (0x40000000 / 32) = some (BitVec.ofNat 256 (rec0.toNat % 2 ^ 256), 0) ∧
    (mm st0 64 rec0.toNat).lookAtom 1 (some 0) (0x40000000 / 32 + 1) = some (BitVec.ofNat 256 (rec0.toNat / 2 ^ 256), 0) ∧
    TaskRec.ntile rec0 = 0 ∧ (m0 st0).recordReason rec0 = 0 ∧ TaskRec.graph rec0 = false ∧ (m0 st0).recordReason 0 ≠ 0 ∧ (m0 st0).recordReason rec1 = 0 ∧ TaskRec.graph rec1 = true ∧ TaskRec.npred rec1 = 1 ∧
    (∀ x ∈ (m0 st0).hg.tasks, x.key < (m0 st0).hg.nextKey) ∧
    (let s := { m0 st0 with hg := { Headgate.reset with tasks := [{ task0 with record := rec1, state := .node 1 }] } }; s.nodeTask 7 = some { task0 with record := rec1, state := .node 1 }) ∧
    ¬ ((m0 st0).setCore 1 0 { Core.reset with outstanding := 1 }).drained st0 1 2 := by
  and_intros
  all_goals first | exact fun _ _ => rfl | exact at_of_ok (by decide +kernel) _ | exact fun h => absurd (h rfl (by decide)) (by decide) | decide +kernel | rfl

/-- CsrsAreReadAndWritten: a reserved number, a 64-bit number and a 32-bit one; each right at either level. -/
theorem test_met_csrs : Machine.csrWide 0x002 = none ∧ Machine.csrWide 0x011 = some true ∧ Machine.csrWide 0x000 = some false ∧
    (m0 st0).csrRight st0 0x100 false = .priv ∧ (m0 st0).csrRight st0 0x011 true = .ignored ∧ (m0 st0).csrRight st0 0x011 false ≠ .priv ∧ (m0 st0).csrRight st0 0x000 true = .yes ∧
    (m0 st0).csrRight { st0 with level := true } 0x100 true = .yes ∧ (0x011 : BitVec 14).toNat = 0x011 := by decide

/-- ExceptionsAreTakenAndLeft: a strand at program level with a handler and without, and one at handler level; the debug states. -/
theorem test_met_exceptions : st0.level = false ∧ (((m0 st0).setCore 1 0 { Core.reset with tvec := 0x1000 }).core 1 0).tvec ≠ 0 ∧ ((m0 st0).core 1 0).tvec = 0 ∧
    ({ st0 with level := true } : Strand).level = true ∧ (m0 st0).mg.dbg = 0 ∧ ({ Mgmt.reset with dbg := 2, arm := true } : Mgmt).arm = true ∧
    (∃ k ∈ ({ Headgate.reset with tasks := [task0] } : Headgate).tasks, k.key = st0.task ∧ k.endRec = none) := by
  and_intros
  all_goals first | exact ⟨task0, .head _, rfl, rfl⟩ | decide +kernel | rfl

/-- MaintenanceRemovesCopies: either level, either form, and a line that the TLBs translate. -/
theorem test_met_maintenance : st0.level = false ∧ ({ st0 with level := true } : Strand).level = true ∧ (0 : BitVec 7) = 0 ∧ (1 : BitVec 7) ≠ 0 ∧
    addrKind (st0.pairAddr 0).toNat = .virt ∧ (m0 st0).tlbLeaf 1 (some 0) st0.pdom.toNat (pageOf (st0.pairAddr 0).toNat) = some firstLeaf ∧
    (m0 st0).shootWaits 1 0 = false := by decide

/-- MastersWriteTheRegisters: the device after boot; a master that does not own the device, one that does, one that claims it, and one to which it is offered;
display heads with their registers; no ordered call. -/
theorem test_met_masters : State.reset.booted = true ∧ State.reset.port.hostDown = false ∧ State.reset.port.own ≠ 1 ∧ ({ Port.reset with own := 3, hand := 2 } : Port).own = 3 ∧
    bitsNat State.reset.hg.policy.toNat 15 12 = bitsNat ((0x4000 : BitVec 64).toNat &&& 0xFFFFFFFF03) 15 12 ∧ State.reset.gx.calls = [] ∧
    State.reset.gx.heads[1]? = some Head.reset ∧ Head.reset.regs.length = 7 ∧ (3 : BitVec 64).toNat % 4 = 3 ∧ (0 : BitVec 64).toNat % 4 = 0 ∧
    (m0 { st0 with blocked := some { wait := .parked 1 0 0x40000000, len := 1, woken := false, since := 0 } }).strands.map Strand.at_ = [firstSlot] ∧
    pageOf 0x40000000 = bitsNat (0x40000000 : BitVec 64).toNat 56 21 := by decide

/-- A display head that is enabled and trained. -/
def head1 : Head := { Head.reset with regs := [1, 0, 0, 0, 0, 0, 1] }

/-- PowerHeadsAndManagement: samples of 651 W, 619 W and 635 W; a head in training; a head that can start a frame, if the display link carries its mode (the
spec leaves the modes to R23's link rates), and one that cannot; a part to clear; the I3C master as owner, in and out of retention. -/
theorem test_met_power : 650000 * 1 < [651000].sum ∧ [619000].sum < 620000 * 1 ∧ (620000 * 1 ≤ [635000].sum ∧ [635000].sum ≤ 650000 * 1) ∧
    ({ Gx.reset with heads := [head1, { head1 with training := true }] } : Gx).heads[1]? = some { head1 with training := true } ∧ head1.regs.length = 7 ∧ head1.latched.length = 7 ∧
    (head1.regs.getD 0 0).getLsbD 0 = true ∧ (head1.regs.getD 6 0).getLsbD 0 = true ∧ State.reset.link.paired = false ∧ (Head.reset.regs.getD 0 0).getLsbD 0 = false ∧
    Memory.wf State.reset.mem = true ∧ ({ Link.reset with clrpart := 0x8000000000200000 } : Link).clrpart.getLsbD 63 = true ∧ State.reset.xwrites = [] ∧
    ({ Port.reset with own := 3 } : Port).own = 3 ∧ ({ Mgmt.reset with pwrCur := 2 } : Mgmt).pwrCur = 2 ∧ (0x20 : BitVec 64).extractLsb' 4 2 = 2 ∧ (0 : BitVec 64).extractLsb' 4 2 ≠ 2 := by
  decide

/-- Page tables at 0x10000 that map the page of `firstAddr` in domain 0, and their root. -/
def tables : List Host.Cell :=
  [(0x10000, 0x12000), (0x12000, 0x14000), (0x14010, 0x16000)].foldl (fun m p => writeBytes m p.1 (natBytesLE 16 (p.2 + 1))) (writeBytes [] 0x16000 (natBytesLE 16 firstLeaf.toNat))
def mwalk (root : BitVec 64) : State :=
  { State.reset with mem := tables, port := { Port.reset with ptroot := [(0, root)] }
                     dies := [(1, { Die.reset with merge := [⟨0, 0x200, root, [], 0, 0x40000000, 0, 0, true, false, []⟩], rdc := [⟨8, 0, 0, 0, 0, 0⟩] })] }

/-- MemoryEventsHaveTheirEffects: a walk that finds its leaf, and one that finds no valid root; a sector whose lease is over, in the RDC of a die; a watch whose
time is over; a write in flight without a cause and one with; addresses of device memory; a resident grant, an operand buffer without tiles, a mailbox; a task
that a soft error ends; an offer to mailboxes, to an engine, to the flume port; a write that is overdue. -/
theorem test_met_memory_events :
    (((mwalk 0x10001).die 1).merge.find? (fun e => e.pdom = 0 && e.page = 0x200 && e.walking)).isSome = true ∧
    (match (mwalk 0x10001).walk 0 0x200 (partOf 0x40000000) with | .ok l => l == firstLeaf | .error _ => false) = true ∧
    (match (mwalk 0).walk 0 0x200 (partOf 0x40000000) with | .ok _ => 0 | .error r => r) = 1 ∧
    (∃ y ∈ ((mwalk 0).die 1).rdc, y.atom / 4 = 2 ∧ y.expiry ≤ (mwalk 0).cycle) ∧ (m0 st0).strandAt firstSlot = some st0 ∧
    ({ region := .opbuf 0 0, fired := false, limit := 0 } : Watch).limit ≤ (m0 st0).cycle ∧ (0x1FFFFFFFFF : BitVec 48).toNat < 2 ^ 37 ∧
    (grantAt 1023 (mb.resident 1 0)).map (fun x => (x.1.handle, x.2)) = some (9, 1023) ∧ ((m0 st0).core 1 0).tiles = [] ∧ ((m0 st0).core 1 0).mboxes[4095 / 512]? = some Mailbox.reset ∧
    ((me []).task? 7).isSome = true ∧ ({ Headgate.reset with serr := 1 } : Headgate).serr.getLsbD 0 = true ∧ task0.state ≠ .finishing ∧ task0.state ≠ .ending ∧
    (0b1001001 : BitVec 7).getLsbD 0 = true ∧ (0b1001001 : BitVec 7).getLsbD 3 = true ∧ (0b1001001 : BitVec 7).getLsbD 6 = true ∧
    Mailbox.reset.items.length < 16 ∧ ((m0 st0).engine 1 0 0).queue.length < 16 ∧ 0 + (0 + 1) * 2 ^ 20 ≤ 2 ^ 20 := by
  and_intros
  all_goals first | exact ⟨⟨8, 0, 0, 0, 0, 0⟩, .head _, by decide, by decide⟩ | decide +kernel | rfl

/-- A write from die 1 at die 2, the first of its sender, and a read request of die 1 at die 2. -/
def xw : XWrite := { id := 1, src := 1, dst := 2, core := some 0, pa := 2 ^ 36, bytes := [1], whole := false, row := [0, 1, 0, 0], since := 0, overdue := 0, applied := false, poison := false, task := 0, pdom := 0, place := none }
def xr : XRead := { id := 1, src := 1, dst := 2, pa := 2 ^ 36, row := [0, 0, 0, 0], strand := firstSlot, lane := 0, atomic := true, kind := .atomic 0 0, size := 4, wdata := 5, noL1 := false, noRdc := false }

/-- HomesAndHostReachMemory: a write that its home may apply, and an applied one; an atomic request that its home may serve; host accesses at the ends of their ranges,
and an atomic of either port. -/
theorem test_met_homes : Memory.wf State.reset.mem = true ∧ ({ State.reset with xwrites := [xw] } : State).xwrites.find? (fun w => w.id = 1) = some xw ∧
    ({ State.reset with xwrites := [xw] } : State).writeReady xw = true ∧ ({ xw with applied := true } : XWrite).applied = true ∧ (State.reset.die 1).rows.length = 4 ∧
    ({ State.reset with xreads := [xr] } : State).xreads.find? (fun w => w.id = 1) = some xr ∧ State.reset.served 2 xr.row = true ∧ State.reset.atomMark (xr.pa / 32) = 0 ∧
    atomicNew 0 4 (getBytes (State.reset.atomData (xr.pa / 32)) (xr.pa % 32) 4) 5 0 = some 5 ∧ (0x1FFFFFFE00 : BitVec 48).toNat + 512 ≤ 2 ^ 37 ∧
    (0x1FFFFFFFF0 : BitVec 48).toNat % 16 = 0 ∧ State.reset.linkUp = true ∧ ({ Link.reset with paired := true } : Link).paired = true ∧ State.reset.port.hostDown = false := by
  decide +kernel

/-- The machine with a record of the host task queue at `firstAddr`. -/
def mhq (r : BitVec 512) : State :=
  { mm st0 64 r.toNat with hg := { Headgate.reset with hqbase := 0x40000000, htail := 1, nextKey := 8, tasks := [{ task0 with key := 7, record := rec0 }] } }
/-- A work queue with its header at `firstAddr`: 2 records of 64, a batch of 1. -/
def hdr0 : Nat := 0x40000100 * 2 ^ 448 + 0x40001000 * 2 ^ 384 + 2 * 2 ^ 320 + 64 * 2 ^ 288 + 64 * 2 ^ 272 + 1 * 2 ^ 256
def wq : WorkQueue := { n := 3, header := 0x40000000, tmplAt := 0x40000100, tmpl := rec0, base := 0x40001000, size := 64, esize := 64, b := 1, prio := 0, fof := false, head := 0, tail := 2, oldestAt := 0, flush := 0, disabled := false }
def mwq : State := { mm st0 64 hdr0 with hg := { Headgate.reset with queues := [wq], qtcount := 4 } }

/-- Whether the record at the head of the host task queue is read and, with its reason, taken as the next task; and whether the queue's header is read and its
head can be written. -/
def readsTask (r : BitVec 512) (reason : Nat) : Bool :=
  match (mhq r).hgRead 0 0 0 0x40000000 64 with
  | .ok u bs => (u.task? u.hg.nextKey).isNone && BitVec.ofNat 512 (bytesNat bs) == r && u.recordReason r == reason
  | _ => false
def readsQueue : Bool :=
  match mwq.hgRead 0 0 0 0x40000000 64 with
  | .ok u bs => qhHead (bytesNat bs) == 0 && qhTail (bytesNat bs) == 2 && (match u.unitWrite 0 none 0 0 0 (0x40000000 + 44) (natBytesLE 4 1) with | .ok _ _ => true | _ => false)
  | _ => false
def readsTail : Bool := match mwq.hgRead 0 0 0 (0x40000000 + 40) 4 with | .ok _ bs => bytesNat bs == 2 | _ => false

/-- HeadgateRunsTasks: a record that is read and good, and one that is not; a ready task in the pool, long enough for its reservation; a kernel, an engine task and
a traversal that can be placed; a queue that can be launched, and one whose tail in memory is another; a task with nothing left, and one that is finishing. -/
theorem test_met_headgate :
    readsTask rec0 0 = true ∧ readsTask 0 2 = true ∧
    (0x40000000 / 4096 * 4096 + 64 * 0) % 2 ^ 57 = 0x40000000 ∧ (mhq rec0).hg.hhead.toNat ≠ (mhq rec0).hg.htail.toNat % 2 ^ 32 % 64 ∧ (∀ t ∈ (mhq rec0).hg.tasks, t.state ≠ .accepted) ∧
    (∀ t ∈ (mhq rec0).hg.tasks, t.state = .ready → TaskRec.kind t.record = 3 → TaskRec.graph t.record = false → t.spawned = true) ∧
    (mhq rec0).poolOrder.map Task.key = [7] ∧ (mhq rec0).hg.reserved = none ∧ (mhq rec0).launchHeld = false ∧ (mhq rec0).ageStep ≠ 0 ∧
    ((mhq rec0).poolOrder.find? (mhq rec0).placeable).map Task.key = some 7 ∧ TaskRec.kind rec0 = 0 ∧ TaskRec.kind (TaskRec.set rec0 36 35 1) = 1 ∧
    mwq.nextLaunch = some wq ∧
    readsQueue = true ∧ readsTail = true ∧ mwq.queue? 3 = some wq ∧
    ({ task0 with state := .dispatched [] [] } : Task).strandsLeft = 0 ∧ TaskRec.crec task0.record = 0 ∧ TaskRec.nsucc task0.record = 0 ∧ mwq.xwrites = [] := by
  and_intros
  all_goals first | decide +kernel | rfl

/-- A dispatched kernel task with its bundles 0 and 1 still to place on die 1, its header read. -/
def task1 (l1 l2 : List Nat) (dies : Nat) : Task := { task0 with key := 7, record := TaskRec.set rec0 34 33 dies, state := .dispatched l1 l2, header := some (0x0901, 0), fast := true }
def mp (t : Task) : State := { m0 st0 with hg := { Headgate.reset with tasks := [t] } }
/-- An evicted bundle whose one member may go on. -/
def bev (n : Nat) : Bundle := { b0 with task := 7, evicted := true, saved := [{ bst with blocked := none }], bw := (0, n) }
def mev (n : Nat) : State := { m0 st0 with strands := [], bundles := [bev n], hg := { Headgate.reset with bwbase := 0x40000000 } }
def waits (w : Wait) : Strand := { bst with blocked := some { wait := w, len := 1, woken := true, since := 0 } }

/-- BundlesMoveAndStrandsWake: a bundle to place, with and without the fast path; bundles to steal; a bundle chosen for eviction, with an access of a member and without,
with room in the backwater and without; an evicted bundle, with its records in memory and without, that can be restored; and waits whose condition holds. -/
theorem test_met_bundles :
    (mp (task1 [0, 1] [] 1)).placeOn (task1 [0, 1] [] 1) 1 2 = some 1 ∧ (mp (task1 [0, 1] [] 1)).nextPlacement 1 (fun x => x.fast) = some (task1 [0, 1] [] 1) ∧ TaskRec.members rec0 0 = 2 ∧
    (mp (task1 [] [0, 1] 3)).stealFrom 2 = some (task1 [] [0, 1] 3) ∧ ((mp (task1 [] [0, 1] 3)).placeOn (task1 [] [0, 1] 3) 1 2).isSome = true ∧ (task1 [] [0, 1] 3).left 1 = [] ∧
    ({ mb with bundles := [{ b0 with evicting := true }] } : State).bundle? 9 = some { b0 with evicting := true } ∧ (mb.members 9).map (fun p => p.2.inAccess) = [false] ∧
    (waits (.access { kind := .load, lanes := [], strong := false, scope := 0, hint := 0, la := 0, dest := .none, key := none })).inAccess = true ∧
    mb.bwPlace (mb.evictBytes b0) = none ∧ ({ mb with hg := { Headgate.reset with bwsize := 1 } } : State).bwPlace (mb.evictBytes b0) = some 0 ∧
    (∀ n ∈ [0, 32], (mev n).restorable (bev n) = true ∧ (1, 0) ∈ (mev n).restoreCores (bev n) ∧ (mev n).restoreFits (bev n) 1 0 = true) ∧
    (match (mev 32).hgRead 0 0 0 0x40000000 32 with | .ok _ bs => bs.length == 32 | _ => false) = true ∧
    (∀ w ∈ [.barSync 0 1, .rcv, .qsend 4, .flcall 4, .mwait, .rwait 0, .flagWait 1 0 3, .sleep true 0], (m0 (waits w)).mayWake (waits w) = true) ∧
    (let s := mb.setCore 1 0 { Core.reset with mboxes := [{ head := 0, items := [5], claim := 9 }] }; s.mayWake (waits (.qrecv 0 none)) = true) := by
  and_intros
  all_goals first | decide +kernel | rfl

/-! ### Engines -/

def okB {α : Type} (r : EngRes α) (f : State → α → Bool) : Bool := match r with | .ok s x => f s x | _ => false
/-- A running command of task 0 and domain 0 with its words, at a stage. -/
def run0 (w : Nat) (stage : Nat) : EngRun := { State.freshRun State.reset ent0 with words := BitVec.ofNat 512 w, stage := stage }
/-- Tiles of the core: A of 16 rows and B of 32 rows of 24 elements of format 2, C of 16 rows of 48 FP32 elements; and one of format 3 with scales. -/
def tileOf (idx rows cols pitch fmt scl base n : Nat) : Tile :=
  ⟨idx, BitVec.ofNat 128 (cols * 2 ^ 112 + rows * 2 ^ 96 + pitch * 2 ^ 80 + 2048 * 2 ^ 64 + 24 * 2 ^ 56 + fmt * 2 ^ 52 + scl * 2 ^ 51 + n * 2 ^ 32 + base * 2 ^ 16), 2, 1, 0, none, false⟩
def tileA := tileOf 0 16 24 48 2 0 0 1
def tileB := tileOf 1 32 24 48 2 0 1 1
def tileC := tileOf 2 16 48 192 0 0 2 1
def tileQ := tileOf 3 16 24 32 3 1 3 1
def core0 (r : EngRun) : Core :=
  { Core.reset with tlb := [tl], tiles := [tileA, tileB, tileC, tileQ], mx := { queue := [], run := some r }, ce := { queue := [], run := some r }, ssb := { queue := [], run := some r } }
def meng (r : EngRun) (m : List Host.Cell) : State :=
  { State.reset with cores := [((1, 0), core0 r)], dies := [(0, { Die.reset with tlb := [tl] }), (1, { Die.reset with tlb := [tl] })], qes := [((1, 0), { queue := [], run := some r })], mem := m }
def ctx0 (u : Nat) (r : EngRun) : EngCtx := { d := 1, c := 0, u := u, r := r }
def rMx (stage : Nat) : EngRun := run0 (64 * 2 ^ 192 + 65 * 2 ^ 224 + 66 * 2 ^ 256) stage
def rCe : EngRun := run0 (16 * 2 ^ 64 + 0x40000000 * 2 ^ 192 + 0x40000040 * 2 ^ 256) 3
def rQe : EngRun := run0 (0x40000000 * 2 ^ 192 + 67 * 2 ^ 288) 3
def rSsb : EngRun := run0 (0x40000000 * 2 ^ 192) 3
/-- A descriptor of one head, one element, one state and one step, each of its places in the page of `firstAddr`. -/
def sscb : Nat := 1 + 2 ^ 11 + 2 ^ 20 + 2 ^ 29 + (List.range 9).foldl (fun a i => a + (0x40000100 + 16 * i) * 2 ^ (128 + 64 * i)) 0
def mssb : State := meng rSsb (writeBytes [] 0x40000000 (natBytesLE 128 sscb))

/-- The places of the MX command: 16 rows of A, 32 of B, and C's, ready, of one format class, nothing poisoned and every scale good. -/
def mxMeets : Bool :=
  let s := meng (rMx 3) []
  let k := s.core 1 0
  let view (t : Tile) : TileView := { t := t, mem := k.opbuf, poison := k.opPoison }
  s.engTile (ctx0 0 (rMx 3)) 64 == some tileA && s.engTile (ctx0 0 (rMx 3)) 65 == some tileB && s.engTile (ctx0 0 (rMx 3)) 66 == some tileC &&
    [tileA, tileB, tileC].all (fun t => t.state == 2) && fmtClass tileA.fmt != 0 && fmtClass tileA.fmt == fmtClass tileB.fmt && tileC.fmt == 0 && 16 ≤ tileA.rows && 32 ≤ tileB.rows &&
    16 ≤ tileC.rows && 32 ≤ tileC.cols && [tileA, tileB].all (fun t => 0 < (t.cols + segLen t.fmt - 1) / segLen t.fmt) && k.opPoison == [] &&
    (List.range 16).all (fun i => !(view tileA).poisoned i 0 && !(view tileA).badScale i 0) && (List.range 32).all (fun i => !(view tileB).poisoned i 0 && !(view tileB).badScale i 0)

/-- The CE command reads its run and may write it; the QE command reads its block. -/
def ceMeets : Bool :=
  okB ((meng rCe []).engRead (ctx0 1 rCe) (addrOf ((rCe.f 248 192 : Nat) + 16 * rCe.strideSum 20 312 40 [1, 2, 3, 4])) 16) fun u g => g.bytes.length == 16 &&
    okB (u.ceTarget (ctx0 1 rCe) ((rCe.f 312 256 : Nat) + 16 * rCe.strideSum 20 332 40 [1, 2, 3, 4]) 16) fun _ ps => !ps.isEmpty
def qeMeets : Bool :=
  (meng rQe []).engTile (ctx0 3 rQe) (rQe.dtl 3) == some tileQ && decide (0 < tileQ.rows) && decide (0 < tileQ.cols / 24) &&
    okB ((meng rQe []).engReadGood (ctx0 3 rQe) ((rQe.f 248 192 + 0 * rQe.f 287 256 + 24 * 0 * 4) % 2 ^ 64) 96) fun _ bs => bs.length == 96
/-- The SSB command reads its descriptor and its inputs and may write its outputs and states, 4 bytes each. -/
def ssbMeets : Bool :=
  let x := ctx0 2 rSsb
  okB (mssb.engReadGood x rSsb.sscbAt 128) fun u bs =>
    let b : Sscb := { w := bytesNat bs }
    !b.bad && b.sep == 0 && [b.xa, b.dta, b.ba, b.ca, b.aa, b.da, b.sca].all (fun a => okB (u.engReadGood x a 4) fun _ l => l.length == 4) &&
      [b.ya, b.sca, b.ssa].all fun a => okB (u.engMayWrite x a 4) fun _ ps => !ps.isEmpty

/-- A ring header with one record, of a command whose handles name no tile, and the record. -/
def ring0 : Nat := 1 * 2 ^ 96 + 4 * 2 ^ 64 + 0x40000040
def mring : State :=
  let s := meng (rMx 3) (writeBytes [] 0x40000000 (natBytesLE 32 ring0))
  s.setCore 1 0 { core0 (rMx 3) with mxring := 0x40000000 }
def hg32 (s : State) (va n : Nat) (f : State → List Byte → Bool) : Bool := match s.hgRead 0 0 0 va n with | .ok u bs => f u bs | _ => false
def ringMeets : Bool :=
  hg32 mring 0x40000000 32 fun u bs => bitsNat (bytesNat bs) 151 128 == 0 && bitsNat (bytesNat bs) 119 96 == 1 &&
    hg32 u (bitsNat (bytesNat bs) 56 0) 64 fun v rs => (v.tile (bitsNat (bytesNat rs) 223 192)).isNone && (v.tile (bitsNat (bytesNat rs) 255 224)).isNone &&
      (v.tile (bitsNat (bytesNat rs) 287 256)).isNone && (match v.unitWrite 0 none 0 0 0 (0x40000000 + 16) (natBytesLE 3 1) with | .ok _ _ => true | _ => false)

/-- EnginesRunCommands: an engine with a command at its head; a record that is read; a barrier link that is met, and one that is not; an iteration of each engine;
a command that has iterated, with a release that has nothing to wait for and one that waits; a held command; a ring with a record; a command whose pending bytes count in a
resident bundle, and one with a write still to land; an SSCB whose slots no copy is still to be made for, and whose state is not in the engine. -/
theorem test_met_engine_runs :
    ((m0 st0).setEngine 1 0 0 { queue := [ent0], run := none }).entryStopped ent0 = false ∧ ent0.group = 0 ∧ ((meng (rMx 0) []).engine 1 0 0).run = some (rMx 0) ∧ (rMx 0).held = none ∧
    okB ((meng (rMx 0) []).engReadGood (ctx0 0 (rMx 0)) 0x40000000 64) (fun _ bs => bs.length == 64) = true ∧
    (meng (rMx 2) []).linkReady (rMx 2) = true ∧ ({ meng (rMx 2) [] with bundles := [b0] } : State).linkReady { run0 (2 ^ 15 + 5 * 2 ^ 20) 2 with bhnd := some 9 } = false ∧ (rMx 3).opc ≤ 1 ∧
    mxMeets = true ∧ ceMeets = true ∧ qeMeets = true ∧ ssbMeets = true ∧ (rCe.bhnd = none) ∧ rSsb.sscbAt % 128 = 0 ∧
    (rMx 4).rel = false ∧ ({ run0 (2 ^ 5 + 2 * 2 ^ 6) 4 with held := none } : EngRun).rel = true ∧ 2 ≤ (run0 (2 ^ 5 + 2 * 2 ^ 6) 4).scope ∧
    ({ rMx 3 with held := some (6, 0) } : EngRun).held.isSome = true ∧ (0x200 : BitVec 32).getLsbD 9 = true ∧ ringMeets = true ∧
    (run0 (2 ^ 14) 3).pbd = true ∧ b0.evicted = false ∧ ({ rCe with count := some (1, 2) } : EngRun).count = some (1, 2) ∧ (∃ w ∈ [xw], 1 ≤ w.id ∧ w.id < 2 ∧ w.applied = false) ∧
    mssb.copyComing (ctx0 2 rSsb) rSsb.sscbAt = false ∧ rSsb.state = [] ∧ ent0.rdv = none ∧ ({ full with queue := [] } : Engine).queue.length + 1 < 16 := by
  and_intros
  all_goals first | decide +kernel | rfl

/-! ### Flumes, the companion, resets and the end of tasks -/

/-- A call of a type from the strand of `bst`, at a stage, its payload the bytes of a number. -/
def callOf (typ stage pay : Nat) : Call :=
  { id := 4, typ := typ, die := 1, core := 0, slot := 0, bundle := 9, task := 0, pdom := 0, partid := 0, header := BitVec.ofNat 128 (head0 typ), payload := natBytesLE (flPayload typ) pay,
    stage := stage, port := none, pos := 0, count := 0, detached := false, recs := [], ret := [], rel := false }
/-- The same, ordered in domain 5 with token 1. -/
def ordered (c : Call) : Call := { c with header := c.header + BitVec.ofNat 128 (2 ^ 112 + 5 * 2 ^ 104 + 2 ^ 103) }
def mcall (c : Call) : State := { mb with gx := { Gx.reset with calls := [c], domains := [{ n := 5, next := 2, apply := 1, marks := [] }], buckets := [⟨0, 7, [], 0, false, false⟩] } }

/-- FlumeCallsMoveThroughTheirQueues: a call that its weir admits, ordered and not, and one whose token is not outstanding; a domain whose next token is done, has a stored
call, and has neither; a standing append; a call and a bucket of a key that the sieve holds and of one that it does not; a bucket that has waited its age. -/
theorem test_met_flume_queues :
    (mcall (callOf 1 0 0)).call? 4 = some (callOf 1 0 0) ∧ (ordered (callOf 1 0 0)).ord = true ∧ (mcall (ordered (callOf 1 0 0))).outstandingToken 5 1 4 = true ∧ (ordered (callOf 1 0 0)).token = 1 ∧
    ((mcall (ordered (callOf 1 0 0))).domain 5).ahead 1 < 1024 ∧ (mcall (ordered (callOf 1 0 0))).outstandingToken 5 9 4 = false ∧ 0 < flDepth 1 ∧
    (1 ∈ ({ n := 5, next := 2, apply := 1, marks := [1] } : Domain).marks) ∧
    (mcall (ordered (callOf 1 2 0))).gx.calls.find? (fun c => c.ord && c.dom = 5 && c.stage = 2 && c.token = 1) = some (ordered (callOf 1 2 0)) ∧ (mcall (ordered (callOf 1 2 0))).unitFree (ordered (callOf 1 2 0)) = true ∧
    (mcall (callOf 7 1 (7 * 2 ^ 128))).gx.buckets.find? (fun b => b.mkey = (BitVec.ofNat 512 ((callOf 7 1 (7 * 2 ^ 128)).pay 0 64)).extractLsb' 128 32) = some ⟨0, 7, [], 0, false, false⟩ ∧
    (mcall (callOf 7 1 0)).gx.buckets.find? (fun b => b.mkey = (BitVec.ofNat 512 ((callOf 7 1 0).pay 0 64)).extractLsb' 128 32) = none ∧ (∀ b ∈ (mcall (callOf 7 1 0)).gx.buckets, b.n ≠ 1) ∧
    Gx.reset.svage.toNat % 2 ^ 24 ≠ 0 ∧ 0 + Gx.reset.svage.toNat % 2 ^ 24 ≤ 0x4000 ∧ (⟨0, 7, List.replicate 30 0, 0, false, false⟩ : Bucket).recs.length < 31 := by
  and_intros
  all_goals first | decide +kernel | rfl

def okF {α : Type} (r : FlRes α) (f : State → α → Bool) : Bool := match r with | .ok s x => f s x | _ => false
def serves (c : Call) : Bool := decide (c.stage = 1) && (mcall c).unitFree c && (mcall c).call? 4 == some c && (mcall c).gx.appends.isEmpty
/-- The machine with the call and a live queue 3. -/
def mlive (c : Call) : State := { mcall c with hg := { Headgate.reset with queues := [wq] } }
/-- A depth call of lane 0 with its pixel at `firstAddr`, a blend call of lane 0, and a triangle to tessellate with its points and triangles from `firstAddr` on. -/
def cDepth := callOf 1 1 (0x40000000 + 2 ^ (12 * 8 + 8))
def cBlend := callOf 2 1 (0x40000000 + 2 ^ (12 * 8 + 8))
def cTess := callOf 3 1 (0x40000000 * 2 ^ 224 + 0x40000800 * 2 ^ 288)
/-- A texture call whose descriptor stands at `firstAddr`: one level of format 0 at 0x40000100, one texel, all lanes at (0, 0). -/
def cTex := callOf 4 1 0x40000000
def mtex : State := { mlive cTex with mem := writeBytes [] 0x40000000 (natBytesLE 16 (0x40000100 + 2 ^ 92)) }
/-- A ray along x over a node of zeros at 0x40000040. -/
def ray0 : Nat := 0x3F800000 * 2 ^ 128 + 0x40000040 * 2 ^ 256 + 0x40000000 * 2 ^ 320 + 0x40000100 * 2 ^ 384
def cTrav := callOf 5 1 ray0
/-- One pixel to carry: visibility at 0x40000000, motion at 0x40000008, the result at 0x40000010, both queues 3. -/
def cRepr := callOf 6 1 (0x40000000 + 0x40000008 * 2 ^ 64 + 0x40000010 * 2 ^ 128 + 2 ^ 192 + 2 ^ 208 + 3 * 2 ^ 224 + 3 * 2 ^ 240)
/-- A traversal task whose control block at `firstAddr` names one ray at 0x40000040. -/
def tTrav : Task := { task0 with key := 7, record := BitVec.ofNat 512 (0x40000000 * 2 ^ 256 + 2 ^ 35), state := .dispatched [] [], engLeft := 1 }
def mtrav : State := { mm st0 64 (0x40000040 + 2 ^ 64) with hg := { Headgate.reset with tasks := [tTrav] } }
def unitOk (s : State) (va : Nat) (f : State → List Byte → Bool) : Bool := match s.unitRead 0 none 0 0 1 va 64 with | .ok u (bs, 0) => f u bs | _ => false
def endsWell (q : TravRes) : Bool := match q with | .wait _ => false | _ => true

/-- FlumeUnitsServeTheirCalls: for each unit a call that it can serve, with what it reads and writes in reach; a call that waits; a raster call without quads, and queues
that are live and that are not; a traversal task with a ray. -/
theorem test_met_flume_units :
    [callOf 0 1 0, cDepth, cBlend, cTess, cTex, cTrav, cRepr].all serves = true ∧ (mlive cRepr).queueLive 3 = true ∧ (mcall cRepr).queueLive 3 = false ∧ rasterQuads (callOf 0 1 0) = [] ∧
    (List.range 8).filter (fun i => decide (0 ≤ i) && bitNat (bitsNat (cDepth.pay 12 4) 15 8) i) = [0] ∧
    okF ((mlive cDepth).flRead cDepth.begun (cDepth.pay 0 8) 4 4) (fun v bs => bs.length == 4 && okF (v.flWrite cDepth.begun (cDepth.pay 0 8) [0, 0, 0, 0] 4) fun _ _ => true) = true ∧
    okF ((mlive cBlend).flRead cBlend.begun (cBlend.pay 0 8) 8 8) (fun v _ => okF (v.flWrite cBlend.begun (cBlend.pay 0 8) (List.replicate 8 0) 8) fun _ _ => true) = true ∧
    okF ((mlive cTess).flWrite cTess.begun (cTess.pay 28 8) (List.replicate 64 0) 8) (fun u _ => okF (u.flWrite cTess.begun (cTess.pay 36 8) (List.replicate 64 0) 4) fun _ _ => true) = true ∧
    okF (mtex.flRead cTex.begun (cTex.pay 0 8) 16 16) (fun u bs => bitsNat (bytesNat bs) 95 92 == 1 && okF (u.texLane cTex.begun 0 false 0x40000100 1 1 0 0) fun _ l => l.length == 4) = true ∧
    (rayOf cTrav.payload (cTrav.pay 32 8) (cTrav.pay 40 8) (cTrav.pay 48 8) 1 0).bad = false ∧
    okF ((mlive cRepr).reprojPixel cRepr.begun 0) (fun _ r => r.isNone) = true ∧
    unitOk mtrav (TaskRec.entry tTrav.record) (fun u bs => bitsNat (bytesNat bs) 95 64 == 1 && unitOk u (bitsNat (bytesNat bs) 63 0) fun _ rb => rb.length == 64) = true ∧ tTrav.ray < 1 ∧
    mtrav.task? 7 = some tTrav := by
  and_intros
  all_goals first | decide +kernel | rfl

/-- A paired device that maps the page of `firstAddr`, its part 0 in the given state. -/
def mpair (l : Link) (part : PartState) : State :=
  let leaf := firstLeaf.setPart 0 part
  { mwalk 0x10001 with mem := writeBytes tables 0x16000 (natBytesLE 16 leaf.toNat), dies := [], link := { l with paired := true } }
/-- The words of a message whose payload names part 0 of the page. -/
def msg0 : List Word := [0x40000000, 0, 0, 0]
def part0 (s : State) : Option PartState := (s.leafOf 0 0x200).map fun h => h.leaf.part 0

/-- CompanionLinkWorks: a device that is not paired and the payload of its PAIR; parts that are here, moving and away; a step that waits for its acknowledgement, one that is
due, one whose slot is too small; an undocking; a capture whose strands have stopped, and one whose strands have not; a companion that has not answered in time. -/
theorem test_met_companion :
    State.reset.linkUp = true ∧ State.reset.link.paired = false ∧ bitsNat (msgPayload [0x10000, 0, 0, 0]) 23 16 = 1 ∧ State.reset.mg.pwrCur ≠ 1 ∧ ({ Mgmt.reset with pwrCur := 1 } : Mgmt).pwrCur = 1 ∧
    part0 (mpair Link.reset .present) = some .present ∧ part0 (mpair Link.reset .moving) = some .moving ∧ part0 (mpair Link.reset .remote) = some .remote ∧
    (payloadMove (msgPayload msg0) 0 true).page = 0x200 ∧ (mpair Link.reset .present).stepRunning = false ∧ (mpair Link.reset .present).partClaimed (payloadMove (msgPayload msg0) 0 true) = false ∧
    (mpair Link.reset .moving).inFlight 0x40000000 0x40010000 = false ∧ (List.replicate (2 ^ 16) (0 : Byte)).length = 2 ^ 16 ∧
    ({ Link.reset with stepPending := true } : Link).stepSlot = 1 ∧ bitsNat (msgPayload [1, 0, 0, 0]) 0 0 = 1 ∧ State.reset.handlesNew { tasks := [], bundles := [], strands := [] } = true ∧
    ({ Link.reset with undocking := true } : Link).undocking = true ∧ bitsNat (msgPayload [0, 0, 0, 0]) 7 0 = 0 ∧ Link.reset.cisPeriod ≠ 0 ∧ 0 + Link.reset.cisPeriod.toNat * 10 ^ 9 ≤ 10 ^ 12 ∧
    (let c : Capture := { what := 0, id := 7, why := 0 }; (me []).allStopped c.covers = true ∧ ({ me [] with strands := [{ st0 with task := 7 }] } : State).allStopped c.covers = false ∧
      ({ State.reset with captures := [c] } : State).captures.find? (fun c => c.what = 0 && c.id = 7) = some c) ∧
    Link.reset.cisSlot.toNat < 0 + 32 := by
  and_intros
  all_goals first | with_reducible exact List.length_replicate | decide +kernel | rfl

/-- ResetsPowerAndRecords: a request for retention with no task, an idle device, a record of either kind of the right form and one of the wrong form; and for every
target state but the reserved one a state from which it is reached. -/
theorem test_met_resets : Memory.wf State.reset.mem = true ∧ ({ Mgmt.reset with pwrReq := 2 } : Mgmt).pwrCur.toNat < 2 ∧ State.reset.hg.tasks = [] ∧ 0 + 10 ^ 9 ≤ 10 ^ 9 ∧
    blobForm [1, 0, 0, 0, 8, 0, 0, 0] 1 = true ∧ blobForm [2, 0, 0, 0, 8, 0, 0, 0] 2 = true ∧ blobForm [1, 0, 0, 0, 9, 0, 0, 0] 1 = false ∧ ({ Port.reset with own := 3 } : Port).own = 3 ∧
    (∀ to_ : BitVec 2, to_ ≠ 3 → ∃ sec, transitionOk sec to_ = true) ∧ transitionOk 0 0 = false ∧
    (∀ bytes, ({ Mgmt.reset with id := Config.blobId bytes } : Mgmt).id = Config.blobId bytes) := by
  and_intros
  all_goals first | exact fun _ => rfl | decide +kernel | rfl

/-- A marker of the given kind of mark, and a task that is ending. -/
def marker (m : Nat) : Task := { task0 with key := 7, record := BitVec.ofNat 512 (0x40000000 * 2 ^ 256 + 3 * 2 ^ 35 + m * 2 ^ 27) }
def ending (status : Nat) : Task := { task0 with key := 7, state := .ending, status := status }
def mdbg (t : Task) : State := { mm st0 64 0 with hg := { Headgate.reset with tasks := [t] }, mg := { Mgmt.reset with dbg := 2 }, port := { Port.reset with own := 3 } }

/-- MarkersHaltsAndEnds: a marker of each kind, with its control record; a halt of a task and its resume; an ending task without a dump, one to be launched again, one with a
dump due, in too little room and in enough. -/
theorem test_met_markers :
    (∀ m ∈ [1, 2, 3], (mdbg (marker m)).markerReady (marker m) m = true) ∧ (mdbg (marker 2)).mg.dbg ≠ 0 ∧ TaskRec.entry (marker 2).record % 64 = 0 ∧
    hg32 (mdbg (marker 2)) 0x40000000 64 (fun v _ => match v.unitWrite 0 none 0 0 0 0x40000028 (natBytesLE 4 0) with
      | .ok w _ => (match w.unitWrite 0 none 0 0 0 0x40000030 (natBytesLE 4 0) with | .ok _ _ => true | _ => false) | _ => false) = true ∧
    (mdbg (marker 1)).hg.tasks.find? (fun t => t.id.toNat = 1 && t.state != .finishing && t.state != .ending) = some (marker 1) ∧
    (mdbg { marker 1 with halted := true }).hg.tasks.find? (fun t => t.id.toNat = 1 && t.halted) = some { marker 1 with halted := true } ∧ (0x8000000000000001 : BitVec 64).getLsbD 63 = true ∧
    (mdbg (ending 1)).endReady (ending 1) = true ∧ (mdbg (ending 1)).dumpDue (ending 1) = false ∧ (ending 4).status = 4 ∧ TaskRec.idem (BitVec.ofNat 512 (2 ^ 32)) = true ∧
    0 < bitsNat Headgate.reset.serr.toNat 11 8 ∧
    (let s : State := { mdbg (ending 3) with hg := { Headgate.reset with tasks := [ending 3], dmpbase := 0x40000000 } }; s.dumpDue (ending 3) = true ∧ bitsNat s.hg.dmpsize.toNat 31 12 * 4096 < 128) ∧
    128 ≤ bitsNat (4096 : BitVec 64).toNat 31 12 * 4096 := by
  and_intros
  all_goals first | decide +kernel | rfl

/-- StepRunsTheDecodedInstruction: the strand whose turn it is, free to issue; words that are an instruction, and one that is none; a held atom; an address that is not of the
virtual space, a page in no TLB, and one that is. -/
theorem test_met_step : let s := State.reset.withFetchWord 32 0x0600C00F
    s.weave = firstSlot :: [] ∧ s.strandAt firstSlot = some (firstStrand State.reset) ∧ s.off = false ∧ (Instr.li none 3 15).wf = true ∧ encode (.li none 3 15) = [0x0600C00F] ∧
    (match s.fetchWord (firstStrand State.reset) firstAddr with | .got u w => w == 0x0600C00F && (u.strandAt firstSlot).isSome | .stop _ => false) = true ∧
    (firstStrand State.reset).meetsHeld (s.lastWord (firstStrand State.reset) (firstStrand State.reset).pc.toNat 3) = false ∧ s.comparator (firstStrand State.reset) = none ∧ (firstStrand State.reset).fbuf = none ∧
    addrKind (2 ^ 57 - 1) ≠ .virt ∧ s.tlbLeaf 1 (some 0) 0 5 = none ∧ s.tlbLeaf 1 (some 0) 0 (pageOf firstAddr) = some firstLeaf ∧ s.usable firstLeaf (partOf firstAddr) = true := by
  and_intros
  all_goals first | decide +kernel | rfl

/-! ### More of what meets the hypotheses: what the bundles, the engines, the masters and the companion wait for -/

/-- RemoteWritesAndMailboxes: a deposit to a register that its member holds, and to one that it does not; the counts of a core after reset. -/
theorem test_met_deposits : bst.bundle = some (dep0.bundle, dep0.mid) ∧ bst.sIdx dep0.name = some 3 ∧ bst.sIdx 126 = none ∧
    (mb.core 1 0).mboxFree.length = 3 ∧ (∀ l ∈ (mb.core 1 0).mboxFree, l.length = 8) := by
  and_intros
  all_goals decide +kernel

/-- EnginesTakeCommands: a queue with room beside a command that runs, and one that is full with it; room for two lines; an object on the strand's die
and one on the other, whose row is raised first; a store that is still on its way to it, and none. -/
theorem test_met_forks : ((meng (rMx 3) []).engine 1 0 0).queue.length + 1 < 16 ∧ ¬ 15 + 1 < 16 ∧ (m0 st0).RoomFor st0 2 ∧
    (m0 st0).linkFull 1 0x40000040 = false ∧ localMemory 1 0x40000040 ∧ homeOf 0x40000040 ≠ .regs ∧ homeOf (2 ^ 36) = .dram 2 ∧ (2 : Nat) ≠ 1 ∧
    (¬ ∃ w ∈ (m0 st0).xwrites, w.pa = 0x40000000 ∧ w.applied = false ∧ w.src = 1) ∧ (∃ w ∈ [xw], w.pa = 2 ^ 36 ∧ w.applied = false ∧ w.src = 1) := by
  refine ⟨by decide +kernel, by decide, Or.inr (by decide +kernel), by decide +kernel, Or.inl (by decide), by decide, by decide, by decide, fun h => ?_, ⟨xw, .head _, rfl, rfl, rfl⟩⟩
  obtain ⟨w, h, _⟩ := h
  cases h

/-- A task whose completion record is on a page that no table maps. -/
def crecFar : Task := { task0 with key := 7, record := BitVec.ofNat 512 (0x80000000 * 2 ^ 448) }
/-- EpochsOpenCommitAndCancel: a cancel whose task has its record still to come, and one without. -/
theorem test_met_records_due : (({ me [(5, 1, 0)] with hg := { Headgate.reset with epochs := [(5, 1, 0)], tasks := [crecFar] } } : State).cancelEpoch 5).recordsDue 5 = true ∧ (({ me [(5, 1, 0)] with hg := { Headgate.reset with epochs := [(5, 1, 0)] } } : State).cancelEpoch 5).recordsDue 5 = false ∧
    (∀ z ∈ (me [(5, 1, 0)]).hg.tasks, z.key = 7 → z = { task0 with key := 7 }) := by
  and_intros
  all_goals decide +kernel

/-- TasksAreSpawnedAndSignalled: a marker of the strands' queue still to be processed, and none. -/
theorem test_met_held_spawn :
    (({ Headgate.reset with tasks := [{ task0 with record := BitVec.ofNat 512 (3 * 2 ^ 35), spawned := true }] } : Headgate).tasks.all fun x =>
      x.state == .ready && TaskRec.kind x.record == 3 && !TaskRec.graph x.record && x.spawned) = true ∧ (m0 st0).hg.tasks = [] := by
  and_intros
  all_goals decide +kernel

/-- PowerHeadsAndManagement: a measurement 1 ms before, and one too near; a trained rate other than 7. -/
theorem test_met_power_times : (∀ x ∈ [((0 : Nat), (651000 : Nat))], x.1 + 10 ^ 9 ≤ 10 ^ 9) ∧ (∃ x ∈ [((0 : Nat), (651000 : Nat))], 5 < x.1 + 10 ^ 9) ∧ ({ head1 with want := 6 } : Head).want ≠ 7 := by
  refine ⟨by decide, ⟨_, .head _, by decide⟩, by decide⟩

/-- MemoryEventsHaveTheirEffects: walks from the root that a merge entry holds; a mailbox with room whose sender counts a free entry, and one that is full; a
queue with room beside a running command. HomesAndHostReachMemory: an address of a register that a master reads. -/
theorem test_met_events_more :
    (match (mwalk 0).walkFrom 0x10001 0x200 (partOf 0x40000000) with | .ok l => l == firstLeaf | .error _ => false) = true ∧
    (match (mwalk 0x10001).walkFrom 0 0x200 (partOf 0x40000000) with | .ok _ => 0 | .error r => r) = 1 ∧
    (((m0 st0).core 1 0).mboxFree.getD 0 []).getD 4 0 ≠ 0 ∧ 16 ≤ ({ Mailbox.reset with items := List.replicate 16 0 } : Mailbox).items.length ∧ 256 ≤ (0x2000000000 : BitVec 48).toNat := by
  and_intros
  all_goals decide +kernel

/-- HeadgateRunsTasks: a placeable task whose declared tile is gone, and one without tiles; a finishing task with a write of a die made before it. -/
theorem test_met_freed_tiles : let s : State := mp { task0 with key := 7, record := rec0, tiles := [64] }
    (s.poolOrder.find? s.placeable).map (fun t => (t.key, s.tileFreed t)) = some (7, true) ∧ s.tileFreed task0 = false ∧ s.launchHeld = false ∧
    (∃ w ∈ [xw], w.src ≠ 0 ∧ w.id < 2) := by
  refine ⟨by decide +kernel, by decide +kernel, by decide +kernel, ⟨xw, .head _, by decide, by decide⟩⟩

/-- BundlesMoveAndStrandsWake: the part of a list that is handed over, with room for its first bundle and without; a wait at a tile whose state has been met. -/
theorem test_met_steals : ([0, 1, 2] : List Nat).drop (3 - min (max ((3 + 1) / 2) 1) (mp task0).stealMax) = 1 :: [2] ∧
    (let t := { task1 [] [0, 1] 3 with halted := true }; ((mp t).setCore 1 0 Core.reset).placeOn t 1 600 = none) ∧
    (∀ a ∈ [true, false], (m0 (waits (.twaitMet 64 2 a))).mayWake (waits (.twaitMet 64 2 a)) = true) := by
  and_intros
  all_goals decide +kernel

/-- EnginesRunCommands: a command that a capture has stopped. -/
theorem test_met_stopped : ({ m0 st0 with captures := [{ what := 2, id := 0, why := 3 }] } : State).entryStopped ent0 = true ∧ (b0.evicted = false ∧ mb.bundle? 9 = some b0) := by
  and_intros
  all_goals first | decide +kernel | rfl

/-- A machine with 1,024 buckets in use, and one with an earlier record whose bucket is being flushed. -/
def bucketNo (n : Nat) : Bucket := ⟨n, BitVec.ofNat 32 (n + 8), [], 0, false, false⟩
def full1024 : State := { mcall (callOf 7 1 0) with gx := { Gx.reset with calls := [callOf 7 1 0], buckets := (List.range 1024).map bucketNo } }
def msieve : State := { mcall (callOf 7 1 0) with gx := { Gx.reset with calls := [{ callOf 7 1 (7 * 2 ^ 128) with id := 3 }, callOf 7 1 0], buckets := [⟨0, 7, [], 0, true, false⟩] } }
theorem full1024_buckets : full1024.gx.buckets = (List.range 1024).map bucketNo := by simp only [full1024]
/-- FlumeCallsMoveThroughTheirQueues: a call with .rel and one without; a record that an earlier one of another key, waiting, lets pass; a key whose bucket is being
flushed; 1,024 buckets in use, none of them being flushed, the oldest among them. -/
theorem test_met_sieve : ({ callOf 1 0 0 with rel := true } : Call).rel = true ∧ (callOf 1 0 0).rel = false ∧
    (∀ a ∈ msieve.arrivals, a.1 < 4 → a.2 ≠ 0 ∧ msieve.sieveStuck a.2 = true) ∧ msieve.sieveStuck 7 = true ∧ msieve.sieveStuck 0 = false ∧
    (∀ n < 1024, ∃ b ∈ full1024.gx.buckets, b.n = n) ∧ (∀ b ∈ full1024.gx.buckets, b.forced = false) ∧ (full1024.gx.buckets.find? fun b => b.mkey = 0) = none := by
  refine ⟨rfl, rfl, by decide +kernel, by decide +kernel, by decide +kernel, fun n h => ?_, fun b h => ?_, ?_⟩
  · rw [full1024_buckets]
    exact ⟨bucketNo n, List.mem_map.mpr ⟨n, List.mem_range.mpr h, rfl⟩, rfl⟩
  · rw [full1024_buckets] at h
    obtain ⟨n, _, rfl⟩ := List.mem_map.mp h
    rfl
  · decide +kernel
theorem test_met_oldest_bucket : (full1024.oldestBucket).isSome = true := by decide +kernel

/-- FlumeUnitsServeTheirCalls: a hit of the task that waits at the sieve, none, and one that stands behind an earlier record of its key. -/
theorem test_met_hits : let h : SieveHit := { id := 9, task := 7, record := 0 }
    [h].find? (fun h => h.task = 7) = some h ∧ mtrav.gx.hits = [] ∧
    ((mcall (callOf 7 1 0)).arrivals.any fun a => a.1 < h.id && !(a.2 != h.record.extractLsb' 128 32 && (mcall (callOf 7 1 0)).sieveStuck a.2)) = true := by
  and_intros
  all_goals decide +kernel

/-- CompanionLinkWorks: engines that are idle, and one that still counts a run; a task of an open epoch, and none; a write of the set in flight, and none; a device with a task. -/
theorem test_met_captures : let c : Capture := { what := 2, id := 0, why := 3 }
    (m0 st0).enginesStopped c = true ∧ (meng { rCe with count := some (1, 2) } []).enginesStopped c = false ∧
    ({ me [(5, 1, 0)] with hg := { (me [(5, 1, 0)]).hg with tasks := [task0] } } : State).openEpochs c [1] = [5] ∧ (me []).openEpochs c [1, 3, 4] = [] ∧
    ({ me [] with xwrites := [{ xw with task := 1 }] } : State).writesLeft c = true ∧ (me []).writesLeft c = false ∧ (me []).hg.tasks ≠ [] := by
  and_intros
  all_goals decide +kernel

/-- MarkersHaltsAndEnds: a START while a window stands open, and while it is closing; an area of a halted task that is read. -/
theorem test_met_windows_open :
    (let s : State := { mdbg (marker 2) with trace := { State.reset.trace with opened := true } }; s.trace.opened = true ∧ s.trace.stopping = false ∧ s.markerReady (marker 2) 2 = true) ∧
    (mdbg (marker 2)).trace.opened = false ∧ hg32 (mdbg (marker 1)) 0x40000000 32 (fun _ bs => bs.length == 32) = true := by
  and_intros
  all_goals decide +kernel

/-- StepRunsTheDecodedInstruction: an instruction that writes a vector register, one that does not, a file with room and one that is full. -/
theorem test_met_vector_file : writesVector (Instr.valuAdd none 5 6 7).word = true ∧ writesVector (Instr.li none 3 15).word = false ∧ Core.reset.fileFull = false ∧
    ({ Core.reset with vfile := List.replicate 16384 ⟨0, 0⟩, vmap := List.replicate 16384 ⟨0, 0, false, none⟩ } : Core).fileFull = true := by
  refine ⟨by decide, by decide, by decide, ?_⟩
  simp only [Core.fileFull, Core.crowded, List.length_replicate]
  rfl

/-- EncodedInstructionsDecodeToThemselves, EveryStepKeepsMemoryCanonical: a well-formed instruction of three words, and a state whose memory is canonical. -/
theorem test_met_encode : (Instr.valuiAdds (some { sense := 1, pred := 5 }) (some 3) 5 3 4).wf = true ∧ State.reset.memOk ∧ (State.reset.withFetchWord 32 0x0600C00F).memOk := by
  refine ⟨by decide, rfl, by unfold State.memOk; decide +kernel⟩

/-! ### Small steps, worked by hand from the spec -/

/-- What an instruction of `st0` with vector registers leaves, when it ends. -/
def vst (l : List Vec) : Strand := { st0 with vregs := l ++ List.replicate (16 - l.length) 0, native := false }
def after1 (r : Host.Outcome State Fault Refusal) (f : State → Strand → Bool) : Bool :=
  match r with | .next t => (match t.strandAt firstSlot with | some u => f t u | none => false) | _ => false
def gives (i : Instr) (s : State) (f : State → Strand → Bool) : Bool := after1 (exec i s) f

/-- R178, R164: `li s3, 15` is the first instruction after reset: s3 = 15, and the PC is 4 further. -/
theorem test_step_li : after1 (step (State.reset.withFetchWord 32 0x0600C00F)) (fun _ u => u.s 3 == 15 && u.pc == BitVec.ofNat 57 (firstAddr + 4)) = true := by decide +kernel
/-- R355, R342: the word 0 is illegal; with no handler the strand has CAUSE 1 and the address of the word in EPC. -/
theorem test_step_illegal : after1 (step (State.reset.withFetchWord 32 0)) (fun _ u => u.cause == 1 && u.epc == BitVec.ofNat 57 firstAddr && u.level) = true := by decide +kernel
/-- R175: a sum wraps modulo 2^32; R176: a count of 33 shifts by 1. -/
theorem test_exec_add_wraps : gives (.saluAdd 1 2 3) (m0 { st0 with sregs := [0, 0, 0xFFFFFFFF, 2] }) (fun _ u => u.sregs[1]? == some 1) = true := by decide +kernel
theorem test_exec_shift_count : gives (.saluSar 1 2 3) (m0 { st0 with sregs := [0, 0, 0x80000000, 33] }) (fun _ u => u.sregs[1]? == some 0xC0000000) = true := by decide +kernel
/-- R187, the example: lane 0 of vdot4 is 16,517 and of vdot4u 17,797. -/
theorem test_exec_vdot4 : gives (.vdot4 none 2 3 4) (m0 (vst [0, 0, 10, 0x807FFE03, 0x80010502])) (fun _ u => lane (u.v 2) 0 == 16517) = true := by decide +kernel
theorem test_exec_vdot4u : gives (.vdot4u none 2 3 4) (m0 (vst [0, 0, 10, 0x807FFE03, 0x80010502])) (fun _ u => lane (u.v 2) 0 == 17797) = true := by decide +kernel
/-- R188, the example: bits 1, 1, 0 of cmp.lt.i16. -/
theorem test_exec_cmp_i16 : gives (.vcmpLtI16 none 4 1 2) (m0 (vst [0, 0x00090005_FFFD0005_00020001, 0x000A0005_00070007_00040003])) (fun _ u => (u.p 4).extractLsb' 0 3 == 0b011#3) = true := by decide +kernel
/-- R204, the example: fma with one rounding gives 0x3A000400 and no flag. -/
theorem test_exec_fma : gives (.fma none 4 5 6) (m0 (vst [0, 0, 0, 0, 0xBF800000, 0x3F800800, 0x3F800800])) (fun _ u => lane (u.v 4) 0 == 0x3A000400) = true := by decide +kernel
/-- R209, the example: fcvt.e4m3.f32.rne.sat gives 0xB87E7E79 with OF and NX. -/
theorem test_exec_fcvt : gives (.fcvt none 4 7 8 0 6) (m0 (vst [0, 0, 0, 0, 0, 0, 0, 0, 0xBF800000_43FA0000_43E60000_43960000])) (fun _ u => u.v 7 == 0xB87E7E79 && u.fpflags == fOF ||| fNX) = true := by
  decide +kernel
/-- R213, the example: dot2.bf16 of (1.0, 2^-8) with itself and 1.0 is 0x40000040. -/
theorem test_exec_dot2_bf16 : gives (.dot2Bf16 none 1 2 2) (m0 (vst [0, 0x3F800000, 0x3B803F80])) (fun _ u => lane (u.v 1) 0 == 0x40000040) = true := by decide +kernel
/-- R216, R113: a store of a word leaves its bytes, lowest first. -/
theorem test_exec_store : gives (.sts none 4 0 2 0 0 0) (m0 { st0 with sregs := [0x40000000, 0, 0, 0, 0x12345678] }) (fun t _ => readByte t.mem 0x40000000 == 0x78 && readByte t.mem 0x40000003 == 0x12) = true := by
  decide +kernel
/-- R219, R220: an atomic add returns the old value and leaves the sum. -/
theorem test_exec_atom : gives (.atomAdd none 0 4 0 3 0) ({ m0 { st0 with native := false, sregs := [0x40000000, 0, 0, 0, 5] } with mem := [(0x40000000, 7)] }) (fun t u => readByte t.mem 0x40000000 == 12 && u.s 4 == 7) = true := by
  decide +kernel
/-- R295, R342: TRAP 0x2A at program level: CAUSE bit 3, TVAL 0x2A, EPC past the word, the PC at TVEC. -/
theorem test_exec_trap : gives (.trap 0x2A) ((m0 st0).setCore 1 0 { Core.reset with tvec := 0x1000 }) (fun _ u => u.cause == 8 && u.tval == 0x2A && u.epc == 0x40000004 && u.pc == 0x1000 && u.level) = true := by
  decide +kernel

end Sys2Proof.Tests
end

section
namespace Sys2Proof
open Sys2Proof.Laws

/-! ### The words of an instruction (R4, R158 to R168, R355) -/

/-- The bytes of a well-formed instruction's words, with whatever follows, are read as that instruction. -/
theorem decodeBytes_encode {i : Instr} (h : i.wf = true) (bs : List Byte) : decodeBytes ((encode i).flatMap bytesOfWord ++ bs) = .instr i := by
  rw [decodeBytes, wordsOfBytes_words, decodeWords_encode h]

/-- Settles O59: the decoder's table of each major reads its words back, and no proper part of an instruction's words is one. -/
theorem encodedInstructionsDecodeToThemselves : Obligations.EncodedInstructionsDecodeToThemselves := by
  intro i h
  have encoded : i.encoded = true := by
    simp only [Instr.wf, Bool.and_eq_true] at h
    exact h.1.1
  refine ⟨decodeWords_encode h, decodeBytes_encode h, encode_length encoded, len_le i, fun n hn => decodeWords_part encoded hn, fun nbits w pos bytes => ?_⟩
  rw [decodeTableWord, if_neg (Nat.pos_iff_ne_zero.1 pos), bytes, decodeBytes_encode h]

end Sys2Proof

namespace Sys2Proof.Machine

/-! ### The state after power-on reset (R8) -/

/-- Settles O56: every field of the reset state is written out in the model; the lists of a core and of a die repeat one value. -/
theorem resetStateHoldsTheResetValues : Obligations.ResetStateHoldsTheResetValues := by
  refine ⟨Memory.wf_reset, rfl, rfl, rfl, rfl, rfl, ?_, ?_, by decide⟩
  · rintro d c k rfl
    exact ⟨rfl, rfl, rfl, rfl, rfl, rfl, rfl, rfl, rfl, rfl, fun m hm => congrArg Mailbox.items (List.eq_of_mem_replicate hm), rfl,
      fun e he => List.eq_of_mem_replicate he, fun n hn => List.eq_of_mem_replicate hn⟩
  · rintro d x rfl
    exact ⟨rfl, rfl, rfl, rfl, rfl, rfl, fun r hr n hn => List.eq_of_mem_replicate (List.eq_of_mem_replicate hr ▸ hn)⟩

end Sys2Proof.Machine

namespace Sys2Proof.Machine

/-! ### Resets, power states and records (R8, R325, R326, R393, R394) -/

/-- Leaving idle touches the power state and the port alone. -/
theorem State.leaveIdle_rest (s : State) : s.leaveIdle.mem = s.mem ∧ s.leaveIdle.hg = s.hg ∧ s.leaveIdle.mg = { s.mg with pwrCur := s.leaveIdle.mg.pwrCur } := by
  obtain ⟨p, m, h⟩ := s.leaveIdle_only
  rw [h]
  exact ⟨rfl, rfl, rfl⟩

theorem State.blobMay_of {s : State} (h : s.booted = false ∨ s.port.own = 3) : s.blobMay = true := by
  unfold State.blobMay
  rcases h with h | h <;> simp [h]

theorem State.busy_eq_false {s : State} (h : ∀ t ∈ s.hg.tasks, t.running = false ∧ (t.state = .ready → t.halted = true)) : s.busy = false := by
  unfold State.busy
  refine List.any_eq_false.2 fun t ht => ?_
  obtain ⟨hr, hh⟩ := h t ht
  simpa [hr] using hh

@[simp] theorem State.dropCopies_mem (s : State) (lo hi : Nat) : (s.dropCopies lo hi).mem = s.mem := by
  obtain ⟨cs, ds, rs, e, h⟩ := s.dropCopies_only lo hi
  rw [h]

theorem State.clearAll_rest (s : State) : s.clearAll.mem = s.mem.filter (fun c => 2 ^ 37 ≤ c.1) ∧ s.clearAll.hg = s.hg ∧ s.clearAll.mg = s.mg := by
  obtain ⟨cs, ds, rs, e, h⟩ := s.dropCopies_only 0 (2 ^ 37)
  unfold State.clearAll
  rw [h]
  exact ⟨rfl, rfl, rfl⟩

/-- With no halted task a new security state is set and raised, and no task ends. -/
theorem State.setSec_of_none_halted {s : State} (h : ∀ t ∈ s.hg.tasks, t.halted = false) (sec : BitVec 2) :
    ∃ p, s.setSec sec = { s with mg := { s.mg with sec := sec, dbg := 0, arm := false }, port := p } := by
  have none : s.hg.tasks.filter (fun t => t.halted) = [] := List.filter_eq_nil_iff.2 fun t ht => by simp [h t ht]
  unfold State.setSec
  rw [none]
  exact State.raiseSecurity_only _

/-- The memory below an address is cleared. -/
theorem readByte_cleared {m : List Host.Cell} (hw : Memory.wf m = true) (n a : Nat) :
    readByte (m.filter fun c => n ≤ c.1) a = if a < n then 0 else readByte m a := by
  rw [readByte_drop (fun x => n ≤ x) m hw a]
  by_cases h : a < n
  · simp [h, Nat.not_le.2 h]
  · simp [h, Nat.not_lt.1 h]

theorem State.powerOn_facts (s : State) :
    (Memory.wf s.mem = true → ∀ a, readByte s.powerOn.mem a = if a < 2 ^ 47 then 0 else readByte s.mem a) ∧
    s.powerOn.mg.sec = (if s.mg.banks.1 = 0 ∨ s.mg.banks.2 = 0 then s.mg.flashSec else 0) ∧
    s.powerOn.booted = decide (s.mg.banks.1 = 0 ∨ s.mg.banks.2 = 0) := by
  refine ⟨fun hw => readByte_cleared hw (2 ^ 47), ?_, bootOf_bit _ _⟩
  change (if (bootOf s.mg.banks s.mg.certBad).getLsbD 0 then s.mg.flashSec else 0) = _
  rw [bootOf_bit]
  simp

/-- What BLOB_CONFIGURATION makes of a record the stream port takes (R393, R394). -/
def State.configuration (s : State) (bytes : List Byte) (ok : Bool) : State :=
  if !blobForm bytes 2 then s.blobResult 5
  else if !ok then s.blobResult 1
  else ({ s with mg := { s.mg with flashCfg := some bytes } } : State).blobResult 6

section Judged
variable {s : State} {bytes : List Byte} {ok : Bool}

theorem State.configuration_malformed (hf : blobForm bytes 2 = false) : s.configuration bytes ok = s.blobResult 5 := by
  simp [State.configuration, hf]

theorem State.configuration_unsigned (hf : blobForm bytes 2 = true) (ho : ok = false) : s.configuration bytes ok = s.blobResult 1 := by
  simp [State.configuration, hf, ho]

theorem State.configuration_stored (hf : blobForm bytes 2 = true) (ho : ok = true) :
    s.configuration bytes ok = ({ s with mg := { s.mg with flashCfg := some bytes } } : State).blobResult 6 := by
  simp [State.configuration, hf, ho]

theorem State.transition_malformed (hf : blobForm bytes 1 = false) : s.transition bytes ok = s.blobResult 5 := by
  simp [State.transition, hf]

theorem State.transition_unsigned (hf : blobForm bytes 1 = true) (ho : ok = false) : s.transition bytes ok = s.blobResult 1 := by
  simp [State.transition, hf, ho]

variable (hf : blobForm bytes 1 = true)
include hf

theorem State.transition_misaddressed (h : Config.blobId bytes ≠ s.mg.id ∨ s.mg.certBad = true) :
    s.transition bytes true = s.blobResult 2 := by
  simp [State.transition, hf, h]

variable (hid : Config.blobId bytes = s.mg.id) (hc : s.mg.certBad = false)
include hid hc

theorem State.transition_barred (ht : transitionOk s.mg.sec (Config.blobTarget bytes) = false) :
    s.transition bytes true = s.blobResult 3 := by
  simp [State.transition, hf, hid, hc, ht]

variable (ht : transitionOk s.mg.sec (Config.blobTarget bytes) = true)
include ht

theorem State.transition_replayed (hs : (Config.blobSeq bytes).toNat ≤ s.mg.flashSeq.toNat) :
    s.transition bytes true = s.blobResult 4 := by
  simp [State.transition, hf, hid, hc, ht, hs]

/-- A transition record that is in order takes effect; when no task is halted, none ends (R325, R394). -/
theorem State.transition_accepted (hs : s.mg.flashSeq.toNat < (Config.blobSeq bytes).toNat) (hh : ∀ t ∈ s.hg.tasks, t.halted = false) :
    (s.transition bytes true).mem = (if Config.blobTarget bytes = 2 ∨ s.mg.sec = 2 then s.mem.filter (fun c => 2 ^ 37 ≤ c.1) else s.mem) ∧
    (s.transition bytes true).mg.sec = Config.blobTarget bytes ∧ (s.transition bytes true).mg.dbg = 0 ∧ (s.transition bytes true).mg.arm = false ∧
    (s.transition bytes true).mg.flashSec = Config.blobTarget bytes ∧ (s.transition bytes true).mg.flashSeq = BitVec.ofNat 64 (Config.blobSeq bytes).toNat := by
  obtain ⟨cm, ch, -⟩ := s.clearAll_rest
  unfold State.transition
  simp only [hf, hid, hc, ht, Nat.not_le.2 hs, Bool.not_true, Bool.false_eq_true, if_false, ne_eq, not_true_eq_false, decide_false, Bool.or_self]
  by_cases z : Config.blobTarget bytes = 2 ∨ s.mg.sec = 2
  · obtain ⟨p, e⟩ := State.setSec_of_none_halted (s := s.clearAll) (by rw [ch]; exact hh) (Config.blobTarget bytes)
    rw [if_pos (by simpa using z), if_pos z, e]
    exact ⟨cm, rfl, rfl, rfl, rfl, rfl⟩
  · obtain ⟨p, e⟩ := State.setSec_of_none_halted hh (Config.blobTarget bytes)
    rw [if_neg (by simpa using z), if_neg z, e]
    exact ⟨rfl, rfl, rfl, rfl, rfl, rfl⟩

end Judged

/-- Settles O54: the resets are compared field by field, the power states by what `setPower` changes, and a record by the
branch of R394 that its checks lead to. -/
theorem resetsPowerAndRecords : Obligations.ResetsPowerAndRecords := by
  intro s u hu
  refine ⟨?_, ?_, ?_, ?_, ?_⟩
  · obtain ⟨hmem, hsec, hboot⟩ := s.powerOn_facts
    exact ⟨_, rfl, rfl, hmem, rfl, rfl, rfl, hsec, hboot, rfl⟩
  · exact ⟨_, rfl, rfl, rfl, rfl, rfl, rfl, rfl, rfl, rfl, rfl, rfl, rfl⟩
  · intro hreq hcur hrun
    have hne : s.mg.pwrCur ≠ 2 := fun e => by rw [e] at hcur; exact absurd hcur (by decide)
    obtain ⟨hp, hi, hm, he⟩ := s.setPower_facts 2 hne
    refine ⟨s.setPower 2, congrArg _ (if_pos ?_), hp, hi, hm, he⟩
    simpa [hreq, hcur] using hrun
  · intro hcur hrest hlong
    obtain ⟨hp, hi, -, he⟩ := s.setPower_facts 1 (by rw [hcur]; decide)
    refine ⟨s.setPower 1, congrArg _ (if_pos ?_), hp, hi, he⟩
    rw [hcur, State.busy_eq_false hrest]
    simpa using hlong
  · subst hu
    intro hmay bytes ok res hres
    have may := State.blobMay_of hmay
    obtain ⟨um, uh, ug⟩ := s.leaveIdle_rest
    have hT : exec (.blobTransition bytes ok) s = .next (s.leaveIdle.transition bytes ok) := congrArg _ (if_pos may)
    have hC : exec (.blobConfiguration bytes ok) s = .next (s.leaveIdle.configuration bytes ok) := congrArg _ (if_neg (by simp [may]))
    refine ⟨fun kind hk i hi => ?_, fun hf ho => ?_, fun hf ho to_ seq hto hseq => ?_⟩
    · have judged : ∀ n, (kind = 1 → s.leaveIdle.transition bytes ok = s.leaveIdle.blobResult n) → (kind = 2 → s.leaveIdle.configuration bytes ok = s.leaveIdle.blobResult n) →
          exec i s = .next (res n) := by
        intro n h1 h2
        rw [hi, hres]
        simp only [List.mem_cons, List.not_mem_nil, or_false] at hk
        rcases hk with rfl | rfl
        · rw [if_pos rfl, hT, h1 rfl]; rfl
        · rw [if_neg (by decide), hC, h2 rfl]; rfl
      exact ⟨fun hf => judged 5 (fun e => State.transition_malformed (e ▸ hf)) (fun e => State.configuration_malformed (e ▸ hf)),
        fun hf ho => judged 1 (fun e => State.transition_unsigned (e ▸ hf) ho) (fun e => State.configuration_unsigned (e ▸ hf) ho)⟩
    · rw [hC, hres, State.configuration_stored hf ho]; rfl
    · subst hto hseq ho
      have hid : s.leaveIdle.mg.id = s.mg.id := by rw [ug]
      have hcert : s.leaveIdle.mg.certBad = s.mg.certBad := by rw [ug]
      have hsec : s.leaveIdle.mg.sec = s.mg.sec := by rw [ug]
      have hflash : s.leaveIdle.mg.flashSeq = s.mg.flashSeq := by rw [ug]
      rw [hT, hres, ← hid, ← hcert, ← hsec, ← hflash, ← um, ← uh]
      refine ⟨fun h => ?_, fun h1 h2 h3 => ?_, fun h1 h2 h3 h4 => ?_, fun h1 h2 h3 h4 h5 => ⟨_, rfl, ?_⟩⟩
      · rw [State.transition_misaddressed hf h]; rfl
      · rw [State.transition_barred hf h1 h2 h3]; rfl
      · rw [State.transition_replayed hf h1 h2 h3 h4]; rfl
      · obtain ⟨hmem, tsec, tdbg, tarm, tfs, tseq⟩ := State.transition_accepted hf h1 h2 h3 h4 h5
        refine ⟨tsec, tdbg, tarm, tfs, tseq, fun hw a => ?_⟩
        rw [hmem]
        by_cases z : Config.blobTarget bytes = 2 ∨ s.leaveIdle.mg.sec = 2
        · simp only [z, if_true, true_and, readByte_cleared hw]
        · simp only [z, false_and, if_false]

end Sys2Proof.Machine
end

section
/-! ### O60: every step keeps memory canonical

`State.memOk` is an invariant of one field, so the proof is a frame argument along the model's own decomposition: for each function that
`step` reaches, either it leaves `mem` as it is (`f_mem`), or it writes memory through a function that does so canonically (`f_memOk`). The
writers come down to two facts about the canonical list, `Memory.wf_writeBytes` and `Memory.wf_filter`. A function that returns a result
and not a state is judged by the state its result carries, `.state`. Each proof names the lemmas of the functions its own one calls, in the
order of the model; what is left in every branch is to chain them. -/
namespace Sys2Proof.Machine

/-! ### The state a result carries -/

/-- The state a unit's translation carries. -/
def UnitTr.state : UnitTr → State | .wait s | .fail s | .ok s _ _ => s

/-- The state a unit's access carries. -/
def UnitRes.state {α : Type} : UnitRes α → State | .wait s | .fail s | .ok s _ => s

/-- The state an engine's access carries. -/
def EngRes.state {α : Type} : EngRes α → State | .wait s | .fault s _ _ | .ok s _ => s

/-- The state a flume's access carries. -/
def FlRes.state {α : Type} : FlRes α → State | .wait s | .fail s _ | .ok s _ => s

/-- The state an append to a work queue carries. -/
def AppendRes.state : AppendRes → State | .wait s | .fail s | .ok s _ => s

/-- The state a presented call carries. -/
def Present.state : Present → State | .raised s | .done s | .held s _ => s

/-- The state a lane's access carries; one to be made again carries none, and stands for the state before it. -/
def LaneStep.state (before : State) : LaneStep → State | .done s _ | .wait s => s | .retry => before

/-- The state a ray's walk carries. -/
def TravRes.state : TravRes → State | .wait s | .bad s _ _ | .ok s _ _ => s

/-- The state the machine's next activity starts from. -/
def Next.state (before : State) : Next → State | .event _ s | .weave s | .act s => s | .idle => before

/-- The state the read of a record carries. -/
def RecRead.state : RecRead → State | .stop s | .ok s _ => s

/-- The state a fetch carries. -/
def FetchRes.state {α : Type} : FetchRes α → State | .got s _ | .stop s => s

/-- The state a strand's turn carries. -/
def Turn.state : Turn → State | .done s | .run s _ => s

/-- The state after looking up a rendezvous object, which only a wait changes. -/
def RdvPlace.state (before : State) : RdvPlace → State | .wait s => s | _ => before

/-! ### Composition -/

theorem State.foldl_mem {α : Type} {f : State → α → State} (hf : ∀ s x, (f s x).mem = s.mem) (l : List α) (s : State) :
    (l.foldl f s).mem = s.mem :=
  List.foldlRecOn (motive := fun t => t.mem = s.mem) l f rfl fun t ht x _ => (hf t x).trans ht

theorem State.foldl_memOk {α : Type} {f : State → α → State} (hf : ∀ s x, s.memOk → (f s x).memOk) (l : List α) {s : State} (h : s.memOk) :
    (l.foldl f s).memOk :=
  List.foldlRecOn (motive := State.memOk) l f h fun t ht x _ => hf t x ht

theorem State.memOk_of_mem_eq {s t : State} (e : t.mem = s.mem) (hs : s.memOk) : t.memOk := by rwa [State.memOk, e]

theorem UnitRes.memOk_of_eq {α : Type} {r q : UnitRes α} (e : r = q) (hr : r.state.memOk) : q.state.memOk := e ▸ hr

theorem UnitTr.memOk_of_eq {r q : UnitTr} (e : r = q) (hr : r.state.memOk) : q.state.memOk := e ▸ hr

theorem EngRes.memOk_of_eq {α : Type} {r q : EngRes α} (e : r = q) (hr : r.state.memOk) : q.state.memOk := e ▸ hr

theorem State.foldl_fst_memOk {α β : Type} {f : State × β → α → State × β} (hf : ∀ p x, p.1.memOk → (f p x).1.memOk) (l : List α)
    {p : State × β} (hp : p.1.memOk) : (l.foldl f p).1.memOk :=
  List.foldlRecOn (motive := fun p : State × β => p.1.memOk) l f hp fun q hq x _ => hf q x hq

/-! ### Strands, cores, dies and tasks -/

@[simp] theorem State.fire_mem (s : State) (hit : Strand → WatchRegion → Bool) : (s.fire hit).mem = s.mem := rfl

@[simp] theorem State.endTaskBy_mem (s : State) (st : Strand) (causes : BitVec 64) : (s.endTaskBy st causes).mem = s.mem := rfl

@[simp] theorem State.deliver_mem (s : State) (st : Strand) (causes tval : BitVec 64) (epc : Addr) : (s.deliver st causes tval epc).mem = s.mem := by
  unfold State.deliver
  grind [State.putStrand_mem, State.endTaskBy_mem]

@[simp] theorem State.raise_mem (s : State) (st : Strand) (causes tval : BitVec 64) : (s.raise st causes tval).mem = s.mem := by simp [State.raise]

@[simp] theorem State.raiseAfter_mem (s : State) (st : Strand) (len : Nat) (causes tval : BitVec 64) :
    (s.raiseAfter st len causes tval).mem = s.mem := by
  simp [State.raiseAfter]

@[simp] theorem State.reenterHandler_mem (s : State) (st : Strand) (kind : Nat) : (s.reenterHandler st kind).mem = s.mem := by
  unfold State.reenterHandler
  grind [State.putStrand_mem, State.endTaskBy_mem]

@[simp] theorem State.settleDue_mem (s : State) (st : Strand) : (s.settleDue st).mem = s.mem := by
  unfold State.settleDue
  grind [State.putStrand_mem, State.deliver_mem]

/-! ### Bundles -/

@[simp] theorem State.setEngine_mem (s : State) (d c u : Nat) (e : Engine) : (s.setEngine d c u e).mem = s.mem := by
  unfold State.setEngine
  grind [State.setCore_mem, State.setQe_mem]

@[simp] theorem State.returnCount_mem (s : State) (d c n : Nat) : (s.returnCount d c n).mem = s.mem := by
  unfold State.returnCount
  grind [State.setCore_mem, State.foldl_mem]

@[simp] theorem State.dissolve_mem (s : State) (b : Bundle) : (s.dissolve b).mem = s.mem := by simp [State.dissolve, State.foldl_mem]

@[simp] theorem State.dissolveIfDone_mem (s : State) (h : Nat) : (s.dissolveIfDone h).mem = s.mem := by
  unfold State.dissolveIfDone
  grind [State.dissolve_mem]

@[simp] theorem State.leave_mem (s : State) (st : Strand) : (s.leave st).mem = s.mem := by
  unfold State.leave
  grind [State.putStrand_mem, State.dissolveIfDone_mem]

@[simp] theorem State.releaseBlocks_mem (s : State) (st : Strand) (fromS fromV : Nat) : (s.releaseBlocks st fromS fromV).mem = s.mem := rfl

@[simp] theorem State.newBundle_mem (s : State) (d c : Nat) (pdom : BitVec 8) (task grant exp : Nat) :
    (s.newBundle d c pdom task grant exp).2.mem = s.mem := rfl

@[simp] theorem State.endStrand_mem (s : State) (st : Strand) : (s.endStrand st).mem = s.mem := by
  unfold State.endStrand
  grind [State.setCore_mem, State.mapTask_mem, State.dissolveIfDone_mem, State.releaseBlocks_mem]

/-! ### Homes and caches -/

@[simp] theorem State.freeVec_mem (s : State) : (s.freeVec).2.mem = s.mem := rfl

@[simp] theorem State.homeAtom_mem (s : State) (k atom : Nat) : (s.homeAtom k atom).2.mem = s.mem := by
  unfold State.homeAtom
  grind [!State.freeVec_mem]

@[simp] theorem State.fireLine_mem (s : State) (pa : Nat) : (s.fireLine pa).mem = s.mem := rfl

@[simp] theorem State.noteDirty_mem (s : State) (pa : Nat) : (s.noteDirty pa).mem = s.mem := by
  unfold State.noteDirty
  grind

theorem State.homeWriteAtom_memOk {s : State} {pa : Nat} {bs : List Byte} {strong : Bool} (hs : s.memOk) : (s.homeWriteAtom pa bs strong).memOk := by
  unfold State.homeWriteAtom
  simp only [State.memOk, State.noteDirty_mem, State.fireLine_mem]
  exact Memory.wf_writeBytes hs

theorem State.homeWrite_memOk {s : State} {pa : Nat} {bs : List Byte} {strong : Bool} (hs : s.memOk) : (s.homeWrite pa bs strong).memOk := by
  unfold State.homeWrite
  grind [State.memOk, State.homeWriteAtom_memOk, State.foldl_memOk]

@[simp] theorem State.noteCache_mem (s : State) (d : Nat) (c : Option Nat) (src n : Nat) (who : List (Nat × Bool)) :
    (s.noteCache d c src n who).mem = s.mem := by
  unfold State.noteCache
  split <;> rfl

@[simp] theorem State.tagNotes_mem (s : State) (from_ : Nat) (who : List (Nat × Bool)) : (s.tagNotes from_ who).mem = s.mem := rfl

@[simp] theorem State.noteKills_mem (t s : State) : (t.noteKills s).mem = t.mem := by simp [State.noteKills, State.foldl_mem]

@[simp] theorem State.fillL1_mem (s : State) (d c atom : Nat) (data : Vec) (mark hint : Nat) : (s.fillL1 d c atom data mark hint).mem = s.mem := by
  simp [State.fillL1]

@[simp] theorem State.fillRdc_mem (s : State) (d atom : Nat) (data : Vec) (mark hint : Nat) : (s.fillRdc d atom data mark hint).mem = s.mem := rfl

@[simp] theorem State.useL1_mem (s : State) (d c atom : Nat) : (s.useL1 d c atom).mem = s.mem := rfl

@[simp] theorem State.useRdc_mem (s : State) (d atom : Nat) : (s.useRdc d atom).mem = s.mem := rfl

@[simp] theorem State.l2Touch_mem (s : State) (pa : Nat) (pl : Option L2Place) (write : Bool) : (s.l2Touch pa pl write).mem = s.mem := by
  unfold State.l2Touch
  grind [State.setDie_mem, State.noteCache_mem]

@[simp] theorem State.setRow_mem (s : State) (d k : Nat) (r : List Nat) : (s.setRow d k r).mem = s.mem := rfl

@[simp] theorem State.raiseRow_mem (s : State) (d k : Nat) : (s.raiseRow d k).mem = s.mem := rfl

@[simp] theorem State.addOutstanding_mem (s : State) (d : Nat) (core : Option Nat) (f : Nat → Nat) : (s.addOutstanding d core f).mem = s.mem := by
  unfold State.addOutstanding
  grind [State.setCore_mem]

@[simp] theorem State.sendWrite_mem (s : State) (d k : Nat) (core : Option Nat) (pa : Nat) (bs : List Byte) (strong : Bool) (pl : Option L2Place) :
    (s.sendWrite d k core pa bs strong pl).mem = s.mem := by
  simp [State.sendWrite]

@[simp] theorem State.tagWrites_mem (s : State) (from_ task pdom : Nat) : (s.tagWrites from_ task pdom).mem = s.mem := rfl

theorem State.writeAtom_memOk {s : State} {d : Nat} {core : Option Nat} {pa : Nat} {bs : List Byte} {strong : Bool} {pl : Option L2Place}
    (hs : s.memOk) : (s.writeAtom d core pa bs strong pl).memOk := by
  unfold State.writeAtom
  grind [State.memOk, State.setCore_mem, State.setDie_mem, State.homeWriteAtom_memOk, State.noteCache_mem, State.l2Touch_mem, State.sendWrite_mem,
    State.spoilFills_mem]

theorem State.writeAtomPoisoned_memOk {s : State} {d : Nat} {core : Option Nat} {pa : Nat} {bs : List Byte} {pl : Option L2Place} (hs : s.memOk) :
    (s.writeAtomPoisoned d core pa bs pl).memOk := by
  unfold State.writeAtomPoisoned
  grind [State.memOk, State.setCore_mem, State.setDie_mem, State.writeAtom_memOk]

theorem State.writeMem_memOk {s : State} {d : Nat} {core : Option Nat} {pa : Nat} {bs : List Byte} {strong : Bool} {pl : Option L2Place}
    (hs : s.memOk) : (s.writeMem d core pa bs strong pl).memOk := by
  unfold State.writeMem
  grind [State.memOk, State.writeAtom_memOk, State.foldl_memOk]

@[simp] theorem State.noteRead_mem (s : State) (d : Nat) (core : Option Nat) (pa : Nat) (pl : L2Place) (data : Vec) (mark : Nat) :
    (s.noteRead d core pa pl data mark).mem = s.mem := by
  unfold State.noteRead
  grind [State.noteCache_mem, State.fillL1_mem, State.fillRdc_mem, State.useL1_mem, State.useRdc_mem, State.l2Touch_mem]

theorem State.unitAtom_mem {s t : State} {d : Nat} {core : Option Nat} {pa : Nat} {pl : L2Place} {v : Vec} {m : Nat}
    (e : s.unitAtom d core pa pl = some (v, m, t)) : t.mem = s.mem := by
  unfold State.unitAtom at e
  grind [State.noteRead_mem, State.raiseRow_mem, !State.homeAtom_mem]

@[simp] theorem State.acquire_mem (s : State) (d c scope : Nat) (bundle : Option Nat) (who : SRef) :
    (s.acquire d c scope bundle who).mem = s.mem := by
  unfold State.acquire
  grind [State.setCore_mem, State.setDie_mem, State.noteCache_mem, State.spoilFills_mem]

@[simp] theorem State.gxAcquire_mem (s : State) : s.gxAcquire.mem = s.mem := rfl

@[simp] theorem State.acquireAll_mem (s : State) : s.acquireAll.mem = s.mem := by simp [State.acquireAll]

/-! ### Cross-die writes -/

theorem State.applyWrite_memOk {s : State} {w : XWrite} (hs : s.memOk) : (s.applyWrite w).memOk := by
  unfold State.applyWrite
  grind [State.memOk, State.setDie_mem, State.fireLine_mem, State.homeWrite_memOk, State.tagNotes_mem, State.l2Touch_mem]

@[simp] theorem State.ackWrite_mem (s : State) (w : XWrite) : (s.ackWrite w).mem = s.mem := by
  unfold State.ackWrite
  grind [State.setCore_mem, State.setDie_mem, State.raiseRow_mem, State.addOutstanding_mem]

theorem State.drainGx_memOk {s : State} {f : Nat} (hs : s.memOk) : (s.drainGx f).memOk := by
  induction f generalizing s with
  | zero => exact hs
  | succ f ih =>
    unfold State.drainGx
    grind [State.memOk, State.applyWrite_memOk, State.ackWrite_mem]

theorem State.linkRoom_memOk {s : State} {d pa : Nat} {f : Nat} (hs : s.memOk) : (s.linkRoom d pa f).memOk := by
  induction f generalizing s d pa with
  | zero => exact hs
  | succ f ih =>
    unfold State.linkRoom
    grind [State.memOk, State.applyWrite_memOk, State.ackWrite_mem]

theorem State.gxRelease_memOk {s : State} (hs : s.memOk) : s.gxRelease.memOk := by
  unfold State.gxRelease
  grind [State.memOk, State.drainGx_memOk]

/-! ### Translation and the fault queue -/

@[simp] theorem State.tlbUse_mem (s : State) (d c pdom page : Nat) : (s.tlbUse d c pdom page).mem = s.mem := by
  unfold State.tlbUse
  grind [State.setCore_mem]

@[simp] theorem State.tlbFill_mem (s : State) (d pdom page : Nat) (l : Leaf) : (s.tlbFill d pdom page l).mem = s.mem := rfl

@[simp] theorem State.tlbMap_mem (s : State) (pdom page : Nat) (f : Leaf → Option Leaf) : (s.tlbMap pdom page f).mem = s.mem := rfl

@[simp] theorem State.raiseMsix_mem (s : State) (v : Nat) : (s.raiseMsix v).mem = s.mem := by
  unfold State.raiseMsix
  split <;> rfl

@[simp] theorem State.raiseSecurity_mem (s : State) : s.raiseSecurity.mem = s.mem := by simp [State.raiseSecurity]

@[simp] theorem State.setPower_mem (s : State) (p : BitVec 2) : (s.setPower p).mem = s.mem := by
  unfold State.setPower
  grind [State.raiseSecurity_mem]

@[simp] theorem State.leaveIdle_mem (s : State) : s.leaveIdle.mem = s.mem := by
  unfold State.leaveIdle
  grind [State.setPower_mem]

@[simp] theorem State.i3cSeen_mem (s : State) (m : Nat) : (s.i3cSeen m).mem = s.mem := by
  unfold State.i3cSeen
  grind [State.leaveIdle_mem]

theorem State.putFault_memOk {s : State} {pa : Nat} {pl : L2Place} {record : Nat} (hs : s.memOk) : (s.putFault pa pl record).memOk := by
  unfold State.putFault
  grind [State.memOk, State.writeMem_memOk, State.gxRelease_memOk, State.raiseMsix_mem]

theorem State.appendFault_memOk {s : State} {record : Nat} (hs : s.memOk) : (s.appendFault record).memOk := by
  unfold State.appendFault
  grind [State.memOk, State.putFault_memOk]

theorem State.faultRecord_memOk {s : State} {kind reason task arg : Nat} (hs : s.memOk) : (s.faultRecord kind reason task arg).memOk := by
  unfold State.faultRecord
  grind [State.memOk, State.appendFault_memOk]

theorem State.memRecord_memOk {s : State} {kind reason count part acc die core pdom task addr : Nat} (hs : s.memOk) :
    (s.memRecord kind reason count part acc die core pdom task addr).memOk := by
  unfold State.memRecord
  grind [State.memOk, State.appendFault_memOk]

@[simp] theorem State.holdStrand_mem (s : State) (r : SRef) (w : Wait) : (s.holdStrand r w).mem = s.mem := by
  unfold State.holdStrand
  grind [State.putStrand_mem]

@[simp] theorem State.mergeMiss_mem (s : State) (st : Strand) (acc va : Nat) : (s.mergeMiss st acc va).mem = s.mem := by
  unfold State.mergeMiss
  grind [State.setDie_mem, State.note_mem, State.holdStrand_mem]

@[simp] theorem State.reissuePage_mem (s : State) (d : Nat) (hit : Nat → Nat → Bool) : (s.reissuePage d hit).mem = s.mem := rfl

theorem State.finishWalk_memOk {s : State} {d : Nat} {e : MergeEntry} (hs : s.memOk) : (s.finishWalk d e).memOk := by
  unfold State.finishWalk
  grind [State.memOk, State.setDie_mem, State.tlbFill_mem, State.memRecord_memOk, State.reissuePage_mem]

@[simp] theorem State.dropUnitClaim_mem (s : State) (u : UnitWait) (page part : Nat) : (s.dropUnitClaim u page part).mem = s.mem := by
  unfold State.dropUnitClaim
  split <;> rfl

@[simp] theorem State.unitAwaitPart_mem (s : State) (u : UnitWait) (page part : Nat) : (s.unitAwaitPart u page part).mem = s.mem := rfl

@[simp] theorem State.unitTranslate_mem (s : State) (d : Nat) (core : Option Nat) (pdom partid task va : Nat) (write : Bool) :
    (s.unitTranslate d core pdom partid task va write).state.mem = s.mem := by
  unfold State.unitTranslate
  grind [UnitTr.state, State.setDie_mem, State.note_mem, State.tlbMap_mem, State.dropUnitClaim_mem, State.unitAwaitPart_mem]

@[simp] theorem State.unitReadPieces_mem (s : State) (d : Nat) (core : Option Nat) (pdom partid task : Nat) (va n : Nat) (acc : List Byte)
    (mark : Nat) (f : Nat) : (s.unitReadPieces d core pdom partid task va n acc mark f).state.mem = s.mem := by
  induction f generalizing s d core pdom partid task va n acc mark with
  | zero => rfl
  | succ f ih =>
    unfold State.unitReadPieces
    grind [UnitRes.state, UnitTr.state, State.unitAtom_mem, !State.unitTranslate_mem]

@[simp] theorem State.unitRead_mem (s : State) (d : Nat) (core : Option Nat) (pdom partid task va n : Nat) :
    (s.unitRead d core pdom partid task va n).state.mem = s.mem := by
  simp [State.unitRead]

theorem State.hgReadPieces_memOk {s : State} {pdom partid task : Nat} {va n : Nat} {acc : List Byte} {f : Nat} (hs : s.memOk) :
    (s.hgReadPieces pdom partid task va n acc f).state.memOk := by
  induction f generalizing s pdom partid task va n acc with
  | zero => exact hs
  | succ f ih =>
    unfold State.hgReadPieces
    grind [UnitRes.state, UnitTr.state, State.memOk, !State.homeAtom_mem, State.raiseRow_mem, State.gxRelease_memOk, !State.unitTranslate_mem]

theorem State.hgRead_memOk {s : State} {pdom partid task va n : Nat} (hs : s.memOk) : (s.hgRead pdom partid task va n).state.memOk := by
  unfold State.hgRead
  grind [UnitRes.state, State.memOk, !State.hgReadPieces_memOk]

@[simp] theorem State.unitCanWrite_mem (s : State) (d : Nat) (core : Option Nat) (pdom partid task va n : Nat) :
    (s.unitCanWrite d core pdom partid task va n).state.mem = s.mem := by
  unfold State.unitCanWrite
  grind [UnitTr.state, !State.unitTranslate_mem]

theorem State.unitWrite_memOk {s : State} {d : Nat} {core : Option Nat} {pdom partid task va : Nat} {bs : List Byte} (hs : s.memOk) :
    (s.unitWrite d core pdom partid task va bs).state.memOk := by
  unfold State.unitWrite
  have may := State.memOk_of_mem_eq (s.unitCanWrite_mem d core pdom partid task va bs.length) hs
  split
  · next e => exact UnitTr.memOk_of_eq e may
  · next e => exact UnitTr.memOk_of_eq e may
  · next t pa _ e =>
    have ht : t.memOk := UnitTr.memOk_of_eq e may
    split
    · exact ht
    · refine List.foldlRecOn (motive := fun r : UnitRes Unit => r.state.memOk) _ _ ht fun r hr p _ => ?_
      split
      · next u _ =>
        have tr := State.memOk_of_mem_eq (u.unitTranslate_mem d core pdom partid task p.1 true) hr
        split
        · next e => exact State.writeAtom_memOk (UnitTr.memOk_of_eq e tr)
        · next e => exact UnitTr.memOk_of_eq e tr
        · next e => exact UnitTr.memOk_of_eq e tr
      · exact hr

theorem State.flushFaults_memOk {s : State} {f : Nat} (hs : s.memOk) : (s.flushFaults f).memOk := by
  induction f generalizing s with
  | zero => exact hs
  | succ f ih =>
    unfold State.flushFaults
    grind [UnitTr.state, State.memOk, State.putFault_memOk, !State.unitTranslate_mem]

/-! ### Scratchpads, operand buffers and tiles -/

@[simp] theorem State.fireOpbuf_mem (s : State) (d c off n : Nat) : (s.fireOpbuf d c off n).mem = s.mem := rfl

theorem State.bwPut_memOk {s : State} {h off : Nat} {bs : List Byte} (hs : s.memOk) : (s.bwPut h off bs).memOk := by
  unfold State.bwPut
  split
  · split
    · refine State.foldl_memOk (fun t p ht => ?_) _ hs
      grind [State.writeAtom_memOk]
    · exact hs
  · exact hs

@[simp] theorem State.freeBytes_mem (s : State) (n : Nat) : (s.freeBytes n).2.mem = s.mem := rfl

theorem State.grantBytesAt_memOk {s : State} {b : Bundle} {off n : Nat} (hs : s.memOk) : (s.grantBytesAt b off n).state.memOk := by
  unfold State.grantBytesAt
  grind [UnitRes.state, State.memOk, !State.hgRead_memOk, !State.freeBytes_mem]

@[simp] theorem State.writeGrant_mem (s : State) (h off : Nat) (bs : List Byte) : (s.writeGrant h off bs).mem = s.mem := rfl

theorem State.putGrant_memOk {s : State} {h off : Nat} {bs : List Byte} (hs : s.memOk) : (s.putGrant h off bs).memOk := by
  fun_cases State.putGrant s h off bs
  grind [State.memOk, State.bwPut_memOk, State.writeGrant_mem]

@[simp] theorem State.writeOpbuf_mem (s : State) (d c off : Nat) (bs : List Byte) : (s.writeOpbuf d c off bs).mem = s.mem := rfl

@[simp] theorem State.mapBar_mem (s : State) (h k : Nat) (f : Bar → Bar) : (s.mapBar h k f).mem = s.mem := rfl

theorem State.putBar_memOk {s : State} {h k : Nat} {f : Bar → Bar} (hs : s.memOk) : (s.putBar h k f).memOk := by
  fun_cases State.putBar s h k f
  grind [State.memOk, State.bwPut_memOk, State.mapBar_mem]

@[simp] theorem State.mapTile_mem (s : State) (h : Nat) (f : Tile → Tile) : (s.mapTile h f).mem = s.mem := rfl

@[simp] theorem State.releaseTile_mem (s : State) (h : Nat) : (s.releaseTile h).mem = s.mem := rfl

@[simp] theorem State.freeTiles_mem (s : State) : s.freeTiles.mem = s.mem := by
  unfold State.freeTiles
  grind [State.fire_mem]

@[simp] theorem State.stopFill_mem (s : State) (u : Nat) (r : EngRun) : (s.stopFill u r).mem = s.mem := by
  unfold State.stopFill
  grind [State.mapTile_mem, State.foldl_mem]

@[simp] theorem State.endFill_mem (s : State) (u : Nat) (r : EngRun) : (s.endFill u r).mem = s.mem := by
  unfold State.endFill
  grind [State.mapTile_mem, State.foldl_mem]

/-! ### The Headgate -/

@[simp] theorem State.setEpoch_mem (s : State) (e st dom : Nat) : (s.setEpoch e st dom).mem = s.mem := rfl

@[simp] theorem State.readyTask_mem (s : State) (key : Nat) : (s.readyTask key).mem = s.mem := rfl

@[simp] theorem State.unspill_mem (s : State) (f : Nat) : (s.unspill f).mem = s.mem := by
  induction f generalizing s with
  | zero => rfl
  | succ f ih =>
    unfold State.unspill
    grind [State.mapTask_mem]

@[simp] theorem State.decNode_mem (s : State) (t : Task) : (s.decNode t).mem = s.mem := by
  unfold State.decNode
  grind [State.mapTask_mem, State.readyTask_mem]

theorem State.signalNode_memOk {s : State} {node pdom : Nat} (hs : s.memOk) : (s.signalNode node pdom).memOk := by
  unfold State.signalNode
  grind [State.memOk, State.faultRecord_memOk, State.decNode_mem]

@[simp] theorem State.finish_mem (s : State) (key status : Nat) : (s.finish key status).mem = s.mem := rfl

@[simp] theorem State.reject_mem (s : State) (key reason : Nat) : (s.reject key reason).mem = s.mem := rfl

@[simp] theorem State.startKernel_mem (s : State) (key : Nat) (fast : Bool) : (s.startKernel key fast).mem = s.mem := rfl

@[simp] theorem State.enroll_mem (s : State) (t : Task) : (s.enroll t).mem = s.mem := by
  unfold State.enroll
  grind [State.mapTask_mem, State.readyTask_mem, State.finish_mem, State.startKernel_mem]

theorem State.tryAdmit_memOk {s : State} {key : Nat} (hs : s.memOk) : (s.tryAdmit key).memOk := by
  unfold State.tryAdmit
  grind [UnitRes.state, State.memOk, State.mapTask_mem, !State.hgRead_memOk, State.reject_mem, State.enroll_mem]

theorem State.accept_memOk {s : State} {r : TaskRec} {addr : Nat} {spawner : Option Strand} {unread launch : Bool} (hs : s.memOk) :
    (s.accept r addr spawner unread launch).2.memOk := by
  unfold State.accept
  grind [State.memOk, State.reject_mem, State.tryAdmit_memOk]

theorem State.acceptHost_memOk {s : State} (hs : s.memOk) : s.acceptHost.memOk := by
  unfold State.acceptHost
  grind [UnitRes.state, State.memOk, !State.hgRead_memOk, !State.accept_memOk]

@[simp] theorem State.writeHtail_mem (s : State) (v : BitVec 64) : (s.writeHtail v).mem = s.mem := by simp [State.writeHtail]

@[simp] theorem State.noteFirst_mem (s : State) : s.noteFirst.mem = s.mem := by
  unfold State.noteFirst
  split <;> rfl

@[simp] theorem State.writePolicy_mem (s : State) (v : BitVec 64) : (s.writePolicy v).mem = s.mem := rfl

@[simp] theorem State.endPlain_mem (s : State) (key : Nat) : (s.endPlain key).mem = s.mem := rfl

@[simp] theorem State.dispatch_mem (s : State) (t : Task) : (s.dispatch t).mem = s.mem := by
  unfold State.dispatch
  grind [State.mapTask_mem, State.setEngine_mem, State.gxAcquire_mem, State.startKernel_mem, State.endPlain_mem]

@[simp] theorem State.placeStrands_mem (s : State) (t : Task) (d c h : Nat) (hd : BitVec 16 × Nat) (sid mid : Nat) (l : List Nat) :
    (s.placeStrands t d c h hd sid mid l).mem = s.mem := by
  induction l generalizing s t d c h hd sid mid with
  | nil => rfl
  | cons x l ih =>
    unfold State.placeStrands
    grind [State.setCore_mem]

@[simp] theorem State.placeBundle_mem (s : State) (t : Task) (d c k : Nat) (hd : BitVec 16 × Nat) : (s.placeBundle t d c k hd).mem = s.mem := by
  simp [State.placeBundle]

@[simp] theorem State.placeNext_mem (s : State) (d : Nat) (sel : Task → Bool) : (s.placeNext d sel).mem = s.mem := by
  unfold State.placeNext
  dsimp only
  split
  · rfl
  · split
    · simp
    · grind [UnitRes.state, !State.unitRead_mem, State.endPlain_mem, State.placeBundle_mem, State.mapTask_mem]

@[simp] theorem State.handOver_mem (s : State) (t : Task) (die : Nat) : (s.handOver t die).mem = s.mem := by
  unfold State.handOver
  grind [State.note_mem, State.mapTask_mem]

theorem State.decSuccessors_memOk {s : State} {t : Task} {nodes : List Nat} (hs : s.memOk) : (s.decSuccessors t nodes).memOk := by
  unfold State.decSuccessors
  grind [State.memOk, State.faultRecord_memOk, State.decNode_mem, State.foldl_memOk]

theorem State.tellSuccessors_memOk {s : State} {t : Task} (hs : s.memOk) : (s.tellSuccessors t).state.memOk := by
  unfold State.tellSuccessors
  grind [UnitRes.state, State.memOk, State.mapTask_mem, !State.hgRead_memOk, State.decSuccessors_memOk]

theorem State.closeTask_memOk {s : State} {t : Task} (hs : s.memOk) : (s.closeTask t).memOk := by
  unfold State.closeTask
  grind [UnitRes.state, State.memOk, State.faultRecord_memOk, !State.tellSuccessors_memOk]

theorem State.completeTask_memOk {s : State} {t : Task} (hs : s.memOk) : (s.completeTask t).memOk := by
  unfold State.completeTask
  grind [UnitRes.state, State.memOk, State.mapTask_mem, State.gxRelease_memOk, State.faultRecord_memOk, !State.unitWrite_memOk, State.closeTask_memOk]

theorem State.finishNow_memOk {s : State} {key status : Nat} (hs : s.memOk) : (s.finishNow key status).memOk := by
  unfold State.finishNow
  grind [State.memOk, State.finish_mem, State.completeTask_memOk]

/-! ### Work queues -/

@[simp] theorem State.mapQueue_mem (s : State) (n : Nat) (f : WorkQueue → WorkQueue) : (s.mapQueue n f).mem = s.mem := rfl

theorem State.disableQueue_memOk {s : State} {q : WorkQueue} (hs : s.memOk) : (s.disableQueue q).memOk := by
  unfold State.disableQueue
  grind [State.memOk, State.faultRecord_memOk, State.mapQueue_mem]

@[simp] theorem State.qtDone_mem (s : State) (n : Nat) : (s.qtDone n).mem = s.mem := rfl

theorem State.qtRefuse_memOk {s : State} {n addr : Nat} (hs : s.memOk) : (s.qtRefuse n addr).memOk := by
  unfold State.qtRefuse
  grind [State.memOk, State.faultRecord_memOk, State.qtDone_mem]

theorem State.registerQueue_memOk {s : State} {n : Nat} (hs : s.memOk) : (s.registerQueue n).memOk := by
  fun_cases State.registerQueue s n <;> grind [UnitRes.state, State.memOk, !State.hgRead_memOk, State.qtDone_mem, State.qtRefuse_memOk]

theorem State.registerPending_memOk {s : State} (hs : s.memOk) : s.registerPending.memOk := by
  unfold State.registerPending
  grind [State.memOk, State.registerQueue_memOk, State.foldl_memOk]

theorem State.writeQtcount_memOk {s : State} {v : BitVec 64} (hs : s.memOk) : (s.writeQtcount v).memOk := by
  unfold State.writeQtcount
  grind [State.memOk, State.registerPending_memOk]

theorem State.setTail_memOk {s : State} {q : WorkQueue} {tail : Nat} (hs : s.memOk) : (s.setTail q tail).memOk := by
  unfold State.setTail
  extract_lets q' t
  have ht : t.memOk := hs
  split
  · exact State.disableQueue_memOk ht
  · exact ht

theorem State.launch_memOk {s : State} {q : WorkQueue} (hs : s.memOk) : (s.launch q).memOk := by
  fun_cases State.launch s q <;> grind [UnitRes.state, State.memOk, State.gxRelease_memOk, !State.hgRead_memOk, !State.unitWrite_memOk,
    !State.accept_memOk, State.mapQueue_mem, State.disableQueue_memOk]

@[simp] theorem State.frameQueues_mem (s : State) : s.frameQueues.mem = s.mem := rfl

theorem State.writeEntries_memOk {s : State} {q : WorkQueue} {idx : Nat} {l : List (List Byte)} (hs : s.memOk) :
    (s.writeEntries q idx l).state.memOk := by
  induction l generalizing s q idx with
  | nil => exact hs
  | cons x l ih =>
    unfold State.writeEntries
    grind [UnitRes.state, State.memOk, !State.unitWrite_memOk]

theorem State.appendQueue_memOk {s : State} {n : Nat} {recs : List (List Byte)} (hs : s.memOk) : (s.appendQueue n recs).state.memOk := by
  fun_cases State.appendQueue s n recs <;> grind [AppendRes.state, UnitRes.state, State.memOk, State.gxRelease_memOk, !State.hgRead_memOk,
    !State.unitWrite_memOk, State.disableQueue_memOk, !State.writeEntries_memOk]

/-! ### What every engine shares -/

theorem EngRes.bind_memOk {α β : Type} {r : EngRes α} {f : State → α → EngRes β} (hf : ∀ t x, t.memOk → (f t x).state.memOk)
    (hr : r.state.memOk) : (r.bind f).state.memOk := by
  cases r with
  | wait | fault => exact hr
  | ok s x => exact hf s x hr

@[simp] theorem State.noteRun_mem (s : State) (x : EngCtx) (src n : Nat) : (s.noteRun x src n).mem = s.mem := rfl

theorem State.engPa_memOk {s : State} {x : EngCtx} {va : Nat} {write : Bool} (hs : s.memOk) : (s.engPa x va write).state.memOk := by
  unfold State.engPa
  grind [EngRes.state, UnitTr.state, State.memOk, !State.unitTranslate_mem]

@[simp] theorem State.mapRun_mem (s : State) (d c u : Nat) (f : EngRun → EngRun) : (s.mapRun d c u f).mem = s.mem := by simp [State.mapRun]

theorem State.engOpbuf_memOk {s : State} {x : EngCtx} {va off n : Nat} (hs : s.memOk) : (s.engOpbuf x va off n).state.memOk := by
  unfold State.engOpbuf
  grind [EngRes.state, State.memOk, State.mapRun_mem]

theorem State.engGrantRead_memOk {s : State} {b : Bundle} {off n at_ : Nat} {acc : Got} (hs : s.memOk) :
    (s.engGrantRead b off n at_ acc).state.memOk := by
  unfold State.engGrantRead
  grind [EngRes.state, UnitRes.state, State.memOk, !State.grantBytesAt_memOk]

theorem State.engReadFrom_memOk {s : State} {x : EngCtx} {va n at_ : Nat} {acc : Got} {f : Nat} (hs : s.memOk) :
    (s.engReadFrom x va n at_ acc f).state.memOk := by
  induction f generalizing s x va n at_ acc with
  | zero => exact hs
  | succ f ih =>
    unfold State.engReadFrom
    grind [EngRes.state, State.memOk, State.unitAtom_mem, !EngRes.bind_memOk, !State.engPa_memOk, !State.engOpbuf_memOk, !State.engGrantRead_memOk]

theorem State.engRead_memOk {s : State} {x : EngCtx} {va n : Nat} (hs : s.memOk) : (s.engRead x va n).state.memOk := by
  unfold State.engRead
  grind [EngRes.state, State.memOk, !State.engReadFrom_memOk]

theorem State.engReadGood_memOk {s : State} {x : EngCtx} {va n : Nat} (hs : s.memOk) : (s.engReadGood x va n).state.memOk := by
  unfold State.engReadGood
  grind [EngRes.state, State.memOk, !EngRes.bind_memOk, !State.engRead_memOk]

theorem State.engMayWriteFrom_memOk {s : State} {x : EngCtx} {va n : Nat} {acc : List EngPiece} {f : Nat} (hs : s.memOk) :
    (s.engMayWriteFrom x va n acc f).state.memOk := by
  induction f generalizing s x va n acc with
  | zero => exact hs
  | succ f ih =>
    unfold State.engMayWriteFrom
    grind [EngRes.state, State.memOk, !EngRes.bind_memOk, !State.engPa_memOk, !State.engOpbuf_memOk]

theorem State.engMayWrite_memOk {s : State} {x : EngCtx} {va n : Nat} (hs : s.memOk) : (s.engMayWrite x va n).state.memOk := by
  unfold State.engMayWrite
  grind [EngRes.state, State.memOk, !State.engMayWriteFrom_memOk]

theorem State.engPut_memOk {s : State} {x : EngCtx} {bs : List Byte} {bad : List (Nat × Nat)} {o : Nat} {l : List EngPiece} (hs : s.memOk) :
    (s.engPut x bs bad o l).memOk := by
  induction l generalizing s o with
  | nil => exact hs
  | cons p ps ih =>
    unfold State.engPut
    refine ih ?_
    cases p with
    | mem => grind [State.linkRoom_memOk, State.writeAtomPoisoned_memOk, State.writeAtom_memOk]
    | grant => grind [State.memOk, State.putGrant_memOk, State.mapBundle_mem]
    | opbuf => grind [State.memOk, State.writeOpbuf_mem, State.setCore_mem]

theorem State.engWrite_memOk {s : State} {x : EngCtx} {va : Nat} {bs : List Byte} (hs : s.memOk) : (s.engWrite x va bs).state.memOk := by
  unfold State.engWrite
  grind [EngRes.state, State.memOk, !EngRes.bind_memOk, !State.engMayWrite_memOk, State.engPut_memOk]

@[simp] theorem State.faultSlot_mem (s : State) (d c u task : Nat) : (s.faultSlot d c u task).2.mem = s.mem := by
  unfold State.faultSlot
  grind [UnitTr.state, !State.unitTranslate_mem]

theorem State.reportFault_memOk {s : State} {d c u : Nat} {r : EngRun} {record rdva code addr task : Nat} {held : Bool} (hs : s.memOk) :
    (s.reportFault d c u r record rdva code addr task held).memOk := by
  have hf : (s.faultSlot d c u task).2.memOk := State.memOk_of_mem_eq (State.faultSlot_mem ..) hs
  unfold State.reportFault
  split
  · next e => rwa [e] at hf
  · next e =>
    rw [e] at hf
    extract_lets
    split <;> exact State.writeMem_memOk hf

theorem State.clearHeld_memOk {s : State} {d c u task : Nat} (hs : s.memOk) : (s.clearHeld d c u task).memOk := by
  unfold State.clearHeld
  grind [State.memOk, State.writeMem_memOk, !State.faultSlot_mem]

@[simp] theorem State.abandon_mem (s : State) (d c u : Nat) (r : EngRun) : (s.abandon d c u r).mem = s.mem := by
  unfold State.abandon
  grind [State.stopFill_mem, State.mapRun_mem]

theorem State.engFault_memOk {s : State} {d c u : Nat} {r : EngRun} {code addr : Nat} (hs : s.memOk) : (s.engFault d c u r code addr).memOk := by
  unfold State.engFault
  grind [State.memOk, State.mapRun_mem, State.reportFault_memOk, State.abandon_mem]

theorem State.updateRdv_memOk {s : State} {pa : Nat} {flags : BitVec 5} (hs : s.memOk) : (s.updateRdv pa flags).memOk := by
  unfold State.updateRdv
  grind [State.memOk, State.homeWriteAtom_memOk, State.l2Touch_mem]

theorem State.countRun_memOk {s : State} {r : EngRun} (hs : s.memOk) : (s.countRun r).memOk := by
  fun_cases State.countRun s r <;> grind [State.memOk, State.putBar_memOk]

theorem State.settleRun_memOk {s : State} {d c u : Nat} {r : EngRun} (hs : s.memOk) : (s.settleRun d c u r).1.memOk := by
  unfold State.settleRun
  grind [State.memOk, State.mapRun_mem, State.countRun_memOk]

theorem State.retireCommand_memOk {s : State} {d c u : Nat} {r : EngRun} (hs : s.memOk) : (s.retireCommand d c u r).memOk := by
  unfold State.retireCommand
  grind [State.memOk, State.mapTask_mem, State.setEngine_mem, State.dissolveIfDone_mem, State.endPlain_mem, State.updateRdv_memOk]

theorem State.completeCommand_memOk {s : State} {d c u : Nat} (hs : s.memOk) : (s.completeCommand d c u).memOk := by
  fun_cases State.completeCommand s d c u <;> grind [State.memOk, State.putBar_memOk, State.mapRun_mem, !State.settleRun_memOk,
    State.retireCommand_memOk]

theorem State.writeEngctl_memOk {s : State} {d c : Nat} {v : Word} (hs : s.memOk) : (s.writeEngctl d c v).memOk := by
  unfold State.writeEngctl
  grind [State.memOk, State.setCore_mem, State.mapRun_mem, State.clearHeld_memOk, State.abandon_mem]

@[simp] theorem State.startHead_mem (s : State) (d c u : Nat) : (s.startHead d c u).mem = s.mem := by
  unfold State.startHead
  grind [State.setEngine_mem, State.foldl_mem]

theorem State.startChecks_memOk {s : State} {x : EngCtx} (hs : s.memOk) : (s.startChecks x).state.memOk := by
  fun_cases State.startChecks s x <;> grind [EngRes.state, State.memOk, State.mapRun_mem, State.mapTile_mem]

theorem State.engineStep_memOk {s : State} {d c u : Nat} {iter : State → EngCtx → EngRes EngRun}
    (hi : ∀ t x, t.memOk → (iter t x).state.memOk) (hs : s.memOk) : (s.engineStep d c u iter).memOk := by
  unfold State.engineStep
  extract_lets k t
  have ht : t.memOk := State.memOk_of_mem_eq (State.startHead_mem ..) hs
  split
  · exact ht
  · next r _ =>
    split
    · exact ht
    · extract_lets x tag finish
      have tagged : ∀ v, v.memOk → (tag v).memOk := fun v => State.memOk_of_mem_eq (by simp [tag])
      have finished : ∀ q, q.state.memOk → (finish q).memOk := by
        intro q hq
        cases q with
        | wait v => exact tagged v hq
        | fault v => exact State.engFault_memOk (tagged v hq)
        | ok v => exact State.memOk_of_mem_eq (State.mapRun_mem ..) (tagged v hq)
      split
      · refine finished _ ?_
        split
        · exact ht
        · split
          · exact ht
          · exact EngRes.bind_memOk (fun _ _ hv => hv) (State.engReadGood_memOk ht)
      · exact finished _ (State.startChecks_memOk ht)
      · grind [State.memOk, State.acquire_mem, State.mapRun_mem]
      · have hr := State.settleRun_memOk (d := d) (c := c) (u := u) (r := r) ht
        split
        next v landed e =>
        rw [e] at hr
        split
        · exact hr
        · refine finished _ (EngRes.bind_memOk (fun w x hw => ?_) (hi _ _ hr))
          grind [EngRes.state, State.memOk, State.endFill_mem]
      · exact ht

theorem State.stopRing_memOk {s : State} {d c : Nat} (hs : s.memOk) : (s.stopRing d c).memOk := by
  unfold State.stopRing
  grind [State.memOk, State.setCore_mem, State.faultRecord_memOk]

/-! ### Trace records and breakpoints -/

@[simp] theorem State.traceAdd_mem (s : State) (r : Nat) : (s.traceAdd r).mem = s.mem := by
  unfold State.traceAdd
  split <;> rfl

@[simp] theorem State.traceStrand_mem (s : State) (st : Strand) (typ arg x : Nat) : (s.traceStrand st typ arg x).mem = s.mem := by
  unfold State.traceStrand
  grind [State.traceAdd_mem]

@[simp] theorem State.traceDevice_mem (s : State) (typ task x : Nat) : (s.traceDevice typ task x).mem = s.mem := by simp [State.traceDevice]

@[simp] theorem State.traceLost_mem (s : State) : s.traceLost.mem = s.mem := rfl

theorem State.putLost_memOk {s : State} (hs : s.memOk) : (s.putLost).1.memOk := by
  unfold State.putLost
  grind [UnitRes.state, State.memOk, !State.unitWrite_memOk]

theorem State.tracePut_memOk {s : State} {r : BitVec 512} (hs : s.memOk) : (s.tracePut r).state.memOk := by
  unfold State.tracePut
  grind [UnitRes.state, State.memOk, State.gxRelease_memOk, !State.unitWrite_memOk]

theorem State.traceFull_memOk {s : State} (hs : s.memOk) : s.traceFull.state.memOk := by
  unfold State.traceFull
  grind [UnitRes.state, State.memOk, !State.hgRead_memOk]

@[simp] theorem State.traceDiscard_mem (s : State) : s.traceDiscard.mem = s.mem := rfl

theorem State.traceDrain_memOk {s : State} {f : Nat} (hs : s.memOk) : (s.traceDrain f).memOk := by
  induction f generalizing s with
  | zero => exact State.putLost_memOk hs
  | succ f ih =>
    unfold State.traceDrain
    have hp := State.putLost_memOk hs
    split
    · next e => rwa [e] at hp
    · next t e =>
      rw [e] at hp
      split
      · exact hp
      · have hf := State.traceFull_memOk hp
        split
        · next e => exact UnitRes.memOk_of_eq e hf
        · next e => exact UnitRes.memOk_of_eq e hf
        · next e => exact ih (State.memOk_of_mem_eq (State.traceDiscard_mem ..) (UnitRes.memOk_of_eq e hf))
        · next u e =>
          have hu : u.memOk := UnitRes.memOk_of_eq e hf
          split <;> grind [UnitRes.state, State.memOk, !State.tracePut_memOk, State.traceLost_mem, State.traceDiscard_mem]

@[simp] theorem State.traceEnd_mem (s : State) : s.traceEnd.mem = s.mem := rfl

theorem State.endTrace_memOk {s : State} (hs : s.memOk) : s.endTrace.memOk := by
  unfold State.endTrace
  grind [State.memOk, State.traceDevice_mem, State.traceDrain_memOk, State.traceEnd_mem]

theorem State.markerDone_memOk {s : State} {key : Nat} (hs : s.memOk) : (s.markerDone key).memOk := by
  unfold State.markerDone
  grind [State.memOk, State.finishNow_memOk]

theorem State.traceOpen_memOk {s : State} {t : Task} (hs : s.memOk) : (s.traceOpen t).memOk := by
  unfold State.traceOpen
  grind [UnitRes.state, State.memOk, State.gxRelease_memOk, !State.hgRead_memOk, !State.unitWrite_memOk, State.traceDevice_mem,
    State.markerDone_memOk]

@[simp] theorem State.traceStopping_mem (s : State) (id : Word) : (s.traceStopping id).mem = s.mem := by
  unfold State.traceStopping
  split <;> rfl

theorem State.processStart_memOk {s : State} {key : Nat} (hs : s.memOk) : (s.processStart key).memOk := by
  unfold State.processStart
  grind [State.memOk, State.markerDone_memOk, State.traceOpen_memOk, State.traceStopping_mem]

theorem State.processStop_memOk {s : State} {key : Nat} (hs : s.memOk) : (s.processStop key).memOk := by
  unfold State.processStop
  grind [State.memOk, State.markerDone_memOk, State.traceStopping_mem]

@[simp] theorem State.askCapture_mem (s : State) (what id why : Nat) : (s.askCapture what id why).mem = s.mem := by
  unfold State.askCapture
  grind

@[simp] theorem State.breakpoint_mem (s : State) (st : Strand) (k : Nat) : (s.breakpoint st k).1.mem = s.mem := by
  unfold State.breakpoint
  grind [State.putStrand_mem, State.settleDue_mem, State.traceStrand_mem, State.askCapture_mem]

/-! ### The matrix engine -/

theorem State.mxIter_memOk {s : State} {x : EngCtx} (hs : s.memOk) : (s.mxIter x).state.memOk := by
  unfold State.mxIter
  extract_lets
  split
  · extract_lets
    split
    · exact hs
    · split
      · exact hs
      · split
        · exact hs
        · split
          · exact hs
          · split
            · exact hs
            · split
              next t fl e =>
              have ht : State.memOk (t, fl).1 := by
                rw [← e]
                refine State.foldl_fst_memOk (fun p row hp => ?_) _ hs
                extract_lets
                split
                exact State.memOk_of_mem_eq (State.writeOpbuf_mem ..) hp
              exact ht
  · exact hs

/-! ### The copy and quantisation engines -/

theorem State.ceTarget_memOk {s : State} {x : EngCtx} {dst : Int} {n : Nat} (hs : s.memOk) : (s.ceTarget x dst n).state.memOk := by
  unfold State.ceTarget
  grind [EngRes.state, State.memOk, !State.engMayWrite_memOk]

theorem State.ceIter_memOk {s : State} {x : EngCtx} (hs : s.memOk) : (s.ceIter x).state.memOk := by
  unfold State.ceIter
  grind [EngRes.state, State.memOk, !EngRes.bind_memOk, State.noteRun_mem, !State.engRead_memOk, State.engPut_memOk, State.countRun_memOk,
    !State.ceTarget_memOk]

theorem State.qeIter_memOk {s : State} {x : EngCtx} (hs : s.memOk) : (s.qeIter x).state.memOk := by
  unfold State.qeIter
  grind [EngRes.state, State.memOk, State.writeOpbuf_mem, !EngRes.bind_memOk, !State.engReadGood_memOk, State.foldl_memOk]

/-! ### The state-space block -/

theorem State.slotPieces_memOk {s : State} {x : EngCtx} {b : Sscb} (hs : s.memOk) : (s.slotPieces x b).state.memOk := by
  unfold State.slotPieces
  grind [EngRes.state, State.memOk, !EngRes.bind_memOk, !State.engMayWrite_memOk]

theorem State.putSlots_memOk {s : State} {x : EngCtx} {p : List EngPiece × List EngPiece} {st : List Nat} (hs : s.memOk) :
    (s.putSlots x p st).memOk := by
  unfold State.putSlots
  grind [State.memOk, State.engPut_memOk]

theorem State.ssbIter_memOk {s : State} {x : EngCtx} (hs : s.memOk) : (s.ssbIter x).state.memOk := by
  have rd : ∀ {t : State} {a n : Nat}, t.memOk → (t.engReadGood x a n).state.memOk := State.engReadGood_memOk
  unfold State.ssbIter
  extract_lets r sv
  split
  · exact hs
  · split
    · exact hs
    · refine EngRes.bind_memOk (fun t bs ht => ?_) (rd hs)
      extract_lets b k entry
      split
      · exact ht
      · split
        · exact ht
        · split
          · exact ht
          · refine EngRes.bind_memOk (fun u xb hu => EngRes.bind_memOk
              (fun u db hu => EngRes.bind_memOk (fun u bb hu => EngRes.bind_memOk (fun u cb hu =>
              EngRes.bind_memOk (fun u ab hu => EngRes.bind_memOk (fun u dd hu => EngRes.bind_memOk (fun u st hu =>
              EngRes.bind_memOk (fun u py hu => EngRes.bind_memOk (fun u ps hu => EngRes.bind_memOk (fun u pe hu => ?_) ?_)
                  (State.slotPieces_memOk hu))
              (State.engMayWrite_memOk hu)) ?_) (rd hu)) (rd hu)) (rd hu)) (rd hu)) (rd hu)) (rd ht)
            · grind [EngRes.state, State.memOk, State.engPut_memOk, State.putSlots_memOk, State.noteRun_mem]
            · grind [EngRes.state, !State.engMayWrite_memOk]
            · split
              · exact hu
              · split
                · exact hu
                · exact EngRes.bind_memOk (fun _ _ h => h) (rd hu)

theorem State.saveRun_memOk {s : State} {d c : Nat} {r : EngRun} (hs : s.memOk) : (s.saveRun d c r).memOk := by
  unfold State.saveRun
  grind [EngRes.state, State.memOk, State.tagWrites_mem, !EngRes.bind_memOk, State.mapRun_mem, !State.engReadGood_memOk, State.engFault_memOk,
    !State.slotPieces_memOk, State.putSlots_memOk]

theorem State.saveRuns_memOk {s : State} (hs : s.memOk) : s.saveRuns.memOk := by
  unfold State.saveRuns
  grind [State.memOk, State.saveRun_memOk, State.foldl_memOk]

/-! ### Flumes -/

@[simp] theorem State.setDomain_mem (s : State) (d : Domain) : (s.setDomain d).mem = s.mem := rfl

@[simp] theorem State.mapCall_mem (s : State) (id : Nat) (f : Call → Call) : (s.mapCall id f).mem = s.mem := rfl

@[simp] theorem State.markToken_mem (s : State) (dom t self : Nat) : (s.markToken dom t self).mem = s.mem := by
  unfold State.markToken
  grind [State.setDomain_mem]

@[simp] theorem State.callTaken_mem (s : State) (c : Call) : (s.callTaken c).mem = s.mem := by
  unfold State.callTaken
  split <;> rfl

theorem State.writeReturn_memOk {s : State} {c : Call} {status : Nat} {payload : List Byte} (hs : s.memOk) :
    (s.writeReturn c status payload).memOk := by
  fun_cases State.writeReturn s c status payload <;> grind [State.memOk, State.mapTask_mem, State.gxRelease_memOk, State.putGrant_memOk,
    State.setDomain_mem]

theorem State.failCall_memOk {s : State} {c : Call} {status visits : Nat} (hs : s.memOk) : (s.failCall c status visits).memOk := by
  unfold State.failCall
  grind [State.memOk, State.writeReturn_memOk]

theorem State.judgeToken_memOk {s : State} {c : Call} (hs : s.memOk) {t : State} (e : s.judgeToken c = some t) : t.memOk := by
  unfold State.judgeToken at e
  split at e
  · cases e
    exact State.memOk_of_mem_eq (State.callTaken_mem ..) (State.failCall_memOk hs)
  · cases e

@[simp] theorem State.admitCall_mem (s : State) (c : Call) : (s.admitCall c).mem = s.mem := by simp [State.admitCall]

theorem State.present_memOk {s : State} {c : Call} (hs : s.memOk) : (s.present c).state.memOk := by
  unfold State.present
  extract_lets _ _ u v
  have hu : u.memOk := hs
  split
  · have hv : v.memOk := by grind [State.memOk, State.markToken_mem, State.mapTask_mem]
    exact State.memOk_of_mem_eq (State.callTaken_mem ..) (State.failCall_memOk hv)
  · split
    · next e => exact State.judgeToken_memOk hu e
    · split
      · exact State.memOk_of_mem_eq (State.admitCall_mem ..) hu
      · exact hu

theorem State.tryCall_memOk {s : State} {st : Strand} {typ a : Nat} {rel : Bool} (hs : s.memOk) : (s.tryCall st typ a rel).state.memOk := by
  unfold State.tryCall
  grind [Present.state, State.memOk, State.raise_mem, State.writeGrant_mem, !State.present_memOk]

@[simp] theorem State.passFlwait_mem (s : State) (st : Strand) (off hd : Nat) : (s.passFlwait st off hd).mem = s.mem := by
  unfold State.passFlwait
  grind [State.putStrand_mem, State.raiseAfter_mem]

theorem State.tryFlwait_mem {s t : State} {st : Strand} {a : Nat} (e : s.tryFlwait st a = some t) : t.mem = s.mem := by
  unfold State.tryFlwait at e
  dsimp only at e
  grind [State.raise_mem, State.passFlwait_mem, Option.map_eq_some_iff]

@[simp] theorem State.countPdrop_mem (s : State) : s.countPdrop.mem = s.mem := rfl

theorem State.portOffer_memOk {s : State} {o : Offer} {partid : Nat} (hs : s.memOk) : (s.portOffer o partid).memOk := by
  unfold State.portOffer
  grind [Present.state, State.memOk, !State.present_memOk, State.countPdrop_mem]

@[simp] theorem State.startCall_mem (s : State) (c : Call) : (s.startCall c).mem = s.mem := by
  unfold State.startCall
  grind [State.gxAcquire_mem, State.mapCall_mem]

theorem State.advanceDomain_mem {s t : State} {n : Nat} (e : s.advanceDomain n = some t) : t.mem = s.mem := by
  unfold State.advanceDomain at e
  grind [State.setDomain_mem, State.startCall_mem]

@[simp] theorem State.advanceSteps_mem (s : State) (n : Nat) (f : Nat) : (s.advanceSteps n f).mem = s.mem := by
  induction f generalizing s n with
  | zero => rfl
  | succ f ih =>
    unfold State.advanceSteps
    grind [State.advanceDomain_mem]

theorem State.writeDom_memOk {s : State} {n : Nat} {v : BitVec 64} (hs : s.memOk) : (s.writeDom n v).memOk := by
  unfold State.writeDom
  grind [State.memOk, State.setDomain_mem, State.judgeToken_memOk, State.foldl_memOk]

theorem FlRes.bind_memOk {α β : Type} {r : FlRes α} {f : State → α → FlRes β} (hf : ∀ t x, t.memOk → (f t x).state.memOk)
    (hr : r.state.memOk) : (r.bind f).state.memOk := by
  cases r with
  | wait | fail => exact hr
  | ok s x => exact hf s x hr

theorem State.flPa_memOk {s : State} {c : Call} {va al : Nat} {write : Bool} (hs : s.memOk) : (s.flPa c va al write).state.memOk := by
  unfold State.flPa
  grind [FlRes.state, UnitTr.state, State.memOk, State.tlbFill_mem, State.memRecord_memOk, !State.unitTranslate_mem]

theorem State.flReadFrom_memOk {s : State} {c : Call} {va n : Nat} {acc : List Byte} {f : Nat} (hs : s.memOk) :
    (s.flReadFrom c va n acc f).state.memOk := by
  induction f generalizing s c va n acc with
  | zero => exact hs
  | succ f ih =>
    unfold State.flReadFrom
    grind [FlRes.state, State.memOk, State.unitAtom_mem, !FlRes.bind_memOk, !State.flPa_memOk]

theorem State.flRead_memOk {s : State} {c : Call} {va n al : Nat} (hs : s.memOk) : (s.flRead c va n al).state.memOk := by
  unfold State.flRead
  grind [FlRes.state, State.memOk, !State.flReadFrom_memOk]

theorem State.flWriteFrom_memOk {s : State} {c : Call} {l : List (Nat × List Byte)} (hs : s.memOk) : (s.flWriteFrom c l).state.memOk := by
  induction l generalizing s c with
  | nil => exact hs
  | cons x l ih =>
    unfold State.flWriteFrom
    grind [FlRes.state, State.memOk, State.writeAtom_memOk, State.linkRoom_memOk, !FlRes.bind_memOk, !State.flPa_memOk]

theorem State.flWrite_memOk {s : State} {c : Call} {va : Nat} {bs : List Byte} {al : Nat} (hs : s.memOk) : (s.flWrite c va bs al).state.memOk := by
  unfold State.flWrite
  grind [FlRes.state, State.memOk, !State.flWriteFrom_memOk]

theorem State.runCall_memOk {s : State} {typ id : Nat} {work : State → Call → FlRes (List Byte)}
    (hw : ∀ t c, t.memOk → (work t c).state.memOk) (hs : s.memOk) : (s.runCall typ id work).memOk := by
  unfold State.runCall
  split
  · exact hs
  · next c _ =>
    split
    · exact hs
    · split
      · exact hs
      · extract_lets t c' from_ tag
        have ht : t.memOk := by
          dsimp only [t]
          split
          · exact State.memOk_of_mem_eq (State.startCall_mem ..) hs
          · exact hs
        have tagged : ∀ v, v.memOk → (tag v).memOk := fun v => State.memOk_of_mem_eq (by simp [tag])
        have done := hw t c' ht
        split
        · next e => rw [e] at done; exact tagged _ done
        · next e => rw [e] at done; exact State.failCall_memOk (tagged _ done)
        · next v _ e =>
          rw [e] at done
          have hv := tagged v done
          extract_lets u
          split
          · exact hv
          · exact State.writeReturn_memOk hv

/-! ### Epochs -/

@[simp] theorem State.withdraw_mem (s : State) (st : Strand) : (s.withdraw st).mem = s.mem := by
  unfold State.withdraw
  grind [State.mapTask_mem]

@[simp] theorem State.killStrand_mem (s : State) (st : Strand) : (s.killStrand st).mem = s.mem := by simp [State.killStrand]

@[simp] theorem State.freeBackwater_mem (s : State) (b : Bundle) : (s.freeBackwater b).mem = s.mem := rfl

@[simp] theorem State.dropEvicted_mem (s : State) (b : Bundle) : (s.dropEvicted b).mem = s.mem := by simp [State.dropEvicted, State.foldl_mem]

theorem State.stopRun_memOk {s : State} {d c u : Nat} {r : EngRun} (hs : s.memOk) : (s.stopRun d c u r).memOk := by
  unfold State.stopRun
  grind [State.memOk, State.mapTask_mem, State.setEngine_mem, State.stopFill_mem, State.clearHeld_memOk, State.countRun_memOk]

theorem State.removeCommands_memOk {s : State} {of : Nat → Bool} (hs : s.memOk) : (s.removeCommands of).memOk := by
  unfold State.removeCommands
  grind [State.memOk, State.setEngine_mem, State.stopRun_memOk, State.foldl_memOk]

@[simp] theorem State.dissolveAll_mem (s : State) : s.dissolveAll.mem = s.mem := by simp [State.dissolveAll, State.foldl_mem]

@[simp] theorem State.mapSsb_mem (s : State) (d c : Nat) (e : SsbEntry) (f : SsbEntry → Option SsbEntry) : (s.mapSsb d c e f).mem = s.mem := rfl

theorem State.copyElems_memOk {s : State} {x : EngCtx} {src dst pos f : Nat} (hs : s.memOk) : (s.copyElems x src dst pos f).1.state.memOk := by
  induction f generalizing s pos with
  | zero => exact hs
  | succ f ih =>
    unfold State.copyElems
    have hc := EngRes.bind_memOk (f := fun t g => (t.engMayWrite x (dst + 4 * pos) 4).bind fun t ps => .ok (t.engPut x g.bytes g.bad 0 ps) ())
      (fun t g ht => EngRes.bind_memOk (fun u ps hu => State.engPut_memOk hu) (State.engMayWrite_memOk ht))
          (State.engRead_memOk (x := x) (va := src + 4 * pos) (n := 4) hs)
    split
    · next e => rw [e] at hc; exact ih hc
    · exact hc

theorem State.copySlot_memOk {s : State} {d c : Nat} {e : SsbEntry} {commit : Bool} (hs : s.memOk) : (s.copySlot d c e commit).memOk := by
  unfold State.copySlot
  extract_lets x free fault
  have freed : ∀ t, t.memOk → (free t).memOk := fun t => State.memOk_of_mem_eq (State.mapSsb_mem ..)
  have faulted : ∀ t code a, t.memOk → (fault t code a).memOk := fun t code a ht => freed _ (State.reportFault_memOk ht)
  have hr := State.engRead_memOk (x := x) (va := e.sscb) (n := 128) hs
  split
  · next h => rwa [h] at hr
  · next h => rw [h] at hr; exact faulted _ _ _ hr
  · next t g h =>
    have ht : t.memOk := EngRes.memOk_of_eq h hr
    extract_lets b src dst
    split
    · exact freed _ ht
    · have hc := State.copyElems_memOk (x := x) (src := src) (dst := dst) (pos := e.pos) (f := b.hh * b.pp * b.nn - e.pos) ht
      split
      · next h => rw [h] at hc; exact State.memOk_of_mem_eq (State.mapSsb_mem ..) hc
      · next h => rw [h] at hc; exact faulted _ _ _ hc
      · next u _ pos h =>
        have hu : u.memOk := by rw [h] at hc; exact hc
        have hw := State.engWrite_memOk (x := x) (va := e.sscb + 8) (bs := [0#8]) hu
        split
        · next h => rw [h] at hw; exact State.memOk_of_mem_eq (State.mapSsb_mem ..) hw
        · next h => rw [h] at hw; exact faulted _ _ _ hw
        · next h => rw [h] at hw; exact freed _ hw

theorem State.specStep_memOk {s : State} {e : Nat} (hs : s.memOk) : (s.specStep e).memOk := by
  unfold State.specStep
  grind [State.memOk, State.setEpoch_mem, State.copySlot_memOk, State.foldl_memOk]

theorem State.endSpecs_memOk {s : State} (hs : s.memOk) : s.endSpecs.memOk := by
  unfold State.endSpecs
  grind [State.memOk, State.specStep_memOk, State.foldl_memOk]

@[simp] theorem State.commitEpoch_mem (s : State) (e : Nat) : (s.commitEpoch e).mem = s.mem := rfl

theorem State.settleDone_memOk {s : State} {e : Nat} (hs : s.memOk) : (s.settleDone e).memOk := by
  unfold State.settleDone
  grind [UnitRes.state, State.memOk, State.finish_mem, !State.tellSuccessors_memOk, State.foldl_memOk]

theorem State.dropWaiting_memOk {s : State} {key : Nat} (hs : s.memOk) : (s.dropWaiting key).memOk := by
  unfold State.dropWaiting
  grind [UnitRes.state, State.memOk, State.finish_mem, !State.tellSuccessors_memOk]

theorem State.cancelEpoch_memOk {s : State} {e : Nat} (hs : s.memOk) : (s.cancelEpoch e).memOk := by
  unfold State.cancelEpoch
  grind [State.memOk, State.setEpoch_mem, State.finishNow_memOk, State.killStrand_mem, State.dropEvicted_mem, State.removeCommands_memOk,
    State.dissolveAll_mem, State.settleDone_memOk, State.dropWaiting_memOk, State.foldl_memOk]

/-! ### CSRs -/

theorem State.csrPutUnit_memOk {s : State} {d c n : Nat} {v : BitVec 64} (hs : s.memOk) : (s.csrPutUnit d c n v).memOk := by
  unfold State.csrPutUnit
  grind [State.memOk, State.setCore_mem, State.setDie_mem, State.writeEngctl_memOk]

/-! ### The register map -/

@[simp] theorem State.writeFkill_mem (s : State) (v : BitVec 64) : (s.writeFkill v).mem = s.mem := by
  unfold State.writeFkill
  grind [State.raise_mem, State.foldl_mem]

@[simp] theorem State.writeOwn_mem (s : State) (m : Nat) (v : BitVec 64) : (s.writeOwn m v).mem = s.mem := by
  unfold State.writeOwn
  grind [State.raiseMsix_mem]

@[simp] theorem State.writeIrq_mem (s : State) (v : BitVec 64) : (s.writeIrq v).mem = s.mem := by
  unfold State.writeIrq
  grind [State.raiseMsix_mem]

theorem State.writeHg_memOk {s : State} {off : Nat} {v : BitVec 64} (hs : s.memOk) : (s.writeHg off v).memOk := by
  unfold State.writeHg
  grind [State.memOk, State.writeHtail_mem, State.writePolicy_mem, State.writeQtcount_memOk, State.writeFkill_mem]

theorem State.writeFl_memOk {s : State} {off : Nat} {v : BitVec 64} (hs : s.memOk) : (s.writeFl off v).memOk := by
  unfold State.writeFl
  grind [State.memOk, State.writeDom_memOk]

@[simp] theorem State.writeClrpart_mem (s : State) (v : BitVec 64) : (s.writeClrpart v).mem = s.mem := by
  unfold State.writeClrpart
  split <;> rfl

@[simp] theorem State.writeRetrain_mem (s : State) (v : BitVec 64) : (s.writeRetrain v).mem = s.mem := by
  unfold State.writeRetrain
  split <;> rfl

@[simp] theorem State.writeAz_mem (s : State) (off : Nat) (v : BitVec 64) : (s.writeAz off v).mem = s.mem := by
  unfold State.writeAz
  grind [State.writeClrpart_mem, State.writeRetrain_mem]

@[simp] theorem State.mapHead_mem (s : State) (n : Nat) (f : Head → Head) : (s.mapHead n f).mem = s.mem := rfl

@[simp] theorem State.writePtroot_mem (s : State) (n : Nat) (v : BitVec 64) : (s.writePtroot n v).mem = s.mem := rfl

theorem State.regWrite64_memOk {s : State} {who pa : Nat} {v : BitVec 64} (hs : s.memOk) : (s.regWrite64 who pa v).memOk := by
  unfold State.regWrite64
  grind [State.memOk, State.csrPutUnit_memOk, State.writeOwn_mem, State.writeIrq_mem, State.writeHg_memOk, State.writeFl_memOk, State.writeAz_mem,
    State.mapHead_mem, State.writePtroot_mem]

/-! ### The value-named vector file -/

@[simp] theorem State.nameVectors_mem (s : State) (written : Option (SRef × Nat)) (reloaded : Bool) :
    (s.nameVectors written reloaded).mem = s.mem := rfl

@[simp] theorem State.settleVectors_mem (s : State) : s.settleVectors.mem = s.mem := rfl

/-! ### Accesses -/

theorem State.regWriteBytes_memOk {s : State} {who pa : Nat} {bs : List Byte} {f : Nat} (hs : s.memOk) : (s.regWriteBytes who pa bs f).memOk := by
  induction f generalizing s who pa bs with
  | zero => exact hs
  | succ f ih =>
    unfold State.regWriteBytes
    grind [State.memOk, State.regWrite64_memOk]

@[simp] theorem State.addrFail_mem (s : State) (st : Strand) (acc : Nat) (p : Phase) : (s.addrFail st acc p).mem = s.mem := by
  unfold State.addrFail
  grind [State.raise_mem, State.mergeMiss_mem]

@[simp] theorem State.tlbUseAll_mem (s : State) (st : Strand) (lanes : List (Nat × Nat)) : (s.tlbUseAll st lanes).mem = s.mem := by
  unfold State.tlbUseAll
  grind [State.tlbUse_mem, State.foldl_mem]

@[simp] theorem State.askAtom_mem (s : State) (st : Strand) (k pa : Nat) (l : Lane) (kind : AccKind) (atomic : Bool) :
    (s.askAtom st k pa l kind atomic).mem = s.mem := by
  unfold State.askAtom
  grind [State.setCore_mem, State.noteCache_mem, State.addOutstanding_mem]

@[simp] theorem State.awaitPart_mem (s : State) (r : SRef) (pdom va : Nat) : (s.awaitPart r pdom va).mem = s.mem := rfl

@[simp] theorem State.unclaim_mem (s : State) (r : SRef) : (s.unclaim r).mem = s.mem := rfl

theorem State.forwarded_memOk {s : State} {h off n : Nat} (hs : s.memOk) : (s.forwarded h off n).state.memOk := by
  fun_cases State.forwarded s h off n <;> grind [UnitRes.state, State.memOk, !State.grantBytesAt_memOk]

theorem State.doLane_memOk {s : State} {st : Strand} {op : MemOp} {l : Lane} (hs : s.memOk) : ((s.doLane st op l).state s).memOk := by
  fun_cases State.doLane s st op l <;> grind [LaneStep.state, UnitRes.state, State.memOk, State.writeAtom_memOk, State.noteRead_mem,
    State.writeGrant_mem, State.writeOpbuf_mem, State.regWriteBytes_memOk, State.askAtom_mem, State.awaitPart_mem, !State.forwarded_memOk]

@[simp] theorem State.acquireOf_mem (s : State) (st : Strand) (op : MemOp) : (s.acquireOf st op).mem = s.mem := by
  unfold State.acquireOf
  grind [State.acquire_mem]

@[simp] theorem State.noteLoad_mem (s : State) (st : Strand) (op : MemOp) : (s.noteLoad st op).mem = s.mem := by
  unfold State.noteLoad
  grind [State.setCore_mem]

@[simp] theorem State.finishOp_mem (s : State) (st : Strand) (len : Nat) (op : MemOp) (waited : Bool) :
    (s.finishOp st len op waited).mem = s.mem := by
  unfold State.finishOp
  grind [State.putStrand_mem, State.acquireOf_mem, State.noteLoad_mem]

theorem Progress.lane_memOk {st : Strand} {op : MemOp} {r : Progress} {l : Lane} (hr : r.s.memOk) : (Progress.lane st op r l).s.memOk := by
  unfold Progress.lane
  have hd := State.doLane_memOk (st := st) (op := op) (l := l) hr
  split
  · exact hr
  · split
    · next e => rwa [e] at hd
    · next e => rwa [e] at hd
    · exact hr

theorem State.doLanes_memOk {s : State} {st : Strand} {op : MemOp} (hs : s.memOk) : (s.doLanes st op).s.memOk :=
  List.foldlRecOn (motive := fun r : Progress => r.s.memOk) _ _ hs fun _ hr _ _ => Progress.lane_memOk hr

theorem State.finishOp_memOk {s : State} {st : Strand} {len : Nat} {op : MemOp} {waited : Bool} (hs : s.memOk) :
    (s.finishOp st len op waited).memOk :=
  State.memOk_of_mem_eq (State.finishOp_mem ..) hs

theorem State.advanceOp_memOk {s : State} {st : Strand} {len : Nat} {op : MemOp} {waited : Bool} (hs : s.memOk) :
    (s.advanceOp st len op waited).memOk := by
  unfold State.advanceOp
  grind [State.memOk, State.putStrand_mem, State.doLanes_memOk, State.finishOp_mem]

theorem State.pokeAccess_memOk {s : State} {r : SRef} (hs : s.memOk) : (s.pokeAccess r).memOk := by
  unfold State.pokeAccess
  split
  · split
    · split
      · extract_lets p op
        split
        · exact State.memOk_of_mem_eq (State.putStrand_mem ..) (State.doLanes_memOk hs)
        · exact State.finishOp_memOk (State.doLanes_memOk hs)
      · exact hs
    · exact hs
  · exact hs

theorem State.pokeStuck_memOk {s : State} (hs : s.memOk) : s.pokeStuck.memOk := by
  unfold State.pokeStuck
  grind [State.memOk, State.pokeAccess_memOk, State.foldl_memOk]

theorem State.tryMem_memOk {s : State} {st : Strand} {len : Nat} {q : MemReq} (hs : s.memOk) : (s.tryMem st len q).memOk := by
  unfold State.tryMem
  grind [State.memOk, State.putStrand_mem, State.addrFail_mem, State.tlbUseAll_mem, State.acquireOf_mem, State.advanceOp_memOk]

/-! ### Loads, stores and atomics -/

@[simp] theorem State.useReuse_mem (s : State) (st : Strand) (e : ReuseEntry) : (s.useReuse st e).mem = s.mem := rfl

@[simp] theorem State.peekLeaf_mem (s : State) (st : Strand) (va : Nat) : (s.peekLeaf st va).2.mem = s.mem := by
  unfold State.peekLeaf
  grind [State.tlbFill_mem]

@[simp] theorem State.fillLine_mem (s : State) (st : Strand) (pa : Nat) (pl : L2Place) (l1 : Bool) : (s.fillLine st pa pl l1).mem = s.mem := by
  unfold State.fillLine
  refine State.foldl_mem (fun t j => ?_) _ _
  grind [State.unitAtom_mem]

/-! ### Barriers, collectives, mailboxes and register blocks -/

@[simp] theorem State.raiseWord_mem (s : State) (st : Strand) (c : BitVec 64) (w : Word) : (s.raiseWord st c w).mem = s.mem := by
  simp [State.raiseWord]

@[simp] theorem State.pass_mem (s : State) (st : Strand) : (s.pass st).mem = s.mem := rfl

theorem State.arrive_mem (s : State) (st : Strand) (fn : BitVec 4) (a : BitVec 7) (c : BitVec 1) (k : BitVec 4) {g : State → State}
    (hg : ∀ t, (g t).mem = t.mem) : (s.arrive st fn a c k g).mem = s.mem := by
  unfold State.arrive
  grind [State.raiseWord_mem, State.pass_mem, State.raise_mem, State.mapBar_mem]

theorem State.endBarriers_memOk {s : State} (hs : s.memOk) : s.endBarriers.memOk := by
  unfold State.endBarriers
  extract_lets _ t u
  have hu : u.memOk := State.foldl_memOk (fun v p hv => State.putBar_memOk hv) _ (hs : t.memOk)
  refine State.foldl_memOk (fun v st hv => ?_) _ hu
  grind [State.memOk, State.putStrand_mem, State.acquire_mem]

@[simp] theorem State.endRcv_mem (s : State) : s.endRcv.mem = s.mem := rfl

@[simp] theorem State.finishCollective_mem (s : State) (gs : List Given) : (s.finishCollective gs).mem = s.mem := by
  unfold State.finishCollective
  grind [State.putStrand_mem, State.raiseWord_mem, State.foldl_mem]

@[simp] theorem State.endCollectives_mem (s : State) : s.endCollectives.mem = s.mem := by
  unfold State.endCollectives
  grind [State.finishCollective_mem, State.foldl_mem]

@[simp] theorem State.deposit_mem (s : State) (x : Deposit) : (s.deposit x).mem = s.mem := rfl

@[simp] theorem State.flagLater_mem (s : State) (d c k : Nat) (on : Bool) : (s.flagLater d c k on).mem = s.mem := rfl

@[simp] theorem State.endFlags_mem (s : State) : s.endFlags.mem = s.mem := by simp [State.endFlags, State.foldl_mem]

@[simp] theorem State.endCommons_mem (s : State) : s.endCommons.mem = s.mem := by
  unfold State.endCommons
  grind [State.mapBundle_mem, State.foldl_mem]

@[simp] theorem State.grant_mem (s : State) (st : Strand) (vec : Bool) (k : Nat) : (s.grant st vec k).1.mem = s.mem := by
  unfold State.grant
  grind [State.setCore_mem]

/-! ### ENGQ, FORK and RDV -/

@[simp] theorem State.again_mem (s : State) (st : Strand) : (s.again st).mem = s.mem := rfl

theorem State.recBytes_mem {s t : State} {st : Strand} {va pa : Nat} {pl : L2Place} {n : Nat} {acc bs : List Byte} {bad b : Option (Nat × Nat)}
    {f : Nat} (e : s.recBytes st va pa pl n acc bad f = some (bs, b, t)) : t.mem = s.mem := by
  induction f generalizing s va pa n acc bad with
  | zero => cases e; rfl
  | succ f ih =>
    unfold State.recBytes at e
    grind [State.unitAtom_mem]

theorem State.recTarget_memOk {s : State} {st : Strand} {va n : Nat} {t : Target} (hs : s.memOk) : (s.recTarget st va n t).2.memOk := by
  fun_cases State.recTarget s st va n t <;> grind [UnitRes.state, State.memOk, State.awaitPart_mem, !State.forwarded_memOk, State.recBytes_mem]

theorem State.recPieces_memOk {s : State} {st : Strand} {acc : List Byte} {l : List ((Nat × Nat) × Target)} (hs : s.memOk) :
    (s.recPieces st acc l).state.memOk := by
  induction l generalizing s st acc with
  | nil => exact hs
  | cons x l ih =>
    unfold State.recPieces
    grind [RecRead.state, State.memOk, State.raise_mem, State.unclaim_mem, State.again_mem, !State.recTarget_memOk]

theorem State.readRecord_memOk {s : State} {st : Strand} {lanes : List (Nat × Nat)} (hs : s.memOk) : (s.readRecord st lanes).state.memOk := by
  unfold State.readRecord
  grind [RecRead.state, State.memOk, State.addrFail_mem, State.tlbUseAll_mem, !State.recPieces_memOk]

@[simp] theorem State.acquireTile_mem (s : State) (st : Strand) : (s.acquireTile st).mem = s.mem := by simp [State.acquireTile]

@[simp] theorem State.pushEntry_mem (s : State) (d c u : Nat) (e : EngEntry) : (s.pushEntry d c u e).mem = s.mem := by simp [State.pushEntry]

@[simp] theorem State.rdvPlace_mem (s : State) (st : Strand) (va : Nat) (cls : AccClass) : ((s.rdvPlace st va cls).state s).mem = s.mem := by
  unfold State.rdvPlace
  grind [RdvPlace.state, State.awaitPart_mem]

@[simp] theorem State.passRdv_mem (s : State) (st : Strand) (len pa va : Nat) (dst : Option Nat) (seen : Nat × Nat × Option Nat) :
    (s.passRdv st len pa va dst seen).mem = s.mem := by
  unfold State.passRdv
  grind [State.putStrand_mem, State.raise_mem, State.raiseAfter_mem, State.raiseRow_mem, State.acquireTile_mem]

/-! ### System instructions -/

@[simp] theorem State.fireWatches_mem (s : State) (who : Strand → Bool) (hit : Nat → Nat → Nat → Bool) : (s.fireWatches who hit).mem = s.mem := rfl

@[simp] theorem State.dropTlb_mem (s : State) (dies : List Nat) (core : Option (Nat × Nat)) (hit : Nat → Nat → Bool) :
    (s.dropTlb dies core hit).mem = s.mem := by
  simp [State.dropTlb]

/-! ### The ports -/

theorem State.portWrite_memOk {s : State} {m pa : Nat} {v : BitVec 64} (hs : s.memOk) : (s.portWrite m pa v).memOk := by
  unfold State.portWrite
  grind [State.memOk, State.regWrite64_memOk]

@[simp] theorem State.mgWrite_mem (s : State) (n : Nat) (v : BitVec 64) : (s.mgWrite n v).mem = s.mem := by
  unfold State.mgWrite
  grind

@[simp] theorem State.masterRead_mem (s : State) (m addr : Nat) : (s.masterRead m addr).mem = s.mem := by
  unfold State.masterRead
  grind [State.leaveIdle_mem]

theorem State.masterWrite_memOk {s : State} {m addr : Nat} {v : BitVec 64} (hs : s.memOk) : (s.masterWrite m addr v).memOk := by
  unfold State.masterWrite
  grind [State.memOk, State.leaveIdle_mem, State.i3cSeen_mem, State.portWrite_memOk, State.mgWrite_mem]

theorem State.masterWrites_memOk {s : State} {l : List (Nat × BitVec 48 × BitVec 64)} (hs : s.memOk) : (s.masterWrites l).memOk := by
  unfold State.masterWrites
  grind [State.memOk, State.masterWrite_memOk, State.foldl_memOk]

@[simp] theorem State.loseMaster_mem (s : State) (m : Nat) : (s.loseMaster m).mem = s.mem := by simp [State.loseMaster]

@[simp] theorem State.headRow_mem (s : State) (n : Nat) : (s.headRow n).mem = s.mem := by
  unfold State.headRow
  grind [State.mapHead_mem]

theorem State.clearRange_memOk {s : State} {lo hi : Nat} (hs : s.memOk) : (s.clearRange lo hi).memOk := by
  unfold State.clearRange
  refine Memory.wf_filter _ ?_
  rw [State.fireWatches_mem, State.dropCopies_mem]
  exact hs

/-! ### Eviction and restore -/

@[simp] theorem State.wakeStrand_mem (s : State) (st : Strand) : (s.wakeStrand st).mem = s.mem := by
  unfold State.wakeStrand
  grind [State.setCore_mem, State.putStrand_mem, State.returnCount_mem, State.acquire_mem, State.passFlwait_mem, !State.grant_mem,
    State.acquireTile_mem, State.passRdv_mem]

@[simp] theorem State.endWaits_mem (s : State) : s.endWaits.mem = s.mem := rfl

theorem State.writeAll_memOk {s : State} {va : Nat} {l : List (List Byte)} (hs : s.memOk) : (s.writeAll va l).state.memOk := by
  induction l generalizing s va with
  | nil => exact hs
  | cons x l ih =>
    unfold State.writeAll
    grind [UnitRes.state, State.memOk, !State.unitWrite_memOk]

theorem State.evictNow_memOk {s : State} {b : Bundle} (hs : s.memOk) : (s.evictNow b).memOk := by
  fun_cases State.evictNow s b with
  | case1 => exact hs
  | case2 _ _ _ _ t e => exact UnitRes.memOk_of_eq e (State.writeAll_memOk hs)
  | case3 _ _ _ _ t e => exact State.memOk_of_mem_eq (State.mapBundle_mem ..) (UnitRes.memOk_of_eq e (State.writeAll_memOk hs))
  | case4 ms n off _ t _ e u k v w =>
    have ht : t.memOk := UnitRes.memOk_of_eq e (State.writeAll_memOk hs)
    have hu : u.memOk := State.foldl_memOk (fun v p hv => State.memOk_of_mem_eq (by simp) hv) _ ht
    have hv : v.memOk := State.memOk_of_mem_eq (State.setCore_mem ..) hu
    have hw : w.memOk := State.memOk_of_mem_eq (State.mapBundle_mem ..) hv
    exact State.memOk_of_mem_eq (State.note_mem ..) hw

@[simp] theorem State.restoreMember_mem (s : State) (d c : Nat) (granted : List SRef) (st : Strand) (slot : Nat) :
    (s.restoreMember d c granted st slot).mem = s.mem := by
  unfold State.restoreMember
  grind [State.setCore_mem, !State.grant_mem]

@[simp] theorem State.joinRows_mem (s : State) (d d0 : Nat) : (s.joinRows d d0).mem = s.mem := rfl

@[simp] theorem State.comeFrom_mem (s : State) (d c d0 c0 : Nat) : (s.comeFrom d c d0 c0).mem = s.mem := by
  unfold State.comeFrom
  grind [State.setCore_mem, State.setDie_mem, State.noteCache_mem, State.spoilFills_mem, State.joinRows_mem]

@[simp] theorem State.applyHeld_mem (s : State) (h : Nat) : (s.applyHeld h).mem = s.mem := by
  unfold State.applyHeld
  grind [State.deposit_mem, State.foldl_mem]

@[simp] theorem State.restoreBundle_mem (s : State) (b : Bundle) (d c : Nat) : (s.restoreBundle b d c).mem = s.mem := by
  simp [State.restoreBundle, State.foldl_mem]

@[simp] theorem State.sendMsg_mem (s : State) (code : Nat) (payload : Nat) (data : List Byte) (marks : List Nat) :
    (s.sendMsg code payload data marks).mem = s.mem := rfl

@[simp] theorem State.azEvent_mem (s : State) (e : Nat) : (s.azEvent e).mem = s.mem := by simp [State.azEvent]

@[simp] theorem State.dockStep_mem (s : State) (h : Nat) : (s.dockStep h).mem = s.mem := by
  unfold State.dockStep
  grind [State.sendMsg_mem, State.azEvent_mem]

/-! ### Events of the memory system -/

@[simp] theorem State.laneDone_mem (s : State) (r : XRead) (x mark : Nat) : (s.laneDone r x mark).mem = s.mem := by
  unfold State.laneDone
  grind [State.putStrand_mem]

theorem State.performAtomic_memOk {s : State} {r : XRead} {data : Vec} (hs : s.memOk) : (s.performAtomic r data).1.memOk := by
  unfold State.performAtomic
  grind [State.memOk, State.setCore_mem, State.setDie_mem, State.fireLine_mem, State.homeWriteAtom_memOk, State.tagNotes_mem, State.l2Touch_mem]

@[simp] theorem State.noteFill_mem (s : State) (r : XRead) (st : Strand) (op : MemOp) (pl : L2Place) (v : Vec) (m : Nat) :
    (s.noteFill r st op pl v m).mem = s.mem := by
  unfold State.noteFill
  grind [State.putStrand_mem, State.noteCache_mem, State.l2Touch_mem, State.noteRead_mem]

theorem State.serveRead_memOk {s : State} {r : XRead} {data : Vec} (hs : s.memOk) : (s.serveRead r data).memOk := by
  unfold State.serveRead
  grind [State.memOk, State.tagNotes_mem, State.raiseRow_mem, State.addOutstanding_mem, State.pokeAccess_memOk, State.laneDone_mem,
    !State.performAtomic_memOk, State.noteFill_mem]

@[simp] theorem State.busTouch_mem (s : State) (pa n : Nat) (write : Bool) : (s.busTouch pa n write).mem = s.mem := by
  simp [State.busTouch, State.foldl_mem]

@[simp] theorem State.serveCompanion_mem (s : State) (r : CompanionRead) : (s.serveCompanion r).mem = s.mem := by simp [State.serveCompanion]

@[simp] theorem State.killHolder_mem (s : State) (key : Nat) : (s.killHolder key).mem = s.mem := by
  unfold State.killHolder
  grind [State.mapTask_mem]

@[simp] theorem State.offerTaken_mem (s : State) (o : Offer) (bit : Nat) : (s.offerTaken o bit).mem = s.mem := rfl

@[simp] theorem State.mailWake_mem (s : State) (d c n : Nat) : (s.mailWake d c n).mem = s.mem := by
  unfold State.mailWake
  grind [State.wakeStrand_mem]

theorem State.acceptOffer_memOk {s : State} {o : Offer} {bit : Nat} (hs : s.memOk) : (s.acceptOffer o bit).memOk := by
  unfold State.acceptOffer
  grind [State.memOk, State.setCore_mem, State.judgeToken_memOk, State.admitCall_mem, State.portOffer_memOk, State.pushEntry_mem,
    State.offerTaken_mem, State.mailWake_mem]

theorem State.busAtomic_memOk {s : State} {op pa width x y : Nat} (hs : s.memOk) : (s.busAtomic op pa width x y).2.memOk := by
  unfold State.busAtomic
  grind [State.memOk, State.homeWriteAtom_memOk, State.busTouch_mem]

@[simp] theorem State.companionWrite_mem (s : State) (pa : Nat) (bytes : List Byte) (row : List Nat) :
    (s.companionWrite pa bytes row).mem = s.mem := by
  unfold State.companionWrite
  grind

@[simp] theorem State.companionRead_mem (s : State) (pa n : Nat) (row : List Nat) : (s.companionRead pa n row).mem = s.mem := by
  unfold State.companionRead
  grind

/-! ### Captures and the end of a task -/

@[simp] theorem State.stopStrands_mem (s : State) : s.stopStrands.mem = s.mem := by
  unfold State.stopStrands
  grind

theorem State.settleStopped_memOk {s : State} (hs : s.memOk) : s.settleStopped.memOk := by
  unfold State.settleStopped
  grind [State.memOk, !State.settleRun_memOk, State.foldl_memOk]

theorem State.haltNow_memOk {s : State} {c : Capture} {t : Task} (hs : s.memOk) : (s.haltNow c t).memOk := by
  unfold State.haltNow
  grind [UnitRes.state, State.memOk, State.mapTask_mem, State.gxRelease_memOk, State.traceDevice_mem, !State.writeAll_memOk]

@[simp] theorem State.haltTask_mem (s : State) (id : Nat) : (s.haltTask id).mem = s.mem := by
  unfold State.haltTask
  grind [State.askCapture_mem]

theorem State.resumeTask_memOk {s : State} {t : Task} (hs : s.memOk) : (s.resumeTask t).memOk := by
  unfold State.resumeTask
  grind [UnitRes.state, State.memOk, State.mapTask_mem, !State.hgRead_memOk]

theorem State.heldResumes_memOk {s : State} (hs : s.memOk) : s.heldResumes.memOk := by
  unfold State.heldResumes
  grind [State.memOk, State.resumeTask_memOk, State.foldl_memOk]

theorem State.askResume_memOk {s : State} {id : Nat} (hs : s.memOk) : (s.askResume id).memOk := by
  unfold State.askResume
  grind [State.memOk, State.resumeTask_memOk]

@[simp] theorem State.removeQueued_mem (s : State) (key : Nat) : (s.removeQueued key).mem = s.mem := by
  unfold State.removeQueued
  grind [State.setEngine_mem, State.foldl_mem]

theorem State.relaunch_memOk {s : State} {t : Task} (hs : s.memOk) : (s.relaunch t).memOk := by
  unfold State.relaunch
  grind [State.memOk, State.mapTask_mem, State.readyTask_mem, State.tryAdmit_memOk]

theorem State.clearTask_memOk {s : State} {t : Task} (hs : s.memOk) : (s.clearTask t).memOk := by
  unfold State.clearTask
  grind [State.memOk, State.killStrand_mem, State.dropEvicted_mem, State.removeCommands_memOk, State.dissolveAll_mem, State.foldl_memOk]

theorem State.endStep_memOk {s : State} {t : Task} (hs : s.memOk) : (s.endStep t).memOk := by
  unfold State.endStep
  grind [State.memOk, State.finish_mem, State.removeQueued_mem, State.relaunch_memOk, State.clearTask_memOk]

theorem State.writeDump_memOk {s : State} {t : Task} (hs : s.memOk) : (s.writeDump t).memOk := by
  unfold State.writeDump
  grind [State.memOk, State.mapTask_mem, State.writeMem_memOk, State.gxRelease_memOk, State.faultRecord_memOk, State.foldl_memOk]

/-! ### Moves of parts -/

theorem State.setPart_memOk {s : State} {h : HomeLeaf} {k : Nat} {p : PartState} (hs : s.memOk) : (s.setPart h k p).memOk := by
  fun_cases State.setPart s h k p
  grind [State.memOk, State.homeWriteAtom_memOk, State.tlbMap_mem]

theorem State.servePart_memOk {s : State} {pdom page part : Nat} (hs : s.memOk) : (s.servePart pdom page part).memOk := by
  unfold State.servePart
  grind [State.memOk, State.pokeAccess_memOk, State.foldl_memOk]

@[simp] theorem State.settleClaims_mem (s : State) : s.settleClaims.mem = s.mem := rfl

theorem State.sendPart_memOk {s : State} {h : HomeLeaf} {k : Nat} (hs : s.memOk) : (s.sendPart h k).memOk := by
  fun_cases State.sendPart s h k
  grind [State.memOk, State.dropCopies_mem, State.fireWatches_mem, State.sendMsg_mem, State.setPart_memOk]

theorem State.outStep_memOk {s : State} {m : PartMove} (hs : s.memOk) : (s.outStep m).memOk := by
  fun_cases State.outStep s m <;> grind [State.memOk, State.setPart_memOk, State.sendPart_memOk]

theorem State.inStepOf_memOk {s : State} {m : PartMove} (hs : s.memOk) : (s.inStepOf m).memOk := by
  unfold State.inStepOf
  grind [State.memOk, State.sendMsg_mem, State.servePart_memOk]

theorem State.stepMoves_memOk {s : State} (hs : s.memOk) : s.stepMoves.memOk := by
  unfold State.stepMoves
  grind [State.memOk, State.settleClaims_mem, State.outStep_memOk, State.inStepOf_memOk, State.foldl_memOk]

theorem State.takePart_memOk {s : State} {h : HomeLeaf} {k : Nat} {bytes : List Byte} {marks : List Nat} (hs : s.memOk) :
    (s.takePart h k bytes marks).memOk := by
  unfold State.takePart
  extract_lets lo t u v
  have hu : u.memOk := State.memOk_of_mem_eq (by rw [State.fireWatches_mem, State.dropCopies_mem]) hs
  have hv : v.memOk := by
    rw [State.memOk]
    exact Memory.wf_writeBytes hu
  have hw : (v.setPart h k .present).acquireAll.memOk := State.memOk_of_mem_eq (State.acquireAll_mem ..) (State.setPart_memOk hv)
  exact State.memOk_of_mem_eq (State.note_mem ..) (State.servePart_memOk hw)

/-! ### The companion link -/

@[simp] theorem State.clearSlot3_mem (s : State) : s.clearSlot3.mem = s.mem := rfl

@[simp] theorem State.takeTask_mem (s : State) (bs : List Byte) : (s.takeTask bs).mem = s.mem := rfl

@[simp] theorem State.takeOffer_mem (s : State) (st : Strand) (arg : Nat) : (s.takeOffer st arg).2.mem = s.mem := by
  unfold State.takeOffer
  grind [!State.freeVec_mem]

@[simp] theorem State.takeStrand_mem (s : State) (ts : List Task) (bs : List Byte) : (s.takeStrand ts bs).2.mem = s.mem := by
  unfold State.takeStrand
  grind [!State.takeOffer_mem]

@[simp] theorem State.takeStrands_mem (s : State) (ts : List Task) (l : List (List Byte)) : (s.takeStrands ts l).2.mem = s.mem := by
  induction l generalizing s ts with
  | nil => rfl
  | cons x l ih =>
    unfold State.takeStrands
    grind [!State.takeStrand_mem]

@[simp] theorem State.looseBundles_mem (s : State) (l : List Strand) : (s.looseBundles l).mem = s.mem := by
  induction l generalizing s with
  | nil => rfl
  | cons x l ih =>
    unfold State.looseBundles
    grind

@[simp] theorem State.dock_mem (s : State) (a : Area) : (s.dock a).mem = s.mem := by
  unfold State.dock
  grind [State.mapTask_mem, State.dockStep_mem, State.takeTask_mem, !State.takeStrands_mem, State.looseBundles_mem, State.foldl_mem]

@[simp] theorem State.endCapture_mem (s : State) (c : Capture) : (s.endCapture c).mem = s.mem := rfl

theorem State.putArea_memOk {s : State} {at_ : Nat} {area : List (List Byte)} (hs : s.memOk) : (s.putArea at_ area).memOk :=
  State.foldl_fst_memOk (fun _ _ hp => State.writeMem_memOk hp) _ hs

theorem State.putKmem_memOk {s : State} {a : Nat} {bs : List Byte} (hs : s.memOk) : (s.putKmem a bs).memOk := hs

theorem State.sendMsg_memOk {s : State} {code payload : Nat} {data : List Byte} {marks : List Nat} (hs : s.memOk) :
    (s.sendMsg code payload data marks).memOk := hs

theorem State.makeStep_memOk {s : State} {c : Capture} (hs : s.memOk) : (s.makeStep c).memOk := by
  fun_cases State.makeStep s c with
  | case1 => exact hs
  | case2 => exact State.memOk_of_mem_eq (State.azEvent_mem ..) (State.memOk_of_mem_eq (State.endCapture_mem ..) hs)
  | case3 _ area ls parts used size _ slot seq base u body v w x y =>
    have hu : u.memOk := State.putKmem_memOk (State.gxRelease_memOk hs)
    have hv : v.memOk :=
      State.foldl_fst_memOk (f := fun (x : State × Nat) r => (x.1.putKmem x.2 r, x.2 + r.length)) (fun _ _ hp => State.putKmem_memOk hp) body hu
    have hw : w.memOk := State.putKmem_memOk hv
    have hx : x.memOk := State.sendMsg_memOk hw
    -- only that `x` has canonical memory matters from here on; its value is large
    clear_value x
    exact State.memOk_of_mem_eq (State.endCapture_mem ..) hx

theorem State.dropTasks_memOk {s : State} {of : Task → Bool} (hs : s.memOk) : (s.dropTasks of).memOk := by
  unfold State.dropTasks
  grind [State.memOk, State.killStrand_mem, State.dropEvicted_mem, State.removeCommands_memOk, State.dissolveAll_mem, State.foldl_memOk]

theorem State.closeEpochs_memOk {s : State} {c : Capture} (hs : s.memOk) : (s.closeEpochs c).memOk := by
  unfold State.closeEpochs
  grind [State.memOk, State.cancelEpoch_memOk, State.foldl_memOk]

theorem State.undock_memOk {s : State} {c : Capture} (hs : s.memOk) : (s.undock c).memOk := by
  fun_cases State.undock s c with
  | case1 => exact State.closeEpochs_memOk hs
  | case2 => exact hs
  | case3 ls mine _ _ area away u v w =>
    have hu : u.memOk := State.foldl_memOk (fun t p ht => State.sendPart_memOk ht) _ hs
    have hv : v.memOk := State.gxRelease_memOk (State.putArea_memOk hu)
    exact State.memOk_of_mem_eq (s := v) rfl hv

theorem State.captureDevice_memOk {s : State} {c : Capture} (hs : s.memOk) : (s.captureDevice c).memOk := by
  unfold State.captureDevice
  grind [State.memOk, State.gxRelease_memOk, State.endCapture_mem, State.putArea_memOk]

theorem State.unpair_memOk {s : State} (hs : s.memOk) : s.unpair.memOk := by
  unfold State.unpair
  grind [State.memOk, State.azEvent_mem, State.clearSlot3_mem, State.dropTasks_memOk]

theorem State.loseLeaf_memOk {s : State} {h : HomeLeaf} (hs : s.memOk) : (s.loseLeaf h).memOk := by
  unfold State.loseLeaf
  -- the sectors of a part are kept opaque, so that no check of a proof counts through them
  generalize List.range 2048 = sectors
  extract_lets lost back t u
  have ht : t.memOk := State.foldl_memOk (fun _ _ hv => State.setPart_memOk hv) _ hs
  have hu : u.memOk := by
    refine State.foldl_memOk (fun v k hv => ?_) _ ht
    exact State.memOk_of_mem_eq (s := v.setPart h k .present) rfl (State.setPart_memOk hv)
  clear_value u lost
  cases lost with
  | nil => exact hu
  | cons => exact State.memRecord_memOk hu

theorem State.dropWrites_memOk {s : State} (hs : s.memOk) : s.dropWrites.memOk := by
  unfold State.dropWrites
  grind [State.memOk, State.setCore_mem, State.addOutstanding_mem, State.memRecord_memOk, State.foldl_memOk]

theorem State.loseReads_memOk {s : State} (hs : s.memOk) : s.loseReads.memOk := by
  unfold State.loseReads
  grind [State.memOk, State.addOutstanding_mem, State.pokeAccess_memOk, State.laneDone_mem, State.foldl_memOk]

theorem State.endPair_memOk {s : State} {ev : Nat} (hs : s.memOk) : (s.endPair ev).memOk := by
  fun_cases State.endPair s ev with
  | case1 => exact hs
  | case2 _ part inStep moves t u v w x y z a =>
    have hu : u.memOk := State.foldl_memOk (fun _ _ ht => State.loseLeaf_memOk ht) _ (hs : t.memOk)
    have hw : w.memOk := State.memOk_of_mem_eq (State.dropCopies_mem ..) (State.loseReads_memOk (State.dropWrites_memOk hu))
    have hx : x.memOk := State.foldl_memOk (fun _ _ ht => State.servePart_memOk ht) _ hw
    have hz : z.memOk := State.dropTasks_memOk (State.memOk_of_mem_eq (State.clearSlot3_mem ..) (hx : y.memOk))
    exact State.memOk_of_mem_eq ((State.raiseMsix_mem ..).trans (State.loseMaster_mem ..)) hz

/-! ### The drawing units -/

@[simp] theorem State.addDrop_mem (s : State) (n : Nat) : (s.addDrop n).mem = s.mem := rfl

theorem State.tryAppend_memOk {s : State} {a : AppendWait} (hs : s.memOk) : (s.tryAppend a).1.memOk := by
  unfold State.tryAppend
  grind [AppendRes.state, State.memOk, !State.appendQueue_memOk, State.addDrop_mem]

theorem State.startAppends_memOk {s : State} {c : Call} {ret : List Byte} {l : List (Nat × List (List Byte))} (hs : s.memOk) :
    (s.startAppends c ret l).state.memOk := by
  induction l generalizing s c ret with
  | nil => exact hs
  | cons x l ih =>
    unfold State.startAppends
    grind [FlRes.state, State.memOk, State.mapCall_mem, !State.tryAppend_memOk]

@[simp] theorem State.freeBucket_mem (s : State) (n : Nat) : (s.freeBucket n).mem = s.mem := rfl

theorem State.raster_memOk {s : State} {c : Call} (hs : s.memOk) : (s.raster c).state.memOk := by
  unfold State.raster
  grind [FlRes.state, State.memOk, !State.startAppends_memOk]

theorem State.lanesFrom_memOk {s : State} {c : Call} {one : State → Nat → FlRes Bool} {mask i acc n : Nat}
    (ho : ∀ t j, t.memOk → (one t j).state.memOk) (hs : s.memOk) : (s.lanesFrom c one mask i acc n).state.memOk := by
  induction n generalizing s i acc with
  | zero => exact hs
  | succ n ih =>
    unfold State.lanesFrom
    have hl := ho s i hs
    split
    · exact ih hs
    · split
      · next e => rw [e] at hl; exact State.memOk_of_mem_eq (State.mapCall_mem ..) hl
      · next e => rwa [e] at hl
      · next e => rw [e] at hl; exact ih hl

theorem State.depth_memOk {s : State} {c : Call} (hs : s.memOk) : (s.depth c).state.memOk := by
  unfold State.depth
  extract_lets ctl one
  refine FlRes.bind_memOk (fun _ _ ht => ht) (State.lanesFrom_memOk (fun t i ht => ?_) hs)
  refine FlRes.bind_memOk (fun u bs hu => ?_) (State.flRead_memOk ht)
  split
  · refine FlRes.bind_memOk (fun _ _ hv => hv) ?_
    split
    · exact State.flWrite_memOk hu
    · exact hu
  · exact hu

theorem State.blend_memOk {s : State} {c : Call} (hs : s.memOk) : (s.blend c).state.memOk := by
  unfold State.blend
  extract_lets ctl one
  refine FlRes.bind_memOk (fun _ _ ht => ht) (State.lanesFrom_memOk (fun t i ht => ?_) hs)
  refine FlRes.bind_memOk (fun u bs hu => ?_) (State.flRead_memOk ht)
  exact FlRes.bind_memOk (fun _ _ hv => hv) (State.flWrite_memOk hu)

theorem State.tessellator_memOk {s : State} {c : Call} (hs : s.memOk) : (s.tessellator c).state.memOk := by
  unfold State.tessellator
  grind [FlRes.state, State.memOk, !FlRes.bind_memOk, !State.flWrite_memOk]

theorem State.texel_memOk {s : State} {c : Call} {fmt start w : Nat} {x y : Int} (hs : s.memOk) : (s.texel c fmt start w x y).state.memOk := by
  unfold State.texel
  grind [FlRes.state, State.memOk, !FlRes.bind_memOk, !State.flRead_memOk]

theorem State.texLane_memOk {s : State} {c : Call} {fmt : Nat} {clamp : Bool} {start w h u v : Nat} (hs : s.memOk) :
    (s.texLane c fmt clamp start w h u v).state.memOk := by
  fun_cases State.texLane s c fmt clamp start w h u v <;> grind [FlRes.state, State.memOk, !FlRes.bind_memOk, !State.texel_memOk]

theorem State.texLanes_memOk {s : State} {one : State → Nat → FlRes (List Nat)} {i n : Nat} {acc : List Byte}
    (ho : ∀ t j, t.memOk → (one t j).state.memOk) (hs : s.memOk) : (s.texLanes one i acc n).state.memOk := by
  induction n generalizing s i acc with
  | zero => exact hs
  | succ n ih => exact FlRes.bind_memOk (fun _ _ ht => ih ht) (ho s i hs)

theorem State.texture_memOk {s : State} {c : Call} (hs : s.memOk) : (s.texture c).state.memOk := by
  refine FlRes.bind_memOk (fun t bs ht => ?_) (State.flRead_memOk hs)
  dsimp only
  split
  · exact ht
  · split
    · exact ht
    · exact State.texLanes_memOk (fun _ _ hu => State.texLane_memOk hu) ht

theorem State.reprojPixel_memOk {s : State} {c : Call} {q : Nat} (hs : s.memOk) : (s.reprojPixel c q).state.memOk := by
  unfold State.reprojPixel
  grind [FlRes.state, State.memOk, !FlRes.bind_memOk, !State.flRead_memOk, !State.flWrite_memOk]

theorem State.reprojFrom_memOk {s : State} {c : Call} {q carried : Nat} {recs : List (Nat × List Byte)} {f : Nat} (hs : s.memOk) :
    (s.reprojFrom c q carried recs f).state.memOk := by
  induction f generalizing s c q carried recs with
  | zero => exact hs
  | succ f ih =>
    unfold State.reprojFrom
    grind [FlRes.state, State.memOk, State.mapCall_mem, !State.reprojPixel_memOk]

theorem State.reproject_memOk {s : State} {c : Call} (hs : s.memOk) : (s.reproject c).state.memOk := by
  unfold State.reproject
  grind [FlRes.state, State.memOk, !FlRes.bind_memOk, !State.startAppends_memOk, !State.reprojFrom_memOk]

/-! ### Traversal and the sieve -/

theorem State.flushBucket_memOk {s : State} {b : Bucket} (hs : s.memOk) : (s.flushBucket b).memOk := by
  unfold State.flushBucket
  grind [State.memOk, !State.tryAppend_memOk, State.freeBucket_mem]

theorem State.putBucket_memOk {s : State} {b : Bucket} {r : BitVec 512} (hs : s.memOk) : (s.putBucket b r).memOk := by
  unfold State.putBucket
  grind [State.memOk, State.flushBucket_memOk]

theorem State.bindBucket_memOk {s t : State} {key : Word} {r : BitVec 512} (hs : s.memOk) (e : s.bindBucket key r = some t) : t.memOk := by
  obtain ⟨n, -, rfl⟩ := Option.map_eq_some_iff.1 e
  exact State.putBucket_memOk hs

theorem State.forceBucket_memOk {s : State} {b : Bucket} (hs : s.memOk) : (s.forceBucket b).memOk := by
  unfold State.forceBucket
  grind [State.memOk, State.flushBucket_memOk]

theorem State.sieve_memOk {s : State} {r : BitVec 512} (hs : s.memOk) : (s.sieve r).1.memOk := by
  unfold State.sieve
  grind [State.memOk, State.putBucket_memOk, State.bindBucket_memOk, State.forceBucket_memOk]

theorem State.flushAll_memOk {s : State} (hs : s.memOk) : s.flushAll.memOk := by
  unfold State.flushAll
  grind [State.memOk, State.flushBucket_memOk, State.foldl_memOk]

theorem Ray.leaf_memOk {r : Ray} {fetch : Fetch} (hf : ∀ t a n, t.memOk → (fetch t a n).state.memOk) {s : State} {a j tmax visits : Nat}
    {best : Option Best} {f : Nat} (h : s.memOk) : (r.leaf fetch s a j tmax visits best f).1.state.memOk := by
  induction f generalizing s j tmax visits best with
  | zero => exact h
  | succ f ih =>
    unfold Ray.leaf
    have hr := hf s (a + 48 * j) 48 h
    grind [FlRes.state, TravRes.state]

theorem Ray.walk_memOk {r : Ray} {fetch : Fetch} (hf : ∀ t a n, t.memOk → (fetch t a n).state.memOk) {s : State} {tmax visits : Nat}
    {best : Option Best} {l : List Child} {f : Nat} (h : s.memOk) : (r.walk fetch s tmax visits best l f).state.memOk := by
  induction f generalizing s tmax visits best l with
  | zero => unfold Ray.walk; exact h
  | succ f ih =>
    cases l with
    | nil => exact h
    | cons c stack =>
      unfold Ray.walk
      have hr := hf s c.addr 128 h
      have hl := Ray.leaf_memOk hf (r := r) (a := c.addr) (j := 0) (tmax := tmax) (visits := visits) (best := best) (f := c.count) h
      grind [FlRes.state, TravRes.state]

theorem Ray.run_memOk {r : Ray} {fetch : Fetch} (hf : ∀ t a n, t.memOk → (fetch t a n).state.memOk) {s : State} (h : s.memOk) :
    (r.run fetch s).state.memOk := by
  unfold Ray.run
  grind [TravRes.state, Ray.walk_memOk]

theorem State.traverse_memOk {s : State} {c : Call} (hs : s.memOk) : (s.traverse c).state.memOk := by
  unfold State.traverse
  grind [FlRes.state, TravRes.state, State.memOk, State.mapCall_mem, !State.flRead_memOk, !Ray.run_memOk]

theorem State.sieveHit_memOk {s : State} {h : SieveHit} (hs : s.memOk) : (s.sieveHit h).memOk := by
  fun_cases State.sieveHit s h <;> grind [State.memOk, State.mapTask_mem, !State.sieve_memOk]

theorem State.putHit_memOk {s : State} {t : Task} {out : Nat} {hit : List Byte} (hs : s.memOk) : (s.putHit t out hit).memOk := by
  fun_cases State.putHit s t out hit <;> grind [UnitRes.state, State.memOk, State.mapTask_mem, !State.unitWrite_memOk, State.addDrop_mem,
    State.sieveHit_memOk]

theorem Ray.run_memOk_of_read {r : Ray} {read : State → Nat → Nat → UnitRes (List Byte × Nat)}
    (hr : ∀ t a n, t.memOk → (read t a n).state.memOk) {s : State} (hs : s.memOk) {q : TravRes}
    (e : r.run (fun s a n => match read s a n with
      | .wait s => .wait s
      | .fail s => .fail s 2
      | .ok s (x, m) => if m ≠ 0 then .fail s 5 else .ok s x) s = q) : q.state.memOk := by
  rw [← e]
  refine Ray.run_memOk (fun t a n ht => ?_) hs
  have h := hr t a n ht
  grind [UnitRes.state, FlRes.state]

theorem State.nextRay_memOk {s : State} {t : Task} (hs : s.memOk) : (s.nextRay t).memOk := by
  let read (u : State) (a n : Nat) : UnitRes (List Byte × Nat) := u.unitRead 0 none t.pdom t.partid t.id.toNat a n
  have hread : ∀ u a n, u.memOk → (read u a n).state.memOk := fun u a n => State.memOk_of_mem_eq (State.unitRead_mem ..)
  have after {u : State} {a n : Nat} {q} (e : read u a n = q) (hu : u.memOk) : q.state.memOk := UnitRes.memOk_of_eq e (hread u a n hu)
  have hit {u : State} {out p} (hu : u.memOk) : (u.putHit t out p).memOk := State.putHit_memOk hu
  fun_cases State.nextRay s t with
  | case1 _ _ e => exact after e hs
  | case2 _ _ e => exact State.memOk_of_mem_eq (State.endPlain_mem ..) (after e hs)
  | case3 _ _ _ _ e => exact State.memOk_of_mem_eq (State.endPlain_mem ..) (after e hs)
  | case4 _ _ _ _ e => exact State.memOk_of_mem_eq (State.mapTask_mem ..) (after e hs)
  | case5 _ _ _ _ e _ _ _ _ e' => exact after e' (after e hs)
  | case6 _ _ _ _ e _ _ _ _ _ _ _ u e' =>
    have hu : u.memOk := after e' (after e hs)
    exact hit hu
  | case7 _ _ _ _ e _ _ _ _ _ _ _ u _ _ e' =>
    have hu : u.memOk := after e' (after e hs)
    exact hit hu
  | case8 _ _ _ _ e _ _ _ _ _ _ e' _ _ _ _ e'' => exact Ray.run_memOk_of_read hread (after e' (after e hs)) e''
  | case9 _ _ _ _ e _ _ _ _ _ _ _ _ _ _ e' _ _ _ u _ _ e'' =>
    have hu : u.memOk := Ray.run_memOk_of_read hread (after e' (after e hs)) e''
    exact hit hu
  | case10 _ _ _ _ e _ _ _ _ _ _ _ _ e' _ _ _ u _ _ e'' =>
    have hu : u.memOk := Ray.run_memOk_of_read hread (after e' (after e hs)) e''
    exact hit hu
  | case11 _ _ _ _ e _ _ _ _ _ _ _ _ _ e' _ _ _ u _ e'' =>
    have hu : u.memOk := Ray.run_memOk_of_read hread (after e' (after e hs)) e''
    exact hit hu

/-! ### Management and resets -/

@[simp] theorem State.writeDbg_mem (s : State) (v : BitVec 64) : (s.writeDbg v).mem = s.mem := by
  unfold State.writeDbg
  grind

theorem State.writePwr_memOk {s : State} {v : BitVec 64} (hs : s.memOk) : (s.writePwr v).memOk := by
  unfold State.writePwr
  grind [State.memOk, State.setPower_mem, State.heldResumes_memOk]

@[simp] theorem State.blobResult_mem (s : State) (r : Nat) : (s.blobResult r).mem = s.mem := by
  unfold State.blobResult
  grind

theorem State.clearAll_memOk {s : State} (hs : s.memOk) : s.clearAll.memOk := by
  refine Memory.wf_filter _ ?_
  rw [State.dropCopies_mem]
  exact hs

@[simp] theorem State.setSec_mem (s : State) (sec : BitVec 2) : (s.setSec sec).mem = s.mem := by
  unfold State.setSec
  grind [State.mapTask_mem, State.raiseSecurity_mem, State.endPlain_mem, State.foldl_mem]

theorem State.transition_memOk {s : State} {bytes : List Byte} {sigOk : Bool} (hs : s.memOk) : (s.transition bytes sigOk).memOk := by
  unfold State.transition
  grind [State.memOk, State.blobResult_mem, State.clearAll_memOk, State.setSec_mem]

theorem State.processFrame_memOk {s : State} {key : Nat} (hs : s.memOk) : (s.processFrame key).memOk := by
  unfold State.processFrame
  grind [State.memOk, State.frameQueues_mem, State.markerDone_memOk, State.flushAll_memOk]

theorem State.processMarkers_memOk {s : State} (hs : s.memOk) : s.processMarkers.memOk := by
  unfold State.processMarkers
  grind [State.memOk, State.processStart_memOk, State.processStop_memOk, State.processFrame_memOk, State.foldl_memOk]

theorem State.powerOn_memOk {s : State} (hs : s.memOk) : s.powerOn.memOk := Memory.wf_filter _ hs

/-! ### Fetching -/

@[simp] theorem State.fetchWord_mem (s : State) (st : Strand) (va : Nat) : (s.fetchWord st va).state.mem = s.mem := by
  unfold State.fetchWord
  have fetched : ∀ r : FetchRes Word, r.state.mem = s.mem → (match st.fbuf with
      | some (a, v) => if a = va / 32 then FetchRes.got s (atomWord v va) else r
      | none => r).state.mem = s.mem := by grind [FetchRes.state]
  refine fetched _ ?_
  dsimp only
  split
  · exact State.raise_mem ..
  · split
    · exact State.mergeMiss_mem ..
    · split
      · exact State.mergeMiss_mem ..
      · split
        · exact State.raise_mem ..
        · split
          · grind [FetchRes.state, State.raise_mem, State.tlbUse_mem, State.unitAtom_mem, State.tagNotes_mem, State.putStrand_mem]
          · rfl

@[simp] theorem State.fetchFrom_mem (s : State) (r : SRef) (ws : List Word) (f : Nat) : (s.fetchFrom r ws f).state.mem = s.mem := by
  induction f generalizing s ws with
  | zero => rfl
  | succ f ih =>
    unfold State.fetchFrom
    split
    · rfl
    · next st _ =>
      have hw := s.fetchWord_mem st ((st.pc.toNat + 4 * ws.length) % 2 ^ 57)
      split <;> grind [FetchRes.state, State.raise_mem]

@[simp] theorem State.fetchInstr_mem (s : State) (r : SRef) : (s.fetchInstr r).state.mem = s.mem := by simp [State.fetchInstr]

/-! ### Counters -/

@[simp] theorem State.countEvents_mem (s : State) : s.countEvents.mem = s.mem := by
  unfold State.countEvents
  grind

@[simp] theorem State.sampleWeave_mem (s : State) (sts : List Strand) : (s.sampleWeave sts).mem = s.mem := by
  unfold State.sampleWeave
  grind [State.setCore_mem]

@[simp] theorem State.makeSamples_mem (s : State) (kept : List Sample) (l : List Sample) : (s.makeSamples kept l).mem = s.mem := by
  induction l generalizing s kept with
  | nil => rfl
  | cons x l ih =>
    unfold State.makeSamples
    grind [State.traceAdd_mem]

@[simp] theorem State.endSamples_mem (s : State) : s.endSamples.mem = s.mem := by simp [State.endSamples]

/-! ### Branches -/

@[simp] theorem State.jump_mem (s : State) (st : Strand) (target : Addr) : (s.jump st target).mem = s.mem := rfl

@[simp] theorem State.jumpBy_mem (s : State) (st : Strand) (a : BitVec 7) (link : Bool) : (s.jumpBy st a link).mem = s.mem := by
  unfold State.jumpBy
  grind [State.raise_mem, State.jump_mem]

/-! ### What an issued instruction leaves -/

@[simp] theorem State.noteCompute_mem (s t : State) (r : SRef) (i : Instr) : (s.noteCompute t r i).mem = t.mem := by
  unfold State.noteCompute
  grind [State.setCore_mem]

@[simp] theorem State.noteResults_mem (s t : State) (r : SRef) (i : Instr) : (s.noteResults t r i).mem = t.mem := by
  simp [State.noteResults]

/-! ### The end of a cycle, and what is next -/

@[simp] theorem State.startWeave_mem (s : State) (sts : List Strand) : (s.startWeave sts).mem = s.mem := by
  unfold State.startWeave
  grind [State.sampleWeave_mem]

@[simp] theorem State.settleBlocked_mem (s : State) : s.settleBlocked.mem = s.mem := by simp [State.settleBlocked, State.foldl_mem]

@[simp] theorem State.reissueRetries_mem (s : State) : s.reissueRetries.mem = s.mem := rfl

theorem State.endWaiting_memOk {s : State} (hs : s.memOk) : s.endWaiting.memOk := by
  unfold State.endWaiting
  grind [State.memOk, State.freeTiles_mem, State.endSpecs_memOk, State.endBarriers_memOk, State.endRcv_mem, State.endCollectives_mem,
    State.endFlags_mem, State.endCommons_mem, State.endWaits_mem]

theorem State.endHeadgate_memOk {s : State} (hs : s.memOk) : s.endHeadgate.memOk := by
  unfold State.endHeadgate
  grind [State.memOk, State.flushFaults_memOk, State.unspill_mem, State.noteFirst_mem, State.registerPending_memOk, State.heldResumes_memOk,
    State.processMarkers_memOk]

theorem State.endStops_memOk {s : State} (hs : s.memOk) : s.endStops.memOk := by
  unfold State.endStops
  grind [State.memOk, State.saveRuns_memOk, State.stopStrands_mem, State.settleStopped_memOk, State.settleBlocked_mem]

theorem State.endCycle_memOk {s : State} (hs : s.memOk) : s.endCycle.memOk := by
  unfold State.endCycle
  grind [State.memOk, State.endTrace_memOk, State.settleVectors_mem, State.pokeStuck_memOk, State.stepMoves_memOk, State.countEvents_mem,
    State.endSamples_mem, State.reissueRetries_mem, State.endWaiting_memOk, State.endHeadgate_memOk, State.endStops_memOk]

@[simp] theorem State.noteStart_mem (s : State) (st : Strand) : (s.noteStart st).mem = s.mem := rfl

@[simp] theorem State.turn_mem (s : State) (r : SRef) : (s.turn r).state.mem = s.mem := by
  unfold State.turn
  split
  · rfl
  · split
    · rfl
    · split
      · exact State.settleDue_mem ..
      · split
        · exact State.reenterHandler_mem ..
        · have hf := s.fetchInstr_mem r
          split
          · next e => rwa [e] at hf
          · next e =>
            rw [e] at hf
            split
            · exact hf
            · grind [Turn.state, State.settleDue_mem, FetchRes.state, State.putStrand_mem, !State.breakpoint_mem, State.noteStart_mem,
                State.note_mem]

@[simp] theorem State.hasIssued_mem (s : State) (r : SRef) : (s.hasIssued r).mem = s.mem := by
  unfold State.hasIssued
  grind [State.putStrand_mem, State.unclaim_mem]

theorem State.afterIssue_memOk {s : State} (hs : s.memOk) : s.afterIssue.memOk := by
  unfold State.afterIssue
  grind [State.memOk, State.endCycle_memOk]

theorem Next.or_memOk {s : State} {a b : Option Next} (ha : ∀ n ∈ a, (n.state s).memOk) (hb : ∀ n ∈ b, (n.state s).memOk) :
    ∀ n ∈ a.or b, (n.state s).memOk := by
  cases a with
  | none => exact hb
  | some => exact ha

theorem Next.getD_idle_memOk {s : State} {a : Option Next} (hs : s.memOk) (ha : ∀ n ∈ a, (n.state s).memOk) : ((a.getD .idle).state s).memOk := by
  cases a with
  | none => exact hs
  | some n => exact ha n rfl

theorem State.next_memOk {s : State} (hs : s.memOk) : (s.next.state s).memOk := by
  fun_cases State.next s
  case case11 _ _ ev wv =>
    have hev : ∀ n ∈ ev, (n.state s).memOk := by
      intro n hn
      obtain ⟨i, -, rfl⟩ := Option.map_eq_some_iff.1 hn
      exact hs
    have hwv : ∀ n ∈ wv, (n.state s).memOk := by
      intro n hn
      simp only [wv] at hn
      split at hn
      · cases hn
      · cases hn
        exact State.memOk_of_mem_eq (State.startWeave_mem ..) hs
    refine Next.getD_idle_memOk hs ?_
    split
    · exact Next.or_memOk hev hwv
    · exact Next.or_memOk hwv hev
  all_goals
    grind [Next.state, State.memOk, State.masterRead_mem, State.masterWrites_memOk, State.headRow_mem, State.companionWrite_mem,
      State.companionRead_mem, State.startWeave_mem]

/-! ### Outcomes, instructions and events -/

/-- A next state, where the outcome is one, has canonical memory. -/
def Outcome.memOk : Host.Outcome State Fault Refusal → Prop
  | .next t => t.memOk
  | _ => True

theorem State.onStrand_memOk {s : State} {f : Strand → State} (hf : ∀ st, (f st).memOk) : Outcome.memOk (s.onStrand f) := by
  unfold State.onStrand
  split
  · exact hf _
  · trivial

theorem State.simple_memOk {s : State} {len : Nat} {f : Strand → Strand} (hs : s.memOk) : Outcome.memOk (s.simple len f) :=
  State.onStrand_memOk fun _ => State.memOk_of_mem_eq (State.putStrand_mem ..) hs

theorem State.simpleLong_memOk {s : State} {len la : Nat} {f : Strand → Pend} (hs : s.memOk) : Outcome.memOk (s.simpleLong len la f) :=
  State.onStrand_memOk fun _ => State.memOk_of_mem_eq (State.putStrand_mem ..) hs

theorem execCrossDieWriteApply_memOk {id : Nat} {s : State} (hs : s.memOk) : Outcome.memOk (execCrossDieWriteApply id s) := by
  unfold execCrossDieWriteApply
  grind [Outcome.memOk, State.memOk, State.applyWrite_memOk]

theorem execWriteAcknowledge_memOk {id : Nat} {s : State} (hs : s.memOk) : Outcome.memOk (execWriteAcknowledge id s) := by
  unfold execWriteAcknowledge
  grind [Outcome.memOk, State.memOk, State.ackWrite_mem]

theorem execTaskAcceptance_memOk {s : State} (hs : s.memOk) : Outcome.memOk (execTaskAcceptance s) := by
  unfold execTaskAcceptance
  extract_lets t
  have ht : t.memOk := State.foldl_memOk (fun _ _ hu => State.tryAdmit_memOk hu) _ hs
  grind [Outcome.memOk, State.acceptHost_memOk]

theorem execEvminReservation_memOk {s : State} (hs : s.memOk) : Outcome.memOk (execEvminReservation s) := by
  unfold execEvminReservation
  grind [Outcome.memOk, State.memOk]

theorem execTaskDispatch_memOk {s : State} (hs : s.memOk) : Outcome.memOk (execTaskDispatch s) := by
  unfold execTaskDispatch
  grind [Outcome.memOk, State.memOk, State.dispatch_mem]

theorem execBundlePlacement_memOk {die : Nat} {s : State} (hs : s.memOk) : Outcome.memOk (execBundlePlacement die s) := by
  unfold execBundlePlacement
  grind [Outcome.memOk, State.memOk, State.placeNext_mem]

theorem execFastPathPlacement_memOk {die : Nat} {s : State} (hs : s.memOk) : Outcome.memOk (execFastPathPlacement die s) := by
  unfold execFastPathPlacement
  grind [Outcome.memOk, State.memOk, State.placeNext_mem]

theorem execStealRequest_memOk {die : Nat} {s : State} (hs : s.memOk) : Outcome.memOk (execStealRequest die s) := by
  unfold execStealRequest
  grind [Outcome.memOk, State.memOk, State.dispatch_mem, State.handOver_mem]

theorem execTaskCompletion_memOk {key : Nat} {s : State} (hs : s.memOk) : Outcome.memOk (execTaskCompletion key s) := by
  unfold execTaskCompletion
  grind [Outcome.memOk, State.memOk, State.finish_mem, State.completeTask_memOk]

theorem execWorkQueueTailObserve_memOk {q : Nat} {s : State} (hs : s.memOk) : Outcome.memOk (execWorkQueueTailObserve q s) := by
  unfold execWorkQueueTailObserve
  grind [Outcome.memOk, UnitRes.state, State.memOk, State.gxAcquire_mem, State.leaveIdle_mem, !State.hgRead_memOk, State.disableQueue_memOk,
    State.setTail_memOk]

theorem execWorkQueueLaunch_memOk {q : Nat} {s : State} (hs : s.memOk) : Outcome.memOk (execWorkQueueLaunch q s) := by
  unfold execWorkQueueLaunch
  grind [Outcome.memOk, State.memOk, State.launch_memOk]

theorem execEngctlResume_memOk {die core : Nat} {v : BitVec 32} {s : State} (hs : s.memOk) : Outcome.memOk (execEngctlResume die core v s) := by
  unfold execEngctlResume
  grind [Outcome.memOk, State.memOk, State.writeEngctl_memOk]

theorem execEngctlAbandon_memOk {die core : Nat} {v : BitVec 32} {s : State} (hs : s.memOk) : Outcome.memOk (execEngctlAbandon die core v s) := by
  unfold execEngctlAbandon
  grind [Outcome.memOk, State.memOk, State.writeEngctl_memOk]

theorem execMxringTailObserve_memOk {die core : Nat} {s : State} (hs : s.memOk) : Outcome.memOk (execMxringTailObserve die core s) := by
  unfold execMxringTailObserve
  extract_lets k hdr
  split
  · exact hs
  · have hh := State.hgRead_memOk (pdom := 0) (partid := 0) (task := 0) (va := hdr) (n := 32) hs
    split
    · next e => exact UnitRes.memOk_of_eq e hh
    · next e => exact State.stopRing_memOk (UnitRes.memOk_of_eq e hh)
    · next t bs e =>
      have ht : t.memOk := UnitRes.memOk_of_eq e hh
      have hr := State.hgRead_memOk (pdom := 0) (partid := 0) (task := 0) (va := (bitsNat (bytesNat bs) 56 0 +
        64 * (bitsNat (bytesNat bs) 151 128 % max (bitsNat (bytesNat bs) 80 64) 1)) % 2 ^ 57) (n := 64) ht
      extract_lets
      split
      · exact ht
      · split
        · next e => exact UnitRes.memOk_of_eq e hr
        · next e => exact State.stopRing_memOk (UnitRes.memOk_of_eq e hr)
        · next u _ e =>
          have hu : u.memOk := UnitRes.memOk_of_eq e hr
          extract_lets
          split
          · exact hu
          · split
            · next e => exact UnitRes.memOk_of_eq e (State.unitWrite_memOk hu)
            · next e => exact State.stopRing_memOk (UnitRes.memOk_of_eq e (State.unitWrite_memOk hu))
            · next v _ e =>
              have hv : v.memOk := UnitRes.memOk_of_eq e (State.unitWrite_memOk hu)
              exact State.memOk_of_mem_eq (State.setCore_mem ..) (State.gxRelease_memOk hv)

theorem execBkpt_memOk {k : BitVec 7} {s : State} (hs : s.memOk) : Outcome.memOk (execBkpt k s) := by
  refine State.onStrand_memOk fun st => ?_
  grind [State.memOk, State.putStrand_mem, !State.breakpoint_mem]

theorem execTmark_memOk {a : BitVec 7} {k : BitVec 7} {s : State} (hs : s.memOk) : Outcome.memOk (execTmark a k s) := by
  refine State.onStrand_memOk fun st => ?_
  grind [State.memOk, State.putStrand_mem, State.traceStrand_mem]

theorem execMxMma_memOk {die core : Nat} {s : State} (hs : s.memOk) : Outcome.memOk (execMxMma die core s) := by
  unfold execMxMma
  split
  · exact hs
  · exact State.engineStep_memOk (fun _ _ => State.mxIter_memOk) hs

theorem execMxMmac_memOk {die core : Nat} {s : State} (hs : s.memOk) : Outcome.memOk (execMxMmac die core s) := by
  unfold execMxMmac
  split
  · exact hs
  · exact State.engineStep_memOk (fun _ _ => State.mxIter_memOk) hs

theorem execWeirAdmit_memOk {id : Nat} {s : State} (hs : s.memOk) : Outcome.memOk (execWeirAdmit id s) := by
  unfold execWeirAdmit
  grind [Outcome.memOk, State.memOk, State.judgeToken_memOk, State.admitCall_mem]

theorem execFlcall_memOk {t : BitVec 3} {a : BitVec 7} {r : BitVec 1} {s : State} (hs : s.memOk) : Outcome.memOk (execFlcall t a r s) := by
  refine State.onStrand_memOk fun st => ?_
  grind [Present.state, State.memOk, State.putStrand_mem, !State.tryCall_memOk]

theorem execFlwait_memOk {a : BitVec 7} {s : State} (hs : s.memOk) : Outcome.memOk (execFlwait a s) := by
  refine State.onStrand_memOk fun st => ?_
  grind [State.memOk, State.putStrand_mem, State.tryFlwait_mem]

theorem execTake_memOk {d a b : BitVec 7} {s : State} (hs : s.memOk) : Outcome.memOk (execTake d a b s) := by
  refine State.onStrand_memOk fun st => ?_
  grind [State.memOk, State.putStrand_mem, State.raise_mem, State.setDomain_mem]

theorem execSkip_memOk {a b : BitVec 7} {s : State} (hs : s.memOk) : Outcome.memOk (execSkip a b s) := by
  refine State.onStrand_memOk fun st => ?_
  grind [State.memOk, State.putStrand_mem, State.markToken_mem]

theorem execOrderDomainAdvance_memOk {n : Nat} {s : State} (hs : s.memOk) : Outcome.memOk (execOrderDomainAdvance n s) := by
  unfold execOrderDomainAdvance
  grind [Outcome.memOk, State.memOk, State.advanceSteps_mem]

theorem execSpecEpoch_memOk {d a : BitVec 7} {s : State} (hs : s.memOk) : Outcome.memOk (execSpecEpoch d a s) := by
  refine State.onStrand_memOk fun st => ?_
  grind [State.memOk, State.putStrand_mem, State.setEpoch_mem]

theorem spec_memOk {d a : BitVec 7} {act : State → Nat → State} {s : State} (ha : ∀ t e, t.memOk → (act t e).memOk) (hs : s.memOk) :
    Outcome.memOk (spec d a act s) := by
  refine State.onStrand_memOk fun st => ?_
  have hact := ha s ((st.s a).toNat % 256) hs
  grind [State.memOk, State.putStrand_mem, State.specStep_memOk]

theorem execSpecCommit_memOk {d a : BitVec 7} {s : State} (hs : s.memOk) : Outcome.memOk (execSpecCommit d a s) :=
  spec_memOk (fun _ _ ht => State.memOk_of_mem_eq (State.commitEpoch_mem ..) ht) hs

theorem execSpecCancel_memOk {d a : BitVec 7} {s : State} (hs : s.memOk) : Outcome.memOk (execSpecCancel d a s) :=
  spec_memOk (fun _ _ => State.cancelEpoch_memOk) hs

theorem execCwr_memOk {d : BitVec 5} {a : BitVec 7} {s : State} (hs : s.memOk) : Outcome.memOk (execCwr d a s) := by
  refine State.onStrand_memOk fun st => ?_
  grind [State.memOk, State.putStrand_mem]

theorem execFcvt_memOk {mk : Option Msk} {t : BitVec 4} {d a : BitVec 7} {c : BitVec 4} {r : BitVec 3} {s : State} (hs : s.memOk) :
    Outcome.memOk (execFcvt mk t d a c r s) := by
  refine State.onStrand_memOk fun st => ?_
  grind [State.memOk, State.setCore_mem, State.note_mem, State.putStrand_mem]

theorem State.issueMem_memOk {s : State} {len : Nat} {f : Strand → MemReq} (hs : s.memOk) : Outcome.memOk (s.issueMem len f) := by
  refine State.onStrand_memOk fun st => ?_
  grind [State.memOk, State.putStrand_mem, State.tryMem_memOk]

theorem execLdv_memOk {mk : Option Msk} {x : Option (BitVec 25)} {l : BitVec 4} {d a : BitVec 7} {z : BitVec 2} {q : BitVec 1} {c h : BitVec 2}
    {s : State} (hs : s.memOk) : Outcome.memOk (execLdv mk x l d a z q c h s) := by
  unfold execLdv
  grind [Outcome.memOk, State.memOk, State.putStrand_mem, !State.issueMem_memOk, State.useReuse_mem]

theorem execPref_memOk {x : Option (BitVec 25)} {a : BitVec 7} {h : BitVec 2} {s : State} (hs : s.memOk) : Outcome.memOk (execPref x a h s) := by
  refine State.onStrand_memOk fun st => ?_
  grind [State.memOk, State.putStrand_mem, !State.peekLeaf_mem, State.fillLine_mem]

theorem execMwatch_memOk {x : Option (BitVec 25)} {a : BitVec 7} {s : State} (hs : s.memOk) : Outcome.memOk (execMwatch x a s) := by
  refine State.onStrand_memOk fun st => ?_
  grind [State.memOk, State.putStrand_mem, State.unitAtom_mem, State.addrFail_mem, State.tlbUseAll_mem, State.awaitPart_mem, State.fillLine_mem]

theorem execMwait_memOk {s : State} (hs : s.memOk) : Outcome.memOk (execMwait s) := by
  refine State.onStrand_memOk fun st => ?_
  grind [State.memOk, State.putStrand_mem]

theorem fence_memOk {rel acq : Bool} {c : BitVec 2} {s : State} (hs : s.memOk) : Outcome.memOk (fence rel acq c s) := by
  refine State.onStrand_memOk fun st => ?_
  grind [State.memOk, State.putStrand_mem, State.acquire_mem]

theorem execBnew_memOk {d a : BitVec 7} {s : State} (hs : s.memOk) : Outcome.memOk (execBnew d a s) := by
  refine State.onStrand_memOk fun st => ?_
  grind [State.memOk, State.putStrand_mem, State.leave_mem, !State.newBundle_mem, State.raiseWord_mem, State.pass_mem]

theorem execBjoin_memOk {d a : BitVec 7} {s : State} (hs : s.memOk) : Outcome.memOk (execBjoin d a s) := by
  refine State.onStrand_memOk fun st => ?_
  grind [State.memOk, State.putStrand_mem, State.dissolveIfDone_mem, State.pass_mem]

theorem execBleave_memOk {s : State} (hs : s.memOk) : Outcome.memOk (execBleave s) := by
  refine State.onStrand_memOk fun st => ?_
  grind [State.memOk, State.putStrand_mem, State.dissolveIfDone_mem]

theorem execBinfo_memOk {d : BitVec 7} {k : BitVec 7} {s : State} (hs : s.memOk) : Outcome.memOk (execBinfo d k s) := by
  refine State.onStrand_memOk fun st => ?_
  grind [State.memOk, State.pass_mem]

theorem execBarInit_memOk {a : BitVec 7} {k : BitVec 4} {s : State} (hs : s.memOk) : Outcome.memOk (execBarInit a k s) := by
  refine State.onStrand_memOk fun st => ?_
  grind [State.memOk, State.mapBar_mem, State.raiseWord_mem, State.pass_mem]

theorem execBarSync_memOk {a : BitVec 7} {c : BitVec 1} {k : BitVec 4} {s : State} (hs : s.memOk) : Outcome.memOk (execBarSync a c k s) := by
  refine State.onStrand_memOk fun st => ?_
  grind [State.memOk, State.putStrand_mem, State.arrive_mem]

theorem execBarArrive_memOk {a : BitVec 7} {c : BitVec 1} {k : BitVec 4} {s : State} (hs : s.memOk) : Outcome.memOk (execBarArrive a c k s) := by
  refine State.onStrand_memOk fun st => ?_
  grind [State.memOk, State.pass_mem, State.arrive_mem]

theorem execBarExpect_memOk {a : BitVec 7} {k : BitVec 4} {s : State} (hs : s.memOk) : Outcome.memOk (execBarExpect a k s) := by
  refine State.onStrand_memOk fun st => ?_
  grind [State.memOk, State.mapBar_mem, State.pass_mem]

theorem execBarQuery_memOk {d : BitVec 7} {c : BitVec 1} {k : BitVec 4} {s : State} (hs : s.memOk) : Outcome.memOk (execBarQuery d c k s) := by
  refine State.onStrand_memOk fun st => ?_
  grind [State.memOk, State.pass_mem]

theorem State.collect_memOk {s : State} {f : Strand → Wait} (hs : s.memOk) : Outcome.memOk (s.collect f) := by
  refine State.onStrand_memOk fun st => ?_
  grind [State.memOk, State.putStrand_mem, State.finishCollective_mem]

theorem rwr_memOk {vec : Bool} {d a b : BitVec 7} {s : State} (hs : s.memOk) : Outcome.memOk (rwr vec d a b s) := by
  refine State.onStrand_memOk fun st => ?_
  grind [State.memOk, State.pass_mem]

theorem execRwrDeposit_memOk {id : Nat} {s : State} (hs : s.memOk) : Outcome.memOk (execRwrDeposit id s) := by
  unfold execRwrDeposit
  grind [Outcome.memOk, State.memOk, State.deposit_mem]

theorem execRwait_memOk {a : BitVec 7} {s : State} (hs : s.memOk) : Outcome.memOk (execRwait a s) := by
  refine State.onStrand_memOk fun st => ?_
  grind [State.memOk, State.putStrand_mem, State.pass_mem]

theorem execQsend_memOk {k : BitVec 3} {m a : BitVec 7} {s : State} (hs : s.memOk) : Outcome.memOk (execQsend k m a s) := by
  refine State.onStrand_memOk fun st => ?_
  grind [State.memOk, State.putStrand_mem, State.portOffer_memOk]

theorem execQrecv_memOk {k : BitVec 3} {d : BitVec 7} {s : State} (hs : s.memOk) : Outcome.memOk (execQrecv k d s) := by
  refine State.onStrand_memOk fun st => ?_
  grind [State.memOk, State.setCore_mem, State.putStrand_mem, State.returnCount_mem, State.raiseWord_mem, State.pass_mem]

theorem execFlagSet_memOk {k : BitVec 5} {s : State} (hs : s.memOk) : Outcome.memOk (execFlagSet k s) := by
  refine State.onStrand_memOk fun st => ?_
  grind [State.memOk, State.pass_mem, State.flagLater_mem]

theorem execFlagClr_memOk {k : BitVec 5} {s : State} (hs : s.memOk) : Outcome.memOk (execFlagClr k s) := by
  refine State.onStrand_memOk fun st => ?_
  grind [State.memOk, State.pass_mem, State.flagLater_mem]

theorem execFlagWait_memOk {k : BitVec 5} {s : State} (hs : s.memOk) : Outcome.memOk (execFlagWait k s) := by
  refine State.onStrand_memOk fun st => ?_
  grind [State.memOk, State.putStrand_mem, State.pass_mem]

theorem xacq_memOk {vec : Bool} {limit : Nat} {word : Word} {k : Nat} {s : State} (hs : s.memOk) : Outcome.memOk (xacq vec limit word k s) := by
  refine State.onStrand_memOk fun st => ?_
  grind [State.memOk, State.setCore_mem, State.putStrand_mem, State.raiseWord_mem, State.pass_mem, !State.grant_mem]

theorem xrel_memOk {vec : Bool} {word : Word} {k : Nat} {s : State} (hs : s.memOk) : Outcome.memOk (xrel vec word k s) := by
  refine State.onStrand_memOk fun st => ?_
  grind [State.memOk, State.releaseBlocks_mem, State.raiseWord_mem, State.pass_mem]

theorem execTresv_memOk {d a : BitVec 7} {s : State} (hs : s.memOk) : Outcome.memOk (execTresv d a s) := by
  refine State.onStrand_memOk fun st => ?_
  grind [RecRead.state, State.memOk, State.setCore_mem, State.putStrand_mem, !State.readRecord_memOk]

theorem execTrel_memOk {a : BitVec 7} {s : State} (hs : s.memOk) : Outcome.memOk (execTrel a s) := by
  refine State.onStrand_memOk fun st => ?_
  grind [State.memOk, State.putStrand_mem, State.releaseTile_mem]

theorem execTstat_memOk {d a : BitVec 7} {s : State} (hs : s.memOk) : Outcome.memOk (execTstat d a s) := by
  refine State.onStrand_memOk fun st => ?_
  grind [State.memOk, State.putStrand_mem, State.acquireTile_mem]

theorem execTwait_memOk {a k : BitVec 7} {s : State} (hs : s.memOk) : Outcome.memOk (execTwait a k s) := by
  refine State.onStrand_memOk fun st => ?_
  grind [State.memOk, State.putStrand_mem, State.acquireTile_mem]

theorem engq_memOk {u : Nat} {a : BitVec 7} {s : State} (hs : s.memOk) : Outcome.memOk (engq u a s) := by
  refine State.onStrand_memOk fun st => ?_
  grind [State.memOk, State.putStrand_mem, State.raise_mem, State.again_mem, State.pushEntry_mem]

theorem execFork_memOk {e : BitVec 4} {a b : BitVec 7} {s : State} (hs : s.memOk) : Outcome.memOk (execFork e a b s) := by
  refine State.onStrand_memOk fun st => ?_
  extract_lets us list rva lanes d c
  have hp : ((s.rdvPlace st rva .write).state s).memOk := State.memOk_of_mem_eq (State.rdvPlace_mem ..) hs
  split
  · next e => rw [e] at hp; exact State.memOk_of_mem_eq (State.again_mem ..) hp
  · exact State.memOk_of_mem_eq (State.addrFail_mem ..) hs
  · have hr := State.readRecord_memOk (st := st) (lanes := lanes) hs
    split
    · next e => rwa [e] at hr
    · next t bs e =>
      have ht : t.memOk := by rw [e] at hr; exact hr
      extract_lets recs
      split
      · exact State.memOk_of_mem_eq (State.raise_mem ..) ht
      · split
        · exact State.memOk_of_mem_eq (State.again_mem ..) ht
        · -- `split` has brought in the rest of the function's definitions
          rename_i g u v w _ _ _
          have hv : v.memOk := State.writeAtom_memOk (s := u) ht
          have hw : w.memOk := State.foldl_memOk (fun _ _ hx => State.memOk_of_mem_eq (State.pushEntry_mem ..) hx) _ hv
          exact State.memOk_of_mem_eq (State.putStrand_mem ..) hw

theorem execRdv_memOk {d a : BitVec 7} {s : State} (hs : s.memOk) : Outcome.memOk (execRdv d a s) := by
  refine State.onStrand_memOk fun st => ?_
  extract_lets go
  have hgo : ∀ t x u, t.memOk → (go t x).1 = some u → u.memOk := by
    intro t x u ht e
    have hp : ((t.rdvPlace x (x.pairAddr a).toNat .read).state t).memOk := State.memOk_of_mem_eq (State.rdvPlace_mem ..) ht
    simp only [go] at e
    split at e
    · next h => cases e; rw [h] at hp; exact State.memOk_of_mem_eq (State.again_mem ..) hp
    · cases e; exact State.memOk_of_mem_eq (State.addrFail_mem ..) ht
    · obtain ⟨_, -, rfl⟩ := Option.map_eq_some_iff.1 e
      exact State.memOk_of_mem_eq (State.passRdv_mem ..) ht
  grind [State.memOk, State.putStrand_mem]

theorem execTspawn_memOk {d a : BitVec 7} {s : State} (hs : s.memOk) : Outcome.memOk (execTspawn d a s) := by
  refine State.onStrand_memOk fun st => ?_
  grind [RecRead.state, State.memOk, State.putStrand_mem, !State.accept_memOk, State.again_mem, !State.readRecord_memOk]

theorem execTsignal_memOk {a : BitVec 7} {s : State} (hs : s.memOk) : Outcome.memOk (execTsignal a s) := by
  refine State.onStrand_memOk fun st => ?_
  grind [State.memOk, State.putStrand_mem, State.signalNode_memOk, State.again_mem]

theorem execCsrr_memOk {d : BitVec 7} {c : BitVec 14} {s : State} (hs : s.memOk) : Outcome.memOk (execCsrr d c s) := by
  refine State.onStrand_memOk fun st => ?_
  grind [State.memOk, State.putStrand_mem, State.raiseWord_mem]

theorem execCsrw_memOk {d : BitVec 7} {c : BitVec 14} {s : State} (hs : s.memOk) : Outcome.memOk (execCsrw d c s) := by
  refine State.onStrand_memOk fun st => ?_
  grind [State.memOk, State.putStrand_mem, State.csrPutUnit_memOk, State.raiseWord_mem]

theorem execTrap_memOk {i : BitVec 14} {s : State} (hs : s.memOk) : Outcome.memOk (execTrap i s) := by
  refine State.onStrand_memOk fun st => ?_
  grind [State.memOk, State.raiseAfter_mem]

theorem execEret_memOk {s : State} (hs : s.memOk) : Outcome.memOk (execEret s) := by
  refine State.onStrand_memOk fun st => ?_
  grind [State.memOk, State.putStrand_mem, State.raiseWord_mem]

theorem execCclr_memOk {a : BitVec 7} {s : State} (hs : s.memOk) : Outcome.memOk (execCclr a s) := by
  refine State.onStrand_memOk fun st => ?_
  grind [State.memOk, State.putStrand_mem, State.raiseWord_mem]

theorem execIsync_memOk {s : State} (hs : s.memOk) : Outcome.memOk (execIsync s) := by
  refine State.onStrand_memOk fun st => ?_
  grind [State.memOk, State.putStrand_mem]

theorem execL1inv_memOk {a b : BitVec 7} {s : State} (hs : s.memOk) : Outcome.memOk (execL1inv a b s) := by
  refine State.onStrand_memOk fun st => ?_
  grind [State.memOk, State.setCore_mem, State.putStrand_mem, State.noteKills_mem, State.spoilFills_mem, State.raiseWord_mem, State.fireWatches_mem]

theorem execTlbinv_memOk {d a b : BitVec 7} {s : State} (hs : s.memOk) : Outcome.memOk (execTlbinv d a b s) := by
  refine State.onStrand_memOk fun st => ?_
  grind [State.memOk, State.putStrand_mem, State.raiseWord_mem, State.dropTlb_mem]

theorem execShoot_memOk {d a b : BitVec 7} {s : State} (hs : s.memOk) : Outcome.memOk (execShoot d a b s) := by
  refine State.onStrand_memOk fun st => ?_
  grind [State.memOk, State.putStrand_mem, State.raiseWord_mem, State.dropTlb_mem]

theorem execRdcinv_memOk {a b : BitVec 7} {s : State} (hs : s.memOk) : Outcome.memOk (execRdcinv a b s) := by
  refine State.onStrand_memOk fun st => ?_
  grind [State.memOk, State.setDie_mem, State.putStrand_mem, State.spoilFills_mem, State.raiseWord_mem, State.fireWatches_mem]

theorem execFlDom_memOk {m n : Nat} {v : BitVec 64} {s : State} (hs : s.memOk) : Outcome.memOk (execFlDom m n v s) := by
  unfold execFlDom
  grind [Outcome.memOk, State.memOk, State.portWrite_memOk]

theorem execHostLinkDown_memOk {s : State} (hs : s.memOk) : Outcome.memOk (execHostLinkDown s) := by
  unfold execHostLinkDown
  grind [Outcome.memOk, State.memOk, State.loseMaster_mem]

theorem execI3cTargetReset_memOk {s : State} (hs : s.memOk) : Outcome.memOk (execI3cTargetReset s) := by
  unfold execI3cTargetReset
  grind [Outcome.memOk, State.memOk, State.loseMaster_mem]

theorem execDhTrain_memOk {m n : Nat} {v : BitVec 64} {s : State} (hs : s.memOk) : Outcome.memOk (execDhTrain m n v s) := by
  unfold execDhTrain
  grind [Outcome.memOk, State.memOk, State.portWrite_memOk]

theorem execDhEnable_memOk {m n : Nat} {v : BitVec 64} {s : State} (hs : s.memOk) : Outcome.memOk (execDhEnable m n v s) := by
  unfold execDhEnable
  grind [Outcome.memOk, State.memOk, State.portWrite_memOk]

theorem execDhTrainDone_memOk {n : Nat} {ok : Bool} {s : State} (hs : s.memOk) : Outcome.memOk (execDhTrainDone n ok s) := by
  unfold execDhTrainDone
  grind [Outcome.memOk, State.memOk, State.mapHead_mem]

theorem execDhFrameStart_memOk {n : Nat} {s : State} (hs : s.memOk) : Outcome.memOk (execDhFrameStart n s) := by
  unfold execDhFrameStart
  grind [Outcome.memOk, State.memOk, State.mapHead_mem]

theorem execPartClearDone_memOk {s : State} (hs : s.memOk) : Outcome.memOk (execPartClearDone s) := by
  unfold execPartClearDone
  grind [Outcome.memOk, State.memOk, State.gxRelease_memOk, State.clearRange_memOk]

theorem execPowerSample_memOk {mw : Nat} {s : State} (hs : s.memOk) : Outcome.memOk (execPowerSample mw s) := by
  unfold execPowerSample
  grind [Outcome.memOk, State.memOk]

theorem execStrandWake_memOk {die core slot : Nat} {s : State} (hs : s.memOk) : Outcome.memOk (execStrandWake die core slot s) := by
  unfold execStrandWake
  grind [Outcome.memOk, State.memOk, State.wakeStrand_mem]

theorem execBundleEviction_memOk {h : Nat} {s : State} (hs : s.memOk) : Outcome.memOk (execBundleEviction h s) := by
  unfold execBundleEviction
  grind [Outcome.memOk, State.memOk, State.mapBundle_mem, State.evictNow_memOk]

theorem execBackwaterFullReport_memOk {s : State} (hs : s.memOk) : Outcome.memOk (execBackwaterFullReport s) := by
  unfold execBackwaterFullReport
  grind [Outcome.memOk, State.memOk, State.faultRecord_memOk]

theorem execBundleRestore_memOk {h die core : Nat} {s : State} (hs : s.memOk) : Outcome.memOk (execBundleRestore h die core s) := by
  unfold execBundleRestore
  grind [Outcome.memOk, UnitRes.state, State.memOk, !State.hgRead_memOk, State.endPlain_mem, State.restoreBundle_mem, State.dockStep_mem]

theorem execWalkComplete_memOk {die pdom page : Nat} {s : State} (hs : s.memOk) : Outcome.memOk (execWalkComplete die pdom page s) := by
  unfold execWalkComplete
  grind [Outcome.memOk, State.memOk, State.finishWalk_memOk]

theorem execLineLeaseExpiry_memOk {cache line : Nat} {s : State} (hs : s.memOk) : Outcome.memOk (execLineLeaseExpiry cache line s) := by
  unfold execLineLeaseExpiry
  grind [Outcome.memOk, State.memOk, State.setCore_mem, State.setDie_mem, State.noteCache_mem]

theorem execWatchTimeout_memOk {die core slot : Nat} {s : State} (hs : s.memOk) : Outcome.memOk (execWatchTimeout die core slot s) := by
  unfold execWatchTimeout
  grind [Outcome.memOk, State.memOk, State.putStrand_mem]

theorem execLoadDataReturn_memOk {die core slot n : Nat} {s : State} (hs : s.memOk) : Outcome.memOk (execLoadDataReturn die core slot n s) := by
  unfold execLoadDataReturn
  grind [Outcome.memOk, State.memOk, State.putStrand_mem]

theorem execReadRequestServe_memOk {id : Nat} {data : BitVec 256} {s : State} (hs : s.memOk) : Outcome.memOk (execReadRequestServe id data s) := by
  unfold execReadRequestServe
  grind [Outcome.memOk, State.memOk, State.serveRead_memOk, State.serveCompanion_mem]

theorem execAckOverdue_memOk {id : Nat} {s : State} (hs : s.memOk) : Outcome.memOk (execAckOverdue id s) := by
  unfold execAckOverdue
  split
  · split
    · exact State.memRecord_memOk hs
    · exact hs
  · exact hs

theorem execUncorrectableMemoryError_memOk {atom : BitVec 48} {dirtyL2 : Bool} {s : State} (hs : s.memOk) :
    Outcome.memOk (execUncorrectableMemoryError atom dirtyL2 s) := by
  unfold execUncorrectableMemoryError
  grind [Outcome.memOk, State.memOk, State.memRecord_memOk]

theorem execScratchpadSoftError_memOk {die core what off : Nat} {s : State} (hs : s.memOk) :
    Outcome.memOk (execScratchpadSoftError die core what off s) := by
  unfold execScratchpadSoftError
  grind [Outcome.memOk, State.memOk, State.setCore_mem, State.mapBundle_mem, State.memRecord_memOk, State.killHolder_mem]

theorem execMailboxAccept_memOk {id bit : Nat} {s : State} (hs : s.memOk) : Outcome.memOk (execMailboxAccept id bit s) := by
  unfold execMailboxAccept
  grind [Outcome.memOk, State.memOk, State.acceptOffer_memOk]

theorem execHostMemoryWrite_memOk {addr : BitVec 48} {bytes : List (BitVec 8)} {s : State} (hs : s.memOk) :
    Outcome.memOk (execHostMemoryWrite addr bytes s) := by
  unfold execHostMemoryWrite
  grind [Outcome.memOk, State.memOk, State.homeWrite_memOk, State.busTouch_mem]

theorem execHostMemoryRead_memOk {addr : BitVec 48} {n : Nat} {s : State} (hs : s.memOk) : Outcome.memOk (execHostMemoryRead addr n s) := by
  unfold execHostMemoryRead
  grind [Outcome.memOk, State.memOk, State.busTouch_mem]

theorem execHostAtomic_memOk {op : Nat} {addr : BitVec 48} {width : Nat} {x y : BitVec 128} {s : State} (hs : s.memOk) :
    Outcome.memOk (execHostAtomic op addr width x y s) := by
  unfold execHostAtomic
  grind [Outcome.memOk, State.memOk, !State.busAtomic_memOk]

theorem execCompanionAtomicop_memOk {op : Nat} {addr : BitVec 48} {width : Nat} {x y : BitVec 128} {s : State} (hs : s.memOk) :
    Outcome.memOk (execCompanionAtomicop op addr width x y s) := by
  unfold execCompanionAtomicop
  grind [Outcome.memOk, State.memOk, !State.busAtomic_memOk]

theorem execMgHalt_memOk {m : Nat} {v : BitVec 64} {s : State} (hs : s.memOk) : Outcome.memOk (execMgHalt m v s) := by
  unfold execMgHalt
  grind [Outcome.memOk, State.memOk, State.leaveIdle_mem, State.i3cSeen_mem, State.haltTask_mem]

theorem execMgHaltResume_memOk {m : Nat} {v : BitVec 64} {s : State} (hs : s.memOk) : Outcome.memOk (execMgHaltResume m v s) := by
  unfold execMgHaltResume
  grind [Outcome.memOk, State.memOk, State.leaveIdle_mem, State.i3cSeen_mem, State.askResume_memOk]

theorem execTaskEnd_memOk {key : Nat} {s : State} (hs : s.memOk) : Outcome.memOk (execTaskEnd key s) := by
  unfold execTaskEnd
  grind [Outcome.memOk, State.memOk, State.endStep_memOk]

theorem execDumpWrite_memOk {key : Nat} {s : State} (hs : s.memOk) : Outcome.memOk (execDumpWrite key s) := by
  unfold execDumpWrite
  grind [Outcome.memOk, State.memOk, State.removeQueued_mem, State.writeDump_memOk]

theorem execMove_memOk {w : List (BitVec 32)} {s : State} (hs : s.memOk) : Outcome.memOk (execMove w s) := by
  unfold execMove
  grind [Outcome.memOk, State.memOk, State.leaveIdle_mem, State.outStep_memOk]

theorem execMoveData_memOk {w : List (BitVec 32)} {bytes : List (BitVec 8)} {marks : List Nat} {s : State} (hs : s.memOk) :
    Outcome.memOk (execMoveData w bytes marks s) := by
  unfold execMoveData
  grind [Outcome.memOk, State.memOk, State.leaveIdle_mem, State.takePart_memOk]

theorem execPair_memOk {w : List (BitVec 32)} {s : State} (hs : s.memOk) : Outcome.memOk (execPair w s) := by
  unfold execPair
  grind [Outcome.memOk, State.memOk, State.leaveIdle_mem, State.sendMsg_mem]

theorem execPairAck_memOk {w : List (BitVec 32)} {s : State} (hs : s.memOk) : Outcome.memOk (execPairAck w s) := by
  unfold execPairAck
  grind [Outcome.memOk, State.memOk, State.leaveIdle_mem, State.azEvent_mem, State.clearSlot3_mem]

theorem execMigrate_memOk {w : List (BitVec 32)} {s : State} (hs : s.memOk) : Outcome.memOk (execMigrate w s) := by
  unfold execMigrate
  grind [Outcome.memOk, State.memOk, State.leaveIdle_mem, State.dock_mem]

theorem execCisternStep_memOk {s : State} (hs : s.memOk) : Outcome.memOk (execCisternStep s) := by
  unfold execCisternStep
  grind [Outcome.memOk, State.memOk, State.askCapture_mem]

theorem execStepAck_memOk {w : List (BitVec 32)} {s : State} (hs : s.memOk) : Outcome.memOk (execStepAck w s) := by
  unfold execStepAck
  grind [Outcome.memOk, State.memOk, State.leaveIdle_mem]

theorem execMigrateDone_memOk {w : List (BitVec 32)} {s : State} (hs : s.memOk) : Outcome.memOk (execMigrateDone w s) := by
  unfold execMigrateDone
  grind [Outcome.memOk, State.memOk, State.leaveIdle_mem, State.sendMsg_mem, State.unpair_memOk]

theorem execRelease_memOk {_w : List (BitVec 32)} {s : State} (hs : s.memOk) : Outcome.memOk (execRelease _w s) := by
  unfold execRelease
  grind [Outcome.memOk, State.memOk, State.leaveIdle_mem, State.unpair_memOk]

theorem execCompanionUnresponsive_memOk {s : State} (hs : s.memOk) : Outcome.memOk (execCompanionUnresponsive s) := by
  unfold execCompanionUnresponsive
  grind [Outcome.memOk, State.memOk, State.endPair_memOk]

theorem execContextCapture_memOk {kind : Nat} {id : Nat} {s : State} (hs : s.memOk) : Outcome.memOk (execContextCapture kind id s) := by
  unfold execContextCapture
  grind [Outcome.memOk, State.memOk, State.askCapture_mem, State.haltNow_memOk, State.makeStep_memOk, State.closeEpochs_memOk, State.undock_memOk,
    State.captureDevice_memOk]

theorem execQueueRoomResume_memOk {id : Nat} {s : State} (hs : s.memOk) : Outcome.memOk (execQueueRoomResume id s) := by
  unfold execQueueRoomResume
  grind [Outcome.memOk, State.memOk, State.writeReturn_memOk, State.failCall_memOk, !State.tryAppend_memOk, State.freeBucket_mem]

theorem execFlumeSieve_memOk {id : Nat} {s : State} (hs : s.memOk) : Outcome.memOk (execFlumeSieve id s) := by
  unfold execFlumeSieve
  grind [Outcome.memOk, State.memOk, State.writeReturn_memOk, !State.sieve_memOk]

theorem execSieveAgeFlush_memOk {bucket : Nat} {s : State} (hs : s.memOk) : Outcome.memOk (execSieveAgeFlush bucket s) := by
  unfold execSieveAgeFlush
  grind [Outcome.memOk, State.memOk, State.flushBucket_memOk]

theorem execTraversalTask_memOk {key : Nat} {s : State} (hs : s.memOk) : Outcome.memOk (execTraversalTask key s) := by
  unfold execTraversalTask
  grind [Outcome.memOk, State.memOk, State.sieveHit_memOk, State.nextRay_memOk]

theorem execMgDbg_memOk {m : Nat} {v : BitVec 64} {s : State} (hs : s.memOk) : Outcome.memOk (execMgDbg m v s) := by
  unfold execMgDbg
  grind [Outcome.memOk, State.memOk, State.leaveIdle_mem, State.i3cSeen_mem, State.writeDbg_mem]

theorem execMgPwrReq_memOk {m : Nat} {v : BitVec 64} {s : State} (hs : s.memOk) : Outcome.memOk (execMgPwrReq m v s) := by
  unfold execMgPwrReq
  grind [Outcome.memOk, State.memOk, State.leaveIdle_mem, State.i3cSeen_mem, State.writePwr_memOk]

theorem execRetentionEntry_memOk {s : State} (hs : s.memOk) : Outcome.memOk (execRetentionEntry s) := by
  unfold execRetentionEntry
  grind [Outcome.memOk, State.memOk, State.setPower_mem]

theorem execIdleEntry_memOk {s : State} (hs : s.memOk) : Outcome.memOk (execIdleEntry s) := by
  unfold execIdleEntry
  grind [Outcome.memOk, State.memOk, State.setPower_mem]

theorem execBlobTransition_memOk {bytes : List (BitVec 8)} {sigOk : Bool} {s : State} (hs : s.memOk) :
    Outcome.memOk (execBlobTransition bytes sigOk s) := by
  unfold execBlobTransition
  grind [Outcome.memOk, State.memOk, State.leaveIdle_mem, State.transition_memOk]

theorem execBlobConfiguration_memOk {bytes : List (BitVec 8)} {sigOk : Bool} {s : State} (hs : s.memOk) :
    Outcome.memOk (execBlobConfiguration bytes sigOk s) := by
  unfold execBlobConfiguration
  grind [Outcome.memOk, State.memOk, State.leaveIdle_mem, State.blobResult_mem]

theorem execBr_memOk {x : Option (BitVec 25)} {o : BitVec 21} {s : State} (hs : s.memOk) : Outcome.memOk (execBr x o s) := by
  refine State.onStrand_memOk fun st => ?_
  grind [State.memOk, State.jump_mem]

theorem execBrp_memOk {x : Option (BitVec 25)} {z : BitVec 1} {p : BitVec 3} {o : BitVec 21} {s : State} (hs : s.memOk) :
    Outcome.memOk (execBrp x z p o s) := by
  refine State.onStrand_memOk fun st => ?_
  grind [State.memOk, State.jump_mem]

theorem execCall_memOk {x : Option (BitVec 25)} {o : BitVec 21} {s : State} (hs : s.memOk) : Outcome.memOk (execCall x o s) := by
  refine State.onStrand_memOk fun st => ?_
  grind [State.memOk, State.jump_mem]

theorem execJr_memOk {a : BitVec 7} {s : State} (hs : s.memOk) : Outcome.memOk (execJr a s) := by
  refine State.onStrand_memOk fun st => ?_
  grind [State.memOk, State.jumpBy_mem]

theorem execJalr_memOk {a : BitVec 7} {s : State} (hs : s.memOk) : Outcome.memOk (execJalr a s) := by
  refine State.onStrand_memOk fun st => ?_
  grind [State.memOk, State.jumpBy_mem]

theorem execRet_memOk {s : State} (hs : s.memOk) : Outcome.memOk (execRet s) := by
  refine State.onStrand_memOk fun st => ?_
  grind [State.memOk, State.jump_mem]

theorem execRetPair_memOk {a : BitVec 7} {s : State} (hs : s.memOk) : Outcome.memOk (execRetPair a s) := by
  refine State.onStrand_memOk fun st => ?_
  grind [State.memOk, State.raise_mem, State.jump_mem]

theorem execRcv_memOk {s : State} (hs : s.memOk) : Outcome.memOk (execRcv s) := by
  refine State.onStrand_memOk fun st => ?_
  grind [State.memOk, State.putStrand_mem]

theorem execExit_memOk {s : State} (hs : s.memOk) : Outcome.memOk (execExit s) := by
  refine State.onStrand_memOk fun st => ?_
  grind [State.memOk, State.endStrand_mem]

theorem execYield_memOk {s : State} (hs : s.memOk) : Outcome.memOk (execYield s) := by
  refine State.onStrand_memOk fun st => ?_
  grind [State.memOk, State.putStrand_mem]

theorem execSleep_memOk {a : BitVec 7} {s : State} (hs : s.memOk) : Outcome.memOk (execSleep a s) := by
  refine State.onStrand_memOk fun st => ?_
  grind [State.memOk, State.putStrand_mem]

/-- Every instruction and every event keeps memory canonical. -/
theorem exec_memOk {i : Instr} {s : State} (hs : s.memOk) : Outcome.memOk (exec i s) :=
  match i with
  | .powerOnReset .. | .powerLoss .. => State.powerOn_memOk hs
  | .warmReset .. | .dramRefresh .. | .agingStep .. | .companionLinkUp .. => hs
  | .powerSample .. => execPowerSample_memOk hs
  | .dhTrain .. => execDhTrain_memOk hs
  | .dhTrainDone .. => execDhTrainDone_memOk hs
  | .dhEnable .. => execDhEnable_memOk hs
  | .dhFrameStart .. => execDhFrameStart_memOk hs
  | .hgHtail .. | .hgPolicy .. | .hgQtcount .. | .hgFkill .. | .hostIrq .. | .mstOwn .. | .azRetrain .. | .azClrpart ..
    => State.portWrite_memOk hs
  | .taskAcceptance .. => execTaskAcceptance_memOk hs
  | .evminReservation .. => execEvminReservation_memOk hs
  | .taskDispatch .. => execTaskDispatch_memOk hs
  | .bundlePlacement .. => execBundlePlacement_memOk hs
  | .fastPathPlacement .. => execFastPathPlacement_memOk hs
  | .stealRequest .. => execStealRequest_memOk hs
  | .bundleEviction .. => execBundleEviction_memOk hs
  | .bundleRestore .. => execBundleRestore_memOk hs
  | .workQueueTailObserve .. => execWorkQueueTailObserve_memOk hs
  | .workQueueLaunch .. => execWorkQueueLaunch_memOk hs
  | .taskCompletion .. => execTaskCompletion_memOk hs
  | .frameToken .. => State.processFrame_memOk hs
  | .traceStart .. => State.processStart_memOk hs
  | .traceStop .. => State.processStop_memOk hs
  | .backwaterFullReport .. => execBackwaterFullReport_memOk hs
  | .registerWrite .. => State.masterWrite_memOk hs
  | .hostMemoryWrite .. => execHostMemoryWrite_memOk hs
  | .hostMemoryRead .. => execHostMemoryRead_memOk hs
  | .hostAtomic .. => execHostAtomic_memOk hs
  | .lineLeaseExpiry .. => execLineLeaseExpiry_memOk hs
  | .crossDieWriteApply .. => execCrossDieWriteApply_memOk hs
  | .writeAcknowledge .. => execWriteAcknowledge_memOk hs
  | .readRequestServe .. => execReadRequestServe_memOk hs
  | .loadDataReturn .. => execLoadDataReturn_memOk hs
  | .walkComplete .. => execWalkComplete_memOk hs
  | .uncorrectableMemoryError .. => execUncorrectableMemoryError_memOk hs
  | .scratchpadSoftError .. => execScratchpadSoftError_memOk hs
  | .ackOverdue .. => execAckOverdue_memOk hs
  | .watchTimeout .. => execWatchTimeout_memOk hs
  | .strandWake .. => execStrandWake_memOk hs
  | .rwrDeposit .. => execRwrDeposit_memOk hs
  | .mailboxAccept .. => execMailboxAccept_memOk hs
  | .mxMma .. => execMxMma_memOk hs
  | .mxMmac .. => execMxMmac_memOk hs
  | .ssbScan .. => State.engineStep_memOk (fun _ _ => State.ssbIter_memOk) hs
  | .ceCopy .. => State.engineStep_memOk (fun _ _ => State.ceIter_memOk) hs
  | .qeQuant .. => State.engineStep_memOk (fun _ _ => State.qeIter_memOk) hs
  | .engineCommandComplete .. => State.completeCommand_memOk hs
  | .engctlResume .. => execEngctlResume_memOk hs
  | .engctlAbandon .. => execEngctlAbandon_memOk hs
  | .mxringTailObserve .. => execMxringTailObserve_memOk hs
  | .weirAdmit .. => execWeirAdmit_memOk hs
  | .flumeRaster .. => State.runCall_memOk (fun _ _ => State.raster_memOk) hs
  | .flumeDepth .. => State.runCall_memOk (fun _ _ => State.depth_memOk) hs
  | .flumeBlend .. => State.runCall_memOk (fun _ _ => State.blend_memOk) hs
  | .flumeTessellator .. => State.runCall_memOk (fun _ _ => State.tessellator_memOk) hs
  | .flumeTextureFilter .. => State.runCall_memOk (fun _ _ => State.texture_memOk) hs
  | .flumeTraversal .. => State.runCall_memOk (fun _ _ => State.traverse_memOk) hs
  | .flumeReprojection .. => State.runCall_memOk (fun _ _ => State.reproject_memOk) hs
  | .flumeSieve .. => execFlumeSieve_memOk hs
  | .sieveAgeFlush .. => execSieveAgeFlush_memOk hs
  | .queueRoomResume .. => execQueueRoomResume_memOk hs
  | .orderDomainAdvance .. => execOrderDomainAdvance_memOk hs
  | .traversalTask .. => execTraversalTask_memOk hs
  | .flDom .. => execFlDom_memOk hs
  | .pair .. => execPair_memOk hs
  | .pairAck .. => execPairAck_memOk hs
  | .migrate .. => execMigrate_memOk hs
  | .migrateDone .. => execMigrateDone_memOk hs
  | .move .. => execMove_memOk hs
  | .moveData .. => execMoveData_memOk hs
  | .stepAck .. => execStepAck_memOk hs
  | .release w => @execRelease_memOk w s hs
  | .cisternStep .. => execCisternStep_memOk hs
  | .companionSurpriseDown .. => State.endPair_memOk hs
  | .companionUnresponsive .. => execCompanionUnresponsive_memOk hs
  | .partClearDone .. => execPartClearDone_memOk hs
  | .hostLinkDown .. => execHostLinkDown_memOk hs
  | .i3cTargetReset .. => execI3cTargetReset_memOk hs
  | .mgDbg .. => execMgDbg_memOk hs
  | .mgPwrReq .. => execMgPwrReq_memOk hs
  | .retentionEntry .. => execRetentionEntry_memOk hs
  | .idleEntry .. => execIdleEntry_memOk hs
  | .mgHalt .. => execMgHalt_memOk hs
  | .mgHaltResume .. => execMgHaltResume_memOk hs
  | .blobTransition .. => execBlobTransition_memOk hs
  | .blobConfiguration .. => execBlobConfiguration_memOk hs
  | .contextCapture .. => execContextCapture_memOk hs
  | .taskEnd .. => execTaskEnd_memOk hs
  | .dumpWrite .. => execDumpWrite_memOk hs
  | .saluAdd .. | .saluSub .. | .saluMul .. | .saluMulhs .. | .saluMulhu .. | .saluAnd .. | .saluOr .. | .saluXor .. | .saluShl .. | .saluShr ..
  | .saluSar .. | .saluMin .. | .saluMax .. | .saluMinu .. | .saluMaxu .. | .saluSlt .. | .saluiAdd .. | .saluiSub .. | .saluiMul .. | .saluiMulhs ..
  | .saluiMulhu .. | .saluiAnd .. | .saluiOr .. | .saluiXor .. | .saluiShl .. | .saluiShr .. | .saluiSar .. | .saluiMin .. | .saluiMax ..
  | .saluiMinu .. | .saluiMaxu .. | .saluiSlt .. | .li .. | .lih .. | .sbitPopc .. | .sbitClz .. | .sbitCtz .. | .sbitBrev .. | .bfx .. | .bfi ..
  | .sextb .. | .sexth .. | .zextb .. | .zexth .. | .scmpEq .. | .scmpNe .. | .scmpLt .. | .scmpLe .. | .scmpGt .. | .scmpGe .. | .scmpLtu ..
  | .scmpLeu .. | .scmpGtu .. | .scmpGeu .. | .scmpiEq .. | .scmpiNe .. | .scmpiLt .. | .scmpiLe .. | .scmpiGt .. | .scmpiGe .. | .scmpiLtu ..
  | .scmpiLeu .. | .scmpiGtu .. | .scmpiGeu .. | .pand .. | .por .. | .pxor .. | .pandn .. | .porn .. | .pnot .. | .pmov .. | .pclr .. | .pset ..
  | .sel .. | .bcasts .. | .extr .. | .insr .. | .crd .. | .srd .. | .movs .. | .movv .. | .prd .. | .pwr .. | .valuAdd .. | .valuSub ..
  | .valuMul .. | .valuMulhs .. | .valuMulhu .. | .valuAdds .. | .valuSubs .. | .valuAddus .. | .valuSubus .. | .valuMin .. | .valuMax ..
  | .valuMinu .. | .valuMaxu .. | .valuAbs .. | .valuNeg .. | .valuAbsd .. | .valuiAdd .. | .valuiSub .. | .valuiMul .. | .valuiMulhs ..
  | .valuiMulhu .. | .valuiAdds .. | .valuiSubs .. | .valuiAddus .. | .valuiSubus .. | .valuiMin .. | .valuiMax .. | .valuiMinu .. | .valuiMaxu ..
  | .valuiAbsd .. | .vmadMad .. | .vmadMsb .. | .vmadMads .. | .vmadMadI16 .. | .vmadMadI8 .. | .vdot2 .. | .vdot4 .. | .vdot4u .. | .vcmpEq ..
  | .vcmpNe .. | .vcmpLt .. | .vcmpLe .. | .vcmpGt .. | .vcmpGe .. | .vcmpLtu .. | .vcmpLeu .. | .vcmpGtu .. | .vcmpGeu .. | .vcmpEqI16 ..
  | .vcmpLtI16 .. | .vcmpLtuI16 .. | .vcmpEqI8 .. | .vcmpLtI8 .. | .vcmpLtuI8 .. | .perm .. | .shuf .. | .rot .. | .ext .. | .ins .. | .zip ..
  | .unzip .. | .vpackAdd .. | .vpackSub .. | .vpackAdds .. | .vpackSubs .. | .vpackAddus .. | .vpackSubus .. | .vpackMin .. | .vpackMax ..
  | .redadd .. | .redmin .. | .redmax .. | .redminu .. | .redmaxu .. | .redand .. | .redor .. | .redxor .. | .redaddF32 .. | .redminF32 ..
  | .redmaxF32 .. | .vbitAnd .. | .vbitOr .. | .vbitXor .. | .vbitAndn .. | .vbitNot .. | .vbitShl .. | .vbitShr .. | .vbitSar .. | .vbitShlI16 ..
  | .vbitShrI16 .. | .vbitSarI16 .. | .vbitPopc .. | .vbitClz .. | .vbitBrev .. | .vsel .. | .fadd .. | .fsub .. | .fmul .. | .fmin .. | .fmax ..
  | .fabs .. | .fneg .. | .fsgn .. | .fma .. | .fms .. | .fnma .. | .fnms .. | .fcmpF32Eq .. | .fcmpF32Ne .. | .fcmpF32Lt .. | .fcmpF32Le ..
  | .fcmpF32Gt .. | .fcmpF32Ge .. | .fcmpF32Unord .. | .fcmpF32Ord .. | .fcmpF16Eq .. | .fcmpF16Lt .. | .fcmpF16Le .. | .fcmpF16Unord ..
  | .fcmpBf16Eq .. | .fcmpBf16Lt .. | .fcmpBf16Le .. | .fcmpBf16Unord .. | .frnd .. | .fclass .. | .dot2F16 .. | .dot2Bf16 .. | .dot4E5m2 ..
  | .dot4E4m3 .. | .dot4I8 .. | .dot8I4 .. | .falu16Fadd .. | .falu16Fsub .. | .falu16Fmul .. | .falu16Fmin .. | .falu16Fmax .. | .falu16Fma ..
  | .falu16Fabs .. | .falu16Fneg .. | .flagTest .. | .wbases .. | .wbasev .. | .tqrd .. => State.simple_memOk hs
  | .div .. | .divu .. | .rem .. | .remu .. | .rcp .. | .rsq .. | .sqrt .. | .exp2 .. | .log2 .. | .sinpi .. | .cospi .. | .tanh .. | .fdiv ..
    => State.simpleLong_memOk hs
  | .cwr .. => execCwr_memOk hs
  | .fcvt .. => execFcvt_memOk hs
  | .br .. => execBr_memOk hs
  | .brp .. => execBrp_memOk hs
  | .call .. => execCall_memOk hs
  | .jr .. => execJr_memOk hs
  | .jalr .. => execJalr_memOk hs
  | .ret .. => execRet_memOk hs
  | .retPair .. => execRetPair_memOk hs
  | .rcv .. => execRcv_memOk hs
  | .exit .. => execExit_memOk hs
  | .yield .. => execYield_memOk hs
  | .sleep .. => execSleep_memOk hs
  | .lds .. | .ldg .. | .sts .. | .stv .. | .stg .. | .atomAdd .. | .atomMin .. | .atomMax .. | .atomMinu .. | .atomMaxu .. | .atomAnd ..
  | .atomOr .. | .atomXor .. | .atomXchg .. | .atomCas .. | .atomvAdd .. | .atomvMin .. | .atomvMax .. | .atomvMinu .. | .atomvMaxu .. | .atomvAnd ..
  | .atomvOr .. | .atomvXor .. | .atomvXchg .. | .atomvCas .. | .atomvXchgW128 .. | .atomvCasW128 .. => State.issueMem_memOk hs
  | .ldv .. => execLdv_memOk hs
  | .pref .. => execPref_memOk hs
  | .mwatch .. => execMwatch_memOk hs
  | .fenceAcq .. | .fenceRel .. | .fenceFull .. => fence_memOk hs
  | .mwait .. => execMwait_memOk hs
  | .bnew .. => execBnew_memOk hs
  | .bjoin .. => execBjoin_memOk hs
  | .bleave .. => execBleave_memOk hs
  | .binfo .. => execBinfo_memOk hs
  | .barInit .. => execBarInit_memOk hs
  | .barSync .. => execBarSync_memOk hs
  | .barArrive .. => execBarArrive_memOk hs
  | .barExpect .. => execBarExpect_memOk hs
  | .barQuery .. => execBarQuery_memOk hs
  | .ballot .. | .any .. | .all .. | .bcast .. | .radd .. | .rmin .. | .rmax .. | .scanadd .. => State.collect_memOk hs
  | .rwrScalar .. | .rwrVector .. => rwr_memOk hs
  | .rwait .. => execRwait_memOk hs
  | .qsend .. => execQsend_memOk hs
  | .qrecv .. => execQrecv_memOk hs
  | .flagSet .. => execFlagSet_memOk hs
  | .flagClr .. => execFlagClr_memOk hs
  | .flagWait .. => execFlagWait_memOk hs
  | .xacqs .. | .xacqv .. => xacq_memOk hs
  | .xrels .. | .xrelv .. => xrel_memOk hs
  | .tresv .. => execTresv_memOk hs
  | .trel .. => execTrel_memOk hs
  | .tstat .. => execTstat_memOk hs
  | .twait .. => execTwait_memOk hs
  | .engqMx .. | .engqCe .. | .engqSsb .. | .engqQe .. => engq_memOk hs
  | .fork .. => execFork_memOk hs
  | .rdv .. => execRdv_memOk hs
  | .specEpoch .. => execSpecEpoch_memOk hs
  | .specCommit .. => execSpecCommit_memOk hs
  | .specCancel .. => execSpecCancel_memOk hs
  | .flcall .. => execFlcall_memOk hs
  | .flwait .. => execFlwait_memOk hs
  | .take .. => execTake_memOk hs
  | .skip .. => execSkip_memOk hs
  | .tspawn .. => execTspawn_memOk hs
  | .tsignal .. => execTsignal_memOk hs
  | .csrr .. => execCsrr_memOk hs
  | .csrw .. => execCsrw_memOk hs
  | .trap .. => execTrap_memOk hs
  | .eret .. => execEret_memOk hs
  | .cclr .. => execCclr_memOk hs
  | .bkpt .. => execBkpt_memOk hs
  | .tmark .. => execTmark_memOk hs
  | .isync .. => execIsync_memOk hs
  | .l1inv .. => execL1inv_memOk hs
  | .tlbinv .. => execTlbinv_memOk hs
  | .shoot .. => execShoot_memOk hs
  | .rdcinv .. => execRdcinv_memOk hs
  | .companionAtomicop .. => execCompanionAtomicop_memOk hs

/-! ### The step -/

theorem after_memOk {f : State → State} {o : Host.Outcome State Fault Refusal} (hf : ∀ t, t.memOk → (f t).memOk) (ho : Outcome.memOk o) :
    Outcome.memOk (after f o) := by
  cases o with
  | next t => exact hf t ho
  | fault | refused => trivial

theorem eventStep_memOk {i : Instr} {s : State} (hs : s.memOk) : Outcome.memOk (eventStep i s) :=
  after_memOk (fun _ ht => State.endCycle_memOk ht) (exec_memOk hs)

theorem issueStep_memOk {s : State} {r : SRef} {rest : List SRef} (hs : s.memOk) : Outcome.memOk (issueStep s r rest) := by
  unfold issueStep
  have hr : (({ s with weave := rest } : State).turn r).state.memOk := State.memOk_of_mem_eq (State.turn_mem ..) hs
  split
  · next e => rw [e] at hr; exact State.afterIssue_memOk hr
  · next t i e =>
    rw [e] at hr
    refine after_memOk (fun u hu => State.afterIssue_memOk ?_) (exec_memOk hr)
    exact State.memOk_of_mem_eq ((State.hasIssued_mem ..).trans (State.noteResults_mem ..)) hu

theorem step_memOk {s : State} (hs : s.memOk) : Outcome.memOk (step s) := by
  unfold step
  split
  · split
    · exact eventStep_memOk hs
    · exact hs
    · exact hs
  · split
    · exact issueStep_memOk hs
    · have hn := State.next_memOk hs
      split
      · next e => rw [e] at hn; exact eventStep_memOk hn
      · next e => rw [e] at hn; exact State.endCycle_memOk hn
      · next e =>
        rw [e] at hn
        split
        · exact issueStep_memOk hn
        · exact State.endCycle_memOk hn
      · exact State.endCycle_memOk hs

/-- Settles O60: every instruction and event keeps memory canonical (`exec_memOk`), and so do the turn of a strand, the choice of what is
next and the end of a cycle, which are all that `step` composes. -/
theorem everyStepKeepsMemoryCanonical : Obligations.EveryStepKeepsMemoryCanonical := by
  intro s t hs e
  have h := step_memOk hs
  rwa [e] at h

end Sys2Proof.Machine
end

section
namespace Sys2Proof.Machine

/-! ### The clock, the display heads and the management file (R20 to R23, R315, R319, R326, R375, R386, R392) -/

/-- R20: which way the clock moves, by the sum of the samples that the mean is taken over. -/
theorem Mgmt.clockAfter_of_sum (m : Mgmt) {l : List (Nat × Nat)} {sum : Nat} (h : sum = (l.map Prod.snd).sum) :
    (650000 * l.length < sum → m.clockAfter l = max 1200 (m.clock - 25)) ∧
    (sum < 620000 * l.length → m.clockAfter l = max 1200 (min m.cfgClock (m.clock + 25))) ∧
    (620000 * l.length ≤ sum → sum ≤ 650000 * l.length → m.clockAfter l = m.clock) := by
  have total : l.foldl (fun a x => a + x.2) 0 = sum := by rw [h, List.sum_eq_foldl, List.foldl_map]
  unfold Mgmt.clockAfter
  rw [total]
  refine ⟨fun hot => if_pos hot, fun cool => ?_, fun lo hi => ?_⟩
  · rw [if_neg (by omega), if_pos cool]
  · rw [if_neg (by omega), if_neg (by omega)]

/-- A list read with a default after the value at one of its places is replaced, as a head's registers are. -/
theorem getD_set {α : Type} {l : List α} {i : Nat} (h : i < l.length) (x d : α) (k : Nat) : (l.set i x).getD k d = if k = i then x else l.getD k d := by
  simp only [List.getD_eq_getElem?_getD, List.getElem?_set, h]
  grind

section Heads
variable {h : Head}

theorem Head.trained_regs (ok : Bool) (ht : h.training = true) (hl : h.regs.length = 7) (k : Nat) :
    (h.trained ok).regs.getD k 0 = if k = 6 then (h.regs.getD 6 0 &&& ~~~1) ||| (if ok = true ∧ h.want ≠ 7 then 1 else 0) else h.regs.getD k 0 := by
  unfold Head.trained
  rw [if_pos ht, getD_set (by omega)]
  simp

theorem Head.trained_only (ok : Bool) (ht : h.training = true) : h.trained ok = { h with training := false, rate := h.want, regs := (h.trained ok).regs } := by
  unfold Head.trained
  rw [if_pos ht]

/-- A head that is not enabled or has no link, and every head while a companion is paired, shows no frame (R22, R23). -/
theorem Head.frame_blank {paired : Bool} (hb : (h.regs.getD 0 0).getLsbD 0 = false ∨ (h.regs.getD 6 0).getLsbD 0 = false ∨ paired = true) :
    h.frame paired = { h with scanning := false } := by
  unfold Head.frame
  refine if_pos ?_
  simp only [bitNat_toNat]
  rcases hb with hb | hb | hb <;> simp only [hb, Bool.not_false, Bool.true_or, Bool.or_true]

/-- An enabled head whose link carries its mode scans: it latches DH_SURF and DH_FMT and counts the frame (R23). -/
theorem Head.frame_scan (he : (h.regs.getD 0 0).getLsbD 0 = true) (hk : (h.regs.getD 6 0).getLsbD 0 = true)
    (hc : Config.linkCarries h.rate (h.latched.getD 3 0).toNat (h.latched.getD 4 0).toNat (h.latched.getD 5 0).toNat (h.regs.getD 2 0).toNat = true) :
    h.frame false = { h with scanning := true, row := 0, latched := (h.latched.set 1 (h.regs.getD 1 0)).set 2 (h.regs.getD 2 0),
                             regs := h.regs.set 6 (h.regs.getD 6 0 + 0x100000000) } := by
  unfold Head.frame
  refine if_neg ?_
  simp only [bitNat_toNat, he, hk, hc]
  decide

end Heads

/-- A release of the GX die with no write of its own on the way has nothing to wait for (R153). -/
theorem State.gxRelease_eq_self {s : State} (h : ∀ w ∈ s.xwrites, w.src ≠ 0) : s.gxRelease = s := by
  have none : s.xwrites.find? (fun w => decide (w.src = 0)) = none := List.find?_eq_none.2 fun w hw => by simp [h w hw]
  unfold State.gxRelease
  cases 2 * s.xwrites.length with
  | zero => rfl
  | succ n => rw [State.drainGx, none]

/-- What a cleared range leaves in memory and of its marks; the copies and watches that go with it stand in other fields. -/
theorem State.clearRange_only (s : State) (lo hi : Nat) : ∃ cs ds rs e ss bs, s.clearRange lo hi =
    { s with cores := cs, dies := ds, xreads := rs, evBuf := e, strands := ss, bundles := bs, mem := s.mem.filter fun c => c.1 < lo || hi ≤ c.1,
             poison := dropRange (lo / 32) (hi / 32) s.poison, lost := dropRange (lo / 32) (hi / 32) s.lost } := by
  obtain ⟨cs, ds, rs, e, h⟩ := s.dropCopies_only lo hi
  unfold State.clearRange
  rw [h]
  exact ⟨cs, ds, rs, e, _, _, rfl⟩

theorem mem_dropRange {lo hi p : Nat} {l : List Nat} : p ∈ dropRange lo hi l ↔ p ∈ l ∧ (p < lo ∨ hi ≤ p) := by
  simp [dropRange]

/-- Memory reads 0 in a range taken out of it. -/
theorem readByte_cut {m : List Host.Cell} (hw : Memory.wf m = true) (lo hi a : Nat) :
    readByte (m.filter fun c => c.1 < lo || hi ≤ c.1) a = if lo ≤ a ∧ a < hi then 0 else readByte m a := by
  rw [readByte_drop (fun x => x < lo || hi ≤ x) m hw a]
  grind

section Management
variable {s : State}

theorem State.mgMay_owner (hb : s.booted = true) (ho : s.port.own = 3) : s.mgMay 3 = true := by simp [State.mgMay, hb, ho]

theorem State.leaveIdle_awake (h : s.mg.pwrCur ≠ 1) : s.leaveIdle = s := if_neg h

theorem State.setPower_mg (p : BitVec 2) : (s.setPower p).mg = { s.mg with pwrCur := p } := by
  unfold State.setPower
  split
  · next h => rw [← h]
  · obtain ⟨m, e⟩ := State.raiseSecurity_only { s with mg := { s.mg with pwrCur := p } }
    rw [e]

theorem State.heldResumes_eq_self (h : s.mg.resumes = []) : s.heldResumes = s := by
  have same : ({ s with mg := { s.mg with resumes := [] } } : State) = s := by rw [← h]
  unfold State.heldResumes
  split
  · rfl
  · simp only [h, List.foldl_nil, same]

/-- R319: MG_DBG keeps its value where the state asked for is reserved, or barred by the production lock. -/
theorem State.writeDbg_eq (v : BitVec 64) : s.writeDbg v = if v.toNat % 4 = 3 ∨ (v.toNat % 4 = 2 ∧ s.mg.sec = 0) then s
    else { s with mg := { s.mg with dbg := v.extractLsb' 0 2, arm := v.getLsbD 2 } } := by
  have low : BitVec.ofNat 2 (v.toNat % 4) = v.extractLsb' 0 2 := BitVec.eq_of_toNat_eq (by simp)
  unfold State.writeDbg
  simp only [low, Bool.or_eq_true, Bool.and_eq_true, decide_eq_true_eq]

theorem State.writePwr_stays {v : BitVec 64} (h : s.mg.pwrCur ≠ 2 ∨ v.extractLsb' 4 2 = 2) :
    s.writePwr v = { s with mg := { s.mg with pwrReq := v.extractLsb' 4 2 } } := by
  unfold State.writePwr
  refine if_neg ?_
  rw [Bool.and_eq_true, decide_eq_true_eq, decide_eq_true_eq]
  exact fun ⟨hc, hv⟩ => h.elim (· hc) hv

/-- R326: the device leaves retention for active when MG_PWR no longer asks for it; with no resume held, nothing else is done. -/
theorem State.writePwr_leaves_retention {v : BitVec 64} (hc : s.mg.pwrCur = 2) (hv : v.extractLsb' 4 2 ≠ 2) (hr : s.mg.resumes = []) :
    s.writePwr v = ({ s with mg := { s.mg with pwrReq := v.extractLsb' 4 2 } } : State).setPower 0 := by
  unfold State.writePwr
  refine (if_pos ?_).trans (State.heldResumes_eq_self ?_)
  · simpa [hc] using hv
  · rw [State.setPower_mg]; exact hr

theorem State.mgWrite_bp {n : Nat} (hn : n < 4) (v : BitVec 64) :
    s.mgWrite (0x40 + 8 * n) v = { s with mg := { s.mg with bps := s.mg.bps.set n (v &&& 0x81FFFFFFFFFFFFFC) } } := by
  have place : (0x40 + 8 * n - 0x40) / 8 = n := by omega
  unfold State.mgWrite
  rw [if_neg (by omega), if_pos ?_, place]
  simp only [Bool.or_eq_true, decide_eq_true_eq]
  omega

theorem State.mgWrite_pwrCur (n : Nat) (v : BitVec 64) : (s.mgWrite n v).mg.pwrCur = s.mg.pwrCur := by
  unfold State.mgWrite
  split
  · rfl
  · split <;> rfl

end Management

/-! ### The events -/

section Events
variable {s : State}

theorem exec_powerSample_early {mw : Nat} (h : ∃ x ∈ s.mg.samples, s.timePs < x.1 + 10 ^ 9) : exec (.powerSample mw) s = .next s := by
  refine congrArg _ (if_neg fun all => ?_)
  obtain ⟨x, hx, near⟩ := h
  exact absurd near (Nat.not_lt.2 (of_decide_eq_true (List.all_eq_true.1 all x hx)))

theorem exec_powerSample_due {mw : Nat} (h : ∀ x ∈ s.mg.samples, x.1 + 10 ^ 9 ≤ s.timePs) {l : List (Nat × Nat)}
    (hl : l = (s.timePs, mw) :: s.mg.samples.filter (fun x => s.timePs < x.1 + 10 ^ 10)) :
    exec (.powerSample mw) s = .next { s with mg := { s.mg with samples := l, clock := s.mg.clockAfter l } } := by
  subst hl
  exact congrArg _ (if_pos (List.all_eq_true.2 fun x hx => decide_eq_true (h x hx)))

theorem exec_dhTrainDone {n : Nat} {h : Head} (hh : s.gx.heads[n]? = some h) (ok : Bool) :
    exec (.dhTrainDone n ok) s = .next { s with gx := { s.gx with heads := s.gx.heads.set n (h.trained ok) } } :=
  congrArg _ (State.mapHead_set hh _)

theorem exec_dhFrameStart {n : Nat} {h : Head} (hh : s.gx.heads[n]? = some h) :
    exec (.dhFrameStart n) s = .next { s with gx := { s.gx with heads := s.gx.heads.set n (h.frame s.link.paired) } } :=
  congrArg _ (State.mapHead_set hh _)

/-- R375: the part is cleared, and with nothing of the GX die on its way the clear ends at once. -/
theorem exec_partClearDone (h63 : s.link.clrpart.getLsbD 63 = true) (hx : ∀ w ∈ s.xwrites, w.src ≠ 0) {lo : Nat}
    (hlo : lo = bitsNat s.link.clrpart.toNat 47 21 * 2 ^ 21 + bitsNat s.link.clrpart.toNat 20 16 * 2 ^ 16) :
    ∃ cs ds rs e ss bs, exec .partClearDone s = .next
      { s with cores := cs, dies := ds, xreads := rs, evBuf := e, strands := ss, bundles := bs,
               mem := s.mem.filter fun c => c.1 < lo || lo + 2 ^ 16 ≤ c.1, poison := dropRange (lo / 32) ((lo + 2 ^ 16) / 32) s.poison,
               lost := dropRange (lo / 32) ((lo + 2 ^ 16) / 32) s.lost, link := { s.link with clrpart := s.link.clrpart &&& 0x7FFFFFFFFFFFFFFF } } := by
  subst hlo
  obtain ⟨cs, ds, rs, e, ss, bs, cleared⟩ := s.clearRange_only _ _
  have released := (congrArg State.gxRelease cleared).trans (State.gxRelease_eq_self hx)
  refine ⟨cs, ds, rs, e, ss, bs, congrArg _ ((if_neg ?_).trans ?_)⟩
  · rw [bitNat_toNat, h63]; decide
  · dsimp only
    rw [released]

/-- R315: a register of the management file is written by the I3C master as the owner of a device that is not idle. -/
theorem exec_registerWrite_mg {a : BitVec 48} {n : Nat} (ha : a.toNat = n) (hn : n < 256) (hb : s.booted = true) (ho : s.port.own = 3)
    (hp : s.mg.pwrCur ≠ 1) (v : BitVec 64) : exec (.registerWrite 3 a v) s = .next (s.mgWrite n v) := by
  subst ha
  have awake : (s.mgWrite a.toNat v).leaveIdle = s.mgWrite a.toNat v := State.leaveIdle_awake (by rwa [State.mgWrite_pwrCur])
  exact congrArg _ ((if_pos hn).trans ((if_pos (State.mgMay_owner hb ho)).trans awake))

end Events

/-- Settles O45: the clock by the sum of its samples, a head by whether it trains or can show a frame, a cleared part by its range, a lost
master by the port alone, and the management file by the ownership of the I3C master. -/
theorem powerHeadsAndManagement : Obligations.PowerHeadsAndManagement := by
  intro s
  refine ⟨?_, fun _ _ => rfl, ?_, ?_, ?_, ?_, ?_⟩
  · intro mw l hl sum hsum
    exact ⟨exec_powerSample_early, fun due => ⟨_, exec_powerSample_due due hl, rfl, s.mg.clockAfter_of_sum hsum⟩⟩
  · rintro n h hh g rfl
    refine ⟨fun ok ht hr => ⟨_, exec_dhTrainDone hh ok, Head.trained_only ok ht, Head.trained_regs ok ht hr⟩, fun he hk hp hr hl hc => ?_, fun blank => ?_⟩
    · have scan := exec_dhFrameStart hh
      rw [hp, Head.frame_scan he hk hc] at scan
      refine ⟨_, scan, rfl, fun k => ?_, fun k => ?_⟩
      · dsimp only
        rw [getD_set (by simp [hl]), getD_set (by omega)]
        grind
      · exact getD_set (by omega) ..
    · have dark := exec_dhFrameStart hh
      rwa [Head.frame_blank blank] at dark
  · intro hw h63 hx lo hlo
    obtain ⟨cs, ds, rs, e, ss, bs, cleared⟩ := exec_partClearDone h63 hx hlo
    exact ⟨_, cleared, readByte_cut hw lo _, fun _ => mem_dropRange, fun _ => mem_dropRange, rfl, rfl⟩
  · obtain ⟨t, ht, facts⟩ := ({ s with port := { s.port with hostDown := true } } : State).loseMaster_facts 1
    exact ⟨t, congrArg _ ht, facts⟩
  · obtain ⟨t, ht, facts⟩ := s.loseMaster_facts 3
    exact ⟨t, congrArg _ ht, facts⟩
  · intro v hb ho hp
    have may := State.mgMay_owner hb ho
    have awake := State.leaveIdle_awake hp
    have dbg : exec (.mgDbg 3 v) s = .next (s.writeDbg v) := congrArg _ ((if_pos may).trans (by rw [awake]))
    have pwr : exec (.mgPwrReq 3 v) s = .next (s.writePwr v) := congrArg _ ((if_pos may).trans (by rw [awake]))
    refine ⟨?_, fun h => ?_, fun hc hv hr => ?_, ?_, fun n hn => ?_⟩
    · rw [dbg, State.writeDbg_eq]
    · rw [pwr, State.writePwr_stays h]
    · obtain ⟨cur, ibi, msix, -⟩ := ({ s with mg := { s.mg with pwrReq := v.extractLsb' 4 2 } } : State).setPower_facts 0 (by rw [hc]; decide)
      rw [State.writePwr_leaves_retention hc hv hr] at pwr
      exact ⟨_, pwr, by rw [State.setPower_mg], cur, msix hb, ibi⟩
    · exact exec_registerWrite_mg rfl (by decide) hb ho hp v
    · have number : (BitVec.ofNat 48 (0x40 + 8 * n)).toNat = 0x40 + 8 * n := Nat.mod_eq_of_lt (by omega)
      rw [exec_registerWrite_mg number (by omega) hb ho hp, State.mgWrite_bp hn]

end Sys2Proof.Machine
end

section
namespace Sys2Proof.Machine

/-! ### Waits and the end of a strand (R36, R37, R42, R64, R77, R196, R197) -/

/-- Settles O22: RCV of a strand without a bundle retires it with its windows closed, and every other wait blocks it at its instruction. -/
theorem waitsCloseTheWindows : Obligations.WaitsCloseTheWindows := by
  intro a
  refine ⟨?_, ?_, ?_, ?_, ?_⟩
  · refine effectWhen_of (f := fun s st => st.closeWindows.retire s.cycle 1) (fun s st cur alone => ?_) fun s st _ => st.closed_retire s.cycle 1
    exact (State.onStrand_some cur _).trans (by rw [alone])
  · refine effectWhen_of (f := fun s st => st.standsAt s.cycle 1 .rcv) (fun s st cur member => ?_) fun _ _ _ => rfl
    obtain ⟨b, hb⟩ := Option.ne_none_iff_exists'.1 member
    refine (State.onStrand_some cur _).trans ?_
    rw [hb]
    rfl
  · exact fun s st cur => ⟨_, State.onStrand_some cur _, rfl⟩
  · refine effectWhen_of (f := fun s st => st.standsAt s.cycle 1 (.sleep true (s.cycle + 16))) (fun s st cur zero => ?_) fun _ _ _ => rfl
    refine (State.onStrand_some cur _).trans ?_
    rw [zero]
    rfl
  · refine effectWhen_of (f := fun s st => st.standsAt s.cycle 1 (.sleep false (s.cycle + (st.closeWindows.s a).toNat))) (fun s st cur some => ?_)
      fun _ _ _ => rfl
    have count : (st.closeWindows.s a).toNat ≠ 0 := fun h => some (BitVec.eq_of_toNat_eq h)
    refine (State.onStrand_some cur _).trans ?_
    simp only [count, if_false, decide_false, Strand.standsAt_block]

/-! The end of a bundle's last member (R37) discards the remote writes on their way to the bundle (R77), which the statement leaves as they were. -/

theorem State.returnCounts_deposits (d c : Nat) (l : List Nat) (s : State) : (l.foldl (fun s n => s.returnCount d c n) s).deposits = s.deposits := by
  rw [foldl_cores _ (fun s n => s.returnCount_rest d c n) l s]

/-- Of the remote writes on their way, those to a bundle that dissolves are discarded (R77). -/
theorem State.dissolve_deposits (s : State) (b : Bundle) : (s.dissolve b).deposits = s.deposits.filter fun x => x.bundle != b.handle := by
  unfold State.dissolve State.fire
  dsimp only
  rw [State.returnCounts_deposits]
  rfl

theorem State.dissolveIfDone_done {s : State} {h : Nat} {b : Bundle} (hb : s.bundle? h = some b) (empty : s.memberList h = [])
    (unnamed : s.bundleNamed h = false) : s.dissolveIfDone h = s.dissolve b := by
  unfold State.dissolveIfDone
  rw [hb]
  dsimp only
  rw [if_pos (by simp [empty, unnamed])]

/-- The bundle 1 of a core, with nothing in it. -/
def lastBundle : Bundle :=
  { handle := 1, die := 1, core := 0, pdom := 0, task := 0, grant := 0, scratch := [], poison := [], bars := List.replicate 16 (Bar.fresh 1)
    commons := List.replicate 32 0, arrive := 0, evicted := false, evicting := false, saved := [], bw := (0, 0) }

/-- Its only member, which is issuing. -/
def lastMember : Strand := { firstStrand State.reset with bundle := some (1, 0) }

/-- The last member of a bundle is issuing, and a remote write is on its way to the bundle. -/
def lastMemberIssues : State :=
  { State.reset with
    strands := [lastMember], bundles := [lastBundle], cur := some firstSlot
    deposits := [{ id := 0, bundle := 1, mid := 0, vec := false, name := 0, sval := 0, vval := 0, src := (0, 0) }] }

theorem exec_exit {s : State} {st : Strand} (cur : s.curStrand = some st) : exec .exit s = .next (s.endStrand st) := State.onStrand_some cur _

/-- The remote write is gone with the bundle. -/
theorem endStrand_lastMember : (lastMemberIssues.endStrand lastMember).deposits = [] := by
  show (State.dissolveIfDone _ 1).deposits = []
  rw [State.dissolveIfDone_done (b := lastBundle) (by decide) (by decide) (by decide), State.dissolve_deposits]
  decide

/-- Refutes O23: EXIT of the last member of a bundle dissolves the bundle, and a remote write on its way to it is discarded (R37, R77), where
the statement lets only strands, tasks, cores and bundles change. -/
theorem not_exitFreesTheSlot : ¬ Obligations.ExitFreesTheSlot := by
  intro h
  have cur : lastMemberIssues.curStrand = some lastMember := by decide
  obtain ⟨t, ran, frame, -⟩ := h lastMemberIssues lastMember cur
  obtain rfl : lastMemberIssues.endStrand lastMember = t := by simpa using (exec_exit cur).symm.trans ran
  have kept : lastMemberIssues.deposits = [] := (congrArg State.deposits frame).symm.trans endStrand_lastMember
  exact absurd kept (by decide)

end Sys2Proof.Machine
end

section
namespace Sys2Proof.Machine

/-! ### Membership of bundles (R31, R32, R37, R224) -/

/-- What every step of a fold keeps, the fold keeps. -/
theorem foldl_keeps {α β γ : Type} (g : α → γ) {f : α → β → α} (hf : ∀ s x, g (f s x) = g s) (l : List β) (s : α) : g (l.foldl f s) = g s := by
  induction l generalizing s with
  | nil => rfl
  | cons x l ih => rw [List.foldl_cons, ih, hf]

/-- A core changed outside its mailboxes. -/
theorem State.setCore_mboxes {s : State} {d c : Nat} {k : Core} (h : k.mboxes = (s.core d c).mboxes) (e f : Nat) :
    ((s.setCore d c k).core e f).mboxes = (s.core e f).mboxes := by
  by_cases same : (e, f) = (d, c)
  · cases same
    rw [State.core_setCore, h]
  · rw [State.core_setCore_other _ _ same]

theorem State.returnCount_mboxes (s : State) (d c n e f : Nat) : ((s.returnCount d c n).core e f).mboxes = (s.core e f).mboxes := by
  unfold State.returnCount
  refine foldl_keeps (fun s => (s.core e f).mboxes) (fun s o => ?_) _ s
  dsimp only
  exact State.setCore_mboxes (by rfl) e f

/-- The counts that mailboxes return change no mailbox (R118). -/
theorem State.returnCounts_mboxes (l : List Nat) (s : State) (d c e f : Nat) :
    ((l.foldl (fun s n => s.returnCount d c n) s).core e f).mboxes = (s.core e f).mboxes :=
  foldl_keeps (fun s => (s.core e f).mboxes) (fun s n => s.returnCount_mboxes d c n e f) l s

theorem State.fire_handles (s : State) (hit : Strand → WatchRegion → Bool) : (s.fire hit).bundles.map Bundle.handle = s.bundles.map Bundle.handle := by
  show (s.bundles.map _).map _ = _
  rw [List.map_map]
  refine List.map_congr_left fun b _ => ?_
  dsimp only [Function.comp]
  split <;> rfl

/-- A bundle that dissolves is gone (R37). -/
theorem State.dissolve_handles (s : State) (b : Bundle) : (s.dissolve b).bundles.map Bundle.handle = (s.bundles.map Bundle.handle).filter (· ≠ b.handle) := by
  unfold State.dissolve
  dsimp only
  rw [State.fire_handles]
  dsimp only
  rw [foldl_cores _ (fun s n => s.returnCount_rest _ _ n), List.filter_map]
  refine congrArg _ (List.filter_congr fun x _ => ?_)
  by_cases h : x.handle = b.handle <;> simp [h]

/-- The mailboxes that a dissolved bundle had claimed are empty (R37, R117). -/
theorem State.dissolve_mboxes (s : State) (b : Bundle) : ((s.dissolve b).core b.die b.core).mboxes =
    (s.core b.die b.core).mboxes.map fun m => if m.claim = b.handle then Mailbox.reset else m := by
  show ((List.foldl _ _ _ : State).core b.die b.core).mboxes = _
  rw [State.returnCounts_mboxes, State.core_setCore]

theorem State.bundle?_handle {s : State} {h : Nat} {b : Bundle} (hb : s.bundle? h = some b) : b.handle = h := by
  simpa using List.find?_some hb

theorem State.usedKiB_eq (s : State) (d c : Nat) : s.usedKiB d c = ((s.resident d c).map Bundle.grant).sum := by
  rw [State.usedKiB, foldl_add_sum, Nat.zero_add]

/-- What a new bundle changes: bundles, the number of the next handle, the units left on its core, and the counter of free choices (R31, R74). -/
theorem State.newBundle_facts (s : State) (d c : Nat) (pdom : BitVec 8) (task grant exp : Nat) : ∃ (t : State) (b : Bundle),
    s.newBundle d c pdom task grant exp = (b.handle, t) ∧
      t = { s with bundles := s.bundles ++ [b], hg := { s.hg with nextHandle := t.hg.nextHandle }, cores := t.cores, free := t.free } ∧
      (∀ e f, t.core e f = { s.core e f with leftScr := (t.core e f).leftScr }) ∧
      b = { handle := b.handle, die := d, core := c, pdom := pdom, task := task, grant := grant, scratch := b.scratch, poison := []
            bars := List.replicate 16 (Bar.fresh exp), commons := List.replicate 32 0, arrive := 0, evicted := false, evicting := false
            saved := [], bw := (0, 0) } :=
  ⟨_, { handle := (s.newBundle d c pdom task grant exp).1, die := d, core := c, pdom := pdom, task := task, grant := grant
        scratch := (grantUnits pdom.toNat (s.core d c).leftScr s.free 0 grant).1, poison := [], bars := List.replicate 16 (Bar.fresh exp)
        commons := List.replicate 32 0, arrive := 0, evicted := false, evicting := false, saved := [], bw := (0, 0) },
    rfl, rfl, fun e f => State.core_leftScr s d c _ e f, rfl⟩

/-- Whether the strand may join the bundle (R224). -/
def Bundle.admits (s : State) (st : Strand) (b : Bundle) : Prop :=
  b.evicted = false ∧ b.die = st.at_.die ∧ b.core = st.at_.core ∧ b.pdom = st.pdom ∧ (s.memberList b.handle).length < 512

/-- The member indices that other strands of a bundle hold (R32). -/
def State.othersIn (s : State) (st : Strand) (h : Nat) : List Nat := ((s.memberList h).filter fun x => x.2.at_ ≠ st.at_).map Prod.fst

/-- What the strand asks of a bundle's members (R224). -/
def State.bundleFacts (s : State) (st : Strand) (k : BitVec 7) : Nat :=
  match st.bundle with
  | none => 0
  | some (b, _) =>
    if k = 0 then (s.memberList b).length
    else if k = 1 then ((s.bundle? b).map Bundle.grant).getD 0
    else ((s.memberList b).map fun x => x.1 + 1).foldl max 0

/-- A bundle that a strand was in dissolves if the strand was the last in it (R37). -/
def State.leftBy (s : State) (st : Strand) : State := match st.bundle with | some (b, _) => s.dissolveIfDone b | none => s

section Membership
variable {s : State} {st : Strand} {d a : BitVec 7} {g : Nat} (cur : s.curStrand = some st)
include cur

/-- BLEAVE (R224). -/
theorem exec_bleave : exec .bleave s = .next ((s.putStrand (({ st with bundle := none } : Strand).retire s.cycle 1)).leftBy st) :=
  State.onStrand_some cur _

/-- BINFO (R224). -/
theorem exec_binfo {k : BitVec 7} (hk : k.toNat ≤ 2) : exec (.binfo d k) s =
    .next (s.putStrand ((st.setS d (BitVec.ofNat 32 (s.bundleFacts st k))).retire s.cycle 1)) := by
  refine (State.onStrand_some cur _).trans (congrArg (fun x : Nat => Host.Outcome.next (s.putStrand ((st.setS d (BitVec.ofNat 32 x)).retire s.cycle 1))) ?_)
  unfold State.bundleFacts
  cases st.bundle with
  | none => rfl
  | some b =>
    dsimp only
    obtain rfl | rfl | rfl : k = 0 ∨ k = 1 ∨ k = 2 := by bv_omega
    · rfl
    · cases s.bundle? b.1 <;> rfl
    · exact (List.foldl_map ..).symm

/-- BJOIN of a bundle that the strand may join: the lowest member index that is free (R32, R224). -/
theorem exec_bjoin_joins {h m : Nat} {b : Bundle} (hh : h = (st.s a).toNat) (hb : s.bundle? h = some b) (may : b.admits s st)
    (hm : m = lowestFree (s.othersIn st h) 0 512) :
    exec (.bjoin d a) s = .next ((s.putStrand ((({ st with bundle := some (h, m) } : Strand).setS d (BitVec.ofNat 32 m)).retire s.cycle 1)).leftBy st) := by
  obtain ⟨resident, die, core, dom, few⟩ := may
  rw [State.bundle?_handle hb] at few
  have others : (fun x : Nat × Strand => x.2.at_ != st.at_) = fun x => decide (x.2.at_ ≠ st.at_) := by
    funext x
    by_cases same : x.2.at_ = st.at_ <;> simp [same]
  refine (State.onStrand_some cur _).trans (congrArg _ ?_)
  dsimp only
  rw [← hh, hb, others, show ((s.memberList h).filter fun x => decide (x.2.at_ ≠ st.at_)).map Prod.fst = s.othersIn st h from rfl, ← hm]
  exact if_neg (by simp [resident, die, core, dom]; omega)

/-- BJOIN of a bundle that the strand may not join answers 0xFFFF_FFFF (R224). -/
theorem exec_bjoin_refused (not : ∀ b, s.bundle? (st.s a).toNat = some b → ¬ b.admits s st) :
    exec (.bjoin d a) s = .next (s.putStrand ((st.setS d 0xFFFFFFFF).retire s.cycle 1)) := by
  refine (State.onStrand_some cur _).trans (congrArg _ ?_)
  dsimp only
  cases hb : s.bundle? (st.s a).toNat with
  | none => rfl
  | some b =>
    have bars := not b hb
    unfold Bundle.admits at bars
    rw [State.bundle?_handle hb] at bars
    refine if_pos ?_
    simp only [Bool.or_eq_true, decide_eq_true_eq]
    grind

variable (hg : g = (st.s a).toNat % 512)
include hg

/-- BNEW of a grant above 256 raises OPLIM (R224). -/
theorem exec_bnew_tooLarge (large : 256 < g) : exec (.bnew d a) s = .next (s.raise st (1 <<< 2) ((wordA 0x50 0 d a 0).zeroExtend 64)) := by
  have field : ((st.s a).extractLsb' 0 9).toNat = g := by simpa using hg.symm
  refine (State.onStrand_some cur _).trans (congrArg _ ?_)
  dsimp only
  rw [field, if_pos large]
  rfl

/-- BNEW where the core has no room answers 0 (R31, R224). -/
theorem exec_bnew_full (small : g ≤ 256)
    (full : 64 ≤ (s.resident st.at_.die st.at_.core).length ∨ 256 < ((s.resident st.at_.die st.at_.core).map Bundle.grant).sum + g) :
    exec (.bnew d a) s = .next (s.putStrand ((st.setS d 0).retire s.cycle 1)) := by
  have field : ((st.s a).extractLsb' 0 9).toNat = g := by simpa using hg.symm
  refine (State.onStrand_some cur _).trans (congrArg _ ?_)
  dsimp only
  rw [field, if_neg (by omega), if_pos (by simpa [State.usedKiB_eq] using full)]
  rfl

/-- BNEW where the core has room makes a bundle, of which the strand is member 0 (R31, R224). -/
theorem exec_bnew_new (small : g ≤ 256) (few : (s.resident st.at_.die st.at_.core).length < 64)
    (room : ((s.resident st.at_.die st.at_.core).map Bundle.grant).sum + g ≤ 256) (alone : st.bundle = none)
    {b : Nat} {t : State} (new : s.newBundle st.at_.die st.at_.core st.pdom st.task g 1 = (b, t)) :
    exec (.bnew d a) s = .next (t.putStrand ((({ st with bundle := some (b, 0) } : Strand).setS d (BitVec.ofNat 32 b)).retire t.cycle 1)) := by
  have field : ((st.s a).extractLsb' 0 9).toNat = g := by simpa using hg.symm
  refine (State.onStrand_some cur _).trans (congrArg _ ?_)
  dsimp only
  rw [field, if_neg (by omega), if_neg (by simp [State.usedKiB_eq]; omega), new, State.leave, alone]
  dsimp only
  rw [State.putStrand_putStrand _ _ _ (by rw [Strand.at_setS_retire])]
  rfl

end Membership

/-- Settles O31: each instruction by whether the strand, its core and the bundle let it; the lowest free member index by `lowestFree_free`,
and what a bundle that dissolves leaves by `State.dissolve`. -/
theorem membersJoinAndLeave : Obligations.MembersJoinAndLeave := by
  rintro d a k s st cur g hg h hh here rfl used rfl left hleft
  obtain rfl : left = fun t => t.leftBy st := hleft
  refine ⟨exec_bnew_tooLarge cur hg, fun small full => ?_, fun small few room alone => ?_, fun ⟨b, hb, resident, die, core, dom⟩ few => ?_, fun not => ?_, ?_, fun hk => ?_,
    fun e b hb => ⟨fun ⟨empty, unnamed⟩ => ?_, State.dissolveIfDone_keeps s e b hb⟩⟩
  · exact ⟨_, exec_bnew_full cur hg small full, st.wroteS_retire ..⟩
  · obtain ⟨t, b, new, changed, cores, fresh⟩ := s.newBundle_facts st.at_.die st.at_.core st.pdom st.task g 1
    have ran := exec_bnew_new cur hg (d := d) small few room alone new
    rw [show t.cycle = s.cycle by rw [changed]] at ran
    exact ⟨t, _, b, ran, changed, cores, fresh, Strand.wroteS_retire ..⟩
  · have may : b.admits s st := ⟨resident, die, core, dom, by rwa [State.bundle?_handle hb]⟩
    obtain ⟨free, lowest⟩ := lowestFree_free (s.othersIn st h) 512
      (by rw [State.othersIn, List.length_map]; exact Nat.lt_of_le_of_lt (List.length_filter_le ..) few)
    exact ⟨_, _, exec_bjoin_joins cur hh hb may rfl, free, lowest, Strand.wroteS_retire ..⟩
  · refine ⟨_, exec_bjoin_refused cur fun b hb may => ?_, st.wroteS_retire ..⟩
    rw [← hh] at hb
    obtain ⟨resident, die, core, dom, few⟩ := may
    rw [State.bundle?_handle hb] at few
    have := not b hb
    simp [resident, die, core, dom] at this
    omega
  · exact ⟨_, exec_bleave cur, Strand.onlyMoved_goTo ..⟩
  · exact ⟨_, exec_binfo cur hk, st.wroteS_retire ..⟩
  · rw [State.dissolveIfDone_done hb empty unnamed]
    have handle := State.bundle?_handle hb
    exact ⟨handle ▸ s.dissolve_handles b, handle ▸ s.dissolve_mboxes b⟩

end Sys2Proof.Machine
end

section
namespace Sys2Proof.Machine
open Sys2Proof.Laws

/-! ### One step of the machine (R26, R82, R164, R319, R355 to R357) -/

/-- The fetches of a well-formed instruction's words give the instruction (R164). -/
theorem Fetches.fetchInstr {r : SRef} {s x : State} {i : Instr} (h : Fetches r 0 s (encode i) x) (wf : i.wf = true) : s.fetchInstr r = .got x i := by
  have encoded : i.encoded = true := by
    simp only [Instr.wf, Bool.and_eq_true] at wf
    exact wf.1.1
  have length := encode_length encoded
  have whole : decodeWords (encode i) = .instr i := by simpa using decodeWords_encode wf []
  refine h.fetchFrom [] 3 i rfl (length ▸ len_le i) (fun k hk => decodeWords_part encoded (length ▸ hk)) (fun none => ?_) whole
  rw [none] at whole
  exact absurd whole (by simp [decodeWords])

/-- The fetches of words that are no instruction raise ILLEGAL (R355). -/
theorem Fetches.fetchInstr_illegal {r : SRef} {s x : State} {st : Strand} {ws : List Word} {w : Word} (h : Fetches r 0 s ws x) (three : ws.length ≤ 3)
    (bad : decodeWords ws = .illegal w) (part : ∀ n < ws.length, decodeWords (ws.take n) = .truncated) (hx : x.strandAt r = some st) :
    s.fetchInstr r = .stop (x.raise st cIllegal (w.zeroExtend 64)) := by
  refine h.illegal [] 3 w st rfl three part (fun none => ?_) bad hx
  rw [none] at bad
  exact absurd bad (by simp [decodeWords])

section Turn
variable {s x : State} {st st' : Strand} {i : Instr} (may : s.MayIssue st) (got : s.fetchInstr st.at_ = .got x i)
  (here : x.strandAt st.at_ = some st') (meets : st'.meetsHeld (x.lastWord st' st'.pc.toNat 3) = false)
include may got here meets

/-- The turn of a strand that has fetched an instruction, and may write a vector register if the instruction does. -/
theorem State.turn_run (room : writesVector i.word = true → (x.core st'.at_.die st'.at_.core).fileFull = false) (free : x.comparator st' = none)
    (same : st'.at_ = st.at_) : s.turn st.at_ = .run (x.issuing st') i := by
  rw [may.turn rfl, got]
  dsimp only
  rw [here]
  dsimp only
  rw [if_neg (by simp [meets]), if_neg (by simpa using room), free, State.issuing, same]
  rfl

/-- The turn of a strand that has fetched an instruction for which the vector file has no free entry (R82). -/
theorem State.turn_fileFull (writes : writesVector i.word = true) (full : (x.core st'.at_.die st'.at_.core).fileFull = true) :
    s.turn st.at_ = .done (x.putStrand { st' with readyAt := x.cycle + 1 }) := by
  rw [may.turn rfl, got]
  dsimp only
  rw [here]
  dsimp only
  rw [if_neg (by simp [meets]), if_pos (by simp [writes, full])]

end Turn

/-- A strand does not fetch again the atom it holds (R298, R376). -/
theorem State.fetchWord_held {s : State} {st : Strand} {va : Nat} {v : Vec} (h : st.fbuf = some (va / 32, v)) : s.fetchWord st va = .got s (atomWord v va) := by
  unfold State.fetchWord
  rw [h]
  exact if_pos rfl

/-- Settles O57: the turn of the strand at the head of the weave is what its fetches come to, and a fetch goes by the strand's atom, its
address, its translation and the mark of the atom, in that order. -/
theorem stepRunsTheDecodedInstruction : Obligations.StepRunsTheDecodedInstruction := by
  intro s u x st st' rest weave hu may here same
  have turned : step s = _ := step_weave may.on weave hu
  have mayU : u.MayIssue st := by
    subst hu
    exact ⟨may.here, may.on, may.goes, may.owes⟩
  refine ⟨fun i wf fetched meets room free => ?_, fun i wf fetched meets writes full => ?_, fun ws w fetched three bad part => ?_, fun va v held => State.fetchWord_held held, fun va fresh => ?_⟩
  · rw [turned, State.turn_run mayU (fetched.fetchInstr wf) here meets room free same]
  · rw [turned, State.turn_fileFull mayU (fetched.fetchInstr wf) here meets writes full]
  · rw [turned, mayU.turn rfl, fetched.fetchInstr_illegal three bad part here]
    rfl
  · have word := State.fetchWord_fresh (s := x) fresh
    refine ⟨fun kind => ?_, ?_⟩
    · rw [word, if_pos kind]
      rfl
    · rintro kind d c rfl rfl
      rw [if_neg (not_not_intro kind)] at word
      refine ⟨fun miss => by rw [word, miss], fun l leaf usable => ?_⟩
      rw [leaf] at word
      dsimp only at word
      rw [usable] at word
      refine ⟨fun noX => ?_, fun pa g b p v m t y isX target atom hy => ?_⟩
      · rw [word, noX]
        rfl
      · rw [isX, target] at word
        dsimp only at word
        rw [atom] at word
        subst hy
        exact ⟨fun clean => word.trans (if_neg (not_not_intro clean)), fun mark => word.trans (if_pos mark)⟩

end Sys2Proof.Machine
end

section
namespace Sys2Proof.Machine

/-! ### Acceptance, aging and reservation (R52, R54, R59, R65) -/

section Acceptance
variable {s : State}

/-- With every task admitted and every marker of the host queue processed, the next record of the queue is taken (R59, R65). -/
theorem exec_taskAcceptance (admitted : ∀ t ∈ s.hg.tasks, t.state ≠ .accepted)
    (unmarked : ∀ t ∈ s.hg.tasks, t.state = .ready → TaskRec.kind t.record = 3 → TaskRec.graph t.record = false → t.spawned = true) :
    exec .taskAcceptance s = .next s.acceptHost := by
  have none : s.hg.tasks.filter (fun t => t.state = .accepted) = [] := List.filter_eq_nil_iff.2 fun t ht => by simpa using admitted t ht
  have stands : s.markerStands false = false := by
    simp only [State.markerStands, List.any_eq_false, Bool.and_eq_true, decide_eq_true_eq, Bool.not_eq_true']
    rintro t ht ⟨⟨⟨ready, kind⟩, graph⟩, host⟩
    exact absurd host (by simp [unmarked t ht ready kind graph])
  show execTaskAcceptance s = _
  unfold execTaskAcceptance
  rw [none]
  exact congrArg _ (if_neg (by simp [stands]))

/-- A record of the host task queue that has been read is accepted, and the head moves on (R59). -/
theorem State.acceptHost_read {size head va : Nat} {u : State} {bs : List Byte} (hsize : size = max (s.hg.hqsize.toNat % 2 ^ 17) 1) (hhead : head = s.hg.hhead.toNat)
    (some : head ≠ s.hg.htail.toNat % 2 ^ 32 % size) (hva : va = (s.hg.hqbase.toNat % 2 ^ 57 / 4096 * 4096 + 64 * head) % 2 ^ 57) (read : s.hgRead 0 0 0 va 64 = .ok u bs) :
    s.acceptHost = (State.accept { u with hg := { u.hg with hhead := BitVec.ofNat 64 ((head + 1) % size) } } (BitVec.ofNat 512 (bytesNat bs)) va none false false).2 := by
  subst hsize hhead hva
  unfold State.acceptHost
  rw [if_neg some]
  dsimp only
  rw [read]

end Acceptance

/-- A task as an aging step leaves it (R54). -/
def State.aged (s : State) (k : Task) : Task :=
  if k.waiting && !k.spilled && s.ageStep != 0 && k.creditAt + s.ageStep ≤ s.cycle then
    { k with credit := if k.eff < 127 then k.credit + 1 else k.credit, creditAt := k.creditAt + s.ageStep }
  else k

theorem State.aged_elapsed {s : State} {k : Task} (step : s.ageStep ≠ 0) (ready : k.state = .ready) (kind : TaskRec.kind k.record ≠ 3) (pool : k.spilled = false)
    (elapsed : k.creditAt + s.ageStep ≤ s.cycle) :
    s.aged k = { k with credit := if k.prio + k.credit < 127 then k.credit + 1 else k.credit, creditAt := k.creditAt + s.ageStep } := by
  have below : k.eff < 127 ↔ k.prio + k.credit < 127 := by
    unfold Task.eff
    omega
  unfold State.aged
  rw [if_pos (by simp [Task.waiting, step, ready, kind, pool, elapsed])]
  simp only [below]

theorem State.aged_kept {s : State} {k : Task} (h : s.ageStep = 0 ∨ k.state ≠ .ready ∨ TaskRec.kind k.record = 3 ∨ k.spilled = true ∨ s.cycle < k.creditAt + s.ageStep) :
    s.aged k = k := by
  refine if_neg ?_
  simp only [Task.waiting, Bool.and_eq_true, decide_eq_true_eq, bne_iff_ne, Bool.not_eq_true']
  rintro ⟨⟨⟨⟨ready, kind⟩, pool⟩, step⟩, elapsed⟩
  obtain h | h | h | h | h := h
  · exact step h
  · exact h ready
  · exact kind h
  · simp [pool] at h
  · omega

theorem exec_evminReservation {s : State} {t : Task} {l : List Task} (order : s.poolOrder = t :: l) (unreserved : s.hg.reserved = none) (first : t.firstAt ≠ 0)
    (due : t.firstAt - 1 + s.evmin ≤ s.cycle) : exec .evminReservation s = .next { s with hg := { s.hg with reserved := some t.key } } := by
  show execEvminReservation s = _
  unfold execEvminReservation
  rw [order]
  exact congrArg _ (if_pos (by simp [unreserved, first, due]))

/-! ### Dispatch (R54, R56, R57) -/

section Dispatch
variable {s : State} {t : Task}

theorem exec_taskDispatch (free : s.launchHeld = false) (next : s.poolOrder.find? s.placeable = some t) : exec .taskDispatch s = .next (s.dispatch t) := by
  show execTaskDispatch s = _
  unfold execTaskDispatch
  rw [next]
  exact congrArg _ (if_neg (by simp [free]))

/-- A task one of whose tiles has been freed is ended in place of its dispatch (R56). -/
theorem State.dispatch_freed (freed : s.tileFreed t = true) : s.dispatch t = s.endPlain t.key := if_pos freed

/-- What ending a task without a delivery makes of each task (R56, R404). -/
theorem State.endPlain_tasks (s : State) (key : Nat) {k : Task} (hk : k ∈ s.hg.tasks) : ∃ k' ∈ (s.endPlain key).hg.tasks,
    k'.key = k.key ∧ (k.key ≠ key → k' = k) ∧ (k.key = key → k'.state = .ending ∧ (k.state ≠ .ending → k'.status = 3)) := by
  refine ⟨_, List.mem_map_of_mem hk, ?_⟩
  by_cases h : k.key = key
  · rw [if_pos h]
    exact ⟨rfl, fun n => absurd h n, fun _ => ⟨rfl, fun n => if_neg n⟩⟩
  · rw [if_neg h]
    exact ⟨rfl, fun _ => rfl, fun e => absurd e h⟩

/-- A task whose tiles stand is dispatched by the kind of its record (R57). -/
theorem State.dispatch_kernel (stands : s.tileFreed t = false) (kind : TaskRec.kind t.record = 0) : s.dispatch t = s.startKernel t.key false := by
  unfold State.dispatch
  dsimp only
  rw [if_neg (by simp [stands]), kind]
  rfl

/-- A task in flight on a unit, as its dispatch leaves it (R57, R60). -/
def State.startedTask (s : State) (k : Task) : Task := { k with state := .dispatched [] [], engLeft := 1, tstart := s.timeNs, started := true, credit := 0 }

theorem State.dispatch_traversal (stands : s.tileFreed t = false) (kind : TaskRec.kind t.record = 1) : s.dispatch t = (s.mapTask t.key s.startedTask).gxAcquire := by
  unfold State.dispatch
  dsimp only
  rw [if_neg (by simp [stands]), kind]
  rfl

theorem State.dispatch_engine (stands : s.tileFreed t = false) (kind : TaskRec.kind t.record = 2) {d c u : Nat} (hd : d = TaskRec.edie t.record)
    (hc : c = TaskRec.ecore t.record) (hu : u = TaskRec.unit t.record) : s.dispatch t =
      ((s.mapTask t.key s.startedTask).setEngine d c u { s.engine d c u with queue := (s.engine d c u).queue ++ [engTaskEntry t] }).gxAcquire := by
  subst hd hc hu
  unfold State.dispatch
  dsimp only
  rw [if_neg (by simp [stands]), kind]
  rfl

end Dispatch

/-! ### Work queues (R59, R62) -/

section Queues
variable {s u : State} {w : WorkQueue} {bs : List Byte}

/-- The queue that is to be launched next is launched (R62). -/
theorem exec_workQueueLaunch (free : s.launchHeld = false) (next : s.nextLaunch = some w) : exec (.workQueueLaunch w.n) s = .next (s.launch w) := by
  show execWorkQueueLaunch w.n s = _
  unfold execWorkQueueLaunch
  rw [next]
  exact congrArg _ ((if_neg (by simp [free])).trans (if_pos rfl))

/-- A launch whose header has been read and whose new head has been written: the first m records make one task (R62). -/
theorem State.launch_written {v : State} {h head n r m : Nat} (read : s.hgRead 0 0 0 w.header 64 = .ok u bs) (hh : h = bytesNat bs) (hhead : head = qhHead h)
    (hn : n = if TaskRec.kind w.tmpl = 0 then max (TaskRec.nstr w.tmpl) 1 else 1) (hr : r = (qhTail h + 2 ^ 32 - head) % 2 ^ 32) (some : 1 ≤ r) (fits : r ≤ w.size)
    (hm : m = min (min r w.b) (min (98304 / n) (w.size - head % w.size)))
    (written : (u.mapQueue w.n fun _ => { w with head := head, tail := qhTail h }).unitWrite 0 none 0 0 0 (w.header + 44) (natBytesLE 4 (head + m)) = .ok v ()) :
    s.launch w = ((v.gxRelease.mapQueue w.n fun q => { q with head := (head + m) % 2 ^ 32, oldestAt := v.gxRelease.cycle, flush := q.flush - m }).accept
      (((TaskRec.set w.tmpl 440 384 (w.base + w.esize * (head % w.size))).set 55 49 w.prio).set 93 77 (if TaskRec.kind w.tmpl = 0 then m * n else 0))
      w.tmplAt none false true).2 := by
  subst hm hn hh hhead hr
  unfold State.launch
  rw [read]
  dsimp only
  rw [if_neg (by omega), if_neg (by omega), written]

theorem exec_workQueueTailObserve {n : Nat} (hw : s.queue? n = some w) (works : w.disabled = false) (read : s.hgRead 0 0 0 (w.header + 40) 4 = .ok u bs) :
    exec (.workQueueTailObserve n) s = .next (if bytesNat bs = w.tail then u else u.leaveIdle.gxAcquire.setTail w (bytesNat bs)) := by
  show execWorkQueueTailObserve n s = _
  unfold execWorkQueueTailObserve
  rw [hw]
  dsimp only
  rw [if_neg (by simp [works]), read]

/-- A tail that the queue's size admits is taken (R59, R353). -/
theorem State.setTail_fits {tail : Nat} (fits : (tail + 2 ^ 32 - w.head % 2 ^ 32) % 2 ^ 32 ≤ w.size) : s.setTail w tail = { s with hg := { s.hg with
    queues := s.hg.queues.map fun q => if q.n = w.n then { w with tail := tail, oldestAt := if w.r = 0 then s.cycle else w.oldestAt } else q } } :=
  if_neg (Nat.not_lt.2 fits)

end Queues

/-! ### Completion (R38, R64) -/

section Completion
variable {s : State} {key : Nat} {k : Task} (hk : s.task? key = some k)
include hk

theorem State.task?_key : k.key = key := by simpa using List.find?_some hk

theorem exec_taskCompletion_done (state : k.state = .dispatched [] []) (strands : k.strandsLeft = 0) (engines : k.engLeft = 0) (calls : k.callsLeft = 0) :
    exec (.taskCompletion key) s = .next (s.finish key 0) := by
  show execTaskCompletion key s = _
  unfold execTaskCompletion
  rw [hk]
  exact congrArg _ (if_pos (by simp [Task.isDone, state, strands, engines, calls]))

theorem exec_taskCompletion_finishing (state : k.state = .finishing) : exec (.taskCompletion key) s = .next (s.completeTask k) := by
  show execTaskCompletion key s = _
  unfold execTaskCompletion
  rw [hk]
  exact congrArg _ ((if_neg (by simp [Task.isDone, state])).trans (if_pos state))

end Completion

section Closing
variable {s : State} {k : Task}

/-- A completion waits for the writes of the die made before it (R38). -/
theorem State.completeTask_waits (before : ∃ w ∈ s.xwrites, w.src ≠ 0 ∧ w.id < k.relId) : s.completeTask k = s := by
  unfold State.completeTask
  exact if_pos (by simpa using before)

/-- Once they are applied, a task without a completion record is closed (R38, R64). -/
theorem State.completeTask_recordless (applied : ∀ w ∈ s.xwrites, w.src ≠ 0 → k.relId ≤ w.id) (unrecorded : k.recDone = false) (recordless : TaskRec.crec k.record = 0) :
    s.completeTask k = (s.gxRelease.mapTask k.key fun t => { t with recDone := true }).closeTask { k with recDone := true } := by
  unfold State.completeTask
  rw [if_neg (by simpa using applied), if_neg (by simp [unrecorded])]
  exact if_pos (by simp [recordless])

/-- A task with a completion record is closed once the record is written (R38, R64). -/
theorem State.completeTask_recorded {u : State} (applied : ∀ w ∈ s.xwrites, w.src ≠ 0 → k.relId ≤ w.id) (unrecorded : k.recDone = false)
    (record : TaskRec.crec k.record ≠ 0) (good : ¬ (k.status = 2 ∧ k.reason = 7))
    (written : s.gxRelease.unitWrite 0 none k.pdom k.partid k.id.toNat (TaskRec.crec k.record) (natBytesLE 32 (s.completionRecord k)) = .ok u ()) :
    s.completeTask k = (u.gxRelease.mapTask k.key fun t => { t with recDone := true }).closeTask { k with recDone := true } := by
  unfold State.completeTask
  rw [if_neg (by simpa using applied), if_neg (by simp [unrecorded]), written]
  exact if_neg (by simpa [record] using good)

/-- A task that has succeeded or was cancelled, and names no successor, is gone (R38). -/
theorem State.closeTask_gone (fine : k.status < 2) (last : TaskRec.nsucc k.record = 0) :
    s.closeTask k = { s with hg := { s.hg with tasks := s.hg.tasks.filter fun x => x.key != k.key } } := by
  have told : s.tellSuccessors k = .ok s () := by
    unfold State.tellSuccessors
    exact if_pos (by simp [last])
  unfold State.closeTask
  rw [if_neg (by omega), told]

end Closing

/-- Settles O48: each event by what it finds, the host queue's next record, the pool's first placeable task, the next queue, or what the task still
waits for; an accepted record by `State.accept_host`. -/
theorem headgateRunsTasks : Obligations.HeadgateRunsTasks := by
  intro s
  refine ⟨?_, ?_, fun t l => exec_evminReservation, ?_, ?_, ?_, ?_⟩
  · rintro size head va hsize hhead more hva admitted unmarked u bs v r read fresh rfl rfl admissible
    obtain ⟨t, k, accepted, facts⟩ := State.accept_host { u with hg := { u.hg with hhead := BitVec.ofNat 64 ((head + 1) % size) } } _ va fresh admissible
    exact ⟨t, k, (exec_taskAcceptance admitted unmarked).trans (congrArg _ ((State.acceptHost_read hsize hhead more hva read).trans accepted)), facts⟩
  · rintro n rfl
    refine ⟨_, rfl, rfl, fun k hk => ?_⟩
    have aged : s.aged k ∈ s.hg.tasks.map s.aged := List.mem_map_of_mem hk
    exact ⟨fun step ready kind pool elapsed => State.aged_elapsed step ready kind pool elapsed ▸ aged, fun kept => by rwa [State.aged_kept kept] at aged⟩
  · rintro t free next started rfl
    have run := exec_taskDispatch free next
    refine ⟨fun freed => ?_, fun stands => ⟨fun kind => ?_, fun kind => ?_, fun kind d c u hd hc hu => ?_⟩⟩
    · exact ⟨_, run.trans (congrArg _ (State.dispatch_freed freed)), rfl, fun k hk => s.endPlain_tasks t.key hk⟩
    · exact run.trans (congrArg _ (State.dispatch_kernel stands kind))
    · exact run.trans (congrArg _ (State.dispatch_traversal stands kind))
    · exact run.trans (congrArg _ (State.dispatch_engine stands kind hd hc hu))
  · intro w u bs h head n r m v free next read hh hhead hn hr more fits hm written
    exact (exec_workQueueLaunch free next).trans (congrArg _ (State.launch_written read hh hhead hn hr more fits hm written))
  · intro n w u bs hw works read
    have run := exec_workQueueTailObserve hw works read
    refine ⟨fun same => run.trans (congrArg _ (if_pos same)), fun moved fits => ⟨_, rfl, ?_⟩⟩
    rw [run, if_neg moved, State.setTail_fits fits]
  · intro key k hk
    have named := State.task?_key hk
    refine ⟨exec_taskCompletion_done hk, fun finishing before => ?_, fun finishing applied unrecorded recordless fine last => ?_, fun finishing applied record unrecorded good u written => ?_⟩
    · rw [exec_taskCompletion_finishing hk finishing, State.completeTask_waits before]
    · have gone := State.closeTask_gone (s := s.gxRelease.mapTask k.key fun t => { t with recDone := true }) (k := { k with recDone := true }) fine last
      rw [exec_taskCompletion_finishing hk finishing, State.completeTask_recordless applied unrecorded recordless, gone]
      have left := filter_mapped_key s.gxRelease.hg.tasks (fun t => { t with recDone := true }) k.key fun _ => rfl
      rw [State.mapTask]
      dsimp only
      rw [left, named]
    · rw [exec_taskCompletion_finishing hk finishing, State.completeTask_recorded applied unrecorded record good written, named]

end Sys2Proof.Machine
end

section
namespace Sys2Proof.Machine

/-! ### Placement and stealing (R34, R56, R57) -/

section Placement
variable {s : State} {d k c : Nat} {t : Task} {rest : List Nat} {hd : BitVec 16 × Nat}

/-- A distributor places the next bundle of the task it serves whole, on the core that has been chosen (R34, R56). -/
theorem State.placeNext_places {sel : Task → Bool} (next : s.nextPlacement d sel = some t) (header : t.header = some hd) (left : t.left d = k :: rest)
    (stands : s.tileFreed t = false) (core : s.placeOn t d (TaskRec.members t.record k) = some c) :
    s.placeNext d sel = (s.mapTask t.key fun x => x.setLeft d rest).placeBundle t d c k hd := by
  have whole : ({ t with header := some hd } : Task) = t := by rw [← header]
  unfold State.placeNext
  rw [next]
  dsimp only
  rw [if_neg (by simp [stands]), header]
  dsimp only
  rw [left]
  dsimp only
  rw [core]
  dsimp only
  rw [whole]

/-- A bundle placed on a core: its strands take the lowest free slots, in order, at the kernel's entry (R26, R34, R73). -/
theorem State.placeBundle_strands (s : State) (t : Task) (d c k : Nat) (hd : BitVec 16 × Nat) : ∃ h new, (s.placeBundle t d c k hd).strands = s.strands ++ new ∧
    new.map (fun x => x.at_.slot) = (s.slotsFree d c).take (TaskRec.members t.record k) ∧ ∀ i x, new[i]? = some x →
      x.at_.die = d ∧ x.at_.core = c ∧ x.task = t.key ∧ x.bundle = some (h, i) ∧ x.sid = BitVec.ofNat 32 (k * TaskRec.bsize t.record + i) ∧
      x.pc = BitVec.ofNat 57 (TaskRec.entry t.record + 32 + 4 * hd.2) ∧ x.native = decide (hd.1 = s.mg.tag) ∧ x.blocked = none ∧ x.level = false ∧ x.nsb = 1 ∧ x.nvb = 1 := by
  obtain ⟨u, b, new, changed, -, -⟩ := s.newBundle_facts d c (BitVec.ofNat 8 t.pdom) t.key (TaskRec.grant t.record) (TaskRec.members t.record k)
  obtain ⟨cs, ds, rs, ev, acquired⟩ := u.acquire_only d c 2 none { die := d, core := c, slot := 0 }
  unfold State.placeBundle
  dsimp only
  rw [new]
  dsimp only
  rw [acquired, changed]
  obtain ⟨strands, placed, slots, facts⟩ := State.placeStrands_new
    ({ ({ s with bundles := s.bundles ++ [b], hg := { s.hg with nextHandle := u.hg.nextHandle }, cores := u.cores, free := u.free } : State) with
      cores := cs, dies := ds, xreads := rs, evBuf := ev } : State) t d c b.handle hd (k * TaskRec.bsize t.record) 0 ((s.slotsFree d c).take (TaskRec.members t.record k))
  simp only [Nat.zero_add] at facts
  exact ⟨b.handle, strands, placed, slots, facts⟩

end Placement

section Steal
variable {s : State} {d o n k : Nat} {t : Task} {l rest : List Nat}

/-- A die without unplaced bundles asks the other, which has a task to take from (R57). -/
theorem exec_stealRequest (dies : (d = 1 ∧ o = 2) ∨ (d = 2 ∧ o = 1)) (idle : ∀ x ∈ s.hg.tasks, x.left d = []) (other : s.stealFrom o = some t) :
    exec (.stealRequest d) s = .next (s.handOver t d) := by
  have asks : s.stealAsks d = true := by
    simp only [State.stealAsks, Bool.and_eq_true, Bool.or_eq_true, decide_eq_true_eq, Bool.not_eq_true', List.any_eq_false]
    exact ⟨by omega, by simpa using idle⟩
  show execStealRequest d s = _
  unfold execStealRequest
  rw [if_neg (by omega), if_neg (by simp [asks]), show 3 - d = o by omega, other]

/-- The later half of the unplaced bundles changes dies where the first of them has room (R57). -/
theorem State.handOver_eq (dies : 3 - d = o) (hl : l = t.left o) (hn : n = min (max ((l.length + 1) / 2) 1) s.stealMax) (half : l.drop (l.length - n) = k :: rest) :
    s.handOver t d = if (s.placeOn t d (TaskRec.members t.record k)).isSome = true then
      (s.mapTask t.key fun x => (x.setLeft o (l.take (l.length - n))).setLeft d (k :: rest)).note d none 76 n t.key else s := by
  subst dies hl hn
  unfold State.handOver
  dsimp only
  rw [half]

end Steal

/-! ### Eviction and restore (R43 to R46, R58, R353) -/

section Moves
variable {s : State} {h : Nat} {b : Bundle}

/-- A bundle that is chosen for eviction, or is being evicted, waits for the accesses of its members first (R43). -/
theorem exec_bundleEviction (hb : s.bundle? h = some b) (chosen : b.evicting = true ∨ ∃ x, s.evictNext = some x ∧ x.handle = h) :
    exec (.bundleEviction h) s = .next (if (s.members h).any (fun p => p.2.inAccess) = true then s.mapBundle h fun b => { b with evicting := true } else s.evictNow b) := by
  show execBundleEviction h s = _
  unfold execBundleEviction
  rw [hb]
  refine congrArg _ (if_pos ?_)
  obtain evicting | ⟨x, next, named⟩ := chosen
  · simp [evicting]
  · simp [next, named]

/-- A bundle for which the backwater has no room stays (R353). -/
theorem State.evictNow_full (full : s.bwPlace (s.evictBytes b) = none) :
    s.evictNow b = { s.mapBundle b.handle (fun b => { b with evicting := false }) with hg := { s.hg with bwFull := true } } := by
  simp only [State.evictNow, full]

variable {d c : Nat} (hb : s.bundle? h = some b) (may : s.restorable b = true) (core : (d, c) ∈ s.restoreCores b) (fits : s.restoreFits b d c = true)
include hb may core fits

/-- A bundle whose records docking has brought is restored without the backwater (R45). -/
theorem exec_bundleRestore_docked (docked : b.bw.2 = 0) : exec (.bundleRestore h d c) s = .next ((s.restoreBundle b d c).dockStep h) := by
  show execBundleRestore h d c s = _
  unfold execBundleRestore
  rw [hb]
  exact congrArg _ ((if_pos (by simp [may, core, fits])).trans (if_pos docked))

/-- A bundle whose records have been read from the backwater is restored (R45). -/
theorem exec_bundleRestore_read (saved : b.bw.2 ≠ 0) {u : State} {bs : List Byte}
    (read : s.hgRead 0 0 0 (bitsNat s.hg.bwbase.toNat 56 21 * 2 ^ 21 + b.bw.1) b.bw.2 = .ok u bs) :
    exec (.bundleRestore h d c) s = .next ((u.restoreBundle b d c).dockStep h) := by
  show execBundleRestore h d c s = _
  unfold execBundleRestore
  rw [hb]
  refine congrArg _ ((if_pos (by simp [may, core, fits])).trans ((if_neg saved).trans ?_))
  rw [read]

end Moves

theorem exec_backwaterFullReport {s : State} (full : s.hg.bwFull = true) (next : s.evictNext.isSome = true) (due : s.hg.bwReportAt ≤ s.timePs) :
    exec .backwaterFullReport s = .next (State.faultRecord { s with hg := { s.hg with bwReportAt := s.timePs + 10 ^ 9 } } 3 0 0 s.hg.bwbase.toNat) :=
  congrArg _ (if_pos (by simp [full, next, due]))

/-! ### Strands that wake (R40, R41) -/

section Wake
variable {s : State} {r : SRef} {st : Strand} {b : Blocked}

theorem exec_strandWake (here : s.strandAt r = some st) (may : s.mayWake st = true) : exec (.strandWake r.die r.core r.slot) s = .next (s.wakeStrand st) := by
  show execStrandWake r.die r.core r.slot s = _
  unfold execStrandWake
  rw [here]
  exact congrArg _ (if_pos may)

/-- A strand that leaves its wait retires its instruction, of the words that its wait names (R41). -/
theorem Strand.unblock_moved {x : Strand} (hx : x.blocked = some b) (cycle : Nat) : x.OnlyMoved (x.unblock cycle) cycle (x.past b.len) := by
  unfold Strand.unblock
  rw [hx]
  exact x.retire_moved ..

theorem State.acquire_cycle (s : State) (d c k : Nat) (g : Option Nat) (w : SRef) : (s.acquire d c k g w).cycle = s.cycle := by
  obtain ⟨cs, ds, rs, ev, e⟩ := s.acquire_only d c k g w
  rw [e]

theorem State.mailFor_claimed {n k : Nat} {m : Mailbox} {e : Vec} {l : List Vec} (member : st.bundle = some (n, k)) {i : Nat}
    (box : (s.core st.at_.die st.at_.core).mboxes[i]? = some m) (claim : m.claim = n) (items : m.items = e :: l) : s.mailFor st i = some m := by
  unfold State.mailFor
  rw [member, List.getD_eq_getElem?_getD, box]
  exact if_pos (by simp [claim, items])

/-- A strand that may wake, and leaves its wait as `x` in the state `t`. -/
theorem exec_strandWake_goes (here : s.strandAt r = some st) (may : s.mayWake st = true) {t : State} {x : Strand} (hx : x.blocked = some b) (cycle : t.cycle = s.cycle)
    (woken : s.wakeStrand st = t.putStrand (x.unblock t.cycle)) :
    ∃ u, exec (.strandWake r.die r.core r.slot) s = .next (t.putStrand u) ∧ x.OnlyMoved u s.cycle (x.past b.len) :=
  ⟨_, (exec_strandWake here may).trans (congrArg _ woken), cycle ▸ x.unblock_moved hx t.cycle⟩

end Wake

section Leaves
variable {s : State} {st : Strand} {b : Blocked} (blocked : st.blocked = some b)
include blocked

/-- The waits that end in nothing but the end of their instruction (R39, R41, R197, R231, R232, R285). -/
theorem State.wakeStrand_plain (plain : b.wait = .rcv ∨ (∃ c, b.wait = .flcall c) ∨ (∃ w, b.wait = .rwait w) ∨ (∃ x y n, b.wait = .flagWait x y n) ∨ ∃ y l, b.wait = .sleep y l) :
    s.wakeStrand st = s.putStrand (st.unblock s.cycle) := by
  obtain wait | ⟨c, wait⟩ | ⟨w, wait⟩ | ⟨x, y, n, wait⟩ | ⟨y, l, wait⟩ := plain <;> simp only [State.wakeStrand, blocked, wait]

/-- A phase that has completed is an acquire at bundle scope (R156, R226). -/
theorem State.wakeStrand_barSync {k p : Nat} (wait : b.wait = .barSync k p) : s.wakeStrand st =
    (s.acquire st.at_.die st.at_.core 0 (st.bundle.map Prod.fst) st.at_).putStrand (st.unblock (s.acquire st.at_.die st.at_.core 0 (st.bundle.map Prod.fst) st.at_).cycle) := by
  simp only [State.wakeStrand, blocked, wait]

/-- The watch of MWAIT is over (R223). -/
theorem State.wakeStrand_mwait (wait : b.wait = .mwait) : s.wakeStrand st = s.putStrand (({ st with watch := none } : Strand).unblock s.cycle) := by
  simp only [State.wakeStrand, blocked, wait]

/-- The offer of QSEND no longer stands (R119). -/
theorem State.wakeStrand_qsend {o : Nat} (wait : b.wait = .qsend o) :
    s.wakeStrand st = ({ s with offers := s.offers.filter fun x => x.id != o } : State).putStrand (st.unblock s.cycle) := by
  simp only [State.wakeStrand, blocked, wait]

/-- QRECV takes the first entry of its mailbox, which returns its count (R118, R120). -/
theorem State.wakeStrand_qrecv {n : Nat} {dst : Option Nat} {m : Mailbox} {e : Vec} {l : List Vec} (wait : b.wait = .qrecv n dst) (mail : s.mailFor st n = some m)
    (items : m.items = e :: l) {t : State} (ht : t = (s.setCore st.at_.die st.at_.core { s.core st.at_.die st.at_.core with
      mboxes := (s.core st.at_.die st.at_.core).mboxes.set n { m with head := (m.head + 1) % 16, items := l } }).returnCount st.at_.die st.at_.core n) :
    s.wakeStrand st = t.putStrand ((st.setVAt dst e).unblock t.cycle) := by
  subst ht
  simp only [State.wakeStrand, blocked, wait, mail, items, List.drop_one, List.tail_cons, List.headD_cons]

/-- TWAIT acquires as what it has seen asks for (R41, R278). -/
theorem State.wakeStrand_twaitMet {h k : Nat} {acq : Bool} (wait : b.wait = .twaitMet h k acq) {t : State} (ht : t = if acq = true then s.acquireTile st else s) :
    s.wakeStrand st = t.putStrand (st.unblock t.cycle) := by
  subst ht
  simp only [State.wakeStrand, blocked, wait]

end Leaves

/-- Settles O49: each event by what it finds of the bundle or of the strand's wait; a placed bundle by `State.placeStrands_new`. -/
theorem bundlesMoveAndStrandsWake : Obligations.BundlesMoveAndStrandsWake := by
  intro s
  refine ⟨?_, ?_, fun h b hb chosen => ⟨?_, ?_, ?_⟩, fun h b d c => exec_bundleRestore_docked, fun h b d c u bs hb may core fits saved read => exec_bundleRestore_read hb may core fits saved read,
    exec_backwaterFullReport, ?_⟩
  · rintro d t k rest c hd header left stands core placed rfl
    exact ⟨fun next => congrArg _ (State.placeNext_places next header left stands core), fun next => congrArg _ (State.placeNext_places next header left stands core),
      State.placeBundle_strands ..⟩
  · intro d o t l k rest dies idle other hl n hn half
    have run := exec_stealRequest dies idle other
    rw [State.handOver_eq (by omega) hl hn half] at run
    exact ⟨fun room => run.trans (congrArg _ (if_pos room)), fun room => run.trans (congrArg _ (if_neg (by simp [room])))⟩
  · exact fun access => (exec_bundleEviction hb chosen).trans (congrArg _ (if_pos (by simpa using access)))
  · exact fun idle => (exec_bundleEviction hb chosen).trans (congrArg _ (if_neg (by simpa using idle)))
  · rintro rfl full
    exact State.evictNow_full full
  · rintro r st b here blocked may i goes rfl rfl
    refine ⟨fun plain => ?_, fun k p wait => ?_, fun wait => ?_, fun o wait => ?_, fun n dst h m wait member box claim e l items => ?_, fun h k acq wait => ?_⟩
    · exact exec_strandWake_goes here may blocked rfl (State.wakeStrand_plain blocked plain)
    · exact exec_strandWake_goes here may blocked (State.acquire_cycle ..) (State.wakeStrand_barSync blocked wait)
    · exact exec_strandWake_goes here may blocked rfl (State.wakeStrand_mwait blocked wait)
    · exact exec_strandWake_goes here may blocked rfl (State.wakeStrand_qsend blocked wait)
    · refine exec_strandWake_goes here may ((st.setVAt_blocked ..).trans blocked) ?_
        (State.wakeStrand_qrecv blocked wait (State.mailFor_claimed member box claim items) items rfl)
      rw [State.returnCount_rest, State.setCore_cycle]
    · refine exec_strandWake_goes here may blocked ?_ (State.wakeStrand_twaitMet blocked wait rfl)
      split
      · exact State.acquire_cycle ..
      · rfl

end Sys2Proof.Machine
end

section
namespace Sys2Proof.Machine

/-! ### SEL and the moves between register kinds (R76, R168, R183, R184) -/

section Moves
variable (sense : BitVec 1) (p q k : BitVec 3) (c : BitVec 5) (d a b : BitVec 7)

theorem sel_writes : WritesS (.sel sense p d a b) 1 d fun st => if (st.p p).getLsbD 0 ≠ sense.getLsbD 0 then st.s a else st.s b :=
  writesS_of fun s => by simp only [← bne_iff_ne]; rfl

theorem bcasts_writes : WritesV (.bcasts d a) 1 d fun st => splat (st.s a) := writesV_of fun _ => rfl

/-- Every lane of a splat is the word. -/
theorem lane_splat (x : Word) {i : Nat} (hi : i < 8) : lane (splat x) i = x := lane_ofLanes _ i hi

theorem extr_writes : WritesS (.extr d a k) 1 d fun st => lane (st.v a) k.toNat := writesS_of fun _ => rfl

theorem insr_writes : WritesV (.insr d a k) 1 d fun st => ofLanes fun i => if i = k.toNat then st.s a else lane (st.v d) i :=
  writesV_of fun _ => rfl

theorem movs_writes : WritesS (.movs d a) 1 d fun st => st.s a := writesS_of fun _ => rfl
theorem movv_writes : WritesV (.movv d a) 1 d fun st => st.v a := writesV_of fun _ => rfl
theorem prd_writes : WritesS (.prd d q) 1 d fun st => (st.p q).zeroExtend 32 := writesS_of fun _ => rfl

variable {d a c} {s : State} {st : Strand} (cur : s.curStrand = some st)
include cur

/-- CRD (R76, R184). -/
theorem exec_crd : exec (.crd d c) s =
    .next (s.putStrand ((st.setS d (match s.bundleOf st with | some g => g.commons.getD c.toNat 0 | none => 0)).retire s.cycle 1)) :=
  (State.onStrand_some cur _).trans (by rfl)

/-- SRD of a special register that is no pair (R168, R184). -/
theorem exec_srd_word (args : a ≠ 6) (link : a ≠ 7) :
    exec (.srd d a) s = .next (s.putStrand ((st.setS d (s.special st a.toNat)).retire s.cycle 1)) :=
  (State.onStrand_some cur _).trans (by dsimp only; rw [if_neg args, if_neg link])

/-- SRD of %args and of %link (R168, R184). -/
theorem exec_srd_args : exec (.srd d 6) s = .next (s.putStrand ((st.setPair d (BitVec.ofNat 64 st.args.toNat)).retire s.cycle 1)) :=
  (State.onStrand_some cur _).trans (by rw [BitVec.ofNat_toNat]; rfl)
theorem exec_srd_link : exec (.srd d 7) s = .next (s.putStrand ((st.setPair d (BitVec.ofNat 64 st.link.toNat)).retire s.cycle 1)) :=
  (State.onStrand_some cur _).trans (by rw [BitVec.ofNat_toNat]; rfl)

/-- CWR of a strand without a bundle (R76). -/
theorem exec_cwr_alone (alone : st.bundle = none) {r : BitVec 5} : exec (.cwr r a) s = .next (s.putStrand (st.retire s.cycle 1)) :=
  (State.onStrand_some cur _).trans (by rw [alone])

/-- CWR of a member of a bundle (R76, R184). -/
theorem exec_cwr_member {h m : Nat} (member : st.bundle = some (h, m)) {r : BitVec 5} : exec (.cwr r a) s =
    .next { s.putStrand (st.retire s.cycle 1) with commonsBuf := s.commonsBuf ++ [{ bundle := h, reg := r.toNat, mid := m, val := st.s a }] } :=
  (State.onStrand_some cur _).trans (by rw [member]; rfl)

end Moves

/-- Settles O5: the moves in the forms of a register write, SRD by whether the register is a pair, and CWR by whether the strand is in a
bundle. -/
theorem movesSetTheirResult : Obligations.MovesSetTheirResult := by
  refine ⟨fun sense p q k c d a b => ⟨sel_writes sense p d a b, ⟨_, bcasts_writes d a, fun st i hi => lane_splat _ hi⟩, extr_writes k d a,
    ⟨_, insr_writes k d a, fun st i hi => lane_ofLanes _ i hi⟩, movs_writes d a, movv_writes d a, prd_writes q d, ?_, ?_, ?_, ?_⟩, ?_⟩
  · exact fun s st cur => ⟨_, exec_crd cur, st.wroteS_retire ..⟩
  · exact fun s st cur args link => ⟨_, exec_srd_word cur args link, st.wroteS_retire ..⟩
  · rintro s st cur rfl
    exact ⟨_, exec_srd_args cur, st.wrotePair_retire ..⟩
  · rintro s st cur rfl
    exact ⟨_, exec_srd_link cur, st.wrotePair_retire ..⟩
  · exact fun d a s st cur => ⟨_, st.retire_moved s.cycle 1, fun alone => exec_cwr_alone cur alone, fun h m member => exec_cwr_member cur member⟩

end Sys2Proof.Machine
end

section
namespace Sys2Proof.Machine

/-! ### Loads of registers (R159, R162, R216, R217) -/

/-- The effective address, as the statements give it: the pair and the offset of IMM (R162, R215). -/
theorem Strand.ea_unique {x : Option (BitVec 25)} {k : Int} {a : BitVec 7} {ea : Strand → Nat} (zero : x = none → k = 0) (offset : ∀ y, x = some y → k = y.toInt)
    (hea : ∀ st, (ea st : Int) = ((st.pair a).toNat + k) % 2 ^ 57) (st : Strand) : ea st = (st.ea a x).toNat :=
  Int.natCast_inj.mp ((hea st).trans (st.ea_eq a x k zero offset).symm)

/-- A finished access to one place. -/
theorem single_lane {n size y : Nat} {L : List Lane} (h : L.map (fun l => (l.n, l.size, l.rdata)) = [(n, size, y)]) :
    ∃ l, L = [l] ∧ l.n = n ∧ l.size = size ∧ l.rdata = y := by
  obtain ⟨l, rfl, fields⟩ := List.map_eq_singleton_iff.mp h
  exact ⟨l, rfl, by simpa using fields⟩

/-- What a load of 8 bytes writes into a pair (R159, R216). -/
theorem entryPair_writes (st : Strand) (d : BitVec 7) (l : Lane) (fits : l.rdata < 2 ^ 64) : entryPair st d (BitVec.ofNat 64 l.rdata) =
    { writes := (MemDest.pair (st.sName d) (st.sIdx (d.toNat + 1))).writes [l], left := 0, arrived := false, flags := 0, causes := 0, tval := 0 } := by
  unfold entryPair Strand.pairWrites MemDest.writes Strand.sName
  rw [BitVec.toNat_ofNat, Nat.mod_eq_of_lt fits]
  cases st.sIdx d.toNat <;> cases st.sIdx (d.toNat + 1) <;> rfl

/-- What a load of n bytes from one place writes into a vector (R217). -/
theorem entryV_writes (st : Strand) (d : BitVec 7) (l : Lane) (first : l.n = 0) (size : l.size ≤ 32) (fits : l.rdata < 2 ^ (8 * l.size)) :
    entryV st d (BitVec.ofNat 256 l.rdata) 0 =
      { writes := (MemDest.lanes (st.vName d) 0).writes [l], left := 0, arrived := false, flags := 0, causes := 0, tval := 0 } := by
  have bytes : [l].foldl (fun v l => setBytes v (4 * l.n) (natBytesLE l.size l.rdata)) 0 = BitVec.ofNat 256 l.rdata := by
    rw [List.foldl_cons, List.foldl_nil, first]
    exact setBytes_zero _ _ size fits
  unfold entryV MemDest.writes
  dsimp only
  rw [bytes]
  cases st.vName d <;> rfl

/-- The bytes that lane i of a masked LDV of n bytes loads, in an active lane that lies within them (R217). -/
def Strand.maskedSize (st : Strand) (mk : Msk) (n i : Nat) : Option Nat := if st.runs (some mk) i ∧ 4 * i < n then some 4 else none

theorem Strand.maskedSize_some {st : Strand} {mk : Msk} {n i k : Nat} (h : st.maskedSize mk n i = some k) : st.runs (some mk) i = true ∧ k = 4 := by
  unfold Strand.maskedSize at h
  split at h
  · rename_i loads
    exact ⟨loads.1, by simpa using h.symm⟩
  · cases h

theorem Strand.vectorLanes_sizes (st : Strand) (mk : Msk) (x : Option (BitVec 25)) (a : BitVec 7) (n : Nat) :
    st.vectorLanes (some mk) x a n 0 = (List.range 8).filterMap fun i => (st.maskedSize mk n i).map fun k => (i, ((st.ea a x).toNat + 4 * i) % 2 ^ 57, k, 0) := by
  rw [Strand.vectorLanes_zero]
  refine filterMap_congr_mem fun i _ => ?_
  unfold Strand.maskedSize
  split <;> rfl

/-- What a masked LDV of n bytes leaves in its destination: the lanes loaded, those above n cleared, the inactive ones kept (R217). -/
theorem Strand.maskedSize_lane (st : Strand) (mk : Msk) (d : BitVec 7) (n : Nat) (val : Nat → Nat) {i : Nat} (hi : i < 8) :
    (if (st.maskedSize mk n i).isSome then BitVec.ofNat 32 (val i) else lane (st.loadBase (some mk) d) i) =
      if st.runs (some mk) i then (if 4 * i < n then BitVec.ofNat 32 (val i) else 0) else lane (st.v d) i := by
  rw [Strand.lane_loadBase _ _ _ _ hi]
  unfold Strand.maskedSize
  by_cases active : st.runs (some mk) i = true <;> by_cases within : 4 * i < n <;> simp [active, within]

section Loads
variable {x : Option (BitVec 25)} {l : BitVec 4} {d a : BitVec 7} {z : BitVec 2} {o : BitVec 1} {c h : BitVec 2} {ea : Strand → Nat}
  (hea : ∀ st, ea st = (st.ea a x).toNat)
include hea

/-- LDS (R216). -/
theorem lds_loads : Loads (.lds x l d a z o c h) (words [x.isSome]) l.toNat o c (fun _ _ => True) (fun st => [(0, ea st, 2 ^ z.toNat, 0)])
    fun st v => if z = 3 then entryPair st d (BitVec.ofNat 64 (v 0)) else entryS st d (BitVec.ofNat 32 (v 0)) := by
  refine loads_of (h := h) (dest := fun st => if z = 3 then .pair (st.sName d) (st.sIdx (d.toNat + 1)) else .scalar (st.sName d)) (fun s st _ _ => ?_) fun st val fits L hL => ?_
  · show execLds x l d a z o c h s = _
    unfold execLds scalarSize
    simp only [len1_words, hea]
  · obtain ⟨y, rfl, -, -, data⟩ := single_lane hL
    have room := fits _ (List.mem_singleton.mpr rfl)
    dsimp only at room ⊢
    rw [← data] at room ⊢
    by_cases pair : z = 3
    · subst pair
      exact entryPair_writes st d y room
    · rw [if_neg pair, if_neg pair]
      exact entryS_writes st d y

/-- LDV without a mask: one access of n bytes, zero-extended (R217). -/
theorem ldv_loads_whole : Loads (.ldv none x l d a z o c h) (words [x.isSome]) l.toNat o c
    (fun s st => o = 0 → ∀ e ∈ (s.core st.at_.die st.at_.core).reuse, e.key.addr ≠ ea st)
    (fun st => [(0, ea st, 32 / 2 ^ z.toNat, 0)]) fun st v => entryV st d (BitVec.ofNat 256 (v 0)) 0 := by
  have lanes : ∀ st : Strand, st.vectorLanes none x a (32 / 2 ^ z.toNat) 0 = [(0, ea st, 32 / 2 ^ z.toNat, 0)] := fun st => by
    rw [Strand.vectorLanes_none, hea, show (0 : Vec).toNat = 0 from rfl, Nat.zero_mod]
  have loads := ldv_loads (l := l) (d := d) (o := o) (c := c) (h := h) (mk := none) (entry := fun st v => entryV st d (BitVec.ofNat 256 (v 0)) 0) hea
    fun st val fits L hL => by
      rw [lanes] at fits hL
      obtain ⟨y, rfl, first, size, data⟩ := single_lane hL
      have room := fits _ (List.mem_singleton.mpr rfl)
      dsimp only at size data room ⊢
      rw [← data, ← size] at room
      rw [← data, Strand.loadBase_none]
      exact entryV_writes st d y first (size ▸ vectorSize_le z) room
  simp only [lanes] at loads
  exact loads

/-- LDV with a mask: each active lane within n bytes by itself, those above cleared (R217). -/
theorem ldv_loads_masked (mk : Msk) : Loads (.ldv (some mk) x l d a z o c h) (words [true, x.isSome]) l.toNat o c
    (fun s st => o = 0 → ∀ e ∈ (s.core st.at_.die st.at_.core).reuse, e.key.addr ≠ ea st)
    (fun st => (List.range 8).filterMap fun i =>
      if st.runs (some mk) i ∧ 4 * i < 32 / 2 ^ z.toNat then some (i, (ea st + 4 * i) % 2 ^ 57, 4, 0) else none)
    fun st v => entryV st d (ofLanes fun i =>
      if st.runs (some mk) i then (if 4 * i < 32 / 2 ^ z.toNat then BitVec.ofNat 32 (v i) else 0) else lane (st.v d) i) 0 := by
  have lanes : ∀ st : Strand, st.vectorLanes (some mk) x a (32 / 2 ^ z.toNat) 0 = (List.range 8).filterMap fun i =>
      if st.runs (some mk) i ∧ 4 * i < 32 / 2 ^ z.toNat then some (i, (ea st + 4 * i) % 2 ^ 57, 4, 0) else none := fun st => by
    rw [Strand.vectorLanes_zero, hea]
  have loads := ldv_loads (l := l) (d := d) (z := z) (o := o) (c := c) (h := h) (mk := some mk) (entry := fun st v => entryV st d (ofLanes fun i =>
      if st.runs (some mk) i then (if 4 * i < 32 / 2 ^ z.toNat then BitVec.ofNat 32 (v i) else 0) else lane (st.v d) i) 0) hea
    fun st val fits L hL => by
      rw [Strand.vectorLanes_sizes] at fits hL
      refine lanes_entry st d _ _ _ L (lanes_writes _ _ _ _ _ val L (fun i hi k sized => ?_) hL) fun i hi => st.maskedSize_lane mk d _ val hi
      obtain ⟨active, rfl⟩ := Strand.maskedSize_some sized
      have room := fits (i, ((st.ea a x).toNat + 4 * i) % 2 ^ 57, 4, 0) (List.mem_filterMap.mpr ⟨i, List.mem_range.mpr hi, by rw [sized]; rfl⟩)
      exact ⟨by rw [Strand.lane_loadBase _ _ _ _ hi, if_pos active], Nat.le_refl 4, room⟩
  simp only [lanes] at loads
  exact loads

end Loads

/-- Settles O24: LDS and LDV without a mask by the one place they read, LDV with a mask by what a load leaves lane by lane (`lanes_writes`). -/
theorem loadsSetTheirDestination : Obligations.LoadsSetTheirDestination := by
  intro mk x l d a z o c h k zero offset ea hea
  have address := Strand.ea_unique zero offset hea
  exact ⟨lds_loads address, ldv_loads_whole address, ldv_loads_masked address mk⟩

end Sys2Proof.Machine
end

section
namespace Sys2Proof.Machine

/-! ### Flags and register blocks (R69 to R73, R232, R233) -/

section Flags
variable {s : State} {st : Strand} (cur : s.curStrand = some st)
include cur

/-- FLAG SET and CLR put their change off to the end of the cycle (R232). -/
theorem exec_flagSet (n : BitVec 5) : exec (.flagSet n) s =
    .next (State.putStrand { s with flagBuf := s.flagBuf ++ [((st.at_.die, st.at_.core), n.toNat, true)] } (st.retire s.cycle 1)) :=
  State.onStrand_some cur _
theorem exec_flagClr (n : BitVec 5) : exec (.flagClr n) s =
    .next (State.putStrand { s with flagBuf := s.flagBuf ++ [((st.at_.die, st.at_.core), n.toNat, false)] } (st.retire s.cycle 1)) :=
  State.onStrand_some cur _

/-- FLAG WAIT goes on at a flag that is set, and else waits for it (R232). -/
theorem exec_flagWait_set {n : BitVec 5} (set : (s.core st.at_.die st.at_.core).flags.getLsbD n.toNat = true) :
    exec (.flagWait n) s = .next (s.putStrand (st.retire s.cycle 1)) :=
  (State.onStrand_some cur _).trans (congrArg _ (if_pos set))
theorem exec_flagWait_clear {n : BitVec 5} (clear : (s.core st.at_.die st.at_.core).flags.getLsbD n.toNat = false) :
    exec (.flagWait n) s = .next (s.putStrand (st.standsAt s.cycle 1 (.flagWait st.at_.die st.at_.core n.toNat))) :=
  (State.onStrand_some cur _).trans (congrArg _ (if_neg (by simp [clear])))

/-- FLAG TEST (R232). -/
theorem exec_flagTest (d : BitVec 3) (n : BitVec 5) : exec (.flagTest d n) s =
    .next (s.putStrand ((st.setP d (if (s.core st.at_.die st.at_.core).flags.getLsbD n.toNat then 1 else 0)).retire s.cycle 1)) :=
  State.onStrand_some cur _

end Flags

/-- A predicate register written at the end of an instruction that raises no flag. -/
theorem Strand.wroteP_retire0 (st : Strand) (cycle n : Nat) (d : BitVec 3) (x : BitVec 8) :
    st.WroteP ((st.setP d x).retire cycle n) cycle (st.past n) d x 0 := by
  have := st.wroteP_retire cycle n d x 0
  rwa [Strand.raiseFlags_zero] at this

/-- Between two states only the register contents left on cores, and the counter of free values, have changed (R73). -/
def State.OnlyLeft (s t : State) : Prop :=
  t = { s with cores := t.cores, free := t.free } ∧ ∀ e f, t.core e f = { s.core e f with leftS := (t.core e f).leftS, leftV := (t.core e f).leftV }

theorem State.onlyLeft_setCore (s : State) (d c : Nat) (l : List (Left Word)) (v : List (Left Vec)) (n : Nat) :
    s.OnlyLeft { s.setCore d c { s.core d c with leftS := l, leftV := v } with free := n } :=
  ⟨rfl, fun e f => s.core_left d c l v e f⟩

/-- Released blocks stand before the others left on the core, with the domain of the strand (R72, R73). -/
def Strand.leftBlocks {α : Type} (st : Strand) (l : List (List α)) : List (Left α) := l.map fun x => { pdom := st.pdom.toNat, data := x }

theorem Strand.leftBlocks_length {α : Type} (st : Strand) (w n k : Nat) (l : List α) (hk : k ≤ n) :
    (st.leftBlocks ((chunks w l n).drop (n - k))).length = k := by
  rw [Strand.leftBlocks, List.length_map, List.length_drop, chunks_length, Nat.sub_sub_self hk]

theorem Strand.leftBlocks_pdom {α : Type} {st : Strand} {l : List (List α)} {y : Left α} (h : y ∈ st.leftBlocks l) : y.pdom = st.pdom.toNat := by
  obtain ⟨x, -, rfl⟩ := List.mem_map.mp h
  rfl

section Blocks
variable {s : State} {st : Strand} {k : BitVec 7} (cur : s.curStrand = some st)
include cur

/-- WBASES and WBASEV (R233). -/
theorem exec_wbases : exec (.wbases k) s = .next (s.putStrand (({ st with wbs := BitVec.ofNat 3 k.toNat } : Strand).retire s.cycle 1)) := by
  have low : k.extractLsb' 0 3 = BitVec.ofNat 3 k.toNat := BitVec.eq_of_toNat_eq (by simp)
  exact (State.onStrand_some cur _).trans (by rw [low])
theorem exec_wbasev : exec (.wbasev k) s = .next (s.putStrand (({ st with wbv := BitVec.ofNat 4 k.toNat } : Strand).retire s.cycle 1)) := by
  have low : k.extractLsb' 0 4 = BitVec.ofNat 4 k.toNat := BitVec.eq_of_toNat_eq (by simp)
  exact (State.onStrand_some cur _).trans (by rw [low])

variable {vec : Bool} {limit n : Nat} {word : Word}

/-- A request for no block passes (R233). -/
theorem xacq_none : xacq vec limit word 0 s = .next (s.putStrand (st.retire s.cycle 1)) :=
  State.onStrand_some cur _

/-- A request beyond the limit raises OPLIM (R69, R233). -/
theorem xacq_beyond (some : n ≠ 0) (beyond : limit < (if vec then st.nvb else st.nsb) + n) :
    xacq vec limit word n s = .next (s.raise st (1 <<< 2) (word.zeroExtend 64)) :=
  (State.onStrand_some cur _).trans (congrArg _ ((if_neg some).trans (if_pos beyond)))

/-- A request that no other waits before, and that the core has the blocks for, is granted (R71, R72, R233). -/
theorem xacq_grants (some : n ≠ 0) (within : (if vec then st.nvb else st.nsb) + n ≤ limit)
    (first : (if vec then (s.core st.at_.die st.at_.core).waitV else (s.core st.at_.die st.at_.core).waitS) = [])
    (free : s.canGrant st.at_.die st.at_.core vec n = true) :
    xacq vec limit word n s = .next ((s.grant st vec n).1.putStrand ((s.grant st vec n).2.retire (s.grant st vec n).1.cycle 1)) :=
  (State.onStrand_some cur _).trans (congrArg _ ((if_neg some).trans ((if_neg (by omega)).trans (if_pos (by rw [first, free]; rfl)))))

/-- Any other request waits behind those before it (R72, R233). -/
theorem xacq_waits (some : n ≠ 0) (within : (if vec then st.nvb else st.nsb) + n ≤ limit)
    (held : (if vec then (s.core st.at_.die st.at_.core).waitV else (s.core st.at_.die st.at_.core).waitS) ≠ [] ∨ s.canGrant st.at_.die st.at_.core vec n = false) :
    xacq vec limit word n s = .next ((s.setCore st.at_.die st.at_.core
      (if vec then { s.core st.at_.die st.at_.core with waitV := (s.core st.at_.die st.at_.core).waitV ++ [st.at_] }
        else { s.core st.at_.die st.at_.core with waitS := (s.core st.at_.die st.at_.core).waitS ++ [st.at_] })).putStrand
      (st.standsAt s.cycle 1 (.xacq vec n))) :=
  (State.onStrand_some cur _).trans (congrArg _ ((if_neg some).trans ((if_neg (by omega)).trans (if_neg (by
    rw [Bool.and_eq_true, List.isEmpty_iff]
    rintro ⟨first, free⟩
    exact held.elim (· first) (by simp [free]))))))

/-- A release down to no block raises OPLIM (R69, R233). -/
theorem xrel_beyond (beyond : (if vec then st.nvb else st.nsb) ≤ n) : xrel vec word n s = .next (s.raise st (1 <<< 2) (word.zeroExtend 64)) :=
  (State.onStrand_some cur _).trans (congrArg _ (if_pos beyond))

/-- A release of blocks: what is in flight to them lands first (R70, R233). -/
theorem xrel_scalar (within : n < st.nsb) {x : Strand} (hx : x = st.landAbove false (32 * (st.nsb - n))) : xrel false word n s =
    .next ((s.releaseBlocks x (st.nsb - n) x.nvb).putStrand
      (({ x with nsb := st.nsb - n, sregs := x.sregs.take (32 * (st.nsb - n)) } : Strand).retire s.cycle 1)) := by
  subst hx
  exact (State.onStrand_some cur _).trans (congrArg _ ((if_neg (Nat.not_le.mpr within)).trans (if_neg Bool.false_ne_true)))
theorem xrel_vector (within : n < st.nvb) {x : Strand} (hx : x = st.landAbove true (16 * (st.nvb - n))) : xrel true word n s =
    .next ((s.releaseBlocks x x.nsb (st.nvb - n)).putStrand
      (({ x with nvb := st.nvb - n, vregs := x.vregs.take (16 * (st.nvb - n)) } : Strand).retire s.cycle 1)) := by
  subst hx
  exact (State.onStrand_some cur _).trans (congrArg _ ((if_neg (Nat.not_le.mpr within)).trans (if_pos rfl)))

end Blocks

/-- What a grant of blocks changes, and what the strand then holds (R71 to R73). -/
theorem State.grant_scalar (s : State) (st : Strand) (n : Nat) : s.OnlyLeft (s.grant st false n).1 ∧
    ∃ l, l.length = 32 * n ∧ (s.grant st false n).2 = { st with nsb := st.nsb + n, sregs := st.sregs ++ l } :=
  ⟨s.onlyLeft_setCore .., _, grantBlocks_length .., rfl⟩
theorem State.grant_vector (s : State) (st : Strand) (n : Nat) : s.OnlyLeft (s.grant st true n).1 ∧
    ∃ l, l.length = 16 * n ∧ (s.grant st true n).2 = { st with nvb := st.nvb + n, vregs := st.vregs ++ l } :=
  ⟨s.onlyLeft_setCore .., _, grantBlocks_length .., rfl⟩

theorem State.OnlyLeft.cycle {s t : State} (h : s.OnlyLeft t) : t.cycle = s.cycle := by rw [h.1]

/-- What a release of blocks changes (R72, R73). -/
theorem State.releaseBlocks_onlyLeft (s : State) (x : Strand) (a b : Nat) : s.OnlyLeft (s.releaseBlocks x a b) := s.onlyLeft_setCore ..

theorem State.releaseBlocks_leftS (s : State) (x : Strand) (a b : Nat) : ((s.releaseBlocks x a b).core x.at_.die x.at_.core).leftS =
    x.leftBlocks ((chunks 32 x.sregs x.nsb).drop a) ++ (s.core x.at_.die x.at_.core).leftS := by
  unfold State.releaseBlocks
  rw [State.core_setCore]
  rfl
theorem State.releaseBlocks_leftV (s : State) (x : Strand) (a b : Nat) : ((s.releaseBlocks x a b).core x.at_.die x.at_.core).leftV =
    x.leftBlocks ((chunks 16 x.vregs x.nvb).drop b) ++ (s.core x.at_.die x.at_.core).leftV := by
  unfold State.releaseBlocks
  rw [State.core_setCore]
  rfl

/-- Writes that land in blocks to be released leave the strand's place, domain and allocation (R70). -/
theorem Strand.landAbove_keeps (st : Strand) (vec : Bool) (lim : Nat) : (st.landAbove vec lim).at_ = st.at_ ∧ (st.landAbove vec lim).pdom = st.pdom ∧
    (st.landAbove vec lim).pc = st.pc ∧ (st.landAbove vec lim).nsb = st.nsb ∧ (st.landAbove vec lim).nvb = st.nvb := by
  rw [st.landAbove_rest]
  exact ⟨rfl, rfl, rfl, rfl, rfl⟩

section Requests
variable {s : State} {st : Strand} {k : BitVec 7} (cur : s.curStrand = some st)
include cur

theorem exec_xacqs_grants (some : k ≠ 0) (within : st.nsb + k.toNat ≤ 8) (first : (s.core st.at_.die st.at_.core).waitS = [])
    (free : s.usedS st.at_.die st.at_.core + k.toNat ≤ 1024) :
    ∃ t u l, exec (.xacqs k) s = .next (t.putStrand u) ∧ s.OnlyLeft t ∧ l.length = 32 * k.toNat ∧
      ({ st with nsb := st.nsb + k.toNat, sregs := st.sregs ++ l } : Strand).OnlyMoved u s.cycle (st.past 1) := by
  obtain ⟨left, l, length, after⟩ := s.grant_scalar st k.toNat
  have run := xacq_grants cur (word := wordA 0x5A 2 0 0 k) (vec := false) (fun h => some (BitVec.eq_of_toNat_eq h)) within first (by simpa [State.canGrant] using free)
  rw [after, left.cycle] at run
  exact ⟨_, _, l, run, left, length, Strand.set_retire st _ _ 1 rfl⟩

theorem exec_xacqv_grants (some : k ≠ 0) (within : st.nvb + k.toNat ≤ 16) (first : (s.core st.at_.die st.at_.core).waitV = [])
    (free : s.usedV st.at_.die st.at_.core + k.toNat ≤ 896) :
    ∃ t u l, exec (.xacqv k) s = .next (t.putStrand u) ∧ s.OnlyLeft t ∧ l.length = 16 * k.toNat ∧
      ({ st with nvb := st.nvb + k.toNat, vregs := st.vregs ++ l } : Strand).OnlyMoved u s.cycle (st.past 1) := by
  obtain ⟨left, l, length, after⟩ := s.grant_vector st k.toNat
  have run := xacq_grants cur (word := wordA 0x5A 3 0 0 k) (vec := true) (fun h => some (BitVec.eq_of_toNat_eq h)) within first (by simpa [State.canGrant] using free)
  rw [after, left.cycle] at run
  exact ⟨_, _, l, run, left, length, Strand.set_retire st _ _ 1 rfl⟩

theorem exec_xrels_releases (within : k.toNat < st.nsb) {x : Strand} (hx : x = st.landAbove false (32 * (st.nsb - k.toNat))) :
    ∃ t u l, exec (.xrels k) s = .next (t.putStrand u) ∧ s.OnlyLeft t ∧
      (t.core st.at_.die st.at_.core).leftS = l ++ (s.core st.at_.die st.at_.core).leftS ∧ l.length = k.toNat ∧ (∀ y ∈ l, y.pdom = st.pdom.toNat) ∧
      ({ x with nsb := st.nsb - k.toNat, sregs := x.sregs.take (32 * (st.nsb - k.toNat)) } : Strand).OnlyMoved u s.cycle (st.past 1) := by
  obtain ⟨place, domain, pc, nsb, -⟩ : x.at_ = st.at_ ∧ x.pdom = st.pdom ∧ x.pc = st.pc ∧ x.nsb = st.nsb ∧ x.nvb = st.nvb := hx ▸ st.landAbove_keeps ..
  rw [← place, ← domain]
  exact ⟨_, _, _, xrel_scalar cur within hx, s.releaseBlocks_onlyLeft .., s.releaseBlocks_leftS .., nsb ▸ x.leftBlocks_length _ _ _ _ (by omega),
    fun y => Strand.leftBlocks_pdom, Strand.set_retire st _ _ 1 pc⟩

theorem exec_xrelv_releases (within : k.toNat < st.nvb) {x : Strand} (hx : x = st.landAbove true (16 * (st.nvb - k.toNat))) :
    ∃ t u l, exec (.xrelv k) s = .next (t.putStrand u) ∧ s.OnlyLeft t ∧
      (t.core st.at_.die st.at_.core).leftV = l ++ (s.core st.at_.die st.at_.core).leftV ∧ l.length = k.toNat ∧ (∀ y ∈ l, y.pdom = st.pdom.toNat) ∧
      ({ x with nvb := st.nvb - k.toNat, vregs := x.vregs.take (16 * (st.nvb - k.toNat)) } : Strand).OnlyMoved u s.cycle (st.past 1) := by
  obtain ⟨place, domain, pc, -, nvb⟩ : x.at_ = st.at_ ∧ x.pdom = st.pdom ∧ x.pc = st.pc ∧ x.nsb = st.nsb ∧ x.nvb = st.nvb := hx ▸ st.landAbove_keeps ..
  rw [← place, ← domain]
  exact ⟨_, _, _, xrel_vector cur within hx, s.releaseBlocks_onlyLeft .., s.releaseBlocks_leftV .., nvb ▸ x.leftBlocks_length _ _ _ _ (by omega),
    fun y => Strand.leftBlocks_pdom, Strand.set_retire st _ _ 1 pc⟩

end Requests

/-- Settles O35: FLAG by the flag it names, a request for blocks by whether it is within the limit and can be granted (`xacq`), and a release
by what it leaves (`State.releaseBlocks`). -/
theorem flagsAndRegisterBlocks : Obligations.FlagsAndRegisterBlocks := by
  rintro d n k s st cur c rfl oplim rfl stays rfl
  have nonzero : k ≠ 0 → k.toNat ≠ 0 := fun some h => some (BitVec.eq_of_toNat_eq h)
  refine ⟨⟨_, exec_flagSet cur n, st.retire_moved ..⟩, ⟨_, exec_flagClr cur n, st.retire_moved ..⟩, fun set => ⟨_, exec_flagWait_set cur set, st.retire_moved ..⟩,
    exec_flagWait_clear cur, ⟨_, exec_flagTest cur d n, st.wroteP_retire0 ..⟩, ⟨_, exec_wbases cur, Strand.set_retire st _ _ 1 rfl⟩,
    ⟨_, exec_wbasev cur, Strand.set_retire st _ _ 1 rfl⟩, ?_, exec_xacqs_grants cur, exec_xacqv_grants cur, ?_, ?_, ?_, ?_,
    fun within x => exec_xrels_releases cur within, fun within x => exec_xrelv_releases cur within, ?_, ?_⟩
  · rintro rfl
    exact ⟨⟨_, xacq_none cur, st.retire_moved ..⟩, ⟨_, xacq_none cur, st.retire_moved ..⟩⟩
  · exact fun some within held => xacq_waits cur (vec := false) (nonzero some) within (held.imp id fun full => by simpa [State.canGrant] using full)
  · exact fun some within held => xacq_waits cur (vec := true) (nonzero some) within (held.imp id fun full => by simpa [State.canGrant] using full)
  · exact fun some beyond => xacq_beyond cur (vec := false) (nonzero some) beyond
  · exact fun some beyond => xacq_beyond cur (vec := true) (nonzero some) beyond
  · exact fun beyond => xrel_beyond cur (vec := false) beyond
  · exact fun beyond => xrel_beyond cur (vec := true) beyond

end Sys2Proof.Machine
end

section
namespace Sys2Proof.Machine

/-! ### Remote writes and mailboxes (R77, R78, R117 to R120, R230, R231) -/

/-! Closing its windows leaves what a strand is (R42). -/

@[simp] theorem Strand.closeWindows_at_ (st : Strand) : st.closeWindows.at_ = st.at_ := by rw [st.closeWindows_rest]
@[simp] theorem Strand.closeWindows_bundle (st : Strand) : st.closeWindows.bundle = st.bundle := by rw [st.closeWindows_rest]
@[simp] theorem Strand.closeWindows_task (st : Strand) : st.closeWindows.task = st.task := by rw [st.closeWindows_rest]
@[simp] theorem Strand.closeWindows_sid (st : Strand) : st.closeWindows.sid = st.sid := by rw [st.closeWindows_rest]
@[simp] theorem Strand.closeWindows_pdom (st : Strand) : st.closeWindows.pdom = st.pdom := by rw [st.closeWindows_rest]
@[simp] theorem Strand.closeWindows_partid (st : Strand) : st.closeWindows.partid = st.partid := by rw [st.closeWindows_rest]
@[simp] theorem Strand.closeWindows_level (st : Strand) : st.closeWindows.level = st.level := by rw [st.closeWindows_rest]

@[simp] theorem State.bundleOf_closeWindows (s : State) (st : Strand) : s.bundleOf st.closeWindows = s.bundleOf st := by
  unfold State.bundleOf
  rw [st.closeWindows_bundle]

section RemoteWrites
variable {s : State} {st : Strand} {d a b : BitVec 7} {vec : Bool} (cur : s.curStrand = some st)
include cur

/-- RWR to a bundle of the strand's domain sends a deposit (R77, R230). -/
theorem rwr_sends {g : Bundle} (hg : s.bundle? (st.s b).toNat = some g) (domain : g.pdom = st.pdom) : rwr vec d a b s =
    .next (State.putStrand { s with nextId := s.nextId + 1, deposits := s.deposits ++
      [⟨s.nextId, (st.s b).toNat, (st.sNext b).toNat % 512, vec, d.toNat, st.s a, st.v a, (st.task, st.sid)⟩] } (st.retire s.cycle 1)) := by
  have index : ((st.sNext b).extractLsb' 0 9).toNat = (st.sNext b).toNat % 512 := by simp
  refine (State.onStrand_some cur _).trans (congrArg _ ?_)
  dsimp only
  rw [hg, index]
  exact if_pos domain

/-- RWR to any other is discarded (R77, R230). -/
theorem rwr_discards (foreign : ∀ g, s.bundle? (st.s b).toNat = some g → g.pdom ≠ st.pdom) : rwr vec d a b s = .next (s.putStrand (st.retire s.cycle 1)) := by
  refine (State.onStrand_some cur _).trans (congrArg _ ?_)
  dsimp only
  cases hg : s.bundle? (st.s b).toNat with
  | none => rfl
  | some g => exact if_neg (foreign g hg)

/-- RWAIT passes at once, or with its windows closed, or waits (R78, R230). -/
theorem exec_rwait_passes (met : s.arrived st (st.s a) = true) : exec (.rwait a) s = .next (s.putStrand (st.retire s.cycle 1)) :=
  (State.onStrand_some cur _).trans (congrArg _ (if_pos met))
theorem exec_rwait_closed (unmet : s.arrived st (st.s a) ≠ true) (met : s.arrived st (st.closeWindows.s a) = true) :
    exec (.rwait a) s = .next (s.putStrand (st.closeWindows.retire s.cycle 1)) := by
  refine (State.onStrand_some cur _).trans (congrArg _ ((if_neg unmet).trans (if_pos ?_)))
  unfold State.arrived
  rw [State.bundleOf_closeWindows]
  exact met
theorem exec_rwait_waits (unmet : s.arrived st (st.s a) ≠ true) (closed : s.arrived st (st.closeWindows.s a) ≠ true) :
    exec (.rwait a) s = .next (s.putStrand (st.standsAt s.cycle 1 (.rwait (st.closeWindows.s a)))) := by
  refine (State.onStrand_some cur _).trans (congrArg _ ((if_neg unmet).trans ((if_neg ?_).trans ?_)))
  · unfold State.arrived
    rw [State.bundleOf_closeWindows]
    exact closed
  · rw [Strand.closed_block]

end RemoteWrites

/-- A deposit takes effect when its bundle is resident and no earlier one of its sender to the bundle is on its way (R77, R78). -/
theorem exec_rwrDeposit {s : State} {dep : Deposit} {g : Bundle} (found : s.deposits.find? (fun y => y.id = dep.id) = some dep)
    (hg : s.bundle? dep.bundle = some g) (resident : g.evicted = false)
    (next : ∀ y ∈ s.deposits, y.id ≠ dep.id → y.src = dep.src → y.bundle = dep.bundle → dep.id ≤ y.id) : exec (.rwrDeposit dep.id) s = .next (s.deposit dep) := by
  have first : (s.deposits.filter fun y => y.id != dep.id).any (fun y => y.src = dep.src && y.bundle = dep.bundle && y.id < dep.id) = false := by
    rw [List.any_eq_false]
    intro y hy
    obtain ⟨here, other⟩ := List.mem_filter.mp hy
    simp only [Bool.and_eq_true, decide_eq_true_eq]
    rintro ⟨⟨src, bundle⟩, earlier⟩
    exact Nat.not_le.mpr earlier (next y here (by simpa using other) src bundle)
  show execRwrDeposit dep.id s = _
  unfold execRwrDeposit
  rw [found]
  dsimp only
  rw [hg]
  dsimp only
  rw [resident, first]
  rfl

/-- What a deposit changes (R77, R78). -/
theorem State.deposit_eq (s : State) (dep : Deposit) : s.deposit dep = { s with
    deposits := s.deposits.filter (fun y => y.id ≠ dep.id)
    strands := s.strands.map dep.write
    bundles := s.bundles.map fun y => if y.handle = dep.bundle then { y with arrive := y.arrive + 1 } else y } := by
  have others : (fun y : Deposit => y.id != dep.id) = fun y => decide (y.id ≠ dep.id) := by
    funext y
    by_cases same : y.id = dep.id <;> simp [same]
  unfold State.deposit State.mapBundle
  rw [others]

/-- A deposit reaches only the member that it names (R77). -/
theorem Deposit.write_other {dep : Deposit} {y : Strand} (other : y.bundle ≠ some (dep.bundle, dep.mid)) : dep.write y = y := if_neg other

/-- In the member that it names, the instruction that stands there writes the register no more (R77, R79). -/
theorem Deposit.write_member {dep : Deposit} {y : Strand} (member : y.bundle = some (dep.bundle, dep.mid)) : dep.write y =
    match (if dep.vec then y.vIdx dep.name else y.sIdx dep.name) with
    | none => if dep.vec then y.setVAt none dep.vval else y.setSAt none dep.sval
    | some i => { (if dep.vec then y.setVAt (some i) dep.vval else y.setSAt (some i) dep.sval) with
        blocked := (if dep.vec then y.setVAt (some i) dep.vval else y.setSAt (some i) dep.sval).blocked.map fun b => { b with wait := b.wait.dropReg dep.vec i } } := by
  refine (if_pos member).trans ?_
  dsimp only
  cases (if dep.vec then y.vIdx dep.name else y.sIdx dep.name) <;> rfl

/-! The counts that sibling cores keep of a mailbox (R118). -/

/-- The cores of a cluster, as `siblings` lists them, are different. -/
theorem cluster_nodup (c n : Nat) : ((List.range n).map fun i => c / 4 * 4 + i).Nodup :=
  List.Pairwise.map _ (fun _ _ other same => other (Nat.add_left_cancel same)) List.nodup_range

theorem siblings_nodup (c : Nat) : (siblings c).Nodup := List.Pairwise.filter _ (cluster_nodup c 4)

theorem mem_siblings {o c : Nat} : o ∈ siblings c ↔ o / 4 = c / 4 ∧ o ≠ c := by
  unfold siblings
  simp only [List.mem_filter, List.mem_map, List.mem_range, bne_iff_ne]
  refine and_congr_left fun _ => ⟨?_, fun same => ⟨o % 4, by omega, by omega⟩⟩
  rintro ⟨i, hi, rfl⟩
  omega

theorem siblings_length (c : Nat) : (siblings c).length = 3 := by
  have own : c ∈ (List.range 4).map fun i => c / 4 * 4 + i := List.mem_map.mpr ⟨c % 4, List.mem_range.mpr (by omega), by omega⟩
  unfold siblings
  rw [← (cluster_nodup c 4).erase_eq_filter, List.length_erase_of_mem own, List.length_map, List.length_range]

/-- A list read within its length (the model's files import no Mathlib, where this is `List.getD_eq_getElem`). -/
theorem getD_of_lt {α : Type} {l : List α} {i : Nat} (h : i < l.length) (x : α) : l.getD i x = l[i] := by
  rw [List.getD_eq_getElem?_getD, List.getElem?_eq_getElem h, Option.getD_some]

/-- The place at which a core lists a sibling. -/
theorem sibling_eq_iff {f c : Nat} (member : f ∈ siblings c) : (siblings f).findIdx (· = c) < 3 ∧ ∀ i < 3, sibling f i = c ↔ i = (siblings f).findIdx (· = c) := by
  have listed : c ∈ siblings f := mem_siblings.mpr ⟨(mem_siblings.mp member).1.symm, (mem_siblings.mp member).2.symm⟩
  have place : (siblings f).findIdx (· = c) = (siblings f).idxOf c := rfl
  rw [place]
  refine ⟨siblings_length f ▸ List.idxOf_lt_length_of_mem listed, fun i hi => ?_⟩
  have within : i < (siblings f).length := by rwa [siblings_length]
  unfold sibling
  rw [getD_of_lt within]
  constructor
  · rintro rfl
    exact ((siblings_nodup f).idxOf_getElem i within).symm
  · rintro rfl
    exact List.getElem_idxOf _

/-- A count entered in a core's table. -/
def Core.keepCount (k : Core) (i n free : Nat) : Core := { k with mboxFree := k.mboxFree.set i ((k.mboxFree.getD i []).set n free) }

theorem Core.keepCount_at {k : Core} {i n : Nat} (rows : k.mboxFree.length = 3) (boxes : ∀ l ∈ k.mboxFree, l.length = 8) (hi : i < 3) (hn : n < 8) (free j m : Nat) :
    ((k.keepCount i n free).mboxFree.getD j []).getD m 0 = if j = i ∧ m = n then free else (k.mboxFree.getD j []).getD m 0 := by
  have row : (k.mboxFree.getD i []).length = 8 := by
    rw [getD_of_lt (by omega)]
    exact boxes _ (List.getElem_mem _)
  show (List.getD (List.set ..) j []).getD m 0 = _
  rw [getD_set (by omega)]
  by_cases same : j = i
  · subst same
    rw [if_pos rfl, getD_set (by omega)]
    simp only [true_and]
  · rw [if_neg same, if_neg fun both => same both.1]

/-- Cores of a die changed one after another. -/
theorem State.core_foldl_setCore (d : Nat) (g : Nat → Core → Core) {l : List Nat} (once : l.Nodup) (s : State) (e f : Nat) :
    (l.foldl (fun s o => s.setCore d o (g o (s.core d o))) s).core e f = if e = d ∧ f ∈ l then g f (s.core e f) else s.core e f := by
  induction l generalizing s with
  | nil => simp
  | cons o l ih =>
    obtain ⟨new, once⟩ := List.nodup_cons.mp once
    rw [List.foldl_cons, ih once]
    by_cases here : (e, f) = (d, o)
    · cases here
      simp [new]
    · rw [State.core_setCore_other _ _ here]
      have other : e = d ∧ f ∈ o :: l ↔ e = d ∧ f ∈ l := by
        rw [List.mem_cons]
        exact ⟨fun ⟨die, h⟩ => ⟨die, h.resolve_left fun core => here (by rw [die, core])⟩, fun ⟨die, h⟩ => ⟨die, .inr h⟩⟩
      simp only [other]

/-- The count that a mailbox returns reaches its core's siblings (R118). -/
theorem State.returnCount_core (s : State) (d c n e f : Nat) : (s.returnCount d c n).core e f =
    if e = d ∧ f ∈ siblings c then (s.core e f).keepCount ((siblings f).findIdx (· = c)) n (16 - ((s.core d c).mboxes.getD n Mailbox.reset).items.length)
    else s.core e f :=
  State.core_foldl_setCore d (fun o k => k.keepCount ((siblings o).findIdx (· = c)) n _) (siblings_nodup c) s e f

theorem State.returnCount_cycle (s : State) (d c n : Nat) : (s.returnCount d c n).cycle = s.cycle := by rw [s.returnCount_rest]

/-- Every other count stays (R118). -/
theorem State.returnCount_counts (s : State) (d c : Nat) {n : Nat} (hn : n < 8) (e f : Nat) :
    (∃ fs, (s.returnCount d c n).core e f = { s.core e f with mboxFree := fs }) ∧
    ((s.core e f).mboxFree.length = 3 → (∀ l ∈ (s.core e f).mboxFree, l.length = 8) →
      ∀ i < 3, ∀ m < 8, (((s.returnCount d c n).core e f).mboxFree.getD i []).getD m 0 =
        if e = d ∧ f ∈ siblings c ∧ sibling f i = c ∧ m = n then 16 - ((s.core d c).mboxes.getD n Mailbox.reset).items.length
        else ((s.core e f).mboxFree.getD i []).getD m 0) := by
  rw [State.returnCount_core]
  by_cases reached : e = d ∧ f ∈ siblings c
  · obtain ⟨within, place⟩ := sibling_eq_iff reached.2
    rw [if_pos reached]
    refine ⟨⟨_, rfl⟩, fun rows boxes i hi m _ => ?_⟩
    rw [Core.keepCount_at rows boxes within hn]
    simp only [reached, true_and, place i hi]
  · rw [if_neg reached]
    exact ⟨⟨_, rfl⟩, fun _ _ i _ m _ => (if_neg fun ⟨die, core, _⟩ => reached ⟨die, core⟩).symm⟩

/-- The mailbox of the strand's core (R117). -/
def State.mailbox (s : State) (st : Strand) (k : Nat) : Mailbox := (s.core st.at_.die st.at_.core).mboxes.getD k Mailbox.reset

/-- The state with that mailbox changed. -/
def State.putMailbox (s : State) (st : Strand) (k : Nat) (m : Mailbox) : State :=
  s.setCore st.at_.die st.at_.core { s.core st.at_.die st.at_.core with mboxes := (s.core st.at_.die st.at_.core).mboxes.set k m }

section Mailboxes
variable {s : State} {st : Strand} {k : BitVec 3} {a d m : BitVec 7} (cur : s.curStrand = some st)
include cur

/-- QSEND (R118, R119, R231). -/
theorem exec_qsend {o : Offer} (ho : o = ⟨s.nextId, st.at_.die, st.at_.core, st.at_.slot, st.task, st.sid, k.toNat, m, st.closeWindows.v a, st.pdom.toNat,
      st.bundle.map Prod.fst, st.level⟩) {t : State}
    (ht : t = State.putStrand { s with nextId := s.nextId + 1, offers := s.offers ++ [o] } (st.standsAt s.cycle 1 (.qsend s.nextId))) :
    exec (.qsend k m a) s = .next (if m.getLsbD 6 then t.portOffer o st.partid.toNat else t) := by
  subst ho ht
  refine (State.onStrand_some cur _).trans (congrArg _ ?_)
  simp only [Strand.closed_block, Strand.closeWindows_at_, Strand.closeWindows_bundle, Strand.closeWindows_task, Strand.closeWindows_sid, Strand.closeWindows_pdom,
    Strand.closeWindows_partid, Strand.closeWindows_level]

/-- QRECV of a strand without a bundle (R231, R350). -/
theorem exec_qrecv_alone (alone : st.bundle = none) : exec (.qrecv k d) s = .next (s.raise st (1 <<< 35) ((wordA 0x57 (0#1 ++ k) d 0 0).zeroExtend 64)) :=
  (State.onStrand_some cur _).trans (by rw [alone]; rfl)

variable {h j : Nat} (member : st.bundle = some (h, j))
include member

/-- QRECV on a mailbox that another bundle has claimed (R117, R350). -/
theorem exec_qrecv_claimed (claimed : (s.mailbox st k.toNat).claim ≠ 0) (other : (s.mailbox st k.toNat).claim ≠ h) :
    exec (.qrecv k d) s = .next (s.raise st (1 <<< 35) ((wordA 0x57 (0#1 ++ k) d 0 0).zeroExtend 64)) := by
  refine (State.onStrand_some cur _).trans (congrArg _ ?_)
  dsimp only
  rw [member]
  exact if_pos (by simpa [State.mailbox] using ⟨claimed, other⟩)

/-- QRECV of an entry: the oldest (R118, R120, R231). -/
theorem exec_qrecv_takes (mine : (s.mailbox st k.toNat).claim = 0 ∨ (s.mailbox st k.toNat).claim = h) {e : Vec} {r : List Vec} (items : (s.mailbox st k.toNat).items = e :: r) :
    exec (.qrecv k d) s = .next (((s.putMailbox st k.toNat { head := ((s.mailbox st k.toNat).head + 1) % 16, items := r, claim := h }).returnCount
      st.at_.die st.at_.core k.toNat).putStrand ((st.setV d e).retire s.cycle 1)) := by
  refine (State.onStrand_some cur _).trans (congrArg _ ?_)
  unfold State.mailbox at mine items ⊢
  dsimp only
  rw [member]
  refine (if_neg ?_).trans ?_
  · rw [Bool.and_eq_true, decide_eq_true_eq, decide_eq_true_eq]
    exact fun ⟨claimed, other⟩ => mine.elim claimed other
  · rw [items]
    dsimp only [State.pass]
    rw [State.returnCount_cycle]
    rfl

/-- QRECV on an empty mailbox waits, with the mailbox claimed (R117, R120, R231). -/
theorem exec_qrecv_waits (mine : (s.mailbox st k.toNat).claim = 0 ∨ (s.mailbox st k.toNat).claim = h) (items : (s.mailbox st k.toNat).items = []) :
    exec (.qrecv k d) s = .next ((s.putMailbox st k.toNat { s.mailbox st k.toNat with claim := h }).putStrand (st.standsAt s.cycle 1 (.qrecv k.toNat (st.vName d)))) := by
  refine (State.onStrand_some cur _).trans (congrArg _ ?_)
  unfold State.mailbox at mine items ⊢
  dsimp only
  rw [member]
  refine (if_neg ?_).trans ?_
  · rw [Bool.and_eq_true, decide_eq_true_eq, decide_eq_true_eq]
    exact fun ⟨claimed, other⟩ => mine.elim claimed other
  · rw [items]
    rfl

end Mailboxes

/-- Settles O34: a deposit by the member it names, RWAIT by the arrivals it has seen, QRECV by who holds the mailbox and what it holds, and the counts
of the siblings by `State.returnCount_core`. -/
theorem remoteWritesAndMailboxes : Obligations.RemoteWritesAndMailboxes := by
  rintro d a b k m s st cur x rfl passes rfl box rfl put rfl
  refine ⟨?_, ?_, ?_, ?_, ?_, ?_, fun o ho t ht => exec_qsend cur ho ht, ?_, s.returnCount_counts _ _ k.isLt, ?_, ?_⟩
  · rintro vec i rfl
    have run : exec (if vec then .rwrVector d a b else .rwrScalar d a b) s = rwr vec d a b s := by cases vec <;> rfl
    rw [run]
    refine ⟨?_, fun foreign => ⟨_, rwr_discards cur foreign, st.retire_moved ..⟩⟩
    rintro ⟨g, hg, domain⟩ dep rfl
    exact ⟨_, rwr_sends cur hg domain, st.retire_moved ..⟩
  · intro id dep g found hg resident next
    obtain rfl : dep.id = id := by simpa using List.find?_some found
    rw [exec_rwrDeposit found hg resident next, State.deposit_eq]
  · refine fun dep y => ⟨Deposit.write_other, ?_⟩
    rintro member j hj z rfl
    rw [Deposit.write_member member, hj]
    exact ⟨by rintro rfl; rfl, by rintro i rfl; rfl⟩
  · exact fun met => ⟨_, exec_rwait_passes cur ((s.arrived_iff ..).mpr met), st.retire_moved ..⟩
  · exact fun unmet met => ⟨_, exec_rwait_closed cur (mt (s.arrived_iff ..).mp unmet) ((s.arrived_iff ..).mpr met), st.closed_retire ..⟩
  · exact fun unmet closed => exec_rwait_waits cur (mt (s.arrived_iff ..).mp unmet) (mt (s.arrived_iff ..).mp closed)
  · exact fun h j e r member mine items => ⟨_, exec_qrecv_takes cur member mine items, st.wroteV_retire0 ..⟩
  · exact fun h j member mine items => exec_qrecv_waits cur member mine items
  · rintro (alone | ⟨h, j, member, claimed, other⟩)
    · exact exec_qrecv_alone cur alone
    · exact exec_qrecv_claimed cur member claimed other

end Sys2Proof.Machine
end

section
namespace Sys2Proof.Machine

/-! ### Tiles (R122, R277) -/

/-- TREL of a tile that the strand may name (R277). -/
theorem exec_trel {s : State} {st : Strand} {a : BitVec 7} (cur : s.curStrand = some st) (named : (s.strandTile st (st.s a).toNat).isSome = true) :
    exec (.trel a) s = .next ((s.releaseTile (st.s a).toNat).putStrand (st.retire s.cycle 1)) := by
  refine (State.onStrand_some cur _).trans (congrArg _ ?_)
  dsimp only
  rw [if_pos named]
  rfl

/-- An empty tile, entry 0 of its core's table, with sequence number 1: one row of 24 elements of format 0 in granule 0 (R121, R122). -/
def emptyTile : Tile := ⟨0, 0x00180001006000001800000100000000, 0, 1, 0, none, false⟩

/-- A CE command at its start, whose record names the tile as its destination (R122, R251). -/
def fillsEmptyTile : EngRun :=
  { State.freshRun State.reset { record := firstAddr, task := 0, pdom := 0, partid := 0, bundle := none, group := 0, engines := 0, rdv := none, engTask := false, ring := none } with
    words := BitVec.ofNat 512 (tileHandle 1 0 emptyTile * 2 ^ 320), stage := 1 }

/-- A strand with the tile's handle in s0. -/
def tileHolder : Strand := { firstStrand State.reset with sregs := BitVec.ofNat 32 (tileHandle 1 0 emptyTile) :: List.replicate 31 0 }

/-- The strand is issuing, and the command runs on its core. -/
def namedTileIssues : State :=
  { State.reset with
    strands := [tileHolder], cur := some firstSlot
    cores := [((1, 0), { Core.reset with tiles := [emptyTile], ce := { queue := [], run := some fillsEmptyTile } })] }

/-- An empty tile that a command names drains, and is marked to stay while the command names it (R277; log entry 40). -/
theorem releaseTile_named : ((namedTileIssues.releaseTile (tileHolder.s 0).toNat).core 1 0).tiles = [{ emptyTile with state := 3, marked := true }] := by decide +kernel

/-- Refutes O36: TREL of an empty tile that a command already names marks it (R277: it is not freed in the next cycle), where the statement lets
nothing of the tile but its state change. -/
theorem not_tilesAreReservedAndReleased : ¬ Obligations.TilesAreReservedAndReleased := by
  intro h
  have cur : namedTileIssues.curStrand = some tileHolder := by decide
  obtain ⟨-, release, -⟩ := h 0 0 0 namedTileIssues tileHolder cur 1 0 rfl rfl _ rfl _ rfl _ rfl _ rfl _ rfl
  obtain ⟨u, ran, -⟩ := release emptyTile (by decide)
  rw [exec_trel cur (by decide)] at ran
  have tiles := congrArg (fun s : State => (s.core 1 0).tiles) (Host.Outcome.next.inj ran)
  simp only [State.core_putStrand, State.core_setCore, releaseTile_named] at tiles
  exact absurd tiles (by decide)

end Sys2Proof.Machine
end

section
namespace Sys2Proof.Machine

/-! ### Events of the memory system (R118, R124, R133, R223, R359, R369, R372, R373, R378) -/

section Walks
variable {s : State} {die pdom page : Nat} {e : MergeEntry}

/-- The strands that wait for a page issue again, in a state that differs in its dies alone. -/
theorem State.reissuePage_dies {x : State} (hx : x = { s with dies := x.dies }) {hit : Nat → Nat → Bool} (hh : ∀ p q, hit p q = true ↔ p = pdom ∧ q = page) :
    x.reissuePage die hit = { s with dies := (x.reissuePage die hit).dies, strands := (x.reissuePage die hit).strands } ∧ (x.reissuePage die hit).die die = x.die die ∧
      ∀ st ∈ s.strands, (st.OnPage die pdom page → st.reissue s.cycle ∈ (x.reissuePage die hit).strands) ∧ (¬ st.OnPage die pdom page → st ∈ (x.reissuePage die hit).strands) := by
  obtain ⟨⟨ss, e⟩, served⟩ := x.reissuePage_facts die pdom page hit hh
  have cycle : x.cycle = s.cycle := by rw [hx]
  have strands : x.strands = s.strands := by rw [hx]
  rw [cycle, strands] at served
  refine ⟨?_, ?_, served⟩
  · rw [e]
    exact congrArg (fun y : State => { y with strands := ss }) hx
  · rw [e]
    rfl

variable (found : (s.die die).merge.find? (fun e => e.pdom = pdom && e.page = page && e.walking) = some e)
include found

theorem exec_walkComplete : exec (.walkComplete die pdom page) s = .next (s.finishWalk die e) := by
  refine congrArg Host.Outcome.next ?_
  rw [found]

/-- A walk that finds a leaf leaves it in the TLB of the die and frees its entry (R133). -/
theorem exec_walkComplete_leaf {l : Leaf} (leaf : s.walkFrom e.root page (partOf e.va) = .ok l) :
    ∃ t, exec (.walkComplete die pdom page) s = .next t ∧ t = { s with dies := t.dies, strands := t.strands } ∧
      t.die die = { s.die die with merge := (s.die die).merge.filter (· ≠ e), tlb := putTlb2 (s.die die).tlb pdom page l } ∧
      ∀ st ∈ s.strands, (st.OnPage die pdom page → st.reissue s.cycle ∈ t.strands) ∧ (¬ st.OnPage die pdom page → st ∈ t.strands) := by
  obtain ⟨⟨rfl, rfl⟩, -⟩ : (e.pdom = pdom ∧ e.page = page) ∧ e.walking = true := by simpa using List.find?_some found
  have done := exec_walkComplete found
  rw [State.finishWalk, leaf] at done
  have hits (p q) : (decide (p = e.pdom) && decide (q = e.page)) = true ↔ p = e.pdom ∧ q = e.page := by simp
  refine ⟨_, done, (State.reissuePage_dies rfl hits).imp_right (And.imp_left fun die => die.trans ?_)⟩
  simp only [State.tlbFill, State.die_setDie, ne_eq, decide_not]
  rfl

/-- A walk that finds none leaves its entry faulted, and one record of kind 16 (R369). -/
theorem exec_walkComplete_fault {r : Nat} (fault : s.walkFrom e.root page (partOf e.va) = .error r) :
    ∃ t : State, exec (.walkComplete die pdom page) s = .next (t.memRecord 16 r e.strands.length (partOf e.va) e.acc die e.core pdom e.task e.va) ∧
      t = { s with dies := t.dies, strands := t.strands } ∧
      t.die die = { s.die die with merge := (s.die die).merge.map fun y => if y = e then { y with walking := false, faulted := true } else y } ∧
      ∀ st ∈ s.strands, (st.OnPage die pdom page → st.reissue s.cycle ∈ t.strands) ∧ (¬ st.OnPage die pdom page → st ∈ t.strands) := by
  obtain ⟨⟨rfl, rfl⟩, -⟩ : (e.pdom = pdom ∧ e.page = page) ∧ e.walking = true := by simpa using List.find?_some found
  have done := exec_walkComplete found
  rw [State.finishWalk, fault] at done
  have hits (p q) : (decide (p = e.pdom) && decide (q = e.page)) = true ↔ p = e.pdom ∧ q = e.page := by simp
  exact ⟨_, done, (State.reissuePage_dies rfl hits).imp_right (And.imp_left fun die => die.trans (State.die_setDie ..))⟩

end Walks

section Leases
variable {s : State} {d c line : Nat}

/-- The sectors of a line whose lease is over leave the RDC of a die (R124). -/
theorem exec_lineLeaseExpiry_rdc (hd : d < 4) (expired : ∃ y ∈ (s.die d).rdc, y.over line s.cycle = true) : exec (.lineLeaseExpiry d line) s =
    .next (s.setDie d { s.die d with rdc := (s.die d).rdc.filter fun y => !y.over line s.cycle }) :=
  congrArg _ ((if_pos hd).trans (if_pos (List.any_eq_true.2 expired)))

/-- They leave the L1 of a core with the load entries of its reuse table in the line (R86, R124). -/
theorem exec_lineLeaseExpiry_l1 (hd : 1 ≤ d) (hc : c < 512) (expired : ∃ y ∈ (s.core d c).l1, y.over line s.cycle = true) : ∃ e, exec (.lineLeaseExpiry (512 * d + c) line) s =
    .next (State.setCore { s with evBuf := e } d c
      { (s.core d c).killLoads fun l => l.atoms.any fun a => a / 4 = line with l1 := (s.core d c).l1.filter fun y => !y.over line s.cycle }) := by
  have die : (512 * d + c) / 512 = d := by omega
  have core : (512 * d + c) % 512 = c := by omega
  have noted (n : Nat) : ∃ e, (s.noteCache d (some c) 9 1 []).noteCache d (some c) 10 n [] = { s with evBuf := e } := by
    rw [State.noteCache_only, s.noteCache_only]
    exact ⟨_, rfl⟩
  obtain ⟨e, he⟩ := noted ((s.core d c).reuse.length - ((s.core d c).killLoads fun l => l.atoms.any fun a => a / 4 = line).reuse.length)
  refine ⟨e, congrArg Host.Outcome.next ((if_neg (by omega)).trans ?_)⟩
  dsimp only
  rw [die, core]
  refine (if_pos (List.any_eq_true.2 expired)).trans ?_
  rw [he]

end Leases

section Strands
variable {s : State} {r : SRef} {st : Strand} (found : s.strandAt r = some st)
include found

theorem exec_watchTimeout {w : Watch} (watch : st.watch = some w) (expired : w.limit ≤ s.cycle) :
    exec (.watchTimeout r.die r.core r.slot) s = .next (s.putStrand { st with watch := some { w with fired := true } }) := by
  refine congrArg Host.Outcome.next ?_
  rw [found]
  dsimp only
  rw [watch]
  exact if_pos expired

theorem exec_loadDataReturn (n : Nat) : exec (.loadDataReturn r.die r.core r.slot n) s = .next (s.putStrand (st.arriveData n)) := by
  refine congrArg Host.Outcome.next ?_
  rw [found]

end Strands

section Loads
variable {st : Strand} {n : Nat} {p : Pend} (window : st.pend[n]? = some p) (away : p.arrived = false)
include window away

theorem Strand.arriveData_clean (clean : p.causes = 0) :
    st.arriveData n = { st with fpflags := st.fpflags ||| p.flags, pend := st.pend.set n { p with arrived := true, flags := 0 } } := by
  simp [Strand.arriveData, window, away, clean, Strand.raiseFlags]

theorem Strand.arriveData_faulted (faulted : p.causes ≠ 0) : st.arriveData n =
    { st with due := st.due ||| p.causes, dueTval := if st.due = 0 then p.tval else st.dueTval,
              pend := st.pend.set n { p with writes := [], arrived := true, causes := 0, flags := 0 } } := by
  have nonzero : p.causes ≠ 0#64 := faulted
  simp [Strand.arriveData, window, away, nonzero]

end Loads

theorem Core.mailbox_getD {k : Core} {n : Nat} {m : Mailbox} (box : k.mboxes[n]? = some m) : k.mboxes.getD n Mailbox.reset = m := by
  rw [List.getD_eq_getElem?_getD, box]
  rfl

section SoftErrors
variable {s : State}

theorem exec_uncorrectableMemoryError {a : BitVec 48} (dirty : Bool) (device : a.toNat < 2 ^ 37) : exec (.uncorrectableMemoryError a dirty) s =
    .next (State.memRecord { s with poison := insertNat (a.toNat / 32) s.poison } 17 (if dirty then 2 else 1) 1 0 0 (if a.toNat < 2 ^ 36 then 1 else 2) 0 0 0 (a.toNat / 32 * 32)) := by
  refine congrArg _ ((if_neg (Nat.not_le.2 device)).trans ?_)
  rw [Nat.mul_comm 32]

theorem exec_scratchpadSoftError_grant {d c off o : Nat} {b : Bundle} (held : grantAt off (s.resident d c) = some (b, o)) : exec (.scratchpadSoftError d c 1 off) s =
    .next (((s.mapBundle b.handle fun b => { b with poison := insertNat (o / 8) b.poison }).killHolder b.task).memRecord 18 1 1 0 0 d c b.pdom.toNat 0 off) := by
  refine congrArg Host.Outcome.next ?_
  dsimp only
  rw [held]
  rfl

theorem exec_scratchpadSoftError_operands {d c off : Nat} (free : ∀ x ∈ (s.core d c).tiles, ¬ (x.base ≤ off / 4096 ∧ off / 4096 < x.base + x.len)) :
    exec (.scratchpadSoftError d c 2 off) s =
      .next ((s.setCore d c { s.core d c with opPoison := insertNat (off / 8) (s.core d c).opPoison }).memRecord 18 2 1 0 0 d c 0 0 off) := by
  have none : (s.core d c).tiles.find? (fun t => t.base ≤ off / 4096 && off / 4096 < t.base + t.len) = none :=
    List.find?_eq_none.2 fun x hx => by simpa using free x hx
  refine congrArg Host.Outcome.next ?_
  dsimp only
  rw [none]
  rfl

theorem exec_scratchpadSoftError_mailbox {d c off : Nat} {m : Mailbox} (box : (s.core d c).mboxes[off / 512]? = some m) :
    ∃ pdom, exec (.scratchpadSoftError d c 3 off) s = .next ((s.setCore d c { s.core d c with
      mboxes := (s.core d c).mboxes.set (off / 512) { m with items := m.items.eraseIdx ((off / 32 % 16 + 16 - m.head) % 16) } }).memRecord 18 3 1 0 0 d c pdom 0 off) := by
  refine ⟨match s.bundle? m.claim with | some b => b.pdom.toNat | none => 0, congrArg Host.Outcome.next ?_⟩
  dsimp only
  rw [Core.mailbox_getD box]
  rfl

end SoftErrors

section Offers
variable {s : State} {id bit : Nat} {o : Offer} (found : s.offers.find? (fun o => o.id = id) = some o) (pending : o.pending.getLsbD bit = true)

include found pending in
/-- A consumer of an offer is one of the seven of its mask (R118). -/
theorem exec_mailboxAccept : exec (.mailboxAccept id bit) s = .next (s.acceptOffer o bit) := by
  have consumer : bit < 7 := BitVec.lt_of_getLsbD pending
  refine congrArg Host.Outcome.next ?_
  rw [found]
  exact if_pos (by simp [consumer, pending])

section Mailbox
variable {m : Mailbox} (sib : bit < 3) (box : (s.core o.die (sibling o.core bit)).mboxes[o.mbox]? = some m)
include sib box

/-- A mailbox with room takes an entry against one that its sender counts free (R118). -/
theorem State.acceptOffer_mailbox (room : m.items.length < 16) (counted : ((s.core o.die o.core).mboxFree.getD bit []).getD o.mbox 0 ≠ 0) :
    s.acceptOffer o bit = ((((s.setCore o.die o.core { s.core o.die o.core with
        mboxFree := (s.core o.die o.core).mboxFree.set bit (((s.core o.die o.core).mboxFree.getD bit []).set o.mbox (((s.core o.die o.core).mboxFree.getD bit []).getD o.mbox 0 - 1)) }).setCore
      o.die (sibling o.core bit) { s.core o.die (sibling o.core bit) with mboxes := (s.core o.die (sibling o.core bit)).mboxes.set o.mbox { m with items := m.items ++ [o.entry] } }).offerTaken o bit).mailWake
        o.die (sibling o.core bit) o.mbox) := by
  unfold State.acceptOffer
  rw [if_pos sib]
  dsimp only
  rw [Core.mailbox_getD box]
  exact if_pos (by simpa [room] using counted)

theorem State.acceptOffer_mailbox_refuses (barred : 16 ≤ m.items.length ∨ ((s.core o.die o.core).mboxFree.getD bit []).getD o.mbox 0 = 0) : s.acceptOffer o bit = s := by
  unfold State.acceptOffer
  rw [if_pos sib]
  dsimp only
  rw [Core.mailbox_getD box]
  refine if_neg ?_
  rw [Bool.and_eq_true, decide_eq_true_eq, bne_iff_ne]
  exact fun ⟨room, counted⟩ => barred.elim (Nat.not_le.2 room) counted

end Mailbox

theorem State.queueFree_iff {d c u : Nat} :
    s.queueFree d c u = true ↔ (s.engine d c u).queue.length + (if (s.engine d c u).run = none then 0 else 1) < 16 := by
  unfold State.queueFree
  cases h : (s.engine d c u).run <;> simp [h]

/-- What an engine enqueues of an offer (R235). -/
def State.offerEntry (s : State) (o : Offer) : EngEntry :=
  { record := o.entry.toNat % 2 ^ 57, task := o.task, pdom := o.pdom, partid := match s.task? o.task with | some t => t.partid | none => 0,
    bundle := o.bundle, group := 0, engines := 0, rdv := none, engTask := false, ring := none }

theorem State.acceptOffer_engine (low : 3 ≤ bit) (high : bit < 6) (free : s.queueFree o.die o.core (bit - 3) = true) :
    s.acceptOffer o bit = (s.pushEntry o.die o.core (bit - 3) (s.offerEntry o)).offerTaken o bit := by
  unfold State.acceptOffer
  rw [if_neg (by omega), if_pos high]
  exact if_pos free

theorem State.acceptOffer_port (new : ∀ c ∈ s.gx.calls, ¬ (c.port = some o.id ∧ c.stage = 0)) :
    s.acceptOffer o 6 = s.portOffer o (s.offerEntry o).partid := by
  have first : s.gx.calls.find? (fun c => c.port = some o.id && c.stage = 0) = none := List.find?_eq_none.2 fun c hc => by simpa using new c hc
  unfold State.acceptOffer
  rw [if_neg (by decide), if_neg (by decide), first]
  rfl

end Offers

theorem exec_ackOverdue {s : State} {id : Nat} {w : XWrite} (found : s.xwrites.find? (fun w => w.id = id) = some w) (late : w.since + (w.overdue + 1) * 2 ^ 20 ≤ s.cycle) :
    exec (.ackOverdue id) s = .next (State.memRecord { s with xwrites := s.xwrites.map fun x => if x.id = id then { x with overdue := x.overdue + 1 } else x }
      20 0 1 0 1 w.src (w.core.getD 0) w.pdom w.task (w.pa / 32 * 32)) := by
  refine congrArg Host.Outcome.next ?_
  rw [found]
  exact if_pos late

/-- Settles O46: a walk by what it finds, a lease by the sectors that are over, an arrival by its causes, a soft error by its unit, and an offer by
its consumer. -/
theorem memoryEventsHaveTheirEffects : Obligations.MemoryEventsHaveTheirEffects := by
  intro s
  refine ⟨fun die pdom page e found => ⟨fun l => exec_walkComplete_leaf found, fun r => exec_walkComplete_fault found⟩, ?_, ?_, ?_, ?_, ?_, ?_, ?_⟩
  · intro line gone _ which
    have expired (y : Sector) : gone y ↔ y.over line s.cycle = true := by simp [which, Sector.over]
    simp only [expired, Bool.decide_eq_true]
    exact ⟨fun d => exec_lineLeaseExpiry_rdc, fun d c => exec_lineLeaseExpiry_l1⟩
  · intro r st found
    refine ⟨fun w => exec_watchTimeout found, fun n p window away => ⟨fun clean => ?_, fun faulted => ?_⟩⟩
    · rw [exec_loadDataReturn found, Strand.arriveData_clean window away clean]
    · rw [exec_loadDataReturn found, Strand.arriveData_faulted window away faulted]
  · exact fun a dirty => exec_uncorrectableMemoryError dirty
  · rintro d c off k rfl
    refine ⟨fun b o => exec_scratchpadSoftError_grant, exec_scratchpadSoftError_operands, fun m box => ?_⟩
    obtain ⟨pdom, hit⟩ := exec_scratchpadSoftError_mailbox box
    refine ⟨_, pdom, hit, fun n hn head place => congrArg _ ?_⟩
    omega
  · exact fun key k _ kill _ _ => if_pos kill
  · rintro id bit o found pending taken rfl
    rw [exec_mailboxAccept found pending]
    refine ⟨?_, fun low high room => ?_, ?_⟩
    · rintro sib c m rfl box counts rfl
      exact ⟨fun room counted => ⟨_, congrArg _ (State.acceptOffer_mailbox sib box room counted), rfl⟩, fun barred => congrArg _ (State.acceptOffer_mailbox_refuses sib box barred)⟩
    · exact ⟨s.offerEntry o, _, congrArg _ (State.acceptOffer_engine low high (State.queueFree_iff.2 room)), rfl, rfl, rfl, rfl⟩
    · rintro rfl new
      exact ⟨_, congrArg _ (State.acceptOffer_port new)⟩
  · exact fun id w found late => exec_ackOverdue found late

end Sys2Proof.Machine
end

section
namespace Sys2Proof.Machine

/-! ### The companion link (R135, R306, R310 to R312, R374, R386, R387, R389) -/

/-! What a message sent and an event of the link leave. -/

theorem State.azEvent_only (s : State) (e : Nat) : s.azEvent e = { s with link := { s.link with event := e }, port := (s.azEvent e).port } := by
  unfold State.azEvent State.raiseMsix
  split <;> rfl

theorem State.azEvent_msix {s : State} (hb : s.booted = true) (e : Nat) : 0 ∈ (s.azEvent e).port.msix := by
  have raised : s.azEvent e = _ := State.raiseMsix_booted (by exact hb) 0
  rw [raised]
  exact (mem_insertNat ..).2 (.inr rfl)

@[simp] theorem State.leaveIdle_link (s : State) : s.leaveIdle.link = s.link := by
  obtain ⟨p, m, e⟩ := s.leaveIdle_only
  rw [e]

/-- An idle device that a message reaches is active (R326). -/
theorem State.leaveIdle_active {s : State} (idle : s.mg.pwrCur = 1) :
    s.leaveIdle.mg.pwrCur = 0 ∧ s.leaveIdle = { s with mg := { s.mg with pwrCur := 0 }, port := s.leaveIdle.port } := by
  have left : s.leaveIdle = s.setPower 0 := if_pos idle
  obtain ⟨cur, -, -, rest⟩ := s.setPower_facts 0 (by rw [idle]; decide)
  rw [left, ← State.setPower_mg]
  exact ⟨cur, rest⟩

theorem State.azMay_of {s : State} (hb : s.booted = true) (hl : s.linkUp = true) : s.azMay = true := by simp [State.azMay, hb, hl]

section Messages
variable {s : State} {w : List Word} (hb : s.booted = true) (hl : s.linkUp = true)

section Unpaired
variable (hu : s.link.paired = false) (version : bitsNat (msgPayload w) 23 16 = 1)
include hb hl hu version

/-- PAIR is answered with PAIR_ACK and with a PAIR of this side, each with this side's payload (R306). -/
theorem exec_pair : exec (.pair w) s = .next { s.leaveIdle with
    link := { s.link with
      tagSeen := bitsNat (msgPayload w) 15 0, memGiB := bitsNat (msgPayload w) 39 32, seq := ((s.link.seq + 1) % 256 + 1) % 256,
      sent := s.link.sent ++ [⟨0x02, s.link.seq, BitVec.ofNat 128 s.pairPayload, [], []⟩, ⟨0x01, (s.link.seq + 1) % 256, BitVec.ofNat 128 s.pairPayload, [], []⟩] } } := by
  refine congrArg _ ((if_pos ?_).trans ?_)
  · simp [State.azMay_of hb hl, hu, version]
  · obtain ⟨p, m, e⟩ := s.leaveIdle_only
    rw [e]
    simp only [State.sendMsg, List.append_assoc]
    rfl

/-- PAIR_ACK completes pairing: slot 3 of every clock row is zero (R310, R311). -/
theorem exec_pairAck : ∃ t, exec (.pairAck w) s = .next t ∧
    t.link = { s.link with
      paired := true, skip := 0, tagSeen := bitsNat (msgPayload w) 15 0, memGiB := bitsNat (msgPayload w) 39 32, stepSlot := 1, stepPending := false,
      dirty := [], reads := [], event := 1 } ∧
    0 ∈ t.port.msix ∧ (∀ q ∈ t.dies, q.1 ≠ 3 → q.2.applied.getD 3 0 = 0 ∧ ∀ r ∈ q.2.rows, r.getD 3 0 = 0) := by
  refine ⟨_, congrArg Host.Outcome.next (if_pos ?_), ?_, State.azEvent_msix ?_ 1, ?_⟩
  · simp [State.azMay_of hb hl, hu, version]
  · rw [State.azEvent_only]
    simp [State.clearSlot3]
  · obtain ⟨p, m, e⟩ := s.leaveIdle_only
    rw [e]
    exact hb
  · rw [State.azEvent_only]
    exact s.leaveIdle.clearSlot3_dies

end Unpaired

section Paired
variable (hp : s.link.paired = true)
include hb hl hp

/-- A capture area whose handles are new here is docked (R311). -/
theorem exec_migrate (hm : s.link.migrated = false) (hd : s.link.docking = none) (hu : s.link.undocking = false)
    {a : Area} (ha : a = parseArea ((wordsBytes (w.drop 4)).take (bitsNat (msgPayload w) 127 64))) (new : s.handlesNew a = true) :
    exec (.migrate w) s = .next (s.leaveIdle.dock a) := by
  subst ha
  exact congrArg _ (if_pos (by simp [State.azMay_of hb hl, hp, hm, hd, hu, new]))

/-- MOVE of a part that is not asked for yet: the request goes on at once (R135, R306). -/
theorem exec_move {m : PartMove} (hm : m = payloadMove (msgPayload w) s.timePs true)
    (new : ∀ x ∈ s.link.moves, x.out = true → ¬ (x.pdom = m.pdom ∧ x.page = m.page ∧ x.part = m.part)) :
    exec (.move w) s = .next (State.outStep { s.leaveIdle with link := { s.leaveIdle.link with moves := s.leaveIdle.link.moves ++ [m] } } m) := by
  subst hm
  refine congrArg Host.Outcome.next ((if_pos ?_).trans ?_)
  · simp [State.azMay_of hb hl, hp]
  · dsimp only
    refine if_neg ?_
    rw [State.leaveIdle_link]
    simpa [and_assoc] using new

/-- MOVE_DATA of a part that is away places it (R135). -/
theorem exec_moveData {bytes : List Byte} {marks : List Nat} {m : PartMove} {h : HomeLeaf} (whole : bytes.length = 2 ^ 16)
    (hm : m = payloadMove (msgPayload w) s.timePs false) (leaf : s.leafOf m.pdom m.page = some h) (away : h.leaf.part m.part = .remote) :
    exec (.moveData w bytes marks) s = .next (s.leaveIdle.takePart h m.part bytes marks) := by
  subst hm
  change execMoveData w bytes marks s = _
  unfold execMoveData
  rw [if_pos (by simp [State.azMay_of hb hl, hp, whole])]
  dsimp only
  rw [leaf]
  dsimp only
  rw [away]

theorem exec_release : exec (.release w) s = .next s.leaveIdle.unpair :=
  congrArg _ (if_pos (by simp [State.azMay_of hb hl, hp]))

end Paired

include hb hl

/-- STEP_ACK of the step that waits for it (R389). -/
theorem exec_stepAck (pending : s.link.stepPending = true) (slot : bitsNat (msgPayload w) 0 0 = s.link.stepSlot)
    (seq : bitsNat (msgPayload w) 127 64 = s.link.stepSeq % 2 ^ 64) : exec (.stepAck w) s =
      .next { s.leaveIdle with link := { s.link with stepPending := false, ackSeq := s.link.stepSeq, ackSlot := s.link.stepSlot } } := by
  refine congrArg _ ((if_pos ?_).trans ?_)
  · simp [State.azMay_of hb hl, pending, slot, seq]
  · rw [State.leaveIdle_link]

/-- MIGRATE_DONE of an undocking is answered with RELEASE (R311). -/
theorem exec_migrateDone (undocking : s.link.undocking = true) (done : bitsNat (msgPayload w) 7 0 = 0) :
    exec (.migrateDone w) s = .next (s.leaveIdle.sendMsg 0x40 0 [] []).unpair :=
  congrArg _ (if_pos (by simp [State.azMay_of hb hl, undocking, done]))

end Messages

section Parts
variable {s : State} {m : PartMove} {h : HomeLeaf} (leaf : s.leafOf m.pdom m.page = some h)
include leaf

theorem State.outStep_waits (here : h.leaf.part m.part = .present) (busy : s.stepRunning = true ∨ s.partClaimed m = true) : s.outStep m = s := by
  unfold State.outStep
  rw [leaf]
  dsimp only
  rw [here]
  exact if_pos (by simpa using busy)

theorem State.outStep_begins (here : h.leaf.part m.part = .present) (idle : s.stepRunning = false) (free : s.partClaimed m = false)
    {x : State} (hx : x = s.setPart h m.part .moving) :
    s.outStep m = { x with link := { x.link with moves := x.link.moves.map fun y => if y = m then { m with requested := true } else y } } := by
  subst hx
  unfold State.outStep
  rw [leaf]
  dsimp only
  rw [here]
  exact if_neg (by simp [idle, free])

theorem State.outStep_sends (moving : h.leaf.part m.part = .moving) (quiet : s.inFlight (h.partPa m.part) (h.partPa m.part + 2 ^ 16) = false) :
    s.outStep m = State.sendPart { s with link := { s.link with moves := s.link.moves.filter (· ≠ m) } } h m.part := by
  unfold State.outStep
  rw [leaf]
  dsimp only
  rw [moving]
  exact (if_neg (by simpa using quiet)).trans (by simp only [ne_eq, decide_not]; rfl)

end Parts

section Captures
variable {s : State}

theorem State.askCapture_new {what id why : Nat} (new : (⟨what, id, why⟩ : Capture) ∉ s.captures) :
    s.askCapture what id why = { s with captures := s.captures ++ [⟨what, id, why⟩] } :=
  if_neg (by simpa using new)

/-- What is done with a capture whose strands and engines have stopped, by its reason (R47, R311, R312, R323). -/
def State.completeCapture (s : State) (c : Capture) : State :=
  match c.why with
  | 0 => (match s.task? c.id with | some t => s.haltNow c t | none => { s with captures := s.captures.filter (· != c) })
  | 1 => s.makeStep c
  | 2 => s.undock c
  | _ => s.captureDevice c

theorem State.completeCapture_halt {c : Capture} {t : Task} (why : c.why = 0) (ht : s.task? c.id = some t) : s.completeCapture c = s.haltNow c t := by
  unfold State.completeCapture
  rw [why, ht]
  rfl

theorem State.completeCapture_step {c : Capture} (why : c.why = 1) : s.completeCapture c = s.makeStep c := by
  unfold State.completeCapture
  rw [why]
  rfl

theorem State.completeCapture_undock {c : Capture} (why : c.why = 2) : s.completeCapture c = s.undock c := by
  unfold State.completeCapture
  rw [why]
  rfl

theorem State.completeCapture_device {c : Capture} (why : 3 ≤ c.why) : s.completeCapture c = s.captureDevice c := by
  obtain ⟨n, hn⟩ : ∃ n, c.why = n + 3 := ⟨c.why - 3, by omega⟩
  unfold State.completeCapture
  rw [hn]
  rfl

section Asked
variable {kind id : Nat} {c : Capture} (found : s.captures.find? (fun c => c.what = kind && c.id = id) = some c)
include found

theorem exec_contextCapture_waits (running : s.allStopped c.covers = false ∨ s.enginesStopped c = false) : exec (.contextCapture kind id) s = .next s := by
  refine congrArg Host.Outcome.next ?_
  rw [found]
  exact if_pos (by simpa using running)

theorem exec_contextCapture_completes (strands : s.allStopped c.covers = true) (engines : s.enginesStopped c = true) :
    exec (.contextCapture kind id) s = .next (s.completeCapture c) := by
  refine congrArg Host.Outcome.next ?_
  rw [found]
  exact if_neg (by simp [strands, engines])

end Asked

section Unasked
variable {kind id : Nat} (unasked : ∀ c ∈ s.captures, ¬ (c.what = kind ∧ c.id = id))
include unasked

theorem capture_not_mem (why : Nat) : (⟨kind, id, why⟩ : Capture) ∉ s.captures := fun asked => unasked _ asked ⟨rfl, rfl⟩

theorem find_capture_none : s.captures.find? (fun c => c.what = kind && c.id = id) = none :=
  List.find?_eq_none.2 fun c hc => by simpa using unasked c hc

end Unasked

/-- CONTEXT_CAPTURE of the migrated PARTID, not asked for: an undocking begins, and first the open epochs of its tasks are cancelled (log entry 33). -/
theorem exec_contextCapture_undocks {id : Nat} (unasked : ∀ c ∈ s.captures, ¬ (c.what = 1 ∧ c.id = id)) (hm : s.link.migrated = true)
    (part : id = s.link.partid.toNat % 16) (hd : s.link.docking = none) (hu : s.link.undocking = false) :
    exec (.contextCapture 1 id) s = .next ((s.closeEpochs ⟨1, id, 2⟩).askCapture 1 id 2) := by
  refine congrArg Host.Outcome.next ?_
  rw [find_capture_none unasked]
  exact if_pos (by simp [hm, ← part, hd, hu])

theorem exec_contextCapture_device (unasked : ∀ c ∈ s.captures, ¬ (c.what = 2 ∧ c.id = 0)) (tasks : s.hg.tasks ≠ []) :
    exec (.contextCapture 2 0) s = .next (s.askCapture 2 0 3) := by
  refine congrArg Host.Outcome.next ?_
  rw [find_capture_none unasked]
  refine (if_neg (by simp)).trans (if_pos ?_)
  simpa using tasks

theorem State.closeEpochs_none {c : Capture} (closed : s.openEpochs c [1] = []) : s.closeEpochs c = s := by
  unfold State.closeEpochs
  rw [closed]
  rfl

theorem State.undock_epochs {c : Capture} (standing : s.openEpochs c [1, 3, 4] ≠ []) : s.undock c = s.closeEpochs c :=
  if_pos (by simpa using standing)

theorem State.undock_waits {c : Capture} (closed : s.openEpochs c [1, 3, 4] = []) (left : s.writesLeft c = true) : s.undock c = s :=
  (if_neg (by simp [closed])).trans (if_pos (by simp [left]))

theorem State.makeStep_waits {c : Capture} (left : s.writesLeft c = true) : s.makeStep c = s := if_pos left

theorem State.captureDevice_waits {c : Capture} (left : s.writesLeft c = true) : s.captureDevice c = s := if_pos left

/-- A step that exceeds its slot is skipped and counted (R312, R389). -/
theorem State.makeStep_skips {c : Capture} {area : List (List Byte)} {parts : List (Nat × Nat)} (left : s.writesLeft c = false)
    (ha : area = s.captureArea fun t => c.covers t) (hp : parts = s.link.dirty.filterMap (blockPart s.homeLeaves))
    (small : s.link.cisSlot.toNat < areaLen area + parts.length * (16 + 2 ^ 16) + 32) :
    s.makeStep c = (State.endCapture { s with link := { s.link with inStep := false, skip := min (s.link.skip + 1) 65535, reason := 1 } } c).azEvent 6 := by
  subst ha hp
  exact (if_neg (by simp [left])).trans (if_pos small)

end Captures

section Ends
variable {s : State}

/-- What a pair that ends without failure leaves of the link and of the captures, once the work handed over is gone (R306, R311). -/
theorem State.unpair_parts (s : State) {x : State} (hx : x = s.dropTasks fun t => s.link.undocking && s.link.away.contains t.key) :
    s.unpair.link = { x.link with paired := false, migrated := false, docking := none, undocking := false, away := [], stepPending := false, inStep := false, moves := [], reads := [], event := 3 } ∧
    s.unpair.captures = x.captures.filter fun c => c.why = 0 || c.why = 3 := by
  unfold State.unpair
  rw [← hx, State.azEvent_only]
  exact ⟨rfl, rfl⟩

theorem State.endPair_unpaired (hu : s.link.paired = false) (ev : Nat) : s.endPair ev = s := if_pos (by simp [hu])

/-- A cistern step begins when its time has come and none is under way (R312). -/
theorem exec_cisternStep (hp : s.link.paired = true) (hm : s.link.migrated = true) (on : s.link.cisPeriod ≠ 0) (acked : s.link.stepPending = false)
    (idle : s.link.inStep = false) (due : s.link.stepAt + s.link.cisPeriod.toNat * 10 ^ 9 ≤ s.timePs) :
    exec .cisternStep s = .next { s.askCapture 1 (s.link.partid.toNat % 16) 1 with link := { s.link with inStep := true, stepAt := s.timePs } } := by
  have period : s.link.cisPeriod.toNat ≠ 0 := fun z => on (BitVec.eq_of_toNat_eq z)
  refine congrArg _ (if_pos ?_)
  simp only [State.stepDue, Bool.and_eq_true, decide_eq_true_eq, bne_iff_ne, Bool.not_eq_true']
  exact ⟨⟨⟨⟨⟨hp, hm⟩, period⟩, acked⟩, idle⟩, due⟩

/-- R386: the companion has left a STEP, or a MOVE of this side, without its answer for 1 s. -/
theorem State.unanswered_iff : s.unanswered = true ↔ (s.link.stepPending = true ∧ s.link.stepSince + 10 ^ 12 ≤ s.timePs) ∨
    ∃ m ∈ s.link.moves, m.out = false ∧ m.requested = true ∧ m.written = false ∧ m.since + 10 ^ 12 ≤ s.timePs := by
  simp [State.unanswered, and_assoc]

theorem exec_companionUnresponsive (hp : s.link.paired = true) (late : s.unanswered = true) :
    exec .companionUnresponsive s = .next { s.endPair 5 with link := { (s.endPair 5).link with stopped := true } } :=
  congrArg _ (if_pos (by simp [hp, late]))

end Ends

/-- Settles O53: a message by whether the device may take it, a part by its state, a capture by its reason, and the end of a pair by how it comes. -/
theorem companionLinkWorks : Obligations.CompanionLinkWorks := by
  rintro s u rfl
  refine ⟨State.leaveIdle_awake, State.leaveIdle_active, ?_, ?_, rfl, ?_, ?_, ?_, ?_, ?_, ?_, ?_, ?_, ?_⟩
  · rintro hb hl w p rfl
    refine ⟨?_, fun hp hm hd hu a ha new => exec_migrate hb hl hp hm hd hu ha new, fun bs v => ⟨_, rfl, rfl, rfl, rfl, rfl, rfl, rfl, rfl⟩, ?_, ?_,
      exec_stepAck hb hl, exec_migrateDone hb hl, exec_release hb hl⟩
    · rintro hu version answer rfl
      exact ⟨exec_pair hb hl hu version, exec_pairAck hb hl hu version⟩
    · rintro hp m h hm new v rfl leaf
      rw [exec_move hb hl hp hm new]
      exact ⟨fun here busy => congrArg _ (State.outStep_waits leaf here busy), fun here idle free x hx => congrArg _ (State.outStep_begins leaf here idle free hx),
        fun moving quiet => congrArg _ (State.outStep_sends leaf moving quiet)⟩
    · rintro hp bytes marks m h lo x y whole hm leaf away rfl rfl rfl
      exact exec_moveData hb hl hp whole hm leaf away
  · exact fun v x hx => v.unpair_parts hx
  · rintro hp hm on acked idle due c rfl new
    rw [exec_cisternStep hp hm on acked idle due, State.askCapture_new new]
  · intro kind id c found
    refine ⟨exec_contextCapture_waits found, fun strands engines => ?_⟩
    rw [exec_contextCapture_completes found strands engines]
    exact ⟨fun t why ht => congrArg _ (State.completeCapture_halt why ht), fun why => congrArg _ (State.completeCapture_step why),
      fun why => congrArg _ (State.completeCapture_undock why), fun why => congrArg _ (State.completeCapture_device why)⟩
  · rintro id unasked hm part hd hu c rfl
    rw [exec_contextCapture_undocks unasked hm part hd hu]
    refine ⟨rfl, fun closed => ?_⟩
    rw [State.closeEpochs_none closed, State.askCapture_new (capture_not_mem unasked 2)]
  · intro unasked tasks
    rw [exec_contextCapture_device unasked tasks, State.askCapture_new (capture_not_mem unasked 3)]
  · exact fun c => ⟨State.undock_epochs, State.undock_waits, fun left => ⟨State.makeStep_waits left, State.captureDevice_waits left⟩⟩
  · rintro c area parts used size left ha hp rfl rfl small
    exact State.makeStep_skips left ha hp small
  · refine ⟨_, rfl, rfl, fun hu => ?_, fun _ => rfl⟩
    rw [State.endPair_unpaired hu]
  · exact fun hp late => exec_companionUnresponsive hp (State.unanswered_iff.2 late)
  · rintro ev v x y z hp rfl rfl rfl rfl
    exact if_neg (by simp [hp])

end Sys2Proof.Machine
end

section
namespace Sys2Proof.Machine

/-! ### Fences (R139, R153, R222) -/

section Fences
variable {s : State} {st : Strand} {c : BitVec 2}

/-- A release that is not drained waits for the counter of its core (R151, R153). -/
theorem State.mustDrain_undrained (undrained : ¬ s.drained st 1 c) : s.mustDrain st true c.toNat = true := by
  simp only [State.drained, Classical.not_imp] at undrained
  obtain ⟨-, wide, counted⟩ := undrained
  simp [State.mustDrain, wide, counted]

theorem State.mustDrain_acquire (s : State) (st : Strand) (n : Nat) : s.mustDrain st false n = false := rfl

variable {rel acq : Bool} (cur : s.curStrand = some st)
include cur

theorem fence_retires (drained : s.mustDrain st rel c.toNat = false) : fence rel acq c s =
    .next ((if acq then s.acquire st.at_.die st.at_.core c.toNat (st.bundle.map Prod.fst) st.at_ else s).putStrand (st.retire s.cycle 1)) :=
  (State.onStrand_some cur _).trans (congrArg _ (if_neg (by simp [drained])))

theorem fence_waits (undrained : ¬ s.drained st 1 c) :
    fence true acq c s = .next (s.putStrand { st with blocked := some { wait := .retry, len := 0, woken := false, since := s.cycle } }) :=
  (State.onStrand_some cur _).trans (congrArg _ (if_pos (State.mustDrain_undrained undrained)))

end Fences

/-- Settles O30: a fence waits while its release is not drained; else it acquires, where it does, by `State.invalidated_acquire`, and retires. -/
theorem fencesInvalidateAndWait : Obligations.FencesInvalidateAndWait := by
  intro c
  refine ⟨fun s st cur => ?_, fun s st cur drained => ?_, fun s st cur drained => ?_, fun i hi s st cur undrained => ?_⟩
  · exact ⟨_, _, fence_retires cur (s.mustDrain_acquire st _), s.invalidated_acquire st c.toNat, st.retire_moved ..⟩
  · exact ⟨_, fence_retires (acq := false) cur (State.mustDrain_drained drained), st.retire_moved ..⟩
  · exact ⟨_, _, fence_retires cur (State.mustDrain_drained drained), s.invalidated_acquire st c.toNat, st.retire_moved ..⟩
  · obtain rfl | rfl : i = .fenceRel c ∨ i = .fenceFull c := by simpa using hi
    · exact fence_waits cur undrained
    · exact fence_waits cur undrained

end Sys2Proof.Machine
end

section
namespace Sys2Proof.Machine

/-! ### Atomics complete (R151, R153, R215, R220, R221, R363) -/

/-- A long-latency write that retires leaves its strand behind its instruction, whatever its data bring (R160, R359). -/
theorem Strand.retireLong_ends (st : Strand) (cycle n la : Nat) (p : Pend) :
    (st.retireLong cycle n la p).Ends cycle (st.past n) ∧ (st.retireLong cycle n la p).at_ = st.at_ := by
  unfold Strand.retireLong Strand.openWindow
  dsimp only
  rw [landExpired_rest]
  split
  · exact ⟨⟨rfl, rfl, rfl⟩, st.tick_at⟩
  · exact ⟨⟨rfl, rfl, rfl⟩, st.tick_at⟩

theorem State.seen_past (t : State) (st : Strand) (n : Nat) : (t.seen st).past n = st.past n := by
  unfold State.seen
  split <;> rfl

section Lanes
variable {s : State} {st : Strand} {op : MemOp} {l : Lane} {pa g b p o new : Nat}

/-- An atomic at the die's own memory or the host's is done at once, whatever the bytes and the marks of its place (R146, R220). -/
theorem State.doLane_atomic_local (kind : op.kind = .atomic o new) (target : l.tgt = .phys pa g b p) (near : localMemory st.at_.die pa) :
    ∃ t ws l', s.Wrote t ws ∧ s.doLane st op l = .done t l' := by
  have free := s.linkFull_local near
  obtain ⟨v, m, look⟩ := s.lookAtom_local (c := st.at_.core) near
  unfold State.doLane
  simp only [target, kind, free]
  rcases near with ⟨home, own⟩ | home
  · by_cases bundle : op.scope = 0
    · simp only [home, bundle, look, own, decide_false, ne_eq, not_true_eq_false, Bool.and_false, Bool.or_self, Bool.false_eq_true, if_false]
      split
      · exact ⟨_, _, _, (State.Wrote.noteRead ..).trans (.writeAtom _ _ _ (.inl ⟨home, own⟩)), rfl⟩
      · exact ⟨_, _, _, .noteRead .., rfl⟩
    · simp only [home, bundle, own, decide_false, ne_eq, not_true_eq_false, not_false_eq_true, Bool.false_and, Bool.or_self, Bool.false_eq_true, if_false, if_true]
      split
      · exact ⟨_, _, _, .writeAtom _ _ _ (.inl ⟨home, own⟩), rfl⟩
      · exact ⟨_, _, _, .refl s, rfl⟩
  · simp only [home]
    split
    · exact ⟨_, _, _, .writeAtom _ _ _ (.inr home), rfl⟩
    · exact ⟨_, _, _, .refl s, rfl⟩

/-- An access of one lane that is done ends. -/
theorem State.advanceOp_done {t : State} {l' : Lane} {len : Nat} {waited : Bool} (lanes : op.lanes = [l]) (fresh : l.done = false)
    (done : s.doLane st op l = .done t l') : s.advanceOp st len op waited = t.finishOp st len { op with lanes := [l'] } waited := by
  simp [State.advanceOp, State.doLanes, Progress.lane, lanes, fresh, done]

end Lanes

section Requests
variable {s : State} {st : Strand} {len n va size w pa k new : Nat} {q : BitVec 1} {c : BitVec 2} {r : MemReq}

/-- A request of one lane that is permitted and has nothing to drain goes on to its data phase (R358). -/
theorem State.tryMem_lane {g b p : Nat} (check : s.checkLane st r.cls va size = .ok (.phys pa g b p)) (lanes : r.lanes = [(n, va, size, w)])
    (drained : s.mustDrain st r.strong r.scope = false) : s.tryMem st len r =
      ((s.tlbUseAll st [(va, size)]).acquireOf st (r.op [.phys pa g b p])).advanceOp st len (r.op [.phys pa g b p]) false := by
  have ready : s.addrPhase st r.cls [(va, size)] = .ready [.phys pa g b p] :=
    State.addrPhase_ready (tgt := fun _ => .phys pa g b p) fun l hl => by rw [List.mem_singleton.1 hl]; exact check
  unfold State.tryMem
  simp only [lanes, List.map_cons, List.map_nil, ready, drained, Bool.and_false, Bool.false_eq_true, if_false]

/-- An atomic request on local memory retires with its entry, whatever that holds. -/
theorem State.tryMem_atomic_ends (kind : r.kind = .atomic k new) (cls : r.cls = .atomic) (lanes : r.lanes = [(n, va, size, w)])
    (drained : s.mustDrain st r.strong r.scope = false) (place : s.At st .atomic va size pa) (near : localMemory st.at_.die pa) :
    ∃ t ws la p, s.Wrote t ws ∧ s.tryMem st len r = t.putStrand ((t.seen st).retireLong s.cycle len la p) := by
  obtain ⟨g, b, p, check⟩ := State.checkLane_at place
  have opLanes : (r.op [.phys pa g b p]).lanes = [{ n := n, va := va, size := size, tgt := .phys pa g b p, wdata := w, done := false, rdata := 0, mark := 0 }] := by
    simp [MemReq.op, lanes]
  have opKind : (r.op [.phys pa g b p]).kind = .atomic k new := kind
  rw [State.tryMem_lane (cls ▸ check) lanes drained]
  generalize r.op [.phys pa g b p] = op at opLanes opKind
  generalize ready : (s.tlbUseAll st [(va, size)]).acquireOf st op = u
  have looked : s.Wrote u [] := by
    rw [← ready]
    exact (State.Wrote.tlbUseAll ..).quiet (.acquireOf ..)
  obtain ⟨t, ws, l, wrote, done⟩ := State.doLane_atomic_local (s := u) (l := ⟨n, va, size, .phys pa g b p, w, false, 0, 0⟩) opKind rfl near
  rw [State.advanceOp_done opLanes rfl done, State.finishOp_eq, if_neg (by simp [opKind])]
  have whole := (looked.trans wrote).trans (.ending t st { op with lanes := [l] })
  exact ⟨_, _, _, _, whole, by rw [whole.cycle]⟩

/-- An instruction that is one atomic request completes. -/
theorem completes_of {i : Instr} {len la : Nat} {ea new arg : Strand → Nat} {dest : Strand → MemDest}
    (meaning : ∀ s, exec i s = s.issueMem len fun st => memReq (.atomic k (new st)) .atomic [(n, ea st, size, arg st)] q c 0 la (dest st)) :
    Completes i len q c size ea := by
  intro s st pa cur drained place near
  obtain ⟨t, ws, la', p, wrote, run⟩ := State.tryMem_atomic_ends (len := len)
    (r := memReq (.atomic k (new st)) .atomic [(n, ea st, size, arg st)] q c 0 la (dest st)) rfl rfl rfl (State.mustDrain_drained drained) place near
  obtain ⟨ends, slot⟩ := (t.seen st).retireLong_ends s.cycle len la' p
  rw [State.seen_past] at ends
  refine ⟨t, _, (meaning s).trans (State.issueMem_over cur run ⟨slot.trans (t.seen_at st), ends.free⟩ (wrote.standing _ ?_)), ends⟩
  rw [State.strandAt_cur cur]
  rfl

end Requests

section Forms
variable {i : Instr} {k n : Nat} {x : Option (BitVec 25)} {l : BitVec 4} {d a : BitVec 7} {q : BitVec 1} {c : BitVec 2}

theorem atomScalar_completes (meaning : ∀ s, exec i s = atomScalar k x l d a q c s) :
    Completes i (words [x.isSome]) q c 4 fun st => (st.ea a x).toNat := by
  rw [← len1_words]
  exact completes_of meaning

theorem atomVector_completes (meaning : ∀ s, exec i s = atomVector k n x l d a q c s) :
    Completes i (words [x.isSome]) q c n fun st => (st.ea a x).toNat := by
  rw [← len1_words]
  exact completes_of meaning

end Forms

/-- Settles O28: every form is one atomic request, and such a request ends whatever the bytes and marks of its place (`State.doLane_atomic_local`). -/
theorem everyAtomicCompletes : Obligations.EveryAtomicCompletes := by
  intro x l d a q c k bare prefixed ea hea
  obtain rfl : ea = fun st => (st.ea a x).toNat := funext fun st => Int.ofNat.inj ((hea st).trans (st.ea_eq a x k bare prefixed).symm)
  simp only [List.forall_mem_cons, List.not_mem_nil, false_implies, implies_true, and_true]
  refine ⟨?_, ?_, ?_⟩
  · and_intros
    all_goals exact atomScalar_completes fun _ => rfl
  · and_intros
    all_goals exact atomVector_completes fun _ => rfl
  · and_intros
    all_goals exact atomVector_completes fun _ => rfl

end Sys2Proof.Machine
end

section
namespace Sys2Proof.Machine

/-! ### ISYNC and cache maintenance (R154, R298 to R300) -/

theorem State.seen_retires (t : State) (st : Strand) (cycle n : Nat) : (t.seen st).OnlyMoved ((t.seen st).retire cycle n) cycle (st.past n) :=
  t.seen_past st n ▸ (t.seen st).retire_moved cycle n

section Fills
variable {s : State} {f g : XRead → Bool} {r : XRead} (marked : r ∈ (s.spoilFills f g).xreads)
include marked

/-- A fill in flight that an L1 must not take is not installed there, and so for an RDC (R154). -/
theorem State.spoilFills_noL1 (blind : ∀ (x : XRead) a b, f { x with noL1 := a, noRdc := b } = f x) (hit : f r = true) : r.noL1 = true := by
  obtain ⟨x, -, rfl⟩ := State.spoilFills_marks marked
  rw [blind] at hit
  simp [hit]

theorem State.spoilFills_noRdc (blind : ∀ (x : XRead) a b, g { x with noL1 := a, noRdc := b } = g x) (hit : g r = true) : r.noRdc = true := by
  obtain ⟨x, -, rfl⟩ := State.spoilFills_marks marked
  rw [blind] at hit
  simp [hit]

end Fills

/-- What a removal of TLB entries covers, by the mode of the instruction (R299). -/
theorem tlbHit_eq (b : BitVec 7) (pdom page p q : Nat) :
    tlbHit b.toNat pdom page p q = if b = 0 then p = pdom && q = page else if b = 1 then p = pdom else true := by
  by_cases zero : b = 0
  · rw [if_pos zero, zero]
    rfl
  · rw [if_neg zero]
    by_cases one : b = 1
    · rw [if_pos one, one]
      rfl
    · rw [if_neg one]
      unfold tlbHit
      split
      · exact absurd (BitVec.eq_of_toNat_eq ‹_›) zero
      · exact absurd (BitVec.eq_of_toNat_eq ‹_›) one
      · rfl

/-- Maintenance changes caches and TLBs, watches and waits, the marks of fills in flight, and the events that are counted. -/
def State.Maintains (s t : State) : Prop :=
  t = { s with cores := t.cores, dies := t.dies, strands := t.strands, bundles := t.bundles, evBuf := t.evBuf, xreads := t.xreads }

/-- A core is put back with fewer copies, and fills in flight are kept out of its L1. -/
theorem State.emptyL1_facts (s : State) (who : Strand → Bool) (hit : Nat → Nat → Nat → Bool) (d c : Nat) (k : Core) (fill : XRead → Bool) :
    ∃ t, (((s.fireWatches who hit).setCore d c k).spoilFills fill fun _ => false).noteKills s = t ∧ s.Maintains t ∧ t.core d c = k ∧ t.cycle = s.cycle ∧
      t.xreads = (s.spoilFills fill fun _ => false).xreads := by
  obtain ⟨e, same⟩ := (((s.fireWatches who hit).setCore d c k).spoilFills fill fun _ => false).noteKills_only s
  exact ⟨_, same, rfl, (s.fireWatches who hit).core_setCore d c k, rfl, rfl⟩

theorem State.dropTlb_maintains (s : State) (dies : List Nat) (core : Option (Nat × Nat)) (hit : Nat → Nat → Bool) : s.Maintains (s.dropTlb dies core hit) := by
  obtain ⟨⟨cs, ds, ss, bs, ev, same⟩, -⟩ := s.dropTlb_facts dies core hit
  rw [same]
  rfl

theorem State.Maintains.cycle {s t : State} (h : s.Maintains t) : t.cycle = s.cycle := by rw [h]
theorem State.Maintains.nextId {s t : State} (h : s.Maintains t) : t.nextId = s.nextId := by rw [h]

section Instructions
variable {s : State} {st : Strand} {d a b : BitVec 7} (cur : s.curStrand = some st)
include cur

/-- At program level the four raise PRIV with their word (R300). -/
theorem exec_maintenance_priv (program : st.level = false) : exec (.l1inv a b) s = .next (s.raiseWord st cPriv (wordA 0x73 0 0 a b)) ∧
    exec (.tlbinv d a b) s = .next (s.raiseWord st cPriv (wordA 0x73 1 d a b)) ∧ exec (.shoot d a b) s = .next (s.raiseWord st cPriv (wordA 0x73 2 d a b)) ∧
    exec (.rdcinv a b) s = .next (s.raiseWord st cPriv (wordA 0x73 3 0 a b)) := by
  have barred : (!st.level) = true := by simp [program]
  exact ⟨(State.onStrand_some cur _).trans (congrArg _ (if_pos barred)), (State.onStrand_some cur _).trans (congrArg _ (if_pos barred)),
    (State.onStrand_some cur _).trans (congrArg _ (if_pos barred)), (State.onStrand_some cur _).trans (congrArg _ (if_pos barred))⟩

variable (handler : st.level = true)
include handler

/-- L1INV of everything: the L1 of the core and the load entries of its reuse table are gone (R299). -/
theorem exec_l1inv_all : ∃ t, exec (.l1inv a 0) s = .next (t.putStrand ((t.seen st).retire s.cycle 1)) ∧ s.Maintains t ∧
    t.core st.at_.die st.at_.core = { (s.core st.at_.die st.at_.core).killLoads fun _ => true with l1 := [] } ∧
    t.xreads = (s.spoilFills (fun r => r.src = st.at_.die && r.strand.core = st.at_.core) fun _ => false).xreads := by
  obtain ⟨t, same, keeps, core, cycle, fills⟩ := s.emptyL1_facts
    (fun x => x.at_.die = st.at_.die && x.at_.core = st.at_.core) (fun pa _ _ => holdsLine (s.core st.at_.die st.at_.core).l1 s.cycle (pa / 128))
    st.at_.die st.at_.core { (s.core st.at_.die st.at_.core).killLoads fun _ => true with l1 := [] } fun r => r.src = st.at_.die && r.strand.core = st.at_.core
  refine ⟨t, (State.onStrand_some cur _).trans (congrArg _ ((if_neg (by simp [handler])).trans ((if_pos rfl).trans ?_))), keeps, core, fills⟩
  dsimp only
  rw [same, cycle]

/-- L1INV of a line: its sectors and the load entries in it are gone. -/
theorem exec_l1inv_line (one : b ≠ 0) (virt : addrKind (st.pairAddr a).toNat = .virt) {l : Leaf}
    (leaf : s.tlbLeaf st.at_.die (some st.at_.core) st.pdom.toNat (pageOf (st.pairAddr a).toNat) = some l) :
    ∃ t, exec (.l1inv a b) s = .next (t.putStrand ((t.seen st).retire s.cycle 1)) ∧ s.Maintains t ∧
      t.core st.at_.die st.at_.core = { (s.core st.at_.die st.at_.core).killLoads fun y => y.atoms.any fun x => x / 4 = l.pa (st.pairAddr a).toNat / 128 with
        l1 := (s.core st.at_.die st.at_.core).l1.filter fun x => x.atom / 4 != l.pa (st.pairAddr a).toNat / 128 } ∧
      t.xreads = (s.spoilFills (fun r => r.src = st.at_.die && r.strand.core = st.at_.core && r.pa / 128 = l.pa (st.pairAddr a).toNat / 128) fun _ => false).xreads := by
  obtain ⟨t, same, keeps, core, cycle, fills⟩ := s.emptyL1_facts (fun x => x.at_.die = st.at_.die && x.at_.core = st.at_.core)
    (fun pa _ _ => holdsLine (s.core st.at_.die st.at_.core).l1 s.cycle (l.pa (st.pairAddr a).toNat / 128) && pa / 128 = l.pa (st.pairAddr a).toNat / 128)
    st.at_.die st.at_.core { (s.core st.at_.die st.at_.core).killLoads fun y => y.atoms.any fun x => x / 4 = l.pa (st.pairAddr a).toNat / 128 with
      l1 := (s.core st.at_.die st.at_.core).l1.filter fun x => x.atom / 4 != l.pa (st.pairAddr a).toNat / 128 }
    fun r => r.src = st.at_.die && r.strand.core = st.at_.core && r.pa / 128 = l.pa (st.pairAddr a).toNat / 128
  refine ⟨t, (State.onStrand_some cur _).trans (congrArg _ ((if_neg (by simp [handler])).trans ((if_neg one).trans ?_))), keeps, core, fills⟩
  dsimp only
  rw [if_pos virt, leaf]
  dsimp only
  rw [same, cycle]

theorem exec_tlbinv : ∃ t, exec (.tlbinv d a b) s = .next (t.putStrand ((t.seen st).retire s.cycle 1)) ∧
    t = s.dropTlb [st.at_.die] (some (st.at_.die, st.at_.core)) (tlbHit b.toNat ((st.s d).toNat % 256) (pageOf (st.pairAddr a).toNat)) := by
  refine ⟨_, (State.onStrand_some cur _).trans (congrArg _ ((if_neg (by simp [handler])).trans ?_)), rfl⟩
  dsimp only
  rw [(s.dropTlb_maintains ..).cycle]

/-- SHOOT retires, or waits for what translated through the entries that it has removed (R300). -/
theorem exec_shoot : ∃ t, t = s.dropTlb [0, 1, 2] none (tlbHit b.toNat ((st.s d).toNat % 256) (pageOf (st.pairAddr a).toNat)) ∧
    (t.shootWaits s.nextId s.cycle = false → exec (.shoot d a b) s = .next (t.putStrand ((t.seen st).retire s.cycle 1))) ∧
    (t.shootWaits s.nextId s.cycle = true → exec (.shoot d a b) s = .next (State.putStrand { t with nextId := s.nextId + 1 }
      ((t.seen st).block s.cycle 1 false (.shoot s.nextId s.cycle)))) := by
  refine ⟨_, rfl, fun free => ?_, fun waits => ?_⟩
  · refine (State.onStrand_some cur _).trans (congrArg _ ((if_neg (by simp [handler])).trans ?_))
    dsimp only
    rw [(s.dropTlb_maintains ..).cycle, (s.dropTlb_maintains ..).nextId]
    exact if_neg (by simp [free])
  · refine (State.onStrand_some cur _).trans (congrArg _ ((if_neg (by simp [handler])).trans ?_))
    dsimp only
    rw [(s.dropTlb_maintains ..).cycle, (s.dropTlb_maintains ..).nextId]
    exact if_pos waits

/-- RDCINV: the sectors of a line, or of all, are gone from the RDC of the die (R299). -/
theorem exec_rdcinv : ∃ t, exec (.rdcinv a b) s = .next (t.putStrand ((t.seen st).retire s.cycle 1)) ∧ s.Maintains t ∧
    t.die st.at_.die = { s.die st.at_.die with rdc := (s.die st.at_.die).rdc.filter fun y => !(b = 0 || y.atom / 4 = (st.pair a).toNat % 2 ^ 48 / 128) } ∧
    t.xreads = (s.spoilFills (fun _ => false) fun r => r.src = st.at_.die && (b = 0 || r.pa / 128 = (st.pair a).toNat % 2 ^ 48 / 128)).xreads :=
  ⟨_, (State.onStrand_some cur _).trans (congrArg _ (if_neg (by simp [handler]))), rfl, State.die_setDie .., rfl⟩

end Instructions

/-- Settles O43: at program level by the word that PRIV shows, at handler level by what each instruction removes (`State.emptyL1_facts`,
`State.dropTlb_facts`). -/
theorem maintenanceRemovesCopies : Obligations.MaintenanceRemovesCopies := by
  rintro d a b s st cur die core rfl rfl passes rfl hit rfl quiet rfl without rfl
  have covers : tlbHit b.toNat ((st.s d).toNat % 256) (pageOf (st.pairAddr a).toNat) = fun p q => if b = 0 then p = (st.s d).toNat % 256 && q = pageOf (st.pairAddr a).toNat
      else if b = 1 then p = (st.s d).toNat % 256 else true := funext fun v => funext (tlbHit_eq b _ _ v)
  refine ⟨⟨_, State.onStrand_some cur _, Strand.retire_moved ..⟩, fun program => ?_, fun handler zero => ?_, fun handler one va hva l virt leaf => ?_, fun handler => ?_, fun handler => ?_,
    fun handler => ?_⟩
  · obtain ⟨l1inv, tlbinv, shoot, rdcinv⟩ := exec_maintenance_priv (d := d) (a := a) (b := b) cur program
    simp only [List.forall_mem_cons, List.not_mem_nil, false_implies, implies_true, and_true]
    exact ⟨l1inv, tlbinv, shoot, rdcinv⟩
  · subst zero
    obtain ⟨t, run, keeps, emptied, fills⟩ := exec_l1inv_all (a := a) cur handler
    refine ⟨t, ⟨_, run, t.seen_retires ..⟩, keeps, emptied, fun r hr here core => ?_⟩
    exact State.spoilFills_noL1 (fills ▸ hr) (fun _ _ _ => rfl) (by simp [here, core])
  · subst hva
    obtain ⟨t, run, keeps, emptied, fills⟩ := exec_l1inv_line cur handler one virt leaf
    refine ⟨t, ⟨_, run, t.seen_retires ..⟩, keeps, ?_, fun r hr here core line => ?_⟩
    · rw [emptied]
      simp only [ne_eq, decide_not]
      rfl
    · exact State.spoilFills_noL1 (fills ▸ hr) (fun _ _ _ => rfl) (by simp [here, core, line])
  · obtain ⟨t, run, rfl⟩ := exec_tlbinv (d := d) (a := a) (b := b) cur handler
    obtain ⟨-, cores, dies⟩ := s.dropTlb_facts [st.at_.die] (some (st.at_.die, st.at_.core)) (tlbHit b.toNat ((st.s d).toNat % 256) (pageOf (st.pairAddr a).toNat))
    refine ⟨_, ⟨_, run, State.seen_retires ..⟩, s.dropTlb_maintains .., fun e f => ?_, fun e => ?_⟩
    · rw [cores e f, covers]
      by_cases mine : (e, f) = (st.at_.die, st.at_.core) <;> simp [mine]
    · rw [dies e, covers]
      by_cases mine : e = st.at_.die <;> simp [mine]
  · obtain ⟨t, rfl, retires, waits⟩ := exec_shoot (d := d) (a := a) (b := b) cur handler
    obtain ⟨-, cores, dies⟩ := s.dropTlb_facts [0, 1, 2] none (tlbHit b.toNat ((st.s d).toNat % 256) (pageOf (st.pairAddr a).toNat))
    have all (e : Nat) (small : e ≤ 2) : [0, 1, 2].contains e = true := by
      have : e = 0 ∨ e = 1 ∨ e = 2 := by omega
      simpa using this
    refine ⟨_, s.dropTlb_maintains .., fun free => ⟨_, retires free, State.seen_retires ..⟩, waits, fun e small f => ?_, fun e small => ?_⟩
    · rw [cores e f, if_pos (all e small), covers]
    · rw [dies e, if_pos (all e small), covers]
  · obtain ⟨t, run, keeps, emptied, fills⟩ := exec_rdcinv (a := a) (b := b) cur handler
    refine ⟨t, ⟨_, run, t.seen_retires ..⟩, keeps, ?_, fun r hr here line => ?_⟩
    · rw [emptied]
      simp 
    · exact State.spoilFills_noRdc (fills ▸ hr) (fun _ _ _ => rfl) (by simpa [here] using line)

end Sys2Proof.Machine
end

section
namespace Sys2Proof.Machine

/-! ### Writes and requests at their homes, and the host (R146 to R149, R151, R301, R302, R372, R375) -/

section Touches
variable {s t : State}

theorem State.L2Only.tagNotes (h : s.L2Only t) (n : Nat) (who : List (Nat × Bool)) : s.L2Only (t.tagNotes n who) :=
  ⟨h.die, congrArg (fun x : State => x.tagNotes n who) h.rest⟩

/-- The accesses of a bus agent are counted in the L2s of their homes alone (R302). -/
theorem State.l2Only_busTouch (s : State) (pa n : Nat) (write : Bool) : s.L2Only (s.busTouch pa n write) := by
  have folded : ∀ (l : List (Nat × List Byte)) (t : State), s.L2Only t → s.L2Only (l.foldl (fun u p => u.l2Touch p.1 none write) t) := by
    intro l
    induction l with
    | nil => exact fun _ h => h
    | cons p l ih => exact fun t h => ih _ (h.trans (t.l2Only_l2Touch ..))
  exact folded _ s (.refl s)

theorem State.L2Only.mem (h : s.L2Only t) : t.mem = s.mem := by rw [h.rest]

theorem State.L2Only.atomMark (h : s.L2Only t) (a : Nat) : t.atomMark a = s.atomMark a := by rw [h.rest]; rfl

theorem State.L2Only.rangeMarked (h : s.L2Only t) (pa n : Nat) : t.rangeMarked pa n = s.rangeMarked pa n := by
  simp only [State.rangeMarked, h.atomMark]

/-- A write that follows its L2 access changes memory, marks, watches and the parts noted for a cistern step, beside the L2 (R127, R312, R375). -/
theorem State.L2Only.homeWrite (h : s.L2Only t) (pa : Nat) (bs : List Byte) (strong : Bool) : ∃ u, t.homeWrite pa bs strong = u ∧
    u = { s with mem := writeBytes s.mem pa bs, poison := u.poison, lost := u.lost, link := { s.link with dirty := u.link.dirty }, strands := u.strands,
                 bundles := u.bundles, dies := u.dies, evBuf := u.evBuf } ∧
    (∀ d, u.die d = { s.die d with l2 := (u.die d).l2 }) ∧
    (∀ p, p ∈ u.poison ↔ p ∈ s.poison ∧ ¬ (pa ≤ 32 * p ∧ 32 * p + 32 ≤ pa + bs.length)) ∧
    (∀ p, p ∈ u.lost ↔ p ∈ s.lost ∧ ¬ (strong = true ∧ pa ≤ 32 * p ∧ 32 * p + 32 ≤ pa + bs.length)) := by
  obtain ⟨q, l, dirty, strands, bundles, wrote, poison, lost⟩ := t.homeWrite_parts pa bs strong
  obtain ⟨dies, notes, rfl⟩ : ∃ ds ev, t = { s with dies := ds, evBuf := ev } := ⟨_, _, h.rest⟩
  exact ⟨_, wrote, rfl, h.die, poison, lost⟩

end Touches

section Writes
variable {s : State} {w : XWrite}

/-- The bytes of a cross-die write stand at its home, and APPLIED counts it (R149). -/
theorem State.applyWrite_facts (s : State) (w : XWrite) : ∃ t, s.applyWrite w = t ∧ t.hg = s.hg ∧ t.cores = s.cores ∧
    (t.die w.dst).applied = (s.die w.dst).applied.set w.src (((s.die w.dst).applied.getD w.src 0 + 1) % 2 ^ 16) ∧
    t.xwrites = (s.xwrites.map fun v => if v.id = w.id then { v with applied := true } else v) ∧
    (w.dst = 3 → t.mem = s.mem ∧ t.link.kmem = writeBytes s.link.kmem (w.pa - 2 ^ 48) w.bytes) ∧
    (w.dst ≠ 3 → t.mem = writeBytes s.mem w.pa w.bytes ∧ (w.poison = true → w.pa / 32 ∈ t.poison)) := by
  unfold State.applyWrite
  by_cases far : w.dst = 3
  · rw [if_pos far]
    exact ⟨_, rfl, rfl, rfl, congrArg Die.applied (State.die_setDie ..), rfl, fun _ => ⟨rfl, rfl⟩, fun near => absurd far near⟩
  · rw [if_neg far]
    have touched : s.L2Only ((s.l2Touch w.pa w.place true).tagNotes s.evBuf.length (s.who (s.keyOf w.task))) := (s.l2Only_l2Touch ..).tagNotes ..
    obtain ⟨u, wrote, same, die, -, -⟩ := touched.homeWrite w.pa w.bytes w.whole
    have applied : (u.die w.dst).applied = (s.die w.dst).applied := by rw [die w.dst]
    have hg := congrArg State.hg same
    have cores := congrArg State.cores same
    have xwrites := congrArg State.xwrites same
    have mem := congrArg State.mem same
    dsimp only at hg cores xwrites mem ⊢
    rw [wrote]
    have marks : (if w.poison = true then { u with poison := insertNat (w.pa / 32) u.poison } else u) =
        { u with poison := if w.poison = true then insertNat (w.pa / 32) u.poison else u.poison } := by
      split <;> rfl
    rw [marks]
    refine ⟨_, rfl, hg, cores, ?_, by rw [← xwrites]; rfl, fun companion => absurd companion far, fun _ => ⟨mem, fun bad => ?_⟩⟩
    · rw [← applied]
      exact congrArg Die.applied (State.die_setDie ..)
    · show w.pa / 32 ∈ (if w.poison = true then _ else _)
      rw [if_pos bad]
      exact (mem_insertNat ..).2 (.inr rfl)

theorem exec_crossDieWriteApply {id : Nat} (sent : s.xwrites.find? (fun w => w.id = id) = some w) (ready : s.writeReady w = true) :
    exec (.crossDieWriteApply id) s = .next (s.applyWrite w) := by
  show execCrossDieWriteApply id s = _
  unfold execCrossDieWriteApply
  rw [sent]
  dsimp only
  rw [if_pos ready]

theorem exec_writeAcknowledge {id : Nat} (sent : s.xwrites.find? (fun w => w.id = id) = some w) (applied : w.applied = true) :
    exec (.writeAcknowledge id) s = .next (s.ackWrite w) := by
  show execWriteAcknowledge id s = _
  unfold execWriteAcknowledge
  rw [sent]
  dsimp only
  rw [if_pos applied]

/-- A row that stands among a die's rows reads as it was put. -/
theorem State.row_setRow {d k : Nat} (stands : k < (s.die d).rows.length) (r : List Nat) : (s.setRow d k r).row d k = r := by
  unfold State.row State.setRow
  dsimp only
  rw [State.die_setDie]
  simp [stands]

/-- An acknowledgement lowers the counter of its core, ends the write and raises the row (R148, R149). -/
theorem State.ackWrite_facts (s : State) {c : Nat} (sender : w.core = some c) : ∃ t, s.ackWrite w = t ∧
    (t.core w.src c).outstanding = (s.core w.src c).outstanding - 1 ∧ t.xwrites = s.xwrites.filter (fun v => v.id != w.id) ∧
    (w.dst < (s.die w.src).rows.length → t.row w.src w.dst = List.zipWith (fun a c => if atLeast c a then c else a) (s.row w.src w.dst) (s.die w.dst).applied) ∧
    t = { s with cores := t.cores, dies := t.dies, xwrites := t.xwrites } := by
  unfold State.ackWrite
  rw [sender]
  refine ⟨_, rfl, ?_, rfl, fun stands => ?_, rfl⟩
  · show (State.core (State.setCore _ _ _ _) w.src c).outstanding = _
    rw [State.core_setCore]
    show (State.core (State.setCore _ _ _ _) w.src c).outstanding = _
    rw [State.core_setCore]
    rfl
  · show (State.die (State.setDie _ _ _) w.src).rows.getD w.dst _ = _
    rw [State.die_setDie]
    exact State.row_setRow stands _

end Writes

theorem exec_readRequestServe {s : State} {id : Nat} {r : XRead} (data : Vec) (sent : s.xreads.find? (fun r => r.id = id) = some r)
    (served : s.served r.dst r.row = true) : exec (.readRequestServe id data) s = .next (s.serveRead r data) := by
  show execReadRequestServe id data s = _
  unfold execReadRequestServe
  rw [sent]
  dsimp only
  rw [if_pos served]

section Host
variable {s : State}

/-- Memory after bytes are written, byte by byte. -/
theorem readByte_writeBytes {m : List Host.Cell} (wf : Memory.wf m = true) (a : Nat) (bs : List Byte) (x : Nat) :
    readByte (writeBytes m a bs) x = if a ≤ x ∧ x < a + bs.length then bs.getD (x - a) 0 else readByte m x := by
  by_cases inside : a ≤ x ∧ x < a + bs.length
  · obtain ⟨k, rfl⟩ := Nat.exists_eq_add_of_le inside.1
    have short : k < bs.length := by omega
    rw [if_pos inside, readByte_writeBytes_inside short wf, Nat.add_sub_cancel_left, List.getD_eq_getElem?_getD, List.getElem?_eq_getElem short, Option.getD_some]
  · rw [if_neg inside, readByte_writeBytes_outside (by omega) wf]

/-- A write within one atom leaves its bytes and every other byte (R127). -/
theorem State.readByte_homeWriteAtom (s : State) (wf : Memory.wf s.mem = true) (pa : Nat) (bs : List Byte) (strong : Bool) (x : Nat) :
    readByte (s.homeWriteAtom pa bs strong).mem x = if pa ≤ x ∧ x < pa + bs.length then bs.getD (x - pa) 0 else readByte s.mem x := by
  obtain ⟨q, l, dirty, strands, bundles, parts, -, -⟩ := s.homeWriteAtom_parts pa bs strong
  rw [parts]
  exact readByte_writeBytes wf pa bs x

theorem State.hostMay_of (booted : s.booted = true) (port : s.port.hostDown = false) : s.hostMay = true := by
  simp [State.hostMay, booted, port]

theorem inDevice_of {pa n : Nat} (nonempty : 1 ≤ n) (inside : pa + n ≤ 2 ^ 37) : inDevice pa n = true := by
  simp only [inDevice, bne_iff_ne, Bool.and_eq_true, decide_eq_true_eq]
  omega

theorem exec_hostMemoryWrite {a : BitVec 48} {bs : List Byte} (may : s.hostMay = true) (nonempty : 1 ≤ bs.length) (fits : bs.length ≤ 512)
    (inside : a.toNat + bs.length ≤ 2 ^ 37) :
    exec (.hostMemoryWrite a bs) s = .next ((s.busTouch a.toNat bs.length true).homeWrite a.toNat bs true) := by
  have reaches : (s.hostMay && inDevice a.toNat bs.length && decide (bs.length ≤ 512)) = true := by
    simp only [may, inDevice_of nonempty inside, fits, decide_true, Bool.and_true]
  exact congrArg _ (if_pos reaches)

theorem exec_hostMemoryRead {a : BitVec 48} {n : Nat} (may : s.hostMay = true) (nonempty : 1 ≤ n) (fits : n ≤ 4096) (inside : a.toNat + n ≤ 2 ^ 37) :
    ∃ t, t = s.busTouch a.toNat n false ∧
      exec (.hostMemoryRead a n) s = .next { t with port := { t.port with reply := (readBytes t.mem a.toNat n, t.rangeMarked a.toNat n) } } := by
  have reaches : (s.hostMay && inDevice a.toNat n && decide (n ≤ 4096)) = true := by
    simp only [may, inDevice_of nonempty inside, fits, decide_true, Bool.and_true]
  exact ⟨_, rfl, congrArg _ (if_pos reaches)⟩

theorem State.masterRead_host {addr : Nat} (booted : s.booted = true) (port : s.port.hostDown = false) (map : 256 ≤ addr) :
    s.masterRead 1 addr = { s with port := { s.port with regReply := s.regRead64 (addr / 8 * 8) } } := by
  simp [State.masterRead, booted, port, Nat.not_lt.2 map]

end Host

section Atomics

/-- What a PCIe AtomicOp leaves at its place: FetchAdd, Swap, CAS (R301). -/
def busResult (op width old x y : Nat) : Nat :=
  if op = 0 then (old + x) % 2 ^ (8 * width) else if op = 1 then x % 2 ^ (8 * width) else if old = x % 2 ^ (8 * width) then y % 2 ^ (8 * width) else old

variable {s : State} {op pa width : Nat}

/-- The bytes of a number read, put back in their place, are those that stand there. -/
theorem readByte_rewritten (m : List Host.Cell) (a n b : Nat) :
    (if a ≤ b ∧ b < a + n then (natBytesLE n (readNat m a n)).getD (b - a) 0 else readByte m b) = readByte m b := by
  have read : natBytesLE n (readNat m a n) = readBytes m a n := by
    have := natBytesLE_bytesNat (readBytes m a n)
    rwa [readBytes_length] at this
  by_cases inside : a ≤ b ∧ b < a + n
  · rw [if_pos inside, read, readBytes_getD _ _ _ _ (by omega), Nat.add_sub_cancel' inside.1]
  · rw [if_neg inside]

/-- An AtomicOp on an unmarked atom answers the old bytes and leaves its result there (R146). -/
theorem State.busAtomic_unmarked (wf : Memory.wf s.mem = true) (whole : s.atomMark (pa / 32) = 0) (known : op ≤ 2) (x y : Nat) :
    ∃ t, s.busAtomic op pa width x y = ((natBytesLE width (readNat s.mem pa width), false), t) ∧
      ∀ b, readByte t.mem b = if pa ≤ b ∧ b < pa + width then (natBytesLE width (busResult op width (readNat s.mem pa width) x y)).getD (b - pa) 0
        else readByte s.mem b := by
  unfold State.busAtomic
  have touched := s.l2Only_busTouch pa width true
  generalize s.busTouch pa width true = v at touched
  have mem := touched.mem
  have mark : v.atomMark (pa / 32) = 0 := (touched.atomMark _).trans whole
  dsimp only
  rw [mem, mark, if_neg (by simp)]
  have wrote (new b : Nat) := v.readByte_homeWriteAtom (mem.symm ▸ wf) pa (natBytesLE width new) false b
  simp only [mem, natBytesLE_length] at wrote
  obtain rfl | rfl | rfl : op = 0 ∨ op = 1 ∨ op = 2 := by omega
  · refine ⟨_, rfl, ?_⟩
    rw [show busResult 0 width (readNat s.mem pa width) x y = (readNat s.mem pa width + x % 2 ^ (8 * width)) % 2 ^ (8 * width) from
      (Nat.add_mod_mod ..).symm]
    exact wrote _
  · exact ⟨_, rfl, wrote _⟩
  · by_cases same : readNat s.mem pa width = x % 2 ^ (8 * width)
    · simp only [atomicNew, busResult, same, if_true]
      exact ⟨_, rfl, wrote _⟩
    · simp only [atomicNew, busResult, same, if_false]
      refine ⟨_, rfl, fun b => ?_⟩
      rw [mem]
      exact (readByte_rewritten ..).symm

theorem pcieAtomic_of (known : (op ≤ 1 ∧ (width = 4 ∨ width = 8)) ∨ (op = 2 ∧ (width = 4 ∨ width = 8 ∨ width = 16))) (aligned : pa % width = 0) :
    pcieAtomic op pa width = true := by
  simpa [pcieAtomic, aligned, or_assoc] using known

theorem exec_hostAtomic {a : BitVec 48} (x y : BitVec 128) {reply : List Byte × Bool} {t : State} (may : s.hostMay = true) (place : inDevice a.toNat width = true)
    (known : pcieAtomic op a.toNat width = true) (done : s.busAtomic op a.toNat width x.toNat y.toNat = (reply, t)) :
    exec (.hostAtomic op a width x y) s = .next { t with port := { t.port with reply := reply } } := by
  show execHostAtomic op a width x y s = _
  unfold execHostAtomic
  rw [if_pos (by simp only [may, place, known, Bool.and_true]), done]

theorem exec_companionAtomicop {a : BitVec 48} (x y : BitVec 128) {reply : List Byte × Bool} {t : State} (booted : s.booted = true) (link : s.linkUp = true)
    (paired : s.link.paired = true) (place : inDevice a.toNat width = true) (known : pcieAtomic op a.toNat width = true)
    (done : s.busAtomic op a.toNat width x.toNat y.toNat = (reply, t)) :
    exec (.companionAtomicop op a width x y) s = .next { t with link := { t.link with reply := reply } } := by
  show execCompanionAtomicop op a width x y s = _
  unfold execCompanionAtomicop
  rw [if_pos (by simp only [booted, link, paired, place, known, Bool.and_true]), done]

end Atomics

/-- Settles O47: an access changes the L2s of its homes and then memory and marks there, so that each clause is the rule of its event or access:
of a write, its acknowledgement, a request, the host's writes and reads, and an AtomicOp. -/
theorem homesAndHostReachMemory : Obligations.HomesAndHostReachMemory := by
  unfold Obligations.HomesAndHostReachMemory
  intro s wf
  refine ⟨fun id w sent => ⟨fun ready => ?_, fun applied c sender => ?_⟩, fun id r data sent served => ?_, fun booted port a => ⟨fun bs nonempty fits inside => ?_,
    fun n nonempty fits inside => ?_, State.masterRead_host booted port⟩, fun op width a x y known aligned inside whole old isOld new isNew => ?_⟩
  · obtain ⟨t, eq, facts⟩ := s.applyWrite_facts w
    exact ⟨t, (exec_crossDieWriteApply sent ready).trans (congrArg _ eq), facts⟩
  · obtain ⟨t, eq, counter, ended, row, rest⟩ := s.ackWrite_facts sender
    refine ⟨t, (exec_writeAcknowledge sent applied).trans (congrArg _ eq), counter, ?_, fun _ home four => row (by omega), rest⟩
    simp only [ended, ne_eq, decide_not]
    rfl
  · obtain ⟨t, eq, gone, kept, done⟩ := s.serveRead_facts r data
    refine ⟨t, (exec_readRequestServe data sent served).trans (congrArg _ eq), ?_, kept, done⟩
    simp only [gone, ne_eq, decide_not]
    rfl
  · obtain ⟨u, wrote, same, die, poison, lost⟩ := (s.l2Only_busTouch a.toNat bs.length true).homeWrite a.toNat bs true
    have mem := congrArg State.mem same
    refine ⟨u, (exec_hostMemoryWrite (State.hostMay_of booted port) nonempty fits inside).trans (congrArg _ wrote), fun x => ?_, fun p => ⟨poison p, ?_⟩, ?_, die⟩
    · rw [mem]
      exact readByte_writeBytes wf ..
    · simpa using lost p
    · rw [mem]
      exact same
  · obtain ⟨t, isTouch, read⟩ := exec_hostMemoryRead (State.hostMay_of booted port) nonempty fits inside
    have touched : s.L2Only t := isTouch ▸ s.l2Only_busTouch ..
    have reply : (readBytes t.mem a.toNat n, t.rangeMarked a.toNat n) = (readBytes s.mem a.toNat n, s.rangeMarked a.toNat n) := by
      rw [touched.mem, touched.rangeMarked]
    rw [reply] at read
    exact ⟨t, read, touched.rest, touched.die⟩
  · subst isOld
    have place : inDevice a.toNat width = true := inDevice_of (by omega) inside
    have pcie := pcieAtomic_of known aligned
    obtain ⟨t, done, bytes⟩ := State.busAtomic_unmarked (op := op) (width := width) wf whole (by omega) x.toNat y.toNat
    rw [show busResult op width (readNat s.mem a.toNat width) x.toNat y.toNat = new from isNew.symm] at bytes
    exact ⟨fun booted port => ⟨_, exec_hostAtomic x y (State.hostMay_of booted port) place pcie done, rfl, bytes⟩,
      fun booted link paired => ⟨_, exec_companionAtomicop x y booted link paired place pcie done, rfl, bytes⟩⟩

end Sys2Proof.Machine
end

section
namespace Sys2Proof
open Sys2Proof.Laws

/-! ### Words written out from the encoding tables (R158, R159, R162 to R166) -/

/-- Words that are the encoding of a well-formed instruction are read as it. -/
theorem decodeWords_eq_of_encode_eq {i : Instr} {ws : List Word} (wf : i.wf = true) (words : encode i = ws) : decodeWords ws = .instr i := by
  simpa [words] using decodeWords_encode wf []

/-- A word of major 0 is no instruction, whatever its other fields hold (R159). -/
theorem decodeWords_of_major_zero {w : Word} (zero : fOp w = 0) (ws : List Word) : decodeWords (w :: ws) = .illegal w := by
  have noInstr : decodeMain none none w = none := by simp [decodeMain, zero]
  simp [decodeWords, decodeLast, zero, noInstr]

/-- Settles O58: each sequence of words is the encoding of a well-formed instruction, and the word 0 has the major 0. -/
theorem wordsDecodeAsTheTablesSay : Obligations.WordsDecodeAsTheTablesSay := by
  refine ⟨?_, ?_, ?_, ?_, ?_, ?_, ?_, ?_, ?_, ?_, ?_, decodeWords_of_major_zero rfl []⟩
  all_goals exact decodeWords_eq_of_encode_eq (by decide) (by decide)

end Sys2Proof
end

section
namespace Sys2Proof.Laws
open Machine

/-! ### The words of one major (R158, R162 to R166) -/

/-- The instructions of a table are well formed, carry the prefixes, and are encoded as the words of their codes. -/
def Encoded (mk : Option Msk) (x : Option (BitVec 25)) (word : BitVec 4 → Word) (table : List (Nat × Instr)) : Prop :=
  ∀ p ∈ table, p.2.wf = true ∧ p.2.mskOf = mk ∧ p.2.immOf = x ∧ p.2.word = word (BitVec.ofNat 4 p.1)

section Tables
variable {mk : Option Msk} {x : Option (BitVec 25)} {word : BitVec 4 → Word} {table more : List (Nat × Instr)} {op : BitVec 7}

theorem Encoded.of_map (columns : table.map (fun p => (p.2.wf, p.2.mskOf, p.2.immOf, p.2.word)) =
    table.map fun p => (true, mk, x, word (BitVec.ofNat 4 p.1))) : Encoded mk x word table := fun p member => by
  simpa only [Prod.mk.injEq] using List.map_inj_left.mp columns p member

theorem Encoded.append (first : Encoded mk x word table) (second : Encoded mk x word more) : Encoded mk x word (table ++ more) :=
  List.forall_mem_append.mpr ⟨first, second⟩

theorem forall_mem_ite {α : Type} {c : Prop} [Decidable c] {l : List α} {P : α → Prop} : (∀ p ∈ (if c then l else []), P p) ↔ (c → ∀ p ∈ l, P p) := by
  split <;> simp [*]

theorem Encoded.ite {c : Prop} [Decidable c] (under : c → Encoded mk x word table) : Encoded mk x word (if c then table else []) :=
  forall_mem_ite.mpr under

/-- The table of a major that is neither MSK nor IMM and sets no limit on the bits of an IMM before it (R162). -/
theorem codes_of_major (major : ∀ fn, fOp (word fn) = op) (plain : op ∉ [0x03#7, 0x42#7, 0x45#7, 0x7E#7, 0x7F#7])
    (entries : Encoded mk x word table) (others : ∀ fn, (∀ p ∈ table, p.1 ≠ fn.toNat) → decodeMain mk x (word fn) = none) : Codes mk x word table := by
  simp only [List.mem_cons, List.not_mem_nil, or_false, not_or] at plain
  obtain ⟨li, gather, scatter, msk, imm⟩ := plain
  refine codes_of_table (fun fn => major fn ▸ msk) (fun fn => major fn ▸ imm) (fun fn y _ => ?_) entries others
  rw [major fn]
  simp [immBitsOk, li, gather, scatter]

/-- The table of a major with sixteen codes leaves no code out. -/
theorem codes_of_full_major (major : ∀ fn, fOp (word fn) = op) (plain : op ∉ [0x03#7, 0x42#7, 0x45#7, 0x7E#7, 0x7F#7])
    (codes : table.map Prod.fst = List.range 16) (entries : Encoded mk x word table) : Codes mk x word table := by
  refine codes_of_major major plain entries fun fn other => ?_
  have stands : fn.toNat ∈ table.map Prod.fst := codes ▸ List.mem_range.mpr fn.isLt
  obtain ⟨p, member, code⟩ := List.mem_map.mp stands
  exact absurd code (other p member)

end Tables

end Sys2Proof.Laws
end

section
namespace Sys2Proof.Machine
open Sys2Proof.Laws

/-! ### SALU and SALUI (R175, R176) -/

section Scalar
variable {i : Instr} {n : Nat} {x : Option (BitVec 25)} {d a k : BitVec 7} {g : Strand → Word}

theorem writesS_value {f : Strand → Word} (op : ∀ s, exec i s = s.simple n fun st => st.setS d (f st)) (value : ∀ st, f st = g st) : WritesS i n d g :=
  funext value ▸ writesS_of op

theorem salui_writes {f : Word → Word → Word} (op : ∀ s, exec i s = salui f x d a k s) (value : ∀ st : Strand, f (st.s a) (immWord7 x k) = g st) :
    WritesS i (words [x.isSome]) d g :=
  writesS_of fun s => (op s).trans (by simp only [salui, value, len1_words])

end Scalar

/-- Settles O1: each operation by its function of Scalar.lean (`writesS_value`, `salui_writes`), the words by the two full tables. -/
theorem saluAndSaluiSetTheirResult : Obligations.SaluAndSaluiSetTheirResult := by
  refine ⟨fun d a b => ?_, fun x d a i k bare prefixed => ?_, fun x d a b => ⟨?_, ?_⟩⟩
  · exact ⟨writesS_of fun _ => rfl, writesS_of fun _ => rfl, writesS_of fun _ => rfl,
      writesS_value (fun _ => rfl) fun _ => mulHighS_eq .., writesS_value (fun _ => rfl) fun _ => mulHighU_eq ..,
      writesS_of fun _ => rfl, writesS_of fun _ => rfl, writesS_of fun _ => rfl,
      writesS_value (fun _ => rfl) fun _ => shiftLeft_eq .., writesS_value (fun _ => rfl) fun _ => shiftRight_eq ..,
      writesS_value (fun _ => rfl) fun _ => shiftRightS_eq .., writesS_of fun _ => rfl, writesS_of fun _ => rfl, writesS_of fun _ => rfl,
      writesS_of fun _ => rfl, writesS_of fun _ => rfl⟩
  · obtain rfl := immWord7_of x i k bare prefixed
    exact ⟨salui_writes (fun _ => rfl) fun _ => rfl, salui_writes (fun _ => rfl) fun _ => rfl, salui_writes (fun _ => rfl) fun _ => rfl,
      salui_writes (fun _ => rfl) fun _ => mulHighS_eq .., salui_writes (fun _ => rfl) fun _ => mulHighU_eq ..,
      salui_writes (fun _ => rfl) fun _ => rfl, salui_writes (fun _ => rfl) fun _ => rfl, salui_writes (fun _ => rfl) fun _ => rfl,
      salui_writes (fun _ => rfl) fun _ => shiftLeft_eq .., salui_writes (fun _ => rfl) fun _ => shiftRight_eq ..,
      salui_writes (fun _ => rfl) fun _ => shiftRightS_eq ..,
      salui_writes (fun _ => rfl) fun _ => rfl, salui_writes (fun _ => rfl) fun _ => rfl, salui_writes (fun _ => rfl) fun _ => rfl,
      salui_writes (fun _ => rfl) fun _ => rfl, salui_writes (fun _ => rfl) fun _ => rfl⟩
  · exact codes_of_full_major (fun _ => fOp_wordA ..) (by decide) rfl (.of_map rfl)
  · exact codes_of_full_major (fun _ => fOp_wordA ..) (by decide) rfl (.of_map rfl)

end Sys2Proof.Machine
end

section
namespace Sys2Proof.Machine
open Sys2Proof.Laws

/-! ### LI, LIH, SBIT, BFX and BFI (R177 to R179) -/

/-- Two fields side by side, as a number. -/
theorem append_eq_ofNat {m n : Nat} (x : BitVec m) (y : BitVec n) : x ++ y = BitVec.ofNat (m + n) (x.toNat * 2 ^ n + y.toNat) := by
  rw [← Nat.shiftLeft_eq, Nat.shiftLeft_add_eq_or_of_lt y.isLt, ← BitVec.toNat_append, BitVec.ofNat_toNat, BitVec.setWidth_eq]

/-- The low n bits of a value, zero-extended or cut to m (R174). -/
theorem setWidth_low {w : Nat} (x : BitVec w) (m n : Nat) : (x.extractLsb' 0 n).setWidth m = BitVec.ofNat m (x.toNat % 2 ^ n) := by
  rw [← BitVec.ofNat_toNat, BitVec.extractLsb'_toNat, Nat.shiftRight_zero]

/-- Bit k of the field that BFX extracts (R179). -/
theorem getLsbD_field (x y : Word) (k : Nat) : ((x >>> fieldLsb y) &&& lowMask (fieldWidth y)).getLsbD k =
    (decide (k < min (y.toNat / 2 ^ 8 % 2 ^ 6) 32) && x.getLsbD (y.toNat % 32 + k)) := by
  rw [fieldLsb_eq, fieldWidth_eq, BitVec.getLsbD_and, BitVec.getLsbD_ushiftRight, getLsbD_lowMask _ _ (by omega), Bool.and_comm]

/-- Bit k of the word into which BFI inserts (R179). -/
theorem getLsbD_inserted (x y old : Word) {k : Nat} (hk : k < 32) :
    (((x <<< fieldLsb y) &&& (lowMask (fieldWidth y) <<< fieldLsb y)) ||| (old &&& ~~~(lowMask (fieldWidth y) <<< fieldLsb y))).getLsbD k =
      if y.toNat % 32 ≤ k ∧ k < y.toNat % 32 + min (y.toNat / 2 ^ 8 % 2 ^ 6) 32 then x.getLsbD (k - y.toNat % 32) else old.getLsbD k := by
  rw [fieldLsb_eq, fieldWidth_eq]
  have width : min (y.toNat / 2 ^ 8 % 2 ^ 6) 32 ≤ 32 := Nat.min_le_right ..
  generalize y.toNat % 32 = l, min (y.toNat / 2 ^ 8 % 2 ^ 6) 32 = w at width ⊢
  have mask : (lowMask w <<< l).getLsbD k = decide (l ≤ k ∧ k < l + w) := by
    rw [BitVec.getLsbD_shiftLeft, getLsbD_lowMask _ _ width]
    by_cases below : k < l
    · have outside : ¬(l ≤ k ∧ k < l + w) := by omega
      simp only [below, outside, decide_true, decide_false, Bool.not_true, Bool.and_false, Bool.false_and]
    · have within : k - l < w ↔ l ≤ k ∧ k < l + w := by omega
      simp only [hk, below, within, decide_true, decide_false, Bool.not_false, Bool.true_and]
  rw [BitVec.getLsbD_or, BitVec.getLsbD_and, BitVec.getLsbD_and, BitVec.getLsbD_not, mask, BitVec.getLsbD_shiftLeft]
  by_cases inside : l ≤ k ∧ k < l + w
  · simp [hk, inside]
  · simp [hk, inside]

section Bits
variable {d a b : BitVec 7}

theorem li_writes (d : BitVec 7) (k : BitVec 14) : WritesS (.li none d k) 1 d fun _ => BitVec.ofInt 32 k.toInt := writesS_of fun _ => rfl

theorem li_prefixed_writes (y : BitVec 25) (d : BitVec 7) (k : BitVec 14) :
    WritesS (.li (some y) d k) 2 d fun _ => BitVec.ofNat 32 (y.toNat % 2 ^ 18 * 2 ^ 14 + k.toNat) := by
  have value : immWord14 (some y) k = BitVec.ofNat 32 (y.toNat % 2 ^ 18 * 2 ^ 14 + k.toNat) := by
    simpa [immWord14] using append_eq_ofNat (y.extractLsb' 0 18) k
  exact writesS_of fun s => value ▸ rfl

theorem lih_writes (d : BitVec 7) (k : BitVec 14) :
    WritesS (.lih d k) 1 d fun st => BitVec.ofNat 32 (k.toNat * 2 ^ 18 + (st.s d).toNat % 2 ^ 18) := by
  have value : ∀ x : Word, k ++ x.extractLsb' 0 18 = BitVec.ofNat 32 (k.toNat * 2 ^ 18 + x.toNat % 2 ^ 18) := fun x => by
    simpa using append_eq_ofNat k (x.extractLsb' 0 18)
  exact writesS_of fun s => by simp only [← value]; rfl

theorem bfx_writes : WritesS (.bfx d a b) 1 d fun st => (st.s a >>> fieldLsb (st.s b)) &&& lowMask (fieldWidth (st.s b)) :=
  writesS_of fun _ => rfl

theorem bfi_writes : WritesS (.bfi d a b) 1 d fun st => ((st.s a <<< fieldLsb (st.s b)) &&& (lowMask (fieldWidth (st.s b)) <<< fieldLsb (st.s b))) |||
    (st.s d &&& ~~~(lowMask (fieldWidth (st.s b)) <<< fieldLsb (st.s b))) :=
  writesS_of fun _ => rfl

end Bits

/-- The words of the major 0x03 (R162, R177): an IMM before LI carries 18 bits, and LIH takes none. -/
theorem codes_li (x : Option (BitVec 25)) (d : BitVec 7) (k : BitVec 14) (small : ∀ y, x = some y → y.toNat < 2 ^ 18) :
    Codes none x (fun fn => wordC 0x03 fn d k) ((0, .li x d k) :: if x = none then [(1, .lih d k)] else []) := by
  have zero : ∀ y, x = some y → y.extractLsb' 18 7 = 0 := fun y imm => by
    apply BitVec.eq_of_toNat_eq
    rw [BitVec.extractLsb'_toNat, Nat.shiftRight_eq_div_pow, Nat.div_eq_of_lt (small y imm)]
    rfl
  have li : (Instr.li x d k).wf = true := by
    show liImmOk x = true
    cases x with
    | none => rfl
    | some y => exact beq_iff_eq.mpr (zero y rfl)
  have lih : Encoded none x (fun fn => wordC 0x03 fn d k) (if x = none then [(1, .lih d k)] else []) := .ite fun bare => by subst bare; exact .of_map rfl
  refine codes_of_table (fun _ => ?_) (fun _ => ?_) (fun fn y imm => ?_) (List.forall_mem_cons.mpr ⟨⟨li, rfl, rfl, rfl⟩, lih⟩) fun fn other => ?_
  · rw [fOp_wordC]; decide
  · rw [fOp_wordC]; decide
  · simp [immBitsOk, zero y imm]
  · refine (decodeMain_03 (fOp_wordC ..)).trans ?_
    simp only [List.forall_mem_cons, forall_mem_ite] at other
    simp only [fFn_wordC, decode03, Option.isNone_none, if_true]
    split <;> simp_all

/-- The words of the major 0x04: a unary operation has b zero (R178, R179). -/
theorem codes_sbit (d a b : BitVec 7) : Codes none none (fun fn => wordA 0x04 fn d a b) ([(4, .bfx d a b), (5, .bfi d a b)] ++ if b = 0 then
    [(0, .sbitPopc d a), (1, .sbitClz d a), (2, .sbitCtz d a), (3, .sbitBrev d a), (6, .sextb d a), (7, .sexth d a), (8, .zextb d a),
     (9, .zexth d a)] else []) := by
  refine codes_of_major (fun _ => fOp_wordA ..) (by decide) (.append (.of_map rfl) (.ite fun zero => by subst zero; exact .of_map rfl)) fun fn other => ?_
  refine (decodeMain_04 (fOp_wordA ..)).trans ?_
  simp only [List.forall_mem_append, List.forall_mem_cons, forall_mem_ite] at other
  simp only [fFn_wordA, fB_wordA, decode04, Option.isNone_none, Bool.and_self, if_true]
  split <;> simp_all

/-- Settles O2: the immediates as two fields side by side, the unary operations by their counts of bits, BFX and BFI bit by bit. -/
theorem immediatesAndBitsSetTheirResult : Obligations.ImmediatesAndBitsSetTheirResult := by
  refine ⟨fun y d k => ⟨li_writes d k, li_prefixed_writes y d k, lih_writes d k⟩, fun d a b => ?_, fun x d a b k => ⟨fun small => ?_, ?_⟩⟩
  · exact ⟨writesS_value (fun _ => rfl) fun _ => congrArg (BitVec.ofNat 32) (popcNat_eq ..), writesS_value (fun _ => rfl) fun _ => congrArg (BitVec.ofNat 32) (clzNat_eq ..),
      writesS_value (fun _ => rfl) fun _ => by simp only [ctzNat_eq, Nat.zero_add],
      ⟨_, writesS_of fun _ => rfl, fun _ => getLsbD_brev32 _⟩,
      writesS_of fun _ => rfl, writesS_of fun _ => rfl,
      writesS_value (fun _ => rfl) fun _ => setWidth_low _ 32 8, writesS_value (fun _ => rfl) fun _ => setWidth_low _ 32 16,
      ⟨_, bfx_writes, fun _ k _ => getLsbD_field _ _ k⟩, ⟨_, bfi_writes, fun _ _ => getLsbD_inserted _ _ _⟩⟩
  · exact codes_li x d k small
  · exact codes_sbit d a b

end Sys2Proof.Machine
end

section
namespace Sys2Proof.Machine
open Sys2Proof.Laws

/-! ### Division (R180) -/

theorem divU_eq (a b : Word) : divU a b = if b = 0 then 0xFFFFFFFF else BitVec.ofNat 32 (a.toNat / b.toNat) := by
  unfold divU
  rw [← BitVec.toNat_udiv, BitVec.ofNat_toNat, BitVec.setWidth_eq]
  rfl

theorem remU_eq (a b : Word) : remU a b = if b = 0 then a else BitVec.ofNat 32 (a.toNat % b.toNat) := by
  unfold remU
  rw [← BitVec.toNat_umod, BitVec.ofNat_toNat, BitVec.setWidth_eq]

section
variable {i : Instr} {f : Word → Word → Word} {g : Strand → Word} {l : BitVec 4} {d a b : BitVec 7}

theorem divide_writes (op : ∀ s, exec i s = divide f l d a b s) (value : ∀ st : Strand, f (st.s a) (st.s b) = g st) :
    WritesLater i 1 l.toNat fun st => entryS st d (g st) :=
  writesLater_of (fun _ => ⟨rfl, rfl⟩) fun s => (op s).trans (by simp only [divide, pendS_entryS, value])

end

/-- Settles O3: the four functions of R180, as writes with a window. -/
theorem divisionsWriteTheirResultLater : Obligations.DivisionsWriteTheirResultLater := by
  refine ⟨fun l d a b => ⟨?_, ?_, ?_, ?_⟩, fun l d a b => ⟨?_, ?_, ?_, ?_⟩⟩
  · exact divide_writes (fun _ => rfl) fun _ => rfl
  · exact divide_writes (fun _ => rfl) fun _ => divU_eq ..
  · exact divide_writes (fun _ => rfl) fun _ => rfl
  · exact divide_writes (fun _ => rfl) fun _ => remU_eq ..
  all_goals exact decodeWords_eq_of_encode_eq rfl rfl

end Sys2Proof.Machine
end

section
namespace Sys2Proof.Machine
open Sys2Proof.Laws

/-! ### Scalar compares and predicate logic (R181, R182, R184) -/

theorem condEq_eq {w : Nat} (a b : BitVec w) : condEq a b = decide (a = b) := rfl
theorem condNe_eq {w : Nat} (a b : BitVec w) : condNe a b = decide (a ≠ b) := (decide_not (p := a = b)).symm

section Compares
variable {i : Instr} {f : Word → Word → Bool} {c : Strand → Prop} [DecidablePred c] {x : Option (BitVec 25)} {d : BitVec 3} {a b k : BitVec 7}

theorem scmp_writes (op : ∀ s, exec i s = scmp f d a b s) (cond : ∀ st : Strand, f (st.s a) (st.s b) = decide (c st)) :
    WritesP i 1 d fun st => if c st then 1 else 0 :=
  writesP_of fun s => (op s).trans (by simp only [scmp, cond, Strand.setPBit_if])

theorem scmpi_writes (op : ∀ s, exec i s = scmpi f x d a k s) (cond : ∀ st : Strand, f (st.s a) (immWord7 x k) = decide (c st)) :
    WritesP i (words [x.isSome]) d fun st => if c st then 1 else 0 :=
  writesP_of fun s => (op s).trans (by simp only [scmpi, cond, Strand.setPBit_if, len1_words])

end Compares

theorem pwr_writes (d : BitVec 3) (r : BitVec 7) : WritesP (.pwr d r) 1 d fun st => BitVec.ofNat 8 ((st.s r).toNat % 2 ^ 8) := by
  have value : ∀ x : Word, x.extractLsb' 0 8 = BitVec.ofNat 8 (x.toNat % 2 ^ 8) := fun x => by rw [← setWidth_low, BitVec.setWidth_eq]
  exact writesP_of fun s => by simp only [← value]; rfl

/-- The words of the major 0x0B: what an operation has no use for is zero (R182). -/
theorem codes_plog (p q r : BitVec 3) : Codes none none (fun fn => wordA 0x0B fn (0#4 ++ p) (0#4 ++ q) (0#4 ++ r))
    ([(0, .pand p q r), (1, .por p q r), (2, .pxor p q r), (3, .pandn p q r), (4, .porn p q r)] ++
     (if r = 0 then [(5, .pnot p q), (6, .pmov p q)] else []) ++ if q = 0 ∧ r = 0 then [(7, .pclr p), (8, .pset p)] else []) := by
  have none_used : ∀ x : BitVec 3, 0#4 ++ x = 0#7 ↔ x = 0 := by decide
  have unary : r = 0 → Encoded none none (fun fn => wordA 0x0B fn (0#4 ++ p) (0#4 ++ q) (0#4 ++ r)) [(5, .pnot p q), (6, .pmov p q)] := by
    rintro rfl
    exact .of_map rfl
  have constant : q = 0 ∧ r = 0 → Encoded none none (fun fn => wordA 0x0B fn (0#4 ++ p) (0#4 ++ q) (0#4 ++ r)) [(7, .pclr p), (8, .pset p)] := by
    rintro ⟨rfl, rfl⟩
    exact .of_map rfl
  refine codes_of_major (fun _ => fOp_wordA ..) (by decide) (.append (.append (.of_map rfl) (.ite unary)) (.ite constant)) fun fn other => ?_
  refine (decodeMain_0B (fOp_wordA ..)).trans ?_
  simp only [List.forall_mem_append, List.forall_mem_cons, forall_mem_ite] at other
  simp only [fFn_wordA, fA_wordA, fB_wordA, decode0B, Option.isNone_none, Bool.and_self, if_true]
  split <;> simp_all

/-- Settles O4: a compare by its condition, with an immediate or without (`scmp_writes`, `scmpi_writes`). -/
theorem comparesAndLogicSetThePredicate : Obligations.ComparesAndLogicSetThePredicate := by
  refine ⟨fun d a b => ?_, fun x d a i k bare prefixed => ?_, fun d a b r => ?_, fun x p q r a b => ⟨?_, ?_, codes_plog p q r⟩⟩
  · exact ⟨scmp_writes (fun _ => rfl) fun _ => condEq_eq .., scmp_writes (fun _ => rfl) fun _ => condNe_eq ..,
      scmp_writes (fun _ => rfl) fun _ => rfl, scmp_writes (fun _ => rfl) fun _ => rfl, scmp_writes (fun _ => rfl) fun _ => rfl,
      scmp_writes (fun _ => rfl) fun _ => rfl, scmp_writes (fun _ => rfl) fun _ => rfl, scmp_writes (fun _ => rfl) fun _ => rfl,
      scmp_writes (fun _ => rfl) fun _ => rfl, scmp_writes (fun _ => rfl) fun _ => rfl⟩
  · obtain rfl := immWord7_of x i k bare prefixed
    exact ⟨scmpi_writes (fun _ => rfl) fun _ => condEq_eq .., scmpi_writes (fun _ => rfl) fun _ => condNe_eq ..,
      scmpi_writes (fun _ => rfl) fun _ => rfl, scmpi_writes (fun _ => rfl) fun _ => rfl, scmpi_writes (fun _ => rfl) fun _ => rfl,
      scmpi_writes (fun _ => rfl) fun _ => rfl, scmpi_writes (fun _ => rfl) fun _ => rfl, scmpi_writes (fun _ => rfl) fun _ => rfl,
      scmpi_writes (fun _ => rfl) fun _ => rfl, scmpi_writes (fun _ => rfl) fun _ => rfl⟩
  · exact ⟨writesP_of fun _ => rfl, writesP_of fun _ => rfl, writesP_of fun _ => rfl, writesP_of fun _ => rfl, writesP_of fun _ => rfl,
      writesP_of fun _ => rfl, writesP_of fun _ => rfl, writesP_of fun _ => rfl, writesP_of fun _ => rfl, pwr_writes d r⟩
  · refine codes_of_major (fun _ => fOp_wordA ..) (by decide) (.of_map rfl) fun fn other => (decodeMain_09 (fOp_wordA ..)).trans ?_
    simp only [fFn_wordA, decode09, Option.isNone_none, Bool.and_self, if_true]
    split <;> simp_all
  · refine codes_of_major (fun _ => fOp_wordA ..) (by decide) (.of_map rfl) fun fn other => (decodeMain_0A (fOp_wordA ..)).trans ?_
    simp only [fFn_wordA, decode0A, Option.isNone_none, if_true]
    split <;> simp_all

end Sys2Proof.Machine
end

section
namespace Sys2Proof.Machine
open Sys2Proof.Laws

/-! ### Vector integers: the values of the operations (R101, R186 to R192) -/

section Congr
variable {i : Instr} {mk : Option Msk} {x : Option (BitVec 25)} {d a b : BitVec 7} {n w : Nat} {k : Word}

theorem WritesElems.congr {f g : Strand → Nat → BitVec w} {fl : Strand → BitVec 5} (h : WritesElems i mk n d w f fl) (value : ∀ st j, f st j = g st j) :
    WritesElems i mk n d w g fl :=
  (funext fun x => funext (value x)) ▸ h

theorem ElemOp.congr {f g : BitVec w → BitVec w → BitVec w} (h : ElemOp w i mk d a b f) (value : ∀ x y, f x y = g x y) : ElemOp w i mk d a b g :=
  (funext fun x => funext (value x)) ▸ h

theorem LaneOpImm.congr {f g : Word → Word → Word} (h : LaneOpImm i mk x d a k f) (value : ∀ x y, f x y = g x y) : LaneOpImm i mk x d a k g :=
  (funext fun x => funext (value x)) ▸ h

theorem LaneOp1.congr {f g : Word → Word} (h : LaneOp1 i mk d a f) (value : ∀ x, f x = g x) : LaneOp1 i mk d a g :=
  funext value ▸ h

end Congr

/-- Settles O6: each operation lane by lane (`elemOp_valu`, `laneOpImm_valui`), its value by the number laws. -/
theorem valuAndValuiSetTheirLanes : Obligations.ValuAndValuiSetTheirLanes := by
  refine ⟨fun mk d a b => ?_, fun mk x d a i k bare prefixed => ?_, fun mk x d a b => ⟨?_, ?_⟩⟩
  · exact ⟨elemOp_valu fun _ => rfl, elemOp_valu fun _ => rfl, elemOp_valu fun _ => rfl,
      .congr (elemOp_valu fun _ => rfl) mulHighS_eq, .congr (elemOp_valu fun _ => rfl) mulHighU_eq,
      .congr (elemOp_valu fun _ => rfl) addS_eq, .congr (elemOp_valu fun _ => rfl) subS_eq,
      .congr (elemOp_valu fun _ => rfl) addU_eq, .congr (elemOp_valu fun _ => rfl) subU_eq,
      elemOp_valu fun _ => rfl, elemOp_valu fun _ => rfl, elemOp_valu fun _ => rfl, elemOp_valu fun _ => rfl, elemOp_valu fun _ => rfl,
      laneOp1_of fun _ => rfl, laneOp1_of fun _ => rfl⟩
  · obtain rfl := immWord7_of x i k bare prefixed
    exact ⟨laneOpImm_valui fun _ => rfl, laneOpImm_valui fun _ => rfl, laneOpImm_valui fun _ => rfl,
      .congr (laneOpImm_valui fun _ => rfl) mulHighS_eq, .congr (laneOpImm_valui fun _ => rfl) mulHighU_eq,
      .congr (laneOpImm_valui fun _ => rfl) addS_eq, .congr (laneOpImm_valui fun _ => rfl) subS_eq,
      .congr (laneOpImm_valui fun _ => rfl) addU_eq, .congr (laneOpImm_valui fun _ => rfl) subU_eq,
      laneOpImm_valui fun _ => rfl, laneOpImm_valui fun _ => rfl, laneOpImm_valui fun _ => rfl, laneOpImm_valui fun _ => rfl,
      laneOpImm_valui fun _ => rfl⟩
  · refine codes_of_major (fun _ => fOp_wordA ..) (by decide) (.append (.of_map rfl) (.ite fun zero => by subst zero; exact .of_map rfl)) fun fn other =>
      (decodeMain_10 (fOp_wordA ..)).trans ?_
    simp only [List.forall_mem_append, List.forall_mem_cons, forall_mem_ite] at other
    simp only [fFn_wordA, fB_wordA, decode10, Option.isNone_none, if_true]
    split <;> simp_all
  · refine codes_of_major (fun _ => fOp_wordA ..) (by decide) (.of_map rfl) fun fn other => (decodeMain_11 (fOp_wordA ..)).trans ?_
    simp only [fFn_wordA, decode11]
    split <;> simp_all

end Sys2Proof.Machine
end

section
namespace Sys2Proof.Machine
open Sys2Proof.Laws

/-! ### VMAD and the dot products (R187) -/

/-- A dot product with the accumulator in the destination. -/
theorem vdot_writes {i : Instr} {mk : Option Msk} {d a b : BitVec 7} {w n : Nat} {g : BitVec w → Int} (op : ∀ s, exec i s = vdot w n g mk d a b s) :
    WritesElems i mk (words [mk.isSome]) d 32 (fun st l => BitVec.ofInt 32 ((lane (st.v d) l).toInt +
      ((List.range n).map fun j => g (elem w (st.v a) (n * l + j)) * g (elem w (st.v b) (n * l + j))).sum)) fun _ => 0 := by
  simp only [← sumTo_eq]
  exact writesElems_ofLanes op

/-- Settles O7: multiply-accumulates by lanes and by packed elements, the dot products by `vdot_writes`. -/
theorem vmadSetsItsLanes : Obligations.VmadSetsItsLanes := by
  refine ⟨?_, fun mk d a b => ?_⟩
  · rintro mk d a b _ rfl
    exact ⟨writesElems_ofLanes fun _ => rfl, writesElems_ofLanes fun _ => rfl, .congr (writesElems_ofLanes fun _ => rfl) fun _ _ => satS_eq ..,
      writesElems_ofElems (n := 16) rfl rfl fun _ => rfl, writesElems_ofElems (n := 32) rfl rfl fun _ => rfl,
      vdot_writes (g := BitVec.toInt) fun _ => rfl, vdot_writes (g := BitVec.toInt) fun _ => rfl, vdot_writes (g := fun x => (x.toNat : Int)) fun _ => rfl⟩
  · refine codes_of_major (fun _ => fOp_wordA ..) (by decide) (.of_map rfl) fun fn other => (decodeMain_12 (fOp_wordA ..)).trans ?_
    simp only [fFn_wordA, decode12, Option.isNone_none, if_true]
    split <;> simp_all

/-! ### VCMP (R188) -/

/-- Settles O8: every compare by its condition on the elements of a lane (`compareOp_vcmp`). -/
theorem vectorComparesSetTheirBits : Obligations.VectorComparesSetTheirBits := by
  refine ⟨fun mk d a b => ?_, fun mk p a b => codes_of_full_major (fun _ => fOp_wordA ..) (by decide) rfl (.of_map rfl)⟩
  exact ⟨compareOp_vcmp rfl condEq_eq fun _ => rfl, compareOp_vcmp rfl condNe_eq fun _ => rfl,
    compareOp_vcmp rfl (fun _ _ => rfl) fun _ => rfl, compareOp_vcmp rfl (fun _ _ => rfl) fun _ => rfl,
    compareOp_vcmp rfl (fun _ _ => rfl) fun _ => rfl, compareOp_vcmp rfl (fun _ _ => rfl) fun _ => rfl,
    compareOp_vcmp rfl (fun _ _ => rfl) fun _ => rfl, compareOp_vcmp rfl (fun _ _ => rfl) fun _ => rfl,
    compareOp_vcmp rfl (fun _ _ => rfl) fun _ => rfl, compareOp_vcmp rfl (fun _ _ => rfl) fun _ => rfl,
    compareOp_vcmp rfl condEq_eq fun _ => rfl, compareOp_vcmp rfl (fun _ _ => rfl) fun _ => rfl, compareOp_vcmp rfl (fun _ _ => rfl) fun _ => rfl,
    compareOp_vcmp rfl condEq_eq fun _ => rfl, compareOp_vcmp rfl (fun _ _ => rfl) fun _ => rfl, compareOp_vcmp rfl (fun _ _ => rfl) fun _ => rfl⟩

/-! ### VPERM and VSEL (R183, R189) -/

theorem vsel_writes (mk : Option Msk) (sense : BitVec 1) (p : BitVec 3) (d a b : BitVec 7) : WritesElems (.vsel mk sense p d a b) mk (words [mk.isSome]) d 32
    (fun st i => if (st.p p).getLsbD i ≠ sense.getLsbD 0 then lane (st.v a) i else lane (st.v b) i) fun _ => 0 := by
  simp only [← bne_iff_ne]
  exact writesElems_ofLanes fun _ => rfl

/-- The words of the major 0x14: an operand below 8 may be a lane number k (R189). -/
theorem codes_vperm (mk : Option Msk) (d a b : BitVec 7) : Codes mk none (fun fn => wordA 0x14 fn d a b)
    ([(0, .perm mk d a b), (1, .shuf mk d a b), (5, .zip mk d a b), (6, .unzip mk d a b)] ++
      if b.toNat < 8 then [(2, .rot mk d a (b.extractLsb' 0 3)), (3, .ext mk d a (b.extractLsb' 0 3)), (4, .ins mk d a (b.extractLsb' 0 3))] else []) := by
  have small : b.toNat < 8 ↔ b.extractLsb' 3 4 = 0 := by revert b; decide
  have low : b.toNat < 8 → 0#4 ++ b.extractLsb' 0 3 = b := by revert b; decide
  have numbered : b.toNat < 8 → Encoded mk none (fun fn => wordA 0x14 fn d a b)
      [(2, .rot mk d a (b.extractLsb' 0 3)), (3, .ext mk d a (b.extractLsb' 0 3)), (4, .ins mk d a (b.extractLsb' 0 3))] := fun lane => by
    obtain ⟨k, rfl⟩ : ∃ k : BitVec 3, b = 0#4 ++ k := ⟨_, (low lane).symm⟩
    rw [field_4_3_lo]
    exact .of_map rfl
  refine codes_of_major (fun _ => fOp_wordA ..) (by decide) (.append (.of_map rfl) (.ite numbered)) fun fn other => (decodeMain_14 (fOp_wordA ..)).trans ?_
  simp only [List.forall_mem_append, List.forall_mem_cons, forall_mem_ite] at other
  simp only [fFn_wordA, fB_wordA, decode14, Option.isNone_none, if_true]
  split <;> simp_all

/-- Settles O9: each permutation lane by lane, SHUF byte by byte. -/
theorem permutesSetTheirLanes : Obligations.PermutesSetTheirLanes := by
  refine ⟨?_, ?_⟩
  · rintro mk d a b k p sense _ rfl
    exact ⟨writesElems_ofLanes fun _ => rfl, writesElems_ofElems (n := 32) rfl rfl fun _ => rfl, writesElems_ofLanes fun _ => rfl,
      writesElems_ofLanes fun _ => rfl, writesElems_ofLanes fun _ => rfl, writesElems_ofLanes fun _ => rfl, writesElems_ofLanes fun _ => rfl,
      vsel_writes mk sense p d a b⟩
  · rintro mk d a b _ rfl
    exact codes_vperm mk d a b

/-! ### VPACK (R190) -/

/-- Settles O10: each operation at both widths (`elemOp_vpack16`, `elemOp_vpack8`). -/
theorem vpackSetsItsElements : Obligations.VpackSetsItsElements := by
  refine ⟨fun _ _ _ _ => ?_, ?_⟩
  · exact ⟨elemOp_vpack16 fun _ => rfl, elemOp_vpack16 fun _ => rfl,
      .congr (elemOp_vpack16 fun _ => rfl) addS_eq, .congr (elemOp_vpack16 fun _ => rfl) subS_eq,
      .congr (elemOp_vpack16 fun _ => rfl) addU_eq, .congr (elemOp_vpack16 fun _ => rfl) subU_eq,
      elemOp_vpack16 fun _ => rfl, elemOp_vpack16 fun _ => rfl, elemOp_vpack8 fun _ => rfl, elemOp_vpack8 fun _ => rfl,
      .congr (elemOp_vpack8 fun _ => rfl) addS_eq, .congr (elemOp_vpack8 fun _ => rfl) subS_eq,
      .congr (elemOp_vpack8 fun _ => rfl) addU_eq, .congr (elemOp_vpack8 fun _ => rfl) subU_eq,
      elemOp_vpack8 fun _ => rfl, elemOp_vpack8 fun _ => rfl⟩
  · rintro mk _ _ _ _ _ rfl
    refine ⟨?_, ?_, ?_, ?_, ?_, ?_, ?_, ?_⟩
    all_goals cases mk <;> exact decodeWords_eq_of_encode_eq rfl rfl

/-! ### VRED (R191) -/

/-- Settles O11: each reduction folds its operation over the lanes (`reduceOp_vred`). -/
theorem reductionsSetLaneZero : Obligations.ReductionsSetLaneZero := fun _ _ _ =>
  ⟨reduceOp_vred fun _ => rfl, reduceOp_vred fun _ => rfl, reduceOp_vred fun _ => rfl, reduceOp_vred fun _ => rfl, reduceOp_vred fun _ => rfl,
    reduceOp_vred fun _ => rfl, reduceOp_vred fun _ => rfl, reduceOp_vred fun _ => rfl⟩

/-! ### VBIT (R192) -/

/-- Settles O12: operations of two lanes, shifts of 16-bit elements, and the unary ones by their counts of bits. -/
theorem vbitSetsItsLanes : Obligations.VbitSetsItsLanes := by
  refine ⟨fun mk d a b => ?_, fun mk d a b => ?_⟩
  · exact ⟨elemOp_valu fun _ => rfl, elemOp_valu fun _ => rfl, elemOp_valu fun _ => rfl, elemOp_valu fun _ => rfl, laneOp1_of fun _ => rfl,
      .congr (elemOp_valu fun _ => rfl) shiftLeft_eq, .congr (elemOp_valu fun _ => rfl) shiftRight_eq, .congr (elemOp_valu fun _ => rfl) shiftRightS_eq,
      .congr (elemOp_shift16 fun _ => rfl) shl16_eq, .congr (elemOp_shift16 fun _ => rfl) shr16_eq, .congr (elemOp_shift16 fun _ => rfl) sar16_eq,
      .congr (laneOp1_of fun _ => rfl) fun _ => congrArg (BitVec.ofNat 32) (popcNat_eq ..),
      .congr (laneOp1_of fun _ => rfl) fun _ => congrArg (BitVec.ofNat 32) (clzNat_eq ..),
      ⟨brev32, laneOp1_of fun _ => rfl, getLsbD_brev32⟩⟩
  · refine codes_of_major (fun _ => fOp_wordA ..) (by decide) (.append (.of_map rfl) (.ite fun zero => by subst zero; exact .of_map rfl)) fun fn other =>
      (decodeMain_17 (fOp_wordA ..)).trans ?_
    simp only [List.forall_mem_append, List.forall_mem_cons, forall_mem_ite] at other
    simp only [fFn_wordA, fB_wordA, decode17, Option.isNone_none, if_true]
    split <;> simp_all

end Sys2Proof.Machine
end

section
namespace Sys2Proof.Machine
open Sys2Proof.Laws

/-! ### Branches and calls (R193) -/

section Transfers
variable {i : Instr} {target fallThrough : Strand → Addr}

theorem jump_moves (op : ∀ s, exec i s = s.onStrand fun st => s.jump st (target st)) : Effect i fun s st t => st.OnlyMoved t s.cycle (target st) :=
  effect_of_onStrand op fun s st => st.onlyMoved_goTo s.cycle (target st)

theorem jump_links (op : ∀ s, exec i s = s.onStrand fun st => s.jump { st with link := fallThrough st } (target st)) :
    Effect i fun s st t => st.Linked t s.cycle (target st) (fallThrough st) :=
  effect_of_onStrand op fun s st => st.linked_goTo s.cycle (target st) (fallThrough st)

end Transfers

theorem brp_moves (x : Option (BitVec 25)) (z : BitVec 1) (p : BitVec 3) (o : BitVec 21) : Effect (.brp x z p o) fun s st t =>
    st.OnlyMoved t s.cycle (if (st.p p).getLsbD 0 ≠ z.getLsbD 0 then st.branchTarget x o else st.past (words [x.isSome])) := by
  simp only [← bne_iff_ne, ← len1_words]
  exact jump_moves fun _ => rfl

theorem call_links (x : Option (BitVec 25)) (o : BitVec 21) :
    Effect (.call x o) fun s st t => st.Linked t s.cycle (st.branchTarget x o) (st.past (words [x.isSome])) := by
  simp only [← len1_words]
  exact jump_links fun _ => rfl

/-- Settles O20: the target is the model's (`Strand.branchTarget_of`), and BR and CALL have the code 0. -/
theorem branchesSetThePc : Obligations.BranchesSetThePc := by
  refine ⟨fun x o z p k bare prefixed target isTarget => ?_, fun x o c q => ⟨?_, ?_, decodeWords_eq_of_encode_eq rfl rfl⟩⟩
  · obtain rfl : target = fun st => st.branchTarget x o := funext fun st => (isTarget st).trans (st.branchTarget_of x o k bare prefixed).symm
    exact ⟨jump_moves fun _ => rfl, brp_moves x z p o, call_links x o⟩
  · refine codes_of_major (fun _ => fOp_wordJ ..) (by decide) (.of_map rfl) fun fn other => (decodeMain_30 (fOp_wordJ ..)).trans ?_
    simp only [fFn_wordJ, decode30, Option.isNone_none, if_true]
    split <;> simp_all
  · refine codes_of_major (fun _ => fOp_wordJ ..) (by decide) (.of_map rfl) fun fn other => (decodeMain_32 (fOp_wordJ ..)).trans ?_
    simp only [fFn_wordJ, decode32, Option.isNone_none, if_true]
    split <;> simp_all

/-! ### Jumps through registers (R194, R362) -/

/-- The address at a signed offset from another (R194). -/
theorem add_signExtend (pc : Addr) (x : Word) : pc + x.signExtend 57 = BitVec.ofInt 57 (pc.toNat + x.toInt) := by
  rw [BitVec.ofInt_add, BitVec.ofInt_natCast, BitVec.ofNat_toNat, BitVec.setWidth_eq]
  rfl

/-- JR and JALR with an offset that is a multiple of 4 jump; others raise MISALIGN (R194, R362). -/
theorem State.jumpBy_aligned (s : State) {st : Strand} {a : BitVec 7} (link : Bool) (aligned : (st.s a).toNat % 4 = 0) :
    s.jumpBy st a link = s.jump { st with link := if link then st.after 1 else st.link } (BitVec.ofInt 57 (st.pc.toNat + (st.s a).toInt)) := by
  unfold State.jumpBy
  rw [← add_signExtend]
  exact if_neg (not_not_intro ((extractLsb_low2 _).mpr aligned))

theorem State.jumpBy_misaligned (s : State) {st : Strand} {a : BitVec 7} (link : Bool) (misaligned : (st.s a).toNat % 4 ≠ 0) :
    s.jumpBy st a link = s.raise st cMisalign (BitVec.ofNat 64 (BitVec.ofInt 57 (st.pc.toNat + (st.s a).toInt)).toNat) := by
  unfold State.jumpBy
  rw [← add_signExtend, BitVec.ofNat_toNat]
  exact if_pos (mt (extractLsb_low2 _).mp misaligned)

/-- The bits of the pair that an address has leave its alignment as it is (R194). -/
theorem pairAddr_aligned_iff (st : Strand) (a : BitVec 7) : (st.pairAddr a).extractLsb' 0 2 = 0 ↔ (st.pair a).toNat % 4 = 0 := by
  rw [extractLsb_low2, Strand.pairAddr, BitVec.extractLsb'_toNat, Nat.shiftRight_zero, Nat.mod_mod_of_dvd _ (by decide)]

section Jumps
variable {s : State} {st : Strand} {a : BitVec 7} (cur : s.curStrand = some st)
include cur

theorem exec_jr : exec (.jr a) s = .next (s.jumpBy st a false) := State.onStrand_some cur _
theorem exec_jalr : exec (.jalr a) s = .next (s.jumpBy st a true) := State.onStrand_some cur _

theorem exec_retPair_aligned (aligned : (st.pair a).toNat % 4 = 0) : exec (.retPair a) s = .next (s.jump st (st.pairAddr a)) :=
  (State.onStrand_some cur _).trans (congrArg Host.Outcome.next (if_neg (not_not_intro ((pairAddr_aligned_iff st a).mpr aligned))))

theorem exec_retPair_misaligned (misaligned : (st.pair a).toNat % 4 ≠ 0) :
    exec (.retPair a) s = .next (s.raise st cMisalign (BitVec.ofNat 64 ((st.pair a).toNat % 2 ^ 57))) := by
  rw [← setWidth_low]
  exact (State.onStrand_some cur _).trans (congrArg Host.Outcome.next (if_pos (mt (pairAddr_aligned_iff st a).mp misaligned)))

end Jumps

/-- Settles O21: JR and JALR by the alignment of the offset, RET of a pair by that of the address. -/
theorem jumpsSetThePc : Obligations.JumpsSetThePc := by
  intro a target isTarget
  obtain rfl : target = fun st => BitVec.ofInt 57 (st.pc.toNat + (st.s a).toInt) := funext isTarget
  refine ⟨fun s st cur aligned => ⟨_, ?_, st.onlyMoved_goTo ..⟩, fun s st cur aligned => ⟨_, ?_, st.linked_goTo ..⟩, jump_moves fun _ => rfl,
    fun s st cur aligned => ⟨_, exec_retPair_aligned cur aligned, st.onlyMoved_goTo ..⟩, fun s st cur misaligned => ⟨?_, ?_⟩,
    fun s st cur misaligned => exec_retPair_misaligned cur misaligned⟩
  · exact (exec_jr cur).trans (congrArg _ (s.jumpBy_aligned false aligned))
  · exact (exec_jalr cur).trans (congrArg _ (s.jumpBy_aligned true aligned))
  · exact (exec_jr cur).trans (congrArg _ (s.jumpBy_misaligned false misaligned))
  · exact (exec_jalr cur).trans (congrArg _ (s.jumpBy_misaligned true misaligned))

end Sys2Proof.Machine
end

section
namespace Sys2Proof.Machine

/-! ### Floating point: FALU, FALU16, FMAD and FCMP (R201 to R205, R214) -/

/-- The type bit of FALU16 names F16 when it is 0 and BF16 when it is 1 (R214). -/
theorem eq_fmt16 {t : BitVec 1} {f : FFmt} (f16 : t = 0 → f = .f16) (bf16 : t = 1 → f = .bf16) : f = fmt16 t := by
  have zero_or_one : ∀ t : BitVec 1, t = 0 ∨ t = 1 := by decide
  obtain rfl | rfl := zero_or_one t
  · exact f16 rfl
  · exact bf16 rfl

/-- Settles O13: each operation by its number of operands (`floatOp1_of`, `floatOp2_of`, `floatOp3_of`), FALU16 in the format of its type bit. -/
theorem faluAndFalu16SetTheirElements : Obligations.FaluAndFalu16SetTheirElements := by
  refine ⟨fun mk d a b => ?_, fun mk d a b t f f16 bf16 => ?_⟩
  · exact ⟨floatOp2_of fun _ => rfl, floatOp2_of fun _ => rfl, floatOp2_of fun _ => rfl, floatOp2_of fun _ => rfl, floatOp2_of fun _ => rfl,
      floatOp1_of fun _ => rfl, floatOp1_of fun _ => rfl, floatOp2_of fun _ => rfl⟩
  · obtain rfl := eq_fmt16 f16 bf16
    exact ⟨floatOp2_of fun _ => rfl, floatOp2_of fun _ => rfl, floatOp2_of fun _ => rfl, floatOp2_of fun _ => rfl, floatOp2_of fun _ => rfl,
      floatOp3_of fun _ => rfl, floatOp1_of fun _ => rfl, floatOp1_of fun _ => rfl⟩

/-- Settles O14: the four forms differ in the signs of the product and of the accumulator (`floatOp3_of`). -/
theorem fmadSetsItsLanes : Obligations.FmadSetsItsLanes := fun _ _ _ _ =>
  ⟨floatOp3_of fun _ => rfl, floatOp3_of fun _ => rfl, floatOp3_of fun _ => rfl, floatOp3_of fun _ => rfl⟩

/-- Settles O15: every compare by its format and its condition (`floatCompare_of`). -/
theorem floatComparesSetTheirBits : Obligations.FloatComparesSetTheirBits := fun _ _ _ _ =>
  ⟨floatCompare_of fun _ => rfl, floatCompare_of fun _ => rfl, floatCompare_of fun _ => rfl, floatCompare_of fun _ => rfl,
    floatCompare_of fun _ => rfl, floatCompare_of fun _ => rfl, floatCompare_of fun _ => rfl, floatCompare_of fun _ => rfl,
    floatCompare_of fun _ => rfl, floatCompare_of fun _ => rfl, floatCompare_of fun _ => rfl, floatCompare_of fun _ => rfl,
    floatCompare_of fun _ => rfl, floatCompare_of fun _ => rfl, floatCompare_of fun _ => rfl, floatCompare_of fun _ => rfl⟩

end Sys2Proof.Machine
end

section
namespace Sys2Proof.Machine

/-! ### FTRANS, FDIV, FRND and FCLASS (R200, R206, R208, R211, R212) -/

section Functions
variable {i : Instr} {mk : Option Msk} {l : BitVec 4} {d a b : BitVec 7}

/-- A function of FTRANS is read in the dynamic rounding mode (R206). -/
theorem ftrans_writesLater {fn : Nat} (op : ∀ s, exec i s = ftrans fn mk l d a s) :
    FloatLater i mk l d fun st j => ftransF32 fn st.roundingMode (lane (st.v a) j) := by
  simp only [← Strand.mode_eq]
  exact floatLater_of op

theorem fdiv_writesLater : FloatLater (.fdiv mk l d a b) mk l d fun st j => FFmt.f32.div st.roundingMode (st.pat 32 a j) (st.pat 32 b j) := by
  simp only [← Strand.mode_eq]
  exact floatLater_of fun _ => rfl

end Functions

/-- The format codes of FRND and FCLASS (R211, R212). -/
theorem eq_fmtOf {t : BitVec 7} {f : FFmt} (code : (t = 0 ∧ f = .f32) ∨ (t = 1 ∧ f = .f16) ∨ (t = 2 ∧ f = .bf16)) : f = fmtOf t := by
  obtain ⟨rfl, rfl⟩ | ⟨rfl, rfl⟩ | ⟨rfl, rfl⟩ := code <;> rfl

/-- The mode of FRND: the one its rounding code names, or FPMODE.RM under the code 5 (R167, R211). -/
theorem frndMode_of {r : BitVec 4} {m : Strand → RMode}
    (code : (r = 0 ∧ m = fun _ => .rne) ∨ (r = 1 ∧ m = fun _ => .rtz) ∨ (r = 2 ∧ m = fun _ => .rdn) ∨ (r = 3 ∧ m = fun _ => .rup) ∨
      (r = 5 ∧ m = Strand.roundingMode)) : (fun st : Strand => if r.toNat < 4 then RMode.ofCode r.toNat else st.mode) = m := by
  obtain ⟨rfl, rfl⟩ | ⟨rfl, rfl⟩ | ⟨rfl, rfl⟩ | ⟨rfl, rfl⟩ | ⟨rfl, rfl⟩ := code
  case inr.inr.inr.inr => exact funext Strand.mode_eq
  all_goals rfl

/-- Settles O16: the long-latency functions by `floatLater_of`, FCLASS and FRND in the format of their code, FRND in the mode of its own. -/
theorem floatFunctionsSetTheirElements : Obligations.FloatFunctionsSetTheirElements := by
  refine ⟨fun mk l d a b => ?_, fun mk d a t r f format => ?_⟩
  · exact ⟨ftrans_writesLater fun _ => rfl, ftrans_writesLater fun _ => rfl, ftrans_writesLater fun _ => rfl, ftrans_writesLater fun _ => rfl,
      ftrans_writesLater fun _ => rfl, ftrans_writesLater fun _ => rfl, ftrans_writesLater fun _ => rfl, ftrans_writesLater fun _ => rfl,
      fdiv_writesLater⟩
  · obtain rfl := eq_fmtOf format
    refine ⟨floatOp1_of fun _ => rfl, fun m rounding => ?_⟩
    obtain rfl := frndMode_of rounding
    exact floatOp_of (width_dvd _) le_rfl fun _ => rfl

/-! ### FDOT (R213) -/

section Dots
variable {i : Instr} {mk : Option Msk} {d a b : BitVec 7}

/-- A float dot product: the accumulator is the first term of the exact sum. -/
theorem fdot_writes {f : FFmt} (op : ∀ s, exec i s = fdot f mk d a b s) :
    FloatOp 32 8 i mk d fun st l => FFmt.f32.deliver st.roundingMode false (exactSum st.roundingMode (FFmt.f32.ex (st.pat 32 d l) ::
      (List.range (32 / f.width)).map fun j =>
        (f.ex (st.pat f.width a (32 / f.width * l + j))).mul (f.ex (st.pat f.width b (32 / f.width * l + j))))) := by
  simp only [← Strand.mode_eq]
  exact floatOp_of (k := 1) rfl le_rfl op

/-- An integer dot product saturates the sum of the accumulator and the products. -/
theorem idot_writes {w n : Nat} (elements : 32 / w = n) (op : ∀ s, exec i s = idot w mk d a b s) :
    WritesElems i mk (words [mk.isSome]) d 32 (fun st l => nearestS 32 ((lane (st.v d) l).toInt +
      ((List.range n).map fun j => (elem w (st.v a) (n * l + j)).toInt * (elem w (st.v b) (n * l + j)).toInt).sum)) fun _ => 0 := by
  subst elements
  simp only [← satS_eq, ← foldl_sum]
  exact writesElems_ofLanes op

end Dots

/-- Settles O17: the float forms by their format (`fdot_writes`), the integer forms by the width of their elements (`idot_writes`). -/
theorem dotProductsSetTheirLanes : Obligations.DotProductsSetTheirLanes := by
  refine fun mk d a b => ⟨?_, idot_writes rfl fun _ => rfl, idot_writes rfl fun _ => rfl⟩
  rintro f i (⟨rfl, rfl⟩ | ⟨rfl, rfl⟩ | ⟨rfl, rfl⟩ | ⟨rfl, rfl⟩)
  all_goals exact fdot_writes fun _ => rfl

end Sys2Proof.Machine
end

section
namespace Sys2Proof.Machine

/-! ### Stores, gathers and scatters (R216 to R218) -/

/-- A pair is its high register above its low one (R159). -/
theorem Strand.pair_toNat (st : Strand) (d : BitVec 7) : (st.pair d).toNat = (st.sNext d).toNat * 2 ^ 32 + (st.s d).toNat := by
  rw [Strand.pair, BitVec.toNat_append, ← Nat.shiftLeft_add_eq_or_of_lt (st.s d).isLt, Nat.shiftLeft_eq]

section Stores
variable {x : Option (BitVec 25)} {d a : BitVec 7} {z : BitVec 2} {o : BitVec 1} {c h : BitVec 2} {ea : Strand → Nat}
  (hea : ∀ st, ea st = (st.ea a x).toNat)
include hea

/-- STS (R216). -/
theorem sts_stores : Stores (.sts x d a z o c h) (words [x.isSome]) o c fun st => [(0, ea st, 2 ^ z.toNat,
    if z = 3 then (st.sNext d).toNat * 2 ^ 32 + (st.s d).toNat else (st.s d).toNat % 2 ^ (8 * 2 ^ z.toNat))] := by
  refine stores_of (h := h) fun s => ?_
  show execSts x d a z o c h s = _
  unfold execSts scalarSize
  simp only [hea, Strand.pair_toNat, len1_words]

/-- STV without a mask: one access (R217). -/
theorem stv_stores_whole : Stores (.stv none x d a z o c h) (words [x.isSome]) o c
    fun st => [(0, ea st, 32 / 2 ^ z.toNat, (st.v d).toNat % 2 ^ (8 * (32 / 2 ^ z.toNat)))] := by
  refine stores_of (h := h) fun s => ?_
  show execStv none x d a z o c h s = _
  unfold execStv vectorSize
  simp only [hea, Strand.vectorLanes_none, lenOf_words]
  rfl

/-- STV with a mask: each active lane within the bytes by itself (R217). -/
theorem stv_stores_masked (mk : Msk) : Stores (.stv (some mk) x d a z o c h) (words [true, x.isSome]) o c fun st => (List.range 8).filterMap fun i =>
    if st.runs (some mk) i ∧ 4 * i < 32 / 2 ^ z.toNat then some (i, (ea st + 4 * i) % 2 ^ 57, 4, (lane (st.v d) i).toNat) else none := by
  refine stores_of (h := h) fun s => ?_
  show execStv (some mk) x d a z o c h s = _
  unfold execStv vectorSize
  simp only [hea, Strand.vectorLanes_some, lenOf_words]
  rfl

end Stores

/-- Settles O25: each form is one store request, with or without a mask (`stores_of`). -/
theorem storesWriteTheirBytes : Obligations.StoresWriteTheirBytes := by
  intro mk x d a z o c h k zero offset ea hea
  have address := Strand.ea_unique zero offset hea
  exact ⟨sts_stores address, stv_stores_whole address, stv_stores_masked address mk⟩

/-- The fields of m that LDG and STG take from an IMM word before them, and without one (R162, R218). -/
theorem gatherM_fields {x : Option (BitVec 25)} {z : BitVec 2} {o : BitVec 1} {c h : BitVec 2} (bare : x = none → z = 2 ∧ o = 0 ∧ c = 0 ∧ h = 0)
    (prefixed : ∀ y, x = some y → y.toNat % 128 = z.toNat * 32 + o.toNat * 16 + c.toNat * 4 + h.toNat) : gatherM x = z ++ o ++ c ++ h := by
  cases x with
  | none =>
    obtain ⟨rfl, rfl, rfl, rfl⟩ := bare rfl
    rfl
  | some y =>
    refine BitVec.eq_of_toNat_eq ?_
    rw [(mField_fields z o c h).1, ← prefixed y rfl, gatherM, BitVec.extractLsb'_toNat, Nat.shiftRight_zero]

/-- The lanes of a gather or scatter, at the addresses of its index lanes (R218). -/
theorem Strand.gatherLanes_eq {st : Strand} {a b : BitVec 7} {place : Nat → Nat} (places : ∀ i, place i = (st.laneAddr a b i).toNat) (mk : Option Msk) (n : Nat)
    (v : Vec) : st.gatherLanes mk a b n v = (List.range 8).filterMap fun i =>
      if st.runs mk i then some (i, place i, n, (lane v i).toNat % 2 ^ (8 * n)) else none :=
  filterMap_congr_mem fun i hi => by rw [Strand.runs_mask _ _ _ (List.mem_range.mp hi), places]

/-- The same of a gather, which has no data. -/
theorem Strand.gatherLanes_sizes {st : Strand} {a b : BitVec 7} {place : Nat → Nat} (places : ∀ i, place i = (st.laneAddr a b i).toNat) (mk : Option Msk)
    (n : Nat) : st.gatherLanes mk a b n 0 = (List.range 8).filterMap fun i => (if st.runs mk i then some n else none).map fun k => (i, place i, k, 0) := by
  rw [Strand.gatherLanes_eq places]
  refine filterMap_congr_mem fun i _ => ?_
  have blank : lane 0 i = 0 := by simp [lane, elem]
  rw [blank]
  split <;> simp

/-- The size of a lane that a gather loads is that of the instruction. -/
theorem size_of_runs {p : Prop} [Decidable p] {n k : Nat} (h : (if p then some n else none) = some k) : p ∧ k = n := by
  split at h
  · exact ⟨‹p›, (Option.some.inj h).symm⟩
  · cases h

section Gathers
variable {mk : Option Msk} {x : Option (BitVec 25)} {l : BitVec 4} {d a b : BitVec 7} {z : BitVec 2} {o : BitVec 1} {c h : BitVec 2}
  {place : Strand → Nat → Nat} (fields : gatherM x = z ++ o ++ c ++ h) (places : ∀ st i, place st i = (st.laneAddr a b i).toNat)
include fields places

/-- LDG (R218). -/
theorem ldg_loads (size : z ≠ 3) : Loads (.ldg mk x l d a b) (words [mk.isSome, x.isSome]) l.toNat o c (fun _ _ => True)
    (fun st => (List.range 8).filterMap fun i => if st.runs mk i then some (i, place st i, 2 ^ z.toNat, 0) else none)
    fun st v => entryV st d (ofLanes fun i => if st.runs mk i then BitVec.ofNat 32 (v i) else lane (st.v d) i) 0 := by
  have lanes : ∀ st, ((List.range 8).filterMap fun i => if st.runs mk i then some (i, place st i, 2 ^ z.toNat, 0) else none) =
      st.gatherLanes mk a b (2 ^ z.toNat) 0 := fun st => by
    rw [Strand.gatherLanes_sizes (places st)]
    refine filterMap_congr_mem fun i _ => ?_
    split <;> rfl
  obtain ⟨-, fieldZ, fieldO, fieldC, fieldH⟩ := mField_fields z o c h
  refine loads_of (h := h) (dest := fun st => .lanes (st.vName d) (st.loadBase mk d)) (fun s st _ _ => ?_) fun st val fits L hL => ?_
  · show execLdg mk x l d a b s = _
    unfold execLdg scalarSize
    simp only [fields, fieldZ, fieldO, fieldC, fieldH, lanes, lenOf_words]
  · rw [lanes, Strand.gatherLanes_sizes (places st)] at fits hL
    refine lanes_entry st d _ _ _ L (lanes_writes _ _ _ _ _ val L (fun i hi k sized => ?_) hL) fun i hi => ?_
    · obtain ⟨active, rfl⟩ := size_of_runs sized
      have room := fits (i, place st i, 2 ^ z.toNat, 0) (List.mem_filterMap.mpr ⟨i, List.mem_range.mpr hi, by rw [sized]; rfl⟩)
      exact ⟨by rw [Strand.lane_loadBase _ _ _ _ hi, if_pos active], gatherSize_le z size, room⟩
    · rw [Strand.lane_loadBase _ _ _ _ hi]
      by_cases active : st.runs mk i = true <;> simp [active]

/-- STG (R218). -/
theorem stg_stores : Stores (.stg mk x d a b) (words [mk.isSome, x.isSome]) o c fun st => (List.range 8).filterMap fun i =>
    if st.runs mk i then some (i, place st i, 2 ^ z.toNat, (lane (st.v d) i).toNat % 2 ^ (8 * 2 ^ z.toNat)) else none := by
  obtain ⟨-, fieldZ, fieldO, fieldC, fieldH⟩ := mField_fields z o c h
  simp only [← fun st => Strand.gatherLanes_eq (places st) mk, ← lenOf_words]
  refine stores_of (h := h) fun s => ?_
  show execStg mk x d a b s = _
  unfold execStg scalarSize
  simp only [fields, fieldZ, fieldO, fieldC, fieldH]

end Gathers

/-- Settles O26: both are one request lane by lane, with the fields of m (`gatherM_fields`) and the addresses of the index lanes. -/
theorem gathersAndScattersGoLaneByLane : Obligations.GathersAndScattersGoLaneByLane := by
  intro mk x l d a b z o c h size bare prefixed place hplace
  have places : ∀ st i, place st i = (st.laneAddr a b i).toNat := fun st i =>
    Int.natCast_inj.mp ((hplace st i).trans (st.laneAddr_eq a b i).symm)
  have fields := gatherM_fields bare prefixed
  exact ⟨ldg_loads fields places size, stg_stores fields places⟩

/-! ### Atomics (R220, R221) -/

/-- A vector destination takes the old value with zeros above (R221). -/
theorem entryV_low_writes (st : Strand) (d : BitVec 7) (l : Lane) : entryV st d (BitVec.ofNat 256 l.rdata) 0 =
    { writes := (MemDest.low (st.vName d)).writes [l], left := 0, arrived := false, flags := 0, causes := 0, tval := 0 } := by
  unfold entryV MemDest.writes
  cases st.vName d <;> rfl

section Atomics
variable {i : Instr} {k n : Nat} {x : Option (BitVec 25)} {l : BitVec 4} {d a : BitVec 7} {o : BitVec 1} {c : BitVec 2} {ea : Strand → Nat}
  {f : Strand → Nat → Option Nat} (hea : ∀ st, ea st = (st.ea a x).toNat)
include hea

theorem atomScalar_updates (meaning : ∀ s, exec i s = atomScalar k x l d a o c s)
    (new : ∀ st old, atomicNew k 4 old (st.s d).toNat (st.sNext d).toNat = f st old) :
    Updates i (words [x.isSome]) l.toNat o c 4 ea f fun st old => entryS st d (BitVec.ofNat 32 old) := by
  obtain rfl : ea = fun st => (st.ea a x).toNat := funext hea
  rw [← len1_words]
  exact updates_of meaning (fun st old _ => new st old) fun st _ r data _ => data ▸ entryS_writes st d r

theorem atomVector_updates (meaning : ∀ s, exec i s = atomVector k n x l d a o c s)
    (new : ∀ st old, atomicNew k n old (getBytes (st.v d) 0 n) (getBytes (st.v d) n n) = f st old) :
    Updates i (words [x.isSome]) l.toNat o c n ea f fun st old => entryV st d (BitVec.ofNat 256 old) 0 := by
  obtain rfl : ea = fun st => (st.ea a x).toNat := funext hea
  rw [← len1_words]
  exact updates_of meaning (fun st old _ => new st old) fun st _ r data _ => data ▸ entryV_low_writes st d r

end Atomics

theorem getBytes_low (v : Vec) (n : Nat) : getBytes v 0 n = v.toNat % 2 ^ (8 * n) := by
  rw [getBytes, Nat.mul_zero, Nat.pow_zero, Nat.div_one]

/-- The upper half of a vector has no bits above it. -/
theorem getBytes_high (v : Vec) : getBytes v 16 16 = v.toNat / 2 ^ 128 := Nat.mod_eq_of_lt (by have := v.isLt; omega)

/-- Settles O27: every form is one atomic request with the function of its code (`atomicNew`). -/
theorem atomicsReadAndWriteAtOnce : Obligations.AtomicsReadAndWriteAtOnce := by
  refine ⟨fun x l d a o c k bare prefixed ea hea => ?_, fun x l d a o c k bare prefixed ea hea => ?_⟩
  · have address := Strand.ea_unique bare prefixed hea
    and_intros
    all_goals exact atomScalar_updates address (fun _ => rfl) fun _ _ => rfl
  · have address := Strand.ea_unique bare prefixed hea
    and_intros
    rotate_right
    · exact atomVector_updates address (fun _ => rfl) fun st _ => by rw [getBytes_low, getBytes_high]; rfl
    all_goals exact atomVector_updates address (fun _ => rfl) fun st _ => by rw [getBytes_low]; rfl

end Sys2Proof.Machine
end

section
namespace Sys2Proof.Machine

/-! ### Barriers (R225, R226, R350) -/

/-- A count of BAR lies outside the operand limits (R226). -/
theorem badCount_iff (n : Nat) : badCount n = true ↔ n = 0 ∨ 512 < n := by simp [badCount]

theorem Strand.barCount_eq (st : Strand) (a : BitVec 7) : st.barCount a = (st.s a).toNat % 1024 := by
  simp [Strand.barCount, BitVec.extractLsb'_toNat]

/-- A barrier as BAR finds it; a bundle that is not found reads as one that is new (R225). -/
theorem State.bar_eq (s : State) (h k : Nat) :
    s.bar h k = (((s.bundle? h).bind fun b => b.bars[k]?).getD { exp := 1, arr := 0, pend := 0, phase := 0 }) := by
  unfold State.bar
  cases s.bundle? h with
  | none => rfl
  | some b => exact List.getD_eq_getElem?_getD

section Counts
variable {s : State} {st : Strand} {a : BitVec 7} {c : BitVec 1} {k : BitVec 4} (cur : s.curStrand = some st)
include cur

theorem exec_barInit_bad (bad : badCount (st.barCount a) = true) :
    exec (.barInit a k) s = .next (s.raise st (1 <<< 2) ((wordA 0x51 0 0 a (0#3 ++ k)).zeroExtend 64)) :=
  (State.onStrand_some cur _).trans (congrArg _ (if_pos bad))

theorem exec_barInit_alone (good : badCount (st.barCount a) = false) (alone : st.bundle = none) :
    exec (.barInit a k) s = .next (s.putStrand (st.retire s.cycle 1)) :=
  (State.onStrand_some cur _).trans (by simp only [good, alone]; rfl)

theorem exec_barInit_member (good : badCount (st.barCount a) = false) {h m : Nat} (member : st.bundle = some (h, m)) :
    exec (.barInit a k) s = .next ((s.mapBar h k.toNat fun b => { b with exp := st.barCount a }).putStrand (st.retire s.cycle 1)) :=
  (State.onStrand_some cur _).trans (by simp only [good, member]; rfl)

end Counts

section Arrivals
variable {s : State} {st : Strand} {fn : BitVec 4} {a : BitVec 7} {c : BitVec 1} {k : BitVec 4} {go : State → State}
  (good : c = 1 → badCount (st.barCount a) = false)
include good

theorem State.arrive_alone (alone : st.bundle = none) : s.arrive st fn a c k go = s.putStrand (st.retire s.cycle 1) := by
  have valid : ¬ (decide (c = 1) && badCount (st.barCount a)) = true := by simpa using good
  unfold State.arrive
  simp only [if_neg valid, alone]
  rfl

variable {h m : Nat} (member : st.bundle = some (h, m))
include member

/-- One arrival more, with the count first (R226). -/
theorem State.arrive_room (room : (s.bar h k.toNat).arr < 1023) : s.arrive st fn a c k go =
    go (s.mapBar h k.toNat fun b => { b with exp := if c = 1 then st.barCount a else b.exp, arr := b.arr + 1 }) := by
  have valid : ¬ (decide (c = 1) && badCount (st.barCount a)) = true := by simpa using good
  unfold State.arrive
  simp only [if_neg valid, member]
  exact if_neg (by omega)

/-- An arrival above 1,023 raises BARRIER (R350). -/
theorem State.arrive_full (full : 1023 ≤ (s.bar h k.toNat).arr) :
    s.arrive st fn a c k go = s.raise st (1 <<< 33) (BitVec.ofNat 64 k.toNat) := by
  have valid : ¬ (decide (c = 1) && badCount (st.barCount a)) = true := by simpa using good
  unfold State.arrive
  simp only [if_neg valid, member]
  exact if_pos full

end Arrivals

section Bars
variable {s : State} {st : Strand} {a d : BitVec 7} {c : BitVec 1} {k : BitVec 4} (cur : s.curStrand = some st)
include cur

theorem exec_barSync_alone (alone : st.bundle = none) :
    exec (.barSync a c k) s = .next (s.arrive st 1 a c k id) := by
  refine (State.onStrand_some cur _).trans ?_
  simp only [alone, Option.isSome_none, Bool.false_eq_true, if_false]
  rfl

theorem exec_barSync_member {h m : Nat} (member : st.bundle = some (h, m)) : exec (.barSync a c k) s = .next (s.arrive st.closeWindows 1 a c k fun t =>
    t.putStrand (st.standsAt s.cycle 1 (.barSync k.toNat (s.bar h k.toNat).phase))) := by
  refine (State.onStrand_some cur _).trans ?_
  simp only [member, Option.isSome_some, if_true, Strand.closeWindows_bundle, Strand.closed_block]

theorem exec_barArrive : exec (.barArrive a c k) s = .next (s.arrive st 2 a c k fun t => t.putStrand (st.retire t.cycle 1)) :=
  State.onStrand_some cur _

theorem exec_barExpect_alone (alone : st.bundle = none) : exec (.barExpect a k) s = .next (s.putStrand (st.retire s.cycle 1)) :=
  (State.onStrand_some cur _).trans (by rw [alone]; rfl)

theorem exec_barExpect_member {h m : Nat} (member : st.bundle = some (h, m)) : exec (.barExpect a k) s =
    .next ((s.mapBar h k.toNat fun b => { b with pend := b.pend + (st.s a).zeroExtend 56 }).putStrand (st.retire s.cycle 1)) :=
  (State.onStrand_some cur _).trans (by rw [member]; rfl)

/-- BAR QUERY of the barrier that the strand has, or of one that is new (R226). -/
theorem exec_barQuery {b : Bar} (own : b = match st.bundle with | some (h, _) => s.bar h k.toNat | none => { exp := 1, arr := 0, pend := 0, phase := 0 }) :
    (∃ u, exec (.barQuery d 0 k) s = .next (s.putStrand u) ∧
      st.WroteS u s.cycle (st.past 1) d (BitVec.ofNat 32 ((b.exp - 1) * 2 ^ 22 + b.arr * 2 ^ 12 + b.phase))) ∧
    ∃ u, exec (.barQuery d 1 k) s = .next (s.putStrand u) ∧ st.WrotePair u s.cycle (st.past 1) d (b.pend.signExtend 64) := by
  subst own
  exact ⟨⟨_, State.onStrand_some cur _, st.wroteS_retire ..⟩, ⟨_, State.onStrand_some cur _, st.wrotePair_retire ..⟩⟩

end Bars

/-- Settles O32: INIT by its count, SYNC and ARRIVE by `State.arrive_room` and `State.arrive_full`, the others by whether the strand has a bundle. -/
theorem barriersCountArrivals : Obligations.BarriersCountArrivals := by
  rintro d a c k s st cur count rfl set rfl now rfl x rfl
  have good : ∀ y : Strand, 0 < (y.s a).toNat % 1024 → (y.s a).toNat % 1024 ≤ 512 → badCount (y.barCount a) = false := fun y pos le => by
    rw [Bool.eq_false_iff, Ne, badCount_iff, Strand.barCount_eq]
    omega
  refine ⟨fun alone => ⟨fun pos le => ?_, fun valid => ?_, ?_, ?_⟩, fun h m member => ?_, fun bad => ?_, fun b => ?_⟩
  · exact ⟨_, exec_barInit_alone cur (good st pos le) alone, st.retire_moved ..⟩
  · have fits : c = 1 → badCount (st.barCount a) = false := fun counted => good st (valid counted).1 (valid counted).2
    exact ⟨⟨_, (exec_barSync_alone cur alone).trans (congrArg _ (State.arrive_alone fits alone)), st.retire_moved ..⟩,
      ⟨_, (exec_barArrive cur).trans (congrArg _ (State.arrive_alone fits alone)), st.retire_moved ..⟩⟩
  · exact ⟨_, exec_barExpect_alone cur alone, st.retire_moved ..⟩
  · simpa using exec_barQuery (d := d) (k := k) (b := { exp := 1, arr := 0, pend := 0, phase := 0 }) cur (by rw [alone])
  · have closed : st.closeWindows.bundle = some (h, m) := by rw [Strand.closeWindows_bundle, member]
    simp only [member, reduceCtorEq, if_false, ← State.bar_eq, ← Strand.barCount_eq] at good ⊢
    refine ⟨fun pos le => ?_, fun valid room => ?_, fun valid room => ?_, ?_, ?_, ?_, fun valid full => ?_, fun valid full => ?_⟩
    · exact ⟨_, exec_barInit_member cur (good st pos le) member, st.retire_moved ..⟩
    · exact (exec_barSync_member cur member).trans
        (congrArg _ (State.arrive_room (fun counted => good _ (valid counted).1 (valid counted).2) closed room))
    · exact ⟨_, (exec_barArrive cur).trans
        (congrArg _ (State.arrive_room (fun counted => good st (valid counted).1 (valid counted).2) member room)), st.retire_moved ..⟩
    · exact ⟨_, exec_barExpect_member cur member, st.retire_moved ..⟩
    · exact (exec_barQuery cur (by rw [member])).1
    · exact (exec_barQuery cur (by rw [member])).2
    · exact (exec_barSync_member cur member).trans
        (congrArg _ (State.arrive_full (fun counted => good _ (valid counted).1 (valid counted).2) closed full))
    · exact (exec_barArrive cur).trans
        (congrArg _ (State.arrive_full (fun counted => good st (valid counted).1 (valid counted).2) member full))
  · exact exec_barInit_bad cur ((badCount_iff _).mpr (by rwa [Strand.barCount_eq]))
  · simp [Bar.check]

end Sys2Proof.Machine
end

section
namespace Sys2Proof.Machine

/-! ### CSRs (R292, R293, R366) -/

/-- A permitted write goes to the strand's own registers or to those of its core and die, by the number (R293). -/
def State.csrWritten (s : State) (st : Strand) (n : Nat) (v : BitVec 64) : State :=
  match n with
  | 0x000 => s.putStrand ({ st with rm := v.extractLsb' 0 2 }.retire s.cycle 1)
  | 0x001 => s.putStrand ({ st with fpflags := v.extractLsb' 0 5 }.retire s.cycle 1)
  | 0x010 => s.putStrand ({ st with plev := v.getLsbD 1 }.retire s.cycle 1)
  | 0x012 => s.putStrand ({ st with tval := v }.retire s.cycle 1)
  | 0x013 => s.putStrand ({ st with epc := v.extractLsb' 0 57 }.retire s.cycle 1)
  | n => (if n < 0x100 then s else s.csrPutUnit st.at_.die st.at_.core n v).putStrand (st.retire s.cycle 1)

section Csrs
variable {s : State} {st : Strand} {d : BitVec 7} {c : BitVec 14} {wide : Bool}

/-- A reserved number, and a 64-bit CSR at d = 127, are no CSR access (R366). -/
theorem exec_csr_illegal (cur : s.curStrand = some st) (reserved : csrWide c.toNat = none ∨ (csrWide c.toNat = some true ∧ d = 127)) :
    exec (.csrr d c) s = .next (s.raiseWord st cIllegal (wordC 0x70 0 d c)) ∧
      exec (.csrw d c) s = .next (s.raiseWord st cIllegal (wordC 0x70 1 d c)) := by
  obtain none | ⟨long, last⟩ := reserved
  · exact ⟨(State.onStrand_some cur _).trans (by simp only [none]), (State.onStrand_some cur _).trans (by simp only [none])⟩
  · exact ⟨(State.onStrand_some cur _).trans (by simp only [long, last]; rfl), (State.onStrand_some cur _).trans (by simp only [long, last]; rfl)⟩

variable (cur : s.curStrand = some st) (width : csrWide c.toNat = some wide) (pair : wide = true → d ≠ 127)
include cur width pair

theorem exec_csrr_priv (right : s.csrRight st c.toNat false = .priv) :
    exec (.csrr d c) s = .next (s.raiseWord st cPriv (wordC 0x70 0 d c)) := by
  have legal : ¬ (wide && decide (d = 127)) = true := by simpa using pair
  refine (State.onStrand_some cur _).trans ?_
  simp only [width, if_neg legal, right, if_true]

theorem exec_csrr_reads (right : s.csrRight st c.toNat false ≠ .priv) : exec (.csrr d c) s = .next (s.putStrand
    ((if wide then st.setPair d (s.csrGet st c.toNat) else st.setS d ((s.csrGet st c.toNat).extractLsb' 0 32)).retire s.cycle 1)) := by
  have legal : ¬ (wide && decide (d = 127)) = true := by simpa using pair
  refine (State.onStrand_some cur _).trans ?_
  simp only [width, if_neg legal, if_neg right]

theorem exec_csrw_priv (right : s.csrRight st c.toNat true = .priv) :
    exec (.csrw d c) s = .next (s.raiseWord st cPriv (wordC 0x70 1 d c)) := by
  have legal : ¬ (wide && decide (d = 127)) = true := by simpa using pair
  refine (State.onStrand_some cur _).trans ?_
  simp only [width, if_neg legal, right]

theorem exec_csrw_ignored (right : s.csrRight st c.toNat true = .ignored) :
    exec (.csrw d c) s = .next (s.putStrand (st.retire s.cycle 1)) := by
  have legal : ¬ (wide && decide (d = 127)) = true := by simpa using pair
  refine (State.onStrand_some cur _).trans ?_
  simp only [width, if_neg legal, right]

/-- A permitted write takes the strand's register, or the pair of a 64-bit CSR (R292). -/
theorem exec_csrw_writes (right : s.csrRight st c.toNat true = .yes) :
    exec (.csrw d c) s = .next (s.csrWritten st c.toNat (if wide then st.pair d else (st.s d).zeroExtend 64)) := by
  have legal : ¬ (wide && decide (d = 127)) = true := by simpa using pair
  refine (State.onStrand_some cur _).trans ?_
  simp only [width, if_neg legal, right]
  rfl

end Csrs

/-- The numbers from 0x100 on are CSRs of the core or the die (R293). -/
theorem State.csrWritten_unit (s : State) (st : Strand) (v : BitVec 64) {n : Nat} (unit : 0x100 ≤ n) :
    s.csrWritten st n v = (s.csrPutUnit st.at_.die st.at_.core n v).putStrand (st.retire s.cycle 1) := by
  unfold State.csrWritten
  split
  case h_6 => rw [if_neg (by omega)]
  all_goals omega

section Rights
variable (s : State) (st : Strand) (write : Bool)

/-- What a program may do with a CSR that is no counter (R366). -/
theorem State.csrRight_program {n : Nat} (program : st.level = false) (own : 1 < n) (counter : ¬ (0x308 ≤ n ∧ n ≤ 0x30F) ∧ ¬ (0x330 ≤ n ∧ n ≤ 0x34F)) :
    s.csrRight st n write = if n = 0x010 then (if write then .priv else .yes)
      else if n = 0x011 ∨ n = 0x020 ∨ n = 0x021 ∨ n = 0x380 ∨ (0x220 ≤ n ∧ n ≤ 0x22F) then (if write then .ignored else .yes) else .priv := by
  have plain : s.counterUsr st n = none := by simp [State.counterUsr, counter]
  have first : ¬ (decide (n = 0) || decide (n = 1)) = true := by simp; omega
  unfold State.csrRight
  simp only [if_neg first, program, plain]
  simp [or_assoc]

/-- What a program may do with a counter, by the bit USR of its selector (R322, R366). -/
theorem State.csrRight_counter {n : Nat} {usr : Bool} (program : st.level = false) (own : 1 < n) (counter : s.counterUsr st n = some usr) :
    s.csrRight st n write = if usr then (if write then .ignored else .yes) else .priv := by
  have first : ¬ (decide (n = 0) || decide (n = 1)) = true := by simp; omega
  unfold State.csrRight
  simp only [if_neg first, program, counter]
  cases usr <;> rfl

theorem State.counterUsr_core {j : Nat} (inside : j < 8) :
    s.counterUsr st (0x308 + j) = some (((s.core st.at_.die st.at_.core).evsel.getD j 0).getLsbD 30) := by
  have range : (decide (0x308 ≤ 0x308 + j) && decide (0x308 + j ≤ 0x30F)) = true := by simp; omega
  simp only [State.counterUsr, range, if_true, Nat.add_sub_cancel_left]

theorem State.counterUsr_die {j : Nat} (inside : j < 32) :
    s.counterUsr st (0x330 + j) = some (((s.die st.at_.die).devsel.getD j 0).getLsbD 30) := by
  have range : (decide (0x330 ≤ 0x330 + j) && decide (0x330 + j ≤ 0x34F)) = true := by simp; omega
  have other : ¬ (decide (0x308 ≤ 0x330 + j) && decide (0x330 + j ≤ 0x30F)) = true := by simp; omega
  simp only [State.counterUsr, range, if_neg other, if_true, Nat.add_sub_cancel_left]

/-- The CSRs of tables of a core and a die, by their ranges (R293, R322). -/
theorem State.csrGet_table {n : Nat} (table : 0x210 ≤ n) (other : n ≠ 0x380) : s.csrGet st n =
    if 0x210 ≤ n ∧ n ≤ 0x21F then ((s.die st.at_.die).waymask.getD (n - 0x210) 0).zeroExtend 64
    else if 0x220 ≤ n ∧ n ≤ 0x22F then BitVec.ofNat 64 ((s.die st.at_.die).occ (n - 0x220))
    else if 0x300 ≤ n ∧ n ≤ 0x307 then ((s.core st.at_.die st.at_.core).evsel.getD (n - 0x300) 0).zeroExtend 64
    else if 0x308 ≤ n ∧ n ≤ 0x30F then (s.core st.at_.die st.at_.core).evcnt.getD (n - 0x308) 0
    else if 0x310 ≤ n ∧ n ≤ 0x32F then ((s.die st.at_.die).devsel.getD (n - 0x310) 0).zeroExtend 64
    else if 0x330 ≤ n ∧ n ≤ 0x34F then (s.die st.at_.die).devcnt.getD (n - 0x330) 0
    else 0 := by
  unfold State.csrGet
  split
  case h_9 =>
    unfold State.csrUnit
    split
    case h_14 => simp
    all_goals omega
  all_goals omega

end Rights

/-- STATUS as a CSR: LEVEL in bit 0, PLEV in bit 1 (R293). -/
theorem status_value : ∀ level plev : Bool,
    BitVec.ofNat 64 ((if level then 1 else 0) + if plev then 2 else 0) = 0#62 ++ BitVec.ofBool plev ++ BitVec.ofBool level := by decide

/-- Settles O41: an access by its width and its right (`exec_csrr_reads`, `exec_csrw_writes`), the rights by the kind of CSR
(`State.csrRight_program`, `State.csrRight_counter`), the tables by their ranges (`State.csrGet_table`). -/
theorem csrsAreReadAndWritten : Obligations.CsrsAreReadAndWritten := by
  rintro d c s st cur n rfl k rfl v rfl bad rfl
  refine ⟨exec_csr_illegal cur, fun w width pair => ⟨exec_csrr_priv cur width pair, fun right => ?_, exec_csrw_priv cur width pair, fun right => ?_,
      fun right => ⟨?_, fun unit => ?_⟩⟩, fun wr => ⟨?_, ?_, fun handler => ?_, fun program => ⟨?_, ?_, ?_, ?_, ?_⟩⟩, ?_, ?_, ?_, ?_, ?_⟩
  · refine ⟨_, exec_csrr_reads cur width pair right, ?_⟩
    cases w
    · exact st.wroteS_retire ..
    · exact st.wrotePair_retire ..
  · exact ⟨_, exec_csrw_ignored cur width pair right, st.retire_moved ..⟩
  · rw [exec_csrw_writes cur width pair right]
    generalize c.toNat = n
    simp only [List.forall_mem_cons, List.not_mem_nil, false_implies, implies_true, and_true]
    and_intros
    all_goals
      rintro rfl
      rfl
  · exact ⟨_, (exec_csrw_writes cur width pair right).trans (congrArg _ (s.csrWritten_unit st _ unit)), st.retire_moved ..⟩
  · rfl
  · rfl
  · unfold State.csrRight
    simp only [handler, if_true, ite_self]
  · exact s.csrRight_program st wr program (by omega) (by omega)
  · intro m hm
    simp only [List.mem_cons, List.not_mem_nil, or_false] at hm
    rw [s.csrRight_program st wr program (by omega) (by omega), if_neg (by omega), if_pos (by omega)]
  · intro m hm
    simp only [List.mem_cons, List.not_mem_nil, or_false] at hm
    rw [s.csrRight_program st wr program (by omega) (by omega), if_neg (by omega), if_neg (by omega)]
  · exact fun j inside => s.csrRight_counter st wr program (by omega) (s.counterUsr_core st inside)
  · exact fun j inside => s.csrRight_counter st wr program (by omega) (s.counterUsr_die st inside)
  · simp only [List.forall_mem_cons, List.not_mem_nil, false_implies, implies_true, and_true]
    refine ⟨rfl, rfl, status_value _ _, ?_⟩
    and_intros
    all_goals rfl
  · exact fun j inside => by rw [s.csrGet_table st (by omega) (by omega), if_pos (by omega), Nat.add_sub_cancel_left]
  · refine fun j inside => ⟨?_, ?_⟩
    · rw [s.csrGet_table st (by omega) (by omega), if_neg (by omega), if_neg (by omega), if_pos (by omega), Nat.add_sub_cancel_left]
    · rw [s.csrGet_table st (by omega) (by omega), if_neg (by omega), if_neg (by omega), if_neg (by omega), if_pos (by omega), Nat.add_sub_cancel_left]
  · refine fun j inside => ⟨?_, ?_⟩
    · rw [s.csrGet_table st (by omega) (by omega), if_neg (by omega), if_neg (by omega), if_neg (by omega), if_neg (by omega), if_pos (by omega),
        Nat.add_sub_cancel_left]
    · rw [s.csrGet_table st (by omega) (by omega), if_neg (by omega), if_neg (by omega), if_neg (by omega), if_neg (by omega), if_neg (by omega),
        if_pos (by omega), Nat.add_sub_cancel_left]
  · intro w
    simp only [List.forall_mem_cons, List.not_mem_nil, false_implies, implies_true, and_true]
    exact ⟨rfl, rfl, rfl, rfl⟩

end Sys2Proof.Machine
end

section
namespace Sys2Proof.Machine

/-! ### PREF, MWATCH and MWAIT (R219, R223) -/

/-- A translated place that is present is where its leaf puts it (R132, R135). -/
theorem State.At.target {s : State} {st : Strand} {a : AccClass} {va n pa : Nat} (place : s.At st a va n pa) :
    ∃ l g b p, s.tlbLeaf st.at_.die (some st.at_.core) st.pdom.toNat (pageOf va) = some l ∧ l.target st.pdom.toNat st.partid.toNat va = .phys pa g b p ∧
      s.usable l (partOf va) = true := by
  obtain ⟨l, leaf, present, pa, -, -⟩ := place.leaf
  refine ⟨l, l.sg, l.sbase, if l.poe then l.poid else st.partid.toNat, leaf, ?_, ?_⟩
  · simp only [Leaf.target, present, pa]
  · rw [State.usable, present]

theorem homeOf_ne_regs {d pa : Nat} (near : localMemory d pa) : homeOf pa ≠ .regs := by
  obtain ⟨home, -⟩ | home := near <;> simp [home]

/-- What PREF does beside its strand (R219). -/
def State.prefetched (s : State) (st : Strand) (va : Nat) (h : BitVec 2) : State :=
  if addrKind va ≠ .virt then s
  else
    match s.peekLeaf st va with
    | (some l, s) =>
      (match l.target st.pdom.toNat st.partid.toNat va with
       | .phys pa g b p =>
         if s.usable l (partOf va) && homeOf pa ≠ .regs then
           s.fillLine st pa { group := g, base := b, partid := p, hint := h.toNat } (h != 3)
         else s
       | _ => s)
    | (none, s) => s

theorem exec_pref {s : State} {st : Strand} (cur : s.curStrand = some st) (x : Option (BitVec 25)) (a : BitVec 7) (h : BitVec 2) :
    exec (.pref x a h) s = .next ((s.prefetched st (st.ea a x).toNat h).putStrand (st.retire s.cycle (len1 x))) :=
  State.onStrand_some cur _

theorem State.Fetched.peekLeaf (s : State) (st : Strand) (va : Nat) : s.Fetched (s.peekLeaf st va).2 := by
  unfold State.peekLeaf
  dsimp only
  split
  · exact .refl s
  · split
    · exact .tlbFill ..
    · exact .refl s

theorem State.Fetched.prefetched (s : State) (st : Strand) (va : Nat) (h : BitVec 2) : s.Fetched (s.prefetched st va h) := by
  have looked := State.Fetched.peekLeaf s st va
  unfold State.prefetched
  split
  · exact .refl s
  · generalize s.peekLeaf st va = found at looked ⊢
    obtain ⟨_ | l, t⟩ := found
    · exact looked
    · dsimp only at looked ⊢
      split
      · split
        · exact looked.trans (.fillLine ..)
        · exact looked
      · exact looked

/-- PREF of a line of the die's memory or the host's fills it (R219). -/
theorem State.prefetched_local {s : State} {st : Strand} {va n pa : Nat} (place : s.At st .read va n pa) (near : localMemory st.at_.die pa) (h : BitVec 2) :
    ∃ pl : L2Place, pl.hint = h.toNat ∧ s.prefetched st va h = s.fillLine st pa pl (h != 3) := by
  obtain ⟨l, g, b, p, leaf, target, usable⟩ := place.target
  have peek : s.peekLeaf st va = (some l, s) := by simp only [State.peekLeaf, leaf]
  refine ⟨{ group := g, base := b, partid := p, hint := h.toNat }, rfl, ?_⟩
  unfold State.prefetched
  simp [place.kind, peek, target, usable, homeOf_ne_regs near]

/-- PREF leaves the sectors of such a line in the L1, unless its hint forbids (R126, R219). -/
theorem State.prefetched_l1 {s : State} {st : Strand} {va n pa : Nat} {h : BitVec 2} (allocates : h ≠ 3) (place : s.At st .read va n pa)
    (near : localMemory st.at_.die pa) {j : Nat} (inside : j < 4) :
    (findSector ((s.prefetched st va h).core st.at_.die st.at_.core).l1 (pa / 128 * 4 + j) s.cycle).isSome := by
  obtain ⟨pl, hint, fills⟩ := s.prefetched_local place near h
  have keeps : pl.hint ≠ 3 := fun same => allocates (BitVec.eq_of_toNat_eq (hint.symm.trans same))
  have l1 : (h != 3) = true := by simpa using allocates
  rw [fills, l1]
  exact s.fillLine_l1 st pa pl keeps near j inside

/-- The watch that MWATCH arms on the line of a place (R223). -/
def State.armed (s : State) (st : Strand) (pa page : Nat) : Option Watch :=
  some { region := .line pa st.pdom.toNat page, fired := false, limit := s.cycle + (s.core st.at_.die st.at_.core).lease }

/-- MWATCH of such a line fills it and arms the watch (R223). -/
theorem exec_mwatch {s : State} {st : Strand} (cur : s.curStrand = some st) {x : Option (BitVec 25)} {a : BitVec 7} {pa : Nat}
    (place : s.At st .read (st.ea a x).toNat 4 pa) (near : localMemory st.at_.die pa) :
    ∃ t, s.Fetched t ∧ (findSector (t.core st.at_.die st.at_.core).l1 (pa / 32) s.cycle).isSome ∧
      exec (.mwatch x a) s = .next (t.putStrand (Strand.retire { st with watch := s.armed st pa (pageOf (st.ea a x).toNat) } s.cycle (len1 x))) := by
  obtain ⟨g, b, p, check⟩ := State.checkLane_at place
  have ready : s.addrPhase st .read [((st.ea a x).toNat, 4)] = .ready [.phys pa g b p] :=
    State.addrPhase_ready (tgt := fun _ => .phys pa g b p) fun l hl => by rw [List.mem_singleton.1 hl]; exact check
  obtain ⟨pl, hpl⟩ : ∃ pl : L2Place, pl = { group := g, base := b, partid := p, hint := 0 } := ⟨_, rfl⟩
  have keeps : pl.hint ≠ 3 := by simp [hpl]
  obtain ⟨v, m, u, reads, looked, -⟩ := (s.tlbUseAll st [((st.ea a x).toNat, 4)]).unitAtom_local (c := st.at_.core) near keeps
  have fetched : s.Fetched (u.fillLine st pa pl true) := (State.Fetched.tlbUseAll ..).trans (looked.trans (.fillLine ..))
  have cycle : u.cycle = s.cycle := ((State.Fetched.tlbUseAll ..).trans looked).cycle
  have lease : ((u.fillLine st pa pl true).core st.at_.die st.at_.core).lease = (s.core st.at_.die st.at_.core).lease := by rw [fetched.core]; rfl
  refine ⟨_, fetched, ?_, (State.onStrand_some cur _).trans ?_⟩
  · have filled := u.fillLine_l1 st pa pl keeps near (pa / 32 % 4) (Nat.mod_lt _ (by decide))
    rwa [cycle, show pa / 128 * 4 + pa / 32 % 4 = pa / 32 by omega] at filled
  · simp only [ready, if_neg (homeOf_ne_regs near), ← hpl, reads, fetched.cycle, lease, State.armed]

/-- MWAIT passes where the watch has fired or none is armed, and disarms it (R223). -/
theorem exec_mwait_passes {s : State} {st : Strand} (cur : s.curStrand = some st) (fired : ∀ w, st.watch = some w → w.fired = true) :
    exec .mwait s = .next (s.putStrand (Strand.retire { st.closeWindows with watch := none } s.cycle 1)) := by
  refine (State.onStrand_some cur _).trans ?_
  cases armed : st.watch with
  | none =>
    have disarmed : ({ st.closeWindows with watch := none } : Strand) = st.closeWindows := by
      rw [st.closeWindows_rest, armed]
    rw [disarmed]
  | some w => simp only [fired w armed, if_true]

theorem exec_mwait_waits {s : State} {st : Strand} (cur : s.curStrand = some st) {w : Watch} (armed : st.watch = some w) (quiet : w.fired = false) :
    exec .mwait s = .next (s.putStrand (st.standsAt s.cycle 1 .mwait)) := by
  refine (State.onStrand_some cur _).trans ?_
  simp only [armed, quiet]
  rfl

theorem Strand.closeWindows_past (st : Strand) (n : Nat) : st.closeWindows.past n = st.past n := by
  rw [st.closeWindows_rest]
  rfl

theorem Strand.watches_closed (st : Strand) (w : Option Watch) (cycle n : Nat) :
    st.closeWindows.Watches (Strand.retire { st.closeWindows with watch := w } cycle n) cycle (st.past n) w := by
  rw [← st.closeWindows_past]
  exact st.closeWindows.watches_goTo ..

/-- Settles O29: PREF and MWATCH by the line they fill (`State.fillLine_l1`), MWAIT by whether an armed watch is still to fire. -/
theorem prefetchesAndWatchesReachTheLine : Obligations.PrefetchesAndWatchesReachTheLine := by
  refine ⟨fun x a h k bare prefixed ea hea s st cur => ?_, fun x a k bare prefixed ea hea => ⟨fun s st pa cur place near => ?_, fun s st cur fired => ?_,
    fun s st cur ⟨w, armed, quiet⟩ => ?_⟩⟩
  · rw [← len1_words, Strand.ea_unique bare prefixed hea]
    exact ⟨_, _, exec_pref cur x a h, .prefetched .., st.retire_moved .., fun pa allocates place near j inside =>
      State.prefetched_l1 allocates place near inside⟩
  · rw [Strand.ea_unique bare prefixed hea] at place ⊢
    obtain ⟨t, fetched, filled, run⟩ := exec_mwatch cur place near
    rw [← len1_words]
    exact ⟨t, _, run, fetched, st.watches_goTo .., filled⟩
  · exact ⟨_, exec_mwait_passes cur fired, st.watches_closed ..⟩
  · exact ⟨_, exec_mwait_waits cur armed quiet, rfl⟩

end Sys2Proof.Machine
end

section
namespace Sys2Proof.Machine

/-! ### Engine commands and rendezvous objects (R234 to R236, R279 to R281) -/

section Commands
variable {s : State} {st : Strand} {a : BitVec 7} (cur : s.curStrand = some st) (u : Nat)
include cur

/-- A record at an address that is no multiple of 64 raises MISALIGN (R365). -/
theorem engq_misaligned (odd : (st.pairAddr a).toNat % 64 ≠ 0) (exists_ : addrKind (st.pairAddr a).toNat ≠ .bad) :
    engq u a s = .next (s.raise st cMisalign (BitVec.ofNat 64 (st.pairAddr a).toNat)) := by
  refine (State.onStrand_some cur _).trans ?_
  simp only [exists_, if_false, bne_iff_ne.mpr odd, if_true]
  rfl

/-- A full queue is waited for with the windows open (R279). -/
theorem engq_full (even : (st.pairAddr a).toNat % 64 = 0) (exists_ : addrKind (st.pairAddr a).toNat ≠ .bad)
    (full : s.queueFree st.at_.die st.at_.core u = false) : engq u a s = .next (s.putStrand (st.standsAgain s.cycle)) := by
  refine (State.onStrand_some cur _).trans ?_
  simp only [even, exists_, full]
  rfl

/-- An entry goes to the tail of a queue with room (R234, R279). -/
theorem engq_appends (even : (st.pairAddr a).toNat % 64 = 0) (exists_ : addrKind (st.pairAddr a).toNat ≠ .bad)
    (room : s.queueFree st.at_.die st.at_.core u = true) : engq u a s =
    .next ((s.pushEntry st.at_.die st.at_.core u (st.engEntry (st.pairAddr a).toNat 0 0 none)).putStrand (st.retire s.cycle 1)) := by
  refine (State.onStrand_some cur _).trans ?_
  simp only [even, exists_, room]
  rfl

end Commands

/-- A translated place that no page with HOME 1 covers may hold a rendezvous object (R236). -/
theorem State.rdvPlace_at {s : State} {st : Strand} {cls : AccClass} {va pa : Nat} (place : s.At st cls va 16 pa)
    (home : ∀ l, s.tlbLeaf st.at_.die (some st.at_.core) st.pdom.toNat (pageOf va) = some l → l.home ≠ 1) :
    ∃ pl, s.rdvPlace st va cls = .ok pa pl := by
  obtain ⟨g, b, p, check⟩ := State.checkLane_at place
  have ready : s.addrPhase st cls [(va, 16)] = .ready [.phys pa g b p] :=
    State.addrPhase_ready (tgt := fun _ => .phys pa g b p) fun l hl => by rw [List.mem_singleton.1 hl]; exact check
  obtain ⟨l, leaf, -⟩ := place.leaf
  refine ⟨{ group := g, base := b, partid := p, hint := 0 }, ?_⟩
  unfold State.rdvPlace
  simp only [leaf, home l leaf, ready]
  rfl

/-! FORK (R280). -/

/-- The next number and the marks of rendezvous objects are no part of what a write does. -/
theorem State.Wrote.ids {s t : State} {i : Nat} {marks : List (Nat × Nat)} {ws : List (Nat × List Byte)}
    (wrote : ({ s with nextId := i, rdvMarks := marks } : State).Wrote t ws) :
    s.Wrote { t with nextId := s.nextId, rdvMarks := s.rdvMarks } ws ∧ t.nextId = i ∧ t.rdvMarks = marks := by
  obtain ⟨strands, bundles, fired⟩ := fireLine_same ws { s with nextId := i, rdvMarks := marks } s rfl rfl
  obtain ⟨-, -, plain⟩ := fireLine_same ws s s rfl rfl
  have rest := wrote.rest
  refine ⟨⟨wrote.mem, wrote.outside, wrote.poison, wrote.lost, wrote.core, wrote.die, wrote.fills, wrote.claims, ?_⟩, ?_, ?_⟩
  · rw [fired, strands, bundles] at rest
    rw [plain]
    conv_lhs => rw [rest]
  · rw [rest, fired]
  · rw [rest, fired]

/-- A write of die d that is on its way to home k, from core c (R148, R149). -/
structure State.Sent (s t : State) (d c k pa : Nat) (bs : List Byte) : Prop where
  mem : t.mem = s.mem
  outstanding : (t.core d c).outstanding = (s.core d c).outstanding + 1
  write : ∃ w, t.xwrites = s.xwrites ++ [w] ∧ w.src = d ∧ w.dst = k ∧ w.core = some c ∧ w.pa = pa ∧ w.bytes = bs ∧ w.applied = false
  marks : t.rdvMarks = s.rdvMarks
  cycle : t.cycle = s.cycle

theorem State.sendWrite_sent (s : State) (d k c pa : Nat) (bs : List Byte) (strong : Bool) (pl : Option L2Place) :
    s.Sent (s.sendWrite d k (some c) pa bs strong pl) d c k pa bs := by
  refine ⟨rfl, ?_, ⟨_, rfl, rfl, rfl, rfl, rfl, rfl, rfl⟩, rfl, rfl⟩
  exact congrArg Core.outstanding (State.core_setCore ..)

theorem State.Wrote.marks {s t : State} {ws : List (Nat × List Byte)} (wrote : s.Wrote t ws) : t.rdvMarks = s.rdvMarks := by
  obtain ⟨-, -, plain⟩ := fireLine_same ws s s rfl rfl
  rw [wrote.rest, plain]

theorem State.Wrote.sent {s t u : State} {d c k pa : Nat} {bs : List Byte} (wrote : s.Wrote t []) (sent : t.Sent u d c k pa bs) : s.Sent u d c k pa bs := by
  obtain ⟨mem, outstanding, write, marks, cycle⟩ := sent
  rw [wrote.core] at outstanding
  have xwrites : t.xwrites = s.xwrites := by rw [wrote.rest]; rfl
  rw [xwrites] at write
  exact ⟨mem.trans wrote.mem, outstanding, write, marks.trans wrote.marks, cycle.trans wrote.cycle⟩

section WriteAtom
variable (s : State) {d c pa : Nat} (bs : List Byte) (strong : Bool) (pl : Option L2Place)

/-- What a write of an atom first does to the caches of its core (R124). -/
theorem State.wrote_killed (l1 : List Sector) (n : Nat) (who : List (Nat × Bool)) :
    s.Wrote ((s.noteCache d (some c) 10 n who).setCore d c { (s.core d c).killRegion pa with l1 := l1 }) [] :=
  .cachesAfter (.noteCache s d (some c) 10 n who) (State.noteCache_core ..) l1 (s.core d c).tlb _

theorem State.writeAtom_sent {k : Nat} (home : homeOf pa = .dram k) (away : k ≠ d) : s.Sent (s.writeAtom d (some c) pa bs strong pl) d c k pa bs := by
  unfold State.writeAtom
  rw [home]
  dsimp only
  rw [if_neg away]
  refine State.Wrote.sent ?_ (State.sendWrite_sent ..)
  exact ((s.wrote_killed ..).quiet (.spoilFills _ _ _)).quiet (.dieCaches _ d _ _ _)

theorem State.writeAtom_marks : (s.writeAtom d (some c) pa bs strong pl).rdvMarks = s.rdvMarks ∧ (s.writeAtom d (some c) pa bs strong pl).cycle = s.cycle := by
  cases home : homeOf pa with
  | host => exact ⟨(State.Wrote.writeAtom bs strong pl (.inr home)).marks, (State.Wrote.writeAtom bs strong pl (.inr home)).cycle⟩
  | regs =>
    unfold State.writeAtom
    rw [home]
    exact ⟨(s.wrote_killed ..).marks, (s.wrote_killed ..).cycle⟩
  | dram k =>
    by_cases same : k = d
    · have wrote : s.Wrote (s.writeAtom d (some c) pa bs strong pl) [(pa, bs)] := by
        unfold State.writeAtom
        rw [home]
        dsimp only
        rw [if_pos same]
        exact ((s.wrote_killed ..).quiet (.l2Touch ..)).trans (.homeWriteAtom ..)
      exact ⟨wrote.marks, wrote.cycle⟩
    · exact ⟨(s.writeAtom_sent bs strong pl home same).marks, (s.writeAtom_sent bs strong pl home same).cycle⟩

end WriteAtom

/-- The record addresses in the list of a FORK, as read (R280). -/
theorem fork_records {n : Nat} (rs : Nat → Nat) :
    ((List.range n).map fun i => bytesNat (((((List.range n).flatMap fun i => natBytesLE 8 (rs i))).drop (8 * i)).take 8) % 2 ^ 57) =
      (List.range n).map fun i => rs i % 2 ^ 57 := by
  refine List.map_congr_left fun i hi => ?_
  rw [take_drop_records rs n i (List.mem_range.mp hi), bytesNat_natBytesLE, Nat.mod_mod_of_dvd _ (by decide)]

/-- The list of a FORK that its core sees is read whole (R280). -/
theorem fork_reads {s : State} {st : Strand} {n va : Nat} {rs : Nat → Nat} (reads : ∀ i < n, s.Sees st (va + 8 * i) 8 (rs i)) (room : s.RoomFor st n) :
    ∃ t, s.Wrote t [] ∧ s.readRecord st ((List.range n).map fun i => (va + 8 * i, 8)) = .ok t ((List.range n).flatMap fun i => natBytesLE 8 (rs i)) := by
  have place : ∀ i, (va + 8 * i - va) / 8 = i := fun i => by omega
  have seen : ∀ l ∈ (List.range n).map fun i => (va + 8 * i, 8), s.Sees st l.1 l.2 (rs ((l.1 - va) / 8)) ∧ l.2 = 8 := by
    intro l hl
    obtain ⟨i, hi, rfl⟩ := List.mem_map.mp hl
    exact ⟨by simpa only [place] using reads i (List.mem_range.mp hi), rfl⟩
  obtain ⟨t, wrote, read⟩ := State.readRecord_sees (fun l hl => (seen l hl).1) (fun l hl => by rw [(seen l hl).2]; decide)
    (by rwa [List.length_map, List.length_range])
  exact ⟨t, wrote, read.trans (by simp only [List.flatMap_map, place])⟩

/-- The rendezvous object set to its count, for the next group (R280). -/
def State.rdvSet (s : State) (st : Strand) (n pa : Nat) (pl : L2Place) : State :=
  ({ s with nextId := s.nextId + 1, rdvMarks := s.rdvMarks.filter fun x => x.1 != pa } : State).writeAtom st.at_.die (some st.at_.core) pa
    (natBytesLE 16 n) false (some pl)

/-- Entries appended, each to the queue of its engine (R234). -/
def State.pushEntries (s : State) (st : Strand) (l : List (Nat × EngEntry)) : State :=
  l.foldl (fun t x => t.pushEntry st.at_.die st.at_.core x.1 x.2) s

/-- The entries of a FORK (R280). -/
def Strand.forkEntries (st : Strand) (us : List Nat) (rs : Nat → Nat) (group : Nat) (e : BitVec 4) (pa va : Nat) : List (Nat × EngEntry) :=
  us.zip ((List.range us.length).map fun i => st.engEntry (rs i % 2 ^ 57) group e (some (pa, va)))

theorem State.pushEntry_strands (s : State) (d c u : Nat) (e : EngEntry) :
    (s.pushEntry d c u e).strands = s.strands ∧ (s.pushEntry d c u e).cycle = s.cycle := by
  unfold State.pushEntry State.setEngine
  dsimp only
  split <;> exact ⟨rfl, rfl⟩

theorem State.pushEntries_strands (s : State) (st : Strand) (l : List (Nat × EngEntry)) :
    (s.pushEntries st l).strands = s.strands ∧ (s.pushEntries st l).cycle = s.cycle := by
  induction l generalizing s with
  | nil => exact ⟨rfl, rfl⟩
  | cons x l ih =>
    obtain ⟨strands, cycle⟩ := s.pushEntry_strands st.at_.die st.at_.core x.1 x.2
    obtain ⟨strands', cycle'⟩ := ih (s.pushEntry st.at_.die st.at_.core x.1 x.2)
    exact ⟨strands'.trans strands, cycle'.trans cycle⟩

theorem State.pushEntries_fork (s : State) (st : Strand) (us : List Nat) (rs : Nat → Nat) (g : Nat) (e : BitVec 4) (pa va : Nat) :
    s.pushEntries st (st.forkEntries us rs g e pa va) = (st.forkEntries us rs g e pa va).foldl (fun t x =>
      (t.setEngine st.at_.die st.at_.core x.1 { t.engine st.at_.die st.at_.core x.1 with
        queue := (t.engine st.at_.die st.at_.core x.1).queue ++ [x.2] }).mapTask st.task fun y => { y with engLeft := y.engLeft + 1 }) s := by
  refine List.foldl_ext _ _ _ fun t x hx => ?_
  obtain ⟨i, -, entry⟩ := List.mem_map.mp (List.of_mem_zip hx).2
  rw [State.pushEntry, ← entry]
  rfl

theorem State.pushEntries_seen (s : State) (st : Strand) (l : List (Nat × EngEntry)) : (s.pushEntries st l).seen st = s.seen st := by
  unfold State.seen State.strandAt
  rw [(s.pushEntries_strands st l).1]

section Fork
variable {s t : State} {st : Strand} {e : BitVec 4} {a b : BitVec 7} {us : List Nat} {rs : Nat → Nat} {pa : Nat} {pl : L2Place}
  (cur : s.curStrand = some st) (named : onesOf e.toNat 4 = us)
  (place : s.rdvPlace st (st.pairAddr b).toNat .write = .ok pa pl)
  (read : s.readRecord st ((List.range us.length).map fun i => ((st.pairAddr a).toNat + 8 * i, 8)) =
    .ok t ((List.range us.length).flatMap fun i => natBytesLE 8 (rs i)))
  (aligned : ∀ i < us.length, rs i % 64 = 0)
include cur named place read aligned

theorem exec_fork : exec (.fork e a b) s = .next (
    if t.linkFull st.at_.die pa || !us.all fun u => t.queueFree st.at_.die st.at_.core u then t.again st
    else
      ((t.rdvSet st us.length pa pl).pushEntries st (st.forkEntries us rs t.nextId e pa (st.pairAddr b).toNat)).putStrand
        (((t.rdvSet st us.length pa pl).seen st).retire (t.rdvSet st us.length pa pl).cycle 1)) := by
  refine (State.onStrand_some cur _).trans ?_
  have whole : ((List.range us.length).map fun i => rs i % 2 ^ 57).find? (fun r => r % 64 != 0) = none := by
    rw [List.find?_eq_none]
    intro r hr
    obtain ⟨i, hi, rfl⟩ := List.mem_map.mp hr
    have := aligned i (List.mem_range.mp hi)
    simp only [bne_iff_ne, ne_eq, not_not]
    omega
  have entries : st.forkEntries us rs t.nextId e pa (st.pairAddr b).toNat = (us.zip ((List.range us.length).map fun i => rs i % 2 ^ 57)).map
      fun x => (x.1, st.engEntry x.2 t.nextId e (some (pa, (st.pairAddr b).toNat))) := by
    rw [show (fun x : Nat × Nat => (x.1, st.engEntry x.2 t.nextId e (some (pa, (st.pairAddr b).toNat)))) =
      Prod.map id fun r => st.engEntry r t.nextId e (some (pa, (st.pairAddr b).toNat)) from rfl, ← List.zip_map_right, List.map_map]
    rfl
  rw [← State.pushEntries_seen _ _ (st.forkEntries us rs t.nextId e pa (st.pairAddr b).toNat),
    ← (State.pushEntries_strands _ st (st.forkEntries us rs t.nextId e pa (st.pairAddr b).toNat)).2, entries, State.pushEntries, List.foldl_map]
  simp only [named, place, read, fork_records, whole]
  rfl

end Fork

/-- Reads leave the engines as they are. -/
theorem State.Wrote.queueFree {s t : State} (wrote : s.Wrote t []) (d c u : Nat) : t.queueFree d c u = s.queueFree d c u := by
  have qes : t.qes = s.qes := by rw [wrote.rest]; rfl
  unfold State.queueFree State.engine State.qe
  rw [qes, wrote.core d c]
  rfl

theorem State.Wrote.linkFull {s t : State} (wrote : s.Wrote t []) (d pa : Nat) : t.linkFull d pa = s.linkFull d pa := by
  have xwrites : t.xwrites = s.xwrites := by rw [wrote.rest]; rfl
  unfold State.linkFull
  rw [xwrites]

/-- The object of a FORK in the die's memory or the host's is written at once (R148, R280). -/
theorem State.rdvSet_local {s t : State} (wrote : s.Wrote t []) (st : Strand) (n : Nat) {pa : Nat} (pl : L2Place) (near : localMemory st.at_.die pa) :
    s.Wrote { t.rdvSet st n pa pl with nextId := s.nextId, rdvMarks := s.rdvMarks } [(pa, natBytesLE 16 n)] ∧
      (t.rdvSet st n pa pl).nextId = s.nextId + 1 := by
  have nextId : t.nextId = s.nextId := by rw [wrote.rest]; rfl
  have marks := wrote.marks
  obtain ⟨set, number, -⟩ := State.Wrote.ids (s := t) (State.Wrote.writeAtom (natBytesLE 16 n) false (some pl) near)
  rw [← nextId, ← marks]
  exact ⟨wrote.trans set, number⟩

/-- One in the memory of another die is sent there (R148). -/
theorem State.rdvSet_sent {s t : State} (wrote : s.Wrote t []) (st : Strand) (n : Nat) {pa k : Nat} (pl : L2Place) (home : homeOf pa = .dram k)
    (away : k ≠ st.at_.die) : s.Sent { t.rdvSet st n pa pl with rdvMarks := s.rdvMarks } st.at_.die st.at_.core k pa (natBytesLE 16 n) := by
  obtain ⟨mem, outstanding, write, -, cycle⟩ := State.writeAtom_sent
    { t with nextId := t.nextId + 1, rdvMarks := t.rdvMarks.filter fun x => x.1 != pa } (natBytesLE 16 n) false (some pl) home away
  exact wrote.sent ⟨mem, outstanding, write, wrote.marks.symm, cycle⟩

theorem State.rdvSet_marks {s t : State} (wrote : s.Wrote t []) (st : Strand) (n pa : Nat) (pl : L2Place) :
    (t.rdvSet st n pa pl).rdvMarks = s.rdvMarks.filter (fun x => x.1 ≠ pa) ∧ (t.rdvSet st n pa pl).cycle = s.cycle := by
  obtain ⟨marks, cycle⟩ := State.writeAtom_marks { t with nextId := t.nextId + 1, rdvMarks := t.rdvMarks.filter fun x => x.1 != pa }
    (d := st.at_.die) (c := st.at_.core) (pa := pa) (natBytesLE 16 n) false (some pl)
  refine ⟨marks.trans ?_, cycle.trans wrote.cycle⟩
  rw [wrote.marks]
  exact List.filter_congr fun x _ => Bool.eq_iff_iff.mpr (by simp)

/-! RDV (R281). -/

theorem State.rdvComing_iff (s : State) (pa d : Nat) : s.rdvComing pa (some d) = true ↔ ∃ w ∈ s.xwrites, w.pa = pa ∧ w.applied = false ∧ w.src = d := by
  simp [State.rdvComing, List.any_eq_true, and_assoc]

section Rdv
variable {s : State} {st : Strand} {d a : BitVec 7} {pa : Nat} {pl : L2Place} (clean : s.atomMark (pa / 32) = 0)
include clean

/-- An object with PEND = 0 lets RDV pass (R281). -/
theorem State.rdvSeen_done (done : readNat s.mem pa 16 % 2 ^ 16 = 0) (home : s.rdvComing pa (some st.at_.die) = false)
    (unmarked : ∀ y ∈ s.rdvMarks, y.1 ≠ pa) : s.rdvSeen st.at_.die pa = some (0, readNat s.mem pa 16 / 2 ^ 64 % 32, none) := by
  have pend : bitsNat (readNat s.mem pa 16) 15 0 = 0 := by simpa [bitsNat] using done
  have none_ : s.rdvMarks.find? (fun r => r.1 = pa) = none := List.find?_eq_none.mpr fun y hy => by simpa using unmarked y hy
  unfold State.rdvSeen
  simp only [home, clean, pend, none_]
  rfl

theorem State.rdvSeen_pending (pending : readNat s.mem pa 16 % 2 ^ 16 ≠ 0 ∨ s.rdvComing pa (some st.at_.die) = true) : s.rdvSeen st.at_.die pa = none := by
  unfold State.rdvSeen
  by_cases coming : s.rdvComing pa (some st.at_.die) = true
  · simp only [coming, if_true]
  · have pend : bitsNat (readNat s.mem pa 16) 15 0 ≠ 0 := by simpa [bitsNat] using pending.resolve_right coming
    simp only [coming, clean, pend, ne_eq, not_true, not_false_iff, if_true, if_false]
    rfl

theorem exec_rdv_passes (cur : s.curStrand = some st) (place : s.rdvPlace st (st.pairAddr a).toNat .read = .ok pa pl)
    (done : readNat s.mem pa 16 % 2 ^ 16 = 0) (home : s.rdvComing pa (some st.at_.die) = false) (unmarked : ∀ y ∈ s.rdvMarks, y.1 ≠ pa) {s1 : State}
    (raised : s1 = match homeOf pa with | .dram k => if k = st.at_.die then s else s.raiseRow st.at_.die k | _ => s) :
    exec (.rdv d a) s = .next ((s1.acquireTile st).putStrand
      ((st.setS d (BitVec.ofNat 32 (readNat s.mem pa 16 / 2 ^ 64 % 32))).retire (s1.acquireTile st).cycle 1)) := by
  subst raised
  refine (State.onStrand_some cur _).trans ?_
  simp only [place, State.rdvSeen_done clean done home unmarked, Option.map_some, State.passRdv, Strand.retire_blocked]
  rfl

theorem exec_rdv_waits (cur : s.curStrand = some st) (place : s.rdvPlace st (st.pairAddr a).toNat .read = .ok pa pl)
    {pl' : L2Place} (placed : (s.putStrand st.closeWindows).rdvPlace st.closeWindows (st.pairAddr a).toNat .read = .ok pa pl')
    (same : st.closeWindows.pair a = st.pair a)
    (pending : readNat s.mem pa 16 % 2 ^ 16 ≠ 0 ∨ s.rdvComing pa (some st.at_.die) = true) :
    exec (.rdv d a) s = .next (s.putStrand (st.standsAt s.cycle 1 (.rdv pa (st.pairAddr a).toNat (st.sName d)))) := by
  have address : st.closeWindows.pairAddr a = st.pairAddr a := by rw [Strand.pairAddr, Strand.pairAddr, same]
  refine (State.onStrand_some cur _).trans ?_
  have pending' : (s.putStrand st.closeWindows).rdvSeen st.at_.die pa = none := State.rdvSeen_pending clean pending
  simp only [place, State.rdvSeen_pending clean pending, Option.map_none, address, placed, Strand.closeWindows_at_, pending', Option.getD_some]
  rw [show st.closeWindows.sName d = st.sName d by rw [st.closeWindows_rest]; rfl, Strand.closed_block, s.putStrand_putStrand st.closeWindows (st.standsAt _ _ _) rfl]
  rfl

end Rdv

/-- A strand that has closed its windows sees a place where it saw it before. -/
theorem State.At.closed {s : State} {st : Strand} {cls : AccClass} {va n pa : Nat} (place : s.At st cls va n pa) :
    (s.putStrand st.closeWindows).At st.closeWindows cls va n pa := by
  obtain ⟨aligned, kind, leaf⟩ := place
  refine ⟨aligned, kind, ?_⟩
  rw [st.closeWindows_at_, st.closeWindows_pdom]
  exact leaf

/-- Settles O37: ENGQ by the room of its queue, FORK by the read of its list (`exec_fork`) and the home of its object, RDV by what that home holds. -/
theorem enginesTakeCommands : Obligations.EnginesTakeCommands := by
  rintro e d a b s st cur die core rfl rfl va hva entry rfl push rfl free rfl home0 rfl
  obtain rfl : va = fun r => (st.pairAddr r).toNat := by simpa only [Strand.pairAddr_toNat] using hva
  dsimp only
  simp only [← State.queueFree_iff]
  refine ⟨?_, ?_, ?_⟩
  · intro x hx
    have meaning : exec x.2 s = engq x.1 a s := by
      simp only [List.mem_cons, List.not_mem_nil, or_false] at hx
      obtain rfl | rfl | rfl | rfl := hx <;> rfl
    rw [meaning]
    refine ⟨fun even known room => ⟨_, engq_appends cur x.1 even known room, st.retire_moved ..⟩, fun even known full => ?_, fun odd known => ?_⟩
    · exact engq_full cur x.1 even known (Bool.eq_false_iff.mpr full)
    · exact engq_misaligned cur x.1 odd known
  · intro us rs pa hus place home reads aligned room
    have named : onesOf e.toNat 4 = us := (onesOf_eq e).trans hus.symm
    obtain ⟨pl, placed⟩ := State.rdvPlace_at place home
    obtain ⟨t, wrote, read⟩ := fork_reads reads room
    have run := exec_fork cur named placed read aligned
    rw [wrote.linkFull, funext (wrote.queueFree st.at_.die st.at_.core)] at run
    refine ⟨fun free link regs => ?_, fun waits => ?_⟩
    · rw [if_neg (by simpa [link] using free)] at run
      rw [show t.nextId = s.nextId by rw [wrote.rest]; rfl] at run
      obtain ⟨marks, cycle⟩ := State.rdvSet_marks wrote st us.length pa pl
      rw [State.pushEntries_fork, cycle] at run
      refine ⟨t.rdvSet st us.length pa pl, _, run, fun near => State.rdvSet_local wrote st _ pl near, fun k at_k away => ?_, marks, Strand.seen_moved ..⟩
      obtain ⟨mem, outstanding, write, -⟩ := State.rdvSet_sent wrote st us.length pl at_k away
      exact ⟨mem, outstanding, write⟩
    · have stands : (s.linkFull st.at_.die pa || !us.all fun u => s.queueFree st.at_.die st.at_.core u) = true := by
        obtain ⟨j, hj, full⟩ | link := waits
        · simp only [Bool.or_eq_true, Bool.not_eq_true', List.all_eq_false]
          exact .inr ⟨j, hj, full⟩
        · simp [link]
      rw [if_pos stands] at run
      exact ⟨t, run.trans (by rw [← wrote.cycle]; rfl), wrote⟩
  · intro pa place home clean x hx coming hcoming
    rw [hx, hcoming, ← State.rdvComing_iff]
    obtain ⟨pl, placed⟩ := State.rdvPlace_at place home
    obtain ⟨pl', placed'⟩ := State.rdvPlace_at place.closed (by rwa [st.closeWindows_at_, st.closeWindows_pdom])
    refine ⟨fun done quiet unmarked s1 raised => ?_, fun pending same => ?_⟩
    · have cycle : (s1.acquireTile st).cycle = s.cycle := by
        refine (State.Wrote.acquire ..).cycle.trans ?_
        rw [raised]
        split
        · split <;> rfl
        · rfl
      refine ⟨_, _, exec_rdv_passes clean cur placed done (Bool.eq_false_iff.mpr quiet) unmarked raised, s1.invalidated_acquire st 0, ?_⟩
      rw [cycle]
      exact st.wroteS_retire ..
    · exact exec_rdv_waits clean cur placed placed' same pending

end Sys2Proof.Machine
end

section
namespace Sys2Proof.Machine

/-! ### Flume calls, return slots and tokens (R256 to R259, R285 to R287) -/

theorem bytesNat_lt (l : List Byte) : bytesNat l < 256 ^ l.length := by
  induction l with
  | nil => exact Nat.one_pos
  | cons b l ih =>
    have := b.isLt
    rw [List.length_cons, Nat.pow_succ, bytesNat]
    omega

theorem readNat_lt (m : List Host.Cell) (a n : Nat) : readNat m a n < 256 ^ n := by
  have := bytesNat_lt (readBytes m a n)
  rwa [show (readBytes m a n).length = n by simp] at this

section Tokens
variable {s : State} {st : Strand} {d a b : BitVec 7} (cur : s.curStrand = some st)
include cur

/-- TAKE hands out the next tokens of a domain (R259, R287). -/
theorem exec_take {n : Nat} {m : Domain} (count : n = (st.s b).toNat % 2 ^ 11) (low : 0 < n) (high : n ≤ 1024) (dom : m = s.domain ((st.s a).toNat % 256)) :
    exec (.take d a b) s = .next (if m.ahead m.next + n > 65535 then s.putStrand ((st.setS d 0xFFFFFFFF).retire s.cycle 1)
      else (s.setDomain { m with next := (m.next + n) % 2 ^ 16 }).putStrand ((st.setS d (BitVec.ofNat 32 m.next)).retire s.cycle 1)) := by
  refine (State.onStrand_some cur _).trans ?_
  have within : ¬ ((decide (n = 0) || decide (1024 < n)) = true) := by simp; omega
  simp only [← count, ← dom, if_neg within]

theorem exec_skip : exec (.skip a b) s =
    .next ((s.markToken ((st.s a).toNat % 256) ((st.s b).toNat % 2 ^ 16) 0).putStrand (st.retire s.cycle 1)) :=
  State.onStrand_some cur _

end Tokens

/-- A token is outstanding when it has been handed out and neither a mark nor another presented call has it (R385). -/
theorem State.outstandingToken_iff (s : State) (dom t self : Nat) : s.outstandingToken dom t self = true ↔
    (s.domain dom).ahead t < (s.domain dom).ahead (s.domain dom).next ∧ t ∉ (s.domain dom).marks ∧
      ∀ x ∈ s.gx.calls, x.ord = true → x.dom = dom → x.token = t → x.id ≠ self → x.detached = true := by
  simp [State.outstandingToken, and_assoc]

section ReturnSlots
variable {s : State} {st : Strand} {a : BitVec 7} {g : Bundle} {off hd : Nat} (grant : s.bundleOf st = some g) (live : s.bundle? g.handle = some g)
  (even : off % 16 = 0) (inside : off + 16 ≤ 1024 * g.grant) (clean : g.firstBad off 16 = none) (header : hd = readNat g.scratch off 16)
include grant live even inside clean header

/-- One look of FLWAIT at a slot whose header its grant holds (R286). -/
theorem State.tryFlwait_eq {n : Nat} (place : off = n % 2 ^ 18) : s.tryFlwait st n = if hd % 2 = 1 then some (s.passFlwait st off hd) else none := by
  have done : bitNat hd 0 = decide (hd % 2 = 1) := by simp [bitNat, beq_eq_decide]
  unfold State.tryFlwait State.slotDone
  have near : ¬ (off + 16 > 1024 * g.grant) := by omega
  simp only [← place, grant, even, near, clean, live, ← header, done]
  by_cases odd : hd % 2 = 1 <;> simp [odd]

end ReturnSlots

section Flwait
variable {s : State} {st : Strand} {a : BitVec 7} (cur : s.curStrand = some st)
include cur

theorem exec_flwait_passes {t : State} (looked : s.tryFlwait st (st.s a).toNat = some t) : exec (.flwait a) s = .next t := by
  refine (State.onStrand_some cur _).trans ?_
  simp only [looked]

theorem exec_flwait_waits (looked : s.tryFlwait st (st.s a).toNat = none) (same : st.closeWindows.s a = st.s a)
    (closed : (s.putStrand st.closeWindows).tryFlwait st.closeWindows (st.s a).toNat = none) :
    exec (.flwait a) s = .next (s.putStrand (st.standsAt s.cycle 1 (.flwait ((st.s a).toNat % 2 ^ 18)))) := by
  refine (State.onStrand_some cur _).trans ?_
  simp only [looked, same, closed]
  rw [Strand.closed_block, s.putStrand_putStrand st.closeWindows (st.standsAt _ _ _) rfl]
  rfl

end Flwait

/-! A call that its weir has room for (R256, R258, R385). -/

section Presented
variable {s : State} {c : Call}

theorem State.mapCall_last (fresh : ∀ x ∈ s.gx.calls, x.id < c.id) (f : Call → Call) :
    (s.gx.calls ++ [c]).map (fun x => if x.id = c.id then f x else x) = s.gx.calls ++ [f c] := by
  rw [List.map_append, List.map_singleton, if_pos rfl]
  refine congrArg (· ++ [f c]) ((List.map_congr_left fun x hx => ?_).trans (List.map_id _))
  exact if_neg (Nat.ne_of_lt (fresh x hx))

/-- No strand waits for a call, so taking it wakes none (R40). -/
theorem State.callTaken_quiet (alone : ∀ x ∈ s.strands, ∀ y, x.blocked = some y → y.wait ≠ .flcall c.id) (direct : c.port = none) : s.callTaken c = s := by
  unfold State.callTaken
  simp only [direct]
  refine congrArg (fun l => ({ s with strands := l } : State)) ((List.map_congr_left fun x hx => ?_).trans (List.map_id s.strands))
  cases blocked : x.blocked with
  | none => rfl
  | some b => exact if_neg (alone x hx b blocked)

/-- What a state holds once a call stands among the others and is counted with its task's (R256). -/
def State.entered (s : State) (c : Call) : State :=
  ({ s with nextId := s.nextId + 1, gx := { s.gx with calls := s.gx.calls ++ [c] } } : State).mapTask c.task fun t => { t with callsLeft := t.callsLeft + 1 }

/-- A call that nothing stands in the way of is admitted as it is presented (R258, R385). -/
theorem State.present_admits (waits : c.stage = 0) (good : badCall c.typ c.hd c.payload = false)
    (token : c.ord = true → s.outstandingToken c.dom c.token c.id = true ∧ (s.domain c.dom).ahead c.token < 1024)
    (first : ∀ x ∈ s.gx.calls, x.stage = 0 → x.sameWeir c = false)
    (room : (s.gx.calls.filter fun x => x.stage = 1 && x.sameWeir c).length < flDepth c.typ) : s.present c = .done ((s.entered c).admitCall c) := by
  have judged : (s.entered c).judgeToken c = none := by
    refine if_neg fun bad => ?_
    obtain ⟨ordered, unclaimed⟩ := Bool.and_eq_true_iff.mp bad
    obtain ⟨ahead, unmarked, alone⟩ := (s.outstandingToken_iff ..).mp (token ordered).1
    have out : (s.entered c).outstandingToken c.dom c.token c.id = true := (State.outstandingToken_iff ..).mpr ⟨ahead, unmarked, fun x hx => ?_⟩
    · simp [out] at unclaimed
    obtain old | rfl : x ∈ s.gx.calls ∨ x = c := by simpa [State.entered] using hx
    · exact alone x old
    · exact fun _ _ _ other => absurd rfl other
  have roomy : (s.entered c).admissible c = true := by
    have count : ((s.gx.calls ++ [c]).filter fun x => x.stage = 1 && x.sameWeir c).length = (s.gx.calls.filter fun x => x.stage = 1 && x.sameWeir c).length := by
      simp [waits]
    refine Bool.and_eq_true_iff.mpr ⟨decide_eq_true (count ▸ room), ?_⟩
    cases ordered : c.ord with
    | false => rfl
    | true => exact decide_eq_true (token ordered).2
  have turn : (s.entered c).firstAtWeir c = true := by
    refine Bool.not_eq_true' _ ▸ List.any_eq_false.mpr fun x hx => ?_
    obtain old | rfl : x ∈ s.gx.calls ∨ x = c := by simpa [State.entered] using hx
    · by_cases held : x.stage = 0
      · simp [first x old held]
      · simp [held]
    · simp
  unfold State.present
  simp only [good]
  show (match (s.entered c).judgeToken c with | some s => _ | none => _) = _
  rw [judged]
  simp only [State.entered] at roomy turn ⊢
  simp [roomy, turn]

/-- What admission leaves: the call in the weir, or in its domain's storage (R258). -/
theorem State.entered_admitted (fresh : ∀ x ∈ s.gx.calls, x.id < c.id) (direct : c.port = none)
    (alone : ∀ x ∈ s.strands, ∀ y, x.blocked = some y → y.wait ≠ .flcall c.id) :
    (s.entered c).admitCall c = { s.mapTask c.task (fun t => { t with callsLeft := t.callsLeft + 1 }) with
      nextId := s.nextId + 1, evBuf := ((s.entered c).admitCall c).evBuf,
      gx := { s.gx with calls := s.gx.calls ++ [{ c with stage := if c.ord then 2 else 1 }] } } := by
  have stored := State.mapCall_last fresh fun x => { x with stage := if x.ord then 2 else 1 }
  have quiet : (((s.entered c).mapCall c.id fun x => { x with stage := if x.ord then 2 else 1 }).callTaken c) = _ := State.callTaken_quiet alone direct
  unfold State.admitCall
  rw [quiet, ← stored]
  rfl

end Presented

section Flcall
variable {s : State} {st : Strand} {k : BitVec 3} {a : BitVec 7} {r : BitVec 1} {g : Bundle} {off hd : Nat}

/-- The record of an FLCALL that its grant holds whole is presented (R256, R285). -/
theorem State.tryCall_presents (grant : s.bundleOf st = some g) {typ n : Nat} {rel : Bool} (place : off = n % 2 ^ 18) (even : off % 16 = 0)
    (header : hd = readNat g.scratch off 16) (inside : off + 16 + 16 * chPlen hd ≤ 1024 * g.grant)
    (clean : g.firstBad off (16 + 16 * chPlen hd) = none) (fits : slotFits typ hd g.grant = true) :
    s.tryCall st typ n rel = (s.writeGrant g.handle (chRslot hd) (List.replicate 16 0)).present (mkCall s.nextId typ hd
      (readBytes g.scratch (off + 16) (min (16 * chPlen hd) (flPayload typ))) st.at_ g.handle st.task st.pdom.toNat st.partid.toNat st.level none rel) := by
  have near : ¬ (off + 16 > 1024 * g.grant) := by omega
  have near' : ¬ (off + 16 + 16 * chPlen hd > 1024 * g.grant) := by omega
  unfold State.tryCall
  simp only [← place, grant, even, ← header, near, near', clean, fits]
  rfl

theorem exec_flcall_done (cur : s.curStrand = some st) (drained : s.drained st r 2) {t : State}
    (called : s.tryCall st k.toNat (st.s a).toNat (r = 1) = .done t) : exec (.flcall k a r) s = .next (t.putStrand ((t.seen st).retire t.cycle 1)) := by
  refine (State.onStrand_some cur _).trans ?_
  have settled : ¬ ((decide (r = 1) && (s.core st.at_.die st.at_.core).outstanding != 0) = true) := by
    rintro waits
    obtain ⟨release, busy⟩ := Bool.and_eq_true_iff.mp waits
    simp [drained (of_decide_eq_true release) (by decide)] at busy
  simp only [if_neg settled, called]

end Flcall

/-- Settles O39: FLCALL by what an admission leaves (`State.present_admits`), FLWAIT by its look at the slot, TAKE and SKIP by the domain. -/
theorem flumesTakeCallsAndTokens : Obligations.FlumesTakeCallsAndTokens := by
  intro k d a b r s st cur off place
  refine ⟨?_, ?_, ?_, ?_⟩
  · intro g hd pay c s0 grant even header inside clean fits payload good call zeroed drained fresh alone first room token
    have made : c = mkCall s.nextId k.toNat hd pay st.at_ g.handle st.task st.pdom.toNat st.partid.toNat st.level none (r = 1) := call
    have head : c.hd = hd := by
      rw [made, Call.hd, mkCall, BitVec.toNat_ofNat, Nat.mod_eq_of_lt (header ▸ readNat_lt ..)]
    have presented := State.tryCall_presents (rel := r = 1) (typ := k.toNat) grant place even header inside clean fits
    rw [← payload, ← made, ← zeroed] at presented
    have calls : s0.gx = s.gx := by rw [zeroed]; rfl
    have number : s0.nextId = s.nextId := by rw [zeroed]; rfl
    have cycle : s0.cycle = s.cycle := by rw [zeroed]; rfl
    have ordered : c.ord = chOrd hd := congrArg chOrd head
    have admitted : s0.present c = .done ((s0.entered c).admitCall c) := by
      refine State.present_admits (by rw [made]; rfl) (by rw [head, made]; exact good) (fun ord => ?_) (by rwa [calls]) (by rw [calls, made]; rw [made] at room; exact room)
      obtain ⟨ahead, unmarked, others⟩ := token (ordered ▸ ord)
      rw [State.outstandingToken_iff, Call.dom, Call.token, head, State.domain, calls]
      obtain ⟨near, out⟩ := lt_min_iff.mp ahead
      exact ⟨⟨out, unmarked, fun x hx xord xdom xtoken _ => absurd xtoken (others x hx xord xdom)⟩, near⟩
    have left := State.entered_admitted (s := s0) (c := c) (by rw [calls, made]; exact fresh) (by rw [made]; rfl) (by rw [made]; exact alone)
    have cycle' : ((s0.entered c).admitCall c).cycle = s.cycle := by rw [left]; exact cycle
    refine ⟨_, _, exec_flcall_done cur drained (presented.trans admitted), ?_, ?_⟩
    · rw [cycle']
      exact Strand.seen_moved ..
    · rw [left]
      rw [calls, number, ordered, made]
      rfl
  · intro g grant live even inside clean hd header
    have look := State.tryFlwait_eq grant live even inside clean header place
    refine ⟨fun done status => ?_, fun pending same => ?_⟩
    · have passes : s.passFlwait st off hd = s.putStrand (st.retire s.cycle 1) := if_pos status
      rw [if_pos done, passes] at look
      exact ⟨_, exec_flwait_passes cur look, st.retire_moved ..⟩
    · rw [if_neg (by omega)] at look
      have closed := State.tryFlwait_eq (s := s.putStrand st.closeWindows) (st := st.closeWindows) ((s.bundleOf_closeWindows st).trans grant) live even inside clean header place
      rw [if_neg (by omega)] at closed
      rw [place]
      exact exec_flwait_waits cur look same closed
  · intro n m count low high dom
    have run := exec_take (d := d) cur count low high dom
    refine ⟨fun fits => ?_, fun beyond => ?_⟩
    · rw [if_neg (by omega)] at run
      exact ⟨_, run, st.wroteS_retire ..⟩
    · rw [if_pos beyond] at run
      exact ⟨_, run, st.wroteS_retire ..⟩
  · intro m t dom tok out hout
    subst dom tok hout
    have run := exec_skip (a := a) (b := b) cur
    refine ⟨fun out => ?_, fun kept => ?_⟩
    · rw [State.markToken, if_pos ((s.outstandingToken_iff ..).mpr out)] at run
      exact ⟨_, run, st.retire_moved ..⟩
    · rw [State.markToken, if_neg (mt (s.outstandingToken_iff ..).mp kept)] at run
      exact ⟨_, run, st.retire_moved ..⟩

end Sys2Proof.Machine
end

section
namespace Sys2Proof.Machine

/-! ### Weirs, domains, appends and the sieve (R257, R258, R260, R269, R271, R383, R385) -/

theorem filter_bne {α β : Type} [BEq β] [LawfulBEq β] [DecidableEq β] (f : α → β) (a : β) (l : List α) : (l.filter fun x => f x != a) = l.filter fun x => f x ≠ a :=
  List.filter_congr fun x _ => Bool.eq_iff_iff.mpr (by simp)

/-! A call at its weir (R258, R385). -/

section Weir
variable {s : State} {id : Nat} {c : Call} (call : s.call? id = some c) (held : c.stage = 0)
include call held

theorem exec_weirAdmit : exec (.weirAdmit id) s = .next (match s.judgeToken c with
    | some s => s
    | none => if s.admissible c && s.firstAtWeir c then s.admitCall c else s) := by
  show execWeirAdmit id s = _
  unfold execWeirAdmit
  simp only [call, held] <;> rfl

theorem exec_weirAdmit_returns (ordered : c.ord = true) (lost : s.outstandingToken c.dom c.token c.id = false) :
    exec (.weirAdmit id) s = .next ((s.failCall c 7 0).callTaken c) := by
  have judged : s.judgeToken c = some ((s.failCall c 7 0).callTaken c) := if_pos (by rw [ordered, lost]; rfl)
  rw [exec_weirAdmit call held, judged]

theorem exec_weirAdmit_admits (token : c.ord = true → s.outstandingToken c.dom c.token c.id = true ∧ (s.domain c.dom).ahead c.token < 1024)
    (room : (s.gx.calls.filter fun x => x.stage = 1 && x.sameWeir c).length < flDepth c.typ)
    (first : ∀ x ∈ s.gx.calls, x.stage = 0 → x.sameWeir c = true → x.id < c.id → s.admissible x = false) :
    exec (.weirAdmit id) s = .next (s.admitCall c) := by
  have judged : s.judgeToken c = none := by
    refine if_neg fun bad => ?_
    obtain ⟨ordered, lost⟩ := Bool.and_eq_true_iff.mp bad
    simp [(token ordered).1] at lost
  have roomy : s.admissible c = true := by
    refine Bool.and_eq_true_iff.mpr ⟨decide_eq_true room, ?_⟩
    cases ordered : c.ord with
    | false => rfl
    | true => exact decide_eq_true (token ordered).2
  have turn : s.firstAtWeir c = true := by
    refine Bool.not_eq_true' _ ▸ List.any_eq_false.mpr fun x hx => ?_
    simpa using first x hx
  rw [exec_weirAdmit call held, judged, roomy, turn]
  rfl

end Weir

/-! The steps of a domain (R260). -/

theorem State.advanceSteps_succ (s : State) (n k : Nat) :
    s.advanceSteps n (k + 1) = (match s.advanceDomain n with | some t => t.advanceSteps n k | none => s) := rfl

section Domains
variable {s : State} {n : Nat}

theorem State.advanceDomain_done (done : (s.domain n).apply ∈ (s.domain n).marks) : s.advanceDomain n = some (s.setDomain { s.domain n with
    apply := ((s.domain n).apply + 1) % 2 ^ 16, marks := (s.domain n).marks.filter (· ≠ (s.domain n).apply) }) := by
  rw [← filter_bne fun x : Nat => x]
  exact if_pos (List.contains_iff_mem.mpr done)

section Next
variable (next : (s.domain n).apply ∉ (s.domain n).marks)
include next

theorem State.advanceDomain_next : s.advanceDomain n =
    if s.gx.calls.any fun c => c.ord && c.dom = n && c.stage = 3 && !c.detached then none
    else
      match s.gx.calls.find? fun c => c.ord && c.dom = n && c.stage = 2 && c.token = (s.domain n).apply with
      | some c => if s.unitFree c then some (s.startCall c) else none
      | none => none :=
  if_neg (mt List.contains_iff_mem.mp next)

theorem State.advanceDomain_busy (busy : ∃ c ∈ s.gx.calls, c.ord = true ∧ c.dom = n ∧ c.stage = 3 ∧ c.detached = false) : s.advanceDomain n = none := by
  rw [State.advanceDomain_next next]
  obtain ⟨c, member, ord, dom, started, attached⟩ := busy
  exact if_pos (List.any_eq_true.mpr ⟨c, member, by simp [ord, dom, started, attached]⟩)

theorem State.advanceDomain_stored (quiet : ∀ c ∈ s.gx.calls, c.ord = true → c.dom = n → c.stage = 3 → c.detached = true) {c : Call}
    (stored : s.gx.calls.find? (fun c => c.ord && c.dom = n && c.stage = 2 && c.token = (s.domain n).apply) = some c) :
    s.advanceDomain n = if s.unitFree c then some (s.startCall c) else none := by
  have idle : (s.gx.calls.any fun c => c.ord && c.dom = n && c.stage = 3 && !c.detached) = false :=
    List.any_eq_false.mpr fun c member => by simpa [and_imp] using quiet c member
  rw [State.advanceDomain_next next, idle, stored]
  rfl

end Next

end Domains

/-! Standing appends and returns (R257, R271, R383). -/

section Resume
variable {s t : State} {id : Nat} {a : AppendWait} (standing : s.gx.appends.find? (fun a => a.id = id) = some a)
include standing

theorem exec_queueRoomResume_waits (tried : s.tryAppend a = (t, none)) : exec (.queueRoomResume id) s = .next t := by
  show execQueueRoomResume id s = _
  unfold execQueueRoomResume
  simp only [standing, tried]

/-- The append of a bucket has ended (R269). -/
theorem exec_queueRoomResume_bucket {ok : Bool} (tried : s.tryAppend a = (t, some ok)) (bucket : a.call = none) :
    exec (.queueRoomResume id) s = .next (t.freeBucket a.bucket) := by
  show execQueueRoomResume id s = _
  unfold execQueueRoomResume
  simp only [standing, tried, bucket]

/-- The append of a call has ended (R271, R383). -/
theorem exec_queueRoomResume_call {ok : Bool} (tried : s.tryAppend a = (t, some ok)) {k : Nat} {c : Call} (owner : a.call = some k) (call : t.call? k = some c) :
    exec (.queueRoomResume id) s =
      .next (if !ok then t.failCall c 8 0 else if t.gx.appends.any fun x => x.call = some k then t else t.writeReturn c 0 c.ret) := by
  show execQueueRoomResume id s = _
  unfold execQueueRoomResume
  simp only [standing, tried, owner, call]

end Resume

theorem State.freeBucket_eq (s : State) (n : Nat) : s.freeBucket n = { s with gx := { s.gx with buckets := s.gx.buckets.filter fun b => b.n ≠ n } } := by
  rw [← filter_bne Bucket.n]
  rfl

/-- A call is gone, with what it still had to append (R257). -/
def State.callGone (s : State) (c : Call) : State :=
  { s with gx := { s.gx with calls := s.gx.calls.filter fun x => x.id != c.id, appends := s.gx.appends.filter fun a => a.call != some c.id } }

theorem State.callGone_eq (s : State) (c : Call) : s.callGone c =
    { s with gx := { s.gx with calls := s.gx.calls.filter fun x => x.id ≠ c.id, appends := s.gx.appends.filter fun a => a.call ≠ some c.id } } := by
  rw [← filter_bne Call.id, ← filter_bne AppendWait.call]
  rfl

/-- What a return writes before its domain goes on (R257): the payload, then the header. -/
def State.returning (s : State) (c : Call) (status : Nat) (p : List Byte) : State :=
  let u := if p = [] then s else s.putGrant c.bundle (chRslot c.hd + 16) p
  let v := if chRel c.hd = true then u.gxRelease else u
  (v.putGrant c.bundle (chRslot c.hd) (natBytesLE 16 (chTag c.hd * 2 ^ 96 + status * 2 ^ 88 + p.length / 16 * 2 ^ 80 + 1))).mapTask c.task
    fun t => { t with callsLeft := t.callsLeft - 1 }

/-- Its domain goes on to the next token (R257, R260). -/
def State.tokenPassed (s : State) (c : Call) : State :=
  s.setDomain { s.domain c.dom with apply := (c.token + 1) % 2 ^ 16, marks := (s.domain c.dom).marks.filter (· ≠ c.token) }

theorem State.writeReturn_eq (s : State) (c : Call) (status : Nat) (p : List Byte) : s.writeReturn c status p =
    if c.ord && c.stage = 3 && !c.detached then ((s.returning c status p).callGone c).tokenPassed c else (s.returning c status p).callGone c := by
  unfold State.tokenPassed
  rw [← filter_bne fun x : Nat => x]
  cases p <;> rfl

/-- A traversal that fails returns a miss (R267, R383). -/
theorem missPayload_fields (free visits : Nat) : (missPayload free visits none).length = 32 ∧ bytesNat ((missPayload free visits none).take 4) = 0x7F800000 ∧
    bytesNat (((missPayload free visits none).drop 12).take 4) = 0xFFFFFFFF ∧ bytesNat (((missPayload free visits none).drop 24).take 4) = visits % 2 ^ 32 :=
  ⟨rfl, (bytesNat_natBytesLE 4 _).trans (by norm_num), (bytesNat_natBytesLE 4 _).trans (by norm_num), bytesNat_natBytesLE 4 visits⟩

theorem State.failCall_plain {c : Call} (other : c.typ ≠ 5) (s : State) (status visits : Nat) : s.failCall c status visits = s.writeReturn c status [] :=
  if_neg other

theorem State.failCall_traversal {c : Call} (traversal : c.typ = 5) (s : State) (status visits : Nat) :
    s.failCall c status visits = State.writeReturn { s with free := s.free + 3 } c status (missPayload s.free visits none) :=
  if_pos traversal

theorem State.bundle?_map {s t : State} {f : Bundle → Bundle} (mapped : t.bundles = s.bundles.map f) (same : ∀ b, (f b).handle = b.handle) (h : Nat) :
    t.bundle? h = (s.bundle? h).map f := by
  unfold State.bundle?
  rw [mapped, List.find?_map]
  simp only [Function.comp_def, same]

/-- The copy of a bundle that has not been evicted stays as it is (R44). -/
theorem State.putGrant_resident {s : State} {h : Nat} {b : Bundle} (found : s.bundle? h = some b) (here : b.evicted = false) (off : Nat) (bs : List Byte) :
    s.putGrant h off bs = s.writeGrant h off bs := by
  obtain ⟨c, written, resident⟩ : ∃ c, (s.writeGrant h off bs).bundle? h = some c ∧ c.evicted = false := by
    refine ⟨_, (State.bundle?_map List.map_map (fun x => ?_) h).trans (congrArg _ found), ?_⟩
    · dsimp only [Function.comp]
      split <;> split <;> rfl
    · dsimp only [Function.comp]
      split <;> split <;> exact here
  unfold State.putGrant State.bwPut
  rw [written]
  exact if_neg (by simp [resident])

/-! The sieve (R269). -/

theorem freeBucketNo_none (used : List Nat) (i n : Nat) (full : ∀ m, i ≤ m → m < i + n → m ∈ used) : freeBucketNo used i n = none := by
  induction n generalizing i with
  | zero => rfl
  | succ n ih =>
    rw [freeBucketNo, if_pos (List.contains_iff_mem.mpr (full i (le_refl i) (by omega)))]
    exact ih (i + 1) fun m low high => full m (by omega) (by omega)

theorem freeBucketNo_lowest (used : List Nat) (i n : Nat) {k : Nat} (low : i ≤ k) (high : k < i + n) (free : k ∉ used) (below : ∀ m, i ≤ m → m < k → m ∈ used) :
    freeBucketNo used i n = some k := by
  induction n generalizing i with
  | zero => omega
  | succ n ih =>
    rw [freeBucketNo]
    by_cases here : i = k
    · rw [if_neg (by simpa [here] using free), here]
    · rw [if_pos (List.contains_iff_mem.mpr (below i (le_refl i) (by omega)))]
      exact ih (i + 1) (by omega) (by omega) fun m low' high' => below m (by omega) high'

section Sieve
variable {s : State} {r : BitVec 512} {key : Word} (keyed : key = r.extractLsb' 128 32)
include keyed

theorem State.sieve_stuck (stuck : s.sieveStuck key = true) : s.sieve r = (s, false) := by
  unfold State.sieve
  simp only [← keyed, stuck, if_true]

theorem State.sieve_bound {b : Bucket} (bound : s.gx.buckets.find? (fun b => b.mkey = key) = some b) (ready : b.waiting = false) :
    s.sieve r = (s.putBucket b r, true) := by
  have free : s.sieveStuck key = false := by simp only [State.sieveStuck, bound, ready]
  unfold State.sieve
  simp only [← keyed, free, bound]
  rfl

section Unbound
variable (unbound : s.gx.buckets.find? (fun b => b.mkey = key) = none)
include unbound

theorem State.sieve_binds {n : Nat} (lowest : freeBucketNo (s.gx.buckets.map Bucket.n) 0 1024 = some n) :
    s.sieve r = (s.putBucket { n := n, mkey := key, recs := [], oldest := s.cycle, waiting := false, forced := false } r, true) := by
  have free : s.sieveStuck key = false := by simp only [State.sieveStuck, unbound, lowest]; rfl
  unfold State.sieve State.bindBucket
  simp only [← keyed, free, unbound, lowest]
  rfl

theorem State.sieve_forces (full : freeBucketNo (s.gx.buckets.map Bucket.n) 0 1024 = none) (calm : ∀ b ∈ s.gx.buckets, b.forced = false) {b : Bucket}
    (oldest : s.oldestBucket = some b) :
    s.sieve r = match (s.forceBucket b).bindBucket key r with | some v => (v, true) | none => (s.forceBucket b, false) := by
  have forced : s.gx.buckets.any Bucket.forced = false := List.any_eq_false.mpr fun b member => by simp [calm b member]
  have free : s.sieveStuck key = false := by simp only [State.sieveStuck, unbound, full, forced, oldest]; rfl
  have none_ : s.bindBucket key r = none := by rw [State.bindBucket, full]; rfl
  unfold State.sieve
  simp only [← keyed, free, unbound, none_, oldest] <;> rfl

end Unbound

end Sieve

theorem State.sieveNext_iff (s : State) (id : Nat) (key : Word) :
    s.sieveNext id key = true ↔ ∀ a ∈ s.arrivals, a.1 < id → a.2 ≠ key ∧ s.sieveStuck a.2 = true := by
  unfold State.sieveNext
  rw [List.all_eq_true]
  refine forall₂_congr fun a _ => ?_
  by_cases later : id ≤ a.1
  · simp [later]
  · simp [Nat.not_le.mp later]

theorem exec_flumeSieve {s : State} {id : Nat} {c : Call} (call : s.call? id = some c) (typ : c.typ = 7) (weir : c.stage = 1)
    (turn : s.sieveNext id (hitKey c.hit) = true) {t : State} {taken : Bool} (sieved : s.sieve c.hit = (t, taken)) :
    exec (.flumeSieve id) s = .next (if taken = true then t.writeReturn c 0 [] else t) := by
  have next : ¬ ((c.typ ≠ 7 || c.stage ≠ 1 || !s.sieveNext c.id (hitKey c.hit)) = true) := by
    simp [typ, weir, s.call?_id id c call, turn]
  show execFlumeSieve id s = _
  unfold execFlumeSieve
  simp only [call, if_neg next, sieved]
  cases taken <;> rfl

/-- A bucket flushes at 32 records, and not before (R269). -/
theorem State.putBucket_below {b : Bucket} (few : b.recs.length < 31) (s : State) (r : BitVec 512) : s.putBucket b r = { s with gx := { s.gx with
    buckets := { b with recs := b.recs ++ [r], oldest := if b.recs = [] then s.cycle else b.oldest } :: s.gx.buckets.filter fun x => x.n ≠ b.n } } := by
  have below : ¬ ((b.recs ++ [r]).length ≥ 32) := by simp; omega
  have empty : (if b.recs.isEmpty then s.cycle else b.oldest) = if b.recs = [] then s.cycle else b.oldest := by cases b.recs <;> rfl
  rw [← filter_bne Bucket.n, ← empty]
  exact if_neg below

theorem exec_sieveAgeFlush {s : State} {n : Nat} {b : Bucket} (bucket : s.gx.buckets.find? (fun b => b.n = n) = some b) (ready : b.waiting = false)
    (aged : s.gx.svage.toNat % 2 ^ 24 ≠ 0) (old : b.oldest + s.gx.svage.toNat % 2 ^ 24 ≤ s.cycle) : exec (.sieveAgeFlush n) s = .next (s.flushBucket b) := by
  show execSieveAgeFlush n s = _
  unfold execSieveAgeFlush
  have due : (s.gx.svage.toNat % 2 ^ 24 != 0 && !b.waiting && b.oldest + s.gx.svage.toNat % 2 ^ 24 ≤ s.cycle) = true := by
    rw [ready, bne_iff_ne.mpr aged, decide_eq_true old]
    rfl
  simp only [bucket, due, if_true]

/-- A flush is an append of the bucket's records, after which the bucket is free (R269). -/
theorem State.flushBucket_eq {s t : State} {b : Bucket} {r : Option Bool} (ready : b.waiting = false)
    (tried : ({ s with nextId := s.nextId + 1, gx := { s.gx with
        appends := s.gx.appends ++ [{ id := s.nextId, queue := bitsNat b.mkey.toNat 31 20, recs := b.recs.map fun r => natBytesLE 64 r.toNat, call := none, bucket := b.n }],
        buckets := s.gx.buckets.map fun x => if x.n = b.n then { x with waiting := true, recs := [] } else x } } : State).tryAppend
      { id := s.nextId, queue := bitsNat b.mkey.toNat 31 20, recs := b.recs.map fun r => natBytesLE 64 r.toNat, call := none, bucket := b.n } = (t, r)) :
    s.flushBucket b = if r = none then t else t.freeBucket b.n := by
  unfold State.flushBucket
  simp only [ready, Bool.false_eq_true, if_false, tried]
  cases r <;> rfl

/-- Settles O51: each clause is the case that its hypotheses name of one function: of WEIR_ADMIT, of a domain's step, of an append's resumption, of a return, of the
sieve, of a flush. -/
theorem flumeCallsMoveThroughTheirQueues : Obligations.FlumeCallsMoveThroughTheirQueues := by
  intro s
  refine ⟨fun id c call held => ⟨exec_weirAdmit_returns call held, exec_weirAdmit_admits call held⟩, fun n => ⟨rfl, fun d k dom => ?_⟩, ?_, ?_, ?_, ?_, ?_, ?_, ?_, ?_⟩
  · rw [dom, State.advanceSteps_succ]
    refine ⟨fun done => ?_, fun next busy => ?_, fun next quiet c stored => ⟨fun free => ?_, fun taken => ?_⟩⟩
    · rw [State.advanceDomain_done done]
    · rw [State.advanceDomain_busy next busy]
    · rw [State.advanceDomain_stored next quiet stored, if_pos free]
      rfl
    · rw [State.advanceDomain_stored next quiet stored, taken]
      rfl
  · intro id a t r standing tried
    refine ⟨fun waits => ?_, fun ended bucket => ?_, fun k c owner call => ⟨fun failed => ?_, fun done others => ?_, fun done others => ?_⟩⟩
    · exact exec_queueRoomResume_waits standing (tried.trans (by rw [waits]))
    · obtain ⟨ok, rfl⟩ := Option.ne_none_iff_exists'.mp ended
      exact (exec_queueRoomResume_bucket standing tried bucket).trans (congrArg _ (t.freeBucket_eq a.bucket))
    · exact exec_queueRoomResume_call standing (tried.trans (by rw [failed])) owner call
    · have left : (t.gx.appends.any fun x => x.call = some k) = true := by simpa using others
      rw [exec_queueRoomResume_call standing (tried.trans (by rw [done])) owner call, left]
      rfl
    · have none_ : (t.gx.appends.any fun x => x.call = some k) = false := by simpa using others
      rw [exec_queueRoomResume_call standing (tried.trans (by rw [done])) owner call, none_]
      rfl
  · intro c status p u v w hu hv hw t ht
    have written : (s.returning c status p).callGone c = t := by
      rw [ht, State.callGone_eq, hw, hv, hu]
      rfl
    have ended := s.writeReturn_eq c status p
    rw [written] at ended
    refine ⟨fun plain => ended.trans (if_neg ?_), fun ord started attached => ended.trans (if_pos ?_)⟩
    · obtain free | early | detached := plain
      · simp [free]
      · simp [early]
      · simp [detached]
    · simp [ord, started, attached]
  · intro c status visits
    refine ⟨fun other => State.failCall_plain other .., fun traversal => ⟨_, State.failCall_traversal traversal .., missPayload_fields ..⟩⟩
  · exact fun h off bs b found here => State.putGrant_resident found here off bs
  · intro id c r key call typ weir record keyed order
    have record' : r = c.hit := record
    have turn : s.sieveNext id (hitKey c.hit) = true := by
      rw [← record', show hitKey r = key from keyed.symm, State.sieveNext_iff]
      exact order
    have run : ∀ {t taken}, s.sieve r = (t, taken) → exec (.flumeSieve id) s = .next (if taken = true then t.writeReturn c 0 [] else t) := fun sieved =>
      exec_flumeSieve call typ weir turn (record' ▸ sieved)
    refine ⟨fun stuck => run (State.sieve_stuck keyed stuck), fun b bound => ⟨fun waiting => ?_, fun ready => run (State.sieve_bound keyed bound ready)⟩,
      fun unbound => ⟨fun n few free below => run (State.sieve_binds keyed unbound ?_), fun full calm b u oldest forced => ?_⟩⟩
    · exact run (State.sieve_stuck keyed (by simp only [State.sieveStuck, bound, waiting]))
    · refine freeBucketNo_lowest _ _ _ (Nat.zero_le n) (by omega) (fun used => ?_) fun m _ low => ?_
      · obtain ⟨b, member, number⟩ := List.mem_map.mp used
        exact free b member number
      · obtain ⟨b, member, number⟩ := below m low
        exact List.mem_map.mpr ⟨b, member, number⟩
    · have none_ : freeBucketNo (s.gx.buckets.map Bucket.n) 0 1024 = none := freeBucketNo_none _ _ _ fun m _ low => by
        obtain ⟨b, member, number⟩ := full m (by omega)
        exact List.mem_map.mpr ⟨b, member, number⟩
      have sieved := State.sieve_forces keyed unbound none_ calm oldest
      rw [← forced] at sieved
      refine ⟨fun v bind => ?_, fun bind => ?_⟩
      · rw [bind] at sieved
        exact run sieved
      · rw [bind] at sieved
        exact run sieved
  · exact fun b r few => State.putBucket_below few s r
  · exact fun n b bucket ready aged old => exec_sieveAgeFlush bucket ready aged old
  · intro b a u t r ready ha hu tried
    rw [hu, ha] at tried
    have flushed := State.flushBucket_eq ready tried
    refine ⟨fun waits => flushed.trans (if_pos waits), fun ended => (flushed.trans (if_neg ended)).trans (t.freeBucket_eq b.n)⟩

end Sys2Proof.Machine
end

section
namespace Sys2Proof.Machine

/-! ### The flume units (R262 to R267, R270, R383, R384, R404) -/

/-- A unit lets a call be that it cannot go on with (R255, R258, R271). -/
theorem State.runCall_idle {s : State} {typ id : Nat} (work : State → Call → FlRes (List Byte)) {c : Call} (call : s.call? id = some c)
    (idle : c.typ ≠ typ ∨ c.stage = 0 ∨ c.stage = 2 ∨ (c.stage = 1 ∧ s.unitFree c = false) ∨ ∃ a ∈ s.gx.appends, a.call = some id) :
    s.runCall typ id work = s := by
  unfold State.runCall
  simp only [call]
  split
  · rfl
  next serves =>
    obtain ⟨typed, quiet⟩ : c.typ = typ ∧ ∀ a ∈ s.gx.appends, a.call ≠ some id := by simpa using serves
    refine if_pos ?_
    obtain other | held | stored | ⟨waits, busy⟩ | ⟨a, member, standing⟩ := idle
    · exact absurd typed other
    · simp [held]
    · simp [stored]
    · simp [waits, busy]
    · exact absurd standing (quiet a member)

section Served
variable {s : State} {typ id : Nat} {work : State → Call → FlRes (List Byte)} {c : Call} (serves : s.Serves typ id c)
include serves

theorem State.runCall_ok {t : State} {p : List Byte} (done : work (s.begun c) c.begun = .ok t p) : s.runCall typ id work = s.returned t c p := by
  rw [s.runCall_serves typ id work c serves, done]

theorem State.runCall_fail {t : State} {status : Nat} (failed : work (s.begun c) c.begun = .fail t status) : s.runCall typ id work = s.failed t c status := by
  rw [s.runCall_serves typ id work c serves, failed]

end Served

/-- Starting a call leaves the queues and the standing appends (R125, R258). -/
theorem State.begun_queues (s : State) (c : Call) : (s.begun c).hg = s.hg ∧ (s.begun c).gx.appends = s.gx.appends := by
  unfold State.begun State.startCall
  split
  · split <;> exact ⟨rfl, rfl⟩
  · exact ⟨rfl, rfl⟩

theorem State.begun_queueLive (s : State) (c : Call) (q : Nat) : (s.begun c).queueLive q = s.queueLive q := by
  unfold State.queueLive State.queue?
  rw [(s.begun_queues c).1]

/-! Raster (R262). -/

theorem State.startAppends_some {s t : State} {c : Call} {ret : List Byte} {q : Nat} {recs : List (List Byte)} {ok : Option Bool} (some_ : recs ≠ [])
    (tried : (State.mapCall { s with nextId := s.nextId + 1, gx := { s.gx with
        appends := s.gx.appends ++ [{ id := s.nextId, queue := q, recs := recs, call := some c.id, bucket := 0 }] } } c.id fun c => { c with ret := ret }).tryAppend
      { id := s.nextId, queue := q, recs := recs, call := some c.id, bucket := 0 } = (t, ok)) :
    s.startAppends c ret [(q, recs)] = if ok = some false then .fail t 8 else .ok t ret := by
  unfold State.startAppends
  rw [if_neg (by simpa using some_)]
  simp only [tried]
  obtain _ | _ | _ := ok <;> rfl

section Raster
variable {s : State} {id : Nat} {c : Call} {q : Nat} (queue : q = c.pay 44 2) (live : s.queueLive q = true)
include queue

theorem State.raster_dead (dead : s.queueLive q = false) : (s.begun c).raster c.begun = .fail (s.begun c) 8 := by
  refine if_pos ?_
  rw [State.begun_queueLive, show c.begun.pay 44 2 = q from queue.symm, dead]
  rfl

include live

theorem State.raster_live : (s.begun c).raster c.begun = (s.begun c).startAppends c.begun (natBytesLE 16 (rasterQuads c).length) [(q, rasterQuads c)] := by
  rw [queue]
  refine if_neg ?_
  rw [State.begun_queueLive, show c.begun.pay 44 2 = q from queue.symm, live]
  decide

theorem State.raster_none (none_ : rasterQuads c = []) :
    (s.begun c).raster c.begun = .ok (s.begun c) (natBytesLE 16 (rasterQuads c).length) := by
  rw [State.raster_live queue live, none_]
  rfl

/-- The quads are appended, and the call returns with them or fails with its append (R262, R271). -/
theorem exec_flumeRaster_some (serves : s.Serves 0 id c) (some_ : rasterQuads c ≠ []) {p : List Byte} (hp : p = natBytesLE 16 (rasterQuads c).length)
    {a : AppendWait} {u t : State} {ok : Option Bool} (append : a = { id := s.nextId, queue := q, recs := rasterQuads c, call := some id, bucket := 0 })
    (standing : u = State.mapCall { s.begun c with nextId := s.nextId + 1, gx := { (s.begun c).gx with appends := s.gx.appends ++ [a] } } id
      fun c => { c with ret := p }) (tried : u.tryAppend a = (t, ok)) :
    exec (.flumeRaster id) s = .next (if ok = some false then s.failed t c 8 else s.returned t c p) := by
  have number : (s.begun c).nextId = s.nextId := (s.begun_counts c).1
  have id_ : c.begun.id = id := s.call?_id id c serves.call
  have work : (s.begun c).raster c.begun = if ok = some false then .fail t 8 else .ok t p := by
    rw [State.raster_live queue live, ← hp]
    refine State.startAppends_some some_ ?_
    rw [number, id_, (s.begun_queues c).2, ← append, ← standing, tried]
  by_cases failed : ok = some false
  · rw [if_pos failed] at work ⊢
    exact congrArg _ (State.runCall_fail serves work)
  · rw [if_neg failed] at work ⊢
    exact congrArg _ (State.runCall_ok serves work)

end Raster

/-! Work lane by lane, with results of another form. -/

theorem Each.map {α β γ : Type} {p : α → State → State → β → Prop} {q : α → State → State → γ → Prop} (f : β → γ) (h : ∀ x s t y, p x s t y → q x s t (f y))
    {l : List α} {s t : State} {r : List β} (e : Each p l s t r) : Each q l s t (r.map f) := by
  induction e with
  | nil s => exact .nil s
  | cons one _ ih => exact .cons (h _ _ _ _ one) ih

/-- Depth (R262). -/
theorem State.depth_each {s t : State} {c : Call} {ctl : Nat} {at_ z : Nat → Nat} {lanes : List Nat} {ps : List Bool} (hctl : ctl = c.pay 12 4)
    (hat : at_ = fun i => c.pay 0 8 + c.pay (18 + 8 * i) 2 * c.pay 8 4 + 4 * c.pay (16 + 8 * i) 2) (hz : z = fun i => c.pay (20 + 8 * i) 4)
    (hlanes : lanes = (List.range 8).filter fun i => decide (c.pos ≤ i) && bitNat (bitsNat ctl 15 8) i)
    (each : Each (fun i u w p => ∃ v bs, u.flRead c (at_ i) 4 4 = .ok v bs ∧ p = depthPass (ctl % 4) (FFmt.f32.value (z i)) (FFmt.f32.value (bytesNat bs)) ∧
      if p = true ∧ bitNat ctl 2 = true then v.flWrite c (at_ i) (natBytesLE 4 (z i)) 4 = .ok w () else w = v) lanes s t ps) :
    s.depth c = .ok t (natBytesLE 16 ((lanes.zip ps).foldl (fun a x => a + if x.2 then 2 ^ x.1 else 0) c.count)) := by
  subst hat hz hlanes
  rw [lanes_list] at each ⊢
  unfold State.depth
  dsimp only
  rw [← hctl]
  rw [State.lanesFrom_each c _ _ _ s t _ _ ps (each.mono fun i u w p ⟨v, bs, read, passed, wrote⟩ => ?_)]
  · rfl
  · rw [read]
    unfold FlRes.bind
    dsimp only
    rw [← passed]
    cases p with
    | false =>
      rw [if_neg (by simp)] at wrote
      rw [wrote]
      rfl
    | true =>
      by_cases writes : bitNat ctl 2 = true
      · rw [if_pos ⟨rfl, writes⟩] at wrote
        rw [if_pos rfl, if_pos writes, wrote]
      · rw [if_neg (by simp [writes])] at wrote
        rw [if_pos rfl, if_neg writes, wrote]

/-- Blend (R262). -/
theorem State.blend_each {s t : State} {c : Call} {ctl : Nat} {at_ : Nat → Nat} {src : Nat → Nat → Nat} {lanes : List Nat} {ps : List Unit} (hctl : ctl = c.pay 12 4)
    (hat : at_ = fun i => c.pay 0 8 + c.pay (18 + 4 * i) 2 * c.pay 8 4 + 8 * c.pay (16 + 4 * i) 2)
    (hsrc : src = fun i k => widen16 (c.pay (48 + 8 * i + 2 * k) 2))
    (hlanes : lanes = (List.range 8).filter fun i => decide (c.pos ≤ i) && bitNat (bitsNat ctl 15 8) i)
    (each : Each (fun i u w _ => ∃ v bs, u.flRead c (at_ i) 8 8 = .ok v bs ∧ v.flWrite c (at_ i) ((List.range 4).flatMap fun k =>
      natBytesLE 2 (blendChannel (ctl % 4) (src i k) (widen16 (bytesNat ((bs.drop (2 * k)).take 2))) (src i 3))) 8 = .ok w ()) lanes s t ps) :
    s.blend c = .ok t [] := by
  subst hat hsrc hlanes
  rw [lanes_list] at each
  unfold State.blend
  dsimp only
  rw [← hctl]
  rw [State.lanesFrom_each c _ _ _ s t _ _ _ (each.map (fun _ => true) fun i u w _ ⟨v, bs, read, wrote⟩ => ?_)]
  · rfl
  · rw [read]
    unfold FlRes.bind
    dsimp only
    rw [wrote]

/-- The tessellator (R264). -/
theorem State.tessellator_writes {s u t : State} {c : Call} {f : Nat → Nat} {m : List UV × List (List Nat)}
    (factors : f = fun k => tessFactor (Config.nanInput c.payload k) (c.pay (4 + 4 * k) 4))
    (mesh : m = tessellate (c.pay 0 4 % 2 = 1) ((List.range (if c.pay 0 4 % 2 = 1 then 4 else 3)).map f) (f 4) (if c.pay 0 4 % 2 = 1 then f 5 else f 4))
    (points : s.flWrite c (c.pay 28 8) (m.1.flatMap fun p => natBytesLE 4 (rneRatio p.1.1 p.1.2) ++ natBytesLE 4 (rneRatio p.2.1 p.2.2)) 8 = .ok u ())
    (triangles : u.flWrite c (c.pay 36 8) (m.2.flatMap fun l => l.flatMap fun i => natBytesLE 4 i) 4 = .ok t ()) :
    s.tessellator c = .ok t (natBytesLE 16 (m.1.length + m.2.length * 2 ^ 16)) := by
  rw [factors] at mesh
  unfold State.tessellator
  dsimp only at mesh ⊢
  rw [← mesh, points]
  unfold FlRes.bind
  dsimp only
  rw [triangles]

/-- The texture filter (R263). -/
theorem State.texture_each {s u t : State} {c : Call} {bs : List Byte} {d fmt : Nat} {ls : List (List Nat)} {g : Nat × Nat × Nat}
    (read : s.flRead c (c.pay 0 8) 16 16 = .ok u bs) (hd : d = bytesNat bs) (hfmt : fmt = bitsNat d 90 89) (levels : bitsNat d 95 92 ≠ 0) (known : fmt < 2)
    (reserved : bitsNat d 88 57 = 0) (aligned : bitsNat d 56 0 % 256 = 0)
    (level : g = texLevel (bitsNat d 56 0) (bitsNat d 127 112 + 1) (bitsNat d 111 96 + 1) (if fmt = 0 then 4 else 8)
      (texLevelNo (Config.nanInput c.payload 0) (bitsNat d 95 92) (c.pay 8 4)))
    (each : Each (fun i v w l => v.texLane c fmt (bitNat d 91) g.1 g.2.1 g.2.2 (c.pay (16 + 8 * i) 4) (c.pay (20 + 8 * i) 4) = .ok w l) (List.range 8) u t ls) :
    s.texture c = .ok t (ls.flatMap fun l => l.flatMap (natBytesLE 4)) := by
  have good : ¬ ((bitsNat d 95 92 = 0 || 2 ≤ fmt || bitsNat d 88 57 != 0) = true) := by simp [levels, reserved, known]
  have even : ¬ ((bitsNat d 56 0 % 256 != 0) = true) := by simp [aligned]
  unfold State.texture
  rw [read]
  unfold FlRes.bind
  dsimp only
  rw [← hd, ← hfmt, if_neg good, if_neg even, ← level]
  rw [List.range_eq_range'] at each
  exact State.texLanes_each _ 8 u t 0 [] ls each

theorem Ray.run_bad {r : Ray} (bad : r.bad = true) (fetch : Fetch) (s : State) : r.run fetch s = .bad s 1 0 := by
  rw [Ray.run, if_pos bad]

/-! A traversal by what its walk finds (R267, R383). -/

section Traversal
variable {s t : State} {c : Call} {r : Ray} {v : Nat} (ray : r = rayOf c.payload (c.pay 32 8) (c.pay 40 8) (c.pay 48 8) (c.pay 56 4) (c.pay 60 4))
include ray

theorem State.traverse_hit {b : Best} (walked : r.run (fun u a n => u.flRead c a n 1) s = .ok t (some b) v) : s.traverse c = .ok t (b.payload v) := by
  unfold State.traverse
  dsimp only
  rw [← ray, walked]

theorem State.traverse_miss (walked : r.run (fun u a n => u.flRead c a n 1) s = .ok t none v) :
    s.traverse c = .ok { t with free := t.free + 3 } (missPayload t.free v none) := by
  unfold State.traverse
  dsimp only
  rw [← ray, walked]

theorem State.traverse_bad {status : Nat} (walked : r.run (fun u a n => u.flRead c a n 1) s = .bad t status v) :
    s.traverse c = .fail (t.mapCall c.id fun c => { c with count := v }) status := by
  unfold State.traverse
  dsimp only
  rw [← ray, walked]

end Traversal

/-- Reprojection (R270, R271). -/
theorem State.reproject_each {s t u : State} {c : Call} {qr qg : Nat} (hqr : qr = c.pay 28 2) (hqg : qg = c.pay 30 2) (liveR : s.queueLive qr = true)
    (liveG : s.queueLive qg = true) {rs : List (Option (Nat × List Byte))} {recs : List (Nat × List Byte)} {p p' : List Byte} {of : Nat → List (List Byte)}
    (each : Each (fun q v w r => v.reprojPixel c q = .ok w r) ((List.range (c.pay 24 2 * c.pay 26 2 - c.pos)).map (c.pos + ·)) s t rs)
    (hrecs : recs = c.recs ++ rs.filterMap fun r => r) (hp : p = natBytesLE 16 (c.count + rs.countP (fun r => r.isNone) + recs.length * 2 ^ 32))
    (hof : of = fun q => (recs.filter fun r => r.1 = q).map Prod.snd)
    (appended : t.startAppends c p ((qr, of qr) :: if qg = qr then [] else [(qg, of qg)]) = .ok u p') : s.reproject c = .ok u p' := by
  have live : ¬ ((!s.queueLive qr || !s.queueLive qg) = true) := by simp [liveR, liveG]
  rw [← List.range'_eq_map_range] at each
  unfold State.reproject
  dsimp only
  rw [← hqr, ← hqg, if_neg live, State.reprojFrom_each c _ s t _ _ _ rs each, ← hrecs]
  unfold FlRes.bind
  dsimp only
  rw [← hp]
  rw [hof] at appended
  exact appended

theorem State.reproject_dead {s : State} {c : Call} {qr qg : Nat} (hqr : qr = c.pay 28 2) (hqg : qg = c.pay 30 2)
    (dead : s.queueLive qr = false ∨ s.queueLive qg = false) : s.reproject c = .fail s 8 := by
  subst hqr hqg
  refine if_pos ?_
  simpa using dead

/-! Traversal tasks (R267, R384, R404). -/

section TraversalTask
variable {s : State} {key : Nat} {k : Task} (task : s.task? key = some k) (dispatched : k.state = .dispatched [] []) (kind : TaskRec.kind k.record = 1)
  (left : k.engLeft ≠ 0)
include task dispatched kind left

theorem exec_traversalTask : exec (.traversalTask key) s = .next (match s.gx.hits.find? fun h => h.task = key with
    | some h => s.sieveHit h
    | none => s.nextRay k) := by
  have turn : (k.state = .dispatched [] [] && TaskRec.kind k.record = 1 && k.engLeft != 0) = true := by simp [dispatched, kind, left]
  show execTraversalTask key s = _
  unfold execTraversalTask
  simp only [task, turn, if_true] <;> rfl

end TraversalTask

theorem State.sieveHit_waits {s : State} {h : SieveHit} (blocked : ∃ a ∈ s.arrivals, a.1 < h.id ∧ ¬ (a.2 ≠ h.record.extractLsb' 128 32 ∧ s.sieveStuck a.2 = true)) :
    s.sieveHit h = s := by
  refine if_pos ?_
  rw [Bool.not_eq_true', Bool.eq_false_iff]
  intro turn
  obtain ⟨a, member, before, stuck⟩ := blocked
  exact stuck ((s.sieveNext_iff ..).mp turn a member before)

/-- How a traversal task reads for its ray (R267). -/
def Task.fetch (k : Task) : Fetch := fun s a n =>
  match s.unitRead 0 none k.pdom k.partid k.id.toNat a n with
  | .wait s => .wait s
  | .fail s => .fail s 2
  | .ok s (x, m) => if m ≠ 0 then .fail s 5 else .ok s x

section NextRay
variable {s u : State} {k : Task} {bs : List Byte} {b : Nat}
  (control : s.unitRead 0 none k.pdom k.partid k.id.toNat (TaskRec.entry k.record) 64 = .ok u (bs, 0)) (hb : b = bytesNat bs)
include control hb

theorem State.nextRay_last (last : bitsNat b 95 64 ≤ k.ray) : s.nextRay k = u.mapTask k.key fun t => { t with engLeft := 0 } := by
  unfold State.nextRay
  dsimp only
  rw [control]
  dsimp only
  rw [← hb, if_neg (by simp), if_pos last]

/-- The hit record that a ray's walk ends with (R267, R384): of its hit, or of a miss. -/
def TravRes.record (misskey : Nat) : TravRes → Option (State × List Byte)
  | .wait _ => none
  | .bad x _ _ => some ({ x with free := x.free + 3 }, missPayload x.free 0xFFFFFFFF (some misskey))
  | .ok x (some h) n => some (x, h.payload n)
  | .ok x none n => some ({ x with free := x.free + 3 }, missPayload x.free n (some misskey))

theorem State.nextRay_walks {v w : State} {rb p : List Byte} (more : k.ray < bitsNat b 95 64)
    (read : u.unitRead 0 none k.pdom k.partid k.id.toNat ((bitsNat b 63 0 + 64 * k.ray) % 2 ^ 64) 64 = .ok v (rb, 0)) {q : TravRes}
    (walked : q = (rayOf rb (bitsNat b 191 128) (bitsNat b 255 192) (bitsNat b 319 256) (bitsNat b 351 320) (bitsNat b 127 96)).run k.fetch v)
    (found : q.record (bitsNat b 383 352) = some (w, p)) : s.nextRay k = w.putHit k (bitsNat b 447 384) (p ++ rb.drop 32) := by
  unfold State.nextRay
  dsimp only
  rw [control]
  dsimp only
  rw [← hb, if_neg (by simp), if_neg (by omega), read]
  dsimp only
  rw [if_neg (by simp)]
  generalize run : Ray.run _ _ v = x
  obtain rfl : x = q := run.symm.trans walked.symm
  cases x with
  | wait y => simp [TravRes.record] at found
  | bad y e n =>
    obtain ⟨rfl, rfl⟩ := Prod.mk.inj (Option.some.inj found)
    rfl
  | ok y best n =>
    cases best with
    | none =>
      obtain ⟨rfl, rfl⟩ := Prod.mk.inj (Option.some.inj found)
      rfl
    | some h =>
      obtain ⟨rfl, rfl⟩ := Prod.mk.inj (Option.some.inj found)
      rfl

end NextRay

/-- A hit record that OUT takes (R267). -/
theorem State.putHit_writes {s u : State} {k : Task} {out : Nat} {hit : List Byte} (named : out ≠ 0)
    (written : s.unitWrite 0 none k.pdom k.partid k.id.toNat ((out + 64 * k.ray) % 2 ^ 64) hit = .ok u ()) :
    s.putHit k out hit = u.mapTask k.key fun t => { t with ray := t.ray + 1 } := by
  unfold State.putHit
  rw [if_neg named, written]

/-- Settles O52: a unit's work on its call, and then what `State.runCall_serves` makes of it; a traversal task by its ray's walk. -/
theorem flumeUnitsServeTheirCalls : Obligations.FlumeUnitsServeTheirCalls := by
  intro s id c
  refine ⟨?_, ?_, ?_, ?_, ?_, ?_, ?_, ?_, ?_, ?_, ?_, fun h blocked => State.sieveHit_waits blocked⟩
  · intro i typ member call idle _
    simp only [List.mem_cons, Prod.mk.injEq, List.not_mem_nil, or_false] at member
    obtain ⟨rfl, rfl⟩ | ⟨rfl, rfl⟩ | ⟨rfl, rfl⟩ | ⟨rfl, rfl⟩ | ⟨rfl, rfl⟩ | ⟨rfl, rfl⟩ | ⟨rfl, rfl⟩ := member
    all_goals exact congrArg _ (State.runCall_idle _ call idle)
  · intro serves q queue p hp
    refine ⟨fun dead => ?_, fun live none_ => ?_, fun live some_ a u t ok append standing tried => ?_⟩
    · exact congrArg _ (State.runCall_fail serves (State.raster_dead queue dead))
    · exact congrArg _ (State.runCall_ok serves (hp ▸ State.raster_none queue live none_))
    · exact exec_flumeRaster_some queue live serves some_ hp append standing tried
  · intro serves ctl m t ps at_ z lanes hctl hat hz hlanes each hm
    exact congrArg _ (State.runCall_ok serves (hm ▸ State.depth_each (c := c.begun) hctl hat hz hlanes each))
  · intro serves ctl t ps at_ src lanes hctl hat hsrc hlanes each
    exact congrArg _ (State.runCall_ok serves (State.blend_each (c := c.begun) hctl hat hsrc hlanes each))
  · intro serves f m u t factors mesh points triangles
    exact congrArg _ (State.runCall_ok serves (State.tessellator_writes (c := c.begun) factors mesh points triangles))
  · intro serves u t bs d fmt ls g read hd hfmt levels known reserved aligned level each
    exact congrArg _ (State.runCall_ok serves (State.texture_each (c := c.begun) read hd hfmt levels known reserved aligned level each))
  · intro serves r q ray walked
    refine ⟨fun t b v hit => ?_, fun t v miss => ?_, fun t status v bad => ?_, fun bad => walked.trans (Ray.run_bad bad ..)⟩
    · exact congrArg _ (State.runCall_ok serves (State.traverse_hit (c := c.begun) ray (walked.symm.trans hit)))
    · exact congrArg _ (State.runCall_ok serves (State.traverse_miss (c := c.begun) ray (walked.symm.trans miss)))
    · exact congrArg _ (State.runCall_fail serves (State.traverse_bad (c := c.begun) ray (walked.symm.trans bad)))
  · intro serves qr qg hqr hqg
    refine ⟨fun dead => ?_, fun liveR liveG t u rs recs p p' of each hrecs hp hof appended => ?_⟩
    · rw [← s.begun_queueLive c, ← s.begun_queueLive c] at dead
      exact congrArg _ (State.runCall_fail serves (State.reproject_dead (c := c.begun) hqr hqg dead))
    · rw [← s.begun_queueLive c] at liveR liveG
      exact congrArg _ (State.runCall_ok serves (State.reproject_each (c := c.begun) hqr hqg liveR liveG each hrecs hp hof appended))
  · intro key k task dispatched kind left
    have run := exec_traversalTask task dispatched kind left
    refine ⟨fun h hit => ?_, fun fresh b u v bs rb control hb => ?_⟩
    · rw [run, hit]
    · have none_ : s.gx.hits.find? (fun h => h.task = key) = none := List.find?_eq_none.mpr fun h member => by simpa using fresh h member
      rw [none_] at run
      refine ⟨fun last => ?_, fun more read fetch q w p hfetch walked found => run.trans (congrArg _ ?_)⟩
      · rw [run, ← State.task?_key task]
        exact congrArg _ (State.nextRay_last control hb last)
      · refine State.nextRay_walks control hb more read (walked.trans (by rw [hfetch]; rfl)) ?_
        obtain ⟨h, n, ended, rfl⟩ | ⟨x, n, ended, rfl, rfl⟩ | ⟨x, e, n, ended, rfl, rfl⟩ := found
        all_goals rw [ended]; rfl
  · exact fun k out hit u named written => State.putHit_writes named written
  · intro k hit h hh
    rw [hh]
    rfl

end Sys2Proof.Machine
end

section
namespace Sys2Proof.Machine

/-! ### The float reductions of VRED (R107, R191) -/

/-- A float reduction is the tree over the eight lanes, written to lane 0 with zeros above. -/
theorem vredF_writes {f : List Nat → Res} {i : Instr} {mk : Option Msk} {d a : BitVec 7} (op : ∀ s, exec i s = vredF f mk d a s) :
    FloatOp 32 1 i mk d fun st _ => f ((List.range 8).map (st.pat 32 a)) :=
  floatOp_of (k := 1) rfl (by decide) fun s => (op s).trans (vredF_eq f mk d a s)

/-- Settles O18: each reduction is one tree over the lanes (`vredF_writes`). -/
theorem floatReductionsSetLaneZero : Obligations.FloatReductionsSetLaneZero := fun _ _ _ =>
  ⟨vredF_writes fun _ => rfl, vredF_writes fun _ => rfl, vredF_writes fun _ => rfl⟩

/-! ### FCVT (R98, R99, R209) -/

/-- The width of each format code (R167). -/
theorem cvtWidth_eq (x : BitVec 4) : cvtWidth x = if x = 0 ∨ x = 6 ∨ x = 7 then 32 else if x = 1 ∨ x = 2 ∨ x = 8 ∨ x = 9 then 16
    else if x = 5 then 4 else 8 := by
  revert x
  decide

/-- Every format's width divides a lane. -/
theorem cvtWidth_dvd (x : BitVec 4) : cvtWidth x * (32 / cvtWidth x) = 32 := by
  revert x
  decide

/-- A conversion has no more elements than its destination holds. -/
theorem cvtCount_le (t c : BitVec 4) : 256 / max (cvtWidth c) (cvtWidth t) ≤ 256 / cvtWidth t := by
  revert t c
  decide

/-- The rounding of FCVT outside SR: the mode of its rounding code, RNE under the code 6, and FPMODE.RM under 5 and 7 (R167). -/
theorem fcvtMode_of {r : BitVec 3} {m : Strand → RMode} (notSr : r ≠ 4) (rne : r = 0 ∨ r = 6 → m = fun _ => .rne)
    (rtz : r = 1 → m = fun _ => .rtz) (rdn : r = 2 → m = fun _ => .rdn) (rup : r = 3 → m = fun _ => .rup)
    (dynamic : r = 5 ∨ r = 7 → m = Strand.roundingMode) :
    (fun st : Strand => if r.toNat < 4 then RMode.ofCode r.toNat else if r = 6 then .rne else st.mode) = m := by
  have codes : ∀ r : BitVec 3, r = 0 ∨ r = 1 ∨ r = 2 ∨ r = 3 ∨ r = 4 ∨ r = 5 ∨ r = 6 ∨ r = 7 := by decide
  obtain rfl | rfl | rfl | rfl | rfl | rfl | rfl | rfl := codes r
  · exact (rne (.inl rfl)).symm
  · exact (rtz rfl).symm
  · exact (rdn rfl).symm
  · exact (rup rfl).symm
  · exact absurd rfl notSr
  · exact (funext Strand.mode_eq).trans (dynamic (.inl rfl)).symm
  · exact (rne (.inr rfl)).symm
  · exact (funext Strand.mode_eq).trans (dynamic (.inr rfl)).symm

/-- FCVT in every rounding but SR. -/
theorem fcvt_writes {mk : Option Msk} {t c : BitVec 4} {d a : BitVec 7} {r : BitVec 3} (notSr : r ≠ 4) {m : Strand → RMode}
    (mode : (fun st : Strand => if r.toNat < 4 then RMode.ofCode r.toNat else if r = 6 then .rne else st.mode) = m) :
    FloatOp (cvtWidth t) (256 / max (cvtWidth c) (cvtWidth t)) (.fcvt mk t d a c r) mk d fun st j =>
      cvtElem t (m st) (decide (6 ≤ r.toNat)) (cvtSource c (st.pat (cvtWidth c) a j)) := by
  subst mode
  exact floatOp_of (cvtWidth_dvd t) (cvtCount_le t c) (fcvt_eq mk t c d a r notSr)

/-- The elements from element j on, from the generator as the elements before them have left it. -/
theorem cvtDraws_drawSeed {t : BitVec 4} {x : Nat → FVal} {act need : Nat → Bool} (seed : Word) (j n : Nat)
    (needs : ∀ i, j ≤ i → i < j + n → need i = (act i && (fmtOf t).draws (x i).exact)) :
    cvtDraws t x act j (drawSeed need seed j) n =
      ((List.range n).map fun i => cvtElem t (.sr ((drawSeed need seed (j + i + 1)).toNat / 2 ^ 16)) false (x (j + i)),
        drawSeed need seed (j + n)) := by
  induction n generalizing j with
  | zero => rfl
  | succ n ih =>
    have drawn : (if act j && (fmtOf t).draws (x j).exact then nextDraw (drawSeed need seed j) else drawSeed need seed j) =
        drawSeed need seed (j + 1) := by
      rw [← needs j le_rfl (by omega)]
      rfl
    rw [cvtDraws, drawn, ih (j + 1) fun i low high => needs i (by omega) (by omega), List.range_succ_eq_map]
    simp only [List.map_cons, List.map_map, Function.comp_def, Nat.add_zero, Nat.succ_eq_add_one, Nat.add_right_comm, ← Nat.add_assoc]

theorem cvtWidth_dvd_vector (t : BitVec 4) : cvtWidth t ∣ 256 := by
  revert t
  decide

theorem cvtWidth_lanes (t : BitVec 4) : 256 / cvtWidth t = 32 / cvtWidth t * 8 := by
  revert t
  decide

/-- Every element of a conversion lies in one of the eight lanes. -/
theorem cvtLane_lt {t c : BitVec 4} {j : Nat} (low : j < 256 / max (cvtWidth c) (cvtWidth t)) : cvtWidth t * j / 32 < 8 := by
  have bits : cvtWidth t * j < 256 := (Nat.lt_div_iff_mul_lt' (cvtWidth_dvd_vector t) j).mp (low.trans_le (cvtCount_le t c))
  omega

/-- A masked write of n results with flags, as a conversion ends: elements in active lanes are the results, with zeros above, and the others
keep their contents. -/
theorem Strand.setVMasked_retire {st : Strand} {mk : Option Msk} {d : BitVec 7} {t : BitVec 4} {n : Nat} (few : n ≤ 256 / cvtWidth t)
    (g : Nat → Res) (cycle len : Nat) (f : BitVec 5) :
    ∃ y, st.WroteV (((st.setVMasked mk d (ofResults (cvtWidth t) n g)).raiseFlags f).retire cycle len) cycle (st.past len) d y f ∧
      ∀ j < 256 / cvtWidth t, elem (cvtWidth t) y j = if st.runs mk (cvtWidth t * j / 32) then
        (if j < n then BitVec.ofNat _ (g j).1 else 0) else elem (cvtWidth t) (st.v d) j := by
  obtain ⟨y, written, elems⟩ := st.setVMasked_eq mk d (ofResults (cvtWidth t) n g)
  refine ⟨y, written ▸ st.wroteV_retire .., fun j low => ?_⟩
  rw [elems _ _ (cvtWidth_dvd t) j (Nat.div_lt_of_lt_mul (cvtWidth_lanes t ▸ low)), elem_ofResults _ _ few _ j low]

section Draws
variable {mk : Option Msk} {t c : BitVec 4} {d a : BitVec 7} {s : State} {st : Strand} {x : Nat → FVal} {need : Nat → Bool} {n : Nat}
  {seed : Nat → Word} (hx : x = fun j => cvtSource c (st.pat (cvtWidth c) a j)) (hn : n = 256 / max (cvtWidth c) (cvtWidth t))
  (hneed : need = fun j => st.runs mk (cvtWidth t * j / 32) && (fmtOf t).draws (x j).exact)
  (hseed : seed = drawSeed need (s.core st.at_.die st.at_.core).srseed)
include hx hn hneed hseed

/-- FCVT under SR: the results and flags are those of the draws in ascending order, and the generator and its count move on when an element has
drawn. -/
theorem exec_fcvt_sr (cur : s.curStrand = some st) {g : Nat → Res} (hg : g = fun j => cvtElem t (.sr ((seed (j + 1)).toNat / 2 ^ 16)) false (x j)) :
    exec (.fcvt mk t d a c 4) s = .next ((if (List.range n).all fun j => !need j then s
      else (s.setCore st.at_.die st.at_.core { s.core st.at_.die st.at_.core with srseed := seed n }).note st.at_.die (some st.at_.core) 18
        ((List.range n).countP need) st.task).putStrand
      (((st.setVMasked mk d (ofResults (cvtWidth t) n g)).raiseFlags (st.raised mk (cvtWidth t) g n)).retire s.cycle (words [mk.isSome]))) := by
  have inside : ∀ j < n, cvtWidth t * j / 32 < 8 := fun j low => cvtLane_lt (hn ▸ low)
  have needs : ∀ j < n, need j = (st.active mk (cvtWidth t) j && (fmtOf t).draws (x j).exact) := fun j low => by
    rw [hneed, st.active_eq mk _ j (inside j low)]
  have draws : cvtDraws t x (st.active mk (cvtWidth t)) 0 (s.core st.at_.die st.at_.core).srseed n = ((List.range n).map g, seed n) := by
    have := cvtDraws_drawSeed (s.core st.at_.die st.at_.core).srseed 0 n fun i _ high => needs i (by omega)
    simpa only [hg, hseed, Nat.zero_add, drawSeed] using this
  have results : ∀ j < n, ((List.range n).map g).getD j (0, 0) = g j := fun j low => by simp [List.getD_eq_getElem?_getD, List.getElem?_range low]
  have counted : ((List.range n).filter fun j => st.active mk (cvtWidth t) j && (fmtOf t).draws (x j).exact).length = (List.range n).countP need := by
    rw [← List.countP_eq_length_filter]
    exact List.countP_congr fun j low => by rw [needs j (List.mem_range.mp low)]
  refine (State.onStrand_some cur _).trans (congrArg Host.Outcome.next ?_)
  have source : (fun j => cvtSource c (elemN (cvtWidth c) (st.v a) j)) = x := hx.symm
  simp only [← hn, if_true, decide_true, Bool.true_and, congrFun source, draws]
  have undrawn : (List.range n).countP need = 0 ↔ ((List.range n).all fun j => !need j) = true := by simp [List.countP_eq_zero]
  rw [counted, ofResults_congr results, flagsOf_congr results, st.flagsOf_eq mk _ g n inside, len1_words]
  simp only [undrawn]

end Draws

/-- Settles O19: FCVT outside SR by the mode of its rounding code (`fcvt_writes`), under SR by its draws in ascending order (`exec_fcvt_sr`). -/
theorem fcvtSetsItsElements : Obligations.FcvtSetsItsElements := by
  refine ⟨fun mk t c d a r w hw notSr m rne rtz rdn rup dynamic _ _ => ?_, fun mk t c d a s st cur _ _ x need n seed hx hn hneed hseed => ?_⟩
  · obtain rfl : w = cvtWidth := funext fun x => (hw x).trans (cvtWidth_eq x).symm
    exact fcvt_writes notSr (fcvtMode_of notSr rne rtz rdn rup dynamic)
  · obtain ⟨y, written, elems⟩ := Strand.setVMasked_retire (st := st) (mk := mk) (d := d) (hn ▸ cvtCount_le t c)
      (fun j => cvtElem t (.sr ((seed (j + 1)).toNat / 2 ^ 16)) false (x j)) s.cycle (words [mk.isSome]) _
    exact ⟨y, _, written, elems, exec_fcvt_sr hx hn hneed hseed cur rfl⟩

end Sys2Proof.Machine
end

section
namespace Sys2Proof.Machine

/-! ### Votes (R228) -/

/-- The window of 64 members' votes that BALLOT reads. -/
def ballotOf (gs : List Given) (win : Nat) : BitVec 64 :=
  (gs.filterMap fun x => if x.vote then some x.mid else none).foldl (fun b m => if m / 64 = win then b ||| (1#64 <<< (m % 64)) else b) 0

theorem getLsbD_ballotOf (gs : List Given) (win : Nat) {j : Nat} (low : j < 64) :
    (ballotOf gs win).getLsbD j = gs.any fun x => x.vote && x.mid == 64 * win + j := by
  rw [ballotOf, ballot_bits _ _ _ j low, List.any_filterMap, show (0 : BitVec 64).getLsbD j = false from BitVec.getLsbD_zero, Bool.false_or]
  congr 1
  funext x
  cases x.vote <;> rfl

/-- Who has voted yes. -/
theorem voters_isEmpty (gs : List Given) :
    (!(gs.filterMap fun x => if x.vote then some x.mid else none).isEmpty) = gs.any Given.vote := by
  induction gs with
  | nil => rfl
  | cons x gs ih =>
    cases yes : x.vote
    · simpa [yes] using ih
    · simp [yes]

theorem voters_length (gs : List Given) :
    ((gs.filterMap fun x => if x.vote then some x.mid else none).length == gs.length) = gs.all Given.vote := by
  have count : (gs.filterMap fun x => if x.vote then some x.mid else none).length = gs.countP Given.vote := by
    induction gs with
    | nil => rfl
    | cons x gs ih => cases yes : x.vote <;> simp [yes, ih]
  rw [count, Bool.eq_iff_iff, beq_iff_eq, List.countP_eq_length, List.all_eq_true]

section Finish
variable {g : Given} {cycle : Nat} {gs : List Given} (bvote : g.major = 0x52)
include bvote

theorem Given.finish_ballot {d : BitVec 7} (sel : g.sel = 0) (low : g.dst = g.strand.sName d) (high : g.dst2 = g.strand.sIdx (d.toNat + 1)) :
    g.finish cycle gs = (g.strand.setPair d (ballotOf gs g.win)).retire cycle g.len := by
  unfold Given.finish
  rw [if_pos bvote, sel, low, high]
  rfl

theorem Given.finish_any {p : BitVec 3} (sel : g.sel = 1) (dst : g.dst = some p.toNat) :
    g.finish cycle gs = (g.strand.setP p (if gs.any Given.vote then 1 else 0)).retire cycle g.len := by
  unfold Given.finish
  rw [if_pos bvote, sel, dst]
  simp only [BitVec.ofNat_toNat, BitVec.setWidth_eq, voters_isEmpty, Strand.setPBit]

theorem Given.finish_all {p : BitVec 3} (sel : g.sel = 2) (dst : g.dst = some p.toNat) :
    g.finish cycle gs = (g.strand.setP p (if gs.all Given.vote then 1 else 0)).retire cycle g.len := by
  unfold Given.finish
  rw [if_pos bvote, sel, dst]
  simp only [BitVec.ofNat_toNat, BitVec.setWidth_eq, voters_length, Strand.setPBit]

end Finish

/-! ### Collectives of a strand without a bundle (R227) -/

/-- What a strand at a collective gives when it is alone. -/
def Strand.givesAlone (st : Strand) (cycle major sel : Nat) (dst dst2 : Option Nat) (win : Nat) (vote : Bool) (val : Vec) (la : Nat) (word : Word) : Given :=
  { mid := 0, major, sel, dst, dst2, win, vote, val, la, word, len := 1,
    strand := { st with blocked := some { wait := .collective major sel dst dst2 win vote val la word, len := 1, woken := false, since := cycle } } }

/-- The votes of one strand are its own bit 0. -/
theorem ballotOf_alone (g : Given) (win : Nat) (first : g.mid = 0) : ballotOf [g] win = if win = 0 ∧ g.vote = true then 1 else 0 := by
  unfold ballotOf
  cases yes : g.vote <;> by_cases zero : win = 0 <;> simp [yes, first, zero, eq_comm (a := 0)]

section Alone
variable {s : State} {st : Strand} (cur : s.curStrand = some st) (alone : st.bundle = none)
include cur alone

/-- A collective of a strand without a bundle completes at once. -/
theorem collect_finishes {i : Instr} {f : Strand → Wait} (op : exec i s = s.collect f) {major sel win la : Nat} {dst dst2 : Option Nat} {vote : Bool}
    {val : Vec} {word : Word} (gives : f st = .collective major sel dst dst2 win vote val la word) : exec i s =
      .next (s.putStrand ((st.givesAlone s.cycle major sel dst dst2 win vote val la word).finish s.cycle
        [st.givesAlone s.cycle major sel dst dst2 win vote val la word])) := by
  rw [op, State.collect_alone cur alone gives, gives]
  rfl

theorem exec_ballot_alone (d : BitVec 7) (q : BitVec 3) (w : BitVec 7) : exec (.ballot d q w) s =
    .next (s.putStrand ((st.setPair d (if w = 0 ∧ (st.p q).getLsbD 0 then 1 else 0)).retire s.cycle 1)) := by
  rw [collect_finishes cur alone (i := .ballot d q w) rfl rfl, Given.finish_ballot (d := d) rfl rfl rfl rfl, ballotOf_alone _ _ rfl]
  have zero : (w.toNat = 0) = (w = 0) := propext ⟨fun h => BitVec.eq_of_toNat_eq h, fun h => h ▸ rfl⟩
  simp only [Strand.givesAlone, zero]
  exact congrArg (fun t => Host.Outcome.next (s.putStrand t))
    ((congrArg (·.retire s.cycle 1) (st.setPair_blocked ..)).trans (Strand.retire_blocked (st.setPair ..) ..))

theorem exec_any_alone (p q : BitVec 3) : exec (.any p q) s =
    .next (s.putStrand ((st.setP p (if (st.p q).getLsbD 0 then 1 else 0)).retire s.cycle 1)) := by
  rw [collect_finishes cur alone (i := .any p q) rfl rfl, Given.finish_any (p := p) rfl rfl rfl]
  simp only [List.any_cons, List.any_nil, Bool.or_false]
  exact congrArg (fun t => Host.Outcome.next (s.putStrand t)) ((st.setP ..).retire_blocked ..)

theorem exec_all_alone (p q : BitVec 3) : exec (.all p q) s =
    .next (s.putStrand ((st.setP p (if (st.p q).getLsbD 0 then 1 else 0)).retire s.cycle 1)) := by
  rw [collect_finishes cur alone (i := .all p q) rfl rfl, Given.finish_all (p := p) rfl rfl rfl]
  simp only [List.all_cons, List.all_nil, Bool.and_true]
  exact congrArg (fun t => Host.Outcome.next (s.putStrand t)) ((st.setP ..).retire_blocked ..)

end Alone

/-- A BCOLL of a strand without a bundle gives each lane what the collective makes of that lane alone. -/
theorem coll_alone {i : Instr} {l : BitVec 4} {d a b : BitVec 7} (op : ∀ s, exec i s = coll l d a b s) {f : Nat → Res}
    (one : ∀ x, x < 2 ^ 32 → collectLane b.toNat [x] = ([(f x).1], (f x).2)) : CollectsAlone i l d a f := fun s st cur alone => by
  obtain ⟨y, lanes, later⟩ := Given.finish_alone (st.givesAlone s.cycle 0x53 b.toNat (st.vName d) none 0 false (st.v a) l.toNat (wordA 0x53 l d a b))
    s.cycle d a st _ f rfl rfl rfl rfl one
  exact ⟨_, collect_finishes cur alone (op s) rfl, y, lanes, later⟩

/-- The select of a BCOLL: its format code above its operation. -/
theorem collSelect (t : BitVec 4) (o : BitVec 3) : (t ++ o).toNat = t.toNat * 8 + o.toNat := by
  rw [BitVec.toNat_append, ← Nat.shiftLeft_add_eq_or_of_lt o.isLt, Nat.shiftLeft_eq]

/-- An operation of a BCOLL on one value: the F32 operation `f` under the format code 0, and the value itself under the others. -/
theorem collectLane_alone {t : BitVec 4} {o : BitVec 3} {f : Nat → Res} (op : 0 < o.toNat ∧ o.toNat < 5)
    (float : ∀ x, collectLane o.toNat [x] = ([(f x).1], (f x).2)) (x : Nat) (low : x < 2 ^ 32) :
    collectLane (t ++ o).toNat [x] = ([(if t = 0 then f x else (x, 0)).1], (if t = 0 then f x else (x, 0)).2) := by
  rw [collSelect]
  by_cases zero : t = 0
  · simpa [zero] using float x
  · have code : t.toNat ≠ 0 := fun h => zero (BitVec.eq_of_toNat_eq h)
    rw [if_neg zero, collectLane_int _ _ x low code op.1 op.2]

/-- A BCOLL of a member waits for the others. -/
theorem coll_waits {i : Instr} {l : BitVec 4} {d a : BitVec 7} {t : BitVec 4} {o : BitVec 3} (op : ∀ s, exec i s = coll l d a (t ++ o) s) :
    CollectsWithMembers i fun st => .collective 0x53 (t.toNat * 8 + o.toNat) (st.vName d) none 0 false (st.v a) l.toNat (wordA 0x53 l d a (t ++ o)) := by
  rw [← collSelect]
  exact fun s st cur member => ⟨_, (op s).trans (State.collect_member cur _ member), rfl⟩

/-- The instructions of BCOLL by their operation (R229). -/
theorem exec_coll {l : BitVec 4} {d a : BitVec 7} {t : BitVec 4} {o : BitVec 3} {i : Instr}
    (named : i = if o = 0 then .bcast l d a else if o = 1 then .radd l d a t else if o = 2 then .rmin l d a t
      else if o = 3 then .rmax l d a t else .scanadd l d a t) (bcast : o = 0 → t = 0) (known : o.toNat ≤ 4) (s : State) :
    exec i s = coll l d a (t ++ o) s := by
  have codes : ∀ o : BitVec 3, o.toNat ≤ 4 → o = 0 ∨ o = 1 ∨ o = 2 ∨ o = 3 ∨ o = 4 := by decide
  obtain rfl | rfl | rfl | rfl | rfl := codes o known
  · obtain rfl := bcast rfl
    rw [named]
    rfl
  all_goals
    rw [named]
    rfl

/-! ### The participants of a collective (R111, R228, R229, R350) -/

/-- Participants that are all at one collective complete together, and others raise COLL. -/
theorem State.finishCollective_agree {gs : List Given} {g : Given} (s : State)
    (agree : ∀ x ∈ gs, x.major = g.major ∧ x.sel = g.sel) :
    s.finishCollective gs = gs.foldl (fun s x => s.putStrand (x.finish s.cycle gs)) s := by
  obtain _ | ⟨x, r⟩ := gs
  · rfl
  · obtain ⟨major, sel⟩ := agree x List.mem_cons_self
    refine if_pos (List.all_eq_true.mpr fun y rest => ?_)
    obtain ⟨major', sel'⟩ := agree y (List.mem_cons_of_mem _ rest)
    simp [major, sel, major', sel']

theorem State.finishCollective_differ {gs : List Given} {g : Given} (member : g ∈ gs) (s : State)
    (differ : ∃ x ∈ gs, x.major ≠ g.major ∨ x.sel ≠ g.sel) : s.finishCollective gs =
      gs.foldl (fun s x => s.raise { x.strand with blocked := none } (1 <<< 34) (x.word.zeroExtend 64)) s := by
  obtain _ | ⟨x, r⟩ := gs
  · rfl
  · refine if_neg fun same => ?_
    have first : ∀ y ∈ x :: r, y.major = x.major ∧ y.sel = x.sel := fun y inside => by
      obtain rfl | rest := List.mem_cons.mp inside
      · exact ⟨rfl, rfl⟩
      · simpa using List.all_eq_true.mp same y rest
    obtain ⟨y, inside, other⟩ := differ
    obtain ⟨major, sel⟩ := first y inside
    obtain ⟨major', sel'⟩ := first g member
    simp [major, sel, major', sel'] at other

section Members
variable {gs : List Given} {g : Given} {cycle : Nat} {d : BitVec 7} (member : g ∈ gs) (bcoll : g.major = 0x53) (dst : g.dst = g.strand.vName d)
include member bcoll dst

/-- A participant of a BCOLL whose result is the same for all, without flags. -/
theorem Given.finish_same {y : Vec} {r : Nat → Nat}
    (results : ∀ i < 8, collectLane g.sel (gs.map fun x => (lane x.val i).toNat) = (List.replicate gs.length (r i), 0))
    (value : ∀ i < 8, BitVec.ofNat 32 (r i) = lane y i) :
    g.strand.Later (g.finish cycle gs) cycle (g.strand.past g.len) g.la (entryV g.strand d y 0) :=
  g.finish_coll cycle gs d y bcoll dst (fun i low => by rw [results i low]) fun i low => by
    rw [results i low, replicate_getD (findIdx_mid_lt gs g member), value i low]

/-- BCAST gives every participant the first one's vector. -/
theorem Given.finish_bcast (sel : g.sel = 0) : ∃ y : Vec, (∀ x r, gs = x :: r → ∀ i < 8, lane y i = lane x.val i) ∧
    g.strand.Later (g.finish cycle gs) cycle (g.strand.past g.len) g.la (entryV g.strand d y 0) := by
  obtain _ | ⟨x, r⟩ := gs
  · cases member
  · refine ⟨x.val, fun z r' cons i _ => (List.cons.inj cons).1 ▸ rfl,
      Given.finish_same member bcoll dst (r := fun i => (lane x.val i).toNat) (fun i _ => ?_) fun i _ => by simp⟩
    rw [sel]
    simp [collectLane]

/-- RADD of integers gives every participant the sum of the lanes. -/
theorem Given.finish_radd (sel : g.sel = 6 * 8 + 1 ∨ g.sel = 7 * 8 + 1) : ∃ y : Vec, (∀ i < 8, lane y i = (gs.map fun x => lane x.val i).sum) ∧
    g.strand.Later (g.finish cycle gs) cycle (g.strand.past g.len) g.la (entryV g.strand d y 0) := by
  refine ⟨ofLanes fun i => (gs.map fun x => lane x.val i).sum, fun i low => lane_ofLanes _ _ low,
    Given.finish_same member bcoll dst (r := fun i => (gs.map fun x => lane x.val i).sum.toNat) (fun i low => ?_) fun i low => by
      rw [lane_ofLanes _ _ low, BitVec.ofNat_toNat, BitVec.setWidth_eq]⟩
  obtain _ | ⟨x, r⟩ := gs
  · cases member
  · obtain sel | sel := sel
    all_goals
      rw [sel]
      simp [collectLane, wordSum_fold, Function.comp_def]

end Members

/-- Settles O33: a strand without a bundle is a set of one (`collect_finishes`), a member waits, and the participants of a collective end as their
votes or lanes together say (`Given.finish_ballot` and its like), or raise COLL. -/
theorem collectivesCombineTheMembers : Obligations.CollectivesCombineTheMembers := by
  refine ⟨fun l d a w t p q => ?_, fun gs g cycle d member => ⟨?_, ?_, ?_, ?_, ?_, ?_, ?_⟩⟩
  · refine ⟨fun s st cur alone => ⟨_, exec_ballot_alone cur alone d q w, st.wrotePair_retire ..⟩,
      fun s st cur alone => ⟨_, exec_any_alone cur alone p q, st.wroteP_retire0 ..⟩,
      fun s st cur alone => ⟨_, exec_all_alone cur alone p q, st.wroteP_retire0 ..⟩,
      coll_alone (fun _ => rfl) fun x low => ?_, coll_alone (fun _ => rfl) (collectLane_alone (by decide) fun x => rfl),
      coll_alone (fun _ => rfl) (collectLane_alone (by decide) fun x => rfl), coll_alone (fun _ => rfl) (collectLane_alone (by decide) fun x => rfl),
      coll_alone (fun _ => rfl) (collectLane_alone (by decide) fun x => ?_), ?_, ?_, ?_, ?_⟩
    · rfl
    · simp [collectLane, scanF32]
    · exact fun s st cur mem => ⟨_, State.collect_member cur _ mem, rfl⟩
    · exact fun s st cur mem => ⟨_, State.collect_member cur _ mem, rfl⟩
    · exact fun s st cur mem => ⟨_, State.collect_member cur _ mem, rfl⟩
    · exact fun o i hi bcast low => coll_waits (exec_coll hi bcast low)
  · exact fun major sel low high => ⟨ballotOf gs g.win, fun j hj => getLsbD_ballotOf gs g.win hj,
      Given.finish_ballot major sel low high ▸ g.strand.wrotePair_retire ..⟩
  · exact fun p major sel dst => Given.finish_any major sel dst ▸ g.strand.wroteP_retire0 ..
  · exact fun p major sel dst => Given.finish_all major sel dst ▸ g.strand.wroteP_retire0 ..
  · exact fun major sel dst => Given.finish_bcast member major dst sel
  · exact fun major sel dst => Given.finish_radd member major dst sel
  · exact State.finishCollective_agree
  · exact State.finishCollective_differ member

end Sys2Proof.Machine
end

section
namespace Sys2Proof.Machine

/-! ### Markers (R65, R316, R317) -/

section Markers
variable {s : State} {key : Nat} {t : Task}

variable (found : s.task? key = some t)
include found

theorem exec_frameToken (ready : s.markerReady t 1 = true) : exec (.frameToken key) s =
    .next ((State.flushAll (State.frameQueues { s with hg := { s.hg with frame := s.hg.frame + 1 } })).finishNow key 0) := by
  refine congrArg Host.Outcome.next ?_
  unfold State.processFrame
  rw [found]
  exact if_pos ready

theorem exec_traceStop (ready : s.markerReady t 3 = true) : exec (.traceStop key) s =
    .next ((if s.trace.opened && s.trace.fromSpawn = t.spawned then s.traceStopping t.id else s).finishNow key 0) := by
  refine congrArg Host.Outcome.next ?_
  unfold State.processStop
  rw [found]
  exact if_neg (by simp [ready])

variable (ready : s.markerReady t 2 = true)
include ready

/-- A START that is ready, by the debug state and the window that stands open. -/
theorem exec_traceStart : exec (.traceStart key) s =
    .next (if s.mg.dbg = 0 then s.finishNow key 0 else if s.trace.opened then s.traceStopping t.id else s.traceOpen t) := by
  refine congrArg Host.Outcome.next ?_
  have off : s.mg.dbg.toNat % 4 = 0 ↔ s.mg.dbg = 0 := by
    have := s.mg.dbg.isLt
    exact ⟨fun h => BitVec.eq_of_toNat_eq (by simp; omega), fun h => by simp [h]⟩
  unfold State.processStart
  rw [found]
  simp only [ready, off, Bool.not_true, Bool.false_eq_true, if_false]
  rfl

end Markers

/-- A START whose control record can be read and written opens its window. -/
theorem State.traceOpen_opens {s v w x : State} {t : Task} {ctrl : Nat} {bs : List Byte} (hctrl : ctrl = TaskRec.entry t.record)
    (read : s.hgRead 0 0 0 ctrl 64 = .ok v bs) (aligned : ctrl % 64 = 0) (head : v.unitWrite 0 none 0 0 0 (ctrl + 40) (natBytesLE 4 0) = .ok w ())
    (lost : w.unitWrite 0 none 0 0 0 (ctrl + 48) (natBytesLE 4 0) = .ok x ()) : s.traceOpen t = (({ x.gxRelease with
      trace := { Trace.reset with opened := true, ctrl := ctrl, base := bitsNat (bytesNat bs) 56 0, size := max (bitsNat (bytesNat bs) 159 128) 1,
                                  sper := bitsNat (bytesNat bs) 287 256, task := t.id, queueAdmits := true, fromSpawn := t.spawned }
      cores := x.gxRelease.cores.map fun (q : (Nat × Nat) × Core) => (q.1, { q.2 with sampleCount := 0 }) } : State).traceDevice 4 t.id.toNat 0).finishNow t.key 0 := by
  subst hctrl
  unfold State.traceOpen
  simp only [aligned, read, head, lost, bne_self_eq_false, Bool.false_eq_true, if_false]
  rfl

theorem State.finishNow_some {s : State} {key status : Nat} {k : Task} (found : (s.finish key status).task? key = some k) :
    s.finishNow key status = (s.finish key status).completeTask k := by
  unfold State.finishNow
  dsimp only
  rw [found]

/-! ### Debug halts (R323, R395) -/

section Halts
variable {s : State} {v : BitVec 64} (owner : s.mgMay 3 = true)
include owner

theorem exec_mgHalt (halt : v.getLsbD 63 = false) : exec (.mgHalt 3 v) s = .next (s.leaveIdle.haltTask (v.toNat % 2 ^ 32)) :=
  congrArg Host.Outcome.next (if_pos (by rw [owner, halt]; rfl))

theorem exec_mgHaltResume (resume : v.getLsbD 63 = true) : exec (.mgHaltResume 3 v) s = .next (s.leaveIdle.askResume (v.toNat % 2 ^ 32)) :=
  congrArg Host.Outcome.next (if_pos (by rw [owner, resume]; rfl))

end Halts

theorem State.leaveIdle_captures (s : State) : s.leaveIdle.captures = s.captures := by
  obtain ⟨p, m, h⟩ := s.leaveIdle_only
  rw [h]

theorem State.leaveIdle_dbg (s : State) : s.leaveIdle.mg.dbg = s.mg.dbg := by
  rw [s.leaveIdle_rest.2.2]

/-- Leaving idle leads to no retention. -/
theorem State.leaveIdle_retains (s : State) : s.leaveIdle.mg.pwrCur = 2 ↔ s.mg.pwrCur = 2 := by
  by_cases idle : s.mg.pwrCur = 1
  · rw [State.leaveIdle, if_pos idle, State.setPower_mg, idle]
    exact iff_of_false (show (0 : BitVec 2) ≠ 2 by decide) (by decide)
  · rw [State.leaveIdle_awake idle]

section Halted
variable {s : State} {id : Nat} {t : Task} (invasive : s.mg.dbg = 2)
include invasive

/-- MG_HALT asks for the capture of the task, unless the task is halted. -/
theorem State.haltTask_named (named : s.hg.tasks.find? (fun t => t.id.toNat = id && t.state != .finishing && t.state != .ending) = some t) :
    s.haltTask id = if t.halted then s else s.askCapture 0 t.key 0 := by
  unfold State.haltTask
  rw [if_neg (not_not_intro invasive), named]

/-- A resume names a halted task, and is held in retention. -/
theorem State.askResume_named (named : s.hg.tasks.find? (fun t => t.id.toNat = id && t.halted) = some t) :
    s.askResume id = if s.mg.pwrCur = 2 then { s with mg := { s.mg with resumes := s.mg.resumes ++ [t.key] } } else s.resumeTask t := by
  unfold State.askResume
  rw [if_neg (not_not_intro invasive), named]

end Halted

/-! ### The end of a task and its dump (R349, R373, R396, R397, R399) -/

section Ends
variable {s : State} {key : Nat} {t : Task} (found : s.task? key = some t)
include found

theorem exec_taskEnd (ending : t.state = .ending) : exec (.taskEnd key) s = .next (s.endStep t) := by
  refine congrArg Host.Outcome.next ?_
  rw [found]
  exact if_pos ending

theorem exec_dumpWrite (due : s.dumpDue t = true) (ready : (s.removeQueued key).endReady t = true) :
    exec (.dumpWrite key) s = .next ((s.removeQueued key).writeDump t) := by
  refine congrArg Host.Outcome.next ?_
  rw [found]
  exact if_pos (by rw [due, ready]; rfl)

end Ends

section EndStep
variable {s v : State} {t : Task} (queued : v = s.removeQueued t.key)
include queued

/-- A task whose strands still run, or whose dump is due, only loses its queued commands. -/
theorem State.endStep_waits (waits : v.endReady t = false ∨ v.dumpDue t = true) : s.endStep t = v := by
  subst queued
  refine if_pos ?_
  obtain h | h := waits <;> simp [h]

variable (ready : v.endReady t = true) (dumped : v.dumpDue t = false)
include ready dumped

/-- A task that has ended is launched again after a soft error while it may be, and else completes. -/
theorem State.endStep_ends : s.endStep t =
    if t.status = 4 ∧ TaskRec.idem t.record = true ∧ t.relaunches < bitsNat (v.clearTask t).hg.serr.toNat 11 8 then
      (match (v.clearTask t).task? t.key with | some x => (v.clearTask t).relaunch x | none => v.clearTask t)
    else (v.clearTask t).finish t.key t.status := by
  subst queued
  refine (if_neg (by simp [ready, dumped])).trans ?_
  simp only [Bool.and_eq_true, decide_eq_true_eq, and_assoc] <;> rfl

end EndStep

/-- Settles O55: markers by what stands open, halts and resumes by the task they name, the end of a task by its strands, its dump and its status, and
a dump by its room. -/
theorem markersHaltsAndEnds : Obligations.MarkersHaltsAndEnds := by
  rintro s u rfl
  refine ⟨fun key t found => ⟨exec_frameToken found, fun ready => ?_, fun ready => ⟨fun off => ?_, fun on stands => ?_, ?_⟩⟩,
    fun key status k => State.finishNow_some, fun v booted own invasive id hid => ?_,
    fun key t v found ending queued => ⟨fun waits => ?_, fun ready dumped => ⟨fun other => ?_, fun soft w x hw => ⟨?_, ?_⟩⟩, ?_⟩⟩
  · refine (exec_traceStop found ready).trans ?_
    simp only [State.traceStopping, Bool.and_eq_true, decide_eq_true_eq]
    grind
  · rw [exec_traceStart found ready, if_pos off]
  · rw [exec_traceStart found ready, if_neg on, if_pos stands]
    rfl
  · rintro on closed ctrl r v w x bs hctrl read rfl aligned head lost y z rfl rfl
    rw [exec_traceStart found ready, if_neg on, if_neg (by simp [closed]), State.traceOpen_opens hctrl read aligned head lost, State.task?_key found]
    rfl
  · have owner := State.mgMay_owner booted own
    have invasive' := s.leaveIdle_dbg.trans invasive
    have hg := s.leaveIdle_rest.2.1
    refine ⟨fun t halt named => ⟨?_, ?_⟩, fun t resume named => ⟨?_, ?_⟩⟩
    · intro halted
      rw [exec_mgHalt owner halt, State.haltTask_named invasive' (by rwa [hg, ← hid]), if_pos halted]
    · intro halted new
      have unasked : (⟨0, t.key, 0⟩ : Capture) ∉ s.leaveIdle.captures := fun asked => new _ (s.leaveIdle_captures ▸ asked) ⟨rfl, rfl, rfl⟩
      rw [exec_mgHalt owner halt, State.haltTask_named invasive' (by rwa [hg, ← hid]), if_neg (by simp [halted]), State.askCapture_new unasked,
        s.leaveIdle_captures]
    · intro retains
      have awake : s.leaveIdle = s := State.leaveIdle_awake (by rw [retains]; decide)
      rw [exec_mgHaltResume owner resume, awake, State.askResume_named invasive (by rwa [← hid]), if_pos retains]
    · intro active
      have resumed := exec_mgHaltResume owner resume
      rw [State.askResume_named invasive' (by rwa [hg, ← hid]), if_neg (mt s.leaveIdle_retains.mp active)] at resumed
      refine ⟨fun w wait => ?_, fun w bs old new read => ?_⟩
      · rw [resumed, State.resumeTask, wait]
      · rintro rfl rfl x rfl
        rw [resumed, State.resumeTask, read]
  · rw [exec_taskEnd found ending, State.endStep_waits (State.task?_key found ▸ queued) waits]
  · rw [exec_taskEnd found ending, State.endStep_ends (State.task?_key found ▸ queued) ready dumped, if_neg (by simp [other]), State.task?_key found]
  · intro last
    rw [exec_taskEnd found ending, State.endStep_ends (State.task?_key found ▸ queued) ready dumped, if_neg ?_, State.task?_key found, soft, hw]
    rintro ⟨-, idem, more⟩
    rw [hw] at last
    obtain not | full := last
    · simp [idem] at not
    · omega
  · intro idem more again
    subst hw
    rw [exec_taskEnd found ending, State.endStep_ends (State.task?_key found ▸ queued) ready dumped, if_pos ⟨soft, idem, more⟩, State.task?_key found, again]
  · rintro due ready next room base done rfl rfl rfl rfl
    subst queued
    have run := exec_dumpWrite found due ready
    obtain rfl := State.task?_key found
    refine ⟨fun short => ?_, ?_⟩
    · rw [run, State.writeDump]
      exact congrArg _ (if_pos short)
    · rintro fits l len trunc h put x y sections rfl rfl rfl rfl adv rfl
      rw [run, State.writeDump]
      dsimp only
      rw [if_neg (Nat.not_lt.mpr fits), sections]

end Sys2Proof.Machine
end

section
namespace Sys2Proof.Machine

/-! ### A task accepted (R52, R352) -/

/-- The state with a new task, last in the list; `seq` is the counter of the pool's order. -/
def State.joined (s : State) (x : Task) (seq : Nat) : State :=
  { s with hg := { s.hg with nextKey := s.hg.nextKey + 1, nextId := nextIdOf s.hg.nextId, tasks := s.hg.tasks ++ [x], poolSeq := seq } }

section Joined
variable {s : State} (fresh : ∀ z ∈ s.hg.tasks, z.key < s.hg.nextKey) {x : Task} (key : x.key = s.hg.nextKey) {seq : Nat}
include fresh key

theorem State.joined_task? : (s.joined x seq).task? s.hg.nextKey = some x := by
  have others : s.hg.tasks.find? (fun t => t.key = s.hg.nextKey) = none :=
    List.find?_eq_none.mpr fun z member => by simpa using (fresh z member).ne
  simp [State.task?, State.joined, List.find?_append, others, key]

theorem State.joined_mapTask (f : Task → Task) : (s.joined x seq).mapTask s.hg.nextKey f = s.joined (f x) seq := by
  have others : s.hg.tasks.map (fun t => if t.key = s.hg.nextKey then f t else t) = s.hg.tasks :=
    (List.map_congr_left (g := id) fun z member => if_neg (fresh z member).ne).trans (List.map_id _)
  simp [State.mapTask, State.joined, others, key]

theorem State.joined_finish (status : Nat) : (s.joined x seq).finish s.hg.nextKey status =
    s.joined { x with state := .finishing, status := status, relId := s.nextId, poolSeq := seq } seq :=
  State.joined_mapTask fresh key _

/-- A task that has joined and becomes ready. -/
theorem State.joined_readyTask : ∃ spilled, (s.joined x seq).readyTask s.hg.nextKey = s.joined
    { x with state := .ready, credit := 0, creditAt := s.cycle, poolSeq := seq, firstAt := 0, spilled := spilled } (seq + 1) := by
  unfold State.readyTask
  dsimp only
  rw [State.joined_mapTask fresh key]
  exact ⟨_, rfl⟩

/-- A task that has joined and starts at once. -/
theorem State.joined_startKernel (fast : Bool) : (s.joined x seq).startKernel s.hg.nextKey fast = s.joined
    { x with state := .dispatched x.split.1 x.split.2, poolSeq := seq, fast := fast, spilled := false, credit := 0 } (seq + 1) := by
  unfold State.startKernel
  dsimp only
  rw [State.joined_mapTask fresh key]
  rfl

end Joined

/-- What an accepted task without tiles becomes (R52, R63, R352). -/
structure State.Admits (s : State) (r : TaskRec) (x : Task) : Prop where
  names : x.key = s.hg.nextKey ∧ x.id = s.hg.nextId ∧ x.record = r
  fields : x.pdom = TaskRec.pdom r ∧ x.partid = TaskRec.partid r ∧ x.prio = TaskRec.prio r ∧ x.epoch = TaskRec.epoch r ∧ x.accepted = s.cycle
  rejected : s.recordReason r ≠ 0 → x.state = .finishing ∧ x.status = 2 ∧ x.reason = s.recordReason r
  cancelled : s.recordReason r = 0 → x.epoch ≠ 0 ∧ (s.epochState x.epoch = 2 ∨ s.epochState x.epoch = 4) → x.state = .finishing ∧ x.status = 1
  node : s.recordReason r = 0 → ¬ (x.epoch ≠ 0 ∧ (s.epochState x.epoch = 2 ∨ s.epochState x.epoch = 4)) → TaskRec.graph r = true →
    TaskRec.npred r ≠ 0 → x.state = .node (TaskRec.npred r)
  ready : s.recordReason r = 0 → ¬ (x.epoch ≠ 0 ∧ (s.epochState x.epoch = 2 ∨ s.epochState x.epoch = 4)) →
    TaskRec.graph r = false ∨ TaskRec.npred r = 0 → x.state = .ready ∨ TaskRec.kind r = 0 ∧ x.state = .dispatched x.split.1 x.split.2

section Accept
variable {s : State} (fresh : ∀ z ∈ s.hg.tasks, z.key < s.hg.nextKey) {r : TaskRec} {x : Task} {seq : Nat} (key : x.key = s.hg.nextKey) (named : x.id = s.hg.nextId)
  (record : x.record = r)
  (fields : x.pdom = TaskRec.pdom r ∧ x.partid = TaskRec.partid r ∧ x.prio = TaskRec.prio r ∧ x.epoch = TaskRec.epoch r ∧ x.accepted = s.cycle)
include fresh key named record fields

/-- A rejected record's task has nothing left but its completion with STATUS 2. -/
theorem State.reject_admits (bad : s.recordReason r ≠ 0) :
    ∃ y seq', (s.joined x seq).reject s.hg.nextKey (s.recordReason r) = s.joined y seq' ∧ s.Admits r y := by
  unfold State.reject
  rw [State.joined_mapTask fresh key, State.joined_finish fresh (by exact key)]
  exact ⟨_, _, rfl, ⟨key, named, record⟩, fields, fun _ => ⟨rfl, rfl, rfl⟩, fun ok => absurd ok bad, fun ok => absurd ok bad, fun ok => absurd ok bad⟩

/-- A good record's task is cancelled with its epoch, waits at its node, starts at once, or is ready. -/
theorem State.enroll_admits (good : s.recordReason r = 0) : ∃ y seq', (s.joined x seq).enroll x = s.joined y seq' ∧ s.Admits r y := by
  have epochs : ∀ e, (s.joined x seq).epochState e = s.epochState e := fun _ => rfl
  have admits : ∀ y : Task, y.key = s.hg.nextKey ∧ y.id = s.hg.nextId ∧ y.record = r →
      y.pdom = TaskRec.pdom r ∧ y.partid = TaskRec.partid r ∧ y.prio = TaskRec.prio r ∧ y.epoch = TaskRec.epoch r ∧ y.accepted = s.cycle → _ → _ → _ → s.Admits r y :=
    fun y names fields cancelled node ready => ⟨names, fields, fun bad => absurd good bad, fun _ => cancelled, fun _ => node, fun _ => ready⟩
  unfold State.enroll
  simp only [epochs, key, record, Bool.and_eq_true, Bool.or_eq_true, decide_eq_true_eq, bne_iff_ne, ne_eq]
  split
  case isTrue closed =>
    rw [State.joined_finish fresh key]
    exact ⟨_, _, rfl, admits _ ⟨key, named, record⟩ fields (fun _ => ⟨rfl, rfl⟩) (fun opened => absurd closed opened) fun opened => absurd closed opened⟩
  case isFalse opened =>
    split
    case isTrue node =>
      rw [State.joined_mapTask fresh key]
      exact ⟨_, _, rfl, admits _ ⟨key, named, record⟩ fields (fun closed => absurd closed opened) (fun _ _ _ => rfl)
        fun _ free => by obtain h | h := free <;> simp [h] at node⟩
    case isFalse free =>
      have settled : ∀ y : Task, y.state = .ready ∨ TaskRec.kind r = 0 ∧ y.state = .dispatched y.split.1 y.split.2 → y.epoch = x.epoch →
          y.key = s.hg.nextKey ∧ y.id = s.hg.nextId ∧ y.record = r →
          y.pdom = TaskRec.pdom r ∧ y.partid = TaskRec.partid r ∧ y.prio = TaskRec.prio r ∧ y.epoch = TaskRec.epoch r ∧ y.accepted = s.cycle → s.Admits r y :=
        fun y state epoch names fields => admits y names fields (fun closed => absurd (epoch ▸ closed) opened)
          (fun _ graph preds => absurd ⟨graph, preds⟩ free) fun _ _ => state
      generalize (if x.split.1.isEmpty = true then 2 else 1) = die
      split
      case isTrue fast =>
        obtain ⟨⟨⟨⟨⟨-, -⟩, kind⟩, -⟩, -⟩, -⟩ := fast
        exact ⟨_, _, State.joined_startKernel fresh key true, settled _ (.inr ⟨kind, rfl⟩) rfl ⟨key, named, record⟩ fields⟩
      case isFalse =>
        obtain ⟨spilled, joins⟩ := State.joined_readyTask fresh key (seq := seq)
        exact ⟨_, _, joins, settled _ (.inl rfl) rfl ⟨key, named, record⟩ fields⟩

end Accept

/-- A record without tiles is accepted: the task joins the others, and nothing else changes but the counters. -/
theorem State.accept_joins {s : State} (fresh : ∀ z ∈ s.hg.tasks, z.key < s.hg.nextKey) {r : TaskRec} (bare : r.ntile = 0) (addr : Nat)
    (spawner : Option Strand) (launch : Bool) : ∃ x seq, s.accept r addr spawner false launch = (s.hg.nextId, s.joined x seq) ∧ s.Admits r x := by
  have accepted : s.accept r addr spawner false launch = (s.hg.nextId,
      if s.recordReason r = 0 then (s.joined (Task.fresh s.hg.nextKey s.hg.nextId r addr s.cycle (s.hg.frame.toNat % 2 ^ 16) spawner.isSome (s.tracedNow spawner launch))
        s.hg.poolSeq).tryAdmit s.hg.nextKey
      else (s.joined (Task.fresh s.hg.nextKey s.hg.nextId r addr s.cycle (s.hg.frame.toNat % 2 ^ 16) spawner.isSome (s.tracedNow spawner launch))
        s.hg.poolSeq).reject s.hg.nextKey (s.recordReason r)) := rfl
  rw [accepted]
  by_cases good : s.recordReason r = 0
  · have admitted : ∀ x : Task, x.key = s.hg.nextKey → x.record = r → x.state = .accepted → ∀ seq, (s.joined x seq).tryAdmit s.hg.nextKey = (s.joined x seq).enroll x := by
      intro x key record state seq
      unfold State.tryAdmit
      rw [State.joined_task? fresh key]
      simp [state, record, bare]
    rw [if_pos good, admitted _ rfl rfl rfl]
    obtain ⟨y, seq, joins, admits⟩ := State.enroll_admits fresh (x := Task.fresh _ _ r addr s.cycle _ _ _) rfl rfl rfl ⟨rfl, rfl, rfl, rfl, rfl⟩ good
    exact ⟨y, seq, Prod.ext rfl joins, admits⟩
  · rw [if_neg good]
    obtain ⟨y, seq, joins, admits⟩ := State.reject_admits fresh (x := Task.fresh _ _ r addr s.cycle _ _ _) rfl rfl rfl ⟨rfl, rfl, rfl, rfl, rfl⟩ good
    exact ⟨y, seq, Prod.ext rfl joins, admits⟩

/-! ### TSPAWN, TSIGNAL and TQRD (R53, R65, R289 to R291) -/

/-- The reason for a record's rejection rests on the Headgate and the configuration. -/
theorem State.recordReason_congr {s t : State} (hg : t.hg = s.hg) (mg : t.mg = s.mg) (r : TaskRec) : t.recordReason r = s.recordReason r := by
  unfold State.recordReason State.nodeTask State.poolCount State.spillRoom State.spillCount
  rw [hg, mg]

theorem State.epochState_congr {s t : State} (hg : t.hg = s.hg) (e : Nat) : t.epochState e = s.epochState e := by
  unfold State.epochState
  rw [hg]

theorem State.Admits.congr {s t : State} {r : TaskRec} {x : Task} (admits : t.Admits r x) (hg : t.hg = s.hg) (mg : t.mg = s.mg) (cycle : t.cycle = s.cycle) :
    s.Admits r x := by
  obtain ⟨names, fields, rejected, cancelled, node, ready⟩ := admits
  simp only [hg, cycle, State.recordReason_congr hg mg, State.epochState_congr hg] at names fields rejected cancelled node ready
  exact ⟨names, fields, rejected, cancelled, node, ready⟩

section Spawn
variable {s : State} {st : Strand} (cur : s.curStrand = some st) {d a k : BitVec 7}
include cur

/-- TSPAWN and TSIGNAL stand while writes of their core are unacknowledged, TSPAWN also behind a marker. -/
theorem exec_tspawn_stands (stands : s.drainWait st = true ∨ s.spawnWaits st = true) :
    exec (.tspawn d a) s = .next (s.putStrand (st.standsAgain s.cycle)) :=
  (State.onStrand_some cur _).trans (congrArg Host.Outcome.next (if_pos (by simpa using stands)))

theorem exec_tsignal_stands (stands : s.drainWait st = true) : exec (.tsignal a) s = .next (s.putStrand (st.standsAgain s.cycle)) :=
  (State.onStrand_some cur _).trans (congrArg Host.Outcome.next (if_pos stands))

theorem exec_tsignal_signals (drained : s.drainWait st = false) :
    exec (.tsignal a) s = .next ((s.signalNode ((st.s a).toNat % 2 ^ 18) st.pdom.toNat).putStrand (st.retire s.cycle 1)) :=
  (State.onStrand_some cur _).trans (congrArg Host.Outcome.next (if_neg (by simp [drained])))

/-- TSPAWN submits the record that it has read. -/
theorem exec_tspawn_accepts (drained : s.drainWait st = false) (goes : s.spawnWaits st = false) {f : State} {bs : List Byte}
    (read : s.readRecord st [((st.pairAddr a).toNat, 64)] = .ok f bs) : exec (.tspawn d a) s =
      .next ((f.accept (st.spawnRecord (BitVec.ofNat 512 (bytesNat bs))) (st.pairAddr a).toNat (some st) false false).2.putStrand
        ((st.setS d (f.accept (st.spawnRecord (BitVec.ofNat 512 (bytesNat bs))) (st.pairAddr a).toNat (some st) false false).1).retire
          (f.accept (st.spawnRecord (BitVec.ofNat 512 (bytesNat bs))) (st.pairAddr a).toNat (some st) false false).2.cycle 1)) := by
  refine (State.onStrand_some cur _).trans (congrArg Host.Outcome.next ((if_neg (by simp [drained, goes])).trans ?_))
  dsimp only
  rw [read]

end Spawn

/-- A marker of the strands' queue holds a submission back, unless the submitting task is traced. -/
theorem State.spawnWaits_iff (s : State) (st : Strand) : s.spawnWaits st = true ↔
    (∃ x ∈ s.hg.tasks, x.state = .ready ∧ TaskRec.kind x.record = 3 ∧ TaskRec.graph x.record = false ∧ x.spawned = true) ∧
      ∀ x, s.task? st.task = some x → x.traced = false := by
  unfold State.spawnWaits State.markerStands
  cases s.task? st.task <;> simp [and_assoc]

theorem State.drained_iff (s : State) (st : Strand) : s.drained st 1 2 ↔ s.drainWait st = false := by
  simp [State.drained, State.drainWait]

/-- The decrement of an installed node of the domain (R53). -/
theorem State.signalNode_counts {s : State} {n pdom m : Nat} {x : Task} (installed : s.nodeTask n = some x) (mine : x.pdom = pdom) (count : x.state = .node m) :
    s.signalNode n pdom = if 1 < m then s.mapTask x.key (fun y => { y with state := .node (m - 1) }) else s.readyTask x.key := by
  unfold State.signalNode State.decNode Task.nodeCount
  by_cases last : m ≤ 1
  · simp [installed, mine, count, last, Nat.not_lt.mpr last]
  · simp [installed, mine, count, last, Nat.lt_of_not_le last]

/-- What TQRD reads of a queue that the queue table holds (R291). -/
theorem State.tqrd_queue {s : State} {n k : Nat} {q : WorkQueue} (found : s.queue? n = some q) (held : n < s.hg.qtcount.toNat) :
    s.tqrd n k = if k = 2 then s.hg.frame.toNat % 2 ^ 32 else if k = 0 then q.r else if q.r = 0 then 0 else min ((s.cycle - q.oldestAt) / 64) (2 ^ 32 - 1) := by
  unfold State.tqrd
  rw [found, if_neg (Nat.not_le.mpr held)]

theorem exec_tqrd {s : State} {st : Strand} (cur : s.curStrand = some st) {d a k : BitVec 7} {q : WorkQueue}
    (found : s.queue? ((st.s a).toNat % 2 ^ 12) = some q) (held : (st.s a).toNat % 2 ^ 12 < s.hg.qtcount.toNat) : exec (.tqrd d a k) s =
      .next (s.putStrand ((st.setS d (BitVec.ofNat 32 (if k = 2 then s.hg.frame.toNat % 2 ^ 32 else if k = 0 then q.r else if q.r = 0 then 0
        else min ((s.cycle - q.oldestAt) / 64) (2 ^ 32 - 1)))).retire s.cycle 1)) := by
  have frame : k.toNat = 2 ↔ k = 2 := ⟨fun h => BitVec.eq_of_toNat_eq h, fun h => h ▸ rfl⟩
  have records : k.toNat = 0 ↔ k = 0 := ⟨fun h => BitVec.eq_of_toNat_eq h, fun h => h ▸ rfl⟩
  have run : exec (.tqrd d a k) s = .next (s.putStrand ((st.setS d (BitVec.ofNat 32 (s.tqrd ((st.s a).toNat % 2 ^ 12) k.toNat))).retire s.cycle 1)) :=
    State.onStrand_some cur _
  rw [run, State.tqrd_queue found held]
  simp only [frame, records]

/-- Settles O40: TSPAWN by whether it stands (`exec_tspawn_stands`) and by what its record is accepted as (`State.accept_joins`), TSIGNAL by the node,
TQRD by the queue. -/
theorem tasksAreSpawnedAndSignalled : Obligations.TasksAreSpawnedAndSignalled := by
  rintro d a k s st cur held rfl
  rw [← State.spawnWaits_iff]
  simp only [State.drained_iff]
  refine ⟨fun pa v w r drained goes place plain low high hr bare fresh => ?_, fun drained => ⟨_, exec_tsignal_signals cur drained, st.retire_moved ..⟩,
    fun n x installed mine m count => State.signalNode_counts installed mine count, fun undrained i member => ?_, fun marker => exec_tspawn_stands cur (.inr marker),
    fun n q hn found held _ => ⟨_, ?_, st.wroteS_retire ..⟩⟩
  · rw [← Strand.pairAddr_toNat] at place
    obtain ⟨f, wrote, read⟩ := State.readRecord_wide place plain low high
    have hg : f.hg = s.hg := by rw [wrote.rest]; rfl
    have mg : f.mg = s.mg := by rw [wrote.rest]; rfl
    rw [← bytesNat_two] at hr
    obtain ⟨x, seq, accepted, admits⟩ := State.accept_joins (s := f) (hg ▸ fresh) bare (st.pairAddr a).toNat (some st) false
    have run := exec_tspawn_accepts cur (d := d) drained (by simpa using goes) read
    rw [← hr, accepted, hg] at run
    obtain ⟨⟨key, id, record⟩, ⟨pdom, partid, prio, epoch, cycle⟩, rejected, cancelled, node, ready⟩ := admits.congr hg mg wrote.cycle
    refine ⟨f, _, _, x, run, wrote, ?_, ?_, key, id, record, pdom, partid, prio, epoch, cycle, rejected, cancelled, node, ready⟩
    · rw [State.joined, hg]
    · exact wrote.cycle ▸ st.wroteS_retire ..
  · have full : s.drainWait st = true := by simpa using undrained
    simp only [List.mem_cons, List.not_mem_nil, or_false] at member
    obtain rfl | rfl := member
    · exact exec_tspawn_stands cur (.inl full)
    · exact exec_tsignal_stands cur full
  · subst hn
    exact exec_tqrd cur found held

end Sys2Proof.Machine
end

section
namespace Sys2Proof.Machine

/-! ### Register writes of the masters (R60, R272, R303 to R305) -/

/-- What a write that is taken does to the register at a place, MST_OWN apart. -/
def State.writePlace (s : State) (p : RegPlace) (v : BitVec 64) : State :=
  match p with
  | .hg o => s.writeHg o v
  | .fl o => s.writeFl o v
  | .mst o => if o = 8 then { s with port := { s.port with hand := v.toNat % 4 } } else if o = 0x40 then s.writeIrq v else s
  | .az o => s.writeAz o v
  | .lease => { s with gx := { s.gx with leaseRdc := v &&& 0xFFFFFFFF } }
  | .dh n o => s.mapHead n fun h => h.write o v
  | .ptroot n => s.writePtroot n v
  | .core d c n => s.csrPutUnit d c n v
  | .die d n => s.csrPutUnit d 0 n v
  | .none => s

section Places
variable {s : State} {m pa : Nat} {v : BitVec 64} {p : RegPlace} (place : s.regPlace pa = p)
include place

/-- Only a write that is taken changes anything, but for MST_OWN. -/
theorem State.regWrite64_place (other : p ≠ .mst 0) : s.regWrite64 m pa v = if s.mayWrite m then s.writePlace p v else s := by
  unfold State.regWrite64
  rw [place]
  cases p
  case mst o =>
    obtain _ | o := o
    · exact absurd rfl other
    · cases s.mayWrite m <;> rfl
  all_goals cases s.mayWrite m <;> rfl

/-- MST_OWN answers any master. -/
theorem State.regWrite64_own (own : p = .mst 0) : s.regWrite64 m pa v = s.writeOwn m v := by
  subst own
  unfold State.regWrite64
  rw [place]
  rfl

end Places

section Ports
variable {s : State} {m pa : Nat} {v : BitVec 64} (booted : s.booted = true) (up : m = 1 → s.port.hostDown = false)
include booted up

theorem State.portWrite_refused (stranger : m ≠ 0) (other : s.port.own ≠ m) (p : RegPlace) (place : s.regPlace pa = p) (plain : p ≠ .mst 0) :
    s.portWrite m pa v = s := by
  rw [State.portWrite_owner booted up, State.regWrite64_place place plain, if_neg (by simpa using State.mayWrite_other stranger other)]

theorem State.portWrite_taken (low : m ≤ 3) (owner : s.port.own = m) (p : RegPlace) (place : s.regPlace pa = p) (plain : p ≠ .mst 0) :
    s.portWrite m pa v = s.writePlace p v := by
  rw [State.portWrite_owner booted up, State.regWrite64_place place plain, if_pos (by simpa using State.mayWrite_owner low owner)]

theorem exec_mstOwn : exec (.mstOwn m v) s = .next (s.writeOwn m v) :=
  congrArg Host.Outcome.next ((State.portWrite_owner booted up).trans (State.regWrite64_own rfl rfl))

end Ports

section Registers
variable {s : State} {m : Nat} {v : BitVec 64} (booted : s.booted = true) (up : m = 1 → s.port.hostDown = false) (low : m ≤ 3) (owner : s.port.own = m)
include booted up low owner

/-- The owner's write to a register of the map, by its address. -/
theorem exec_registerWrite_taken {a : Nat} (p : RegPlace) (place : s.regPlace a = p) (plain : p ≠ .mst 0) (mapped : 256 ≤ a ∧ a < 2 ^ 48 ∧ a % 8 = 0) :
    exec (.registerWrite m (BitVec.ofNat 48 a) v) s = .next (s.writePlace p v) := by
  obtain ⟨high, fits, aligned⟩ := mapped
  have number : (BitVec.ofNat 48 a).toNat = a := Nat.mod_eq_of_lt fits
  have word : a / 8 * 8 = a := by omega
  refine congrArg Host.Outcome.next ?_
  rw [State.masterWrite, number, if_neg (Nat.not_lt.mpr high), word, State.portWrite_taken booted up low owner p place plain]

end Registers

/-! ### HG_POLICY, HG_FKILL, FL_DOM and the heads (R23, R60, R351, R385) -/

/-- A policy that keeps AGESTEP keeps the tasks. -/
theorem State.writePolicy_tasks {s : State} {v : BitVec 64}
    (kept : bitsNat s.hg.policy.toNat 15 12 = bitsNat (v.toNat &&& 0xFFFFFFFF03) 15 12) : (s.writePolicy v).hg.tasks = s.hg.tasks := by
  have same : bitsNat s.hg.policy.toNat 15 12 = bitsNat (v &&& 0xFFFFFFFF03#64).toNat 15 12 := kept.trans (by rw [BitVec.toNat_and]; rfl)
  unfold State.writePolicy
  dsimp only
  rw [← same, bne_self_eq_false]
  exact List.map_id _

/-- The address at which a strand is parked on a page of a domain. -/
def Strand.parkedOn (pdom page : Nat) (st : Strand) : Option Nat :=
  match st.blocked with
  | some b =>
    (match b.wait with
     | .parked _ p va => if p = pdom && pageOf va = page then some va else none
     | _ => none)
  | none => none

theorem Strand.parkedOn_isSome {pdom page : Nat} {st : Strand} (parked : ∃ b d va, st.blocked = some b ∧ b.wait = .parked d pdom va ∧ pageOf va = page) :
    (st.parkedOn pdom page).isSome = true := by
  obtain ⟨b, d, va, blocked, wait, on⟩ := parked
  unfold Strand.parkedOn
  simp [blocked, wait, on]

theorem Strand.parkedOn_none {pdom page : Nat} {st : Strand}
    (elsewhere : ∀ b d va, st.blocked = some b → b.wait ≠ .parked d pdom va ∨ pageOf va ≠ page) : st.parkedOn pdom page = none := by
  unfold Strand.parkedOn
  split
  · next b blocked =>
    split
    · next d p va wait =>
      refine if_neg fun on => ?_
      simp only [Bool.and_eq_true, decide_eq_true_eq] at on
      obtain ⟨rfl, on⟩ := on
      exact (elsewhere b d va blocked).elim (absurd wait) (absurd on)
    · rfl
  · rfl

/-- The merge entries that HG_FKILL frees. -/
def killed (v : BitVec 64) (e : MergeEntry) : Bool := e.faulted && e.page = bitsNat v.toNat 56 21 && e.pdom = v.toNat % 256

/-- The state in which HG_FKILL has freed its entries and refused the units' accesses on them. -/
def State.refuseKilled (s : State) (v : BitVec 64) : State :=
  { s with
    dies := s.dies.map fun (q : Nat × Die) => (q.1, { q.2 with merge := q.2.merge.filter fun e => !killed v e })
    hg := { s.hg with refused := s.hg.refused ++ s.dies.flatMap fun (_, x) => (x.merge.filter (killed v)).flatMap MergeEntry.units } }

theorem bitsNat_byte (x : Nat) : bitsNat x 7 0 = x % 256 := by simp [bitsNat]

/-- HG_FKILL (R351): after the entries, the strands parked on the page are taken to their handlers one after another. -/
theorem State.writeFkill_eq (s : State) (v : BitVec 64) : s.writeFkill v =
    s.strands.foldl (fun (t : State) st => (st.parkedOn (v.toNat % 256) (bitsNat v.toNat 56 21)).elim t
      fun va => t.raise { st with blocked := none } cPage (BitVec.ofNat 64 va)) (s.refuseKilled v) := by
  unfold State.writeFkill
  simp only [bitsNat_byte]
  refine congrArg (fun f => List.foldl f _ _) (funext fun t => funext fun st => ?_)
  unfold Strand.parkedOn
  cases blocked : st.blocked with
  | none => rfl
  | some b =>
    dsimp only
    cases wait : b.wait
    case parked d p va =>
      by_cases on : (p = v.toNat % 256 && pageOf va = bitsNat v.toNat 56 21) = true
      · simp only [on, if_true, Option.elim_some]
      · simp only [on]
        rfl
    all_goals rfl

section Fkill
variable (s : State) (v : BitVec 64)

/-- HG_FKILL writes strands and tasks alone, after the entries. -/
theorem State.writeFkill_only : ∃ ss ts, s.writeFkill v = { s.refuseKilled v with strands := ss, hg := { (s.refuseKilled v).hg with tasks := ts } } := by
  rw [State.writeFkill_eq]
  exact State.foldRaise_only ..

theorem State.refuseKilled_merge (d : Nat) : ((s.refuseKilled v).die d).merge = (s.die d).merge.filter fun e => !killed v e :=
  congrArg Die.merge (State.die_mapped s (fun x => { x with merge := x.merge.filter fun e => !killed v e }) rfl d)

theorem State.refuseKilled_refuses {d : Nat} {x : Die} (die : (d, x) ∈ s.dies) {e : MergeEntry} (entry : e ∈ x.merge) (hit : killed v e = true) {u : UnitWait}
    (waits : u ∈ e.units) : u ∈ (s.refuseKilled v).hg.refused :=
  List.mem_append_right _ (List.mem_flatMap.mpr ⟨_, die, List.mem_flatMap.mpr ⟨e, List.mem_filter.mpr ⟨entry, hit⟩, waits⟩⟩)

/-- HG_FKILL takes the strands parked on its page to their handlers and leaves the others as they are (R348, R351). -/
theorem State.writeFkill_strands (apart : (s.strands.map Strand.at_).Pairwise (· ≠ ·)) {st : Strand} (member : st ∈ s.strands) :
    ((∃ b d va, st.blocked = some b ∧ b.wait = .parked d (v.toNat % 256) va ∧ pageOf va = bitsNat v.toNat 56 21) →
      ∃ y ∈ (s.writeFkill v).strands, y.at_ = st.at_ ∧ y.level = true ∧ y.blocked = none ∧ y.cause.getLsbD 12 = true) ∧
    ((∀ b d va, st.blocked = some b → b.wait ≠ .parked d (v.toNat % 256) va ∨ pageOf va ≠ bitsNat v.toNat 56 21) → st ∈ (s.writeFkill v).strands) := by
  obtain ⟨-, facts⟩ := State.foldRaise (Strand.parkedOn (v.toNat % 256) (bitsNat v.toNat 56 21)) s.strands (s.refuseKilled v) apart _ (s.writeFkill_eq v)
  obtain ⟨taken, kept⟩ := facts st member member
  exact ⟨fun parked => taken (Strand.parkedOn_isSome parked), fun elsewhere => kept (Strand.parkedOn_none elsewhere)⟩

end Fkill

/-- A write to FL_DOM of a domain that stores no call sets its tokens and detaches the calls under way. -/
theorem State.writeDom_sets {s : State} {n : Nat} {v : BitVec 64} (started : ∀ c ∈ s.gx.calls, c.ord = true → c.dom = n → c.stage = 3) :
    s.writeDom n v = { s.setDomain { n := n, next := v.toNat % 2 ^ 16, apply := v.toNat / 2 ^ 16 % 2 ^ 16, marks := [] } with
      gx := { (s.setDomain { n := n, next := v.toNat % 2 ^ 16, apply := v.toNat / 2 ^ 16 % 2 ^ 16, marks := [] }).gx with
        calls := s.gx.calls.map fun c => if c.ord && c.dom = n && c.stage = 3 then { c with detached := true } else c } } := by
  have none_stored : (s.gx.calls.map fun c => if c.ord && c.dom = n && c.stage = 3 then { c with detached := true } else c).filter
      (fun c => c.ord && c.dom = n && c.stage != 3) = [] := by
    refine List.filter_eq_nil_iff.mpr fun c member => ?_
    obtain ⟨c, stands, rfl⟩ := List.mem_map.mp member
    have := started c stands
    grind
  have tokens : bitsNat v.toNat 15 0 = v.toNat % 2 ^ 16 ∧ bitsNat v.toNat 31 16 = v.toNat / 2 ^ 16 % 2 ^ 16 := by simp [bitsNat]
  unfold State.writeDom
  simp only [tokens]
  exact congrArg (fun l => List.foldl _ _ l) none_stored

/-! ### DH_CTL (R23) -/

theorem Head.writeCtl_trains {h : Head} {v : BitVec 64} (train : v.getLsbD 1 = true) : (h.writeCtl v).training = true := by
  unfold Head.writeCtl
  simp only [train]
  grind

theorem Head.writeCtl_stops {h : Head} {v : BitVec 64} (stop : v.getLsbD 0 = false) : (h.writeCtl v).scanning = false := by
  unfold Head.writeCtl
  dsimp only
  rw [stop]
  rfl

theorem Head.writeCtl_regs {h : Head} (size : h.regs.length = 7) (v : BitVec 64) : (h.writeCtl v).regs.getD 0 0 = v &&& 0x71 := by
  unfold Head.writeCtl
  grind

/-! ### MST_OWN (R303, R305) -/

theorem State.raiseMsix_port {s : State} (booted : s.booted = true) (p : Port) (n : Nat) :
    ({ s with port := p } : State).raiseMsix n = { s with port := { p with msix := insertNat n p.msix } } := if_pos booted

section Own
variable {s : State} {m : Nat} {v : BitVec 64} (booted : s.booted = true) (master : 1 ≤ m)
include master

include booted in
/-- A master claims a device that is free or offered to it. -/
theorem State.writeOwn_claims (claims : v.toNat % 4 = m) (free : s.port.own = 0 ∨ s.port.hand = m) : ∃ t, s.writeOwn m v = t ∧ t.port.own = m ∧
    t.port.hand = (if s.port.hand = m then 0 else s.port.hand) ∧ (s.port.own ≠ m → 2 ∈ t.port.msix) ∧
    t = { s with port := { s.port with own := t.port.own, hand := t.port.hand, msix := t.port.msix } } := by
  refine ⟨_, rfl, ?_⟩
  unfold State.writeOwn
  rw [if_neg (by omega), if_pos (by simpa using ⟨claims, free⟩)]
  by_cases owns : m = s.port.own
  · dsimp only
    rw [if_pos owns]
    exact ⟨rfl, rfl, fun other => absurd owns.symm other, rfl⟩
  · dsimp only
    rw [if_neg owns, State.raiseMsix_port booted]
    exact ⟨rfl, rfl, fun _ => (mem_insertNat ..).mpr (.inr rfl), rfl⟩

include booted in
/-- The owner gives the device up. -/
theorem State.writeOwn_gives_up (up : v.toNat % 4 = 0) (owner : s.port.own = m) : ∃ t, s.writeOwn m v = t ∧ t.port.own = 0 ∧ 2 ∈ t.port.msix ∧
    t = { s with port := { s.port with own := 0, msix := t.port.msix } } := by
  refine ⟨_, rfl, ?_⟩
  unfold State.writeOwn
  rw [if_neg (by omega), if_neg (by simp; omega), if_pos (by simpa using ⟨up, owner⟩)]
  dsimp only
  rw [if_neg (by omega), State.raiseMsix_port booted]
  exact ⟨rfl, (mem_insertNat ..).mpr (.inr rfl), rfl⟩

/-- Any other write of a master to MST_OWN is ignored. -/
theorem State.writeOwn_ignored (other : v.toNat % 4 ≠ m) (kept : ¬ (v.toNat % 4 = 0 ∧ s.port.own = m)) : s.writeOwn m v = s := by
  unfold State.writeOwn
  simp only [Bool.and_eq_true, Bool.or_eq_true, decide_eq_true_eq]
  rw [if_neg (by omega), if_neg (fun h => other h.1), if_neg kept]

end Own

/-! ### The registers with a behaviour of their own (R23, R60, R303, R308, R375, R385, R386) -/

section Places
variable {s : State} {m : Nat} {v : BitVec 64} (booted : s.booted = true) (up : m = 1 → s.port.hostDown = false)
include booted up

theorem exec_ports_refused (stranger : m ≠ 0) (other : s.port.own ≠ m) :
    ∀ i ∈ [.hgHtail m v, .hgPolicy m v, .hgQtcount m v, .hgFkill m v, .hostIrq m v, .azRetrain m v, .azClrpart m v,
      .flDom m 0 v, .dhTrain m 0 v, .dhEnable m 1 v, .mgDbg 1 v, .mgPwrReq 1 v], exec i s = .next s := by
  have refused {a : Nat} (p : RegPlace) (place : s.regPlace a = p) (plain : p ≠ .mst 0) : s.portWrite m a v = s :=
    State.portWrite_refused booted up stranger other p place plain
  have outside : ¬ s.mgMay 1 = true := by simp [State.mgMay]
  have training : exec (.dhTrain m 0 v) s = .next s :=
    congrArg Host.Outcome.next ((congrArg (ite _ · s) (refused (.dh 0 0) rfl (by simp))).trans (ite_self _))
  simp only [List.forall_mem_cons, List.not_mem_nil, false_implies, implies_true, and_true]
  exact ⟨congrArg _ (refused (.hg 0x10) rfl (by simp)), congrArg _ (refused (.hg 0x20) rfl (by simp)), congrArg _ (refused (.hg 0x48) rfl (by simp)),
    congrArg _ (refused (.hg 0x78) rfl (by simp)), congrArg _ (refused (.mst 0x40) rfl (by simp)), congrArg _ (refused (.az 0x48) rfl (by simp)),
    congrArg _ (refused (.az 0x38) rfl (by simp)), congrArg _ (refused (.fl 0x400) rfl (by simp)), training, congrArg _ (refused (.dh 1 0) rfl (by simp)),
    congrArg _ (if_neg outside), congrArg _ (if_neg outside)⟩

variable (low : m ≤ 3) (owner : s.port.own = m)
include low owner

theorem exec_hgHtail : exec (.hgHtail m v) s = .next { s.leaveIdle with hg := { s.hg with htail := v &&& 0xFFFFFFFF } } := by
  have tail : BitVec.ofNat 64 (v.toNat % 2 ^ 32) = v &&& 0xFFFFFFFF := by
    refine BitVec.eq_of_toNat_eq ?_
    rw [BitVec.toNat_and]
    exact (Nat.mod_eq_of_lt (by omega)).trans (Nat.and_two_pow_sub_one_eq_mod v.toNat 32).symm
  refine congrArg Host.Outcome.next ((State.portWrite_taken booted up low owner (.hg 0x10) rfl (by simp)).trans ?_)
  exact congrArg (fun x => ({ s.leaveIdle with hg := { s.hg with htail := x } } : State)) tail

theorem exec_hgPolicy : exec (.hgPolicy m v) s = .next (s.writePolicy v) :=
  congrArg _ (State.portWrite_taken booted up low owner (.hg 0x20) rfl (by simp))

theorem exec_hgQtcount : ∃ n, n ≤ 4096 ∧ (v.toNat % 8192 ≤ 4096 → n = v.toNat % 8192) ∧ exec (.hgQtcount m v) s =
    .next { s with hg := { s.hg with qtcount := BitVec.ofNat 64 n, queues := [], qtPend := List.range n } }.registerPending :=
  ⟨min (v.toNat % 8192) 4096, Nat.min_le_right .., Nat.min_eq_left, congrArg _ (State.portWrite_taken booted up low owner (.hg 0x48) rfl (by simp))⟩

theorem exec_hgFkill : exec (.hgFkill m v) s = .next (s.writeFkill v) :=
  congrArg _ (State.portWrite_taken booted up low owner (.hg 0x78) rfl (by simp))

theorem exec_hostIrq : ∃ t, exec (.hostIrq m v) s = .next t ∧ t = { s with port := { s.port with msix := t.port.msix } } ∧
    ∀ k, k ∈ t.port.msix ↔ k ∈ s.port.msix ∨ (4 ≤ v.toNat % 32 ∧ k = v.toNat % 32) := by
  refine ⟨s.writeIrq v, congrArg _ (State.portWrite_taken booted up low owner (.mst 0x40) rfl (by simp)), ?_⟩
  unfold State.writeIrq
  dsimp only
  by_cases vector : 4 ≤ v.toNat % 32
  · rw [if_pos vector, State.raiseMsix_booted booted]
    exact ⟨rfl, fun k => (mem_insertNat ..).trans (by simp [vector])⟩
  · rw [if_neg vector]
    exact ⟨rfl, fun k => by simp [vector]⟩

theorem exec_azRetrain : exec (.azRetrain m v) s = .next (if v.getLsbD 0 ∧ s.link.stopped ∧ !s.link.training then
    { s with link := { s.link with training := true, stopped := false } } else s) := by
  refine congrArg Host.Outcome.next ((State.portWrite_taken booted up low owner (.az 0x48) rfl (by simp)).trans ?_)
  change s.writeRetrain v = _
  unfold State.writeRetrain
  simp only [Bool.and_eq_true, and_assoc]

theorem exec_azClrpart : exec (.azClrpart m v) s = .next (if s.link.clrpart.getLsbD 63 then s
    else { s with link := { s.link with clrpart := (v &&& 0xFFFFFFFF0000) ||| if v.getLsbD 0 then 0x8000000000000000 else 0 } }) := by
  refine congrArg Host.Outcome.next ((State.portWrite_taken booted up low owner (.az 0x38) rfl (by simp)).trans ?_)
  change s.writeClrpart v = _
  unfold State.writeClrpart
  cases v.getLsbD 0 <;> simp

theorem exec_flDom {n : Nat} (small : n < 256) : exec (.flDom m n v) s = .next (s.writeDom n v) := by
  have place : s.regPlace (0x2000001400 + 8 * n) = .fl (0x400 + 8 * n) := State.regPlace_fl s _ _ (by omega) (by omega)
  have word : s.writeFl (0x400 + 8 * n) v = s.writeDom n v := by
    unfold State.writeFl
    split
    · omega
    · omega
    · omega
    · omega
    · rw [if_pos (by simp; omega), show (0x400 + 8 * n - 0x400) / 8 = n by omega]
  exact congrArg _ ((if_pos small).trans ((State.portWrite_taken booted up low owner _ place (by simp)).trans word))

theorem portWrite_head {n : Nat} (small : n < 2) {h : Head} (head : s.gx.heads[n]? = some h) :
    s.portWrite m (0x2000005000 + 0x100 * n) v = { s with gx := { s.gx with heads := s.gx.heads.set n (h.write 0 v) } } := by
  have place : s.regPlace (0x2000005000 + 0x100 * n) = .dh n 0 := by
    match n, small with
    | 0, _ => rfl
    | 1, _ => rfl
  exact (State.portWrite_taken booted up low owner _ place (by simp)).trans (State.mapHead_set head fun x => x.write 0 v)

theorem exec_dhEnable {n : Nat} (small : n < 2) {h : Head} (head : s.gx.heads[n]? = some h) :
    exec (.dhEnable m n v) s = .next { s with gx := { s.gx with heads := s.gx.heads.set n (h.write 0 v) } } :=
  congrArg _ ((if_pos small).trans (portWrite_head booted up low owner small head))

theorem exec_dhTrain {n : Nat} (small : n < 2) {h : Head} (head : s.gx.heads[n]? = some h) :
    exec (.dhTrain m n v) s = .next (if v.getLsbD 1 then { s with gx := { s.gx with heads := s.gx.heads.set n (h.write 0 v) } } else s) := by
  refine congrArg Host.Outcome.next ?_
  rw [portWrite_head booted up low owner small head]
  simp [small]

end Places

/-- Settles O44: the owner's writes leave what each register's writable bits take, other masters' leave nothing, and MST_OWN answers every master. -/
theorem mastersWriteTheRegisters : Obligations.MastersWriteTheRegisters := by
  unfold Obligations.MastersWriteTheRegisters
  intro s m v booted up
  refine ⟨exec_ports_refused booted up, fun master low owner => ?_, fun master claims free => ?_, fun master gives owner => ?_,
    fun master other kept => ?_⟩
  · refine ⟨exec_hgHtail booted up low owner, ⟨_, exec_hgPolicy booted up low owner, rfl, State.writePolicy_tasks⟩,
      exec_hgQtcount booted up low owner, ?_, exec_hostIrq booted up low owner, exec_azRetrain booted up low owner,
      exec_azClrpart booted up low owner, fun n small started => ?_, fun n small h head => ?_, ?_⟩
    · rintro hit rfl
      obtain ⟨ss, ts, only⟩ := s.writeFkill_only v
      refine ⟨_, exec_hgFkill booted up low owner, ?_, ?_, ?_, fun apart st member => State.writeFkill_strands s v apart member⟩
      · rw [only]
        exact State.refuseKilled_merge s v
      · rw [only]
        exact fun d x die e entry hit u waits => State.refuseKilled_refuses s v die entry hit waits
      · rw [only]
        rfl
    · have sets := State.writeDom_sets (v := v) started
      refine ⟨_, exec_flDom booted up low owner small, ?_, ?_, fun k other => ?_⟩
      · rw [sets]
        rfl
      · rw [sets]
        exact (State.domain_set s _ n).trans (if_pos rfl)
      · rw [sets]
        exact (State.domain_set s _ k).trans (if_neg other)
    · exact ⟨exec_dhEnable booted up low owner small head, exec_dhTrain booted up low owner small head, Head.writeCtl_trains, Head.writeCtl_stops,
        fun size => Head.writeCtl_regs size v⟩
    · have taken {a : Nat} (p : RegPlace) (place : s.regPlace a = p) (plain : p ≠ .mst 0) (mapped : 256 ≤ a ∧ a < 2 ^ 48 ∧ a % 8 = 0) :=
        exec_registerWrite_taken (v := v) booted up low owner p place plain mapped
      simp only [List.forall_mem_cons, List.not_mem_nil, false_implies, implies_true, and_true]
      exact ⟨taken (.hg 0) rfl (by simp) (by simp), taken (.hg 8) rfl (by simp) (by simp), taken (.hg 0x30) rfl (by simp) (by simp),
        taken (.hg 0x40) rfl (by simp) (by simp), taken (.hg 0x58) rfl (by simp) (by simp), taken (.hg 0x68) rfl (by simp) (by simp),
        taken (.hg 0x100) rfl (by simp) (by simp), taken (.hg 0x108) rfl (by simp) (by simp), taken (.fl 0) rfl (by simp) (by simp),
        taken (.fl 8) rfl (by simp) (by simp), taken (.mst 8) rfl (by simp) (by simp), taken (.az 8) rfl (by simp) (by simp),
        taken (.az 0x20) rfl (by simp) (by simp), taken .lease rfl (by simp) (by simp), taken (.ptroot 1) rfl (by simp) (by simp),
        taken (.die 1 0x200) rfl (by simp) (by simp), taken (.die 2 0x201) rfl (by simp) (by simp)⟩
  · obtain ⟨t, wrote, facts⟩ := State.writeOwn_claims booted master claims free
    exact ⟨t, (exec_mstOwn booted up).trans (congrArg _ wrote), facts⟩
  · obtain ⟨t, wrote, facts⟩ := State.writeOwn_gives_up booted (Nat.pos_of_ne_zero master) gives owner
    exact ⟨t, (exec_mstOwn booted up).trans (congrArg _ wrote), facts⟩
  · exact (exec_mstOwn booted up).trans (congrArg _ (State.writeOwn_ignored master other kept))

end Sys2Proof.Machine
end

section
namespace Sys2Proof.Machine

/-! ### What leaves the tasks as they are

The homes, the caches, the cross-die writes and the fault queue do not know tasks. -/

theorem State.foldl_hg {α : Type} {f : State → α → State} (hf : ∀ s x, (f s x).hg = s.hg) (l : List α) (s : State) : (l.foldl f s).hg = s.hg :=
  List.foldlRecOn (motive := fun t => t.hg = s.hg) l f rfl fun t ht x _ => (hf t x).trans ht

theorem State.fireLine_hg (s : State) (pa : Nat) : (s.fireLine pa).hg = s.hg := rfl

theorem State.noteDirty_hg (s : State) (pa : Nat) : (s.noteDirty pa).hg = s.hg := by
  unfold State.noteDirty
  grind

theorem State.homeWriteAtom_hg (s : State) (pa : Nat) (bs : List Byte) (strong : Bool) : (s.homeWriteAtom pa bs strong).hg = s.hg := by
  unfold State.homeWriteAtom
  simp only [State.noteDirty_hg, State.fireLine_hg]

theorem State.homeWrite_hg (s : State) (pa : Nat) (bs : List Byte) (strong : Bool) : (s.homeWrite pa bs strong).hg = s.hg := by
  unfold State.homeWrite
  grind [State.homeWriteAtom_hg, State.foldl_hg]

theorem State.homeAtom_hg (s : State) (k atom : Nat) : (s.homeAtom k atom).2.hg = s.hg := by
  unfold State.homeAtom
  grind [State.freeVec]

theorem State.noteCache_hg (s : State) (d : Nat) (c : Option Nat) (src n : Nat) (who : List (Nat × Bool)) : (s.noteCache d c src n who).hg = s.hg := by
  unfold State.noteCache
  split <;> rfl

theorem State.tagNotes_hg (s : State) (from_ : Nat) (who : List (Nat × Bool)) : (s.tagNotes from_ who).hg = s.hg := rfl

theorem State.l2Touch_hg (s : State) (pa : Nat) (pl : Option L2Place) (write : Bool) : (s.l2Touch pa pl write).hg = s.hg := by
  unfold State.l2Touch
  grind [State.setDie_hg, State.noteCache_hg]

theorem State.raiseRow_hg (s : State) (d k : Nat) : (s.raiseRow d k).hg = s.hg := rfl

theorem State.addOutstanding_hg (s : State) (d : Nat) (core : Option Nat) (f : Nat → Nat) : (s.addOutstanding d core f).hg = s.hg := by
  unfold State.addOutstanding
  grind [State.setCore_hg]

theorem State.sendWrite_hg (s : State) (d k : Nat) (core : Option Nat) (pa : Nat) (bs : List Byte) (strong : Bool) (pl : Option L2Place) :
    (s.sendWrite d k core pa bs strong pl).hg = s.hg := by
  simp [State.sendWrite, State.addOutstanding_hg, State.setRow]

theorem State.writeAtom_hg (s : State) (d : Nat) (core : Option Nat) (pa : Nat) (bs : List Byte) (strong : Bool) (pl : Option L2Place) :
    (s.writeAtom d core pa bs strong pl).hg = s.hg := by
  unfold State.writeAtom
  grind [State.setCore_hg, State.setDie_hg, State.homeWriteAtom_hg, State.noteCache_hg, State.l2Touch_hg, State.sendWrite_hg, State.spoilFills]

theorem State.writeMem_hg (s : State) (d : Nat) (core : Option Nat) (pa : Nat) (bs : List Byte) (strong : Bool) (pl : Option L2Place) :
    (s.writeMem d core pa bs strong pl).hg = s.hg := by
  unfold State.writeMem
  grind [State.writeAtom_hg, State.foldl_hg]

theorem State.applyWrite_hg (s : State) (w : XWrite) : (s.applyWrite w).hg = s.hg := by
  unfold State.applyWrite
  grind [State.setDie_hg, State.fireLine_hg, State.homeWrite_hg, State.tagNotes_hg, State.l2Touch_hg]

theorem State.ackWrite_hg (s : State) (w : XWrite) : (s.ackWrite w).hg = s.hg := by
  unfold State.ackWrite
  grind [State.setCore_hg, State.setDie_hg, State.raiseRow_hg, State.addOutstanding_hg]

theorem State.drainGx_hg (s : State) (f : Nat) : (s.drainGx f).hg = s.hg := by
  induction f generalizing s with
  | zero => rfl
  | succ f ih =>
    unfold State.drainGx
    grind [State.applyWrite_hg, State.ackWrite_hg]

theorem State.gxRelease_hg (s : State) : s.gxRelease.hg = s.hg := by
  unfold State.gxRelease
  grind [State.drainGx_hg]

theorem State.raiseMsix_hg (s : State) (v : Nat) : (s.raiseMsix v).hg = s.hg := by
  unfold State.raiseMsix
  split <;> rfl

theorem State.putFault_tasks (s : State) (pa : Nat) (pl : L2Place) (record : Nat) : (s.putFault pa pl record).hg.tasks = s.hg.tasks := by
  unfold State.putFault
  grind [State.writeMem_hg, State.gxRelease_hg, State.raiseMsix_hg]

theorem State.appendFault_tasks (s : State) (record : Nat) : (s.appendFault record).hg.tasks = s.hg.tasks := by
  unfold State.appendFault
  grind [State.putFault_tasks, Headgate.countLost]

theorem State.faultRecord_tasks (s : State) (kind reason task arg : Nat) : (s.faultRecord kind reason task arg).hg.tasks = s.hg.tasks := by
  unfold State.faultRecord
  grind [State.appendFault_tasks]

theorem State.dropUnitClaim_hg (s : State) (u : UnitWait) (page part : Nat) : (s.dropUnitClaim u page part).hg = s.hg := by
  unfold State.dropUnitClaim
  split <;> rfl

theorem State.unitTranslate_tasks (s : State) (d : Nat) (core : Option Nat) (pdom partid task va : Nat) (write : Bool) :
    (s.unitTranslate d core pdom partid task va write).state.hg.tasks = s.hg.tasks := by
  unfold State.unitTranslate
  grind [UnitTr.state, State.setDie_hg, State.note_hg, State.tlbMap, State.dropUnitClaim_hg, State.unitAwaitPart]

theorem State.hgReadPieces_tasks (s : State) (pdom partid task va n : Nat) (acc : List Byte) (f : Nat) :
    (s.hgReadPieces pdom partid task va n acc f).state.hg.tasks = s.hg.tasks := by
  induction f generalizing s pdom partid task va n acc with
  | zero => rfl
  | succ f ih =>
    unfold State.hgReadPieces
    grind [UnitRes.state, UnitTr.state, !State.homeAtom_hg, State.raiseRow_hg, State.gxRelease_hg, !State.unitTranslate_tasks]

theorem State.hgRead_tasks (s : State) (pdom partid task va n : Nat) : (s.hgRead pdom partid task va n).state.hg.tasks = s.hg.tasks := by
  unfold State.hgRead
  grind [UnitRes.state, !State.hgReadPieces_tasks]

theorem State.unitCanWrite_tasks (s : State) (d : Nat) (core : Option Nat) (pdom partid task va n : Nat) :
    (s.unitCanWrite d core pdom partid task va n).state.hg.tasks = s.hg.tasks := by
  unfold State.unitCanWrite
  grind [UnitTr.state, !State.unitTranslate_tasks]

theorem State.unitWrite_tasks (s : State) (d : Nat) (core : Option Nat) (pdom partid task va : Nat) (bs : List Byte) :
    (s.unitWrite d core pdom partid task va bs).state.hg.tasks = s.hg.tasks := by
  have may := s.unitCanWrite_tasks d core pdom partid task va bs.length
  unfold State.unitWrite
  split
  · next e => rw [e] at may; exact may
  · next e => rw [e] at may; exact may
  · next t pa _ e =>
    rw [e] at may
    split
    · exact may
    · refine List.foldlRecOn (motive := fun r : UnitRes Unit => r.state.hg.tasks = s.hg.tasks) _ _ may fun r hr p _ => ?_
      split
      · next u _ =>
        have tr := u.unitTranslate_tasks d core pdom partid task p.1 true
        grind [UnitRes.state, UnitTr.state, State.writeAtom_hg]
      · exact hr

/-! ### What the end of a task does to the others (R53, R66, R67)

A predicate of the list of tasks survives the end of a task if it survives a decrement of a node, the mark of a task whose successors have been
told, and, where a task leaves, the mark of its record and its removal. -/

/-- The tasks of the list with a key changed. -/
def mapKey (j : Nat) (f : Task → Task) (ts : List Task) : List Task := ts.map fun t => if t.key = j then f t else t

section Keeps
variable {P : List Task → Prop}
  (dec : ∀ (s : State) (n : Nat) (x : Task), s.nodeTask n = some x → P s.hg.tasks → P (s.decNode x).hg.tasks)
  (told : ∀ ts j, P ts → P (mapKey j (fun t => { t with succDone := true }) ts))
include dec

theorem State.decSuccessors_keeps (s : State) (t : Task) (ns : List Nat) (keeps : P s.hg.tasks) : P (s.decSuccessors t ns).hg.tasks := by
  refine List.foldlRecOn (motive := fun u : State => P u.hg.tasks) ns _ keeps fun u keeps n _ => ?_
  split
  · next x found =>
    split
    · exact keeps
    · exact dec u n x found keeps
  · split
    · exact keeps
    · rw [State.faultRecord_tasks]
      exact keeps

include told

theorem State.tellSuccessors_keeps (s : State) (t : Task) (keeps : P s.hg.tasks) : P (s.tellSuccessors t).state.hg.tasks := by
  have read := s.hgRead_tasks t.pdom t.partid t.id.toNat (TaskRec.succ t.record) (4 * TaskRec.nsucc t.record)
  unfold State.tellSuccessors
  dsimp only
  split
  · exact keeps
  · split
    · next e => rw [e] at read; exact (congrArg P read).mpr keeps
    · next e => rw [e] at read; exact told _ _ ((congrArg P read).mpr keeps)
    · next e => rw [e] at read; exact told _ _ (State.decSuccessors_keeps dec _ _ _ ((congrArg P read).mpr keeps))

variable (recorded : ∀ ts j, P ts → P (mapKey j (fun t => { t with recDone := true }) ts))
  (dropped : ∀ ts j, P ts → P (ts.filter fun x => x.key != j))
include dropped

theorem State.closeTask_keeps (s : State) (t : Task) (keeps : P s.hg.tasks) : P (s.closeTask t).hg.tasks := by
  have tell := State.tellSuccessors_keeps dec told s t keeps
  unfold State.closeTask
  dsimp only
  split
  · refine dropped _ _ ?_
    rw [State.faultRecord_tasks]
    exact keeps
  · split
    · next e => rw [e] at tell; exact dropped _ _ tell
    · next e => rw [e] at tell; exact dropped _ _ tell
    · next e => rw [e] at tell; exact tell

include recorded

theorem State.completeTask_keeps (s : State) (t : Task) (keeps : P s.hg.tasks) : P (s.completeTask t).hg.tasks := by
  have closes (u : State) (same : u.hg.tasks = s.hg.tasks) :
      P ((u.gxRelease.mapTask t.key fun t => { t with recDone := true }).closeTask { t with recDone := true }).hg.tasks := by
    refine State.closeTask_keeps dec told dropped _ _ (recorded _ t.key ?_)
    rw [State.gxRelease_hg, same]
    exact keeps
  have write := s.gxRelease.unitWrite_tasks 0 none t.pdom t.partid t.id.toNat (TaskRec.crec t.record) (natBytesLE 32 (s.completionRecord t))
  rw [State.gxRelease_hg] at write
  unfold State.completeTask
  dsimp only
  split
  · exact keeps
  · split
    · exact State.closeTask_keeps dec told dropped s t keeps
    · split
      · exact closes s rfl
      · split
        · next e => rw [e] at write; exact (congrArg P write).mpr keeps
        · next e => rw [e] at write; exact closes _ ((State.faultRecord_tasks ..).trans write)
        · next e => rw [e] at write; exact closes _ write

end Keeps

theorem mem_mapKey {j : Nat} {f : Task → Task} {ts : List Task} {y : Task} (member : y ∈ mapKey j f ts) :
    ∃ z ∈ ts, (z.key = j ∧ y = f z) ∨ (z.key ≠ j ∧ y = z) := by
  obtain ⟨z, stands, rfl⟩ := List.mem_map.mp member
  by_cases same : z.key = j
  · exact ⟨z, stands, .inl ⟨same, if_pos same⟩⟩
  · exact ⟨z, stands, .inr ⟨same, if_neg same⟩⟩

theorem mapKey_mem {j : Nat} {f : Task → Task} {ts : List Task} {z : Task} (stands : z ∈ ts) : (if z.key = j then f z else z) ∈ mapKey j f ts :=
  List.mem_map_of_mem stands

/-- A decrement makes the node ready or counts it. -/
theorem State.decNode_tasks (s : State) (x : Task) : x.nodeCount = none ∧ s.decNode x = s ∨
    ∃ f : Task → Task, (s.decNode x).hg.tasks = mapKey x.key f s.hg.tasks ∧
      ∀ t, (f t).key = t.key ∧ (f t).epoch = t.epoch ∧ ((f t).state = .ready ∨ ∃ n, (f t).state = .node n) := by
  cases count : x.nodeCount with
  | none =>
    refine .inl ⟨rfl, ?_⟩
    unfold State.decNode
    rw [count]
  | some n =>
    refine .inr ?_
    unfold State.decNode
    simp only [count]
    split
    · exact ⟨_, rfl, fun t => ⟨rfl, rfl, .inl rfl⟩⟩
    · exact ⟨_, rfl, fun t => ⟨rfl, rfl, .inr ⟨_, rfl⟩⟩⟩

/-! ### A task that has ended stays ended -/

/-- Every task with a key has nothing left but its completion, with STATUS 1. -/
def EndedAs1 (k : Nat) (ts : List Task) : Prop := ∀ y ∈ ts, y.key = k → y.state = .finishing ∧ y.status = 1

section Ended
variable {k : Nat} {ts : List Task} {j : Nat}

theorem EndedAs1.mapped (ended : EndedAs1 k ts) {f : Task → Task} (name : ∀ t, (f t).key = t.key)
    (same : j = k → ∀ t, t.state = .finishing → t.status = 1 → (f t).state = .finishing ∧ (f t).status = 1) : EndedAs1 k (mapKey j f ts) := by
  intro y member key
  obtain ⟨z, stands, ⟨on, rfl⟩ | ⟨-, rfl⟩⟩ := mem_mapKey member
  · rw [name] at key
    obtain ⟨state, status⟩ := ended z stands key
    exact same (on.symm.trans key) z state status
  · exact ended y stands key

theorem EndedAs1.filtered (ended : EndedAs1 k ts) (p : Task → Bool) : EndedAs1 k (ts.filter p) :=
  fun y member => ended y (List.mem_of_mem_filter member)

theorem EndedAs1.decNode (s : State) (n : Nat) (x : Task) (found : s.nodeTask n = some x) (ended : EndedAs1 k s.hg.tasks) :
    EndedAs1 k (s.decNode x).hg.tasks := by
  obtain ⟨-, same⟩ | ⟨f, tasks, facts⟩ := s.decNode_tasks x
  · rw [same]
    exact ended
  · have counts : x.nodeCount.isSome = true := (Bool.and_eq_true _ _ ▸ List.find?_some found).1
    have other : x.key ≠ k := fun key => by
      have state := (ended x (List.mem_of_find?_eq_some found) key).1
      simp [Task.nodeCount, state] at counts
    rw [tasks]
    exact ended.mapped (fun t => (facts t).1) fun key => absurd key other

theorem EndedAs1.finished (s : State) (ended : j ≠ k → EndedAs1 k s.hg.tasks) : EndedAs1 k (s.finish j 1).hg.tasks := by
  by_cases same : j = k
  · intro y member key
    obtain ⟨z, -, ⟨-, rfl⟩ | ⟨other, rfl⟩⟩ := mem_mapKey (j := j) (ts := s.hg.tasks) member
    · exact ⟨rfl, rfl⟩
    · exact absurd (key.trans same.symm) other
  · exact (ended same).mapped (fun _ => rfl) fun key => absurd key same

theorem EndedAs1.finishedNow (s : State) (ended : j ≠ k → EndedAs1 k s.hg.tasks) : EndedAs1 k (s.finishNow j 1).hg.tasks := by
  unfold State.finishNow
  dsimp only
  split
  · exact State.completeTask_keeps EndedAs1.decNode (fun _ _ e => e.mapped (fun _ => rfl) fun _ _ a b => ⟨a, b⟩)
      (fun _ _ e => e.mapped (fun _ => rfl) fun _ _ a b => ⟨a, b⟩) (fun _ _ e => e.filtered _) _ _ (EndedAs1.finished s ended)
  · exact EndedAs1.finished s ended

theorem EndedAs1.all_finished (ks : List Nat) (s : State) (ended : k ∉ ks → EndedAs1 k s.hg.tasks) :
    EndedAs1 k (ks.foldl (fun s j => s.finishNow j 1) s).hg.tasks := by
  induction ks generalizing s with
  | nil => exact ended List.not_mem_nil
  | cons j ks ih => exact ih _ fun later => EndedAs1.finishedNow s fun other => ended (by simp [later, Ne.symm other])

end Ended

/-! ### A task that a cancel will end is still there after the completed ones -/

/-- A task with a key that the cancel of an epoch ends stands in the list. -/
def Cancellable (k e : Nat) (ts : List Task) : Prop := ∃ y ∈ ts, y.key = k ∧ y.cancellable e = true

section Settle
variable {k e : Nat} {ts : List Task} {j : Nat}

theorem Cancellable.mapped (stands : Cancellable k e ts) {f : Task → Task} (name : ∀ t, (f t).key = t.key)
    (same : j = k → ∀ t, t.cancellable e = true → (f t).cancellable e = true) : Cancellable k e (mapKey j f ts) := by
  obtain ⟨y, member, key, open_⟩ := stands
  refine ⟨_, mapKey_mem member, ?_⟩
  by_cases on : y.key = j
  · rw [if_pos on]
    exact ⟨(name y).trans key, same (on.symm.trans key) y open_⟩
  · rw [if_neg on]
    exact ⟨key, open_⟩

theorem Task.cancellable_of_state {t : Task} (epoch : t.epoch = e) (state : t.state = .ready ∨ ∃ n, t.state = .node n) : t.cancellable e = true := by
  obtain state | ⟨n, state⟩ := state <;> simp [Task.cancellable, Task.isDone, epoch, state]

theorem Task.epoch_of_cancellable {t : Task} (open_ : t.cancellable e = true) : t.epoch = e := by
  unfold Task.cancellable at open_
  grind

theorem Cancellable.decNode (s : State) (n : Nat) (x : Task) (_found : s.nodeTask n = some x) (stands : Cancellable k e s.hg.tasks) :
    Cancellable k e (s.decNode x).hg.tasks := by
  obtain ⟨-, same⟩ | ⟨f, tasks, facts⟩ := s.decNode_tasks x
  · rw [same]
    exact stands
  · rw [tasks]
    refine stands.mapped (fun t => (facts t).1) fun _ t open_ => ?_
    obtain ⟨-, epoch, state⟩ := facts t
    exact Task.cancellable_of_state (epoch.trans (Task.epoch_of_cancellable open_)) state

theorem Cancellable.told (s : State) (t : Task) (stands : Cancellable k e s.hg.tasks) : Cancellable k e (s.tellSuccessors t).state.hg.tasks :=
  State.tellSuccessors_keeps Cancellable.decNode (fun _ _ c => c.mapped (fun _ => rfl) fun _ _ open_ => open_) s t stands

/-- What has completed before the cancel does not touch a task that has not. -/
theorem Cancellable.settled (s : State) (stands : Cancellable k e s.hg.tasks)
    (apart : ∀ z ∈ s.hg.tasks, z.key = k → z.isDone = false) : Cancellable k e (s.settleDone e).hg.tasks := by
  unfold State.settleDone
  refine List.foldlRecOn (motive := fun u : State => Cancellable k e u.hg.tasks) _ _ stands fun u stands t member => ?_
  have finished : Cancellable k e (if t.isDone then u.finish t.key 0 else u).hg.tasks := by
    split
    · next done =>
      have other : t.key ≠ k := fun key => Bool.false_ne_true ((apart t (List.mem_of_mem_filter member) key).symm.trans done)
      exact stands.mapped (j := t.key) (fun _ => rfl) fun key => absurd key other
    · exact stands
  dsimp only
  split
  · next x _ =>
    have tell := finished.told _ x
    split
    · next h => rw [h] at tell; exact tell
    · next h => rw [h] at tell; exact tell
    · next h => rw [h] at tell; exact tell
  · exact finished

end Settle

/-- The keys of the tasks that the cancel of an epoch ends: those that have not completed when the completed ones are settled. -/
def State.cancelKeys (s : State) (e : Nat) : List Nat := ((s.settleDone e).hg.tasks.filter fun t => t.cancellable e).map Task.key

/-- The cancel of an epoch ends with the completion of its tasks. -/
theorem State.cancelEpoch_tasks (s : State) (e : Nat) :
    ∃ t : State, (s.cancelEpoch e).hg.tasks = ((s.cancelKeys e).foldl (fun s k => s.finishNow k 1) t).hg.tasks :=
  ⟨_, congrArg Headgate.tasks (State.dissolveAll_hg _)⟩

theorem State.cancelEpoch_ends {s : State} {e : Nat} {x : Task} (member : x ∈ s.hg.tasks) (open_ : x.cancellable e = true)
    (unique : ∀ z ∈ s.hg.tasks, z.key = x.key → z = x) : EndedAs1 x.key (s.cancelEpoch e).hg.tasks := by
  have going : x.isDone = false := by
    unfold Task.cancellable at open_
    grind
  obtain ⟨y, stands, key, still⟩ : Cancellable x.key e (s.settleDone e).hg.tasks :=
    Cancellable.settled s ⟨x, member, rfl, open_⟩ fun z other key => unique z other key ▸ going
  have listed : x.key ∈ s.cancelKeys e := List.mem_map.mpr ⟨y, List.mem_filter.mpr ⟨stands, still⟩, key⟩
  obtain ⟨t, tasks⟩ := s.cancelEpoch_tasks e
  rw [tasks]
  exact EndedAs1.all_finished _ t fun absent => absurd listed absent

/-! ### SPEC EPOCH (R282) -/

theorem State.lowestEpoch_free {s : State} {n : Nat} (low : 1 ≤ n) (high : n ≤ 255) (free : s.epochState n = 0)
    (used : ∀ m, 1 ≤ m → m < n → s.epochState m ≠ 0) : s.lowestEpoch = n := by
  unfold State.lowestEpoch
  simp only [find?_range_first (fun e => s.epochState e = 0) n low high (by simpa using free) (by simpa using used)]

theorem State.lowestEpoch_cancelled {s : State} (used : ∀ m, 1 ≤ m → m ≤ 255 → s.epochState m ≠ 0) {n : Nat} (low : 1 ≤ n) (high : n ≤ 255)
    (cancelled : s.epochState n = 2) (before : ∀ m, 1 ≤ m → m < n → s.epochState m ≠ 2) : s.lowestEpoch = n := by
  unfold State.lowestEpoch
  simp only [find?_range_never (fun e => s.epochState e = 0) (by simpa using used),
    find?_range_first (fun e => s.epochState e = 2) n low high (by simpa using cancelled) (by simpa using before), Option.getD_some]

theorem State.lowestEpoch_none {s : State} (used : ∀ m, 1 ≤ m → m ≤ 255 → s.epochState m ≠ 0 ∧ s.epochState m ≠ 2) : s.lowestEpoch = 0 := by
  unfold State.lowestEpoch
  simp only [find?_range_never (fun e => s.epochState e = 0) (by simpa using fun m a b => (used m a b).1),
    find?_range_never (fun e => s.epochState e = 2) (by simpa using fun m a b => (used m a b).2), Option.getD_none]

section Spec
variable {d a : BitVec 7} {s : State} {st : Strand} (cur : s.curStrand = some st) {e : Nat} (epoch : e = (st.s a).toNat % 256)
include cur epoch

theorem exec_specEpoch_lowest (any : e = 0) {n : Nat} (lowest : s.lowestEpoch = n) :
    exec (.specEpoch d a) s = .next ((if n = 0 then s else s.setEpoch n 1 st.pdom.toNat).putStrand ((st.setS d (BitVec.ofNat 32 n)).retire s.cycle 1)) := by
  refine (State.onStrand_some cur _).trans ?_
  simp only [← epoch, any, if_true, lowest]
  by_cases none_ : n = 0
  · simp only [none_, if_true]
  · simp only [none_, if_false]
    rfl

theorem exec_specEpoch_opens (named : e ≠ 0) (may : s.epochState e = 0 ∨ (s.epochState e = 2 ∧ s.epochDom e = st.pdom.toNat)) :
    exec (.specEpoch d a) s = .next ((s.setEpoch e 1 st.pdom.toNat).putStrand ((st.setS d (BitVec.ofNat 32 e)).retire s.cycle 1)) := by
  refine (State.onStrand_some cur _).trans ?_
  obtain free | ⟨cancelled, own⟩ := may
  · simp only [← epoch, named, if_false, free]
    rfl
  · simp only [← epoch, named, if_false, cancelled, own, if_true]
    rfl

theorem exec_specEpoch_refused (named : e ≠ 0) (other : s.epochState e = 1 ∨ (s.epochState e = 2 ∧ s.epochDom e ≠ st.pdom.toNat)) :
    exec (.specEpoch d a) s = .next (s.putStrand ((st.setS d (BitVec.ofNat 32 0)).retire s.cycle 1)) := by
  refine (State.onStrand_some cur _).trans ?_
  obtain opened | ⟨cancelled, foreign⟩ := other
  · simp only [← epoch, named, if_false, opened]
  · simp only [← epoch, named, if_false, cancelled, foreign]

theorem exec_specEpoch_again (named : e ≠ 0) (busy : 2 < s.epochState e) :
    exec (.specEpoch d a) s = .next (s.putStrand (st.standsAgain s.cycle)) := by
  refine (State.onStrand_some cur _).trans ?_
  simp only [← epoch, named, if_false]
  split
  · omega
  · omega
  · omega
  · rfl

/-! ### SPEC COMMIT and CANCEL (R282, R283) -/

theorem spec_refused (act : State → Nat → State) (not_open : e = 0 ∨ s.epochState e ≠ 1 ∨ s.epochDom e ≠ st.pdom.toNat) :
    spec d a act s = .next (s.putStrand ((st.setS d 0).retire s.cycle 1)) := by
  refine (State.onStrand_some cur _).trans ?_
  rw [← epoch, if_pos (by simpa [or_assoc] using not_open)]

theorem spec_acts (act : State → Nat → State) (named : e ≠ 0) (opened : s.epochState e = 1) (own : s.epochDom e = st.pdom.toNat) {y : Strand}
    (still : (act s e).strandAt st.at_ = some y) :
    spec d a act s = .next (((act s e).putStrand (y.block (act s e).cycle 1 false (.spec e (y.sName d)))).specStep e) := by
  refine (State.onStrand_some cur _).trans ?_
  rw [← epoch, if_neg (by simp [named, opened, own])]
  simp only [still]

end Spec

/-- What a strand that waits for an epoch has when its commit or cancel completes. -/
def Strand.specDone (e cycle : Nat) (x : Strand) : Strand :=
  match x.blocked with
  | some b =>
    (match b.wait with
     | .spec f dst => if f = e then (x.setSAt dst 1).unblock cycle else x
     | _ => x)
  | none => x

theorem Strand.setSAt_at (x : Strand) (j : Option Nat) (w : Word) : (x.setSAt j w).at_ = x.at_ := by cases j <;> rfl

theorem Strand.specDone_at (e cycle : Nat) (x : Strand) : (x.specDone e cycle).at_ = x.at_ := by
  unfold Strand.specDone
  split
  · split
    · split
      · unfold Strand.unblock
        split
        · exact (Strand.retire_at ..).trans (x.setSAt_at ..)
        · exact x.setSAt_at ..
      · rfl
    · rfl
  · rfl

theorem Strand.specDone_waiting (e cycle : Nat) (y : Strand) (d : BitVec 7) :
    (y.block cycle 1 false (.spec e (y.sName d))).specDone e cycle = (y.setS d 1).retire cycle 1 := by
  have named : ({ y with blocked := some { wait := .spec e (y.sName d), len := 1, woken := false, since := cycle } } : Strand).setSAt (y.sName d) 1 =
      { y.setS d 1 with blocked := some { wait := .spec e (y.sName d), len := 1, woken := false, since := cycle } } := by
    unfold Strand.setS
    cases y.sName d <;> rfl
  simp only [Strand.block, Bool.false_eq_true, if_false, Strand.specDone, if_true, named, Strand.unblock, Strand.retire_blocked]

section Step
variable {s : State} {e : Nat}

theorem State.specStep_running (running : s.ssbRunning e = true) : s.specStep e = s := by
  unfold State.specStep
  simp only [running, if_true, ite_self]

theorem State.specStep_due (none_ : s.listed e = []) (cancels : s.epochState e = 4) (due : s.recordsDue e = true) : s.specStep e = s := by
  unfold State.specStep State.copiesDone
  dsimp only
  rw [none_, cancels, if_neg (by decide)]
  simp [none_, due]

/-- Without listed entries, no core loses any when the epoch leaves the lists. -/
theorem State.unlisted_cores (none_ : s.listed e = []) :
    s.cores.map (fun (p : (Nat × Nat) × Core) => (p.1, { p.2 with ssbList := p.2.ssbList.filter fun x => x.epoch != e })) = s.cores := by
  refine (List.map_congr_left fun p member => ?_).trans (List.map_id _)
  have empty := List.map_eq_nil_iff.mp (List.flatMap_eq_nil_iff.mp none_ p member)
  have all : p.2.ssbList.filter (fun x => x.epoch != e) = p.2.ssbList :=
    List.filter_eq_self.mpr fun x listed => by simpa using List.filter_eq_nil_iff.mp empty x listed
  rw [all]
  rfl

theorem State.specStep_done (idle : s.ssbRunning e = false) (none_ : s.listed e = []) {n : Nat} (now : s.epochState e = n) (busy : n = 3 ∨ n = 4)
    (written : n = 4 → s.recordsDue e = false) :
    s.specStep e = { s.setEpoch e (if n = 3 then 0 else 2) (s.epochDom e) with strands := s.strands.map (Strand.specDone e s.cycle) } := by
  have cores := State.unlisted_cores none_
  unfold State.specStep State.copiesDone
  dsimp only
  rw [none_, now, idle, if_neg (by simp; omega), if_neg Bool.false_ne_true]
  simp only [List.filter_nil, List.foldl_nil, none_, List.all_nil]
  rw [if_neg (by simpa using written), cores] <;> rfl

end Step

/-! ### COMMIT and CANCEL wait and complete -/

section Acts
variable {d a : BitVec 7} {s : State} {st : Strand} (cur : s.curStrand = some st) {e : Nat} (epoch : e = (st.s a).toNat % 256) (named : e ≠ 0)
  (opened : s.epochState e = 1) (own : s.epochDom e = st.pdom.toNat) (act : State → Nat → State) {y : Strand}
  (still : (act s e).strandAt st.at_ = some y) (name : y.sName d = st.sName d)
include cur epoch named opened own still

include name in
theorem spec_waits (waits : (act s e).ssbRunning e = true ∨ ((act s e).listed e = [] ∧ (act s e).epochState e = 4 ∧ (act s e).recordsDue e = true)) :
    spec d a act s =
      .next ((act s e).putStrand { y with blocked := some { wait := .spec e (st.sName d), len := 1, woken := false, since := (act s e).cycle } }) := by
  rw [spec_acts cur epoch act named opened own still, name]
  refine congrArg _ ?_
  obtain running | ⟨none_, cancels, due⟩ := waits
  · exact State.specStep_running running
  · exact State.specStep_due none_ cancels due

theorem spec_completes (idle : (act s e).ssbRunning e = false) (none_ : (act s e).listed e = []) {n : Nat} (now : (act s e).epochState e = n)
    (busy : n = 3 ∨ n = 4) (written : n = 4 → (act s e).recordsDue e = false) :
    ∃ u v, spec d a act s = .next u ∧ u.epochState e = (if n = 3 then 0 else 2) ∧ u.strandAt st.at_ = some v ∧
      y.WroteS v (act s e).cycle (y.past 1) d 1 ∧ u = { act s e with hg := { (act s e).hg with epochs := u.hg.epochs }, strands := u.strands } := by
  have place : y.at_ = st.at_ := by simpa using List.find?_some still
  have blocked : ((act s e).putStrand (y.block (act s e).cycle 1 false (.spec e (y.sName d)))).strandAt st.at_ =
      some (y.block (act s e).cycle 1 false (.spec e (y.sName d))) := by
    refine (find?_strands _ (fun x => ?_) _ _).trans (congrArg (Option.map _) still |>.trans (congrArg some (if_pos rfl)))
    split
    · next same => exact same.symm
    · rfl
  refine ⟨_, _, (spec_acts cur epoch act named opened own still).trans (congrArg _ (State.specStep_done
    (s := (act s e).putStrand (y.block (act s e).cycle 1 false (.spec e (y.sName d)))) idle none_ now busy written)),
    (State.epochState_set ..).trans (if_pos rfl), ?_, y.wroteS_retire .., rfl⟩
  exact (find?_strands _ (Strand.specDone_at e _) _ _).trans ((congrArg (Option.map _) blocked).trans (congrArg some (Strand.specDone_waiting ..)))

end Acts

/-- Settles O38, the last clause by an invariant of the tasks that a cancel ends. -/
theorem epochsOpenCommitAndCancel : Obligations.EpochsOpenCommitAndCancel := by
  unfold Obligations.EpochsOpenCommitAndCancel
  rintro d a s st cur e dom epoch rfl gives rfl
  refine ⟨fun n any low high free used => ?_, fun n any used low high cancelled before => ?_, fun any used => ?_, fun named may => ?_,
    fun named other => ?_, fun named busy => exec_specEpoch_again cur epoch named busy, fun not_open => ?_, fun named opened own => ?_, rfl,
    fun x member open_ unique => State.cancelEpoch_ends member open_ unique⟩
  · refine ⟨_, (exec_specEpoch_lowest cur epoch any (State.lowestEpoch_free low high free used)).trans ?_, st.wroteS_retire ..⟩
    rw [if_neg (by omega)]
  · refine ⟨_, (exec_specEpoch_lowest cur epoch any (State.lowestEpoch_cancelled used low high cancelled before)).trans ?_, st.wroteS_retire ..⟩
    rw [if_neg (by omega)]
  · exact ⟨_, exec_specEpoch_lowest cur epoch any (State.lowestEpoch_none used), st.wroteS_retire ..⟩
  · exact ⟨_, exec_specEpoch_opens cur epoch named may, st.wroteS_retire ..⟩
  · exact ⟨_, exec_specEpoch_refused cur epoch named other, st.wroteS_retire ..⟩
  · exact ⟨⟨_, spec_refused cur epoch State.commitEpoch not_open, st.wroteS_retire ..⟩,
      ⟨_, spec_refused cur epoch State.cancelEpoch not_open, st.wroteS_retire ..⟩⟩
  · simp only [List.forall_mem_cons, List.not_mem_nil, false_implies, implies_true, and_true]
    constructor
    · rintro t rfl y still name now
      refine ⟨fun waits => ?_, fun idle none_ written => ?_⟩
      · exact spec_waits cur epoch named opened own State.commitEpoch still name (waits.imp_right fun h => absurd h.2.1 (by decide))
      · exact spec_completes cur epoch named opened own State.commitEpoch still idle none_ now (.inl rfl) (fun h => absurd h (by decide))
    · rintro t rfl y still name now
      refine ⟨fun waits => ?_, fun idle none_ written => ?_⟩
      · exact spec_waits cur epoch named opened own State.cancelEpoch still name (waits.imp_right fun h => ⟨h.1, now, h.2.2⟩)
      · exact spec_completes cur epoch named opened own State.cancelEpoch still idle none_ now (.inr rfl) fun _ => written trivial

end Sys2Proof.Machine
end

section
namespace Sys2Proof.Machine

/-! ### A command starts, is read and waits for its barrier link (R234 to R239) -/

theorem State.startHead_starts {s : State} {d c u : Nat} {q : EngEntry} {rest : List EngEntry} (head : s.engine d c u = { queue := q :: rest, run := none })
    (goes : s.entryStopped q = false) (alone : q.group = 0) :
    s.startHead d c u = s.setEngine d c u { queue := rest, run := some (s.freshRun q) } := by
  unfold State.startHead
  simp only [head]
  rw [if_neg (by simp [goes]), if_pos alone]

theorem State.setEngine_runs {s : State} {d c u : Nat} (unit : u < 4) {q : EngEntry} {rest : List EngEntry} (goes : s.entryStopped q = false) :
    (s.setEngine d c u { queue := rest, run := some (s.freshRun q) }).Runs d c u (s.freshRun q) 0 where
  run := by rw [State.engine_setEngine _ _ _ _ unit]
  free := rfl
  goes := (State.entryStopped_setEngine ..).trans goes
  stage := rfl
  counted := fun h => absurd (show (0 : Nat) = 3 from h) (by decide)

/-- An engine's step is that of the state in which its head has started. -/
theorem State.engineStep_started {s t : State} {d c u : Nat} {r : EngRun} (starts : s.startHead d c u = t) (runs : (t.engine d c u).run = some r)
    (iter : State → EngCtx → EngRes EngRun) : s.engineStep d c u iter = t.engineStep d c u iter := by
  have same : s.startHead d c u = t.startHead d c u := starts.trans (t.startHead_running d c u r runs).symm
  unfold State.engineStep
  rw [same]

theorem State.mxOther_idle {s : State} {d c op : Nat} (idle : (s.engine d c 0).run = none) : s.mxOther d c op = false := by
  have idle' : (s.core d c).mx.run = none := idle
  unfold State.mxOther
  rw [idle']

theorem exec_engine_starts {s t : State} {d c u : Nat} {q : EngEntry} {rest : List EngEntry} (op : Nat) (unit : u < 4) (first : u = 3 → c % 4 = 0)
    (head : s.engine d c u = { queue := q :: rest, run := none }) (goes : s.entryStopped q = false) (alone : q.group = 0)
    (started : t = s.setEngine d c u { queue := rest, run := some (s.freshRun q) }) :
    t.Runs d c u (s.freshRun q) 0 ∧ exec (engineEvent d c u op) s = exec (engineEvent d c u op) t := by
  have runs : t.Runs d c u (s.freshRun q) 0 := started ▸ State.setEngine_runs unit goes
  obtain ⟨iter, before, after⟩ := engineEvent_step s t d c u op unit first (fun h => by subst h; exact State.mxOther_idle (by rw [head]))
    (fun h => by subst h; exact State.mxOther_running t d c _ _ runs.run (.inl (Nat.zero_lt_two)))
  exact ⟨runs, by rw [before, after, State.engineStep_started ((State.startHead_starts head goes alone).trans started.symm) runs.run]⟩

section Stages
variable {s : State} {d c u stage : Nat} {r : EngRun} (unit : u < 4) (first : u = 3 → c % 4 = 0) (runs : s.Runs d c u r stage)
include unit first runs

/-- The event of a command's own operation is a step of its engine. -/
theorem exec_engineEvent (own : stage < 2 ∨ (u = 0 → r.opc ≤ 1)) :
    ∃ iter, exec (engineEvent d c u r.opc) s = .next (s.engineStep d c u iter) := by
  have same (h : u = 0) : s.mxOther d c (if r.opc = 0 then 0 else 1) = false := by
    subst h
    refine s.mxOther_running d c r _ runs.run ?_
    obtain early | low := own
    · exact .inl (runs.stage ▸ early)
    · have := low rfl
      exact .inr (by split <;> omega)
  obtain ⟨iter, steps, -⟩ := engineEvent_step s s d c u r.opc unit first same same
  exact ⟨iter, steps⟩

end Stages

/-- A barrier of a resident bundle changes in the bundle alone. -/
theorem State.putBar_resident {s : State} {h n : Nat} {f : Bar → Bar} {b : Bundle} (found : s.bundle? h = some b) (resident : b.evicted = false) :
    s.putBar h n f = s.mapBundle h fun b => b.withBar n f := by
  have stands : (s.mapBar h n f).bundle? h = some (b.withBar n f) := by
    rw [State.bundle?_map (f := fun x => if x.handle = h then x.withBar n f else x) rfl fun x => by split <;> rfl, found]
    exact congrArg some (if_pos (State.bundle?_handle found))
  have resident' : (b.withBar n f).evicted = false := resident
  unfold State.putBar State.bwPut
  rw [stands]
  simp only [resident', Bool.false_and, Bool.false_eq_true, if_false]
  rfl

/-! ### One iteration of each engine (R241, R246 to R252, R254) -/

section Iterations
variable {s : State} {d c u : Nat} {r : EngRun}

/-- A command at stage 3 whose iteration succeeds has gone on to the next. -/
theorem State.engineStep_iterated (runs : s.Runs d c u r 3) (core : engCore c u = c) (other : u ≠ 2) {iter : State → EngCtx → EngRes EngRun} {t : State} {r' : EngRun}
    (ok : iter s { d := d, c := c, u := u, r := r } = .ok t r') : s.engineStep d c u iter = s.iterated t d c u r r' :=
  (s.engineStep_iter d c u r iter runs core t r' ok).trans (if_neg fun h => other h.1)

theorem exec_mx {i : Instr} (runs : s.Runs d c 0 r 3) (form : (r.opc = 0 ∧ i = .mxMma d c) ∨ (r.opc = 1 ∧ i = .mxMmac d c)) {t : State} {r' : EngRun}
    (ok : s.mxIter { d := d, c := c, u := 0, r := r } = .ok t r') : exec i s = .next (s.iterated t d c 0 r r') := by
  have step := State.engineStep_iterated runs rfl (by decide) ok
  obtain ⟨op, rfl⟩ | ⟨op, rfl⟩ := form
  all_goals exact congrArg Host.Outcome.next ((if_neg (by simp [s.mxOther_running d c r _ runs.run (.inr op)])).trans step)

theorem exec_ceCopy (runs : s.Runs d c 1 r 3) {t : State} {r' : EngRun} (ok : s.ceIter { d := d, c := c, u := 1, r := r } = .ok t r') :
    exec (.ceCopy d c) s = .next (s.iterated t d c 1 r r') :=
  congrArg Host.Outcome.next (State.engineStep_iterated runs rfl (by decide) ok)

theorem exec_qeQuant (runs : s.Runs d c 3 r 3) (first : c % 4 = 0) {t : State} {r' : EngRun} (ok : s.qeIter { d := d, c := c, u := 3, r := r } = .ok t r') :
    exec (.qeQuant d (c / 4)) s = .next (s.iterated t d c 3 r r') := by
  have cluster : 4 * (c / 4) = c := by omega
  refine congrArg Host.Outcome.next ?_
  rw [cluster]
  exact State.engineStep_iterated runs (engCore_self c 3 fun _ => first) (by decide) ok

theorem exec_ssbScan (runs : s.Runs d c 2 r 3) {t : State} {r' : EngRun} (ok : s.ssbIter { d := d, c := c, u := 2, r := r } = .ok t r') :
    exec (.ssbScan d c) s = .next (if r'.sub ≠ 0 then (s.charged t r).mapRun d c 2 fun old => { r' with tiles := old.tiles } else s.iterated t d c 2 r r') := by
  refine congrArg Host.Outcome.next ((s.engineStep_iter d c 2 r State.ssbIter runs rfl t r' ok).trans ?_)
  simp only [true_and]

end Iterations

/-- Two folds side by side are a fold of pairs. -/
theorem foldl_pair {α β γ : Type} (f : α → γ → α) (g : β → γ → β) (l : List γ) (a : α) (b : β) :
    l.foldl (fun p y => (f p.1 y, g p.2 y)) (a, b) = (l.foldl f a, l.foldl g b) := by
  induction l generalizing a b with
  | nil => rfl
  | cons y l ih => exact ih ..

/-- What an MX command needs for its iteration at block (m, n) of C and segment j (R241, R379). -/
structure State.MxReady (s : State) (x : EngCtx) (a b e : TileView) (m n j : Nat) : Prop where
  tileA : s.engTile x (x.r.f 223 192) = some a.t
  tileB : s.engTile x (x.r.f 255 224) = some b.t
  tileC : s.engTile x (x.r.f 287 256) = some e.t
  views : ∀ v ∈ [a, b, e], v = { t := v.t, mem := (s.core x.d x.c).opbuf, poison := (s.core x.d x.c).opPoison }
  usable : ∀ v ∈ [a, b, e], v.t.state = 2 ∨ (v.t.state = 3 ∧ x.r.begun = true)
  some_class : fmtClass a.t.fmt ≠ 0
  one_class : fmtClass a.t.fmt = fmtClass b.t.fmt
  result : e.t.fmt = 0
  blockM : (m : Int) = (x.r.f 303 288 : Nat) + x.r.strideSum 8 336 24 [0, 1, 2, 3, 4]
  blockN : (n : Int) = (x.r.f 319 304 : Nat) + x.r.strideSum 8 344 24 [0, 1, 2, 3, 4]
  segment : (j : Int) = (x.r.f 335 320 : Nat) + x.r.strideSum 8 352 24 [0, 1, 2, 3, 4]
  rowsA : 16 * m + 16 ≤ a.t.rows
  rowsB : 32 * n + 32 ≤ b.t.rows
  rowsC : 16 * m + 16 ≤ e.t.rows
  colsC : 32 * n + 32 ≤ e.t.cols
  segments : ∀ v ∈ [a, b], j < (v.t.cols + segLen v.t.fmt - 1) / segLen v.t.fmt
  cleanA : ∀ row ∈ (List.range 16).map (16 * m + ·), a.poisoned row j = false ∧ a.badScale row j = false
  cleanB : ∀ row ∈ (List.range 32).map (32 * n + ·), b.poisoned row j = false ∧ b.badScale row j = false
  cleanC : ¬ (x.r.opc = 0 ∧ (m, n) ∉ x.r.zeroed) → ∀ row ∈ (List.range 16).map (16 * m + ·),
    ∀ w ∈ wordsTouched (e.rowAt row + 4 * (32 * n)) 128, w ∉ (s.core x.d x.c).opPoison

/-- A row of the block of C after the iteration, and its flags: from zeros where the overwrite form meets the block first. -/
def mxRow (zero : Bool) (mem : List Host.Cell) (a b e : TileView) (n j row : Nat) : List Nat × BitVec 5 :=
  mmaRow (groupSize a.t b.t) (a.values row j) (((List.range 32).map (32 * n + ·)).map (b.values · j))
    ((List.range 32).map fun y => if zero = true then 0 else readNat mem (e.rowAt row + 4 * (32 * n) + 4 * y) 4)

theorem State.mxIter_updates {s : State} {x : EngCtx} {a b e : TileView} {m n j : Nat} (ready : s.MxReady x a b e m n j) {zero : Bool}
    (first : zero = decide (x.r.opc = 0 ∧ (m, n) ∉ x.r.zeroed)) {new : Nat → List Nat × BitVec 5}
    (rows : new = mxRow zero (s.core x.d x.c).opbuf a b e n j) :
    s.mxIter x = .ok ((((List.range 16).map (16 * m + ·)).foldl
        (fun t row => t.writeOpbuf x.d x.c (e.rowAt row + 4 * (32 * n)) ((new row).1.flatMap fun y => natBytesLE 4 y)) s).noteRun x 11 1)
      { x.r with flags := x.r.flags ||| ((List.range 16).map (16 * m + ·)).foldl (fun f row => f ||| (new row).2) 0,
                 zeroed := if (m, n) ∈ x.r.zeroed then x.r.zeroed else (m, n) :: x.r.zeroed } := by
  subst rows
  have use (v : TileView) (listed : v ∈ [a, b, e]) : (v.t.state = 2 || (v.t.state = 3 && x.r.begun)) = true := by simpa using ready.usable v listed
  have viewA := ready.views a (by simp)
  have viewB := ready.views b (by simp)
  have viewC := ready.views e (by simp)
  have segA := ready.segments a (by simp)
  have segB := ready.segments b (by simp)
  have fresh : (decide (x.r.opc = 0) && !x.r.zeroed.contains (m, n)) = zero := by simp [first]
  have cleanC (met : zero = false) := ready.cleanC (by simpa [met] using first)
  unfold State.mxIter
  simp only [ready.tileA, ready.tileB, ready.tileC, ← ready.blockM, ← ready.blockN, ← ready.segment, Int.toNat_natCast, ← viewA, ← viewB, ← viewC, fresh]
  rw [if_neg (by simp [use]), if_neg (by simp [ready.some_class, ← ready.one_class, ready.result])]
  rw [if_neg (by
    have := ready.rowsA
    have := ready.rowsB
    have := ready.rowsC
    have := ready.colsC
    simp
    omega)]
  rw [if_neg (by
    simp only [Bool.or_eq_true, List.any_eq_true, Bool.and_eq_true, Bool.not_eq_true', List.contains_iff_mem]
    rintro ((⟨row, member, bad⟩ | ⟨row, member, bad⟩) | ⟨met, row, member, w, touched, bad⟩)
    · exact Bool.false_ne_true ((ready.cleanA row member).1.symm.trans bad)
    · exact Bool.false_ne_true ((ready.cleanB row member).1.symm.trans bad)
    · exact cleanC met row member w touched bad)]
  rw [if_neg (by
    simp only [Bool.or_eq_true, List.any_eq_true]
    rintro (⟨row, member, bad⟩ | ⟨row, member, bad⟩)
    · exact Bool.false_ne_true ((ready.cleanA row member).2.symm.trans bad)
    · exact Bool.false_ne_true ((ready.cleanB row member).2.symm.trans bad))]
  simp only [List.contains_iff_mem]
  have pair := foldl_pair (fun (t : State) row => t.writeOpbuf x.d x.c (e.rowAt row + 4 * (32 * n))
      ((mxRow zero (s.core x.d x.c).opbuf a b e n j row).1.flatMap fun y => natBytesLE 4 y))
    (fun (f : BitVec 5) row => f ||| (mxRow zero (s.core x.d x.c).opbuf a b e n j row).2) ((List.range 16).map (16 * m + ·)) s 0
  unfold mxRow at pair ⊢
  rw [pair]

section Copy
variable {s u v w : State} {x : EngCtx} {g : Got} {ps : List EngPiece}
  (read : s.engRead x (addrOf ((x.r.f 248 192 : Nat) + 16 * x.r.strideSum 20 312 40 [1, 2, 3, 4])) (x.r.f 83 64) = .ok u g)
  (target : u.ceTarget x ((x.r.f 312 256 : Nat) + 16 * x.r.strideSum 20 332 40 [1, 2, 3, 4]) (x.r.f 83 64) = .ok v ps)
  (put : w = (v.engPut x g.bytes g.bad 0 ps).noteRun x 14 (x.r.f 83 64))
include read target put

/-- A run whose bytes no barrier counts. -/
theorem State.ceIter_plain (settled : x.r.count = none) (plain : x.r.bhnd = none ∨ x.r.pbd = false) : s.ceIter x = .ok w x.r := by
  have uncounted : (x.r.pbd && x.r.bhnd.isSome) = false := by
    obtain none_ | off := plain
    · simp [none_]
    · simp [off]
  have same : ({ x.r with count := none } : EngRun) = x.r := by rw [← settled]
  unfold State.ceIter
  simp only [read, EngRes.bind, target, uncounted, ← put, Bool.false_eq_true, if_false, Option.isSome_none, Bool.false_and, same]

variable {h : Nat} (bundle : x.r.bhnd = some h) (counts : x.r.pbd = true)
include bundle counts

/-- A run whose bytes have all reached their homes is counted at once. -/
theorem State.ceIter_landed (settled : x.r.count = none) (landed : ∀ y ∈ w.xwrites, v.nextId ≤ y.id → y.id < w.nextId → y.applied = true) :
    s.ceIter x = .ok (w.putBar h x.r.barNo fun y => { y with pend := y.pend - BitVec.ofNat 56 (x.r.f 83 64) }) x.r := by
  have same : ({ x.r with count := none } : EngRun) = x.r := by rw [← settled]
  have count : (if (x.r.pbd && x.r.bhnd.isSome) = true then some (v.nextId, w.nextId) else none) = some (v.nextId, w.nextId) :=
    if_pos (by simp [bundle, counts])
  have arrived : w.runLanded { x.r with count := some (v.nextId, w.nextId) } = true := by
    simpa [State.runLanded] using landed
  have counted : w.countRun { x.r with count := some (v.nextId, w.nextId) } =
      w.putBar h x.r.barNo fun y => { y with pend := y.pend - BitVec.ofNat 56 (x.r.f 83 64) } := by
    unfold State.countRun
    simp only [bundle]
    exact if_pos counts
  unfold State.ceIter
  simp only [read, EngRes.bind, target, ← put, count, Option.isSome_some, Bool.true_and, arrived, if_true, counted, same]

/-- Otherwise the run is counted later. -/
theorem State.ceIter_pending (pending : ∃ y ∈ w.xwrites, v.nextId ≤ y.id ∧ y.id < w.nextId ∧ y.applied = false) :
    s.ceIter x = .ok w { x.r with count := some (v.nextId, w.nextId) } := by
  have count : (if (x.r.pbd && x.r.bhnd.isSome) = true then some (v.nextId, w.nextId) else none) = some (v.nextId, w.nextId) :=
    if_pos (by simp [bundle, counts])
  have coming : w.runLanded { x.r with count := some (v.nextId, w.nextId) } = false := by
    simpa [State.runLanded, and_assoc] using pending
  unfold State.ceIter
  simp only [read, EngRes.bind, target, ← put, count, coming, Bool.and_false, Bool.false_eq_true, if_false]

end Copy

/-! ### A run that is still to be counted, and the end of a command (R239, R252) -/

/-- The barrier arrival of a command that ends (R239). -/
def State.arrives (s : State) (r : EngRun) : State :=
  match r.bhnd with
  | some h => if r.blnk then s.putBar h r.barNo fun x => { x with arr := if x.arr ≥ 1023 then x.arr else x.arr + 1 } else s
  | none => s

theorem State.arrives_eq {s t : State} {r : EngRun} (unlinked : r.blnk = false ∨ r.bhnd = none → t = s)
    (linked : ∀ h, r.bhnd = some h → r.blnk = true → t = s.putBar h r.barNo fun x => { x with arr := if x.arr ≥ 1023 then x.arr else x.arr + 1 }) :
    s.arrives r = t := by
  unfold State.arrives
  cases bundle : r.bhnd with
  | none => exact (unlinked (.inr bundle)).symm
  | some h =>
    cases link : r.blnk with
    | false => exact (unlinked (.inl link)).symm
    | true => exact (linked h bundle link).symm

section Ends
variable {s : State} {d c u : Nat} {r : EngRun} (run : (s.engine d c u).run = some r)
include run

/-- While bytes of a command's last run are on their way, its engine stands still. -/
theorem State.engineStep_counting {a b : Nat} (count : r.count = some (a, b)) (stage : r.stage = 3 ∨ r.stage = 4)
    (coming : ∃ w ∈ s.xwrites, a ≤ w.id ∧ w.id < b ∧ w.applied = false) (iter : State → EngCtx → EngRes EngRun) :
    s.engineStep d c u iter = s ∧ s.completeCommand d c u = s := by
  have landed : s.runLanded r = false := by simpa [State.runLanded, count, and_assoc] using coming
  have settle : s.settleRun d c u r = (s, false) := by simp [State.settleRun, count, landed]
  constructor
  · unfold State.engineStep
    rw [s.startHead_running d c u r run]
    simp only [run]
    obtain stage | stage := stage
    · simp [stage, settle]
    · simp [stage]
  · unfold State.completeCommand
    simp only [run]
    obtain stage | stage := stage
    · simp [stage]
    · simp [stage, settle]

theorem State.completeCommand_stopped (stopped : s.entryStopped r.entry = true) : s.completeCommand d c u = s := by
  unfold State.completeCommand
  simp only [run, stopped, Bool.true_or, if_true]

variable (goes : s.entryStopped r.entry = false) (arrived : ∀ pa va, r.entry.rdv = some (pa, va) → s.rdvComing pa none = false)
include goes arrived

/-- Steps 4 to 6 of a command that has iterated and whose bytes are all counted. -/
theorem State.completeCommand_iterated (counted : r.count = none) (stage : r.stage = 4) : s.completeCommand d c u =
    if r.rel && 2 ≤ r.scope && (s.core d (engCore c u)).outstanding != 0 then s
    else if r.eve then
      ({ s.arrives r with flagBuf := (s.arrives r).flagBuf ++ [((d, engCore c u), r.evf, true)] } : State).mapRun d c u fun r => { r with stage := 5 }
    else (s.arrives r).retireCommand d c u r := by
  have settle : s.settleRun d c u r = (s, true) := by simp [State.settleRun, counted]
  unfold State.completeCommand
  simp only [run, goes, stage, settle, Bool.false_or, if_true]
  cases rdv : r.entry.rdv with
  | none => rfl
  | some p =>
    simp only [arrived p.1 p.2 rdv, Bool.false_eq_true, if_false]
    rfl

theorem State.completeCommand_flagged (stage : r.stage = 5) (set_ : ((d, engCore c u), r.evf, true) ∉ s.flagBuf) :
    s.completeCommand d c u = s.retireCommand d c u r := by
  have landed : (decide (r.stage = 5) && !s.flagBuf.contains ((d, engCore c u), r.evf, true)) = true := by simp [stage, set_]
  have past : ¬ r.stage = 4 := by omega
  unfold State.completeCommand
  simp only [run, goes, past, landed, Bool.false_or, if_false, if_true]
  cases rdv : r.entry.rdv with
  | none => rfl
  | some p =>
    simp only [arrived p.1 p.2 rdv, Bool.false_eq_true, if_false]

end Ends

theorem exec_engineCommandComplete {s : State} {d c u : Nat} (unit : u < 3 ∨ (u = 3 ∧ c % 4 = 0)) :
    exec (.engineCommandComplete d (if u = 3 then c / 4 else c) u) s = .next (s.completeCommand d c u) := by
  refine congrArg (fun c => Host.Outcome.next (s.completeCommand d c u)) ?_
  split <;> omega

theorem State.retireCommand_plain {s : State} {d c u : Nat} {r : EngRun} (alone : r.entry.rdv = none) (kept : r.entry.engTask = false ∨ r.abandoned = false)
    (unbundled : r.entry.bundle = none) (unlinked : r.bhnd = none) : s.retireCommand d c u r =
      (s.setEngine d c u { s.engine d c u with run := none }).mapTask r.entry.task fun t => { t with engLeft := t.engLeft - 1, exc := t.exc ||| r.flags } := by
  have kept' : (r.entry.engTask && r.abandoned) = false := (Bool.and_eq_false_iff ..).mpr kept
  unfold State.retireCommand
  simp only [alone, kept', unbundled, unlinked, Bool.false_eq_true, if_false]

/-! ### ENGCTL and the tile-task ring (R243, R381) -/

theorem exec_engctl {s t : State} {d c u : Nat} {r : EngRun} {v : BitVec 32} (unit : u = (v.extractLsb' 4 2).toNat) (first : u = 3 → c % 4 = 0)
    (acts : v.getLsbD 9 = true) (selects : t = s.setCore d c { s.core d c with engSel := v.extractLsb' 4 2, engHold := v.getLsbD 0 })
    (run : (t.engine d c u).run = some r) (held : r.held.isSome = true) :
    (v.getLsbD 8 = true → exec (.engctlResume d c v) s = .next ((t.clearHeld d c u (t.engTaskId r)).mapRun d c u fun r => { r with held := none })) ∧
    (v.getLsbD 8 = false → exec (.engctlAbandon d c v) s = .next ((t.clearHeld d c u (t.engTaskId r)).abandon d c u r)) := by
  have stays : r.held.isNone = false := by cases h : r.held <;> simp_all
  have here : (!v.getLsbD 9 || (decide (u = 3) && c % 4 != 0)) = false := by
    simpa [acts] using first
  have writes : s.writeEngctl d c v = if v.getLsbD 8 then (t.clearHeld d c u (t.engTaskId r)).mapRun d c u fun r => { r with held := none }
      else (t.clearHeld d c u (t.engTaskId r)).abandon d c u r := by
    unfold State.writeEngctl
    simp only [← unit, ← selects, here, run, stays, Bool.false_eq_true, if_false]
  constructor
  · intro resume
    refine congrArg Host.Outcome.next ((if_pos (by rw [acts, resume]; rfl)).trans (writes.trans (if_pos resume)))
  · intro abandon
    refine congrArg Host.Outcome.next ((if_pos (by rw [acts, abandon]; rfl)).trans (writes.trans (if_neg (by rw [abandon]; decide))))

/-- What the tile-task ring needs for its next record to enter the queue of its MX (R243). -/
structure State.RingReady (s : State) (d c h rec_ : Nat) (u v w : State) (bs rs : List Byte) : Prop where
  header : bitsNat (s.core d c).mxring.toNat 56 5 * 32 ≠ 0
  reads : (s.core d c).ringStopped = false
  free : (s.core d c).mx.queue.length + (if (s.core d c).mx.run.isSome = true then 1 else 0) < 16
  seen : s.hgRead 0 0 0 (bitsNat (s.core d c).mxring.toNat 56 5 * 32) 32 = .ok u bs
  word : h = bytesNat bs
  filled : bitsNat h 151 128 ≠ bitsNat h 119 96
  place : rec_ = (bitsNat h 56 0 + 64 * (bitsNat h 151 128 % max (bitsNat h 80 64) 1)) % 2 ^ 57
  record : u.hgRead 0 0 0 rec_ 64 = .ok v rs
  tiles : ∀ y ∈ [bitsNat (BitVec.ofNat 512 (bytesNat rs)).toNat 223 192, bitsNat (BitVec.ofNat 512 (bytesNat rs)).toNat 255 224,
    bitsNat (BitVec.ofNat 512 (bytesNat rs)).toNat 287 256], ∀ t, v.tile y = some t → t.pdom = bitsNat h 95 88 → handleDie y = d → handleCore y = c → t.state = 2
  taken : v.unitWrite 0 none 0 0 0 (bitsNat (s.core d c).mxring.toNat 56 5 * 32 + 16) (natBytesLE 3 (bitsNat h 151 128 + 1)) = .ok w ()

theorem exec_mxringTailObserve {s u v w : State} {d c h rec_ : Nat} {bs rs : List Byte} (ready : s.RingReady d c h rec_ u v w bs rs) :
    exec (.mxringTailObserve d c) s = .next (w.gxRelease.setCore d c { w.gxRelease.core d c with
      mx := { (w.gxRelease.core d c).mx with queue := (w.gxRelease.core d c).mx.queue ++ [
        { record := rec_, task := 0, pdom := bitsNat h 95 88, partid := bitsNat h 87 84, bundle := none, group := 0, engines := 0, rdv := none, engTask := false,
          ring := some (BitVec.ofNat 512 (bytesNat rs)) }] }, ringTail := bitsNat h 119 96 }) := by
  obtain ⟨header, reads, free, seen, rfl, filled, rfl, record, tiles, taken⟩ := ready
  have room : s.queueFree d c 0 = true := decide_eq_true free
  refine congrArg Host.Outcome.next ?_
  dsimp only
  rw [if_neg (by simp [header, reads, room])]
  simp only [seen]
  rw [if_neg filled]
  simp only [record]
  rw [if_neg (by
    rw [Bool.not_eq_true, Bool.not_eq_false']
    refine List.all_eq_true.mpr fun y listed => ?_
    split
    · next t live =>
      have := tiles y listed t live
      grind
    · rfl)]
  simp only [taken]

/-! ### The SSB (R246) -/

theorem EngRes.ok_bind {α β : Type} (s : State) (y : α) (f : State → α → EngRes β) : (EngRes.ok s y).bind f = f s y := rfl

/-- The state that a step of the SSB starts from: what stands in the engine, zeros at a reset, or what its slot holds. -/
theorem State.ssbState_found {s t : State} {x : EngCtx} {sub size slot : Nat} {held sb : List Nat} {reset : Bool}
    (kept : sub ≠ 0 ∧ held ≠ [] → t = s ∧ sb = held) (zeros : sub = 0 ∧ reset = true → t = s ∧ sb = List.replicate size 0)
    (loads : ¬ (sub ≠ 0 ∧ held ≠ []) → ¬ (sub = 0 ∧ reset = true) → ∃ bs, s.engReadGood x slot (4 * size) = .ok t bs ∧ sb = patterns .f32 bs size) :
    (if sub != 0 && !held.isEmpty then EngRes.ok s held else if sub = 0 && reset then .ok s (List.replicate size 0)
      else (s.engReadGood x slot (4 * size)).bind fun s sb => .ok s (patterns .f32 sb size)) = .ok t sb := by
  by_cases keeps : sub ≠ 0 ∧ held ≠ []
  · obtain ⟨rfl, rfl⟩ := kept keeps
    exact if_pos (by simpa using keeps)
  · rw [if_neg (by simpa using keeps)]
    by_cases clears : sub = 0 ∧ reset = true
    · obtain ⟨rfl, rfl⟩ := zeros clears
      exact if_pos (by simpa using clears)
    · obtain ⟨bytes, read, rfl⟩ := loads keeps clears
      rw [if_neg (by simpa using clears), read, EngRes.ok_bind]

theorem State.slotPieces_checked {s u v : State} {x : EngCtx} {b : Sscb} {pc ps : List EngPiece}
    (committed : (if x.r.epoch = 0 then s.engMayWrite x b.sca (4 * (b.hh * b.pp * b.nn)) else .ok s []) = .ok u pc)
    (speculative : u.engMayWrite x b.ssa (4 * (b.hh * b.pp * b.nn)) = .ok v ps) : s.slotPieces x b = .ok v (pc, ps) := by
  unfold State.slotPieces
  dsimp only
  rw [committed, EngRes.ok_bind, speculative, EngRes.ok_bind]

/-- Settles O50: each clause by the stage of the command it speaks of. -/
theorem enginesRunCommands : Obligations.EnginesRunCommands := by
  unfold Obligations.EnginesRunCommands
  intro s d c r x place
  refine ⟨fun u op q rest t unit first head goes alone started => exec_engine_starts op unit first head goes alone started,
    fun u t m unit first runs read => ?_, fun h n f b => State.putBar_resident, fun u unit low first runs => ?_, ?_, ?_, ?_, ?_, ?_, ?_,
    fun v u t unit first acts selects run held => exec_engctl unit first acts selects run held, ?_⟩
  · simp only [place] at read
    obtain ⟨iter, step⟩ := exec_engineEvent unit first runs (.inl Nat.zero_lt_two)
    rw [step, s.engineStep_record d c u r iter runs (engCore_self c u first) t m read]
  · obtain ⟨iter, step⟩ := exec_engineEvent unit first runs (.inr low)
    rw [step, s.engineStep_link d c u r iter runs (engCore_self c u first)]
    exact ⟨fun met => by rw [if_pos met], fun unmet => by rw [if_neg (by simp [unmet])]⟩
  · rintro runs i k form rfl a b e m n j view rfl viewA viewB viewC tileA tileB tileC usable some_class one_class result blockM blockN segment
      rowsA rowsB rowsC colsC segments zero _ _ at_ first rfl rfl rfl cleanA cleanB old new rfl rows
    simp only [place] at tileA tileB tileC ⊢
    refine exec_mx runs form (State.mxIter_updates ?_ first rows)
    exact
      { tileA, tileB, tileC, usable, some_class, one_class, result, blockM, blockN, segment, rowsA, rowsB, rowsC, colsC, segments,
        views := by simpa using ⟨viewA, viewB, viewC⟩
        cleanA := fun row member => ⟨(cleanA row member).1, (cleanA row member).2.1⟩
        cleanB := cleanB
        cleanC := fun again row member => (cleanA row member).2.2 (first.trans (decide_eq_false again)) }
  · rintro runs n u v w g ps rfl read target put
    simp only [place] at read target put
    have settled := runs.counted runs.stage
    refine ⟨fun plain => exec_ceCopy runs (State.ceIter_plain read target put settled plain), fun h bundle counts => ⟨fun landed => ?_, fun pending => ?_⟩⟩
    · exact exec_ceCopy runs (State.ceIter_landed read target put bundle counts settled landed)
    · exact exec_ceCopy runs (State.ceIter_pending read target put bundle counts pending)
  · intro a b count stage run coming
    obtain ⟨step, complete⟩ := State.engineStep_counting run count stage coming State.ceIter
    exact ⟨congrArg _ step, congrArg _ complete⟩
  · rintro runs first t row blk es f u bs xs scale at_ h q rfl tile rfl rfl rowAt blkAt inRows inBlocks read rfl rfl rfl rfl v w rfl rfl
    simp only [place] at tile read
    refine exec_qeQuant runs first ?_
    unfold State.qeIter
    simp only [tile, ← rowAt, ← blkAt, Int.toNat_natCast]
    rw [if_neg (by simp; omega)]
    simp only [read, EngRes.bind]
  · rintro runs sv u v bs b k svIs aligned copies read bIs good sep enters rfl form q e o hh pp nn size slot t tIs formIs qIs eIs oIs hhIs ppIs nnIs sizeIs slotIs
      u1 u2 u3 u4 u5 u6 u7 xb db bb cb ab dd sb readX readD readB readC readA readK kept zeros loads one outs yb new st oneIs outsIs ybIs newIs stIs
      v1 v2 v3 v4 y z py pc ps pe mayY mayC mayS mayE yIs zIs r' w rIs wIs
    simp only [place] at copies read readX readD readB readC readA readK mayY mayC mayS mayE loads yIs zIs wIs ⊢
    refine exec_ssbScan runs ?_
    have enters' : (if (decide (r.epoch = 0) || r.entered) = true then some (u.core d c) else (u.core d c).enterSscb
        { sscb := sv, epoch := r.epoch, pdom := r.entry.pdom, partid := r.entry.partid, bundle := r.entry.bundle, pos := 0, done := none }) = some k := by
      simpa only [Bool.or_eq_true, decide_eq_true_eq] using enters
    have loaded := State.ssbState_found kept zeros loads
    rw [sizeIs, hhIs, ppIs, nnIs] at mayC mayS
    have slots := State.slotPieces_checked (x := { d := d, c := c, u := 2, r := r }) mayC mayS
    unfold State.ssbIter
    dsimp only
    rw [← svIs, if_neg (by simp [aligned]), copies, if_neg Bool.false_ne_true, read, EngRes.ok_bind, ← bIs, good, if_neg Bool.false_ne_true,
      if_neg (by simpa [Classical.or_iff_not_imp_left] using sep), enters']
    dsimp only
    simp only [← tIs, ← formIs]
    simp only [← qIs, ← eIs, ← oIs, ← hhIs, ← ppIs, ← nnIs, ← sizeIs, ← slotIs]
    simp only [readX, EngRes.ok_bind, readD, readB, readC, readA, readK]
    rw [loaded, EngRes.ok_bind]
    simp only [ite_apply] at oneIs
    simp only [← oneIs, ← outsIs, ← ybIs, ← newIs, mayY, EngRes.ok_bind]
    rw [slots, EngRes.ok_bind, mayE, EngRes.ok_bind, rIs, wIs, zIs, yIs, stIs]
    by_cases more : t + q < b.ll
    · simp only [more, decide_true, Bool.not_true, Bool.false_eq_true, if_false, if_true]
    · simp only [more, decide_false, Bool.not_false, if_false, if_true]
      rfl
  · rintro u unit i rfl run
    have complete := exec_engineCommandComplete (s := s) (d := d) unit
    have core : engCore c u = c := engCore_self c u fun h => by omega
    refine ⟨fun stopped => ?_, fun goes arrived counted => ⟨fun stage released t unlinked linked => ?_, fun stage rel wide out => ?_, fun stage set_ => ?_⟩,
      State.retireCommand_plain⟩
    · exact complete.trans (congrArg _ (State.completeCommand_stopped run stopped))
    · have past : (r.rel && decide (2 ≤ r.scope) && (s.core d c).outstanding != 0) = false := by
        obtain off | narrow | none_ := released
        · simp [off]
        · simp [narrow]
        · simp [none_]
      have ends := State.completeCommand_iterated run goes arrived counted stage
      rw [core, past, if_neg Bool.false_ne_true, State.arrives_eq unlinked linked] at ends
      exact ⟨fun plain => complete.trans (congrArg _ (ends.trans (if_neg (by simp [plain])))),
        fun event => complete.trans (congrArg _ (ends.trans (if_pos event)))⟩
    · have ends := State.completeCommand_iterated run goes arrived counted stage
      rw [core, if_pos (by simp [rel, wide, out])] at ends
      exact complete.trans (congrArg _ ends)
    · exact complete.trans (congrArg _ (State.completeCommand_flagged run goes arrived stage (by rwa [core])))
  · rintro k hdr h head size rec_ u v w bs rs m rfl rfl header reads free seen word rfl filled rfl place record rfl tiles taken q rfl
    exact exec_mxringTailObserve { header, reads, free, seen, word, filled, place, record, tiles, taken }

end Sys2Proof.Machine
end
